-- ==== Sys2Proof/Syntax.lean ====
section
/-! DEFINITION. The commands of the block: the one inductive `Instr`, one constructor for each row of
spec/opcode_table.json, with the operands a command carries. A unit number is a `Fin` of the number of units the
spec gives, a field of an encoded word is a `BitVec` of its width. -/

namespace Sys2Proof

/-- A physical engine, 0 to 118 (Table 2.1). -/
abbrev Eng := Fin 119

/-- Who makes a register access: the host through BAR0, or the management port (R383). -/
inductive Port where
  | host
  | mgt
  deriving DecidableEq, Repr

/-- The immediate fields every stream instruction shares (Table 3.4). -/
structure StreamImm where
  g    : BitVec 4
  ncap : BitVec 12
  adv  : Bool
  deriving DecidableEq, Repr

/-- The cause of an engine fault (R62), numbered as ENG_FAULT numbers its bits. -/
inductive FaultCause where
  | code
  | wdog
  | hang
  | tile
  deriving DecidableEq, Repr

/-- A raw transition of an input: its date as a count, and for how many samples of the filter its level then stays
(R196, R204). -/
structure RawEdge where
  date : Nat
  held : Nat
  deriving DecidableEq, Repr

/-- A serial poll: a date for the first one, the clocks a BiSS-C sensor lets pass before its start bit, and the counts of
the sensor's timeout (R201). -/
structure PollTiming where
  date    : Nat
  wait    : Nat
  timeout : Nat
  deriving DecidableEq, Repr

/-- An SMBus SEL: the address, and the PEC if one is sent (R387). -/
structure SmbSel where
  addr : BitVec 32
  pec  : Option (BitVec 8)
  deriving DecidableEq, Repr

/-- What a serial position port receives for one poll (R201): whether the sensor answered and the frame is complete,
the data bits as received, the error and warning bits, the CRC as received, and the count of the first clock edge. -/
structure SerialFrame where
  answered : Bool
  complete : Bool
  raw      : BitVec 48
  nE       : Bool
  nW       : Bool
  crc      : BitVec 6
  date     : Nat
  deriving DecidableEq, Repr

/-- The source the output router takes its next item from (Table 10.1). -/
inductive OutSrc where
  | unit (k : Fin 16)
  | stats
  | crops
  | records
  deriving DecidableEq, Repr

/-- A received acknowledgement datagram (Table 10.11): where it came from, its payload length in bytes and its words. -/
structure AckFrame where
  v6    : Bool
  addr  : BitVec 128
  port  : BitVec 16
  bytes : Nat
  words : List (BitVec 64)
  deriving DecidableEq, Repr

/-- The source of a hub transaction (R310, Table 11.2). -/
inductive HubSrc where
  | host
  | engine (e : Eng)
  | dma (u : Fin 4)
  | endpoint (ep : Fin 128)
  | mgt
  | shadow
  deriving DecidableEq, Repr

/-- What a retraining slice finds on the 72 lanes of a channel (R330): the lowest and the highest passing setting of each,
from its present one; a highest below the lowest says that none passes. -/
structure SliceMeasure where
  lo : List Int
  hi : List Int
  deriving DecidableEq, Repr

/-- What the servo of the management firmware does with a PTP event message (R378: it steers by R371 and R372). -/
inductive ServoAct where
  | none
  | step (v : BitVec 64)
  | rate (v : BitVec 64)
  deriving DecidableEq, Repr

/-- The PTP event messages: Sync, and those of the end-to-end and of the peer-to-peer delay mechanism. -/
inductive PtpKind where
  | sync
  | delay
  | pdelay
  deriving DecidableEq, Repr

/-- A PTP event message at the management port: its kind, its domain and transport, the count of its timestamp point, what
the protocol makes of it, and the servo's action. -/
structure PtpMsg where
  kind   : PtpKind
  domain : BitVec 8
  transport : BitVec 2
  date   : Nat
  state  : BitVec 8
  master : BitVec 64
  offset : BitVec 64
  delay  : BitVec 64
  act    : ServoAct
  deriving DecidableEq, Repr

/-- One sensor sample: the entry of the sensor table and the value (Table 14.3). -/
structure SensorSample where
  i     : Fin 128
  value : BitVec 16
  deriving DecidableEq, Repr

/-- The argument of PTP_SET (Tables 13.2 and 14.6). -/
structure PtpCfg where
  domain    : BitVec 8
  transport : BitVec 2
  peer      : Bool
  logSync   : Int
  logDelay  : Int
  priority1 : BitVec 8
  priority2 : BitVec 8
  deriving DecidableEq, Repr

/-- The argument of NET_SET (Table 14.6). -/
structure NetCfg where
  mac : BitVec 48
  ip4 : BitVec 32
  ip6 : BitVec 128
  deriving DecidableEq, Repr

/-- The three host resets (R414), in the order GLB_RSTCAUSE numbers them. -/
inductive HostResetKind where
  | hot
  | linkDown
  | flr
  deriving DecidableEq, Repr

/-- The commands. The docstring of each constructor is the summary its row of spec/opcode_table.json gives. -/
inductive Instr where
  /-- REGISTER_WRITE (R7): A host or management-port write to a register that has no row of its own sets its fields according to their access codes. -/
  | registerWrite (port : Port) (off size : Nat) (v : BitVec 64)
  /-- INVALID_REGISTER_ACCESS (R5): A narrow, unaligned or undefined-offset register access reads zeros, has no write effect and raises event 0x0001. -/
  | invalidRegisterAccess (port : Port) (off size : Nat) (wr : Option (BitVec 64))
  /-- READ_CLEAR (R7): A read of an RC field returns its value and then clears it. -/
  | readClear (port : Port) (off size : Nat)
  /-- ADD (R42): Writes A + B to sD. -/
  | add (e : Eng) (g : BitVec 4) (d a b : BitVec 6)
  /-- SUB (R42): Writes A − B to sD. -/
  | sub (e : Eng) (g : BitVec 4) (d a b : BitVec 6)
  /-- AND (R42): Writes A AND B to sD. -/
  | and (e : Eng) (g : BitVec 4) (d a b : BitVec 6)
  /-- OR (R42): Writes A OR B to sD. -/
  | or (e : Eng) (g : BitVec 4) (d a b : BitVec 6)
  /-- XOR (R42): Writes A XOR B to sD. -/
  | xor (e : Eng) (g : BitVec 4) (d a b : BitVec 6)
  /-- SHL (R42): Writes A shifted left by B[5:0] to sD. -/
  | shl (e : Eng) (g : BitVec 4) (d a b : BitVec 6)
  /-- SHR (R42): Writes A shifted right by B[5:0] with zero fill to sD. -/
  | shr (e : Eng) (g : BitVec 4) (d a b : BitVec 6)
  /-- SAR (R42): Writes A shifted right by B[5:0] with sign fill to sD. -/
  | sar (e : Eng) (g : BitVec 4) (d a b : BitVec 6)
  /-- MUL (R42): Writes the low 64 bits of A × B to sD. -/
  | mul (e : Eng) (g : BitVec 4) (d a b : BitVec 6)
  /-- MULH (R42): Writes the high 64 bits of the signed product to sD. -/
  | mulh (e : Eng) (g : BitVec 4) (d a b : BitVec 6)
  /-- MULHU (R42): Writes the high 64 bits of the unsigned product to sD. -/
  | mulhu (e : Eng) (g : BitVec 4) (d a b : BitVec 6)
  /-- MIN (R42): Writes the signed minimum of A and B to sD. -/
  | min (e : Eng) (g : BitVec 4) (d a b : BitVec 6)
  /-- MAX (R42): Writes the signed maximum of A and B to sD. -/
  | max (e : Eng) (g : BitVec 4) (d a b : BitVec 6)
  /-- MINU (R42): Writes the unsigned minimum of A and B to sD. -/
  | minu (e : Eng) (g : BitVec 4) (d a b : BitVec 6)
  /-- MAXU (R42): Writes the unsigned maximum of A and B to sD. -/
  | maxu (e : Eng) (g : BitVec 4) (d a b : BitVec 6)
  /-- ADDS (R42): Writes the signed saturated sum to sD. -/
  | adds (e : Eng) (g : BitVec 4) (d a b : BitVec 6)
  /-- SUBS (R42): Writes the signed saturated difference to sD. -/
  | subs (e : Eng) (g : BitVec 4) (d a b : BitVec 6)
  /-- CLZ (R42): Writes the leading-zero count of A to sD. -/
  | clz (e : Eng) (g : BitVec 4) (d a : BitVec 6)
  /-- POPC (R42): Writes the number of 1 bits of A to sD. -/
  | popc (e : Eng) (g : BitVec 4) (d a : BitVec 6)
  /-- ADDI (R42): Writes A plus the sign-extended immediate to sD. -/
  | addi (e : Eng) (d a : BitVec 6) (imm : BitVec 34)
  /-- ANDI (R42): Writes A AND the immediate to sD. -/
  | andi (e : Eng) (d a : BitVec 6) (imm : BitVec 34)
  /-- ORI (R42): Writes A OR the immediate to sD. -/
  | ori (e : Eng) (d a : BitVec 6) (imm : BitVec 34)
  /-- XORI (R42): Writes A XOR the immediate to sD. -/
  | xori (e : Eng) (d a : BitVec 6) (imm : BitVec 34)
  /-- SHLI (R42): Writes A shifted left by IMM[5:0] to sD. -/
  | shli (e : Eng) (d a : BitVec 6) (n : BitVec 6)
  /-- SHRI (R42): Writes A shifted right by IMM[5:0] with zero fill to sD. -/
  | shri (e : Eng) (d a : BitVec 6) (n : BitVec 6)
  /-- SARI (R42): Writes A shifted right by IMM[5:0] with sign fill to sD. -/
  | sari (e : Eng) (d a : BitVec 6) (n : BitVec 6)
  /-- MULI (R42): Writes the low 64 bits of A times the immediate to sD. -/
  | muli (e : Eng) (d a : BitVec 6) (imm : BitVec 34)
  /-- MINI (R42): Writes the signed minimum of A and the immediate to sD. -/
  | mini (e : Eng) (d a : BitVec 6) (imm : BitVec 34)
  /-- MAXI (R42): Writes the signed maximum of A and the immediate to sD. -/
  | maxi (e : Eng) (d a : BitVec 6) (imm : BitVec 34)
  /-- MOVI (R42): Writes the sign-extended immediate to sD. -/
  | movi (e : Eng) (d : BitVec 6) (imm : BitVec 34)
  /-- SETHI (R42): Replaces bits [63:34] of A with IMM[29:0] and writes the result to sD. -/
  | sethi (e : Eng) (d a : BitVec 6) (h : BitVec 30)
  /-- EXT (R42): Writes the bit field of length len at position pos of A to sD. -/
  | ext (e : Eng) (d a : BitVec 6) (pos : BitVec 6) (len : BitVec 7)
  /-- INS (R42): Inserts A[len−1:0] into sD at bit position pos. -/
  | ins (e : Eng) (d a : BitVec 6) (pos : BitVec 6) (len : BitVec 7)
  /-- CLAMP (R42): Writes signed A limited to 0 to the unsigned immediate to sD. -/
  | clamp (e : Eng) (d a : BitVec 6) (imm : BitVec 34)
  /-- CMP_EQ (R42): Sets pD to A = B. -/
  | cmpEq (e : Eng) (g : BitVec 4) (pd : BitVec 3) (a b : BitVec 6)
  /-- CMP_NE (R42): Sets pD to A ≠ B. -/
  | cmpNe (e : Eng) (g : BitVec 4) (pd : BitVec 3) (a b : BitVec 6)
  /-- CMP_LT (R42): Sets pD to signed A < B. -/
  | cmpLt (e : Eng) (g : BitVec 4) (pd : BitVec 3) (a b : BitVec 6)
  /-- CMP_LTU (R42): Sets pD to unsigned A < B. -/
  | cmpLtu (e : Eng) (g : BitVec 4) (pd : BitVec 3) (a b : BitVec 6)
  /-- CMP_LE (R42): Sets pD to signed A ≤ B. -/
  | cmpLe (e : Eng) (g : BitVec 4) (pd : BitVec 3) (a b : BitVec 6)
  /-- CMP_LEU (R42): Sets pD to unsigned A ≤ B. -/
  | cmpLeu (e : Eng) (g : BitVec 4) (pd : BitVec 3) (a b : BitVec 6)
  /-- CMPI_EQ (R42): Sets pD to A equal to the immediate. -/
  | cmpiEq (e : Eng) (pd : BitVec 3) (a : BitVec 6) (imm : BitVec 34)
  /-- CMPI_NE (R42): Sets pD to A not equal to the immediate. -/
  | cmpiNe (e : Eng) (pd : BitVec 3) (a : BitVec 6) (imm : BitVec 34)
  /-- CMPI_LT (R42): Sets pD to signed A less than the immediate. -/
  | cmpiLt (e : Eng) (pd : BitVec 3) (a : BitVec 6) (imm : BitVec 34)
  /-- CMPI_LTU (R42): Sets pD to unsigned A less than the immediate. -/
  | cmpiLtu (e : Eng) (pd : BitVec 3) (a : BitVec 6) (imm : BitVec 34)
  /-- CMPI_LE (R42): Sets pD to signed A at most the immediate. -/
  | cmpiLe (e : Eng) (pd : BitVec 3) (a : BitVec 6) (imm : BitVec 34)
  /-- CMPI_LEU (R42): Sets pD to unsigned A at most the immediate. -/
  | cmpiLeu (e : Eng) (pd : BitVec 3) (a : BitVec 6) (imm : BitVec 34)
  /-- PAND (R42): Sets pD to pA AND pB. -/
  | pand (e : Eng) (pd pa pb : BitVec 3)
  /-- POR (R42): Sets pD to pA OR pB. -/
  | por (e : Eng) (pd pa pb : BitVec 3)
  /-- PXOR (R42): Sets pD to pA XOR pB. -/
  | pxor (e : Eng) (pd pa pb : BitVec 3)
  /-- PANDN (R42): Sets pD to pA AND NOT pB. -/
  | pandn (e : Eng) (pd pa pb : BitVec 3)
  /-- PSET (R42): Sets pD to IMM[0]. -/
  | pset (e : Eng) (pd : BitVec 3) (b : Bool)
  /-- RD (R42): Reads the selected special register into sD. -/
  | rd (e : Eng) (d : BitVec 6) (sel : BitVec 8)
  /-- NOP (R42): Does nothing for one cycle. -/
  | nop (e : Eng)
  /-- BR (R44): Continues forward at pc + offset when its guard reads 1. -/
  | br (e : Eng) (g : BitVec 4) (off : BitVec 14)
  /-- LOOP (R43): Runs its body the immediate count of times. -/
  | loop (e : Eng) (n : BitVec 20) (len : BitVec 14)
  /-- LOOPR (R43): Runs its body min(A, clamp) times and sets pD when A exceeds the clamp. -/
  | loopr (e : Eng) (pd : BitVec 3) (a : BitVec 6) (m : BitVec 20) (len : BitVec 14)
  /-- WTICK (R50): Ends the band once all copies and stream work have completed: writes the checkpoint, posts releases and returns credits. -/
  | wtick (e : Eng)
  /-- LDS (R47): Loads 64 bits from the aligned scratch address into sD. -/
  | lds (e : Eng) (g : BitVec 4) (d a : BitVec 6) (off : BitVec 24)
  /-- STS (R47): Stores B to the aligned scratch address. -/
  | sts (e : Eng) (g : BitVec 4) (b a : BitVec 6) (off : BitVec 24)
  /-- LDW (R49): Waits until line group A of the load entry bound to dD is in scratch. -/
  | ldw (e : Eng) (dd : BitVec 4) (a : BitVec 6)
  /-- HLD (R48): Issues a hub-to-scratch copy of R rows. -/
  | hld (e : Eng) (g : BitVec 4) (dd da : BitVec 4) (rows : BitVec 12)
  /-- HST (R48): Issues a scratch-to-hub copy of R rows. -/
  | hst (e : Eng) (g : BitVec 4) (dd da : BitVec 4) (rows : BitVec 12)
  /-- COPY_COMPLETE (R48): An hld, hst or cgat copy completes and releases any copy interlock waiting on it. -/
  | copyComplete (e : Eng) (k : Nat)
  /-- PUSH (R46): Appends word A to the open packet of qD, stalling while the lane is full. -/
  | push (e : Eng) (g : BitVec 4) (q : BitVec 4) (a : BitVec 6)
  /-- PUSHR (R47): Appends 8 scratch words at a 64-byte-aligned address to the open packet. -/
  | pushr (e : Eng) (g : BitVec 4) (q : BitVec 4) (a : BitVec 6)
  /-- CHAIN_SPACE_FREED (R345): Lane space returned to a producer resumes a push stalled on a full lane. -/
  | chainSpaceFreed (c : Fin 256) (ep : Fin 128)
  /-- COMMIT (R342): Makes the open packet of qD visible to its consumer. -/
  | commit (e : Eng) (g : BitVec 4) (q : BitVec 4)
  /-- REWIND (R342): Discards the open packet of qD and returns its space. -/
  | rewind (e : Eng) (g : BitVec 4) (q : BitVec 4)
  /-- POP (R45): Returns the next snapshot word of qA, or the idle item. -/
  | pop (e : Eng) (g : BitVec 4) (d : BitVec 6) (q : BitVec 4)
  /-- CRED (R46): Returns the words qA may still push in this band. -/
  | cred (e : Eng) (g : BitVec 4) (d : BitVec 6) (q : BitVec 4)
  /-- CNT (R45): Returns the snapshot words of qA not yet popped. -/
  | cnt (e : Eng) (g : BitVec 4) (d : BitVec 6) (q : BitVec 4)
  /-- FENCE (R42): Waits for the engine's outstanding tile work and copies selected by the mask. -/
  | fence (e : Eng) (mask : BitVec 3)
  /-- EVENT (R42): Raises event 0xD800 + IMM[10:0]. -/
  | event (e : Eng) (g : BitVec 4) (code : BitVec 11)
  /-- DLO (R85): Writes word w0 of descriptor dD. -/
  | dlo (e : Eng) (g : BitVec 4) (dd : BitVec 4) (a : BitVec 6)
  /-- DHI (R85): Writes word w1 of descriptor dD. -/
  | dhi (e : Eng) (g : BitVec 4) (dd : BitVec 4) (a : BitVec 6)
  /-- DFMT (R78): Writes w0[63:41] of dD without disturbing ADDR or LOC. -/
  | dfmt (e : Eng) (g : BitVec 4) (dd : BitVec 4) (a : BitVec 6)
  /-- DADV (R85): Advances ADDR of dD by r strides. -/
  | dadv (e : Eng) (g : BitVec 4) (dd : BitVec 4) (r : BitVec 16)
  /-- DGET (R85): Reads word w0 or w1 of a descriptor into sD. -/
  | dget (e : Eng) (g : BitVec 4) (d : BitVec 6) (da : BitVec 4) (w : Bool)
  /-- ACLR (R76): Sets both copies of an accumulator to their aclr values. -/
  | aclr (e : Eng) (g : BitVec 4) (ad : BitVec 3)
  /-- ARD (R76): Waits for queued users of an accumulator, then returns the combined field. -/
  | ard (e : Eng) (g : BitVec 4) (d : BitVec 6) (aa f : BitVec 3)
  /-- TLD (R85): Loads 4,096 U16 entries into a table slot of both tiles. -/
  | tld (e : Eng) (g : BitVec 4) (t : BitVec 2) (a : BitVec 6)
  /-- HCLR (R85): Clears both histogram stores. -/
  | hclr (e : Eng) (g : BitVec 4)
  /-- HPUT (R85): Writes the combined 4,096 histogram bins to scratch. -/
  | hput (e : Eng) (g : BitVec 4) (a : BitVec 6)
  /-- FMRG (R99): Processes merge-list entries and merges the feature records of their roots. -/
  | fmrg (e : Eng) (g : BitVec 4) (ncap : BitVec 12) (a b : BitVec 6)
  /-- CGAT (R108): Copies a crop rectangle from a hub ring into scratch. -/
  | cgat (e : Eng) (x : StreamImm) (d a : BitVec 4) (rec : BitVec 6)
  /-- VADD (R85): Writes the elementwise saturated sum. -/
  | vadd (e : Eng) (x : StreamImm) (d a b : BitVec 4)
  /-- VSUB (R85): Writes the elementwise saturated difference. -/
  | vsub (e : Eng) (x : StreamImm) (d a b : BitVec 4)
  /-- VMUL (R85): Writes the elementwise product, rounded by SH. -/
  | vmul (e : Eng) (x : StreamImm) (d a b : BitVec 4) (sh : BitVec 5)
  /-- VMIN (R85): Writes the elementwise minimum. -/
  | vmin (e : Eng) (x : StreamImm) (d a b : BitVec 4)
  /-- VMAX (R85): Writes the elementwise maximum. -/
  | vmax (e : Eng) (x : StreamImm) (d a b : BitVec 4)
  /-- VABSD (R85): Writes the elementwise absolute difference. -/
  | vabsd (e : Eng) (x : StreamImm) (d a b : BitVec 4)
  /-- VADDK (R85): Adds the scalar constant K to each element. -/
  | vaddk (e : Eng) (x : StreamImm) (d a : BitVec 4) (k : BitVec 6)
  /-- VMULK (R85): Multiplies each element by K, rounded by SH. -/
  | vmulk (e : Eng) (x : StreamImm) (d a : BitVec 4) (k : BitVec 6) (sh : BitVec 5)
  /-- VCLAMP (R85): Limits each element to LO to HI. -/
  | vclamp (e : Eng) (x : StreamImm) (d a : BitVec 4) (k : BitVec 6)
  /-- VCVT (R85): Converts the element format with a signed shift. -/
  | vcvt (e : Eng) (x : StreamImm) (d a : BitVec 4) (sh : BitVec 6)
  /-- VSEL (R85): Selects A or B per element by a mask run. -/
  | vsel (e : Eng) (x : StreamImm) (d a b m : BitVec 4)
  /-- VCMP (R85): Counts elements and mismatches into an accumulator. -/
  | vcmp (e : Eng) (x : StreamImm) (ad : BitVec 3) (a b : BitVec 4)
  /-- MAPC (R86): Applies up to eight map-chain steps to each element. -/
  | mapc (e : Eng) (x : StreamImm) (d a : BitVec 4) (rec : BitVec 6) (steps : BitVec 3) (b : BitVec 4) (ben : Bool)
  /-- LUT (R87): Writes a table lookup of each element. -/
  | lut (e : Eng) (x : StreamImm) (d a : BitVec 4) (t : BitVec 2) (sh : BitVec 4)
  /-- LUTI (R87): Writes an interpolated table lookup of each element. -/
  | luti (e : Eng) (x : StreamImm) (d a : BitVec 4) (t : BitVec 2) (sh : BitVec 4)
  /-- K1D (R88): Applies a horizontal kernel. -/
  | k1d (e : Eng) (x : StreamImm) (d a : BitVec 4) (rec : BitVec 6) (taps : BitVec 2)
  /-- K1V (R88): Applies a vertical kernel. -/
  | k1v (e : Eng) (x : StreamImm) (d a : BitVec 4) (rec : BitVec 6) (taps : BitVec 2)
  /-- K2D (R88): Applies a 3 × 3 or 5 × 5 kernel. -/
  | k2d (e : Eng) (x : StreamImm) (d a : BitVec 4) (rec : BitVec 6) (big : Bool)
  /-- RS (R89): Resamples a row onto a cubic output grid. -/
  | rs (e : Eng) (x : StreamImm) (d a : BitVec 4) (rec : BitVec 6) (big : Bool)
  /-- FLAT (R90): Applies dark and gain correction. -/
  | flat (e : Eng) (x : StreamImm) (d a b : BitVec 4) (gs : BitVec 4)
  /-- DPR (R91): Replaces defective pixels from their nearest neighbours. -/
  | dpr (e : Eng) (x : StreamImm) (d a b : BitVec 4) (rad : BitVec 2)
  /-- XMRG (R92): Merges long and short exposures. -/
  | xmrg (e : Eng) (x : StreamImm) (d a : BitVec 4) (k : BitVec 6) (sd bw os : BitVec 4)
  /-- CMAT (R93): Applies a 3 × 3 colour matrix across three planes. -/
  | cmat (e : Eng) (x : StreamImm) (d a : BitVec 4) (rec : BitVec 6)
  /-- SCOR (R94): Scores pixels against the mean and scale of the reference. -/
  | scor (e : Eng) (x : StreamImm) (d a b : BitVec 4) (sh : BitVec 5) (q : BitVec 4) (pen : Bool) (k : BitVec 4) (men : Bool)
  /-- THR (R95): Classifies scores with hysteresis thresholds. -/
  | thr (e : Eng) (x : StreamImm) (d a : BitVec 4) (k : BitVec 6) (pol : BitVec 2)
  /-- MORPH (R96): Dilates or erodes a class row. -/
  | morph (e : Eng) (x : StreamImm) (d a : BitVec 4) (erode cross : Bool)
  /-- LBL (R97): Labels one row and records merges. -/
  | lbl (e : Eng) (x : StreamImm) (d a b : BitVec 4) (ctx : BitVec 6) (noprev : Bool)
  /-- FEAT (R98): Accumulates component features for labelled pixels. -/
  | feat (e : Eng) (x : StreamImm) (a b : BitVec 4) (ctx : BitVec 6) (z : BitVec 4) (zen : Bool)
  /-- STAT (R100): Accumulates sum, squares, counts and range into an accumulator. -/
  | stat (e : Eng) (x : StreamImm) (ad : BitVec 3) (a : BitVec 4) (k : BitVec 6) (m : BitVec 4) (men : Bool)
  /-- HIST (R100): Adds elements into the tile histogram bins. -/
  | hist (e : Eng) (x : StreamImm) (a : BitVec 4) (nb sh m : BitVec 4) (men : Bool)
  /-- CRC (R101): Runs CRC-32C over the run's bytes into the accumulator. -/
  | crc (e : Eng) (x : StreamImm) (ad : BitVec 3) (a : BitVec 4)
  /-- PRED (R102): Writes mapped prediction residues. -/
  | pred (e : Eng) (x : StreamImm) (d a b : BitVec 4) (noprev : Bool)
  /-- UPRED (R103): Inverts pred to restore pixels. -/
  | upred (e : Eng) (x : StreamImm) (d a b : BitVec 4) (noprev : Bool)
  /-- GSEL (R105): Chooses a Rice parameter and bit length per block. -/
  | gsel (e : Eng) (x : StreamImm) (d a : BitVec 4)
  /-- GPUT (R106): Writes coded blocks into the bit context. -/
  | gput (e : Eng) (x : StreamImm) (d a b : BitVec 4) (ctx : BitVec 6)
  /-- GDEC (R107): Decodes residues from the bit context. -/
  | gdec (e : Eng) (x : StreamImm) (d a : BitVec 4) (ctx : BitVec 6)
  /-- STREAM_COMPLETE (R72): A queued stream instruction finishes in the tiles, releasing interlocks waiting on it. -/
  | streamComplete (e : Eng)
  /-- INSTRUCTION_MEMORY_WRITE (R54): A host write to an engine bank writes the staging bank and voids its admission, or is ignored with 0xD00A or 0xD003. -/
  | instructionMemoryWrite (port : Port) (e : Eng) (bank : Bool) (idx : BitVec 14) (v : BitVec 64)
  /-- LOAD (R55): Copies the staging and constant images to the shadow and starts the admission walk. -/
  | load (e : Eng)
  /-- ABORT (R57): Abandons a walk in progress with result ABORTED. -/
  | abort (e : Eng)
  /-- SWAP (R59): Arms a swap of the admitted staging bank for ENG_SWAP_BAND. -/
  | swap (e : Eng)
  /-- CONST_RELOAD (R60): Copies the constant image into the shadow and arms its reload for ENG_SWAP_BAND. -/
  | constReload (e : Eng)
  /-- DISARM (R59): Cancels an armed swap and an armed reload. -/
  | disarm (e : Eng)
  /-- ADMISSION_WALK_COMPLETE (R57): The walker finishes, records ADMITTED with its bound or the first refusal, and raises 0xD001 or 0xD002. -/
  | admissionWalkComplete (e : Eng)
  /-- LOAD_GROUP_FETCH (R49): The load sequencer issues a line group of a hub load entry once its commit token and credit are present. -/
  | loadGroupFetch (e : Eng) (entry : Fin 16) (grp : Nat)
  /-- LOAD_GROUP_ARRIVE (R49): A fetched line group lands in scratch, releasing waiting ldw or gated starts. -/
  | loadGroupArrive (e : Eng) (entry : Fin 16) (grp : Nat)
  /-- BAND_START (R49): With the tick token and gated groups present, the engine loads special registers, points descriptors, takes chain snapshots and starts. -/
  | bandStart (e : Eng)
  /-- ENGINE_FAULT (R62): An uncorrectable code word or residue mismatch stops and isolates the engine and raises 0xD005. -/
  | engineFault (e : Eng) (cause : FaultCause)
  /-- ENGINE_WATCHDOG (R62): Run cycles exceed the admitted bound and declare an engine fault. -/
  | engineWatchdog (e : Eng)
  /-- ENGINE_HANG (R62): 4,096 cycles without progress declare an engine fault. -/
  | engineHang (e : Eng)
  /-- SPARE_READY (R64): The shadow copy to the spare completes, 0xD006 is raised, and the re-run loads start. -/
  | spareReady (u : Fin 112)
  /-- TRIGGER_TIME (R207): A TIME generator reaches its scheduled instant and makes a line-trigger event. -/
  | triggerTime (gen : Fin 56)
  /-- TRIGGER_EXT (R207): DELAY_NS after a qualifying divided edge, an EXT generator makes an event. -/
  | triggerExt (gen : Fin 56)
  /-- TICK_TIME (R115): Under SRC 1, a tick at START + (m+1) × PERIOD closes a band and issues tokens to all sections. -/
  | tickTime
  /-- GAP_TIMEOUT (R111): GAP_US after the last tick with lines present, the cadence unit issues the tick itself and closes a partial band. -/
  | gapTimeout
  /-- UNSERVED_STRIP_WRITE (R241): For an unserved Fuse unit, the strip logic writes fully masked tags and rows, posts commits and raises 0x4006. -/
  | unservedStripWrite (k : Fin 16)
  /-- BAND_DUE (R122): At a section's due time, a band without every wtick is late; 0xC001 is raised and CAD_LATE updated. -/
  | bandDue (sec : Fin 4)
  /-- HOLD (R130): CAD_CTRL.HOLD enters hold at the next tick, or is ignored while stopped. -/
  | hold
  /-- ABANDON (R136): Marks every held band whose replay has not started as lost. -/
  | abandon
  /-- CATCH_UP_START (R132): When bands before h are complete and the corrected slot is free, catch-up starts and raises 0xC005. -/
  | catchUpStart
  /-- HELD_TOKEN_ISSUE (R132): During catch-up, the token of a held band is issued once its predecessor work is complete. -/
  | heldTokenIssue (sec : Fin 4)
  /-- PORT_ENABLE (R138): Writing ENABLE = 1 starts bring-up or is refused with 0x100E for a bad lane group. -/
  | portEnable (p : Fin 48)
  /-- PORT_DISABLE (R139): Clearing ENABLE stops the port's lanes within 1 µs and ends the open line. -/
  | portDisable (p : Fin 48)
  /-- RELOCK (R149): Restarts bring-up on every lane of the port. -/
  | relock (p : Fin 48)
  /-- RESTORE (R163): Sends an LDN with the full mask and D = 1, or is refused while a lane is not in AM_LOCK. -/
  | restore (p : Fin 48)
  /-- INVALID_SYNC_HEADER (R149): A block with header 00 or 11 resets the hunt count or counts toward loss of lock. -/
  | invalidSyncHeader (l : Fin 192) (date : Nat)
  /-- HUNT_TIMEOUT (R149): 1 ms in HUNT without lock raises 0x1003 once. -/
  | huntTimeout (l : Fin 192)
  /-- DATA_BLOCK (R144): A data block of the port stream adds samples to the open line, or is counted as an orphan. -/
  | dataBlock (l : Fin 192) (w : BitVec 64) (date : Nat)
  /-- FILL (R153): A FILL block is ignored, and an all-FILL column may be deleted. -/
  | fill (l : Fin 192) (w : BitVec 64) (date : Nat)
  /-- FILL_COLUMN_INSERT (R153): When the read side runs short, a column of FILL is inserted at a column boundary. -/
  | fillColumnInsert (p : Fin 48)
  /-- AM (R150): An alignment marker advances the lane's marker lock machine. -/
  | am (l : Fin 192) (w : BitVec 64) (date : Nat)
  /-- LS (R147): A line start opens a line and closes any open line as NOEND. -/
  | ls (l : Fin 192) (w : BitVec 64) (date : Nat)
  /-- LE (R144): A line end checks the block count and LCRC and hands the line to intake as good or bad. -/
  | le (l : Fin 192) (w : BitVec 64) (date : Nat)
  /-- ST (R164): A status block updates SPK_PCAM and may move the carrier or raise 0x1010. -/
  | st (l : Fin 192) (w : BitVec 64) (date : Nat)
  /-- SACK (R160): A settings acknowledgement confirms, or with RESULT 1 to 3 cancels, the expected cutover. -/
  | sack (l : Fin 192) (w : BitVec 64) (date : Nat)
  /-- LINE_TIMEOUT (R147): LINE_TMO_US after an LS without LE closes the line as bad. -/
  | lineTimeout (p : Fin 48)
  /-- SACK_TIMEOUT (R160): No SACK within SACK_TMO_US counts SACKMISS and raises 0x100B. -/
  | sackTimeout (p : Fin 48)
  /-- SILENT_TIMEOUT (R164): SILENT_TMO_US without traffic marks the camera silent and raises 0x1008. -/
  | silentTimeout (p : Fin 48)
  /-- PORT_GROUP_WRITE (R171): The lane logic writes line group g into its scratch half once the half is released. -/
  | portGroupWrite (p : Fin 48) (grp : Nat)
  /-- LATE_GROUP_FETCH (R172): A group that missed its half is fetched from the raw ring when the half frees, raising 0x200B. -/
  | lateGroupFetch (p : Fin 48) (grp : Nat)
  /-- INTAKE_GROUP_COMMIT (R191): The Spoke hub port posts a group's commit token once its rows, tags and masks are written. -/
  | intakeGroupCommit (p : Fin 48) (grp : Nat)
  /-- SETBAND (R182): A write to SPK_SETBAND arms a settings message for band k, or is refused or launched at once. -/
  | setband (p : Fin 48) (k : BitVec 64)
  /-- SETTINGS_LAST_FRAGMENT (R184): The last fragment leaves; the expected cutover LSEQ is recorded and 0x200A raised. -/
  | settingsLastFragment (p : Fin 48)
  /-- STRIP_GROUP_COMMIT (R244): The Fuse hub port posts a stitched group's commit to Sieve and Pack once its rows, tags and masks are written. -/
  | stripGroupCommit (k : Fin 16) (grp : Nat)
  /-- TANDEM_READ (R26): One hub read delivers a stitched line group to both Sieve units and Pack once credit exists. -/
  | tandemRead (k : Fin 16) (grp : Nat)
  /-- PACK_SPLIT_READ (R27): A Pack engine lacking credit later fetches the split lines by its own read and posts its release. -/
  | packSplitRead (k : Fin 16) (grp : Nat)
  /-- ENCODER_EDGE (R197): A filtered A or B edge moves the count by ±1, or counts a quadrature error. -/
  | encoderEdge (ch : Fin 8) (a b : Bool) (edge : RawEdge)
  /-- INDEX_EDGE (R198): A Z rising edge latches the count, checks drift and applies an armed preset. -/
  | indexEdge (ch : Fin 8) (edge : RawEdge)
  /-- PRESET_LOAD (R199): POS_ENC_CTRL.LOAD sets the count to the preset, refused while the cadence runs. -/
  | presetLoad (ch : Fin 8)
  /-- LOAD_IDX (R199): Arms the preset load for the next index edge. -/
  | loadIdx (ch : Fin 8)
  /-- IDX_DISARM (R199): Cancels an armed LOAD_IDX. -/
  | idxDisarm (ch : Fin 8)
  /-- ENCODER_STOP_TIMEOUT (R200): STOP_US without counts sets VEL to 0 and STOPPED. -/
  | encoderStopTimeout (ch : Fin 8)
  /-- SERIAL_POLL (R201): POLL_US expiry clocks a frame, or skips and counts it when busy. -/
  | serialPoll (k : Fin 4) (poll : PollTiming)
  /-- SERIAL_SAMPLE (R202): A completed frame is accepted into the count or discarded, setting or clearing STALE. -/
  | serialSample (k : Fin 4) (f : SerialFrame)
  /-- DIN_EDGE (R204): A filtered digital-input edge latches time and count, and under REPEAT may push a repeat packet. -/
  | dinEdge (d : Fin 8) (level : Bool) (edge : RawEdge)
  /-- COMPARE_FIRE (R216): A head with Q_e < POS ≤ Q fires its markers, LVDS events and confirmation, or is skipped as late. -/
  | compareFire (u : Fin 4)
  /-- MARKER_RELEASE (R218): A marker output is released at the end of PW_US or of its span, subject to the pulse-width brake. -/
  | markerRelease (o : Fin 16)
  /-- POS_CMP_APPEND (R220): A host append adds the staged entry to the tail, or drops it as FULL. -/
  | posCmpAppend (u : Fin 4) (e3 : BitVec 64)
  /-- FLUSH (R220): Empties the compare list, confirming entries that have CONFIRM set as FLUSHED. -/
  | flush (u : Fin 4)
  /-- MARK_RECORD (R223): A defect record on the mark chain builds a compare entry for each selecting station. -/
  | markRecord
  /-- BATCH_CLOSE (R224): A station's batch closes at the last band-end or 1.5 µs after the Sieve due time, and is sorted and appended. -/
  | batchClose (u : Fin 4)
  /-- EMULATION_EDGE (R228): The emulation output steps one quadrature edge toward its target. -/
  | emulationEdge (o : Fin 4)
  /-- PHASE_MARK (R252): The phase unit takes a repeat packet and uses it to phase stitched rows. -/
  | phaseMark
  /-- SEAM_LOOK (R259): A LOOK packet announces a tile's look-ahead row to the seam unit. -/
  | seamLook
  /-- SEAM_ALIAS (R264): An alias packet writes a pointer entry in the label merge table. -/
  | seamAlias
  /-- SEAM_COMPONENT (R264): A component packet writes its label's entry as a tile label. -/
  | seamComponent
  /-- SEAM_END (R265): An END packet lets the seam unit union the cross-tile pixel pairs of its tile. -/
  | seamEnd
  /-- SEAM_CLOSE (R266): Once ENDs, next LOOKs and unions are in, the close decides every root and emits classified defect records. -/
  | seamClose
  /-- RECORD_FRAME (R278): A record framer pops a record packet, fills CROP, requests a crop and places it in the record queue. -/
  | recordFrame (k : Fin 16)
  /-- OUTPUT_ITEM (R279): The router pops an item from an output chain or stats chain and routes it. -/
  | outputItem (src : OutSrc)
  /-- CROP_DESCRIPTOR (R287): The crop unit takes a descriptor and cuts it into parts from the corrected or raw ring. -/
  | cropDescriptor
  /-- EVENT_RECORD_ROUTE (R292): The router places a queued event as an event record on the selecting outputs. -/
  | eventRecordRoute
  /-- RING_WRITE (R295): An item fits its host ring, is written, and the producer index is written back. -/
  | ringWrite (r : Fin 64)
  /-- RING_IRQ_TIMER (R295): TIMER_US after the first unsignalled unit, the ring's MSI-X vector is signalled. -/
  | ringIrqTimer (r : Fin 64)
  /-- RING_CONSUMER_WRITE (R295): A write of PAK_RING_CONS frees ring space, or is ignored if out of order. -/
  | ringConsumerWrite (r : Fin 64) (v : BitVec 64)
  /-- DATAGRAM_FLUSH (R299): FLUSH_US after a datagram's first item, the datagram is launched. -/
  | datagramFlush (st : Fin 8)
  /-- STREAM_SLOT (R377): At a slot instant, up to QUOTA completed datagrams leave. -/
  | streamSlot (st : Fin 8)
  /-- ACK_RECEIVED (R300): An accepted acknowledgement releases datagrams below CUM and retransmits missing ranges. -/
  | ackReceived (st : Fin 8) (a : AckFrame)
  /-- ACK_TIMEOUT_PROBE (R302): No CUM advance for ACK_TMO_US resends the oldest datagram as a probe. -/
  | ackTimeoutProbe (st : Fin 8)
  /-- NEIGHBOUR_REQUEST (R298): A stream port answers an ARP request or neighbour solicitation for its address. -/
  | neighbourRequest (p : Fin 2) (v6 : Bool) (target : BitVec 128) (from_ : BitVec 48)
  /-- FRAME_DROP (R298): Any other received frame is dropped and counted in RXDROP. -/
  | frameDrop (p : Fin 2)
  /-- STREAM_LINK_CHANGE (R302): A stream port link goes down or up and raises 0x600B. -/
  | streamLinkChange (p : Fin 2) (up : Bool)
  /-- HOST_LINK_UP (R297): The host link trains and raises 0x600C when below x16 or 64 GT/s. -/
  | hostLinkUp (gen width : Nat) (flit : Bool) (mps mrrs : BitVec 16)
  /-- HUB_TRANSACTION (R318): A channel performs a 128-byte transaction in acceptance order for its address. -/
  | hubTransaction (src : HubSrc) (cls : Fin 4) (addr : Nat) (wr : Option (List (BitVec 8)))
  /-- BAR2_READ (R311): A host read through BAR2 returns hub data, or zeros when unavailable. -/
  | bar2Read (addr n : Nat)
  /-- BAR2_WRITE (R311): A posted host write through BAR2 stores hub data, or is dropped when unavailable. -/
  | bar2Write (addr : Nat) (data : List (BitVec 8))
  /-- SCRUB_BATCH (R317): The patrol scrubber reads and corrects a batch of codewords. -/
  | scrubBatch (c : Fin 50) (granule n : Nat)
  /-- BANK_REFRESH (R320): A bank receives a per-bank refresh when idle or when postponed 8 intervals. -/
  | bankRefresh (c : Fin 50) (b : Fin 16)
  /-- SELF_REFRESH_ENTRY (R321): A channel idle for SR_IDLE_US enters self-refresh. -/
  | selfRefreshEntry (c : Fin 50)
  /-- RETRAIN_PASS_START (R331): A channel due by interval or temperature starts a retraining pass. -/
  | retrainPassStart (c : Fin 50)
  /-- RETRAIN_SLICE (R330): A slice measures and nudges taps when the queues are empty. -/
  | retrainSlice (c : Fin 50) (m : SliceMeasure)
  /-- RETRAIN_FORCE (R330): After FORCE_US, admission is stopped and the slice is forced. -/
  | retrainForce (c : Fin 50)
  /-- FREQUENCY_SWITCH (R334): A HUB_FREQ.RATE write starts a rate switch and initial training, or is ignored while the cadence runs. -/
  | frequencySwitch (rate : BitVec 2)
  /-- FREQUENCY_SWITCH_COMPLETE (R334): Training at the new rate completes and raises 0x700B. -/
  | frequencySwitchComplete (failed : List (Fin 50))
  /-- MIG_REQ (R335): HUB_CTRL.MIG_REQ queues a migration or retirement of a slot. -/
  | migReq (slot : BitVec 6)
  /-- MIGRATION_COPY (R335): The copier moves the next granule to the target at TC3 under the rate limit. -/
  | migrationCopy
  /-- MIGRATION_COMPLETE (R335): The pointer passes the end, HUB_MAP switches, the source fails and 0x7005 is raised. -/
  | migrationComplete
  /-- RETIREMENT_COMPLETE (R336): Relocation of a retiring slot ends and raises 0x7007. -/
  | retirementComplete
  /-- DMA_START (R358): Starts a channel from DMA_HEAD, or is ignored in a running state. -/
  | dmaStart (u : Fin 4) (ch : Fin 16)
  /-- DMA_STOP (R358): Makes the channel finish its burst and enter STOPPED. -/
  | dmaStop (u : Fin 4) (ch : Fin 16)
  /-- DMA_APPEND (R364): Links a descriptor behind the list according to the channel's state. -/
  | dmaAppend (u : Fin 4) (ch : Fin 16) (a : BitVec 64)
  /-- DMA_UNIT_GRANT (R359): A freed DMA unit takes the next ready channel. -/
  | dmaUnitGrant (u : Fin 4)
  /-- DMA_DESCRIPTOR_FETCH (R354): A channel fetches its next descriptor from NEXT or its feed chain. -/
  | dmaDescriptorFetch (u : Fin 4)
  /-- DMA_BURST (R355): A burst of up to 2^BURST_LOG bytes moves once the request allows. -/
  | dmaBurst (u : Fin 4)
  /-- DMA_DESCRIPTOR_COMPLETE (R356): A descriptor completes, signals if asked, and the channel continues or stops at END. -/
  | dmaDescriptorComplete (u : Fin 4)
  /-- CHN_CNT_READ (R348): A read of CHN_CNT returns counts and re-arms the chain notice. -/
  | chnCntRead (c : Fin 256)
  /-- TIM_STEP (R371): Adds a signed step to OFFSET, or is refused while the cadence runs. -/
  | timStep (v : BitVec 64)
  /-- TIM_OFS_WRITE (R371): A write of TIM_OFS_INT or TIM_OFS_FRAC steps the time, refused while the cadence runs. -/
  | timOfsWrite (frac : Bool) (v : BitVec 64)
  /-- TIM_RATE_WRITE (R372): A rate write changes RATE and adjusts OFFSET so that T does not jump. -/
  | timRateWrite (v : BitVec 64)
  /-- TIM_SNAP (R375): Any write latches COUNT and T of the same cycle. -/
  | timSnap
  /-- REFERENCE_LOST (R374): A 10 MHz reference missing or out of range for 10 µs enters holdover. -/
  | referenceLost
  /-- REFERENCE_RELOCK (R374): After 100 ms in range, the clock relocks with a limited slew. -/
  | referenceRelock
  /-- PPS_IN_EDGE (R379): A PPS input rising edge is dated, unless within 0.5 s of the last. -/
  | ppsInEdge (date : Nat)
  /-- PPS_MISSING (R379): 1.5 s without a PPS edge raises 0x9003. -/
  | ppsMissing
  /-- PPS_OUT (R379): The PPS output rises at each second plus OUT_PH. -/
  | ppsOut
  /-- PTP_MESSAGE (R378): A PTP event message is timestamped and served by the firmware servo. -/
  | ptpMessage (m : PtpMsg)
  /-- SUPERVISION_SCAN (R386): Every 1 ms supervision compares sensors with limits and raises 0xA005 on alarm changes. -/
  | supervisionScan (samples : List SensorSample)
  /-- TELEMETRY_UPDATE (R385): The firmware updates the telemetry page, doubling its period when late. -/
  | telemetryUpdate (late : Bool) (page : List (BitVec 8))
  /-- LOG_WRITE (R389): The firmware writes queued log entries to flash, coalescing under load. -/
  | logWrite
  /-- SMBUS_SEL (R387): An SMBus SEL block write sets the readout address. -/
  | smbusSel (sel : SmbSel)
  /-- SMBUS_READ (R387): An SMBus READ returns 32 bytes and advances the address. -/
  | smbusRead
  /-- POWER_FAIL_WARNING (R391): The island copies the black box into an erased save slot within 15 ms. -/
  | powerFailWarning
  /-- INFO (R392): Returns firmware, SVN and board table information. -/
  | info (tag : BitVec 16)
  /-- LOG_READ (R392): Returns log entries from a given SEQ. -/
  | logRead (tag : BitVec 16) (seq : BitVec 32) (count : Nat)
  /-- BBOX_READ (R392): Returns a saved black box slot in chunks. -/
  | bboxRead (tag : BitVec 16) (slot offset : Nat)
  /-- UPD_BEGIN (R393): Erases the inactive bank, refused outside STANDBY and SERVICE. -/
  | updBegin (tag : BitVec 16) (len : Nat)
  /-- UPD_DATA (R393): Writes image data into the inactive bank. -/
  | updData (tag : BitVec 16) (off : Nat) (data : List (BitVec 8))
  /-- UPD_VERIFY (R394): Checks the inactive bank's signature, key and SVN. -/
  | updVerify (tag : BitVec 16)
  /-- UPD_ACTIVATE (R395): Marks the verified inactive bank as the trial bank. -/
  | updActivate (tag : BitVec 16)
  /-- UPD_CONFIRM (R395): Confirms the running trial bank and blows anti-rollback fuses to its SVN. -/
  | updConfirm (tag : BitVec 16)
  /-- MGT_RESTART (R414): Makes a management watchdog reset at once. -/
  | mgtRestart (tag : BitVec 16)
  /-- BOARD_WRITE (R393): Writes a checked board table to the copy not in use, raising 0xA00F. -/
  | boardWrite (tag : BitVec 16) (table : List (BitVec 8))
  /-- PTP_SET (R378): Stores and applies the PTP configuration. -/
  | ptpSet (tag : BitVec 16) (cfg : PtpCfg)
  /-- PTP_STATUS (R378): Returns the PTP port state, master, offset and path delay. -/
  | ptpStatus (tag : BitVec 16)
  /-- NET_SET (R392): Stores the management MAC and IP addresses. -/
  | netSet (tag : BitVec 16) (cfg : NetCfg)
  /-- MAILBOX_COMPLETE (R392): The firmware writes the result, clears BUSY and signals the mailbox vector. -/
  | mailboxComplete
  /-- MAILBOX_BUSY (R392): A CMD write while BUSY is ignored and raises 0xA010. -/
  | mailboxBusy (v : BitVec 64)
  /-- UART_FRAME (R396): In recovery, an image frame over the UART is checked and written. -/
  | uartFrame (off : Nat) (data : List (BitVec 8)) (crc : BitVec 32)
  /-- THERMAL_MEASURE (R398): A die measurement sets the skip fraction and throttle state, or starts shutdown at 118 °C. -/
  | thermalMeasure (readings : List Int)
  /-- THERMAL_RESTART (R399): After sensor 0 reads below 85 °C for 1 s, the island makes a thermal restart. -/
  | thermalRestart
  /-- BRK_LOCK (R401): Writing LOCK = 1 locks every brake field until a class M reset and raises 0xB002. -/
  | brkLock
  /-- KICK (R403): A management-port write of 0x5A restarts the watchdog timeout. -/
  | kick (port : Port) (v : BitVec 8)
  /-- MGT_WATCHDOG_TIMEOUT (R403): TIMEOUT_MS without a kick makes a management watchdog reset and raises 0xA008. -/
  | mgtWatchdogTimeout
  /-- MODE_REQ_STANDBY (R407): A request for STANDBY stops clocks or drains first, or is refused. -/
  | modeReqStandby (abort : Bool)
  /-- MODE_REQ_SERVICE (R407): A request for SERVICE trains the hub, reloads banks and starts clocks, or drains out of acquisition. -/
  | modeReqService (abort : Bool)
  /-- MODE_REQ_TEACH (R409): A request for TEACH runs the entry checks and actions. -/
  | modeReqTeach
  /-- MODE_REQ_INSPECT (R409): A request for INSPECT runs the entry checks and actions. -/
  | modeReqInspect
  /-- MODE_REQ_STREAM (R409): A request for STREAM, optionally with NOSIEVE, runs the entry checks and actions. -/
  | modeReqStream (nosieve : Bool)
  /-- MODE_REQ_SAFE (R412): A request for SAFE takes outputs inactive and the hub to self-refresh. -/
  | modeReqSafe
  /-- MODE_ABORT (R411): ABORT discards every band in flight and reaches the target within 1 ms. -/
  | modeAbort
  /-- SERVICE_READY (R407): Training and bank reloads complete and SERVICE is reported. -/
  | serviceReady (failed : List (Fin 50))
  /-- ACQUISITION_ENTRY_COMPLETE (R409): Entry actions finish, the cadence unit starts and the mode is reported. -/
  | acquisitionEntryComplete
  /-- DRAIN_COMPLETE (R410): Every band up to the last closed is done and routed, the cadence stops and the target mode is reached. -/
  | drainComplete
  /-- SAFE (R412): GLB_CTRL.SAFE enters SAFE from any mode. -/
  | safe
  /-- SAFE_N_LOW (R412): SAFE_N low for 1 µs takes the module into SAFE from any mode but STANDBY. -/
  | safeNLow
  /-- SAFE_N_HIGH (R413): SAFE_N high for 1 µs allows SAFE to be left. -/
  | safeNHigh
  /-- DPRST (R416): GLB_CTRL.DPRST makes a datapath reset to STANDBY and raises 0x000C. -/
  | dprst
  /-- MODULE_RESET (R415): RESET_N low for 10 µs resets the module to STANDBY, losing class M. -/
  | moduleReset (straps : BitVec 3)
  /-- HOST_RESET (R416): A hot reset, link down or FLR stops engines and returns the module to STANDBY. -/
  | hostReset (kind : HostResetKind)
  /-- POWER_ON (R422): VIN rising through 5.8 V starts the power-up sequence. -/
  | powerOn (straps : BitVec 3)
  /-- POWER_ON_TEST_COMPLETE (R422): The power-on test completes and GLB_STATUS.READY is set. -/
  | powerOnTestComplete (failed : List Eng)
  /-- FIRMWARE_READY (R422): Firmware runs and loads the board table, setting FW and BOARD. -/
  | firmwareReady (date : Nat)
  /-- POWER_OFF (R419): VIN below 5.4 V for 5 µs starts the power-down sequence. -/
  | powerOff
  /-- VIN_OVERVOLTAGE (R420): VIN above 40 V raises 0x0009 once per excursion and counts it. -/
  | vinOvervoltage
  /-- PHASE_FAILURE (R421): A core phase losing current sharing is disconnected, with forced skip or shutdown on later failures. -/
  | phaseFailure
  /-- TST_UNLOCK (R431): A host write of 0x7E57 in an acquisition mode sets UNLOCKED. -/
  | tstUnlock (port : Port) (v : BitVec 64)
  /-- TST_CRED (R435): Limits the usable free space of a chain's producer lanes. -/
  | tstCred (port : Port) (i : Fin 4) (v : BitVec 64)
  /-- TST_HUBLAT (R436): Holds completions of selected classes in the hub return path. -/
  | tstHublat (port : Port) (v : BitVec 64)
  /-- TST_BP (R437): Sets an on/off back-pressure pattern on host and stream ports. -/
  | tstBp (port : Port) (v : BitVec 64)
  /-- BACKPRESSURE_PHASE (R437): The back-pressure pattern switches between ON_US and OFF_US. -/
  | backpressurePhase
  /-- TST_LANE (R438): Alters upstream blocks of a lane by removal, repeat, bit flip or bad header. -/
  | tstLane (port : Port) (i : Fin 4) (v : BitVec 64)
  /-- TST_ECC_GO (R439): Flips one or two symbols of a codeword in the named memory. -/
  | tstEccGo (port : Port) (v : BitVec 64)
  /-- TST_ENC_GO (R440): Inverts a raw quadrature input for W samples. -/
  | tstEncGo (port : Port) (v : BitVec 64)
  /-- TST_LINE (R441): Shortens, lengthens or drops periodic good lines of a port. -/
  | tstLine (port : Port) (v : BitVec 64)
  /-- TST_TICK (R442): Delays issue of tick tokens by random jitter. -/
  | tstTick (port : Port) (v : BitVec 64)
  /-- TST_THERM (R443): Adds an offset to D for the throttle only. -/
  | tstTherm (port : Port) (v : BitVec 64)
  /-- RESET_N_RELEASE (R414): RESET_N returning high ends a module reset; the die leaves reset, the management processor boots and the host port becomes ready 50 ms later. -/
  | resetNRelease
  /-- TRANSMISSION_END (R301): A frame on a stream port's wire completes, and the next datagram, retransmission or probe queued on that port may start. -/
  | transmissionEnd (p : Fin 2)
  /-- STREAM_RATE_BUCKET_REFILL (R400): A stream port's rate-cap bucket regains enough credit for a datagram clipped by the rate brake to leave. -/
  | streamRateBucketRefill (p : Fin 2)
  /-- TC0_TOKEN_GAIN (R325): A channel's TC0 token bucket gains one token every 125 ns, and a TC0 transaction waiting for a token proceeds. -/
  | tc0TokenGain (c : Fin 50)
  /-- CORRECTED_ERROR_WINDOW_END (R335): A WIN_MS window of a hub channel ends; WIN_LAST takes the window's corrected count and counting toward CORR_TH restarts. -/
  | correctedErrorWindowEnd (c : Fin 50)
  /-- TICK_JITTER_ISSUE (R442): Under TST_TICK, a tick's tokens and events are issued at their random delay of 0 to JMAX_NS after the undelayed tick. -/
  | tickJitterIssue
  deriving DecidableEq, Repr

end Sys2Proof
end

