-- ==== Sys2Proof/Word.lean ====
section
/-! DEFINITION. The words of the module: 64-bit registers, chain words and instruction words, and bytes of its
memories. Every multi-byte format is little-endian (R2). -/

namespace Sys2Proof

/-- A 64-bit word: a scalar register, a chain word, an instruction word (2.1, 2.2, 12.1). -/
abbrev Word := BitVec 64

/-- One byte of scratch, hub or host memory. -/
abbrev Byte := BitVec 8

end Sys2Proof
end

