-- ==== Sys2Proof/Config.lean ====
section
/-! DEFINITION. The free values: what the spec leaves open where the module goes on. Each is a constant without a
body, so nothing can be proved of the value it has; `State.free` numbers the draws. -/

namespace Sys2Proof

/-- The value of the n-th draw of an open value, cut by its user to the width it needs. -/
opaque Config.freeWord : Nat → BitVec 64

/-- The key slot, 0 to 3, whose public key a firmware image is signed with; 4 and above where its signature does not
verify or its key is in no slot (R394). An image is given by its bytes that are not 0. -/
opaque Config.imageKey : List (Nat × BitVec 8) → BitVec 3

/-- The SVN a firmware image carries (R394). -/
opaque Config.imageSvn : List (Nat × BitVec 8) → BitVec 7

/-- Whether a board table passes its check (R393). -/
opaque Config.boardOk : List (BitVec 8) → Bool

/-- Whether a value of sensor `i` lies outside the limits of a board table, given by its bytes that are not 0 (R386). -/
opaque Config.sensorOut : List (Nat × BitVec 8) → Nat → BitVec 16 → Bool

/-- The bytes INFO answers with: the spec names what they hold and not how. From a draw (for the firmware and board table
versions), the SVN of both banks, the fused SVN and the board table copy in use (Table 14.6). -/
opaque Config.infoBytes : Nat → Nat → Nat → Nat → Bool → List (BitVec 8)

/-- The bytes PTP_STATUS answers with, from a draw, the port's state, its master, the offset from it and the mean path delay
(Table 14.6). -/
opaque Config.ptpBytes : Nat → Nat → Nat → Nat → Nat → List (BitVec 8)

/-- A lane's entry of a board table, in the bit layout of SPK_LN_EQ: none where it is absent or fails its check (R156). -/
opaque Config.laneEntry : List (Nat × BitVec 8) → Nat → Option (BitVec 64)

/-- The next state of the 32-bit LFSR of the random choices, and the choice of 0 to `max` it gives: the spec states neither its
taps nor how a choice is drawn from it (16.2). -/
opaque Config.lfsrNext : BitVec 32 → BitVec 32
opaque Config.lfsrPick : BitVec 32 → Nat → Nat

end Sys2Proof
end

