-- ==== Sys2Proof/Machine/Regs.lean ====
section
/-! DEFINITION. The register map: every register field the chapters define, with its place in BAR0, its access code
(R7), its reset value and its survival class (R10), and the values its description admits (R445). Names are the
spec's, block and register and field joined by underscores. -/

namespace Sys2Proof.Machine

/-- Access codes (Table 0.4). -/
inductive Access where
  | rw
  | ro
  | wo
  | w1c
  | rc
  | rwl
  deriving DecidableEq, Repr

/-- Survival classes (Table 0.5); `none` for a field the spec gives no class. -/
inductive Kept where
  | p
  | a
  | m
  | h
  | d
  | none
  deriving DecidableEq, Repr

/-- One register field: the BAR0 offset of its register, its bits, its access code, its reset value and class, and
which values its description admits. -/
structure Fld where
  addr  : Nat
  hi    : Nat
  lo    : Nat
  acc   : Access
  reset : Nat
  kept  : Kept
  ok    : Nat → Bool

/-- The number that names a field in the register store: 64 times the offset of its register plus its low bit. -/
def Fld.key (f : Fld) : Nat := f.addr * 64 + f.lo

/-- The width of a field in bits. -/
def Fld.width (f : Fld) : Nat := f.hi + 1 - f.lo

/-- A run of registers with one name: `n1` by `n2` of them, `s1` and `s2` bytes apart, and the fields of each. -/
structure RegBlock where
  name : String
  base : Nat
  n1   : Nat
  s1   : Nat
  n2   : Nat
  s2   : Nat
  flds : Nat → Nat → List Fld

/-! ### Physical engines and logical units at power-on (Table 2.1) -/

/-- The section of a physical engine: 1 Intake, 2 Fuse, 3 Sieve, 4 Pack. -/
def engSection (e : Nat) : Nat := if e < 51 then 1 else if e < 68 then 2 else if e < 102 then 3 else 4

/-- Which engines are spares at power-on. -/
def isInitialSpare (e : Nat) : Bool :=
  (decide (48 ≤ e) && decide (e ≤ 50)) || decide (e = 67) || decide (e = 100) || decide (e = 101) || decide (e = 118)

/-- The engine that serves unit `u` at power-on. -/
def unitEngine0 (u : Nat) : Nat := if u < 48 then u else if u < 64 then u + 3 else if u < 96 then u + 4 else u + 6

/-- The unit an engine serves at power-on, 0xFF for none. -/
def engUnit0 (e : Nat) : Nat :=
  if isInitialSpare e then 255 else if e < 51 then e else if e < 68 then e - 3 else if e < 102 then e - 4 else e - 6

/-- 1 for a spare at power-on. -/
def engSpare0 (e : Nat) : Nat := if isInitialSpare e then 1 else 0


/-! ### The fields, register by register -/

def Rf.GLB_ID_VENDOR : Fld := ⟨0x0, 63, 48, .ro, 61605, .p, fun _ => true⟩
def Rf.GLB_ID_PART : Fld := ⟨0x0, 47, 32, .ro, 38472, .p, fun _ => true⟩
def Rf.GLB_ID_DIE_STEP : Fld := ⟨0x0, 31, 24, .ro, 1, .p, fun _ => true⟩
def Rf.GLB_ID_VARIANT : Fld := ⟨0x0, 23, 16, .ro, 0, .p, fun _ => true⟩
def Rf.ENG_CTRL_LOAD (i : Nat) : Fld := ⟨0x1000000 + 0x1000 * i, 0, 0, .wo, 0, .d, fun _ => true⟩
def Rf.ENG_CTRL_ABORT (i : Nat) : Fld := ⟨0x1000000 + 0x1000 * i, 1, 1, .wo, 0, .d, fun _ => true⟩
def Rf.ENG_CTRL_SWAP (i : Nat) : Fld := ⟨0x1000000 + 0x1000 * i, 2, 2, .wo, 0, .d, fun _ => true⟩
def Rf.ENG_CTRL_CONST_RELOAD (i : Nat) : Fld := ⟨0x1000000 + 0x1000 * i, 3, 3, .wo, 0, .d, fun _ => true⟩
def Rf.ENG_CTRL_DISARM (i : Nat) : Fld := ⟨0x1000000 + 0x1000 * i, 4, 4, .wo, 0, .d, fun _ => true⟩
def Rf.ENG_STATUS_STATE (i : Nat) : Fld := ⟨0x1000008 + 0x1000 * i, 3, 0, .ro, 0, .d, fun _ => true⟩
def Rf.ENG_STATUS_ACTIVE_BANK (i : Nat) : Fld := ⟨0x1000008 + 0x1000 * i, 4, 4, .ro, 0, .m, fun _ => true⟩
def Rf.ENG_STATUS_ACTIVE_OK (i : Nat) : Fld := ⟨0x1000008 + 0x1000 * i, 5, 5, .ro, 0, .m, fun _ => true⟩
def Rf.ENG_STATUS_SWAP_ARMED (i : Nat) : Fld := ⟨0x1000008 + 0x1000 * i, 6, 6, .ro, 0, .m, fun _ => true⟩
def Rf.ENG_ROLE_SECTION (i : Nat) : Fld := ⟨0x1000010 + 0x1000 * i, 2, 0, .ro, engSection i, .p, fun _ => true⟩
def Rf.ENG_ROLE_UNIT (i : Nat) : Fld := ⟨0x1000010 + 0x1000 * i, 15, 8, .ro, engUnit0 i, .a, fun _ => true⟩
def Rf.ENG_ROLE_SPARE (i : Nat) : Fld := ⟨0x1000010 + 0x1000 * i, 16, 16, .ro, engSpare0 i, .a, fun _ => true⟩
def Rf.ENG_ROLE_RETIRED (i : Nat) : Fld := ⟨0x1000010 + 0x1000 * i, 17, 17, .ro, 0, .a, fun _ => true⟩
def Rf.ENG_ADM_RESULT (i : Nat) : Fld := ⟨0x1000018 + 0x1000 * i, 4, 0, .ro, 0, .m, fun _ => true⟩
def Rf.ENG_ADM_BUSY (i : Nat) : Fld := ⟨0x1000018 + 0x1000 * i, 5, 5, .ro, 0, .d, fun _ => true⟩
def Rf.ENG_ADM_INDEX (i : Nat) : Fld := ⟨0x1000018 + 0x1000 * i, 31, 16, .ro, 0, .m, fun _ => true⟩
def Rf.ENG_ADM_IMAGE_ID (i : Nat) : Fld := ⟨0x1000018 + 0x1000 * i, 63, 32, .ro, 0, .m, fun _ => true⟩
def Rf.ENG_BOUND_BOUND (i : Nat) : Fld := ⟨0x1000020 + 0x1000 * i, 63, 0, .ro, 0, .m, fun _ => true⟩
def Rf.ENG_ACT_BOUND_BOUND (i : Nat) : Fld := ⟨0x1000028 + 0x1000 * i, 63, 0, .ro, 0, .m, fun _ => true⟩
def Rf.ENG_BUDGET_BUDGET (i : Nat) : Fld := ⟨0x1000030 + 0x1000 * i, 63, 0, .ro, 0, .m, fun _ => true⟩
def Rf.ENG_SWAP_BAND_BAND (i : Nat) : Fld := ⟨0x1000038 + 0x1000 * i, 63, 0, .rw, 0, .m, fun _ => true⟩
def Rf.ENG_SWAP_AT_BAND (i : Nat) : Fld := ⟨0x1000040 + 0x1000 * i, 63, 0, .ro, 0, .m, fun _ => true⟩
def Rf.ENG_CONST_SRC_HUB_ADDR (i : Nat) : Fld := ⟨0x1000068 + 0x1000 * i, 39, 0, .rw, 0, .m, fun x => decide (x % 64 = 0)⟩
def Rf.ENG_RUN_LAST (i : Nat) : Fld := ⟨0x1000048 + 0x1000 * i, 31, 0, .ro, 0, .d, fun _ => true⟩
def Rf.ENG_RUN_MAX (i : Nat) : Fld := ⟨0x1000048 + 0x1000 * i, 63, 32, .rc, 0, .d, fun _ => true⟩
def Rf.ENG_STALL_LOAD_LAST (i : Nat) : Fld := ⟨0x1000050 + 0x1000 * i, 31, 0, .ro, 0, .d, fun _ => true⟩
def Rf.ENG_STALL_CHAIN_LAST (i : Nat) : Fld := ⟨0x1000050 + 0x1000 * i, 63, 32, .ro, 0, .d, fun _ => true⟩
def Rf.ENG_FAULT_CODE (i : Nat) : Fld := ⟨0x1000058 + 0x1000 * i, 0, 0, .w1c, 0, .a, fun _ => true⟩
def Rf.ENG_FAULT_WDOG (i : Nat) : Fld := ⟨0x1000058 + 0x1000 * i, 1, 1, .w1c, 0, .a, fun _ => true⟩
def Rf.ENG_FAULT_HANG (i : Nat) : Fld := ⟨0x1000058 + 0x1000 * i, 2, 2, .w1c, 0, .a, fun _ => true⟩
def Rf.ENG_FAULT_TILE (i : Nat) : Fld := ⟨0x1000058 + 0x1000 * i, 3, 3, .w1c, 0, .a, fun _ => true⟩
def Rf.ENG_FAULT_CORR (i : Nat) : Fld := ⟨0x1000058 + 0x1000 * i, 63, 32, .rc, 0, .d, fun _ => true⟩
def Rf.ENG_CLAMP_CLAMP_CNT (i : Nat) : Fld := ⟨0x1000060 + 0x1000 * i, 31, 0, .rc, 0, .d, fun _ => true⟩
def Rf.ENG_CLAMP_SCR_VIOL (i : Nat) : Fld := ⟨0x1000060 + 0x1000 * i, 63, 32, .rc, 0, .d, fun _ => true⟩
def Rf.ENG_UNIT_ENGINE (i : Nat) : Fld := ⟨0x1800000 + 0x8 * i, 7, 0, .ro, unitEngine0 i, .a, fun _ => true⟩
def Rf.ENG_UNIT_UNSERVED (i : Nat) : Fld := ⟨0x1800000 + 0x8 * i, 8, 8, .ro, 0, .a, fun _ => true⟩
def Rf.ENG_SPARES_INTAKE : Fld := ⟨0x1800400, 3, 0, .ro, 3, .a, fun _ => true⟩
def Rf.ENG_SPARES_FUSE : Fld := ⟨0x1800400, 7, 4, .ro, 1, .a, fun _ => true⟩
def Rf.ENG_SPARES_SIEVE : Fld := ⟨0x1800400, 11, 8, .ro, 2, .a, fun _ => true⟩
def Rf.ENG_SPARES_PACK : Fld := ⟨0x1800400, 15, 12, .ro, 1, .a, fun _ => true⟩
def Rf.ENG_TILE_CAP_CNT (i : Nat) : Fld := ⟨0x1000070 + 0x1000 * i, 23, 0, .rc, 0, .d, fun _ => true⟩
def Rf.ENG_TILE_FMT_VIOL (i : Nat) : Fld := ⟨0x1000070 + 0x1000 * i, 47, 24, .rc, 0, .d, fun _ => true⟩
def Rf.ENG_TILE_DPR_MISS (i : Nat) : Fld := ⟨0x1000070 + 0x1000 * i, 63, 48, .rc, 0, .d, fun _ => true⟩
def Rf.ENG_TILEQ_QFULL_LAST (i : Nat) : Fld := ⟨0x1000078 + 0x1000 * i, 31, 0, .ro, 0, .d, fun _ => true⟩
def Rf.ENG_TILEQ_ILOCK_LAST (i : Nat) : Fld := ⟨0x1000078 + 0x1000 * i, 63, 32, .ro, 0, .d, fun _ => true⟩
def Rf.CAD_CTRL_HOLD : Fld := ⟨0x100000, 0, 0, .wo, 0, .d, fun _ => true⟩
def Rf.CAD_CTRL_ABANDON : Fld := ⟨0x100000, 1, 1, .wo, 0, .d, fun _ => true⟩
def Rf.CAD_SRC_SRC : Fld := ⟨0x100008, 1, 0, .rw, 0, .m, fun x => decide (x < 3)⟩
def Rf.CAD_SRC_MASTER : Fld := ⟨0x100008, 13, 8, .rw, 0, .m, fun x => decide (x ≤ 55)⟩
def Rf.CAD_SRC_DIN : Fld := ⟨0x100008, 18, 16, .rw, 0, .m, fun _ => true⟩
def Rf.CAD_SRC_EDGE : Fld := ⟨0x100008, 20, 19, .rw, 0, .m, fun x => decide (x < 3)⟩
def Rf.CAD_GEOM_HEIGHT : Fld := ⟨0x100010, 12, 0, .rw, 1024, .m, fun x => decide (16 ≤ x) && decide (x ≤ 4096)⟩
def Rf.CAD_GEOM_TAIL_US : Fld := ⟨0x100010, 35, 16, .rw, 64, .m, fun _ => true⟩
def Rf.CAD_GEOM_RESERVE : Fld := ⟨0x100010, 47, 40, .rw, 16, .m, fun x => decide (4 ≤ x) && decide (x ≤ 128)⟩
def Rf.CAD_PERIOD_PERIOD_NS : Fld := ⟨0x100018, 31, 0, .rw, 5120000, .m, fun x => decide (200000 ≤ x) && decide (x ≤ 1000000000)⟩
def Rf.CAD_START_TIME_NS : Fld := ⟨0x100020, 31, 0, .rw, 0, .m, fun _ => true⟩
def Rf.CAD_START_WRAP : Fld := ⟨0x100020, 63, 32, .rw, 0, .m, fun _ => true⟩
def Rf.CAD_MAXGAP_GAP_US : Fld := ⟨0x100028, 23, 0, .rw, 0, .m, fun _ => true⟩
def Rf.CAD_BUDGET_BUDGET : Fld := ⟨0x100030, 39, 0, .ro, 7680000, .m, fun _ => true⟩
def Rf.CAD_BUDGET_CLK_MHZ : Fld := ⟨0x100030, 63, 48, .ro, 1600, .p, fun _ => true⟩
def Rf.CAD_GEAR_CUR : Fld := ⟨0x100038, 2, 0, .ro, 0, .d, fun _ => true⟩
def Rf.CAD_GEAR_FLOOR : Fld := ⟨0x100038, 6, 4, .rw, 0, .m, fun x => decide (x ≤ 3)⟩
def Rf.CAD_GEAR_THERM : Fld := ⟨0x100038, 10, 8, .ro, 0, .d, fun _ => true⟩
def Rf.CAD_GEAR_STATE : Fld := ⟨0x100038, 13, 12, .ro, 0, .d, fun _ => true⟩
def Rf.CAD_GEAR_UP_CLEAN : Fld := ⟨0x100038, 31, 16, .rw, 64, .m, fun x => decide (1 ≤ x) && decide (x ≤ 65535)⟩
def Rf.CAD_GEAR_CLEAN_CNT : Fld := ⟨0x100038, 47, 32, .ro, 0, .d, fun _ => true⟩
def Rf.CAD_GEAR_HOLD_LAG : Fld := ⟨0x100038, 49, 48, .rw, 2, .m, fun x => decide (2 ≤ x) && decide (x ≤ 3)⟩
def Rf.CAD_BAND_BAND : Fld := ⟨0x100040, 63, 0, .ro, 0, .d, fun _ => true⟩
def Rf.CAD_HOLDINFO_FIRST : Fld := ⟨0x100048, 31, 0, .ro, 0, .d, fun _ => true⟩
def Rf.CAD_HOLDINFO_BACKLOG : Fld := ⟨0x100048, 47, 32, .ro, 0, .d, fun _ => true⟩
def Rf.CAD_HOLDINFO_LOST : Fld := ⟨0x100048, 63, 48, .rc, 0, .d, fun _ => true⟩
def Rf.CAD_LATE_LAST (i : Nat) : Fld := ⟨0x100060 + 0x8 * i, 31, 0, .ro, 0, .d, fun _ => true⟩
def Rf.CAD_LATE_COUNT (i : Nat) : Fld := ⟨0x100060 + 0x8 * i, 55, 32, .rc, 0, .d, fun _ => true⟩
def Rf.CAD_LATE_MAXLAG (i : Nat) : Fld := ⟨0x100060 + 0x8 * i, 63, 56, .rc, 0, .d, fun _ => true⟩
def Rf.CAD_CNT_FAST : Fld := ⟨0x100080, 15, 0, .rc, 0, .d, fun _ => true⟩
def Rf.CAD_CNT_PARTIAL : Fld := ⟨0x100080, 31, 16, .rc, 0, .d, fun _ => true⟩
def Rf.CAD_CNT_SURPLUS : Fld := ⟨0x100080, 47, 32, .rc, 0, .d, fun _ => true⟩
def Rf.CAD_CNT_EXT_IGN : Fld := ⟨0x100080, 63, 48, .rc, 0, .d, fun _ => true⟩
def Rf.CAD_TICK_TIME_NS : Fld := ⟨0x100088, 31, 0, .ro, 0, .d, fun _ => true⟩
def Rf.CAD_TICK_WRAP : Fld := ⟨0x100088, 63, 32, .ro, 0, .d, fun _ => true⟩
def Rf.SPK_PCFG_ENABLE (i : Nat) : Fld := ⟨0x200000 + 0x1000 * i, 0, 0, .rw, 0, .m, fun _ => true⟩
def Rf.SPK_PCFG_WIDTH (i : Nat) : Fld := ⟨0x200000 + 0x1000 * i, 3, 2, .rw, 2, .m, fun _ => true⟩
def Rf.SPK_PCFG_RATE (i : Nat) : Fld := ⟨0x200000 + 0x1000 * i, 5, 4, .rw, 3, .m, fun _ => true⟩
def Rf.SPK_PCFG_TRG_INBAND (i : Nat) : Fld := ⟨0x200000 + 0x1000 * i, 6, 6, .rw, 0, .m, fun _ => true⟩
def Rf.SPK_PCFG_BASE (i : Nat) : Fld := ⟨0x200000 + 0x1000 * i, 15, 8, .rw, (4 * i) % 256, .m, fun x => decide (x ≤ 191)⟩
def Rf.SPK_PCFG_LOAD_PCT (i : Nat) : Fld := ⟨0x200000 + 0x1000 * i, 22, 16, .rw, 0, .m, fun x => decide (x ≤ 100)⟩
def Rf.SPK_PCTRL_RELOCK (i : Nat) : Fld := ⟨0x200008 + 0x1000 * i, 0, 0, .wo, 0, .d, fun _ => true⟩
def Rf.SPK_PCTRL_RESTORE (i : Nat) : Fld := ⟨0x200008 + 0x1000 * i, 1, 1, .wo, 0, .d, fun _ => true⟩
def Rf.SPK_PSTAT_STATE (i : Nat) : Fld := ⟨0x200010 + 0x1000 * i, 2, 0, .ro, 0, .d, fun _ => true⟩
def Rf.SPK_PSTAT_STRIPE (i : Nat) : Fld := ⟨0x200010 + 0x1000 * i, 15, 8, .ro, 0, .d, fun _ => true⟩
def Rf.SPK_PSTAT_PENDING (i : Nat) : Fld := ⟨0x200010 + 0x1000 * i, 23, 16, .ro, 0, .d, fun _ => true⟩
def Rf.SPK_PSTAT_CARRIER (i : Nat) : Fld := ⟨0x200010 + 0x1000 * i, 26, 24, .ro, 0, .d, fun _ => true⟩
def Rf.SPK_PSTAT_LOAD (i : Nat) : Fld := ⟨0x200010 + 0x1000 * i, 63, 32, .ro, 0, .d, fun _ => true⟩
def Rf.SPK_PCAM_STATE (i : Nat) : Fld := ⟨0x200018 + 0x1000 * i, 7, 0, .ro, 0, .d, fun _ => true⟩
def Rf.SPK_PCAM_SSID (i : Nat) : Fld := ⟨0x200018 + 0x1000 * i, 15, 8, .ro, 0, .d, fun _ => true⟩
def Rf.SPK_PCAM_DN_MASK (i : Nat) : Fld := ⟨0x200018 + 0x1000 * i, 23, 16, .ro, 0, .d, fun _ => true⟩
def Rf.SPK_PCAM_TEMP (i : Nat) : Fld := ⟨0x200018 + 0x1000 * i, 31, 24, .ro, 0, .d, fun _ => true⟩
def Rf.SPK_PCAM_CAMFLAGS (i : Nat) : Fld := ⟨0x200018 + 0x1000 * i, 47, 32, .ro, 0, .d, fun _ => true⟩
def Rf.SPK_PCAM_AGE_US (i : Nat) : Fld := ⟨0x200018 + 0x1000 * i, 63, 48, .ro, 65535, .d, fun _ => true⟩
def Rf.SPK_PTMO_LINE_TMO_US (i : Nat) : Fld := ⟨0x200020 + 0x1000 * i, 15, 0, .rw, 1000, .m, fun x => decide (1 ≤ x) && decide (x ≤ 65535)⟩
def Rf.SPK_PTMO_SILENT_TMO_US (i : Nat) : Fld := ⟨0x200020 + 0x1000 * i, 39, 16, .rw, 5000, .m, fun x => decide (1000 ≤ x) && decide (x ≤ 16777215)⟩
def Rf.SPK_PTMO_SACK_TMO_US (i : Nat) : Fld := ⟨0x200020 + 0x1000 * i, 55, 40, .rw, 200, .m, fun x => decide (100 ≤ x) && decide (x ≤ 65535)⟩
def Rf.SPK_PCNT_BADLINE (i : Nat) : Fld := ⟨0x200028 + 0x1000 * i, 15, 0, .rc, 0, .d, fun _ => true⟩
def Rf.SPK_PCNT_NOEND (i : Nat) : Fld := ⟨0x200028 + 0x1000 * i, 31, 16, .rc, 0, .d, fun _ => true⟩
def Rf.SPK_PCNT_LTMO (i : Nat) : Fld := ⟨0x200028 + 0x1000 * i, 47, 32, .rc, 0, .d, fun _ => true⟩
def Rf.SPK_PCNT_ORPHAN (i : Nat) : Fld := ⟨0x200028 + 0x1000 * i, 63, 48, .rc, 0, .d, fun _ => true⟩
def Rf.SPK_PCNT2_BADCTL (i : Nat) : Fld := ⟨0x200030 + 0x1000 * i, 15, 0, .rc, 0, .d, fun _ => true⟩
def Rf.SPK_PCNT2_OVFL (i : Nat) : Fld := ⟨0x200030 + 0x1000 * i, 31, 16, .rc, 0, .d, fun _ => true⟩
def Rf.SPK_PCNT2_SACKMISS (i : Nat) : Fld := ⟨0x200030 + 0x1000 * i, 47, 32, .rc, 0, .d, fun _ => true⟩
def Rf.SPK_PCNT2_SACKREJ (i : Nat) : Fld := ⟨0x200030 + 0x1000 * i, 63, 48, .rc, 0, .d, fun _ => true⟩
def Rf.SPK_PRM_DEL (i : Nat) : Fld := ⟨0x200038 + 0x1000 * i, 31, 0, .rc, 0, .d, fun _ => true⟩
def Rf.SPK_PRM_INS (i : Nat) : Fld := ⟨0x200038 + 0x1000 * i, 63, 32, .rc, 0, .d, fun _ => true⟩
def Rf.SPK_PTRG_LSEQ (i : Nat) : Fld := ⟨0x200040 + 0x1000 * i, 31, 0, .ro, 0, .d, fun _ => true⟩
def Rf.SPK_PTRG_DIV (i : Nat) : Fld := ⟨0x200040 + 0x1000 * i, 35, 32, .ro, 1, .d, fun _ => true⟩
def Rf.SPK_PTRG_WITHHELD (i : Nat) : Fld := ⟨0x200040 + 0x1000 * i, 63, 40, .rc, 0, .d, fun _ => true⟩
def Rf.SPK_LN_STAT_BLK (i : Nat) : Fld := ⟨0x300000 + 0x100 * i, 1, 0, .ro, 0, .d, fun _ => true⟩
def Rf.SPK_LN_STAT_AMST (i : Nat) : Fld := ⟨0x300000 + 0x100 * i, 3, 2, .ro, 0, .d, fun _ => true⟩
def Rf.SPK_LN_STAT_LANE_ID (i : Nat) : Fld := ⟨0x300000 + 0x100 * i, 6, 4, .ro, 0, .d, fun _ => true⟩
def Rf.SPK_LN_STAT_LOST (i : Nat) : Fld := ⟨0x300000 + 0x100 * i, 7, 7, .ro, 0, .d, fun _ => true⟩
def Rf.SPK_LN_STAT_SKEW (i : Nat) : Fld := ⟨0x300000 + 0x100 * i, 15, 8, .ro, 0, .d, fun _ => true⟩
def Rf.SPK_LN_STAT_PPM (i : Nat) : Fld := ⟨0x300000 + 0x100 * i, 31, 16, .ro, 0, .d, fun _ => true⟩
def Rf.SPK_LN_EQ_TX_SWING (i : Nat) : Fld := ⟨0x300008 + 0x100 * i, 3, 0, .ro, 12, .p, fun _ => true⟩
def Rf.SPK_LN_EQ_TX_PRE (i : Nat) : Fld := ⟨0x300008 + 0x100 * i, 7, 4, .ro, 0, .p, fun _ => true⟩
def Rf.SPK_LN_EQ_TX_POST (i : Nat) : Fld := ⟨0x300008 + 0x100 * i, 12, 8, .ro, 6, .p, fun _ => true⟩
def Rf.SPK_LN_EQ_RX_CTLE (i : Nat) : Fld := ⟨0x300008 + 0x100 * i, 20, 16, .ro, 10, .p, fun _ => true⟩
def Rf.SPK_LN_EQ_RX_DFE (i : Nat) : Fld := ⟨0x300008 + 0x100 * i, 29, 24, .ro, 0, .p, fun _ => true⟩
def Rf.SPK_LN_EQ_POL_TX (i : Nat) : Fld := ⟨0x300008 + 0x100 * i, 32, 32, .ro, 0, .p, fun _ => true⟩
def Rf.SPK_LN_EQ_POL_RX (i : Nat) : Fld := ⟨0x300008 + 0x100 * i, 33, 33, .ro, 0, .p, fun _ => true⟩
def Rf.SPK_LN_EQ_DEFAULT (i : Nat) : Fld := ⟨0x300008 + 0x100 * i, 40, 40, .ro, 0, .p, fun _ => true⟩
def Rf.SPK_LN_CNT_BADHDR (i : Nat) : Fld := ⟨0x300010 + 0x100 * i, 15, 0, .rc, 0, .d, fun _ => true⟩
def Rf.SPK_LN_CNT_LOCKLOSS (i : Nat) : Fld := ⟨0x300010 + 0x100 * i, 31, 16, .rc, 0, .d, fun _ => true⟩
def Rf.SPK_LN_CNT_AMERR (i : Nat) : Fld := ⟨0x300010 + 0x100 * i, 47, 32, .rc, 0, .d, fun _ => true⟩
def Rf.SPK_FMT_BITS (i : Nat) : Fld := ⟨0x200100 + 0x1000 * i, 4, 0, .rw, 12, .m, fun x => decide (x = 8) || decide (x = 10) || decide (x = 12) || decide (x = 14) || decide (x = 16)⟩
def Rf.SPK_FMT_EXPOS (i : Nat) : Fld := ⟨0x200100 + 0x1000 * i, 5, 5, .rw, 0, .m, fun _ => true⟩
def Rf.SPK_FMT_COLOUR (i : Nat) : Fld := ⟨0x200100 + 0x1000 * i, 6, 6, .rw, 0, .m, fun _ => true⟩
def Rf.SPK_FMT_SPLIT (i : Nat) : Fld := ⟨0x200100 + 0x1000 * i, 7, 7, .rw, 0, .m, fun _ => true⟩
def Rf.SPK_FMT_WIDTH (i : Nat) : Fld := ⟨0x200100 + 0x1000 * i, 23, 8, .rw, 16383, .m, fun _ => true⟩
def Rf.SPK_FMT_FILL (i : Nat) : Fld := ⟨0x200100 + 0x1000 * i, 39, 24, .rw, 0, .m, fun _ => true⟩
def Rf.SPK_FMT_SET_LAT (i : Nat) : Fld := ⟨0x200100 + 0x1000 * i, 63, 48, .rw, 1, .m, fun x => decide (1 ≤ x) && decide (x ≤ 65535)⟩
def Rf.SPK_COLR_DLY0 (i : Nat) : Fld := ⟨0x200108 + 0x1000 * i, 5, 0, .rw, 0, .m, fun _ => true⟩
def Rf.SPK_COLR_DLY1 (i : Nat) : Fld := ⟨0x200108 + 0x1000 * i, 13, 8, .rw, 0, .m, fun _ => true⟩
def Rf.SPK_COLR_DLY2 (i : Nat) : Fld := ⟨0x200108 + 0x1000 * i, 21, 16, .rw, 0, .m, fun _ => true⟩
def Rf.SPK_RAW_BASE (i : Nat) : Fld := ⟨0x200110 + 0x1000 * i, 39, 0, .rw, 0, .m, fun x => decide (x % 4096 = 0)⟩
def Rf.SPK_RAWN_LINES (i : Nat) : Fld := ⟨0x200118 + 0x1000 * i, 31, 0, .rw, 0, .m, fun _ => true⟩
def Rf.SPK_RAWTAG_BASE (i : Nat) : Fld := ⟨0x200120 + 0x1000 * i, 39, 0, .rw, 0, .m, fun x => decide (x % 4096 = 0)⟩
def Rf.SPK_COR_BASE (i : Nat) : Fld := ⟨0x200128 + 0x1000 * i, 39, 0, .rw, 0, .m, fun x => decide (x % 4096 = 0)⟩
def Rf.SPK_COR_SLOTS (i : Nat) : Fld := ⟨0x200128 + 0x1000 * i, 47, 40, .rw, 4, .m, fun x => decide (4 ≤ x) && decide (x ≤ 255)⟩
def Rf.SPK_SETMSG_ADDR (i : Nat) : Fld := ⟨0x200130 + 0x1000 * i, 39, 0, .rw, 0, .m, fun x => decide (x % 64 = 0)⟩
def Rf.SPK_SETMSG_LEN (i : Nat) : Fld := ⟨0x200130 + 0x1000 * i, 47, 40, .rw, 0, .m, fun x => decide (1 ≤ x) && decide (x ≤ 240)⟩
def Rf.SPK_SETMSG_SSID (i : Nat) : Fld := ⟨0x200130 + 0x1000 * i, 55, 48, .rw, 0, .m, fun _ => true⟩
def Rf.SPK_SETBAND_BAND (i : Nat) : Fld := ⟨0x200138 + 0x1000 * i, 63, 0, .wo, 0, .d, fun _ => true⟩
def Rf.SPK_SETSTAT_STATE (i : Nat) : Fld := ⟨0x200140 + 0x1000 * i, 1, 0, .ro, 0, .d, fun _ => true⟩
def Rf.SPK_SETSTAT_S0 (i : Nat) : Fld := ⟨0x200140 + 0x1000 * i, 15, 8, .ro, 0, .d, fun _ => true⟩
def Rf.SPK_SETSTAT_S1 (i : Nat) : Fld := ⟨0x200140 + 0x1000 * i, 23, 16, .ro, 0, .d, fun _ => true⟩
def Rf.SPK_SETSTAT_CUT_LSEQ (i : Nat) : Fld := ⟨0x200140 + 0x1000 * i, 63, 32, .ro, 0, .d, fun _ => true⟩
def Rf.SPK_LCNT_SHORT (i : Nat) : Fld := ⟨0x200148 + 0x1000 * i, 15, 0, .rc, 0, .d, fun _ => true⟩
def Rf.SPK_LCNT_LONG (i : Nat) : Fld := ⟨0x200148 + 0x1000 * i, 31, 16, .rc, 0, .d, fun _ => true⟩
def Rf.SPK_LCNT_SYNTH (i : Nat) : Fld := ⟨0x200148 + 0x1000 * i, 47, 32, .rc, 0, .d, fun _ => true⟩
def Rf.SPK_LCNT_SURPLUS (i : Nat) : Fld := ⟨0x200148 + 0x1000 * i, 63, 48, .rc, 0, .d, fun _ => true⟩
def Rf.SPK_LCNT2_SSIDX (i : Nat) : Fld := ⟨0x200150 + 0x1000 * i, 15, 0, .rc, 0, .d, fun _ => true⟩
def Rf.SPK_LCNT2_LATE (i : Nat) : Fld := ⟨0x200150 + 0x1000 * i, 31, 16, .rc, 0, .d, fun _ => true⟩
def Rf.SPK_LCNT2_LATEFETCH (i : Nat) : Fld := ⟨0x200150 + 0x1000 * i, 47, 32, .rc, 0, .d, fun _ => true⟩
def Rf.SPK_LCNT2_SETREF (i : Nat) : Fld := ⟨0x200150 + 0x1000 * i, 63, 48, .rc, 0, .d, fun _ => true⟩
def Rf.SPK_RAWPOS_NEXT (i : Nat) : Fld := ⟨0x200158 + 0x1000 * i, 63, 0, .ro, 0, .d, fun _ => true⟩
def Rf.POS_ENC_CFG_FILT (i : Nat) : Fld := ⟨0xB00000 + 0x80 * i, 7, 0, .rw, 1, .a, fun x => decide (1 ≤ x) && decide (x ≤ 255)⟩
def Rf.POS_ENC_CFG_DIRINV (i : Nat) : Fld := ⟨0xB00000 + 0x80 * i, 8, 8, .rw, 0, .a, fun _ => true⟩
def Rf.POS_ENC_CFG_EN (i : Nat) : Fld := ⟨0xB00000 + 0x80 * i, 9, 9, .rw, 0, .a, fun _ => true⟩
def Rf.POS_ENC_CFG_TOL (i : Nat) : Fld := ⟨0xB00000 + 0x80 * i, 31, 16, .rw, 0, .a, fun _ => true⟩
def Rf.POS_ENC_CFG_VAVG (i : Nat) : Fld := ⟨0xB00000 + 0x80 * i, 35, 32, .rw, 4, .a, fun x => decide (x ≤ 8)⟩
def Rf.POS_ENC_CFG_STOP_US (i : Nat) : Fld := ⟨0xB00000 + 0x80 * i, 63, 40, .rw, 10000, .a, fun x => decide (1 ≤ x) && decide (x ≤ 16777215)⟩
def Rf.POS_ENC_CTRL_LOAD (i : Nat) : Fld := ⟨0xB00030 + 0x80 * i, 0, 0, .wo, 0, .d, fun _ => true⟩
def Rf.POS_ENC_CTRL_LOAD_IDX (i : Nat) : Fld := ⟨0xB00030 + 0x80 * i, 1, 1, .wo, 0, .d, fun _ => true⟩
def Rf.POS_ENC_CTRL_DISARM (i : Nat) : Fld := ⟨0xB00030 + 0x80 * i, 2, 2, .wo, 0, .d, fun _ => true⟩
def Rf.POS_ENC_STAT_STOPPED (i : Nat) : Fld := ⟨0xB00040 + 0x80 * i, 0, 0, .ro, 1, .d, fun _ => true⟩
def Rf.POS_ENC_STAT_DIR (i : Nat) : Fld := ⟨0xB00040 + 0x80 * i, 1, 1, .ro, 0, .d, fun _ => true⟩
def Rf.POS_ENC_STAT_ARMED (i : Nat) : Fld := ⟨0xB00040 + 0x80 * i, 2, 2, .ro, 0, .d, fun _ => true⟩
def Rf.POS_ENC_STAT_ERR (i : Nat) : Fld := ⟨0xB00040 + 0x80 * i, 31, 16, .rc, 0, .d, fun _ => true⟩
def Rf.POS_ENC_STAT_DRIFT (i : Nat) : Fld := ⟨0xB00040 + 0x80 * i, 47, 32, .rc, 0, .d, fun _ => true⟩
def Rf.POS_ENC_STAT_INDEX (i : Nat) : Fld := ⟨0xB00040 + 0x80 * i, 63, 48, .rc, 0, .d, fun _ => true⟩
def Rf.POS_SSP_CFG_PROTO (i : Nat) : Fld := ⟨0xB00400 + 0x40 * i, 1, 0, .rw, 0, .m, fun x => decide (x < 3)⟩
def Rf.POS_SSP_CFG_EN (i : Nat) : Fld := ⟨0xB00400 + 0x40 * i, 2, 2, .rw, 0, .m, fun _ => true⟩
def Rf.POS_SSP_CFG_BITS (i : Nat) : Fld := ⟨0xB00400 + 0x40 * i, 13, 8, .rw, 24, .m, fun x => decide (8 ≤ x) && decide (x ≤ 48)⟩
def Rf.POS_SSP_CFG_CLK_KHZ (i : Nat) : Fld := ⟨0xB00400 + 0x40 * i, 29, 16, .rw, 1000, .m, fun x => decide (100 ≤ x) && decide (x ≤ 10000)⟩
def Rf.POS_SSP_CFG_POLL_US (i : Nat) : Fld := ⟨0xB00400 + 0x40 * i, 41, 32, .rw, 64, .m, fun x => decide (2 ≤ x) && decide (x ≤ 1000)⟩
def Rf.POS_SSP_STAT_CRCERR (i : Nat) : Fld := ⟨0xB00418 + 0x40 * i, 15, 0, .rc, 0, .d, fun _ => true⟩
def Rf.POS_SSP_STAT_NERR (i : Nat) : Fld := ⟨0xB00418 + 0x40 * i, 31, 16, .rc, 0, .d, fun _ => true⟩
def Rf.POS_SSP_STAT_NORESP (i : Nat) : Fld := ⟨0xB00418 + 0x40 * i, 47, 32, .rc, 0, .d, fun _ => true⟩
def Rf.POS_SSP_STAT_JUMPREJ (i : Nat) : Fld := ⟨0xB00418 + 0x40 * i, 63, 48, .rc, 0, .d, fun _ => true⟩
def Rf.POS_SSP_FLAG_STALE (i : Nat) : Fld := ⟨0xB00420 + 0x40 * i, 0, 0, .ro, 1, .d, fun _ => true⟩
def Rf.POS_SSP_FLAG_WARN (i : Nat) : Fld := ⟨0xB00420 + 0x40 * i, 1, 1, .ro, 0, .d, fun _ => true⟩
def Rf.POS_SSP_FLAG_TIME_NS (i : Nat) : Fld := ⟨0xB00420 + 0x40 * i, 63, 32, .ro, 0, .d, fun _ => true⟩
def Rf.POS_DIN_CFG_FILT (i : Nat) : Fld := ⟨0xB00600 + 0x40 * i, 7, 0, .rw, 1, .m, fun x => decide (1 ≤ x) && decide (x ≤ 255)⟩
def Rf.POS_DIN_CFG_EDGE (i : Nat) : Fld := ⟨0xB00600 + 0x40 * i, 9, 8, .rw, 0, .m, fun x => decide (x < 3)⟩
def Rf.POS_DIN_CFG_REPEAT (i : Nat) : Fld := ⟨0xB00600 + 0x40 * i, 10, 10, .rw, 0, .m, fun _ => true⟩
def Rf.POS_DIN_CFG_LATCH_CH (i : Nat) : Fld := ⟨0xB00600 + 0x40 * i, 15, 12, .rw, 0, .m, fun x => decide (x ≤ 11)⟩
def Rf.POS_DIN_CFG_REP_CHAIN (i : Nat) : Fld := ⟨0xB00600 + 0x40 * i, 23, 16, .rw, 0, .m, fun _ => true⟩
def Rf.POS_DIN_STAT_LEVEL (i : Nat) : Fld := ⟨0xB00620 + 0x40 * i, 0, 0, .ro, 0, .d, fun _ => true⟩
def Rf.POS_DIN_STAT_LOCKED (i : Nat) : Fld := ⟨0xB00620 + 0x40 * i, 1, 1, .ro, 0, .d, fun _ => true⟩
def Rf.POS_DIN_STAT_SPUR (i : Nat) : Fld := ⟨0xB00620 + 0x40 * i, 31, 16, .rc, 0, .d, fun _ => true⟩
def Rf.POS_DIN_STAT_MISSED (i : Nat) : Fld := ⟨0xB00620 + 0x40 * i, 47, 32, .rc, 0, .d, fun _ => true⟩
def Rf.POS_DIN_STAT_EDGES (i : Nat) : Fld := ⟨0xB00620 + 0x40 * i, 63, 48, .rc, 0, .d, fun _ => true⟩
def Rf.POS_TG_CFG_SRC (i : Nat) : Fld := ⟨0xB01000 + 0x40 * i, 2, 0, .rw, 0, .m, fun x => decide (x < 4) || (decide (x = 4) && decide (48 ≤ i))⟩
def Rf.POS_TG_CFG_EN (i : Nat) : Fld := ⟨0xB01000 + 0x40 * i, 3, 3, .rw, 0, .m, fun _ => true⟩
def Rf.POS_TG_CFG_DIR (i : Nat) : Fld := ⟨0xB01000 + 0x40 * i, 4, 4, .rw, 0, .m, fun _ => true⟩
def Rf.POS_TG_CFG_CH (i : Nat) : Fld := ⟨0xB01000 + 0x40 * i, 11, 8, .rw, 0, .m, fun x => decide (x ≤ 7)⟩
def Rf.POS_TG_CFG_LATCH_CH (i : Nat) : Fld := ⟨0xB01000 + 0x40 * i, 15, 12, .rw, 0, .m, fun x => decide (x ≤ 11)⟩
def Rf.POS_TG_CFG_DIN (i : Nat) : Fld := ⟨0xB01000 + 0x40 * i, 18, 16, .rw, 0, .m, fun _ => true⟩
def Rf.POS_TG_CFG_DIV (i : Nat) : Fld := ⟨0xB01000 + 0x40 * i, 27, 20, .rw, 1, .m, fun x => decide (1 ≤ x) && decide (x ≤ 255)⟩
def Rf.POS_TG_CFG_DELAY_NS (i : Nat) : Fld := ⟨0xB01000 + 0x40 * i, 51, 32, .rw, 0, .m, fun _ => true⟩
def Rf.POS_TG_CFG_PW (i : Nat) : Fld := ⟨0xB01000 + 0x40 * i, 63, 56, .rw, 20, .m, fun x => decide (1 ≤ x) && decide (x ≤ 255)⟩
def Rf.POS_TG_STAT_EVENTS (i : Nat) : Fld := ⟨0xB01038 + 0x40 * i, 31, 0, .ro, 0, .d, fun _ => true⟩
def Rf.POS_TG_STAT_BRAKED (i : Nat) : Fld := ⟨0xB01038 + 0x40 * i, 47, 32, .rc, 0, .d, fun _ => true⟩
def Rf.POS_TG_STAT_DROPPED (i : Nat) : Fld := ⟨0xB01038 + 0x40 * i, 63, 48, .rc, 0, .d, fun _ => true⟩
def Rf.POS_CMP_CFG_CH (i : Nat) : Fld := ⟨0xB02000 + 0x200 * i, 3, 0, .rw, 0, .m, fun x => decide (x ≤ 11)⟩
def Rf.POS_CMP_CFG_DIR (i : Nat) : Fld := ⟨0xB02000 + 0x200 * i, 4, 4, .rw, 0, .m, fun _ => true⟩
def Rf.POS_CMP_CFG_FIRE_LATE (i : Nat) : Fld := ⟨0xB02000 + 0x200 * i, 5, 5, .rw, 0, .m, fun _ => true⟩
def Rf.POS_CMP_CFG_EN (i : Nat) : Fld := ⟨0xB02000 + 0x200 * i, 6, 6, .rw, 0, .m, fun _ => true⟩
def Rf.POS_CMP_CFG_PW_US (i : Nat) : Fld := ⟨0xB02000 + 0x200 * i, 23, 8, .rw, 1000, .m, fun x => decide (1 ≤ x) && decide (x ≤ 65535)⟩
def Rf.POS_CMP_CFG_LEAD_NS (i : Nat) : Fld := ⟨0xB02000 + 0x200 * i, 47, 24, .rw, 0, .m, fun _ => true⟩
def Rf.POS_CMP_CTRL_FLUSH (i : Nat) : Fld := ⟨0xB02028 + 0x200 * i, 0, 0, .wo, 0, .d, fun _ => true⟩
def Rf.POS_CMP_STAT_DEPTH (i : Nat) : Fld := ⟨0xB02030 + 0x200 * i, 12, 0, .ro, 0, .d, fun _ => true⟩
def Rf.POS_CMP_STAT_FIRED (i : Nat) : Fld := ⟨0xB02030 + 0x200 * i, 31, 16, .rc, 0, .d, fun _ => true⟩
def Rf.POS_CMP_STAT_LATE (i : Nat) : Fld := ⟨0xB02030 + 0x200 * i, 47, 32, .rc, 0, .d, fun _ => true⟩
def Rf.POS_CMP_STAT_LATEF (i : Nat) : Fld := ⟨0xB02030 + 0x200 * i, 63, 48, .rc, 0, .d, fun _ => true⟩
def Rf.POS_MK_CFG_MK_EN (i : Nat) : Fld := ⟨0xB02040 + 0x200 * i, 0, 0, .rw, 0, .m, fun _ => true⟩
def Rf.POS_MK_CFG_SPAN (i : Nat) : Fld := ⟨0xB02040 + 0x200 * i, 1, 1, .rw, 0, .m, fun _ => true⟩
def Rf.POS_MK_CFG_CONFIRM (i : Nat) : Fld := ⟨0xB02040 + 0x200 * i, 2, 2, .rw, 1, .m, fun _ => true⟩
def Rf.POS_MK_CFG_LMASK (i : Nat) : Fld := ⟨0xB02040 + 0x200 * i, 15, 8, .rw, 0, .m, fun _ => true⟩
def Rf.POS_MK_HEAD_XLO (i : Nat) (j : Nat) : Fld := ⟨0xB02100 + 0x200 * i + 0x8 * j, 19, 0, .rw, 0, .m, fun _ => true⟩
def Rf.POS_MK_HEAD_XHI (i : Nat) (j : Nat) : Fld := ⟨0xB02100 + 0x200 * i + 0x8 * j, 39, 20, .rw, 0, .m, fun _ => true⟩
def Rf.POS_MK_HEAD_OUT (i : Nat) (j : Nat) : Fld := ⟨0xB02100 + 0x200 * i + 0x8 * j, 43, 40, .rw, 0, .m, fun _ => true⟩
def Rf.POS_MK_HEAD_EN (i : Nat) (j : Nat) : Fld := ⟨0xB02100 + 0x200 * i + 0x8 * j, 44, 44, .rw, 0, .m, fun _ => true⟩
def Rf.POS_MK_CNT_OVER (i : Nat) : Fld := ⟨0xB02080 + 0x200 * i, 15, 0, .rc, 0, .d, fun _ => true⟩
def Rf.POS_MK_CNT_FULL (i : Nat) : Fld := ⟨0xB02080 + 0x200 * i, 31, 16, .rc, 0, .d, fun _ => true⟩
def Rf.POS_MK_CNT_NOHEAD (i : Nat) : Fld := ⟨0xB02080 + 0x200 * i, 47, 32, .rc, 0, .d, fun _ => true⟩
def Rf.POS_MK_CNT_CONFLOST (i : Nat) : Fld := ⟨0xB02080 + 0x200 * i, 63, 48, .rc, 0, .d, fun _ => true⟩
def Rf.POS_EMU_CFG_CH (i : Nat) : Fld := ⟨0xB03000 + 0x40 * i, 3, 0, .rw, 0, .m, fun x => decide (x ≤ 11)⟩
def Rf.POS_EMU_CFG_EN (i : Nat) : Fld := ⟨0xB03000 + 0x40 * i, 4, 4, .rw, 0, .m, fun _ => true⟩
def Rf.POS_EMU_CFG_NUM (i : Nat) : Fld := ⟨0xB03000 + 0x40 * i, 31, 16, .rw, 1, .m, fun x => decide (1 ≤ x) && decide (x ≤ 65535)⟩
def Rf.POS_EMU_CFG_DEN (i : Nat) : Fld := ⟨0xB03000 + 0x40 * i, 47, 32, .rw, 1, .m, fun x => decide (1 ≤ x) && decide (x ≤ 65535)⟩
def Rf.POS_EMU_CFG_IDX (i : Nat) : Fld := ⟨0xB03000 + 0x40 * i, 63, 48, .rw, 0, .m, fun x => decide (x = 0) || decide (4 ≤ x)⟩
def Rf.POS_EMU_STAT_BACKLOG (i : Nat) : Fld := ⟨0xB03010 + 0x40 * i, 31, 0, .ro, 0, .d, fun _ => true⟩
def Rf.POS_EMU_STAT_REBASE (i : Nat) : Fld := ⟨0xB03010 + 0x40 * i, 47, 32, .rc, 0, .d, fun _ => true⟩
def Rf.POS_ENC_CPI_CPI (i : Nat) : Fld := ⟨0xB00008 + 0x80 * i, 31, 0, .rw, 0, .a, fun _ => true⟩
def Rf.POS_ENC_CNT_COUNT (i : Nat) : Fld := ⟨0xB00010 + 0x80 * i, 63, 0, .ro, 0, .a, fun _ => true⟩
def Rf.POS_ENC_IDX_LAST (i : Nat) : Fld := ⟨0xB00018 + 0x80 * i, 63, 0, .ro, 0, .a, fun _ => true⟩
def Rf.POS_ENC_IDXP_PREV (i : Nat) : Fld := ⟨0xB00020 + 0x80 * i, 63, 0, .ro, 0, .a, fun _ => true⟩
def Rf.POS_ENC_PRESET_VALUE (i : Nat) : Fld := ⟨0xB00028 + 0x80 * i, 63, 0, .rw, 0, .a, fun _ => true⟩
def Rf.POS_ENC_VEL_VEL (i : Nat) : Fld := ⟨0xB00038 + 0x80 * i, 63, 0, .ro, 0, .d, fun _ => true⟩
def Rf.POS_SSP_JUMP_JUMP (i : Nat) : Fld := ⟨0xB00408 + 0x40 * i, 31, 0, .rw, 4294967295, .m, fun _ => true⟩
def Rf.POS_SSP_CNT_COUNT (i : Nat) : Fld := ⟨0xB00410 + 0x40 * i, 63, 0, .ro, 0, .d, fun _ => true⟩
def Rf.POS_DIN_REP_PERIOD (i : Nat) : Fld := ⟨0xB00608 + 0x40 * i, 39, 0, .rw, 0, .m, fun _ => true⟩
def Rf.POS_DIN_REP_TOL (i : Nat) : Fld := ⟨0xB00608 + 0x40 * i, 63, 40, .rw, 0, .m, fun _ => true⟩
def Rf.POS_DIN_LAT_COUNT (i : Nat) : Fld := ⟨0xB00610 + 0x40 * i, 63, 0, .ro, 0, .d, fun _ => true⟩
def Rf.POS_DIN_TIME_TIME_NS (i : Nat) : Fld := ⟨0xB00618 + 0x40 * i, 31, 0, .ro, 0, .d, fun _ => true⟩
def Rf.POS_DIN_TIME_WRAP (i : Nat) : Fld := ⟨0xB00618 + 0x40 * i, 63, 32, .ro, 0, .d, fun _ => true⟩
def Rf.POS_TG_ORIGIN_ORIGIN (i : Nat) : Fld := ⟨0xB01008 + 0x40 * i, 63, 0, .rw, 0, .m, fun _ => true⟩
def Rf.POS_TG_PITCH_PITCH (i : Nat) : Fld := ⟨0xB01010 + 0x40 * i, 63, 0, .rw, 68719476736, .m, fun x => decide (2 ^ 32 ≤ x)⟩
def Rf.POS_TG_START_TIME_NS (i : Nat) : Fld := ⟨0xB01018 + 0x40 * i, 31, 0, .rw, 0, .m, fun _ => true⟩
def Rf.POS_TG_START_WRAP (i : Nat) : Fld := ⟨0xB01018 + 0x40 * i, 63, 32, .rw, 0, .m, fun _ => true⟩
def Rf.POS_TG_PERIOD_PERIOD (i : Nat) : Fld := ⟨0xB01020 + 0x40 * i, 63, 0, .rw, 21474836480000, .m, fun x => decide (1000 * 2 ^ 32 ≤ x)⟩
def Rf.POS_TG_LAST_COUNT (i : Nat) : Fld := ⟨0xB01028 + 0x40 * i, 63, 0, .ro, 0, .d, fun _ => true⟩
def Rf.POS_TG_LTIME_TIME_NS (i : Nat) : Fld := ⟨0xB01030 + 0x40 * i, 31, 0, .ro, 0, .d, fun _ => true⟩
def Rf.POS_TG_LTIME_WRAP (i : Nat) : Fld := ⟨0xB01030 + 0x40 * i, 63, 32, .ro, 0, .d, fun _ => true⟩
def Rf.POS_CMP_STG_E (i : Nat) (j : Nat) : Fld := ⟨0xB02008 + 0x200 * i + 0x8 * j, 63, 0, .rw, 0, .d, fun _ => true⟩
def Rf.POS_CMP_APPEND_E3 (i : Nat) : Fld := ⟨0xB02020 + 0x200 * i, 63, 0, .wo, 0, .d, fun _ => true⟩
def Rf.POS_CMP_HEAD_POS (i : Nat) : Fld := ⟨0xB02038 + 0x200 * i, 63, 0, .ro, 0, .d, fun _ => true⟩
def Rf.POS_MK_OFS_OFFSET (i : Nat) : Fld := ⟨0xB02048 + 0x200 * i, 63, 0, .rw, 0, .m, fun x => decide (x ≤ 2 ^ 62)⟩
def Rf.POS_MK_PAD_PRE (i : Nat) : Fld := ⟨0xB02050 + 0x200 * i, 31, 0, .rw, 0, .m, fun _ => true⟩
def Rf.POS_MK_PAD_POST (i : Nat) : Fld := ⟨0xB02050 + 0x200 * i, 63, 32, .rw, 0, .m, fun _ => true⟩
def Rf.POS_MK_CLS_CLASSES (i : Nat) (j : Nat) : Fld := ⟨0xB02060 + 0x200 * i + 0x8 * j, 63, 0, .rw, 0, .m, fun _ => true⟩
def Rf.POS_MK_CHAINS_MARK_CHAIN : Fld := ⟨0xB03800, 7, 0, .rw, 0, .m, fun _ => true⟩
def Rf.POS_MK_CHAINS_CONF_CHAIN : Fld := ⟨0xB03800, 15, 8, .rw, 0, .m, fun _ => true⟩
def Rf.POS_MK_OUT_LEVEL : Fld := ⟨0xB03808, 15, 0, .ro, 0, .d, fun _ => true⟩
def Rf.FUS_GEOM_WIDTH : Fld := ⟨0x400000, 19, 0, .rw, 1048575, .m, fun x => decide (63 ≤ x) && decide (x ≤ 1048575)⟩
def Rf.FUS_GEOM_PLANES : Fld := ⟨0x400000, 20, 20, .rw, 0, .m, fun _ => true⟩
def Rf.FUS_GEOM_REFPORT : Fld := ⟨0x400000, 29, 24, .rw, 0, .m, fun x => decide (x ≤ 47)⟩
def Rf.FUS_RING_BASE : Fld := ⟨0x400008, 39, 0, .rw, 0, .m, fun x => decide (x % 4096 = 0)⟩
def Rf.FUS_RING_SLOTS : Fld := ⟨0x400008, 47, 40, .rw, 4, .m, fun x => decide (4 ≤ x) && decide (x ≤ 255)⟩
def Rf.FUS_LAYOUT_LSK : Fld := ⟨0x400010, 19, 0, .ro, 131072, .m, fun _ => true⟩
def Rf.FUS_LAYOUT_MBK : Fld := ⟨0x400010, 47, 32, .ro, 8192, .m, fun _ => true⟩
def Rf.FUS_SLOTB_SLOT_BYTES : Fld := ⟨0x400018, 39, 0, .ro, 0, .m, fun _ => true⟩
def Rf.FUS_STRIP_FIRST (i : Nat) : Fld := ⟨0x400040 + 0x8 * i, 19, 0, .ro, 0, .m, fun _ => true⟩
def Rf.FUS_STRIP_LAST (i : Nat) : Fld := ⟨0x400040 + 0x8 * i, 39, 20, .ro, 0, .m, fun _ => true⟩
def Rf.FUS_CAM_CFG_EN (i : Nat) : Fld := ⟨0x401000 + 0x40 * i, 0, 0, .rw, 0, .m, fun _ => true⟩
def Rf.FUS_CAM_CFG_HTAPS (i : Nat) : Fld := ⟨0x401000 + 0x40 * i, 1, 1, .rw, 1, .m, fun _ => true⟩
def Rf.FUS_CAM_CFG_VTAPS (i : Nat) : Fld := ⟨0x401000 + 0x40 * i, 2, 2, .rw, 1, .m, fun _ => true⟩
def Rf.FUS_CAM_CFG_DLY (i : Nat) : Fld := ⟨0x401000 + 0x40 * i, 36, 16, .rw, 0, .m, fun x => decide (x ≤ 4096 * 256)⟩
def Rf.FUS_CAM_SPAN_U_LO (i : Nat) : Fld := ⟨0x401008 + 0x40 * i, 19, 0, .rw, 0, .m, fun _ => true⟩
def Rf.FUS_CAM_SPAN_U_HI (i : Nat) : Fld := ⟨0x401008 + 0x40 * i, 39, 20, .rw, 0, .m, fun _ => true⟩
def Rf.FUS_CAM_F0_F0 (i : Nat) : Fld := ⟨0x401010 + 0x40 * i, 63, 0, .rw, 0, .m, fun _ => true⟩
def Rf.FUS_CAM_F1_F1 (i : Nat) : Fld := ⟨0x401018 + 0x40 * i, 63, 0, .rw, 281474976710656, .m, fun _ => true⟩
def Rf.FUS_CAM_F2_F2 (i : Nat) : Fld := ⟨0x401020 + 0x40 * i, 63, 0, .rw, 0, .m, fun _ => true⟩
def Rf.FUS_CAM_F3_F3 (i : Nat) : Fld := ⟨0x401028 + 0x40 * i, 63, 0, .rw, 0, .m, fun _ => true⟩
def Rf.FUS_CAM_STAT_INV (i : Nat) : Fld := ⟨0x401030 + 0x40 * i, 31, 0, .rc, 0, .d, fun _ => true⟩
def Rf.FUS_CAM_STAT_CUT (i : Nat) : Fld := ⟨0x401030 + 0x40 * i, 63, 32, .rc, 0, .d, fun _ => true⟩
def Rf.SIV_GEOM_LAG : Fld := ⟨0x500000, 1, 0, .rw, 2, .m, fun x => decide (x ≤ 2)⟩
def Rf.SIV_GEOM_HYST : Fld := ⟨0x500000, 2, 2, .rw, 1, .m, fun _ => true⟩
def Rf.SIV_GEOM_LOOK_CYC : Fld := ⟨0x500000, 31, 8, .rw, 32000, .m, fun x => decide (1 ≤ x) && decide (x ≤ 16777215)⟩
def Rf.SIV_GEOM_SEAM_CAP : Fld := ⟨0x500000, 45, 32, .rw, 4096, .m, fun x => decide (1 ≤ x) && decide (x ≤ 16383)⟩
def Rf.SIV_GEOM_DEFCLS : Fld := ⟨0x500000, 55, 48, .rw, 0, .m, fun _ => true⟩
def Rf.SIV_CHAINS_SEAM : Fld := ⟨0x500008, 7, 0, .rw, 0, .m, fun _ => true⟩
def Rf.SIV_CHAINS_REC_BASE : Fld := ⟨0x500008, 15, 8, .rw, 0, .m, fun _ => true⟩
def Rf.SIV_CHAINS_PCH_BASE : Fld := ⟨0x500008, 23, 16, .rw, 0, .m, fun _ => true⟩
def Rf.SIV_PREF_EN : Fld := ⟨0x500020, 0, 0, .rw, 0, .m, fun _ => true⟩
def Rf.SIV_PREF_DIN : Fld := ⟨0x500020, 3, 1, .rw, 0, .m, fun _ => true⟩
def Rf.SIV_PREF_DIR : Fld := ⟨0x500020, 4, 4, .rw, 0, .m, fun _ => true⟩
def Rf.SIV_PREF_PLINES : Fld := ⟨0x500020, 28, 16, .rw, 1, .m, fun x => decide (1 ≤ x) && decide (x ≤ 4096)⟩
def Rf.SIV_PLOG_BASE : Fld := ⟨0x500038, 39, 0, .rw, 0, .m, fun x => decide (x % 4096 = 0)⟩
def Rf.SIV_PLOG_SLOTS : Fld := ⟨0x500038, 47, 40, .rw, 4, .m, fun x => decide (1 ≤ x) && decide (x ≤ 255)⟩
def Rf.SIV_CLOSE_BAND : Fld := ⟨0x500060, 31, 0, .ro, 0, .d, fun _ => true⟩
def Rf.SIV_CLOSE_LAST_US : Fld := ⟨0x500060, 47, 32, .ro, 0, .d, fun _ => true⟩
def Rf.SIV_CLOSE_MAX_US : Fld := ⟨0x500060, 63, 48, .rc, 0, .d, fun _ => true⟩
def Rf.SIV_CNT_RECORDS : Fld := ⟨0x500068, 31, 0, .rc, 0, .d, fun _ => true⟩
def Rf.SIV_CNT_DISCARD : Fld := ⟨0x500068, 47, 32, .rc, 0, .d, fun _ => true⟩
def Rf.SIV_CNT_STORM : Fld := ⟨0x500068, 63, 48, .rc, 0, .d, fun _ => true⟩
def Rf.SIV_CNT2_UNIONS : Fld := ⟨0x500070, 31, 0, .rc, 0, .d, fun _ => true⟩
def Rf.SIV_CNT2_PKTERR : Fld := ⟨0x500070, 47, 32, .rc, 0, .d, fun _ => true⟩
def Rf.SIV_CNT2_NULLPH : Fld := ⟨0x500070, 63, 48, .rc, 0, .d, fun _ => true⟩
def Rf.SIV_SEQ_NEXT_ID : Fld := ⟨0x500078, 31, 0, .ro, 1, .d, fun _ => true⟩
def Rf.SIV_SEQ_EPOCH : Fld := ⟨0x500078, 47, 32, .ro, 0, .a, fun _ => true⟩
def Rf.SIV_SEQ_CLEAN : Fld := ⟨0x500078, 48, 48, .ro, 0, .m, fun _ => true⟩
def Rf.SIV_LMT_BASE : Fld := ⟨0x500010, 39, 0, .rw, 0, .m, fun _ => true⟩
def Rf.SIV_SEAMA_BASE : Fld := ⟨0x500018, 39, 0, .rw, 0, .m, fun _ => true⟩
def Rf.SIV_PREF_BASE_BASE : Fld := ⟨0x500028, 39, 0, .rw, 0, .m, fun _ => true⟩
def Rf.SIV_PREF_PITCH_PITCH : Fld := ⟨0x500030, 63, 0, .rw, 4294967296, .m, fun x => decide (0 < x)⟩
def Rf.SIV_MARKCLS_CLASSES (i : Nat) : Fld := ⟨0x500040 + 0x8 * i, 63, 0, .rw, 0, .m, fun _ => true⟩
def Rf.SIV_LOOK_BOUND (i : Nat) : Fld := ⟨0x500100 + 0x8 * i, 31, 0, .ro, 4294967295, .m, fun _ => true⟩
def Rf.SIV_RULE0_EN (i : Nat) : Fld := ⟨0x502000 + 0x20 * i, 0, 0, .rw, 0, .m, fun _ => true⟩
def Rf.SIV_RULE0_CLASS (i : Nat) : Fld := ⟨0x502000 + 0x20 * i, 15, 8, .rw, 0, .m, fun _ => true⟩
def Rf.SIV_RULE0_FA (i : Nat) : Fld := ⟨0x502000 + 0x20 * i, 20, 16, .rw, 0, .m, fun _ => true⟩
def Rf.SIV_RULE0_FB (i : Nat) : Fld := ⟨0x502000 + 0x20 * i, 28, 24, .rw, 0, .m, fun _ => true⟩
def Rf.SIV_RULE0_FC (i : Nat) : Fld := ⟨0x502000 + 0x20 * i, 36, 32, .rw, 0, .m, fun _ => true⟩
def Rf.SIV_RULEC_LO (i : Nat) (j : Nat) : Fld := ⟨0x502008 + 0x20 * i + 0x8 * j, 31, 0, .rw, 0, .m, fun _ => true⟩
def Rf.SIV_RULEC_HI (i : Nat) (j : Nat) : Fld := ⟨0x502008 + 0x20 * i + 0x8 * j, 63, 32, .rw, 4294967295, .m, fun _ => true⟩
def Rf.PAK_CHAINS_OUT_BASE : Fld := ⟨0x600000, 7, 0, .rw, 0, .m, fun _ => true⟩
def Rf.PAK_CHAINS_CREQ_BASE : Fld := ⟨0x600000, 15, 8, .rw, 0, .m, fun _ => true⟩
def Rf.PAK_CHAINS_CROP : Fld := ⟨0x600000, 23, 16, .rw, 0, .m, fun _ => true⟩
def Rf.PAK_CHAINS_STATS : Fld := ⟨0x600000, 31, 24, .rw, 0, .m, fun _ => true⟩
def Rf.PAK_CROP_EN : Fld := ⟨0x600010, 0, 0, .rw, 0, .m, fun _ => true⟩
def Rf.PAK_CROP_MAXBAND : Fld := ⟨0x600010, 31, 16, .rw, 256, .m, fun _ => true⟩
def Rf.PAK_TC0_SLACK_US : Fld := ⟨0x600018, 15, 0, .rw, 16, .m, fun x => decide (1 ≤ x) && decide (x ≤ 1000)⟩
def Rf.PAK_TC0_BASE_OK : Fld := ⟨0x600018, 16, 16, .ro, 0, .d, fun _ => true⟩
def Rf.PAK_TC0_RERUN_OK : Fld := ⟨0x600018, 17, 17, .ro, 0, .d, fun _ => true⟩
def Rf.PAK_TC0_BASE_MARGIN : Fld := ⟨0x600018, 47, 32, .ro, 0, .d, fun _ => true⟩
def Rf.PAK_TC0_RERUN_MARGIN : Fld := ⟨0x600018, 63, 48, .ro, 0, .d, fun _ => true⟩
def Rf.PAK_TC0CNT_VOID : Fld := ⟨0x600020, 15, 0, .rc, 0, .d, fun _ => true⟩
def Rf.PAK_TC0CNT_SLACK : Fld := ⟨0x600020, 31, 16, .rc, 0, .d, fun _ => true⟩
def Rf.PAK_TC0CNT_CLOSE : Fld := ⟨0x600020, 47, 32, .rc, 0, .d, fun _ => true⟩
def Rf.PAK_TC0CNT_RING : Fld := ⟨0x600020, 63, 48, .rc, 0, .d, fun _ => true⟩
def Rf.PAK_CNT_BADPKT : Fld := ⟨0x600028, 15, 0, .rc, 0, .d, fun _ => true⟩
def Rf.PAK_CNT_UNROUTED : Fld := ⟨0x600028, 31, 16, .rc, 0, .d, fun _ => true⟩
def Rf.PAK_CNT_CROPDROP : Fld := ⟨0x600028, 47, 32, .rc, 0, .d, fun _ => true⟩
def Rf.PAK_CNT_RECLOST : Fld := ⟨0x600028, 63, 48, .rc, 0, .d, fun _ => true⟩
def Rf.PAK_PCIE_GEN : Fld := ⟨0x600030, 2, 0, .ro, 0, .d, fun _ => true⟩
def Rf.PAK_PCIE_WIDTH : Fld := ⟨0x600030, 7, 3, .ro, 0, .d, fun _ => true⟩
def Rf.PAK_PCIE_FLIT : Fld := ⟨0x600030, 8, 8, .ro, 0, .d, fun _ => true⟩
def Rf.PAK_PCIE_MPS : Fld := ⟨0x600030, 31, 16, .ro, 128, .d, fun _ => true⟩
def Rf.PAK_PCIE_MRRS : Fld := ⟨0x600030, 47, 32, .ro, 512, .d, fun _ => true⟩
def Rf.PAK_RING_CFG_EN (i : Nat) : Fld := ⟨0x620000 + 0x40 * i, 0, 0, .rw, 0, .h, fun _ => true⟩
def Rf.PAK_RING_CFG_FULLPOL (i : Nat) : Fld := ⟨0x620000 + 0x40 * i, 1, 1, .rw, 0, .h, fun _ => true⟩
def Rf.PAK_RING_CFG_SIZE_LOG (i : Nat) : Fld := ⟨0x620000 + 0x40 * i, 12, 8, .rw, 12, .h, fun x => decide (12 ≤ x) && decide (x ≤ 30)⟩
def Rf.PAK_RING_CFG_VECTOR (i : Nat) : Fld := ⟨0x620000 + 0x40 * i, 26, 16, .rw, 0, .h, fun _ => true⟩
def Rf.PAK_RING_CFG_TYPES (i : Nat) : Fld := ⟨0x620000 + 0x40 * i, 39, 32, .rw, 0, .h, fun _ => true⟩
def Rf.PAK_RING_CFG_STRIPS (i : Nat) : Fld := ⟨0x620000 + 0x40 * i, 55, 40, .rw, 65535, .h, fun _ => true⟩
def Rf.PAK_STR_CFG_EN (i : Nat) : Fld := ⟨0x630000 + 0x80 * i, 0, 0, .rw, 0, .m, fun _ => true⟩
def Rf.PAK_STR_CFG_IPV6 (i : Nat) : Fld := ⟨0x630000 + 0x80 * i, 1, 1, .rw, 0, .m, fun _ => true⟩
def Rf.PAK_STR_CFG_RETPOL (i : Nat) : Fld := ⟨0x630000 + 0x80 * i, 2, 2, .rw, 0, .m, fun _ => true⟩
def Rf.PAK_STR_CFG_LAUNCH (i : Nat) : Fld := ⟨0x630000 + 0x80 * i, 3, 3, .rw, 0, .m, fun _ => true⟩
def Rf.PAK_STR_CFG_DST (i : Nat) : Fld := ⟨0x630000 + 0x80 * i, 7, 4, .rw, 0, .m, fun _ => true⟩
def Rf.PAK_STR_CFG_DSCP (i : Nat) : Fld := ⟨0x630000 + 0x80 * i, 13, 8, .rw, 0, .m, fun _ => true⟩
def Rf.PAK_STR_CFG_DGMAX (i : Nat) : Fld := ⟨0x630000 + 0x80 * i, 29, 16, .rw, 9000, .m, fun x => decide (1500 ≤ x) && decide (x ≤ 9000)⟩
def Rf.PAK_STR_CFG_TYPES (i : Nat) : Fld := ⟨0x630000 + 0x80 * i, 39, 32, .rw, 0, .m, fun _ => true⟩
def Rf.PAK_STR_CFG_STRIPS (i : Nat) : Fld := ⟨0x630000 + 0x80 * i, 55, 40, .rw, 65535, .m, fun _ => true⟩
def Rf.PAK_STR_TMO_SPORT (i : Nat) : Fld := ⟨0x630008 + 0x80 * i, 15, 0, .rw, 16384, .m, fun _ => true⟩
def Rf.PAK_STR_TMO_FLUSH_US (i : Nat) : Fld := ⟨0x630008 + 0x80 * i, 31, 16, .rw, 20, .m, fun x => decide (1 ≤ x) && decide (x ≤ 65535)⟩
def Rf.PAK_STR_TMO_ACK_TMO_US (i : Nat) : Fld := ⟨0x630008 + 0x80 * i, 47, 32, .rw, 1000, .m, fun x => decide (10 ≤ x) && decide (x ≤ 65535)⟩
def Rf.PAK_STR_TMO_RTX_MIN_US (i : Nat) : Fld := ⟨0x630008 + 0x80 * i, 63, 48, .rw, 100, .m, fun x => decide (1 ≤ x) && decide (x ≤ 65535)⟩
def Rf.PAK_STR_CNT_RETX (i : Nat) : Fld := ⟨0x630030 + 0x80 * i, 15, 0, .rc, 0, .d, fun _ => true⟩
def Rf.PAK_STR_CNT_PROBE (i : Nat) : Fld := ⟨0x630030 + 0x80 * i, 31, 16, .rc, 0, .d, fun _ => true⟩
def Rf.PAK_STR_CNT_GONE (i : Nat) : Fld := ⟨0x630030 + 0x80 * i, 47, 32, .rc, 0, .d, fun _ => true⟩
def Rf.PAK_STR_CNT_BADACK (i : Nat) : Fld := ⟨0x630030 + 0x80 * i, 63, 48, .rc, 0, .d, fun _ => true⟩
def Rf.PAK_RECQ_BASE : Fld := ⟨0x600008, 39, 0, .rw, 0, .m, fun x => decide (x % 4096 = 0)⟩
def Rf.PAK_RECQ_SIZE : Fld := ⟨0x600008, 47, 40, .rw, 1, .m, fun x => decide (1 ≤ x) && decide (x ≤ 64)⟩
def Rf.PAK_CSTG_BASE : Fld := ⟨0x600038, 39, 0, .rw, 0, .m, fun _ => true⟩
def Rf.PAK_CSTG_SIZE : Fld := ⟨0x600038, 47, 40, .rw, 16, .m, fun x => decide (1 ≤ x)⟩
def Rf.PAK_CROPCLS_CLASSES (i : Nat) : Fld := ⟨0x600040 + 0x8 * i, 63, 0, .rw, 0, .m, fun _ => true⟩
def Rf.MSIX_LO_ADDR (i : Nat) : Fld := ⟨0x608000 + 0x10 * i, 63, 0, .rw, 0, .h, fun _ => true⟩
def Rf.MSIX_HI_DATA (i : Nat) : Fld := ⟨0x608008 + 0x10 * i, 31, 0, .rw, 0, .h, fun _ => true⟩
def Rf.MSIX_HI_MASK (i : Nat) : Fld := ⟨0x608008 + 0x10 * i, 32, 32, .rw, 0, .h, fun _ => true⟩
def Rf.MSIX_PBA_PEND (i : Nat) : Fld := ⟨0x610000 + 0x8 * i, 63, 0, .ro, 0, .h, fun _ => true⟩
def Rf.PAK_RING_BASE_ADDR (i : Nat) : Fld := ⟨0x620008 + 0x40 * i, 63, 0, .rw, 0, .h, fun x => decide (x % 4096 = 0)⟩
def Rf.PAK_RING_WB_ADDR (i : Nat) : Fld := ⟨0x620010 + 0x40 * i, 63, 0, .rw, 0, .h, fun x => decide (x % 8 = 0)⟩
def Rf.PAK_RING_CONS_CONS (i : Nat) : Fld := ⟨0x620018 + 0x40 * i, 39, 0, .rw, 0, .h, fun _ => true⟩
def Rf.PAK_RING_PROD_PROD (i : Nat) : Fld := ⟨0x620020 + 0x40 * i, 39, 0, .ro, 0, .h, fun _ => true⟩
def Rf.PAK_RING_IRQ_THRESH (i : Nat) : Fld := ⟨0x620028 + 0x40 * i, 15, 0, .rw, 1, .h, fun _ => true⟩
def Rf.PAK_RING_IRQ_TIMER_US (i : Nat) : Fld := ⟨0x620028 + 0x40 * i, 31, 16, .rw, 10, .h, fun _ => true⟩
def Rf.PAK_RING_CNT_DROPPED (i : Nat) : Fld := ⟨0x620030 + 0x40 * i, 31, 0, .rc, 0, .d, fun _ => true⟩
def Rf.PAK_RING_CNT_FULL_US (i : Nat) : Fld := ⟨0x620030 + 0x40 * i, 63, 32, .rc, 0, .d, fun _ => true⟩
def Rf.PAK_STR_RET_BASE (i : Nat) : Fld := ⟨0x630010 + 0x80 * i, 39, 0, .rw, 0, .m, fun _ => true⟩
def Rf.PAK_STR_RET_SIZE (i : Nat) : Fld := ⟨0x630010 + 0x80 * i, 47, 40, .rw, 4, .m, fun x => decide (1 ≤ x)⟩
def Rf.PAK_STR_DMAC_MAC (i : Nat) : Fld := ⟨0x630018 + 0x80 * i, 47, 0, .rw, 0, .m, fun _ => true⟩
def Rf.PAK_STR_DMAC_VID (i : Nat) : Fld := ⟨0x630018 + 0x80 * i, 59, 48, .rw, 0, .m, fun _ => true⟩
def Rf.PAK_STR_DMAC_VLAN (i : Nat) : Fld := ⟨0x630018 + 0x80 * i, 60, 60, .rw, 0, .m, fun _ => true⟩
def Rf.PAK_STR_SEQ_NEXT (i : Nat) : Fld := ⟨0x630020 + 0x80 * i, 63, 0, .ro, 0, .d, fun _ => true⟩
def Rf.PAK_STR_CUM_CUM (i : Nat) : Fld := ⟨0x630028 + 0x80 * i, 63, 0, .ro, 0, .d, fun _ => true⟩
def Rf.PAK_STR_SESS_SESSION (i : Nat) : Fld := ⟨0x630038 + 0x80 * i, 15, 0, .ro, 0, .a, fun _ => true⟩
def Rf.PAK_SP_MAC_MAC (i : Nat) : Fld := ⟨0x638000 + 0x40 * i, 47, 0, .rw, 0, .m, fun _ => true⟩
def Rf.PAK_SP_IP4_ADDR (i : Nat) : Fld := ⟨0x638008 + 0x40 * i, 31, 0, .rw, 0, .m, fun _ => true⟩
def Rf.PAK_SP_IP6H_ADDR (i : Nat) : Fld := ⟨0x638010 + 0x40 * i, 63, 0, .rw, 0, .m, fun _ => true⟩
def Rf.PAK_SP_IP6L_ADDR (i : Nat) : Fld := ⟨0x638018 + 0x40 * i, 63, 0, .rw, 0, .m, fun _ => true⟩
def Rf.PAK_SP_STAT_UP (i : Nat) : Fld := ⟨0x638020 + 0x40 * i, 0, 0, .ro, 0, .d, fun _ => true⟩
def Rf.PAK_SP_STAT_RXDROP (i : Nat) : Fld := ⟨0x638020 + 0x40 * i, 31, 16, .rc, 0, .d, fun _ => true⟩
def Rf.PAK_SP_STAT_FECCORR (i : Nat) : Fld := ⟨0x638020 + 0x40 * i, 63, 32, .rc, 0, .d, fun _ => true⟩
def Rf.HUB_CFG_SR_IDLE_US : Fld := ⟨0x700000, 15, 0, .rw, 100, .m, fun _ => true⟩
def Rf.HUB_CFG_RESV : Fld := ⟨0x700000, 16, 16, .rw, 1, .m, fun _ => true⟩
def Rf.HUB_FREQ_RATE : Fld := ⟨0x700008, 1, 0, .rw, 0, .m, fun x => decide (x < 3)⟩
def Rf.HUB_FREQ_CUR : Fld := ⟨0x700008, 5, 4, .ro, 0, .m, fun _ => true⟩
def Rf.HUB_FREQ_PENDING : Fld := ⟨0x700008, 8, 8, .ro, 0, .d, fun _ => true⟩
def Rf.HUB_ARB_W1 : Fld := ⟨0x700010, 7, 0, .rw, 3, .m, fun x => decide (1 ≤ x) && decide (x ≤ 255)⟩
def Rf.HUB_ARB_W2 : Fld := ⟨0x700010, 15, 8, .rw, 1, .m, fun x => decide (1 ≤ x) && decide (x ≤ 255)⟩
def Rf.HUB_ARB_TC3_MIN : Fld := ⟨0x700010, 23, 16, .rw, 4, .m, fun x => decide (1 ≤ x) && decide (x ≤ 64)⟩
def Rf.HUB_RT_INTERVAL_MS : Fld := ⟨0x700018, 15, 0, .rw, 100, .m, fun x => decide (10 ≤ x) && decide (x ≤ 65535)⟩
def Rf.HUB_RT_FORCE_US : Fld := ⟨0x700018, 23, 16, .rw, 5, .m, fun x => decide (1 ≤ x) && decide (x ≤ 5)⟩
def Rf.HUB_RT_DTEMP : Fld := ⟨0x700018, 31, 24, .rw, 10, .m, fun x => decide (2 ≤ x) && decide (x ≤ 40)⟩
def Rf.HUB_ERR_CORR_TH : Fld := ⟨0x700020, 31, 0, .rw, 1000, .m, fun x => decide (1 ≤ x)⟩
def Rf.HUB_ERR_WIN_MS : Fld := ⟨0x700020, 47, 32, .rw, 1000, .m, fun x => decide (1 ≤ x) && decide (x ≤ 65535)⟩
def Rf.HUB_MIG_RATE : Fld := ⟨0x700028, 4, 0, .rw, 8, .m, fun x => decide (1 ≤ x) && decide (x ≤ 16)⟩
def Rf.HUB_CTRL_MIG_REQ : Fld := ⟨0x700030, 0, 0, .wo, 0, .d, fun _ => true⟩
def Rf.HUB_CTRL_MIG_SLOT : Fld := ⟨0x700030, 13, 8, .wo, 0, .d, fun x => decide (x ≤ 47)⟩
def Rf.HUB_STAT_CAP_GIB : Fld := ⟨0x700038, 6, 0, .ro, 96, .a, fun _ => true⟩
def Rf.HUB_STAT_AVAIL : Fld := ⟨0x700038, 7, 7, .ro, 0, .d, fun _ => true⟩
def Rf.HUB_STAT_SPARES : Fld := ⟨0x700038, 9, 8, .ro, 2, .a, fun _ => true⟩
def Rf.HUB_STAT_RETIRED : Fld := ⟨0x700038, 10, 10, .ro, 0, .a, fun _ => true⟩
def Rf.HUB_STAT_RSLOT : Fld := ⟨0x700038, 21, 16, .ro, 0, .a, fun _ => true⟩
def Rf.HUB_STAT_TRAINING : Fld := ⟨0x700038, 22, 22, .ro, 0, .d, fun _ => true⟩
def Rf.HUB_STAT_DEFER : Fld := ⟨0x700038, 23, 23, .ro, 0, .d, fun _ => true⟩
def Rf.HUB_MIGSTAT_ACTIVE : Fld := ⟨0x700040, 0, 0, .ro, 0, .d, fun _ => true⟩
def Rf.HUB_MIGSTAT_RELOC : Fld := ⟨0x700040, 1, 1, .ro, 0, .d, fun _ => true⟩
def Rf.HUB_MIGSTAT_SLOT : Fld := ⟨0x700040, 7, 2, .ro, 0, .d, fun _ => true⟩
def Rf.HUB_MIGSTAT_TARGET : Fld := ⟨0x700040, 13, 8, .ro, 0, .d, fun _ => true⟩
def Rf.HUB_MIGSTAT_POINTER : Fld := ⟨0x700040, 39, 16, .ro, 0, .d, fun _ => true⟩
def Rf.HUB_MIGSTAT_QUEUED : Fld := ⟨0x700040, 63, 40, .ro, 0, .d, fun _ => true⟩
def Rf.HUB_TC0_TOKWAIT : Fld := ⟨0x700048, 31, 0, .rc, 0, .d, fun _ => true⟩
def Rf.HUB_TC0_MAX_NS : Fld := ⟨0x700048, 47, 32, .rc, 0, .d, fun _ => true⟩
def Rf.HUB_SCRUB_PERIOD_H : Fld := ⟨0x700050, 7, 0, .rw, 24, .m, fun x => decide (1 ≤ x) && decide (x ≤ 255)⟩
def Rf.HUB_SCRUB_PASSES : Fld := ⟨0x700050, 63, 32, .ro, 0, .d, fun _ => true⟩
def Rf.HUB_ACCERR_ADDR : Fld := ⟨0x700058, 39, 0, .ro, 0, .d, fun _ => true⟩
def Rf.HUB_ACCERR_COUNT : Fld := ⟨0x700058, 63, 48, .rc, 0, .d, fun _ => true⟩
def Rf.HUB_MAP_PHYS (i : Nat) : Fld := ⟨0x700100 + 0x8 * i, 5, 0, .ro, i, .a, fun _ => true⟩
def Rf.HUB_CH_CFG_RT_EN (i : Nat) : Fld := ⟨0x710000 + 0x1000 * i, 0, 0, .rw, 1, .m, fun _ => true⟩
def Rf.HUB_CH_CFG_SR_EN (i : Nat) : Fld := ⟨0x710000 + 0x1000 * i, 1, 1, .rw, 1, .m, fun _ => true⟩
def Rf.HUB_CH_STAT_ROLE (i : Nat) : Fld := ⟨0x710008 + 0x1000 * i, 2, 0, .ro, if i < 48 then 0 else 1, .a, fun _ => true⟩
def Rf.HUB_CH_STAT_SLOT (i : Nat) : Fld := ⟨0x710008 + 0x1000 * i, 13, 8, .ro, if i < 48 then i else 0, .a, fun _ => true⟩
def Rf.HUB_CH_STAT_DEGRADED (i : Nat) : Fld := ⟨0x710008 + 0x1000 * i, 16, 16, .ro, 0, .m, fun _ => true⟩
def Rf.HUB_CH_STAT_SR (i : Nat) : Fld := ⟨0x710008 + 0x1000 * i, 17, 17, .ro, 0, .d, fun _ => true⟩
def Rf.HUB_CH_STAT_RTFAIL (i : Nat) : Fld := ⟨0x710008 + 0x1000 * i, 19, 18, .ro, 0, .m, fun _ => true⟩
def Rf.HUB_CH_STAT_TEMP (i : Nat) : Fld := ⟨0x710008 + 0x1000 * i, 31, 24, .ro, 0, .d, fun _ => true⟩
def Rf.HUB_CH_CAL_COUNT (i : Nat) : Fld := ⟨0x710010 + 0x1000 * i, 31, 0, .ro, 0, .m, fun _ => true⟩
def Rf.HUB_CH_CAL_FAILS (i : Nat) : Fld := ⟨0x710010 + 0x1000 * i, 47, 32, .ro, 0, .m, fun _ => true⟩
def Rf.HUB_CH_CALT_TIME_NS (i : Nat) : Fld := ⟨0x710018 + 0x1000 * i, 31, 0, .ro, 0, .m, fun _ => true⟩
def Rf.HUB_CH_CALT_WRAP (i : Nat) : Fld := ⟨0x710018 + 0x1000 * i, 63, 32, .ro, 0, .m, fun _ => true⟩
def Rf.HUB_CH_TAP_RDLY_MIN (i : Nat) : Fld := ⟨0x710020 + 0x1000 * i, 7, 0, .ro, 0, .m, fun _ => true⟩
def Rf.HUB_CH_TAP_RDLY_MAX (i : Nat) : Fld := ⟨0x710020 + 0x1000 * i, 15, 8, .ro, 0, .m, fun _ => true⟩
def Rf.HUB_CH_TAP_VREF_MIN (i : Nat) : Fld := ⟨0x710020 + 0x1000 * i, 23, 16, .ro, 0, .m, fun _ => true⟩
def Rf.HUB_CH_TAP_VREF_MAX (i : Nat) : Fld := ⟨0x710020 + 0x1000 * i, 31, 24, .ro, 0, .m, fun _ => true⟩
def Rf.HUB_CH_TAP_WIN_MIN (i : Nat) : Fld := ⟨0x710020 + 0x1000 * i, 39, 32, .ro, 0, .m, fun _ => true⟩
def Rf.HUB_CH_ERR_CORR (i : Nat) : Fld := ⟨0x710028 + 0x1000 * i, 31, 0, .rc, 0, .d, fun _ => true⟩
def Rf.HUB_CH_ERR_UNCORR (i : Nat) : Fld := ⟨0x710028 + 0x1000 * i, 47, 32, .rc, 0, .d, fun _ => true⟩
def Rf.HUB_CH_ERR_WIN_LAST (i : Nat) : Fld := ⟨0x710028 + 0x1000 * i, 63, 48, .ro, 0, .d, fun _ => true⟩
def Rf.HUB_CH_LOAD_RD_MB (i : Nat) : Fld := ⟨0x710030 + 0x1000 * i, 31, 0, .ro, 0, .d, fun _ => true⟩
def Rf.HUB_CH_LOAD_WR_MB (i : Nat) : Fld := ⟨0x710030 + 0x1000 * i, 63, 32, .ro, 0, .d, fun _ => true⟩
def Rf.CHN_CFG_EN (i : Nat) : Fld := ⟨0x900000 + 0x40 * i, 0, 0, .rw, 0, .m, fun _ => true⟩
def Rf.CHN_CFG_CLASS (i : Nat) : Fld := ⟨0x900000 + 0x40 * i, 2, 1, .rw, 1, .m, fun _ => true⟩
def Rf.CHN_CFG_NOTICE (i : Nat) : Fld := ⟨0x900000 + 0x40 * i, 3, 3, .rw, 0, .m, fun _ => true⟩
def Rf.CHN_CFG_CONS (i : Nat) : Fld := ⟨0x900000 + 0x40 * i, 14, 8, .rw, 127, .m, fun x => decide (x ≤ 122) || decide (x = 127)⟩
def Rf.CHN_CFG_VECTOR (i : Nat) : Fld := ⟨0x900000 + 0x40 * i, 26, 16, .rw, 0, .m, fun _ => true⟩
def Rf.CHN_CFG_SHARE (i : Nat) : Fld := ⟨0x900000 + 0x40 * i, 55, 32, .rw, 4096, .m, fun x => decide (x % 8 = 0) && decide (64 ≤ x) && decide (x ≤ 16777208)⟩
def Rf.CHN_STAT_OVERLONG (i : Nat) : Fld := ⟨0x900030 + 0x40 * i, 15, 0, .rc, 0, .d, fun _ => true⟩
def Rf.CHN_STAT_REFUSED (i : Nat) : Fld := ⟨0x900030 + 0x40 * i, 31, 16, .rc, 0, .d, fun _ => true⟩
def Rf.CHN_STAT_RERUN (i : Nat) : Fld := ⟨0x900030 + 0x40 * i, 47, 32, .rc, 0, .d, fun _ => true⟩
def Rf.CHN_STAT_PEND (i : Nat) : Fld := ⟨0x900030 + 0x40 * i, 48, 48, .ro, 0, .d, fun _ => true⟩
def Rf.CHN_BASE_BASE (i : Nat) : Fld := ⟨0x900008 + 0x40 * i, 39, 0, .rw, 0, .m, fun x => decide (x % 64 = 0)⟩
def Rf.CHN_PROD0_PROD (i : Nat) : Fld := ⟨0x900010 + 0x40 * i, 63, 0, .rw, 0, .m, fun _ => true⟩
def Rf.CHN_PROD1_PROD (i : Nat) : Fld := ⟨0x900018 + 0x40 * i, 58, 0, .rw, 0, .m, fun _ => true⟩
def Rf.CHN_CNT_WORDS (i : Nat) : Fld := ⟨0x900020 + 0x40 * i, 31, 0, .ro, 0, .d, fun _ => true⟩
def Rf.CHN_CNT_PACKETS (i : Nat) : Fld := ⟨0x900020 + 0x40 * i, 63, 32, .ro, 0, .d, fun _ => true⟩
def Rf.CHN_HEAD_WORD (i : Nat) : Fld := ⟨0x900028 + 0x40 * i, 63, 0, .ro, 0, .d, fun _ => true⟩
def Rf.DMA_CFG_REQSRC (i : Nat) (j : Nat) : Fld := ⟨0xA00000 + 0x1000 * i + 0x100 * j, 1, 0, .rw, 0, .h, fun x => decide (x < 3)⟩
def Rf.DMA_CFG_REQ_EN (i : Nat) (j : Nat) : Fld := ⟨0xA00000 + 0x1000 * i + 0x100 * j, 2, 2, .rw, 0, .h, fun _ => true⟩
def Rf.DMA_CFG_FEED (i : Nat) (j : Nat) : Fld := ⟨0xA00000 + 0x1000 * i + 0x100 * j, 3, 3, .rw, 0, .h, fun _ => true⟩
def Rf.DMA_CFG_REQ_DIN (i : Nat) (j : Nat) : Fld := ⟨0xA00000 + 0x1000 * i + 0x100 * j, 6, 4, .rw, 0, .h, fun _ => true⟩
def Rf.DMA_CFG_VECTOR (i : Nat) (j : Nat) : Fld := ⟨0xA00000 + 0x1000 * i + 0x100 * j, 18, 8, .rw, 0, .h, fun _ => true⟩
def Rf.DMA_CFG_BURST_LOG (i : Nat) (j : Nat) : Fld := ⟨0xA00000 + 0x1000 * i + 0x100 * j, 23, 20, .rw, 12, .h, fun x => decide (7 ≤ x) && decide (x ≤ 12)⟩
def Rf.DMA_CFG_FEED_CHAIN (i : Nat) (j : Nat) : Fld := ⟨0xA00000 + 0x1000 * i + 0x100 * j, 31, 24, .rw, 0, .h, fun _ => true⟩
def Rf.DMA_CTRL_START (i : Nat) (j : Nat) : Fld := ⟨0xA00018 + 0x1000 * i + 0x100 * j, 0, 0, .wo, 0, .d, fun _ => true⟩
def Rf.DMA_CTRL_STOP (i : Nat) (j : Nat) : Fld := ⟨0xA00018 + 0x1000 * i + 0x100 * j, 1, 1, .wo, 0, .d, fun _ => true⟩
def Rf.DMA_STAT_STATE (i : Nat) (j : Nat) : Fld := ⟨0xA00038 + 0x1000 * i + 0x100 * j, 2, 0, .ro, 0, .d, fun _ => true⟩
def Rf.DMA_STAT_ERR (i : Nat) (j : Nat) : Fld := ⟨0xA00038 + 0x1000 * i + 0x100 * j, 11, 8, .ro, 0, .d, fun _ => true⟩
def Rf.DMA_STAT_HALF (i : Nat) (j : Nat) : Fld := ⟨0xA00038 + 0x1000 * i + 0x100 * j, 12, 12, .w1c, 0, .d, fun _ => true⟩
def Rf.DMA_STAT_FULL (i : Nat) (j : Nat) : Fld := ⟨0xA00038 + 0x1000 * i + 0x100 * j, 13, 13, .w1c, 0, .d, fun _ => true⟩
def Rf.DMA_STAT_APPQ (i : Nat) (j : Nat) : Fld := ⟨0xA00038 + 0x1000 * i + 0x100 * j, 20, 16, .ro, 0, .d, fun _ => true⟩
def Rf.DMA_STAT_FEEDBAD (i : Nat) (j : Nat) : Fld := ⟨0xA00038 + 0x1000 * i + 0x100 * j, 47, 32, .rc, 0, .d, fun _ => true⟩
def Rf.DMA_STAT_DONE (i : Nat) (j : Nat) : Fld := ⟨0xA00038 + 0x1000 * i + 0x100 * j, 63, 48, .rc, 0, .d, fun _ => true⟩
def Rf.DMA_HEAD_ADDR (i : Nat) (j : Nat) : Fld := ⟨0xA00008 + 0x1000 * i + 0x100 * j, 63, 0, .rw, 0, .h, fun x => decide (x % 4 < 2)⟩
def Rf.DMA_TAIL_ADDR (i : Nat) (j : Nat) : Fld := ⟨0xA00010 + 0x1000 * i + 0x100 * j, 63, 0, .rw, 0, .h, fun x => decide (x % 4 < 2)⟩
def Rf.DMA_APPEND_ADDR (i : Nat) (j : Nat) : Fld := ⟨0xA00020 + 0x1000 * i + 0x100 * j, 63, 0, .wo, 0, .d, fun _ => true⟩
def Rf.DMA_LAST_ADDR (i : Nat) (j : Nat) : Fld := ⟨0xA00028 + 0x1000 * i + 0x100 * j, 63, 0, .ro, 0, .d, fun _ => true⟩
def Rf.DMA_CUR_ADDR (i : Nat) (j : Nat) : Fld := ⟨0xA00030 + 0x1000 * i + 0x100 * j, 63, 0, .ro, 0, .d, fun _ => true⟩
def Rf.DMA_XFER_BYTES (i : Nat) (j : Nat) : Fld := ⟨0xA00040 + 0x1000 * i + 0x100 * j, 31, 0, .ro, 0, .d, fun _ => true⟩
def Rf.DMA_UNIT_OWNER (i : Nat) : Fld := ⟨0xA08000 + 0x8 * i, 3, 0, .ro, 0, .d, fun _ => true⟩
def Rf.DMA_UNIT_BUSY (i : Nat) : Fld := ⟨0xA08000 + 0x8 * i, 4, 4, .ro, 0, .d, fun _ => true⟩
def Rf.TIM_CFG_REF10 : Fld := ⟨0xC00000, 0, 0, .rw, 0, .a, fun _ => true⟩
def Rf.TIM_STAT_LOCKED : Fld := ⟨0xC00008, 0, 0, .ro, 0, .d, fun _ => true⟩
def Rf.TIM_STAT_HOLDOVER : Fld := ⟨0xC00008, 1, 1, .ro, 0, .d, fun _ => true⟩
def Rf.TIM_STAT_PPS_OK : Fld := ⟨0xC00008, 2, 2, .ro, 0, .d, fun _ => true⟩
def Rf.TIM_PPS_OUT_EN : Fld := ⟨0xC00040, 0, 0, .rw, 0, .m, fun _ => true⟩
def Rf.TIM_PPS_OUT_W : Fld := ⟨0xC00040, 31, 16, .rw, 100, .m, fun x => decide (1 ≤ x) && decide (x ≤ 65535)⟩
def Rf.TIM_PPS_OUT_PH : Fld := ⟨0xC00040, 63, 32, .rw, 0, .m, fun x => decide (x ≤ 999999999)⟩
def Rf.TIM_NOW_T : Fld := ⟨0xC00010, 63, 0, .ro, 0, .a, fun _ => true⟩
def Rf.TIM_COUNT_COUNT : Fld := ⟨0xC00018, 63, 0, .ro, 0, .a, fun _ => true⟩
def Rf.TIM_OFS_INT_OFFSET : Fld := ⟨0xC00020, 63, 0, .rw, 0, .a, fun _ => true⟩
def Rf.TIM_OFS_FRAC_OFFSET : Fld := ⟨0xC00028, 31, 0, .rw, 0, .a, fun _ => true⟩
def Rf.TIM_RATE_RATE : Fld := ⟨0xC00030, 63, 0, .rw, 3435973837, .a, fun _ => true⟩
def Rf.TIM_STEP_STEP : Fld := ⟨0xC00038, 63, 0, .wo, 0, .d, fun _ => true⟩
def Rf.TIM_SNAP_ANY : Fld := ⟨0xC00048, 63, 0, .wo, 0, .d, fun _ => true⟩
def Rf.TIM_SNAPC_COUNT : Fld := ⟨0xC00050, 63, 0, .ro, 0, .d, fun _ => true⟩
def Rf.TIM_SNAPT_T : Fld := ⟨0xC00058, 63, 0, .ro, 0, .d, fun _ => true⟩
def Rf.TIM_PPSIN_T : Fld := ⟨0xC00060, 63, 0, .ro, 0, .d, fun _ => true⟩
def Rf.TIM_CNT_SKIPPED : Fld := ⟨0xC00068, 31, 0, .rc, 0, .d, fun _ => true⟩
def Rf.TIM_CNT_STEPS : Fld := ⟨0xC00068, 63, 32, .rc, 0, .d, fun _ => true⟩
def Rf.TIM_LSLOT_START (i : Nat) : Fld := ⟨0xC00100 + 0x10 * i, 63, 0, .rw, 0, .m, fun _ => true⟩
def Rf.TIM_LSLOTP_PERIOD (i : Nat) : Fld := ⟨0xC00108 + 0x10 * i, 29, 0, .rw, 1000000, .m, fun x => decide (1000 ≤ x) && decide (x ≤ 1000000000)⟩
def Rf.TIM_LSLOTP_QUOTA (i : Nat) : Fld := ⟨0xC00108 + 0x10 * i, 43, 32, .rw, 1, .m, fun x => decide (1 ≤ x)⟩
def Rf.MGT_STAT_FW : Fld := ⟨0xE00000, 1, 0, .ro, 0, .d, fun _ => true⟩
def Rf.MGT_STAT_BANK : Fld := ⟨0xE00000, 2, 2, .ro, 0, .d, fun _ => true⟩
def Rf.MGT_STAT_TRIAL : Fld := ⟨0xE00000, 3, 3, .ro, 0, .p, fun _ => true⟩
def Rf.MGT_STAT_TRIES : Fld := ⟨0xE00000, 5, 4, .ro, 0, .p, fun _ => true⟩
def Rf.MGT_STAT_SVN : Fld := ⟨0xE00000, 15, 8, .ro, 0, .d, fun _ => true⟩
def Rf.MGT_STAT_FUSED : Fld := ⟨0xE00000, 23, 16, .ro, 0, .p, fun _ => true⟩
def Rf.MGT_STAT_KEYREV : Fld := ⟨0xE00000, 27, 24, .ro, 0, .p, fun _ => true⟩
def Rf.MGT_STAT_WDOG_CNT : Fld := ⟨0xE00000, 63, 48, .rc, 0, .a, fun _ => true⟩
def Rf.MGT_MBX_CMD_CODE : Fld := ⟨0xE00010, 7, 0, .wo, 0, .h, fun _ => true⟩
def Rf.MGT_MBX_CMD_LEN : Fld := ⟨0xE00010, 40, 24, .wo, 0, .h, fun x => decide (x ≤ 65536)⟩
def Rf.MGT_MBX_CMD_TAG : Fld := ⟨0xE00010, 63, 48, .wo, 0, .h, fun _ => true⟩
def Rf.MGT_MBX_STAT_BUSY : Fld := ⟨0xE00018, 0, 0, .ro, 0, .h, fun _ => true⟩
def Rf.MGT_MBX_STAT_RESULT : Fld := ⟨0xE00018, 15, 8, .ro, 0, .h, fun _ => true⟩
def Rf.MGT_MBX_STAT_LEN : Fld := ⟨0xE00018, 40, 24, .ro, 0, .h, fun _ => true⟩
def Rf.MGT_MBX_STAT_TAG : Fld := ⟨0xE00018, 63, 48, .ro, 0, .h, fun _ => true⟩
def Rf.MGT_THERM_ONSET : Fld := ⟨0xE00040, 7, 0, .rw, 105, .a, fun x => decide (90 ≤ x) && decide (x ≤ 112)⟩
def Rf.MGT_TSTAT_DMAX : Fld := ⟨0xE00048, 15, 0, .ro, 0, .d, fun _ => true⟩
def Rf.MGT_TSTAT_SENSOR : Fld := ⟨0xE00048, 21, 16, .ro, 0, .d, fun _ => true⟩
def Rf.MGT_TSTAT_SKIP : Fld := ⟨0xE00048, 35, 24, .ro, 0, .d, fun _ => true⟩
def Rf.MGT_TSTAT_THROTTLE : Fld := ⟨0xE00048, 36, 36, .ro, 0, .d, fun _ => true⟩
def Rf.MGT_TSTAT_FAST : Fld := ⟨0xE00048, 37, 37, .ro, 0, .d, fun _ => true⟩
def Rf.MGT_TSTAT_ONSETS : Fld := ⟨0xE00048, 63, 48, .rc, 0, .d, fun _ => true⟩
def Rf.MGT_SHUT_COUNT : Fld := ⟨0xE00050, 15, 0, .ro, 0, .a, fun _ => true⟩
def Rf.MGT_SHUT_LAST_D : Fld := ⟨0xE00050, 31, 16, .ro, 0, .a, fun _ => true⟩
def Rf.MGT_SHUT_LAST_WRAP : Fld := ⟨0xE00050, 63, 32, .ro, 0, .a, fun _ => true⟩
def Rf.MGT_WDOG_TIMEOUT_MS : Fld := ⟨0xE00060, 15, 0, .rw, 1000, .a, fun x => decide (10 ≤ x) && decide (x ≤ 10000)⟩
def Rf.MGT_WDOG_KICK : Fld := ⟨0xE00060, 23, 16, .wo, 0, .d, fun _ => true⟩
def Rf.MGT_LOG_SEQ : Fld := ⟨0xE00070, 31, 0, .ro, 0, .d, fun _ => true⟩
def Rf.MGT_LOG_COAL : Fld := ⟨0xE00070, 47, 32, .rc, 0, .d, fun _ => true⟩
def Rf.MGT_LOG_QUEUE : Fld := ⟨0xE00070, 60, 48, .ro, 0, .d, fun _ => true⟩
def Rf.MGT_BBOX_HEAD : Fld := ⟨0xE00078, 13, 0, .ro, 0, .a, fun _ => true⟩
def Rf.MGT_BBOX_WRAPPED : Fld := ⟨0xE00078, 14, 14, .ro, 0, .a, fun _ => true⟩
def Rf.MGT_BBOX_ERASED : Fld := ⟨0xE00078, 23, 16, .ro, 0, .p, fun _ => true⟩
def Rf.MGT_MBX_CFG_VECTOR : Fld := ⟨0xE00020, 10, 0, .rw, 0, .h, fun _ => true⟩
def Rf.MGT_MBX_BUF_DATA (i : Nat) : Fld := ⟨0xE10000 + 0x8 * i, 63, 0, .rw, 0, .h, fun _ => true⟩
def Rf.BRK_LOCK_LOCK : Fld := ⟨0xD00000, 0, 0, .rwl, 0, .m, fun _ => true⟩
def Rf.BRK_CNT_MGTW : Fld := ⟨0xD00008, 15, 0, .rc, 0, .d, fun _ => true⟩
def Rf.BRK_CNT_MKSUP : Fld := ⟨0xD00008, 31, 16, .rc, 0, .d, fun _ => true⟩
def Rf.BRK_CNT_MKEXT : Fld := ⟨0xD00008, 47, 32, .rc, 0, .d, fun _ => true⟩
def Rf.BRK_CNT_SETDROP : Fld := ⟨0xD00008, 63, 48, .rc, 0, .d, fun _ => true⟩
def Rf.BRK_CNT2_DMAVIOL : Fld := ⟨0xD00010, 31, 0, .rc, 0, .d, fun _ => true⟩
def Rf.BRK_CNT2_EMUHOLD : Fld := ⟨0xD00010, 47, 32, .rc, 0, .d, fun _ => true⟩
def Rf.BRK_CNT2_RATEWAIT : Fld := ⟨0xD00010, 63, 48, .rc, 0, .d, fun _ => true⟩
def Rf.BRK_MK_MINW_US (i : Nat) : Fld := ⟨0xD00300 + 0x8 * i, 15, 0, .rwl, 100, .m, fun x => decide (1 ≤ x) && decide (x ≤ 65535)⟩
def Rf.BRK_MK_MINGAP_US (i : Nat) : Fld := ⟨0xD00300 + 0x8 * i, 39, 16, .rwl, 1000, .m, fun x => decide (1 ≤ x) && decide (x ≤ 16777215)⟩
def Rf.BRK_SET_DEPTH (i : Nat) : Fld := ⟨0xD00400 + 0x8 * i, 7, 0, .rwl, 4, .m, fun x => decide (1 ≤ x) && decide (x ≤ 255)⟩
def Rf.BRK_SET_INTERVAL_US (i : Nat) : Fld := ⟨0xD00400 + 0x8 * i, 31, 8, .rwl, 1000, .m, fun x => decide (1 ≤ x) && decide (x ≤ 16777215)⟩
def Rf.BRK_WIN0_BASE (i : Nat) : Fld := ⟨0xD00600 + 0x10 * i, 63, 12, .rwl, 0, .m, fun _ => true⟩
def Rf.BRK_WIN1_PAGES (i : Nat) : Fld := ⟨0xD00608 + 0x10 * i, 31, 0, .rwl, 0, .m, fun _ => true⟩
def Rf.BRK_WIN1_RD (i : Nat) : Fld := ⟨0xD00608 + 0x10 * i, 32, 32, .rwl, 0, .m, fun _ => true⟩
def Rf.BRK_WIN1_WR (i : Nat) : Fld := ⟨0xD00608 + 0x10 * i, 33, 33, .rwl, 0, .m, fun _ => true⟩
def Rf.BRK_DST0_ADDR_HI (i : Nat) : Fld := ⟨0xD00800 + 0x20 * i, 63, 0, .rwl, 0, .m, fun _ => true⟩
def Rf.BRK_DST1_ADDR_LO (i : Nat) : Fld := ⟨0xD00808 + 0x20 * i, 63, 0, .rwl, 0, .m, fun _ => true⟩
def Rf.BRK_DST2_PORT (i : Nat) : Fld := ⟨0xD00810 + 0x20 * i, 15, 0, .rwl, 0, .m, fun _ => true⟩
def Rf.BRK_DST2_EN (i : Nat) : Fld := ⟨0xD00810 + 0x20 * i, 16, 16, .rwl, 0, .m, fun _ => true⟩
def Rf.BRK_DST2_V6 (i : Nat) : Fld := ⟨0xD00810 + 0x20 * i, 17, 17, .rwl, 0, .m, fun _ => true⟩
def Rf.BRK_TRG_MIN_NS (i : Nat) : Fld := ⟨0xD00100 + 0x8 * i, 31, 0, .rwl, 1000, .m, fun x => decide (1000 ≤ x) && decide (x ≤ 4294967295)⟩
def Rf.BRK_EMU_MINEDGE_NS (i : Nat) : Fld := ⟨0xD00380 + 0x8 * i, 15, 0, .rwl, 50, .m, fun x => decide (5 ≤ x) && decide (x ≤ 65535)⟩
def Rf.BRK_RATE_RATE (i : Nat) : Fld := ⟨0xD00A00 + 0x8 * i, 11, 0, .rwl, 4000, .m, fun x => decide (1 ≤ x) && decide (x ≤ 4000)⟩
def Rf.BRK_RATE_BURST_KIB (i : Nat) : Fld := ⟨0xD00A00 + 0x8 * i, 27, 16, .rwl, 64, .m, fun x => decide (9 ≤ x) && decide (x ≤ 4095)⟩
def Rf.GLB_STATUS_MODE : Fld := ⟨0x8, 2, 0, .ro, 0, .none, fun _ => true⟩
def Rf.GLB_STATUS_TRANS : Fld := ⟨0x8, 3, 3, .ro, 0, .none, fun _ => true⟩
def Rf.GLB_STATUS_TARGET : Fld := ⟨0x8, 6, 4, .ro, 0, .none, fun _ => true⟩
def Rf.GLB_STATUS_DRAIN : Fld := ⟨0x8, 7, 7, .ro, 0, .none, fun _ => true⟩
def Rf.GLB_STATUS_READY : Fld := ⟨0x8, 8, 8, .ro, 0, .d, fun _ => true⟩
def Rf.GLB_STATUS_FW : Fld := ⟨0x8, 9, 9, .ro, 0, .d, fun _ => true⟩
def Rf.GLB_STATUS_BOARD : Fld := ⟨0x8, 10, 10, .ro, 0, .d, fun _ => true⟩
def Rf.GLB_STATUS_SAFE_PIN : Fld := ⟨0x8, 11, 11, .ro, 0, .d, fun _ => true⟩
def Rf.GLB_STATUS_LINK : Fld := ⟨0x8, 12, 12, .ro, 0, .d, fun _ => true⟩
def Rf.GLB_STATUS_PHASES : Fld := ⟨0x8, 14, 13, .ro, 0, .a, fun _ => true⟩
def Rf.GLB_STATUS_REFUSE : Fld := ⟨0x8, 31, 16, .ro, 0, .d, fun _ => true⟩
def Rf.GLB_MODE_REQ : Fld := ⟨0x10, 2, 0, .wo, 0, .d, fun x => decide (x < 6)⟩
def Rf.GLB_MODE_ABORT : Fld := ⟨0x10, 3, 3, .wo, 0, .d, fun _ => true⟩
def Rf.GLB_MODE_NOSIEVE : Fld := ⟨0x10, 4, 4, .wo, 0, .d, fun _ => true⟩
def Rf.GLB_CTRL_DPRST : Fld := ⟨0x18, 0, 0, .wo, 0, .d, fun _ => true⟩
def Rf.GLB_CTRL_SAFE : Fld := ⟨0x18, 1, 1, .wo, 0, .d, fun _ => true⟩
def Rf.GLB_RSTCAUSE_CAUSE : Fld := ⟨0x20, 3, 0, .ro, 1, .a, fun _ => true⟩
def Rf.GLB_RSTCAUSE_MODRST : Fld := ⟨0x20, 31, 16, .rc, 0, .a, fun _ => true⟩
def Rf.GLB_RSTCAUSE_HOSTRST : Fld := ⟨0x20, 47, 32, .rc, 0, .a, fun _ => true⟩
def Rf.GLB_RSTCAUSE_DPRST : Fld := ⟨0x20, 63, 48, .rc, 0, .a, fun _ => true⟩
def Rf.GLB_PWR_VIN : Fld := ⟨0x28, 11, 0, .ro, 0, .d, fun _ => true⟩
def Rf.GLB_PWR_IIN : Fld := ⟨0x28, 23, 12, .ro, 0, .d, fun _ => true⟩
def Rf.GLB_PWR_PIN : Fld := ⟨0x28, 34, 24, .ro, 0, .d, fun _ => true⟩
def Rf.GLB_PWR_OVP : Fld := ⟨0x28, 35, 35, .ro, 0, .d, fun _ => true⟩
def Rf.GLB_PWR_OVCNT : Fld := ⟨0x28, 55, 48, .rc, 0, .d, fun _ => true⟩
def Rf.GLB_STRAP_SMBADDR : Fld := ⟨0x30, 1, 0, .ro, 0, .a, fun _ => true⟩
def Rf.GLB_STRAP_BOOT_SEL : Fld := ⟨0x30, 2, 2, .ro, 0, .a, fun _ => true⟩
def Rf.GLB_STRAP_POWERON : Fld := ⟨0x30, 63, 32, .ro, 0, .p, fun _ => true⟩
def Rf.TST_UNLOCK_KEY : Fld := ⟨0xF00000, 15, 0, .wo, 0, .d, fun _ => true⟩
def Rf.TST_STAT_ACTIVE : Fld := ⟨0xF00008, 9, 0, .ro, 0, .d, fun _ => true⟩
def Rf.TST_STAT_UNLOCKED : Fld := ⟨0xF00008, 16, 16, .ro, 0, .d, fun _ => true⟩
def Rf.TST_STAT_USES : Fld := ⟨0xF00008, 63, 32, .rc, 0, .d, fun _ => true⟩
def Rf.TST_CRED_CHAIN (i : Nat) : Fld := ⟨0xF00040 + 0x8 * i, 7, 0, .rw, 0, .d, fun _ => true⟩
def Rf.TST_CRED_EN (i : Nat) : Fld := ⟨0xF00040 + 0x8 * i, 8, 8, .rw, 0, .d, fun _ => true⟩
def Rf.TST_CRED_LIMIT (i : Nat) : Fld := ⟨0xF00040 + 0x8 * i, 39, 16, .rw, 0, .d, fun _ => true⟩
def Rf.TST_HUBLAT_DELAY : Fld := ⟨0xF00060, 13, 0, .rw, 0, .d, fun x => decide (x ≤ 10000)⟩
def Rf.TST_HUBLAT_RAND : Fld := ⟨0xF00060, 14, 14, .rw, 0, .d, fun _ => true⟩
def Rf.TST_HUBLAT_EN : Fld := ⟨0xF00060, 15, 15, .rw, 0, .d, fun _ => true⟩
def Rf.TST_HUBLAT_CLASSES : Fld := ⟨0xF00060, 18, 16, .rw, 0, .d, fun _ => true⟩
def Rf.TST_BP_HOST : Fld := ⟨0xF00068, 0, 0, .rw, 0, .d, fun _ => true⟩
def Rf.TST_BP_SP0 : Fld := ⟨0xF00068, 1, 1, .rw, 0, .d, fun _ => true⟩
def Rf.TST_BP_SP1 : Fld := ⟨0xF00068, 2, 2, .rw, 0, .d, fun _ => true⟩
def Rf.TST_BP_ON_US : Fld := ⟨0xF00068, 31, 16, .rw, 0, .d, fun _ => true⟩
def Rf.TST_BP_OFF_US : Fld := ⟨0xF00068, 47, 32, .rw, 0, .d, fun _ => true⟩
def Rf.TST_LANE_LANE (i : Nat) : Fld := ⟨0xF00080 + 0x8 * i, 7, 0, .rw, 0, .d, fun x => decide (x ≤ 191)⟩
def Rf.TST_LANE_OP (i : Nat) : Fld := ⟨0xF00080 + 0x8 * i, 9, 8, .rw, 0, .d, fun _ => true⟩
def Rf.TST_LANE_BIT (i : Nat) : Fld := ⟨0xF00080 + 0x8 * i, 15, 10, .rw, 0, .d, fun _ => true⟩
def Rf.TST_LANE_EN (i : Nat) : Fld := ⟨0xF00080 + 0x8 * i, 16, 16, .rw, 0, .d, fun _ => true⟩
def Rf.TST_LANE_ONESHOT (i : Nat) : Fld := ⟨0xF00080 + 0x8 * i, 17, 17, .rw, 0, .d, fun _ => true⟩
def Rf.TST_LANE_RATE_LOG (i : Nat) : Fld := ⟨0xF00080 + 0x8 * i, 29, 24, .rw, 0, .d, fun x => decide (x ≤ 40)⟩
def Rf.TST_ECC_MEM : Fld := ⟨0xF000A0, 2, 0, .rw, 0, .d, fun x => decide (x < 7)⟩
def Rf.TST_ECC_NSYM : Fld := ⟨0xF000A0, 4, 3, .rw, 1, .d, fun x => decide (1 ≤ x) && decide (x ≤ 2)⟩
def Rf.TST_ECC_SYM : Fld := ⟨0xF000A0, 9, 5, .rw, 0, .d, fun x => decide (x ≤ 17)⟩
def Rf.TST_ECC_COUNT : Fld := ⟨0xF000A0, 10, 10, .rw, 0, .d, fun _ => true⟩
def Rf.TST_ECC_GO : Fld := ⟨0xF000A0, 11, 11, .wo, 0, .d, fun _ => true⟩
def Rf.TST_ECC_DONE : Fld := ⟨0xF000A0, 12, 12, .ro, 0, .d, fun _ => true⟩
def Rf.TST_ECC_ENGINE : Fld := ⟨0xF000A0, 22, 16, .rw, 0, .d, fun x => decide (x ≤ 118)⟩
def Rf.TST_ECC_PAT : Fld := ⟨0xF000A0, 31, 24, .rw, 0, .d, fun _ => true⟩
def Rf.TST_ENC_CH : Fld := ⟨0xF000C0, 2, 0, .rw, 0, .d, fun _ => true⟩
def Rf.TST_ENC_SIG : Fld := ⟨0xF000C0, 4, 3, .rw, 0, .d, fun x => decide (x < 3)⟩
def Rf.TST_ENC_BOTH : Fld := ⟨0xF000C0, 5, 5, .rw, 0, .d, fun _ => true⟩
def Rf.TST_ENC_W : Fld := ⟨0xF000C0, 15, 8, .rw, 1, .d, fun x => decide (1 ≤ x) && decide (x ≤ 255)⟩
def Rf.TST_ENC_GO : Fld := ⟨0xF000C0, 16, 16, .wo, 0, .d, fun _ => true⟩
def Rf.TST_LINE_PORT : Fld := ⟨0xF000C8, 5, 0, .rw, 0, .d, fun _ => true⟩
def Rf.TST_LINE_EN : Fld := ⟨0xF000C8, 6, 6, .rw, 0, .d, fun _ => true⟩
def Rf.TST_LINE_OP : Fld := ⟨0xF000C8, 8, 7, .rw, 0, .d, fun x => decide (x < 3)⟩
def Rf.TST_LINE_N : Fld := ⟨0xF000C8, 31, 16, .rw, 1, .d, fun x => decide (1 ≤ x) && decide (x ≤ 65535)⟩
def Rf.TST_LINE_EVERY : Fld := ⟨0xF000C8, 47, 32, .rw, 0, .d, fun _ => true⟩
def Rf.TST_ECC_ADDR_ADDR : Fld := ⟨0xF000A8, 39, 0, .rw, 0, .d, fun _ => true⟩
def Rf.TST_TICK_JMAX_NS : Fld := ⟨0xF000D0, 23, 0, .rw, 0, .d, fun _ => true⟩
def Rf.TST_TICK_EN : Fld := ⟨0xF000D0, 24, 24, .rw, 0, .d, fun _ => true⟩
def Rf.TST_THERM_OFFSET : Fld := ⟨0xF000D8, 15, 0, .rw, 0, .d, fun x => decide (x ≤ 256) || decide (65536 - 256 ≤ x)⟩
def Rf.TST_THERM_EN : Fld := ⟨0xF000D8, 16, 16, .rw, 0, .d, fun _ => true⟩
def Rf.TST_SEED_SEED : Fld := ⟨0xF000E0, 31, 0, .rw, 1, .d, fun _ => true⟩

/-! ### The registers -/

def regBlocks0 : List RegBlock := [
  ⟨"GLB_ID", 0x0, 1, 0x8, 1, 0x8, fun _ _ => [Rf.GLB_ID_VENDOR, Rf.GLB_ID_PART, Rf.GLB_ID_DIE_STEP, Rf.GLB_ID_VARIANT]⟩,
  ⟨"ENG_CTRL", 0x1000000, 119, 0x1000, 1, 0x8, fun i _ => [Rf.ENG_CTRL_LOAD i, Rf.ENG_CTRL_ABORT i, Rf.ENG_CTRL_SWAP i, Rf.ENG_CTRL_CONST_RELOAD i, Rf.ENG_CTRL_DISARM i]⟩,
  ⟨"ENG_STATUS", 0x1000008, 119, 0x1000, 1, 0x8, fun i _ => [Rf.ENG_STATUS_STATE i, Rf.ENG_STATUS_ACTIVE_BANK i, Rf.ENG_STATUS_ACTIVE_OK i, Rf.ENG_STATUS_SWAP_ARMED i]⟩,
  ⟨"ENG_ROLE", 0x1000010, 119, 0x1000, 1, 0x8, fun i _ => [Rf.ENG_ROLE_SECTION i, Rf.ENG_ROLE_UNIT i, Rf.ENG_ROLE_SPARE i, Rf.ENG_ROLE_RETIRED i]⟩,
  ⟨"ENG_ADM", 0x1000018, 119, 0x1000, 1, 0x8, fun i _ => [Rf.ENG_ADM_RESULT i, Rf.ENG_ADM_BUSY i, Rf.ENG_ADM_INDEX i, Rf.ENG_ADM_IMAGE_ID i]⟩,
  ⟨"ENG_BOUND", 0x1000020, 119, 0x1000, 1, 0x8, fun i _ => [Rf.ENG_BOUND_BOUND i]⟩,
  ⟨"ENG_ACT_BOUND", 0x1000028, 119, 0x1000, 1, 0x8, fun i _ => [Rf.ENG_ACT_BOUND_BOUND i]⟩,
  ⟨"ENG_BUDGET", 0x1000030, 119, 0x1000, 1, 0x8, fun i _ => [Rf.ENG_BUDGET_BUDGET i]⟩,
  ⟨"ENG_SWAP_BAND", 0x1000038, 119, 0x1000, 1, 0x8, fun i _ => [Rf.ENG_SWAP_BAND_BAND i]⟩,
  ⟨"ENG_SWAP_AT", 0x1000040, 119, 0x1000, 1, 0x8, fun i _ => [Rf.ENG_SWAP_AT_BAND i]⟩,
  ⟨"ENG_CONST_SRC", 0x1000068, 119, 0x1000, 1, 0x8, fun i _ => [Rf.ENG_CONST_SRC_HUB_ADDR i]⟩,
  ⟨"ENG_RUN", 0x1000048, 119, 0x1000, 1, 0x8, fun i _ => [Rf.ENG_RUN_LAST i, Rf.ENG_RUN_MAX i]⟩,
  ⟨"ENG_STALL", 0x1000050, 119, 0x1000, 1, 0x8, fun i _ => [Rf.ENG_STALL_LOAD_LAST i, Rf.ENG_STALL_CHAIN_LAST i]⟩,
  ⟨"ENG_FAULT", 0x1000058, 119, 0x1000, 1, 0x8, fun i _ => [Rf.ENG_FAULT_CODE i, Rf.ENG_FAULT_WDOG i, Rf.ENG_FAULT_HANG i, Rf.ENG_FAULT_TILE i, Rf.ENG_FAULT_CORR i]⟩,
  ⟨"ENG_CLAMP", 0x1000060, 119, 0x1000, 1, 0x8, fun i _ => [Rf.ENG_CLAMP_CLAMP_CNT i, Rf.ENG_CLAMP_SCR_VIOL i]⟩,
  ⟨"ENG_UNIT", 0x1800000, 112, 0x8, 1, 0x8, fun i _ => [Rf.ENG_UNIT_ENGINE i, Rf.ENG_UNIT_UNSERVED i]⟩,
  ⟨"ENG_SPARES", 0x1800400, 1, 0x8, 1, 0x8, fun _ _ => [Rf.ENG_SPARES_INTAKE, Rf.ENG_SPARES_FUSE, Rf.ENG_SPARES_SIEVE, Rf.ENG_SPARES_PACK]⟩,
  ⟨"ENG_TILE", 0x1000070, 119, 0x1000, 1, 0x8, fun i _ => [Rf.ENG_TILE_CAP_CNT i, Rf.ENG_TILE_FMT_VIOL i, Rf.ENG_TILE_DPR_MISS i]⟩,
  ⟨"ENG_TILEQ", 0x1000078, 119, 0x1000, 1, 0x8, fun i _ => [Rf.ENG_TILEQ_QFULL_LAST i, Rf.ENG_TILEQ_ILOCK_LAST i]⟩,
  ⟨"CAD_CTRL", 0x100000, 1, 0x8, 1, 0x8, fun _ _ => [Rf.CAD_CTRL_HOLD, Rf.CAD_CTRL_ABANDON]⟩,
  ⟨"CAD_SRC", 0x100008, 1, 0x8, 1, 0x8, fun _ _ => [Rf.CAD_SRC_SRC, Rf.CAD_SRC_MASTER, Rf.CAD_SRC_DIN, Rf.CAD_SRC_EDGE]⟩,
  ⟨"CAD_GEOM", 0x100010, 1, 0x8, 1, 0x8, fun _ _ => [Rf.CAD_GEOM_HEIGHT, Rf.CAD_GEOM_TAIL_US, Rf.CAD_GEOM_RESERVE]⟩,
  ⟨"CAD_PERIOD", 0x100018, 1, 0x8, 1, 0x8, fun _ _ => [Rf.CAD_PERIOD_PERIOD_NS]⟩,
  ⟨"CAD_START", 0x100020, 1, 0x8, 1, 0x8, fun _ _ => [Rf.CAD_START_TIME_NS, Rf.CAD_START_WRAP]⟩,
  ⟨"CAD_MAXGAP", 0x100028, 1, 0x8, 1, 0x8, fun _ _ => [Rf.CAD_MAXGAP_GAP_US]⟩,
  ⟨"CAD_BUDGET", 0x100030, 1, 0x8, 1, 0x8, fun _ _ => [Rf.CAD_BUDGET_BUDGET, Rf.CAD_BUDGET_CLK_MHZ]⟩,
  ⟨"CAD_GEAR", 0x100038, 1, 0x8, 1, 0x8, fun _ _ => [Rf.CAD_GEAR_CUR, Rf.CAD_GEAR_FLOOR, Rf.CAD_GEAR_THERM, Rf.CAD_GEAR_STATE, Rf.CAD_GEAR_UP_CLEAN, Rf.CAD_GEAR_CLEAN_CNT, Rf.CAD_GEAR_HOLD_LAG]⟩,
  ⟨"CAD_BAND", 0x100040, 1, 0x8, 1, 0x8, fun _ _ => [Rf.CAD_BAND_BAND]⟩,
  ⟨"CAD_HOLDINFO", 0x100048, 1, 0x8, 1, 0x8, fun _ _ => [Rf.CAD_HOLDINFO_FIRST, Rf.CAD_HOLDINFO_BACKLOG, Rf.CAD_HOLDINFO_LOST]⟩,
  ⟨"CAD_LATE", 0x100060, 4, 0x8, 1, 0x8, fun i _ => [Rf.CAD_LATE_LAST i, Rf.CAD_LATE_COUNT i, Rf.CAD_LATE_MAXLAG i]⟩,
  ⟨"CAD_CNT", 0x100080, 1, 0x8, 1, 0x8, fun _ _ => [Rf.CAD_CNT_FAST, Rf.CAD_CNT_PARTIAL, Rf.CAD_CNT_SURPLUS, Rf.CAD_CNT_EXT_IGN]⟩,
  ⟨"CAD_TICK", 0x100088, 1, 0x8, 1, 0x8, fun _ _ => [Rf.CAD_TICK_TIME_NS, Rf.CAD_TICK_WRAP]⟩,
  ⟨"SPK_PCFG", 0x200000, 48, 0x1000, 1, 0x8, fun i _ => [Rf.SPK_PCFG_ENABLE i, Rf.SPK_PCFG_WIDTH i, Rf.SPK_PCFG_RATE i, Rf.SPK_PCFG_TRG_INBAND i, Rf.SPK_PCFG_BASE i, Rf.SPK_PCFG_LOAD_PCT i]⟩,
  ⟨"SPK_PCTRL", 0x200008, 48, 0x1000, 1, 0x8, fun i _ => [Rf.SPK_PCTRL_RELOCK i, Rf.SPK_PCTRL_RESTORE i]⟩,
  ⟨"SPK_PSTAT", 0x200010, 48, 0x1000, 1, 0x8, fun i _ => [Rf.SPK_PSTAT_STATE i, Rf.SPK_PSTAT_STRIPE i, Rf.SPK_PSTAT_PENDING i, Rf.SPK_PSTAT_CARRIER i, Rf.SPK_PSTAT_LOAD i]⟩,
  ⟨"SPK_PCAM", 0x200018, 48, 0x1000, 1, 0x8, fun i _ => [Rf.SPK_PCAM_STATE i, Rf.SPK_PCAM_SSID i, Rf.SPK_PCAM_DN_MASK i, Rf.SPK_PCAM_TEMP i, Rf.SPK_PCAM_CAMFLAGS i, Rf.SPK_PCAM_AGE_US i]⟩,
  ⟨"SPK_PTMO", 0x200020, 48, 0x1000, 1, 0x8, fun i _ => [Rf.SPK_PTMO_LINE_TMO_US i, Rf.SPK_PTMO_SILENT_TMO_US i, Rf.SPK_PTMO_SACK_TMO_US i]⟩,
  ⟨"SPK_PCNT", 0x200028, 48, 0x1000, 1, 0x8, fun i _ => [Rf.SPK_PCNT_BADLINE i, Rf.SPK_PCNT_NOEND i, Rf.SPK_PCNT_LTMO i, Rf.SPK_PCNT_ORPHAN i]⟩,
  ⟨"SPK_PCNT2", 0x200030, 48, 0x1000, 1, 0x8, fun i _ => [Rf.SPK_PCNT2_BADCTL i, Rf.SPK_PCNT2_OVFL i, Rf.SPK_PCNT2_SACKMISS i, Rf.SPK_PCNT2_SACKREJ i]⟩,
  ⟨"SPK_PRM", 0x200038, 48, 0x1000, 1, 0x8, fun i _ => [Rf.SPK_PRM_DEL i, Rf.SPK_PRM_INS i]⟩]

def regBlocks1 : List RegBlock := [
  ⟨"SPK_PTRG", 0x200040, 48, 0x1000, 1, 0x8, fun i _ => [Rf.SPK_PTRG_LSEQ i, Rf.SPK_PTRG_DIV i, Rf.SPK_PTRG_WITHHELD i]⟩,
  ⟨"SPK_LN_STAT", 0x300000, 192, 0x100, 1, 0x8, fun i _ => [Rf.SPK_LN_STAT_BLK i, Rf.SPK_LN_STAT_AMST i, Rf.SPK_LN_STAT_LANE_ID i, Rf.SPK_LN_STAT_LOST i, Rf.SPK_LN_STAT_SKEW i, Rf.SPK_LN_STAT_PPM i]⟩,
  ⟨"SPK_LN_EQ", 0x300008, 192, 0x100, 1, 0x8, fun i _ => [Rf.SPK_LN_EQ_TX_SWING i, Rf.SPK_LN_EQ_TX_PRE i, Rf.SPK_LN_EQ_TX_POST i, Rf.SPK_LN_EQ_RX_CTLE i, Rf.SPK_LN_EQ_RX_DFE i, Rf.SPK_LN_EQ_POL_TX i, Rf.SPK_LN_EQ_POL_RX i, Rf.SPK_LN_EQ_DEFAULT i]⟩,
  ⟨"SPK_LN_CNT", 0x300010, 192, 0x100, 1, 0x8, fun i _ => [Rf.SPK_LN_CNT_BADHDR i, Rf.SPK_LN_CNT_LOCKLOSS i, Rf.SPK_LN_CNT_AMERR i]⟩,
  ⟨"SPK_FMT", 0x200100, 48, 0x1000, 1, 0x8, fun i _ => [Rf.SPK_FMT_BITS i, Rf.SPK_FMT_EXPOS i, Rf.SPK_FMT_COLOUR i, Rf.SPK_FMT_SPLIT i, Rf.SPK_FMT_WIDTH i, Rf.SPK_FMT_FILL i, Rf.SPK_FMT_SET_LAT i]⟩,
  ⟨"SPK_COLR", 0x200108, 48, 0x1000, 1, 0x8, fun i _ => [Rf.SPK_COLR_DLY0 i, Rf.SPK_COLR_DLY1 i, Rf.SPK_COLR_DLY2 i]⟩,
  ⟨"SPK_RAW", 0x200110, 48, 0x1000, 1, 0x8, fun i _ => [Rf.SPK_RAW_BASE i]⟩,
  ⟨"SPK_RAWN", 0x200118, 48, 0x1000, 1, 0x8, fun i _ => [Rf.SPK_RAWN_LINES i]⟩,
  ⟨"SPK_RAWTAG", 0x200120, 48, 0x1000, 1, 0x8, fun i _ => [Rf.SPK_RAWTAG_BASE i]⟩,
  ⟨"SPK_COR", 0x200128, 48, 0x1000, 1, 0x8, fun i _ => [Rf.SPK_COR_BASE i, Rf.SPK_COR_SLOTS i]⟩,
  ⟨"SPK_SETMSG", 0x200130, 48, 0x1000, 1, 0x8, fun i _ => [Rf.SPK_SETMSG_ADDR i, Rf.SPK_SETMSG_LEN i, Rf.SPK_SETMSG_SSID i]⟩,
  ⟨"SPK_SETBAND", 0x200138, 48, 0x1000, 1, 0x8, fun i _ => [Rf.SPK_SETBAND_BAND i]⟩,
  ⟨"SPK_SETSTAT", 0x200140, 48, 0x1000, 1, 0x8, fun i _ => [Rf.SPK_SETSTAT_STATE i, Rf.SPK_SETSTAT_S0 i, Rf.SPK_SETSTAT_S1 i, Rf.SPK_SETSTAT_CUT_LSEQ i]⟩,
  ⟨"SPK_LCNT", 0x200148, 48, 0x1000, 1, 0x8, fun i _ => [Rf.SPK_LCNT_SHORT i, Rf.SPK_LCNT_LONG i, Rf.SPK_LCNT_SYNTH i, Rf.SPK_LCNT_SURPLUS i]⟩,
  ⟨"SPK_LCNT2", 0x200150, 48, 0x1000, 1, 0x8, fun i _ => [Rf.SPK_LCNT2_SSIDX i, Rf.SPK_LCNT2_LATE i, Rf.SPK_LCNT2_LATEFETCH i, Rf.SPK_LCNT2_SETREF i]⟩,
  ⟨"SPK_RAWPOS", 0x200158, 48, 0x1000, 1, 0x8, fun i _ => [Rf.SPK_RAWPOS_NEXT i]⟩,
  ⟨"POS_ENC_CFG", 0xB00000, 8, 0x80, 1, 0x8, fun i _ => [Rf.POS_ENC_CFG_FILT i, Rf.POS_ENC_CFG_DIRINV i, Rf.POS_ENC_CFG_EN i, Rf.POS_ENC_CFG_TOL i, Rf.POS_ENC_CFG_VAVG i, Rf.POS_ENC_CFG_STOP_US i]⟩,
  ⟨"POS_ENC_CTRL", 0xB00030, 8, 0x80, 1, 0x8, fun i _ => [Rf.POS_ENC_CTRL_LOAD i, Rf.POS_ENC_CTRL_LOAD_IDX i, Rf.POS_ENC_CTRL_DISARM i]⟩,
  ⟨"POS_ENC_STAT", 0xB00040, 8, 0x80, 1, 0x8, fun i _ => [Rf.POS_ENC_STAT_STOPPED i, Rf.POS_ENC_STAT_DIR i, Rf.POS_ENC_STAT_ARMED i, Rf.POS_ENC_STAT_ERR i, Rf.POS_ENC_STAT_DRIFT i, Rf.POS_ENC_STAT_INDEX i]⟩,
  ⟨"POS_SSP_CFG", 0xB00400, 4, 0x40, 1, 0x8, fun i _ => [Rf.POS_SSP_CFG_PROTO i, Rf.POS_SSP_CFG_EN i, Rf.POS_SSP_CFG_BITS i, Rf.POS_SSP_CFG_CLK_KHZ i, Rf.POS_SSP_CFG_POLL_US i]⟩,
  ⟨"POS_SSP_STAT", 0xB00418, 4, 0x40, 1, 0x8, fun i _ => [Rf.POS_SSP_STAT_CRCERR i, Rf.POS_SSP_STAT_NERR i, Rf.POS_SSP_STAT_NORESP i, Rf.POS_SSP_STAT_JUMPREJ i]⟩,
  ⟨"POS_SSP_FLAG", 0xB00420, 4, 0x40, 1, 0x8, fun i _ => [Rf.POS_SSP_FLAG_STALE i, Rf.POS_SSP_FLAG_WARN i, Rf.POS_SSP_FLAG_TIME_NS i]⟩,
  ⟨"POS_DIN_CFG", 0xB00600, 8, 0x40, 1, 0x8, fun i _ => [Rf.POS_DIN_CFG_FILT i, Rf.POS_DIN_CFG_EDGE i, Rf.POS_DIN_CFG_REPEAT i, Rf.POS_DIN_CFG_LATCH_CH i, Rf.POS_DIN_CFG_REP_CHAIN i]⟩,
  ⟨"POS_DIN_STAT", 0xB00620, 8, 0x40, 1, 0x8, fun i _ => [Rf.POS_DIN_STAT_LEVEL i, Rf.POS_DIN_STAT_LOCKED i, Rf.POS_DIN_STAT_SPUR i, Rf.POS_DIN_STAT_MISSED i, Rf.POS_DIN_STAT_EDGES i]⟩,
  ⟨"POS_TG_CFG", 0xB01000, 56, 0x40, 1, 0x8, fun i _ => [Rf.POS_TG_CFG_SRC i, Rf.POS_TG_CFG_EN i, Rf.POS_TG_CFG_DIR i, Rf.POS_TG_CFG_CH i, Rf.POS_TG_CFG_LATCH_CH i, Rf.POS_TG_CFG_DIN i, Rf.POS_TG_CFG_DIV i, Rf.POS_TG_CFG_DELAY_NS i, Rf.POS_TG_CFG_PW i]⟩,
  ⟨"POS_TG_STAT", 0xB01038, 56, 0x40, 1, 0x8, fun i _ => [Rf.POS_TG_STAT_EVENTS i, Rf.POS_TG_STAT_BRAKED i, Rf.POS_TG_STAT_DROPPED i]⟩,
  ⟨"POS_CMP_CFG", 0xB02000, 4, 0x200, 1, 0x8, fun i _ => [Rf.POS_CMP_CFG_CH i, Rf.POS_CMP_CFG_DIR i, Rf.POS_CMP_CFG_FIRE_LATE i, Rf.POS_CMP_CFG_EN i, Rf.POS_CMP_CFG_PW_US i, Rf.POS_CMP_CFG_LEAD_NS i]⟩,
  ⟨"POS_CMP_CTRL", 0xB02028, 4, 0x200, 1, 0x8, fun i _ => [Rf.POS_CMP_CTRL_FLUSH i]⟩,
  ⟨"POS_CMP_STAT", 0xB02030, 4, 0x200, 1, 0x8, fun i _ => [Rf.POS_CMP_STAT_DEPTH i, Rf.POS_CMP_STAT_FIRED i, Rf.POS_CMP_STAT_LATE i, Rf.POS_CMP_STAT_LATEF i]⟩,
  ⟨"POS_MK_CFG", 0xB02040, 4, 0x200, 1, 0x8, fun i _ => [Rf.POS_MK_CFG_MK_EN i, Rf.POS_MK_CFG_SPAN i, Rf.POS_MK_CFG_CONFIRM i, Rf.POS_MK_CFG_LMASK i]⟩,
  ⟨"POS_MK_HEAD", 0xB02100, 4, 0x200, 16, 0x8, fun i j => [Rf.POS_MK_HEAD_XLO i j, Rf.POS_MK_HEAD_XHI i j, Rf.POS_MK_HEAD_OUT i j, Rf.POS_MK_HEAD_EN i j]⟩,
  ⟨"POS_MK_CNT", 0xB02080, 4, 0x200, 1, 0x8, fun i _ => [Rf.POS_MK_CNT_OVER i, Rf.POS_MK_CNT_FULL i, Rf.POS_MK_CNT_NOHEAD i, Rf.POS_MK_CNT_CONFLOST i]⟩,
  ⟨"POS_EMU_CFG", 0xB03000, 4, 0x40, 1, 0x8, fun i _ => [Rf.POS_EMU_CFG_CH i, Rf.POS_EMU_CFG_EN i, Rf.POS_EMU_CFG_NUM i, Rf.POS_EMU_CFG_DEN i, Rf.POS_EMU_CFG_IDX i]⟩,
  ⟨"POS_EMU_STAT", 0xB03010, 4, 0x40, 1, 0x8, fun i _ => [Rf.POS_EMU_STAT_BACKLOG i, Rf.POS_EMU_STAT_REBASE i]⟩,
  ⟨"POS_ENC_CPI", 0xB00008, 8, 0x80, 1, 0x8, fun i _ => [Rf.POS_ENC_CPI_CPI i]⟩,
  ⟨"POS_ENC_CNT", 0xB00010, 8, 0x80, 1, 0x8, fun i _ => [Rf.POS_ENC_CNT_COUNT i]⟩,
  ⟨"POS_ENC_IDX", 0xB00018, 8, 0x80, 1, 0x8, fun i _ => [Rf.POS_ENC_IDX_LAST i]⟩,
  ⟨"POS_ENC_IDXP", 0xB00020, 8, 0x80, 1, 0x8, fun i _ => [Rf.POS_ENC_IDXP_PREV i]⟩,
  ⟨"POS_ENC_PRESET", 0xB00028, 8, 0x80, 1, 0x8, fun i _ => [Rf.POS_ENC_PRESET_VALUE i]⟩,
  ⟨"POS_ENC_VEL", 0xB00038, 8, 0x80, 1, 0x8, fun i _ => [Rf.POS_ENC_VEL_VEL i]⟩]

def regBlocks2 : List RegBlock := [
  ⟨"POS_SSP_JUMP", 0xB00408, 4, 0x40, 1, 0x8, fun i _ => [Rf.POS_SSP_JUMP_JUMP i]⟩,
  ⟨"POS_SSP_CNT", 0xB00410, 4, 0x40, 1, 0x8, fun i _ => [Rf.POS_SSP_CNT_COUNT i]⟩,
  ⟨"POS_DIN_REP", 0xB00608, 8, 0x40, 1, 0x8, fun i _ => [Rf.POS_DIN_REP_PERIOD i, Rf.POS_DIN_REP_TOL i]⟩,
  ⟨"POS_DIN_LAT", 0xB00610, 8, 0x40, 1, 0x8, fun i _ => [Rf.POS_DIN_LAT_COUNT i]⟩,
  ⟨"POS_DIN_TIME", 0xB00618, 8, 0x40, 1, 0x8, fun i _ => [Rf.POS_DIN_TIME_TIME_NS i, Rf.POS_DIN_TIME_WRAP i]⟩,
  ⟨"POS_TG_ORIGIN", 0xB01008, 56, 0x40, 1, 0x8, fun i _ => [Rf.POS_TG_ORIGIN_ORIGIN i]⟩,
  ⟨"POS_TG_PITCH", 0xB01010, 56, 0x40, 1, 0x8, fun i _ => [Rf.POS_TG_PITCH_PITCH i]⟩,
  ⟨"POS_TG_START", 0xB01018, 56, 0x40, 1, 0x8, fun i _ => [Rf.POS_TG_START_TIME_NS i, Rf.POS_TG_START_WRAP i]⟩,
  ⟨"POS_TG_PERIOD", 0xB01020, 56, 0x40, 1, 0x8, fun i _ => [Rf.POS_TG_PERIOD_PERIOD i]⟩,
  ⟨"POS_TG_LAST", 0xB01028, 56, 0x40, 1, 0x8, fun i _ => [Rf.POS_TG_LAST_COUNT i]⟩,
  ⟨"POS_TG_LTIME", 0xB01030, 56, 0x40, 1, 0x8, fun i _ => [Rf.POS_TG_LTIME_TIME_NS i, Rf.POS_TG_LTIME_WRAP i]⟩,
  ⟨"POS_CMP_STG", 0xB02008, 4, 0x200, 3, 0x8, fun i j => [Rf.POS_CMP_STG_E i j]⟩,
  ⟨"POS_CMP_APPEND", 0xB02020, 4, 0x200, 1, 0x8, fun i _ => [Rf.POS_CMP_APPEND_E3 i]⟩,
  ⟨"POS_CMP_HEAD", 0xB02038, 4, 0x200, 1, 0x8, fun i _ => [Rf.POS_CMP_HEAD_POS i]⟩,
  ⟨"POS_MK_OFS", 0xB02048, 4, 0x200, 1, 0x8, fun i _ => [Rf.POS_MK_OFS_OFFSET i]⟩,
  ⟨"POS_MK_PAD", 0xB02050, 4, 0x200, 1, 0x8, fun i _ => [Rf.POS_MK_PAD_PRE i, Rf.POS_MK_PAD_POST i]⟩,
  ⟨"POS_MK_CLS", 0xB02060, 4, 0x200, 4, 0x8, fun i j => [Rf.POS_MK_CLS_CLASSES i j]⟩,
  ⟨"POS_MK_CHAINS", 0xB03800, 1, 0x8, 1, 0x8, fun _ _ => [Rf.POS_MK_CHAINS_MARK_CHAIN, Rf.POS_MK_CHAINS_CONF_CHAIN]⟩,
  ⟨"POS_MK_OUT", 0xB03808, 1, 0x8, 1, 0x8, fun _ _ => [Rf.POS_MK_OUT_LEVEL]⟩,
  ⟨"FUS_GEOM", 0x400000, 1, 0x8, 1, 0x8, fun _ _ => [Rf.FUS_GEOM_WIDTH, Rf.FUS_GEOM_PLANES, Rf.FUS_GEOM_REFPORT]⟩,
  ⟨"FUS_RING", 0x400008, 1, 0x8, 1, 0x8, fun _ _ => [Rf.FUS_RING_BASE, Rf.FUS_RING_SLOTS]⟩,
  ⟨"FUS_LAYOUT", 0x400010, 1, 0x8, 1, 0x8, fun _ _ => [Rf.FUS_LAYOUT_LSK, Rf.FUS_LAYOUT_MBK]⟩,
  ⟨"FUS_SLOTB", 0x400018, 1, 0x8, 1, 0x8, fun _ _ => [Rf.FUS_SLOTB_SLOT_BYTES]⟩,
  ⟨"FUS_STRIP", 0x400040, 16, 0x8, 1, 0x8, fun i _ => [Rf.FUS_STRIP_FIRST i, Rf.FUS_STRIP_LAST i]⟩,
  ⟨"FUS_CAM_CFG", 0x401000, 48, 0x40, 1, 0x8, fun i _ => [Rf.FUS_CAM_CFG_EN i, Rf.FUS_CAM_CFG_HTAPS i, Rf.FUS_CAM_CFG_VTAPS i, Rf.FUS_CAM_CFG_DLY i]⟩,
  ⟨"FUS_CAM_SPAN", 0x401008, 48, 0x40, 1, 0x8, fun i _ => [Rf.FUS_CAM_SPAN_U_LO i, Rf.FUS_CAM_SPAN_U_HI i]⟩,
  ⟨"FUS_CAM_F0", 0x401010, 48, 0x40, 1, 0x8, fun i _ => [Rf.FUS_CAM_F0_F0 i]⟩,
  ⟨"FUS_CAM_F1", 0x401018, 48, 0x40, 1, 0x8, fun i _ => [Rf.FUS_CAM_F1_F1 i]⟩,
  ⟨"FUS_CAM_F2", 0x401020, 48, 0x40, 1, 0x8, fun i _ => [Rf.FUS_CAM_F2_F2 i]⟩,
  ⟨"FUS_CAM_F3", 0x401028, 48, 0x40, 1, 0x8, fun i _ => [Rf.FUS_CAM_F3_F3 i]⟩,
  ⟨"FUS_CAM_STAT", 0x401030, 48, 0x40, 1, 0x8, fun i _ => [Rf.FUS_CAM_STAT_INV i, Rf.FUS_CAM_STAT_CUT i]⟩,
  ⟨"SIV_GEOM", 0x500000, 1, 0x8, 1, 0x8, fun _ _ => [Rf.SIV_GEOM_LAG, Rf.SIV_GEOM_HYST, Rf.SIV_GEOM_LOOK_CYC, Rf.SIV_GEOM_SEAM_CAP, Rf.SIV_GEOM_DEFCLS]⟩,
  ⟨"SIV_CHAINS", 0x500008, 1, 0x8, 1, 0x8, fun _ _ => [Rf.SIV_CHAINS_SEAM, Rf.SIV_CHAINS_REC_BASE, Rf.SIV_CHAINS_PCH_BASE]⟩,
  ⟨"SIV_PREF", 0x500020, 1, 0x8, 1, 0x8, fun _ _ => [Rf.SIV_PREF_EN, Rf.SIV_PREF_DIN, Rf.SIV_PREF_DIR, Rf.SIV_PREF_PLINES]⟩,
  ⟨"SIV_PLOG", 0x500038, 1, 0x8, 1, 0x8, fun _ _ => [Rf.SIV_PLOG_BASE, Rf.SIV_PLOG_SLOTS]⟩,
  ⟨"SIV_CLOSE", 0x500060, 1, 0x8, 1, 0x8, fun _ _ => [Rf.SIV_CLOSE_BAND, Rf.SIV_CLOSE_LAST_US, Rf.SIV_CLOSE_MAX_US]⟩,
  ⟨"SIV_CNT", 0x500068, 1, 0x8, 1, 0x8, fun _ _ => [Rf.SIV_CNT_RECORDS, Rf.SIV_CNT_DISCARD, Rf.SIV_CNT_STORM]⟩,
  ⟨"SIV_CNT2", 0x500070, 1, 0x8, 1, 0x8, fun _ _ => [Rf.SIV_CNT2_UNIONS, Rf.SIV_CNT2_PKTERR, Rf.SIV_CNT2_NULLPH]⟩,
  ⟨"SIV_SEQ", 0x500078, 1, 0x8, 1, 0x8, fun _ _ => [Rf.SIV_SEQ_NEXT_ID, Rf.SIV_SEQ_EPOCH, Rf.SIV_SEQ_CLEAN]⟩,
  ⟨"SIV_LMT", 0x500010, 1, 0x8, 1, 0x8, fun _ _ => [Rf.SIV_LMT_BASE]⟩]

def regBlocks3 : List RegBlock := [
  ⟨"SIV_SEAMA", 0x500018, 1, 0x8, 1, 0x8, fun _ _ => [Rf.SIV_SEAMA_BASE]⟩,
  ⟨"SIV_PREF_BASE", 0x500028, 1, 0x8, 1, 0x8, fun _ _ => [Rf.SIV_PREF_BASE_BASE]⟩,
  ⟨"SIV_PREF_PITCH", 0x500030, 1, 0x8, 1, 0x8, fun _ _ => [Rf.SIV_PREF_PITCH_PITCH]⟩,
  ⟨"SIV_MARKCLS", 0x500040, 4, 0x8, 1, 0x8, fun i _ => [Rf.SIV_MARKCLS_CLASSES i]⟩,
  ⟨"SIV_LOOK", 0x500100, 32, 0x8, 1, 0x8, fun i _ => [Rf.SIV_LOOK_BOUND i]⟩,
  ⟨"SIV_RULE0", 0x502000, 256, 0x20, 1, 0x8, fun i _ => [Rf.SIV_RULE0_EN i, Rf.SIV_RULE0_CLASS i, Rf.SIV_RULE0_FA i, Rf.SIV_RULE0_FB i, Rf.SIV_RULE0_FC i]⟩,
  ⟨"SIV_RULEC", 0x502008, 256, 0x20, 3, 0x8, fun i j => [Rf.SIV_RULEC_LO i j, Rf.SIV_RULEC_HI i j]⟩,
  ⟨"PAK_CHAINS", 0x600000, 1, 0x8, 1, 0x8, fun _ _ => [Rf.PAK_CHAINS_OUT_BASE, Rf.PAK_CHAINS_CREQ_BASE, Rf.PAK_CHAINS_CROP, Rf.PAK_CHAINS_STATS]⟩,
  ⟨"PAK_CROP", 0x600010, 1, 0x8, 1, 0x8, fun _ _ => [Rf.PAK_CROP_EN, Rf.PAK_CROP_MAXBAND]⟩,
  ⟨"PAK_TC0", 0x600018, 1, 0x8, 1, 0x8, fun _ _ => [Rf.PAK_TC0_SLACK_US, Rf.PAK_TC0_BASE_OK, Rf.PAK_TC0_RERUN_OK, Rf.PAK_TC0_BASE_MARGIN, Rf.PAK_TC0_RERUN_MARGIN]⟩,
  ⟨"PAK_TC0CNT", 0x600020, 1, 0x8, 1, 0x8, fun _ _ => [Rf.PAK_TC0CNT_VOID, Rf.PAK_TC0CNT_SLACK, Rf.PAK_TC0CNT_CLOSE, Rf.PAK_TC0CNT_RING]⟩,
  ⟨"PAK_CNT", 0x600028, 1, 0x8, 1, 0x8, fun _ _ => [Rf.PAK_CNT_BADPKT, Rf.PAK_CNT_UNROUTED, Rf.PAK_CNT_CROPDROP, Rf.PAK_CNT_RECLOST]⟩,
  ⟨"PAK_PCIE", 0x600030, 1, 0x8, 1, 0x8, fun _ _ => [Rf.PAK_PCIE_GEN, Rf.PAK_PCIE_WIDTH, Rf.PAK_PCIE_FLIT, Rf.PAK_PCIE_MPS, Rf.PAK_PCIE_MRRS]⟩,
  ⟨"PAK_RING_CFG", 0x620000, 64, 0x40, 1, 0x8, fun i _ => [Rf.PAK_RING_CFG_EN i, Rf.PAK_RING_CFG_FULLPOL i, Rf.PAK_RING_CFG_SIZE_LOG i, Rf.PAK_RING_CFG_VECTOR i, Rf.PAK_RING_CFG_TYPES i, Rf.PAK_RING_CFG_STRIPS i]⟩,
  ⟨"PAK_STR_CFG", 0x630000, 8, 0x80, 1, 0x8, fun i _ => [Rf.PAK_STR_CFG_EN i, Rf.PAK_STR_CFG_IPV6 i, Rf.PAK_STR_CFG_RETPOL i, Rf.PAK_STR_CFG_LAUNCH i, Rf.PAK_STR_CFG_DST i, Rf.PAK_STR_CFG_DSCP i, Rf.PAK_STR_CFG_DGMAX i, Rf.PAK_STR_CFG_TYPES i, Rf.PAK_STR_CFG_STRIPS i]⟩,
  ⟨"PAK_STR_TMO", 0x630008, 8, 0x80, 1, 0x8, fun i _ => [Rf.PAK_STR_TMO_SPORT i, Rf.PAK_STR_TMO_FLUSH_US i, Rf.PAK_STR_TMO_ACK_TMO_US i, Rf.PAK_STR_TMO_RTX_MIN_US i]⟩,
  ⟨"PAK_STR_CNT", 0x630030, 8, 0x80, 1, 0x8, fun i _ => [Rf.PAK_STR_CNT_RETX i, Rf.PAK_STR_CNT_PROBE i, Rf.PAK_STR_CNT_GONE i, Rf.PAK_STR_CNT_BADACK i]⟩,
  ⟨"PAK_RECQ", 0x600008, 1, 0x8, 1, 0x8, fun _ _ => [Rf.PAK_RECQ_BASE, Rf.PAK_RECQ_SIZE]⟩,
  ⟨"PAK_CSTG", 0x600038, 1, 0x8, 1, 0x8, fun _ _ => [Rf.PAK_CSTG_BASE, Rf.PAK_CSTG_SIZE]⟩,
  ⟨"PAK_CROPCLS", 0x600040, 4, 0x8, 1, 0x8, fun i _ => [Rf.PAK_CROPCLS_CLASSES i]⟩,
  ⟨"MSIX_LO", 0x608000, 2048, 0x10, 1, 0x8, fun i _ => [Rf.MSIX_LO_ADDR i]⟩,
  ⟨"MSIX_HI", 0x608008, 2048, 0x10, 1, 0x8, fun i _ => [Rf.MSIX_HI_DATA i, Rf.MSIX_HI_MASK i]⟩,
  ⟨"MSIX_PBA", 0x610000, 32, 0x8, 1, 0x8, fun i _ => [Rf.MSIX_PBA_PEND i]⟩,
  ⟨"PAK_RING_BASE", 0x620008, 64, 0x40, 1, 0x8, fun i _ => [Rf.PAK_RING_BASE_ADDR i]⟩,
  ⟨"PAK_RING_WB", 0x620010, 64, 0x40, 1, 0x8, fun i _ => [Rf.PAK_RING_WB_ADDR i]⟩,
  ⟨"PAK_RING_CONS", 0x620018, 64, 0x40, 1, 0x8, fun i _ => [Rf.PAK_RING_CONS_CONS i]⟩,
  ⟨"PAK_RING_PROD", 0x620020, 64, 0x40, 1, 0x8, fun i _ => [Rf.PAK_RING_PROD_PROD i]⟩,
  ⟨"PAK_RING_IRQ", 0x620028, 64, 0x40, 1, 0x8, fun i _ => [Rf.PAK_RING_IRQ_THRESH i, Rf.PAK_RING_IRQ_TIMER_US i]⟩,
  ⟨"PAK_RING_CNT", 0x620030, 64, 0x40, 1, 0x8, fun i _ => [Rf.PAK_RING_CNT_DROPPED i, Rf.PAK_RING_CNT_FULL_US i]⟩,
  ⟨"PAK_STR_RET", 0x630010, 8, 0x80, 1, 0x8, fun i _ => [Rf.PAK_STR_RET_BASE i, Rf.PAK_STR_RET_SIZE i]⟩,
  ⟨"PAK_STR_DMAC", 0x630018, 8, 0x80, 1, 0x8, fun i _ => [Rf.PAK_STR_DMAC_MAC i, Rf.PAK_STR_DMAC_VID i, Rf.PAK_STR_DMAC_VLAN i]⟩,
  ⟨"PAK_STR_SEQ", 0x630020, 8, 0x80, 1, 0x8, fun i _ => [Rf.PAK_STR_SEQ_NEXT i]⟩,
  ⟨"PAK_STR_CUM", 0x630028, 8, 0x80, 1, 0x8, fun i _ => [Rf.PAK_STR_CUM_CUM i]⟩,
  ⟨"PAK_STR_SESS", 0x630038, 8, 0x80, 1, 0x8, fun i _ => [Rf.PAK_STR_SESS_SESSION i]⟩,
  ⟨"PAK_SP_MAC", 0x638000, 2, 0x40, 1, 0x8, fun i _ => [Rf.PAK_SP_MAC_MAC i]⟩,
  ⟨"PAK_SP_IP4", 0x638008, 2, 0x40, 1, 0x8, fun i _ => [Rf.PAK_SP_IP4_ADDR i]⟩,
  ⟨"PAK_SP_IP6H", 0x638010, 2, 0x40, 1, 0x8, fun i _ => [Rf.PAK_SP_IP6H_ADDR i]⟩,
  ⟨"PAK_SP_IP6L", 0x638018, 2, 0x40, 1, 0x8, fun i _ => [Rf.PAK_SP_IP6L_ADDR i]⟩,
  ⟨"PAK_SP_STAT", 0x638020, 2, 0x40, 1, 0x8, fun i _ => [Rf.PAK_SP_STAT_UP i, Rf.PAK_SP_STAT_RXDROP i, Rf.PAK_SP_STAT_FECCORR i]⟩,
  ⟨"HUB_CFG", 0x700000, 1, 0x8, 1, 0x8, fun _ _ => [Rf.HUB_CFG_SR_IDLE_US, Rf.HUB_CFG_RESV]⟩]

def regBlocks4 : List RegBlock := [
  ⟨"HUB_FREQ", 0x700008, 1, 0x8, 1, 0x8, fun _ _ => [Rf.HUB_FREQ_RATE, Rf.HUB_FREQ_CUR, Rf.HUB_FREQ_PENDING]⟩,
  ⟨"HUB_ARB", 0x700010, 1, 0x8, 1, 0x8, fun _ _ => [Rf.HUB_ARB_W1, Rf.HUB_ARB_W2, Rf.HUB_ARB_TC3_MIN]⟩,
  ⟨"HUB_RT", 0x700018, 1, 0x8, 1, 0x8, fun _ _ => [Rf.HUB_RT_INTERVAL_MS, Rf.HUB_RT_FORCE_US, Rf.HUB_RT_DTEMP]⟩,
  ⟨"HUB_ERR", 0x700020, 1, 0x8, 1, 0x8, fun _ _ => [Rf.HUB_ERR_CORR_TH, Rf.HUB_ERR_WIN_MS]⟩,
  ⟨"HUB_MIG", 0x700028, 1, 0x8, 1, 0x8, fun _ _ => [Rf.HUB_MIG_RATE]⟩,
  ⟨"HUB_CTRL", 0x700030, 1, 0x8, 1, 0x8, fun _ _ => [Rf.HUB_CTRL_MIG_REQ, Rf.HUB_CTRL_MIG_SLOT]⟩,
  ⟨"HUB_STAT", 0x700038, 1, 0x8, 1, 0x8, fun _ _ => [Rf.HUB_STAT_CAP_GIB, Rf.HUB_STAT_AVAIL, Rf.HUB_STAT_SPARES, Rf.HUB_STAT_RETIRED, Rf.HUB_STAT_RSLOT, Rf.HUB_STAT_TRAINING, Rf.HUB_STAT_DEFER]⟩,
  ⟨"HUB_MIGSTAT", 0x700040, 1, 0x8, 1, 0x8, fun _ _ => [Rf.HUB_MIGSTAT_ACTIVE, Rf.HUB_MIGSTAT_RELOC, Rf.HUB_MIGSTAT_SLOT, Rf.HUB_MIGSTAT_TARGET, Rf.HUB_MIGSTAT_POINTER, Rf.HUB_MIGSTAT_QUEUED]⟩,
  ⟨"HUB_TC0", 0x700048, 1, 0x8, 1, 0x8, fun _ _ => [Rf.HUB_TC0_TOKWAIT, Rf.HUB_TC0_MAX_NS]⟩,
  ⟨"HUB_SCRUB", 0x700050, 1, 0x8, 1, 0x8, fun _ _ => [Rf.HUB_SCRUB_PERIOD_H, Rf.HUB_SCRUB_PASSES]⟩,
  ⟨"HUB_ACCERR", 0x700058, 1, 0x8, 1, 0x8, fun _ _ => [Rf.HUB_ACCERR_ADDR, Rf.HUB_ACCERR_COUNT]⟩,
  ⟨"HUB_MAP", 0x700100, 48, 0x8, 1, 0x8, fun i _ => [Rf.HUB_MAP_PHYS i]⟩,
  ⟨"HUB_CH_CFG", 0x710000, 50, 0x1000, 1, 0x8, fun i _ => [Rf.HUB_CH_CFG_RT_EN i, Rf.HUB_CH_CFG_SR_EN i]⟩,
  ⟨"HUB_CH_STAT", 0x710008, 50, 0x1000, 1, 0x8, fun i _ => [Rf.HUB_CH_STAT_ROLE i, Rf.HUB_CH_STAT_SLOT i, Rf.HUB_CH_STAT_DEGRADED i, Rf.HUB_CH_STAT_SR i, Rf.HUB_CH_STAT_RTFAIL i, Rf.HUB_CH_STAT_TEMP i]⟩,
  ⟨"HUB_CH_CAL", 0x710010, 50, 0x1000, 1, 0x8, fun i _ => [Rf.HUB_CH_CAL_COUNT i, Rf.HUB_CH_CAL_FAILS i]⟩,
  ⟨"HUB_CH_CALT", 0x710018, 50, 0x1000, 1, 0x8, fun i _ => [Rf.HUB_CH_CALT_TIME_NS i, Rf.HUB_CH_CALT_WRAP i]⟩,
  ⟨"HUB_CH_TAP", 0x710020, 50, 0x1000, 1, 0x8, fun i _ => [Rf.HUB_CH_TAP_RDLY_MIN i, Rf.HUB_CH_TAP_RDLY_MAX i, Rf.HUB_CH_TAP_VREF_MIN i, Rf.HUB_CH_TAP_VREF_MAX i, Rf.HUB_CH_TAP_WIN_MIN i]⟩,
  ⟨"HUB_CH_ERR", 0x710028, 50, 0x1000, 1, 0x8, fun i _ => [Rf.HUB_CH_ERR_CORR i, Rf.HUB_CH_ERR_UNCORR i, Rf.HUB_CH_ERR_WIN_LAST i]⟩,
  ⟨"HUB_CH_LOAD", 0x710030, 50, 0x1000, 1, 0x8, fun i _ => [Rf.HUB_CH_LOAD_RD_MB i, Rf.HUB_CH_LOAD_WR_MB i]⟩,
  ⟨"CHN_CFG", 0x900000, 256, 0x40, 1, 0x8, fun i _ => [Rf.CHN_CFG_EN i, Rf.CHN_CFG_CLASS i, Rf.CHN_CFG_NOTICE i, Rf.CHN_CFG_CONS i, Rf.CHN_CFG_VECTOR i, Rf.CHN_CFG_SHARE i]⟩,
  ⟨"CHN_STAT", 0x900030, 256, 0x40, 1, 0x8, fun i _ => [Rf.CHN_STAT_OVERLONG i, Rf.CHN_STAT_REFUSED i, Rf.CHN_STAT_RERUN i, Rf.CHN_STAT_PEND i]⟩,
  ⟨"CHN_BASE", 0x900008, 256, 0x40, 1, 0x8, fun i _ => [Rf.CHN_BASE_BASE i]⟩,
  ⟨"CHN_PROD0", 0x900010, 256, 0x40, 1, 0x8, fun i _ => [Rf.CHN_PROD0_PROD i]⟩,
  ⟨"CHN_PROD1", 0x900018, 256, 0x40, 1, 0x8, fun i _ => [Rf.CHN_PROD1_PROD i]⟩,
  ⟨"CHN_CNT", 0x900020, 256, 0x40, 1, 0x8, fun i _ => [Rf.CHN_CNT_WORDS i, Rf.CHN_CNT_PACKETS i]⟩,
  ⟨"CHN_HEAD", 0x900028, 256, 0x40, 1, 0x8, fun i _ => [Rf.CHN_HEAD_WORD i]⟩,
  ⟨"DMA_CFG", 0xA00000, 4, 0x1000, 16, 0x100, fun i j => [Rf.DMA_CFG_REQSRC i j, Rf.DMA_CFG_REQ_EN i j, Rf.DMA_CFG_FEED i j, Rf.DMA_CFG_REQ_DIN i j, Rf.DMA_CFG_VECTOR i j, Rf.DMA_CFG_BURST_LOG i j, Rf.DMA_CFG_FEED_CHAIN i j]⟩,
  ⟨"DMA_CTRL", 0xA00018, 4, 0x1000, 16, 0x100, fun i j => [Rf.DMA_CTRL_START i j, Rf.DMA_CTRL_STOP i j]⟩,
  ⟨"DMA_STAT", 0xA00038, 4, 0x1000, 16, 0x100, fun i j => [Rf.DMA_STAT_STATE i j, Rf.DMA_STAT_ERR i j, Rf.DMA_STAT_HALF i j, Rf.DMA_STAT_FULL i j, Rf.DMA_STAT_APPQ i j, Rf.DMA_STAT_FEEDBAD i j, Rf.DMA_STAT_DONE i j]⟩,
  ⟨"DMA_HEAD", 0xA00008, 4, 0x1000, 16, 0x100, fun i j => [Rf.DMA_HEAD_ADDR i j]⟩,
  ⟨"DMA_TAIL", 0xA00010, 4, 0x1000, 16, 0x100, fun i j => [Rf.DMA_TAIL_ADDR i j]⟩,
  ⟨"DMA_APPEND", 0xA00020, 4, 0x1000, 16, 0x100, fun i j => [Rf.DMA_APPEND_ADDR i j]⟩,
  ⟨"DMA_LAST", 0xA00028, 4, 0x1000, 16, 0x100, fun i j => [Rf.DMA_LAST_ADDR i j]⟩,
  ⟨"DMA_CUR", 0xA00030, 4, 0x1000, 16, 0x100, fun i j => [Rf.DMA_CUR_ADDR i j]⟩,
  ⟨"DMA_XFER", 0xA00040, 4, 0x1000, 16, 0x100, fun i j => [Rf.DMA_XFER_BYTES i j]⟩,
  ⟨"DMA_UNIT", 0xA08000, 4, 0x8, 1, 0x8, fun i _ => [Rf.DMA_UNIT_OWNER i, Rf.DMA_UNIT_BUSY i]⟩,
  ⟨"TIM_CFG", 0xC00000, 1, 0x8, 1, 0x8, fun _ _ => [Rf.TIM_CFG_REF10]⟩,
  ⟨"TIM_STAT", 0xC00008, 1, 0x8, 1, 0x8, fun _ _ => [Rf.TIM_STAT_LOCKED, Rf.TIM_STAT_HOLDOVER, Rf.TIM_STAT_PPS_OK]⟩,
  ⟨"TIM_PPS", 0xC00040, 1, 0x8, 1, 0x8, fun _ _ => [Rf.TIM_PPS_OUT_EN, Rf.TIM_PPS_OUT_W, Rf.TIM_PPS_OUT_PH]⟩,
  ⟨"TIM_NOW", 0xC00010, 1, 0x8, 1, 0x8, fun _ _ => [Rf.TIM_NOW_T]⟩]

def regBlocks5 : List RegBlock := [
  ⟨"TIM_COUNT", 0xC00018, 1, 0x8, 1, 0x8, fun _ _ => [Rf.TIM_COUNT_COUNT]⟩,
  ⟨"TIM_OFS_INT", 0xC00020, 1, 0x8, 1, 0x8, fun _ _ => [Rf.TIM_OFS_INT_OFFSET]⟩,
  ⟨"TIM_OFS_FRAC", 0xC00028, 1, 0x8, 1, 0x8, fun _ _ => [Rf.TIM_OFS_FRAC_OFFSET]⟩,
  ⟨"TIM_RATE", 0xC00030, 1, 0x8, 1, 0x8, fun _ _ => [Rf.TIM_RATE_RATE]⟩,
  ⟨"TIM_STEP", 0xC00038, 1, 0x8, 1, 0x8, fun _ _ => [Rf.TIM_STEP_STEP]⟩,
  ⟨"TIM_SNAP", 0xC00048, 1, 0x8, 1, 0x8, fun _ _ => [Rf.TIM_SNAP_ANY]⟩,
  ⟨"TIM_SNAPC", 0xC00050, 1, 0x8, 1, 0x8, fun _ _ => [Rf.TIM_SNAPC_COUNT]⟩,
  ⟨"TIM_SNAPT", 0xC00058, 1, 0x8, 1, 0x8, fun _ _ => [Rf.TIM_SNAPT_T]⟩,
  ⟨"TIM_PPSIN", 0xC00060, 1, 0x8, 1, 0x8, fun _ _ => [Rf.TIM_PPSIN_T]⟩,
  ⟨"TIM_CNT", 0xC00068, 1, 0x8, 1, 0x8, fun _ _ => [Rf.TIM_CNT_SKIPPED, Rf.TIM_CNT_STEPS]⟩,
  ⟨"TIM_LSLOT", 0xC00100, 8, 0x10, 1, 0x8, fun i _ => [Rf.TIM_LSLOT_START i]⟩,
  ⟨"TIM_LSLOTP", 0xC00108, 8, 0x10, 1, 0x8, fun i _ => [Rf.TIM_LSLOTP_PERIOD i, Rf.TIM_LSLOTP_QUOTA i]⟩,
  ⟨"MGT_STAT", 0xE00000, 1, 0x8, 1, 0x8, fun _ _ => [Rf.MGT_STAT_FW, Rf.MGT_STAT_BANK, Rf.MGT_STAT_TRIAL, Rf.MGT_STAT_TRIES, Rf.MGT_STAT_SVN, Rf.MGT_STAT_FUSED, Rf.MGT_STAT_KEYREV, Rf.MGT_STAT_WDOG_CNT]⟩,
  ⟨"MGT_MBX_CMD", 0xE00010, 1, 0x8, 1, 0x8, fun _ _ => [Rf.MGT_MBX_CMD_CODE, Rf.MGT_MBX_CMD_LEN, Rf.MGT_MBX_CMD_TAG]⟩,
  ⟨"MGT_MBX_STAT", 0xE00018, 1, 0x8, 1, 0x8, fun _ _ => [Rf.MGT_MBX_STAT_BUSY, Rf.MGT_MBX_STAT_RESULT, Rf.MGT_MBX_STAT_LEN, Rf.MGT_MBX_STAT_TAG]⟩,
  ⟨"MGT_THERM", 0xE00040, 1, 0x8, 1, 0x8, fun _ _ => [Rf.MGT_THERM_ONSET]⟩,
  ⟨"MGT_TSTAT", 0xE00048, 1, 0x8, 1, 0x8, fun _ _ => [Rf.MGT_TSTAT_DMAX, Rf.MGT_TSTAT_SENSOR, Rf.MGT_TSTAT_SKIP, Rf.MGT_TSTAT_THROTTLE, Rf.MGT_TSTAT_FAST, Rf.MGT_TSTAT_ONSETS]⟩,
  ⟨"MGT_SHUT", 0xE00050, 1, 0x8, 1, 0x8, fun _ _ => [Rf.MGT_SHUT_COUNT, Rf.MGT_SHUT_LAST_D, Rf.MGT_SHUT_LAST_WRAP]⟩,
  ⟨"MGT_WDOG", 0xE00060, 1, 0x8, 1, 0x8, fun _ _ => [Rf.MGT_WDOG_TIMEOUT_MS, Rf.MGT_WDOG_KICK]⟩,
  ⟨"MGT_LOG", 0xE00070, 1, 0x8, 1, 0x8, fun _ _ => [Rf.MGT_LOG_SEQ, Rf.MGT_LOG_COAL, Rf.MGT_LOG_QUEUE]⟩,
  ⟨"MGT_BBOX", 0xE00078, 1, 0x8, 1, 0x8, fun _ _ => [Rf.MGT_BBOX_HEAD, Rf.MGT_BBOX_WRAPPED, Rf.MGT_BBOX_ERASED]⟩,
  ⟨"MGT_MBX_CFG", 0xE00020, 1, 0x8, 1, 0x8, fun _ _ => [Rf.MGT_MBX_CFG_VECTOR]⟩,
  ⟨"MGT_MBX_BUF", 0xE10000, 8192, 0x8, 1, 0x8, fun i _ => [Rf.MGT_MBX_BUF_DATA i]⟩,
  ⟨"BRK_LOCK", 0xD00000, 1, 0x8, 1, 0x8, fun _ _ => [Rf.BRK_LOCK_LOCK]⟩,
  ⟨"BRK_CNT", 0xD00008, 1, 0x8, 1, 0x8, fun _ _ => [Rf.BRK_CNT_MGTW, Rf.BRK_CNT_MKSUP, Rf.BRK_CNT_MKEXT, Rf.BRK_CNT_SETDROP]⟩,
  ⟨"BRK_CNT2", 0xD00010, 1, 0x8, 1, 0x8, fun _ _ => [Rf.BRK_CNT2_DMAVIOL, Rf.BRK_CNT2_EMUHOLD, Rf.BRK_CNT2_RATEWAIT]⟩,
  ⟨"BRK_MK", 0xD00300, 16, 0x8, 1, 0x8, fun i _ => [Rf.BRK_MK_MINW_US i, Rf.BRK_MK_MINGAP_US i]⟩,
  ⟨"BRK_SET", 0xD00400, 48, 0x8, 1, 0x8, fun i _ => [Rf.BRK_SET_DEPTH i, Rf.BRK_SET_INTERVAL_US i]⟩,
  ⟨"BRK_WIN0", 0xD00600, 16, 0x10, 1, 0x8, fun i _ => [Rf.BRK_WIN0_BASE i]⟩,
  ⟨"BRK_WIN1", 0xD00608, 16, 0x10, 1, 0x8, fun i _ => [Rf.BRK_WIN1_PAGES i, Rf.BRK_WIN1_RD i, Rf.BRK_WIN1_WR i]⟩,
  ⟨"BRK_DST0", 0xD00800, 16, 0x20, 1, 0x8, fun i _ => [Rf.BRK_DST0_ADDR_HI i]⟩,
  ⟨"BRK_DST1", 0xD00808, 16, 0x20, 1, 0x8, fun i _ => [Rf.BRK_DST1_ADDR_LO i]⟩,
  ⟨"BRK_DST2", 0xD00810, 16, 0x20, 1, 0x8, fun i _ => [Rf.BRK_DST2_PORT i, Rf.BRK_DST2_EN i, Rf.BRK_DST2_V6 i]⟩,
  ⟨"BRK_TRG", 0xD00100, 56, 0x8, 1, 0x8, fun i _ => [Rf.BRK_TRG_MIN_NS i]⟩,
  ⟨"BRK_EMU", 0xD00380, 4, 0x8, 1, 0x8, fun i _ => [Rf.BRK_EMU_MINEDGE_NS i]⟩,
  ⟨"BRK_RATE", 0xD00A00, 2, 0x8, 1, 0x8, fun i _ => [Rf.BRK_RATE_RATE i, Rf.BRK_RATE_BURST_KIB i]⟩,
  ⟨"GLB_STATUS", 0x8, 1, 0x8, 1, 0x8, fun _ _ => [Rf.GLB_STATUS_MODE, Rf.GLB_STATUS_TRANS, Rf.GLB_STATUS_TARGET, Rf.GLB_STATUS_DRAIN, Rf.GLB_STATUS_READY, Rf.GLB_STATUS_FW, Rf.GLB_STATUS_BOARD, Rf.GLB_STATUS_SAFE_PIN, Rf.GLB_STATUS_LINK, Rf.GLB_STATUS_PHASES, Rf.GLB_STATUS_REFUSE]⟩,
  ⟨"GLB_MODE", 0x10, 1, 0x8, 1, 0x8, fun _ _ => [Rf.GLB_MODE_REQ, Rf.GLB_MODE_ABORT, Rf.GLB_MODE_NOSIEVE]⟩,
  ⟨"GLB_CTRL", 0x18, 1, 0x8, 1, 0x8, fun _ _ => [Rf.GLB_CTRL_DPRST, Rf.GLB_CTRL_SAFE]⟩,
  ⟨"GLB_RSTCAUSE", 0x20, 1, 0x8, 1, 0x8, fun _ _ => [Rf.GLB_RSTCAUSE_CAUSE, Rf.GLB_RSTCAUSE_MODRST, Rf.GLB_RSTCAUSE_HOSTRST, Rf.GLB_RSTCAUSE_DPRST]⟩]

def regBlocks6 : List RegBlock := [
  ⟨"GLB_PWR", 0x28, 1, 0x8, 1, 0x8, fun _ _ => [Rf.GLB_PWR_VIN, Rf.GLB_PWR_IIN, Rf.GLB_PWR_PIN, Rf.GLB_PWR_OVP, Rf.GLB_PWR_OVCNT]⟩,
  ⟨"GLB_STRAP", 0x30, 1, 0x8, 1, 0x8, fun _ _ => [Rf.GLB_STRAP_SMBADDR, Rf.GLB_STRAP_BOOT_SEL, Rf.GLB_STRAP_POWERON]⟩,
  ⟨"TST_UNLOCK", 0xF00000, 1, 0x8, 1, 0x8, fun _ _ => [Rf.TST_UNLOCK_KEY]⟩,
  ⟨"TST_STAT", 0xF00008, 1, 0x8, 1, 0x8, fun _ _ => [Rf.TST_STAT_ACTIVE, Rf.TST_STAT_UNLOCKED, Rf.TST_STAT_USES]⟩,
  ⟨"TST_CRED", 0xF00040, 4, 0x8, 1, 0x8, fun i _ => [Rf.TST_CRED_CHAIN i, Rf.TST_CRED_EN i, Rf.TST_CRED_LIMIT i]⟩,
  ⟨"TST_HUBLAT", 0xF00060, 1, 0x8, 1, 0x8, fun _ _ => [Rf.TST_HUBLAT_DELAY, Rf.TST_HUBLAT_RAND, Rf.TST_HUBLAT_EN, Rf.TST_HUBLAT_CLASSES]⟩,
  ⟨"TST_BP", 0xF00068, 1, 0x8, 1, 0x8, fun _ _ => [Rf.TST_BP_HOST, Rf.TST_BP_SP0, Rf.TST_BP_SP1, Rf.TST_BP_ON_US, Rf.TST_BP_OFF_US]⟩,
  ⟨"TST_LANE", 0xF00080, 4, 0x8, 1, 0x8, fun i _ => [Rf.TST_LANE_LANE i, Rf.TST_LANE_OP i, Rf.TST_LANE_BIT i, Rf.TST_LANE_EN i, Rf.TST_LANE_ONESHOT i, Rf.TST_LANE_RATE_LOG i]⟩,
  ⟨"TST_ECC", 0xF000A0, 1, 0x8, 1, 0x8, fun _ _ => [Rf.TST_ECC_MEM, Rf.TST_ECC_NSYM, Rf.TST_ECC_SYM, Rf.TST_ECC_COUNT, Rf.TST_ECC_GO, Rf.TST_ECC_DONE, Rf.TST_ECC_ENGINE, Rf.TST_ECC_PAT]⟩,
  ⟨"TST_ENC", 0xF000C0, 1, 0x8, 1, 0x8, fun _ _ => [Rf.TST_ENC_CH, Rf.TST_ENC_SIG, Rf.TST_ENC_BOTH, Rf.TST_ENC_W, Rf.TST_ENC_GO]⟩,
  ⟨"TST_LINE", 0xF000C8, 1, 0x8, 1, 0x8, fun _ _ => [Rf.TST_LINE_PORT, Rf.TST_LINE_EN, Rf.TST_LINE_OP, Rf.TST_LINE_N, Rf.TST_LINE_EVERY]⟩,
  ⟨"TST_ECC_ADDR", 0xF000A8, 1, 0x8, 1, 0x8, fun _ _ => [Rf.TST_ECC_ADDR_ADDR]⟩,
  ⟨"TST_TICK", 0xF000D0, 1, 0x8, 1, 0x8, fun _ _ => [Rf.TST_TICK_JMAX_NS, Rf.TST_TICK_EN]⟩,
  ⟨"TST_THERM", 0xF000D8, 1, 0x8, 1, 0x8, fun _ _ => [Rf.TST_THERM_OFFSET, Rf.TST_THERM_EN]⟩,
  ⟨"TST_SEED", 0xF000E0, 1, 0x8, 1, 0x8, fun _ _ => [Rf.TST_SEED_SEED]⟩]

/-- Every register the chapters define, in the chapters' order. -/
def regBlocks : List RegBlock :=
  regBlocks0 ++ regBlocks1 ++ regBlocks2 ++ regBlocks3 ++ regBlocks4 ++ regBlocks5 ++ regBlocks6

/-- The indices of a register of block `b` at offset `off`, if it has one there. -/
def RegBlock.find (b : RegBlock) (off : Nat) : Option (Nat × Nat) :=
  if b.base ≤ off then
    let r := off - b.base
    let i := r / b.s1
    let q := r % b.s1
    let j := q / b.s2
    if i < b.n1 ∧ j < b.n2 ∧ q % b.s2 = 0 then some (i, j) else none
  else none

/-- The fields of the register at a BAR0 offset, in the blocks given; none where no register is defined. -/
def regAtIn (off : Nat) : List RegBlock → Option (List Fld)
  | [] => none
  | b :: bs =>
    match b.find off with
    | some (i, j) => some (b.flds i j)
    | none => regAtIn off bs

/-- The fields of the register at a BAR0 offset. -/
def regAt (off : Nat) : Option (List Fld) := regAtIn off regBlocks

/-- The field a store key names. -/
def fldOfKey (k : Nat) : Option Fld :=
  match regAt (k / 64) with
  | some fs => fs.find? (fun f => f.key == k)
  | none => none

/-- The BAR0 offsets of the instruction memories: engine, bank and word index (2.6). -/
def imemAt (off : Nat) : Option (Nat × Bool × Nat) :=
  if 0x2000000 ≤ off ∧ off < 0x2000000 + 119 * 0x40000 ∧ off % 8 = 0 then
    let r := off - 0x2000000
    some (r / 0x40000, decide (0x20000 ≤ r % 0x40000), r % 0x20000 / 8)
  else none

end Sys2Proof.Machine
end

