-- ==== Sys2Proof/Machine/State.lean ====
section
/-! DEFINITION. The state of the module as plain data, the reasons a command can stop, and the state after power-on.
Every array of units is a list of (number, unit) pairs in one canonical form (numbers strictly rising, no entry equal
to what an unlisted number stands for); `Machine/Ops.lean` gives the one read and the one write of such a list. -/

namespace Sys2Proof.Machine

/-- A fault: a command stops the model. No command of this block faults: what the spec calls a fault of the module
(an engine fault, a DMA error, a refused access) is an effect the module goes on from. The one constructor is kept for
an address the spec says does not exist, raised by no meaning at present; safe. -/
inductive Fault where
  /-- An address outside every memory of the module. Raised by no meaning; safe. -/
  | noSuchAddress (a : Nat)
  deriving DecidableEq, Repr

/-- A refusal: the command has no meaning in the model. -/
inductive Refusal where
  /-- The command's meaning is not written yet; raised only by an arm of `exec`; safe. -/
  | notModelled (mnemonic : String)
  /-- An instruction word with a field outside the range its instruction states, which R41 and R82 call undefined and
  give no effect; raised by the meanings of the engine instructions whose `Instr.wf` fails; safe. -/
  | undefinedWord (mnemonic : String)
  deriving DecidableEq, Repr

/-! ### Engines (chapters 2 and 3) -/

/-- A stream descriptor: its two words (Table 3.2). -/
structure Desc where
  w0 : Word
  w1 : Word
  deriving DecidableEq, Repr

/-- One tile's copy of an accumulator (Table 3.1). -/
structure Acc where
  sum  : Int
  ssq  : Nat
  cnt  : Nat
  nsat : Nat
  mn   : Nat
  mx   : Nat
  crc  : BitVec 32
  deriving DecidableEq, Repr

/-- The aclr values of Table 3.1, which R53 gives both copies at a mode entry. -/
def Acc.clear : Acc := ⟨0, 0, 0, 0, 0xFFFF, 0, 0xFFFFFFFF⟩

/-- One level of the loop stack (R37, R43): the first instruction of the body, its length, the number of times it
runs and the index of the running iteration. -/
structure LoopFrame where
  start : Nat
  len   : Nat
  count : Nat
  idx   : Nat
  deriving DecidableEq, Repr

/-- An entry of the tile issue queue (R70): its place in program order, the instruction word, whether its guard read 1,
the descriptors and the scalars as they stood at issue, whether its effect has been applied (it is held back only
by a copy interlock, R75), and the count it was issued at. -/
structure QEntry where
  seq     : Nat
  i       : Instr
  on      : Bool
  descs   : List (Nat × Desc)
  sregs   : List (Nat × Word)
  applied : Bool
  at'     : Nat := 0
  deriving DecidableEq, Repr

/-- The kind of a copy in progress (R48, R108). -/
inductive CopyKind where
  | hld
  | hst
  | cgat
  deriving DecidableEq, Repr

/-- A copy in progress: its place in program order, the queue entries that must complete before it starts (R74), its
kind, its source and destination descriptors as they stood at issue, its rows and bytes per row, and for a cgat what
its record holds. -/
structure Copy where
  seq   : Nat
  after : List Nat
  kind  : CopyKind
  src   : Desc
  dst   : Desc
  rows  : Nat
  bytes : Nat
  ring  : Nat
  line0 : Nat
  x0    : Nat
  w     : Nat
  deriving DecidableEq, Repr

/-- What the load sequencer knows of one line group (R49): its load entry, its number, its band, and whether it is in
scratch. -/
structure LoadRec where
  entry   : Nat
  grp     : Nat
  band    : Nat
  arrived : Bool
  deriving DecidableEq, Repr

/-- What is left of a snapshot of a consumed chain, and the credit of a produced one, for one band (R45, R46). -/
structure ChainView where
  snap   : Nat
  credit : Nat
  pushed : Nat
  deriving DecidableEq, Repr

/-- A tick token (1.4): the band, the time and encoder count of its first line, the gear and the settings-set
references. -/
structure TickToken where
  band   : Nat
  time   : Word
  enc    : Word
  gear   : Nat
  setref : Word
  deriving DecidableEq, Repr

/-- What a bank of instruction memory was admitted as (R54, R57, R59): the result of its last walk, the bound that
walk found, and the bound of its LOOK packet (R262). -/
structure BankAdm where
  result : Nat
  bound  : Nat
  look   : Nat
  deriving DecidableEq, Repr

/-- A walk in progress (R56, R57): what it will find, since the image cannot change under it and the configuration it
reads is that of its start; its refusal index, its bound and its LOOK bound. -/
structure Walk where
  result : Nat
  index  : Nat
  bound  : Nat
  look   : Nat
  deriving DecidableEq, Repr

/-- A physical engine: the state of Table 2.2, its instruction memory, its tiles' stores and issue queue, its copies
and loads, and the figures of the running band: `run` the cycles charged and `lag` those of them that the tiles owe and the
core has not waited for (R51), `wtickAt` the count at which a waiting wtick was issued, `tileAt` the count at which an
instruction last left the tiles, `freeAt` that at which one that had waited for a copy last reached them, `errs` the symbols in error of the codewords of its
memories (R62, R439), and `fab` the flips that await the next transfer of its hub port (R439). -/
structure Engine where
  sregs   : List (Nat × Word) := []
  preds   : List (Nat × Bool) := []
  descs   : List (Nat × Desc) := []
  acc0    : List (Nat × Acc) := []
  acc1    : List (Nat × Acc) := []
  tabs    : List (Nat × Nat) := []
  hist0   : List (Nat × Nat) := []
  hist1   : List (Nat × Nat) := []
  loops   : List LoopFrame := []
  pc      : Nat := 0
  scratch : List (Nat × Byte) := []
  bank0   : List (Nat × Word) := []
  bank1   : List (Nat × Word) := []
  adm0    : BankAdm := ⟨0, 0, 0⟩
  adm1    : BankAdm := ⟨0, 0, 0⟩
  walk    : Option Walk := none
  swapAt  : Option Nat := none
  loadAt  : Option Nat := none
  begun   : Nat := 0
  queue   : List QEntry := []
  copies  : List Copy := []
  nextSeq : Nat := 0
  loads   : List LoadRec := []
  ldws    : List (Nat × List (Nat × Nat)) := []
  hsts    : List (Nat × Nat) := []
  views   : List (Nat × ChainView) := []
  sent    : List (Nat × Nat) := []
  tok     : TickToken := ⟨0, 0, 0, 0, 0⟩
  stalled : Option Instr := none
  stallAt : Nat := 0
  wtickAt : Option Nat := none
  run     : Nat := 0
  lag     : Nat := 0
  ldSt    : Nat := 0
  chSt    : Nat := 0
  qfull   : Nat := 0
  ilock   : Nat := 0
  readyAt : Nat := 0
  tileAt  : Nat := 0
  freeAt  : Nat := 0
  injected : Bool := false
  errs    : List (Nat × List (Nat × Nat)) := []
  fab     : Option (List (Nat × Nat)) := none
  deriving DecidableEq, Repr

/-- A logical unit (R18): the tick tokens it has received and not started, the number of bands it has completed since
the cadence unit started, the counts of its last tokens by band and of its last completion, and while a re-run is on, its band,
whether the failed engine had started it, so that its snapshots stand, the engine whose shadow its spare is loaded from, the
engines that failed in the re-run, and the packets still to discard on each chain (R65); the next band whose token it is
owed, and the counts at which it issued its last bands' wticks (R122). -/
structure WorkUnit where
  toks    : List TickToken := []
  done    : Nat := 0
  tokAt   : List (Nat × Nat) := []
  doneAt  : Nat := 0
  rerun   : Option Nat := none
  kept    : Bool := false
  failed  : Option Nat := none
  lost    : List Nat := []
  discard : List (Nat × Nat) := []
  next    : Nat := 0
  ends    : List (Nat × Nat) := []
  deriving DecidableEq, Repr

/-! ### Chains (chapter 12) -/

/-- A committed word on a chain, which lies in the hub (R340): the endpoint that pushed it, its place in that endpoint's lane,
and whether it ends its packet. -/
structure ChItem where
  ep   : Nat
  slot : Nat
  last : Bool
  deriving DecidableEq, Repr

/-- The open packet of a producer (R342): the place of its first word in the lane, the words pushed, and whether it was rewound
as overlong (R343). -/
structure OpenPkt where
  start : Nat := 0
  n     : Nat := 0
  overlong : Bool := false
  deriving DecidableEq, Repr

/-- A chain: the committed words not given back, how many of them an engine has popped in its running band (R345),
the open packets by producer endpoint, the number of packets taken off it since it was emptied, and whether the next
rise of the packet count signals (R348). -/
structure Chain where
  items : List ChItem := []
  gone  : Nat := 0
  opens : List (Nat × OpenPkt) := []
  seq   : Nat := 0
  armed : Bool := true
  deriving DecidableEq, Repr

/-! ### Events (0.8, 10.5, 14.3) -/

/-- An event as it was raised: its code, the SEQ of its record, the time, the band open at that time, and its details
(Tables 10.7 and 14.5). -/
structure EvRec where
  code : Nat
  seq  : Nat
  time : Nat
  band : Nat
  a0   : Nat
  a1   : Nat
  a2   : Nat
  deriving DecidableEq, Repr

/-- An entry of the firmware's log queue (R389): an event, and how many of its code it stands for. -/
structure LogEntry where
  ev   : EvRec
  rep  : Nat
  coal : Bool
  deriving DecidableEq, Repr

/-! ### The hub (chapter 11) -/

/-- A retraining pass in progress (R330): its channel, the slice it runs next, whether every slice so far found a
passing window, the count at which it began to wait for its next slice, the settings of the channel before the pass,
the least window width it has seen, and whether its next slice is forced. -/
structure RtPass where
  ch     : Nat
  slice  : Nat
  good   : Bool
  since  : Nat
  before : List (Nat × Int)
  winMin : Nat
  forced : Bool := false
  deriving DecidableEq, Repr

/-- A request in a bank's queue (R318, R319): whether it is a write, the row and the column granule it is for, whether a
read of its row was accepted behind it, and its class (R324). -/
structure BankReq where
  wr   : Bool
  row  : Nat
  col  : Nat
  seen : Bool := false
  cls  : Nat := 1
  deriving DecidableEq, Repr

/-- A bank of a channel: the row it holds open, its requests that have not retired in the order of their acceptance, the
count from which it may serve the next one, the place in the turns of TC1 and TC2, and the requests served since one of TC3
(R325). -/
structure BankSt where
  row   : Option Nat := none
  queue : List BankReq := []
  free  : Nat := 0
  turn  : Nat := 0
  since3 : Nat := 0
  deriving DecidableEq, Repr

/-- The traffic of a channel (HUB_CH_LOAD): a millisecond of COUNT, the bytes read and written in it, and those of the
millisecond before. -/
structure ChLoad where
  ms     : Nat := 0
  rd     : Nat := 0
  wr     : Nat := 0
  lastRd : Nat := 0
  lastWr : Nat := 0
  deriving DecidableEq, Repr

/-- What the hub holds beside its data and its registers: whether it is powered and trained, the symbols in error of
each codeword (symbol and pattern), the codewords whose correction a test does not count, the codewords whose corrected
write-back is queued, the corrected codewords of the open window by channel, the tokens missing from each channel's TC0
bucket (beyond 64: the accesses that wait for one), the tap settings by channel and lane, the pass in progress, the slots queued for migration, a
retirement waiting for the cadence to stop, and the transfer rate a switch is waiting to take; the granule the patrol
reads next and the count at which the patrol began, the count of the last request of each channel, the requests held with
their tags and those that wait for a tag, the banks, the requests that their channel does not let in yet, by bank (R325, R330),
the count each bank's refreshes have come to, the channels that have crossed the threshold in their window, the count each
window began at, the count of the copier's last granule, the tokens each channel has gained, the traffic of each channel, whether a TC0 transaction
has completed since HUB_TC0 was read, the draw each channel's trained settings begin at (a setting is that draw's value and its moves since), the count and
the temperature of each channel's last pass, and whether the last read of the host was poisoned. -/
structure HubUnit where
  on       : Bool := false
  errs     : List (Nat × List (Nat × Nat)) := []
  quiet    : List Nat := []
  wback    : List Nat := []
  win      : List (Nat × Nat) := []
  spent    : List (Nat × Nat) := []
  taps     : List (Nat × Int) := []
  pass     : Option RtPass := none
  due      : List Nat := []
  migQ     : List Nat := []
  deferred : Option Nat := none
  newRate  : Option Nat := none
  scrubAt  : Nat := 0
  scrubT0  : Nat := 0
  lastReq  : List (Nat × Nat) := []
  held     : List Instr := []
  waiting  : List Instr := []
  banks    : List (Nat × BankSt) := []
  barred   : List (Nat × BankReq) := []
  refr     : List (Nat × Nat) := []
  crossed  : List Nat := []
  winAt    : List (Nat × Nat) := []
  copyAt   : Nat := 0
  gains    : List (Nat × Nat) := []
  load     : List (Nat × ChLoad) := []
  tc0Seen  : Bool := false
  base     : List (Nat × Nat) := []
  calAt    : List (Nat × Nat) := []
  calTemp  : List (Nat × Int) := []
  poison   : Bool := false
  deriving DecidableEq, Repr

/-! ### Lanes and ports (chapters 5 and 6) -/

/-- A block in a lane's elastic buffer: a data block, a good control block, the place of an alignment marker with its
AMSEQ, a block that carries nothing (an invalid header, a discarded control block), or the place of one that an overflow
discarded. -/
inductive Blk where
  | data (w : Word)
  | ctl (w : Word)
  | col (seq : Nat)
  | void
  | gone
  deriving DecidableEq, Repr

/-- A receive lane (R149, R150): the run of valid headers while it hunts and the bits its boundary has moved by since it
began (of 66), the last 64 headers in LOCK (1 for an invalid one, newest first), the count at which it began to hunt and
whether event 0x1003 was raised, the blocks since the last marker position, the AMSEQ and MASK of the last marker taken, the misses in a row, the count of that marker, the
elastic buffer, and the last 58 bits of scrambled payload, the newest in bit 0 (R140). -/
structure LaneSt where
  good   : Nat := 0
  bnd    : Nat := 0
  hist   : List Bool := []
  huntAt : Nat := 0
  told   : Bool := false
  idx    : Nat := 0
  seq    : Nat := 0
  mask   : Nat := 0
  miss   : Nat := 0
  amAt   : Nat := 0
  fifo   : List Blk := []
  scr    : BitVec 58 := 0
  deriving DecidableEq, Repr

/-- A line being received (R144): what its LS said, its data blocks, newest first, whether more came than any line
holds, and the count of the LS. -/
structure OpenLine where
  lseq  : Nat
  ssid  : Nat
  expo  : Nat
  plane : Nat
  words : List Word
  excess : Bool
  since : Nat
  deriving DecidableEq, Repr

/-- A trigger event of a port's generator (R146, R168): its LSEQ, its band and its row there (H or more for a surplus
line), the encoder count and the time latched at it, whether it was withheld (R162),
whether its row is resolved, and whether by a line. -/
structure TrigRec where
  lseq : Nat
  band : Nat
  row  : Nat
  enc  : Word
  time : Word
  held : Bool
  done : Bool := false
  placed : Bool := false
  deriving DecidableEq, Repr

/-- A resolved row (R170, Table 6.2): its global row index, its LSEQ, the SSIDs of its planes, the flag bits of its capture (bits
[57:48] of t0), the latched count and time, and the NPIX and LCRC of its line. -/
structure RowRec where
  i    : Nat
  lseq : Nat
  ssids : List Nat
  flg  : Nat
  enc  : Word
  time : Word
  npix : Nat
  lcrc : Nat
  deriving DecidableEq, Repr

/-- The lines of one LSEQ being collected (R145): its trigger, the members taken, whether one was bad, the SSIDs of its
planes, the length flags, NPIX and LCRC of its first member, and whether a member has been written to the raw ring. -/
structure CurRow where
  trig  : TrigRec
  got   : Nat
  bad   : Bool
  ssids : List Nat
  flg   : Nat
  npix  : Nat
  lcrc  : Nat
  wrote : Bool := false
  deriving DecidableEq, Repr

/-- A settings message (R160, R182): its band if one was named, its hub address, length and SSID, and once launched its
MSGID, the blocks not yet sent, the LSEQ of the trigger it follows, and the count its last fragment left at. -/
structure SetMsg where
  band  : Option Nat
  addr  : Nat
  len   : Nat
  ssid  : Nat
  msgid : Nat := 0
  after : Nat := 0
  left  : Option Nat := none
  deriving DecidableEq, Repr

/-- The counts of a port for one band (R178): short, long, synthesised, surplus, late and masked rows, the causes seen,
whether a cutover mismatch and a late fetch were reported, which of the events 0x2003, 0x2004 and 0x2005 were raised (a bit
each), the two SSIDs of the band, whether they have been formed, and the row from which S1 is expected (R185). -/
structure PortBand where
  short : Nat := 0
  long  : Nat := 0
  synth : Nat := 0
  surp  : Nat := 0
  late  : Nat := 0
  ssidx : Nat := 0
  cause : Nat := 0
  cut   : Bool := false
  fetch : Bool := false
  told  : Nat := 0
  s0    : Nat := 0
  s1    : Nat := 0
  formed : Bool := false
  cutRow : Option Nat := none
  lines : Nat := 0
  next  : Nat := 0
  deriving DecidableEq, Repr

/-- An expected cutover (R184, R185): its LSEQ, the new SSID and the MSGID of the message that brings it. -/
structure CutRec where
  lseq  : Nat
  ssid  : Nat
  msgid : Nat
  deriving DecidableEq, Repr

/-- A camera port: the mask it expects, the reassembly pointer and whether the open column is all FILL,
whether an overflow is being skipped to the next LS (R154), the open line,
the last upstream AMSEQ, the count at which bring-up last judged an AM column, the switch that is queued (mask, D, AMSEQ),
the place in the divided sequence; downstream, the control blocks queued, the last TRG sent and the instant it left at, in
hundredths of a count, the count at which the transmitters began and the number of their free values, the first slot not
yet passed, and the control blocks of late by slot and lane; the counts of the last ST and of the last camera traffic, the upstream
blocks of this millisecond, the last camera fault reported; then intake: the row being collected, the triggers and rows
still needed, the SSID of the last line placed, the bands' counts, the settings messages armed, the one in progress or
awaiting its SACK and those launched after it, the expected cutovers not met yet, the next group to write to scratch, the groups that missed their half, the rows
the program has written to the corrected ring (bytes by band and row), the lines committed (a bit each, by band), and the row up
to which a spare reads the raw ring (Table 2.14). -/
structure PortUnit where
  expect  : Nat := 0
  rr      : Nat := 0
  allFill : Bool := true
  discard : Bool := false
  line    : Option OpenLine := none
  amSeq   : Nat := 0
  triedAt : Option Nat := none
  switch  : Option (Nat × Nat × Nat) := none
  divPos  : Nat := 0
  dn      : List Word := []
  trg     : Option Word := none
  trgAt   : Nat := 0
  txAt    : Nat := 0
  txFree  : Nat := 0
  txNext  : Nat := 0
  sent    : List (Nat × Nat × Word) := []
  stAt    : Option Nat := none
  traffic : Nat := 0
  loadMs  : Nat := 0
  loadCnt : Nat := 0
  cur     : Option CurRow := none
  trigs   : List TrigRec := []
  rows    : List RowRec := []
  lastSs  : Option Nat := none
  bands   : List (Nat × PortBand) := []
  armed   : List (Nat × SetMsg) := []
  msg     : Option SetMsg := none
  later   : List SetMsg := []
  msgNo   : Nat := 0
  cuts    : List CutRec := []
  tokens  : Nat := 0
  grpBand : Nat := 0
  grpNext : Nat := 0
  missed  : List (Nat × Nat) := []
  grpSeen : Nat × Nat := (0, 0)
  commits : List (Nat × Nat) := []
  setAt   : Nat := 0
  setTok  : Nat := 0
  rawTo   : Nat := 0
  deriving DecidableEq, Repr

/-! ### The cadence unit (chapter 4) -/

/-- A band: the count, the device time and the encoder count of the tick that opens it, the count of the tick that
closes it and its window in ns, the time and encoder count of its first line and the count they were latched at, the
largest gear of its tokens, the gear of its Pack token, its lines on MASTER, the ports whose token carried two SSIDs (a bit each), and whether it is
held, lost, partial or fast, or the throttle's skip fraction was above the reserve in its window. -/
structure BandRec where
  band   : Nat
  opened : Nat
  openT  : Nat
  openE  : Word
  closed : Option Nat := none
  win    : Nat := 0
  first  : Option (Word × Word) := none
  firstAt : Nat := 0
  gear   : Nat := 0
  gP     : Option Nat := none
  lines  : Nat := 0
  setchg : Nat := 0
  held   : Bool := false
  lost   : Bool := false
  part   : Bool := false
  fast   : Bool := false
  hot    : Bool := false
  deriving DecidableEq, Repr

/-- The cadence unit: whether the first tick has opened window 0 and whether it ticks no more, the device time of T(-1)
under SRC = 1, the MASTER lines of the open window, the causes and the unclean signs since the last tick (R126, R128), a
hold request, the first held band, the first band after the hold, the gear of hold, the next band each section's token
is owed for, the Sieve due times by band, the late bands not complete by section, the next band due for Intake, the last
band of a drain, the ticks of the schedule that a trigger of their own cycle brought on before their command, the count at which a delayed tick issues and the events that wait for it (R442), and the bands still
known. -/
structure CadUnit where
  started : Bool := false
  stop    : Bool := false
  start   : Nat := 0
  lines   : Nat := 0
  causes  : Nat := 0
  unclean : Bool := false
  holdReq : Bool := false
  h       : Nat := 0
  k       : Option Nat := none
  heldG   : Nat := 0
  nI      : Nat := 0
  nF      : Nat := 0
  nS      : Nat := 0
  nP      : Nat := 0
  due     : List (Nat × Nat) := []
  late    : List (Nat × Nat) := []
  dI      : Nat := 0
  final   : Option Nat := none
  ahead   : Nat := 0
  jit     : Option Nat := none
  jitEvs  : List (Nat × Nat × Nat × Nat) := []
  bands   : List BandRec := []
  deriving DecidableEq, Repr

/-! ### Position, triggers and marking (chapter 7) -/

/-- A quadrature channel: its filtered levels, the count at which the raw level of Z last fell, the counts and edge dates
since the last reversal, newest first, whether the count moved up and down since the last index edge, and whether there has
been one. -/
structure EncCh where
  a    : Bool := false
  b    : Bool := false
  z    : Bool := false
  zFall : Nat := 0
  hist : List (Nat × Nat) := []
  up   : Bool := false
  down : Bool := false
  idx  : Bool := false
  deriving DecidableEq, Repr

/-- A serial port: the raw value last accepted, the polls in a row that were discarded or unanswered, the count until
which its frame or its timeout runs, the count at which its next poll falls due, and whether its last move was down. -/
structure SerCh where
  prev : Option Nat := none
  bad  : Nat := 0
  busy : Nat := 0
  next : Option Nat := none
  down : Bool := false
  deriving DecidableEq, Repr

/-- A digital input with a repeat mark: the count of the last mark, the date at which the count reached the next one,
the marks synthesised in a row, whether the lock was held before, and whether its forward direction is that of
decreasing counts. -/
structure DinCh where
  last   : Nat := 0
  down   : Bool := false
  reach  : Option Nat := none
  synth  : Nat := 0
  relock : Bool := false
  deriving DecidableEq, Repr

/-- A line-trigger generator: its high-water target, the count of the clock at the last event that left, the index of
the next instant of a TIME schedule, the qualifying edges since the last that was passed on, the pending delayed edges
with their raw dates, the end of its LVDS pulse, and its events that a trigger of their own cycle brought on before their
command (R109). -/
structure GenSt where
  high : Option Nat := none
  left : Option Nat := none
  k    : Nat := 0
  div  : Nat := 0
  pend : List Nat := []
  pulse : Option Nat := none
  ahead : Nat := 0
  deriving DecidableEq, Repr

/-- A compare entry (Table 7.4). -/
structure CmpEntry where
  e0 : Word
  e1 : Word
  e2 : Word
  e3 : Word
  deriving DecidableEq, Repr

/-- An entry a marking station has built: the Sieve band and the unit it belongs to. -/
structure MkEntry where
  band : Nat
  unit : Nat
  ent  : CmpEntry
  deriving DecidableEq, Repr

/-- The entries of a Sieve band that a marking station dropped as OVER, FULL and NOHEAD. -/
structure MkDrops where
  band : Nat
  ovr  : Nat := 0
  full : Nat := 0
  nohd : Nat := 0
  deriving DecidableEq, Repr

/-- A compare unit with its marking station: the list, the entry level of its head and the compared level before the
step of Q that is being served, then the entries collected, the first Sieve band whose batch is open, the entries
dropped by band, and the bands for which event 0x3009 has been raised. -/
structure CmpUnit where
  list  : List CmpEntry := []
  qe    : Int := 0
  qb    : Int := 0
  built : List MkEntry := []
  band  : Nat := 0
  drops : List MkDrops := []
  told  : List Nat := []
  deriving DecidableEq, Repr

/-- A marker output: by compare unit, the count at which its pulse ends and the compared level at which its span ends,
the output's level, the count of its last rise, whether that drive is suppressed, and whether its release is
deferred. -/
structure MkOut where
  pulse : List (Nat × Nat) := []
  span  : List (Nat × Int) := []
  on    : Bool := false
  rise  : Option Nat := none
  supp  : Bool := false
  ext   : Bool := false
  deriving DecidableEq, Repr

/-- An emulation output: its ORIGIN, for which the spec gives no register, its emitted count, the count of its last
edge, whether its backlog was above 4,096, where its A and B stand among the four quadrature states, and its Z. -/
structure EmuSt where
  org  : Nat := 0
  e    : Int := 0
  last : Option Nat := none
  above : Bool := false
  quad : Nat := 0
  z    : Bool := false
  deriving DecidableEq, Repr

/-- The mark chain's band-end items: the unit, its band, and how many packets had been committed before it. -/
structure BandEndItem where
  unit : Nat
  band : Nat
  at'  : Nat
  deriving DecidableEq, Repr

/-- The position and trigger unit. -/
structure PosUnit where
  enc  : List (Nat × EncCh) := []
  ser  : List (Nat × SerCh) := []
  din  : List (Nat × DinCh) := []
  gen  : List (Nat × GenSt) := []
  cmp  : List (Nat × CmpUnit) := []
  mks  : List (Nat × MkOut) := []
  emu  : List (Nat × EmuSt) := []
  ends : List BandEndItem := []
  deriving DecidableEq, Repr

/-! ### Fuse strips (chapter 8) -/

/-- A strip: the lines of each stitched band committed (a bit each), and for the band being stitched the rows at which
each camera was INVALID and those at which a SHORT cutoff applied; and by band, the line groups the tandem read has
issued (R26) and those that Pack still owes a split read for, a bit each (R27). -/
structure StripUnit where
  commits : List (Nat × Nat) := []
  inv     : List (Nat × Nat) := []
  cut     : List (Nat × Nat) := []
  tan     : List (Nat × Nat) := []
  owe     : List (Nat × Nat) := []
  deriving DecidableEq, Repr

/-! ### Tests (chapter 16) -/

/-- What the perturbations hold beside their registers: the blocks each lane alteration has seen and the lines the line
distortion has seen since it was written, the count at which the back-pressure pattern began, and the LFSR of the random
choices (16.2). -/
structure TestUnit where
  laneN  : List (Nat × Nat) := []
  lineN  : Nat := 0
  bpAt   : Nat := 0
  lfsr   : BitVec 32 := 1
  deriving DecidableEq, Repr

/-! ### Sieve: the phase unit and the seam unit (chapter 9) -/

/-- A repeat mark as the phase unit took it: its count, SYNTH and RELOCK. -/
structure Mark where
  count  : Nat
  synth  : Bool
  relock : Bool
  deriving DecidableEq, Repr

/-- The phase unit: the marks taken since the cadence started, newest first, the phase of each stitched row of late
(by global row), and the band for which null rows were last reported. -/
structure PhaseUnit where
  marks : List Mark := []
  ph    : List (Nat × Nat) := []
  told  : Option Nat := none
  deriving DecidableEq, Repr

/-- The seam unit: the next band to close; the LOOKs and the ENDs delivered and the labels written (unit or label, and
band); the open roots, the seam labels in use and those of them that became pointers; the tiles that folded; and the last
closes with the ID of the first record of each, newest first. -/
structure SeamUnit where
  next  : Nat := 0
  looks : List (Nat × Nat) := []
  ends  : List (Nat × Nat) := []
  labels : List (Nat × Nat) := []
  opens : List Nat := []
  used  : List Nat := []
  ptrs  : List Nat := []
  folds : List (Nat × Nat) := []
  firstId : List (Nat × Nat) := []
  deriving DecidableEq, Repr

/-! ### Pack and the outputs (chapter 10) -/

/-- An item: its type, its words with its payload's, its strip and band where it has them, and which of its words lay in a
codeword beyond correction when the hub was read (R316). -/
structure OutItem where
  typ   : Nat
  words : List Word
  strip : Option Nat := none
  band  : Option Nat := none
  bad   : List Nat := []
  deriving DecidableEq, Repr

/-- An item whose words lie in the hub, in the record queue or in crop staging: its type, strip and band, the byte it begins
at in that area, and its words. -/
structure Staged where
  typ   : Nat
  strip : Option Nat := none
  band  : Option Nat := none
  at'   : Nat
  n     : Nat
  deriving DecidableEq, Repr

/-- The item a source is placing, and the rings and streams it is still to be placed on. -/
structure Hand where
  item    : OutItem
  rings   : List Nat
  streams : List Nat
  deriving DecidableEq, Repr

/-- A host ring: the units not yet signalled, the count of the first of them, and the count since which an item has
not fitted. -/
structure RingSt where
  unsig  : Nat := 0
  first  : Option Nat := none
  fullAt : Option Nat := none
  deriving DecidableEq, Repr

/-- A datagram in retention, whose words lie in the hub: its SEQ, the byte it begins at in the retention ring, the words of its
payload, the device time of its first launch, and the count at which it was last sent. -/
structure Dgram where
  seq  : Nat
  at'  : Nat
  n    : Nat
  time : Option Word := none
  sent : Option Nat := none
  deriving DecidableEq, Repr

/-- What a stream port is to send: a new datagram, a retransmission, a probe, or the GONE answer for a SEQ. -/
inductive TxKind where
  | new
  | retx
  | probe
  | gone
  deriving DecidableEq, Repr

structure Tx where
  stream : Nat
  seq    : Nat
  kind   : TxKind
  deriving DecidableEq, Repr

/-- A stream: the items of the datagram being built and the count of its first, the datagrams retained, oldest first,
the byte of the ring the next one begins at, the times of first launch of those released unacknowledged, the SEQs of those
that wait for a slot, the index of its next slot, and the count at which its CUM last advanced or its last probe was made. -/
structure StreamSt where
  build  : List OutItem := []
  first  : Nat := 0
  ret    : List Dgram := []
  retTo  : Nat := 0
  gone   : List (Nat × Word) := []
  slotQ  : List Nat := []
  slot   : Nat := 0
  cumAt  : Nat := 0
  deriving DecidableEq, Repr

/-- The frame on a stream port's wire, as its headers say (R298, R299): the MAC addresses, the tag where there is one,
the IP version, whether DF is set (IPv4 has it set, and no datagram is ever fragmented), DSCP, addresses and ports, the UDP checksum, and the words of the UDP payload. -/
structure StrFrame where
  dmac  : Nat
  smac  : Nat
  tag   : Option Nat
  v6    : Bool
  df    : Bool
  dscp  : Nat
  src   : Nat
  dst   : Nat
  sport : Nat
  dport : Nat
  sum   : Nat
  words : List Word
  deriving DecidableEq, Repr

/-- A stream port: what it is sending and the frame on its wire, what it is to send next, in order, what is spent of its
rate bucket in hundredths of a byte as of a count, and whether the head of its queue is held by its rate cap; and the
answer to a neighbour request it sent last, and the request it has still to answer. -/
structure StrPort where
  wire   : Option Tx := none
  frame  : Option StrFrame := none
  q      : List Tx := []
  spent  : Nat := 0
  at'    : Nat := 0
  capped : Bool := false
  answer : Option (Bool × Nat × Nat) := none
  asked  : Option (Bool × Nat) := none
  deriving DecidableEq, Repr

/-- The record queue and the crop staging area, each with the byte its next item begins at, the band headers waiting, the item each source is placing, the rings, the
streams and the stream ports; the number of band headers built, the crop descriptors accepted since the last tick, and
the split reads of Pack (R27). -/
structure OutUnit where
  recq  : List Staged := []
  recTo : Nat := 0
  crops : List Staged := []
  cropTo : Nat := 0
  hdrs  : List OutItem := []
  hands : List (Nat × Hand) := []
  rings : List (Nat × RingSt) := []
  streams : List (Nat × StreamSt) := []
  ports : List (Nat × StrPort) := []
  nextHdr : Nat := 0
  cropN : Nat := 0
  splits : Nat := 0
  deriving DecidableEq, Repr

/-- The conditions of the defect record bound a band has failed (R304), and the Sieve bands in which an engine has
faulted. -/
structure BoundUnit where
  failed : List (Nat × Nat) := []
  faults : List Nat := []
  deriving DecidableEq, Repr

/-! ### DMA (chapter 12) -/

/-- A DMA channel: the words of the descriptor in progress, whether half was signalled, whether it has written all that
its chain source lets it write, the words moved of the packet it is taking from that chain, its header among them, the address
of the next descriptor, the appended descriptors not fetched yet, and the
appends made at one count. -/
structure DmaCh where
  d     : Option (Word × Word × Word × Word) := none
  half  : Bool := false
  full  : Bool := false
  off   : Nat := 0
  next  : Word := 0
  appq  : List Word := []
  appAt : Nat := 0
  appN  : Nat := 0
  deriving DecidableEq, Repr

/-! ### Time, management, thermal control and modes (chapters 13 to 15) -/

/-- The PPS input's last accepted edge and whether its absence was reported, the instant the PPS output last rose at and
the count at which its pulse ends, the count at which the reference was lost, what the PTP port last knew with the time of
its last event message, and the count of the last write that steered device time, with the device time before it (R372). -/
structure TimeUnit where
  pps     : Option Nat := none
  missed  : Bool := false
  out     : Option Nat := none
  outEnd  : Option Nat := none
  lostAt  : Nat := 0
  stamp   : Nat := 0
  state   : Nat := 0
  master  : Nat := 0
  offset  : Nat := 0
  delay   : Nat := 0
  wrote   : Option (Nat × Nat) := none
  deriving DecidableEq, Repr

/-- A sensor as last sampled: its value, the time, ALARM, and whether it was sampled since its supply came up. -/
structure Sensor where
  value : Nat
  time  : Nat
  alarm : Bool
  valid : Bool := true
  deriving DecidableEq, Repr

/-- A mailbox command with its argument (Table 14.6). -/
inductive MbxCmd where
  | info
  | logRead (seq : BitVec 32) (count : Nat)
  | bboxRead (slot offset : Nat)
  | updBegin (len : Nat)
  | updData (offset : Nat) (data : List (BitVec 8))
  | updVerify
  | updActivate
  | updConfirm
  | mgtRestart
  | boardWrite (table : List (BitVec 8))
  | ptpSet (cfg : PtpCfg)
  | ptpStatus
  | netSet (cfg : NetCfg)
  | unknown
  deriving DecidableEq, Repr

/-- The configuration of the PTP port as delivered: priority1 is 255 (Table 13.2); the rest, for which the spec gives no
value, is that of the default profile (PRESUMED, log 203). -/
def ptpReset : PtpCfg := ⟨0, 0, false, 0, 0, 255, 128⟩

/-- What the management subsystem keeps beside its registers: the flash; the confirmed bank, the trial bank, the bank
whose image was verified and the length of each bank's image; the board table copy in use and the one for the next
start; the configurations of the PTP port and of the network; the log entries written so far; the sensors; the
telemetry page and its period in ms; the SMBus readout address, the bytes of its last read and their PEC; the symbols in
error of its SRAM's codewords; a mailbox command that waits for the processor's start with its TAG, and the result of one under way
(RESULT, bytes, TAG); the counts of the last KICK and of the last power-fail save with its slot; and the
order the save slots were used in. -/
structure MgtUnit where
  sram     : List (Nat × List (Nat × Nat)) := []
  cmd      : Option (BitVec 16 × MbxCmd) := none
  flash    : List Host.Cell := []
  good     : Bool := false
  trial    : Bool := false
  checked  : Bool := false
  len0     : Nat := 0
  len1     : Nat := 0
  copyB    : Bool := false
  nextB    : Bool := false
  ptp      : PtpCfg := ptpReset
  net      : Option NetCfg := none
  logN     : Nat := 0
  sensors  : List (Nat × Sensor) := []
  page     : List Host.Cell := []
  period   : Nat := 100
  smbAddr  : Nat := 0
  smbData  : List (BitVec 8) := []
  smbPec   : BitVec 8 := 0
  result   : Option (Nat × List (BitVec 8) × Nat) := none
  discard  : Bool := false
  kickAt   : Nat := 0
  saved    : Option Nat := none
  lost     : Bool := false
  slots    : List Nat := []
  deriving DecidableEq, Repr

/-- What a transition in progress is: to SERVICE, into an acquisition mode, the drain out of one, or one to STANDBY that waits for a
training of the hub. -/
inductive Trans where
  | none
  | service
  | entry
  | drain
  | rest
  deriving DecidableEq, Repr

/-- What the mode machine and the power stage hold beside their registers: the transition, whether STREAM was entered
with NOSIEVE, whether RESET_N holds the die, whether the main rails and the input supply are up, whether a thermal
shutdown waits for its restart and the count since which sensor 0 has read below 85 °C, whether the phases hold the
rails off, the second slot left unserved by training, the skip of the phases, and the reset whose cause is yet to be
reported. -/
structure ModeUnit where
  trans   : Trans := .none
  nosieve : Bool := false
  held    : Bool := false
  mains   : Bool := true
  vin     : Bool := true
  hot     : Bool := false
  coolAt  : Option Nat := none
  dead    : Bool := false
  unslot  : Bool := false
  cause   : Option Nat := some 1
  measAt  : Nat := 0
  deriving DecidableEq, Repr

/-! ### The module -/

/-- The state of the module. -/
structure State where
  regs     : List (Nat × Nat) := []
  readData : Word := 0
  readBytes : List (BitVec 8) := []
  count    : Nat := 0
  engines  : List (Nat × Engine) := []
  units    : List (Nat × WorkUnit) := []
  chains   : List (Nat × Chain) := []
  lanes    : List (Nat × LaneSt) := []
  ports    : List (Nat × PortUnit) := []
  cad      : CadUnit := {}
  tests    : TestUnit := {}
  pos      : PosUnit := {}
  strips   : List (Nat × StripUnit) := []
  outbox   : List (Nat × Nat × List Word) := []
  phase    : PhaseUnit := {}
  seam     : SeamUnit := {}
  out      : OutUnit := {}
  tc0      : BoundUnit := {}
  dma      : List (Nat × DmaCh) := []
  time     : TimeUnit := {}
  mgt      : MgtUnit := {}
  modes    : ModeUnit := {}
  hub      : List Host.Cell := []
  hubU     : HubUnit := {}
  host     : List Host.Cell := []
  evq      : List EvRec := []
  evSeq    : Nat := 0
  evLost   : Nat := 0
  bbox     : List (Nat × EvRec) := []
  logq     : List LogEntry := []
  logCoal  : Bool := false
  stamps   : List (Nat × Nat) := []
  free     : Nat := 0
  pending  : List Instr := []
  deriving DecidableEq, Repr

/-- The state right after reset: every register field at its reset value, every memory empty, no command waiting. The
reset is a power-on, whose test has still to complete. -/
def State.reset : State := {}

end Sys2Proof.Machine
end

