-- ==== Sys2Proof/Machine/Ops.lean ====
section
/-! DEFINITION. The named operations over the state: the sparse lists, the register fields, memory, device time and
the raising of an event. -/

namespace Sys2Proof.Machine

/-! ### Sparse lists

A sparse list holds the entries that differ from a default; a number it does not list stands for the default. -/

/-- The value at `k`: the listed one, else the default. -/
def look {α : Type} (dflt : Nat → α) : List (Nat × α) → Nat → α
  | [], k => dflt k
  | (i, v) :: l, k => if i = k then v else look dflt l k

/-- The list without any entry at `k`. -/
def drop1 {α : Type} (l : List (Nat × α)) (k : Nat) : List (Nat × α) := l.filter (fun e => decide (e.1 ≠ k))

/-- The list with `v` at `k`, in its place. -/
def insert1 {α : Type} : List (Nat × α) → Nat → α → List (Nat × α)
  | [], k, v => [(k, v)]
  | (i, w) :: l, k, v =>
    if i = k then (k, v) :: l else if k < i then (k, v) :: (i, w) :: l else (i, w) :: insert1 l k v

/-- Write `v` at `k`: the entry is removed where `v` is the default. -/
def put {α : Type} [DecidableEq α] (dflt : Nat → α) (l : List (Nat × α)) (k : Nat) (v : α) : List (Nat × α) :=
  if v = dflt k then drop1 l k else insert1 l k v

/-- The numbers listed rise strictly and exceed `lo`. -/
def rising {α : Type} : Nat → List (Nat × α) → Bool
  | _, [] => true
  | lo, (i, _) :: l => decide (lo ≤ i) && rising (i + 1) l

/-- The canonical form: numbers strictly rising, no entry equal to its default. -/
def canon {α : Type} [DecidableEq α] (dflt : Nat → α) (l : List (Nat × α)) : Bool :=
  rising 0 l && l.all (fun e => decide (e.2 ≠ dflt e.1))

/-- The list with the `n` numbers from `b` replaced by those entries of `mid` that lie there. -/
def replaceRange {α : Type} [DecidableEq α] (dflt : Nat → α) (l : List (Nat × α)) (b n : Nat) (mid : List (Nat × α)) :
    List (Nat × α) :=
  (mid.filter (fun e => decide (b ≤ e.1) && decide (e.1 < b + n))).foldr (fun e l => put dflt l e.1 e.2)
    (l.filter (fun e => !(decide (b ≤ e.1) && decide (e.1 < b + n))))

/-! ### Register fields (0.6) -/

/-- What an unlisted field of the register store reads as: its reset value. -/
def regReset (k : Nat) : Nat :=
  match fldOfKey k with
  | some f => f.reset
  | none => 0

/-- The value of a field. -/
def State.rf (s : State) (f : Fld) : Nat := look (fun _ => f.reset) s.regs f.key

/-- Write a field: the value is cut to the field's width. -/
def State.setrf (s : State) (f : Fld) (v : Nat) : State :=
  { s with regs := put (fun _ => f.reset) s.regs f.key (v % 2 ^ f.width) }

/-- Add to a counter field, which saturates. -/
def State.bump (s : State) (f : Fld) (n : Nat := 1) : State := s.setrf f (min (s.rf f + n) (2 ^ f.width - 1))

/-- Raise a field that records the largest value seen. -/
def State.peak (s : State) (f : Fld) (v : Nat) : State := s.setrf f (max (s.rf f) (min v (2 ^ f.width - 1)))

/-- A field read as a flag. -/
def State.bit (s : State) (f : Fld) : Bool := decide (s.rf f ≠ 0)

/-- The word a register reads as, from its stored fields. -/
def regWord (s : State) : List Fld → Nat
  | [] => 0
  | f :: fs => (match f.acc with | .wo => 0 | _ => s.rf f * 2 ^ f.lo) + regWord s fs

/-- The RC fields of a register cleared (R7). An update that stands before the read in the queue is of an earlier cycle (R8;
DEDUCED, log 201). -/
def clearRc (s : State) : List Fld → State
  | [] => s
  | f :: fs => clearRc (match f.acc with | .rc => s.setrf f 0 | _ => s) fs

/-- The fields of a word written. -/
def fldOf (f : Fld) (v : Nat) : Nat := v / 2 ^ f.lo % 2 ^ f.width

/-- The fields whose class is lost returned to their reset value (R10). -/
def State.loseFields (s : State) (lost : Fld → Bool) : State :=
  { s with regs := s.regs.filter (fun e =>
      match fldOfKey e.1 with
      | some f => !lost f
      | none => true) }

/-! ### Bit fields and signs -/

/-- Bits `lo` to `lo + n - 1` of a number. -/
def bitsOf (v lo n : Nat) : Nat := v / 2 ^ lo % 2 ^ n

/-- A number of `n` bits read as two's complement. -/
def toSigned (n v : Nat) : Int := if v % 2 ^ n < 2 ^ (n - 1) then (v % 2 ^ n : Nat) else (v % 2 ^ n : Nat) - (2 ^ n : Nat)

/-- An integer cut to `n` bits of two's complement. -/
def ofSigned (n : Nat) (v : Int) : Nat := (v % (2 ^ n : Nat)).toNat

/-- An integer limited to the range `lo` to `hi`. -/
def clampInt (lo hi v : Int) : Int := if v < lo then lo else if hi < v then hi else v

/-- The smallest multiple of `n` not below `v`. -/
def roundUp (v n : Nat) : Nat := (v + n - 1) / n * n

/-- The quotient rounded up. -/
def ceilDiv (v n : Nat) : Nat := (v + n - 1) / n

/-! ### Bytes (R2: little-endian) -/

/-- The `n` bytes from `a`, least significant first, as one number. -/
def readLE (m : List Host.Cell) (a : Nat) : Nat → Nat
  | 0 => 0
  | n + 1 => (look (fun _ => (0 : Byte)) m a).toNat + 256 * readLE m (a + 1) n

/-- Write the low `n` bytes of a number from `a`. -/
def writeLE (m : List Host.Cell) (a v : Nat) : Nat → List Host.Cell
  | 0 => m
  | n + 1 => writeLE (put (fun _ => (0 : Byte)) m a (BitVec.ofNat 8 v)) (a + 1) (v / 256) n

/-- The memory lists hold their canonical form. -/
def Memory.wf (m : List Host.Cell) : Bool := canon (fun _ => (0 : Byte)) m

/-- Clear `n` bytes. -/
def clearBytes (m : List Host.Cell) (b n : Nat) : List Host.Cell := replaceRange (fun _ => 0) m b n []

/-! ### Units of the arrays -/

def State.eng (s : State) (e : Nat) : Engine := look (fun _ => {}) s.engines e
def State.setEng (s : State) (e : Nat) (x : Engine) : State := { s with engines := put (fun _ => {}) s.engines e x }
def State.wu (s : State) (u : Nat) : WorkUnit := look (fun _ => {}) s.units u
def State.setWu (s : State) (u : Nat) (x : WorkUnit) : State := { s with units := put (fun _ => {}) s.units u x }
def State.chain (s : State) (c : Nat) : Chain := look (fun _ => {}) s.chains c
def State.setChain (s : State) (c : Nat) (x : Chain) : State := { s with chains := put (fun _ => {}) s.chains c x }

/-! ### Device time (R368) -/

/-- Device time in ns at a count: floor(OFFSET + COUNT × RATE) modulo 2^64. -/
def State.timeAt (s : State) (c : Nat) : Nat :=
  (s.rf Rf.TIM_OFS_INT_OFFSET + (s.rf Rf.TIM_OFS_FRAC_OFFSET + c * s.rf Rf.TIM_RATE_RATE) / 2 ^ 32) % 2 ^ 64

/-- Device time now. -/
def State.now (s : State) : Nat := s.timeAt s.count

/-- The first count from now on at which device time has reached `t` (R376). -/
def State.countReach (s : State) (t : Nat) : Nat :=
  let d := toSigned 64 (t + 2 ^ 64 - s.now)
  if d ≤ 0 then s.count
  else
    let f := s.rf Rf.TIM_OFS_FRAC_OFFSET + s.count * s.rf Rf.TIM_RATE_RATE
    s.count + ceilDiv ((f / 2 ^ 32 + d.toNat) * 2 ^ 32 - f) (max 1 (s.rf Rf.TIM_RATE_RATE))

/-- The counts of the 1.25 GHz clock in `n` ns, rounded up. -/
def countsOfNs (n : Nat) : Nat := (n * 5 + 3) / 4

/-- The counts of the 1.25 GHz clock in `n` µs. -/
def countsOfUs (n : Nat) : Nat := n * 1250

/-- The count moved on to an instant, if it lies ahead: an event cannot precede its instant. -/
def State.advanceTo (s : State) (c : Nat) : State := { s with count := max s.count c }

/-! ### Events (R13, R292, R388 to R390) -/

/-- The key of a rate-limited event: its code and the unit it is limited for. -/
def stampKey (code unit : Nat) : Nat := code * 65536 + unit

/-- Whether `counts` have passed since the stamp `k`, or there is none. -/
def State.due (s : State) (k counts : Nat) : Bool :=
  match s.stamps.find? (fun e => e.1 == k) with
  | some e => decide (e.2 + counts ≤ s.count)
  | none => true

/-- The stamp `k` set to now. -/
def State.stamp (s : State) (k : Nat) : State := { s with stamps := insert1 s.stamps k s.count }

/-- One event, as it is raised now. -/
def State.mkEv (s : State) (code a0 a1 a2 : Nat) : EvRec :=
  ⟨code, s.evSeq % 2 ^ 32, s.now, s.rf Rf.CAD_BAND_BAND, a0, a1, a2⟩

/-- The event queue of the router: 1,024 entries; one more is counted as lost (R292). -/
def State.queueEv (s : State) (ev : EvRec) : State :=
  if s.evq.length < 1024 then { s with evq := s.evq ++ [ev], evSeq := (s.evSeq + 1) % 2 ^ 32 }
  else { s with evLost := s.evLost + 1 }

/-- The black box: the entry at HEAD, which moves on and wraps (R390). -/
def State.boxEv (s : State) (ev : EvRec) : State :=
  let h := s.rf Rf.MGT_BBOX_HEAD
  let s := { s with bbox := insert1 s.bbox h ev }
  let s := s.setrf Rf.MGT_BBOX_HEAD ((h + 1) % 16384)
  if h = 16383 then s.setrf Rf.MGT_BBOX_WRAPPED 1 else s

/-- Entries of one code and second as one COAL entry of `n` events, in the place of the first of them. -/
def coalesced (same : LogEntry → Bool) (n : Nat) : List LogEntry → List LogEntry
  | [] => []
  | l :: ls => if same l then { l with rep := n, coal := true } :: ls.filter (fun x => !same x)
               else l :: coalesced same n ls

/-- A queued entry is of the code and the second of an event. -/
def EvRec.like (ev : EvRec) (l : LogEntry) : Bool := l.ev.code == ev.code && l.ev.time / 10 ^ 9 == ev.time / 10 ^ 9

/-- The log coalesces an event with entries it has queued (R389). -/
def State.merges (s : State) (ev : EvRec) : Bool := s.logCoal && s.logq.any ev.like

/-- The log queue of the firmware, which coalesces the events of one code within a second while it is more than three
quarters full and until it falls below one quarter (R389); a full queue keeps no further entry. -/
def State.logEv (s : State) (ev : EvRec) : State :=
  let same := ev.like
  if s.merges ev then
    let n := ((s.logq.filter same).map (fun l => max l.rep 1)).sum + 1
    let s := { s with logq := coalesced same n s.logq }
    s.setrf Rf.MGT_LOG_QUEUE s.logq.length
  else if s.logq.length < 4096 then
    let s := { s with logq := s.logq ++ [LogEntry.mk ev 0 false] }
    let s := if 3072 ≤ s.logq.length then { s with logCoal := true } else s
    s.setrf Rf.MGT_LOG_QUEUE s.logq.length
  else s

/-- One event into the queue, the black box and the log. -/
def State.record (s : State) (code a0 a1 a2 : Nat) : State :=
  let ev := s.mkEv code a0 a1 a2
  ((s.queueEv ev).boxEv ev).logEv ev

/-- The second of device time is noted as one in which the log has coalesced. -/
def State.stampSecond (s : State) : State := { s with stamps := insert1 s.stamps (stampKey 0xA006 0) (s.now / 10 ^ 9) }

/-- The log has not yet coalesced in this second of device time. -/
def State.newSecond (s : State) : Bool := !s.stamps.contains (stampKey 0xA006 0, s.now / 10 ^ 9)

/-- Raise an event. An event that finds the queue full raises 0x600E too, once a second; one that the log coalesces raises
0xA006 too, once in each second of device time. -/
def State.raise (s : State) (code : Nat) (a0 a1 a2 : Nat := 0) : State :=
  let full := decide (1024 ≤ s.evq.length)
  let merged := s.merges (s.mkEv code a0 a1 a2)
  let s := s.record code a0 a1 a2
  let s := if full && s.due (stampKey 0x600E 0) (countsOfUs 1000000) then
    (s.stamp (stampKey 0x600E 0)).record 0x600E 0 0 0 else s
  if merged && s.newSecond then s.stampSecond.record 0xA006 0 0 0 else s

/-- Raise an event at most once a millisecond for the unit it names. -/
def State.raiseMs (s : State) (code unit : Nat) (a1 a2 : Nat := 0) : State :=
  if s.due (stampKey code unit) (countsOfUs 1000) then (s.stamp (stampKey code unit)).raise code unit a1 a2 else s

/-! ### The outcome of a command -/

/-- The command's effect, or nothing where the state does not meet the command's conditions: an event whose conditions
do not hold does not come about. -/
@[inline] def when' (c : Bool) (s t : State) : Host.Outcome State Fault Refusal := .next (if c then t else s)

end Sys2Proof.Machine
end

