-- ==== Sys2Proof/WellFormed.lean ====
section
/-! DEFINITION. Which commands carry operands that the spec calls well formed. The types of `Instr` bound every unit
number and field width; what is left are the value ranges R41 and R82 state for an instruction word, outside which the
word is undefined. -/

namespace Sys2Proof

/-- The operands lie in the ranges their instruction states (R41, R82 and the tables of 2.3 and 3.5). -/
def Instr.wf : Instr → Bool
  | .ext _ _ _ _ len => decide (1 ≤ len.toNat) && decide (len.toNat ≤ 64)
  | .ins _ _ _ pos len => decide (1 ≤ len.toNat) && decide (len.toNat ≤ 64) && decide (pos.toNat + len.toNat ≤ 64)
  | .br _ _ off => decide (1 ≤ off.toNat)
  | .rd _ _ sel => decide (sel.toNat ≤ 0x0A)
  | .ard _ _ _ _ f => decide (f.toNat ≤ 4)
  | .lut _ _ _ _ _ sh => decide (sh.toNat ≤ 12)
  | .luti _ _ _ _ _ sh => decide (sh.toNat ≤ 12)
  | .k1v _ _ _ _ _ taps => decide (taps.toNat ≤ 2)
  | .xmrg _ _ _ _ _ _ bw os => decide (bw.toNat ≤ 12) && decide (os.toNat ≤ 8)
  | .scor _ _ _ _ _ sh _ _ _ _ => decide (sh.toNat ≤ 24)
  | .thr _ _ _ _ _ pol => decide (pol.toNat ≤ 2)
  | .hist _ _ _ nb _ _ _ => decide (1 ≤ nb.toNat) && decide (nb.toNat ≤ 12)
  | _ => true

end Sys2Proof
end

