-- ==== Sys2Proof/Machine/Operands.lean ====
section
/-! DEFINITION. The operand forms of engine instructions: scalars, predicates, guards, immediates, descriptors, chain
handles, special registers and scratch addresses (2.1 to 2.3, 3.2). -/

namespace Sys2Proof.Machine

/-- A scalar read: s0 reads 0 (Table 2.2). -/
def Engine.s (x : Engine) (r : BitVec 6) : Word := if r = 0 then 0 else look (fun _ => 0) x.sregs r.toNat

/-- A scalar write: a write to s0 is discarded. -/
def Engine.setS (x : Engine) (r : BitVec 6) (v : Word) : Engine :=
  if r = 0 then x else { x with sregs := put (fun _ => 0) x.sregs r.toNat v }

/-- A predicate read: p0 reads 1. -/
def Engine.p (x : Engine) (r : BitVec 3) : Bool := if r = 0 then true else look (fun _ => false) x.preds r.toNat

/-- A predicate write: a write to p0 is discarded. -/
def Engine.setP (x : Engine) (r : BitVec 3) (v : Bool) : Engine :=
  if r = 0 then x else { x with preds := put (fun _ => false) x.preds r.toNat v }

/-- A guard: the predicate G[2:0], inverted when G[3] is 1 (2.2). -/
def Engine.guard (x : Engine) (g : BitVec 4) : Bool :=
  let v := x.p (BitVec.ofNat 3 (g.toNat % 8))
  if 8 ≤ g.toNat then !v else v

/-- The immediate of an unguarded form, sign-extended (Table 2.6). -/
def immS (i : BitVec 34) : Word := i.signExtend 64

/-- The immediate read as unsigned. -/
def immU (i : BitVec 34) : Word := i.zeroExtend 64

/-- A descriptor read and write. -/
def Engine.d (x : Engine) (r : BitVec 4) : Desc := look (fun _ => ⟨0, 0⟩) x.descs r.toNat
def Engine.setD (x : Engine) (r : BitVec 4) (v : Desc) : Engine :=
  { x with descs := put (fun _ => ⟨0, 0⟩) x.descs r.toNat v }

/-! ### Descriptor fields (Table 3.2) -/

def Desc.addr (d : Desc) : Nat := bitsOf d.w0.toNat 0 40
def Desc.inHub (d : Desc) : Bool := decide (bitsOf d.w0.toNat 40 1 = 1)
def Desc.fmt (d : Desc) : Nat := bitsOf d.w0.toNat 41 4
def Desc.plane (d : Desc) : Nat := bitsOf d.w0.toNat 45 2
def Desc.len (d : Desc) : Nat := bitsOf d.w0.toNat 48 16
def Desc.stride (d : Desc) : Int := toSigned 32 (bitsOf d.w1.toNat 0 32)
def Desc.pstride (d : Desc) : Nat := bitsOf d.w1.toNat 32 24

/-- The descriptor with another ADDR, which wraps in 40 bits. -/
def Desc.withAddr (d : Desc) (a : Int) : Desc :=
  { d with w0 := BitVec.ofNat 64 (d.w0.toNat / 2 ^ 40 * 2 ^ 40 + ofSigned 40 a) }

/-- The descriptor moved by `r` rows (dadv, and ADV of Table 3.4). -/
def Desc.advance (d : Desc) (r : Int) : Desc := d.withAddr (d.addr + r * d.stride)

/-- The byte address of row `i` below the current row: it wraps in 40 bits, and bits [2:0] are taken as 0, so that every
row begins at a 64-bit word (R79). -/
def Desc.row (d : Desc) (i : Int) : Nat := ofSigned 40 ((d.addr / 8 * 8 : Nat) + i * d.stride) / 8 * 8

/-- Bits per element of a format (Table 3.3); 0 for a reserved one. -/
def fmtBits : Nat → Nat
  | 0 => 16 | 1 => 16 | 2 => 8 | 3 => 10 | 4 => 12 | 5 => 14 | 6 => 1 | 7 => 2 | 8 => 32 | 9 => 32 | 10 => 8
  | _ => 0

/-! ### The program header (Tables 2.11 and 2.12) -/

/-- A word of the active bank. -/
def State.imgWord (s : State) (e i : Nat) : Nat :=
  (look (fun _ => 0) (if s.bit (Rf.ENG_STATUS_ACTIVE_BANK e) then (s.eng e).bank1 else (s.eng e).bank0) i).toNat

/-- The chain bound to a handle. -/
def State.handle (s : State) (e : Nat) (q : BitVec 4) : Nat :=
  bitsOf (s.imgWord e (2 + q.toNat / 8)) (8 * (q.toNat % 8)) 8

def State.constBase (s : State) (e : Nat) : Nat := bitsOf (s.imgWord e 1) 0 16 * 64
def State.constSize (s : State) (e : Nat) : Nat := bitsOf (s.imgWord e 1) 16 16 * 64
def State.carryBase (s : State) (e : Nat) : Nat := bitsOf (s.imgWord e 1) 32 16 * 64
def State.carrySize (s : State) (e : Nat) : Nat := bitsOf (s.imgWord e 1) 48 16 * 64
def State.loadCnt (s : State) (e : Nat) : Nat := bitsOf (s.imgWord e 0) 48 8

/-- Field bits of word `w` of a load entry. -/
def State.loadFld (s : State) (e entry w lo n : Nat) : Nat := bitsOf (s.imgWord e (8 + 4 * entry + w)) lo n

/-- A word of the image that loads band `n`: the active bank, or the staging bank where a swap is armed for that band
or an earlier one (R58). -/
def State.imgWordAt (s : State) (e n i : Nat) : Nat :=
  let other := match (s.eng e).swapAt with
    | some b => decide (b ≤ n)
    | none => false
  (look (fun _ => 0) (if s.bit (Rf.ENG_STATUS_ACTIVE_BANK e) != other then (s.eng e).bank1 else (s.eng e).bank0) i).toNat
def State.loadCntAt (s : State) (e n : Nat) : Nat := bitsOf (s.imgWordAt e n 0) 48 8
def State.loadFldAt (s : State) (e n entry w lo k : Nat) : Nat := bitsOf (s.imgWordAt e n (8 + 4 * entry + w)) lo k

/-! ### Scratch (R47) -/

/-- The size of scratch: 4 MiB. -/
def scratchSize : Nat := 0x400000

/-- Whether a scratch byte is in the constant region of the program, which no store of the program reaches. -/
def State.inConst (s : State) (e a : Nat) : Bool :=
  decide (s.constBase e ≤ a) && decide (a < s.constBase e + s.constSize e)

/-- Read `n` bytes of scratch; bytes at or above 4 MiB read 0. -/
def scrRead (m : List Host.Cell) (a n : Nat) : Nat := if a < scratchSize then readLE m a n else 0

/-- The address of lds and sts: A + IMM[23:0] with bits [2:0] forced to 0. The sum wraps modulo 2^64 (R39). -/
def scrAddr (a : Word) (off : BitVec 24) : Nat := (a + off.zeroExtend 64).toNat / 8 * 8

/-- The logical unit an engine serves; 0xFF for none. -/
def State.unitOf (s : State) (e : Nat) : Nat := s.rf (Rf.ENG_ROLE_UNIT e)

/-- The special registers (Table 2.8). -/
def State.special (s : State) (e sel : Nat) : Word :=
  let x := s.eng e
  match sel with
  | 0 => BitVec.ofNat 64 x.tok.band
  | 1 => BitVec.ofNat 64 x.tok.gear
  | 2 => BitVec.ofNat 64 (s.unitOf e)
  | 3 => x.tok.enc
  | 4 => x.tok.time
  | 5 => x.tok.setref
  | 6 => BitVec.ofNat 64 (s.rf Rf.CAD_GEOM_HEIGHT)
  | n =>
    match x.loops.reverse[n - 7]? with
    | some f => BitVec.ofNat 64 f.idx
    | none => 0

end Sys2Proof.Machine
end

