-- ==== Sys2Proof/Machine/Flags.lean ====
section
/-! DEFINITION. The engine's flags and limits: the comparisons that set a predicate (Table 2.7), saturation, rounding
(3.4), and how an instruction of the core retires: its charged cycles and the place the core continues at. -/

namespace Sys2Proof.Machine

/-! ### Comparisons (Table 2.7) -/

def cmpLt (a b : Word) : Bool := a.slt b
def cmpLtu (a b : Word) : Bool := a.ult b
def cmpLe (a b : Word) : Bool := a.sle b
def cmpLeu (a b : Word) : Bool := a.ule b

/-- The smaller and the larger of two words, signed and unsigned. -/
def minS (a b : Word) : Word := if cmpLe a b then a else b
def maxS (a b : Word) : Word := if cmpLe a b then b else a
def minU (a b : Word) : Word := if cmpLeu a b then a else b
def maxU (a b : Word) : Word := if cmpLeu a b then b else a

/-- An integer limited to the signed 64-bit range. -/
def satS64 (v : Int) : Int := clampInt (-(2 ^ 63)) (2 ^ 63 - 1) v

/-- The low and the high half of a product. -/
def mulHigh (a b : Int) : Word := BitVec.ofInt 64 (a * b / 2 ^ 64)

/-- Leading zeros of a number of `n` bits. -/
def clzNat (v : Nat) : Nat → Nat
  | 0 => 0
  | n + 1 => if v.testBit n then 0 else clzNat v n + 1

/-- One bits among the low `n`. -/
def popcNat (v : Nat) : Nat → Nat
  | 0 => 0
  | n + 1 => (if v.testBit n then 1 else 0) + popcNat v n

/-- The low `n` bits set. -/
def maskW (n : Nat) : Word := BitVec.ofNat 64 (2 ^ n - 1)

/-! ### Rounding and saturation (3.4) -/

/-- RND(v, k): halves round toward plus infinity. -/
def rnd (v : Int) (k : Nat) : Int := if k = 0 then v else (v + 2 ^ (k - 1)) / 2 ^ k

def satU16 (v : Int) : Int := clampInt 0 65535 v
def satS16 (v : Int) : Int := clampInt (-32768) 32767 v
def satU8 (v : Int) : Int := clampInt 0 255 v

/-- SAT_F: the limit of the output format (U16, S16, U8; the other formats hold what their rules write). -/
def satF (fmt : Nat) (v : Int) : Int :=
  match fmt with
  | 0 => satU16 v
  | 1 => satS16 v
  | 2 => satU8 v
  | _ => v

/-! ### Retiring an instruction -/

/-- Where the core continues at `pc`: a loop whose body ends there starts its next iteration, or is left (R43). -/
def loopNext (pc : Nat) : List LoopFrame → Nat × List LoopFrame
  | [] => (pc, [])
  | f :: fs =>
    if pc = f.start + f.len then
      if f.idx + 1 < f.count then (f.start, { f with idx := f.idx + 1 } :: fs) else loopNext pc fs
    else (pc, f :: fs)

/-- Continue at `pc`. -/
def Engine.goto (x : Engine) (pc : Nat) : Engine :=
  { x with pc := (loopNext pc x.loops).1, loops := (loopNext pc x.loops).2 }

/-- The instruction has issued: its charged cycles are run cycles and the core continues at the next one. -/
def Engine.retire (x : Engine) (cost : Nat) : Engine := { x with run := x.run + cost }.goto (x.pc + 1)

/-! ### Codewords in error (R62, R63) -/

/-- The key of a codeword of an engine's memories: the MEM of TST_ECC and its number there. -/
def errKey (mem k : Nat) : Nat := mem * 2 ^ 32 + k

/-- The codewords that can no longer be corrected. -/
def Engine.lostWords (x : Engine) : List Nat := (x.errs.filter (fun e => decide (2 ≤ e.2.length))).map (·.1)

/-- A 16-byte codeword of scratch that can no longer be corrected lies in one of the ranges. -/
def Engine.badScr (x : Engine) (r : List (Nat × Nat)) : Bool :=
  x.lostWords.any (fun k => decide (k / 2 ^ 32 = 2) && r.any (fun a => decide (0 < a.2) &&
    decide (k % 2 ^ 32 * 16 < a.1 + a.2) && decide (a.1 < k % 2 ^ 32 * 16 + 16)))

/-- The register file and the tiles' stores hold no uncorrectable word. That one there stops core and tiles before it is named
is DEDUCED from R62 and R63 (log 143). -/
def Engine.storesSound (x : Engine) : Bool := !x.lostWords.any (fun k => decide (k / 2 ^ 32 = 3) || decide (k / 2 ^ 32 = 4))

/-- The core can go on: its registers and its tiles' stores hold no uncorrectable word, nor does the instruction it
fetches. -/
def State.sound (s : State) (e : Nat) : Bool :=
  (s.eng e).storesSound &&
    !(s.eng e).lostWords.contains (errKey 1 (s.rf (Rf.ENG_STATUS_ACTIVE_BANK e) * 16384 + 8 + 4 * s.loadCnt e + (s.eng e).pc))

/-- Whether the engine is executing its program and is not held by a stall (ENG_STATUS.STATE 2). -/
def State.runs (s : State) (e : Eng) : Bool :=
  decide (s.rf (Rf.ENG_STATUS_STATE e) = 2) && (s.eng e).stalled.isNone && s.sound e

/-- An instruction that acts in the core alone: when the engine runs it has its effect, if its guard reads 1, and
retires; when the engine does not run it does not come about. -/
def coreOp (s : State) (e : Eng) (on : Engine → Bool) (cost : Nat) (f : Engine → Engine) :
    Host.Outcome State Fault Refusal :=
  if s.runs e then
    let x := s.eng e
    .next (s.setEng e ((if on x then f x else x).retire cost))
  else .next s

/-- The instruction waits: it is held with the state it stalls in, and the count at which the stall began. -/
def State.stall (s : State) (e : Nat) (i : Instr) (st : Nat) : State :=
  (s.setEng e { s.eng e with stalled := some i, stallAt := s.count }).setrf (Rf.ENG_STATUS_STATE e) st

/-- Engine clock cycles (1.6 GHz) in a number of counts (1.25 GHz). -/
def cyclesOf (counts : Nat) : Nat := counts * 32 / 25

/-- The figure of ENG_TILEQ that a wait for the tiles counts in: 1 for ILOCK_LAST (R74, R76), 2 for QFULL_LAST (R70),
0 for neither (fence and wtick). -/
def tileWait : Instr → Nat
  | .lds .. | .sts .. | .pushr .. | .ard .. => 1
  | .fence .. | .wtick .. => 0
  | _ => 2

/-- The run cycles of the running band so far (R51): what was charged, less what the tiles owe of their charges and the
core has not waited for. -/
def Engine.cycles (x : Engine) : Nat := x.run - x.lag

/-- The cycles the tiles owe of the instructions in a list of queue entries: their charges, less the cycle of their issue. -/
def owedBy (charge : Instr → Nat) (l : List QEntry) : Nat := (l.map (fun q => charge q.i - 1)).sum

/-- The count from which the tiles have worked on the instruction they hold, in a stall of the core; none while that one waits
for a copy, which is excluded from the run cycles (R51). -/
def Engine.workFrom (x : Engine) : Option Nat :=
  match x.queue with
  | q :: _ => if q.applied then some (max (max x.stallAt x.tileAt) x.freeAt) else none
  | [] => some (max x.stallAt x.tileAt)

/-- The core waits for the tiles, and its wait is made of run cycles: but for wtick, whose wait comes after its issue, where the
run cycles end (R51). -/
def State.runWait (s : State) (e : Nat) : Bool :=
  decide (s.rf (Rf.ENG_STATUS_STATE e) = 2) && (match (s.eng e).stalled with
    | some (.wtick _) => false
    | some _ => true
    | none => false)

/-- The cycles of such a wait since an instruction last left the tiles, up to what the tiles owe. -/
def State.waited (s : State) (e : Nat) : Nat :=
  if s.runWait e then
    match (s.eng e).workFrom with
    | some c => min (cyclesOf (s.count - c)) (s.eng e).lag
    | none => 0
  else 0

/-- The stall ends: the engine runs again, and the cycles it waited are added to the figure its cause counts in. A wait
for the tiles is made of run cycles, up to what they owe (R51). What ENG_STALL counts of a wtick's own wait the spec does not
say: its waits for copies and a SAFE hold of it count in LOAD_LAST (DESIGN CHOICE, log 185). -/
def State.unstall (s : State) (e : Nat) : State :=
  let x := s.eng e
  let n := cyclesOf (s.count - x.stallAt)
  let st := s.rf (Rf.ENG_STATUS_STATE e)
  let ends := match x.stalled with
    | some (.wtick _) => true
    | _ => false
  let kind := match x.stalled with
    | some i => tileWait i
    | none => 0
  let x := { x with stalled := none, lag := x.lag - s.waited e,
                    wtickAt := if ends then some (x.wtickAt.getD x.stallAt) else x.wtickAt }
  let x := if st = 2 ∧ kind = 2 then { x with qfull := x.qfull + n } else x
  let x := if st = 2 ∧ kind = 1 then { x with ilock := x.ilock + n } else x
  let x := if st = 4 then { x with chSt := x.chSt + n } else if st = 3 ∨ st = 5 then { x with ldSt := x.ldSt + n } else x
  (s.setEng e x).setrf (Rf.ENG_STATUS_STATE e) 2

end Sys2Proof.Machine
end

