-- ==== Sys2Proof/Machine/Tile.lean ====
section
/-! DEFINITION. What every tile instruction shares: its element cap, the runs it reads and writes, the checks of R81,
and the reading and writing of elements (3.2, 3.3). -/

namespace Sys2Proof.Machine

/-- The element cap N = (NCAP + 1) × 16 (Table 3.4). -/
def capOf (x : StreamImm) : Nat := (x.ncap.toNat + 1) * 16

/-- The immediate of a tile instruction. -/
def streamImm : Instr → Option StreamImm
  | .cgat _ x .. | .vadd _ x .. | .vsub _ x .. | .vmin _ x .. | .vmax _ x .. | .vabsd _ x .. | .vmul _ x ..
  | .vaddk _ x .. | .vclamp _ x .. | .vmulk _ x .. | .vcvt _ x .. | .vsel _ x .. | .vcmp _ x .. | .mapc _ x ..
  | .lut _ x .. | .luti _ x .. | .k1d _ x .. | .k1v _ x .. | .k2d _ x .. | .rs _ x .. | .flat _ x .. | .dpr _ x ..
  | .xmrg _ x .. | .cmat _ x .. | .scor _ x .. | .thr _ x .. | .morph _ x .. | .lbl _ x .. | .feat _ x ..
  | .stat _ x .. | .hist _ x .. | .crc _ x .. | .pred _ x .. | .upred _ x .. | .gsel _ x .. | .gput _ x ..
  | .gdec _ x .. => some x
  | _ => none

/-- A run an instruction reads: its descriptor, the rows above and below it reads, and the formats it accepts. -/
structure RunUse where
  reg    : BitVec 4
  rows   : List Int
  fmts   : List Nat
  planes : List Nat
  blocks : Bool

/-- A run of the current row of plane PLANE alone. -/
def useRow (r : BitVec 4) (fmts : List Nat) : RunUse := ⟨r, [0], fmts, [], false⟩

/-- How a tile instruction uses its runs (Table 3.6): those it reads, dA first; the one it writes, and the formats
accepted there; whether it may write in place; its width, granule, passes and tail. -/
structure Shape where
  reads   : List RunUse
  write   : Option RunUse
  inPlace : Bool
  width   : Nat
  gran    : Nat
  passes  : Nat
  tail    : Nat

/-- Formats U16 and S16. -/
def px : List Nat := [0, 1]

/-- An optional run. -/
def optRun (en : Bool) (r : BitVec 4) (fmts : List Nat) : List RunUse := if en then [useRow r fmts] else []

/-- The rows from `lo` to `lo + n - 1`. -/
def rowsFrom (lo : Int) (n : Nat) : List Int := (List.range n).map (fun (i : Nat) => lo + i)

/-- The shape of each tile instruction (Tables 3.6 and 3.7, 3.5.1 to 3.5.9). -/
def shape : Instr → Option Shape
  | .vadd _ _ d a b | .vsub _ _ d a b | .vmul _ _ d a b _ | .vmin _ _ d a b | .vmax _ _ d a b | .vabsd _ _ d a b =>
    some ⟨[useRow a px, useRow b px], some (useRow d px), true, 2, 16, 1, 2⟩
  | .vaddk _ _ d a _ | .vmulk _ _ d a _ _ | .vclamp _ _ d a _ =>
    some ⟨[useRow a px], some (useRow d px), true, 2, 16, 1, 2⟩
  | .vcvt _ _ d a _ => some ⟨[useRow a [0, 1, 2, 3, 4, 5]], some (useRow d [0, 1, 2]), true, 2, 16, 1, 2⟩
  | .vsel _ _ d a b m => some ⟨[useRow a px, useRow b px, useRow m [6]], some (useRow d px), true, 2, 16, 1, 2⟩
  | .vcmp _ _ _ a b => some ⟨[useRow a px, useRow b px], none, false, 2, 16, 1, 2⟩
  | .mapc _ _ d a _ n b ben =>
    some ⟨useRow a px :: optRun ben b px, some (useRow d px), true, 2, 16, n.toNat + 1, 3⟩
  | .lut _ _ d a _ _ => some ⟨[useRow a px], some (useRow d px), true, 2, 16, 1, 3⟩
  | .luti _ _ d a _ _ => some ⟨[useRow a px], some (useRow d px), true, 2, 16, 2, 4⟩
  | .k1d _ _ d a _ t => some ⟨[useRow a px], some (useRow d px), false, 2, 16, t.toNat + 2, 4⟩
  | .k1v _ _ d a _ t =>
    some ⟨[⟨a, rowsFrom (-(t.toNat : Int)) (2 * t.toNat + 2), px, [], false⟩], some (useRow d px), false, 2, 16,
      t.toNat + 1, 4⟩
  | .k2d _ _ d a _ big =>
    some ⟨[⟨a, if big then rowsFrom (-2) 5 else rowsFrom (-1) 3, px, [], false⟩], some (useRow d px), false, 2, 16,
      if big then 13 else 5, 4⟩
  -- the formats of rs, which 3.5.3 does not state, are those of the kernels beside it (DESIGN CHOICE, log 182)
  | .rs _ _ d a _ big => some ⟨[useRow a px], some (useRow d px), false, 2, 16, if big then 3 else 2, 6⟩
  | .flat _ _ d a b _ => some ⟨[useRow a [0], useRow b [9]], some (useRow d [0]), true, 2, 16, 2, 4⟩
  | .dpr _ _ d a b _ => some ⟨[useRow a [0], useRow b [6]], some (useRow d [0]), false, 2, 16, 1, 3⟩
  | .xmrg _ _ d a _ sd _ _ => some ⟨[useRow a [0], useRow sd [0]], some (useRow d [0]), true, 2, 16, 2, 4⟩
  | .cmat _ _ d a _ =>
    some ⟨[⟨a, [0], [0], [0, 1, 2], false⟩], some ⟨d, [0], [0], [0, 1, 2], false⟩, false, 2, 16, 5, 5⟩
  | .scor _ _ d a b _ q pen k men =>
    some ⟨useRow a [0] :: useRow b [9] :: (optRun pen q [1] ++ optRun men k [6]), some (useRow d [1]), false, 2, 16,
      if pen then 3 else 2, 4⟩
  | .thr _ _ d a _ _ => some ⟨[useRow a [1]], some (useRow d [7]), false, 2, 16, 1, 2⟩
  | .morph _ _ d a _ _ => some ⟨[⟨a, rowsFrom (-1) 3, [6, 7], [], false⟩], some (useRow d [6, 7]), false, 2, 16, 1, 3⟩
  | .lbl _ _ d a b _ noprev =>
    some ⟨useRow a [6, 7] :: optRun (!noprev) b [8], some (useRow d [8]), false, 1, 16, 4, 6⟩
  | .feat _ _ a b _ z zen => some ⟨useRow a [8] :: useRow b [1] :: optRun zen z [7], none, false, 1, 16, 4, 6⟩
  | .stat _ _ _ a _ m men => some ⟨useRow a px :: optRun men m [6], none, false, 2, 16, 1, 3⟩
  | .hist _ _ a _ _ m men => some ⟨useRow a px :: optRun men m [6], none, false, 2, 16, 1, 3⟩
  | .crc _ _ _ a => some ⟨[useRow a [0, 1, 2, 3, 4, 5, 6, 7, 8, 9, 10]], none, false, 1, 16, 1, 3⟩
  -- with NOPREV = 1 dB is not needed, and is still checked as a run that is read (DESIGN CHOICE, log 183)
  | .pred _ _ d a b _ => some ⟨[useRow a [0], useRow b [0]], some (useRow d [0]), false, 2, 16, 1, 3⟩
  | .upred _ _ d a b _ => some ⟨[useRow a [0], useRow b [0]], some (useRow d [0]), false, 1, 16, 1, 3⟩
  | .gsel _ _ d a => some ⟨[useRow a [0]], some ⟨d, [0], [9], [], true⟩, false, 2, 64, 2, 4⟩
  | .gput _ _ _ a b _ => some ⟨[useRow a [0], ⟨b, [0], [9], [], true⟩], none, false, 2, 64, 2, 6⟩
  | .gdec _ _ d _ _ => some ⟨[], some (useRow d [0]), false, 1, 16, 2, 6⟩
  | _ => none

/-- The descriptor whose LEN gives the element count: dA, but dD for rs and gdec (R80, R89, R107). -/
def countReg : Instr → BitVec 4
  | .vadd _ _ _ a .. | .vsub _ _ _ a .. | .vmul _ _ _ a .. | .vmin _ _ _ a .. | .vmax _ _ _ a .. | .vabsd _ _ _ a ..
  | .vaddk _ _ _ a .. | .vmulk _ _ _ a .. | .vclamp _ _ _ a .. | .vcvt _ _ _ a .. | .vsel _ _ _ a ..
  | .vcmp _ _ _ a .. | .mapc _ _ _ a .. | .lut _ _ _ a .. | .luti _ _ _ a .. | .k1d _ _ _ a .. | .k1v _ _ _ a ..
  | .k2d _ _ _ a .. | .flat _ _ _ a .. | .dpr _ _ _ a .. | .xmrg _ _ _ a .. | .cmat _ _ _ a .. | .scor _ _ _ a ..
  | .thr _ _ _ a .. | .morph _ _ _ a .. | .lbl _ _ _ a .. | .feat _ _ a .. | .stat _ _ _ a .. | .hist _ _ a ..
  | .crc _ _ _ a | .pred _ _ _ a .. | .upred _ _ _ a .. | .gsel _ _ _ a | .gput _ _ _ a .. => a
  | .rs _ _ d .. | .gdec _ _ d .. => d
  | _ => 0

/-- The formats of Table 3.3 that are not reserved. -/
def allFmts : List Nat := List.range 11

/-- The operands of Table 3.6 that an instruction names as runs and neither reads nor writes as elements: dB of an lbl that
reads it as all 0 (R97), dD of gput and dA of gdec, whose bits lie in the byte run of their context (R106, R107). Their
place is checked as R81 asks; the spec gives the last two no format, and none but a reserved one is turned away (DESIGN
CHOICE, log 138). -/
def idleUse : Instr → List RunUse
  | .lbl _ _ _ _ b _ np => if np then [useRow b [8]] else []
  | .gput _ _ d .. => [useRow d allFmts]
  | .gdec _ _ _ a _ => [useRow a allFmts]
  | _ => []

/-- The descriptors an instruction names as runs, each once, for ADV (Table 3.4). A run that its word names counts as named
although it is read as all 0 (lbl's dB with NOPREV = 1): the spec does not say which, DESIGN CHOICE, log 138. -/
def namedRuns (i : Instr) : List (BitVec 4) :=
  match shape i with
  | some h => ((h.reads.map (·.reg)) ++ (match h.write with | some w => [w.reg] | none => []) ++
      (idleUse i).map (·.reg)).dedup
  | none => match i with
    | .cgat _ _ d a _ => [d, a].dedup
    | _ => []

/-- The walker's charge C = 4 + P × G + T of a tile instruction (R83). -/
def tileCharge (i : Instr) : Nat :=
  match shape i, streamImm i with
  | some h, some x => 4 + h.passes * (h.gran / 16 * ceilDiv (ceilDiv (capOf x) h.gran) h.width) + h.tail
  | _, _ =>
    match i with
    | .cgat .. => 8
    | .aclr .. => 5
    | .tld .. => 262
    | .hclr .. => 133
    | .hput .. => 262
    | .fmrg _ _ n _ _ => 10 + 12 * ((n.toNat + 1) * 16)
    | _ => 0

/-! ### The snapshot of an entry -/

def QEntry.d (q : QEntry) (r : BitVec 4) : Desc := look (fun _ => ⟨0, 0⟩) q.descs r.toNat
def QEntry.s (q : QEntry) (r : BitVec 6) : Nat := if r = 0 then 0 else (look (fun _ => (0 : Word)) q.sregs r.toNat).toNat

/-- The element cap of the entry. -/
def QEntry.cap (q : QEntry) : Nat :=
  match streamImm q.i with
  | some x => capOf x
  | none => 0

/-- The elements the entry processes (R80). -/
def QEntry.n (q : QEntry) : Nat := min ((q.d (countReg q.i)).len + 1) q.cap

/-- The byte address of plane `k` of a run, at row `r`; `k` is relative to PLANE (3.2). -/
def Desc.at (d : Desc) (k : Nat) (r : Int) : Nat := ofSigned 40 ((d.row r : Int) + k * (d.pstride * 64 : Nat))

/-- The bytes of `n` elements of a format. -/
def runBytes (fmt n : Nat) : Nat := ceilDiv (n * fmtBits fmt) 8

/-- The byte ranges (start, length) of one use of a run. -/
def useRanges (q : QEntry) (u : RunUse) : List (Nat × Nat) :=
  let d := q.d u.reg
  let n := match q.i with
    | .rs _ _ _ a .. => if u.reg = a then d.len + 1 else q.n
    | _ => if u.blocks then ceilDiv q.n 64 else q.n
  (if u.planes = [] then [0] else u.planes).flatMap (fun k => u.rows.map (fun r => (d.at k r, runBytes d.fmt n)))

/-- The bytes of the element runs an entry reads, and of the rows above and below (3.1). -/
def QEntry.runReads (q : QEntry) : List (Nat × Nat) :=
  match shape q.i with
  | some h => h.reads.flatMap (useRanges q)
  | none => []

/-- The bytes of the element run an entry writes. -/
def QEntry.runWrites (q : QEntry) : List (Nat × Nat) :=
  match shape q.i with
  | some h => match h.write with
    | some w => useRanges q w
    | none => []
  | none => []

/-- The records and contexts an instruction reads, and the table entries of tld: addresses that scalars give (R81). -/
def QEntry.recordSet (q : QEntry) : List (Nat × Nat) :=
  match q.i with
  | .mapc _ _ _ _ r .. | .k1d _ _ _ _ r _ | .k1v _ _ _ _ r _ | .k2d _ _ _ _ r _ | .cmat _ _ _ _ r
  | .cgat _ _ _ _ r => [(q.s r, 64)]
  | .rs _ _ _ _ r _ => [(q.s r, 1088)]
  | .lbl _ _ _ _ _ c _ | .feat _ _ _ _ c .. | .gput _ _ _ _ _ c | .gdec _ _ _ _ c => [(q.s c, 64)]
  | .tld _ _ _ a => [(q.s a, 8192)]
  | .fmrg _ _ _ a b => [(q.s a, 64), (q.s b, 64)]
  | _ => []

/-- The areas a context names: the feature records, the merge list, the byte run. -/
def QEntry.areaSet (q : QEntry) (m : List Host.Cell) : List (Nat × Nat) :=
  let w (r : BitVec 6) (o : Nat) : Nat := scrRead m (q.s r + o) 8
  let table (r : BitVec 6) : Nat × Nat := (bitsOf (w r 0) 0 22, 128 * bitsOf (w r 8) 0 24)
  let list (r : BitVec 6) : Nat × Nat := (bitsOf (w r 8) 0 22, 8 * bitsOf (w r 8) 32 16)
  match q.i with
  | .lbl _ _ _ _ _ c _ => [list c]
  | .feat _ _ _ _ c .. => [table c]
  | .fmrg _ _ _ a b => [list a, table b]
  | .gput _ _ _ _ _ c | .gdec _ _ _ _ c => [(bitsOf (w c 0) 0 22, bitsOf (w c 0) 32 22)]
  | _ => []

/-- The rows of a cgat's destination, as its record gives them. -/
def QEntry.cropRows (q : QEntry) (m : List Host.Cell) : List (Nat × Nat) :=
  match q.i with
  | .cgat _ _ d a r =>
    let c2 := scrRead m (q.s r + 16) 8
    (List.range (bitsOf c2 40 12 + 1)).map (fun i =>
      ((q.d d).row (i : Nat), runBytes (q.d a).fmt (min (bitsOf c2 20 20 + 1) q.cap)))
  | _ => []

/-- What an instruction writes beside its run: its context, the areas it fills, the bins of hput, the rows of a cgat. -/
def QEntry.sideWrites (q : QEntry) (m : List Host.Cell) : List (Nat × Nat) :=
  match q.i with
  | .lbl .. | .feat .. | .fmrg .. | .gput .. => q.recordSet ++ q.areaSet m
  | .gdec .. => q.recordSet
  | .hput _ _ a => [(q.s a, 16384)]
  | .cgat .. => q.cropRows m
  | _ => []

/-- The read set of an entry (3.1): its runs with the rows above and below, and what it reads through the addresses its
scalars and contexts give. That records and contexts, which are no element runs, belong to the sets is DEDUCED from R38
(log 139): without them the instant a copy ends would reach a result. -/
def QEntry.readSet (q : QEntry) (m : List Host.Cell) : List (Nat × Nat) := q.runReads ++ q.recordSet ++ q.areaSet m

/-- The write set of an entry. -/
def QEntry.writeSet (q : QEntry) (m : List Host.Cell) : List (Nat × Nat) := q.runWrites ++ q.sideWrites m

/-- Whether two byte ranges overlap. -/
def overlap (a b : Nat × Nat) : Bool :=
  decide (0 < a.2) && decide (0 < b.2) && decide (a.1 < b.1 + b.2) && decide (b.1 < a.1 + a.2)
def overlaps (as bs : List (Nat × Nat)) : Bool := as.any (fun a => bs.any (overlap a))

/-! ### The checks of R81 -/

/-- Two runs that are the same in ADDR, FMT and STRIDE. ADDR is compared as it is written: R81 does not say whether its bits
[2:0], which R79 reads as 0, count (DESIGN CHOICE, log 181). -/
def Desc.same (a b : Desc) : Bool := a.addr == b.addr && a.fmt == b.fmt && a.stride == b.stride

/-- A run has an accepted format and lies in scratch. -/
def useOk (q : QEntry) (u : RunUse) : Bool := u.fmts.contains (q.d u.reg).fmt && !(q.d u.reg).inHub

/-- The raw bits of element `k` of a bit string that starts at byte `base` (R79). -/
def elemRaw (m : List Host.Cell) (base bits k : Nat) : Nat :=
  bitsOf (readLE m (base + k * bits / 8) 5) (k * bits % 8) bits

/-- The value of an element: U16 and U8 unsigned, S16 signed, class 3 read as 2, a label's low 24 bits (Table 3.3). -/
def elemVal (fmt raw : Nat) : Int :=
  match fmt with
  | 1 => toSigned 16 raw
  | 7 => if raw = 3 then 2 else raw
  | 8 => (raw % 2 ^ 24 : Nat)
  | _ => raw

/-- Element `k` of row `r` of a run. -/
def Desc.el (d : Desc) (m : List Host.Cell) (r : Int) (k : Nat) : Int :=
  elemVal d.fmt (elemRaw m (d.row r) (fmtBits d.fmt) k)

/-- The bit a gput ends at, from bit `p` on: the BITS fields of the block words that still end within `cap` bits (R106). -/
def gputEnd (bw : Nat → Nat) (cap : Nat) : Nat → Nat → Nat → Nat
  | 0, _, p => p
  | f + 1, j, p => if cap < p + bitsOf (bw j) 16 12 then p else gputEnd bw cap f (j + 1) (p + bitsOf (bw j) 16 12)

def getBit (m : List Host.Cell) (base p : Nat) : Bool := elemRaw m base 1 p = 1

def getBits (m : List Host.Cell) (base p : Nat) : Nat → Nat
  | 0 => 0
  | n + 1 => (if getBit m base p then 1 else 0) + 2 * getBits m base (p + 1) n

/-- One-bits from bit `p`, at most `n`. -/
def onesAt (m : List Host.Cell) (base p : Nat) : Nat → Nat
  | 0 => 0
  | n + 1 => if getBit m base p then onesAt m base (p + 1) n + 1 else 0

/-- One code of gdec at bit `p`: its value and length, if it ends by `lim`. -/
def decodeOne (m : List Host.Cell) (base k p lim : Nat) : Option (Nat × Nat) :=
  let q := onesAt m base p 24
  let len := if q = 24 then 40 else q + 1 + k
  if lim < p + len then none
  else if q = 24 then some (getBits m base (p + 24) 16, 40) else some (q * 2 ^ k + getBits m base (p + q + 1) k, len)

/-- What gdec carries: the bit it reads next, the start of the block and its k, whether it failed, and the residues. -/
structure GdecSt where
  p     : Nat
  start : Nat
  k     : Nat
  err   : Bool
  out   : List Nat

/-- One element of gdec (R107). -/
def gdecStep (m : List Host.Cell) (base lim : Nat) (t : GdecSt) (x : Nat) : GdecSt :=
  if t.err then { t with out := t.out ++ [0] }
  else
    let t := if x % 64 = 0 then
        if lim < t.p + 4 then { t with start := t.p, err := true }
        else { t with start := t.p, k := getBits m base t.p 4, p := t.p + 4 }
      else t
    if t.err then { t with out := t.out ++ [0] }
    else match decodeOne m base t.k t.p lim with
      | some v => { t with p := t.p + v.2, out := t.out ++ [v.1] }
      | none => { t with err := true, out := t.out ++ [0] }

/-- What the context at `c` decodes to in `n` elements (R107). -/
def gdecRun (m : List Host.Cell) (c n : Nat) : GdecSt :=
  let c0 := scrRead m c 8
  let p0 := scrRead m (c + 8) 8
  (List.range n).foldl (gdecStep m (bitsOf c0 0 22) (bitsOf c0 32 22 * 8)) ⟨p0, p0, 0, false, []⟩

/-- The bytes of its byte run that a gput writes, or that a gdec reads. -/
def QEntry.codeBytes (q : QEntry) (m : List Host.Cell) : List (Nat × Nat) :=
  match q.i with
  | .gput _ _ _ _ b c =>
    let c0 := scrRead m (q.s c) 8
    let p0 := scrRead m (q.s c + 8) 8
    let p := gputEnd (fun j => ((q.d b).el m 0 j).toNat) (bitsOf c0 32 22 * 8) (ceilDiv q.n 64) 0 p0
    [(bitsOf c0 0 22 + p0 / 8, ceilDiv p 8 - p0 / 8)]
  | .gdec _ _ _ _ c =>
    let p0 := scrRead m (q.s c + 8) 8
    [(bitsOf (scrRead m (q.s c) 8) 0 22 + p0 / 8, ceilDiv (gdecRun m (q.s c) q.n).p 8 - p0 / 8)]
  | _ => []

/-- The write set overlaps no run that is read, but for those identical to the output of an instruction that writes in
place onto dA. gput writes the codes of its blocks, and gdec reads them. -/
def noHazard (q : QEntry) (m : List Host.Cell) (h : Shape) : Bool :=
  match h.write with
  | none => h.reads.all (fun u => !overlaps (q.codeBytes m) (useRanges q u))
  | some w =>
    let d := q.d w.reg
    let inPlace := h.inPlace && (match h.reads with | u :: _ => d.same (q.d u.reg) | [] => false)
    h.reads.all (fun u => (inPlace && d.same (q.d u.reg)) || !overlaps (useRanges q w) (useRanges q u)) &&
      !overlaps (useRanges q w) (q.codeBytes m)

/-- The address operands a scalar gives, that must be 64-byte aligned (R81). -/
def recordRegs : Instr → List (BitVec 6)
  | .mapc _ _ _ _ r .. | .k1d _ _ _ _ r _ | .k1v _ _ _ _ r _ | .k2d _ _ _ _ r _ | .rs _ _ _ _ r _ | .cmat _ _ _ _ r => [r]
  | .lbl _ _ _ _ _ c _ | .feat _ _ _ _ c .. | .gput _ _ _ _ _ c | .gdec _ _ _ _ c => [c]
  | .tld _ _ _ a | .hput _ _ a => [a]
  | .fmrg _ _ _ a b => [a, b]
  | _ => []

/-- The address fields inside a context (MLIST, FTAB, BASE) are aligned as their tables state (R81). -/
def ctxAligned (q : QEntry) (m : List Host.Cell) : Bool :=
  let w (r : BitVec 6) (o : Nat) : Nat := scrRead m (q.s r + o) 8
  match q.i with
  | .lbl _ _ _ _ _ c _ => decide (bitsOf (w c 8) 0 22 % 8 = 0)
  | .feat _ _ _ _ c _ _ => decide (bitsOf (w c 0) 0 22 % 128 = 0)
  | .gput _ _ _ _ _ c => decide (bitsOf (w c 0) 0 22 % 8 = 0)
  | .gdec _ _ _ _ c => decide (bitsOf (w c 0) 0 22 % 8 = 0)
  | .fmrg _ _ _ a b => decide (bitsOf (w a 8) 0 22 % 8 = 0) && decide (bitsOf (w b 0) 0 22 % 128 = 0)
  | _ => true

/-- morph writes the format it reads (3.5.5). -/
def sameFmt (q : QEntry) : Bool :=
  match q.i with
  | .morph _ _ d a _ _ => (q.d d).fmt == (q.d a).fmt
  | .cmat _ _ d a _ => decide ((q.d d).plane ≤ 1) && decide ((q.d a).plane ≤ 1)
  | _ => true

/-- The instruction has its effect: formats, places, alignment and overlap are as R81 (and R93) asks. -/
def QEntry.accepted (q : QEntry) (m : List Host.Cell) : Bool :=
  (recordRegs q.i).all (fun r => decide (q.s r % 64 = 0)) && ctxAligned q m && sameFmt q &&
  (idleUse q.i).all (useOk q) &&
  match shape q.i with
  | some h => h.reads.all (useOk q) && (match h.write with | some w => useOk q w | none => true) && noHazard q m h
  | none => true

/-! ### Elements -/

/-- The bounds of what a store must not reach: the constant region of the program (R47). -/
structure Limits where
  lo : Nat
  hi : Nat

/-- A byte may be stored: below 4 MiB and outside the constant region. -/
def Limits.open (l : Limits) (a : Nat) : Bool := decide (a < scratchSize) && !(decide (l.lo ≤ a) && decide (a < l.hi))

/-- Store one byte of scratch, if it may be. -/
def putByte (l : Limits) (m : List Host.Cell) (a v : Nat) : List Host.Cell :=
  if l.open a then put (fun _ => (0 : Byte)) m a (BitVec.ofNat 8 v) else m

/-- Store the low `n` bytes of a number. -/
def putBytes (l : Limits) (m : List Host.Cell) (a v : Nat) : Nat → List Host.Cell
  | 0 => m
  | n + 1 => putBytes l (putByte l m a v) (a + 1) (v / 256) n

/-- Store `bits` bits of a value as element `k`: bits [k × bits + bits - 1 : k × bits] of the bit string (R79). -/
def putElem (l : Limits) (m : List Host.Cell) (base bits k v : Nat) : List Host.Cell :=
  if bits % 8 = 0 then putBytes l m (base + k * (bits / 8)) v (bits / 8)
  else
    let a := base + k * bits / 8
    let o := k * bits % 8
    let n := ceilDiv (o + bits) 8
    let b := readLE m a n
    putBytes l m a (b - bitsOf b o bits * 2 ^ o + v % 2 ^ bits * 2 ^ o) n

/-- Store elements 0 to `n` - 1 of a run, as the values `f` gives, in two's complement of the format's width. -/
def putRun (l : Limits) (base fmt : Nat) (f : Nat → Int) : Nat → List Host.Cell → List Host.Cell
  | 0, m => m
  | n + 1, m => putElem l (putRun l base fmt f n m) base (fmtBits fmt) n (ofSigned (fmtBits fmt) (f n))

/-- Words of a range that a read finds at or above 4 MiB. -/
def violRead (r : Nat × Nat) : Nat :=
  ((List.range (ceilDiv r.2 8)).filter (fun k => decide (scratchSize ≤ r.1 + 8 * k))).length

/-- Words of a range that a write finds at or above 4 MiB or in the constant region. -/
def violWrite (l : Limits) (r : Nat × Nat) : Nat :=
  ((List.range (ceilDiv r.2 8)).filter (fun k => !l.open (r.1 + 8 * k))).length

/-- The elements of tile 0 of a width-2 instruction (R73). -/
def tile0 (g n : Nat) : Nat := g * ceilDiv (ceilDiv n g) 2

/-- What a tile instruction leaves: the engine, what it adds to FMT_VIOL and DPR_MISS, and the words of contexts, records,
lists and byte runs it read and wrote beside its runs, as byte ranges (R47). -/
structure TileOut where
  x   : Engine
  fmt : Nat := 0
  dpr : Nat := 0
  rd  : List (Nat × Nat) := []
  wr  : List (Nat × Nat) := []

end Sys2Proof.Machine
end

