-- ==== Sys2Proof/Machine/HubMem.lean ====
section
/-! DEFINITION. The hub as memory: which addresses are in service, the channel of an address, what a read of a codeword
in error delivers, and the one read and the one write of a range that every source uses (11.1 to 11.3, R335, R336). -/

namespace Sys2Proof.Machine

/-- The module's mode (R428). -/
def State.mode (s : State) : Nat := s.rf Rf.GLB_STATUS_MODE

/-- The modes that are active: SERVICE, TEACH, INSPECT and STREAM (R212, R328). -/
def State.active (s : State) : Bool := decide (1 ≤ s.mode) && decide (s.mode ≤ 4)

/-- The hub serves requests: powered, in a mode that is active, and not training (R311, R322, R323). -/
def State.hubOpen (s : State) : Bool := s.hubU.on && s.active && !s.bit Rf.HUB_STAT_TRAINING

/-- 1 GiB, and where the user region begins (Table 11.1). -/
def gib : Nat := 0x40000000
def userBase : Nat := 0x20000000

/-- A relocation is in progress or done: the top 2 GiB have left the capacity in service (R336). -/
def State.relocating (s : State) : Bool :=
  s.bit Rf.HUB_STAT_RETIRED || (s.bit Rf.HUB_MIGSTAT_ACTIVE && s.bit Rf.HUB_MIGSTAT_RELOC)

/-- The capacity in service in GiB (R309). -/
def State.capGib (s : State) : Nat :=
  if s.relocating then 94
  else if s.rf Rf.HUB_STAT_SPARES = 0 ∧ s.rf Rf.HUB_CFG_RESV = 1 then 94 else 96

/-- The capacity in service in bytes. -/
def State.capacity (s : State) : Nat := s.capGib * gib

/-! ### Interleave (R312, R313, R336) -/

/-- The rotation of a block. -/
def hubH (q : Nat) : Nat := ((q % 256) ^^^ (q / 256 % 256) ^^^ (q / 65536 % 128)) % 48

/-- The slot of a granule, and its granule on that slot. -/
def slotOf (g : Nat) : Nat := (g % 48 + hubH (g / 48)) % 48

/-- The position of slot s's granule in block q. -/
def posOf (s q : Nat) : Nat := (s + 48 - hubH q) % 48

/-- The block in which the top 2 GiB begin, and the granule it begins at. -/
def topBlock : Nat := 8213845
def topGranule : Nat := 48 * topBlock + 16

/-- The granule in the top 2 GiB that holds granule `g` of the retired slot `s`. -/
def relocated (s g : Nat) : Nat :=
  let j := g / 48
  let p := posOf s topBlock
  let n0 := if 16 ≤ p then 31 else 32
  if j < n0 then
    let k := 16 + j
    48 * topBlock + (if 16 ≤ p ∧ p ≤ k then k + 1 else k)
  else
    let j := j - n0
    let q := topBlock + 1 + j / 47
    let k := j % 47
    48 * q + (if k < posOf s q then k else k + 1)

/-- The granule a hub address is served at: substituted once its slot is retired. -/
def State.granule (s : State) (a : Nat) : Nat :=
  let g := a / 256
  if s.bit Rf.HUB_STAT_RETIRED ∧ slotOf g = s.rf Rf.HUB_STAT_RSLOT ∧ g < topGranule then
    relocated (s.rf Rf.HUB_STAT_RSLOT) g
  else g

/-- The physical channel that serves a hub address. -/
def State.channelOf (s : State) (a : Nat) : Nat := s.rf (Rf.HUB_MAP_PHYS (slotOf (s.granule a)))

/-- Bank, row and column granule of a local granule (R313). -/
def bankOf (q : Nat) : Nat := (q / 8 % 16) ^^^ (q / 2 ^ 19 % 16)
def rowOf (q : Nat) : Nat := q / 128
def colOf (q : Nat) : Nat := q % 8

/-- The bank that serves a hub address, numbered over all channels. -/
def State.bankAt (s : State) (a : Nat) : Nat := 16 * s.channelOf a + bankOf (s.granule a / 48)

/-- The place of a request at a hub address: its bank over all channels, and the request. -/
def State.placeOf (s : State) (wr : Bool) (cls a : Nat) : Nat × BankReq :=
  let q := s.granule a / 48
  (16 * s.channelOf a + bankOf q, { wr := wr, row := rowOf q, col := colOf q, cls := cls })

/-- The second place of a write to an address whose slot is copied, below the copy pointer (R335, R336). -/
def State.copyPlace (s : State) (cls a : Nat) : Option (Nat × BankReq) :=
  let g := s.granule a
  let slot := s.rf Rf.HUB_MIGSTAT_SLOT
  let place (c q : Nat) : Nat × BankReq := (16 * c + bankOf q, { wr := true, row := rowOf q, col := colOf q, cls := cls })
  if s.bit Rf.HUB_MIGSTAT_ACTIVE ∧ slotOf g = slot ∧ g / 48 < s.rf Rf.HUB_MIGSTAT_POINTER then
    if !s.bit Rf.HUB_MIGSTAT_RELOC then some (place (s.rf Rf.HUB_MIGSTAT_TARGET) (g / 48))
    else if g < topGranule then
      some (place (s.rf (Rf.HUB_MAP_PHYS (slotOf (relocated slot g)))) (relocated slot g / 48))
    else none
  else none

/-! ### The banks (R318, R319, R325) -/

/-- The shares of the classes: the weights of TC1 and TC2, and the least share of TC3 in 1/256 (HUB_ARB). -/
structure Arb where
  w1 : Nat
  w2 : Nat
  m3 : Nat

def State.arb (s : State) : Arb := ⟨s.rf Rf.HUB_ARB_W1, s.rf Rf.HUB_ARB_W2, s.rf Rf.HUB_ARB_TC3_MIN⟩

/-- In-order mode: a read was accepted behind a write of its row that has not retired. -/
def BankSt.inOrder (b : BankSt) : Bool := b.queue.any (·.seen)

/-- A request may be served next: none of its granule was accepted before it, where one of the two is a write. -/
def BankSt.mayGo (b : BankSt) (i : Nat) : Bool :=
  match b.queue[i]? with
  | some q => (b.queue.take i).all (fun r => !((r.wr || q.wr) && r.row == q.row && r.col == q.col))
  | none => false

/-- The places in the queue of the requests of a class that may be served next. -/
def BankSt.ready (b : BankSt) (c : Nat) : List Nat :=
  (List.range b.queue.length).filter (fun i => b.mayGo i && (b.queue[i]?).any (fun q => q.cls == c))

/-- The class that is served next (R325): TC0; TC3 where another request before it would take it below its share; then TC1 and
TC2 in their turns; then TC3. The channel's shares are kept in each bank (DESIGN CHOICE, log 177). -/
def BankSt.turnOf (a : Arb) (b : BankSt) : Nat :=
  let has (c : Nat) : Bool := !(b.ready c).isEmpty
  if has 0 then 0
  else if has 3 && decide (256 < a.m3 * (b.since3 + 2)) then 3
  else if has 1 && (decide (b.turn < a.w1) || !has 2) then 1
  else if has 2 then 2
  else 3

/-- The request that is served next: the first accepted in in-order mode; else, in the class whose turn it is, the first one to
the open row, and where there is none the first accepted (R318, R319). -/
def BankSt.pick (a : Arb) (b : BankSt) : Nat :=
  if b.inOrder then 0
  else
    let l := b.ready (b.turnOf a)
    (l.find? (fun i => decide ((b.queue[i]?).map (·.row) = b.row))).getD (l.headD 0)

/-- The next request is served: its row is open, and the bank is free again 8 ns later (R318, R319; DEDUCED, log 164). -/
def BankSt.serve (a : Arb) (b : BankSt) : BankSt :=
  match b.queue[b.pick a]? with
  | some q =>
    let rest := b.queue.eraseIdx (b.pick a)
    let both := !(b.ready 1).isEmpty && !(b.ready 2).isEmpty && (q.cls == 1 || q.cls == 2)
    { row := some q.row, queue := rest, free := b.free + 10,
      turn := if both then (b.turn + 1) % (a.w1 + a.w2) else b.turn,
      since3 := if q.cls == 3 || !rest.any (·.cls == 3) then 0 else b.since3 + 1 }
  | none => b

/-- Every request that has retired by a count is served. -/
def BankSt.settle (a : Arb) (now : Nat) : Nat → BankSt → BankSt
  | 0, b => b
  | n + 1, b => if b.queue.isEmpty ∨ now < b.free + 10 then b else BankSt.settle a now n (b.serve a)

/-- Requests are served until the queue has room for one more write: it holds at most 32. -/
def BankSt.makeRoom (a : Arb) : Nat → BankSt → BankSt
  | 0, b => b
  | n + 1, b => if b.queue.countP (·.wr) < 32 then b else BankSt.makeRoom a n (b.serve a)

/-- The bank accepts a request. -/
def BankSt.accept (a : Arb) (b : BankSt) (now : Nat) (r : BankReq) : BankSt :=
  let b := BankSt.settle a now b.queue.length b
  let b := if b.queue.isEmpty then { b with free := max b.free now } else b
  let b := if r.wr then BankSt.makeRoom a b.queue.length b else b
  let q := if r.wr then b.queue else b.queue.map (fun x => if x.wr ∧ x.row = r.row then { x with seen := true } else x)
  { b with queue := q ++ [r] }

/-! ### Tags (R326) -/

/-- The class of a request that is held. -/
def heldClass : Instr → Nat
  | .hubTransaction _ cls _ _ => cls.val
  | .constReload _ => 3
  | _ => 2

/-- A tag is free for a class where `n` are in use of each: 256 of the 4,096 are kept for TC0 and 64 for TC3; the rest are
shared. -/
def tagLeft (n : Nat → Nat) (cls : Nat) : Bool :=
  let shared := (n 0 - 256) + n 1 + n 2 + (n 3 - 64)
  decide (shared < 3776) || (decide (cls = 0) && decide (n 0 < 256)) || (decide (cls = 3) && decide (n 3 < 64))

/-- The tags of a class in use by requests that are held or that their channel does not let in yet. -/
def HubUnit.tagsHeld (h : HubUnit) (c : Nat) : Nat :=
  h.held.countP (fun i => heldClass i == c) + h.barred.countP (fun r => r.2.cls == c)

/-- A tag is free for a class. -/
def State.tagFree (s : State) (cls : Nat) : Bool := tagLeft s.hubU.tagsHeld cls

/-- The requests of a class in the banks' queues, which each have a tag. -/
def tagsIn (l : List (Nat × BankSt)) (c : Nat) : Nat := (l.map (fun e => e.2.queue.countP (fun r => r.cls == c))).sum

/-- A source that finds no tag of its class waits: the banks serve requests until one is given back. -/
def makeTag (a : Arb) (n : Nat → Nat) (cls : Nat) : Nat → List (Nat × BankSt) → List (Nat × BankSt)
  | 0, l => l
  | k + 1, l =>
    if tagLeft (fun c => n c + tagsIn l c) cls then l else makeTag a n cls k (l.map (fun e => (e.1, e.2.serve a)))

/-- The banks accept requests, one after another, with `n` tags of each class in use elsewhere. -/
def acceptAll (a : Arb) (now : Nat) (n : Nat → Nat) (l : List (Nat × BankSt)) (rs : List (Nat × BankReq)) :
    List (Nat × BankSt) :=
  rs.foldl (fun l r =>
    let l := l.map (fun e => (e.1, BankSt.settle a now e.2.queue.length e.2))
    let l := makeTag a n r.2.cls (l.map (fun e => e.2.queue.length)).sum l
    insert1 l r.1 (BankSt.accept a (look (fun _ => {}) l r.1) now r.2)) l

/-! ### Requests (R321, R324, R325, R330) -/

/-- The sources of an access that are no endpoint of Table 12.1: the host through BAR2, and the management port. -/
def srcHost : Nat := 0xFF
def srcMgt : Nat := 0xFE

/-- The slot an event of a channel names: the one it serves, and 0xFF for a channel that serves none (R339). -/
def State.slotName (s : State) (c : Nat) : Nat :=
  if s.rf (Rf.HUB_CH_STAT_ROLE c) = 0 ∨ s.rf (Rf.HUB_CH_STAT_ROLE c) = 2 then s.rf (Rf.HUB_CH_STAT_SLOT c) else 0xFF

/-- The class of a source's accesses (Table 11.2), given by its endpoint: the seam unit TC0; crops, output, DMA and the host
TC2; the shadow logic and the management subsystem TC3; every other section unit TC1. The fetches of late groups and the
look-back, which are TC2, name their class themselves (DEDUCED, log 137). -/
def hubClass (own : Bool) (src : Nat) : Nat :=
  if own ∨ src = 122 ∨ src = srcMgt then 3
  else if src = 112 ∨ src = 113 ∨ src = 115 then 0
  else if (116 ≤ src ∧ src ≤ 121) ∨ src = srcHost then 2
  else 1

/-- The tokens missing from a channel's TC0 bucket of 64. -/
def State.tc0Spent (s : State) (c : Nat) : Nat := look (fun _ => 0) s.hubU.spent c

/-- A TC0 transaction waits for a token: counted, with event 0x700D at most once a millisecond (R325). -/
def State.tokenWait (s : State) (c : Nat) : State :=
  let s := s.bump Rf.HUB_TC0_TOKWAIT
  if s.due (stampKey 0x700D 0) (countsOfUs 1000) then
    (s.stamp (stampKey 0x700D 0)).raise 0x700D (c + 256 * s.slotName c) else s

/-- A channel is stopping admission for a forced slice. -/
def State.rtForced (s : State) (c : Nat) : Bool :=
  match s.hubU.pass with
  | some p => p.ch == c && p.forced
  | none => false

/-- A channel has a request: it leaves self-refresh. -/
def State.wake (s : State) (c : Nat) : State :=
  let s := if s.bit (Rf.HUB_CH_STAT_SR c) then s.setrf (Rf.HUB_CH_STAT_SR c) 0 else s
  { s with hubU := { s.hubU with lastReq := insert1 s.hubU.lastReq c s.count } }

/-- The channels of requests, each once. -/
def channelsOf (rs : List (Nat × BankReq)) : List Nat := (rs.map (fun r => r.1 / 16)).eraseDups

/-- The traffic of a channel with one more transaction of 128 bytes in a millisecond (HUB_CH_LOAD). -/
def ChLoad.add (x : ChLoad) (ms : Nat) (wr : Bool) : ChLoad :=
  let x := if x.ms = ms then x
    else { ms := ms, lastRd := if x.ms + 1 = ms then x.rd else 0, lastWr := if x.ms + 1 = ms then x.wr else 0 }
  if wr then { x with wr := x.wr + 128 } else { x with rd := x.rd + 128 }

/-- The banks accept requests that their channels let in. -/
def State.admitReqs (s : State) (rs : List (Nat × BankReq)) : State :=
  let h := s.hubU
  let ms := s.count / countsOfUs 1000
  { s with hubU := { h with
      banks := acceptAll s.arb s.count h.tagsHeld h.banks rs,
      load := rs.foldl (fun l r => insert1 l (r.1 / 16) ((look (fun _ => ({} : ChLoad)) l (r.1 / 16)).add ms r.2.wr)) h.load } }

/-- The request of a TC0 transaction takes a token, or is kept until its channel gains the next one. -/
def State.requestTc0 (s : State) (r : Nat × BankReq) : State :=
  let c := r.1 / 16
  let s := { s with hubU := { s.hubU with tc0Seen := true } }
  if 64 ≤ s.tc0Spent c then { s with hubU := { s.hubU with barred := s.hubU.barred ++ [r] } }.tokenWait c
  else { s with hubU := { s.hubU with spent := put (fun _ => 0) s.hubU.spent c (s.tc0Spent c + 1) } }.admitReqs [r]

/-- Requests of a class reach their channels: one of TC0 needs a token, and others are kept while their channel stops admission
for a forced slice. -/
def State.requests (s : State) (cls : Nat) (rs : List (Nat × BankReq)) : State :=
  if cls = 0 then rs.foldl State.requestTc0 s
  else
    let no := rs.filter (fun r => s.rtForced (r.1 / 16))
    { s with hubU := { s.hubU with barred := s.hubU.barred ++ no } }.admitReqs (rs.filter (fun r => !s.rtForced (r.1 / 16)))

/-- The requests that were kept of a channel are admitted: a forced slice has run. -/
def State.unbar (s : State) (c : Nat) : State :=
  let mine (r : Nat × BankReq) : Bool := decide (r.1 / 16 = c) && decide (r.2.cls ≠ 0)
  { s with hubU := { s.hubU with barred := s.hubU.barred.filter (fun r => !mine r) } }.admitReqs (s.hubU.barred.filter mine)

/-- The transactions at hub addresses of 128 bytes: their channels, and those a copy is written to, leave self-refresh, and have
the requests. The second write of a copied slot takes no token of its own. -/
def State.linesAt (s : State) (wr : Bool) (cls : Nat) (ls : List Nat) : State :=
  let rs := ls.map (s.placeOf wr cls)
  let cs := if wr then ls.filterMap (s.copyPlace cls) else []
  let t := (channelsOf (rs ++ cs)).foldl State.wake s
  let t := t.requests cls rs
  if cs.isEmpty then t else t.admitReqs cs

/-- The corrected write-backs that are queued are done: each rewrites its codeword whole (R315;
DEDUCED, log 165). -/
def State.writeBacks (s : State) : State :=
  if s.hubU.wback.isEmpty then s
  else
    let ks := s.hubU.wback
    let errs := s.hubU.errs.filter (fun e => !ks.contains e.1)
    { s with hubU := { s.hubU with wback := [], errs := errs } }.linesAt true 3 (ks.map (fun k => 128 * (k / 8)))

/-- A range in the list of disjoint rising intervals that covers every range added. -/
def addSpan (lo hi : Nat) : List (Nat × Nat) → List (Nat × Nat)
  | [] => [(lo, hi)]
  | (a, b) :: l =>
    if hi < a then (lo, hi) :: (a, b) :: l
    else if b < lo then (a, b) :: addSpan lo hi l
    else addSpan (min lo a) (max hi b) l

/-- The addresses of the transactions that ranges need, each once: they are of 128 bytes and aligned. Of more than 32,768 in one
step the last ones count (log 166). -/
def linesOf (rs : List (Nat × Nat)) : List Nat :=
  let spans := rs.foldl (fun l r => if r.2 = 0 then l else addSpan (r.1 / 128) ((r.1 + r.2 - 1) / 128 + 1) l) []
  spans.flatMap (fun e =>
    let k := min (e.2 - e.1) 32768
    (List.range k).map (fun i => 128 * (e.2 - k + i)))

/-- The requests of an access to ranges as one transfer, behind the write-backs that are queued. -/
def State.touchAll (s : State) (wr : Bool) (cls : Nat) (rs : List (Nat × Nat)) : State :=
  let s := s.writeBacks
  if rs.all (fun r => r.2 == 0) then s else s.linesAt wr cls (linesOf rs)

/-- The requests of an access of `n` bytes. -/
def State.touch (s : State) (wr : Bool) (cls a n : Nat) : State := s.touchAll wr cls [(a, n)]

/-! ### Migration and retirement: how one begins (R335, R336) -/

/-- The lowest-numbered channel in standby: role 1. -/
def State.standbyChannel (s : State) : Option Nat :=
  (List.range 50).find? (fun c => s.rf (Rf.HUB_CH_STAT_ROLE c) = 1)

/-- A hub event names the physical channel and the slot (R339), 0xFF for none. -/
def hubEv (c slot : Nat) : Nat := c + 256 * slot

/-- The migration of a slot to a spare, or its retirement where no spare remains; the second retirement, and one that
must wait for the cadence to stop, are refused with event 0x7008. -/
def State.startMigration (s : State) (slot : Nat) : State :=
  let src := s.rf (Rf.HUB_MAP_PHYS slot)
  match s.standbyChannel with
  | some c =>
    let s := (s.setrf Rf.HUB_MIGSTAT_ACTIVE 1).setrf Rf.HUB_MIGSTAT_RELOC 0
    let s := (s.setrf Rf.HUB_MIGSTAT_SLOT slot).setrf Rf.HUB_MIGSTAT_TARGET c
    let s := (s.setrf Rf.HUB_MIGSTAT_POINTER 0).setrf (Rf.HUB_CH_STAT_ROLE c) 3
    let s := (s.setrf (Rf.HUB_CH_STAT_ROLE src) 2).setrf Rf.HUB_STAT_SPARES (s.rf Rf.HUB_STAT_SPARES - 1)
    s.raise 0x7004 (hubEv src slot) c
  | none =>
    if s.bit Rf.HUB_STAT_RETIRED then s.raise 0x7008 (hubEv src slot) 2
    else if s.hubU.deferred.isSome then s.raise 0x7008 (hubEv src slot) 2
    else if s.rf Rf.HUB_CFG_RESV = 0 ∧ s.rf Rf.CAD_GEAR_STATE ≠ 0 then
      ({ s with hubU := { s.hubU with deferred := some slot } }.setrf Rf.HUB_STAT_DEFER 1).raise 0x7008 (hubEv src slot) 1
    else
      let s := (s.setrf Rf.HUB_MIGSTAT_ACTIVE 1).setrf Rf.HUB_MIGSTAT_RELOC 1
      let s := (s.setrf Rf.HUB_MIGSTAT_SLOT slot).setrf Rf.HUB_MIGSTAT_TARGET 0
      let s := (s.setrf Rf.HUB_MIGSTAT_POINTER 0).setrf (Rf.HUB_CH_STAT_ROLE src) 2
      s.raise 0x7006 (hubEv src slot)

/-- A trigger for a slot: it starts at once, or is queued in slot order while one runs. -/
def State.triggerMigration (s : State) (slot : Nat) : State :=
  if s.bit Rf.HUB_MIGSTAT_ACTIVE then
    if s.rf Rf.HUB_MIGSTAT_SLOT = slot then s
    else
      let q := insUp' slot s.hubU.migQ
      { s with hubU := { s.hubU with migQ := q } }.setrf Rf.HUB_MIGSTAT_QUEUED (2 ^ q.length - 1)
  else s.startMigration slot
where
  /-- Insert into a rising list without repeats. -/
  insUp' (v : Nat) : List Nat → List Nat
    | [] => [v]
    | w :: ws => if v < w then v :: w :: ws else if v = w then w :: ws else w :: insUp' v ws

/-! ### Codewords in error (R314 to R316) -/

/-- Whether the codeword at `16 * k` overlaps the range. -/
def cwIn (a n k : Nat) : Bool := decide (16 * k < a + n) && decide (a < 16 * k + 16)

/-- One corrected codeword: counted, unless a test that does not count injected its error (R439), the window's
threshold checked, which is crossed at most once in a window, and its write-back queued. -/
def State.corrected (s : State) (k : Nat) : State :=
  let c := s.channelOf (16 * k)
  let counts := !s.hubU.quiet.contains k
  let s := { s with hubU := { s.hubU with wback := s.hubU.wback ++ [k], quiet := s.hubU.quiet.filter (· ≠ k) } }
  if counts then
    let s := s.bump (Rf.HUB_CH_ERR_CORR c)
    let w := look (fun _ => 0) s.hubU.win c + 1
    let s := { s with hubU := { s.hubU with win := put (fun _ => 0) s.hubU.win c w } }
    let slot := s.rf (Rf.HUB_CH_STAT_SLOT c)
    if s.rf Rf.HUB_ERR_CORR_TH < w ∧ s.rf (Rf.HUB_CH_STAT_ROLE c) = 0 ∧ c ∉ s.hubU.crossed then
      ({ s with hubU := { s.hubU with crossed := c :: s.hubU.crossed } }.raise 0x7001 (hubEv c slot) w).triggerMigration slot
    else s
  else s

/-- One uncorrectable codeword: counted, and event 0x7002 with its address. -/
def State.uncorrectable (s : State) (k : Nat) : State :=
  let c := s.channelOf (16 * k)
  (s.bump (Rf.HUB_CH_ERR_UNCORR c)).raise 0x7002 (hubEv c (s.slotName c)) (16 * k)

/-- Codewords in error as a read finds them. -/
def State.noteErrs (s : State) (es : List (Nat × List (Nat × Nat))) : State :=
  es.foldl (fun s e => if e.2.length = 1 then s.corrected e.1 else s.uncorrectable e.1) s

/-- A read of a range in a class: its requests, and what its codewords count and raise. -/
def State.noteRead (s : State) (cls a n : Nat) : State :=
  let s := s.touch false cls a n
  s.noteErrs (s.hubU.errs.filter (fun e => cwIn a n e.1))

/-- One transfer that covers several ranges: what they share is read once (R26, R327), and each codeword counts and raises
once. -/
def State.noteReads (s : State) (cls : Nat) (rs : List (Nat × Nat)) : State :=
  let s := s.touchAll false cls rs
  s.noteErrs (s.hubU.errs.filter (fun e => rs.any (fun r => cwIn r.1 r.2 e.1)))

/-- The bytes a read of a range delivers on the die: uncorrectable codewords as zeros, and what lies at or above the
capacity in service. -/
def State.hubView (s : State) (a n : Nat) : List Host.Cell :=
  let cap := s.capacity
  s.hub.filter (fun e => decide (a ≤ e.1) && decide (e.1 < a + n) && decide (e.1 < cap) &&
    !s.hubU.errs.any (fun k => k.1 == e.1 / 16 && decide (2 ≤ k.2.length)))

/-- A refused access: counted, its address recorded, and event 0x700A at most once a millisecond, with the address and
the source (R310, R339); a source is given by its endpoint number. -/
def State.hubRefused (s : State) (src a : Nat) : State :=
  let s := (s.bump Rf.HUB_ACCERR_COUNT).setrf Rf.HUB_ACCERR_ADDR a
  if s.due (stampKey 0x700A 0) (countsOfUs 1000) then (s.stamp (stampKey 0x700A 0)).raise 0x700A (hubEv 0xFF 0xFF) a src else s

/-- What a read by source `u` of several ranges as one transfer counts and raises: each codeword once, and one refusal where
a part lies at or above the capacity. -/
def State.transfer (s : State) (cls u : Nat) (rs : List (Nat × Nat)) : State :=
  let t := s.noteReads cls (rs.map (fun r => (r.1, min r.2 (s.capacity - r.1))))
  match rs.find? (fun r => decide (s.capacity < r.1 + r.2)) with
  | some r => t.hubRefused u (max r.1 s.capacity)
  | none => t

/-- Read `n` bytes from `a` in a class: what a part at or above the capacity in service delivers is zeros. -/
def State.readAs (s : State) (cls src a n : Nat) : State × List Host.Cell :=
  let m := min n (s.capacity - a)
  let s' := s.noteRead cls a m
  (if m < n then s'.hubRefused src (max a s.capacity) else s', s.hubView a n)

/-- Read in the source's own class. -/
def State.hubRead (s : State) (src a n : Nat) : State × List Host.Cell := s.readAs (hubClass false src) src a n

/-- Write `n` bytes at `a` in a class, given as the cells that are not 0. Only the module's own shadow logic writes below the user
region; a part at or above the capacity in service is dropped (R310). A codeword is rewritten whole where it is covered
whole or was correctable, and a write-back of it that is queued is skipped (R315). -/
def State.writeAs (s : State) (own : Bool) (cls src a n : Nat) (cells : List Host.Cell) : State :=
  let lo := if own then a else max a userBase
  let hi := min (a + n) s.capacity
  let refused := decide (lo ≠ a ∧ 0 < n) || decide (hi < a + n)
  let s' := if lo < hi then
      let s := { s with hubU := { s.hubU with wback := s.hubU.wback.filter (fun k => !cwIn lo (hi - lo) k) } }
      let s := s.touch true cls lo (hi - lo)
      { s with hub := replaceRange (fun _ => 0) s.hub lo (hi - lo) cells,
               hubU := { s.hubU with errs := s.hubU.errs.filter (fun e =>
                 !(cwIn lo (hi - lo) e.1 && (decide (e.2.length < 2) ||
                   (decide (lo ≤ 16 * e.1) && decide (16 * e.1 + 16 ≤ hi))))) } }
    else s
  if refused then s'.hubRefused src (if lo ≠ a then a else max a s.capacity) else s'

/-- Write in the source's own class. -/
def State.hubWrite (s : State) (own : Bool) (src a n : Nat) (cells : List Host.Cell) : State :=
  s.writeAs own (hubClass own src) src a n cells

/-! ### Requests that wait (R322, R326) -/

/-- A request is held with a tag of its class, or waits for one. -/
def State.holdTx (s : State) (i : Instr) : State :=
  if s.tagFree (heldClass i) then { s with hubU := { s.hubU with held := s.hubU.held ++ [i] } }
  else { s with hubU := { s.hubU with waiting := s.hubU.waiting ++ [i] } }

/-- Cells moved so that address `a` becomes `b`. -/
def moveCells (l : List Host.Cell) (a b : Nat) : List Host.Cell := l.map (fun e => (e.1 - a + b, e.2))

/-- The `n` bytes of a number as cells from `a`, those that are not 0. -/
def cellsOf (a v : Nat) : Nat → List Host.Cell
  | 0 => []
  | n + 1 => if v % 256 = 0 then cellsOf (a + 1) (v / 256) n
             else (a, BitVec.ofNat 8 v) :: cellsOf (a + 1) (v / 256) n

/-! ### Scratch and hub -/

/-- The bounds of the constant region of an engine's program. -/
def State.limits (s : State) (e : Nat) : Limits := ⟨s.constBase e, s.constBase e + s.constSize e⟩

/-- Cells stored over `n` bytes of scratch from `b`, where a store may reach. -/
def storeCells (l : Limits) (m : List Host.Cell) (b n : Nat) (cells : List Host.Cell) : List Host.Cell :=
  cells.foldr (fun e m => if l.open e.1 then put (fun _ => 0) m e.1 e.2 else m)
    (m.filter (fun e => !(decide (b ≤ e.1) && decide (e.1 < b + n) && l.open e.1)))

/-- The codewords of scratch that a range covers whole are written anew: they hold no error. -/
def Engine.rewritten (x : Engine) (b n : Nat) : Engine :=
  if x.errs.isEmpty then x
  else { x with errs := x.errs.filter (fun k => !(decide (k.1 / 2 ^ 32 = 2) && decide (b ≤ k.1 % 2 ^ 32 * 16) &&
    decide (k.1 % 2 ^ 32 * 16 + 16 ≤ b + n))) }

/-- One row of a hub-to-scratch copy. -/
def State.rowIn (s : State) (e a b n : Nat) : State :=
  let r := s.hubRead (s.unitOf e) a n
  let x := r.1.eng e
  let l := s.limits e
  (r.1.setEng e ({ x with scratch := storeCells l x.scratch b n (moveCells r.2 a b) }.rewritten b n)).bump
    (Rf.ENG_CLAMP_SCR_VIOL e) (violWrite l (b, n))

/-- One row of a scratch-to-hub copy. -/
def State.rowOut (s : State) (e a b n : Nat) : State :=
  let m := (s.eng e).scratch.filter (fun c => decide (a ≤ c.1) && decide (c.1 < a + n))
  (s.hubWrite false (s.unitOf e) b n (moveCells m a b)).bump (Rf.ENG_CLAMP_SCR_VIOL e) (violRead (a, n))

end Sys2Proof.Machine
end

