-- ==== Sys2Proof/Machine/ChainOps.lean ====
section
/-! DEFINITION. The chains: pushing, committing, rewinding and popping for every endpoint, credit, the notice, and the
MSI-X signal (12.1 to 12.4). -/

namespace Sys2Proof.Machine

/-! ### MSI-X (Table 10.8; PCI Express rules) -/

/-- Signal a vector: a 4-byte write of DATA to the address in host memory, or its pending bit while the vector is
masked; nothing while the link is down. There are 2,048 vectors. -/
def State.signal (s : State) (v : Nat) : State :=
  let v := v % 2048
  if s.bit Rf.GLB_STATUS_LINK then
    if s.bit (Rf.MSIX_HI_MASK v) then
      let f := Rf.MSIX_PBA_PEND (v / 64)
      s.setrf f (s.rf f ||| 2 ^ (v % 64))
    else { s with host := writeLE s.host (s.rf (Rf.MSIX_LO_ADDR v)) (s.rf (Rf.MSIX_HI_DATA v)) 4 }
  else s

/-! ### A chain's configuration (R340) -/

/-- Whether an endpoint is a producer of the chain. -/
def State.isProducer (s : State) (c ep : Nat) : Bool :=
  if ep < 64 then (s.rf (Rf.CHN_PROD0_PROD c)).testBit ep else (s.rf (Rf.CHN_PROD1_PROD c)).testBit (ep - 64)

def State.chainEn (s : State) (c : Nat) : Bool := decide (c < 256) && s.bit (Rf.CHN_CFG_EN c)
def State.share (s : State) (c : Nat) : Nat := s.rf (Rf.CHN_CFG_SHARE c)

/-- The words that occupy a producer's lane: pushed and not given back (R345). -/
def Chain.occupied (x : Chain) (ep : Nat) : Nat :=
  (x.items.filter (fun i => i.ep == ep)).length + (look (fun _ => ({} : OpenPkt)) x.opens ep).n

/-- The least LIMIT of the test starvations in effect on a chain (R435). -/
def State.credLimit (s : State) (c free : Nat) : Nat :=
  (List.range 4).foldl (fun n i =>
    if s.bit (Rf.TST_CRED_EN i) && s.rf (Rf.TST_CRED_CHAIN i) == c then min n (s.rf (Rf.TST_CRED_LIMIT i)) else n) free

/-- The usable free words of a producer's lane. -/
def State.laneFree (s : State) (c ep : Nat) : Nat := s.credLimit c (s.share c - (s.chain c).occupied ep)

/-- The packets and words committed and not popped (R347). -/
def Chain.words (x : Chain) : Nat := (x.items.drop x.gone).length
def Chain.packets (x : Chain) : Nat := ((x.items.drop x.gone).filter (·.last)).length

/-- The idle item of a chain (R349). -/
def idleItem (c : Nat) : Word := BitVec.ofNat 64 (0x1D1E000000000000 + c)

/-- A refused push or pop (R351): counted where the chain exists, and event 0x8009 with the chain and the endpoint. -/
def State.chainRefused (s : State) (c ep : Nat) : State :=
  (if c < 256 then s.bump (Rf.CHN_STAT_REFUSED c) else s).raise 0x8009 c ep

/-! ### The words of a lane in the hub (R340) -/

/-- The class of a chain's storage. -/
def State.chainClass (s : State) (c : Nat) : Nat := s.rf (Rf.CHN_CFG_CLASS c)

/-- The hub address of a producer's lane: the producers are counted from endpoint 0. -/
def State.chainLaneBase (s : State) (c ep : Nat) : Nat :=
  s.rf (Rf.CHN_BASE_BASE c) + (List.range ep).countP (fun e => s.isProducer c e) * s.share c * 8

/-- Words as cells from an address, those bytes that are not 0. -/
def wordCells (a : Nat) : List Word → List Host.Cell
  | [] => []
  | w :: ws => cellsOf a w.toNat 8 ++ wordCells (a + 8) ws

/-- The words that lie from an address. -/
def cellWords (l : List Host.Cell) (a n : Nat) : List Word :=
  (List.range n).map (fun k => BitVec.ofNat 64 (readLE l (a + 8 * k) 8))

/-- The uncorrectable codewords of a range. -/
def State.badWords (s : State) (a n : Nat) : List Nat :=
  (s.hubU.errs.filter (fun e => cwIn a n e.1 && decide (2 ≤ e.2.length))).map (·.1)

/-- An area of the hub that is filled in a ring: where it begins, and its words. -/
structure HubArea where
  base  : Nat
  words : Nat

/-- The pieces of `n` words from place `k` of an area, which begins again behind its last word: address and words. -/
def HubArea.pieces (r : HubArea) (k n : Nat) : List (Nat × Nat) :=
  let m := min n (r.words - k)
  (r.base + 8 * k, m) :: (if m < n then [(r.base, n - m)] else [])

/-- Words written from place `k` of an area, in a class. -/
def State.putArea (s : State) (cls src : Nat) (r : HubArea) (k : Nat) (ws : List Word) : State :=
  ((r.pieces k ws.length).foldl (fun (q : State × List Word) p =>
    (q.1.writeAs false cls src p.1 (8 * p.2) (wordCells p.1 (q.2.take p.2)), q.2.drop p.2)) (s, ws)).1

/-- `n` words read from place `k` of an area, in a class. -/
def State.getArea (s : State) (cls src : Nat) (r : HubArea) (k n : Nat) : List Word × State :=
  (r.pieces k n).foldl (fun (q : List Word × State) p =>
    let d := q.2.readAs cls src p.1 (8 * p.2)
    (q.1 ++ cellWords d.2 p.1 p.2, d.1)) ([], s)

/-- Which of those words lie in a codeword beyond correction. -/
def State.badInArea (s : State) (r : HubArea) (k n : Nat) : List Nat :=
  ((r.pieces k n).flatMap (fun p => (List.range p.2).map (fun i => p.1 + 8 * i))).zipIdx.filterMap
    (fun a => if s.badWords a.1 8 = [] then none else some a.2)

/-- A producer's lane (R340). -/
def State.chainLane (s : State) (c ep : Nat) : HubArea := ⟨s.chainLaneBase c ep, s.share c⟩

/-! ### Producing (R342, R343) -/

def Chain.openOf (x : Chain) (ep : Nat) : OpenPkt := look (fun _ => ({} : OpenPkt)) x.opens ep

/-- No packet is open: the next one begins where this one did. -/
def OpenPkt.rewound (o : OpenPkt) : OpenPkt := { start := o.start }

def Chain.setOpen (x : Chain) (ep : Nat) (o : OpenPkt) : Chain := { x with opens := put (fun _ => ({} : OpenPkt)) x.opens ep o }

/-- A push of `n` words is refused: the chain is disabled, or the endpoint is not a producer. -/
def State.pushRefused (s : State) (c ep : Nat) : Bool := !s.chainEn c || !s.isProducer c ep

/-- A push of `n` words makes the packet overlong, or meets one that already was. -/
def State.pushOver (s : State) (c ep n : Nat) : Bool :=
  let o := (s.chain c).openOf ep
  o.overlong || decide (min 4096 (s.share c) < o.n + n)

/-- A push of `n` words must wait for lane space, or for the hub to serve it. -/
def State.pushWaits (s : State) (c ep n : Nat) : Bool :=
  !s.pushRefused c ep && !s.pushOver c ep n && (decide (s.laneFree c ep < n) || !s.hubOpen)

/-- Push words to the open packet, where the push need not wait. -/
def State.push (s : State) (c ep : Nat) (ws : List Word) : State :=
  let x := s.chain c
  let o := x.openOf ep
  if s.pushRefused c ep then s.chainRefused c ep
  else if o.overlong then s
  else if s.pushOver c ep ws.length then
    ((s.setChain c (x.setOpen ep { o with n := 0, overlong := true })).bump (Rf.CHN_STAT_OVERLONG c)).raise 0x8003 c ep
  else (s.setChain c (x.setOpen ep { o with n := o.n + ws.length })).putArea (s.chainClass c) ep (s.chainLane c ep) ((o.start + o.n) % s.share c) ws

/-- A packet of `n` words from place `k` of a lane of `share` words, as committed items. -/
def itemsOf (ep share k n : Nat) : List ChItem :=
  (List.range n).map (fun i => ⟨ep, (k + i) % share, decide (i + 1 = n)⟩)

/-- The notice of R348, where the count rises: one signal when it rises from 0 or after a read of CHN_CNT, and none until the
next read. -/
def State.notice (s : State) (c : Nat) (from0 : Bool) : State :=
  let x := s.chain c
  let s := s.setChain c { x with armed := false }
  if s.bit (Rf.CHN_CFG_NOTICE c) && !s.bit (Rf.CHN_STAT_PEND c) && (from0 || x.armed) then
    (s.setrf (Rf.CHN_STAT_PEND c) 1).signal (s.rf (Rf.CHN_CFG_VECTOR c))
  else s

/-- Make the `n` words from place `k` of a lane visible to the consumer as a packet, behind every packet committed before. -/
def State.deliver (s : State) (c ep k n : Nat) : State :=
  let x := s.chain c
  (s.setChain c { x with items := x.items ++ itemsOf ep (s.share c) k n }).notice c (decide (x.packets = 0))

/-- Commit the open packet: none is made of an empty one, an overlong one only ends, and one that a re-run repeats is
discarded and counted (R65, R342, R343). -/
def State.commit (s : State) (c ep : Nat) : State :=
  let x := s.chain c
  let o := x.openOf ep
  if !s.chainEn c then s.chainRefused c ep
  else if o.n = 0 then s.setChain c (x.setOpen ep o.rewound)
  else
    let u := s.wu ep
    if u.rerun.isSome && decide (0 < look (fun _ => 0) u.discard c) then
      ((s.setChain c (x.setOpen ep o.rewound)).setWu ep
        { u with discard := put (fun _ => 0) u.discard c (look (fun _ => 0) u.discard c - 1) }).bump (Rf.CHN_STAT_RERUN c)
    else (s.setChain c (x.setOpen ep { start := (o.start + o.n) % s.share c })).deliver c ep o.start o.n

/-- Discard the open packet: its words are given back at once. -/
def State.rewind (s : State) (c ep : Nat) : State :=
  s.setChain c ((s.chain c).setOpen ep ((s.chain c).openOf ep).rewound)

/-- Push a whole packet and commit it, where the lane has room for it; `none` where it must wait. -/
def State.sendPacket (s : State) (c ep : Nat) (ws : List Word) : Option State :=
  if s.pushWaits c ep ws.length then none else some ((s.push c ep ws).commit c ep)

/-! ### Consuming (R344, R349) -/

/-- The number of items in the first packet. -/
def packetLen : List ChItem → Nat
  | [] => 0
  | i :: is => if i.last then 1 else packetLen is + 1

/-- A pop by an endpoint is refused: the chain is disabled, or has another consumer (R351). -/
def State.popRefused (s : State) (c ep : Nat) : Bool := !s.chainEn c || decide (s.rf (Rf.CHN_CFG_CONS c) ≠ ep)

/-- The first committed packet of a chain that an endpoint consumes, with the rest: none where the pop is refused, the hub
serves no read or no packet waits. -/
def State.popPacket (s : State) (c ep : Nat) : Option (Nat × List Word × State) :=
  if s.popRefused c ep || !s.hubOpen then none
  else
    let x := s.chain c
    let n := packetLen x.items
    match x.items with
    | [] => none
    | i :: _ =>
      let y : Chain := { x with items := x.items.drop n, gone := x.gone - n, seq := x.seq + 1 }
      let r := s.getArea (s.chainClass c) ep (s.chainLane c i.ep) i.slot n
      some (i.ep, r.1, r.2.setChain c y)

/-- Which words of the first packet lie in a codeword beyond correction. -/
def State.packetBad (s : State) (c : Nat) : List Nat :=
  match (s.chain c).items with
  | [] => []
  | i :: _ => s.badInArea (s.chainLane c i.ep) i.slot (packetLen (s.chain c).items)

/-- What a pop that delivers no packet leaves: it is counted where it was refused. -/
def State.popNone (s : State) (c ep : Nat) : State := if s.popRefused c ep then s.chainRefused c ep else s

/-- Every chain emptied (R350): contents and open packets are lost. A notice that is pending stays so until CHN_CNT is read. -/
def State.emptyChains (s : State) : State := { s with chains := [] }

/-- Every open packet of an endpoint rewound (R346). -/
def State.rewindAll (s : State) (ep : Nat) : State :=
  { s with chains := (s.chains.map (fun e => (e.1, e.2.setOpen ep (e.2.openOf ep).rewound))).filter (fun e => decide (e.2 ≠ {})) }

/-! ### Engines on chains (R45, R46) -/

def Engine.view (x : Engine) (c : Nat) : ChainView := look (fun _ => ⟨0, 0, 0⟩) x.views c
def Engine.setView (x : Engine) (c : Nat) (v : ChainView) : Engine := { x with views := put (fun _ => ⟨0, 0, 0⟩) x.views c v }

/-- The words an engine's push accepted count against the credit it reads. -/
def State.notePush (s : State) (e c n : Nat) : State :=
  let x := s.eng e
  let v := x.view c
  s.setEng e (x.setView c { v with pushed := v.pushed + n })

/-- A pop of an engine: the next snapshot word, which is given back when its band completes, or the idle item. -/
def State.popWord (s : State) (e c : Nat) : Word × State :=
  let u := s.unitOf e
  let x := s.eng e
  let v := x.view c
  let ch := s.chain c
  if s.popRefused c u then (idleItem c, s.chainRefused c u)
  else if v.snap = 0 then (idleItem c, s)
  else
    match ch.items[ch.gone]? with
    | some i =>
      let r := s.getArea (s.chainClass c) u (s.chainLane c i.ep) i.slot 1
      (r.1.headD 0, (r.2.setChain c { ch with gone := ch.gone + 1 }).setEng e (x.setView c { v with snap := v.snap - 1 }))
    | none => (idleItem c, s)

/-- The words an engine popped in its band are given back to their producers. -/
def Chain.giveBack (x : Chain) : Chain :=
  { x with items := x.items.drop x.gone, gone := 0, seq := x.seq + ((x.items.take x.gone).filter (·.last)).length }

end Sys2Proof.Machine
end

