-- ==== Sys2Proof/Machine/ImageWord.lean ====
section
/-! DEFINITION. What the admission walker reads in an instruction word: its fields (Table 2.3), the instruction it
spells, none for an undefined word (R41, R82), and the cycles it is charged (2.3, R83). -/

namespace Sys2Proof.Machine

/-- The fields of an instruction word (Table 2.3). -/
structure WordF where
  maj : Nat
  mnr : Nat
  d   : Nat
  a   : Nat
  b   : Nat
  imm : Nat

def wordF (w : Nat) : WordF :=
  ⟨bitsOf w 58 6, bitsOf w 52 6, bitsOf w 46 6, bitsOf w 40 6, bitsOf w 34 6, bitsOf w 0 34⟩

/-- The guard and the rest of the immediate of a guarded form. -/
def WordF.g (f : WordF) : BitVec 4 := BitVec.ofNat 4 (f.imm / 2 ^ 30)
def WordF.rest (f : WordF) : Nat := f.imm % 2 ^ 30
def WordF.imm34 (f : WordF) : BitVec 34 := BitVec.ofNat 34 f.imm

/-- PARAM, and the immediate fields of a stream instruction (Table 3.4). -/
def WordF.param (f : WordF) : Nat := f.imm % 2 ^ 17
def WordF.strm (f : WordF) : StreamImm := ⟨f.g, BitVec.ofNat 12 (f.imm / 2 ^ 18), decide (f.imm / 2 ^ 17 % 2 = 1)⟩

/-- Register fields. -/
def r6 (n : Nat) : BitVec 6 := BitVec.ofNat 6 n
def r4 (n : Nat) : BitVec 4 := BitVec.ofNat 4 n
def r3 (n : Nat) : BitVec 3 := BitVec.ofNat 3 n

/-- A word is defined where its unused bits are 0. -/
def req (c : Bool) (i : Instr) : Option Instr := if c then some i else none

/-- A number fits `n` bits. -/
def fits (n v : Nat) : Bool := decide (v < 2 ^ n)

/-- Register ALU (Table 2.5). -/
def wordAlu (e : Eng) (f : WordF) : Option Instr :=
  let ok := decide (f.rest = 0)
  let two (i : Instr) : Option Instr := req (ok && decide (f.b = 0)) i
  let g := f.g
  let d := r6 f.d
  let a := r6 f.a
  let b := r6 f.b
  match f.mnr with
  | 0x00 => req ok (.add e g d a b)
  | 0x01 => req ok (.sub e g d a b)
  | 0x02 => req ok (.and e g d a b)
  | 0x03 => req ok (.or e g d a b)
  | 0x04 => req ok (.xor e g d a b)
  | 0x05 => req ok (.shl e g d a b)
  | 0x06 => req ok (.shr e g d a b)
  | 0x07 => req ok (.sar e g d a b)
  | 0x08 => req ok (.mul e g d a b)
  | 0x09 => req ok (.mulh e g d a b)
  | 0x0A => req ok (.mulhu e g d a b)
  | 0x0B => req ok (.min e g d a b)
  | 0x0C => req ok (.max e g d a b)
  | 0x0D => req ok (.minu e g d a b)
  | 0x0E => req ok (.maxu e g d a b)
  | 0x0F => req ok (.adds e g d a b)
  | 0x10 => req ok (.subs e g d a b)
  | 0x11 => two (.clz e g d a)
  | 0x12 => two (.popc e g d a)
  | _ => none

/-- Immediate ALU (Table 2.6). -/
def wordAluI (e : Eng) (f : WordF) : Option Instr :=
  let ok := decide (f.b = 0)
  let sh := ok && fits 6 f.imm
  let d := r6 f.d
  let a := r6 f.a
  let i := f.imm34
  let pos := r6 (f.imm % 64)
  let len := BitVec.ofNat 7 (f.imm / 64)
  let fld := ok && fits 13 f.imm
  match f.mnr with
  | 0x00 => req ok (.addi e d a i)
  | 0x02 => req ok (.andi e d a i)
  | 0x03 => req ok (.ori e d a i)
  | 0x04 => req ok (.xori e d a i)
  | 0x05 => req sh (.shli e d a (r6 f.imm))
  | 0x06 => req sh (.shri e d a (r6 f.imm))
  | 0x07 => req sh (.sari e d a (r6 f.imm))
  | 0x08 => req ok (.muli e d a i)
  | 0x0B => req ok (.mini e d a i)
  | 0x0C => req ok (.maxi e d a i)
  | 0x20 => req (ok && decide (f.a = 0)) (.movi e d i)
  | 0x21 => req (ok && fits 30 f.imm) (.sethi e d a (BitVec.ofNat 30 f.imm))
  | 0x22 => req fld (.ext e d a pos len)
  | 0x23 => req fld (.ins e d a pos len)
  | 0x24 => req ok (.clamp e d a i)
  | _ => none

/-- Comparisons and predicate logic (Table 2.7). -/
def wordCmp (e : Eng) (f : WordF) : Option Instr :=
  let ok := fits 3 f.d && decide (f.rest = 0)
  let g := f.g
  let d := r3 f.d
  let a := r6 f.a
  let b := r6 f.b
  match f.mnr with
  | 0x00 => req ok (.cmpEq e g d a b)
  | 0x01 => req ok (.cmpNe e g d a b)
  | 0x02 => req ok (.cmpLt e g d a b)
  | 0x03 => req ok (.cmpLtu e g d a b)
  | 0x04 => req ok (.cmpLe e g d a b)
  | 0x05 => req ok (.cmpLeu e g d a b)
  | _ => none

def wordCmpI (e : Eng) (f : WordF) : Option Instr :=
  let ok := fits 3 f.d && decide (f.b = 0)
  let d := r3 f.d
  let a := r6 f.a
  let i := f.imm34
  match f.mnr with
  | 0x00 => req ok (.cmpiEq e d a i)
  | 0x01 => req ok (.cmpiNe e d a i)
  | 0x02 => req ok (.cmpiLt e d a i)
  | 0x03 => req ok (.cmpiLtu e d a i)
  | 0x04 => req ok (.cmpiLe e d a i)
  | 0x05 => req ok (.cmpiLeu e d a i)
  | _ => none

def wordPred (e : Eng) (f : WordF) : Option Instr :=
  let ok := fits 3 f.d && fits 3 f.a && fits 3 f.b && decide (f.imm = 0)
  let d := r3 f.d
  let a := r3 f.a
  let b := r3 f.b
  match f.mnr with
  | 0x00 => req ok (.pand e d a b)
  | 0x01 => req ok (.por e d a b)
  | 0x02 => req ok (.pxor e d a b)
  | 0x03 => req ok (.pandn e d a b)
  | 0x04 => req (fits 3 f.d && decide (f.a = 0 ∧ f.b = 0) && fits 1 f.imm) (.pset e d (decide (f.imm = 1)))
  | _ => none

/-- Bounded control (Table 2.9). -/
def wordCtl (e : Eng) (f : WordF) : Option Instr :=
  let z := decide (f.d = 0 ∧ f.a = 0 ∧ f.b = 0)
  let n := BitVec.ofNat 20 (f.imm / 2 ^ 14)
  let len := BitVec.ofNat 14 f.imm
  match f.mnr with
  | 0x00 => req (z && decide (f.imm = 0)) (.nop e)
  | 0x01 => req (z && fits 14 f.rest) (.br e f.g len)
  | 0x02 => req z (.loop e n len)
  | 0x03 => req (fits 3 f.d && decide (f.b = 0)) (.loopr e (r3 f.d) (r6 f.a) n len)
  | 0x3F => req (z && decide (f.imm = 0)) (.wtick e)
  | _ => none

/-- Scratch and hub movement, chains and synchronisation (Table 2.10). -/
def wordMove (e : Eng) (f : WordF) : Option Instr :=
  let off := BitVec.ofNat 24 f.rest
  let rows := BitVec.ofNat 12 f.rest
  match f.mnr with
  | 0x00 => req (decide (f.b = 0) && fits 24 f.rest) (.lds e f.g (r6 f.d) (r6 f.a) off)
  | 0x01 => req (decide (f.d = 0) && fits 24 f.rest) (.sts e f.g (r6 f.b) (r6 f.a) off)
  | 0x02 => req (fits 4 f.d && decide (f.b = 0 ∧ f.imm = 0)) (.ldw e (r4 f.d) (r6 f.a))
  | 0x03 => req (fits 4 f.d && fits 4 f.a && decide (f.b = 0) && fits 12 f.rest) (.hld e f.g (r4 f.d) (r4 f.a) rows)
  | 0x04 => req (fits 4 f.d && fits 4 f.a && decide (f.b = 0) && fits 12 f.rest) (.hst e f.g (r4 f.d) (r4 f.a) rows)
  | _ => none

def wordChain (e : Eng) (f : WordF) : Option Instr :=
  let z := decide (f.b = 0 ∧ f.rest = 0)
  match f.mnr with
  | 0x00 => req (fits 4 f.d && z) (.push e f.g (r4 f.d) (r6 f.a))
  | 0x01 => req (fits 4 f.d && z) (.pushr e f.g (r4 f.d) (r6 f.a))
  | 0x02 => req (fits 4 f.d && decide (f.a = 0) && z) (.commit e f.g (r4 f.d))
  | 0x03 => req (fits 4 f.d && decide (f.a = 0) && z) (.rewind e f.g (r4 f.d))
  | 0x04 => req (fits 4 f.a && z) (.pop e f.g (r6 f.d) (r4 f.a))
  | 0x05 => req (fits 4 f.a && z) (.cred e f.g (r6 f.d) (r4 f.a))
  | 0x06 => req (fits 4 f.a && z) (.cnt e f.g (r6 f.d) (r4 f.a))
  | _ => none

def wordSync (e : Eng) (f : WordF) : Option Instr :=
  let z := decide (f.d = 0 ∧ f.a = 0 ∧ f.b = 0)
  match f.mnr with
  | 0x00 => req (z && fits 3 f.imm) (.fence e (r3 f.imm))
  | 0x01 => req (z && fits 11 f.rest) (.event e f.g (BitVec.ofNat 11 f.rest))
  | _ => none

/-- MAJOR 0x10 (Table 3.5): no run is named, so NCAP and ADV are 0. -/
def wordCore (e : Eng) (f : WordF) : Option Instr :=
  let g := f.g
  let z := decide (f.rest = 0)
  match f.mnr with
  | 0x00 => req (fits 4 f.d && decide (f.b = 0) && z) (.dlo e g (r4 f.d) (r6 f.a))
  | 0x01 => req (fits 4 f.d && decide (f.b = 0) && z) (.dhi e g (r4 f.d) (r6 f.a))
  | 0x02 => req (fits 4 f.d && decide (f.b = 0) && z) (.dfmt e g (r4 f.d) (r6 f.a))
  | 0x03 => req (fits 4 f.d && decide (f.a = 0 ∧ f.b = 0) && fits 16 f.rest) (.dadv e g (r4 f.d) (BitVec.ofNat 16 f.rest))
  | 0x04 => req (fits 4 f.a && decide (f.b = 0) && fits 1 f.rest) (.dget e g (r6 f.d) (r4 f.a) (decide (f.rest = 1)))
  | 0x05 => req (fits 3 f.d && decide (f.a = 0 ∧ f.b = 0) && z) (.aclr e g (r3 f.d))
  | 0x06 => req (fits 3 f.a && decide (f.b = 0) && fits 3 f.rest) (.ard e g (r6 f.d) (r3 f.a) (r3 f.rest))
  | 0x07 => req (fits 2 f.d && decide (f.b = 0) && z) (.tld e g (BitVec.ofNat 2 f.d) (r6 f.a))
  | 0x08 => req (decide (f.d = 0 ∧ f.a = 0 ∧ f.b = 0) && z) (.hclr e g)
  | 0x09 => req (decide (f.d = 0 ∧ f.b = 0) && z) (.hput e g (r6 f.a))
  | _ => none

/-- MAJOR 0x11 (Table 3.7). -/
def wordElem (e : Eng) (f : WordF) : Option Instr :=
  let x := f.strm
  let p := f.param
  let d := r4 f.d
  let a := r4 f.a
  let b := r4 f.b
  let k := r6 f.b
  let da := fits 4 f.d && fits 4 f.a
  let dab := da && fits 4 f.b
  match f.mnr with
  | 0x00 => req (dab && fits 0 p) (.vadd e x d a b)
  | 0x01 => req (dab && fits 0 p) (.vsub e x d a b)
  | 0x02 => req (dab && fits 5 p) (.vmul e x d a b (BitVec.ofNat 5 p))
  | 0x03 => req (dab && fits 0 p) (.vmin e x d a b)
  | 0x04 => req (dab && fits 0 p) (.vmax e x d a b)
  | 0x05 => req (dab && fits 0 p) (.vabsd e x d a b)
  | 0x06 => req (da && fits 0 p) (.vaddk e x d a k)
  | 0x07 => req (da && fits 5 p) (.vmulk e x d a k (BitVec.ofNat 5 p))
  | 0x08 => req (da && fits 0 p) (.vclamp e x d a k)
  | 0x09 => req (da && decide (f.b = 0) && fits 6 p) (.vcvt e x d a (r6 p))
  | 0x0A => req (dab && fits 4 p) (.vsel e x d a b (r4 p))
  | 0x0B => req (fits 3 f.d && fits 4 f.a && fits 4 f.b && fits 0 p) (.vcmp e x (r3 f.d) a b)
  | _ => none

/-- MAJOR 0x12 to 0x16: map chains, tables, kernels, resampling and camera correction. -/
def wordPix (e : Eng) (f : WordF) : Option Instr :=
  let x := f.strm
  let p := f.param
  let d := r4 f.d
  let a := r4 f.a
  let b := r4 f.b
  let k := r6 f.b
  let da := fits 4 f.d && fits 4 f.a
  let dab := da && fits 4 f.b
  match f.maj, f.mnr with
  | 0x12, 0x00 => req (da && fits 8 p) (.mapc e x d a k (r3 p) (r4 (p / 8)) (decide (p / 128 = 1)))
  | 0x13, 0x00 => req (da && fits 2 f.b && fits 4 p) (.lut e x d a (BitVec.ofNat 2 f.b) (r4 p))
  | 0x13, 0x01 => req (da && fits 2 f.b && fits 4 p) (.luti e x d a (BitVec.ofNat 2 f.b) (r4 p))
  | 0x14, 0x00 => req (da && fits 2 p) (.k1d e x d a k (BitVec.ofNat 2 p))
  | 0x14, 0x01 => req (da && fits 2 p) (.k1v e x d a k (BitVec.ofNat 2 p))
  | 0x14, 0x02 => req (da && fits 1 p) (.k2d e x d a k (decide (p = 1)))
  | 0x15, 0x00 => req (da && fits 1 p) (.rs e x d a k (decide (p = 1)))
  | 0x16, 0x00 => req (dab && fits 4 p) (.flat e x d a b (r4 p))
  | 0x16, 0x01 => req (dab && fits 2 p) (.dpr e x d a b (BitVec.ofNat 2 p))
  | 0x16, 0x02 => req (da && fits 12 p) (.xmrg e x d a k (r4 (p / 256)) (r4 p) (r4 (p / 16)))
  | 0x16, 0x03 => req (da && fits 0 p) (.cmat e x d a k)
  | _, _ => none

/-- MAJOR 0x17 to 0x1C: scoring, segmentation, statistics, prediction and coding. -/
def wordSeg (e : Eng) (f : WordF) : Option Instr :=
  let x := f.strm
  let p := f.param
  let d := r4 f.d
  let a := r4 f.a
  let b := r4 f.b
  let k := r6 f.b
  let ab := fits 4 f.a && fits 4 f.b
  let da := fits 4 f.d && fits 4 f.a
  let dab := da && fits 4 f.b
  match f.maj, f.mnr with
  | 0x17, 0x00 => req (dab && fits 15 p) (.scor e x d a b (BitVec.ofNat 5 p) (r4 (p / 32)) (p.testBit 9) (r4 (p / 1024))
      (p.testBit 14))
  | 0x17, 0x01 => req (da && fits 2 p) (.thr e x d a k (BitVec.ofNat 2 p))
  | 0x18, 0x00 => req (da && decide (f.b = 0) && fits 2 p) (.morph e x d a (p.testBit 0) (p.testBit 1))
  | 0x19, 0x00 => req (dab && fits 7 p) (.lbl e x d a b (r6 p) (p.testBit 6))
  | 0x19, 0x01 => req (ab && decide (f.d = 0) && fits 11 p) (.feat e x a b (r6 p) (r4 (p / 64)) (p.testBit 10))
  | 0x19, 0x02 => req (decide (f.d = 0) && !x.adv && fits 0 p) (.fmrg e x.g x.ncap (r6 f.a) (r6 f.b))
  | 0x1A, 0x00 => req (fits 3 f.d && fits 4 f.a && fits 5 p) (.stat e x (r3 f.d) a k (r4 p) (p.testBit 4))
  | 0x1A, 0x01 => req (decide (f.d = 0 ∧ f.b = 0) && fits 4 f.a && fits 13 p)
      (.hist e x a (r4 p) (r4 (p / 16)) (r4 (p / 256)) (p.testBit 12))
  | 0x1A, 0x02 => req (fits 3 f.d && fits 4 f.a && decide (f.b = 0) && fits 0 p) (.crc e x (r3 f.d) a)
  | 0x1B, 0x00 => req (dab && fits 1 p) (.pred e x d a b (p.testBit 0))
  | 0x1B, 0x01 => req (dab && fits 1 p) (.upred e x d a b (p.testBit 0))
  | 0x1B, 0x02 => req (da && decide (f.b = 0) && fits 0 p) (.gsel e x d a)
  | 0x1B, 0x03 => req (dab && fits 6 p) (.gput e x d a b (r6 p))
  | 0x1B, 0x04 => req (da && decide (f.b = 0) && fits 6 p) (.gdec e x d a (r6 p))
  | 0x1C, 0x00 => req (da && fits 0 p) (.cgat e x d a k)
  | _, _ => none

/-- The instruction a word spells; none for an undefined one (R41, R82). -/
def imageInstr (e : Eng) (w : Nat) : Option Instr :=
  let f := wordF w
  let i := match f.maj with
    | 0x01 => wordAlu e f
    | 0x02 => wordAluI e f
    | 0x03 => wordCmp e f
    | 0x04 => wordCmpI e f
    | 0x05 => wordPred e f
    | 0x06 => req (decide (f.mnr = 0 ∧ f.a = 0 ∧ f.b = 0) && fits 8 f.imm) (.rd e (r6 f.d) (BitVec.ofNat 8 f.imm))
    | 0x08 => wordCtl e f
    | 0x0A => wordMove e f
    | 0x0C => wordChain e f
    | 0x0E => wordSync e f
    | 0x10 => wordCore e f
    | 0x11 => wordElem e f
    | 0x12 | 0x13 | 0x14 | 0x15 | 0x16 => wordPix e f
    | 0x17 | 0x18 | 0x19 | 0x1A | 0x1B | 0x1C => wordSeg e f
    | _ => none
  match i with
  | some j => if j.wf then some j else none
  | none => none

/-- The sections a stream instruction is available in (Tables 3.5 and 3.6). -/
def availableIn (sec : Nat) : Instr → Bool
  | .fmrg .. | .scor .. | .thr .. | .morph .. | .lbl .. | .feat .. => decide (sec = 3)
  | .cgat .. | .pred .. | .upred .. | .gsel .. | .gput .. | .gdec .. => decide (sec = 4)
  | .k1d .. | .k1v .. | .k2d .. => decide (sec ≤ 3)
  | .rs .. => decide (sec = 2)
  | .flat .. | .dpr .. | .xmrg .. | .cmat .. => decide (sec = 1)
  | _ => true

/-- The cycles an instruction is charged (Tables 2.5 to 2.10, 3.5, R83). -/
def cost (i : Instr) : Nat :=
  match i with
  | .loop .. | .loopr .. | .lds .. | .sts .. | .ldw .. | .commit .. | .rewind .. | .event .. | .ard .. => 2
  | .hld .. | .hst .. | .pushr .. | .pop .. | .fence .. => 4
  | i => match streamImm i with
    | some _ => tileCharge i
    | none => match i with
      | .aclr .. | .tld .. | .hclr .. | .hput .. | .fmrg .. => tileCharge i
      | _ => 1

end Sys2Proof.Machine
end

