-- ==== Sys2Proof/Machine/TileElem.lean ====
section
/-! DEFINITION. The elementwise, lookup, kernel, resampling and intake-correction tile instructions (3.5.1 to 3.5.4). -/

namespace Sys2Proof.Machine

/-- Element `k` of the current row of a run. -/
def QEntry.el (q : QEntry) (m : List Host.Cell) (r : BitVec 4) (k : Nat) : Int := (q.d r).el m 0 k

/-- Write SAT_F of `f k` as each element k of the output run (R84). -/
def writeEl (l : Limits) (q : QEntry) (x : Engine) (d : BitVec 4) (n : Nat) (f : Nat → Int) : TileOut :=
  let o := q.d d
  { x := { x with scratch := putRun l (o.row 0) o.fmt (fun k => satF o.fmt (f k)) n x.scratch } }

/-- A signed 32-bit parameter in bits `lo` up of a scalar. -/
def sParam (v lo : Nat) : Int := toSigned 32 (bitsOf v lo 32)

/-- vclamp: with LO above HI the result is HI. -/
def clampLoHi (a lo hi : Int) : Int := min (max a lo) hi

/-- vcvt: a shift by a signed amount. -/
def cvt (a : Int) (sh : Int) : Int := if 0 ≤ sh then a * 2 ^ sh.toNat else rnd a (-sh).toNat

/-- vcmp: CNT + 1 per element and NSAT + 1 per difference, in the copy of the tile that has the element. -/
def cmpAcc (a : Acc) (diff : Nat → Bool) : List Nat → Acc
  | [] => a
  | k :: ks => cmpAcc { a with cnt := min (a.cnt + 1) (2 ^ 32 - 1),
                               nsat := min (a.nsat + if diff k then 1 else 0) (2 ^ 32 - 1) } diff ks

/-- Update both copies of an accumulator with the elements of their tiles. -/
def onAccs (x : Engine) (ad : BitVec 3) (w g n : Nat) (f : Acc → List Nat → Acc) : Engine :=
  let h := if w = 2 then tile0 g n else n
  let a0 := look (fun _ => Acc.clear) x.acc0 ad.toNat
  let a1 := look (fun _ => Acc.clear) x.acc1 ad.toNat
  { x with acc0 := put (fun _ => Acc.clear) x.acc0 ad.toNat (f a0 (List.range (min h n))),
           acc1 := put (fun _ => Acc.clear) x.acc1 ad.toNat (f a1 ((List.range n).drop h)) }

/-! ### Map chains (R86) -/

/-- The range a map chain value is limited to after every step. -/
def lim47 (v : Int) : Int := clampInt (-(2 ^ 47)) (2 ^ 47 - 1) v

/-- Whether a step word acts as END for a fault of its own: an undefined OP, a reserved bit, or a B step without B. -/
def badStep (w : Nat) (ben : Bool) : Bool :=
  decide (10 < bitsOf w 0 8) || decide (bitsOf w 14 2 ≠ 0) || decide (bitsOf w 48 16 ≠ 0) ||
    ((decide (bitsOf w 0 8 = 7) || decide (bitsOf w 0 8 = 8)) && !ben)

/-- One step of Table 3.8. -/
def mapStep (w : Nat) (v b : Int) : Int :=
  let sh := bitsOf w 8 6
  let k := sParam w 16
  match bitsOf w 0 8 with
  | 1 => v + k
  | 2 => rnd (v * k) sh
  | 3 => min v k
  | 4 => max v k
  | 5 => rnd v sh
  | 6 => v * 2 ^ sh
  | 7 => v + b
  | 8 => rnd (v * b) sh
  | 9 => if v < 0 then -v else v
  | 10 => -v
  | _ => v

/-- The steps in order, up to END. -/
def mapRun (ben : Bool) (b : Int) : List Nat → Int → Int
  | [], v => v
  | w :: ws, v => if bitsOf w 0 8 = 0 || badStep w ben then v else mapRun ben b ws (lim47 (mapStep w v b))

/-- Whether the steps reach one that acts as END for a fault of its own. -/
def mapBad (ben : Bool) : List Nat → Bool
  | [] => false
  | w :: ws => if badStep w ben then true else if bitsOf w 0 8 = 0 then false else mapBad ben ws

/-! ### Lookup (R87) -/

/-- A table entry, read as the output format reads it. -/
def tabEntry (x : Engine) (t fmt i : Nat) : Int := elemVal fmt (look (fun _ => 0) x.tabs (t * 4096 + i))

/-- The index input of a lookup: U16, or S16 + 32,768. -/
def lutIn (fmt : Nat) (a : Int) : Nat := (if fmt = 1 then a + 32768 else a).toNat

def lutVal (x : Engine) (t fmt sh : Nat) (a : Nat) : Int := tabEntry x t fmt (min (a / 2 ^ sh) 4095)

def lutiVal (x : Engine) (t fmt sh : Nat) (a : Nat) : Int :=
  let i := a / 2 ^ sh
  let f := a % 2 ^ sh
  if 4095 ≤ i then tabEntry x t fmt 4095
  else tabEntry x t fmt i + rnd ((tabEntry x t fmt (i + 1) - tabEntry x t fmt i) * f) sh

/-! ### Kernels (R88) and resampling (R89) -/

/-- Coefficient `i` of a record of S16 coefficients at `a`. -/
def coef (m : List Host.Cell) (a i : Nat) : Int := toSigned 16 (readLE m (a + 2 * i) 2)

/-- A column limited to 0 to `n` - 1. -/
def clampCol (c : Int) (n : Nat) : Nat := (clampInt 0 (n - 1 : Nat) c).toNat

def sumI (f : Nat → Int) (n : Nat) : Int := (List.range n).foldl (fun t i => t + f i) 0

/-- RND(Σ c[i] × A(pos_i), SH) + BIAS with the record at `a`. Byte 50 holds SH, from 0 to 15: of a byte above 15, which the
spec gives no meaning, the low four bits are taken (DESIGN CHOICE, log 140). -/
def kernel (m : List Host.Cell) (a taps : Nat) (at' : Nat → Int) : Int :=
  rnd (sumI (fun i => coef m a i * at' i) taps) (readLE m (a + 50) 1 % 16) + toSigned 16 (readLE m (a + 52) 2)

/-- The position of output element `j` of rs, modulo 2^64. -/
def rsPos (m : List Host.Cell) (a j : Nat) : Nat :=
  (readLE m a 8 + j * readLE m (a + 8) 8 + j * (j - 1) / 2 * readLE m (a + 16) 8
    + j * (j - 1) * (j - 2) / 6 * readLE m (a + 24) 8) % 2 ^ 64

def rsEl (m : List Host.Cell) (a taps lenA : Nat) (src : Nat → Int) (j : Nat) : Int :=
  let p := rsPos m a j
  let i := toSigned 64 p / 2 ^ 32
  let ph := bitsOf p 26 6
  rnd (sumI (fun k => coef m (a + 64 + 16 * ph) k * src (clampCol (i - (taps / 2 : Nat) + 1 + k) (lenA + 1))) taps) 14

/-! ### Intake correction (R90 to R93) -/

/-- flat: B holds DARK in [15:0] and GAIN in [31:16]. -/
def flatEl (a b : Nat) (gs : Nat) : Int := rnd ((a - b % 65536 : Nat) * (b / 65536)) gs

/-- The nearest unmarked neighbour within `rad` columns, searched outward by `step`. -/
def nearGood (a : Nat → Int) (bad : Nat → Bool) (n x : Nat) (left : Bool) : Nat → Nat → Option Int
  | 0, _ => none
  | f + 1, k =>
    let ok := if left then decide (k ≤ x) else decide (x + k < n)
    let c := if left then x - k else x + k
    if ok && !bad c then some (a c) else nearGood a bad n x left f (k + 1)

/-- dpr for one pixel: the value, and whether it was left unreplaced for want of a neighbour. -/
def dprEl (a : Nat → Int) (bad : Nat → Bool) (n rad x : Nat) : Int × Bool :=
  if bad x then
    match nearGood a bad n x true rad 1, nearGood a bad n x false rad 1 with
    | some u, some v => (rnd (u + v) 1, false)
    | some u, none => (u, false)
    | none, some v => (v, false)
    | none, none => (a x, true)
  else (a x, false)

/-- xmrg for one pixel. -/
def xmrgEl (a s ratio satlo bw os : Nat) : Int :=
  let s' : Int := s * ratio
  let l' : Int := a * 256
  if satlo ≤ s then 0xFFFF
  else if a < satlo then rnd l' (8 + os)
  else if satlo + 2 ^ bw ≤ a then rnd s' (8 + os)
  else
    let w : Int := (a - satlo : Nat)
    rnd (rnd (l' * (2 ^ bw - w) + s' * w) bw) (8 + os)

/-- cmat for one pixel of plane `c`. -/
def cmatEl (m : List Host.Cell) (r c : Nat) (a : Nat → Int) : Int :=
  rnd (sumI (fun k => coef m r (3 * c + k) * a k) 3) 12 + toSigned 16 (readLE m (r + 18 + 2 * c) 2)

/-- The three planes written one after the other, each from the planes as they were. -/
def cmatWrite (l : Limits) (q : QEntry) (x : Engine) (d a : BitVec 4) (r : Nat) : TileOut :=
  let m := x.scratch
  let plane (c : Nat) (k : Nat) : Int :=
    cmatEl m r c (fun p => elemVal 0 (elemRaw m ((q.d a).at p 0) 16 k))
  let w (c : Nat) (m' : List Host.Cell) : List Host.Cell :=
    putRun l ((q.d d).at c 0) 0 (fun k => satU16 (plane c k)) q.n m'
  { x := { x with scratch := w 2 (w 1 (w 0 m)) } }

/-- The effect of each instruction of 3.5.1 to 3.5.4 on the engine. -/
def tileElem (l : Limits) (q : QEntry) (x : Engine) : Option TileOut :=
  let m := x.scratch
  let n := q.n
  let A (r : BitVec 4) (k : Nat) : Int := q.el m r k
  match q.i with
  | .vadd _ _ d a b => some (writeEl l q x d n (fun k => A a k + A b k))
  | .vsub _ _ d a b => some (writeEl l q x d n (fun k => A a k - A b k))
  | .vmul _ _ d a b sh => some (writeEl l q x d n (fun k => rnd (A a k * A b k) sh.toNat))
  | .vmin _ _ d a b => some (writeEl l q x d n (fun k => min (A a k) (A b k)))
  | .vmax _ _ d a b => some (writeEl l q x d n (fun k => max (A a k) (A b k)))
  | .vabsd _ _ d a b => some (writeEl l q x d n (fun k => |A a k - A b k|))
  | .vaddk _ _ d a s => some (writeEl l q x d n (fun k => A a k + sParam (q.s s) 0))
  | .vmulk _ _ d a s sh => some (writeEl l q x d n (fun k => rnd (A a k * sParam (q.s s) 0) sh.toNat))
  | .vclamp _ _ d a s => some (writeEl l q x d n (fun k => clampLoHi (A a k) (sParam (q.s s) 0) (sParam (q.s s) 32)))
  | .vcvt _ _ d a sh => some (writeEl l q x d n (fun k => cvt (A a k) sh.toInt))
  | .vsel _ _ d a b e => some (writeEl l q x d n (fun k => if A e k = 1 then A a k else A b k))
  | .vcmp _ _ ad a b =>
    some { x := onAccs x ad 2 16 n (fun acc ks => cmpAcc acc (fun k => decide (A a k ≠ A b k)) ks) }
  | .mapc _ _ d a r st b ben =>
    let ws := (List.range (st.toNat + 1)).map (fun i => readLE m (q.s r + 8 * i) 8)
    let o := writeEl l q x d n (fun k => mapRun ben (if ben then A b k else 0) ws (A a k))
    some { o with fmt := if mapBad ben ws then 1 else 0 }
  | .lut _ _ d a t sh =>
    some (writeEl l q x d n (fun k => lutVal x t.toNat (q.d d).fmt sh.toNat (lutIn (q.d a).fmt (A a k))))
  | .luti _ _ d a t sh =>
    some (writeEl l q x d n (fun k => lutiVal x t.toNat (q.d d).fmt sh.toNat (lutIn (q.d a).fmt (A a k))))
  | .k1d _ _ d a r t =>
    some (writeEl l q x d n (fun k => kernel m (q.s r) (2 * t.toNat + 3)
      (fun i => A a (clampCol ((k : Int) - (t.toNat + 1 : Nat) + i) n))))
  | .k1v _ _ d a r t =>
    some (writeEl l q x d n (fun k => kernel m (q.s r) (2 * t.toNat + 2)
      (fun i => (q.d a).el m ((i : Int) - t.toNat) k)))
  | .k2d _ _ d a r big =>
    let sz := if big then 5 else 3
    some (writeEl l q x d n (fun k => kernel m (q.s r) (sz * sz)
      (fun i => (q.d a).el m ((i / sz : Nat) - ((sz - 1) / 2 : Nat) : Int)
        (clampCol ((k : Int) + (i % sz : Nat) - ((sz - 1) / 2 : Nat)) n))))
  | .rs _ _ d a r big =>
    some (writeEl l q x d n (rsEl m (q.s r) (if big then 6 else 4) (q.d a).len (A a)))
  | .flat _ _ d a b gs => some (writeEl l q x d n (fun k => flatEl (A a k).toNat (A b k).toNat gs.toNat))
  | .dpr _ _ d a b rad =>
    let f (k : Nat) : Int × Bool := dprEl (A a) (fun c => decide (A b c = 1)) n (rad.toNat + 1) k
    some { writeEl l q x d n (fun k => (f k).1) with dpr := ((List.range n).filter (fun k => (f k).2)).length }
  | .xmrg _ _ d a s sd bw os =>
    some (writeEl l q x d n (fun k => xmrgEl (A a k).toNat (A sd k).toNat (bitsOf (q.s s) 0 16) (bitsOf (q.s s) 16 16)
      bw.toNat os.toNat))
  | .cmat _ _ d a r => some (cmatWrite l q x d a (q.s r))
  | _ => none

end Sys2Proof.Machine
end

