-- ==== Sys2Proof/Machine/TileSieve.lean ====
section
/-! DEFINITION. The score, threshold, morphology, labelling, feature, statistics and check-value tile instructions, and
the tile instructions of Table 3.5 that use the issue queue (3.5.5 to 3.5.8). -/

namespace Sys2Proof.Machine

/-- thr (R95): the class of a score. -/
def thrEl (a hi lo : Int) (pol : Nat) : Int :=
  let v := match pol with
    | 0 => a
    | 1 => satS16 (-a)
    | _ => satS16 |a|
  if hi ≤ v then 2 else if lo ≤ v then 1 else 0

/-- The places of a structuring element around a column: the full square or the cross (row, column offset). -/
def seAround (cross : Bool) : List (Int × Int) :=
  if cross then [(0, 0), (-1, 0), (1, 0), (0, -1), (0, 1)]
  else [(-1, -1), (-1, 0), (-1, 1), (0, -1), (0, 0), (0, 1), (1, -1), (1, 0), (1, 1)]

/-- morph (R96) for column `x` of `n`, with `a r c` the element at row r and column c. -/
def morphEl (erode cross : Bool) (n : Nat) (a : Int → Nat → Int) (x : Nat) : Int :=
  let nz (p : Int × Int) : Bool :=
    let c := (x : Int) + p.2
    if c < 0 ∨ (n : Int) ≤ c then erode else decide (a p.1 c.toNat ≠ 0)
  if erode then (if (seAround cross).all nz then a 0 x else 0)
  else if a 0 x ≠ 0 then a 0 x else if (seAround cross).any nz then 1 else 0

/-! ### Labels (R97) -/

/-- The storm label. -/
def storm : Nat := 0xFFFFFF

/-- What lbl carries along a row. -/
structure LblSt where
  next  : Nat
  mcnt  : Nat
  mdrop : Nat
  stormCnt : Nat
  left  : Nat
  last  : Option (Nat × Nat)
  out   : List (Nat × Nat)
  apps  : List (Nat × Nat)

/-- Insert into a rising list without repeats. -/
def insUp (v : Nat) : List Nat → List Nat
  | [] => [v]
  | w :: ws => if v < w then v :: w :: ws else if v = w then w :: ws else w :: insUp v ws

/-- The distinct labels among neighbours, without 0 and the storm label, in ascending order. -/
def labelSet (ns : List Nat) : List Nat :=
  (ns.filter (fun l => l ≠ 0 ∧ l ≠ storm)).foldl (fun s l => insUp l s) []

/-- Append the merge (lo, l) unless it was the last appended; a full list counts it as dropped. -/
def lblMerge (cap lo : Nat) (t : LblSt) (l : Nat) : LblSt :=
  if t.last = some (lo, l) then t
  else if t.mcnt = cap then { t with mdrop := min (t.mdrop + 1) (2 ^ 32 - 1) }
  else { t with mcnt := t.mcnt + 1, last := some (lo, l), apps := t.apps ++ [(t.mcnt, lo + l * 2 ^ 24)] }

/-- One element of lbl. NEXT goes on beyond 24 bits within a row where LIMIT allows it, and is cut to its field where it is
written back: the spec does not say what a label there is (DESIGN CHOICE, log 184). -/
def lblStep (limit cap : Nat) (a b : Nat → Nat) (n : Nat) (t : LblSt) (x : Nat) : LblSt :=
  let put (t : LblSt) (v : Nat) : LblSt := { t with left := v, out := t.out ++ [(x, v)] }
  if a x = 0 then put t 0
  else
    let up := [if x = 0 then 0 else b (x - 1), b x, if x + 1 < n then b (x + 1) else 0]
    let ns := t.left :: up
    match labelSet ns with
    | [] =>
      if ns.contains storm ∨ limit < t.next then
        put { t with stormCnt := min (t.stormCnt + 1) (2 ^ 32 - 1) } storm
      else put { t with next := t.next + 1 } t.next
    | lo :: rest => put (rest.foldl (lblMerge cap lo) t) lo

/-- lbl: the labels of the row, the merge list and the context. -/
def lblRow (l : Limits) (q : QEntry) (x : Engine) (d a b : BitVec 4) (c : Nat) (noprev : Bool) : TileOut :=
  let m := x.scratch
  let w (i : Nat) : Nat := scrRead m (c + 8 * i) 8
  let t0 : LblSt := ⟨bitsOf (w 0) 0 24, bitsOf (w 2) 0 32, bitsOf (w 2) 32 32, bitsOf (w 3) 0 32, 0, none, [], []⟩
  let t := (List.range q.n).foldl (lblStep (bitsOf (w 0) 24 24) (bitsOf (w 1) 32 16)
    (fun k => (q.el m a k).toNat) (fun k => if noprev then 0 else (q.el m b k).toNat) q.n) t0
  let m := putRun l ((q.d d).row 0) 8 (fun k => ((t.out.map (·.2)).getD k 0 : Nat)) q.n m
  let m := t.apps.foldl (fun m p => putBytes l m (bitsOf (w 1) 0 22 + 8 * p.1) p.2 8) m
  let m := putBytes l m c (bitsOf t.next 0 24) 3
  let m := putBytes l m (c + 16) (t.mcnt + t.mdrop * 2 ^ 32) 8
  { x := { x with scratch := putBytes l m (c + 24) t.stormCnt 4 },
    wr := [(c, 8), (c + 16, 16)] ++ t.apps.map (fun p => (bitsOf (w 1) 0 22 + 8 * p.1, 8)) }

/-! ### Features (R98, R99) -/

/-- A feature record (Table 3.11). -/
structure Feat where
  area : Nat
  strong : Nat
  sum : Int
  peak : Int
  flags : Nat
  into : Nat
  xf : Nat
  xmin : Nat
  xmax : Nat
  yf : Nat
  ymin : Nat
  ymax : Nat
  sdx : Int
  sdy : Int
  sdxx : Int
  sdxy : Int
  sdyy : Int
  deriving DecidableEq, Repr

/-- The record at a scratch address. -/
def readFeat (m : List Host.Cell) (a : Nat) : Feat :=
  let w (i : Nat) : Nat := scrRead m (a + 8 * i) 8
  let s (i : Nat) : Int := toSigned 64 (w i)
  ⟨bitsOf (w 0) 0 32, bitsOf (w 0) 32 32, s 1, toSigned 16 (bitsOf (w 2) 0 16), bitsOf (w 2) 16 8, bitsOf (w 2) 24 24,
   bitsOf (w 3) 0 20, bitsOf (w 3) 20 20, bitsOf (w 3) 40 20, bitsOf (w 4) 0 24, bitsOf (w 4) 24 24, bitsOf (w 5) 0 24,
   s 6, s 7, s 8, s 9, s 10⟩

/-- Write a record back; f11 to f15 and the unused bits of f2 to f5 are left as they are. -/
def writeFeat (l : Limits) (m : List Host.Cell) (a : Nat) (f : Feat) : List Host.Cell :=
  let up (i lo n v : Nat) : Nat := let o := scrRead m (a + 8 * i) 8; o - bitsOf o lo n * 2 ^ lo + v
  let w (i v : Nat) (m : List Host.Cell) : List Host.Cell := putBytes l m (a + 8 * i) v 8
  let m1 := w 0 (f.area + f.strong * 2 ^ 32) m
  let m1 := w 1 (ofSigned 64 f.sum) m1
  let m1 := w 2 (up 2 0 48 (ofSigned 16 f.peak + f.flags * 2 ^ 16 + f.into * 2 ^ 24)) m1
  let m1 := w 3 (up 3 0 60 (f.xf + f.xmin * 2 ^ 20 + f.xmax * 2 ^ 40)) m1
  let m1 := w 4 (up 4 0 48 (f.yf + f.ymin * 2 ^ 24)) m1
  let m1 := w 5 (up 5 0 24 f.ymax) m1
  let m1 := w 6 (ofSigned 64 f.sdx) m1
  let m1 := w 7 (ofSigned 64 f.sdy) m1
  let m1 := w 8 (ofSigned 64 f.sdxx) m1
  let m1 := w 9 (ofSigned 64 f.sdxy) m1
  w 10 (ofSigned 64 f.sdyy) m1

/-- A difference of rows, modulo 2^24, read as signed. -/
def rowDiff (a b : Nat) : Int := toSigned 24 (a + 2 ^ 24 - b % 2 ^ 24)

/-- The moments of a record replaced by saturated values; SAT is set when one saturated. -/
def Feat.moments (f : Feat) (a b c d e : Int) : Feat :=
  let hit := [a, b, c, d, e].any (fun v => decide (satS64 v ≠ v))
  { f with sdx := satS64 a, sdy := satS64 b, sdxx := satS64 c, sdxy := satS64 d, sdyy := satS64 e,
           flags := if hit then f.flags ||| 1 else f.flags }

/-- The root record of a label: MERGED records are followed for at most 4 links. -/
def featRoot (m : List Host.Cell) (tab base cnt : Nat) : Nat → Nat → Option (Nat × Nat)
  | 0, _ => none
  | n + 1, lab =>
    let i := (lab + 2 ^ 24 - base) % 2 ^ 24
    if cnt ≤ i then none
    else
      let a := tab + 128 * i
      let f2 := scrRead m (a + 16) 8
      if bitsOf f2 17 1 = 1 then featRoot m tab base cnt n (bitsOf f2 24 24) else some (a, lab)

/-- The merged records a search of a root passes through, whose f2 it reads, and the root it ends at. -/
def featPath (m : List Host.Cell) (tab base cnt : Nat) : Nat → Nat → List (Nat × Nat)
  | 0, _ => []
  | n + 1, lab =>
    let i := (lab + 2 ^ 24 - base) % 2 ^ 24
    if cnt ≤ i then []
    else
      let a := tab + 128 * i
      let f2 := scrRead m (a + 16) 8
      if bitsOf f2 17 1 = 1 then (a + 16, 8) :: featPath m tab base cnt n (bitsOf f2 24 24) else [(a, 88)]

/-- A list of ranges with one more, unless it is there. -/
def addRange (l : List (Nat × Nat)) (r : Nat × Nat) : List (Nat × Nat) := if l.contains r then l else r :: l

/-- Add one pixel to a record. SUM is S64 and the rule has it saturate nowhere: it wraps modulo 2^64, here and in the merge
of R99 (DESIGN CHOICE, log 141). -/
def Feat.add (f : Feat) (x y : Nat) (score : Int) (strong : Bool) : Feat :=
  let f := if f.area = 0 then
      { f with xf := x, xmin := x, xmax := x, yf := y, ymin := y, ymax := y, peak := score, flags := 0,
               sum := 0, sdx := 0, sdy := 0, sdxx := 0, sdxy := 0, sdyy := 0 }
    else f
  let dx : Int := (x : Int) - f.xf
  let dy := rowDiff y f.yf
  let f := { f with
    area := min (f.area + 1) (2 ^ 32 - 1)
    strong := if strong then min (f.strong + 1) (2 ^ 32 - 1) else f.strong
    sum := toSigned 64 (ofSigned 64 (f.sum + score))
    peak := if |f.peak| < |score| then score else f.peak
    xmin := min f.xmin x
    xmax := max f.xmax x
    ymin := if dy < rowDiff f.ymin f.yf then y else f.ymin
    ymax := if rowDiff f.ymax f.yf < dy then y else f.ymax }
  f.moments (f.sdx + dx) (f.sdy + dy) (f.sdxx + dx * dx) (f.sdxy + dx * dy) (f.sdyy + dy * dy)

/-- feat (R98). x' = X0 + x is taken modulo 2^20, the width of the columns it is held in (DESIGN CHOICE, log 142). -/
def featRow (l : Limits) (q : QEntry) (x : Engine) (a b : BitVec 4) (c : Nat) (z : BitVec 4) (zen : Bool) : TileOut :=
  let m0 := x.scratch
  let w (i : Nat) : Nat := scrRead m0 (c + 8 * i) 8
  let y := bitsOf (w 2) 24 24
  let tab := bitsOf (w 0) 0 22
  let base := bitsOf (w 0) 24 24
  let cnt := bitsOf (w 1) 0 24
  let step (p : List Host.Cell × Nat) (k : Nat) : List Host.Cell × Nat :=
    let lab := (q.el m0 a k).toNat
    if lab = 0 ∨ lab = storm then p
    else match featRoot p.1 tab base cnt 5 lab with
      | none => (p.1, min (p.2 + 1) (2 ^ 32 - 1))
      | some r =>
        let f := (readFeat p.1 r.1).add ((bitsOf (w 2) 0 20 + k) % 2 ^ 20) y (q.el m0 b k)
          (zen && decide (q.el m0 z k = 2))
        (writeFeat l p.1 r.1 f, p.2)
  let p := (List.range q.n).foldl step (m0, bitsOf (w 3) 0 32)
  let m := putBytes l p.1 (c + 24) p.2 4
  let seen := ((List.range q.n).flatMap (fun k =>
    let lab := (q.el m0 a k).toNat
    if lab = 0 ∨ lab = storm then [] else featPath m0 tab base cnt 5 lab)).foldl addRange []
  { x := { x with scratch := putBytes l m (c + 19) ((y + 1) % 2 ^ 24) 3 }, rd := seen,
    wr := [(c + 16, 16)] ++ seen.filter (fun r => decide (r.2 = 88)) }

/-- Merge root b, the higher label, into root a (R99). -/
def Feat.merge (a b : Feat) (la : Nat) : Feat × Feat :=
  let gone : Feat := { b with flags := b.flags ||| 2, into := la }
  if b.area = 0 then ({ a with flags := a.flags ||| b.flags }, gone)
  else if a.area = 0 then
    ({ b with flags := a.flags ||| b.flags, into := a.into }, gone)
  else
    let dx : Int := (b.xf : Int) - a.xf
    let dy := rowDiff b.yf a.yf
    let n : Int := b.area
    let c := { a with
      area := min (a.area + b.area) (2 ^ 32 - 1)
      strong := min (a.strong + b.strong) (2 ^ 32 - 1)
      sum := toSigned 64 (ofSigned 64 (a.sum + b.sum))
      peak := if |a.peak| < |b.peak| then b.peak else a.peak
      xmin := min a.xmin b.xmin
      xmax := max a.xmax b.xmax
      ymin := if rowDiff b.ymin a.yf < rowDiff a.ymin a.yf then b.ymin else a.ymin
      ymax := if rowDiff a.ymax a.yf < rowDiff b.ymax a.yf then b.ymax else a.ymax }
    let c := c.moments (a.sdx + b.sdx + n * dx) (a.sdy + b.sdy + n * dy)
      (a.sdxx + b.sdxx + 2 * dx * b.sdx + n * dx * dx)
      (a.sdxy + b.sdxy + dx * b.sdy + dy * b.sdx + n * dx * dy)
      (a.sdyy + b.sdyy + 2 * dy * b.sdy + n * dy * dy)
    ({ c with flags := c.flags ||| b.flags }, gone)

/-- Entry `k` of the merge list: the root with the higher label is merged into the other. -/
def fmrgStep (l : Limits) (tab base cnt mlist : Nat) (p : List Host.Cell × Nat) (k : Nat) : List Host.Cell × Nat :=
  let ent := scrRead p.1 (mlist + 8 * k) 8
  match featRoot p.1 tab base cnt 5 (bitsOf ent 0 24), featRoot p.1 tab base cnt 5 (bitsOf ent 24 24) with
  | some r, some r' =>
    if r.1 = r'.1 then p
    else
      let a := if r.2 ≤ r'.2 then r else r'
      let b := if r.2 ≤ r'.2 then r' else r
      let f := (readFeat p.1 a.1).merge (readFeat p.1 b.1) a.2
      (writeFeat l (writeFeat l p.1 a.1 f.1) b.1 f.2, p.2)
  | _, _ => (p.1, min (p.2 + 1) (2 ^ 32 - 1))

/-- fmrg (R99): `lc` and `fc` are the addresses of the label and the feature context. -/
def fmrgRun (l : Limits) (x : Engine) (pairs lc fc : Nat) : TileOut :=
  let m := x.scratch
  let c2 := scrRead m (lc + 16) 8
  let head := bitsOf (scrRead m (lc + 24) 8) 32 32
  let stop := min (bitsOf c2 0 32) (head + pairs)
  let w (i : Nat) : Nat := scrRead m (fc + 8 * i) 8
  let tab := bitsOf (w 0) 0 22
  let base := bitsOf (w 0) 24 24
  let cnt := bitsOf (w 1) 0 24
  let mlist := bitsOf (scrRead m (lc + 8) 8) 0 22
  let ks := (List.range stop).drop head
  let p := ks.foldl (fmrgStep l tab base cnt mlist) (m, bitsOf (w 3) 0 32)
  let seen := (ks.flatMap (fun k =>
    let ent := scrRead m (mlist + 8 * k) 8
    featPath m tab base cnt 5 (bitsOf ent 0 24) ++ featPath m tab base cnt 5 (bitsOf ent 24 24))).foldl addRange []
  let m' := putBytes l p.1 (fc + 24) p.2 4
  let head := max head stop
  let done := decide (bitsOf c2 0 32 ≤ head)
  { x := { x with scratch := if done then putBytes l (putBytes l m' (lc + 16) 0 4) (lc + 28) 0 4
             else putBytes l m' (lc + 28) head 4 },
    rd := ks.map (fun k => (mlist + 8 * k, 8)) ++ seen,
    wr := (if done then [(lc + 16, 8)] else []) ++ [(lc + 24, 8), (fc + 24, 8)] ++ seen.filter (fun r => decide (r.2 = 88)) }

/-! ### Statistics and check values (R100, R101) -/

/-- stat for one element: `a` as it reads, `v` as R100 takes it. -/
def Acc.stat (c : Acc) (satlev : Nat) (a : Int) (v : Nat) : Acc :=
  { c with sum := satS64 (c.sum + a), ssq := min (c.ssq + (a * a).toNat) (2 ^ 64 - 1),
           cnt := min (c.cnt + 1) (2 ^ 32 - 1), nsat := min (c.nsat + if satlev ≤ v then 1 else 0) (2 ^ 32 - 1),
           mn := min c.mn v, mx := max c.mx v }

/-- v of R100: A for U16, A + 32,768 for S16. -/
def statV (fmt : Nat) (a : Int) : Nat := lutIn fmt a

/-- Add 1 to histogram bins, saturating. -/
def histAdd (h : List (Nat × Nat)) (bin : Nat → Nat) : List Nat → List (Nat × Nat)
  | [] => h
  | k :: ks => histAdd (put (fun _ => 0) h (bin k) (min (look (fun _ => 0) h (bin k) + 1) (2 ^ 32 - 1))) bin ks

/-- One bit of CRC-32C. -/
def crcBit (c : BitVec 32) : BitVec 32 := if c.getLsbD 0 then (c >>> 1) ^^^ 0x82F63B78#32 else c >>> 1

/-- One byte of CRC-32C, reflected, without a final XOR. -/
def crcByte (c : BitVec 32) (b : Byte) : BitVec 32 :=
  let c := c ^^^ b.zeroExtend 32
  crcBit (crcBit (crcBit (crcBit (crcBit (crcBit (crcBit (crcBit c)))))))

/-- The check value carried over `n` bytes from `a`. -/
def crcBytes (m : List Host.Cell) (c : BitVec 32) (a : Nat) : Nat → BitVec 32
  | 0 => c
  | n + 1 => crcBytes m (crcByte c (look (fun _ => 0) m a)) (a + 1) n

/-! ### Table and histogram stores (Table 3.5) -/

/-- The entries of a table slot as scratch holds them from `a`: those that are not 0. -/
def tabFrom (m : List Host.Cell) (t a : Nat) : List (Nat × Nat) :=
  let touched := ((m.filter (fun e => decide (a ≤ e.1) && decide (e.1 < a + 8192) && decide (e.1 < scratchSize))).map
    (fun e => (e.1 - a) / 2)).dedup
  (touched.map (fun i => (t * 4096 + i, readLE m (a + 2 * i) 2))).filter (fun e => decide (e.2 ≠ 0))

/-- The two stores' bins, as hput writes them. -/
def hputMem (l : Limits) (m : List Host.Cell) (h0 h1 : List (Nat × Nat)) (a : Nat) : List Host.Cell :=
  let m := m.filter (fun e => !(decide (a ≤ e.1) && decide (e.1 < a + 16384) && l.open e.1))
  let bin (b : Nat) : Nat := min (look (fun _ => 0) h0 b + look (fun _ => 0) h1 b) (2 ^ 32 - 1)
  ((h0 ++ h1).map (·.1)).foldl (fun m b => putBytes l m (a + 4 * b) (bin b) 4) m

/-- The effect of each instruction of 3.5.5 to 3.5.8 and of the queued ones of Table 3.5 on the engine. -/
def tileSieve (l : Limits) (q : QEntry) (x : Engine) : Option TileOut :=
  let m := x.scratch
  let n := q.n
  let A (r : BitVec 4) (k : Nat) : Int := q.el m r k
  let kept (m' : BitVec 4) (men : Bool) (ks : List Nat) : List Nat :=
    ks.filter (fun k => !(men && decide (A m' k = 1)))
  match q.i with
  | .scor _ _ d a b sh qr pen k men =>
    some (writeEl l q x d n (fun i =>
      if men && decide (A k i = 1) then 0
      else
        let r := (A b i).toNat
        rnd ((A a i - (r % 65536 : Nat) - if pen then A qr i else 0) * (r / 65536 : Nat)) sh.toNat))
  | .thr _ _ d a s pol =>
    some (writeEl l q x d n (fun k => thrEl (A a k) (toSigned 16 (bitsOf (q.s s) 0 16))
      (toSigned 16 (bitsOf (q.s s) 16 16)) pol.toNat))
  | .morph _ _ d a er cr => some (writeEl l q x d n (morphEl er cr n (fun r c => (q.d a).el m r c)))
  | .lbl _ _ d a b c np => some (lblRow l q x d a b (q.s c) np)
  | .feat _ _ a b c z zen => some (featRow l q x a b (q.s c) z zen)
  | .fmrg _ _ np a b => some (fmrgRun l x ((np.toNat + 1) * 16) (q.s a) (q.s b))
  | .stat _ _ ad a s mk men =>
    some { x := onAccs x ad 2 16 n (fun c ks => (kept mk men ks).foldl
      (fun c k => c.stat (bitsOf (q.s s) 0 16) (A a k) (statV (q.d a).fmt (A a k))) c) }
  | .hist _ _ a nb sh mk men =>
    let bin (k : Nat) : Nat := min (statV (q.d a).fmt (A a k) / 2 ^ sh.toNat) (2 ^ nb.toNat - 1)
    let h := tile0 16 n
    some { x := { x with hist0 := histAdd x.hist0 bin (kept mk men (List.range (min h n))),
                         hist1 := histAdd x.hist1 bin (kept mk men ((List.range n).drop h)) } }
  | .crc _ _ ad a =>
    let c := look (fun _ => Acc.clear) x.acc0 ad.toNat
    let c := { c with crc := crcBytes m c.crc ((q.d a).row 0) (runBytes (q.d a).fmt n) }
    some { x := { x with acc0 := put (fun _ => Acc.clear) x.acc0 ad.toNat c } }
  | .aclr _ _ ad => some { x := { x with acc0 := drop1 x.acc0 ad.toNat, acc1 := drop1 x.acc1 ad.toNat } }
  | .tld _ _ t a =>
    some { x := { x with tabs := replaceRange (fun _ => 0) x.tabs (t.toNat * 4096) 4096 (tabFrom m t.toNat (q.s a)) } }
  | .hclr _ _ => some { x := { x with hist0 := [], hist1 := [] } }
  | .hput _ _ a => some { x := { x with scratch := hputMem l m x.hist0 x.hist1 (q.s a) }, wr := [(q.s a, 16384)] }
  | _ => none

end Sys2Proof.Machine
end

