-- ==== Sys2Proof/Machine/Admission.lean ====
section
/-! DEFINITION. The admission walker: the checks of Table 2.13 in their order, the bound of R57 and the LOOK bound of
R262. -/

namespace Sys2Proof.Machine

/-- Whether the cadence unit runs. -/
def State.cadOn (s : State) : Bool := decide (s.rf Rf.CAD_GEAR_STATE ≠ 0)

/-- The band budget B (R116). -/
def State.budget (s : State) : Nat :=
  s.rf Rf.CAD_PERIOD_PERIOD_NS * s.rf Rf.CAD_BUDGET_CLK_MHZ * (256 - s.rf Rf.CAD_GEOM_RESERVE) / 256000

/-! ### An image (Tables 2.11 and 2.12) -/

abbrev Image := List (Nat × Word)

def Image.w (m : Image) (i : Nat) : Nat := (look (fun _ => (0 : Word)) m i).toNat
def Image.f (m : Image) (i lo n : Nat) : Nat := bitsOf (m.w i) lo n
def Image.loadCnt (m : Image) : Nat := m.f 0 48 8
def Image.codeLen (m : Image) : Nat := m.f 0 32 16
def Image.code0 (m : Image) : Nat := 8 + 4 * m.loadCnt
def Image.words (m : Image) : Nat := m.code0 + m.codeLen

/-- Field of word `w` of load entry `k`. -/
def Image.e (m : Image) (k w lo n : Nat) : Nat := m.f (8 + 4 * k + w) lo n

/-- CRC-32C over the image, its CRC field taken as 0. -/
def Image.crc (m : Image) : Nat :=
  let byte (c : BitVec 32) (k : Nat) : BitVec 32 :=
    crcByte c (if 56 ≤ k ∧ k < 60 then 0 else BitVec.ofNat 8 (m.w (k / 8) / 2 ^ (8 * (k % 8))))
  (((List.range (8 * m.words)).foldl byte 0xFFFFFFFF#32) ^^^ 0xFFFFFFFF#32).toNat

/-- A refusal: its result and the image word it is found at. -/
abbrev Refused := Option (Nat × Nat)

/-- The first refusal of a list of checks. -/
def firstRefused : List Refused → Refused
  | [] => none
  | some r :: _ => some r
  | none :: rs => firstRefused rs

/-- A refusal where a condition fails. -/
def must (c : Bool) (result index : Nat) : Refused := if c then none else some (result, index)

/-! ### Result HEADER -/

/-- Word 0 to 7 of the header hold values in their ranges and no reserved bit. -/
def Image.headerWord (m : Image) (i : Nat) : Bool :=
  match i with
  | 0 => decide (m.f 0 0 16 = 0x4A58) && decide (m.f 0 16 8 = 1) && decide (m.f 0 56 8 = 0) &&
      decide (1 ≤ m.codeLen) && decide (m.codeLen ≤ 16312) && decide (m.loadCnt ≤ 16) && decide (m.words ≤ 16384) &&
      decide (1 ≤ m.f 0 24 8) && decide (m.f 0 24 8 ≤ 4)
  | 1 => decide (m.f 1 16 16 ≤ 32768) && decide (m.f 1 48 16 ≤ 4096)
  | 4 => decide (m.f 4 32 32 = 0)
  | 7 => decide (m.f 7 32 32 = 0) && decide (m.f 7 0 32 = m.crc)
  | _ => true

/-- Word `w` of load entry `k` holds values in its ranges and no reserved bit. -/
def Image.entryWord (m : Image) (k w : Nat) : Bool :=
  let port := decide (m.e k 0 5 1 = 1)
  let n (lo : Nat) : Bool := decide (1 ≤ m.e k 0 lo 16) && decide (m.e k 0 lo 16 ≤ 4096)
  match w with
  | 0 => decide (m.e k 0 6 2 = 0) && decide (m.e k 0 12 4 = 0) && decide (m.e k 0 48 16 = 0) && n 16 && n 32 &&
      (!port || decide (m.e k 0 8 4 = 0))
  | 1 => decide (m.e k 1 40 24 = 0) && (!port || decide (m.e k 1 0 40 = 0))
  | 3 => decide (1 ≤ m.e k 3 32 8)
  | _ => true

def Image.checkHeader (m : Image) : Refused :=
  firstRefused (((List.range 8).map (fun i => must (m.headerWord i) 2 i)) ++
    (List.range (4 * m.loadCnt)).map (fun j => must (m.entryWord (j / 4) (j % 4)) 2 (8 + j)))

/-! ### The code -/

/-- The instructions of the code, none for an undefined word. -/
def Image.code (m : Image) (e : Eng) : List (Option Instr) :=
  (List.range m.codeLen).map (fun i => imageInstr e (m.w (m.code0 + i)))

/-- The position of the first instruction that fails a test of its position and itself. -/
def firstBad (ok : Nat → Instr → Bool) (base : Nat) : List Instr → Option Nat
  | [] => none
  | i :: is => if ok base i then firstBad ok (base + 1) is else some base

/-- The loop bodies of a code: first position and the position after the last. -/
def bodies (base : Nat) : List Instr → List (Nat × Nat)
  | [] => []
  | i :: is =>
    match i with
    | .loop _ _ len => (base + 1, base + 1 + len.toNat) :: bodies (base + 1) is
    | .loopr _ _ _ _ len => (base + 1, base + 1 + len.toNat) :: bodies (base + 1) is
    | _ => bodies (base + 1) is

/-- The bodies that hold a position. -/
def holding (bs : List (Nat × Nat)) (p : Nat) : List (Nat × Nat) :=
  bs.filter (fun b => decide (b.1 ≤ p) && decide (p < b.2))

/-- The innermost of the bodies that hold a position: the one that begins last. -/
def innermost (bs : List (Nat × Nat)) (p : Nat) : Option (Nat × Nat) := (holding bs p).getLast?

/-- R44: the target lies after the branch, in no body that does not hold the branch, and within the innermost body
that does or just after it; outside every body, at a later instruction of the program. -/
def branchOk (bs : List (Nat × Nat)) (n p : Nat) (i : Instr) : Bool :=
  match i with
  | .br _ _ off =>
    let t := p + off.toNat
    match innermost bs p with
    | some b => decide (t = b.2) || (decide (t < b.2) && holding bs t == holding bs p)
    | none => decide (t < n) && (holding bs t).isEmpty
  | _ => true

/-- R43: a body holds an instruction, lies in the program and in every body that holds its loop, and no more than four nest. -/
def loopOk (bs : List (Nat × Nat)) (n p : Nat) (i : Instr) : Bool :=
  let ok (len : Nat) : Bool :=
    decide (1 ≤ len) && decide (p + 1 + len ≤ n) && decide ((holding bs p).length < 4) && (holding bs p).all (fun b => decide (p + 1 + len ≤ b.2))
  match i with
  | .loop _ _ len => ok len.toNat
  | .loopr _ _ _ _ len => ok len.toNat
  | _ => true

/-- The positions of the wticks of a code. -/
def wticks (base : Nat) : List Instr → List Nat
  | [] => []
  | i :: is => match i with
    | .wtick _ => base :: wticks (base + 1) is
    | _ => wticks (base + 1) is

/-- Result WTICK: where it is found. -/
def wtickBad (bs : List (Nat × Nat)) (code : List Instr) : Option Nat :=
  match wticks 0 code with
  | [] => some (code.length - 1)
  | [p] => if p + 1 = code.length ∧ (holding bs p).isEmpty then none else some p
  | _ :: q :: _ => some q

/-- FIELD: an ldw names a descriptor that a load entry binds. -/
def Image.ldwOk (m : Image) (i : Instr) : Bool :=
  match i with
  | .ldw _ d _ => (List.range m.loadCnt).any (fun k => m.e k 0 0 4 == d.toNat)
  | _ => true

/-! ### Result SCRATCH: areas in units of 64 bytes -/

def areaClash (a b : Nat × Nat) : Bool := decide (a.2 ≠ 0) && decide (b.2 ≠ 0) && overlap a b
def areaOut (a : Nat × Nat) : Bool := decide (a.2 ≠ 0) && decide (65536 < a.1 + a.2)

def Image.constArea (m : Image) : Nat × Nat := (m.f 1 0 16, m.f 1 16 16)
def Image.carryArea (m : Image) : Nat × Nat := (m.f 1 32 16, m.f 1 48 16)
def Image.loadArea (m : Image) (k : Nat) : Nat × Nat := (m.e k 3 0 16, 2 * m.e k 3 16 16)

def Image.checkScratch (m : Image) : Refused :=
  let c := m.constArea
  let y := m.carryArea
  let bad (k : Nat) : Bool :=
    let a := m.loadArea k
    areaOut a || areaClash a c || areaClash a y ||
      (List.range m.loadCnt).any (fun j => decide (j ≠ k) && areaClash a (m.loadArea j))
  firstRefused (must (!(areaOut c || areaOut y || areaClash c y)) 9 1 ::
    (List.range m.loadCnt).map (fun k => must (!bad k) 9 (8 + 4 * k + 3)))

/-! ### Result CHAIN (R351) -/

def Image.chainOf (m : Image) (q : Nat) : Nat := bitsOf (m.w (2 + q / 8)) (8 * (q % 8)) 8
def Image.bound? (m : Image) (q : Nat) : Bool := decide (m.f 4 q 1 = 1)
def Image.out? (m : Image) (q : Nat) : Bool := decide (m.f 4 (16 + q) 1 = 1)

/-- A bound handle names a chain on which the unit is what the handle says. -/
def State.handleOk (s : State) (m : Image) (u q : Nat) : Bool :=
  !m.bound? q || (if m.out? q then s.isProducer (m.chainOf q) u else s.rf (Rf.CHN_CFG_CONS (m.chainOf q)) == u)

/-- An instruction uses handles as they are bound. -/
def Image.handleUse (m : Image) (i : Instr) : Bool :=
  match i with
  | .push _ _ q _ | .pushr _ _ q _ | .commit _ _ q | .rewind _ _ q | .cred _ _ _ q => m.bound? q.toNat && m.out? q.toNat
  | .pop _ _ _ q | .cnt _ _ _ q => m.bound? q.toNat && !m.out? q.toNat
  | _ => true

def State.checkChain (s : State) (m : Image) (sec u : Nat) (code : List Instr) : Refused :=
  let entry (k : Nat) : Bool :=
    if m.e k 0 5 1 = 1 then decide (sec = 1) else m.bound? (m.e k 0 8 4) && !m.out? (m.e k 0 8 4)
  firstRefused (((List.range 16).map (fun q => must (s.handleOk m u q) 10 (2 + q / 8))) ++
    ((List.range m.loadCnt).map (fun k => must (entry k) 10 (8 + 4 * k))) ++
    [(firstBad (fun _ i => m.handleUse i) 0 code).map (fun p => (10, m.code0 + p))])

/-! ### Result GEOMETRY -/

/-- The width W of port `p`. -/
def State.width (s : State) (p : Nat) : Nat := s.rf (Rf.SPK_FMT_WIDTH p) + 1

/-- The bytes Bp of a packed line of port `p`: its width in its sample format, rounded up to 64 (Table 6.1). -/
def State.packedLine (s : State) (p : Nat) : Nat :=
  roundUp (ceilDiv (s.width p * s.rf (Rf.SPK_FMT_BITS p)) 8) 64

def State.checkGeometry (s : State) (m : Image) (u : Nat) : Refused :=
  firstRefused ((List.range m.loadCnt).map (fun k =>
    must (decide (m.e k 0 16 16 * m.e k 0 32 16 = s.rf Rf.CAD_GEOM_HEIGHT) &&
      (decide (m.e k 0 5 1 = 0) || decide (m.e k 3 40 24 = s.packedLine u))) 11 (8 + 4 * k)))

/-! ### The bounds -/

/-- The longest path from each position of a range to its end, its end last; every loop its count times its body
(R57). -/
def paths : Nat → List Instr → List Nat
  | 0, _ => [0]
  | _ + 1, [] => [0]
  | fuel + 1, i :: is =>
    let r := paths fuel is
    let body (n len : Nat) : Nat := cost i + n * (paths fuel (is.take len)).headD 0 + r.getD len 0
    let v := match i with
      | .loop _ n len => body n.toNat len.toNat
      | .loopr _ _ _ m len => body m.toNat len.toNat
      | .br _ _ off => cost i + max (r.headD 0) (r.getD (off.toNat - 1) 0)
      | _ => cost i + r.headD 0
    v :: r

/-- The bound of a code. -/
def pathBound (code : List Instr) : Nat := (paths code.length code).headD 0

/-- The commit that ends a LOOK path: guard 0x0, on a handle of the seam chain. -/
def isLookCommit (seam : Nat → Bool) (i : Instr) : Bool :=
  match i with
  | .commit _ g q => decide (g = 0) && seam q.toNat
  | _ => false

/-- The largest charge from each position to such a commit; none where some path has none, or meets one in the body of a
loop. -/
def lookPaths (seam : Nat → Bool) : List Instr → List (Option Nat)
  | [] => [none]
  | i :: is =>
    let r := lookPaths seam is
    let at' (k : Nat) : Option Nat := (r.getD k none)
    let round (n len : Nat) : Option Nat :=
      if (is.take len).any (isLookCommit seam) then none else (at' len).map (fun x => x + cost i + n * pathBound (is.take len))
    let v := match i with
      | .loop _ n len => round n.toNat len.toNat
      | .loopr _ _ _ m len => round m.toNat len.toNat
      | .br _ _ off => match at' 0, at' (off.toNat - 1) with
        | some x, some y => some (cost i + max x y)
        | _, _ => none
      | .wtick _ => none
      | _ => if isLookCommit seam i then some (cost i) else (at' 0).map (· + cost i)
    v :: r

/-- The LOOK bound of a Sieve program (R262): of the paths to the first such commit; one that stands in a loop behind it
ends no path. -/
def lookBound (seam : Nat → Bool) (code : List Instr) : Nat :=
  match (lookPaths seam code).headD none with
  | some n => min n 0xFFFFFFFF
  | none => 0xFFFFFFFF

/-! ### The walk -/

/-- What a walk finds: the first refusal of Table 2.13, or admission with its bounds. -/
def State.walkResult (s : State) (e : Eng) (m : Image) : Walk :=
  let sec := engSection e
  let u := s.unitOf e
  let at' (r : Nat) (p : Option Nat) : Refused := p.map (fun k => (r, m.code0 + k))
  match m.checkHeader with
  | some (r, i) => ⟨r, i, 0, 0⟩
  | none =>
    let words := m.code e
    let code := words.filterMap id
    let undef := words.findIdx? (fun i => match i with
      | some j => !availableIn sec j
      | none => true)
    match firstRefused [must (decide (m.f 0 24 8 = sec)) 3 0, at' 4 undef] with
    | some (r, i) => ⟨r, i, 0, 0⟩
    | none =>
      let bs := bodies 0 code
      let n := code.length
      match firstRefused [at' 5 (firstBad (fun _ i => m.ldwOk i) 0 code), at' 6 (firstBad (branchOk bs n) 0 code),
          at' 7 (firstBad (loopOk bs n) 0 code), at' 8 (wtickBad bs code), m.checkScratch,
          s.checkChain m sec u code, s.checkGeometry m u] with
      | some (r, i) => ⟨r, i, 0, 0⟩
      | none =>
        let b := pathBound code
        if s.budget < b ∨ 2 ^ 64 ≤ b then ⟨12, m.code0, 0, 0⟩
        else
          let seam (q : Nat) : Bool := m.bound? q && m.out? q && m.chainOf q == s.rf Rf.SIV_CHAINS_SEAM
          ⟨1, 0, b, if sec = 3 then lookBound seam code else 0⟩

end Sys2Proof.Machine
end

