-- ==== Sys2Proof/Machine/Program.lean ====
section
/-! DEFINITION. Loading, admitting and swapping programs: the writes of an engine's memory and the bits of its ENG_CTRL
register (2.6, R54 to R60). -/

namespace Sys2Proof.Machine

/-- The engine and the unit an event names (R69): the engine, plus 256 times the unit it serves. -/
def State.engUnit (s : State) (e : Nat) : Nat := e + 256 * s.unitOf e

/-- Where an engine's shadow lies in the hub (R308). -/
def shadowBase (e : Nat) : Nat := 0x300000 * e
def shadowConst (e : Nat) : Nat := shadowBase e + 0x100000

/-- The bank that runs and the one that takes the next image. -/
def State.activeBank (s : State) (e : Nat) : Bool := s.bit (Rf.ENG_STATUS_ACTIVE_BANK e)
def Engine.bank (x : Engine) (b : Bool) : Image := if b then x.bank1 else x.bank0
def Engine.setBank (x : Engine) (b : Bool) (m : Image) : Engine := if b then { x with bank1 := m } else { x with bank0 := m }
def Engine.adm (x : Engine) (b : Bool) : BankAdm := if b then x.adm1 else x.adm0
def Engine.setAdm (x : Engine) (b : Bool) (a : BankAdm) : Engine := if b then { x with adm1 := a } else { x with adm0 := a }
def State.staging (s : State) (e : Nat) : Image := (s.eng e).bank (!s.activeBank e)

/-- Record what the staging bank is admitted as, and show it. -/
def State.setStaging (s : State) (e : Nat) (a : BankAdm) : State :=
  let s := s.setEng e ((s.eng e).setAdm (!s.activeBank e) a)
  (s.setrf (Rf.ENG_ADM_RESULT e) a.result).setrf (Rf.ENG_BOUND_BOUND e) a.bound

/-- A refusal: its result and index, with event 0xD002; the bound shown is not written. -/
def State.refuseImage (s : State) (e result index : Nat) : State :=
  let old := (s.eng e).adm (!s.activeBank e)
  ((s.setStaging e { old with result := result }).setrf (Rf.ENG_ADM_INDEX e) index).raise 0xD002 (s.engUnit e) result index

/-- SWAP_ARMED reads 1 while a swap or a reload is armed. -/
def State.showArmed (s : State) (e : Nat) : State :=
  s.setrf (Rf.ENG_STATUS_SWAP_ARMED e) (if (s.eng e).swapAt.isSome || (s.eng e).loadAt.isSome then 1 else 0)

def State.disarmSwap (s : State) (e : Nat) : State := (s.setEng e { s.eng e with swapAt := none }).showArmed e

/-- The words of a bank as hub cells from an address. -/
def bankCells (m : Image) (a : Nat) : List Host.Cell := m.flatMap (fun w => cellsOf (a + 8 * w.1) w.2.toNat 8)

/-- Copy a bank of an engine to its shadow. -/
def State.shadowBank (s : State) (e : Nat) (b : Bool) : State :=
  let a := shadowBase e + (if b then 0x20000 else 0)
  s.hubWrite true (s.unitOf e) a 0x20000 (bankCells ((s.eng e).bank b) a)

/-- Copy the constant image at ENG_CONST_SRC to the shadow: `n` bytes. -/
def State.shadowConstants (s : State) (e n : Nat) : State :=
  let a := s.rf (Rf.ENG_CONST_SRC_HUB_ADDR e)
  let r := s.readAs 3 (s.unitOf e) a n
  r.1.hubWrite true (s.unitOf e) (shadowConst e) n (moveCells r.2 a (shadowConst e))

/-- The size of an image's constant region in bytes, at most the 2 MiB its range allows. -/
def Image.constBytes (m : Image) : Nat := min (m.f 1 16 16) 32768 * 64

/-! ### The constant region (R53, R60) -/

/-- The constant region takes the shadow's constant image. -/
def State.loadConstants (s : State) (e : Nat) : State :=
  let n := min (s.constSize e) 0x200000
  let b := s.constBase e
  let r := s.readAs 3 (s.unitOf e) (shadowConst e) n
  let x := r.1.eng e
  r.1.setEng e { x with scratch := replaceRange (fun _ => 0) x.scratch b n (moveCells r.2 (shadowConst e) b) }

/-- An armed reload applies. -/
def State.applyReload (s : State) (e band : Nat) : State :=
  let s := s.loadConstants e
  let s := (s.setEng e { s.eng e with loadAt := none }).showArmed e
  (s.setrf (Rf.ENG_SWAP_AT_BAND e) band).raise 0xD004 (s.engUnit e) band

/-! ### The swap (R58, R59) -/

/-- A swap applies: the banks change places, each with its admission, and the LOOK bound of a Sieve unit becomes that
of its new program (R262). -/
def State.applySwap (s : State) (e band : Nat) : State :=
  let x := s.eng e
  let b := !s.activeBank e
  let new := x.adm b
  let old := x.adm (!b)
  let u := s.unitOf e
  let s := (s.setEng e { x with swapAt := none }).showArmed e
  let s := (s.setrf (Rf.ENG_STATUS_ACTIVE_BANK e) (if b then 1 else 0)).setrf (Rf.ENG_STATUS_ACTIVE_OK e) 1
  let s := (s.setrf (Rf.ENG_ACT_BOUND_BOUND e) new.bound).setrf (Rf.ENG_BOUND_BOUND e) old.bound
  let s := s.setrf (Rf.ENG_ADM_RESULT e) old.result
  let s := s.setrf (Rf.ENG_ADM_IMAGE_ID e) ((x.bank b).f 6 32 32)
  let s := if engSection e = 3 ∧ 64 ≤ u ∧ u < 96 then s.setrf (Rf.SIV_LOOK_BOUND (u - 64)) new.look else s
  (s.setrf (Rf.ENG_SWAP_AT_BAND e) band).raise 0xD004 (s.engUnit e) band

/-- The band a swap or a reload written now is armed for: ENG_SWAP_BAND, or the first band whose loads have not begun
where that is later. -/
def State.armBand (s : State) (e : Nat) : Nat :=
  if s.cadOn then max (s.rf (Rf.ENG_SWAP_BAND_BAND e)) (s.eng e).begun else s.rf (Rf.ENG_SWAP_BAND_BAND e)

/-- Whether a swap or a reload applies at once: the cadence unit is stopped and ENG_SWAP_BAND is 0. -/
def State.armNow (s : State) (e : Nat) : Bool := !s.cadOn && decide (s.rf (Rf.ENG_SWAP_BAND_BAND e) = 0)

/-! ### The bits of ENG_CTRL -/

/-- LOAD: refused in STANDBY and SAFE and for an engine that serves no unit; ignored during a walk; else the staging and
constant images go to the shadow and a walk begins. -/
def State.loadOp (s : State) (e : Eng) : State :=
  if s.bit (Rf.ENG_ADM_BUSY e) then s.raise 0xD003 (s.engUnit e)
  else
    let s := s.disarmSwap e
    if s.mode = 0 ∨ s.mode = 5 then s.refuseImage e 13 0
    else if s.bit (Rf.ENG_ROLE_RETIRED e) || s.bit (Rf.ENG_ROLE_SPARE e) then s.refuseImage e 14 0
    else
      let m := s.staging e
      let w := s.walkResult e m
      let s := (s.shadowBank e (!s.activeBank e)).shadowConstants e m.constBytes
      let s := s.setEng e { s.eng e with walk := some w }
      (s.setrf (Rf.ENG_ADM_BUSY e) 1).setrf (Rf.ENG_BUDGET_BUDGET e) s.budget

def State.abortOp (s : State) (e : Nat) : State :=
  if s.bit (Rf.ENG_ADM_BUSY e) then
    ((s.setEng e { s.eng e with walk := none }).setrf (Rf.ENG_ADM_BUSY e) 0).refuseImage e 15 0
  else s

def State.swapOp (s : State) (e : Nat) : State :=
  let a := (s.eng e).adm (!s.activeBank e)
  if a.result ≠ 1 ∨ s.bit (Rf.ENG_ADM_BUSY e) ∨ s.budget < a.bound then s
  else if s.armNow e then s.applySwap e 0
  else
    let b := s.armBand e
    ((s.setEng e { s.eng e with swapAt := some b }).showArmed e).setrf (Rf.ENG_SWAP_AT_BAND e) b

/-- CONST_RELOAD, once the hub serves it. -/
def State.reloadNow (s : State) (e : Nat) : State :=
  let s := s.shadowConstants e (max ((s.eng e).bank true).constBytes ((s.eng e).bank false).constBytes)
  if s.armNow e then s.applyReload e 0
  else
    let b := s.armBand e
    ((s.setEng e { s.eng e with loadAt := some b }).showArmed e).setrf (Rf.ENG_SWAP_AT_BAND e) b

/-- CONST_RELOAD: held while the hub does not serve (R322). -/
def State.reloadOp (s : State) (e : Eng) : State :=
  if s.hubOpen then s.reloadNow e else s.holdTx (.constReload e)

def State.disarmOp (s : State) (e : Nat) : State :=
  (s.setEng e { s.eng e with swapAt := none, loadAt := none }).showArmed e

/-- A write of ENG_CTRL: its bits act in the order DISARM, ABORT, LOAD, SWAP, CONST_RELOAD. -/
def State.engCtrl (s : State) (e : Eng) (v : Nat) : State :=
  let s := if v.testBit 4 then s.disarmOp e else s
  let s := if v.testBit 1 then s.abortOp e else s
  let s := if v.testBit 0 then s.loadOp e else s
  let s := if v.testBit 2 then s.swapOp e else s
  if v.testBit 3 then s.reloadOp e else s

/-! ### The commands -/

/-- INSTRUCTION_MEMORY_WRITE (R54). -/
def State.imemWrite (s : State) (e : Nat) (bank : Bool) (idx : Nat) (v : Word) : State :=
  if bank = s.activeBank e then s.raise 0xD00A (s.engUnit e)
  else if s.bit (Rf.ENG_ADM_BUSY e) then s.raise 0xD003 (s.engUnit e)
  else
    let x := s.eng e
    let x := { x with errs := drop1 x.errs (errKey 1 ((if bank then 16384 else 0) + idx)) }
    let s := s.setEng e (x.setBank bank (put (fun _ => 0) (x.bank bank) idx v))
    (s.setStaging e ⟨0, 0, 0⟩).disarmSwap e

def execInstructionMemoryWrite (_ : Port) (e : Eng) (bank : Bool) (idx : BitVec 14) (v : BitVec 64) (s : State) :
    Host.Outcome State Fault Refusal :=
  .next (s.imemWrite e bank idx.toNat v)

def execLoad (e : Eng) (s : State) : Host.Outcome State Fault Refusal := .next (s.engCtrl e 1)
def execAbort (e : Eng) (s : State) : Host.Outcome State Fault Refusal := .next (s.engCtrl e 2)
def execSwap (e : Eng) (s : State) : Host.Outcome State Fault Refusal := .next (s.engCtrl e 4)
def execConstReload (e : Eng) (s : State) : Host.Outcome State Fault Refusal := .next (s.engCtrl e 8)
def execDisarm (e : Eng) (s : State) : Host.Outcome State Fault Refusal := .next (s.engCtrl e 16)

/-- ADMISSION_WALK_COMPLETE (R56, R57): what the walk found, with event 0xD001 or 0xD002. INDEX names a refusal: an
image that is admitted has none, and it reads 0 (DEDUCED, log 42). -/
def State.walkDone (s : State) (e : Nat) (w : Walk) : State :=
  let s := (s.setEng e { s.eng e with walk := none }).setrf (Rf.ENG_ADM_BUSY e) 0
  if w.result = 1 then ((s.setStaging e ⟨1, w.bound, w.look⟩).setrf (Rf.ENG_ADM_INDEX e) 0).raise 0xD001 (s.engUnit e) w.bound
  else s.refuseImage e w.result w.index

def execAdmissionWalkComplete (e : Eng) (s : State) : Host.Outcome State Fault Refusal :=
  .next (match (s.eng e).walk with
    | some w => s.walkDone e w
    | none => s)

end Sys2Proof.Machine
end

