-- ==== Sys2Proof/Machine/BandEnd.lean ====
section
/-! DEFINITION. The end of a band: the checkpoint, the credits given back, the figures reported, and the completion of
a re-run (R45, R50, R64, R66, R439). -/

namespace Sys2Proof.Machine

/-- Where the carry checkpoint of a band lies in the shadow of engine `e` (R308). -/
def checkpointAt (e band : Nat) : Nat := shadowBase e + (if band % 2 = 0 then 0x40000 else 0x80000)

/-- Write the carry region to the checkpoint of the band. -/
def State.writeCheckpoint (s : State) (e band : Nat) : State :=
  let n := min (s.carrySize e) 0x40000
  let b := s.carryBase e
  let a := checkpointAt e band
  s.hubWrite true (s.unitOf e) a n (moveCells ((s.eng e).scratch.filter (fun c => decide (b ≤ c.1) && decide (c.1 < b + n))) b a)

/-- Words popped in the band go back to their producers as credit (R45). -/
def State.returnCredits (s : State) (u : Nat) : State :=
  { s with chains := (s.chains.map (fun e =>
      (e.1, if s.rf (Rf.CHN_CFG_CONS e.1) = u then e.2.giveBack else e.2))).filter (fun e => decide (e.2 ≠ {})) }

/-- Report the cycles of the band (R50, R51). -/
def State.reportCycles (s : State) (e : Nat) : State :=
  let x := s.eng e
  let c (v : Nat) : Nat := min v 0xFFFFFFFF
  let s := (s.setrf (Rf.ENG_RUN_LAST e) (c x.cycles)).peak (Rf.ENG_RUN_MAX e) x.cycles
  let s := (s.setrf (Rf.ENG_STALL_LOAD_LAST e) (c x.ldSt)).setrf (Rf.ENG_STALL_CHAIN_LAST e) (c x.chSt)
  (s.setrf (Rf.ENG_TILEQ_QFULL_LAST e) (c x.qfull)).setrf (Rf.ENG_TILEQ_ILOCK_LAST e) (c x.ilock)

/-- The spare count of a section. -/
def sparesFld : Nat → Fld
  | 1 => Rf.ENG_SPARES_INTAKE
  | 2 => Rf.ENG_SPARES_FUSE
  | 3 => Rf.ENG_SPARES_SIEVE
  | _ => Rf.ENG_SPARES_PACK

/-- An engine becomes a standby spare. -/
def State.makeSpare (s : State) (e : Nat) : State :=
  let f := sparesFld (engSection e)
  let s := ((s.setrf (Rf.ENG_ROLE_RETIRED e) 0).setrf (Rf.ENG_ROLE_SPARE e) 1).setrf (Rf.ENG_ROLE_UNIT e) 0xFF
  (s.setrf (Rf.ENG_STATUS_STATE e) 8).setrf f (s.rf f + 1)

/-- The wtick of a re-run (R64): event 0xD007; a failed engine whose only recorded fault was injected rejoins the
spares with event 0xE005 (R439). -/
def State.rerunDone (s : State) (u : Nat) : State :=
  let w := s.wu u
  match w.rerun with
  | none => s
  | some n =>
    let s := s.setWu u { w with rerun := none, failed := none, lost := [], discard := [] }
    let s := s.raise 0xD007 (s.engUnit (s.rf (Rf.ENG_UNIT_ENGINE u))) n
    w.lost.foldl (fun s f =>
      if (s.eng f).injected then
        let s := s.setEng f { s.eng f with injected := false }
        (s.makeSpare f).raise 0xE005 f
      else s) s

/-- The mark chain's endpoint appends a Sieve unit's band-end item (R222). -/
def State.bandEndItem (s : State) (u n : Nat) : State :=
  if 64 ≤ u ∧ u < 96 then
    let x := s.chain (s.rf Rf.POS_MK_CHAINS_MARK_CHAIN)
    let e : BandEndItem := ⟨u - 64, n, x.seq + (x.items.filter (·.last)).length⟩
    { s with pos := { s.pos with ends := s.pos.ends.filter (fun e => decide (n < e.band + 16)) ++ [e] } }
  else s

/-- The engine has completed band `n` of its unit (R50): it waits for the next band. -/
def State.endBand (s : State) (e : Nat) : State :=
  let u := s.unitOf e
  let n := (s.eng e).tok.band
  let s := s.setEng e ((s.eng e).retire 1)
  let s := s.writeCheckpoint e n
  let s := s.returnCredits u
  let s := s.reportCycles e
  let s := (s.rerunDone u).bandEndItem u n
  let w := s.wu u
  let s := s.setWu u { w with done := n + 1, doneAt := s.count, ends := (n, (s.eng e).wtickAt.getD s.count) :: w.ends.take 7 }
  let x := s.eng e
  (s.setEng e { x with pc := 0, loops := [], sent := [], lag := 0, wtickAt := none }).setrf (Rf.ENG_STATUS_STATE e) 1

end Sys2Proof.Machine
end

