-- ==== Sys2Proof/Machine/TileCodec.lean ====
section
/-! DEFINITION. The codec primitives of the tiles (3.5.9) and the one function that gives every queued instruction its
effect. -/

namespace Sys2Proof.Machine

/-- The prediction of R102 from the left, upper and upper left neighbours. -/
def predict (a b c : Int) : Int :=
  if max a b ≤ c then min a b else if c ≤ min a b then max a b else a + b - c

/-- The neighbours of element `x`: at 0, a = b and c = b; with NOPREV, b = c = a, and 0 at element 0. -/
def neighbours (left : Int) (b : Nat → Int) (noprev : Bool) (x : Nat) : Int × Int × Int :=
  if noprev then (if x = 0 then (0, 0, 0) else (left, left, left))
  else if x = 0 then (b 0, b 0, b 0) else (left, b x, b (x - 1))

/-- A residue modulo 2^16 as its code value e. -/
def zig (r : Int) : Int := let v := toSigned 16 (ofSigned 16 r); if 0 ≤ v then 2 * v else -2 * v - 1

/-- The residue of a code value. -/
def unzig (e : Nat) : Int := if e % 2 = 0 then (e / 2 : Nat) else -((e / 2 : Nat) : Int) - 1

def predEl (a b : Nat → Int) (noprev : Bool) (x : Nat) : Int :=
  let nb := neighbours (if x = 0 then 0 else a (x - 1)) b noprev x
  zig (a x - predict nb.1 nb.2.1 nb.2.2)

/-- upred: pixels from the left, each from the one before it. The spec gives upred no PARAM bit; that PARAM[0] tells it, as
it tells pred, that there is no previous row is DEDUCED from "inverts pred exactly" (R103; log 51). -/
def upredRow (e : Nat → Nat) (b : Nat → Int) (noprev : Bool) : Nat → List Int
  | 0 => []
  | n + 1 =>
    let row := upredRow e b noprev n
    let nb := neighbours (row.getLastD 0) b noprev n
    row ++ [((ofSigned 16 (predict nb.1 nb.2.1 nb.2.2 + unzig (e n)) : Nat) : Int)]

/-! ### Codes (R104, R105) -/

/-- The length of the code of `e` with parameter `k`. -/
def codeLen (e k : Nat) : Nat := if e / 2 ^ k < 24 then e / 2 ^ k + 1 + k else 40

/-- The low `n` bits of a value, least significant first. -/
def bitList (v : Nat) : Nat → List Bool
  | 0 => []
  | n + 1 => v.testBit 0 :: bitList (v / 2) n

/-- The code of `e` with parameter `k`, as a bit string. -/
def code (e k : Nat) : List Bool :=
  if e / 2 ^ k < 24 then List.replicate (e / 2 ^ k) true ++ false :: bitList e k
  else List.replicate 24 true ++ bitList e 16

/-- BITS of a block: 4 and its code lengths. -/
def blockBits (es : List Nat) (k : Nat) : Nat := es.foldl (fun t e => t + codeLen e k) 4

/-- The smallest k from 0 to 15 that minimises BITS. -/
def bestK (es : List Nat) : Nat :=
  (List.range 16).foldl (fun b k => if blockBits es k < blockBits es b then k else b) 0

/-- The elements of block `j` of a run of `n`. -/
def block (f : Nat → Nat) (n j : Nat) : List Nat := (List.range (min 64 (n - 64 * j))).map (fun i => f (64 * j + i))

/-- The block word of gsel. -/
def blockWord (es : List Nat) : Nat := bestK es + es.length * 2 ^ 8 + blockBits es (bestK es) * 2 ^ 16

/-! ### Writing and reading bit strings -/

/-- Write bits from bit `p` of the byte run at `base`. -/
def putBits (l : Limits) (base : Nat) : List Bool → Nat → List Host.Cell → List Host.Cell
  | [], _, m => m
  | b :: bs, p, m => putBits l base bs (p + 1) (putElem l m base 1 p (if b then 1 else 0))

/-- gput (R106): blocks from `j`, while each ends within CAP; the bits written, the memory and FULL. -/
def gputBlocks (l : Limits) (base cap : Nat) (e : Nat → Nat) (bw : Nat → Nat) (n : Nat) :
    Nat → Nat → Nat → List Host.Cell → Nat × Bool × List Host.Cell
  | 0, _, p, m => (p, false, m)
  | f + 1, j, p, m =>
    let len := bitsOf (bw j) 16 12
    let k := bitsOf (bw j) 0 4
    if cap * 8 < p + len then (p, true, m)
    else
      let str := bitList k 4 ++ (block e n j).flatMap (fun v => code v k)
      let str := str.take len ++ List.replicate (len - str.length) false
      gputBlocks l base cap e bw n f (j + 1) (p + len) (putBits l base str p m)

/-- The effect of each instruction of 3.5.9 on the engine. -/
def tileCodec (l : Limits) (q : QEntry) (x : Engine) : Option TileOut :=
  let m := x.scratch
  let n := q.n
  let A (r : BitVec 4) (k : Nat) : Int := q.el m r k
  match q.i with
  | .pred _ _ d a b np => some (writeEl l q x d n (predEl (A a) (A b) np))
  | .upred _ _ d a b np =>
    let row := upredRow (fun k => (A a k).toNat) (A b) np n
    some (writeEl l q x d n (fun k => row.getD k 0))
  | .gsel _ _ d a =>
    let o := q.d d
    let m' := putRun l (o.row 0) o.fmt (fun j => (blockWord (block (fun k => (A a k).toNat) n j) : Nat)) (ceilDiv n 64) m
    some { x := { x with scratch := m' } }
  | .gput _ _ _ a b c =>
    let c0 := scrRead m (q.s c) 8
    let p0 := scrRead m (q.s c + 8) 8
    let r := gputBlocks l (bitsOf c0 0 22) (bitsOf c0 32 22) (fun k => (A a k).toNat) (fun j => (A b j).toNat) n
      (ceilDiv n 64) 0 p0 m
    let m' := putBytes l r.2.2 (q.s c + 8) r.1 8
    let f := scrRead m (q.s c + 16) 1
    some { x := { x with scratch := if r.2.1 then putBytes l m' (q.s c + 16) (f / 2 * 2 + 1) 1 else m' },
           wr := q.codeBytes m ++ [(q.s c + 8, if r.2.1 then 16 else 8)] }
  | .gdec _ _ d _ c =>
    let t := gdecRun m (q.s c) n
    let o := writeEl l q x d n (fun k => (t.out.getD k 0 : Nat))
    let m' := putBytes l o.x.scratch (q.s c + 8) (if t.err then t.start else t.p) 8
    let f := scrRead m (q.s c + 16) 1
    let m' := if t.err then putBytes l m' (q.s c + 16) (f - bitsOf f 1 1 * 2 + 2) 1 else m'
    some { o with x := { o.x with scratch := m' }, rd := q.codeBytes m, wr := [(q.s c + 8, if t.err then 16 else 8)] }
  | _ => none

/-- The effect of a queued instruction on the engine: none for an instruction that does not enter the queue. -/
def tileEffect (l : Limits) (q : QEntry) (x : Engine) : TileOut :=
  match tileElem l q x with
  | some o => o
  | none => match tileSieve l q x with
    | some o => o
    | none => match tileCodec l q x with
      | some o => o
      | none => { x := x }

end Sys2Proof.Machine
end

