-- ==== Sys2Proof/Machine/Stream.lean ====
section
/-! DEFINITION. The tile issue queue and the copies of an engine: how an instruction enters the queue, when it has its
effect, the interlocks of R48, R74 and R75, and how an instruction or a copy completes (3.1, 3.5.10). -/

namespace Sys2Proof.Machine

/-! ### The interlocks -/

/-- The scratch bytes a copy writes or reads, row by row. -/
def Copy.scratchSet (c : Copy) : List (Nat × Nat) :=
  let d := match c.kind with
    | .hst => c.src
    | _ => c.dst
  (List.range c.rows).map (fun (i : Nat) => (d.row i, c.bytes))

/-- A copy into scratch (hld, cgat). -/
def Copy.into (c : Copy) : Bool := c.kind != .hst

/-- Bytes that a copy into scratch in progress still writes. -/
def Engine.arriving (x : Engine) (r : List (Nat × Nat)) : Bool := x.copies.any (fun c => c.into && overlaps c.scratchSet r)

/-- Bytes that a copy out of scratch in progress still reads. -/
def Engine.leaving (x : Engine) (r : List (Nat × Nat)) : Bool := x.copies.any (fun c => !c.into && overlaps c.scratchSet r)

/-- A cgat that waits in the queue: its copy has still to start. -/
def QEntry.waitingCgat (q : QEntry) : Bool := match q.i with
  | .cgat .. => !q.applied
  | _ => false

/-- Bytes that a queued instruction writes, or reads or writes (R74). -/
def Engine.tileWrites (x : Engine) (r : List (Nat × Nat)) : Bool :=
  x.queue.any (fun q => q.on && overlaps (q.writeSet x.scratch) r)
def Engine.tileTouches (x : Engine) (r : List (Nat × Nat)) : Bool :=
  x.queue.any (fun q => q.on && (overlaps (q.writeSet x.scratch) r || overlaps (q.readSet x.scratch) r))

/-- An entry passes to the tiles: no earlier copy in progress writes what it reads or writes, or reads what it writes
(R48, R72, R75; a cgat is an hld copy, R108), and no word it needs is beyond correction (R63). -/
def Engine.free (x : Engine) (q : QEntry) : Bool :=
  !q.on || (!x.copies.any (fun c => decide (c.seq < q.seq) && (overlaps c.scratchSet (q.writeSet x.scratch) ||
    (c.into && overlaps c.scratchSet (q.readSet x.scratch)))) &&
    !x.badScr (q.readSet x.scratch ++ q.writeSet x.scratch))

/-! ### The effect of an entry -/

/-- cgat's record and operands are in order (R108): the source in the hub, the destination in scratch, one format, a
record that is aligned and names a ring of at least one line. -/
def cgatOk (m : List Host.Cell) (src dst : Desc) (r : Nat) : Bool :=
  src.inHub && !dst.inHub && src.fmt == dst.fmt && decide (fmtBits src.fmt ≠ 0) && decide (r % 64 = 0) &&
    decide (scrRead m r 4 ≠ 0)

/-- The copy a cgat makes: H lines of min(W, N) elements. -/
def cgatCopy (m : List Host.Cell) (q : QEntry) (d a : BitVec 4) (r cap : Nat) : Copy :=
  let c2 := scrRead m (r + 16) 8
  let w := min (bitsOf c2 20 20 + 1) cap
  ⟨q.seq, [], .cgat, q.d a, q.d d, bitsOf c2 40 12 + 1, runBytes (q.d a).fmt w, scrRead m r 4, scrRead m (r + 8) 8,
    bitsOf c2 0 20, w⟩

/-- Give one entry its effect, with what it counts (R71, R80, R81). SCR_VIOL counts each 64-bit word of a run, a record,
an area a context names or a store that lies where R47 lets it not, once an instruction (log 144). -/
def State.applyEntry (s : State) (e : Nat) (q : QEntry) : State :=
  let x := s.eng e
  if !q.on then s
  else match q.i with
    | .cgat _ im d a r =>
      if cgatOk x.scratch (q.d a) (q.d d) (q.s r) then
        let c := cgatCopy x.scratch q d a (q.s r) (capOf im)
        let s := if capOf im < bitsOf (scrRead x.scratch (q.s r + 16) 8) 20 20 + 1 then s.bump (Rf.ENG_TILE_CAP_CNT e)
          else s
        s.setEng e { x with copies := x.copies ++ [c] }
      else s.bump (Rf.ENG_TILE_FMT_VIOL e)
    | _ =>
      if q.accepted x.scratch then
        let l := s.limits e
        let o := tileEffect l q x
        let s := s.setEng e o.x
        let s := if (shape q.i).isSome && decide (q.cap < (q.d (countReg q.i)).len + 1) then
          s.bump (Rf.ENG_TILE_CAP_CNT e) else s
        let s := s.bump (Rf.ENG_TILE_FMT_VIOL e) o.fmt
        let s := s.bump (Rf.ENG_TILE_DPR_MISS e) o.dpr
        s.bump (Rf.ENG_CLAMP_SCR_VIOL e)
          (((q.runReads ++ q.recordSet ++ o.rd).map violRead).sum + ((q.runWrites ++ o.wr).map (violWrite l)).sum)
      else s.bump (Rf.ENG_TILE_FMT_VIOL e)

/-- Mark the entry with number `n` as applied. -/
def Engine.markApplied (x : Engine) (n : Nat) : Engine :=
  { x with queue := x.queue.map (fun q => if q.seq = n then { q with applied := true } else q) }

/-- Give the waiting entries their effect in order, up to the first that must still wait. -/
def State.applyReady (s : State) (e : Nat) : List QEntry → State
  | [] => s
  | q :: qs =>
    if q.applied then s.applyReady e qs
    else if (s.eng e).storesSound && (s.eng e).free q then
      let s := s.applyEntry e q
      (s.setEng e ((s.eng e).markApplied q.seq)).applyReady e qs
    else s

/-- ADV: STRIDE added to ADDR of every run descriptor the instruction names, once each. -/
def advRuns (x : Engine) : List (BitVec 4) → Engine
  | [] => x
  | r :: rs => advRuns (x.setD r ((x.d r).advance 1)) rs

/-- The guard of a queued instruction. -/
def queueGuard : Instr → BitVec 4
  | .aclr _ g _ | .tld _ g _ _ | .hclr _ g | .hput _ g _ | .fmrg _ g _ _ _ => g
  | i => match streamImm i with
    | some x => x.g
    | none => 0

/-- Whether the instruction's ADV bit is set. -/
def advOf (i : Instr) : Bool := match streamImm i with
  | some x => x.adv
  | none => false

/-- The instruction enters the queue with its snapshot, has its effect unless a copy holds it back, and the core goes
on (R70, R71, R75). Its issue takes the core one cycle and leaves the rest of the charge to the tiles: the spec gives no
figure for the issue (DESIGN CHOICE, log 145). -/
def State.enqueue (s : State) (e : Nat) (i : Instr) : State :=
  let x := s.eng e
  let on := x.guard (queueGuard i)
  let q : QEntry := ⟨x.nextSeq, i, on, x.descs, x.sregs, false, s.count⟩
  let x := { x with queue := x.queue ++ [q], nextSeq := x.nextSeq + 1, lag := x.lag + (tileCharge i - 1) }
  let x := if on && advOf i then advRuns x (namedRuns i) else x
  let s := s.setEng e (x.retire (tileCharge i))
  s.applyReady e (s.eng e).queue

/-! ### Completion -/

/-- The copies that waited for instruction `n` wait for it no more. -/
def Engine.releaseCopies (x : Engine) (n : Nat) : Engine :=
  { x with copies := x.copies.map (fun c => { c with after := c.after.filter (fun m => m ≠ n) }) }

/-- The oldest queued instruction finishes and leaves the queue: the run cycles have of it what the core waited for, and of the
rest, which passed under other work, nothing (R51). The copies that wait for a cgat wait until its own copy is done (R74). -/
def State.finishTile (s : State) (e : Nat) : State :=
  match (s.eng e).queue with
  | [] => s
  | q :: qs =>
    if q.applied then
      let x := s.eng e
      let lag := x.lag - s.waited e
      let left := min lag (owedBy tileCharge qs)
      let x := { x with queue := qs, tileAt := s.count, run := x.run - (lag - left), lag := left }
      s.setEng e (if x.copies.any (fun c => c.seq == q.seq) then x else x.releaseCopies q.seq)
    else s

/-- The bytes of one line of a crop: elements X0 up to w of a ring line, 0 at or beyond LEN_A + 1. -/
def cropLine (l : Limits) (m hub : List Host.Cell) (c : Copy) (row src : Nat) : List Host.Cell :=
  let b := fmtBits c.src.fmt
  putRun l row (if c.src.fmt = 1 then 0 else c.src.fmt)
    (fun k => if c.src.len < c.x0 + k then 0 else (elemRaw hub src b (c.x0 + k) : Nat)) c.w m

/-- Move row `i` of a copy. -/
def State.moveRow (s : State) (e : Nat) (c : Copy) (i : Nat) : State :=
  match c.kind with
  | .hld => s.rowIn e (c.src.row i) (c.dst.row i) c.bytes
  | .hst => s.rowOut e (c.src.row i) (c.dst.row i) c.bytes
  | .cgat =>
    let a := c.src.row ((c.line0 + i) % c.ring : Nat)
    let r := s.hubRead (s.unitOf e) a (runBytes c.src.fmt (min (c.x0 + c.w) (c.src.len + 1)))
    let x := r.1.eng e
    let l := s.limits e
    (r.1.setEng e { x with scratch := cropLine l x.scratch r.2 c (c.dst.row i) a }).bump
      (Rf.ENG_CLAMP_SCR_VIOL e) (violWrite l (c.dst.row i, c.bytes))

/-- A copy completes: its rows move, it leaves the list, what an hst stored is noted, and the entries it held back have
their effect. -/
def State.finishCopy (s : State) (e : Nat) (k : Nat) : State :=
  match (s.eng e).copies[k]? with
  | some c =>
    if c.after = [] then
      let s := (List.range c.rows).foldl (fun s i => s.moveRow e c i) s
      let x := s.eng e
      let put := if c.kind = .hst then (List.range c.rows).map (fun i => (c.dst.row i, c.bytes)) else []
      let x := { x with copies := x.copies.filter (fun d => d.seq ≠ c.seq), hsts := x.hsts ++ put }
      let s := s.setEng e (if x.queue.any (fun q => q.seq == c.seq) then x else x.releaseCopies c.seq)
      let t := s.applyReady e (s.eng e).queue
      let held (s : State) : Bool := ((s.eng e).queue.head?).any (fun q => !q.applied)
      if held s && !held t then t.setEng e { t.eng e with freeAt := s.count } else t
    else s
  | none => s

/-! ### Issuing an hld or an hst (R48) -/

/-- The bytes of a row of an hld or hst: LEN + 1 elements of the source, rounded up to 8 bytes. -/
def copyBytesOf (d : Desc) : Nat := roundUp (runBytes d.fmt (d.len + 1)) 8

/-- The copy an hld or hst would make. -/
def mkCopy (x : Engine) (k : CopyKind) (d a : BitVec 4) (rows : BitVec 12) (after : List Nat) : Copy :=
  ⟨x.nextSeq, after, k, x.d a, x.d d, rows.toNat + 1, copyBytesOf (x.d a), 1, 0, 0, 0⟩

/-- Its operands are of the right kind and have one format. -/
def Copy.okKind (c : Copy) : Bool :=
  (c.src.inHub == c.into) && (c.dst.inHub != c.into) && c.src.fmt == c.dst.fmt

/-- The copy is listed, to start once the queued instructions it touches have completed, and a cgat whose copy still writes
where it is to write; one of the wrong kind has no
effect and counts as a scratch violation. -/
def State.issueCopy (s : State) (e : Nat) (k : CopyKind) (on : Bool) (d a : BitVec 4) (rows : BitVec 12) : State :=
  let x := s.eng e
  let c := mkCopy x k d a rows []
  if !on then s.setEng e (x.retire 4)
  else if c.okKind then
    let hit (q : QEntry) : Bool := q.on && (overlaps (q.writeSet x.scratch) c.scratchSet ||
      (c.into && overlaps (q.readSet x.scratch) c.scratchSet))
    let crop (d : Copy) : Bool := d.kind == .cgat && overlaps d.scratchSet c.scratchSet
    let c := { c with after := (x.queue.filter hit).map (·.seq) ++ (if c.into then (x.copies.filter crop).map (·.seq) else []) }
    s.setEng e ({ x with copies := x.copies ++ [c], nextSeq := x.nextSeq + 1 }.retire 4)
  else (s.setEng e (x.retire 4)).bump (Rf.ENG_CLAMP_SCR_VIOL e)

end Sys2Proof.Machine
end

