-- ==== Sys2Proof/Machine/Issue.lean ====
section
/-! DEFINITION. How an instruction issues: what it waits for (R46 to R50, R70, R74, R76), what it does once it need not
wait, and how a waiting engine goes on. -/

namespace Sys2Proof.Machine

/-- Whether the instruction goes to the tile issue queue (Table 3.5). -/
def isQueued (i : Instr) : Bool :=
  match i with
  | .aclr .. | .tld .. | .hclr .. | .hput .. | .fmrg .. => true
  | i => (streamImm i).isSome

/-- Whether a queued instruction names an accumulator (R76). -/
def namesAcc (a : BitVec 3) : Instr → Bool
  | .aclr _ _ d => d == a
  | .vcmp _ _ d _ _ | .stat _ _ d _ _ _ _ | .crc _ _ d _ => d == a
  | _ => false

/-- Whether line group `g` of the entry bound to descriptor `d` is in scratch for the running band (R49). -/
def State.groupIn (s : State) (e : Nat) (d : BitVec 4) (g : Nat) : Bool :=
  let x := s.eng e
  (List.range (s.loadCnt e)).any (fun k => s.loadFld e k 0 0 4 == d.toNat &&
    x.loads.any (fun r => r.entry == k && r.grp == g && r.band == x.tok.band && r.arrived))

/-- A pop finds a word, and the hub does not serve its read: in SAFE, or while the hub trains (Table 15.1, R322). -/
def State.popWaits (s : State) (e c : Nat) : Bool :=
  !s.popRefused c (s.unitOf e) && decide (((s.eng e).view c).snap ≠ 0) && !s.hubOpen

/-- What an instruction waits for, as the state the engine shows meanwhile: 2 for tile work (run cycles), 3 for a line
group, 4 for chain space, 5 for a copy, or for the band end's writes and the reads of a pop that SAFE holds (DESIGN CHOICE, log 195); none where it need not wait. A read of
a scratch word that can no longer be corrected is held until the engine's fault is declared: the word is never delivered
(R63). The queue's 32 places hold every instruction up to its STREAM_COMPLETE, the one on the tiles among them: R70 does not
say whether that one counts (DESIGN CHOICE, log 146). -/
def State.waits (s : State) (e : Nat) (i : Instr) : Option Nat :=
  let x := s.eng e
  let u := s.unitOf e
  let copy (c : Bool) : Option Nat := if c then some 5 else none
  let read (r : List (Nat × Nat)) (k : Option Nat) : Option Nat :=
    if x.tileWrites r || x.badScr r then some 2 else if x.arriving r then some 5 else k
  match i with
  | .lds _ g _ a off => if x.guard g then read [(scrAddr (x.s a) off, 8)] none else none
  | .sts _ g _ a off =>
    let r := [(scrAddr (x.s a) off, 8)]
    let crop (c : Copy) : Bool := c.kind == .cgat && overlaps c.scratchSet r
    if x.guard g then (if x.tileTouches r || x.badScr r then some 2 else copy (x.leaving r || x.copies.any crop)) else none
  | .ldw _ d a => if s.groupIn e d (x.s a).toNat then none else some 3
  | .hld _ g d a rows => copy (x.guard g && (mkCopy x .hld d a rows []).okKind && x.leaving (mkCopy x .hld d a rows []).scratchSet)
  | .hst _ g d a rows => copy (x.guard g && (mkCopy x .hst d a rows []).okKind && x.arriving (mkCopy x .hst d a rows []).scratchSet)
  | .push _ g q _ => if x.guard g && s.pushWaits (s.handle e q) u 1 then some 4 else none
  | .pushr _ g q a =>
    let ad := (x.s a).toNat
    if x.guard g && decide (ad % 64 = 0) then
      read [(ad, 64)] (if s.pushWaits (s.handle e q) u 8 then some 4 else none)
    else none
  | .pop _ g _ q => copy (x.guard g && s.popWaits e (s.handle e q))
  | .fence _ m =>
    if m.getLsbD 0 && !x.queue.isEmpty then some 2
    else copy ((m.getLsbD 1 && x.copies.any (fun c => !c.into)) ||
      (m.getLsbD 2 && (x.copies.any (·.into) || x.queue.any (fun q => q.on && q.waitingCgat))))
  | .ard _ g _ a _ => if x.guard g && x.queue.any (fun q => namesAcc a q.i) then some 2 else none
  | .wtick _ => if !x.queue.isEmpty || x.badScr [(s.carryBase e, s.carrySize e)] then some 2 else copy (!x.copies.isEmpty || decide (s.mode = 5))
  | i => if isQueued i && decide (32 ≤ x.queue.length) then some 2 else none

/-- A change of the engine's core, and the instruction retires. -/
def State.coreStep (s : State) (e : Nat) (c : Nat) (on : Bool) (f : Engine → Engine) : State :=
  s.setEng e ((if on then f (s.eng e) else s.eng e).retire c)

/-- The value of an accumulator field: the two copies combined (Table 3.1). -/
def accField (p q : Acc) (f : Nat) : Word :=
  let c32 (v : Nat) : Nat := min v 0xFFFFFFFF
  match f with
  | 0 => BitVec.ofInt 64 (satS64 (p.sum + q.sum))
  | 1 => BitVec.ofNat 64 (min (p.ssq + q.ssq) (2 ^ 64 - 1))
  | 2 => BitVec.ofNat 64 (c32 (p.cnt + q.cnt) + c32 (p.nsat + q.nsat) * 2 ^ 32)
  | 3 => BitVec.ofNat 64 (min p.mn q.mn + max p.mx q.mx * 2 ^ 16)
  | 4 => BitVec.ofNat 64 (p.crc ^^^ 0xFFFFFFFF#32).toNat
  | _ => 0

/-- The 8 words of scratch from an address; those at or above 4 MiB read 0. -/
def Engine.words8 (x : Engine) (a : Nat) : List Word :=
  (List.range 8).map (fun k => BitVec.ofNat 64 (scrRead x.scratch (a + 8 * k) 8))

/-- Push words for an engine's unit, counted against the credit it reads. -/
def State.enginePush (s : State) (e : Nat) (q : BitVec 4) (ws : List Word) : State :=
  (s.push (s.handle e q) (s.unitOf e) ws).notePush e (s.handle e q) ws.length

/-- lds (R47). -/
def State.doLds (s : State) (e : Nat) (d a : BitVec 6) (off : BitVec 24) : State :=
  let x := s.eng e
  let ad := scrAddr (x.s a) off
  let s := if scratchSize ≤ ad then s.bump (Rf.ENG_CLAMP_SCR_VIOL e) else s
  s.coreStep e 2 true (fun x => x.setS d (BitVec.ofNat 64 (scrRead x.scratch ad 8)))

/-- sts (R47). -/
def State.doSts (s : State) (e : Nat) (b a : BitVec 6) (off : BitVec 24) : State :=
  let x := s.eng e
  let ad := scrAddr (x.s a) off
  if scratchSize ≤ ad || s.inConst e ad then (s.bump (Rf.ENG_CLAMP_SCR_VIOL e)).coreStep e 2 true id
  else s.coreStep e 2 true (fun x => { x with scratch := writeLE x.scratch ad (x.s b).toNat 8 })

/-- pushr (R47): a misaligned address pushes nothing. At an aligned address at or above 4 MiB the eight words read 0 and
are appended, and the access counts once: R47 says of a load there that it returns 0 and of an access that it has no effect,
and of a pushr's count only what a misaligned one does (DESIGN CHOICE, log 147). -/
def State.doPushr (s : State) (e : Nat) (q : BitVec 4) (a : BitVec 6) : State :=
  let x := s.eng e
  let ad := (x.s a).toNat
  if ad % 64 ≠ 0 then (s.bump (Rf.ENG_CLAMP_SCR_VIOL e)).coreStep e 4 true id
  else
    let s := if scratchSize ≤ ad then s.bump (Rf.ENG_CLAMP_SCR_VIOL e) else s
    (s.enginePush e q (x.words8 ad)).coreStep e 4 true id

/-- The instruction has its effect and the core goes on: what an instruction that may wait does once it need not. -/
def State.perform (s : State) (e : Nat) (i : Instr) : State :=
  let x := s.eng e
  match i with
  | .lds _ g d a off => if x.guard g then s.doLds e d a off else s.coreStep e 2 false id
  | .sts _ g b a off => if x.guard g then s.doSts e b a off else s.coreStep e 2 false id
  | .ldw .. => s.coreStep e 2 true id
  | .hld _ g d a rows => s.issueCopy e .hld (x.guard g) d a rows
  | .hst _ g d a rows => s.issueCopy e .hst (x.guard g) d a rows
  | .push _ g q a => (if x.guard g then s.enginePush e q [x.s a] else s).coreStep e 1 true id
  | .pushr _ g q a => if x.guard g then s.doPushr e q a else s.coreStep e 4 false id
  | .pop _ g d q =>
    let r := s.popWord e (s.handle e q)
    if x.guard g then r.2.coreStep e 4 true (fun x => x.setS d r.1) else s.coreStep e 4 false id
  | .fence .. => s.coreStep e 4 true id
  | .ard _ g d a f =>
    s.coreStep e 2 (x.guard g) (fun x => x.setS d (accField (look (fun _ => Acc.clear) x.acc0 a.toNat)
      (look (fun _ => Acc.clear) x.acc1 a.toNat) f.toNat))
  | .wtick _ => s.endBand e
  | i => s.enqueue e i

/-- Issue an instruction that may have to wait: it is held while it must, else it has its effect. -/
def State.issue (s : State) (e : Nat) (i : Instr) : State :=
  match s.waits e i with
  | some st => s.stall e i st
  | none => s.perform e i

/-- A stalled engine tries its instruction again, where what it waits for has come about and no word of its registers or its
tiles' stores is beyond correction (R63). -/
def State.resume (s : State) (e : Nat) : State :=
  match (s.eng e).stalled with
  | some i =>
    if s.waits e i = some (s.rf (Rf.ENG_STATUS_STATE e)) ∨ !(s.eng e).storesSound then s else (s.unstall e).issue e i
  | none => s

/-- An instruction of the engine that may wait comes about when the engine runs. -/
def issueOp (s : State) (e : Eng) (i : Instr) : Host.Outcome State Fault Refusal := when' (s.runs e) s (s.issue e i)

end Sys2Proof.Machine
end

