-- ==== Sys2Proof/Machine/Perturb.lean ====
section
/-! DEFINITION. Which perturbations are in effect, and how one ends (16.2, R433). -/

namespace Sys2Proof.Machine

/-- The kinds in effect (Table 16.2), from the enables and the flips that await a transfer. -/
def State.tstActive (s : State) : Nat :=
  let f (c : Bool) (k : Nat) : Nat := if c then 2 ^ k else 0
  f ((List.range 4).any (fun i => s.bit (Rf.TST_CRED_EN i))) 0 + f (s.bit Rf.TST_HUBLAT_EN) 1 + f (s.bit Rf.TST_BP_HOST) 2 +
    f (s.bit Rf.TST_BP_SP0 || s.bit Rf.TST_BP_SP1) 3 + f ((List.range 4).any (fun i => s.bit (Rf.TST_LANE_EN i))) 4 +
    f (s.engines.any (fun e => e.2.fab.isSome)) 5 + f (s.bit Rf.TST_LINE_EN) 7 + f (s.bit Rf.TST_TICK_EN) 8 + f (s.bit Rf.TST_THERM_EN) 9

/-- The perturbations in effect: the kind, and which of the registers, ports or engines of the kind. -/
def State.tstOn (s : State) : List (Nat × Nat) :=
  let each (k : Nat) (f : Nat → Fld) : List (Nat × Nat) := ((List.range 4).filter (fun i => s.bit (f i))).map (fun i => (k, i))
  each 0 Rf.TST_CRED_EN ++ each 4 Rf.TST_LANE_EN ++
    (if s.bit Rf.TST_BP_SP0 then [(3, 0)] else []) ++ (if s.bit Rf.TST_BP_SP1 then [(3, 1)] else []) ++
    (s.engines.filter (fun e => e.2.fab.isSome)).map (fun e => (5, e.1)) ++
    ([1, 2, 7, 8, 9].filter (fun k => s.tstActive.testBit k)).map (fun k => (k, 0))

/-- ACTIVE follows the enables; a perturbation that was in effect before and is no longer has ended, with event 0xE003. -/
def State.tstShow (s before : State) : State :=
  let s := s.setrf Rf.TST_STAT_ACTIVE s.tstActive
  (before.tstOn.filter (fun p => !s.tstOn.contains p)).foldl (fun s p => s.raise 0xE003 p.1) s

/-- A transfer moves through the hub port of an engine: the flips that await one alter it (R439). A single symbol is corrected
and counted; two are beyond correction, and what they were in is never delivered (R62, R63). -/
def State.fabric (s : State) (e : Nat) : State :=
  let x := s.eng e
  match x.fab with
  | none => s
  | some l =>
    let lost := decide (2 ≤ l.length)
    let t := s.setEng e { x with fab := none, errs := if lost then insert1 x.errs (errKey 6 0) l else x.errs,
                                 injected := x.injected || lost }
    ((if l.length = 1 then t.bump (Rf.ENG_FAULT_CORR e) else t).setrf Rf.TST_ECC_DONE 1).tstShow s

end Sys2Proof.Machine
end

