-- ==== Sys2Proof/Machine/Downstream.lean ====
section
/-! DEFINITION. What a port sends downstream: the block slots of its lanes, the marker columns and the FILL between them,
the control blocks queued for the carrier, and the TRG blocks that go before them (R143, R148, R155, R158, R159). -/

namespace Sys2Proof.Machine

def State.port (s : State) (p : Nat) : PortUnit := look (fun _ => {}) s.ports p
def State.setPort (s : State) (p : Nat) (x : PortUnit) : State := { s with ports := put (fun _ => {}) s.ports p x }

def State.stripe (s : State) (p : Nat) : Nat := s.rf (Rf.SPK_PSTAT_STRIPE p)

/-- The counts of the 1.25 GHz clock in `n` block periods at the port's rate (R140): 66 bits at 3.125, 6.25, 10.3125 or
12.5 Gb/s. -/
def State.blockCounts (s : State) (p n : Nat) : Nat :=
  match s.rf (Rf.SPK_PCFG_RATE p) with
  | 0 => n * 2640 / 100
  | 1 => n * 1320 / 100
  | 2 => n * 800 / 100
  | _ => n * 660 / 100

/-! ### Downstream control blocks (R141, R143) -/

/-- CRC-8, polynomial 0x07, most significant bit first. -/
def crc8Bit (c : Nat) : Nat := if c.testBit 7 then ((c * 2) % 256) ^^^ 0x07 else c * 2
def crc8Byte (c b : Nat) : Nat :=
  let c := (c ^^^ b) % 256
  crc8Bit (crc8Bit (crc8Bit (crc8Bit (crc8Bit (crc8Bit (crc8Bit (crc8Bit c)))))))

/-- CHK of a control block: over bytes 0 to 6. -/
def ctlChk (w : Nat) : Nat := (List.range 7).foldl (fun c k => crc8Byte c (bitsOf w (8 * k) 8)) 0

/-- A downstream control block: its bytes 0 to 6 with CHK (Table 5.2). -/
def ctlMake (w : Nat) : Word := BitVec.ofNat 64 (w % 2 ^ 56 + ctlChk w * 2 ^ 56)

/-! ### Slots

Slot `k` of a port is a block period of every lane of it. The transmitters begin when the port is enabled; the place of
slot 0 in the block period that follows and the AMSEQ of the first marker are what the spec leaves open, and are free
values. Instants are in hundredths of a count of the 1.25 GHz clock. -/

/-- T_B in hundredths of a count. -/
def State.slotLen (s : State) (p : Nat) : Nat := s.blockCounts p 100

/-- The instant at which slot `k` starts, and the first slot that starts at or after an instant. -/
def State.slotOrg (s : State) (p : Nat) : Nat :=
  100 * (s.port p).txAt + (Config.freeWord (s.port p).txFree).toNat % s.slotLen p
def State.slotAt (s : State) (p k : Nat) : Nat := s.slotOrg p + k * s.slotLen p
def State.slotFrom (s : State) (p t : Nat) : Nat := ceilDiv (t - s.slotOrg p) (s.slotLen p)

/-- AMSEQ of the first marker. -/
def State.amFirst (s : State) (p : Nat) : Nat := (Config.freeWord ((s.port p).txFree + 1)).toNat % 65536

/-- The control block sent in a slot on a port lane, where there was one. -/
def State.sentAt (s : State) (p n k : Nat) : Option Word :=
  ((s.port p).sent.find? (fun e => e.1 == k && e.2.1 == n)).map (·.2.2)

/-- A TRG took the slot. -/
def State.trgIn (s : State) (p n k : Nat) : Bool :=
  match s.sentAt p n k with
  | some w => decide (w.toNat % 256 = 0x78)
  | none => false

/-- A slot is a marker's on a lane: the first of an interval of 4,096, or the next where a TRG took that one (R148). -/
def State.amSlot (s : State) (p n k : Nat) : Bool :=
  (decide (k % 4096 = 0) && !s.trgIn p n k) || (decide (k % 4096 = 1) && s.trgIn p n (k - 1))

/-- The downstream AM of a lane in an interval: the AMSEQ of its column, its port lane number and the stripe in force. Before
the port is up no stripe is in force, and MASK is SPK_PSTAT.STRIPE, which is 0 (DESIGN CHOICE, log 189). -/
def State.amWord (s : State) (p n k : Nat) : Word :=
  ctlMake (0x2D + n * 2 ^ 8 + s.stripe p * 2 ^ 16 + (s.amFirst p + k / 4096) % 65536 * 2 ^ 24)

/-- What port lane `n` carries in slot `k`: a control block sent in it, a marker, or FILL (R143, R148, R155). -/
def State.dnBlock (s : State) (p n k : Nat) : Word :=
  match s.sentAt p n k with
  | some w => w
  | none => if s.amSlot p n k then s.amWord p n k else 0x1E#64

/-! ### The carrier -/

def State.carrier (s : State) (p : Nat) : Nat := s.rf (Rf.SPK_PSTAT_CARRIER p)

/-- The control blocks sent on the carrier in the interval of a slot. -/
def State.sentIn (s : State) (p k : Nat) : Nat :=
  ((s.port p).sent.filter (fun e => decide (e.1 / 4096 = k / 4096) && e.2.1 == s.carrier p)).length

/-- A queued block may take a slot of the carrier: no marker or TRG stands there, and at least four slots of the interval
are left to FILL (R155). -/
def State.slotFree (s : State) (p k : Nat) : Bool :=
  !s.amSlot p (s.carrier p) k && (s.sentAt p (s.carrier p) k).isNone && decide (s.sentIn p k < 4091)

/-- A control block is sent on the carrier in a slot; blocks of intervals before the last are forgotten. -/
def State.sendIn (s : State) (p k : Nat) (w : Word) : State :=
  let x := s.port p
  s.setPort p { x with sent := (k, s.carrier p, w) :: x.sent.filter (fun e => decide (k / 4096 ≤ e.1 / 4096 + 1)) }

/-- The queued blocks that leave in the slots before `upto`, in the order in which they were queued, until `keep` are left. -/
def State.sendDn (p upto keep : Nat) : Nat → State → State
  | 0, s => s
  | n + 1, s =>
    let x := s.port p
    match x.dn with
    | [] => s
    | w :: ws =>
      if ws.length < keep ∨ upto ≤ x.txNext then s
      else
        let s := s.setPort p { x with txNext := x.txNext + 1 }
        if s.slotFree p x.txNext then State.sendDn p upto keep n ((s.setPort p { s.port p with dn := ws }).sendIn p x.txNext w)
        else State.sendDn p upto keep n s

/-- The queue as it stands now: what had a slot that has begun has left. -/
def State.settleDn (s : State) (p : Nat) : State :=
  let k := s.slotFrom p (100 * s.count)
  let s := State.sendDn p k 0 ((s.port p).dn.length + 4096) s
  s.setPort p { s.port p with txNext := max (s.port p).txNext k }

/-- Control blocks are queued for the carrier. -/
def State.queueDn (s : State) (p : Nat) (ws : List Word) : State :=
  let s := s.settleDn p
  s.setPort p { s.port p with dn := (s.port p).dn ++ ws }

/-- The TRG of a trigger event now (R158, R159): its first bit leaves 32 ns and less than a block period after the event, in
the first slot from there, whatever else is due in it; PHASE says how much later, in T_B/64. -/
def State.sendTrg (s : State) (p lseq : Nat) : State :=
  let t := 100 * (s.count + countsOfNs 32)
  let k := s.slotFrom p t
  let s := State.sendDn p k 0 ((s.port p).dn.length + 4096) s
  let w := ctlMake (0x78 + lseq % 2 ^ 32 * 2 ^ 8 + 64 * (s.slotAt p k - t) / s.slotLen p % 64 * 2 ^ 40)
  (s.setPort p { s.port p with trg := some w, trgAt := s.slotAt p k }).sendIn p k w

/-- Queued blocks leave in the first slot after the TRG of a trigger event of this count, where the port sends it one
(R183). -/
def State.afterTrg (s : State) (p : Nat) : State :=
  let x := s.port p
  if s.bit (Rf.SPK_PCFG_TRG_INBAND p) then
    s.setPort p { x with txNext := max x.txNext (s.slotFrom p (100 * (s.count + countsOfNs 32)) + 1) }
  else s

/-- The transmitters of a port begin (R148). -/
def State.beginTx (s : State) (p : Nat) : State :=
  { s.setPort p { s.port p with txAt := s.count, txFree := s.free, txNext := 0, sent := [], dn := [], trg := none, trgAt := 0 } with
    free := s.free + 2 }

end Sys2Proof.Machine
end

