-- ==== Sys2Proof/Machine/Link.lean ====
section
/-! DEFINITION. Spokelink below the line: control blocks and their check, the block lock and the marker lock of a lane,
the stripe of a port, its status, the carrier, the loss of a lane and the switch of the stripe (5.2 to 5.8). -/

namespace Sys2Proof.Machine

def State.lane (s : State) (l : Nat) : LaneSt := look (fun _ => {}) s.lanes l
def State.setLane (s : State) (l : Nat) (x : LaneSt) : State := { s with lanes := put (fun _ => {}) s.lanes l x }
/-! ### Lanes of a port (R138) -/

def State.portOn (s : State) (p : Nat) : Bool := s.bit (Rf.SPK_PCFG_ENABLE p)
def State.laneCount (s : State) (p : Nat) : Nat := 2 ^ s.rf (Rf.SPK_PCFG_WIDTH p)
def State.laneBase (s : State) (p : Nat) : Nat := s.rf (Rf.SPK_PCFG_BASE p)
def State.fullMask (s : State) (p : Nat) : Nat := 2 ^ s.laneCount p - 1

/-- The physical lanes of a port. -/
def State.lanesOf (s : State) (p : Nat) : List Nat := (List.range (s.laneCount p)).map (s.laneBase p + ·)

/-- The enabled port a lane belongs to. -/
def State.portOf (s : State) (l : Nat) : Option Nat :=
  (List.range 48).find? (fun p => s.portOn p && decide (s.laneBase p ≤ l) && decide (l < s.laneBase p + s.laneCount p))

/-- Port state (SPK_PSTAT.STATE): 0 disabled, 1 bring-up, 2 up, 3 degraded, 4 silent, 5 down. -/
def State.portState (s : State) (p : Nat) : Nat := s.rf (Rf.SPK_PSTAT_STATE p)
def State.portUp (s : State) (p : Nat) : Bool := decide (2 ≤ s.portState p) && decide (s.portState p ≤ 4)

/-- The set bits of a mask of eight lanes, ascending. -/
def bitsSet (m : Nat) : List Nat := (List.range 8).filter (fun i => m.testBit i)

/-- The lane that carries port lane `n`: the one whose last good marker said so. -/
def State.laneFor (s : State) (p n : Nat) : Option Nat :=
  (s.lanesOf p).find? (fun l => s.rf (Rf.SPK_LN_STAT_LANE_ID l) == n && !s.bit (Rf.SPK_LN_STAT_LOST l))

/-- A lane is in AM_LOCK. -/
def State.locked (s : State) (l : Nat) : Bool :=
  decide (s.rf (Rf.SPK_LN_STAT_BLK l) = 2) && decide (s.rf (Rf.SPK_LN_STAT_AMST l) = 2)

/-! ### Control blocks (R141, R142) -/

/-- A control block received upstream is good: its type is one of Table 5.1, its CHK is right, its reserved bits are 0
and it holds no reserved code. -/
def ctlGood (w : Nat) : Bool :=
  let chk := decide (bitsOf w 56 8 = ctlChk w)
  match w % 256 with
  | 0x1E => decide (w / 256 = 0)
  | 0x2D => chk && decide (bitsOf w 11 5 = 0) && decide (bitsOf w 40 16 = 0)
  | 0x33 => chk && decide (bitsOf w 52 4 = 0)
  | 0x4B => chk
  | 0x55 => chk
  | 0x66 => chk && decide (bitsOf w 32 24 = 0)
  | _ => false

/-! ### Port status -/

/-- The carrier (5.6): the lowest port lane in both the stripe and the camera's DN_MASK, else the lowest of the stripe. -/
def carrierOf (stripe dn : Nat) : Nat :=
  match bitsSet (stripe &&& dn) with
  | n :: _ => n
  | [] => match bitsSet stripe with
    | n :: _ => n
    | [] => 0

/-- The carrier moves to the lane the rule selects, where that is another one: event 0x100D, and the settings messages
not yet sent whole are queued again from their SETH (R157). What had a slot that has begun has left on the old carrier. -/
def State.fixCarrier (s : State) (p : Nat) (again : List Word) : State :=
  let s := s.settleDn p
  let c := carrierOf (s.stripe p) (s.rf (Rf.SPK_PCAM_DN_MASK p))
  if c = s.rf (Rf.SPK_PSTAT_CARRIER p) then s
  else
    let x := s.port p
    let s := if again = [] then s else
      s.setPort p { x with dn := x.dn.filter (fun w => w.toNat % 256 ≠ 0x87 && w.toNat % 256 ≠ 0x99) ++ again }
    (s.setrf (Rf.SPK_PSTAT_CARRIER p) c).raise 0x100D p c

/-- The silence timer restarts (R164). -/
def State.cameraHeard (s : State) (p : Nat) : State := s.setPort p { s.port p with traffic := s.count }

/-- An LS, ST or SACK: the silence timer restarts, and a silent camera resumes (R164). -/
def State.cameraSeen (s : State) (p : Nat) : State :=
  let s := s.cameraHeard p
  if s.portState p = 4 then
    (s.setrf (Rf.SPK_PSTAT_STATE p) (if s.stripe p = s.fullMask p then 2 else 3)).raise 0x1009 p
  else s

/-- One upstream block that is not FILL, counted for SPK_PSTAT.LOAD: the blocks of the last whole millisecond. -/
def State.countLoad (s : State) (p : Nat) : State :=
  let x := s.port p
  let ms := s.count / countsOfUs 1000
  if x.loadMs = ms then s.setPort p { x with loadCnt := x.loadCnt + 1 }
  else
    let last := if x.loadMs + 1 = ms then x.loadCnt else 0
    (s.setPort p { x with loadMs := ms, loadCnt := 1 }).setrf (Rf.SPK_PSTAT_LOAD p) last

/-! ### The open line's end (R147) -/

/-- An invalid line in sequence: what Intake receives of a line that is bad. -/
structure LineIn where
  lseq  : Nat
  ssid  : Nat
  expo  : Nat
  plane : Nat
  good  : Bool
  npix  : Nat
  lcrc  : Nat
  words : List Word

/-- The open line as a bad line. -/
def OpenLine.bad (o : OpenLine) : LineIn := ⟨o.lseq, o.ssid, o.expo, o.plane, false, 0, 0, []⟩

/-! ### Losing a lane (R161 to R163) -/

/-- D: the smallest integer of at least 1 with D ≥ LOAD_PCT × W / (97 × W'). -/
def State.divider (s : State) (p w' : Nat) : Nat :=
  let pct := s.rf (Rf.SPK_PCFG_LOAD_PCT p)
  let pct := if pct = 0 then 100 else pct
  max 1 (ceilDiv (pct * s.laneCount p) (97 * w'))

/-- Queue an LDN that changes the stripe to a mask with divider `d` after the second marker column to come, where the last
one to have come has AMSEQ `seq`. -/
def State.queueLdn (s : State) (p mask d seq : Nat) : State :=
  let s := s.settleDn p
  let x := s.port p
  let start := (seq + 2) % 65536
  let ldn := ctlMake (0xAA + mask * 2 ^ 8 + d * 2 ^ 16 + start * 2 ^ 24)
  let dn := x.dn.filter (fun w => w.toNat % 256 ≠ 0xAA)
  ((s.setPort p { x with switch := some (mask, d, start), dn := dn }).queueDn p [ldn]).setrf (Rf.SPK_PSTAT_PENDING p) mask

/-- A striping lane of a port that is up is lost, or one that a pending switch takes back (R161, R163). The column that has come
last is the one whose marker it took, or missed, last. The state stays what it was until the switch, which shows 3; the loss of
the last lane is told with mask 0 and D 0, and no LDN is queued (DESIGN CHOICE, log 192). -/
def State.loseLane (s : State) (p l : Nat) : State :=
  let n := s.rf (Rf.SPK_LN_STAT_LANE_ID l)
  let from' := match (s.port p).switch with
    | some (m, _) => m
    | none => s.stripe p
  if s.portUp p && from'.testBit n then
    let m := from' - 2 ^ n
    let s := s.setrf (Rf.SPK_LN_STAT_LOST l) 1
    if m = 0 then
      let s := (s.setrf (Rf.SPK_PSTAT_STATE p) 5).setrf (Rf.SPK_PSTAT_PENDING p) 0
      let s := s.setPort p { s.port p with switch := none, expect := s.fullMask p }
      s.raise 0x1006 (p + 256 * l) 0 0
    else
      let d := s.divider p (bitsSet m).length
      (s.queueLdn p m d (s.lane l).seq).raise 0x1006 (p + 256 * l) m d
  else s

/-- A lane leaves LOCK for HUNT. -/
def State.toHunt (s : State) (l : Nat) : State :=
  let s := (s.setrf (Rf.SPK_LN_STAT_BLK l) 1).setrf (Rf.SPK_LN_STAT_AMST l) 0
  s.setLane l { huntAt := s.count, scr := (s.lane l).scr }

/-- A lane leaves AM_LOCK. -/
def State.toAmHunt (s : State) (l : Nat) : State :=
  let s := match s.portOf l with
    | some p => if s.locked l then s.loseLane p l else s
    | none => s
  s.setrf (Rf.SPK_LN_STAT_AMST l) 0

/-! ### Block lock (R149) -/

/-- An invalid sync header. -/
def State.badHeader (s : State) (p l : Nat) : State :=
  let x := s.lane l
  match s.rf (Rf.SPK_LN_STAT_BLK l) with
  | 1 => s.setLane l { x with good := 0, bnd := (x.bnd + 1) % 66 }
  | 2 =>
    let h := (true :: x.hist).take 64
    let s := s.bump (Rf.SPK_LN_CNT_BADHDR l)
    if 16 ≤ (h.filter id).length then
      let s := s.toAmHunt l
      ((s.toHunt l).bump (Rf.SPK_LN_CNT_LOCKLOSS l)).raise 0x1002 (p + 256 * l)
    else s.setLane l { x with hist := h }
  | _ => s

/-- A valid header: whether the lane was already in LOCK, so that its block is read. -/
def State.goodHeader (s : State) (p l : Nat) : Bool × State :=
  let x := s.lane l
  match s.rf (Rf.SPK_LN_STAT_BLK l) with
  | 1 =>
    if x.good + 1 < 64 then (false, s.setLane l { x with good := x.good + 1 })
    else (false, ((s.setLane l { bnd := x.bnd, scr := x.scr }).setrf (Rf.SPK_LN_STAT_BLK l) 2).raise 0x1001 (p + 256 * l))
  | 2 => (true, s.setLane l { x with hist := (false :: x.hist).take 64 })
  | _ => (false, s)

/-! ### Marker lock (R150) -/

/-- The fields of a marker. -/
def amLane (w : Nat) : Nat := bitsOf w 8 3
def amMask (w : Nat) : Nat := bitsOf w 16 8
def amSeqOf (w : Nat) : Nat := bitsOf w 24 16

/-- A marker is taken: its position, AMSEQ, LANE and MASK are recorded. -/
def State.takeAm (s : State) (l w : Nat) : State :=
  let x := s.lane l
  (s.setLane l { x with idx := 0, seq := amSeqOf w, mask := amMask w, miss := 0, amAt := s.count }).setrf
    (Rf.SPK_LN_STAT_LANE_ID l) (amLane w)

/-- A marker missed in AM_LOCK: the position is kept, the next AMSEQ is expected. -/
def State.missAm (s : State) (l : Nat) : State :=
  let x := s.lane l
  let s := s.bump (Rf.SPK_LN_CNT_AMERR l)
  let s := s.setLane l { x with idx := 0, seq := (x.seq + 1) % 65536, miss := x.miss + 1 }
  if x.miss + 1 = 4 then s.toAmHunt l else s

/-- One block of a lane in LOCK against its marker machine. The answer is what enters the elastic buffer: nothing for
the block at a marker's position before AM_LOCK, its column in AM_LOCK, the block itself elsewhere. -/
def State.amStep (s : State) (l : Nat) (b : Blk) (am : Option Nat) : Option Blk × State :=
  let x := s.lane l
  let here := decide (x.idx + 1 = 4096)
  let next := { x with idx := x.idx + 1 }
  match s.rf (Rf.SPK_LN_STAT_AMST l) with
  | 0 =>
    match am with
    | some w => (none, (s.takeAm l w).setrf (Rf.SPK_LN_STAT_AMST l) 1)
    | none => (some b, s.setLane l next)
  | 1 =>
    if here then
      match am with
      | some w =>
        if amSeqOf w = (x.seq + 1) % 65536 then (none, (s.takeAm l w).setrf (Rf.SPK_LN_STAT_AMST l) 2)
        else (none, s.setrf (Rf.SPK_LN_STAT_AMST l) 0)
      | none => (none, s.setrf (Rf.SPK_LN_STAT_AMST l) 0)
    else (some (if am.isSome then .void else b), s.setLane l next)
  | _ =>
    if here then
      match am with
      | some w =>
        if amSeqOf w = (x.seq + 1) % 65536 ∧ amLane w = s.rf (Rf.SPK_LN_STAT_LANE_ID l) then
          (some (.col (amSeqOf w)), s.takeAm l w)
        else (some (.col ((x.seq + 1) % 65536)), s.missAm l)
      | none => (some (.col ((x.seq + 1) % 65536)), s.missAm l)
    else if am.isSome then (some .void, (s.setLane l next).bump (Rf.SPK_LN_CNT_AMERR l))
    else (some b, s.setLane l next)

/-! ### A port comes up (R151) -/

/-- The first condition of R151 that fails among lanes that have all taken the marker of one column: 1 the MASK, 2 the
LANE values, 3 the skew; 0 for none. R151 gives the conditions no numbers (DESIGN CHOICE, log 190). -/
def State.upFault (s : State) (p : Nat) : Nat :=
  let ls := s.lanesOf p
  let m := (s.port p).expect
  let ids := ls.map (fun l => s.rf (Rf.SPK_LN_STAT_LANE_ID l))
  let at' := ls.map (fun l => (s.lane l).amAt)
  if ls.any (fun l => (s.lane l).mask ≠ m) then 1
  else if (bitsSet m).any (fun n => !ids.contains n) then 2
  else if s.blockCounts p 64 < at'.foldl max 0 - at'.foldl min s.count then 3
  else 0

/-- The port comes up: its lanes are reordered, deskewed and read from the block after the column. -/
def State.comeUp (s : State) (p : Nat) : State :=
  let ls := s.lanesOf p
  let early := (ls.map (fun l => (s.lane l).amAt)).foldl min s.count
  let tb (n : Nat) : Nat := if s.blockCounts p 100 = 0 then 0 else n * 100 / s.blockCounts p 100
  let s := ls.foldl (fun s l => (s.setrf (Rf.SPK_LN_STAT_SKEW l) (min 255 (tb ((s.lane l).amAt - early)))).setrf
    (Rf.SPK_LN_STAT_LOST l) 0) s
  let x := s.port p
  let seq := (ls.map (fun l => (s.lane l).seq)).headD 0
  let s := s.setPort p { x with rr := 0, allFill := true, amSeq := seq, triedAt := none, switch := none, traffic := s.count }
  let s := (s.setrf (Rf.SPK_PSTAT_STRIPE p) x.expect).setrf (Rf.SPK_PSTAT_PENDING p) 0
  let s := s.setrf (Rf.SPK_PSTAT_CARRIER p) (carrierOf x.expect (s.rf (Rf.SPK_PCAM_DN_MASK p)))
  (s.setrf (Rf.SPK_PSTAT_STATE p) 2).raise 0x1004 p

/-- The AM column that has come last can be judged: every lane of the port has taken its marker, or more than 64 block
periods have passed since the first did. It is judged once: half an interval must have passed since the last judgement. -/
def State.columnDue (s : State) (p : Nat) : Bool :=
  let ls := s.lanesOf p
  let newest := ls.foldl (fun m l => if (s.lane m).amAt < (s.lane l).amAt then l else m) (s.laneBase p)
  let mine := ls.filter (fun l => (s.lane l).seq == (s.lane newest).seq)
  let first := (mine.map (fun l => (s.lane l).amAt)).foldl min s.count
  ls.all (s.locked ·) && (match (s.port p).triedAt with
    | some c => decide (c + s.blockCounts p 2048 ≤ s.count)
    | none => true) && (decide (mine.length = ls.length) || decide (first + s.blockCounts p 64 < s.count))

/-- After a block of one of its lanes: a port that is not up comes up at an AM column where the conditions of R151 hold, else
event 0x1005 names, once a column, the first that fails; where some lane's AM of the column did not come in time, that is
the skew, unless its MASK or LANE fails. -/
def State.tryUp (s : State) (p : Nat) : State :=
  let ls := s.lanesOf p
  if s.portUp p || !s.columnDue p then s
  else
    let s := s.setPort p { s.port p with triedAt := some s.count }
    match s.upFault p with
    | 0 => if ls.all (fun l => (s.lane l).seq == (s.lane (s.laneBase p)).seq) then s.comeUp p else s.raise 0x1005 p 3
    | k => s.raise 0x1005 p k

/-! ### The switch of the stripe -/

/-- The stripe switches at the column START: the mask, the divider and the port's state change, and event 0x1007 tells
of a return to full width. STATE shows 3 from here on (DESIGN CHOICE, log 192), and a settings message in progress goes on
where the switch moves the carrier (DESIGN CHOICE, log 191). -/
def State.switchStripe (s : State) (p m d : Nat) : State :=
  let full := decide (m = s.fullMask p)
  let x := s.port p
  let s := s.setPort p { x with switch := none, rr := 0, allFill := true, divPos := 0, expect := m }
  let s := ((s.setrf (Rf.SPK_PSTAT_STRIPE p) m).setrf (Rf.SPK_PSTAT_PENDING p) 0).setrf (Rf.SPK_PTRG_DIV p) d
  let s := if full then (s.lanesOf p).foldl (fun s l => s.setrf (Rf.SPK_LN_STAT_LOST l) 0) s else s
  let s := if s.portState p = 4 then s else s.setrf (Rf.SPK_PSTAT_STATE p) (if full then 2 else 3)
  let s := s.fixCarrier p []
  if full then s.raise 0x1007 p else s

/-! ### The port stream (5.3) -/

/-- The lanes that carry the port lanes of a mask, lost ones among them. -/
def State.lanesIn (s : State) (p m : Nat) : List Nat :=
  (bitsSet m).filterMap (fun n => (s.lanesOf p).find? (fun l => s.rf (Rf.SPK_LN_STAT_LANE_ID l) == n))

/-- A marker column stands at the head of every lane of a list. -/
def State.columnAt (s : State) (q : Nat) (ls : List Nat) : Bool :=
  ls.all (fun l => (s.lane l).fifo.head? == some (.col q))

/-- Move a marker column off every lane of a list. -/
def State.popColumn (s : State) (ls : List Nat) : State :=
  ls.foldl (fun s l => s.setLane l { s.lane l with fifo := (s.lane l).fifo.drop 1 }) s

/-- The next lane of the stripe, and whether it has been lost. -/
def State.nextLane (s : State) (p : Nat) : Option (Option Nat) :=
  match (bitsSet (s.stripe p))[(s.port p).rr]? with
  | some n => some (s.laneFor p n)
  | none => none

/-- The AMSEQ of a marker column that has reached the head of a lane of a list. -/
def State.columnHead (s : State) (ls : List Nat) : Option Nat :=
  ls.findSome? (fun l => match (s.lane l).fifo with
    | .col q :: _ => some q
    | _ => none)

/-- The AM column with AMSEQ `q` passes, once every lane has it: where it is START, the stripe switches (R161). -/
def State.passColumn (s : State) (p q : Nat) (ls : List Nat) : Option State :=
  let pass (ls : List Nat) : State := (s.popColumn ls).setPort p { s.port p with amSeq := q }
  match (s.port p).switch with
  | some (m, d, start) =>
    if start = q then
      if s.columnAt q (s.lanesIn p m) then some ((pass (ls ++ s.lanesIn p m).dedup).switchStripe p m d) else none
    else if s.columnAt q ls then some (pass ls) else none
  | none => if s.columnAt q ls then some (pass ls) else none

/-- One step of the reassembly: the next block of the port stream, if the lane whose turn it is has one; at a column
boundary, the AM column the lanes not lost stand at. A lane that is lost gives blocks that carry nothing while another lane
still delivers. -/
def State.takeBlock (s : State) (p : Nat) : Option (Option Blk × State) :=
  let n := (bitsSet (s.stripe p)).length
  let ls := (bitsSet (s.stripe p)).filterMap (s.laneFor p ·)
  let step (s : State) (fill : Bool) : State :=
    let x := s.port p
    let s := s.setPort p { x with rr := (x.rr + 1) % n, allFill := if (x.rr + 1) % n = 0 then true else x.allFill && fill }
    if (x.rr + 1) % n = 0 ∧ x.allFill ∧ fill ∧ ls.any (fun l => 64 ≤ (s.lane l).fifo.length) then
      s.bump (Rf.SPK_PRM_DEL p) else s
  match (if (s.port p).rr = 0 then s.columnHead ls else none) with
  | some q => (s.passColumn p q ls).map (fun s => (none, s))
  | none =>
  match s.nextLane p with
  | none => none
  | some none => if ls.any (fun l => !(s.lane l).fifo.isEmpty) then some (some .void, step s false) else none
  | some (some l) =>
    match (s.lane l).fifo with
    | [] => none
    | .col _ :: rest => some (none, s.setLane l { s.lane l with fifo := rest })
    | b :: rest =>
      let s := s.setLane l { s.lane l with fifo := rest }
      some (some b, step s (match b with
        | .ctl w => decide (w.toNat % 256 = 0x1E)
        | _ => false))

end Sys2Proof.Machine
end

