-- ==== Sys2Proof/Machine/Rows.lean ====
section
/-! DEFINITION. From lines to rows: how a line finds its row, its tag and its mask, what is synthesised, and the raw
ring (6.1 to 6.4, 6.6, 6.9, R168 to R170, R173 to R178, R181, R189). -/

namespace Sys2Proof.Machine

/-! ### Geometry of a port -/

def State.height (s : State) : Nat := s.rf Rf.CAD_GEOM_HEIGHT
def State.sampleBits (s : State) (p : Nat) : Nat := s.rf (Rf.SPK_FMT_BITS p)

/-- Exposures E and planes C of a line (Table 6.1). -/
def State.expos (s : State) (p : Nat) : Nat := if s.bit (Rf.SPK_FMT_EXPOS p) then 2 else 1
def State.planes (s : State) (p : Nat) : Nat := if s.bit (Rf.SPK_FMT_COLOUR p) then 3 else 1
def State.members (s : State) (p : Nat) : Nat := s.expos p * s.planes p

/-- The delays of the planes; the largest is Y. -/
def State.delays (s : State) (p : Nat) : List Nat :=
  if s.bit (Rf.SPK_FMT_COLOUR p) then
    [s.rf (Rf.SPK_COLR_DLY0 p), s.rf (Rf.SPK_COLR_DLY1 p), s.rf (Rf.SPK_COLR_DLY2 p)]
  else [0]
def State.history (s : State) (p : Nat) : Nat := (s.delays p).foldl max 0

/-- The bytes of a mask row. -/
def State.maskBytes (s : State) (p : Nat) : Nat := ceilDiv (s.width p) 512 * 64

/-! ### The raw ring (Table 6.7) -/

def State.rawLines (s : State) (p : Nat) : Nat := s.rf (Rf.SPK_RAWN_LINES p)
def State.rawAt (s : State) (p i m : Nat) : Nat :=
  s.rf (Rf.SPK_RAW_BASE p) + (i % s.rawLines p) * (s.members p * s.packedLine p) + m * s.packedLine p
def State.rawTagAt (s : State) (p i : Nat) : Nat := s.rf (Rf.SPK_RAWTAG_BASE p) + 32 * (i % s.rawLines p)

/-- The samples `k` to `n` - 1 of a line as fill values, in a bit string. -/
def fillBits (b fill k n : Nat) : Nat := (List.range (n - k)).foldl (fun v j => v + fill * 2 ^ (b * (k + j))) 0

/-- The fill sample of a port. -/
def State.fill (s : State) (p : Nat) : Nat := s.rf (Rf.SPK_FMT_FILL p) % 2 ^ s.sampleBits p

/-- The words of a line as one bit string. -/
def lineBits (ws : List Word) : Nat := ws.foldr (fun w v => w.toNat + 2 ^ 64 * v) 0

/-- A line of `n` samples cut or padded to the width of the port (R175, R176). -/
def State.fitLine (s : State) (p n bits : Nat) : Nat :=
  let b := s.sampleBits p
  let w := s.width p
  bits % 2 ^ (b * min n w) + fillBits b (s.fill p) n w

/-- Write the samples of member `m` of row `i` to the raw ring. -/
def State.writeMember (s : State) (p i m bits : Nat) : State :=
  let n := ceilDiv (s.width p * s.sampleBits p) 8
  s.hubWrite false p (s.rawAt p i m) n (cellsOf (s.rawAt p i m) bits n)

/-- Every member of row `i` as fill values (R177). -/
def State.writeFill (s : State) (p i : Nat) : State :=
  (List.range (s.members p)).foldl (fun s m => s.writeMember p i m (s.fitLine p 0 0)) s

/-! ### Tags (Table 6.2): flags as bits [57:48] of t0 -/

def fShort : Nat := 1
def fLong : Nat := 2
def fSynth : Nat := 4
def fBad : Nat := 8
def fMember : Nat := 16
def fSsidx : Nat := 32
def fMixed : Nat := 64

/-- SCAUSE as flag bits. -/
def fCause (c : Nat) : Nat := c * 128

/-- The whole row is masked (R174). -/
def allMasked (flg : Nat) : Bool := decide (flg / 4 % 32 ≠ 0)

def State.pband (s : State) (p n : Nat) : PortBand := look (fun _ => {}) (s.port p).bands n
def State.setPband (s : State) (p n : Nat) (b : PortBand) : State :=
  s.setPort p { s.port p with bands := put (fun _ => {}) (s.port p).bands n b }

/-- STATSEL (R174): 0 too where the band's SSIDs are not formed yet. -/
def statSel (b : PortBand) (ssid flg : Nat) : Nat := if allMasked flg then 3 else if ssid = b.s0 ∨ !b.formed then 0 else 1

/-- The SSID of a row looked up in its band (R185). A row that resolves before the band's Intake token has formed S0 and S1 is
flagged when it is delivered, and not before (DESIGN CHOICE, log 153). -/
def withSsidx (b : PortBand) (ssid f : Nat) : Nat :=
  if b.formed ∧ f / 4 % 2 = 0 ∧ ssid ≠ b.s0 ∧ ssid ≠ b.s1 then f ||| fSsidx else f

/-- The reference plane: the lowest whose delay is 0 (R181). -/
def State.refPlane (s : State) (p : Nat) : Nat := ((s.delays p).findIdx? (· == 0)).getD 0

/-- The SSID of a row: its reference plane's. -/
def State.rowSsid (s : State) (p : Nat) (r : RowRec) : Nat := r.ssids.getD (s.refPlane p) (r.ssids.headD 0)

/-- The capture `d` lines before a row (R181), found by its LSEQ. -/
def State.capture (s : State) (p : Nat) (r : RowRec) (d : Nat) : Option RowRec :=
  if d = 0 then some r
  else (s.port p).rows.reverse.find? (fun q => (q.lseq + d) % 2 ^ 32 == r.lseq % 2 ^ 32)

/-- The flags of the registered row: those of its captures together, the planes' SSIDs compared, its SSID looked up in
the band (R181, R187). Captures before the cadence start, and those of lines that found no row, are synthesised ones. -/
def State.regFlags (s : State) (p : Nat) (r : RowRec) : Nat :=
  let flags := (s.delays p).foldl (fun f d => f ||| (match s.capture p r d with
    | some q => q.flg
    | none => fSynth ||| fCause 3)) r.flg
  let ids := (s.delays p).zipIdx.map (fun e => match s.capture p r e.1 with
    | some q => q.ssids.getD e.2 (q.ssids.headD 0)
    | none => r.ssids.headD 0)
  let ssid := s.rowSsid p r
  let f := if ids.any (fun k => k ≠ ids.headD ssid) then flags ||| fMixed else flags
  withSsidx (s.pband p (r.i / s.height)) ssid f

/-- NPIX of a registered row, from which with the flags its mask follows: the smallest of its SHORT captures, so that the
padding of every plane is masked (DESIGN CHOICE, log 188); the reference plane's where none is short. -/
def State.regNpix (s : State) (p : Nat) (r : RowRec) : Nat :=
  (((s.delays p).filterMap (s.capture p r)).filterMap (fun q => if q.flg % 2 = 1 then some q.npix else none)).min?.getD r.npix

/-- The tag of a row. -/
def State.tagOf (s : State) (p : Nat) (r : RowRec) : Nat :=
  let f := s.regFlags p r
  let ssid := s.rowSsid p r
  let t0 := r.lseq % 2 ^ 32 + ssid * 2 ^ 32 + statSel (s.pband p (r.i / s.height)) ssid f * 2 ^ 40 + f % 1024 * 2 ^ 48
  t0 + r.enc.toNat * 2 ^ 64 + r.time.toNat * 2 ^ 128 + (s.regNpix p r + r.lcrc * 2 ^ 32) * 2 ^ 192

/-- The mask row of a tag: a function of its flags and NPIX. -/
def State.maskOf (s : State) (p tag : Nat) : Nat :=
  let f := bitsOf tag 48 10
  let w := s.width p
  let n := bitsOf tag 192 16 + 1
  if allMasked f then 2 ^ w - 1 else if f % 2 = 1 then 2 ^ w - 2 ^ n else 0

/-! ### Resolving a row -/

/-- A row is resolved: counted, its tag written to the raw ring, and kept for the rows that register with it, which a row
without a trigger has none of. A row counts as short, long or synthesised by its own capture, and as SSIDX or MIXED by its
tag (DEDUCED, log 198). -/
def State.resolveRow (s : State) (p : Nat) (r : RowRec) : State :=
  let n := r.i / s.height
  let x := s.port p
  let f := s.regFlags p r
  let tag := s.tagOf p r
  let b := s.pband p n
  let on (m : Nat) : Nat := if r.flg &&& m ≠ 0 then 1 else 0
  let b := { b with short := b.short + on fShort, long := b.long + on fLong, synth := b.synth + on fSynth,
                    ssidx := b.ssidx + (if f &&& (fSsidx ||| fMixed) ≠ 0 then 1 else 0),
                    cause := if r.flg &&& fSynth ≠ 0 then b.cause ||| 2 ^ (r.flg / 128 % 8) else b.cause }
  let rows := if r.lseq < 2 ^ 32 then x.rows ++ [r] else x.rows
  let s := s.setPort p { x with rows := rows.drop (rows.length - 128), bands := put (fun _ => {}) x.bands n b }
  let s := (s.bump (Rf.SPK_LCNT_SHORT p) (on fShort)).bump (Rf.SPK_LCNT_LONG p) (on fLong)
  let s := (s.bump (Rf.SPK_LCNT_SYNTH p) (on fSynth)).bump (Rf.SPK_LCNT2_SSIDX p)
    (if f &&& (fSsidx ||| fMixed) ≠ 0 then 1 else 0)
  let s := s.hubWrite false p (s.rawTagAt p r.i) 32 (cellsOf (s.rawTagAt p r.i) tag 32)
  s.setrf (Rf.SPK_RAWPOS_NEXT p) (max (s.rf (Rf.SPK_RAWPOS_NEXT p)) (r.i + 1))

/-- The SSID of a synthesised row of a band: S0 before the expected cutover, S1 from it on. -/
def PortBand.synthSsid (b : PortBand) (row : Nat) : Nat :=
  match b.cutRow with
  | some c => if c ≤ row then b.s1 else b.s0
  | none => b.s0

/-- A synthesised row for a trigger whose line never came (R177). -/
def State.synthRow (s : State) (p : Nat) (t : TrigRec) : State :=
  let i := t.band * s.height + t.row
  let ss := List.replicate (s.planes p) ((s.pband p t.band).synthSsid t.row)
  (s.writeFill p i).resolveRow p ⟨i, t.lseq, ss, fSynth ||| fCause (if t.held then 1 else 0), t.enc, t.time, 0, 0⟩

/-- The LSEQ of row 0 of band `n`: its trigger's, or the next where it has none. -/
def State.row0 (s : State) (p n : Nat) : Nat :=
  match (s.port p).trigs.find? (fun t => decide (n ≤ t.band) && decide (t.lseq < 2 ^ 32)) with
  | some t => t.lseq
  | none => s.rf (Rf.SPK_PTRG_LSEQ p)

/-- Two triggers of one row; a trigger of an earlier row. -/
def TrigRec.same (t u : TrigRec) : Bool := t.band == u.band && t.row == u.row
def TrigRec.before (t u : TrigRec) : Bool := decide (t.band < u.band) || (t.band == u.band && decide (t.row < u.row))

/-- Mark the trigger of a row as resolved, by a line or not. -/
def State.trigDone (s : State) (p : Nat) (r : TrigRec) (line : Bool) : State :=
  let x := s.port p
  s.setPort p { x with trigs := x.trigs.map (fun t => if t.same r then { t with done := true, placed := line } else t) }

/-- The rows not yet resolved, of triggers that meet a test, become synthesised rows, in order. -/
def State.synthRows (s : State) (p : Nat) (want : TrigRec → Bool) : State :=
  ((s.port p).trigs.filter (fun t => !t.done && decide (t.row < s.height) && want t)).foldl
    (fun s t => (s.synthRow p t).trigDone p t false) s

/-- LSEQ `a` is not after `b`, modulo 2^32. -/
def lseqLe (a b : Nat) : Bool := decide ((b + 2 ^ 32 - a % 2 ^ 32) % 2 ^ 32 < 2 ^ 31)

/-- The cutovers still expected after the line with an LSEQ has shown an SSID: the latest that it meets has come about, and
with it those before. -/
def cutsAfter (lseq ssid : Nat) (l : List CutRec) : List CutRec :=
  match l.reverse.find? (fun k => k.ssid == ssid && lseqLe k.lseq lseq) with
  | some m => l.filter (fun k => !lseqLe k.lseq m.lseq)
  | none => l

/-- The collected row is placed: the lower rows still open are synthesised first (R170). -/
def State.closeRow (s : State) (p : Nat) : State :=
  match (s.port p).cur with
  | none => s
  | some c =>
    let s := s.setPort p { s.port p with cur := none }
    let t := c.trig
    let s := s.synthRows p (fun u => u.before t)
    let s := s.trigDone p t true
    let i := t.band * s.height + t.row
    let whole := decide (c.got = s.members p)
    let flg := if c.bad ∧ s.members p = 1 then fBad else if c.bad ∨ !whole then fMember else c.flg
    let s := if c.bad ∨ !whole then s.writeFill p i else s
    let ss := c.ssids ++ List.replicate (s.planes p - c.ssids.length) (c.ssids.headD 0)
    let s := s.resolveRow p ⟨i, t.lseq, ss, flg, t.enc, t.time, if c.bad then 0 else c.npix, if c.bad then 0 else c.lcrc⟩
    let new := c.ssids.headD 0
    let x := s.port p
    let s := s.setPort p { x with lastSs := some new, cuts := cutsAfter t.lseq new x.cuts }
    match x.lastSs with
    | some old =>
      let b := s.pband p t.band
      if old ≠ new ∧ !x.cuts.any (fun k => k.lseq == t.lseq && k.ssid == new) ∧ !b.cut then
        (s.setPband p t.band { b with cut := true }).raise 0x2007 p t.band t.lseq
      else s
    | none => s

/-! ### A line reaches Intake (R144, R145, R168, R169) -/

/-- A band the cadence unit still knows. -/
def State.bandRec (s : State) (n : Nat) : Option BandRec := s.cad.bands.find? (fun b => b.band == n)

/-- The count at which band `n` is due for Intake: T(n) plus the tail (Table 4.2); none while the band is open. -/
def State.intakeDue (s : State) (n : Nat) : Option Nat :=
  match s.bandRec n with
  | some b => b.closed.map (· + countsOfUs (s.rf Rf.CAD_GEOM_TAIL_US))
  | none => none

/-- The band's Intake due time has passed. -/
def State.intakePast (s : State) (n : Nat) : Bool :=
  match s.intakeDue n with
  | some c => decide (c < s.count)
  | none => s.bandRec n |>.isNone

/-- A band held by hold or catch-up (R131), and one marked lost. -/
def State.bandHeld (s : State) (n : Nat) : Bool := s.cad.bands.any (fun b => b.band == n && b.held)
def State.bandLost (s : State) (n : Nat) : Bool := s.cad.bands.any (fun b => b.band == n && b.lost)

/-- The gear in force, and the state of the cadence unit: 1 running, 2 hold, 3 catch-up. -/
def State.gear (s : State) : Nat := s.rf Rf.CAD_GEAR_CUR
def State.cadState (s : State) : Nat := s.rf Rf.CAD_GEAR_STATE

/-- The gear of a token of band `n` issued now (R125, R131). -/
def State.tokenGear (s : State) (n : Nat) : Nat :=
  if s.bandHeld n then 4 else if s.cadState = 2 then s.cad.heldG else s.gear

/-- The gear of band `n` for Pack: its token's, or until that is issued the gear one would carry now (R125). -/
def State.packGear (s : State) (n : Nat) : Nat :=
  match s.bandRec n with
  | some b => b.gP.getD (s.tokenGear n)
  | none => s.gear

/-- The member a line is: exposure and plane, if they fit the port's format. -/
def State.memberOf (s : State) (p : Nat) (l : LineIn) : Option Nat :=
  let e := if s.bit (Rf.SPK_FMT_EXPOS p) then (if l.expo = 1 then some 0 else if l.expo = 2 then some 1 else none)
    else (if l.expo = 0 then some 0 else none)
  let okPlane := if s.bit (Rf.SPK_FMT_COLOUR p) then decide (l.plane < 3) else decide (l.plane = 0)
  match e with
  | some e => if okPlane then some (e * s.planes p + l.plane) else none
  | none => none

/-- A line in its place: it extends the row being collected, or begins a new one. -/
def State.placeLine (s : State) (p : Nat) (t : TrigRec) (l : LineIn) : State :=
  let same := match (s.port p).cur with
    | some c => c.trig.same t
    | none => false
  let s := if same then s else s.closeRow p
  let c := match (s.port p).cur with
    | some c => c
    | none => ⟨t, 0, false, [], 0, 0, 0, false⟩
  let good := l.good && s.memberOf p l == some c.got
  let s := if l.good && !good then s.bump (Rf.SPK_PCNT_BADLINE p) else s
  let n := l.npix + 1
  let w := s.width p
  let s := if good then s.writeMember p (t.band * s.height + t.row) c.got (s.fitLine p n (lineBits l.words)) else s
  let len := if n < w then fShort else if w < n then fLong else 0
  let c := { c with got := c.got + 1, bad := c.bad || !good, wrote := c.wrote || good, flg := c.flg ||| (if good then len else 0),
                    ssids := if c.ssids.length < s.planes p then c.ssids ++ [l.ssid] else c.ssids,
                    npix := if c.got = 0 then l.npix else if good then min c.npix l.npix else c.npix, lcrc := if c.got = 0 then l.lcrc else c.lcrc }
  let s := s.setPort p { s.port p with cur := some c }
  if c.got = s.members p then s.closeRow p else s

/-- A surplus line, counted for a band: its trigger's, or the open one's where it has none. -/
def State.surplus (s : State) (p n : Nat) : State :=
  let b := s.pband p n
  (s.setPband p n { b with surp := b.surp + 1 }).bump (Rf.SPK_LCNT_SURPLUS p)

/-- The trigger of an LSEQ. -/
def State.trigOf (s : State) (p lseq : Nat) : Option TrigRec := (s.port p).trigs.reverse.find? (fun t => t.lseq == lseq)

/-- A line of the port, good or bad: dropped and counted as surplus or late, or placed (R169). A row is resolved from the first
line of a higher LSEQ on that is placed (R170), be it one of several members. While the cadence unit is
stopped lines are counted only (Table 15.1). -/
def State.lineIn (s : State) (p : Nat) (l : LineIn) : State :=
  if !s.cadOn then s
  else
    match s.trigOf p l.lseq with
    | none => s.surplus p (s.rf Rf.CAD_BAND_BAND)
    | some t =>
      let b := s.pband p t.band
      if s.height ≤ t.row ∨ t.placed then s.surplus p t.band
      else if s.intakePast t.band then (s.setPband p t.band { b with late := b.late + 1 }).bump (Rf.SPK_LCNT2_LATE p)
      else if t.done || (match (s.port p).cur with
        | some c => t.before c.trig
        | none => false) then s.surplus p t.band
      else s.placeLine p t l

/-! ### Trigger events of a port (R146, R158, R162) -/

/-- A free value of `n` bits: the counter moves on. -/
def State.freeBits (s : State) (n : Nat) : Nat × State :=
  ((Config.freeWord s.free).toNat % 2 ^ n, { s with free := s.free + 1 })

/-- The divider withholds the port's next trigger event (R162). -/
def State.withholds (s : State) (p : Nat) : Bool := decide ((s.port p).divPos ≠ 0)

/-- A trigger event of port `p`: its LSEQ, the divider, the TRG block where the brake lets it leave, and its place in the
open band. -/
def State.portTrigger (s : State) (p : Nat) (enc time : Word) (leaves : Bool) : State :=
  let lseq := s.rf (Rf.SPK_PTRG_LSEQ p)
  let s := s.setrf (Rf.SPK_PTRG_LSEQ p) (lseq + 1)
  let x := s.port p
  let d := s.rf (Rf.SPK_PTRG_DIV p)
  let held := decide (x.divPos ≠ 0)
  let s := s.setPort p { x with divPos := if d ≤ x.divPos + 1 then 0 else x.divPos + 1 }
  let s := if held then s.bump (Rf.SPK_PTRG_WITHHELD p)
    else if leaves ∧ s.bit (Rf.SPK_PCFG_TRG_INBAND p) ∧ s.portOn p then s.sendTrg p lseq
    else s
  if s.cadOn && s.cad.started && !s.cad.stop then
    let n := s.rf Rf.CAD_BAND_BAND
    let b := s.pband p n
    let s := s.setPband p n { b with lines := b.lines + 1 }
    let s := if s.height ≤ b.lines then s.bump Rf.CAD_CNT_SURPLUS else s
    s.setPort p { s.port p with trigs := (s.port p).trigs ++ [⟨lseq, n, b.lines, enc, time, held, false, false⟩] }
  else s

/-- The rows missing from a band that closes with fewer than H lines on a port are synthesised (R110); they have no
trigger, so what their tags hold of one is a free value. -/
def State.padBand (s : State) (p n : Nat) : State :=
  let b := s.pband p n
  (List.range (s.height - b.lines)).foldl (fun s j =>
    let e := s.freeBits 64
    let t := e.2.freeBits 64
    let q := t.2.freeBits 32
    (q.2).setPort p { q.2.port p with trigs := (q.2.port p).trigs ++
      [⟨2 ^ 32 + q.1, n, b.lines + j, BitVec.ofNat 64 e.1, BitVec.ofNat 64 t.1, false, false, false⟩] }) s

/-- An event of R178 for a band, once: where its count has risen and it has not been raised. -/
def State.tellCount (s : State) (p n bit code extra : Nat) (count : PortBand → Nat) : State :=
  let b := s.pband p n
  if count b = 0 ∨ b.told.testBit bit then s
  else (s.setPband p n { b with told := b.told ||| 2 ^ bit }).raise code (p + 256 * extra) n (count b)

/-- The events of a band whose counts can rise after its due time too: lines that come late or again, rows overwritten or
masked at their replay. They are raised at the first Intake due time that finds them, or when the cadence unit stops (DEDUCED, log 154). -/
def State.tellLate (s : State) (p n : Nat) : State :=
  let s := s.tellCount p n 0 0x2003 (s.pband p n).cause (·.synth)
  let s := (s.tellCount p n 1 0x2004 0 (·.surp)).tellCount p n 2 0x2005 0 (·.late)
  s.tellCount p n 3 0x2006 0 (·.ssidx)

/-- The same for every band of a port up to a number. -/
def State.tellAll (s : State) (p n : Nat) : State :=
  ((s.port p).bands.filter (fun e => decide (e.1 ≤ n))).foldl (fun s e => s.tellLate p e.1) s

/-- The Intake due time of band `n`: rows still open are synthesised, and the counts of the band are reported (R170,
R178). -/
def State.intakeDuePort (s : State) (p n : Nat) : State :=
  let s := match (s.port p).cur with
    | some c => if c.trig.band ≤ n then s.closeRow p else s
    | none => s
  let s := s.synthRows p (fun t => decide (t.band ≤ n))
  let b := s.pband p n
  let ev (s : State) (code k extra : Nat) : State := if k = 0 then s else s.raise code (p + 256 * extra) n k
  let s := ev (ev s 0x2001 b.short 0) 0x2002 b.long 0
  let s := s.tellAll p n
  let x := s.port p
  let next := s.rf (Rf.SPK_PTRG_LSEQ p)
  s.setPort p { x with trigs := x.trigs.filter (fun t => decide (n ≤ t.band + 4) || decide ((s.wu p).done ≤ t.band) ||
    (decide (t.lseq < 2 ^ 32) && decide ((next + 2 ^ 32 - t.lseq) % 2 ^ 32 < 2 ^ 31))) }

end Sys2Proof.Machine
end

