-- ==== Sys2Proof/Machine/Receive.lean ====
section
/-! DEFINITION. The upstream blocks of a port: block reception with the lane alterations of R438, the elastic buffers,
the port stream and its lines, the camera's status and acknowledgements, and the port and lane commands of chapter 5. -/

namespace Sys2Proof.Machine

/-! ### A block as received (R140, R141, R149, R150) -/

/-- A block of 66 bits after descrambling: an invalid header, a data block or a control block. -/
inductive Rx where
  | bad
  | data (w : Word)
  | ctl (w : Word)
  deriving DecidableEq, Repr

/-! ### A block on the wire (R140)

The commands give blocks descrambled and aligned; these are the 66 bits they are in transmission order, the header first and
the payload from bit 0 on. A lane holds the scrambled bits that came last, from which its descrambler reads the next payload
(`readBlock_wireBlock`). -/

/-- One bit of a payload through the scrambler 1 + x^39 + x^58, whose register holds the 58 bits sent before it, the newest
in bit 0. -/
def scrambleBit (h : BitVec 58) (b : Bool) : BitVec 58 × Bool :=
  let c := b ^^ h.getLsbD 38 ^^ h.getLsbD 57
  (h.shiftConcat c, c)
def descrambleBit (h : BitVec 58) (c : Bool) : BitVec 58 × Bool := (h.shiftConcat c, c ^^ h.getLsbD 38 ^^ h.getLsbD 57)

/-- A run of bits through one of the two. -/
def runBits (f : BitVec 58 → Bool → BitVec 58 × Bool) (h : BitVec 58) : List Bool → BitVec 58 × List Bool
  | [] => (h, [])
  | b :: bs =>
    let r := f h b
    let t := runBits f r.1 bs
    (t.1, r.2 :: t.2)

/-- The bits of a payload, and the payload of 64 bits. -/
def payloadBits (w : Word) : List Bool := (List.range 64).map (fun i => w.getLsbD i)
def payloadOf (bs : List Bool) : Word := BitVec.ofNat 64 (bs.foldr (fun b v => (if b then 1 else 0) + 2 * v) 0)

/-- A block as it is sent: header 01 for data and 10 for control, not scrambled. -/
def wireBlock (h : BitVec 58) (ctl : Bool) (w : Word) : BitVec 58 × List Bool :=
  let r := runBits scrambleBit h (payloadBits w)
  (r.1, ctl :: (!ctl) :: r.2)

/-- A block as it is received: any other header is invalid. -/
def readBlock (h : BitVec 58) (bits : List Bool) : BitVec 58 × Rx :=
  let r := runBits descrambleBit h (bits.drop 2)
  (r.1, match bits.take 2 with
    | [false, true] => .data (payloadOf r.2)
    | [true, false] => .ctl (payloadOf r.2)
    | _ => .bad)

/-- A block has come over the wire of a lane: the bits its descrambler holds. Those of a block without a valid header are not
given with the command, and are a free value. -/
def State.onWire (s : State) (l : Nat) (b : Rx) : State :=
  let x := s.lane l
  match b with
  | .data w => s.setLane l { x with scr := (wireBlock x.scr false w).1 }
  | .ctl w => s.setLane l { x with scr := (wireBlock x.scr true w).1 }
  | .bad => { s.setLane l { x with scr := BitVec.ofNat 58 (Config.freeWord s.free).toNat } with free := s.free + 1 }

/-- The 66 bits of what port lane `n` carries downstream in slot `k`, after a payload that left `h` in its scrambler. The
transmitters send control blocks only. -/
def State.dnWire (s : State) (p n k : Nat) (h : BitVec 58) : BitVec 58 × List Bool := wireBlock h true (s.dnBlock p n k)

/-! ### A line handed to Intake -/

def State.testLines (s : State) (n : Nat) : State := { s with tests := { s.tests with lineN := n } }

/-- The line distortion of R441 on a good line: its new NPIX and words, or none where it is dropped. -/
def State.distort (s : State) (p : Nat) (l : LineIn) : Option LineIn :=
  let n := s.rf Rf.TST_LINE_N
  let b := s.sampleBits p
  let m := l.npix + 1
  match s.rf Rf.TST_LINE_OP with
  | 0 => some { l with npix := max 1 (m - n) - 1 }
  | 1 =>
    let bits := lineBits l.words % 2 ^ (b * m) + fillBits b (s.fill p) m (m + n)
    some { l with npix := m + n - 1, words := [BitVec.ofNat 64 bits] ++
      (List.range (ceilDiv ((m + n) * b) 64 - 1)).map (fun k => BitVec.ofNat 64 (bits / 2 ^ (64 * (k + 1)))) }
  | _ => none

/-- Whether a good line is one the distortion alters, and the state with the line counted; a distortion of the next line
alone has then ended. -/
def State.distorts (s : State) (p : Nat) : Bool × State :=
  if s.bit Rf.TST_LINE_EN ∧ s.rf Rf.TST_LINE_PORT = p then
    let k := s.tests.lineN + 1
    match s.rf Rf.TST_LINE_EVERY with
    | 0 => (true, (s.setrf Rf.TST_LINE_EN 0).tstShow s)
    | e => (decide (k % e = 0), s.testLines (k % e))
  else (false, s)

/-- Whether the half that line group `g` of band `n` goes to is free (R171): every earlier group has been asked for by
its ldw and the stream instructions before that ldw have completed. -/
def State.portHalfFree (s : State) (p k n g : Nat) : Bool :=
  let e := s.rf (Rf.ENG_UNIT_ENGINE p)
  let x := s.eng e
  let groups := s.loadFldAt e (if g = 0 then n - 1 else n) k 0 32 16
  let asked (m j : Nat) : Bool := decide (x.tok.band = m) &&
    (match (look (fun _ => []) x.ldws (s.loadFld e k 0 0 4)).find? (fun q => q.1 == j) with
     | some l => x.queue.all (fun q => decide (l.2 ≤ q.seq))
     | none => false)
  if g = 0 then decide (n ≤ (s.wu p).done) ||
    (decide (groups % 2 = 0) && decide (n ≤ (s.wu p).done + 1) && asked (n - 1) (groups - 1))
  else decide (n ≤ (s.wu p).done) && asked n (g - 1)

/-- The load entry of unit `p`'s program of band `n` that reads its camera port. -/
def State.portEntry (s : State) (p n : Nat) : Option Nat :=
  let e := s.rf (Rf.ENG_UNIT_ENGINE p)
  (List.range (s.loadCntAt e n)).find? (fun k => s.loadFldAt e n k 0 5 1 == 1)

/-- The first line of a group that meets a half still in use makes the group a late one (R172). -/
def State.groupArrives (s : State) (p : Nat) (t : TrigRec) : State :=
  match s.portEntry p t.band with
  | some k =>
    let g := t.row / max 1 (s.loadFldAt (s.rf (Rf.ENG_UNIT_ENGINE p)) t.band k 0 16 16)
    let x := s.port p
    let seen := decide (t.band < x.grpSeen.1) || (decide (t.band = x.grpSeen.1) && decide (g + 1 ≤ x.grpSeen.2))
    if seen then s
    else
      let s := s.setPort p { x with grpSeen := (t.band, g + 1) }
      if s.portHalfFree p k t.band g then s
      else s.setPort p { s.port p with missed := (s.port p).missed ++ [(t.band, g)] }
  | none => s

/-- A line reaches Intake: it is placed or dropped, and its group has begun. -/
def State.handLine (s : State) (p : Nat) (l : LineIn) : State :=
  let s := match s.trigOf p l.lseq with
    | some t => if s.cadOn && decide (t.row < s.height) && !s.bandHeld t.band then s.groupArrives p t else s
    | none => s
  s.lineIn p l

/-- A good line, with the distortion of R441. -/
def State.goodLine (s : State) (p : Nat) (l : LineIn) : State :=
  let d := s.distorts p
  if d.1 then
    match d.2.distort p l with
    | some l => d.2.handLine p l
    | none => d.2
  else d.2.handLine p l

/-- The open line is closed as bad (R144, R147): counted, and handed over as an invalid line. -/
def State.closeBad (s : State) (p : Nat) : State :=
  match (s.port p).line with
  | some o => ((s.setPort p { s.port p with line := none }).bump (Rf.SPK_PCNT_BADLINE p)).handLine p o.bad
  | none => s

/-! ### The blocks of the port stream -/

/-- A data block (R144, R147): it extends the open line, or is counted as an orphan. More than any line holds makes
the line bad and is not kept. -/
def State.takeData (s : State) (p : Nat) (w : Word) : State :=
  match (s.port p).line with
  | some o =>
    let full := decide (ceilDiv (65536 * s.sampleBits p) 64 ≤ o.words.length)
    s.setPort p { s.port p with line := some (if full then { o with excess := true } else { o with words := w :: o.words }) }
  | none => s.bump (Rf.SPK_PCNT_ORPHAN p)

/-- LS: a new line opens; an open one is closed as bad. -/
def State.takeLs (s : State) (p w : Nat) : State :=
  let s := s.cameraSeen p
  let s := if (s.port p).line.isSome then (s.closeBad p).bump (Rf.SPK_PCNT_NOEND p) else s
  let o : OpenLine := ⟨bitsOf w 8 32, bitsOf w 40 8, bitsOf w 48 2, bitsOf w 50 2, [], false, s.count⟩
  s.setPort p { s.port p with discard := false, line := some o }

/-- The bytes of the samples of a line as CRC-32C sees them. -/
def lineCrc (words : List Word) (n : Nat) : Nat :=
  let byte (c : BitVec 32) (k : Nat) : BitVec 32 :=
    crcByte c (BitVec.ofNat 8 ((words.getD (k / 8) 0).toNat / 2 ^ (8 * (k % 8))))
  (((List.range n).foldl byte 0xFFFFFFFF#32) ^^^ 0xFFFFFFFF#32).toNat

/-- LE: the line ends, good where its count of blocks and its LCRC hold, else bad (R144). -/
def State.takeLe (s : State) (p w : Nat) : State :=
  let s := s.cameraHeard p
  match (s.port p).line with
  | none => s.bump (Rf.SPK_PCNT_ORPHAN p)
  | some o =>
    let npix := bitsOf w 8 16
    let bits := (npix + 1) * s.sampleBits p
    let words := o.words.reverse
    if !o.excess && decide (words.length = ceilDiv bits 64) && decide (lineCrc words (ceilDiv bits 8) = bitsOf w 24 32) then
      (s.setPort p { s.port p with line := none }).goodLine p
        ⟨o.lseq, o.ssid, o.expo, o.plane, true, npix, bitsOf w 24 32, words⟩
    else s.closeBad p

/-! ### Settings messages (R160, R183, R184) -/

/-- The byte `k` of a settings message, as a read of the hub delivers it. -/
def State.msgByte (s : State) (m : SetMsg) (k : Nat) : Nat :=
  if k < m.len then (look (fun _ => (0 : Byte)) (s.hubView (m.addr + k) 1) (m.addr + k)).toNat else 0

/-- The SETH and SETD blocks of a message (Table 5.2). -/
def State.msgBlocks (s : State) (m : SetMsg) : List Word :=
  let frags := ceilDiv m.len 5
  let data (f : Nat) : Nat := (List.range 5).foldl (fun v k => v + s.msgByte m (5 * f + k) * 2 ^ (8 * k)) 0
  ctlMake (0x87 + m.msgid * 2 ^ 8 + m.ssid * 2 ^ 16 + m.len * 2 ^ 24 + frags * 2 ^ 32) ::
    (List.range frags).map (fun f => ctlMake (0x99 + f * 2 ^ 8 + data f * 2 ^ 16))

/-- The state SPK_SETSTAT shows when no message is under way: armed while one is. -/
def State.setIdle (s : State) (p : Nat) : State :=
  s.setrf (Rf.SPK_SETSTAT_STATE p) (if (s.port p).armed = [] then 0 else 1)

/-- The settings brake (Table 14.7): whether the bucket has a token, and the state with it taken. -/
def State.settingsBrake (s : State) (p : Nat) : Bool × State :=
  let x := s.port p
  let every := max 1 (countsOfUs (s.rf (Rf.BRK_SET_INTERVAL_US p)))
  let back := (s.count - x.setAt) / every
  let missing := x.setTok - back
  let base := if missing = 0 then s.count else x.setAt + back * every
  if missing < s.rf (Rf.BRK_SET_DEPTH p) then (true, s.setPort p { x with setAt := base, setTok := missing + 1 })
  else (false, (s.bump Rf.BRK_CNT_SETDROP).raiseMs 0xB007 p)

/-- Launch a settings message past the brake: it is queued behind the blocks already queued, and its expected cutover
is formed where it was armed for a band. A message the brake stops is discarded. -/
def State.launch (s : State) (p : Nat) (m : SetMsg) (expect : Option Nat) : State :=
  let b := s.settingsBrake p
  let s := b.2
  if b.1 then
    let x := s.port p
    let m := { m with msgid := x.msgNo % 256 }
    let x := { x with msg := some (x.msg.getD m), later := if x.msg.isSome then x.later ++ [m] else x.later,
                      msgNo := (x.msgNo + 1) % 256 }
    let x := match expect with
      | some j => { x with cuts := x.cuts ++ [⟨(j + s.rf (Rf.SPK_FMT_SET_LAT p)) % 2 ^ 32, m.ssid, m.msgid⟩] }
      | none => x
    (((s.transfer 1 p [(m.addr, m.len)]).setPort p x).queueDn p (s.msgBlocks m)).setrf (Rf.SPK_SETSTAT_STATE p) 2
  else
    ((s.raise 0x2008 p (m.band.getD 0) 3).bump (Rf.SPK_LCNT2_SETREF p)).setIdle p

/-- The messages of a port under way, oldest first: being sent, or awaiting their SACK. -/
def PortUnit.msgs (x : PortUnit) : List SetMsg := x.msg.toList ++ x.later
def PortUnit.setMsgs (x : PortUnit) (l : List SetMsg) : PortUnit := { x with msg := l.head?, later := l.drop 1 }

/-- SACK (R160, R186): matched by MSGID with the messages that await one. RESULT has four values; a SACK with another is
counted as bad, and its message goes on awaiting one (DESIGN CHOICE, log 150). -/
def State.takeSack (s : State) (p w : Nat) : State :=
  let s := s.cameraSeen p
  let r := bitsOf w 24 8
  let x := s.port p
  if r < 4 ∧ x.msgs.any (fun m => m.msgid == bitsOf w 8 8) then
    let s := s.setPort p (x.setMsgs (x.msgs.filter (fun m => m.msgid != bitsOf w 8 8)))
    if r = 0 then s.setrf (Rf.SPK_SETSTAT_STATE p) 3
    else
      let s := s.setPort p { s.port p with cuts := (s.port p).cuts.filter (fun k => k.msgid != bitsOf w 8 8) }
      (((s.bump (Rf.SPK_PCNT2_SACKREJ p)).raise 0x100C p r).setIdle p)
  else s.bump (Rf.SPK_PCNT2_BADCTL p)

/-- ST (R157, R164): SPK_PCAM, the carrier, and event 0x1010 at a change to STATE 2 or 3. -/
def State.takeSt (s : State) (p w : Nat) : State :=
  let s := s.cameraSeen p
  let old := s.rf (Rf.SPK_PCAM_STATE p)
  let new := bitsOf w 8 8
  let s := (s.setrf (Rf.SPK_PCAM_STATE p) new).setrf (Rf.SPK_PCAM_SSID p) (bitsOf w 16 8)
  let s := (s.setrf (Rf.SPK_PCAM_DN_MASK p) (bitsOf w 24 8)).setrf (Rf.SPK_PCAM_TEMP p) (bitsOf w 32 8)
  let s := s.setrf (Rf.SPK_PCAM_CAMFLAGS p) (bitsOf w 40 16)
  let s := s.setPort p { s.port p with stAt := some s.count }
  let s := s.settleDn p
  let s := s.fixCarrier p (((s.port p).msgs.filter (·.left.isNone)).flatMap s.msgBlocks)
  if new ≠ old ∧ (new = 2 ∨ new = 3) then s.raise 0x1010 p new else s

/-- One block of the port stream. -/
def State.portBlock (s : State) (p : Nat) (b : Blk) : State :=
  match b with
  | .void => s
  | .gone => s
  | .col _ => s
  | .data w => let s := s.countLoad p; if (s.port p).discard then s else s.takeData p w
  | .ctl w =>
    let w := w.toNat
    match w % 256 with
    | 0x1E => s
    | 0x33 => (s.countLoad p).takeLs p w
    | k =>
      let s := s.countLoad p
      if (s.port p).discard then s
      else match k with
        | 0x4B => s.takeLe p w
        | 0x55 => s.takeSt p w
        | 0x66 => s.takeSack p w
        | _ => s

/-- The port stream as far as the elastic buffers hold it. -/
def State.drain : Nat → State → Nat → State
  | 0, s, _ => s
  | n + 1, s, p =>
    if s.portUp p then
      match s.takeBlock p with
      | none => s
      | some (none, s) => State.drain n s p
      | some (some b, s) => State.drain n (s.portBlock p b) p
    else s

/-! ### The elastic buffers (R153, R154) -/

/-- The blocks a buffer holds, of the 128 it has room for. -/
def LaneSt.filled (x : LaneSt) : Nat := (x.fifo.filter (fun b => decide (b ≠ .gone))).length

/-- A block is an LS. -/
def Blk.isLs : Blk → Bool
  | .ctl w => decide (w.toNat % 256 = 0x33)
  | _ => false

/-- The places in the port stream, from the next block to be read on, of the blocks of the buffer `fifo` of the `i`-th of `n` striping lanes:
a lane before the one whose turn it is has given its block of the open column. Markers stand at equal places of every lane. -/
def State.places (s : State) (p n i : Nat) (fifo : List Blk) : List (Nat × Blk) :=
  fifo.zipIdx.map (fun e => (n * (e.2 + (if i < (s.port p).rr then 1 else 0)) + i, e.1))

/-- The place of the port stream's next LS, where some striping lane's buffer holds one; lane `l` holds `fifo`. -/
def State.nextLs (s : State) (p l : Nat) (fifo : List Blk) : Option Nat :=
  let ns := bitsSet (s.stripe p)
  let at' := (ns.zipIdx.flatMap (fun e => match s.laneFor p e.1 with
    | some k => (s.places p ns.length e.2 (if k = l then fifo else (s.lane k).fifo)).filter (·.2.isLs)
    | none => [])).map (·.1)
  at'.min?

/-- The blocks of a lane's buffer that come before the port stream's next LS lose their contents and keep their places, which
hold the lanes of the port together; markers stay. -/
def State.dropToLs (s : State) (p l : Nat) (fifo : List Blk) : List Blk :=
  let ns := bitsSet (s.stripe p)
  let i := (ns.findIdx? (· == s.rf (Rf.SPK_LN_STAT_LANE_ID l))).getD 0
  (s.places p ns.length i fifo).map (fun e => match e.2 with
    | .col q => .col q
    | b => if (match s.nextLs p l fifo with
        | some k => decide (e.1 < k)
        | none => true) then .gone else b)

/-- An overflow of lane `l` (R154): the open line is closed as bad, and what comes before the port stream's next LS is discarded, of
the full buffer at once and of the port stream as it is read. Where the buffer holds nothing that comes before it, the block
that finds no room is lost (DESIGN CHOICE, log 194). -/
def State.overflow (s : State) (p l : Nat) (b : Blk) : State :=
  let s := (s.closeBad p).bump (Rf.SPK_PCNT2_OVFL p)
  let f := s.dropToLs p l ((s.lane l).fifo ++ [b])
  let x := { s.lane l with fifo := f }
  let s := s.setLane l (if 128 < x.filled then { x with fifo := f.dropLast ++ [.gone] } else x)
  (s.setPort p { s.port p with discard := true }).raise 0x100A (p + 256 * l)

/-- A block enters its lane's buffer: while the port is not up, or the lane does not stripe,
the buffer restarts at each marker. -/
def State.enter (s : State) (p l : Nat) (b : Option Blk) : State :=
  let x := s.lane l
  let stripes := s.portUp p && s.locked l && !s.bit (Rf.SPK_LN_STAT_LOST l) &&
    (s.stripe p).testBit (s.rf (Rf.SPK_LN_STAT_LANE_ID l))
  match b with
  | none => s.setLane l { x with fifo := [] }
  | some b =>
    let isCol := match b with
      | .col _ => true
      | _ => false
    if stripes then
      if 128 ≤ x.filled then s.overflow p l b else s.setLane l { x with fifo := x.fifo ++ [b] }
    else if isCol then s.setLane l { x with fifo := if s.portUp p then [b] else [] }
    else if x.fifo.length < 128 then s.setLane l { x with fifo := x.fifo ++ [b] }
    else s

/-! ### A block at its place (R149, R150) -/

/-- A block at its place on a lane in LOCK: the marker machine, the buffer, and what follows. -/
def State.placed (s : State) (p l : Nat) (b : Blk) (am : Option Nat) : State :=
  let r := s.amStep l b am
  let s := r.2.enter p l r.1
  (s.tryUp p).drain 2048 p

/-- One block of a lane, after any alteration. -/
def State.receive (s : State) (l : Nat) (b : Rx) : State :=
  match s.portOf l with
  | none => s
  | some p =>
    match b with
    | .bad =>
      let was := s.rf (Rf.SPK_LN_STAT_BLK l)
      let s := s.badHeader p l
      if was = 2 ∧ s.rf (Rf.SPK_LN_STAT_BLK l) = 2 then s.placed p l .void none else s
    | .data w => let r := s.goodHeader p l; if r.1 then r.2.placed p l (.data w) none else r.2
    | .ctl w =>
      let r := s.goodHeader p l
      let s := r.2
      if !r.1 then s
      else if ctlGood w.toNat then
        if w.toNat % 256 = 0x2D then s.placed p l .void (some w.toNat) else s.placed p l (.ctl w) none
      else (s.bump (Rf.SPK_PCNT2_BADCTL p)).placed p l .void none

/-! ### The lane alterations (R438) -/

/-- A block with payload bit `k` inverted; an invalid block stays one. -/
def Rx.flip (b : Rx) (k : Nat) : Rx :=
  match b with
  | .bad => .bad
  | .data w => .data (w ^^^ BitVec.ofNat 64 (2 ^ k))
  | .ctl w => .ctl (w ^^^ BitVec.ofNat 64 (2 ^ k))

/-- One alteration register on the blocks of a lane: the blocks that come of them, and the state with them counted; an
alteration of one block alone has then ended. -/
def State.alter (s : State) (l i : Nat) (bs : List Rx) : List Rx × State :=
  bs.foldl (fun (acc : List Rx × State) b =>
    let s := acc.2
    if s.bit (Rf.TST_LANE_EN i) ∧ s.rf (Rf.TST_LANE_LANE i) = l then
      let k := look (fun _ => 0) s.tests.laneN i + 1
      let per := 2 ^ s.rf (Rf.TST_LANE_RATE_LOG i)
      let once := s.bit (Rf.TST_LANE_ONESHOT i)
      let hit := once || decide (k % per = 0)
      let s := if once then (s.setrf (Rf.TST_LANE_EN i) 0).tstShow s
        else { s with tests := { s.tests with laneN := put (fun _ => 0) s.tests.laneN i (k % per) } }
      let out := if hit then
          (match s.rf (Rf.TST_LANE_OP i) with
           | 0 => []
           | 1 => [b, b]
           | 2 => [b.flip (s.rf (Rf.TST_LANE_BIT i))]
           | _ => [Rx.bad])
        else [b]
      (acc.1 ++ out, s)
    else (acc.1 ++ [b], s)) ([], s)

/-- LINE_TMO_US have passed since the LS of the open line (R147): it is closed as bad and counted. -/
def State.timeLine (s : State) (p : Nat) : State := (s.closeBad p).bump (Rf.SPK_PCNT_LTMO p)
def State.expireLine (s : State) (p : Nat) : State :=
  match (s.port p).line with
  | some o => if o.since + countsOfUs (s.rf (Rf.SPK_PTMO_LINE_TMO_US p)) ≤ s.count then s.timeLine p else s
  | none => s

/-- A block arrives at lane `l` at a count: a line timeout that has expired by then comes first (R147), then the four
alterations, then the lane. -/
def State.block (s : State) (l date : Nat) (b : Rx) : State :=
  let s := s.advanceTo date
  let s := match s.portOf l with
    | some p => s.expireLine p
    | none => s
  let r := (List.range 4).foldl (fun (acc : List Rx × State) i => acc.2.alter l i acc.1) ([b], s.onWire l b)
  r.1.foldl (fun s b => s.receive l b) r.2

/-! ### The commands -/

/-- Blocks reach a lane only where an enabled port has it. -/
def State.laneOn (s : State) (l : Nat) : Bool := (s.portOf l).isSome

def execInvalidSyncHeader (l : Fin 192) (date : Nat) (s : State) : Host.Outcome State Fault Refusal :=
  when' (s.laneOn l) s (s.block l date .bad)

def execDataBlock (l : Fin 192) (w : BitVec 64) (date : Nat) (s : State) : Host.Outcome State Fault Refusal :=
  when' (s.laneOn l) s (s.block l date (.data w))

/-- A control block of a lane: the word is judged as received, whatever its row is called. -/
def ctlOp (l : Fin 192) (w : BitVec 64) (date : Nat) (s : State) : Host.Outcome State Fault Refusal :=
  when' (s.laneOn l) s (s.block l date (.ctl w))

def execFill (l : Fin 192) (w : BitVec 64) (date : Nat) (s : State) : Host.Outcome State Fault Refusal := ctlOp l w date s
def execAm (l : Fin 192) (w : BitVec 64) (date : Nat) (s : State) : Host.Outcome State Fault Refusal := ctlOp l w date s
def execLs (l : Fin 192) (w : BitVec 64) (date : Nat) (s : State) : Host.Outcome State Fault Refusal := ctlOp l w date s
def execLe (l : Fin 192) (w : BitVec 64) (date : Nat) (s : State) : Host.Outcome State Fault Refusal := ctlOp l w date s
def execSt (l : Fin 192) (w : BitVec 64) (date : Nat) (s : State) : Host.Outcome State Fault Refusal := ctlOp l w date s
def execSack (l : Fin 192) (w : BitVec 64) (date : Nat) (s : State) : Host.Outcome State Fault Refusal := ctlOp l w date s

/-- The lane group of port `p` is one R138 allows. -/
def State.groupOk (s : State) (p : Nat) : Bool :=
  let b := s.laneBase p
  let w := s.laneCount p
  decide (b % w = 0) && decide (b + w ≤ 192) &&
    (List.range 48).all (fun q => q == p || !s.portOn q ||
      decide (s.laneBase q + s.laneCount q ≤ b) || decide (b + w ≤ s.laneBase q))

/-- Bring-up begins on every lane of a port (R148, R149). The divider in force and the place in its sequence stay as they
are: the spec does not say (DESIGN CHOICE, log 151). -/
def State.bringUp (s : State) (p : Nat) : State :=
  let s := (s.lanesOf p).foldl (fun s l => (s.toHunt l).setrf (Rf.SPK_LN_STAT_LOST l) 0) s
  let s := s.setPort p { s.port p with expect := s.fullMask p, switch := none, rr := 0, allFill := true, triedAt := none,
                                       discard := false }
  ((s.setrf (Rf.SPK_PSTAT_STATE p) 1).setrf (Rf.SPK_PSTAT_STRIPE p) 0).setrf (Rf.SPK_PSTAT_PENDING p) 0

/-- PORT_ENABLE: ENABLE = 1 written to a port that is disabled; a group R138 forbids is refused with event 0x100E. -/
def execPortEnable (p : Fin 48) (s : State) : Host.Outcome State Fault Refusal :=
  when' (!s.portOn p) s
    (if s.groupOk p then ((s.setrf (Rf.SPK_PCFG_ENABLE p) 1).bringUp p).beginTx p else s.raise 0x100E p)

/-- PORT_DISABLE: a line in progress ends as by its timeout and the lanes return to OFF (R139). -/
def execPortDisable (p : Fin 48) (s : State) : Host.Outcome State Fault Refusal :=
  let s1 := if (s.port p).line.isSome then (s.closeBad p).bump (Rf.SPK_PCNT_LTMO p) else s
  let s2 := (s1.lanesOf p).foldl (fun s l =>
    ((s.setLane l {}).setrf (Rf.SPK_LN_STAT_BLK l) 0).setrf (Rf.SPK_LN_STAT_AMST l) 0) s1
  let s3 := (s2.setrf (Rf.SPK_PCFG_ENABLE p) 0).setrf (Rf.SPK_PSTAT_STATE p) 0
  let s4 := (s3.setrf (Rf.SPK_PSTAT_STRIPE p) 0).setrf (Rf.SPK_PSTAT_PENDING p) 0
  when' (s.portOn p) s (s4.setPort p { s4.port p with switch := none, dn := [], trg := none, trgAt := 0, sent := [], discard := false })

/-- RELOCK: bring-up restarts on every lane of the port. -/
def execRelock (p : Fin 48) (s : State) : Host.Outcome State Fault Refusal := when' (s.portOn p) s (s.bringUp p)

/-- The AMSEQ of the marker column that has come last, on any lane of a port. -/
def State.newestSeq (s : State) (p : Nat) : Nat :=
  ((s.lanesOf p).map (fun l => (s.lane l).seq)).foldl (fun m q => if (q + 65536 - m) % 65536 < 32768 then q else m)
    (s.lane (s.laneBase p)).seq

/-- RESTORE: lost lanes return at a switch to the full mask with D = 1; ignored with event 0x100E while a lane of the
group is not in AM_LOCK (R163). -/
def execRestore (p : Fin 48) (s : State) : Host.Outcome State Fault Refusal :=
  when' true s
    (if s.portUp p && (s.lanesOf p).all (s.locked ·) then s.queueLdn p (s.fullMask p) 1 (s.newestSeq p) else s.raise 0x100E p)

/-- HUNT_TIMEOUT: 1 ms in HUNT without LOCK, told once. -/
def execHuntTimeout (l : Fin 192) (s : State) : Host.Outcome State Fault Refusal :=
  let t := s.advanceTo ((s.lane l).huntAt + countsOfUs 1000)
  when' (decide (s.rf (Rf.SPK_LN_STAT_BLK l) = 1) && !(s.lane l).told) s
    ((t.setLane l { t.lane l with told := true }).raise 0x1003 (((s.portOf l).getD 0) + 256 * l.val))

/-- FILL_COLUMN_INSERT: the read side of the elastic buffers runs short, at a column boundary (R153). -/
def execFillColumnInsert (p : Fin 48) (s : State) : Host.Outcome State Fault Refusal :=
  when' (s.portUp p && decide ((s.port p).rr = 0)) s (s.bump (Rf.SPK_PRM_INS p))

/-- LINE_TIMEOUT: LINE_TMO_US have passed since the LS of the open line (R147). -/
def execLineTimeout (p : Fin 48) (s : State) : Host.Outcome State Fault Refusal :=
  match (s.port p).line with
  | some o =>
    when' true s ((s.advanceTo (o.since + countsOfUs (s.rf (Rf.SPK_PTMO_LINE_TMO_US p)))).timeLine p)
  | none => .next s

/-- SACK_TIMEOUT: no SACK within SACK_TMO_US of the message's last fragment (R160); the expectation stands. -/
def execSackTimeout (p : Fin 48) (s : State) : Host.Outcome State Fault Refusal :=
  match (s.port p).msg with
  | some m =>
    match m.left with
    | some c =>
      let s := s.advanceTo (c + countsOfUs (s.rf (Rf.SPK_PTMO_SACK_TMO_US p)))
      .next (((s.setPort p ((s.port p).setMsgs (s.port p).later)).bump (Rf.SPK_PCNT2_SACKMISS p)).raise 0x100B p |>.setIdle p)
    | none => .next s
  | none => .next s

/-- SILENT_TIMEOUT: a port that is up and has shown no LS, LE, ST or SACK for SILENT_TMO_US (R164). An open line is closed as
bad; it is counted in BADLINE, and not as NOEND or LTMO, since R164 names no counter and neither of R147's two cases has come
about (DESIGN CHOICE, log 152). -/
def execSilentTimeout (p : Fin 48) (s : State) : Host.Outcome State Fault Refusal :=
  let t := s.advanceTo ((s.port p).traffic + countsOfUs (s.rf (Rf.SPK_PTMO_SILENT_TMO_US p)))
  when' (decide (s.portState p = 2) || decide (s.portState p = 3)) s
    (((t.setrf (Rf.SPK_PSTAT_STATE p) 4).raise 0x1008 p).closeBad p)

/-- SETBAND: arms SPK_SETMSG for band `k`, or is refused (R182); with the cadence unit stopped it launches at once. -/
def execSetband (p : Fin 48) (k : BitVec 64) (s : State) : Host.Outcome State Fault Refusal :=
  let refuse (r : Nat) : State := (s.raise 0x2008 p k.toNat r).bump (Rf.SPK_LCNT2_SETREF p)
  let m : SetMsg := { band := some k.toNat, addr := s.rf (Rf.SPK_SETMSG_ADDR p), len := s.rf (Rf.SPK_SETMSG_LEN p),
                      ssid := s.rf (Rf.SPK_SETMSG_SSID p) }
  when' true s
    (if s.cadOn ∧ k.toNat < s.rf Rf.CAD_BAND_BAND then refuse 1
     else if s.cadOn ∧ !s.bit (Rf.SPK_FMT_SPLIT p) then refuse 2
     else if !s.portUp p then refuse 4
     else if s.cadOn then
       let x := s.port p
       let again := x.armed.any (fun e => e.1 == k.toNat)
       let s := (s.setPort p { x with armed := insert1 x.armed k.toNat m }).setrf (Rf.SPK_SETSTAT_STATE p) 1
       if again then s.raise 0x2009 p k.toNat else s
     else s.launch p { m with band := none } none)

/-- The slot in which the last fragment of a message left: the first of its number after the message's SETH. -/
def State.lastSlot (s : State) (p : Nat) (m : SetMsg) : Option Nat :=
  let seth (w : Word) : Bool := decide (w.toNat % 256 = 0x87) && decide (bitsOf w.toNat 8 8 = m.msgid)
  let last (w : Word) : Bool := decide (w.toNat % 256 = 0x99) && decide (bitsOf w.toNat 8 8 = ceilDiv m.len 5 - 1)
  (((s.port p).sent.reverse.dropWhile (fun e => !seth e.2.2)).find? (fun e => last e.2.2)).map (·.1)

/-- How many blocks of a queue leave until the last SETD of the message at its head has, where `later` of its SETDs belong
to the messages behind. -/
def untilLast (dn : List Word) (later : Nat) : Nat :=
  let setd (w : Word) : Bool := decide (w.toNat % 256 = 0x99)
  let mine := (dn.filter setd).length - later
  if mine = 0 then 0 else (dn.takeWhile (fun w => !setd w)).length + mine

/-- The expected cutover of a message is `cut` once its last fragment has left: where it was formed at the launch it moves, in
the band that expected it too. -/
def State.moveCut (s : State) (p : Nat) (m : SetMsg) (cut : Nat) : State :=
  let x := s.port p
  let old := ((x.cuts.find? (fun k => k.msgid == m.msgid)).map (·.lseq)).getD (cut % 2 ^ 32)
  let by' := (cut + 2 ^ 32 - old) % 2 ^ 32
  let shift (e : Nat × PortBand) : Nat × PortBand :=
    if e.2.s1 = m.ssid ∧ old = (s.row0 p e.1 + e.2.cutRow.getD 0) % 2 ^ 32 then
      (e.1, { e.2 with cutRow := e.2.cutRow.map (· + by') }) else e
  s.setPort p { x with cuts := x.cuts.filter (fun k => k.msgid != m.msgid) ++ [⟨cut % 2 ^ 32, m.ssid, m.msgid⟩],
                       bands := x.bands.map shift }

/-- SETTINGS_LAST_FRAGMENT: the last SETD leaves, of the oldest message not sent whole: the count has come to the end of its
slot, from which SACK_TMO_US run; the expected cutover is j + L, with event 0x200A (R184). What the queue holds behind the
message stays. -/
def execSettingsLastFragment (p : Fin 48) (s : State) : Host.Outcome State Fault Refusal :=
  match (s.port p).msgs.find? (·.left.isNone) with
  | some m =>
    let cut := (s.rf (Rf.SPK_PTRG_LSEQ p) + s.rf (Rf.SPK_FMT_SET_LAT p) + 2 ^ 32 - 1) % 2 ^ 32
    let later := ((((s.port p).msgs.filter (·.left.isNone)).drop 1).map (fun k => ceilDiv k.len 5)).sum
    let t := s.settleDn p
    let dn := (t.port p).dn
    let t := State.sendDn p ((t.port p).txNext + 8192) (dn.length - untilLast dn later) 8192 t
    let at' := match t.lastSlot p m with
      | some k => ceilDiv (t.slotAt p (k + 1)) 100
      | none => s.count
    let t := t.advanceTo at'
    let x := (t.port p).setMsgs ((t.port p).msgs.map (fun k => if k.msgid = m.msgid then { k with left := some at' } else k))
    match m.band with
    | some n => .next ((((t.setPort p x).moveCut p m cut).setrf (Rf.SPK_SETSTAT_CUT_LSEQ p) cut).raise 0x200A p n cut)
    | none => .next (t.setPort p x)
  | none => .next s

end Sys2Proof.Machine
end

