-- ==== Sys2Proof/Machine/PortGroups.lean ====
section
/-! DEFINITION. Line groups between a camera port and its Spoke program: the halves of a port load entry, late fetches,
the corrected band ring and its commits, and the two SSIDs of a band (6.2, 6.7, 6.9). -/

namespace Sys2Proof.Machine

/-! ### The corrected band ring (Table 6.8) -/

def State.corSlots (s : State) (p : Nat) : Nat := s.rf (Rf.SPK_COR_SLOTS p)
def State.corLine (s : State) (p : Nat) : Nat := ceilDiv (2 * s.width p) 4096 * 4096

/-- The first row of band `n` in its slot, counted over the ring. -/
def State.corRow (s : State) (p n r : Nat) : Nat := n % s.corSlots p * s.height + r

/-- Row `r` of plane `c` of band `n`. -/
def State.corAt (s : State) (p n r c : Nat) : Nat :=
  s.rf (Rf.SPK_COR_BASE p) + (c * s.corSlots p * s.height + s.corRow p n r) * s.corLine p
def State.corMasks (s : State) (p : Nat) : Nat :=
  s.rf (Rf.SPK_COR_BASE p) + s.planes p * s.corSlots p * s.height * s.corLine p
def State.corMaskAt (s : State) (p n r : Nat) : Nat := s.corMasks p + s.corRow p n r * s.maskBytes p
def State.corTagAt (s : State) (p n r : Nat) : Nat :=
  s.corMasks p + s.corSlots p * s.height * s.maskBytes p + s.corRow p n r * 32

/-! ### Rows from the raw ring (R172, R177) -/

/-- Row `i` has been overwritten in the raw ring: by a resolved row, or by the first member of the row being collected. -/
def State.overwritten (s : State) (p i : Nat) : Bool :=
  decide (i + s.rawLines p < s.rf (Rf.SPK_RAWPOS_NEXT p)) || (match (s.port p).cur with
    | some c => c.wrote && decide (i + s.rawLines p ≤ c.trig.band * s.height + c.trig.row)
    | none => false)

/-- Cells of the raw ring: as the lane logic has them from the lanes, or as a hub read delivers them. -/
def State.rawView (s : State) (late : Bool) (a n : Nat) : List Host.Cell :=
  if late then s.hubView a n else s.hub.filter (fun e => decide (a ≤ e.1) && decide (e.1 < a + n))

/-- A tag of row `row` of a band as it is delivered: its SSID, of S0 or S1 where it is synthesised, looked up in the band once S0
and S1 are formed, which they are not for a row archived before the band's Intake token (R185); with flags `more`. -/
def retag (b : PortBand) (row more t : Nat) : Nat :=
  let ssid := if bitsOf t 50 1 = 1 ∧ b.formed then b.synthSsid row else bitsOf t 32 8
  let f := withSsidx b ssid (bitsOf t 48 10 ||| more)
  t % 2 ^ 32 + ssid * 2 ^ 32 + statSel b ssid f * 2 ^ 40 + f * 2 ^ 48 + t / 2 ^ 64 * 2 ^ 64

/-- The trigger of row `i`. -/
def State.rowTrig (s : State) (p i : Nat) : Option TrigRec :=
  (s.port p).trigs.find? (fun t => decide (t.row < s.height) && decide (t.band * s.height + t.row = i))

/-- The row that holds the capture `back` lines before row `i` (R181): found by its LSEQ; none before the cadence start, and
where that line found no row. -/
def State.histRow (s : State) (p i back : Nat) : Option Nat :=
  if back = 0 then some i
  else match s.rowTrig p i with
    | some t =>
      if t.lseq < 2 ^ 32 then
        ((s.trigOf p ((t.lseq + 2 ^ 32 - back) % 2 ^ 32)).filter (fun u => decide (u.row < s.height))).map
          (fun u => u.band * s.height + u.row)
      else if back ≤ i then some (i - back) else none
    | none => if back ≤ i then some (i - back) else none

/-- A delayed capture of row `i` has been overwritten in the raw ring. -/
def State.captureLost (s : State) (p i : Nat) : Bool :=
  (s.delays p).any (fun d => match s.histRow p i d with
    | some j => s.overwritten p j
    | none => false)

/-- The tag of row `i`: the ring's, or a synthesised one of SCAUSE 2 where its line has been overwritten; a delayed capture
that has been is a synthesised one too (R177, R181). -/
def State.rowTag (s : State) (p : Nat) (late : Bool) (i : Nat) : Nat :=
  let b := s.pband p (i / s.height)
  let gone := fSynth ||| fCause 2
  if s.overwritten p i then
    match s.rowTrig p i with
    | some t => t.lseq % 2 ^ 32 + b.synthSsid t.row * 2 ^ 32 + 3 * 2 ^ 40 + gone * 2 ^ 48 + t.enc.toNat * 2 ^ 64 +
        t.time.toNat * 2 ^ 128
    | none => b.synthSsid (i % s.height) * 2 ^ 32 + 3 * 2 ^ 40 + gone * 2 ^ 48
  else
    let t := readLE (s.rawView late (s.rawTagAt p i) 32) (s.rawTagAt p i) 32
    retag b (i % s.height) (if late && s.captureLost p i && bitsOf t 50 1 == 0 then gone else 0) t

/-- A row of a replay whose line was placed and then overwritten is a synthesised row, and one whose SSID proves to be neither
of the band's is masked: both are counted when they are delivered (R133, R178). -/
def State.countLate (s : State) (p i : Nat) : State :=
  let n := i / s.height
  let b := s.pband p n
  let was := bitsOf (readLE (s.rawView true (s.rawTagAt p i) 32) (s.rawTagAt p i) 32) 48 10
  if s.overwritten p i then
    (if (s.rowTrig p i).any (·.placed) then
      (s.setPband p n { b with synth := b.synth + 1, cause := b.cause ||| 2 ^ 2 }).bump (Rf.SPK_LCNT_SYNTH p)
    else s)
  else if was &&& (fSsidx ||| fMixed) = 0 ∧ bitsOf (s.rowTag p true i) 48 10 &&& fSsidx ≠ 0 then
    (s.setPband p n { b with ssidx := b.ssidx + 1 }).bump (Rf.SPK_LCNT2_SSIDX p)
  else s

/-- The bytes of member `m` of the capture `back` lines before row `i`, as cells from `b`: fill values where there is none.
An earlier one is read back from the raw ring. -/
def State.rowCells (s : State) (p : Nat) (late : Bool) (i back m b : Nat) : List Host.Cell :=
  let n := s.packedLine p
  match (s.histRow p i back).filter (fun j => !s.overwritten p j) with
  | some j => moveCells (s.rawView (late || decide (0 < back)) (s.rawAt p j m) n) (s.rawAt p j m) b
  | none => cellsOf b (s.fitLine p 0 0) n

/-- The contents of a half for `n` rows from row `i` (Table 6.1), from scratch byte `b`, and its size. -/
def State.halfCells (s : State) (p : Nat) (late : Bool) (i n b : Nat) : List Host.Cell × Nat :=
  let tg := roundUp (32 * n) 64
  let mb := s.maskBytes p
  let bp := s.packedLine p
  let y := s.history p
  let tags := (List.range n).flatMap (fun r => cellsOf (b + 32 * r) (s.rowTag p late (i + r)) 32)
  let masks := (List.range n).flatMap (fun r => cellsOf (b + tg + mb * r) (s.maskOf p (s.rowTag p late (i + r))) mb)
  let rows (m : Nat) : List Host.Cell := (List.range (y + n)).flatMap (fun r =>
    if r < y then s.rowCells p late i (y - r) m (b + tg + n * mb + (m * (y + n) + r) * bp)
    else s.rowCells p late (i + (r - y)) 0 m (b + tg + n * mb + (m * (y + n) + r) * bp))
  (tags ++ masks ++ (List.range (s.members p)).flatMap rows, tg + n * mb + s.members p * (y + n) * bp)

/-- The tags and mask rows of `n` rows from row `r` of band `k` in the corrected slot (R191). -/
def State.writeCorTags (s : State) (p : Nat) (late : Bool) (k r n : Nat) : State :=
  (List.range n).foldl (fun s j =>
    let t := s.rowTag p late (k * s.height + r + j)
    let mb := s.maskBytes p
    let s := s.hubWrite false p (s.corMaskAt p k (r + j)) mb (cellsOf (s.corMaskAt p k (r + j)) (s.maskOf p t) mb)
    s.hubWrite false p (s.corTagAt p k (r + j)) 32 (cellsOf (s.corTagAt p k (r + j)) t 32)) s

/-- The hub reads for `n` rows from row `i` of a port, one transfer: the history rows, which are a look-back in TC2, and of a group
that is fetched, in TC1, its rows and tags too (R172; Table 11.2, log 199). -/
def State.fetchGroup (s : State) (p i n : Nat) (late : Bool) : State :=
  let row (j : Nat) : List (Nat × Nat) := if s.overwritten p j then [] else [(s.rawAt p j 0, s.members p * s.packedLine p)]
  let back := (List.range (s.history p)).flatMap (fun k => (s.histRow p i (k + 1)).toList.flatMap row)
  let own := (List.range n).flatMap (fun k => row (i + k) ++ (if s.overwritten p (i + k) then [] else [(s.rawTagAt p (i + k), 32)]))
  if late then s.transfer 1 p (back ++ own) else if back = [] then s else s.transfer 2 p back

/-- The next group of a port is read back from the raw ring: one of a held band, or of a band a spare runs again, and until it has
caught up every group that had come before it was ready (Table 2.14). -/
def State.replays (s : State) (p : Nat) : Bool :=
  let x := s.port p
  let lines := match s.portEntry p x.grpBand with
    | some k => s.loadFldAt (s.rf (Rf.ENG_UNIT_ENGINE p)) x.grpBand k 0 16 16
    | none => 0
  s.bandHeld x.grpBand || (s.wu p).rerun == some x.grpBand || decide (x.grpBand * s.height + x.grpNext * lines < x.rawTo)

/-- The next group of a port goes to its half. -/
def State.writeGroup (s : State) (p k : Nat) (late : Bool) : State :=
  let e := s.rf (Rf.ENG_UNIT_ENGINE p)
  let x := s.port p
  let n := x.grpBand
  let g := x.grpNext
  let lines := s.loadFldAt e n k 0 16 16
  let size := s.loadFldAt e n k 3 16 16 * 64
  let b := s.loadFldAt e n k 3 0 16 * 64 + g % 2 * size
  let i := n * s.height + g * lines
  let h := s.halfCells p late i lines b
  let m := min h.2 size
  let s := s.fetchGroup p i lines late
  let s := if late then (List.range lines).foldl (fun s r => s.countLate p (i + r)) s else s
  let s := s.writeCorTags p late n (g * lines) lines
  let y := s.eng e
  let y := { y with scratch := replaceRange (fun _ => 0) y.scratch b m (h.1.filter (fun c => decide (c.1 < b + m))),
                    loads := y.loads.filter (fun r => decide (n ≤ r.band + 1)) ++ [⟨k, g, n, true⟩],
                    begun := max y.begun (n + 1) }
  let x := { s.port p with missed := x.missed.filter (fun q => q ≠ (n, g)),
                           grpBand := if g + 1 = s.loadFldAt e n k 0 32 16 then n + 1 else n,
                           grpNext := if g + 1 = s.loadFldAt e n k 0 32 16 then 0 else g + 1,
                           rawTo := if i < x.rawTo then s.rf (Rf.SPK_RAWPOS_NEXT p) else x.rawTo }
  ((s.setPort p x).setEng e y).resume e


/-! ### Commits (R191) -/

/-- Whether a list of stored ranges covers the bytes from `a` to `b`. -/
def coversFrom (l : List (Nat × Nat)) : Nat → Nat → Nat → Bool
  | 0, a, b => decide (b ≤ a)
  | n + 1, a, b =>
    if b ≤ a then true
    else match l.find? (fun r => decide (r.1 ≤ a) && decide (a < r.1 + r.2)) with
      | some r => coversFrom l n (r.1 + r.2) b
      | none => false
def covers (l : List (Nat × Nat)) (a n : Nat) : Bool := coversFrom l l.length a (a + n)

/-- The lines committed of a band, a bit each. -/
def State.committedLines (s : State) (p n : Nat) : Nat := look (fun _ => 0) (s.port p).commits n

/-- INTAKE_GROUP_COMMIT: every row of group `grp` of the running band is stored, in every plane, with its tags and mask
rows: its commit token is posted, once. -/
def execIntakeGroupCommit (p : Fin 48) (grp : Nat) (s : State) : Host.Outcome State Fault Refusal :=
  match s.portEntry p (s.eng (s.rf (Rf.ENG_UNIT_ENGINE p))).tok.band with
  | some k =>
    let e := s.rf (Rf.ENG_UNIT_ENGINE p)
    let x := s.eng e
    let n := x.tok.band
    let lines := s.loadFld e k 0 16 16
    let rows := (List.range lines).map (· + grp * lines)
    let stored := rows.all (fun r => (List.range (s.planes p)).all (fun c => covers x.hsts (s.corAt p n r c) (2 * s.width p)))
    let tagged := x.loads.any (fun r => r.entry == k && r.grp == grp && r.band == n && r.arrived)
    let old := s.committedLines p n
    let new := old ||| rows.foldl (fun m r => m ||| 2 ^ r) 0
    when' (stored && tagged && decide (grp < s.loadFld e k 0 32 16) && decide (new ≠ old)) s
      (s.setPort p { s.port p with commits := insert1 ((s.port p).commits.filter (fun c => decide (n < c.1 + 256))) n new })
  | none => .next s

/-! ### The two SSIDs of a band (R185) -/

/-- Form S0 and S1 of band `n` at the issue of its Intake token, and answer the token's setref. The latest cutover at or before
row 0 gives S0; of several in one band the one launched first gives S1 (DESIGN CHOICE, log 200). -/
def State.formSsids (s : State) (p n : Nat) : Nat × State :=
  let x := s.port p
  let last := x.lastSs.getD (s.rf (Rf.SPK_PCAM_SSID p))
  let r0 := s.row0 p n
  let s0 := ((x.cuts.filter (fun k => lseqLe k.lseq r0)).getLast?.map (·.ssid)).getD last
  let inside := x.cuts.find? (fun k => !lseqLe k.lseq r0 && decide ((k.lseq + 2 ^ 32 - r0 % 2 ^ 32) % 2 ^ 32 < s.height) &&
    s.bit (Rf.SPK_FMT_SPLIT p))
  let pair := (s0, (inside.map (·.ssid)).getD s0)
  let s := s.setPband p n { s.pband p n with s0 := pair.1, s1 := pair.2, formed := true,
                                             cutRow := inside.map (fun k => (k.lseq + 2 ^ 32 - r0 % 2 ^ 32) % 2 ^ 32) }
  let s := (s.setrf (Rf.SPK_SETSTAT_S0 p) pair.1).setrf (Rf.SPK_SETSTAT_S1 p) pair.2
  (pair.1 + 256 * pair.2 + (if pair.1 = pair.2 then 0 else 65536), s)

/-- The settings message armed for band `n` is launched at T(n) (R183); with SPLIT = 0 none is launched while the cadence unit
runs, and one armed in an earlier run is dropped (R187). -/
def State.launchArmed (s : State) (p n : Nat) : State :=
  match (s.port p).armed.find? (fun e => e.1 == n) with
  | some e =>
    let s := s.setPort p { s.port p with armed := drop1 (s.port p).armed n }
    if s.bit (Rf.SPK_FMT_SPLIT p) then (s.launch p e.2 (some (s.row0 p (n + 1)))).afterTrg p else s.setIdle p
  | none => s

end Sys2Proof.Machine
end

