-- ==== Sys2Proof/Machine/Position.lean ====
section
/-! DEFINITION. Position below the triggers: channel counts and speed, index latches, serial samples, digital inputs and
repeat marks, compared levels, confirmations, marker outputs and encoder emulation (7.1 to 7.4, 7.6, 7.9). -/

namespace Sys2Proof.Machine

/-! ### Accessors -/

def State.encCh (s : State) (c : Nat) : EncCh := look (fun _ => {}) s.pos.enc c
def State.setEncCh (s : State) (c : Nat) (x : EncCh) : State := { s with pos := { s.pos with enc := put (fun _ => {}) s.pos.enc c x } }
def State.serCh (s : State) (k : Nat) : SerCh := look (fun _ => {}) s.pos.ser k
def State.setSerCh (s : State) (k : Nat) (x : SerCh) : State := { s with pos := { s.pos with ser := put (fun _ => {}) s.pos.ser k x } }
def State.dinCh (s : State) (d : Nat) : DinCh := look (fun _ => {}) s.pos.din d
def State.setDinCh (s : State) (d : Nat) (x : DinCh) : State := { s with pos := { s.pos with din := put (fun _ => {}) s.pos.din d x } }
def State.genSt (s : State) (g : Nat) : GenSt := look (fun _ => {}) s.pos.gen g
def State.setGenSt (s : State) (g : Nat) (x : GenSt) : State := { s with pos := { s.pos with gen := put (fun _ => {}) s.pos.gen g x } }
def State.cmpU (s : State) (u : Nat) : CmpUnit := look (fun _ => {}) s.pos.cmp u
def State.setCmpU (s : State) (u : Nat) (x : CmpUnit) : State := { s with pos := { s.pos with cmp := put (fun _ => {}) s.pos.cmp u x } }
def State.mkOut (s : State) (o : Nat) : MkOut := look (fun _ => {}) s.pos.mks o
def State.setMkOut (s : State) (o : Nat) (x : MkOut) : State := { s with pos := { s.pos with mks := put (fun _ => {}) s.pos.mks o x } }
def State.emuSt (s : State) (e : Nat) : EmuSt := look (fun _ => {}) s.pos.emu e
def State.setEmuSt (s : State) (e : Nat) (x : EmuSt) : State := { s with pos := { s.pos with emu := put (fun _ => {}) s.pos.emu e x } }

/-! ### Counts (R195) -/

/-- The count of a position channel, modulo 2^64. -/
def State.posCount (s : State) (ch : Nat) : Nat :=
  if ch < 8 then s.rf (Rf.POS_ENC_CNT_COUNT ch) else if ch < 12 then s.rf (Rf.POS_SSP_CNT_COUNT (ch - 8)) else 0

/-- The signed difference of two counts. -/
def countDiff (a b : Nat) : Int := toSigned 64 (a + 2 ^ 64 - b % 2 ^ 64)

/-! ### A packet that waits for its lane -/

/-- A hardware endpoint sends a packet; one its lane has no room for waits behind those it already keeps waiting. -/
def State.sendOrWait (s : State) (c ep : Nat) (ws : List Word) : State :=
  if s.outbox.any (fun e => e.1 == c && e.2.1 == ep) then { s with outbox := s.outbox ++ [(c, ep, ws)] }
  else match s.sendPacket c ep ws with
    | some s => s
    | none => { s with outbox := s.outbox ++ [(c, ep, ws)] }

/-! ### The compared level (R216) -/

/-- The sign of a compare unit's forward direction. -/
def State.cmpSign (s : State) (u : Nat) : Int := if s.bit (Rf.POS_CMP_CFG_DIR u) then -1 else 1

/-- Q: the count plus the lead term, negated with DIR = 1. -/
def State.cmpQ (s : State) (u : Nat) : Int :=
  let ch := s.rf (Rf.POS_CMP_CFG_CH u)
  let c := toSigned 64 (s.posCount ch)
  let q := if ch < 8 then c + rnd (toSigned 64 (s.rf (Rf.POS_ENC_VEL_VEL ch)) * s.rf (Rf.POS_CMP_CFG_LEAD_NS u)) 32 else c
  s.cmpSign u * q

/-- The level of a unit before a step of its Q is kept. -/
def State.keepLevel (s : State) (u : Nat) : State := s.setCmpU u { s.cmpU u with qb := s.cmpQ u }

/-- The levels of the cycle before a change of channel `ch` are kept. -/
def State.keepQ (s : State) (ch : Nat) : State :=
  (List.range 4).foldl (fun s u => if s.rf (Rf.POS_CMP_CFG_CH u) = ch then s.keepLevel u else s) s

/-! ### The input filter (R196) -/

/-- A raw transition that its new level outlasts by `held` samples of 5 ns passes a filter of `filt` samples; one that
does not changes nothing. The date of the filtered edge is that of the raw transition (log 162). -/
def passes (filt held : Nat) : Bool := decide (filt ≤ held)

/-! ### Encoder emulation (R228) -/

/-- T of an output. -/
def State.emuTarget (s : State) (e : Nat) : Int :=
  countDiff (s.posCount (s.rf (Rf.POS_EMU_CFG_CH e))) (s.emuSt e).org * s.rf (Rf.POS_EMU_CFG_NUM e) / s.rf (Rf.POS_EMU_CFG_DEN e)

/-- BACKLOG follows |T - E|; event 0x300A when it first exceeds 4,096 after having been below it. -/
def State.emuShow (s : State) (e : Nat) : State :=
  let x := s.emuSt e
  let d := (s.emuTarget e - x.e).natAbs
  let big := decide (4096 < d)
  let s := (s.setEmuSt e { x with above := big || (x.above && decide (d = 4096)) }).setrf (Rf.POS_EMU_STAT_BACKLOG e) (min d (2 ^ 32 - 1))
  if big && !x.above then s.raise 0x300A e else s

/-- Every running output that follows channel `ch`. -/
def State.emuFollow (s : State) (ch : Nat) : State :=
  (List.range 4).foldl (fun s e =>
    if s.bit (Rf.POS_EMU_CFG_EN e) && s.rf (Rf.POS_EMU_CFG_CH e) == ch && decide (s.mode ≠ 0) then s.emuShow e else s) s

/-- Z stands where E is a multiple of IDX; IDX = 0 disables it. -/
def State.emuZ (s : State) (e : Nat) (at' : Int) : Bool :=
  let idx := s.rf (Rf.POS_EMU_CFG_IDX e)
  decide (idx ≠ 0) && decide (at' % (idx : Int) = 0)

/-- The levels of A and B of an output: A leads B while E rises. -/
def EmuSt.a (x : EmuSt) : Bool := x.quad == 1 || x.quad == 2
def EmuSt.b (x : EmuSt) : Bool := x.quad == 2 || x.quad == 3

/-- E is set to T without edges: A and B stay; event 0x300B (R229). -/
def State.emuRebase (s : State) (e : Nat) : State :=
  let s := s.setEmuSt e { s.emuSt e with e := s.emuTarget e, z := s.emuZ e (s.emuTarget e) }
  ((s.emuShow e).bump (Rf.POS_EMU_STAT_REBASE e)).raise 0x300B e

/-- EMULATION_EDGE: E steps one edge toward T, no sooner after the last edge than the brake allows; an edge the brake
holds back is counted (Table 14.7). -/
def execEmulationEdge (o : Fin 4) (s : State) : Host.Outcome State Fault Refusal :=
  let x := s.emuSt o
  let gap := max 7 (countsOfNs (s.rf (Rf.BRK_EMU_MINEDGE_NS o)))
  let held := match x.last with
    | some c => decide (s.count < c + gap)
    | none => false
  let t := match x.last with
    | some c => s.advanceTo (c + gap)
    | none => s
  let t := if held then
      (let t := t.bump Rf.BRK_CNT2_EMUHOLD
       if t.due (stampKey 0xB006 o) (countsOfUs 1000) then (t.stamp (stampKey 0xB006 o)).raise 0xB006 o else t)
    else t
  let d := s.emuTarget o - x.e
  let e := x.e + (if 0 < d then 1 else -1)
  when' (s.bit (Rf.POS_EMU_CFG_EN o) && decide (s.mode ≠ 0) && decide (d ≠ 0)) s
    ((t.setEmuSt o { t.emuSt o with e := e, last := some t.count, quad := (x.quad + (if 0 < d then 1 else 3)) % 4,
                                    z := s.emuZ o e }).emuShow o)

/-! ### Speed (R200) -/

/-- The quotient of two integers, cut toward 0. -/
def tquot (a b : Int) : Int := if (a < 0) = (b < 0) then a.natAbs / b.natAbs else -(a.natAbs / b.natAbs : Nat)

/-- VEL after a change: over the smaller of 2^VAVG and the changes since the last reversal. -/
def State.showVel (s : State) (c : Nat) : State :=
  let h := (s.encCh c).hist
  let m := min (2 ^ min 8 (s.rf (Rf.POS_ENC_CFG_VAVG c))) (h.length - 1)
  match h[0]?, h[m]? with
  | some n, some o =>
    if m = 0 ∨ n.2 ≤ o.2 then s
    else s.setrf (Rf.POS_ENC_VEL_VEL c) (ofSigned 64 (tquot (countDiff n.1 o.1 * 2 ^ 32 * 5) ((n.2 - o.2) * 4 : Nat)))
  | _, _ => s

/-- The count of a quadrature channel moves by one, at an edge date. -/
def State.moveCount (s : State) (c : Nat) (down : Bool) (date : Nat) : State :=
  let s := s.keepQ c
  let n := (s.posCount c + (if down then 2 ^ 64 - 1 else 1)) % 2 ^ 64
  let x := s.encCh c
  let same := decide (s.rf (Rf.POS_ENC_STAT_DIR c) = (if down then 1 else 0))
  let x := { x with hist := ((n, date) :: (if same then x.hist else x.hist.take 1)).take 257,
                    up := x.up || !down, down := x.down || down }
  let s := (s.setEncCh c x).setrf (Rf.POS_ENC_CNT_COUNT c) n
  let s := (s.setrf (Rf.POS_ENC_STAT_DIR c) (if down then 1 else 0)).setrf (Rf.POS_ENC_STAT_STOPPED c) 0
  (s.showVel c).emuFollow c

/-- The direction of a change of one filtered level: A leads B forward. -/
def encDown (a b a' b' : Bool) : Bool :=
  if a != a' then (a' == b) else (a' != b')

/-- A count jumps without edges (R199). The jump is no count of R200: the counts before it move with it, so that the
speed after the next edge is that of the web (DEDUCED, log 156). -/
def State.loadCount (s : State) (c : Nat) : State :=
  let s := s.keepQ c
  let jump := s.rf (Rf.POS_ENC_PRESET_VALUE c) + 2 ^ 64 - s.posCount c
  let s := s.setEncCh c { s.encCh c with hist := (s.encCh c).hist.map (fun h => ((h.1 + jump) % 2 ^ 64, h.2)) }
  (s.setrf (Rf.POS_ENC_CNT_COUNT c) (s.rf (Rf.POS_ENC_PRESET_VALUE c))).emuFollow c

/-- PRESET_LOAD: POS_ENC_CTRL.LOAD; ignored with event 0x300C while the cadence unit runs. -/
def execPresetLoad (ch : Fin 8) (s : State) : Host.Outcome State Fault Refusal :=
  when' true s (if s.cadOn then s.raise 0x300C ch else s.loadCount ch)

/-- LOAD_IDX: arms the load for the next index edge, or is ignored as PRESET_LOAD is. -/
def execLoadIdx (ch : Fin 8) (s : State) : Host.Outcome State Fault Refusal :=
  when' true s (if s.cadOn then s.raise 0x300C ch else s.setrf (Rf.POS_ENC_STAT_ARMED ch) 1)

/-- IDX_DISARM: cancels an armed LOAD_IDX. -/
def execIdxDisarm (ch : Fin 8) (s : State) : Host.Outcome State Fault Refusal :=
  when' true s (s.setrf (Rf.POS_ENC_STAT_ARMED ch) 0)

/-- A filtered rising edge of Z (R198, R199): the latches move on, the pair is checked against CPI, and an armed load
applies. -/
def State.indexEdge (s : State) (ch date : Nat) : State :=
  let t := s.advanceTo date
  let c := t.posCount ch
  let old := t.rf (Rf.POS_ENC_IDX_LAST ch)
  let x := t.encCh ch
  let cpi := t.rf (Rf.POS_ENC_CPI_CPI ch)
  let t := ((t.setrf (Rf.POS_ENC_IDXP_PREV ch) old).setrf (Rf.POS_ENC_IDX_LAST ch) c).bump (Rf.POS_ENC_STAT_INDEX ch)
  let t := t.setEncCh ch { x with idx := true, up := false, down := false }
  let d := (((countDiff c old).natAbs : Int) - cpi).natAbs
  let t := if x.idx ∧ cpi ≠ 0 ∧ x.up ≠ x.down ∧ t.rf (Rf.POS_ENC_CFG_TOL ch) < d then
    (t.bump (Rf.POS_ENC_STAT_DRIFT ch)).raise 0x3002 ch d else t
  let t := if t.bit (Rf.POS_ENC_STAT_ARMED ch) then (t.loadCount ch).setrf (Rf.POS_ENC_STAT_ARMED ch) 0 else t
  if s.bit (Rf.POS_ENC_CFG_EN ch) then t else s

/-- A raw rise of Z at a date, held for so many samples (R196): the filtered level fell since the last rise if the raw level
stayed low through the filter, and rises now if it is low and the raw level stays high through it. -/
def State.zRise (s : State) (ch date held : Nat) : State :=
  let x := s.encCh ch
  let f := s.rf (Rf.POS_ENC_CFG_FILT ch)
  let high := x.z && !passes f ((date - x.zFall) * 4 / 25)
  let on := passes f held
  let s := s.setEncCh ch { x with z := high || on, zFall := date + ceilDiv (25 * held) 4 }
  if on && !high then s.indexEdge ch date else s

/-- INDEX_EDGE: a rising transition of Z; it is an index edge once the filter has accepted it. -/
def execIndexEdge (ch : Fin 8) (edge : RawEdge) (s : State) : Host.Outcome State Fault Refusal :=
  .next (s.zRise ch edge.date edge.held)

/-- ENCODER_STOP_TIMEOUT: no count for STOP_US (R200). -/
def execEncoderStopTimeout (ch : Fin 8) (s : State) : Host.Outcome State Fault Refusal :=
  let t := match (s.encCh ch).hist with
    | (_, d) :: _ => s.advanceTo (d + countsOfUs (s.rf (Rf.POS_ENC_CFG_STOP_US ch)))
    | [] => s
  let t := t.keepQ ch
  when' (!s.bit (Rf.POS_ENC_STAT_STOPPED ch)) s
    ((t.setrf (Rf.POS_ENC_VEL_VEL ch) 0).setrf (Rf.POS_ENC_STAT_STOPPED ch) 1)

/-! ### Repeat marks (R205, R206) -/

/-- A repeat packet (Table 7.2). -/
def repPacket (count time din : Nat) (synth relock : Bool) : List Word :=
  [BitVec.ofNat 64 count, BitVec.ofNat 64 (time % 2 ^ 32 + din * 2 ^ 32 + (if synth then 2 ^ 35 else 0) + (if relock then 2 ^ 36 else 0))]

/-- A mark is accepted or synthesised: its packet is pushed and it becomes the last mark. -/
def State.repMark (s : State) (d count time : Nat) (synth relock : Bool) : State :=
  let s := s.setDinCh d { s.dinCh d with last := count, reach := none, synth := if synth then (s.dinCh d).synth + 1 else 0,
                                          relock := if synth then (s.dinCh d).relock else false }
  s.sendOrWait (s.rf (Rf.POS_DIN_CFG_REP_CHAIN d)) 113 (repPacket count time d synth relock)

/-- How far a count lies beyond the last mark in the input's forward direction. -/
def DinCh.beyond (x : DinCh) (count : Nat) : Int := (if x.down then -1 else 1) * countDiff count x.last

/-- Whether a channel's count last moved down. -/
def State.movedDown (s : State) (ch : Nat) : Bool :=
  if ch < 8 then s.bit (Rf.POS_ENC_STAT_DIR ch) else (s.serCh (ch - 8)).down

/-- An edge of a repeat mark at a count and a time. The edge that locks the input fixes its forward direction: that in
which the count of LATCH_CH last moved (DEDUCED, log 157). -/
def State.repEdge (s : State) (d count time : Nat) : State :=
  let x := s.dinCh d
  if s.bit (Rf.POS_DIN_STAT_LOCKED d) then
    let off := x.beyond count
    let per : Int := s.rf (Rf.POS_DIN_REP_PERIOD d)
    let tol : Int := s.rf (Rf.POS_DIN_REP_TOL d)
    if off < per - tol then s.bump (Rf.POS_DIN_STAT_SPUR d)
    else if off ≤ per + tol then s.repMark d count time false false
    else s
  else
    let again := x.relock
    let s := s.setDinCh d { x with down := s.movedDown (s.rf (Rf.POS_DIN_CFG_LATCH_CH d)) }
    let s := (s.setrf (Rf.POS_DIN_STAT_LOCKED d) 1).repMark d count time false again
    if again then s.raise 0x3008 d else s

/-- A locked repeat input after its channel's count has changed at a date: the mark is synthesised once the count has
passed its window, and the fourth in a row unlocks the input. -/
def State.repStep (s : State) (d date : Nat) : State :=
  let x := s.dinCh d
  let off := x.beyond (s.posCount (s.rf (Rf.POS_DIN_CFG_LATCH_CH d)))
  let per := s.rf (Rf.POS_DIN_REP_PERIOD d)
  let s := if decide ((per : Int) ≤ off) && x.reach.isNone then s.setDinCh d { x with reach := some date } else s
  if (per : Int) + s.rf (Rf.POS_DIN_REP_TOL d) < off then
    let at' := ((s.dinCh d).reach).getD date
    let s := (s.repMark d ((x.last + (if x.down then 2 ^ 64 - per else per)) % 2 ^ 64) (s.timeAt at') true false).bump (Rf.POS_DIN_STAT_MISSED d)
    let s := s.raise 0x3006 d
    if x.synth + 1 = 4 then
      ((s.setDinCh d { s.dinCh d with relock := true, synth := 0 }).setrf (Rf.POS_DIN_STAT_LOCKED d) 0).raise 0x3007 d
    else s
  else s

/-- A change of count passes one mark after another, until the input is unlocked at the fourth. -/
def State.repPass (s : State) (d date : Nat) : State :=
  (List.range 4).foldl (fun s _ => if s.bit (Rf.POS_DIN_STAT_LOCKED d) then s.repStep d date else s) s

/-- Every repeat input that follows channel `ch`. -/
def State.repFollow (s : State) (ch date : Nat) : State :=
  (List.range 8).foldl (fun s d =>
    if s.bit (Rf.POS_DIN_CFG_REPEAT d) && s.rf (Rf.POS_DIN_CFG_LATCH_CH d) == ch then s.repPass d date else s) s

/-- A write of POS_DIN_CFG that leaves REPEAT at 0 ends the tracking: the first edge after it is enabled again is
accepted. -/
def State.repConfig (s : State) (d : Nat) : State :=
  if s.bit (Rf.POS_DIN_CFG_REPEAT d) then s else (s.setDinCh d {}).setrf (Rf.POS_DIN_STAT_LOCKED d) 0

/-! ### Serial ports (R201 to R203) -/

/-- The counts a frame and the sensor's timeout take. Under BiSS-C the start bit comes after `wait` clocks, at most 64,
with the CDS bit, nE, nW and the CRC beside the data; without a start bit the port clocks the 64 alone. -/
def State.frameRun (s : State) (k wait timeout : Nat) : Nat :=
  let bits := s.rf (Rf.POS_SSP_CFG_BITS k)
  let biss := decide (s.rf (Rf.POS_SSP_CFG_PROTO k) = 2)
  let clocks := if biss then (if wait ≤ 64 then wait + bits + 10 else 64) else bits
  clocks * 1250000 / max 1 (s.rf (Rf.POS_SSP_CFG_CLK_KHZ k)) + (if biss then timeout else 0)

/-- SERIAL_POLL: the next poll falls due, POLL_US after the one before; the first one after the port is enabled at a date
(log 158). While the frame before or its timeout still runs it is skipped and counted. -/
def execSerialPoll (k : Fin 4) (poll : PollTiming) (s : State) : Host.Outcome State Fault Refusal :=
  let due := (s.serCh k).next.getD (max s.count poll.date)
  let t := s.advanceTo due
  let x := { s.serCh k with next := some (due + countsOfUs (s.rf (Rf.POS_SSP_CFG_POLL_US k))) }
  when' (s.bit (Rf.POS_SSP_CFG_EN k)) s
    (if due < x.busy then (t.setSerCh k x).bump (Rf.POS_SSP_STAT_NORESP k)
     else t.setSerCh k { x with busy := due + s.frameRun k poll.wait poll.timeout })

/-- A write of POS_SSP_CFG that leaves EN at 0 ends the polling. -/
def State.pollConfig (s : State) (k : Nat) : State :=
  if s.bit (Rf.POS_SSP_CFG_EN k) then s else s.setSerCh k { s.serCh k with next := none }

/-- CRC-6, polynomial x^6 + x + 1, over `n` bits of a number, most significant first. -/
def crc6 (v : Nat) : Nat → Nat
  | 0 => 0
  | n + 1 =>
    let c := crc6 (v / 2) n
    let c2 := (c * 2) % 64
    if (c.testBit 5) != (v % 2 == 1) then c2 ^^^ 0x03 else c2

/-- Gray code to binary. -/
def grayToBin (v : Nat) : Nat → Nat
  | 0 => 0
  | n + 1 => v ^^^ grayToBin (v / 2) n

/-- A poll that brought no accepted sample: the fourth in a row makes the channel STALE. -/
def State.serBad (s : State) (k : Nat) : State :=
  let x := s.serCh k
  let s := s.setSerCh k { x with bad := x.bad + 1 }
  if x.bad + 1 = 4 then (s.setrf (Rf.POS_SSP_FLAG_STALE k) 1).raise 0x3004 (8 + k) else s

/-- A sample is discarded for a cause: counted, event 0x3003 at most once a millisecond. -/
def State.serReject (s : State) (k cause : Nat) : State := (s.raiseMs 0x3003 (8 + k) cause).serBad k

/-- The binary value of a frame. -/
def State.serValue (s : State) (k : Nat) (raw : Nat) : Nat :=
  let n := s.rf (Rf.POS_SSP_CFG_BITS k)
  if s.rf (Rf.POS_SSP_CFG_PROTO k) = 1 then grayToBin (raw % 2 ^ n) n else raw % 2 ^ n

/-- An accepted sample: its difference is added to the count (R202, R203). -/
def State.serAccept (s : State) (k v : Nat) (diff : Int) (warn : Bool) (date : Nat) : State :=
  let stale := s.bit (Rf.POS_SSP_FLAG_STALE k)
  let s := s.keepQ (8 + k)
  let s := s.setSerCh k { s.serCh k with prev := some v, bad := 0,
                                          down := if diff = 0 then (s.serCh k).down else decide (diff < 0) }
  let s := s.setrf (Rf.POS_SSP_CNT_COUNT k) (ofSigned 64 (s.posCount (8 + k) + diff))
  let s := (s.setrf (Rf.POS_SSP_FLAG_WARN k) (if warn then 1 else 0)).setrf (Rf.POS_SSP_FLAG_TIME_NS k) (s.timeAt date)
  let s := if stale then (s.setrf (Rf.POS_SSP_FLAG_STALE k) 0).raise 0x3005 (8 + k) else s
  (s.emuFollow (8 + k)).repFollow (8 + k) date

/-- SERIAL_SAMPLE: what a poll brought. The first sample of all has no previous value and moves nothing. A frame that
does not come to its end is counted in NORESP, the only counter of POS_SSP_STAT for it (DEDUCED, log 159). -/
def execSerialSample (k : Fin 4) (f : SerialFrame) (s : State) : Host.Outcome State Fault Refusal :=
  let t := s.advanceTo f.date
  let n := t.rf (Rf.POS_SSP_CFG_BITS k)
  let biss := decide (t.rf (Rf.POS_SSP_CFG_PROTO k) = 2)
  let raw := f.raw.toNat % 2 ^ n
  let word := raw * 4 + (if f.nE then 2 else 0) + (if f.nW then 1 else 0)
  let v := t.serValue k raw
  let diff := match (t.serCh k).prev with
    | some p => toSigned n (v + 2 ^ n - p)
    | none => 0
  when' (s.bit (Rf.POS_SSP_CFG_EN k)) s
    (if !f.answered then (t.bump (Rf.POS_SSP_STAT_NORESP k)).serBad k
     else if !f.complete then (t.bump (Rf.POS_SSP_STAT_NORESP k)).serReject k 0
     else if biss && decide (crc6 word (n + 2) ≠ 63 - f.crc.toNat) then (t.bump (Rf.POS_SSP_STAT_CRCERR k)).serReject k 1
     else if biss && !f.nE then (t.bump (Rf.POS_SSP_STAT_NERR k)).serReject k 2
     else if t.rf (Rf.POS_SSP_JUMP_JUMP k) < diff.natAbs ∧ !t.bit (Rf.POS_SSP_FLAG_STALE k) then
       (t.bump (Rf.POS_SSP_STAT_JUMPREJ k)).serReject k 3
     else t.serAccept k v diff (biss && !f.nW) f.date)

/-! ### Confirmations (R226) -/

/-- Fields of a compare entry. -/
def CmpEntry.tag (x : CmpEntry) : Nat := bitsOf x.e1.toNat 0 32
def CmpEntry.band (x : CmpEntry) : Nat := bitsOf x.e1.toNat 32 32
def CmpEntry.len (x : CmpEntry) : Nat := bitsOf x.e2.toNat 0 32
def CmpEntry.outMask (x : CmpEntry) : Nat := bitsOf x.e2.toNat 32 16
def CmpEntry.lmask (x : CmpEntry) : Nat := bitsOf x.e2.toNat 48 8
def CmpEntry.span (x : CmpEntry) : Bool := x.e2.toNat.testBit 56
def CmpEntry.confirm (x : CmpEntry) : Bool := x.e2.toNat.testBit 57
def CmpEntry.cls (x : CmpEntry) : Nat := bitsOf x.e3.toNat 0 8

/-- A mark confirmation record on CONF_CHAIN; one that finds its lane full is lost and counted. -/
def State.confirmMark (s : State) (u : Nat) (x : CmpEntry) (outcome mask behind : Nat) : State :=
  let t := s.now
  let w (n : Nat) : Word := BitVec.ofNat 64 n
  let ws := [w (0x23 + u * 2 ^ 8 + outcome * 2 ^ 16 + x.cls * 2 ^ 24 + x.tag * 2 ^ 32),
    w (x.band + t % 2 ^ 32 * 2 ^ 32), x.e0, w (s.posCount (s.rf (Rf.POS_CMP_CFG_CH u))),
    w (t / 2 ^ 32 + mask * 2 ^ 32 + (s.cmpU u).list.length * 2 ^ 48), w (min behind (2 ^ 32 - 1)), 0, 0]
  match s.sendPacket (s.rf Rf.POS_MK_CHAINS_CONF_CHAIN) 113 ws with
  | some s => s
  | none => (s.bump (Rf.POS_MK_CNT_CONFLOST u)).raiseMs 0x300F u

/-! ### Marker outputs and their brake (R218, Table 14.7) -/

/-- The outputs are silent in SAFE (R212, R221). -/
def State.silenced (s : State) : Bool := decide (s.mode = 5)

/-- POS_MK_OUT shows the outputs that are asserted. -/
def State.showMk (s : State) : State :=
  s.setrf Rf.POS_MK_OUT_LEVEL ((List.range 16).foldl (fun m o => if (s.mkOut o).on then m ||| 2 ^ o else m) 0)

/-- Drives that still hold: pulses not ended, spans whose end is not reached. -/
def State.mkHolds (s : State) (x : MkOut) : MkOut :=
  { x with pulse := x.pulse.filter (fun p => decide (s.count < p.2)), span := x.span.filter (fun p => decide (s.cmpQ p.1 < p.2)) }

def MkOut.driven (x : MkOut) : Bool := !x.pulse.isEmpty || !x.span.isEmpty

/-- An event of a marker's brake, at most once a millisecond. -/
def State.mkBrake (s : State) (o : Nat) : State := s.raiseMs 0xB005 o

/-- A fire drives an output: a drive already there keeps the later of the two releases; a rise too soon after the last
is suppressed until the drive has fallen. -/
def State.driveMk (s : State) (u o : Nat) (x : CmpEntry) : State :=
  let m := s.mkHolds (s.mkOut o)
  let was := m.driven
  let m := if x.span then
      (let q := s.cmpSign u * toSigned 64 x.e0.toNat + x.len
       { m with span := insert1 m.span u (max q (look (fun _ => q) m.span u)) })
    else
      (let c := s.count + countsOfUs (s.rf (Rf.POS_CMP_CFG_PW_US u))
       { m with pulse := insert1 m.pulse u (max c (look (fun _ => c) m.pulse u)) })
  if m.on || (was && m.supp) then s.setMkOut o m
  else
    let soon := match m.rise with
      | some c => decide (s.count < c + countsOfUs (s.rf (Rf.BRK_MK_MINGAP_US o)))
      | none => false
    if soon then ((s.setMkOut o { m with supp := true }).bump Rf.BRK_CNT_MKSUP).mkBrake o
    else (s.setMkOut o { m with on := true, rise := some s.count, supp := false, ext := false }).showMk

/-- MARKER_RELEASE: at the end of the output's pulses and spans it is released; before MINW_US of its rise the release
is deferred, once, to that instant. -/
def execMarkerRelease (o : Fin 16) (s : State) : Host.Outcome State Fault Refusal :=
  let m := s.mkOut o
  let t := if m.driven then s.advanceTo ((m.pulse.map (·.2)).foldl max 0) else s
  let m := t.mkHolds m
  let least := (m.rise.getD 0) + countsOfUs (t.rf (Rf.BRK_MK_MINW_US o))
  when' (!m.driven) s
    (if !m.on then t.setMkOut o { m with supp := false }
     else if t.count < least ∧ !m.ext then ((t.setMkOut o { m with ext := true }).bump Rf.BRK_CNT_MKEXT).mkBrake o
     else ((t.advanceTo least).setMkOut o { m with on := false, ext := false, supp := false }).showMk)

/-- Every marker output and every LVDS output becomes inactive (R212, R221). -/
def State.quietOutputs (s : State) : State :=
  let mk := s.pos.mks.map (fun e => (e.1, { e.2 with pulse := [], span := [], on := false, supp := false, ext := false }))
  let gen := s.pos.gen.map (fun e => (e.1, { e.2 with pulse := none }))
  ({ s with pos := { s.pos with mks := mk.filter (fun e => decide (e.2 ≠ ({} : MkOut))), gen := gen.filter (fun e => decide (e.2 ≠ ({} : GenSt))) } }).showMk

/-! ### Compare lists (R215, R220) -/

/-- An entry at the tail of a list: one that becomes head at once takes the level of this cycle, and is evaluated from
the next one on. -/
def State.cmpPush (s : State) (u : Nat) (x : CmpEntry) : State :=
  let c := s.cmpU u
  let q := s.cmpQ u
  s.setCmpU u { c with list := c.list ++ [x], qe := if c.list = [] then q else c.qe, qb := if c.list = [] then q else c.qb }

/-- POS_CMP_APPEND: the staged words with the written e3; a full list drops it as FULL with event 0x300C. -/
def execPosCmpAppend (u : Fin 4) (e3 : BitVec 64) (s : State) : Host.Outcome State Fault Refusal :=
  let w (j : Nat) : Word := BitVec.ofNat 64 (s.rf (Rf.POS_CMP_STG_E u j))
  let x : CmpEntry := ⟨w 0, w 1, w 2, e3⟩
  when' true s
    (if (s.cmpU u).list.length < 4096 then s.cmpPush u x
     else ((s.confirmMark u x 3 0 0).bump (Rf.POS_MK_CNT_FULL u)).raise 0x300C u)

/-- FLUSH: every entry leaves the list, those with CONFIRM confirmed as FLUSHED. -/
def execFlush (u : Fin 4) (s : State) : Host.Outcome State Fault Refusal :=
  let l := (s.cmpU u).list
  let t := s.setCmpU u { s.cmpU u with list := [] }
  when' true s (l.foldl (fun t x => if x.confirm then t.confirmMark u x 6 0 0 else t) t)

end Sys2Proof.Machine
end

