-- ==== Sys2Proof/Machine/Fuse.lean ====
section
/-! DEFINITION. Fuse: strips, camera states, mask rows and tags of stitched rows, the stitched ring and its commits
(chapter 8), and which ring slots are held (R21, R24, R25, R234). -/

namespace Sys2Proof.Machine

/-! ### Strips (R231) and the stitched ring (R242) -/

/-- The width Ws and the left edge X_k of a strip. -/
def State.fusWidth (s : State) : Nat := s.rf Rf.FUS_GEOM_WIDTH + 1
def State.stripX (s : State) (k : Nat) : Nat := if k = 16 then s.fusWidth else 4 * (k * s.fusWidth / 64)
def State.stripW (s : State) (k : Nat) : Nat := s.stripX (k + 1) - s.stripX k

/-- The widest strip, the line stride, the mask row size, the planes and the slot size. -/
def State.fusWk (s : State) : Nat := ((List.range 16).map s.stripW).foldl max 0
def State.fusLsk (s : State) : Nat := ceilDiv (2 * s.fusWk) 4096 * 4096
def State.fusMbk (s : State) : Nat := ceilDiv s.fusWk 512 * 64
def State.fusPlanes (s : State) : Nat := if s.bit Rf.FUS_GEOM_PLANES then 3 else 1
def State.fusSlotBytes (s : State) : Nat :=
  ceilDiv (s.height * 16 * (s.fusPlanes * s.fusLsk + s.fusMbk + 32)) 4096 * 4096
def State.fusSlots (s : State) : Nat := s.rf Rf.FUS_RING_SLOTS
def State.fusSlotAt (s : State) (n : Nat) : Nat := s.rf Rf.FUS_RING_BASE + n % s.fusSlots * s.fusSlotBytes

/-- Row `r` of strip `k`, plane `c`, its mask row and its tag, in the slot of band `n`. -/
def State.fusRowAt (s : State) (n k r c : Nat) : Nat := s.fusSlotAt n + ((c * 16 + k) * s.height + r) * s.fusLsk
def State.fusMasks (s : State) (n : Nat) : Nat := s.fusSlotAt n + s.fusPlanes * 16 * s.height * s.fusLsk
def State.fusMaskAt (s : State) (n k r : Nat) : Nat := s.fusMasks n + (k * s.height + r) * s.fusMbk
def State.fusTagAt (s : State) (n k r : Nat) : Nat :=
  s.fusMasks n + 16 * s.height * s.fusMbk + (k * s.height + r) * 32

/-! ### Cameras (R232, R233, R238) -/

def State.camOn (s : State) (p : Nat) : Bool := s.bit (Rf.FUS_CAM_CFG_EN p)
def State.camTh (s : State) (p : Nat) : Nat := if s.bit (Rf.FUS_CAM_CFG_HTAPS p) then 3 else 2
def State.camV (s : State) (p : Nat) : Nat := if s.bit (Rf.FUS_CAM_CFG_VTAPS p) then 6 else 4
def State.camDly (s : State) (p : Nat) : Nat := s.rf (Rf.FUS_CAM_CFG_DLY p)

/-- F_p at a column, in units of 2^-80 pixel. -/
def State.camMap (s : State) (p : Nat) (x : Int) : Int :=
  toSigned 64 (s.rf (Rf.FUS_CAM_F0_F0 p)) * 2 ^ 48 + toSigned 64 (s.rf (Rf.FUS_CAM_F1_F1 p)) * 2 ^ 32 * x +
    toSigned 64 (s.rf (Rf.FUS_CAM_F2_F2 p)) * 2 ^ 16 * x ^ 2 + toSigned 64 (s.rf (Rf.FUS_CAM_F3_F3 p)) * x ^ 3

/-- The camera rows that feed stitched row `r`, counted from row 0 of its band (R233). -/
def State.feedRows (s : State) (p r : Nat) : List Int :=
  let d := s.camDly p
  let i0 : Int := ((256 * r : Nat) - (d : Nat) : Int) / 256
  if d % 256 = 0 then [i0] else (List.range (s.camV p)).map (fun j => i0 - (s.camV p / 2 : Nat) + 1 + j)

/-- The unit is marked unserved (R67). -/
def State.unserved (s : State) (u : Nat) : Bool := s.bit (Rf.ENG_UNIT_UNSERVED u)

/-- Where the tag of a camera row of band `n` lies in the corrected ring, negative rows in band `n` - 1; none before band 0. -/
def State.camTagAt (s : State) (p n : Nat) (i : Int) : Option Nat :=
  let g : Int := n * s.height + i
  if g < 0 then none else some (s.corTagAt p (g.toNat / s.height) (g.toNat % s.height))

/-- The tag of a camera row, as a read delivers it. -/
def State.camTag (s : State) (p n : Nat) (i : Int) : Option Nat :=
  (s.camTagAt p n i).map (fun a => readLE (s.hubView a 32) a 32)

/-- The state of a camera at a stitched row: none for INVALID, the smallest NPIX for SHORT, and 65,536 for VALID. -/
def State.camState (s : State) (p n r : Nat) : Option Nat :=
  if !s.camOn p || s.unserved p then none
  else
    let tags := (s.feedRows p r).map (s.camTag p n)
    if tags.any (fun t => match t with
        | some t => decide (bitsOf t 40 2 = 3)
        | none => true) then none
    else some ((tags.filterMap id).foldl (fun m t => if t.testBit 48 then min m (bitsOf t 192 16) else m) 65536)

/-- CUT of a SHORT camera: the largest integer below F_p(NPIX - TH + 1) - 1/16. -/
def State.camCut (s : State) (p npix : Nat) : Int :=
  (s.camMap p ((npix : Int) - s.camTh p + 1) - 2 ^ 76 - 1) / 2 ^ 80

/-! ### Mask rows and tags (R239, R243) -/

/-- The bits `lo` to `hi` - 1 of a strip's row, for stitched pixels. -/
def State.stripBits (s : State) (k : Nat) (lo hi : Nat) : Nat :=
  let x := s.stripX k
  let a := max lo x - x
  let b := min hi (s.stripX (k + 1)) - x
  if a < b then 2 ^ b - 2 ^ a else 0

/-- A camera's span in a strip, and the part of it that no other stitched camera's span meets. -/
def State.spanBits (s : State) (k p : Nat) : Nat :=
  s.stripBits k (s.rf (Rf.FUS_CAM_SPAN_U_LO p)) (s.rf (Rf.FUS_CAM_SPAN_U_HI p) + 1)
def State.othersBits (s : State) (k p : Nat) : Nat :=
  (List.range 48).foldl (fun m q => if q ≠ p ∧ s.camOn q then m ||| s.spanBits k q else m) 0

/-- The pixels of a strip row at which a camera contributes. -/
def State.camBits (s : State) (k p : Nat) (st : Option Nat) : Nat :=
  let span := s.spanBits k p
  match st with
  | none => 0
  | some n =>
    if n = 65536 then span
    else
      let excl := span - (span &&& s.othersBits k p)
      excl &&& s.stripBits k 0 (s.camCut p n + 1).toNat

/-- The cameras whose spans meet a strip. -/
def State.stripCams (s : State) (k : Nat) : List Nat := (List.range 48).filter (fun p => decide (s.spanBits k p ≠ 0))

/-- The mask row and the tag of a stitched row. With the strip unserved every bit is masked (R241). -/
def State.stitched (s : State) (n k r : Nat) (dead : Bool) : Nat × Nat :=
  let cams := (s.stripCams k).map (fun p => (p, s.camState p n r))
  let full := 2 ^ s.stripW k - 1
  let got := cams.foldl (fun m c => m ||| s.camBits k c.1 c.2) 0
  let mask := if dead then full else full - (full &&& got)
  let single := cams.any (fun c => decide (c.2 = some 65536) && cams.any (fun d => decide (d.1 ≠ c.1) && s.camOn d.1 &&
    decide (d.2 ≠ some 65536) && decide (s.spanBits k c.1 &&& s.spanBits k d.1 ≠ 0)))
  let cut := cams.any (fun c => decide (c.2 ≠ some 65536) && decide (s.camBits k c.1 c.2 ≠ 0))
  let inv := cams.foldl (fun m c => if c.2 = some 65536 then m else m ||| 2 ^ c.1) 0
  let ref := (s.camTag (s.rf Rf.FUS_GEOM_REFPORT) n r).getD 0
  let flag (c : Bool) (b : Nat) : Nat := if c then 2 ^ b else 0
  let t0 := bitsOf ref 0 32 + flag (mask ≠ 0) 48 + flag (mask = full) 49 + flag (cut && !dead) 50 + flag (single && !dead) 51
  (mask, t0 + bitsOf ref 64 128 * 2 ^ 64 + inv * 2 ^ 192)

/-! ### Committing a stitched group (R241, R244, R248) -/

def State.strip (s : State) (k : Nat) : StripUnit := look (fun _ => {}) s.strips k
def State.setStrip (s : State) (k : Nat) (x : StripUnit) : State := { s with strips := put (fun _ => {}) s.strips k x }

/-- The lines of band `n` of strip `k` committed, a bit each. -/
def State.stripLines (s : State) (k n : Nat) : Nat := look (fun _ => 0) (s.strip k).commits n

/-- The tags a stitched row is made from: those of its cameras, and the reference port's. -/
def State.rowTags (s : State) (n k r : Nat) : List (Nat × Nat) :=
  let cams := (s.stripCams k).filter (fun p => s.camOn p && !s.unserved p)
  let at' := cams.flatMap (fun p => (s.feedRows p r).filterMap (s.camTagAt p n)) ++
    (s.camTagAt (s.rf Rf.FUS_GEOM_REFPORT) n r).toList
  at'.map (fun a => (a, 32))

/-- The strip logic reads the tags, writes the mask row and the tag of one row, and counts the cameras whose lowest strip this is. -/
def State.writeStripRow (s : State) (n k r : Nat) (dead : Bool) : State :=
  let m := s.stitched n k r dead
  let s' := (s.transfer 1 (48 + k) (s.rowTags n k r)).hubWrite false (48 + k) (s.fusMaskAt n k r) s.fusMbk (cellsOf (s.fusMaskAt n k r) m.1 s.fusMbk)
  let s' := s'.hubWrite false (48 + k) (s.fusTagAt n k r) 32 (cellsOf (s.fusTagAt n k r) m.2 32)
  (s.stripCams k).foldl (fun t p =>
    if !s.camOn p || (List.range k).any (fun j => decide (s.spanBits j p ≠ 0)) then t
    else
      let x := t.strip k
      let add (l : List (Nat × Nat)) : List (Nat × Nat) := insert1 l p (look (fun _ => 0) l p + 1)
      match s.camState p n r with
      | none => (t.setStrip k { x with inv := add x.inv }).bump (Rf.FUS_CAM_STAT_INV p)
      | some v => if v = 65536 then t else (t.setStrip k { x with cut := add x.cut }).bump (Rf.FUS_CAM_STAT_CUT p)) s'

/-- Once every line of the band is committed, events 0x4004 and 0x4005 for the cameras counted. -/
def State.stripBandEvents (s : State) (n k : Nat) : State :=
  if s.stripLines k n = 2 ^ s.height - 1 then
    let x := s.strip k
    let s := x.inv.foldl (fun s e => s.raise 0x4004 n e.1 e.2) s
    let s := x.cut.foldl (fun s e => s.raise 0x4005 n e.1 e.2) s
    s.setStrip k { s.strip k with inv := [], cut := [] }
  else s

/-- The rows of a group are written and committed. -/
def State.commitStrip (s : State) (n k : Nat) (rows : List Nat) (dead : Bool) : State :=
  let s := rows.foldl (fun s r => s.writeStripRow n k r dead) s
  let x := s.strip k
  let new := s.stripLines k n ||| rows.foldl (fun m r => m ||| 2 ^ r) 0
  (s.setStrip k { x with commits := insert1 (x.commits.filter (fun c => decide (n < c.1 + 256))) n new }).stripBandEvents n k

/-- The rows that a stitched row is made from are committed (R20): those of its cameras, of this band and the one before it, and
the reference port's. A lost band has none. -/
def State.feedsReady (s : State) (n k r : Nat) : Bool :=
  let ref := s.rf Rf.FUS_GEOM_REFPORT
  let at' (p : Nat) (i : Int) : Bool :=
    let g : Int := n * s.height + i
    decide (g < 0) || s.bandLost (g.toNat / s.height) || (s.committedLines p (g.toNat / s.height)).testBit (g.toNat % s.height)
  (s.unserved ref || at' ref r) &&
    (s.stripCams k).all (fun p => !s.camOn p || s.unserved p || (s.feedRows p r).all (at' p))

/-- The lines of group `g` of a strip: by the first load entry of its Fuse program. -/
def State.stripGroup (s : State) (k g : Nat) : List Nat :=
  let lines := max 1 (s.loadFld (s.rf (Rf.ENG_UNIT_ENGINE (48 + k))) 0 0 16 16)
  ((List.range lines).map (· + g * lines)).filter (fun r => decide (r < s.height))

/-- Whether the group's rows are all stored, in every plane, and not committed yet, and the rows its tags and mask rows are made
from are committed (R243). -/
def State.stripReady (s : State) (k g : Nat) : Bool :=
  let x := s.eng (s.rf (Rf.ENG_UNIT_ENGINE (48 + k)))
  let n := x.tok.band
  let rows := s.stripGroup k g
  !s.unserved (48 + k) && !rows.isEmpty && rows.any (fun r => !(s.stripLines k n).testBit r) && rows.all (s.feedsReady n k) &&
    rows.all (fun r => (List.range s.fusPlanes).all (fun c => covers x.hsts (s.fusRowAt n k r c) (2 * s.stripW k)))

/-! ### Load entries (Table 2.12) -/

/-- Fields of load entry `k` of the image that loads band `n`. -/
def State.ldPort (s : State) (e n k : Nat) : Bool := decide (s.loadFldAt e n k 0 5 1 = 1)
def State.ldGated (s : State) (e n k : Nat) : Bool := decide (s.loadFldAt e n k 0 4 1 = 1)
def State.ldLines (s : State) (e n k : Nat) : Nat := s.loadFldAt e n k 0 16 16
def State.ldGroups (s : State) (e n k : Nat) : Nat := s.loadFldAt e n k 0 32 16
def State.ldBase (s : State) (e n k : Nat) : Nat := s.loadFldAt e n k 1 0 40
def State.ldBytes (s : State) (e n k : Nat) : Nat := s.loadFldAt e n k 3 40 24
def State.ldHalf (s : State) (e n k : Nat) : Nat := s.loadFldAt e n k 3 16 16 * 64

/-- The chain of an entry's commit tokens. -/
def State.ldChain (s : State) (e n k : Nat) : Nat :=
  let q := s.loadFldAt e n k 0 8 4
  bitsOf (s.imgWordAt e n (2 + q / 8)) (8 * (q % 8)) 8

/-- An entry is the periodic one of its Sieve unit (R254). -/
def State.periodic (s : State) (e n k : Nat) : Bool :=
  let u := s.unitOf e
  decide (64 ≤ u) && decide (u < 96) && s.bit Rf.SIV_PREF_EN &&
    decide (s.ldChain e n k = (s.rf Rf.SIV_CHAINS_PCH_BASE + (u - 64)) % 256)

/-- An address lies in the stitched band ring. -/
def State.inStitched (s : State) (a : Nat) : Bool :=
  decide (s.rf Rf.FUS_RING_BASE ≤ a) && decide (a < s.rf Rf.FUS_RING_BASE + s.fusSlots * s.fusSlotBytes)

/-- The entries of an engine that the tandem read fills for band `n`. -/
def State.stitchedEntries (s : State) (e n : Nat) : List Nat :=
  (List.range (s.loadCntAt e n)).filter (fun k => !s.ldPort e n k && !s.periodic e n k && s.inStitched (s.ldBase e n k))

/-- The groups of a band that the tandem read of a strip has issued. -/
def State.tandem (s : State) (k n : Nat) : Nat := look (fun _ => 0) (s.strip k).tan n

/-! ### Which slots are held (R21, R25, R234) -/

/-- A unit is in use (R61; whether it is also served is another question): a Spoke unit whose port is enabled, every Fuse and Pack unit, and every Sieve unit but in
STREAM entered with NOSIEVE. -/
def State.unitUsed (s : State) (u : Nat) : Bool :=
  if u < 48 then s.bit (Rf.SPK_PCFG_ENABLE u)
  else if 64 ≤ u ∧ u < 96 then !s.modes.nosieve
  else true

/-- A unit of a section works in this run: it is in use and not unserved. -/
def State.serving (s : State) (u : Nat) : Bool := s.unitUsed u && !s.unserved u

/-- The readers of strip `k` have released the stitched slot of band `m`: the Sieve units of the strip have done their work, or
where none is served the tandem read is done, and so is every split read of Pack. -/
def State.stripReleased (s : State) (m k : Nat) : Bool :=
  let sieves := [64 + 2 * k, 65 + 2 * k].filter (fun u => s.serving u)
  let pack := 96 + k
  let past (u : Nat) : Bool := decide (m < (s.wu u).done)
  let groups := (s.stitchedEntries (s.rf (Rf.ENG_UNIT_ENGINE pack)) m).map (s.ldGroups (s.rf (Rf.ENG_UNIT_ENGINE pack)) m)
  sieves.all past &&
    (!s.serving pack || past pack || (if sieves = [] then groups.all (fun g => decide (g ≤ s.tandem k m))
      else look (fun _ => 0) (s.strip k).owe m == 0))

/-- The stitched slot that band `n` takes is free (R21, R25): a slot holds one band with one reader set, and every reader of
every strip of the band it last held has released it. -/
def State.stitchedFree (s : State) (n : Nat) : Bool :=
  decide (n < s.fusSlots) || (List.range 16).all (s.stripReleased (n - s.fusSlots))

/-- Some stitched camera has a delay (R234). -/
def State.anyDelay (s : State) : Bool := (List.range 48).any (fun p => s.camOn p && decide (s.camDly p ≠ 0))

/-- The Fuse units that read a camera (Table 1.3): those whose strip its span meets, with the margin of its taps on either side,
TH stitched pixels: Table 1.3 does not say how wide the kernel margin is (DESIGN CHOICE, log 186). -/
def State.camReaders (s : State) (p : Nat) : List Nat :=
  let lo := s.rf (Rf.FUS_CAM_SPAN_U_LO p) - s.camTh p
  let hi := s.rf (Rf.FUS_CAM_SPAN_U_HI p) + s.camTh p + 1
  (List.range 16).filter (fun k => s.camOn p && decide (s.stripBits k lo hi ≠ 0))

/-- The corrected slot that band `n` of port `p` takes is free, of its Fuse readers in service. Pack's release of it, at
T(b + 3) for the crops of band b (R287), comes no later than the slot's next band, for a ring has four slots or more. -/
def State.correctedFree (s : State) (p n : Nat) : Bool :=
  let more := if s.anyDelay then 1 else 0
  decide (n < s.corSlots p) || (s.camReaders p).all (fun k => !s.serving (48 + k) ||
    decide (n + more < (s.wu (48 + k)).done + s.corSlots p))

/-! ### The line groups of a port (R171, R172) -/

/-- Whether the next group of a port is `g`, with every row resolved, its half free and the token of a held band issued to the
port's own unit (R132), and whether it was missed. The
lane logic writes a group's tags and mask rows to the corrected ring with it, so those of a replay wait for the slot
(R24). -/
def State.groupReady (s : State) (p k g : Nat) (missed : Bool) : Bool :=
  let e := s.rf (Rf.ENG_UNIT_ENGINE p)
  let x := s.port p
  let n := x.grpBand
  let lines := s.loadFldAt e n k 0 16 16
  s.cadOn && decide (x.grpNext = g) && decide (x.grpBand * s.height + (g + 1) * lines ≤ s.rf (Rf.SPK_RAWPOS_NEXT p)) &&
    s.portHalfFree p k x.grpBand g && (!s.bandHeld x.grpBand || decide (x.grpBand < (s.wu p).next)) &&
    (!s.replays p || s.correctedFree p x.grpBand) && (x.missed.contains (x.grpBand, g) == missed)

/-- PORT_GROUP_WRITE: the lane logic writes the port's next line group into its half (R171); the groups of a replay come
from the raw ring (R132, Table 2.14). -/
def execPortGroupWrite (p : Fin 48) (grp : Nat) (s : State) : Host.Outcome State Fault Refusal :=
  match s.portEntry p (s.port p).grpBand with
  | some k => when' (s.groupReady p k grp false) s (s.writeGroup p k (s.replays p))
  | none => .next s

/-- LATE_GROUP_FETCH: a group that missed its half is fetched from the raw ring once the half frees: counted, with event
0x200B once a band (R172). -/
def execLateGroupFetch (p : Fin 48) (grp : Nat) (s : State) : Host.Outcome State Fault Refusal :=
  match s.portEntry p (s.port p).grpBand with
  | some k =>
    let n := (s.port p).grpBand
    let b := s.pband p n
    let t := s.bump (Rf.SPK_LCNT2_LATEFETCH p)
    let t := if b.fetch then t else (t.setPband p n { b with fetch := true }).raise 0x200B p n
    when' (s.groupReady p k grp true) s (t.writeGroup p k true)
  | none => .next s

/-! ### Copies that complete -/

/-- Whether copy `c` of engine `e` may move: a store waits while the slot it goes to is held, the stitched slot for Fuse
and, for a band replayed from the raw ring, the corrected slot for Intake; and no word it moves is beyond correction (R63). -/
def State.copyFree (s : State) (e : Nat) (c : Copy) : Bool :=
  let u := s.unitOf e
  let n := (s.eng e).tok.band
  let x := s.eng e
  !x.lostWords.contains (errKey 6 0) && !(decide (c.kind = .hst) && x.badScr c.scratchSet) &&
  match c.kind with
  | .hst => if u < 48 then !s.bandHeld n || s.correctedFree u n
      else !decide (u < 64) || s.stitchedFree n
  | _ => true

/-- Copy `k` of an engine's list may move. -/
def State.copyMoves (s : State) (e k : Nat) : Bool :=
  match (s.eng e).copies[k]? with
  | some c => s.copyFree e c
  | none => false

/-- COPY_COMPLETE: copy `k` of the engine's list moves through its hub port and completes, with what it held back; a stalled
core tries again. One that is altered beyond correction on the way does not (R439; that the transfers of R439 are the
copies: DESIGN CHOICE, log 207). -/
def execCopyComplete (e : Eng) (k : Nat) (s : State) : Host.Outcome State Fault Refusal :=
  let t := s.fabric e
  when' (s.hubU.on && decide (s.mode ≠ 0) && decide (s.mode ≠ 5) && s.copyMoves e k) s
    (if t.copyMoves e k then (t.finishCopy e k).resume e else t)

end Sys2Proof.Machine
end

