-- ==== Sys2Proof/Machine/Phase.lean ====
section
/-! DEFINITION. The phase unit: the marks it takes, the phase of every stitched row, the phase log and the null rows
(9.3); and the commit of a stitched group, which it follows. -/

namespace Sys2Proof.Machine

/-- The phase unit's endpoint, and the chain of its repeat packets. -/
def phaseEp : Nat := 114
def State.repChain (s : State) : Nat := s.rf (Rf.POS_DIN_CFG_REP_CHAIN (s.rf Rf.SIV_PREF_DIN))

/-- The phase unit takes the next repeat packet (Table 7.2): a mark, with event 0x5007 for band `n`, whose rows it takes next,
where it says RELOCK. -/
def State.takeMark (s : State) (n : Nat) : State :=
  match s.popPacket s.repChain phaseEp with
  | some (_, w0 :: w1 :: _, s) =>
    let count := w0.toNat
    let m : Mark := ⟨count, w1.getLsbD 35, w1.getLsbD 36⟩
    let s := { s with phase := { s.phase with marks := m :: s.phase.marks } }
    if m.relock then s.raise 0x5007 n (s.rf Rf.SIV_PREF_DIN) count else s
  | some (_, _, s) => s
  | none => s.popNone s.repChain phaseEp

/-- PHASE_MARK. -/
def execPhaseMark (s : State) : Host.Outcome State Fault Refusal :=
  when' (s.bit Rf.SIV_PREF_EN) s (s.takeMark (s.wu 48).done)

/-- Every waiting repeat packet is taken, for band `n`. -/
def State.takeMarks (s : State) (n : Nat) : State :=
  (List.range (s.chain s.repChain).packets).foldl (fun s _ => s.takeMark n) s

/-- The forward distance from one count to another. -/
def State.forward (s : State) (a b : Nat) : Int :=
  if s.bit Rf.SIV_PREF_DIR then countDiff a b else countDiff b a

/-- The mark that gives a row its phase: the latest at or before its count. -/
def State.markOf (s : State) (enc : Nat) : Option Mark :=
  s.phase.marks.find? (fun m => decide (0 ≤ s.forward m.count enc))

/-- The phase of a row, PLINES for a null row, and the mark used. -/
def State.phaseOf (s : State) (enc : Nat) : Nat × Option Mark :=
  let lines := s.rf Rf.SIV_PREF_PLINES
  match s.markOf enc with
  | none => (lines, none)
  | some m =>
    let ph := (s.forward m.count enc).toNat * 2 ^ 32 / max 1 (s.rf Rf.SIV_PREF_PITCH_PITCH)
    (min ph lines, some m)

/-- The entry of a row in the phase log (R255). -/
def phaseEntry (lines : Nat) (p : Nat × Option Mark) : Nat :=
  let flag (c : Bool) (b : Nat) : Nat := if c then 2 ^ b else 0
  p.1 + flag (p.1 = lines) 13 + (match p.2 with
    | some m => flag m.synth 14 + flag m.relock 15
    | none => 0)

/-- One stitched row: its phase is kept and logged, and a null row is counted. -/
def State.phaseRow (s : State) (n r : Nat) : State :=
  let d := s.hubRead phaseEp (s.fusTagAt n 0 r) 32
  let enc := readLE d.2 (s.fusTagAt n 0 r + 8) 8
  let s := d.1
  let p := s.phaseOf enc
  let lines := s.rf Rf.SIV_PREF_PLINES
  let a := s.rf Rf.SIV_PLOG_BASE + n % max 1 (s.rf Rf.SIV_PLOG_SLOTS) * (4 * s.height) + 4 * r
  let s := s.hubWrite false phaseEp a 4 (cellsOf a (phaseEntry lines p) 4)
  let g := n * s.height + r
  let keep := s.phase.ph.filter (fun e => decide (g < e.1 + 4 * s.height))
  let s := { s with phase := { s.phase with ph := insert1 keep g p.1 } }
  if p.1 = lines then s.bump Rf.SIV_CNT2_NULLPH else s

/-- The periodic entries of an engine in band `n`. -/
def State.periodicEntries (s : State) (e n : Nat) : List Nat :=
  (List.range (s.loadCntAt e n)).filter (fun k => !s.ldPort e n k && s.periodic e n k)

/-- The phase unit posts the tokens of a number of rows to the units that have a periodic entry: one word for each of
their line groups, whose layout the spec does not give (R254; log 163). -/
def State.postPhases (s : State) (n rows : Nat) : State :=
  ((List.range 32).filter (fun u => s.serving (64 + u))).foldl (fun s u =>
    match s.periodicEntries (s.rf (Rf.ENG_UNIT_ENGINE (64 + u))) n with
    | [] => s
    | k :: _ =>
      (List.range (ceilDiv rows (max 1 (s.ldLines (s.rf (Rf.ENG_UNIT_ENGINE (64 + u))) n k)))).foldl (fun s _ =>
        let r := s.freeBits 64
        r.2.sendOrWait ((s.rf Rf.SIV_CHAINS_PCH_BASE + u) % 256) phaseEp [BitVec.ofNat 64 r.1]) s) s

/-- A group of strip 0 of band `n` committed: the phase of each of its rows, the tokens of the phase chains, and event
0x5005 once for a band with null rows. -/
def State.phaseGroup (s : State) (n : Nat) (rows : List Nat) : State :=
  if s.bit Rf.SIV_PREF_EN then
    let s := (rows.foldl (fun s r => s.phaseRow n r) (s.takeMarks n)).postPhases n rows.length
    let nulls := (List.range s.height).filter (fun r => (s.stripLines 0 n).testBit r &&
      look (fun _ => 0) s.phase.ph (n * s.height + r) == s.rf Rf.SIV_PREF_PLINES)
    if s.stripLines 0 n = 2 ^ s.height - 1 ∧ nulls ≠ [] ∧ s.phase.told ≠ some n then
      { s with phase := { s.phase with told := some n } }.raise 0x5005 n nulls.length
    else s
  else s

/-- STRIP_GROUP_COMMIT: the hub port of a Fuse unit posts group `g` once its rows, tags and mask rows are written; the
phase unit follows the groups of strip 0. -/
def execStripGroupCommit (k : Fin 16) (grp : Nat) (s : State) : Host.Outcome State Fault Refusal :=
  let n := (s.eng (s.rf (Rf.ENG_UNIT_ENGINE (48 + k.val)))).tok.band
  let rows := s.stripGroup k grp
  let t := s.commitStrip n k rows false
  when' (s.stripReady k grp) s (if k = 0 then t.phaseGroup n rows else t)

/-- UNSERVED_STRIP_WRITE: for the next band of a Fuse unit marked unserved, once the section's tokens of it are issued and
its slot is free, the tag and a full mask row of every row, its commits, and event 0x4006 (R241). The rows that the failed engine
had committed stand as they are: their tokens are out (DESIGN CHOICE, log 187). A lost band is passed over. -/
def execUnservedStripWrite (k : Fin 16) (s : State) : Host.Outcome State Fault Refusal :=
  let u := 48 + k.val
  let w := s.wu u
  let n := w.done
  let t := s.setWu u { w with toks := w.toks.filter (fun k => decide (n < k.band)), done := n + 1 }
  let rows := (List.range s.height).filter (fun r => !(s.stripLines k n).testBit r)
  let c := (if rows = [] then t else t.commitStrip n k rows true).raise 0x4006 n k
  when' (s.unserved u && (decide (n < s.cad.nF) || w.toks.any (fun k => k.band == n)) && (s.bandLost n || (s.stitchedFree n && rows.all (s.feedsReady n k)))) s
    (if s.bandLost n then t else if k = 0 then c.phaseGroup n rows else c)

end Sys2Proof.Machine
end

