-- ==== Sys2Proof/Machine/SeamTable.lean ====
section
/-! DEFINITION. The label merge table and the seam areas, the unions across tile edges, and what the seam unit derives
from a finished component: its values, its class and its record (9.6 to 9.9). -/

namespace Sys2Proof.Machine

/-! ### Tiles (R18, R249, R260) -/

/-- The first column and the width of Sieve unit `u`'s half. -/
def State.halfX (s : State) (u : Nat) : Nat :=
  s.stripX (u / 2) + if u % 2 = 0 then 0 else (s.stripW (u / 2) + 1) / 2
def State.halfW (s : State) (u : Nat) : Nat :=
  if u % 2 = 0 then (s.stripW (u / 2) + 1) / 2 else s.stripW (u / 2) / 2

/-- Y0 of band `m`, modulo 2^24. -/
def State.tileY (s : State) (m : Nat) : Nat := (m * s.height + 2 ^ 24 - s.rf Rf.SIV_GEOM_LAG) % 2 ^ 24

/-- The seam area buffer of unit `u` for band `m`, and the offsets of its vectors (Table 9.3). -/
def State.seamBuf (s : State) (u m : Nat) : Nat := s.rf Rf.SIV_SEAMA_BASE + (4 * u + m % 4) * 0x80000
def vecFirst : Nat := 0
def vecLast : Nat := 0x20000
def vecLeft : Nat := 0x40000
def vecRight : Nat := 0x44000
def vecLook : Nat := 0x48000

/-- Label `i` of a vector, and bit `x` of the LOOK row. -/
def State.seamLabel (s : State) (u m v i : Nat) : Nat :=
  let a := s.seamBuf u m + v + 4 * i
  readLE (s.hubView a 4) a 4 % 2 ^ 24
def State.lookBit (s : State) (u m x : Nat) : Bool :=
  let a := s.seamBuf u m + vecLook + x / 8
  (readLE (s.hubView a 1) a 1).testBit (x % 8)

/-! ### The table (R263, R264) -/

def State.lmtAt (s : State) (l : Nat) : Nat := s.rf Rf.SIV_LMT_BASE + 128 * l

/-- The entry of a label, its bytes from 0: free, all 0, where its epoch is not the current one. -/
def State.lmt (s : State) (l : Nat) : List Host.Cell :=
  let m := moveCells (s.hubView (s.lmtAt l) 128) (s.lmtAt l) 0
  if readLE m 94 2 = s.rf Rf.SIV_SEQ_EPOCH then m else []

def lmtParent (m : List Host.Cell) : Nat := readLE m 88 3
def lmtState (m : List Host.Cell) : Nat := readLE m 91 1 % 8
def lmtFlags (m : List Host.Cell) : Nat := readLE m 92 2
def lmtWord (m : List Host.Cell) (i : Nat) : Nat := readLE m (8 * i) 8

/-- An entry with f11 replaced. -/
def lmtSet (m : List Host.Cell) (parent state flags epoch : Nat) : List Host.Cell :=
  replaceRange (fun _ => 0) m 88 8 (cellsOf 88 (parent + state * 2 ^ 24 + flags * 2 ^ 32 + epoch * 2 ^ 48) 8)

/-- Write an entry: its bytes with the given PARENT, STATE and FLAGS and the current epoch. -/
def State.lmtPut (s : State) (l : Nat) (m : List Host.Cell) (parent state flags : Nat) : State :=
  s.hubWrite false 115 (s.lmtAt l) 128 (moveCells (lmtSet m parent state flags (s.rf Rf.SIV_SEQ_EPOCH)) 0 (s.lmtAt l))

/-- An entry freed. -/
def State.lmtFree (s : State) (l : Nat) : State := s.lmtPut l [] 0 0 0

/-- The root of a label: none for the storm label and for one whose chain meets an entry that is not written. -/
def State.rootFuel (s : State) : Nat → Nat → Option Nat
  | 0, _ => none
  | n + 1, l =>
    let m := s.lmt l
    if l = storm ∨ lmtState m = 0 then none
    else if lmtParent m = l then some l
    else s.rootFuel n (lmtParent m)
def State.rootOf (s : State) (l : Nat) : Option Nat := s.rootFuel (2 ^ 24) l

/-- The labels whose entries are read to find the root of a label: those on its path. -/
def State.pathFuel (s : State) : Nat → Nat → List Nat
  | 0, _ => []
  | n + 1, l =>
    if l = storm then []
    else
      let m := s.lmt l
      l :: (if lmtState m = 0 ∨ lmtParent m = l then [] else s.pathFuel n (lmtParent m))
def State.pathOf (s : State) (l : Nat) : List Nat := s.pathFuel (2 ^ 24) l

/-- The reads of the entries of labels, each once, in TC0. -/
def State.noteEntries (s : State) (ls : List Nat) : State := s.transfer 0 115 (ls.eraseDups.map (fun l => (s.lmtAt l, 128)))

/-- The reads that find the roots of labels. -/
def State.noteRoots (s : State) (ls : List Nat) : State := s.noteEntries (ls.eraseDups.flatMap s.pathOf)

/-- Flags added to a root's entry. -/
def State.lmtFlag (s : State) (l f : Nat) : State :=
  let m := s.lmt l
  s.lmtPut l m (lmtParent m) (lmtState m) (lmtFlags m ||| f)

/-- STORMADJ, EDGEGAP, CROSS, PERIODIC and LATEFIN as FLAGS bits (Table 9.7); bit 0 is SAT. -/
def fStorm : Nat := 2
def fGap : Nat := 4
def fCross : Nat := 8
def fPeriodic : Nat := 16
def fLate : Nat := 32

/-- No part of an entry lies in a constant region. -/
def noLimits : Limits := ⟨0, 0⟩

/-- Merge the higher of two roots into the lower (R99, R265). -/
def State.mergeRoots (s : State) (a b : Nat) : State :=
  let ea := s.lmt a
  let eb := s.lmt b
  let fa := readFeat ea 0
  let fb := readFeat eb 0
  let r := fa.merge fb a
  let early := decide (rowDiff fb.ymin fa.yf < rowDiff fa.ymin fa.yf)
  let late := decide (rowDiff fa.ymax fa.yf < rowDiff fb.ymax fa.yf)
  let w (m : List Host.Cell) (i : Nat) : List Host.Cell := replaceRange (fun _ => 0) m (8 * i) 8 (cellsOf (8 * i) (lmtWord eb i) 8)
  let m := writeFeat noLimits ea 0 r.1
  let m := if early then w (w (w m 12) 14) 15 else m
  let m := if late then w m 13 else m
  let s := s.lmtPut a m a (lmtState ea) (lmtFlags ea ||| lmtFlags eb ||| fCross)
  let s := s.lmtPut b (writeFeat noLimits eb 0 r.2) a 3 (lmtFlags eb)
  let s := s.bump Rf.SIV_CNT2_UNIONS
  if 0x800000 ≤ b then { s with seam := { s.seam with ptrs := insUp b s.seam.ptrs } } else s

/-- The union of two class pixels with labels `a` and `b` (R265). -/
def State.unionPair (s : State) (p : Nat × Nat) : State :=
  if p.1 = 0 ∨ p.2 = 0 then s
  else
    let s := s.noteRoots [p.1, p.2]
    match s.rootOf p.1, s.rootOf p.2 with
    | some a, some b => if a < b then s.mergeRoots a b else if b < a then s.mergeRoots b a else s
    | some a, none => s.lmtFlag a fStorm
    | none, some b => s.lmtFlag b fStorm
    | none, none => s

/-! ### Neighbouring tiles -/

/-- A tile: its unit and its band. -/
abbrev Tile := Nat × Nat

/-- The pairs of neighbouring tiles one of which is `t`, the left or the upper one first. -/
def tileEdges (t : Tile) : List (Tile × Tile) :=
  let u := t.1
  let m := t.2
  let side := [((u, m), (u + 1, m)), ((u, m), (u, m + 1)), ((u, m), (u + 1, m + 1))]
  let left := if 0 < u then [((u - 1, m), (u, m)), ((u, m), (u - 1, m + 1))] else []
  let up := if 0 < m then [((u, m - 1), (u, m)), ((u + 1, m - 1), (u, m))] ++
      (if 0 < u then [((u - 1, m - 1), (u, m))] else []) else []
  (side ++ left ++ up).filter (fun e => decide (e.1.1 < 32) && decide (e.2.1 < 32))

/-- The labels of the pairs of 8-neighbours across the edge between two tiles; 0 where a pixel is in no class. -/
def State.edgePairs (s : State) (e : Tile × Tile) : List (Nat × Nat) :=
  let (u, m) := e.1
  let (u', m') := e.2
  let near (n i : Nat) : List Nat := (List.range n).filter (fun j => decide (i ≤ j + 1) && decide (j ≤ i + 1))
  if m = m' then
    (List.range s.height).flatMap (fun r => (near s.height r).map (fun r' =>
      (s.seamLabel u m vecRight r, s.seamLabel u' m' vecLeft r')))
  else if u = u' then
    (List.range (s.halfW u)).flatMap (fun x => (near (s.halfW u) x).map (fun x' =>
      (s.seamLabel u m vecLast x, s.seamLabel u' m' vecFirst x')))
  else if u < u' then [(s.seamLabel u m vecLast (s.halfW u - 1), s.seamLabel u' m' vecFirst 0)]
  else [(s.seamLabel u m vecLast 0, s.seamLabel u' m' vecFirst (s.halfW u' - 1))]

/-- What a read of a tile's vectors counts and raises. -/
def State.noteTile (s : State) (t : Tile) : State :=
  let b := s.seamBuf t.1 t.2
  s.transfer 0 115 [(b + vecFirst, 4 * s.halfW t.1), (b + vecLast, 4 * s.halfW t.1), (b + vecLeft, 4 * s.height),
    (b + vecRight, 4 * s.height)]

/-! ### Derived values (Table 9.5) -/

/-- The integer square root, bit by bit from bit `k` - 1. -/
def isqrtFrom (n : Nat) : Nat → Nat → Nat
  | 0, r => r
  | k + 1, r => isqrtFrom n k (if (r + 2 ^ k) * (r + 2 ^ k) ≤ n then r + 2 ^ k else r)
def isqrt (n : Nat) : Nat := isqrtFrom n (Nat.log2 n / 2 + 1) 0

/-- DIVR (R270). -/
def divr (a b : Int) : Int := (2 * a + b) / (2 * b)

/-- 256 times the square root of the ratio of the eigenvalues of the symmetric matrix (a, b; c off the diagonal),
rounded to the nearest. -/
def elongOf (a b c : Int) : Nat :=
  let t := (a + b).toNat
  let det := (a * b - c * c).toNat
  let disc := ((a - b) ^ 2 + 4 * c ^ 2).toNat
  if t = 0 then 256
  else if det = 0 then 65535
  else
    let num := 256 * (t * 2 ^ 64 + isqrt (disc * 2 ^ 128))
    let den := 2 * isqrt (det * 2 ^ 128)
    min ((2 * num + den) / (2 * den)) 65535

/-- The first `n` binary digits of the angle of (x, y) in turns, above `acc`: the angle is doubled by squaring. -/
def turnBits : Nat → Int → Int → Nat → Nat
  | 0, _, _, acc => acc
  | n + 1, x, y, acc =>
    let b := if 0 < y ∨ (y = 0 ∧ 0 < x) then 0 else 1
    let x' := x * x - y * y
    let y' := 2 * x * y
    let k : Int := 2 ^ (Nat.log2 (max x'.natAbs y'.natAbs) - 160)
    turnBits n (x' / k) (y' / k) (2 * acc + b)

/-- Half the angle of (x, y) in 1/65,536 turn, modulo 32,768, rounded to the nearest; 0 at the origin. -/
def orientOf (x y : Int) : Nat :=
  if x = 0 ∧ y = 0 then 0 else (turnBits 17 (x * 2 ^ 160) (y * 2 ^ 160) 0 + 2) / 4 % 32768

/-- A value known to within 1 unit, between bounds: the nearest moved by a free value of -1, 0 or 1. -/
def State.within1 (s : State) (v lo hi : Nat) : Nat × State :=
  let d := (Config.freeWord s.free).toNat % 3
  (max lo (min hi (v + d - 1)), { s with free := s.free + 1 })

/-- What the seam unit derives from a component. -/
structure Comp where
  f     : Feat
  flags : Nat
  lines : Nat
  width : Nat
  mean  : Int
  cx    : Nat
  cy    : Nat
  elong : Nat
  orient : Nat
  cam   : Nat
  m     : List Host.Cell
  deriving DecidableEq, Repr

/-- The camera whose span holds a pixel (Table 9.5). -/
def State.camAt (s : State) (px : Nat) : Nat :=
  ((List.range 48).find? (fun p => s.camOn p && decide (s.rf (Rf.FUS_CAM_SPAN_U_LO p) ≤ px) &&
    decide (px ≤ s.rf (Rf.FUS_CAM_SPAN_U_HI p)))).getD 0xFF

/-- The values of the component whose root is `l`, finished at the close of band `n`. -/
def State.comp (s : State) (l n : Nat) : Comp × State :=
  let m := s.lmt l
  let f := readFeat m 0
  let a : Int := max 1 f.area
  let cxx := a * f.sdxx - f.sdx ^ 2
  let cyy := a * f.sdyy - f.sdy ^ 2
  let cxy := a * f.sdxy - f.sdx * f.sdy
  let e := elongOf cxx cyy cxy
  let o := orientOf (cxx - cyy) (2 * cxy)
  let (e, s) := if e = 256 ∧ cxx + cyy = 0 ∨ e = 65535 then (e, s) else s.within1 e 256 65535
  let (o, s) := if cxx = cyy ∧ cxy = 0 then (0, s) else (let r := s.within1 (o + 32768) 0 (2 ^ 20); (r.1 % 32768, r.2))
  let cx := (256 * (f.xf : Int) + divr (256 * f.sdx) a).toNat
  let flags := lmtFlags m ||| f.flags % 2 ||| (if s.bit Rf.SIV_PREF_EN then fPeriodic else 0) |||
    (if rowDiff f.ymax (s.tileY n) < 0 then fLate else 0)
  (⟨f, flags, min ((f.ymax + 2 ^ 24 - f.ymin) % 2 ^ 24 + 1) 65535, f.xmax - f.xmin + 1, satS16 (divr f.sum a), cx,
    (256 * rowDiff f.yf f.ymin + divr (256 * f.sdy) a).toNat, e, o, s.camAt (cx / 256), m⟩, s)

/-! ### The classifier (R271) -/

/-- A feature of Table 9.6 as the condition compares it: none for a code that never holds. -/
def Comp.feature (c : Comp) (code : Nat) : Option Int :=
  let sat (v : Nat) : Option Int := some (min v (2 ^ 32 - 1) : Nat)
  match code with
  | 1 => sat c.f.area
  | 2 => sat c.f.strong
  | 3 => sat c.lines
  | 4 => sat c.width
  | 5 => sat c.f.peak.natAbs
  | 6 => some c.f.peak
  | 7 => some c.mean
  | 8 => sat c.elong
  | 9 => sat c.orient
  | 10 => sat c.cam
  | 11 => sat (c.cx / 256)
  | 12 => sat c.flags
  | _ => none

def Comp.holds (c : Comp) (code lo hi : Nat) : Bool :=
  if code = 0 then true
  else
    let lim (v : Nat) : Int := if code = 6 ∨ code = 7 then toSigned 32 v else v
    match c.feature code with
    | some v => decide (lim lo ≤ v) && decide (v ≤ lim hi)
    | none => false

/-- The class of a component. -/
def State.classOf (s : State) (c : Comp) : Nat :=
  match (List.range 256).find? (fun i => s.bit (Rf.SIV_RULE0_EN i) &&
      c.holds (s.rf (Rf.SIV_RULE0_FA i)) (s.rf (Rf.SIV_RULEC_LO i 0)) (s.rf (Rf.SIV_RULEC_HI i 0)) &&
      c.holds (s.rf (Rf.SIV_RULE0_FB i)) (s.rf (Rf.SIV_RULEC_LO i 1)) (s.rf (Rf.SIV_RULEC_HI i 1)) &&
      c.holds (s.rf (Rf.SIV_RULE0_FC i)) (s.rf (Rf.SIV_RULEC_LO i 2)) (s.rf (Rf.SIV_RULEC_HI i 2))) with
  | some i => s.rf (Rf.SIV_RULE0_CLASS i)
  | none => s.rf Rf.SIV_GEOM_DEFCLS

/-! ### Records (Tables 9.7 and 9.8) -/

/-- A defect record, its crop reference 0. -/
def Comp.record (c : Comp) (cls id : Nat) : List Word :=
  let w (v : Nat) : Word := BitVec.ofNat 64 v
  [w (0x21 + cls * 2 ^ 8 + c.flags % 64 * 2 ^ 16 + id * 2 ^ 32),
   w (lmtWord c.m 15 % 2 ^ 32 + lmtWord c.m 14 % 2 ^ 32 * 2 ^ 32),
   w (lmtWord c.m 12), w (lmtWord c.m 13),
   w (c.f.xmin + c.f.xmax * 2 ^ 20 + c.lines * 2 ^ 40 + c.cam * 2 ^ 56),
   w (c.f.area + ofSigned 16 c.f.peak * 2 ^ 32 + ofSigned 16 c.mean * 2 ^ 48),
   w (c.cx % 2 ^ 32 + c.cy % 2 ^ 32 * 2 ^ 32),
   w (c.elong * 2 ^ 32 + c.orient * 2 ^ 48)]

/-- The seam unit's storm record over the components folded at a close that finished `count` (R269). -/
def foldRecord (count band : Nat) (cs : List Comp) : List Word :=
  let w (v : Nat) : Word := BitVec.ofNat 64 v
  match cs with
  | [] => []
  | c :: _ =>
    let y0 := c.f.yf
    let first := cs.foldl (fun d c => if rowDiff c.f.ymin y0 < rowDiff d.f.ymin y0 then c else d) c
    let last := cs.foldl (fun d c => if rowDiff d.f.ymax y0 < rowDiff c.f.ymax y0 then c else d) c
    let xmin := cs.foldl (fun v c => min v c.f.xmin) c.f.xmin
    let xmax := cs.foldl (fun v c => max v c.f.xmax) 0
    let lines := min ((last.f.ymax + 2 ^ 24 - first.f.ymin) % 2 ^ 24 + 1) 65535
    [w (0x22 + 0x100 + 0xFF * 2 ^ 32), w count, w (band % 2 ^ 32 + lmtWord first.m 14 % 2 ^ 32 * 2 ^ 32),
     w (lmtWord first.m 12), w (xmin + xmax * 2 ^ 20 + lines * 2 ^ 40), w cs.length, 0, w (lmtWord last.m 13)]

end Sys2Proof.Machine
end

