-- ==== Sys2Proof/Machine/Seam.lean ====
section
/-! DEFINITION. The seam unit's commands: the packets of the seam chain and the close of a band (9.6 to 9.8), with the
failed conditions of the defect record bound (R304). -/

namespace Sys2Proof.Machine

/-! ### The defect record bound (R304) -/

/-- Condition `c` of the bound fails for band `n`: event 0x6003 and the counts, once for a band and a condition. -/
def State.boundFails (s : State) (n c : Nat) : State :=
  if s.tc0.failed.any (fun e => e.1 == n && e.2 == c) then s
  else
    let first := !s.tc0.failed.any (fun e => e.1 == n)
    let s := { s with tc0 := { s.tc0 with failed := (s.tc0.failed ++ [(n, c)]).filter (fun e => decide (n < e.1 + 256)) } }
    let s := if first then s.bump Rf.PAK_TC0CNT_VOID else s
    let s := match c with
      | 3 => s.bump Rf.PAK_TC0CNT_SLACK
      | 5 => s.bump Rf.PAK_TC0CNT_CLOSE
      | 6 => s.bump Rf.PAK_TC0CNT_RING
      | _ => s
    s.raise 0x6003 n c

/-! ### Packets (R259) -/

/-- The seam unit's endpoint. -/
def seamEp : Nat := 115

/-- The full index of a band named by its low 32 bits, at or after the next band to close. -/
def State.seamBand (s : State) (low : Nat) : Nat := s.seam.next + (low + 2 ^ 32 - s.seam.next % 2 ^ 32) % 2 ^ 32

/-- The band of the last LOOK of a unit, and whether it has delivered a LOOK and an END of a band. -/
def State.lookOf (s : State) (u : Nat) : Nat :=
  ((s.seam.looks.filter (fun e => e.1 == u)).map (·.2)).foldl max s.seam.next
def State.hasLook (s : State) (u m : Nat) : Bool := s.seam.looks.contains (u, m)
def State.hasEnd (s : State) (u m : Nat) : Bool := s.seam.ends.contains (u, m)

/-- The kinds of seam packet. -/
inductive SeamKind where
  | look
  | pointer
  | component
  | ended
  | error
  deriving DecidableEq, Repr

/-- The kind of a packet of unit `u`. -/
def State.seamKind (s : State) (u : Nat) (ws : List Word) : SeamKind :=
  let w0 := (ws.headD 0).toNat
  match ws.length with
  | 1 => if w0 % 256 = 1 then .look else if w0 % 256 = 3 then .pointer else .error
  | 2 => if w0 % 256 = 4 ∧ s.hasLook u (s.seamBand (w0 / 2 ^ 32)) then .ended else .error
  | 16 => .component
  | _ => .error

/-- A packet the seam unit discards: an END is of the band it names, any other of the unit's tile, the band of its last LOOK. -/
def State.seamError (s : State) (u : Nat) (ws : List Word) : State :=
  let w0 := (ws.headD 0).toNat
  let n := if ws.length = 2 ∧ w0 % 256 = 4 then s.seamBand (w0 / 2 ^ 32) else s.lookOf u
  (s.bump Rf.SIV_CNT2_PKTERR).raise 0x5006 n u

/-- The label `l` is written in the tile unit `u` is delivering. -/
def State.noteLabel (s : State) (u l : Nat) : State :=
  { s with seam := { s.seam with labels := s.seam.labels ++ [(l, s.lookOf u)] } }

/-- The pairs across the edge of two tiles are unioned. A component that touches a label of a folded tile gets STORMADJ
(Table 9.7). -/
def State.unionEdge (s : State) (e : Tile × Tile) : State :=
  let fold := s.seam.folds.contains e.1 || s.seam.folds.contains e.2
  (s.edgePairs e).foldl (fun s p =>
    let s := s.unionPair p
    if fold && decide (p.1 ≠ 0) && decide (p.2 ≠ 0) then
      (match s.rootOf p.1 with
        | some r => s.lmtFlag r fStorm
        | none => s)
    else s) ((s.noteTile e.1).noteTile e.2)

/-- The effect of a packet of Sieve unit `u`. -/
def State.seamPacket (s : State) (u : Nat) (ws : List Word) : State :=
  let w (i : Nat) : Nat := (ws.getD i 0).toNat
  match s.seamKind u ws with
  | .error => s.seamError u ws
  | .look => { s with seam := { s.seam with looks := s.seam.looks ++ [(u, s.seamBand (w 0 / 2 ^ 32))] } }
  | .pointer =>
    let l := bitsOf (w 0) 8 24
    (s.lmtPut l [] (bitsOf (w 0) 32 24) 3 0).noteLabel u l
  | .component =>
    let l := bitsOf (w 11) 0 24
    let m := (List.range 16).flatMap (fun i => if i = 11 then [] else cellsOf (8 * i) (w i) 8)
    (s.lmtPut l m l 1 0).noteLabel u l
  | .ended =>
    let n := s.seamBand (w 0 / 2 ^ 32)
    let s := { s with seam := { s.seam with ends := s.seam.ends ++ [(u, n)],
                                            folds := if bitsOf (w 0) 8 1 = 1 then s.seam.folds ++ [(u, n)] else s.seam.folds } }
    let s := if bitsOf (w 0) 8 1 = 1 ∨ bitsOf (w 1) 32 32 ≠ 0 then s.raise 0x5003 n u else s
    let edges := (tileEdges (u, n)).filter (fun e => s.hasEnd e.1.1 e.1.2 && s.hasEnd e.2.1 e.2.2)
    edges.foldl State.unionEdge s

/-- A seam command: the next packet of the seam chain is taken where it is of the command's kind, or is one that is
discarded. -/
def State.seamTake (s : State) (k : SeamKind) : State :=
  match s.popPacket (s.rf Rf.SIV_CHAINS_SEAM) seamEp with
  | some (ep, ws, t) =>
    let kind := s.seamKind (ep - 64) ws
    if kind = k ∨ kind = .error then t.seamPacket (ep - 64) ws else s
  | none => s.popNone (s.rf Rf.SIV_CHAINS_SEAM) seamEp

def execSeamLook (s : State) : Host.Outcome State Fault Refusal := .next (s.seamTake .look)
def execSeamAlias (s : State) : Host.Outcome State Fault Refusal := .next (s.seamTake .pointer)
def execSeamComponent (s : State) : Host.Outcome State Fault Refusal := .next (s.seamTake .component)
def execSeamEnd (s : State) : Host.Outcome State Fault Refusal := .next (s.seamTake .ended)

/-! ### The close (R266 to R272) -/

/-- The tile of unit `u` in band `m` delivered no data (R267), and its LOOK likewise. -/
def State.noData (s : State) (u m : Nat) : Bool := !s.hasEnd u m && (s.unserved (64 + u) || s.bandLost m)
def State.noLook (s : State) (u m : Nat) : Bool := !s.hasLook u m && (s.unserved (64 + u) || s.bandLost m)

/-- The next band is the last of a drain, whose close takes the LOOK rows after it as all 0 (R410). -/
def State.lastClose (s : State) : Bool := s.cad.final == some s.seam.next

/-- The close of the next band may begin. -/
def State.closeReady (s : State) : Bool :=
  let n := s.seam.next
  s.cadOn && (List.range 32).all (fun u => s.unitUsed (64 + u) && (s.hasEnd u n || s.noData u n) &&
    (s.hasLook u (n + 1) || s.noLook u (n + 1) || s.lastClose))

/-- A LOOK bit of band `m` at column `x` of unit `u`, which may lie one column beyond the unit. -/
def State.lookAt (s : State) (u m : Nat) (x : Int) : Bool :=
  let at' (u : Nat) (x : Nat) : Bool := s.hasLook u m && s.lookBit u m x
  if x < 0 then decide (0 < u) && at' (u - 1) (s.halfW (u - 1) - 1)
  else if (s.halfW u : Int) ≤ x then decide (u < 31) && at' (u + 1) 0
  else at' u x.toNat

/-- The roots of band `n` that grow into the band after it: their last-row pixels are neighbours of a set LOOK bit. -/
def State.growing (s : State) (n : Nat) : List Nat :=
  (List.range 32).flatMap (fun u => if s.hasEnd u n then
    (List.range (s.halfW u)).filterMap (fun x =>
      let l := s.seamLabel u n vecLast x
      if decide (l ≠ 0) && [(-1 : Int), 0, 1].any (fun d => s.lookAt u (n + 1) (x + d)) then s.rootOf l else none)
    else [])

/-- What the close of band `n` reads of the seam areas: the last rows of its tiles and the LOOK rows of the band after it. -/
def State.noteLooks (s : State) (n : Nat) : State :=
  let us := List.range 32
  s.transfer 0 115 ((us.filter (fun u => s.hasEnd u n)).map (fun u => (s.seamBuf u n + vecLast, 4 * s.halfW u)) ++
    (us.filter (fun u => s.hasLook u (n + 1))).map (fun u => (s.seamBuf u (n + 1) + vecLook, ceilDiv (s.halfW u) 8)))

/-- The labels in the last rows of band `n`'s tiles. -/
def State.lastLabels (s : State) (n : Nat) : List Nat :=
  (List.range 32).flatMap (fun u => if s.hasEnd u n then
    ((List.range (s.halfW u)).map (s.seamLabel u n vecLast)).filter (fun l => decide (l ≠ 0)) else [])

/-- The labels of the pixels of tile `t` next to tile `t'`. -/
def State.facing (s : State) (e : Tile × Tile) (t : Tile) : List Nat :=
  ((s.edgePairs e).map (fun p => if t = e.1 then p.1 else p.2)).filter (fun l => decide (l ≠ 0))

/-- EDGEGAP for the roots with a pixel in a tile of band `n` that touch a tile without data, of a band that `want` names. -/
def State.markGaps (s : State) (n : Nat) (want : Nat → Bool) : State :=
  (List.range 32).foldl (fun s u =>
    if s.hasEnd u n then
      (tileEdges (u, n)).foldl (fun s e =>
        let o := if e.1 = (u, n) then e.2 else e.1
        if want o.2 && s.noData o.1 o.2 && !(s.lastClose && decide (s.seam.next < o.2)) then
          (s.facing e (u, n)).foldl (fun s l => match s.rootOf l with
            | some r => s.lmtFlag r fGap
            | none => s) ((s.noteTile (u, n)).noteRoots (s.facing e (u, n)))
        else s) s
    else s) s

/-- The lowest free seam label. -/
def State.freeSeam (s : State) : Nat :=
  s.seam.used.foldl (fun l v => if v = l then l + 1 else l) 0x800000

/-- An open root that is a tile label moves to a seam label. -/
def State.moveRoot (s : State) (l : Nat) : State :=
  let m := s.lmt l
  if l < 0x800000 then
    let v := s.freeSeam
    let s := (s.lmtPut v m v 2 (lmtFlags m)).lmtPut l m v 3 (lmtFlags m)
    { s with seam := { s.seam with used := insUp v s.seam.used, opens := insUp v s.seam.opens } }
  else
    let s := s.lmtPut l m l 2 (lmtFlags m)
    { s with seam := { s.seam with opens := insUp l s.seam.opens } }

/-- A pointer entry names its root at once. -/
def State.shorten (s : State) (l : Nat) : State :=
  let m := s.lmt l
  let s := s.noteRoots [l]
  if lmtState m = 3 then
    match s.rootOf l with
    | some r => if r = lmtParent m then s else s.lmtPut l m r 3 (lmtFlags m)
    | none => s
  else s

/-- The strip and the Sieve unit that own a stitched pixel. -/
def State.stripAt (s : State) (px : Nat) : Nat := ((List.range 16).find? (fun k => decide (px < s.stripX (k + 1)))).getD 15
def State.sieveAt (s : State) (px : Nat) : Nat :=
  let k := s.stripAt px
  if px < s.halfX (2 * k + 1) then 2 * k else 2 * k + 1

/-- One record emitted: numbered, onto its strip's record chain and, where its class is marked, the mark chain. -/
def State.emitRecord (s : State) (c : Comp) (cls : Nat) : State :=
  let id := s.rf Rf.SIV_SEQ_NEXT_ID
  let s := s.setrf Rf.SIV_SEQ_NEXT_ID (if id + 1 = 2 ^ 32 then 1 else id + 1)
  let w := c.record cls id
  let px := c.cx / 256
  let s := s.sendOrWait (s.rf Rf.SIV_CHAINS_REC_BASE + s.stripAt px) seamEp w
  let s := if (s.rf (Rf.SIV_MARKCLS_CLASSES (cls / 64))).testBit (cls % 64) then
    s.sendOrWait (s.rf Rf.POS_MK_CHAINS_MARK_CHAIN) (64 + s.sieveAt px) w else s
  s.bump Rf.SIV_CNT_RECORDS

/-- The finished components: the number emitted and those beyond the cap. -/
def State.finish (n : Nat) : List Nat → State → Nat → List Comp → State × Nat × List Comp
  | [], s, k, cs => (s, k, cs)
  | r :: rs, s, k, cs =>
    let p := (s.noteEntries [r]).comp r n
    let s := p.2
    let c := p.1
    let cls := s.classOf c
    if (s.bit Rf.SIV_GEOM_HYST && decide (c.f.strong = 0)) || decide (cls = 0) then
      State.finish n rs ((s.bump Rf.SIV_CNT_DISCARD).lmtFree r) k cs
    else if k < s.rf Rf.SIV_GEOM_SEAM_CAP then State.finish n rs ((s.emitRecord c cls).lmtFree r) (k + 1) cs
    else State.finish n rs ((s.bump Rf.SIV_CNT_STORM).lmtFree r) k (cs ++ [c])

/-- The close of band `n`. -/
def State.close (s : State) (n : Nat) : State :=
  let gap := (List.range 32).any (fun u => s.noData u n)
  let s := if gap then s.raise 0x5008 n else s
  let s := if n = 0 then s else s.markGaps (n - 1) (fun m => m == n)
  let s := s.markGaps n (fun _ => true)
  let tile := (s.seam.labels.filter (fun e => e.2 == n)).map (·.1)
  let roots := (tile ++ s.seam.opens).foldl (fun l v => match s.rootOf v with
    | some r => insUp r l
    | none => l) []
  let s := ((s.noteRoots (tile ++ s.seam.opens)).noteLooks n).noteRoots (s.lastLabels n)
  let grow := s.growing n
  let open' := roots.filter (fun r => grow.contains r)
  let done := roots.filter (fun r => !grow.contains r)
  let ptrs := s.seam.ptrs
  let s := { s with seam := { s.seam with firstId := (n, s.rf Rf.SIV_SEQ_NEXT_ID) :: s.seam.firstId.take 255 } }
  let p := State.finish n done s 0 []
  let s := p.1
  let s := if p.2.2 = [] then s else
    (s.sendOrWait (s.rf Rf.SIV_CHAINS_REC_BASE) seamEp (foldRecord done.length n p.2.2)).raise 0x5004 n p.2.2.length
  -- the labels that stay in use
  let s := { s with seam := { s.seam with opens := [] } }
  let s := open'.foldl State.moveRoot s
  let kept := s.seam.labels.filter (fun e => decide (n ≤ e.2))
  let s := (kept.map (·.1)).foldl State.shorten s
  let gone := (s.seam.labels.filter (fun e => decide (e.2 < n))).map (·.1)
  let s := (gone ++ ptrs).foldl State.lmtFree s
  let us := 60 + (10 * p.2.1 + 999) / 1000
  let took := (Config.freeWord s.free).toNat % (us + 1)
  let q := s.seam
  let q := { q with next := n + 1, labels := kept, ptrs := [], used := q.opens }
  let q := { q with looks := q.looks.filter (fun e => decide (n < e.2)), ends := q.ends.filter (fun e => decide (n ≤ e.2)),
                    folds := q.folds.filter (fun e => decide (n ≤ e.2)) }
  let s := { s with free := s.free + 1, seam := q }
  let s := ((s.setrf Rf.SIV_CLOSE_BAND n).setrf Rf.SIV_CLOSE_LAST_US (min took 65535)).peak Rf.SIV_CLOSE_MAX_US took
  if 1024 < p.2.1 then s.boundFails n 5 else s

/-- SEAM_CLOSE: the close of the next band, once its conditions hold. -/
def execSeamClose (s : State) : Host.Outcome State Fault Refusal := when' (s.closeReady && s.hubOpen) s (s.close s.seam.next)

end Sys2Proof.Machine
end

