-- ==== Sys2Proof/Machine/Marking.lean ====
section
/-! DEFINITION. The marking stations: entries from defect records, batches, and their closing (7.7). -/

namespace Sys2Proof.Machine

/-- An entry of band `n` is dropped: counted for the event of its band. -/
def State.markDrop (s : State) (u n : Nat) (f : MkDrops → MkDrops) : State :=
  let c := s.cmpU u
  let d := (c.drops.find? (fun d => d.band == n)).getD { band := n }
  s.setCmpU u { c with drops := f d :: c.drops.filter (fun d => d.band != n) }

/-- Event 0x3009 once for a band and a station, with the counts OVER, FULL and NOHEAD of the band, as its batch has been
appended (DEDUCED, log 161). -/
def State.tellDrops (s : State) (u n : Nat) : State :=
  let c := s.cmpU u
  match c.drops.find? (fun d => d.band == n) with
  | some d =>
    let s := s.setCmpU u { c with drops := c.drops.filter (fun d => d.band != n),
                                  told := if c.told.contains n then c.told else (c.told ++ [n]).drop (c.told.length - 15) }
    if c.told.contains n then s else s.raise 0x3009 n u (d.ovr + 2 ^ 16 * d.full + 2 ^ 32 * d.nohd)
  | none => s

/-- The outputs of the enabled heads that an extent meets (R223). -/
def State.headMask (s : State) (u xmin xmax : Nat) : Nat :=
  (List.range 16).foldl (fun m i =>
    if s.bit (Rf.POS_MK_HEAD_EN u i) && decide (s.rf (Rf.POS_MK_HEAD_XLO u i) ≤ xmax) &&
      decide (xmin ≤ s.rf (Rf.POS_MK_HEAD_XHI u i)) then m ||| 2 ^ s.rf (Rf.POS_MK_HEAD_OUT u i) else m) 0

/-- The entry a station builds from a defect record. -/
def State.markEntry (s : State) (u : Nat) (ws : List Word) : CmpEntry :=
  let w (i : Nat) : Nat := (ws.getD i 0).toNat
  let pre := s.rf (Rf.POS_MK_PAD_PRE u)
  let pos := toSigned 64 (w 2) + s.cmpSign u * ((s.rf (Rf.POS_MK_OFS_OFFSET u) : Int) - pre)
  let span := s.bit (Rf.POS_MK_CFG_SPAN u)
  let len := if span then (toSigned 64 (w 3 + 2 ^ 64 - w 2)).natAbs + pre + s.rf (Rf.POS_MK_PAD_POST u) else 0
  let n (v : Nat) : Word := BitVec.ofNat 64 v
  ⟨BitVec.ofInt 64 pos, n (bitsOf (w 0) 32 32 + bitsOf (w 1) 0 32 * 2 ^ 32),
    n (len % 2 ^ 32 + s.headMask u (bitsOf (w 4) 0 20) (bitsOf (w 4) 20 20) * 2 ^ 32 + s.rf (Rf.POS_MK_CFG_LMASK u) * 2 ^ 48 +
      (if span then 2 ^ 56 else 0) + s.rf (Rf.POS_MK_CFG_CONFIRM u) * 2 ^ 57),
    n (bitsOf (w 0) 8 8)⟩

/-- Whether class `c` is selected by station `u`. -/
def State.markClass (s : State) (u c : Nat) : Bool := (s.rf (Rf.POS_MK_CLS_CLASSES u (c / 64))).testBit (c % 64)

/-- An entry joins the batch of its band, or where that is closed its unit's own; one without outputs is confirmed as NOHEAD,
one beyond the 4,096 of the batch as OVER. -/
def State.markBuild (s : State) (u n unit : Nat) (x : CmpEntry) : State :=
  let c := s.cmpU u
  if x.outMask = 0 ∧ x.lmask = 0 then
    ((s.confirmMark u x 5 0 0).bump (Rf.POS_MK_CNT_NOHEAD u)).markDrop u n (fun d => { d with nohd := d.nohd + 1 })
  else if 4096 ≤ (c.built.filter (fun e => e.band == n && (decide (c.band ≤ n) || e.unit == unit))).length then
    ((s.confirmMark u x 4 0 0).bump (Rf.POS_MK_CNT_OVER u)).markDrop u n (fun d => { d with ovr := d.ovr + 1 })
  else s.setCmpU u { c with built := c.built ++ [⟨n, unit, x⟩] }

/-- MARK_RECORD: the next packet of the mark chain. Outside INSPECT records are discarded (R405). -/
def State.markRecord (s : State) : State :=
  let chain := s.rf Rf.POS_MK_CHAINS_MARK_CHAIN
  let idx := (s.chain chain).seq
  match s.popPacket chain 113 with
  | some (ep, ws, s) =>
    let w0 := (ws.headD 0).toNat
    if s.mode = 3 ∧ w0 % 256 = 0x21 ∧ ws.length = 8 then
      let n := match s.pos.ends.find? (fun e => e.unit == ep - 64 && decide (idx < e.at')) with
        | some e => e.band
        | none => (s.wu ep).done
      (List.range 4).foldl (fun s u =>
        if s.bit (Rf.POS_MK_CFG_MK_EN u) && s.markClass u (bitsOf w0 8 8) then
          s.markBuild u n (ep - 64) (s.markEntry u ws) else s) s
    else s
  | none => s.popNone chain 113

def execMarkRecord (s : State) : Host.Outcome State Fault Refusal := .next s.markRecord

/-! ### Batches (R224, R225) -/

/-- Unit `v` has delivered its band-end item of band `n`: every packet before it has been taken off the mark chain. -/
def State.endDelivered (s : State) (v n : Nat) : Bool :=
  s.pos.ends.any (fun e => e.unit == v && e.band == n && decide (e.at' ≤ (s.chain (s.rf Rf.POS_MK_CHAINS_MARK_CHAIN)).seq))

/-- The forward position of an entry, and the order of a batch. -/
def State.fwdPos (s : State) (u : Nat) (x : CmpEntry) : Int := s.cmpSign u * toSigned 64 x.e0.toNat
def State.batchIns (s : State) (u : Nat) (x : CmpEntry) : List CmpEntry → List CmpEntry
  | [] => [x]
  | y :: ys =>
    if s.fwdPos u x < s.fwdPos u y ∨ (s.fwdPos u x = s.fwdPos u y ∧ x.tag < y.tag) then x :: y :: ys
    else y :: s.batchIns u x ys

/-- A batch appended in its order; an entry that finds the list full is confirmed as FULL. -/
def State.appendBatch (s : State) (u n : Nat) (xs : List CmpEntry) : State :=
  (xs.foldl (fun l x => s.batchIns u x l) []).foldl (fun s x =>
    if (s.cmpU u).list.length < 4096 then s.cmpPush u x
    else ((s.confirmMark u x 3 0 0).bump (Rf.POS_MK_CNT_FULL u)).markDrop u n (fun d => { d with full := d.full + 1 })) s

/-- The entries that `p` selects leave the batch and are appended. -/
def State.closeBatch (s : State) (u n : Nat) (p : MkEntry → Bool) : State :=
  let c := s.cmpU u
  let s := s.setCmpU u { c with built := c.built.filter (fun e => !p e) }
  (s.appendBatch u n ((c.built.filter p).map (·.ent))).tellDrops u n

/-- A unit whose band-end item of a band already closed has come in, with entries of that band waiting. -/
def State.lateBatch (s : State) (u : Nat) : Option MkEntry :=
  (s.cmpU u).built.find? (fun e => decide (e.band < (s.cmpU u).band) && s.endDelivered e.unit e.band)

/-- Every Sieve unit in service has delivered its band-end item of band `n`, or the band was lost. -/
def State.allEnds (s : State) (n : Nat) : Bool :=
  s.bandLost n || (List.range 32).all (fun v => !s.serving (64 + v) || s.endDelivered v n)

/-- A band already closed of which late entries were dropped, once the band-end items of all its units are in. -/
def State.lateDrops (s : State) (u : Nat) : Option MkDrops :=
  (s.cmpU u).drops.find? (fun d => decide (d.band < (s.cmpU u).band) && s.allEnds d.band)

/-- The first band a station that is enabled within a run can take records of: the first that no Sieve unit in service
has finished. -/
def State.firstOpen (s : State) : Nat :=
  match (List.range 32).filter (fun v => s.serving (64 + v)) with
  | [] => s.rf Rf.CAD_BAND_BAND
  | v :: vs => vs.foldl (fun m v => min m (s.wu (64 + v)).done) (s.wu (64 + v)).done

/-- A write of POS_MK_CFG that makes a unit a station (R222). -/
def State.stationConfig (s : State) (u : Nat) (was : Bool) : State :=
  if s.cadOn && !was && s.bit (Rf.POS_MK_CFG_MK_EN u) then s.setCmpU u { s.cmpU u with band := s.firstOpen } else s

/-- BATCH_CLOSE: a late unit's own batch, else the batch of the station's band, at its last band-end item or 1.5 µs
after the Sieve due time; a band whose due time lies too far back to be kept is past both, and a held band has none (R132). -/
def execBatchClose (u : Fin 4) (s : State) : Host.Outcome State Fault Refusal :=
  let n := (s.cmpU u).band
  let shut (s : State) : State :=
    let c := s.cmpU u
    (s.setCmpU u { c with band := n + 1 }).closeBatch u n (fun e => e.band == n)
  when' (s.bit (Rf.POS_MK_CFG_MK_EN u) && s.cadOn) s
    (match s.lateBatch u with
     | some e => s.closeBatch u e.band (fun x => x.band == e.band && x.unit == e.unit)
     | none =>
       match s.lateDrops u with
       | some d => s.tellDrops u d.band
       | none =>
         if s.allEnds n then shut s
         else match s.cad.due.find? (fun d => d.1 == n) with
           | some d => shut (s.advanceTo (d.2 + 1875))
           | none => if s.cad.due ≠ [] ∧ s.cad.due.all (fun d => decide (n < d.1)) ∧ s.bandHeld n = false then shut s else s)

end Sys2Proof.Machine
end

