-- ==== Sys2Proof/Machine/Output.lean ====
section
/-! DEFINITION. Pack's hardware: the record framers, the output router, and the host rings (10.1, 10.5, 10.6), with the
DMA windows of the brakes (Table 14.7). -/

namespace Sys2Proof.Machine

/-! ### Host memory behind the DMA windows (R400) -/

/-- An enabled window that permits the direction holds all `n` bytes from `a`. -/
def State.winOk (s : State) (wr : Bool) (a n : Nat) : Bool :=
  (List.range 16).any (fun w =>
    let b := s.rf (Rf.BRK_WIN0_BASE w) * 4096
    s.bit (if wr then Rf.BRK_WIN1_WR w else Rf.BRK_WIN1_RD w) && decide (b ≤ a) &&
      decide (a + n ≤ b + s.rf (Rf.BRK_WIN1_PAGES w) * 4096))

/-- An access outside the windows: counted, with event 0xB008 at most once a millisecond. -/
def State.winViolated (s : State) (a : Nat) : State :=
  let s := s.bump Rf.BRK_CNT2_DMAVIOL
  if s.due (stampKey 0xB008 0) (countsOfUs 1000) then (s.stamp (stampKey 0xB008 0)).raise 0xB008 a else s

/-- Write words to host memory, where the windows permit it; else the write is dropped. -/
def State.hostWrite (s : State) (a : Nat) (ws : List Word) : State :=
  if s.winOk true a (8 * ws.length) then
    { s with host := (ws.zipIdx).foldl (fun m w => writeLE m (a + 8 * w.2) w.1.toNat 8) s.host }
  else s.winViolated a

/-! ### Item types and which outputs select them (R293) -/

/-- The bit of TYPES that selects a type: none for a type that has none. -/
def typeBit : Nat → Option Nat
  | 0x10 => some 0
  | 0x11 => some 1
  | 0x21 => some 2
  | 0x22 => some 3
  | 0x23 => some 4
  | 0x30 => some 5
  | 0x40 => some 6
  | 0x50 => some 7
  | _ => none

def selects (types strips : Nat) (x : OutItem) : Bool :=
  (match typeBit x.typ with
   | some b => types.testBit b
   | none => false) && (match x.strip with
   | some k => strips.testBit k
   | none => true)

def State.ringSelects (s : State) (x : OutItem) (r : Nat) : Bool :=
  s.bit (Rf.PAK_RING_CFG_EN r) && selects (s.rf (Rf.PAK_RING_CFG_TYPES r)) (s.rf (Rf.PAK_RING_CFG_STRIPS r)) x
def State.strSelects (s : State) (x : OutItem) (st : Nat) : Bool :=
  s.bit (Rf.PAK_STR_CFG_EN st) && selects (s.rf (Rf.PAK_STR_CFG_TYPES st)) (s.rf (Rf.PAK_STR_CFG_STRIPS st)) x

/-- A stream segment of a band in gear G3 goes to no stream framer (R124, Table 4.3). -/
def State.noSegments (s : State) (x : OutItem) : Bool :=
  decide (x.typ = 0x40) && (match x.band with
    | some n => decide (s.packGear n = 3)
    | none => false)

/-- The modes in which items go to the streams: TEACH, INSPECT and STREAM (Table 15.1). -/
def State.acquires (s : State) : Bool := decide (2 ≤ s.mode) && decide (s.mode ≤ 4)

/-- The rings and the streams an item goes to. -/
def State.targets (s : State) (x : OutItem) : List Nat × List Nat :=
  let rs := (List.range 64).filter (s.ringSelects x)
  let ss := if s.acquires then (List.range 8).filter (fun st => s.strSelects x st && !s.noSegments x) else []
  if x.typ = 0x10 ∨ x.typ = 0x50 then (rs, ss) else (rs.take 1, ss.take 1)

/-! ### What the sources hold

Sources in the order of R294: 0 the band headers, 1 the record queue, 2 crop staging, 3 the event queue, 4 + k the output
chain of Pack unit k. -/

def State.hand (s : State) (src : Nat) : Option Hand := (s.out.hands.find? (fun h => h.1 == src)).map (·.2)

/-- What a source is placing; nothing is left to place where every output has it. -/
def State.setHand (s : State) (src : Nat) (h : Hand) : State :=
  let l := if h.rings = [] ∧ h.streams = [] then drop1 s.out.hands src else insert1 s.out.hands src h
  { s with out := { s.out with hands := l } }

/-- A source takes an item: one that no output selects is discarded and counted. -/
def State.take (s : State) (src : Nat) (x : OutItem) : State :=
  let t := s.targets x
  if t.1 = [] ∧ t.2 = [] then (if (List.range 8).any (s.strSelects x) then s else s.bump Rf.PAK_CNT_UNROUTED)
  else s.setHand src ⟨x, t.1, t.2⟩

/-- The next band header waiting is taken, once the one before it is placed. -/
def State.nextHeader (s : State) : State :=
  match s.out.hdrs, s.hand 0 with
  | x :: xs, none =>
    let s := { s with out := { s.out with hdrs := xs } }
    s.take 0 x
  | _, _ => s

/-- A band header of band `n` or an earlier one has still to be placed on an output, or to be built. -/
def State.headerOwed (s : State) (n : Nat) (here : Hand → Bool) (wants : Bool) : Bool :=
  wants && (decide (s.out.nextHdr ≤ n) ||
    s.out.hdrs.any (fun x => decide (x.band.getD 0 ≤ n)) ||
    (match s.hand 0 with
     | some h => decide (h.item.band.getD 0 ≤ n) && here h
     | none => false))

/-- A record waits in the record queue, or in its source's hand, for an output. -/
def State.recordOwed (s : State) (goes : List Nat × List Nat → Bool) : Bool :=
  s.out.recq.any (fun x => goes (s.targets { typ := x.typ, words := [], strip := x.strip, band := x.band })) || (match s.hand 1 with
    | some h => goes (h.rings, h.streams)
    | none => false)

/-- Whether an item of the source may be placed on ring `r` now (R294): records go ahead of the items of output chains and
crop staging, and the band header of its band before a segment or a crop. -/
def State.mayRing (s : State) (src r : Nat) (h : Hand) : Bool :=
  h.rings.contains r && (src < 4 && src ≠ 2 || (!s.recordOwed (fun t => t.1.contains r) && (match h.item.band with
    | some n => !s.headerOwed n (fun g => g.rings.contains r) ((s.rf (Rf.PAK_RING_CFG_TYPES r)).testBit 0)
    | none => true)))
def State.mayStream (s : State) (src st : Nat) (h : Hand) : Bool :=
  h.streams.contains st && (src < 4 && src ≠ 2 || (!s.recordOwed (fun t => t.2.contains st) && (match h.item.band with
    | some n => !s.headerOwed n (fun g => g.streams.contains st) ((s.rf (Rf.PAK_STR_CFG_TYPES st)).testBit 0)
    | none => true)))

/-! ### The test's back-pressure (R437) -/

/-- The pattern is in its ON time now. -/
def State.bpOn (s : State) : Bool :=
  let on := countsOfUs (s.rf Rf.TST_BP_ON_US)
  let off := countsOfUs (s.rf Rf.TST_BP_OFF_US)
  decide (0 < on) && decide ((s.count - s.tests.bpAt) % max 1 (on + off) < on)
def State.hostHeld (s : State) : Bool := s.bpOn && s.bit Rf.TST_BP_HOST
def State.portHeld (s : State) (p : Nat) : Bool := s.bpOn && s.bit (if p = 0 then Rf.TST_BP_SP0 else Rf.TST_BP_SP1)

/-! ### The record queue (R278, R279) -/

/-- A record of 8 words as an item: a defect record has the strip of its centroid. -/
def State.recordItem (s : State) (ws : List Word) : OutItem :=
  let typ := (ws.headD 0).toNat % 256
  let cx := (ws.getD 6 0).toNat % 2 ^ 32
  { typ := typ, words := ws, strip := if typ = 0x21 then some (s.stripAt (cx / 256)) else none }

/-- The record queue, and the crop staging area, in the hub. -/
def State.recArea (s : State) : HubArea := ⟨s.rf Rf.PAK_RECQ_BASE, s.rf Rf.PAK_RECQ_SIZE * 131072⟩
def State.cropArea (s : State) : HubArea := ⟨s.rf Rf.PAK_CSTG_BASE, s.rf Rf.PAK_CSTG_SIZE * 131072⟩

/-- A record of unit `u` into the record queue, or lost to a full one. -/
def State.queueRecord (s : State) (u : Nat) (ws : List Word) : State :=
  if s.out.recq.length < s.rf Rf.PAK_RECQ_SIZE * 16384 then
    let x := s.recordItem ws
    let k := s.out.recTo
    let s := s.putArea 0 u s.recArea k ws
    { s with out := { s.out with recq := s.out.recq ++ [⟨x.typ, x.strip, x.band, k, 8⟩], recTo := (k + 8) % s.recArea.words } }
  else (s.bump Rf.PAK_CNT_RECLOST).raise 0x600D u

/-- An item whose words the router reads from its area; those of a codeword beyond correction read 0 (R316). -/
def State.unstage (s : State) (cls : Nat) (r : HubArea) (x : Staged) : OutItem × State :=
  let q := s.getArea cls 117 r x.at' x.n
  (⟨x.typ, q.1, x.strip, x.band, s.badInArea r x.at' x.n⟩, q.2)

/-- A packet that is no record, or whose length does not match it. -/
def State.badPacket (s : State) (u : Nat) : State := (s.bump Rf.PAK_CNT_BADPKT).raise 0x6009 u

/-- The framer of Pack unit `k` frames a record: it requests a crop where a defect record asks for one. -/
def State.frame (s : State) (k : Nat) (ws : List Word) : State :=
  let w0 := (ws.headD 0).toNat
  let typ := w0 % 256
  if ws.length = 8 ∧ (typ = 0x21 ∨ typ = 0x22 ∨ typ = 0x23) then
    let cls := bitsOf w0 8 8
    let c := s.rf Rf.PAK_CHAINS_CREQ_BASE + k
    let ep := 96 + k
    let gear := (s.eng (s.rf (Rf.ENG_UNIT_ENGINE ep))).tok.gear
    let w7 := (ws.getD 7 0).toNat
    let crop := ws.set 7 (BitVec.ofNat 64 (w7 / 2 ^ 32 * 2 ^ 32 + bitsOf w0 32 32))
    if decide (typ = 0x21) && s.bit Rf.PAK_CROP_EN && (s.rf (Rf.PAK_CROPCLS_CLASSES (cls / 64))).testBit (cls % 64) &&
        decide (gear < 3) && s.chainEn c && s.isProducer c ep && decide (8 ≤ s.laneFree c ep) then
      (((s.push c ep crop).commit c ep)).queueRecord ep crop
    else s.queueRecord ep ws
  else s.badPacket (96 + k)

/-- RECORD_FRAME: framer `k` takes the next packet of its record chain; framer 0 takes one of CONF_CHAIN where its
record chain holds none. -/
def execRecordFrame (k : Fin 16) (s : State) : Host.Outcome State Fault Refusal :=
  .next (match s.popPacket (s.rf Rf.SIV_CHAINS_REC_BASE + k) (96 + k) with
    | some (_, ws, t) => t.frame k ws
    | none =>
      if k = 0 then
        match s.popPacket (s.rf Rf.POS_MK_CHAINS_CONF_CHAIN) 96 with
        | some (_, ws, t) => t.frame 0 ws
        | none => (s.popNone (s.rf Rf.SIV_CHAINS_REC_BASE) 96).popNone (s.rf Rf.POS_MK_CHAINS_CONF_CHAIN) 96
      else s.popNone (s.rf Rf.SIV_CHAINS_REC_BASE + k) (96 + k))

/-! ### Items of the output chains (R279) -/

/-- The length its record gives a packet. -/
def itemWords (ws : List Word) : Nat :=
  let w0 := (ws.headD 0).toNat
  if w0 % 256 = 0x40 then 8 + 8 * bitsOf w0 16 16
  else if w0 % 256 = 0x30 then 8 + 8 * bitsOf (ws.getD 3 0).toNat 32 12
  else 8

/-- A packet of an output chain as an item. -/
def State.chainItem (s : State) (ws : List Word) : OutItem :=
  let w (i : Nat) : Nat := (ws.getD i 0).toNat
  let typ := w 0 % 256
  if typ = 0x40 then
    let low := bitsOf (w 0) 32 32
    let n := s.out.nextHdr
    -- the band nearest the next band header whose low 32 bits these are
    let d := toSigned 32 (low + 2 ^ 32 - n % 2 ^ 32)
    { typ := typ, words := ws, strip := some (s.stripAt (w 7 % 2 ^ 20)), band := some (n + d).toNat }
  else if typ = 0x30 then { typ := typ, words := ws, band := some (w 1 / max 1 s.height) }
  else { s.recordItem ws with words := ws }

/-- The router takes a packet of an output chain, some of whose words may lie in a codeword beyond correction. -/
def State.routePacket (s : State) (k : Nat) (ws : List Word) (bad : List Nat) : State :=
  if ws.length ≠ itemWords ws then s.badPacket (96 + k)
  else
    let x := { s.chainItem ws with bad := bad }
    let routed := decide (s.targets x ≠ ([], []))
    let s := if routed ∧ (ws.headD 0).toNat % 256 = 0x40 ∧ (ws.getD 6 0).getLsbD 15 then s.raise 0x600A (96 + k) else s
    s.take (4 + k) x

/-- One item of a source, where the source's last is placed. -/
def State.outputItem (s : State) (src : OutSrc) : State :=
  match src with
  | .unit k =>
    if (s.hand (4 + k)).isSome then s
    else match s.popPacket (s.rf Rf.PAK_CHAINS_OUT_BASE + k) 117 with
      | some (_, ws, t) => t.routePacket k ws (s.packetBad (s.rf Rf.PAK_CHAINS_OUT_BASE + k))
      | none => s.popNone (s.rf Rf.PAK_CHAINS_OUT_BASE + k) 117
  | .stats =>
    match s.popPacket (s.rf Rf.PAK_CHAINS_STATS) 117 with
    | some (ep, ws, t) =>
      if ws.length = 8 ∧ (ws.headD 0).toNat % 256 = 0x11 then t.queueRecord ep ws else t.badPacket ep
    | none => s.popNone (s.rf Rf.PAK_CHAINS_STATS) 117
  | .records =>
    match s.out.recq, s.hand 1 with
    | x :: xs, none =>
      let r := s.unstage 0 s.recArea x
      if s.hubOpen then { r.2 with out := { s.out with recq := xs } }.take 1 r.1 else s
    | _, _ => s
  | .crops =>
    match s.out.crops, s.hand 2 with
    | x :: xs, none =>
      let r := s.unstage 2 s.cropArea x
      if s.hubOpen then { r.2 with out := { s.out with crops := xs } }.take 2 r.1 else s
    | _, _ => s

/-! ### Event records (Table 10.7) -/

/-- The event record of an event. -/
def eventWords (e : EvRec) (lost : Nat) : List Word :=
  let w (v : Nat) : Word := BitVec.ofNat 64 v
  [w (0x50 + e.code % 65536 * 2 ^ 16 + e.seq % 2 ^ 32 * 2 ^ 32), w e.time, w e.band, w e.a0, w e.a1, w e.a2,
    w (min lost (2 ^ 32 - 1)), 0]

/-- The router takes the next queued event, where the last is placed. -/
def State.routeEvent (s : State) : State :=
  match s.evq, s.hand 3 with
  | e :: es, none => { s with evq := es, evLost := 0 }.take 3 { typ := 0x50, words := eventWords e s.evLost }
  | _, _ => s

/-! ### Host rings (R295, R296) -/

def State.ring (s : State) (r : Nat) : RingSt := look (fun _ => {}) s.out.rings r
def State.setRing (s : State) (r : Nat) (x : RingSt) : State :=
  { s with out := { s.out with rings := put (fun _ => {}) s.out.rings r x } }

def State.ringUnits (s : State) (r : Nat) : Nat := 2 ^ s.rf (Rf.PAK_RING_CFG_SIZE_LOG r) / 64
def State.ringUsed (s : State) (r : Nat) : Nat :=
  (s.rf (Rf.PAK_RING_PROD_PROD r) + 2 ^ 40 - s.rf (Rf.PAK_RING_CONS_CONS r)) % 2 ^ 40
def State.ringFits (s : State) (r : Nat) (x : OutItem) : Bool :=
  decide (s.ringUsed r + x.words.length / 8 ≤ s.ringUnits r)

/-- The types that a full ring with FULLPOL = 1 discards. -/
def droppable (typ : Nat) : Bool := typ == 0x40 || typ == 0x30 || typ == 0x11 || typ == 0x50

/-- The units of an item, each at its place in the ring; what a poisoned word leaves in host memory is a free value (R316). -/
def State.ringStore (s : State) (r : Nat) (x : OutItem) : State :=
  let base := s.rf (Rf.PAK_RING_BASE_ADDR r)
  let at' := s.rf (Rf.PAK_RING_PROD_PROD r)
  let ws := x.bad.foldl (fun ws i => ws.set i (Config.freeWord (s.free + i))) x.words
  let s := if x.bad = [] then s else { s with free := s.free + ws.length }
  (List.range (ws.length / 8)).foldl (fun s i =>
    s.hostWrite (base + (at' + i) % s.ringUnits r * 64) ((ws.drop (8 * i)).take 8)) s

/-- The ring's interrupt. -/
def State.ringSignal (s : State) (r : Nat) : State :=
  (s.setRing r { s.ring r with unsig := 0, first := none }).signal (s.rf (Rf.PAK_RING_CFG_VECTOR r))

/-- An item that fits is written, then the producer index is written back, then the vector may be signalled. -/
def State.ringPut (s : State) (r : Nat) (x : OutItem) : State :=
  let n := x.words.length / 8
  let s := s.ringStore r x
  let s := s.setrf (Rf.PAK_RING_PROD_PROD r) ((s.rf (Rf.PAK_RING_PROD_PROD r) + n) % 2 ^ 40)
  let s := s.hostWrite (s.rf (Rf.PAK_RING_WB_ADDR r)) [BitVec.ofNat 64 (s.rf (Rf.PAK_RING_PROD_PROD r))]
  let g := s.ring r
  let s := s.setRing r { g with unsig := g.unsig + n, first := some (g.first.getD s.count) }
  if s.rf (Rf.PAK_RING_IRQ_THRESH r) ≤ g.unsig + n then s.ringSignal r else s

/-- The source whose item ring `r` takes next: the lowest whose item may be placed there. -/
def State.ringNext (s : State) (r : Nat) : Option (Nat × Hand) := s.out.hands.find? (fun h => s.mayRing h.1 r h.2)

/-- The item has left the source's hand for this ring. -/
def State.ringDone (s : State) (src r : Nat) (h : Hand) : State :=
  (s.setHand src { h with rings := h.rings.filter (· ≠ r) }).nextHeader

/-- RING_IRQ_TIMER: TIMER_US after the first unit not signalled. -/
def execRingIrqTimer (r : Fin 64) (s : State) : Host.Outcome State Fault Refusal :=
  .next (match (s.ring r).first with
    | some c => (s.advanceTo (c + countsOfUs (s.rf (Rf.PAK_RING_IRQ_TIMER_US r)))).ringSignal r
    | none => s)

/-- FULL_US of a ring counts the whole µs of the time an item has not fitted. -/
def State.settleFull (s : State) (r : Nat) : State :=
  match (s.ring r).fullAt with
  | some c =>
    let n := (s.count - c) / 1250
    (s.setRing r { s.ring r with fullAt := some (c + 1250 * n) }).bump (Rf.PAK_RING_CNT_FULL_US r) n
  | none => s

/-- The ring is no longer full. -/
def State.endFull (s : State) (r : Nat) : State :=
  let s := s.settleFull r
  s.setRing r { s.ring r with fullAt := none }

/-- RING_CONSUMER_WRITE: an index beyond PROD, or one that moves back, is ignored with event 0x6002. -/
def State.ringConsumer (s : State) (r v : Nat) : State :=
  let prod := s.rf (Rf.PAK_RING_PROD_PROD r)
  let v := v % 2 ^ 40
  if s.ringUsed r < (prod + 2 ^ 40 - v) % 2 ^ 40 then s.raise 0x6002 r 1
  else
    let s := s.setrf (Rf.PAK_RING_CONS_CONS r) v
    if s.out.hands.any (fun h => s.mayRing h.1 r h.2 && !s.ringFits r h.2.item) then s.settleFull r else s.endFull r

def execRingConsumerWrite (r : Fin 64) (v : BitVec 64) (s : State) : Host.Outcome State Fault Refusal :=
  .next (s.ringConsumer r v.toNat)

end Sys2Proof.Machine
end

