-- ==== Sys2Proof/Machine/HubHost.lean ====
section
/-! DEFINITION. Reads toward the host, in which a codeword in error is poisoned (R316), and bytes as cells. -/

namespace Sys2Proof.Machine

/-- A read toward the host: what a poisoned codeword holds is a free value. -/
def State.hubReadHost (s : State) (src a n : Nat) : State × List Host.Cell :=
  let m := min n (s.capacity - a)
  let bad := s.badWords a m
  let r := s.hubRead src a n
  bad.foldl (fun q k =>
    let v := q.1.freeBits 64
    let w := v.2.freeBits 64
    (w.2, ((cellsOf (16 * k) (v.1 + w.1 * 2 ^ 64) 16).filter (fun e => decide (a ≤ e.1) && decide (e.1 < a + m))).foldl
      (fun l e => insert1 l e.1 e.2) q.2)) r

/-- Cells as the bytes of a range. -/
def bytesOf (l : List Host.Cell) (a n : Nat) : List (BitVec 8) := (List.range n).map (fun i => look (fun _ => 0) l (a + i))

/-- Bytes as cells from an address. -/
def cellsAt (a : Nat) (bs : List (BitVec 8)) : List Host.Cell :=
  (bs.zipIdx.filter (fun e => decide (e.1 ≠ 0))).map (fun e => (a + e.2, e.1))

end Sys2Proof.Machine
end

