-- ==== Sys2Proof/Machine/Dma.lean ====
section
/-! DEFINITION. The DMA units: running a channel, its descriptors and bursts, the end of a list and appending; and the
read of a chain's counts (12.3, 12.5 to 12.8). -/

namespace Sys2Proof.Machine

/-! ### Fields -/

/-- A DMA unit's endpoint, and the number of a channel over all units. -/
def dmaEp (u : Nat) : Nat := 118 + u
def State.dmaCh (s : State) (u ch : Nat) : DmaCh := look (fun _ => {}) s.dma (16 * u + ch)
def State.setDma (s : State) (u ch : Nat) (x : DmaCh) : State := { s with dma := put (fun _ => {}) s.dma (16 * u + ch) x }
def State.dmaState (s : State) (u ch : Nat) : Nat := s.rf (Rf.DMA_STAT_STATE u ch)
def State.setDmaState (s : State) (u ch st : Nat) : State := s.setrf (Rf.DMA_STAT_STATE u ch) st

/-- A DMA event names the unit and the channel (R367). -/
def dmaEv (u ch : Nat) : Nat := ch + 256 * u

/-- The space and the address that the d2 form names (Table 12.2). -/
def d2Space (a : Word) : Nat := bitsOf a.toNat 0 2
def d2Addr (a : Word) : Nat := a.toNat / 32 * 32

/-- A descriptor as it is worked on. -/
abbrev DmaDesc := Word × Word × Word × Word

def DmaDesc.src (d : DmaDesc) : Nat := d.1.toNat
def DmaDesc.dst (d : DmaDesc) : Nat := d.2.1.toNat
def DmaDesc.next (d : DmaDesc) : Word := BitVec.ofNat 64 (d2Addr d.2.2.1 + d2Space d.2.2.1)
def DmaDesc.f (d : DmaDesc) (lo n : Nat) : Nat := bitsOf d.2.2.2.toNat lo n
def DmaDesc.len (d : DmaDesc) : Nat := d.f 0 32
def DmaDesc.ended (d : DmaDesc) : Bool := decide (d.f 32 1 = 1)
def DmaDesc.ssp (d : DmaDesc) : Nat := d.f 35 2
def DmaDesc.dsp (d : DmaDesc) : Nat := d.f 37 2

/-- A fixed address; SFIX and DFIX are ignored for chains (R356). -/
def DmaDesc.sfix (d : DmaDesc) : Bool := decide (d.f 33 1 = 1) && decide (d.ssp ≠ 2)
def DmaDesc.dfix (d : DmaDesc) : Bool := decide (d.f 34 1 = 1) && decide (d.dsp ≠ 2)

/-! ### Holding and leaving the unit (R359) -/

/-- The unit is free. -/
def State.dmaRelease (s : State) (u ch : Nat) : State :=
  if s.bit (Rf.DMA_UNIT_BUSY u) ∧ s.rf (Rf.DMA_UNIT_OWNER u) = ch then s.setrf (Rf.DMA_UNIT_BUSY u) 0 else s

/-- The packet a descriptor was making is rewound. -/
def State.dmaRewind (s : State) (u ch : Nat) : State :=
  match (s.dmaCh u ch).d with
  | some d => if DmaDesc.dsp d = 2 then s.rewind (DmaDesc.dst d % 256) (dmaEp u) else s
  | none => s

/-- A channel leaves its work for a state in which it holds no unit. -/
def State.dmaLeave (s : State) (u ch st : Nat) : State :=
  let s := s.dmaRewind u ch
  ((s.setDma u ch { s.dmaCh u ch with d := none, off := 0 }).setDmaState u ch st).dmaRelease u ch

/-- A channel stops with an error (R357): event 0x8005 with ERR and DMA_CUR. -/
def State.dmaError (s : State) (u ch code : Nat) : State :=
  ((s.dmaLeave u ch 6).setrf (Rf.DMA_STAT_ERR u ch) code).raise 0x8005 (dmaEv u ch) code (s.rf (Rf.DMA_CUR_ADDR u ch))

/-! ### Memory (R355, R357) -/

/-- The completion that the host port returns for a read is unsuccessful: whether it is, is the host's, and a free value here
(DESIGN CHOICE, log 180). -/
def State.hostFails (s : State) : Bool := (Config.freeWord s.free).getLsbD 0

/-- The error of an access of `n` bytes at `a` in a space, with what a refusal counts and raises: none where it may
be made. -/
def State.dmaBad (s : State) (u : Nat) (wr : Bool) (sp a n : Nat) : Option (Nat × State) :=
  if sp = 1 then
    if !s.bit Rf.GLB_STATUS_LINK then some (5, s)
    else if !s.winOk wr a n then some (3, s.winViolated a)
    else if !wr && s.hostFails then some (5, { s with free := s.free + 1 })
    else none
  else if s.capacity < a + n ∨ (wr = true ∧ a < userBase) then some (4, s.hubRefused (dmaEp u) a)
  else none

/-- The words of `n` bytes at `a`; toward the host a poisoned codeword is a free value. -/
def State.dmaGet (s : State) (u sp a n : Nat) (host : Bool) : List Word × State :=
  if sp = 1 then (cellWords s.host a (n / 8), { s with free := s.free + 1 })
  else
    let r := if host then s.hubReadHost (dmaEp u) a n else s.hubRead (dmaEp u) a n
    (cellWords r.2 a (n / 8), r.1)

/-- Store words at `a`. -/
def State.dmaPut (s : State) (u sp a : Nat) (ws : List Word) : State :=
  if sp = 1 then { s with host := (ws.zipIdx).foldl (fun m w => writeLE m (a + 8 * w.2) w.1.toNat 8) s.host }
  else s.hubWrite false (dmaEp u) a (8 * ws.length) (wordCells a ws)

/-! ### Starting and stopping (R358) -/

/-- A channel may be started, and its configuration written: it is IDLE, STOP_AT_END, STOPPED or ERROR. -/
def State.dmaRests (s : State) (u ch : Nat) : Bool := decide (s.dmaState u ch = 0) || decide (4 ≤ s.dmaState u ch)

def State.dmaStartOp (s : State) (u ch : Nat) : State :=
  if s.dmaRests u ch then
    let s := s.setDma u ch { next := BitVec.ofNat 64 (s.rf (Rf.DMA_HEAD_ADDR u ch)) }
    ((s.setrf (Rf.DMA_LAST_ADDR u ch) (s.rf (Rf.DMA_TAIL_ADDR u ch))).setrf (Rf.DMA_STAT_ERR u ch) 0).setDmaState u ch 1
  else s.raise 0x8006 (dmaEv u ch)

def State.dmaStopOp (s : State) (u ch : Nat) : State := if s.dmaRests u ch then s else s.dmaLeave u ch 5

def execDmaStart (u : Fin 4) (ch : Fin 16) (s : State) : Host.Outcome State Fault Refusal := .next (s.dmaStartOp u ch)
def execDmaStop (u : Fin 4) (ch : Fin 16) (s : State) : Host.Outcome State Fault Refusal := .next (s.dmaStopOp u ch)

/-- The channel a free unit takes: the next ready one in ascending number after the one that last held it. -/
def State.dmaReady (s : State) (u : Nat) : Option Nat :=
  ((List.range 16).map (fun i => (s.rf (Rf.DMA_UNIT_OWNER u) + 1 + i) % 16)).find? (fun ch => decide (s.dmaState u ch = 1))

def execDmaUnitGrant (u : Fin 4) (s : State) : Host.Outcome State Fault Refusal :=
  match s.dmaReady u with
  | some ch => when' (!s.bit (Rf.DMA_UNIT_BUSY u)) s
      (((s.setrf (Rf.DMA_UNIT_OWNER u) ch).setrf (Rf.DMA_UNIT_BUSY u) 1).setDmaState u ch 2)
  | none => .next s

/-! ### Fetching a descriptor (R354, R357, R360) -/

/-- The first error of Table 12.3 that a descriptor's words show. -/
def State.dmaCheck (s : State) (u : Nat) (d : DmaDesc) (appended : Bool) : Option Nat :=
  let sp (n : Nat) : Bool := decide (n = 3)
  let high (n a : Nat) : Bool := (n == 0 && decide (2 ^ 40 ≤ a)) || (n == 2 && decide (256 ≤ a))
  let off (n a : Nat) : Bool := decide (n < 2) && decide (a % 8 ≠ 0)
  if bitsOf d.2.2.1.toNat 2 3 ≠ 0 ∨ 2 ≤ d2Space d.2.2.1 ∨ d.f 41 23 ≠ 0 ∨ sp d.ssp ∨ sp d.dsp ∨ d.len = 0 ∨
      d.len % 8 ≠ 0 ∨ high d.ssp d.src ∨ high d.dsp d.dst then some 1
  else if off d.ssp d.src ∨ off d.dsp d.dst then some 2
  else if (d.ssp = 2 ∧ !(s.chainEn d.src && s.rf (Rf.CHN_CFG_CONS d.src) == dmaEp u)) ∨
      (d.dsp = 2 ∧ !(s.chainEn d.dst && s.isProducer d.dst (dmaEp u))) then some 6
  else if d.dsp = 2 ∧ min 4096 (s.share d.dst) < d.len / 8 then some 7
  else if appended ∧ !d.ended then some 8
  else none

/-- The channel begins a descriptor. -/
def State.dmaBegin (s : State) (u ch : Nat) (d : DmaDesc) (appended : Bool) : State :=
  let s := s.setrf (Rf.DMA_XFER_BYTES u ch) 0
  match s.dmaCheck u d appended with
  | some code => s.dmaError u ch code
  | none => (s.setDma u ch { s.dmaCh u ch with d := some d, half := false, full := false, off := 0 }).setDmaState u ch 2

/-- The next descriptor of a channel fed from a chain: a packet of four words, END clear. -/
def State.dmaFeed (s : State) (u ch : Nat) : State :=
  let c := s.rf (Rf.DMA_CFG_FEED_CHAIN u ch)
  if !s.chainEn c || s.rf (Rf.CHN_CFG_CONS c) ≠ dmaEp u then s.dmaError u ch 6
  else match s.popPacket c (dmaEp u) with
    | some (_, [a, b, c, d], s) => s.dmaBegin u ch (a, b, c, d &&& ~~~(1#64 <<< 32)) false
    | some (_, _, s) => s.bump (Rf.DMA_STAT_FEEDBAD u ch)
    | none => s.setDmaState u ch 3

/-- The next descriptor of a list. -/
def State.dmaFetch (s : State) (u ch : Nat) : State :=
  let x := s.dmaCh u ch
  let a := d2Addr x.next
  let s := s.setrf (Rf.DMA_CUR_ADDR u ch) x.next.toNat
  if 2 ≤ d2Space x.next ∨ bitsOf x.next.toNat 2 3 ≠ 0 then s.dmaError u ch 1
  else match s.dmaBad u false (d2Space x.next) a 32 with
    | some (code, s) => s.dmaError u ch code
    | none =>
      let r := s.dmaGet u (d2Space x.next) a 32 false
      let w (k : Nat) : Word := r.1.getD k 0
      let last := decide (r.2.rf (Rf.DMA_LAST_ADDR u ch) = x.next.toNat)
      let t := r.2.setDma u ch { x with appq := x.appq.filter (· ≠ x.next) }
      t.dmaBegin u ch (w 0, w 1, w 2, w 3) (x.appq.contains x.next && last)

/-- The channel that holds a unit. -/
def State.dmaOwner (s : State) (u : Nat) : Option Nat :=
  if s.bit (Rf.DMA_UNIT_BUSY u) then some (s.rf (Rf.DMA_UNIT_OWNER u)) else none

/-- Requests of a DMA unit move only while the hub serves them. -/
def execDmaDescriptorFetch (u : Fin 4) (s : State) : Host.Outcome State Fault Refusal :=
  match s.dmaOwner u with
  | some ch => when' (s.hubOpen && (s.dmaCh u ch).d.isNone) s
      (if s.bit (Rf.DMA_CFG_FEED u ch) then s.dmaFeed u ch else s.dmaFetch u ch)
  | none => .next s

/-! ### Bursts (R355, R356, R361 to R363) -/

/-- The request of a gated channel is asserted, or the channel is not gated. -/
def State.dmaAsked (s : State) (u ch : Nat) (d : DmaDesc) : Bool :=
  !s.bit (Rf.DMA_CFG_REQ_EN u ch) ||
    (match s.rf (Rf.DMA_CFG_REQSRC u ch) with
     | 1 => s.bit (Rf.POS_DIN_STAT_LEVEL (s.rf (Rf.DMA_CFG_REQ_DIN u ch)))
     | 2 => decide (d.ssp = 2) && decide (0 < (s.chain d.src).packets)
     | _ => true)

/-- `n` more bytes of the descriptor have moved: a half signal where the half is reached, and where they come from a chain
once the packet is whole. -/
def State.dmaMoved (s : State) (u ch n : Nat) (d : DmaDesc) (whole : Bool) : State :=
  let m := s.rf (Rf.DMA_XFER_BYTES u ch) + n
  let s := (s.setrf (Rf.DMA_XFER_BYTES u ch) m).setDmaState u ch 2
  let x := s.dmaCh u ch
  if d.f 39 1 = 1 ∧ !x.half ∧ whole ∧ roundUp (ceilDiv d.len 2) 8 ≤ m then
    ((s.setDma u ch { x with half := true }).setrf (Rf.DMA_STAT_HALF u ch) 1).signal (s.rf (Rf.DMA_CFG_VECTOR u ch))
  else s

/-- Push words one after another, up to the first that finds its lane full: how many went (R356, R435). -/
def State.pushSome (s : State) (c ep : Nat) : List Word → Nat × State
  | [] => (0, s)
  | w :: ws =>
    if s.pushWaits c ep 1 then (0, s)
    else
      let r := (s.push c ep [w]).pushSome c ep ws
      (r.1 + 1, r.2)

/-- The words of a burst to the destination, with `left` words of their packet behind them: how many went, with the state then. A
chain destination takes as many as its lane has room for, and none leaves the channel as it was `before`. -/
def State.dmaStore (s : State) (u ch : Nat) (d : DmaDesc) (ws : List Word) (left : Nat) (before : State) : Nat × State :=
  let m := s.rf (Rf.DMA_XFER_BYTES u ch)
  if d.dsp = 2 then
    if s.pushRefused d.dst (dmaEp u) then (0, (s.chainRefused d.dst (dmaEp u)).dmaError u ch 6)
    else
      let r := s.pushSome d.dst (dmaEp u) ws
      if r.1 = 0 then (0, before) else (r.1, r.2.dmaMoved u ch (8 * r.1) d (decide (left + (ws.length - r.1) = 0)))
  else
    let a := if d.dfix then d.dst else d.dst + m
    match s.dmaBad u true d.dsp a (8 * ws.length) with
    | some (code, s) => (0, s.dmaError u ch code)
    | none => (ws.length, (s.dmaPut u d.dsp a ws).dmaMoved u ch (8 * ws.length) d (decide (left = 0)))

/-- The bytes that the next burst has room for at byte `m` of the descriptor: it stops at 4 KiB of either address, and a fixed
address moves 8 bytes at a time. A chain sets no bound. -/
def State.dmaRoom (s : State) (u ch : Nat) (d : DmaDesc) : Nat :=
  let m := s.rf (Rf.DMA_XFER_BYTES u ch)
  let room (chain : Bool) (a : Nat) : Nat := if chain then 4096 else 4096 - (a + m) % 4096
  if d.sfix || d.dfix then 8
  else min (2 ^ s.rf (Rf.DMA_CFG_BURST_LOG u ch)) (min (room (decide (d.ssp = 2)) d.src) (room (decide (d.dsp = 2)) d.dst))

/-- The bytes of the next burst from a memory. -/
def State.dmaBurstLen (s : State) (u ch : Nat) (d : DmaDesc) : Nat :=
  min (d.len - s.rf (Rf.DMA_XFER_BYTES u ch)) (s.dmaRoom u ch d)

/-- The header word of the first packet of a chain, of `n` words (R356). -/
def State.packetHeader (s : State) (c n : Nat) : Word := BitVec.ofNat 64 (n + c * 2 ^ 16 + (s.chain c).seq % 2 ^ 32 * 2 ^ 32)

/-- The words from `off` of the first packet of a chain behind its header, `k` of them, read by a DMA unit: toward the host a
poisoned word is a free value. The packet is still on the chain. -/
def State.packetPart (s : State) (u : Nat) (d : DmaDesc) (off k : Nat) : List Word × State :=
  let c := d.src
  match (s.chain c).items with
  | [] => ([], s)
  | i :: _ =>
    let n := packetLen (s.chain c).items
    let hd := if off = 0 then [s.packetHeader c n] else []
    let at' := (i.slot + (off - 1)) % s.share c
    let k := k - hd.length
    let bad := if d.dsp = 1 then s.badInArea (s.chainLane c i.ep) at' k else []
    let r := s.getArea (s.chainClass c) (dmaEp u) (s.chainLane c i.ep) at' k
    let free := r.2.free
    let r := if k = 0 then ([], s) else r
    (hd ++ bad.foldl (fun ws j => ws.set j (Config.freeWord (free + j))) r.1,
      if bad = [] then r.2 else { r.2 with free := free + k })

/-- The first packet of a chain is taken off it. -/
def State.dropPacket (s : State) (c : Nat) : State :=
  let x := s.chain c
  let n := packetLen x.items
  s.setChain c { x with items := x.items.drop n, gone := x.gone - n, seq := x.seq + 1 }

/-- A burst of the first packet of a source chain, behind its header word: the packet leaves the chain with its last word. One that
does not fit ends the descriptor with one header word of 0, and at its start that is error 7. -/
def State.dmaPacket (s : State) (u ch : Nat) (d : DmaDesc) : State :=
  let m := s.rf (Rf.DMA_XFER_BYTES u ch)
  let x := s.dmaCh u ch
  let n := packetLen (s.chain d.src).items
  if s.popRefused d.src (dmaEp u) then (s.chainRefused d.src (dmaEp u)).dmaError u ch 6
  else if n = 0 then s.setDmaState u ch 3
  else if x.off ≠ 0 || decide (m + 8 + 8 * n ≤ d.len) then
    let k := min (n + 1 - x.off) (s.dmaRoom u ch d / 8)
    let r := s.packetPart u d x.off k
    let q := r.2.dmaStore u ch d r.1 (n + 1 - x.off - k) s
    if q.1 = 0 then q.2
    else if x.off + q.1 = n + 1 then (q.2.dropPacket d.src).setDma u ch { q.2.dmaCh u ch with off := 0 }
    else q.2.setDma u ch { q.2.dmaCh u ch with off := x.off + q.1 }
  else if m = 0 then s.dmaError u ch 7
  else
    let q := s.dmaStore u ch d [0] 0 s
    if q.1 = 0 then q.2 else q.2.setDma u ch { q.2.dmaCh u ch with full := true }

/-- One burst. -/
def State.dmaBurst (s : State) (u ch : Nat) (d : DmaDesc) : State :=
  let m := s.rf (Rf.DMA_XFER_BYTES u ch)
  if !s.dmaAsked u ch d then s.setDmaState u ch 3
  else if d.ssp = 2 then s.dmaPacket u ch d
  else
    let n := s.dmaBurstLen u ch d
    let a := if d.sfix then d.src else d.src + m
    match s.dmaBad u false d.ssp a n with
    | some (code, s) => s.dmaError u ch code
    | none =>
      let r := s.dmaGet u d.ssp a n (decide (d.dsp = 1))
      (r.2.dmaStore u ch d r.1 0 s).2

/-- The descriptor has moved all it will. -/
def State.dmaDone (s : State) (u ch : Nat) (d : DmaDesc) : Bool :=
  decide (s.rf (Rf.DMA_XFER_BYTES u ch) = d.len) || (s.dmaCh u ch).full

def execDmaBurst (u : Fin 4) (s : State) : Host.Outcome State Fault Refusal :=
  match s.dmaOwner u with
  | some ch =>
    match (s.dmaCh u ch).d with
    | some d => when' (s.hubOpen && !s.dmaDone u ch d) s (s.dmaBurst u ch d)
    | none => .next s
  | none => .next s

/-! ### Completion (R356, R358, R361) -/

/-- A descriptor completes: its packet is committed, it signals, and the channel goes on at NEXT or stops at END. -/
def State.dmaComplete (s : State) (u ch : Nat) (d : DmaDesc) : State :=
  let s := if d.dsp = 2 then s.commit d.dst (dmaEp u) else s
  let s := if d.f 40 1 = 1 then
      (s.setrf (Rf.DMA_STAT_FULL u ch) 1).signal (s.rf (Rf.DMA_CFG_VECTOR u ch)) else s
  let s := s.bump (Rf.DMA_STAT_DONE u ch)
  let s := s.setDma u ch { s.dmaCh u ch with d := none, next := d.next }
  if d.ended then ((s.setrf (Rf.DMA_LAST_ADDR u ch) (s.rf (Rf.DMA_CUR_ADDR u ch))).setDmaState u ch 4).dmaRelease u ch
  else s.setDmaState u ch 2

def execDmaDescriptorComplete (u : Fin 4) (s : State) : Host.Outcome State Fault Refusal :=
  match s.dmaOwner u with
  | some ch =>
    match (s.dmaCh u ch).d with
    | some d => when' (s.dmaDone u ch d) s (s.dmaComplete u ch d)
    | none => .next s
  | none => .next s

/-! ### Appending (R364) -/

/-- Half 1 of a descriptor with NEXT and its space replaced and END clear. -/
def linked (w2 w3 a : Word) : List Word := [(w2 &&& 0x1C#64) ||| (a &&& ~~~0x1C#64), w3 &&& ~~~(1#64 <<< 32)]

/-- The descriptor at DMA_LAST is rewritten to name `a`; none where the access is refused. -/
def State.dmaRewrite (s : State) (u ch : Nat) (a : Word) : State ⊕ (Nat × State) :=
  let last : Word := BitVec.ofNat 64 (s.rf (Rf.DMA_LAST_ADDR u ch))
  let at' := d2Addr last + 16
  match s.dmaBad u true (d2Space last % 2) at' 16 with
  | some e => .inr e
  | none =>
    let r := s.dmaGet u (d2Space last % 2) at' 16 false
    let t := r.2.dmaPut u (d2Space last % 2) at' (linked (r.1.getD 0 0) (r.1.getD 1 0) a)
    let x := t.dmaCh u ch
    .inl (match x.d with
      | some (d0, d1, d2, d3) =>
        let h := linked d2 d3 a
        if s.rf (Rf.DMA_CUR_ADDR u ch) = last.toNat then t.setDma u ch { x with d := some (d0, d1, h.getD 0 0, h.getD 1 0) } else t
      | none => t)

/-- `a` is the tail, and waits to be fetched. -/
def State.dmaTail (s : State) (u ch : Nat) (a : Word) : State :=
  let x := s.dmaCh u ch
  (s.setDma u ch { x with appq := x.appq ++ [a] }).setrf (Rf.DMA_LAST_ADDR u ch) a.toNat

/-- The channel starts, or restarts, at `a`. -/
def State.dmaGoAt (s : State) (u ch : Nat) (a : Word) : State :=
  (s.setDma u ch { s.dmaCh u ch with next := a }).setDmaState u ch 1

/-- The appends of this count: the sequencer handles them one at a time (DESIGN CHOICE, log 170). -/
def State.dmaAppends (s : State) (u ch : Nat) : Nat :=
  let x := s.dmaCh u ch
  if x.appAt = s.count then x.appN else 0

/-- The appends queued: those of this count, and those that wait for the hub (R322, R364). -/
def State.dmaQueued (s : State) (u ch : Nat) : Nat :=
  s.dmaAppends u ch + (s.hubU.held ++ s.hubU.waiting).countP (fun i => match i with
    | .dmaAppend v h _ => decide (v.val = u ∧ h.val = ch)
    | _ => false)

/-- DMA_APPEND, by the channel's state (Table 12.4). More than 16 appends at one count find the append queue full. -/
def State.dmaAppendOp (s : State) (u ch : Nat) (a : Word) : State :=
  let x := s.dmaCh u ch
  let n := s.dmaAppends u ch
  let st := s.dmaState u ch
  if 16 ≤ n then s.raise 0x8007 (dmaEv u ch)
  else
    let s := s.setDma u ch { x with appAt := s.count, appN := n + 1 }
    if st = 0 then
      ((s.dmaTail u ch a).setrf (Rf.DMA_HEAD_ADDR u ch) a.toNat).dmaGoAt u ch a
    else if 5 ≤ st then s.raise 0x8006 (dmaEv u ch)
    else match s.dmaRewrite u ch a with
      | .inl t => if st = 4 then (t.dmaTail u ch a).dmaGoAt u ch a else t.dmaTail u ch a
      | .inr (code, t) => t.dmaError u ch code

/-- DMA_APPEND as it is written: one that rewrites a descriptor in the hub is queued while the hub does not serve (R322),
and a 17th is ignored. -/
def State.dmaAppendAsk (s : State) (u : Fin 4) (ch : Fin 16) (a : Word) : State :=
  let st := s.dmaState u ch
  let inHub := decide (s.rf (Rf.DMA_LAST_ADDR u ch) % 2 = 0)
  if s.hubOpen ∨ st = 0 ∨ 5 ≤ st ∨ ¬ inHub then s.dmaAppendOp u ch a
  else if 16 ≤ s.dmaQueued u ch then s.raise 0x8007 (dmaEv u ch)
  else s.holdTx (.dmaAppend u ch a)

def execDmaAppend (u : Fin 4) (ch : Fin 16) (a : BitVec 64) (s : State) : Host.Outcome State Fault Refusal :=
  .next (s.dmaAppendAsk u ch a)

/-! ### The counts of a chain (R347, R348) -/

/-- CHN_CNT_READ: the words and packets not popped; the next commit may signal again. -/
def execChnCntRead (c : Fin 256) (s : State) : Host.Outcome State Fault Refusal :=
  let x := s.chain c
  let t := (s.setChain c { x with armed := true }).setrf (Rf.CHN_STAT_PEND c) 0
  .next { t with readData := BitVec.ofNat 64 (x.words % 2 ^ 32 + x.packets % 2 ^ 32 * 2 ^ 32) }

end Sys2Proof.Machine
end

