-- ==== Sys2Proof/Machine/Hub.lean ====
section
/-! DEFINITION. The hub's own commands: transactions and their classes, BAR2, scrubbing, refresh and self-refresh,
training and retraining, the transfer rate, migration and retirement (chapter 11). -/

namespace Sys2Proof.Machine

/-! ### Availability (R311, R322, R323) -/

def State.setHub (s : State) (h : HubUnit) : State := { s with hubU := h }

/-- The channels that are not failed. -/
def State.hubChannels (s : State) : List Nat := (List.range 50).filter (fun c => s.rf (Rf.HUB_CH_STAT_ROLE c) ≠ 4)

/-- Every channel in self-refresh, or none. -/
def State.allSr (s : State) (on : Bool) : State :=
  (List.range 50).foldl (fun s c => s.setrf (Rf.HUB_CH_STAT_SR c) (if on then 1 else 0)) s

/-! ### Transactions (R318, R322, R325, R328) -/

/-- The number a source is named by: its endpoint, or one of the numbers above them. -/
def State.srcNo (s : State) : HubSrc → Nat
  | .host => srcHost
  | .engine e => s.unitOf e
  | .dma u => 118 + u
  | .endpoint ep => ep
  | .mgt => srcMgt
  | .shadow => 0xFD

/-- The classes a source issues (Table 11.2): an engine moves pixels, and records to its chains; a lane logic also looks back
into the raw ring and fetches late (DEDUCED, log 137). -/
def mayIssue : HubSrc → List Nat
  | .host => [2]
  | .dma _ => [2]
  | .mgt => [3]
  | .shadow => [3]
  | .engine _ => [0, 1]
  | .endpoint ep =>
    if ep < 48 then [0, 1, 2] else if ep < 112 then [0, 1] else if ep = 114 then [0, 1] else if ep < 116 then [0]
    else if ep = 117 then [0, 2] else if ep < 122 then [2] else if ep = 122 then [3] else []

/-- A BAR2 read of a hub that serves: its data toward the host; one of the system area is counted. -/
def State.bar2Get (s : State) (addr n : Nat) : State :=
  let bad := s.badWords addr (min n (s.capacity - addr))
  let r := s.hubReadHost srcHost addr n
  let t := { r.1 with readBytes := bytesOf r.2 addr n, hubU := { r.1.hubU with poison := decide (bad ≠ []) } }
  if addr < userBase then t.hubRefused srcHost addr else t

/-- The channel performs the transaction: a read returns its data, toward the host with its poison. -/
def State.performTx (s : State) (src : HubSrc) (cls addr : Nat) (wr : Option (List (BitVec 8))) : State :=
  match wr with
  | some bs => s.writeAs (decide (src = .shadow)) cls (s.srcNo src) addr (min bs.length 128) (cellsAt addr (bs.take 128))
  | none =>
    if src = .host then s.bar2Get addr 128
    else
      let r := s.readAs cls (s.srcNo src) addr 128
      { r.1 with readBytes := bytesOf r.2 addr 128 }

/-- A transaction reaches its channel: one that finds no tag waits for one; it is held in SAFE, in STANDBY, during training
and before a forced slice, a TC0 transaction without a token waits for one, and any other is performed. -/
def State.hubTx (s : State) (again : Bool) (src : HubSrc) (cls : Fin 4) (addr : Nat) (wr : Option (List (BitVec 8))) : State :=
  let c := s.channelOf addr
  let i := Instr.hubTransaction src cls addr wr
  if !s.hubOpen || (s.rtForced c && decide (cls ≠ 0)) || !s.tagFree cls then s.holdTx i
  else if cls = 0 ∧ 64 ≤ s.tc0Spent c then
    if again then s.holdTx i else (s.holdTx i).tokenWait c
  else s.performTx src cls addr wr

/-- HUB_TRANSACTION: one aligned transaction of 128 bytes, in a class of its source. -/
def execHubTransaction (src : HubSrc) (cls : Fin 4) (addr : Nat) (wr : Option (List (BitVec 8))) (s : State) :
    Host.Outcome State Fault Refusal :=
  when' (s.hubU.on && decide (addr % 128 = 0) && (mayIssue src).contains cls.val) s (s.hubTx false src cls addr wr)

/-! ### BAR2 (R310, R311, R324) -/

/-- The channels of a range stop admission, or no tag is left for its class. -/
def State.bar2Waits (s : State) (addr n : Nat) : Bool :=
  (linesOf [(addr, n)]).any (fun a => s.rtForced (s.channelOf a)) || !s.tagFree 2

/-- A request that was held reaches the hub again: it goes on where the hub serves it, and else is held as before. -/
def State.retryOne (s : State) (i : Instr) : State :=
  match i with
  | .hubTransaction src cls addr wr => s.hubTx true src cls addr wr
  | .bar2Read addr n => if !s.hubOpen || s.bar2Waits addr n then s.holdTx i else s.bar2Get addr n
  | .bar2Write addr data =>
    if !s.hubOpen || s.bar2Waits addr data.length then s.holdTx i
    else s.hubWrite false srcHost addr data.length (cellsAt addr data)
  | .constReload e => if s.hubOpen then s.reloadNow e else s.holdTx i
  | .dmaAppend u ch a => s.dmaAppendAsk u ch a
  | _ => s

/-- Every request that waits is tried again: those of TC0 first, then the others that hold a tag, then those that wait for
one. -/
def State.retryHeld (s : State) : State :=
  let tc0 (i : Instr) : Bool := heldClass i == 0
  let l := s.hubU.held
  (l.filter tc0 ++ l.filter (fun i => !tc0 i) ++ s.hubU.waiting).foldl State.retryOne
    { s with hubU := { s.hubU with held := [], waiting := [] } }

/-- The bucket of a channel gains a token, one every 125 ns: a request that was kept for it takes it. -/
def State.gainToken (s : State) (c : Nat) : State :=
  let k := max (look (fun _ => 0) s.hubU.gains c + 1) (s.count * 4 / 625)
  let s := s.advanceTo (ceilDiv (k * 625) 4)
  let s := { s with hubU := { s.hubU with gains := insert1 s.hubU.gains c k } }
  match s.hubU.barred.find? (fun r => decide (r.1 / 16 = c) && decide (r.2.cls = 0)) with
  | some r => { s with hubU := { s.hubU with barred := s.hubU.barred.erase r } }.admitReqs [r]
  | none => { s with hubU := { s.hubU with spent := put (fun _ => 0) s.hubU.spent c (s.tc0Spent c - 1) } }

/-- TC0_TOKEN_GAIN: the channel's bucket gains a token, and a transaction waiting for it proceeds. -/
def execTc0TokenGain (c : Fin 50) (s : State) : Host.Outcome State Fault Refusal :=
  when' s.hubU.on s (s.gainToken c).retryHeld

/-- BAR2_READ: `n` bytes of hub data, or zeros while the hub is not reachable; a read of the system area and one that is
refused are counted. -/
def execBar2Read (addr n : Nat) (s : State) : Host.Outcome State Fault Refusal :=
  let s0 := { s with hubU := { s.hubU with poison := false }, readBytes := List.replicate n 0 }
  when' (s.bit Rf.GLB_STATUS_LINK) s
    (if !s.hubOpen then s0.hubRefused srcHost addr
     else if s.bar2Waits addr n then s.holdTx (.bar2Read addr n)
     else s0.bar2Get addr n)

/-- BAR2_WRITE: a posted write, or dropped while the hub is not reachable. -/
def execBar2Write (addr : Nat) (data : List (BitVec 8)) (s : State) : Host.Outcome State Fault Refusal :=
  when' (s.bit Rf.GLB_STATUS_LINK) s
    (if !s.hubOpen then s.hubRefused srcHost addr
     else if s.bar2Waits addr data.length then s.holdTx (.bar2Write addr data)
     else s.hubWrite false srcHost addr data.length (cellsAt addr data))

/-! ### Scrubbing, refresh, self-refresh and error windows (R317, R320, R321, R335) -/

/-- The codeword is stored on channel `c` in one of the `n` local granules from `q`. -/
def State.storedIn (s : State) (c q n k : Nat) : Bool :=
  s.channelOf (16 * k) == c && decide (q ≤ s.granule (16 * k) / 48) && decide (s.granule (16 * k) / 48 < q + n)

/-- Where the patrol reads next: a channel and a local granule of it. A patrol reads the channels in rising order. -/
def State.scrubNext (s : State) : Option (Nat × Nat) :=
  let on (c : Nat) : Nat × Nat := (c, s.hubU.scrubAt - c * 2 ^ 23)
  match s.hubChannels.find? (fun c => decide (s.hubU.scrubAt < (c + 1) * 2 ^ 23)) with
  | some c => some (on c)
  | none => s.hubChannels.head?.map (fun c => (c, 0))

/-- The count by which a patrol at a uniform rate has read the granules below `q` of channel `c`. -/
def State.scrubDue (s : State) (c q : Nat) : Nat :=
  let all := s.hubChannels.length * 2 ^ 23
  let done := (s.hubChannels.filter (fun d => decide (d < c))).length * 2 ^ 23 + q
  s.hubU.scrubT0 + countsOfUs (s.rf Rf.HUB_SCRUB_PERIOD_H * 3600000000) * done / max 1 all

/-- A batch reads a channel: it leaves self-refresh, and goes back to it where the hub is held there (R317). -/
def State.scrubWake (s : State) (c : Nat) : State :=
  if s.hubOpen then s.wake c else { s with hubU := { s.hubU with lastReq := insert1 s.hubU.lastReq c s.count } }

/-- The requests of a batch: two reads of TC3 for each local granule; of more than 16,384 granules the last ones count
(log 166). -/
def scrubReads (c q n : Nat) : List (Nat × BankReq) :=
  let k := min n 16384
  (List.range (2 * k)).map (fun i =>
    let q := q + n - k + i / 2
    (16 * c + bankOf q, { wr := false, row := rowOf q, col := colOf q, cls := 3 }))

/-- SCRUB_BATCH: the patrol reads on, `n` local granules of a channel; the batch that reaches the end of the last channel
ends a patrol. -/
def execScrubBatch (c : Fin 50) (granule n : Nat) (s : State) : Host.Outcome State Fault Refusal :=
  let m := min (granule + n) (2 ^ 23)
  let t := (((s.advanceTo (s.scrubDue c m)).writeBacks).scrubWake c).requests 3 (scrubReads c granule (m - granule))
  let t := t.noteErrs (t.hubU.errs.filter (fun e => s.storedIn c granule n e.1))
  let last := decide (m = 2 ^ 23) && decide (s.hubChannels.getLast? = some c.val)
  let t := t.setHub { t.hubU with scrubAt := if last then 0 else c.val * 2 ^ 23 + m,
                                  scrubT0 := if last then t.count else t.hubU.scrubT0 }
  when' (s.hubU.on && decide (s.scrubNext = some (c.val, granule))) s
    (if last then t.setrf Rf.HUB_SCRUB_PASSES (s.rf Rf.HUB_SCRUB_PASSES + 1) else t)

/-- The counts between two refreshes of a bank: 3.9 µs, or 1.95 µs while the stack sensor reads above 85 °C. -/
def State.refreshEvery (s : State) (c : Nat) : Nat := if 85 < toSigned 8 (s.rf (Rf.HUB_CH_STAT_TEMP c)) then 2438 else 4875

/-- A TC0 transaction that waits is for the bank. -/
def State.tc0Waits (s : State) (k : Nat) : Bool :=
  s.hubU.barred.any (fun r => decide (r.1 = k) && decide (r.2.cls = 0)) || (s.hubU.held ++ s.hubU.waiting).any (fun i => match i with
    | .hubTransaction _ cls addr _ => decide (cls = 0) && s.bankAt addr == k
    | _ => false)

/-- BANK_REFRESH: the refresh of a bank that is due is made where the bank is idle, and, once postponed, only while no TC0
request for it waits; one postponed by 8 intervals is made in any case. It takes 160 ns and closes the row
(R320; where its schedule stands after a postponement is DEDUCED, log 168). -/
def execBankRefresh (c : Fin 50) (b : Fin 16) (s : State) : Host.Outcome State Fault Refusal :=
  let k := 16 * c.val + b.val
  let every := s.refreshEvery c
  let due := look (fun _ => 0) s.hubU.refr k + every
  let t := s.advanceTo due
  let x := look (fun _ => ({} : BankSt)) s.hubU.banks k
  let x := BankSt.settle s.arb t.count x.queue.length x
  let idle := x.queue.isEmpty && decide (x.free ≤ t.count)
  let must := decide (due + 8 * every ≤ t.count)
  let go := must || (idle && (decide (t.count = due) || !s.tc0Waits k))
  let y := { x with row := none, free := max x.free t.count + 200 }
  when' (s.hubU.on && !s.bit (Rf.HUB_CH_STAT_SR c)) s
    (if go then t.setHub { t.hubU with banks := insert1 t.hubU.banks k y,
                                       refr := insert1 t.hubU.refr k (max due (t.count - 8 * every)) }
     else t)

/-- SELF_REFRESH_ENTRY: SR_IDLE_US after the channel's last request. -/
def execSelfRefreshEntry (c : Fin 50) (s : State) : Host.Outcome State Fault Refusal :=
  let idle := s.rf Rf.HUB_CFG_SR_IDLE_US
  let inPass := match s.hubU.pass with
    | some p => p.ch == c.val
    | none => false
  when' (s.hubOpen && decide (idle ≠ 0) && s.bit (Rf.HUB_CH_CFG_SR_EN c) && !s.bit (Rf.HUB_CH_STAT_SR c) && !inPass) s
    ((s.advanceTo (look (fun _ => 0) s.hubU.lastReq c + countsOfUs idle)).setrf (Rf.HUB_CH_STAT_SR c) 1)

/-- CORRECTED_ERROR_WINDOW_END: WIN_MS after it began the window of a channel ends: its count is reported, and counting starts
again. -/
def execCorrectedErrorWindowEnd (c : Fin 50) (s : State) : Host.Outcome State Fault Refusal :=
  let w := look (fun _ => 0) s.hubU.win c
  let t := s.advanceTo (look (fun _ => 0) s.hubU.winAt c + countsOfUs (1000 * s.rf Rf.HUB_ERR_WIN_MS))
  .next ({ t with hubU := { t.hubU with win := put (fun _ => 0) t.hubU.win c 0, crossed := t.hubU.crossed.filter (· ≠ c.val),
                                        winAt := insert1 t.hubU.winAt c t.count } }.setrf
    (Rf.HUB_CH_ERR_WIN_LAST c) (min w 0xFFFF))

/-! ### Migration and retirement (R335 to R337) -/

/-- The queued slots start in their order, up to the first whose copy begins. -/
def State.startQueued : List Nat → State → State
  | [], s => s
  | k :: q, s =>
    let t := ({ s with hubU := { s.hubU with migQ := q } }.setrf Rf.HUB_MIGSTAT_QUEUED (2 ^ q.length - 1)).startMigration k
    if t.bit Rf.HUB_MIGSTAT_ACTIVE then t else State.startQueued q t

/-- The next queued slot starts. -/
def State.nextMigration (s : State) : State := State.startQueued s.hubU.migQ s

/-- A deferred retirement starts once the cadence unit has stopped. -/
def State.hubCadStop (s : State) : State :=
  match s.hubU.deferred with
  | some k => ({ s with hubU := { s.hubU with deferred := none } }.setrf Rf.HUB_STAT_DEFER 0).triggerMigration k
  | none => s

/-- MIG_REQ: HUB_CTRL queues a migration, or a retirement, of a slot; a slot above 47 is ignored with event 0x7009, and
a slot retired already has nothing left to copy. -/
def State.hubIgnored (s : State) (off : Nat) : State := s.raise 0x7009 (hubEv 0xFF 0xFF) off

def execMigReq (slot : BitVec 6) (s : State) : Host.Outcome State Fault Refusal :=
  .next (if 47 < slot.toNat then s.hubIgnored 0x30
    else if !s.hubU.on || (s.bit Rf.HUB_STAT_RETIRED && s.rf Rf.HUB_STAT_RSLOT == slot.toNat) then s
    else s.triggerMigration slot.toNat)

/-- The granules a copy moves: a slot's, or those of it below the top 2 GiB. -/
def State.copyLength (s : State) : Nat :=
  if s.bit Rf.HUB_MIGSTAT_RELOC then
    topBlock + (if posOf (s.rf Rf.HUB_MIGSTAT_SLOT) topBlock < 16 then 1 else 0)
  else 2 ^ 23

/-- The granule of rank `q` is written where it is copied to, by two transactions of TC3. -/
def State.copyWrites (s : State) (q : Nat) : State :=
  let slot := s.rf Rf.HUB_MIGSTAT_SLOT
  let g := relocated slot (48 * q + posOf slot q)
  let (c, q) := if !s.bit Rf.HUB_MIGSTAT_RELOC then (s.rf Rf.HUB_MIGSTAT_TARGET, q)
    else (s.rf (Rf.HUB_MAP_PHYS (slotOf g)), g / 48)
  let r : Nat × BankReq := (16 * c + bankOf q, { wr := true, row := rowOf q, col := colOf q, cls := 3 })
  (s.wake c).requests 3 [r, r]

/-- The copier's next granule may not come before its rate permits: RATE GB/s, 256 bytes at a time. -/
def State.copyPace (s : State) : State :=
  let t := s.advanceTo (s.hubU.copyAt + ceilDiv 320 (max 1 (s.rf Rf.HUB_MIG_RATE)))
  { t with hubU := { t.hubU with copyAt := t.count } }

/-- MIGRATION_COPY: the copier reads the next granule, with correction, and writes it to its target. -/
def execMigrationCopy (s : State) : Host.Outcome State Fault Refusal :=
  let q := s.rf Rf.HUB_MIGSTAT_POINTER
  let g := 48 * q + posOf (s.rf Rf.HUB_MIGSTAT_SLOT) q
  when' (s.hubOpen && s.bit Rf.HUB_MIGSTAT_ACTIVE && decide (q < s.copyLength)) s
    (((s.copyPace.noteRead 3 (256 * g) 256).copyWrites q).setrf Rf.HUB_MIGSTAT_POINTER (q + 1))

/-- The slot map switches to the target of the copy, and the source is never used again. -/
def State.endMigration (s : State) : State :=
  let slot := s.rf Rf.HUB_MIGSTAT_SLOT
  let src := s.rf (Rf.HUB_MAP_PHYS slot)
  let dst := s.rf Rf.HUB_MIGSTAT_TARGET
  let t := (s.setrf (Rf.HUB_MAP_PHYS slot) dst).setrf Rf.HUB_MIGSTAT_ACTIVE 0
  let t := ((t.setrf (Rf.HUB_CH_STAT_ROLE src) 4).setrf (Rf.HUB_CH_STAT_ROLE dst) 0).setrf (Rf.HUB_CH_STAT_SLOT dst) slot
  let t := (t.setrf (Rf.HUB_CH_STAT_DEGRADED src) 0).setrf (Rf.HUB_CH_STAT_DEGRADED dst) 0
  t.raise 0x7005 (hubEv src slot) dst

/-- The slot being relocated is retired. -/
def State.endRetirement (s : State) : State :=
  let slot := s.rf Rf.HUB_MIGSTAT_SLOT
  let src := s.rf (Rf.HUB_MAP_PHYS slot)
  let t := ((s.setrf Rf.HUB_MIGSTAT_ACTIVE 0).setrf Rf.HUB_MIGSTAT_RELOC 0).setrf (Rf.HUB_CH_STAT_ROLE src) 4
  let t := (t.setrf Rf.HUB_STAT_RETIRED 1).setrf Rf.HUB_STAT_RSLOT slot
  t.raise 0x7007 (hubEv src slot)

/-- MIGRATION_COMPLETE: the pointer has passed the slot's last granule. -/
def execMigrationComplete (s : State) : Host.Outcome State Fault Refusal :=
  when' (s.bit Rf.HUB_MIGSTAT_ACTIVE && !s.bit Rf.HUB_MIGSTAT_RELOC && decide (s.rf Rf.HUB_MIGSTAT_POINTER = s.copyLength)) s
    s.endMigration.nextMigration

/-- RETIREMENT_COMPLETE: the slot is retired. -/
def execRetirementComplete (s : State) : Host.Outcome State Fault Refusal :=
  when' (s.bit Rf.HUB_MIGSTAT_ACTIVE && s.bit Rf.HUB_MIGSTAT_RELOC && decide (s.rf Rf.HUB_MIGSTAT_POINTER = s.copyLength)) s
    s.endRetirement.nextMigration

/-! ### Training (R329, R332, R337) -/

/-- Setting `k` of a channel, its read delays in 0 to 71 and its thresholds in 72 to 143: where its last training put it,
a free value, and its moves since. -/
def State.tapOf (s : State) (c k : Nat) : Int :=
  (Config.freeWord (look (fun _ => 0) s.hubU.base c + k)).toNat % 256 + look (fun _ => 0) s.hubU.taps (144 * c + k)

/-- The settings of a channel shown in HUB_CH_TAP. -/
def State.showTaps (s : State) (c win : Nat) : State :=
  let v (lo : Nat) : List Int := (List.range 72).map (fun k => s.tapOf c (lo + k))
  let least (l : List Int) : Nat := (l.foldl min 255).toNat
  let most (l : List Int) : Nat := (l.foldl max 0).toNat
  let s := (s.setrf (Rf.HUB_CH_TAP_RDLY_MIN c) (least (v 0))).setrf (Rf.HUB_CH_TAP_RDLY_MAX c) (most (v 0))
  let s := (s.setrf (Rf.HUB_CH_TAP_VREF_MIN c) (least (v 72))).setrf (Rf.HUB_CH_TAP_VREF_MAX c) (most (v 72))
  s.setrf (Rf.HUB_CH_TAP_WIN_MIN c) (min win 255)

/-- A pass or a training of a channel has ended. -/
def State.calDone (s : State) (c : Nat) : State :=
  let s := s.bump (Rf.HUB_CH_CAL_COUNT c)
  let s := (s.setrf (Rf.HUB_CH_CALT_TIME_NS c) (s.now % 2 ^ 32)).setrf (Rf.HUB_CH_CALT_WRAP c) (s.now / 2 ^ 32)
  let temp := toSigned 8 (s.rf (Rf.HUB_CH_STAT_TEMP c))
  s.setHub { s.hubU with calAt := insert1 s.hubU.calAt c s.count, calTemp := insert1 s.hubU.calTemp c temp }

/-- A channel trained with success: its settings are free values. -/
def State.trained (s : State) (c : Nat) : State :=
  let own := s.hubU.taps.filter (fun e => e.1 / 144 ≠ c)
  let h := { s.hubU with base := insert1 s.hubU.base c s.free, taps := own }
  let w := ({ s with free := s.free + 144 }.setHub h).freeBits 8
  let s := (w.2.setrf (Rf.HUB_CH_STAT_DEGRADED c) 0).setrf (Rf.HUB_CH_STAT_RTFAIL c) 0
  (s.showTaps c w.1).calDone c

/-- The hub can still replace or retire one more channel: a spare is free that no queued migration takes, or a slot may retire. -/
def State.canReplace (s : State) : Bool :=
  let spares := ((List.range 50).filter (fun d => decide (s.rf (Rf.HUB_CH_STAT_ROLE d) = 1))).length
  let last := if s.bit Rf.HUB_STAT_RETIRED || (s.bit Rf.HUB_MIGSTAT_ACTIVE && s.bit Rf.HUB_MIGSTAT_RELOC) then 0 else 1
  decide (s.hubU.migQ.length < spares + last)

/-- A second slot is left unserved: the module refuses every mode change. -/
def State.leaveUnserved (s : State) (c slot : Nat) : State :=
  { s with modes := { s.modes with unslot := true } }.raise 0x700C (hubEv c slot)

/-- A channel that fails its initial training (R337): an active one is replaced by a spare, or its slot is retired, or,
where a second slot would retire, the module stays in STANDBY with event 0x700C. An empty hub's channels are replaced at once;
those of a hub with contents, after a switch of its rate, by a copy (R335, R336). A copy in progress whose target fails begins
again to the next spare, and one whose source fails is over: its slot is the target's, or retired (DEDUCED, log 104). -/
def State.trainFailed (s : State) (failed : List Nat) (c : Nat) : State :=
  let role := s.rf (Rf.HUB_CH_STAT_ROLE c)
  let slot := s.rf (Rf.HUB_CH_STAT_SLOT c)
  let t := s.setrf (Rf.HUB_CH_STAT_ROLE c) 4
  if role = 1 then t.setrf Rf.HUB_STAT_SPARES (s.rf Rf.HUB_STAT_SPARES - 1)
  else if role = 4 then s
  else if role = 3 then
    ((t.setrf Rf.HUB_MIGSTAT_ACTIVE 0).setrf (Rf.HUB_CH_STAT_ROLE (s.rf (Rf.HUB_MAP_PHYS (s.rf Rf.HUB_MIGSTAT_SLOT)))) 0).startMigration
      (s.rf Rf.HUB_MIGSTAT_SLOT)
  else if role = 2 ∧ s.bit Rf.HUB_MIGSTAT_ACTIVE then
    (if s.bit Rf.HUB_MIGSTAT_RELOC then s.endRetirement else s.endMigration).nextMigration
  else if s.hubU.on then (if s.canReplace then s.triggerMigration slot else s.leaveUnserved c slot)
  else
    match (List.range 50).find? (fun d => decide (s.rf (Rf.HUB_CH_STAT_ROLE d) = 1) && !failed.contains d) with
    | some d =>
      let t := ((t.setrf (Rf.HUB_MAP_PHYS slot) d).setrf (Rf.HUB_CH_STAT_ROLE d) 0).setrf (Rf.HUB_CH_STAT_SLOT d) slot
      t.setrf Rf.HUB_STAT_SPARES (s.rf Rf.HUB_STAT_SPARES - 1)
    | none =>
      if s.bit Rf.HUB_STAT_RETIRED then s.leaveUnserved c slot
      else
        let t := (t.setrf Rf.HUB_STAT_RETIRED 1).setrf Rf.HUB_STAT_RSLOT slot
        (t.raise 0x7006 (hubEv c slot)).raise 0x7007 (hubEv c slot)

/-- The initial training of every active and spare channel; the spares that fail it take no channel's place. -/
def State.trainAll (s : State) (failed : List (Fin 50)) : State :=
  let bad := failed.map (·.val)
  let s := (s.hubChannels.filter (fun c => !bad.contains c)).foldl State.trained s
  let spare (c : Nat) : Bool := decide (s.rf (Rf.HUB_CH_STAT_ROLE c) = 1)
  (bad.filter spare ++ bad.filter (fun c => !spare c)).foldl (fun s c => s.trainFailed bad c) s

/-! ### Retraining (R330 to R333) -/

/-- A channel may take a pass. -/
def State.rtMay (s : State) (c : Nat) : Bool :=
  s.bit (Rf.HUB_CH_CFG_RT_EN c) && !s.bit (Rf.HUB_CH_STAT_SR c) && decide (s.rf (Rf.HUB_CH_STAT_ROLE c) ≤ 1)

/-- The count at which a channel's interval is over. -/
def State.rtAt (s : State) (c : Nat) : Nat :=
  look (fun _ => 0) s.hubU.calAt c + countsOfUs (1000 * s.rf Rf.HUB_RT_INTERVAL_MS)

/-- A channel is due for a pass. -/
def State.rtDue (s : State) (c : Nat) : Bool :=
  s.rtMay c && (decide (s.rtAt c ≤ s.count) ||
    decide (s.rf Rf.HUB_RT_DTEMP ≤
      (toSigned 8 (s.rf (Rf.HUB_CH_STAT_TEMP c)) - look (fun _ => 0) s.hubU.calTemp c).natAbs))

/-- RETRAIN_PASS_START: the lowest channel that is due starts a pass. -/
def execRetrainPassStart (c : Fin 50) (s : State) : Host.Outcome State Fault Refusal :=
  let t := if (List.range 50).any s.rtDue then s else s.advanceTo (s.rtAt c)
  let own := t.hubU.taps.filter (fun e => e.1 / 144 = c.val)
  when' (s.hubOpen && s.hubU.pass.isNone && decide ((List.range 50).find? t.rtDue = some c.val)) s
    { t with hubU := { t.hubU with pass := some { ch := c, slice := 0, good := true, since := t.count, before := own, winMin := 255 } } }

/-- RETRAIN_FORCE: after FORCE_US of waiting the channel stops admitting all but TC0 until the slice has run. -/
def execRetrainForce (c : Fin 50) (s : State) : Host.Outcome State Fault Refusal :=
  match s.hubU.pass with
  | some p =>
    let t := s.advanceTo (p.since + countsOfUs (s.rf Rf.HUB_RT_FORCE_US))
    when' (p.ch == c.val && !p.forced) s { t with hubU := { t.hubU with pass := some { p with forced := true } } }
  | none => .next s

/-- The settings of a channel as they were before its pass. -/
def State.restoreTaps (s : State) (p : RtPass) : State :=
  let others := s.hubU.taps.filter (fun e => e.1 / 144 ≠ p.ch)
  s.setHub { s.hubU with taps := p.before.foldl (fun l e => insert1 l e.1 e.2) others }

/-- The transfer rate changes, with every channel in self-refresh, which they all leave, and the training at the new rate
begins (R334). -/
def State.switchRate (s : State) (r : Nat) : State :=
  (({ s with hubU := { s.hubU with newRate := none } }.setrf Rf.HUB_FREQ_PENDING 0).setrf Rf.HUB_FREQ_CUR r).setrf
    Rf.HUB_STAT_TRAINING 1 |>.allSr false

/-- The end of a pass: its results count, or it has failed and leaves every setting as it was, or they are discarded
by a switch of the transfer rate that waited for it. -/
def State.passDone (s : State) (p : RtPass) : State :=
  let c := p.ch
  let slot := s.slotName c
  let s := { s with hubU := { s.hubU with pass := none } }
  match s.hubU.newRate with
  | some r => ((s.restoreTaps p).raise 0x700E (hubEv c slot)).switchRate r
  | none =>
    if p.good then ((s.setrf (Rf.HUB_CH_STAT_RTFAIL c) 0).showTaps c p.winMin).calDone c
    else
      let again := s.bit (Rf.HUB_CH_STAT_DEGRADED c)
      let s := ((s.restoreTaps p).setrf (Rf.HUB_CH_STAT_DEGRADED c) 1).bump (Rf.HUB_CH_STAT_RTFAIL c)
      let s := ((s.bump (Rf.HUB_CH_CAL_FAILS c)).calDone c).raise 0x7003 (hubEv c slot)
      if again ∧ s.rf (Rf.HUB_CH_STAT_ROLE c) = 0 then s.triggerMigration slot else s

/-- The window of lane `k`: how far above the present setting twice its centre lies, and its width. -/
def sliceCentre (m : SliceMeasure) (k : Nat) : Int := m.lo.getD k 0 + m.hi.getD k 0
def sliceWidth (m : SliceMeasure) (k : Nat) : Nat := (m.hi.getD k 0 - m.lo.getD k 0 + 1).toNat

/-- One slice's moves, each at most one step toward the window's centre where that lies a step away: the read delays in slices 0
to 7, the thresholds in slices 8 to 15. -/
def State.moveTaps (s : State) (c slice : Nat) (m : SliceMeasure) : State :=
  let lo := if slice < 8 then 0 else 72
  (List.range 72).foldl (fun s k =>
    let d : Int := if sliceWidth m k = 0 ∨ -2 < sliceCentre m k ∧ sliceCentre m k < 2 then 0 else clampInt (-1) 1 (sliceCentre m k)
    let v := s.tapOf c (lo + k) + d
    if v < 0 ∨ 255 < v then s
    else
      let i := 144 * c + lo + k
      s.setHub { s.hubU with taps := put (fun _ => 0) s.hubU.taps i (look (fun _ => 0) s.hubU.taps i + d) }) s

/-- The count at which every request that a channel's banks have accepted has retired. -/
def State.quietAt (s : State) (c : Nat) : Nat :=
  (List.range 16).foldl (fun m b =>
    let x := look (fun _ => ({} : BankSt)) s.hubU.banks (16 * c + b)
    if x.queue.isEmpty then m else max m (x.free + 10 * x.queue.length)) 0

/-- RETRAIN_SLICE: one slice of the channel's pass, which starts when the channel's queues are empty. -/
def execRetrainSlice (c : Fin 50) (m : SliceMeasure) (s : State) : Host.Outcome State Fault Refusal :=
  match s.hubU.pass with
  | some p =>
    let t := (s.advanceTo (s.quietAt c)).moveTaps c p.slice m
    let q := { p with slice := p.slice + 1, good := p.good && (List.range 72).all (fun k => decide (sliceWidth m k ≠ 0)),
                      since := t.count, winMin := (List.range 72).foldl (fun w k => min w (sliceWidth m k)) p.winMin, forced := false }
    let t := if p.slice = 15 then t.passDone q else { t with hubU := { t.hubU with pass := some q } }
    when' (p.ch == c.val && s.hubOpen) s (t.unbar c).retryHeld
  | none => .next s

/-! ### The transfer rate (R334) -/

/-- FREQUENCY_SWITCH: a write of HUB_FREQ.RATE. In STANDBY and SAFE, where the channels stay in self-refresh, the switch waits
until STANDBY is left (DEDUCED, log 108). -/
def execFrequencySwitch (rate : BitVec 2) (s : State) : Host.Outcome State Fault Refusal :=
  let r := rate.toNat
  .next (if s.cadOn || decide (r = 3) then s.hubIgnored 0x08
    else if r = s.rf Rf.HUB_FREQ_CUR then s
    else
      let s := s.setrf Rf.HUB_FREQ_RATE r
      if !s.hubU.on then { s with hubU := { s.hubU with newRate := some r } }.setrf Rf.HUB_FREQ_CUR r
      else if s.hubU.pass.isSome || s.bit Rf.HUB_STAT_TRAINING || !s.active then
        { s with hubU := { s.hubU with newRate := some r } }.setrf Rf.HUB_FREQ_PENDING 1
      else s.switchRate r)

/-- The training at a new rate is complete: another switch that waited for it begins, or the requests that waited go on. -/
def State.switchDone (s : State) (failed : List (Fin 50)) : State :=
  let t := ((s.trainAll failed).setrf Rf.HUB_STAT_TRAINING 0).raise 0x700B (hubEv 0xFF 0xFF)
  match t.hubU.newRate with
  | some r => t.switchRate r
  | none => t.retryHeld

end Sys2Proof.Machine
end

