-- ==== Sys2Proof/Machine/Streams.lean ====
section
/-! DEFINITION. The stream ports: how items become datagrams, retention, launching and slots, acknowledgements, probes,
the rate brake, and the links (10.7, 13.4, R400); and what places items, on rings and streams alike. -/

namespace Sys2Proof.Machine

/-! ### Accessors -/

def State.str (s : State) (st : Nat) : StreamSt := look (fun _ => {}) s.out.streams st
def State.setStr (s : State) (st : Nat) (x : StreamSt) : State :=
  { s with out := { s.out with streams := put (fun _ => {}) s.out.streams st x } }
def State.sp (s : State) (p : Nat) : StrPort := look (fun _ => {}) s.out.ports p
def State.setSp (s : State) (p : Nat) (x : StrPort) : State :=
  { s with out := { s.out with ports := put (fun _ => {}) s.out.ports p x } }

/-- Streams 0 to 3 use port 0, streams 4 to 7 port 1. -/
def strPortOf (st : Nat) : Nat := st / 4

/-! ### Datagrams (R299) -/

def State.strV6 (s : State) (st : Nat) : Bool := s.bit (Rf.PAK_STR_CFG_IPV6 st)

/-- What an IP packet of the stream holds beside the payload: the datagram header, the UDP header and the IP header. -/
def State.strOver (s : State) (st : Nat) : Nat := if s.strV6 st then 80 else 60

/-- The largest payload. -/
def State.payMax (s : State) (st : Nat) : Nat := s.rf (Rf.PAK_STR_CFG_DGMAX st) - s.strOver st

def itemsBytes (l : List OutItem) : Nat := (l.map (fun x => 8 * x.words.length)).sum

/-- The bytes a retained datagram takes: its header and its payload. -/
def Dgram.bytes (d : Dgram) : Nat := 32 + 8 * d.n

/-- A stream's retention ring in the hub. -/
def State.retArea (s : State) (st : Nat) : HubArea := ⟨s.rf (Rf.PAK_STR_RET_BASE st), s.rf (Rf.PAK_STR_RET_SIZE st) * 2 ^ 21⟩
def StreamSt.retBytes (x : StreamSt) : Nat := (x.ret.map Dgram.bytes).sum

/-- What port `p` sends next: the first in its queue, of its own streams, that no retransmission of the same stream goes
ahead of. -/
def StrPort.next (x : StrPort) (p : Nat) : Option Tx :=
  let q := x.q.filter (fun t => strPortOf t.stream == p)
  q.find? (fun t => decide (t.kind ≠ .new) || !q.any (fun u => u.stream == t.stream && decide (u.kind ≠ .new)))
def State.txNext (s : State) (p : Nat) : Option Tx := (s.sp p).next p

/-- Transmissions of a stream's SEQs are taken off its port's queue; where the one its rate cap holds is among them, the next one
has still to be held. -/
def State.cancelTx (s : State) (st : Nat) (p : Nat → Bool) : State :=
  let x := s.sp (strPortOf st)
  let y := { x with q := x.q.filter (fun t => !(t.stream == st && p t.seq)) }
  s.setSp (strPortOf st) { y with capped := x.capped && decide (x.next (strPortOf st) = y.next (strPortOf st)) }

/-- The oldest retained datagram is released unacknowledged (R302): counted, with event 0x6007. The time of its first launch
stays known, for the answer to a receiver that misses it. -/
def State.dropOldest (s : State) (st : Nat) : State :=
  let x := s.str st
  match x.ret with
  | [] => s
  | d :: ds =>
    let s := s.setStr st { x with ret := ds, slotQ := x.slotQ.filter (· ≠ d.seq),
                                  gone := match d.time with
                                    | some t => insert1 x.gone d.seq t
                                    | none => x.gone }
    ((s.cancelTx st (· == d.seq)).bump (Rf.PAK_STR_CNT_GONE st)).raiseMs 0x6007 st

/-- Release oldest datagrams until `n` bytes fit. -/
def State.makeRoom (s : State) (st n : Nat) : Nat → State
  | 0 => s
  | k + 1 =>
    if (s.str st).retBytes + n ≤ s.rf (Rf.PAK_STR_RET_SIZE st) * 2 ^ 24 then s
    else (s.dropOldest st).makeRoom st n k

/-- The four header words of a datagram of a stream: flags, SEQ, the words of its payload, the time of its first launch, the
CRC of its payload (Table 10.10). -/
def State.dgHeader (s : State) (st flags seq n : Nat) (time : Word) (crc : Nat) : List Word :=
  [BitVec.ofNat 64 (0x5A91 + 2 ^ 16 + flags * 2 ^ 24 + st * 2 ^ 32 + 8 * n * 2 ^ 48), BitVec.ofNat 64 seq, time,
    BitVec.ofNat 64 (s.rf (Rf.PAK_STR_SESS_SESSION st) + crc * 2 ^ 32)]

/-- The datagram being built is complete: it takes the next SEQ and goes into retention, in the hub, and either waits for a slot
or queues at its port. None where it does not fit and the stream waits, and while the ports are closed or the hub does not
serve. -/
def State.complete (s : State) (st : Nat) : Option State :=
  let pay := ((s.str st).build.map (·.words)).flatten
  let n := 32 + 8 * pay.length
  let s := if s.bit (Rf.PAK_STR_CFG_RETPOL st) && s.hubOpen then s.makeRoom st n (s.str st).ret.length else s
  let x := s.str st
  if s.hubOpen && decide ((s.str st).retBytes + n ≤ s.rf (Rf.PAK_STR_RET_SIZE st) * 2 ^ 24) then
    let seq := s.rf (Rf.PAK_STR_SEQ_NEXT st)
    let launch := s.bit (Rf.PAK_STR_CFG_LAUNCH st)
    let r := s.retArea st
    let s := s.putArea 2 117 r x.retTo (s.dgHeader st 0 seq pay.length 0 (lineCrc pay (8 * pay.length)) ++ pay)
    let s := s.setStr st { x with build := [], ret := x.ret ++ [⟨seq, x.retTo, pay.length, none, none⟩],
                                  retTo := (x.retTo + 4 + pay.length) % r.words,
                                  slotQ := if launch then x.slotQ ++ [seq] else x.slotQ,
                                  cumAt := if x.ret = [] then s.count else x.cumAt }
    let s := s.setrf (Rf.PAK_STR_SEQ_NEXT st) (seq + 1)
    let q := s.sp (strPortOf st)
    some (if launch then s else s.setSp (strPortOf st) { q with q := q.q ++ [⟨st, seq, .new⟩] })
  else none

/-! ### Placing items on streams -/

/-- The source whose item the stream takes next: the lowest whose item may be placed there (R294). -/
def State.strNext (s : State) (st : Nat) : Option (Nat × Hand) := s.out.hands.find? (fun h => s.mayStream h.1 st h.2)

/-- Place what can be placed on a stream, in the modes in which its port is open to items: an item that does not fit completes
the datagram before it. -/
def State.fillStream (s : State) (st : Nat) : Nat → State
  | 0 => s
  | k + 1 =>
    match (if s.acquires then s.strNext st else none) with
    | none => s
    | some (src, h) =>
      let x := s.str st
      if itemsBytes x.build + 8 * h.item.words.length ≤ s.payMax st then
        let s := s.setStr st { x with build := x.build ++ [h.item], first := if x.build = [] then s.count else x.first }
        ((s.setHand src { h with streams := h.streams.filter (· ≠ st) }).nextHeader).fillStream st k
      else if x.build = [] then s
      else match s.complete st with
        | some s => s.fillStream st k
        | none => s

/-- A datagram whose flush time has passed is completed where it can be. -/
def State.flushDue (s : State) (st : Nat) : State :=
  let x := s.str st
  if x.build ≠ [] ∧ x.first + countsOfUs (s.rf (Rf.PAK_STR_TMO_FLUSH_US st)) ≤ s.count then (s.complete st).getD s else s

/-! ### Frames (Tables 10.9 and 10.10) -/

/-- The bits RETX, GONE and PROBE of a transmission. -/
def TxKind.flags : TxKind → Nat
  | .new => 0
  | .retx => 1
  | .gone => 2
  | .probe => 5

/-- The sum of the 16-bit pieces of a number of `n` such pieces. -/
def sum16 (v : Nat) : Nat → Nat
  | 0 => 0
  | n + 1 => v % 65536 + sum16 (v / 65536) n

/-- A word's pieces as the network orders its bytes. -/
def netSum (w : Word) : Nat :=
  (List.range 4).foldl (fun a i => a + bitsOf w.toNat (16 * i) 8 * 256 + bitsOf w.toNat (16 * i + 8) 8) 0

/-- The UDP checksum over the pseudo header, the UDP header and the payload; 0 is sent as 0xFFFF. -/
def udpSum (src dst sport dport : Nat) (ws : List Word) : Nat :=
  let len := 8 + 8 * ws.length
  let v := sum16 src 8 + sum16 dst 8 + 17 + 2 * len + sport + dport + (ws.map netSum).sum
  let r := 65535 - v % 65535
  if v = 0 then 65535 else r

/-- The frame of a datagram's words: the addresses are the stream's, the port's and the whitelist entry's. -/
def State.strFrame (s : State) (st : Nat) (ws : List Word) : StrFrame :=
  let p := strPortOf st
  let k := s.rf (Rf.PAK_STR_CFG_DST st)
  let v6 := s.strV6 st
  let src := if v6 then s.rf (Rf.PAK_SP_IP6H_ADDR p) * 2 ^ 64 + s.rf (Rf.PAK_SP_IP6L_ADDR p) else s.rf (Rf.PAK_SP_IP4_ADDR p)
  let dst := if v6 then s.rf (Rf.BRK_DST0_ADDR_HI k) * 2 ^ 64 + s.rf (Rf.BRK_DST1_ADDR_LO k)
    else s.rf (Rf.BRK_DST1_ADDR_LO k) % 2 ^ 32
  { dmac := s.rf (Rf.PAK_STR_DMAC_MAC st), smac := s.rf (Rf.PAK_SP_MAC_MAC p),
    tag := if s.bit (Rf.PAK_STR_DMAC_VLAN st) then some (s.rf (Rf.PAK_STR_DMAC_VID st)) else none,
    v6 := v6, df := !v6, dscp := s.rf (Rf.PAK_STR_CFG_DSCP st), src := src, dst := dst,
    sport := s.rf (Rf.PAK_STR_TMO_SPORT st), dport := s.rf (Rf.BRK_DST2_PORT k),
    sum := udpSum src dst (s.rf (Rf.PAK_STR_TMO_SPORT st)) (s.rf (Rf.BRK_DST2_PORT k)) ws, words := ws }

/-! ### Sending (R300, R301, R376, R400) -/

/-- The retained datagram that a transmission sends. -/
def State.txDgram (s : State) (t : Tx) : Option Dgram := (s.str t.stream).ret.find? (fun d => d.seq == t.seq)

/-- The words of payload that a transmission sends: a GONE answer has none; none where its datagram is no longer retained. -/
def State.txLen (s : State) (t : Tx) : Option Nat := if t.kind = .gone then some 0 else (s.txDgram t).map (·.n)

/-- The words of a GONE answer. The time of first launch of a datagram that was never launched is a free value (log 178). -/
def State.goneWords (s : State) (t : Tx) : List Word × State :=
  match (s.str t.stream).gone.find? (fun e => e.1 == t.seq) with
  | some e => (s.dgHeader t.stream t.kind.flags t.seq 0 e.2 (lineCrc [] 0), s)
  | none => (s.dgHeader t.stream t.kind.flags t.seq 0 (Config.freeWord s.free) (lineCrc [] 0), { s with free := s.free + 1 })

/-- The words of a retained datagram, read from the hub: its first launch dates it there, and a later one sets its flags. -/
def State.retWords (s : State) (t : Tx) (d : Dgram) : List Word × State :=
  let r := s.retArea t.stream
  let s := if d.time.isNone then s.putArea 2 117 r ((d.at' + 2) % r.words) [BitVec.ofNat 64 s.now] else s
  let q := s.getArea 2 117 r d.at' (4 + d.n)
  (match q.1 with
   | w :: ws => (w ||| BitVec.ofNat 64 (t.kind.flags * 2 ^ 24)) :: ws
   | [] => [], q.2)

/-- The words of a transmission, with the state after the hub was read. -/
def State.txWords (s : State) (t : Tx) : List Word × State :=
  match t.kind, s.txDgram t with
  | .gone, _ => s.goneWords t
  | _, some d => s.retWords t d
  | _, none => ([], s)

/-- The stream's whitelist entry is enabled, and of the stream's kind of address: it sends to no other (R400; DESIGN CHOICE,
log 179). -/
def State.dstOk (s : State) (st : Nat) : Bool :=
  let k := s.rf (Rf.PAK_STR_CFG_DST st)
  s.bit (Rf.BRK_DST2_EN k) && (s.bit (Rf.BRK_DST2_V6 k) == s.strV6 st)

/-- What is spent of a port's rate bucket now, in hundredths of a byte. -/
def State.rateSpent (s : State) (p : Nat) : Nat :=
  let q := s.sp p
  q.spent - (s.count - q.at') * s.rf (Rf.BRK_RATE_RATE p)

/-- The depth of the bucket in the same unit. -/
def State.rateDepth (s : State) (p : Nat) : Nat := s.rf (Rf.BRK_RATE_BURST_KIB p) * 102400

/-- A transmission starts: the first one of a datagram dates it. -/
def State.txStart (s : State) (p : Nat) (t : Tx) (n : Nat) : State :=
  let r := s.txWords t
  let s := r.2
  let sent (d : Dgram) : Dgram := { d with time := some (d.time.getD (BitVec.ofNat 64 s.now)), sent := some s.count }
  let x := s.str t.stream
  let q := s.sp p
  let q := { q with wire := some t, frame := some (s.strFrame t.stream r.1), q := q.q.erase t, spent := s.rateSpent p + 100 * n,
                    at' := s.count, capped := false }
  let s := (s.setStr t.stream
    { x with ret := x.ret.map (fun e => if decide (e.seq = t.seq) && decide (t.kind ≠ .gone) then sent e else e) }).setSp p q
  if t.kind = .retx then s.bump (Rf.PAK_STR_CNT_RETX t.stream) else s

/-- The port starts its next transmission, where its wire is free, it is up and its rate cap allows: a datagram that the
cap holds is counted once, with event 0xB009. -/
def State.startTx (s : State) (p : Nat) : State :=
  if (s.sp p).wire.isSome || !s.bit (Rf.PAK_SP_STAT_UP p) || !s.hubOpen || s.portHeld p then s
  else match s.txNext p with
    | none => s
    | some t =>
      match s.txLen t with
      | none => s.setSp p { s.sp p with q := (s.sp p).q.erase t }
      | some k =>
        let n := 8 * k + s.strOver t.stream
        if !s.dstOk t.stream then s
        else if s.rateSpent p + 100 * n ≤ s.rateDepth p then s.txStart p t n
        else if (s.sp p).capped then s
        else ((s.setSp p { s.sp p with capped := true }).bump Rf.BRK_CNT2_RATEWAIT).raiseMs 0xB009 p

/-- A neighbour request for the port's own address is answered, once the port may start a frame (R298, R437). -/
def State.answerDue (s : State) (p : Nat) : State :=
  let x := s.sp p
  match x.asked with
  | some (v6, from') =>
    if s.bit (Rf.PAK_SP_STAT_UP p) && s.active && !s.portHeld p then
      s.setSp p { x with asked := none, answer := some (v6, from', s.rf (Rf.PAK_SP_MAC_MAC p)) }
    else s
  | none => s

/-- Items are placed on the streams as far as they can be, and idle ports start. -/
def State.flow (s : State) : State :=
  let s := (List.range 8).foldl (fun s st => (s.fillStream st 128).flushDue st) s.nextHeader
  (((s.answerDue 0).answerDue 1).startTx 0).startTx 1

/-! ### The router's commands -/

/-- OUTPUT_ITEM: the router takes the next item of a source and places it. -/
def execOutputItem (src : OutSrc) (s : State) : Host.Outcome State Fault Refusal := .next (s.outputItem src).flow

/-- EVENT_RECORD_ROUTE: the router takes the next event. -/
def execEventRecordRoute (s : State) : Host.Outcome State Fault Refusal := .next s.routeEvent.flow

/-- The band at whose close a defect record was emitted: its ID is not before the first of that close (R272). -/
def State.recordBand (s : State) (id : Nat) : Nat :=
  ((s.seam.firstId.find? (fun e => decide ((id + 2 ^ 32 - e.2) % 2 ^ 32 < 2 ^ 31))).map (·.1)).getD (s.seam.next - 1)

/-- A defect record that its ring cannot take fails condition 6 of its band's bound (Table 10.13). -/
def State.heldRecord (s : State) (h : Hand) : State :=
  if h.item.typ = 0x21 then s.boundFails (s.recordBand (bitsOf (h.item.words.headD 0).toNat 32 32)) 6 else s

/-- RING_WRITE: the next item for the ring is written where it fits; where it does not, it is dropped or waits, and so it
waits while the host port is down or grants no posted credit. -/
def execRingWrite (r : Fin 64) (s : State) : Host.Outcome State Fault Refusal :=
  when' (s.bit (Rf.PAK_RING_CFG_EN r)) s
    (match s.ringNext r with
     | none => s
     | some (src, h) =>
       let full (s : State) : State := s.setRing r { s.ring r with fullAt := some ((s.ring r).fullAt.getD s.count) }
       if !s.bit Rf.GLB_STATUS_LINK || s.hostHeld then s.heldRecord h
       else if s.ringFits r h.item then (((s.endFull r).ringPut r h.item).ringDone src r h).flow
       else if s.bit (Rf.PAK_RING_CFG_FULLPOL r) && droppable h.item.typ then
         (((full (s.bump (Rf.PAK_RING_CNT_DROPPED r))).raiseMs 0x6004 r).ringDone src r h).flow
       else (full s).heldRecord h)

/-! ### Launching -/

/-- DATAGRAM_FLUSH: FLUSH_US after its first item the datagram is launched. -/
def execDatagramFlush (st : Fin 8) (s : State) : Host.Outcome State Fault Refusal :=
  when' (decide ((s.str st).build ≠ [])) s
    (s.advanceTo ((s.str st).first + countsOfUs (s.rf (Rf.PAK_STR_TMO_FLUSH_US st)))).flow

/-- The index of the stream's next slot instant. -/
def State.slotNo (s : State) (st : Nat) : Nat :=
  let d := toSigned 64 (s.now + 2 ^ 64 - s.rf (Rf.TIM_LSLOT_START st))
  max (s.str st).slot (if d ≤ 0 then 0 else ceilDiv d.toNat (max 1 (s.rf (Rf.TIM_LSLOTP_PERIOD st))))

/-- STREAM_SLOT: at the slot instant up to QUOTA datagrams that wait for it leave (R377). -/
def execStreamSlot (st : Fin 8) (s : State) : Host.Outcome State Fault Refusal :=
  let j := s.slotNo st
  let t := s.advanceTo (s.countReach ((s.rf (Rf.TIM_LSLOT_START st) + j * s.rf (Rf.TIM_LSLOTP_PERIOD st)) % 2 ^ 64))
  let x := t.str st
  let n := t.rf (Rf.TIM_LSLOTP_QUOTA st)
  let q := t.sp (strPortOf st)
  let t' := (t.setStr st { x with slotQ := x.slotQ.drop n, slot := j + 1 }).setSp (strPortOf st)
    { q with q := q.q ++ (x.slotQ.take n).map (fun k => (⟨st, k, .new⟩ : Tx)) }
  when' (s.bit (Rf.PAK_STR_CFG_EN st) && s.bit (Rf.PAK_STR_CFG_LAUNCH st)) s t'.flow

/-- TRANSMISSION_END: the frame on the wire ends. -/
def execTransmissionEnd (p : Fin 2) (s : State) : Host.Outcome State Fault Refusal :=
  when' (s.sp p).wire.isSome s (s.setSp p { s.sp p with wire := none, frame := none }).flow

/-- STREAM_RATE_BUCKET_REFILL: the bucket has regained what the datagram held by it takes. -/
def execStreamRateBucketRefill (p : Fin 2) (s : State) : Host.Outcome State Fault Refusal :=
  match s.txNext p with
  | none => .next s
  | some t =>
    let n := match s.txLen t with
      | some k => 8 * k + s.strOver t.stream
      | none => 0
    let need := (s.sp p).spent + 100 * n - s.rateDepth p
    when' (s.sp p).capped s
      (s.advanceTo ((s.sp p).at' + ceilDiv need (max 1 (s.rf (Rf.BRK_RATE_RATE p))))).flow

/-! ### Acknowledgements and probes (R300 to R302) -/

/-- A discarded acknowledgement, or `n` SEQs of one. -/
def State.badAck (s : State) (st : Nat) (n : Nat := 1) : State := s.bump (Rf.PAK_STR_CNT_BADACK st) n

/-- The conditions of R300 on an acknowledgement. -/
def State.ackOk (s : State) (st : Nat) (a : AckFrame) : Bool :=
  let w (i : Nat) : Nat := (a.words.getD i 0).toNat
  let k := s.rf (Rf.PAK_STR_CFG_DST st)
  let nr := bitsOf (w 0) 48 8
  let addr := if s.bit (Rf.BRK_DST2_V6 k) then s.rf (Rf.BRK_DST0_ADDR_HI k) * 2 ^ 64 + s.rf (Rf.BRK_DST1_ADDR_LO k)
    else s.rf (Rf.BRK_DST1_ADDR_LO k) % 2 ^ 32
  decide (a.bytes = 32 + 16 * nr) && decide (a.words.length = 4 + 2 * nr) && decide (nr ≤ 64) &&
    decide (bitsOf (w 0) 0 16 = 0x5A92) && decide (bitsOf (w 0) 16 8 = 1) && decide (bitsOf (w 0) 32 3 = st) &&
    decide (bitsOf (w 2) 0 16 = s.rf (Rf.PAK_STR_SESS_SESSION st)) && s.bit (Rf.BRK_DST2_EN k) &&
    (a.v6 == s.bit (Rf.BRK_DST2_V6 k)) && decide (a.addr.toNat = addr) && decide (a.port.toNat = s.rf (Rf.BRK_DST2_PORT k))

/-- CUM from the acknowledged point to NEXT: every datagram below it is released. -/
def State.takeCum (s : State) (st cum : Nat) : State :=
  if cum ≤ s.rf (Rf.PAK_STR_CUM_CUM st) then s
  else
    let x := s.str st
    let s := s.setStr st { x with ret := x.ret.filter (fun d => decide (cum ≤ d.seq)),
                                  slotQ := x.slotQ.filter (fun k => decide (cum ≤ k)),
                                  gone := x.gone.filter (fun e => decide (cum ≤ e.1)), cumAt := s.count }
    (s.cancelTx st (fun k => decide (k < cum))).setrf (Rf.PAK_STR_CUM_CUM st) cum

/-- One missing SEQ: retransmitted unless it was sent within RTX_MIN_US or waits to be; a released one is answered. -/
def State.missing (s : State) (st seq : Nat) : State :=
  let q := s.sp (strPortOf st)
  let add (k : TxKind) : State := s.setSp (strPortOf st) { q with q := q.q ++ [⟨st, seq, k⟩] }
  if q.q.any (fun t => t.stream == st && t.seq == seq && decide (t.kind ≠ .new)) then s
  else match (s.str st).ret.find? (fun d => d.seq == seq) with
    | none => add .gone
    | some d =>
      match d.sent with
      | some c => if s.count < c + countsOfUs (s.rf (Rf.PAK_STR_TMO_RTX_MIN_US st)) then s else add .retx
      | none => add .retx

/-- One range of an acknowledgement. -/
def State.takeRange (s : State) (st first last : Nat) : State :=
  let next := s.rf (Rf.PAK_STR_SEQ_NEXT st)
  let a := max first (s.rf (Rf.PAK_STR_CUM_CUM st))
  let b := min (last + 1) next
  let s := (List.range (b - a)).foldl (fun s i => s.missing st (a + i)) s
  let over' := last + 1 - max first next
  if over' = 0 then s else s.badAck st over'

def State.takeRanges (s : State) (st : Nat) : List Word → State
  | f :: l :: ws => (s.takeRange st f.toNat l.toNat).takeRanges st ws
  | _ => s

/-- ACK_RECEIVED: the acknowledgement takes effect, or is discarded with event 0x6008. -/
def execAckReceived (st : Fin 8) (a : AckFrame) (s : State) : Host.Outcome State Fault Refusal :=
  let cum := (a.words.getD 1 0).toNat
  when' (s.bit (Rf.PAK_SP_STAT_UP (strPortOf st)) && s.active) s
    (if s.ackOk st a && decide (cum ≤ s.rf (Rf.PAK_STR_SEQ_NEXT st)) then
       ((s.takeCum st cum).takeRanges st (a.words.drop 4)).flow
     else (s.badAck st).raiseMs 0x6008 st)

/-- ACK_TIMEOUT_PROBE: ACK_TMO_US without an advance of CUM the oldest datagram is sent again as a probe. -/
def execAckTimeoutProbe (st : Fin 8) (s : State) : Host.Outcome State Fault Refusal :=
  match (s.str st).ret with
  | [] => .next s
  | d :: _ =>
    let s0 := s
    let open' := s.active
    let s := s.advanceTo ((s.str st).cumAt + countsOfUs (s.rf (Rf.PAK_STR_TMO_ACK_TMO_US st)))
    let s := s.setStr st { s.str st with cumAt := s.count }
    let q := s.sp (strPortOf st)
    when' open' s0 ((s.setSp (strPortOf st) { q with q := q.q ++ [⟨st, d.seq, .probe⟩] }).bump (Rf.PAK_STR_CNT_PROBE st)).flow

/-- Retention is emptied and SEQ returns to 0 (R302). -/
def State.emptyStreams (s : State) : State :=
  let s := { s with out := { s.out with
    streams := (s.out.streams.map (fun e => (e.1, { e.2 with ret := [], retTo := 0, gone := [], slotQ := [], slot := 0 }))).filter
      (fun e => decide (e.2 ≠ ({} : StreamSt))),
    ports := (s.out.ports.map (fun e => (e.1, { e.2 with q := [], capped := false }))).filter
      (fun e => decide (e.2 ≠ ({} : StrPort))) } }
  (List.range 8).foldl (fun s st => (s.setrf (Rf.PAK_STR_SEQ_NEXT st) 0).setrf (Rf.PAK_STR_CUM_CUM st) 0) s

/-! ### Frames received, and the links (R297, R298) -/

/-- NEIGHBOUR_REQUEST: a request for the port's own address is answered with its MAC; any other is dropped. -/
def execNeighbourRequest (p : Fin 2) (v6 : Bool) (target : BitVec 128) (from_ : BitVec 48) (s : State) :
    Host.Outcome State Fault Refusal :=
  let own := if v6 then s.rf (Rf.PAK_SP_IP6H_ADDR p) * 2 ^ 64 + s.rf (Rf.PAK_SP_IP6L_ADDR p) else s.rf (Rf.PAK_SP_IP4_ADDR p)
  when' (s.bit (Rf.PAK_SP_STAT_UP p) && s.active) s
    (if target.toNat = own then (s.setSp p { s.sp p with asked := some (v6, from_.toNat) }).answerDue p
     else s.bump (Rf.PAK_SP_STAT_RXDROP p))

/-- FRAME_DROP. -/
def execFrameDrop (p : Fin 2) (s : State) : Host.Outcome State Fault Refusal :=
  when' (s.bit (Rf.PAK_SP_STAT_UP p) && s.active) s (s.bump (Rf.PAK_SP_STAT_RXDROP p))

/-- STREAM_LINK_CHANGE: event 0x600B; what is on the wire of a link that goes down is lost, and stays in retention. -/
def execStreamLinkChange (p : Fin 2) (up : Bool) (s : State) : Host.Outcome State Fault Refusal :=
  let t := s.setrf (Rf.PAK_SP_STAT_UP p) (if up then 1 else 0)
  let t := if up then t else t.setSp p { t.sp p with wire := none, frame := none }
  when' (s.bit (Rf.PAK_SP_STAT_UP p) != up) s ((t.raise 0x600B p (if up then 1 else 0)).flow)

end Sys2Proof.Machine
end

