-- ==== Sys2Proof/Machine/Cadence.lean ====
section
/-! DEFINITION. The cadence unit: ticks and band membership, tokens, late bands, gears, hold and catch-up, and the band
headers its tokens make (chapter 4, R289, R304, R410, R442). -/

namespace Sys2Proof.Machine

/-! ### Fields -/

def State.setCad (s : State) (c : CadUnit) : State := { s with cad := c }

/-- Change what is known of band `n`. -/
def State.setBand (s : State) (n : Nat) (f : BandRec → BandRec) : State :=
  s.setCad { s.cad with bands := s.cad.bands.map (fun b => if b.band = n then f b else b) }

/-- The tick source, the MASTER generator, and the band whose window is open. -/
def State.cadSrc (s : State) : Nat := s.rf Rf.CAD_SRC_SRC
def State.master (s : State) : Nat := s.rf Rf.CAD_SRC_MASTER
def State.openBand (s : State) : Nat := s.rf Rf.CAD_BAND_BAND

/-- Ticks still come. -/
def State.ticking (s : State) : Bool := s.cadOn && !s.cad.stop

/-- Enabled ports. -/
def State.portsOn (s : State) : List Nat := (List.range 48).filter (fun p => s.portOn p)

/-- The logical units of a section (0 Intake, 1 Fuse, 2 Sieve, 3 Pack) that work in this run. -/
def State.secUnits (s : State) (sec : Nat) : List Nat :=
  let r := match sec with
    | 0 => (0, 48)
    | 1 => (48, 16)
    | 2 => (64, 32)
    | _ => (96, 16)
  ((List.range r.2).map (r.1 + ·)).filter (fun u => s.serving u)

/-- Every unit of a section has completed every band before `n`. -/
def State.secDone (s : State) (sec n : Nat) : Bool := (s.secUnits sec).all (fun u => decide (n ≤ (s.wu u).done))

/-- The next band a section's token is owed for. -/
def CadUnit.next (c : CadUnit) : Nat → Nat
  | 0 => c.nI
  | 1 => c.nF
  | 2 => c.nS
  | _ => c.nP
def CadUnit.setNext (c : CadUnit) (sec n : Nat) : CadUnit :=
  match sec with
  | 0 => { c with nI := n }
  | 1 => { c with nF := n }
  | 2 => { c with nS := n }
  | _ => { c with nP := n }

/-- An event of a tick, which waits with the tick's tokens while TST_TICK delays them (R442). -/
def State.cadEv (s : State) (code a0 a1 a2 : Nat) : State :=
  if s.bit Rf.TST_TICK_EN then s.setCad { s.cad with jitEvs := s.cad.jitEvs ++ [(code, a0, a1, a2)] }
  else s.raise code a0 a1 a2

/-! ### The floor (R127) -/

/-- The throttle's skip fraction exceeds RESERVE/256. -/
def State.skipHigh (s : State) : Bool := decide (s.rf Rf.CAD_GEOM_RESERVE * 8000 < s.rf Rf.MGT_TSTAT_SKIP * 256)

def State.thermFloor (s : State) : Nat :=
  let g := if s.skipHigh then 3 else if s.bit Rf.MGT_TSTAT_THROTTLE then 1 else 0
  if s.mode = 4 then min 2 g else g

def State.gearFloor (s : State) : Nat := max (s.rf Rf.CAD_GEAR_FLOOR) s.thermFloor

/-- The throttle state has changed: the floor shown, and the signs the next tick reads (R128, R304). -/
def State.thermSeen (s : State) : State :=
  let s := s.setrf Rf.CAD_GEAR_THERM s.thermFloor
  let s := if s.bit Rf.MGT_TSTAT_THROTTLE then s.setCad { s.cad with unclean := true } else s
  if s.skipHigh then s.setBand s.openBand (fun b => { b with hot := true }) else s

/-! ### Tokens (R115, R125, R131, R185) -/

/-- The token of band `n` goes to unit `u`. What the tokens of Fuse, Sieve and Pack hold of the settings-set references
is a free value. -/
def State.giveToken (s : State) (n u : Nat) (t : Word × Word) : State :=
  let r : Nat × State := if u < 48 then s.formSsids u n else s.freeBits 64
  let s := r.2
  let s := if u < 48 ∧ r.1.testBit 16 then s.setBand n (fun b => { b with setchg := b.setchg ||| 2 ^ u }) else s
  let w := s.wu u
  s.setWu u { w with toks := w.toks ++ [⟨n, t.1, t.2, s.tokenGear n, BitVec.ofNat 64 r.1⟩],
                     tokAt := insert1 (w.tokAt.filter (fun e => decide (n < e.1 + 8))) n s.count, next := n + 1 }

/-- The time and encoder count that a token of band `n` carries: those of its first MASTER line, or of the tick that opened
it where none has come (R115). -/
def State.tokenTimes (s : State) (n : Nat) : Word × Word :=
  match s.bandRec n with
  | some b => b.first.getD (BitVec.ofNat 64 b.openT, b.openE)
  | none => (0, 0)

/-- The gears of a band's tokens, with one more issued now to section `sec`. -/
def State.bandGear (s : State) (sec n : Nat) : State :=
  let g := s.tokenGear n
  s.setBand n (fun b => { b with gear := max b.gear g, gP := if sec = 3 ∧ b.gP = none then some g else b.gP })

/-- The tokens of band `n` go to the units of a section that have not had theirs. -/
def State.issue1 (s : State) (sec n : Nat) : State :=
  let t := s.tokenTimes n
  let s := ((s.secUnits sec).filter (fun u => decide ((s.wu u).next ≤ n))).foldl (fun s u => s.giveToken n u t) s
  let s := s.bandGear sec n
  s.setCad (s.cad.setNext sec (n + 1))

/-- A lost band is passed over by a unit that has completed every band before it (R133). -/
def State.passUnit (s : State) (n u : Nat) : State :=
  let w := s.wu u
  let s := s.setWu u { w with done := max w.done (n + 1), next := max w.next (n + 1) }
  if u < 48 ∧ (s.port u).grpBand = n then s.setPort u { s.port u with grpBand := n + 1, grpNext := 0 } else s

/-- A lost band is passed over by a section that has completed every band before it (R133). -/
def State.passOver (s : State) (sec n : Nat) : State :=
  let s := (s.secUnits sec).foldl (fun s u => s.passUnit n u) s
  s.setCad (s.cad.setNext sec (n + 1))

/-- Band `n` is closed. -/
def State.bandClosed (s : State) (n : Nat) : Bool := s.cad.bands.any (fun b => b.band == n && b.closed.isSome)

/-- The token of live band `n` is due for a section (R115, R134). -/
def State.tokenDue (s : State) (sec n : Nat) : Bool :=
  match sec with
  | 0 => s.cad.bands.any (fun b => b.band == n && (decide (s.cadSrc = 0) || b.first.isSome || b.closed.isSome))
  | 1 => s.bandClosed n
  | _ => s.bandClosed (n + 1)

/-- The tokens a section is due now: those of live bands, in order, and lost bands passed over. -/
def State.issueSec (sec : Nat) : Nat → State → State
  | 0, s => s
  | fuel + 1, s =>
    let n := s.cad.next sec
    if s.bandLost n then
      if s.secDone sec n then State.issueSec sec fuel (s.passOver sec n) else s
    else if s.bandHeld n || (decide (s.cadState = 2) && decide (s.cad.h ≤ n)) || !s.tokenDue sec n then s
    else State.issueSec sec fuel (s.issue1 sec n)

/-- Intake's tokens carry the SSIDs; every section takes what it is due. -/
def State.issueAll (s : State) : State :=
  let n := s.cad.bands.length
  State.issueSec 3 n (State.issueSec 2 n (State.issueSec 1 n (State.issueSec 0 n s)))

/-! ### Band headers (R289) -/

/-- Bit `u` set where unit `base + u` is unserved. -/
def State.unservedMask (s : State) (base n : Nat) : Nat :=
  (List.range n).foldl (fun m u => if s.unserved (base + u) then m ||| 2 ^ u else m) 0

/-- The band header of a band. -/
def State.header (s : State) (b : BandRec) : OutItem :=
  let f (c : Bool) (i : Nat) : Nat := if c then 2 ^ i else 0
  let un : List Nat := [s.unservedMask 0 48, s.unservedMask 48 16, s.unservedMask 64 32, s.unservedMask 96 16]
  let flags := f b.part 0 + f b.held 1 + f b.lost 2 + f b.fast 3 + f (un.any (fun m => decide (m ≠ 0))) 4 +
    f (decide (b.setchg ≠ 0)) 5
  let t := b.first.getD (BitVec.ofNat 64 b.openT, b.openE)
  let w (n : Nat) : Word := BitVec.ofNat 64 n
  ⟨0x10, [w (0x10 + min 4 b.gear * 2 ^ 8 + flags * 2 ^ 16 + s.rf Rf.SIV_SEQ_EPOCH % 2 ^ 16 * 2 ^ 32), w b.band, t.1, t.2,
    w (un.getD 0 0 + un.getD 1 0 * 2 ^ 48), w (un.getD 2 0 + un.getD 3 0 * 2 ^ 32), w b.setchg,
    w (s.height % 2 ^ 13 + min b.lines 8191 * 2 ^ 16 + min b.win (2 ^ 32 - 1) * 2 ^ 32)], none, some b.band, []⟩

/-- The headers that are due: at T(n + 2), after the last token of the band; in a drain, after that token. -/
def State.headers : Nat → State → State
  | 0, s => s
  | fuel + 1, s =>
    let n := s.out.nextHdr
    match s.bandRec n with
    | none => s
    | some b =>
      if b.closed.isSome && (s.cad.stop || decide (n + 3 ≤ s.openBand)) && (b.lost || decide (n < s.cad.nP)) then
        State.headers fuel { s with out := { s.out with hdrs := s.out.hdrs ++ [s.header b], nextHdr := n + 1 } }
      else s

/-- Bands nothing asks for any more are forgotten. -/
def State.forget (s : State) : State :=
  let c := s.cad
  let least := [c.nI, c.nF, c.nS, c.nP, s.out.nextHdr, s.openBand].foldl min s.openBand
  s.setCad { c with bands := c.bands.filter (fun b => decide (least ≤ b.band + 32)),
                    due := c.due.filter (fun d => decide (least ≤ d.1 + 32)) }

/-- Intake's replay of held band `n` has started: some Spoke unit has its token. -/
def State.replayBegun (s : State) (n : Nat) : Bool :=
  match s.secUnits 0 with
  | [] => decide (n < s.cad.nI)
  | us => us.any (fun u => decide (n < (s.wu u).next))

/-- The backlog of hold: the held bands Intake has not begun to replay. -/
def State.showHold (s : State) : State :=
  s.setrf Rf.CAD_HOLDINFO_BACKLOG (min 65535
    ((s.cad.bands.filter (fun b => b.held && !b.lost && !s.replayBegun b.band)).length))

/-- Every token and header that is due now, and what they put on the outputs. -/
def State.serve (s : State) : State :=
  let s := s.issueAll
  (State.headers s.cad.bands.length s).forget.showHold.flow

/-! ### Late bands (R121 to R123) -/

/-- The count at which unit `u` issued the wtick of its band `n`, where it has (R122): a wtick that waits has been issued. -/
def State.wtickCount (s : State) (u n : Nat) : Option Nat :=
  let w := s.wu u
  let x := s.eng (s.rf (Rf.ENG_UNIT_ENGINE u))
  if n < w.done then some (look (fun _ => 0) w.ends n)
  else match x.stalled with
    | some (.wtick _) => if n = w.done then some (x.wtickAt.getD x.stallAt) else none
    | _ => none

/-- Unit `u` issued the wtick of band `n` at or before a count. -/
def State.wtickBy (s : State) (u n c : Nat) : Bool :=
  match s.wtickCount u n with
  | some k => decide (k ≤ c)
  | none => false

/-- Every unit of a section has issued the wtick of band `n`. -/
def State.secIssued (s : State) (sec n : Nat) : Bool := (s.secUnits sec).all (fun u => (s.wtickCount u n).isSome)

/-- Band `n` is judged for a section, whose due time is count `c`: late with event 0xC001 where a unit had not issued its
wtick by then. A held or lost band has no due time, and no band has one in a drain. -/
def State.judge (s : State) (sec n c : Nat) : State :=
  match (s.secUnits sec).find? (fun u => !s.wtickBy u n c), s.bandRec n with
  | some u, some b =>
    if b.held || b.lost || s.cad.stop || s.cad.late.contains (sec, n) then s
    else
      let c := s.cad
      let s := s.setCad { c with late := c.late ++ [(sec, n)], causes := c.causes ||| 2 ^ sec }
      let s := (s.setrf (Rf.CAD_LATE_LAST sec) n).bump (Rf.CAD_LATE_COUNT sec)
      s.cadEv 0xC001 sec n u
  | _, _ => s

/-- The bands whose Intake due time has come: rows still open are synthesised, the band's counts are reported, and the
band is judged. -/
def State.intakeDues : Nat → State → State
  | 0, s => s
  | fuel + 1, s =>
    let n := s.cad.dI
    match s.intakeDue n with
    | none => s
    | some c =>
      if s.count < c then s
      else
        let s := s.portsOn.foldl (fun s p => s.intakeDuePort p n) s
        let s := s.judge 0 n c
        State.intakeDues fuel (s.setCad { s.cad with dI := n + 1 })

/-- The lag of a section: its late bands whose wtick some unit has not issued. -/
def State.lag (s : State) (sec : Nat) : Nat :=
  (s.cad.late.filter (fun l => l.1 == sec && !s.secIssued sec l.2)).length

/-- The lags at a tick: the late bands whose wticks have since been issued are dropped, and MAXLAG follows. -/
def State.lags (s : State) : State :=
  let c := s.cad
  let s := s.setCad { c with late := c.late.filter (fun l => !s.secIssued l.1 l.2) }
  (List.range 4).foldl (fun s i => s.peak (Rf.CAD_LATE_MAXLAG i) (s.lag i)) s

/-! ### Gears (R126 to R129) -/

/-- Causes: bits 0 to 3 a late band of Intake, Fuse, Sieve, Pack; 4 a fast window; 5 a spare substitution; 6 a rise of
the floor. -/
def fastCause : Nat := 16
def spareCause : Nat := 32
def floorCause : Nat := 64

def State.addCause (s : State) (c : Nat) : State := s.setCad { s.cad with causes := s.cad.causes ||| c }

/-- The gear of a running cadence unit at the tick that closes band `m`. -/
def State.ladder (s : State) (m : Nat) : State :=
  let c := s.cad
  let old := s.gear
  let stream := decide (s.mode = 4)
  let step := decide (c.causes % 8 ≠ 0) || decide (c.causes / 16 % 4 ≠ 0) || (stream && c.causes.testBit 3)
  let new := if step ∧ old < (if stream then 2 else 3) then old + 1 else old
  let new := if !stream ∧ c.causes.testBit 3 ∧ old < 3 then 3 else new
  let floor := s.gearFloor
  let causes := if new < floor then c.causes ||| floorCause else c.causes
  let new := max new floor
  let clean := decide (c.causes = 0) && !c.unclean && !s.bit Rf.MGT_TSTAT_THROTTLE
  let n := if clean then s.rf Rf.CAD_GEAR_CLEAN_CNT + 1 else 0
  let s := (s.setrf Rf.CAD_GEAR_CUR new).setrf Rf.CAD_GEAR_CLEAN_CNT n
  let s := if old < new then s.cadEv 0xC002 (old + 256 * new) m causes else s
  if s.rf Rf.CAD_GEAR_UP_CLEAN ≤ n then
    let s := s.setrf Rf.CAD_GEAR_CLEAN_CNT 0
    if floor < new then (s.setrf Rf.CAD_GEAR_CUR (new - 1)).cadEv 0xC003 (new + 256 * (new - 1)) m 0 else s
  else s

/-! ### Hold and catch-up at a tick (R130, R134) -/

/-- The band after `m` is to be live: in catch-up, from the tick on at which Intake has completed every band before it
(R134). -/
def State.liveNext (s : State) (m : Nat) : Bool := decide (s.cadState ≠ 3) || s.cad.k.isSome || s.secDone 0 (m + 1)

/-- Whether the tick that closes band `m` enters hold: a Spoke engine meets a held slot only where it is to write the next
band into it (R24). -/
def State.holds (s : State) (m : Nat) : Bool :=
  s.cad.holdReq || (s.liveNext m && s.portsOn.any (fun p => !s.correctedFree p (m + 1))) ||
    [0, 1, 2].any (fun i => decide (s.rf Rf.CAD_GEAR_HOLD_LAG ≤ s.lag i))

/-- Hold is entered with first held band `h`. Its tokens carry the gear in force, raised to the floor of this tick (R131). In
a hold entered again from catch-up, where the gear in force is 4 and no band before `h` that is not itself held was given it,
they carry that of the hold before: R131 does not say (DESIGN CHOICE, log 148). -/
def State.enterHold (s : State) (h : Nat) : State :=
  let c := s.cad
  let g := max (if s.cadState = 1 then s.gear else c.heldG) s.gearFloor
  let s := s.setCad { c with h := h, k := none, heldG := g, holdReq := false }
  let s := (s.setrf Rf.CAD_GEAR_STATE 2).setrf Rf.CAD_GEAR_CUR 4
  let s := (s.setrf Rf.CAD_GEAR_CLEAN_CNT 0).setrf Rf.CAD_HOLDINFO_FIRST h
  s.cadEv 0xC004 0 h 0

/-- A tick in catch-up: Intake returns to live lines where it has completed every band before the next; catch-up ends
where no section has an incomplete band past its due time, from the first live band on. -/
def State.catchUpTick (s : State) (m : Nat) : State :=
  let s := if s.cad.k.isNone && s.secDone 0 (m + 1) then s.setCad { s.cad with k := some (m + 1) } else s
  match s.cad.k with
  | none => s
  | some k =>
    let behind (sec n : Nat) : Bool := decide (k ≤ n) && !s.secDone sec (n + 1)
    let pastI := s.cad.bands.any (fun b => decide (b.band < s.cad.dI) && behind 0 b.band)
    let past := pastI || (decide (1 ≤ m) && behind 1 (m - 1)) || (decide (2 ≤ m) && (behind 2 (m - 2) || behind 3 (m - 2)))
    if past then s
    else
      let s := (s.setrf Rf.CAD_GEAR_STATE 1).setrf Rf.CAD_GEAR_CUR (max 3 s.gearFloor)
      s.cadEv 0xC006 0 m 0

/-! ### The bound of the defect records (R304) -/

/-- Conditions 1 and 2 of the bound for band `n`: no held, replayed or lost tile, no fast or throttled window. -/
def State.boundBand (s : State) (n : Nat) : State :=
  let any (l : List Nat) (f : BandRec → Bool) : Bool := s.cad.bands.any (fun b => l.contains b.band && f b)
  let s := if any [n, n + 1] (fun b => b.held || b.lost) then s.boundFails n 1 else s
  if any [n + 1, n + 2] (fun b => b.fast || b.hot) then s.boundFails n 2 else s

/-- The bands whose conditions 1 and 2 tick T(m) judges: band `m` - 2, whose windows have all closed; at the final tick of a
drain the two after it as well, of whose windows those that exist have closed. -/
def State.boundTick (s : State) (m : Nat) (final : Bool) : State :=
  let s := if 2 ≤ m then s.boundBand (m - 2) else s
  if final then (if 1 ≤ m then s.boundBand (m - 1) else s).boundBand m else s

/-! ### The tick (R109 to R115) -/

/-- The window of band `m` closes: a fast window is counted, and missing rows make the band a partial one. -/
def State.closeBand (s : State) (m : Nat) (final : Bool) : State :=
  match s.bandRec m with
  | none => s
  | some b =>
    let win := (s.now + 2 ^ 64 - b.openT) % 2 ^ 64
    let fast := !final && decide (win < s.rf Rf.CAD_PERIOD_PERIOD_NS)
    let part := s.portsOn.any (fun p => decide ((s.pband p m).lines < s.height))
    let s := s.setBand m (fun b => { b with closed := some s.count, win := win, fast := fast, part := part, lines := s.cad.lines })
    let s := if fast then ((s.addCause fastCause).bump Rf.CAD_CNT_FAST).cadEv 0xC008 0 m win else s
    if part then
      let s := s.portsOn.foldl (fun s p => s.padBand p m) s
      ((s.setCad { s.cad with unclean := true }).bump Rf.CAD_CNT_PARTIAL).cadEv 0xC009 s.cad.lines m 0
    else s

/-- The window of band `n` opens, with its first line where the tick is that line's trigger. -/
def State.openNext (s : State) (n : Nat) (first : Option (Word × Word)) : State :=
  let c := s.cad
  let held := decide (2 ≤ s.cadState) && c.k.isNone
  let b : BandRec := { band := n, opened := s.count, openT := s.now,
                       openE := BitVec.ofNat 64 (s.posCount (s.rf (Rf.POS_TG_CFG_LATCH_CH s.master))), first := first,
                       firstAt := s.count, held := held, gear := if held then 4 else 0, hot := s.skipHigh }
  let s := s.setCad { c with bands := c.bands ++ [b], lines := 0, causes := 0,
                             unclean := decide (2 ≤ s.cadState) || s.bit Rf.MGT_TSTAT_THROTTLE,
                             holdReq := false }
  let s := { s with out := { s.out with cropN := 0 } }
  s.setrf Rf.CAD_BAND_BAND n

/-- TICK_TIME and TICK_WRAP. -/
def State.showTick (s : State) : State :=
  (s.setrf Rf.CAD_TICK_TIME_NS (s.now % 2 ^ 32)).setrf Rf.CAD_TICK_WRAP (s.now / 2 ^ 32)

/-- What a tick has issued so far waits for its delay under TST_TICK (R442), drawn from the LFSR, and leaves at once without
it. -/
def State.issueTick (s : State) : State :=
  if s.bit Rf.TST_TICK_EN then
    let r := Config.lfsrNext s.tests.lfsr
    let d := Config.lfsrPick r (s.rf Rf.TST_TICK_JMAX_NS) % (s.rf Rf.TST_TICK_JMAX_NS + 1)
    ({ s with tests := { s.tests with lfsr := r } }).setCad { s.cad with jit := some (s.count + countsOfNs d) }
  else s.serve

/-- The delayed tokens and events of a tick leave. -/
def State.endJitter (s : State) : State :=
  let evs := s.cad.jitEvs
  let s := s.setCad { s.cad with jit := none, jitEvs := [] }
  (evs.foldl (fun s e => s.raise e.1 e.2.1 e.2.2.1 e.2.2.2) s).serve

/-- The first tick event, T(-1): it opens window 0. -/
def State.firstTick (s : State) (first : Option (Word × Word)) : State :=
  let s := (s.setCad { s.cad with started := true }).showTick
  let s := if s.cad.holdReq then s.enterHold 0
    else if s.gear < s.gearFloor then
      (s.setrf Rf.CAD_GEAR_CUR s.gearFloor).cadEv 0xC002 (s.gear + 256 * s.gearFloor) 0 floorCause
    else s
  (s.openNext 0 first).issueTick

/-- T(m), which closes band `m` and opens the next; the final tick of a drain opens none, and no band has a due time from it
on (R410). -/
def State.nextTick (s : State) (first : Option (Word × Word)) (final : Bool) : State :=
  let m := s.openBand
  let s := if s.cad.jit.isSome then s.endJitter else s
  let s := State.intakeDues (m + 1) s
  let s := s.setCad { s.cad with stop := s.cad.stop || final }
  let s := (s.showTick).closeBand m final
  let s := s.setCad { s.cad with due := if m < 2 ∨ s.bandHeld (m - 2) then s.cad.due else s.cad.due ++ [(m - 2, s.count)] }
  let s := if 1 ≤ m then s.judge 1 (m - 1) s.count else s
  let s := if 2 ≤ m then (s.judge 2 (m - 2) s.count).judge 3 (m - 2) s.count else s
  let s := s.lags
  let s := if final then s
    else if s.cadState ≠ 2 && s.holds m then s.enterHold (m + 1)
    else if s.cadState = 3 then s.catchUpTick m
    else if s.cadState = 2 then s.setCad { s.cad with heldG := max s.cad.heldG s.gearFloor }
    else s.ladder m
  let s := s.boundTick m final
  let s := (List.range 48).foldl (fun s p => s.launchArmed p m) s
  let s := if final then (s.setCad { s.cad with final := some m }).setrf Rf.CAD_BAND_BAND (m + 1)
    else s.openNext (m + 1) first
  s.issueTick

/-- A tick. -/
def State.tick (s : State) (first : Option (Word × Word)) : State :=
  if s.cad.started then s.nextTick first false else s.firstTick first

/-- A trigger of MASTER: under SRC = 0 it ticks where it follows the H-th line or opens window 0; a tick comes before
the line. The first line of a band gives its time and encoder count to the tokens. -/
def State.masterLine (s : State) (t : Word × Word) : State :=
  if !s.ticking then s
  else
    let ticks := decide (s.cadSrc = 0) && (!s.cad.started || decide (s.height ≤ s.cad.lines))
    let s := if ticks then s.tick (some t) else s
    if !s.cad.started then s
    else
      let n := s.openBand
      let fresh := s.cad.bands.any (fun b => b.band == n && b.first.isNone)
      let s := s.setCad { s.cad with lines := s.cad.lines + 1 }
      if fresh then
        let s := s.setBand n (fun b => { b with first := some t, firstAt := s.count })
        if s.cad.jit.isSome then s else s.serve
      else s

/-! ### The commands -/

/-- The device time of the next tick under SRC = 1. -/
def State.nextTickTime (s : State) : Nat :=
  let k := if s.cad.started then s.openBand + 1 else 0
  (s.cad.start + k * s.rf Rf.CAD_PERIOD_PERIOD_NS) % 2 ^ 64

/-- TICK_TIME: the next instant of the schedule; nothing where a trigger of that instant has brought its tick on. -/
def execTickTime (s : State) : Host.Outcome State Fault Refusal :=
  when' (s.ticking && decide (s.cadSrc = 1)) s
    (if 0 < s.cad.ahead then s.setCad { s.cad with ahead := s.cad.ahead - 1 }
     else (s.advanceTo (s.countReach s.nextTickTime)).tick none)

/-- GAP_TIMEOUT: GAP_US after the last tick, or after the band's first line where that came later than it (R111). The
lines R111 speaks of, that a band has at least one and its first, are taken as MASTER's: the line count the timeout restarts
is MASTER's, and R111 does not say whose lines it means (DESIGN CHOICE, log 149). -/
def execGapTimeout (s : State) : Host.Outcome State Fault Refusal :=
  let gap := countsOfUs (s.rf Rf.CAD_MAXGAP_GAP_US)
  match s.bandRec s.openBand with
  | some b =>
    let at' := if b.firstAt ≤ b.opened + gap then b.opened + gap else b.firstAt + gap
    when' (s.ticking && decide (s.cadSrc = 0) && decide (gap ≠ 0) && b.first.isSome) s ((s.advanceTo at').tick none)
  | none => .next s

/-- BAND_DUE: the due time of Intake's next band. The due times of the other sections are ticks, and the tick judges
their bands (Table 4.2). -/
def execBandDue (sec : Fin 4) (s : State) : Host.Outcome State Fault Refusal :=
  match s.intakeDue s.cad.dI with
  | some c =>
    let t := State.intakeDues 1 (s.advanceTo c)
    when' (s.cadOn && decide (sec.val = 0)) s (if s.cad.jit.isNone && decide (t.cad.jitEvs ≠ []) then t.endJitter else t)
  | none => .next s

/-- HOLD: CAD_CTRL.HOLD; ignored with event 0xC00B while the cadence unit is stopped. -/
def execHold (s : State) : Host.Outcome State Fault Refusal :=
  .next (if s.cadOn then s.setCad { s.cad with holdReq := true } else s.raise 0xC00B 0)

/-- A held band is lost: event 0xC007. -/
def State.lose (s : State) (n : Nat) : State :=
  ((s.setBand n (fun b => { b with lost := true })).bump Rf.CAD_HOLDINFO_LOST).raise 0xC007 0 n

/-- ABANDON: every held band whose Intake replay has not started is lost, the open one with them; ignored with
event 0xC00B outside hold and catch-up. The first live band is that of the first tick at which Intake is done (R134). -/
def execAbandon (s : State) : Host.Outcome State Fault Refusal :=
  .next (if s.cadState < 2 then s.raise 0xC00B 0
    else
      let l := (s.cad.bands.filter (fun b => b.held && !b.lost && !s.replayBegun b.band)).map (·.band)
      (l.foldl State.lose s).serve)

/-- CATCH_UP_START: every section has completed every band before the first held one, and its corrected slot is free on
every enabled port. -/
def execCatchUpStart (s : State) : Host.Outcome State Fault Refusal :=
  let h := s.cad.h
  when' (decide (s.cadState = 2) && (List.range 4).all (fun i => s.secDone i h) && s.portsOn.all (fun p => s.correctedFree p h)) s
    (((s.setrf Rf.CAD_GEAR_STATE 3).raise 0xC005 0 h).serve)

/-- The units of the section before that make what unit `u` works on, whether served or not: for Fuse the served ports whose
spans meet its strip, or every one where there is none; for Sieve the Fuse unit of its strip; for Pack the served Sieve units
of its strip, or the Fuse unit where there is none (DEDUCED from R132's "the unit of the preceding section", log 62). -/
def State.before (s : State) (u : Nat) : List Nat :=
  if u < 48 then []
  else if u < 64 then
    let l := (s.secUnits 0).filter (fun p => (s.camReaders p).contains (u - 48))
    if l = [] then s.secUnits 0 else l
  else if u < 96 then [48 + (u - 64) / 2]
  else
    let l := [64 + 2 * (u - 96), 65 + 2 * (u - 96)].filter (fun v => s.serving v)
    if l = [] then [48 + (u - 96)] else l

/-- The token of band `n` may be issued to unit `u` without a tick: a held band's in catch-up, any in a drain, once the
unit of the preceding section has completed the band and the unit itself the one before it (R132, R410). -/
def State.heldDue (s : State) (u n : Nat) : Bool :=
  let held := s.bandHeld n && !(decide (s.cadState = 2) && decide (s.cad.h ≤ n))
  let drain := s.cad.stop && s.bandClosed n
  s.cadOn && (held || drain) && !s.bandLost n && decide (n ≤ (s.wu u).done) &&
    (if u < 48 then s.tokenDue 0 n else (s.before u).all (fun v => decide (n < (s.wu v).done)))

/-- None of the lines of band `n` is left in the raw ring of any enabled port. -/
def State.allGone (s : State) (n : Nat) : Bool :=
  decide (s.portsOn ≠ []) && s.portsOn.all (fun p => s.overwritten p (n * s.height + s.height - 1))

/-- A held band whose replay is due with no line of it left is lost (R133): Intake's next one. -/
def State.loseGone (s : State) : State :=
  let n := s.cad.nI
  if s.bandHeld n ∧ !s.bandLost n ∧ !s.replayBegun n ∧
      (s.secUnits 0).any (fun u => s.heldDue u n) ∧ s.allGone n then s.lose n else s

/-- The next band of a unit: its token where it may be issued, and past a lost one. -/
def State.unitNext (s : State) (sec u : Nat) : State :=
  let n := (s.wu u).next
  if s.bandLost n then (if n ≤ (s.wu u).done then s.passUnit n u else s)
  else if s.heldDue u n then (s.giveToken n u (s.tokenTimes n)).bandGear sec n
  else s

/-- A section's pointer follows its units: the first band some unit has not had its token of. -/
def State.secNext (s : State) (sec : Nat) : State :=
  match s.secUnits sec with
  | [] => s
  | us => s.setCad (s.cad.setNext sec (us.foldl (fun m u => min m (s.wu u).next) (s.wu (us.headD 0)).next))

/-- A section with no unit in service has its tokens of held bands, and of a drain, as those before it have theirs. -/
def State.emptyNext (s : State) (sec : Nat) : State :=
  let n := s.cad.next sec
  if s.secUnits sec = [] ∧ (s.cad.stop && s.bandClosed n || s.bandHeld n && !(decide (s.cadState = 2) && decide (s.cad.h ≤ n))) ∧
      (sec = 0 ∨ n < s.cad.next (sec - 1)) then s.issue1 sec n
  else s

/-- HELD_TOKEN_ISSUE: every unit of a section takes the token of its next band where it is due (R132); a held band with no
lines left is lost instead (R133). -/
def execHeldTokenIssue (sec : Fin 4) (s : State) : Host.Outcome State Fault Refusal :=
  let t := if sec.val = 0 then s.loseGone else s
  let t := ((t.secUnits sec).foldl (fun t u => t.unitNext sec u) t).secNext sec
  .next (t.emptyNext sec).serve

/-- TICK_JITTER_ISSUE: the delay of the last tick is over. -/
def execTickJitterIssue (s : State) : Host.Outcome State Fault Refusal :=
  match s.cad.jit with
  | some c => .next (s.advanceTo c).endJitter
  | none => .next s

end Sys2Proof.Machine
end

