-- ==== Sys2Proof/Machine/Triggers.lean ====
section
/-! DEFINITION. Line triggers and what a change of position does: the generators and their brake, encoder and input
edges, and the firing of compare entries (7.2, 7.4 to 7.6). -/

namespace Sys2Proof.Machine

/-! ### Generators (R207 to R212) -/

/-- The generator may make events: enabled, in a mode that runs it. -/
def State.genOn (s : State) (g : Nat) : Bool := s.active && s.bit (Rf.POS_TG_CFG_EN g)

/-- The line-trigger brake: whether the event leaves (Table 14.7). -/
def State.brakeGen (s : State) (g : Nat) : Bool × State :=
  let x := s.genSt g
  let soon := match x.left with
    | some c => decide (s.count < c + countsOfNs (s.rf (Rf.BRK_TRG_MIN_NS g)))
    | none => false
  if soon then (false, (s.bump (Rf.POS_TG_STAT_BRAKED g)).raiseMs 0xB004 g)
  else (true, s.setGenSt g { x with left := some s.count })

/-- An event of a generator with the time it latches: it is latched, a MASTER event comes to the cadence unit before it
becomes a line, and it leaves as a TRG block or as a pulse of PW × 5 ns. -/
def State.genFire (s : State) (g time : Nat) : State :=
  let enc : Word := BitVec.ofNat 64 (s.posCount (s.rf (Rf.POS_TG_CFG_LATCH_CH g)))
  let t : Word := BitVec.ofNat 64 time
  let s := (s.setrf (Rf.POS_TG_LAST_COUNT g) enc.toNat).setrf (Rf.POS_TG_STAT_EVENTS g) (s.rf (Rf.POS_TG_STAT_EVENTS g) + 1)
  let s := (s.setrf (Rf.POS_TG_LTIME_TIME_NS g) (time % 2 ^ 32)).setrf (Rf.POS_TG_LTIME_WRAP g) (t.toNat / 2 ^ 32)
  let s := if s.master = g then s.masterLine (t, enc) else s
  if g < 48 then
    if s.withholds g then s.portTrigger g enc t false
    else
      let b := s.brakeGen g
      b.2.portTrigger g enc t b.1
  else
    let b := s.brakeGen g
    if b.1 then b.2.setGenSt g { b.2.genSt g with pulse := some (s.count + countsOfNs (5 * s.rf (Rf.POS_TG_CFG_PW g))) }
    else b.2

/-- The start and the period of a TIME schedule, and its instant `k`. -/
def State.genStart (s : State) (g : Nat) : Nat := s.rf (Rf.POS_TG_START_TIME_NS g) + 2 ^ 32 * s.rf (Rf.POS_TG_START_WRAP g)
def State.genAt (s : State) (g k : Nat) : Nat := (s.genStart g + k * s.rf (Rf.POS_TG_PERIOD_PERIOD g) / 2 ^ 32) % 2 ^ 64

/-! ### A tick of the cycle of a trigger comes first (R109)

The command that stands for the tick may wait in the queue behind the trigger's. The tick is then made with the trigger, and
the command, when it comes, finds it made. -/

/-- The event of a TIME or EXT generator that is due by now: the time it latches, and the generator without it. -/
def State.genDue (s : State) (g : Nat) : Option (Nat × GenSt) :=
  let x := s.genSt g
  let d := s.rf (Rf.POS_TG_CFG_DELAY_NS g)
  if !s.genOn g then none
  else match s.rf (Rf.POS_TG_CFG_SRC g), x.pend with
    | 2, _ => if s.countReach (s.genAt g x.k) ≤ s.count then some (s.genAt g x.k, { x with k := x.k + 1 }) else none
    | 3, c :: cs => if c + countsOfNs d ≤ s.count then some ((s.timeAt c + d) % 2 ^ 64, { x with pend := cs }) else none
    | _, _ => none

/-- An edge of a kind: 0 rising, 1 falling, 2 both. -/
def edgeIs (kind : Nat) (level : Bool) : Bool := kind == 2 || (kind == 0) == level

/-- An external edge for the cadence unit: ignored within PERIOD/2 of the last tick (R112), else a tick. -/
def State.extTick (s : State) : State :=
  let last := s.rf Rf.CAD_TICK_TIME_NS + 2 ^ 32 * s.rf Rf.CAD_TICK_WRAP
  if s.cad.started ∧ 2 * ((s.now + 2 ^ 64 - last) % 2 ^ 64) < s.rf Rf.CAD_PERIOD_PERIOD_NS then s.bump Rf.CAD_CNT_EXT_IGN
  else s.tick none

/-- A command that waits is the edge of the cadence unit's input, by now. -/
def State.isTickEdge (s : State) (i : Instr) : Bool :=
  match i with
  | .dinEdge d level edge => decide (s.rf Rf.CAD_SRC_DIN = d.val) && edgeIs (s.rf Rf.CAD_SRC_EDGE) level &&
      decide (edge.date ≤ s.count) && passes (s.rf (Rf.POS_DIN_CFG_FILT d)) edge.held &&
      decide (level ≠ s.bit (Rf.POS_DIN_STAT_LEVEL d))
  | _ => false

/-- The tick of a trigger's own cycle, made before it (the order among the commands of one cycle: DESIGN CHOICE, log 196). -/
def State.tickFirst (s : State) (g : Nat) : State :=
  let more (t : State) : State := t.setCad { t.cad with ahead := t.cad.ahead + 1 }
  if !s.ticking then s
  else match s.cadSrc with
    | 0 =>
      if g ≠ s.master ∧ (!s.cad.started ∨ s.height ≤ s.cad.lines) then
        match s.genDue s.master with
        | some (t, x) => (s.setGenSt s.master { x with ahead := x.ahead + 1 }).genFire s.master t
        | none => s
      else s
    | 1 => if s.countReach s.nextTickTime ≤ s.count then more (s.tick none) else s
    | _ => if s.cad.ahead = 0 ∧ s.pending.any s.isTickEdge then more s.extTick else s

/-- An event of a generator, behind a tick of its own cycle. -/
def State.genEvent (s : State) (g time : Nat) : State := (s.tickFirst g).genFire g time

/-- Generators that meet a test make their events, MASTER first: a tick comes before the lines of its own cycle
(R109). -/
def State.fireGens (s : State) (want : State → Nat → Option Nat) : State :=
  let one (s : State) (g : Nat) : State := match want s g with
    | some t => s.genEvent g t
    | none => s
  let m := s.master
  let s := one s m
  ((List.range 56).filter (fun g => g ≠ m)).foldl one s

/-- The first index of a schedule whose instant is not before device time `t`. -/
def firstAfter (start period t : Nat) : Nat :=
  let d := toSigned 64 (t + 2 ^ 64 - start)
  if d ≤ 0 then 0 else ceilDiv (d.toNat * 2 ^ 32) (max 1 period)

/-- A schedule begins anew with the first instant not before now. -/
def State.rearmTime (s : State) (g : Nat) : State :=
  s.setGenSt g { s.genSt g with k := firstAfter (s.genStart g) (s.rf (Rf.POS_TG_PERIOD_PERIOD g)) s.now }

/-- TRIGGER_TIME: the next instant of a TIME generator, which is the time latched; nothing where a trigger of that instant has
brought the event on. -/
def execTriggerTime (gen : Fin 56) (s : State) : Host.Outcome State Fault Refusal :=
  let x := s.genSt gen
  let at' := s.genAt gen x.k
  let t := (s.advanceTo (s.countReach at')).setGenSt gen { x with k := x.k + 1 }
  when' (s.genOn gen && decide (s.rf (Rf.POS_TG_CFG_SRC gen) = 2)) s
    (if 0 < x.ahead then s.setGenSt gen { x with ahead := x.ahead - 1 } else t.genEvent gen at')

/-- TRIGGER_EXT: DELAY_NS after the oldest pending edge; the time latched is the edge's date plus the delay. Nothing where a
trigger of that instant has brought the event on. -/
def execTriggerExt (gen : Fin 56) (s : State) : Host.Outcome State Fault Refusal :=
  let x := s.genSt gen
  let d := s.rf (Rf.POS_TG_CFG_DELAY_NS gen)
  if 0 < x.ahead then .next (s.setGenSt gen { x with ahead := x.ahead - 1 })
  else match x.pend with
  | [] => .next s
  | c :: cs =>
    let t := (s.advanceTo (c + countsOfNs d)).setGenSt gen { x with pend := cs }
    when' (s.genOn gen && decide (s.rf (Rf.POS_TG_CFG_SRC gen) = 3)) s (t.genEvent gen ((s.timeAt c + d) % 2 ^ 64))

/-- Whether the count of a POS generator's channel, moved on in its forward direction, stands at a target beyond the
high-water target. -/
def State.posFires (s : State) (g ch : Nat) (down : Bool) : Bool :=
  let dir := s.bit (Rf.POS_TG_CFG_DIR g)
  let c := s.posCount ch
  let d := countDiff c (s.rf (Rf.POS_TG_ORIGIN_ORIGIN g))
  let p : Int := s.rf (Rf.POS_TG_PITCH_PITCH g)
  let k := (d * 2 ^ 32 + p - 1) / p
  let beyond := match (s.genSt g).high with
    | some h => decide (0 < (if dir then countDiff h c else countDiff c h))
    | none => true
  s.genOn g && decide (s.rf (Rf.POS_TG_CFG_SRC g) = 1) && decide (s.rf (Rf.POS_TG_CFG_CH g) = ch) && (dir == down) &&
    decide (k * p / 2 ^ 32 = d) && beyond

/-- The POS generators of a channel after its count has moved at a date. -/
def State.firePos (s : State) (ch date : Nat) (down : Bool) : State :=
  let fires := (List.range 56).filter (fun g => s.posFires g ch down)
  let s := fires.foldl (fun s g => s.setGenSt g { s.genSt g with high := some (s.posCount ch) }) s
  s.fireGens (fun s g => if fires.contains g then some (s.timeAt date) else none)

/-! ### Edges -/

/-- One filtered edge of A or B: the count moves, generators fire, repeat inputs follow. -/
def State.encEdge (s : State) (ch : Nat) (down : Bool) (date : Nat) : State :=
  ((s.moveCount ch down date).firePos ch date down).repFollow ch date

/-- The filtered levels of a channel change (R197). Both at once is a quadrature error. -/
def State.levels (s : State) (ch : Nat) (a b : Bool) (date : Nat) : State :=
  let x := s.encCh ch
  let s := s.setEncCh ch { x with a := a, b := b }
  if !s.bit (Rf.POS_ENC_CFG_EN ch) then s
  else if a ≠ x.a ∧ b ≠ x.b then (s.bump (Rf.POS_ENC_STAT_ERR ch)).raiseMs 0x3001 ch
  else if a = x.a ∧ b = x.b then s
  else s.encEdge ch (encDown x.a x.b a b != s.bit (Rf.POS_ENC_CFG_DIRINV ch)) date

/-- ENCODER_EDGE (R196, R197): a raw transition of A or B at its date, once its levels have outlasted the filter. -/
def execEncoderEdge (ch : Fin 8) (a b : Bool) (edge : RawEdge) (s : State) : Host.Outcome State Fault Refusal :=
  when' (passes (s.rf (Rf.POS_ENC_CFG_FILT ch)) edge.held) s ((s.advanceTo edge.date).levels ch a b edge.date)

/-- A qualifying edge of an input for an EXT generator: every DIV-th waits DELAY_NS; a 17th waiting is dropped. -/
def State.extEdge (s : State) (g date : Nat) : State :=
  let x := s.genSt g
  if x.div + 1 < s.rf (Rf.POS_TG_CFG_DIV g) then s.setGenSt g { x with div := x.div + 1 }
  else if x.pend.length < 16 then s.setGenSt g { x with div := 0, pend := x.pend ++ [date] }
  else (s.setGenSt g { x with div := 0 }).bump (Rf.POS_TG_STAT_DROPPED g)

/-- DIN_EDGE (R204): a raw transition of a digital input at its date, once its level has outlasted the input's own
filter. An edge of the kind EDGE selects is latched, marks the repeat
and serves the generators; the cadence unit selects its own kind. -/
def execDinEdge (d : Fin 8) (level : Bool) (edge : RawEdge) (s : State) : Host.Outcome State Fault Refusal :=
  let date := edge.date
  let t := (s.advanceTo date).setrf (Rf.POS_DIN_STAT_LEVEL d) (if level then 1 else 0)
  let c := t.posCount (t.rf (Rf.POS_DIN_CFG_LATCH_CH d))
  let time := t.timeAt date
  let t := if edgeIs (t.rf (Rf.POS_DIN_CFG_EDGE d)) level then
      (let t := ((t.setrf (Rf.POS_DIN_LAT_COUNT d) c).setrf (Rf.POS_DIN_TIME_TIME_NS d) (time % 2 ^ 32))
       let t := (t.setrf (Rf.POS_DIN_TIME_WRAP d) (time / 2 ^ 32)).bump (Rf.POS_DIN_STAT_EDGES d)
       let t := if t.bit (Rf.POS_DIN_CFG_REPEAT d) then t.repEdge d c time else t
       (List.range 56).foldl (fun t g =>
         if t.genOn g && decide (t.rf (Rf.POS_TG_CFG_SRC g) = 3) && decide (t.rf (Rf.POS_TG_CFG_DIN g) = d.val) then
           t.extEdge g date else t) t)
    else t
  when' (passes (s.rf (Rf.POS_DIN_CFG_FILT d)) edge.held && decide (level ≠ s.bit (Rf.POS_DIN_STAT_LEVEL d))) s
    (if t.ticking && decide (t.cadSrc = 2) && decide (t.rf Rf.CAD_SRC_DIN = d.val) && edgeIs (t.rf Rf.CAD_SRC_EDGE) level then
       (if 0 < t.cad.ahead then t.setCad { t.cad with ahead := t.cad.ahead - 1 } else t.extTick) else t)

/-! ### Compare units (R216 to R218) -/

/-- The head leaves the list; the next one takes the entry level given. -/
def State.cmpPop (s : State) (u : Nat) (qe : Int) : State :=
  let c := s.cmpU u
  s.setCmpU u { c with list := c.list.drop 1, qe := qe }

/-- A fired entry drives its markers and makes an event on each LVDS generator it names; its outcome is confirmed. In
SAFE nothing is driven. -/
def State.cmpFire (s : State) (u : Nat) (x : CmpEntry) (outcome behind : Nat) : State :=
  if s.silenced then s.confirmMark u x 7 0 behind
  else
    let s := ((List.range 16).filter (fun o => x.outMask.testBit o)).foldl (fun s o => s.driveMk u o x) s
    let s := s.fireGens (fun s g =>
      if 48 ≤ g ∧ x.lmask.testBit (g - 48) ∧ s.genOn g ∧ s.rf (Rf.POS_TG_CFG_SRC g) = 4 then some s.now else none)
    if x.confirm || decide (outcome ≠ 0) then s.confirmMark u x outcome x.outMask behind else s

/-- The head of a list at the level of this cycle. While heads leave, one a cycle, each takes the level before the step
of Q that is being served, so that all the entries due in one step fire (R216, R219; DEDUCED, log 160); a cycle in which
no head leaves ends the step. -/
def State.cmpStep (s : State) (u : Nat) : State :=
  let c := s.cmpU u
  match c.list with
  | [] => s
  | x :: _ =>
    let q := s.cmpQ u
    let pos := s.cmpSign u * toSigned 64 x.e0.toNat
    let behind := (c.qe - pos).toNat
    let fired (s : State) : State := s.cmpPop u c.qb
    if pos ≤ c.qe then
      let s := s.raiseMs 0x300E u
      if s.bit (Rf.POS_CMP_CFG_FIRE_LATE u) then
        (if s.silenced then fired s else (fired s).bump (Rf.POS_CMP_STAT_LATEF u)).cmpFire u x 2 behind
      else ((s.cmpPop u c.qe).bump (Rf.POS_CMP_STAT_LATE u)).confirmMark u x 1 0 behind
    else if pos ≤ q then (if s.silenced then fired s else (fired s).bump (Rf.POS_CMP_STAT_FIRED u)).cmpFire u x 0 0
    else s.keepLevel u

/-- COMPARE_FIRE: one cycle of a compare unit. In STANDBY the units do not run, and their lists are empty. -/
def execCompareFire (u : Fin 4) (s : State) : Host.Outcome State Fault Refusal :=
  when' (s.bit (Rf.POS_CMP_CFG_EN u) && decide (s.mode ≠ 0)) s (s.cmpStep u)

end Sys2Proof.Machine
end

