-- ==== Sys2Proof/Machine/Time.lean ====
section
/-! DEFINITION. Device time: steps, rate, snapshots, the reference clock, PPS and the messages of PTP (chapter 13). -/

namespace Sys2Proof.Machine

/-! ### OFFSET (R368) -/

/-- OFFSET in units of 2^-32 ns, modulo 2^96. -/
def State.offset (s : State) : Nat := s.rf Rf.TIM_OFS_INT_OFFSET * 2 ^ 32 + s.rf Rf.TIM_OFS_FRAC_OFFSET
def State.setOffset (s : State) (v : Int) : State :=
  let n := ofSigned 96 v
  (s.setrf Rf.TIM_OFS_INT_OFFSET (n / 2 ^ 32)).setrf Rf.TIM_OFS_FRAC_OFFSET (n % 2 ^ 32)

/-! ### Instants that a step passes (R373) -/

/-- The index of the last instant of a schedule not after device time `t`, and one more: 0 where there is none. The
period is in units of 2^-32 ns. -/
def instantsTo (start period t : Nat) : Nat :=
  let d := toSigned 64 (t + 2 ^ 64 - start)
  if d < 0 then 0 else (d.toNat * 2 ^ 32 + 2 ^ 32 - 1) / max 1 period + 1

/-- A TIME generator serves the latest of its passed instants, with the time of this cycle; the number it skips. -/
def State.passGen (s : State) (g : Nat) : Nat × State :=
  let x := s.genSt g
  let n := instantsTo (s.genStart g) (s.rf (Rf.POS_TG_PERIOD_PERIOD g)) s.now
  if s.genOn g ∧ s.rf (Rf.POS_TG_CFG_SRC g) = 2 ∧ x.k < n then
    (n - x.k - 1, (s.setGenSt g { x with k := n }).genEvent g s.now)
  else (0, s)

/-- A stream's slot grid serves the latest of its passed slots; the number it skips. `j` was its next slot before the
step. -/
def State.passSlot (s : State) (st j : Nat) : Nat × State :=
  let x := s.str st
  let n := instantsTo (s.rf (Rf.TIM_LSLOT_START st)) (s.rf (Rf.TIM_LSLOTP_PERIOD st) * 2 ^ 32) s.now
  if s.bit (Rf.PAK_STR_CFG_EN st) ∧ s.bit (Rf.PAK_STR_CFG_LAUNCH st) ∧ j < n then
    let m := s.rf (Rf.TIM_LSLOTP_QUOTA st)
    let p := strPortOf st
    let t := (s.setStr st { x with slotQ := x.slotQ.drop m, slot := n }).setSp p
      { s.sp p with q := (s.sp p).q ++ (x.slotQ.take m).map (fun k => (⟨st, k, .new⟩ : Tx)) }
    (n - j - 1, t)
  else (0, s)

/-- Every schedule serves what a step has passed: the skipped instants are counted, with event 0x9007. -/
def State.servePassed (before s : State) : State :=
  let add (r : Nat × State) (q : Nat × State) : Nat × State := (r.1 + q.1, q.2)
  let r := (List.range 56).foldl (fun r g => add r (r.2.passGen g)) (0, s)
  let r := (List.range 8).foldl (fun r st => add r (r.2.passSlot st (before.slotNo st))) r
  let s := if 0 < r.1 then (r.2.bump Rf.TIM_CNT_SKIPPED r.1).raise 0x9007 r.1 else r.2
  s.flow

/-! ### Steering (R369, R371, R372) -/

/-- The device time as it stood before the first write of this cycle that steers it. -/
def State.steers (s : State) : State :=
  match s.time.wrote with
  | some (c, _) => if c = s.count then s else { s with time := { s.time with wrote := some (s.count, s.now) } }
  | none => { s with time := { s.time with wrote := some (s.count, s.now) } }

/-- TIM_NOW as it is read: in the cycle of a write that steers it, the value before the write (R372). -/
def State.timNow (s : State) : Nat :=
  match s.time.wrote with
  | some (c, t) => if c = s.count then t else s.now
  | none => s.now

/-- A step that takes OFFSET to `v`, of `n` ns: refused while the cadence unit runs. After it the PPS output rises at the
instants that device time passes from where it now stands (log 205). -/
def State.stepTo (s : State) (v : Int) (n : Nat) : State :=
  if s.cadOn then s.raise 0x9005 n
  else
    let t := s.steers.setOffset v
    s.servePassed (({ t with time := { t.time with out := none } }.bump Rf.TIM_CNT_STEPS).raise 0x9004 n)

def State.timStep (s : State) (v : Word) : State := s.stepTo (s.offset + v.toInt * 2 ^ 32) v.toNat

/-- A write of either OFFSET register: a step by another path. -/
def State.timOfs (s : State) (frac : Bool) (v : Word) : State :=
  if frac then s.stepTo (s.rf Rf.TIM_OFS_INT_OFFSET * 2 ^ 32 + v.toNat % 2 ^ 32 : Nat) 0
  else s.stepTo (v.toNat * 2 ^ 32 + s.rf Rf.TIM_OFS_FRAC_OFFSET : Nat) ((v.toNat + 2 ^ 64 - s.rf Rf.TIM_OFS_INT_OFFSET) % 2 ^ 64)

/-- A rate write: OFFSET follows, so that T does not jump. -/
def State.timRate (s : State) (v : Word) : State :=
  let r := v.toNat
  if r < 3432537863 ∨ 3439409810 < r then s.raise 0x9006 (Rf.TIM_RATE_RATE).addr
  else (s.steers.setOffset (s.offset + s.count * ((s.rf Rf.TIM_RATE_RATE : Nat) - (r : Nat) : Int))).setrf Rf.TIM_RATE_RATE r

def execTimStep (v : BitVec 64) (s : State) : Host.Outcome State Fault Refusal := .next (s.timStep v)
def execTimOfsWrite (frac : Bool) (v : BitVec 64) (s : State) : Host.Outcome State Fault Refusal := .next (s.timOfs frac v)
def execTimRateWrite (v : BitVec 64) (s : State) : Host.Outcome State Fault Refusal := .next (s.timRate v)

/-- TIM_SNAP (R375): COUNT and T of one cycle. -/
def execTimSnap (s : State) : Host.Outcome State Fault Refusal :=
  .next ((s.setrf Rf.TIM_SNAPC_COUNT s.count).setrf Rf.TIM_SNAPT_T s.now)

/-! ### The reference clock (R374) -/

/-- REFERENCE_LOST: the reference has been missing or off by more than 100 ppm for 10 µs; holdover (log 204). -/
def execReferenceLost (s : State) : Host.Outcome State Fault Refusal :=
  when' (s.bit Rf.TIM_CFG_REF10 && !s.bit Rf.TIM_STAT_HOLDOVER) s
    ((({ s with time := { s.time with lostAt := s.count } }.setrf Rf.TIM_STAT_HOLDOVER 1).setrf Rf.TIM_STAT_LOCKED 0).raise 0x9001)

/-- REFERENCE_RELOCK: the clock is locked; after holdover, no sooner than 100 ms after the loss, that is event 0x9002. -/
def execReferenceRelock (s : State) : Host.Outcome State Fault Refusal :=
  let t := if s.bit Rf.TIM_STAT_HOLDOVER then s.advanceTo (s.time.lostAt + countsOfUs 100000) else s
  let t := (t.setrf Rf.TIM_STAT_HOLDOVER 0).setrf Rf.TIM_STAT_LOCKED 1
  when' (s.bit Rf.TIM_CFG_REF10 && !s.bit Rf.TIM_STAT_LOCKED) s
    (if s.bit Rf.TIM_STAT_HOLDOVER then t.raise 0x9002 else t)

/-! ### PPS (R379) -/

/-- PPS_IN_EDGE: the edge is dated, unless it follows the last within 0.5 s. -/
def execPpsInEdge (date : Nat) (s : State) : Host.Outcome State Fault Refusal :=
  let t := s.advanceTo date
  let soon := match t.time.pps with
    | some c => decide (date < c + countsOfUs 500000)
    | none => false
  let u := (t.setrf Rf.TIM_PPSIN_T (t.timeAt date)).setrf Rf.TIM_STAT_PPS_OK 1
  .next (if soon then t else { u with time := { u.time with pps := some date, missed := false } })

/-- PPS_MISSING: 1.5 s after the last edge. -/
def execPpsMissing (s : State) : Host.Outcome State Fault Refusal :=
  match s.time.pps with
  | some c =>
    let t := (s.advanceTo (c + countsOfUs 1500000)).setrf Rf.TIM_STAT_PPS_OK 0
    when' (!s.time.missed) s ({ t with time := { t.time with missed := true } }.raise 0x9003)
  | none => .next s

/-- The instant of the PPS output in second `n`. -/
def State.ppsInstant (s : State) (n : Nat) : Nat := n * 1000000000 + s.rf Rf.TIM_PPS_OUT_PH

/-- The second whose PPS output edge comes next: the least whose instant device time has not passed, and is not the one the
output has just risen at. -/
def State.nextSecond (s : State) : Nat :=
  let k := ceilDiv (s.now - s.rf Rf.TIM_PPS_OUT_PH) 1000000000
  if s.time.out = some (s.ppsInstant k) then k + 1 else k

/-- PPS_OUT: the output rises at a whole second plus OUT_PH and stays high for OUT_W. -/
def execPpsOut (s : State) : Host.Outcome State Fault Refusal :=
  let i := s.ppsInstant s.nextSecond
  let t := s.advanceTo (s.countReach (i % 2 ^ 64))
  when' (s.bit Rf.TIM_PPS_OUT_EN) s
    { t with time := { t.time with out := some i, outEnd := some (t.count + countsOfUs (s.rf Rf.TIM_PPS_OUT_W)) } }

/-! ### PTP (R378) -/

/-- A message is one the port takes part in: of its domain, its transport and its delay mechanism; with priority1 at 255 the
port stays a slave, and is in no state of a master (5 and 6 in the numbering of IEEE 1588-2019). -/
def ptpTakes (c : PtpCfg) (m : PtpMsg) : Bool :=
  m.domain == c.domain && m.transport == c.transport && (m.kind == .sync || (m.kind == .pdelay) == c.peer) &&
    !(c.priority1 == 255 && (m.state == 5 || m.state == 6))

/-- PTP_MESSAGE: an event message, timestamped with T at the management port; the servo of the running firmware keeps what it
learns and steers by a step or a rate. What the protocol makes of a message is IEEE 1588's, and its operands (log 203). -/
def execPtpMessage (m : PtpMsg) (s : State) : Host.Outcome State Fault Refusal :=
  let t := s.advanceTo m.date
  let t := { t with time := { t.time with stamp := t.timeAt m.date, state := m.state.toNat, master := m.master.toNat,
                                          offset := m.offset.toNat, delay := m.delay.toNat } }
  when' (decide (s.rf Rf.MGT_STAT_FW = 1) && ptpTakes s.mgt.ptp m) s
    (match m.act with
     | .none => t
     | .step v => t.timStep v
     | .rate v => t.timRate v)

end Sys2Proof.Machine
end

