-- ==== Sys2Proof/Machine/Mgmt.lean ====
section
/-! DEFINITION. The management subsystem: sensors, telemetry, SMBus, the log and the black box in flash, and the host
mailbox with the firmware's updates (14.1 to 14.5). -/

namespace Sys2Proof.Machine

def State.setMgt (s : State) (m : MgtUnit) : State := { s with mgt := m }

/-- The firmware runs, or the boot ROM serves recovery (MGT_STAT.FW). -/
def State.fwRuns (s : State) : Bool := decide (s.rf Rf.MGT_STAT_FW = 1)
def State.recovery (s : State) : Bool := decide (s.rf Rf.MGT_STAT_FW = 2)

/-! ### Flash (Table 14.2) -/

def flashBank (b : Bool) : Nat := if b then 0x2100000 else 0x100000
def bankSize : Nat := 0x2000000
def boardCopy (b : Bool) : Nat := if b then 0x4200000 else 0x4100000
def saveSlot (j : Nat) : Nat := 0x4300000 + 0x100000 * j
def logRing : Nat := 0x4B00000
def logSlots : Nat := 0x200000

/-- The bytes of a range of flash that are not 0, numbered from its start. -/
def State.flashCells (s : State) (a n : Nat) : List Host.Cell :=
  (s.mgt.flash.filter (fun c => decide (a ≤ c.1) && decide (c.1 < a + n))).map (fun c => (c.1 - a, c.2))

/-- Replace a range of flash by cells that lie in it; no cells erase it. -/
def State.flashPut (s : State) (a n : Nat) (cells : List Host.Cell) : State :=
  s.setMgt { s.mgt with flash := replaceRange (fun _ => 0) s.mgt.flash a n cells }

/-! ### Sensors (R386) -/

def sensorKind (i : Nat) : Nat :=
  if i < 40 then 1 else if i < 65 then 2 else if i < 71 then 3 else if i < 119 then (if i % 2 = 1 then 4 else 5) else 0

/-- The sensors whose supply the main rails are not. -/
def islandSensor (i : Nat) : Bool := decide (i = 0) || (decide (65 ≤ i) && decide (i < 71))

def State.sensor (s : State) (i : Nat) : Option Sensor := (s.mgt.sensors.find? (fun e => e.1 == i)).map (·.2)

/-- A sample is taken: its value and time. A stack sensor gives the temperature of the two channels of its stack. -/
def State.sample (s : State) (i : Nat) (v : BitVec 16) : State :=
  if 119 ≤ i ∨ (!s.modes.mains && !islandSensor i) then s
  else
    let alarm := ((s.sensor i).map (·.alarm)).getD false
    let s := s.setMgt { s.mgt with sensors := insert1 s.mgt.sensors i ⟨v.toNat, s.now % 2 ^ 32, alarm, true⟩ }
    if 40 ≤ i ∧ i < 65 then
      let t := ofSigned 8 (v.toInt / 8)
      (s.setrf (Rf.HUB_CH_STAT_TEMP (2 * (i - 40))) t).setrf (Rf.HUB_CH_STAT_TEMP (2 * (i - 40) + 1)) t
    else s

/-- The board table in use. -/
def State.boardTable (s : State) : List Host.Cell := s.flashCells (boardCopy s.mgt.copyB) 0x100000

/-- Supervision compares a sensor with its limits: event 0xA005 when ALARM changes. -/
def State.supervise (s : State) (i : Nat) : State :=
  match s.sensor i with
  | some x =>
    let a := x.valid && Config.sensorOut s.boardTable i (BitVec.ofNat 16 x.value)
    if a = x.alarm then s
    else (s.setMgt { s.mgt with sensors := insert1 s.mgt.sensors i { x with alarm := a } }).raise 0xA005 i (if a then 1 else 0)
  | none => s

/-- SUPERVISION_SCAN: the samples of this millisecond, and, while the firmware runs, every entry against its limits. -/
def execSupervisionScan (samples : List SensorSample) (s : State) : Host.Outcome State Fault Refusal :=
  let t := samples.foldl (fun s x => s.sample x.i x.value) s
  .next (if t.fwRuns then (List.range 119).foldl (fun s i => s.supervise i) t else t)

/-- The word of a sensor entry (Table 14.3). -/
def State.sensorWord (s : State) (i : Nat) : Nat :=
  match s.sensor i with
  | some x => x.value % 2 ^ 16 + sensorKind i * 2 ^ 16 + (if x.alarm then 2 ^ 20 else 0) + (if x.valid then 2 ^ 21 else 0) +
      x.time % 2 ^ 32 * 2 ^ 32
  | none => sensorKind i * 2 ^ 16

/-! ### Telemetry (R385) -/

/-- TELEMETRY_UPDATE: the firmware writes the page, its first word the time; a late update doubles the period, up to
10 s, with event 0xA007. An update in time returns to the normal pace. The duties above it go first: a mailbox command, and
the log (R385; which of them a command shows as ready is DEDUCED, log 172). -/
def execTelemetryUpdate (late : Bool) (page : List (BitVec 8)) (s : State) : Host.Outcome State Fault Refusal :=
  let cells := cellsOf 0 s.now 8 ++ (cellsAt 0 (page.take 4096)).filter (fun c => decide (8 ≤ c.1))
  let t := s.setMgt { s.mgt with page := cells, period := if late then min 10000 (2 * s.mgt.period) else 100 }
  when' (s.fwRuns && s.mgt.result.isNone && s.logq.isEmpty) s (if late ∧ s.mgt.period < 10000 then t.raise 0xA007 t.mgt.period else t)

/-! ### The log and the black box (R388 to R391) -/

/-- The words of an entry (Table 14.5). -/
def logWords (e : EvRec) (rep : Nat) (coal : Bool) : List Nat :=
  [e.code % 2 ^ 16 + (if coal then 2 ^ 16 else 0) + e.seq % 2 ^ 32 * 2 ^ 32, e.time % 2 ^ 64, e.a0 % 2 ^ 64,
   e.a1 % 2 ^ 32 + rep % 2 ^ 32 * 2 ^ 32]

/-- Words as cells from an address. -/
def natCells (a : Nat) (ws : List Nat) : List Host.Cell := (ws.zipIdx).flatMap (fun w => cellsOf (a + 8 * w.2) w.1 8)

/-- LOG_WRITE: the firmware, with no mailbox command to serve (R385), writes the oldest queued entry to the flash ring;
coalescing ends below a quarter. -/
def execLogWrite (s : State) : Host.Outcome State Fault Refusal :=
  match s.logq with
  | [] => .next s
  | l :: q =>
    let a := logRing + 32 * (s.mgt.logN % logSlots)
    let t := s.flashPut a 32 (natCells a (logWords l.ev l.rep l.coal))
    let t := { t with mgt := { t.mgt with logN := t.mgt.logN + 1 }, logq := q, logCoal := s.logCoal && decide (1024 ≤ q.length) }
    let t := (t.setrf Rf.MGT_LOG_SEQ l.ev.seq).setrf Rf.MGT_LOG_QUEUE q.length
    when' (s.fwRuns && s.mgt.result.isNone) s (if l.coal then t.bump Rf.MGT_LOG_COAL else t)

/-- The black box ring as cells from an address. -/
def State.bboxCells (s : State) (a : Nat) : List Host.Cell :=
  s.bbox.flatMap (fun e => natCells (a + 32 * e.1) (logWords e.2 0 false))

/-- The lowest-numbered erased save slot. -/
def State.erasedSlot (s : State) : Option Nat := (List.range 8).find? (fun j => (s.rf Rf.MGT_BBOX_ERASED).testBit j)

/-- POWER_FAIL_WARNING: the black box goes to the lowest-numbered erased save slot, behind a header with the power-on
count and the time. -/
def State.powerFail (s : State) : State :=
  match s.erasedSlot with
  | some j =>
    let a := saveSlot j
    let t := s.flashPut a 0x81000 (natCells a [s.rf Rf.GLB_STRAP_POWERON, s.now] ++ s.bboxCells (a + 4096))
    let t := t.setMgt { t.mgt with saved := some j, lost := true, slots := t.mgt.slots.filter (· ≠ j) ++ [j] }
    t.setrf Rf.MGT_BBOX_ERASED (s.rf Rf.MGT_BBOX_ERASED - 2 ^ j)
  | none => s.setMgt { s.mgt with saved := none, lost := true }

def execPowerFailWarning (s : State) : Host.Outcome State Fault Refusal := .next s.powerFail

/-- After a boot the oldest save slots are erased until two are: those never used first, then in the order of their
use. -/
def State.eraseSlots (s : State) : State :=
  let order := (List.range 8).filter (fun j => !s.mgt.slots.contains j) ++ s.mgt.slots
  order.foldl (fun s j =>
    let e := s.rf Rf.MGT_BBOX_ERASED
    if 2 ≤ ((List.range 8).filter (fun i => e.testBit i)).length ∨ e.testBit j then s
    else ((s.flashPut (saveSlot j) 0x100000 []).setMgt
      { s.mgt with flash := replaceRange (fun _ => 0) s.mgt.flash (saveSlot j) 0x100000 [], slots := s.mgt.slots.filter (· ≠ j) }).setrf
      Rf.MGT_BBOX_ERASED (e + 2 ^ j)) s

/-! ### SMBus (R387, Table 14.4) -/

/-- A register as one word; fields that the island derives are read where they are shown. -/
def State.wordAt (s : State) (off : Nat) : Nat := regWord s ((regAt off).getD [])

/-- A byte of the readout space. -/
def State.readout (s : State) (a : Nat) : BitVec 8 :=
  let byte (w k : Nat) : BitVec 8 := BitVec.ofNat 8 (w / 2 ^ (8 * k))
  if a < 8 then byte (s.wordAt 0) a
  else if a < 0x10 then byte (s.wordAt 8) (a - 8)
  else if a < 0x18 then byte (s.wordAt 0xE00048) (a - 0x10)
  else if a < 0x20 then byte (s.wordAt 0xE00078) (a - 0x18)
  else if 0x1000 ≤ a ∧ a < 0x1400 then byte (s.sensorWord ((a - 0x1000) / 8)) (a % 8)
  else if 0x2000 ≤ a ∧ a < 0x3000 then look (fun _ => 0) s.mgt.page (a - 0x2000)
  else if 0x100000 ≤ a ∧ a < 0x180000 then look (fun _ => 0) (s.bboxCells 0x100000) a
  else 0

/-- One byte into the PEC of SMBus 3.1: a CRC of x⁸ + x² + x + 1, from 0 (PRESUMED, log 174). -/
def pecByte (c b : BitVec 8) : BitVec 8 :=
  (List.range 8).foldl (fun c _ => if c.msb then (c <<< 1) ^^^ 0x07 else c <<< 1) (c ^^^ b)

/-- The PEC of the bytes of a transfer. -/
def pecOf (bs : List (BitVec 8)) : BitVec 8 := bs.foldl pecByte 0

/-- The address byte of the target on the bus: 0x58 plus the two straps, with the direction below it. -/
def State.smbDev (s : State) (rd : Bool) : BitVec 8 :=
  BitVec.ofNat 8 (2 * (0x58 + s.rf Rf.GLB_STRAP_SMBADDR) + if rd then 1 else 0)

/-- The PEC that a SEL of an address has: its block write of 4 bytes. -/
def State.selPec (s : State) (addr : BitVec 32) : BitVec 8 :=
  pecOf ([s.smbDev false, 0x01, 4] ++ (List.range 4).map (fun k => BitVec.ofNat 8 (addr.toNat / 256 ^ k)))

/-- SMBUS_SEL, with the PEC if one was sent: a wrong one refuses the transfer. -/
def execSmbusSel (sel : SmbSel) (s : State) : Host.Outcome State Fault Refusal :=
  when' (s.modes.vin && sel.pec.all (· == s.selPec sel.addr)) s (s.setMgt { s.mgt with smbAddr := sel.addr.toNat })

/-- SMBUS_READ: a block read of 32 bytes with its PEC, and the address advances. -/
def execSmbusRead (s : State) : Host.Outcome State Fault Refusal :=
  let a := s.mgt.smbAddr
  let bytes := (List.range 32).map (fun k => s.readout ((a + k) % 2 ^ 32))
  when' s.modes.vin s (s.setMgt { s.mgt with smbData := bytes, smbAddr := (a + 32) % 2 ^ 32,
                                             smbPec := pecOf ([s.smbDev false, 0x02, s.smbDev true, 32] ++ bytes) })

/-! ### The mailbox (R392) -/

/-- What a command answers: RESULT, the result's bytes and the state it leaves. -/
abbrev Answer := Nat × List (BitVec 8) × State

/-- The commands that the boot ROM serves in recovery (R396). -/
def romServes (i : MbxCmd) : Bool :=
  match i with
  | .info | .updBegin .. | .updData .. | .updVerify | .updActivate => true
  | _ => false

/-- A command is served: by the firmware, or in recovery by the boot ROM, which refuses what it does not serve; its result
is under way. A command that finds neither waits for the processor's start. -/
def State.serveMbx (s : State) (tag : BitVec 16) (i : MbxCmd) (f : State → Answer) : State :=
  let give (r : Answer) : State := r.2.2.setMgt { r.2.2.mgt with result := some (r.1, r.2.1, tag.toNat) }
  if s.fwRuns || (s.recovery && romServes i) then give (f s)
  else if s.recovery then give (3, [], s)
  else s.setMgt { s.mgt with cmd := some (tag, i) }

/-- A command written to the mailbox: ignored with event 0xA010 while one is served; else BUSY sets, and it is served. -/
def State.mailbox (s : State) (tag : BitVec 16) (i : MbxCmd) (f : State → Answer) : State :=
  if s.bit Rf.MGT_MBX_STAT_BUSY then s.raise 0xA010 tag.toNat
  else ((s.setrf Rf.MGT_MBX_STAT_BUSY 1).setMgt { s.mgt with discard := false }).serveMbx tag i f

/-- A plain result without bytes. -/
def ok (s : State) : Answer := (0, [], s)


/-- MAILBOX_COMPLETE: the firmware, or in recovery the boot ROM, writes the result to the buffer and the status register,
BUSY clears and the vector is signalled; after a host reset the result is discarded. One whose processor starts anew waits
for it (DESIGN CHOICE, log 173). -/
def execMailboxComplete (s : State) : Host.Outcome State Fault Refusal :=
  match s.mgt.result with
  | none => .next s
  | some (r, bytes, tag) =>
    let t := s.setMgt { s.mgt with result := none, discard := false }
    if !s.fwRuns && !s.recovery then .next s
    else if s.mgt.discard then .next t
    else
      let n := min bytes.length 65536
      let m := cellsAt 0 (bytes.take n)
      let s := (List.range (ceilDiv n 8)).foldl (fun s k => s.setrf (Rf.MGT_MBX_BUF_DATA k) (readLE m (8 * k) 8)) t
      let s := (s.setrf Rf.MGT_MBX_STAT_RESULT r).setrf Rf.MGT_MBX_STAT_LEN n
      let s := (s.setrf Rf.MGT_MBX_STAT_TAG tag).setrf Rf.MGT_MBX_STAT_BUSY 0
      .next (s.signal (s.rf Rf.MGT_MBX_CFG_VECTOR))

/-- MAILBOX_BUSY: a CMD write while BUSY. -/
def execMailboxBusy (v : BitVec 64) (s : State) : Host.Outcome State Fault Refusal :=
  when' (s.bit Rf.MGT_MBX_STAT_BUSY) s (s.raise 0xA010 (v.toNat / 2 ^ 48))

/-! ### Its commands (Table 14.6) -/

/-- Firmware updates and board tables are taken in STANDBY and SERVICE alone (R393). -/
def State.mayUpdate (s : State) : Bool := decide (s.mode ≤ 1)

/-- The inactive bank: the one that is not the confirmed bank. -/
def State.inactive (s : State) : Bool := !s.mgt.good

/-- The SVN of a bank's image. -/
def State.svnOf (s : State) (b : Bool) : Nat := (Config.imageSvn (s.flashCells (flashBank b) bankSize)).toNat

/-- INFO: what Table 14.6 names, in a layout that the spec does not give. -/
def State.info (s : State) : Answer :=
  (0, Config.infoBytes s.free (s.svnOf false) (s.svnOf true) (s.rf Rf.MGT_STAT_FUSED) s.mgt.copyB, { s with free := s.free + 1 })

/-- LOG_READ: entries of the flash ring from a SEQ on. -/
def State.logRead (s : State) (seq count : Nat) : Answer :=
  if 2040 < count then (2, [], s)
  else
    let lo := s.mgt.logN - logSlots
    let at' (i : Nat) : Nat := logRing + 32 * (i % logSlots)
    let l := ((List.range' lo (s.mgt.logN - lo)).filter (fun i => decide (seq ≤ readLE s.mgt.flash (at' i + 4) 4))).take count
    (0, l.flatMap (fun i => bytesOf s.mgt.flash (at' i) 32), s)

/-- BBOX_READ: up to 64 KiB of a save slot from an offset. -/
def State.bboxRead (s : State) (slot offset : Nat) : Answer :=
  if 7 < slot ∨ 0x81000 ≤ offset then (2, [], s)
  else (0, bytesOf s.mgt.flash (saveSlot slot + offset) (min 65536 (0x81000 - offset)), s)

/-- UPD_BEGIN: the inactive bank is erased. -/
def State.updBegin (s : State) (len : Nat) : Answer :=
  if !s.mayUpdate then (3, [], s)
  else if bankSize < len then (2, [], s)
  else
    let b := s.inactive
    let s := s.flashPut (flashBank b) bankSize []
    ok (s.setMgt { s.mgt with checked := false, len0 := if b then s.mgt.len0 else len, len1 := if b then len else s.mgt.len1 })

/-- UPD_DATA. -/
def State.updData (s : State) (off : Nat) (data : List (BitVec 8)) : Answer :=
  if !s.mayUpdate then (3, [], s)
  else if 65528 < data.length ∨ bankSize < off + data.length then (2, [], s)
  else
    let a := flashBank s.inactive + off
    let s := s.flashPut a data.length (cellsAt a data)
    ok (s.setMgt { s.mgt with checked := false })

/-- The result of checking a bank: 0 valid, 4 signature invalid, 5 rollback refused (R394). -/
def State.checkBank (s : State) (b : Bool) : Nat :=
  let m := s.flashCells (flashBank b) bankSize
  let k := (Config.imageKey m).toNat
  if 4 ≤ k ∨ (s.rf Rf.MGT_STAT_KEYREV).testBit k then 4
  else if (Config.imageSvn m).toNat < s.rf Rf.MGT_STAT_FUSED then 5
  else 0

/-- UPD_VERIFY: event 0xA00B where the image is refused. -/
def State.updVerify (s : State) : Answer :=
  let r := s.checkBank s.inactive
  let t := s.setMgt { s.mgt with checked := decide (r = 0) }
  (r, [], if r = 0 then t else t.raise 0xA00B r)

/-- UPD_ACTIVATE: a verified bank becomes the trial bank; the RESULT for one that is not verified is not stated, and is
free but for 0. -/
def State.updActivate (s : State) : Answer :=
  if s.mgt.checked then
    ok (((s.setMgt { s.mgt with trial := s.inactive }).setrf Rf.MGT_STAT_TRIAL 1).setrf Rf.MGT_STAT_TRIES 0)
  else let r := s.freeBits 8; (r.1 % 6 + 1, [], r.2)

/-- The trial bank runs. -/
def State.trialRuns (s : State) : Bool :=
  s.bit Rf.MGT_STAT_TRIAL && s.fwRuns && decide (s.bit Rf.MGT_STAT_BANK = s.mgt.trial)

/-- UPD_CONFIRM: the running trial bank becomes the confirmed bank, and fuses are blown to its SVN. -/
def State.updConfirm (s : State) : Answer :=
  if s.trialRuns then
    let b := s.mgt.trial
    let f := min 64 (max (s.rf Rf.MGT_STAT_FUSED) (s.svnOf b))
    let t := (s.setMgt { s.mgt with good := b, checked := false }).setrf Rf.MGT_STAT_TRIAL 0
    ok ((t.setrf Rf.MGT_STAT_FUSED f).raise 0xA00A f)
  else (3, [], s)

/-- BOARD_WRITE: a table that passes its check goes to the copy not in use, with event 0xA00F. -/
def State.boardWrite (s : State) (table : List (BitVec 8)) : Answer :=
  if !s.mayUpdate then (3, [], s)
  else if 0x100000 < table.length ∨ !Config.boardOk table then (2, [], s)
  else
    let b := !s.mgt.copyB
    let s := s.flashPut (boardCopy b) 0x100000 (cellsAt (boardCopy b) table)
    ok ((s.setMgt { s.mgt with nextB := b }).raise 0xA00F)

/-- PTP_SET (Table 13.2): stored, and in force at once. -/
def State.ptpSet (s : State) (c : PtpCfg) : Answer :=
  let log (v : Int) : Bool := decide (-4 ≤ v) && decide (v ≤ 4)
  if c.domain.toNat ≤ 127 ∧ c.transport.toNat < 3 ∧ log c.logSync ∧ log c.logDelay then
    ok (s.setMgt { s.mgt with ptp := c })
  else (2, [], s)

/-- PTP_STATUS: what the port last knew, in a layout that the spec does not give. -/
def State.ptpStatus (s : State) : Answer :=
  (0, Config.ptpBytes s.free s.time.state s.time.master s.time.offset s.time.delay, { s with free := s.free + 1 })

/-- NET_SET: stored. -/
def State.netSet (s : State) (c : NetCfg) : Answer := ok (s.setMgt { s.mgt with net := some c })

def execInfo (tag : BitVec 16) (s : State) : Host.Outcome State Fault Refusal := .next (s.mailbox tag .info State.info)
def execLogRead (tag : BitVec 16) (seq : BitVec 32) (count : Nat) (s : State) : Host.Outcome State Fault Refusal :=
  .next (s.mailbox tag (.logRead seq count) (fun s => s.logRead seq.toNat count))
def execBboxRead (tag : BitVec 16) (slot offset : Nat) (s : State) : Host.Outcome State Fault Refusal :=
  .next (s.mailbox tag (.bboxRead slot offset) (fun s => s.bboxRead slot offset))
def execUpdBegin (tag : BitVec 16) (len : Nat) (s : State) : Host.Outcome State Fault Refusal :=
  .next (s.mailbox tag (.updBegin len) (fun s => s.updBegin len))
def execUpdData (tag : BitVec 16) (off : Nat) (data : List (BitVec 8)) (s : State) : Host.Outcome State Fault Refusal :=
  .next (s.mailbox tag (.updData off data) (fun s => s.updData off data))
def execUpdVerify (tag : BitVec 16) (s : State) : Host.Outcome State Fault Refusal :=
  .next (s.mailbox tag .updVerify State.updVerify)
def execUpdActivate (tag : BitVec 16) (s : State) : Host.Outcome State Fault Refusal :=
  .next (s.mailbox tag .updActivate State.updActivate)
def execUpdConfirm (tag : BitVec 16) (s : State) : Host.Outcome State Fault Refusal :=
  .next (s.mailbox tag .updConfirm State.updConfirm)
def execBoardWrite (tag : BitVec 16) (table : List (BitVec 8)) (s : State) : Host.Outcome State Fault Refusal :=
  .next (s.mailbox tag (.boardWrite table) (fun s => s.boardWrite table))
def execPtpSet (tag : BitVec 16) (cfg : PtpCfg) (s : State) : Host.Outcome State Fault Refusal :=
  .next (s.mailbox tag (.ptpSet cfg) (fun s => s.ptpSet cfg))
def execPtpStatus (tag : BitVec 16) (s : State) : Host.Outcome State Fault Refusal :=
  .next (s.mailbox tag .ptpStatus State.ptpStatus)
def execNetSet (tag : BitVec 16) (cfg : NetCfg) (s : State) : Host.Outcome State Fault Refusal :=
  .next (s.mailbox tag (.netSet cfg) (fun s => s.netSet cfg))

/-! ### The boot ROM's selection (R395) -/

/-- The bank the boot ROM begins with: a trial bank for three starts, then the confirmed one. -/
def State.bootFirst (s : State) : Bool × State :=
  if s.bit Rf.MGT_STAT_TRIAL then
    if s.rf Rf.MGT_STAT_TRIES < 3 then (s.mgt.trial, s.setrf Rf.MGT_STAT_TRIES (s.rf Rf.MGT_STAT_TRIES + 1))
    else (s.mgt.good, (s.setrf Rf.MGT_STAT_TRIAL 0).raise 0xA009)
  else (s.mgt.good, s)

/-- The bank that is run: one that is not valid gives way to the other; none is recovery. -/
def State.bootPick (s : State) : Option Bool × State :=
  if s.bit Rf.GLB_STRAP_BOOT_SEL then (none, s)
  else
    let r := s.bootFirst
    if r.2.checkBank r.1 = 0 then (some r.1, r.2)
    else if r.2.checkBank (!r.1) = 0 then (some (!r.1), r.2.raise 0xA009)
    else (none, r.2)

/-- A start that a further reset cuts short before FIRMWARE_READY has made its selection all the same, and counts. A
processor that RESET_N holds has not started. -/
def State.countStart (s : State) : State := if s.rf Rf.MGT_STAT_FW = 0 ∧ s.modes.held = false then s.bootPick.2 else s

/-! ### The UART in recovery (R396) -/

/-- The CRC-32C of bytes. -/
def crcOf (bs : List (BitVec 8)) : BitVec 32 := (bs.foldl crcByte 0xFFFFFFFF#32) ^^^ 0xFFFFFFFF#32

/-- UART_FRAME: in recovery, 1,024 bytes whose CRC holds are written at their offset into the bank that is not the
confirmed one. -/
def execUartFrame (off : Nat) (data : List (BitVec 8)) (crc : BitVec 32) (s : State) : Host.Outcome State Fault Refusal :=
  let a := flashBank s.inactive + off
  let t := s.flashPut a 1024 (cellsAt a data)
  when' (s.recovery && decide (data.length = 1024) && decide (off + 1024 ≤ bankSize) && decide (crcOf data = crc)) s
    (t.setMgt { t.mgt with checked := false })

/-! ### The watchdog's kick (R403) -/

/-- KICK: 0x5A from the management port restarts the timeout; a write of the host is ignored with event 0xA00E. -/
def execKick (port : Port) (v : BitVec 8) (s : State) : Host.Outcome State Fault Refusal :=
  match port with
  | .host => .next (s.raise 0xA00E 0x60)
  | .mgt => when' (decide (v = 0x5A)) s (s.setMgt { s.mgt with kickAt := s.count })

/-! ### The brake lock (R401) -/

/-- BRK_LOCK: every BRK field is locked, with event 0xB002; once locked the write is ignored with event 0x0002. -/
def execBrkLock (s : State) : Host.Outcome State Fault Refusal :=
  .next (if s.bit Rf.BRK_LOCK_LOCK then s.raise 0x0002 (Rf.BRK_LOCK_LOCK).addr
    else (s.setrf Rf.BRK_LOCK_LOCK 1).raise 0xB002)

end Sys2Proof.Machine
end

