-- ==== Sys2Proof/Machine/Entry.lean ====
section
/-! DEFINITION. Entry to TEACH, INSPECT and STREAM: the checks of Table 15.3, each a refusal with its event, and the
entry actions of Table 15.4. -/

namespace Sys2Proof.Machine

/-- A check that fails: its reason, and what it concerns. -/
abbrev Bad := Option (Nat × Nat)

/-- The first of some checks that fails. -/
def firstBadOf : List Bad → Bad
  | [] => none
  | some b :: _ => some b
  | none :: l => firstBadOf l

/-- The first number that fails, for a reason. -/
def badAt (reason : Nat) (l : List Nat) (ok : Nat → Bool) : Bad := (l.find? (fun p => !ok p)).map (fun p => (reason, p))

/-! ### Buffers (R22, R192, R245) -/

/-- A buffer in the hub: where it begins and how long it is. -/
abbrev Region := Nat × Nat

/-- The buffer lies in the user region of the capacity in service. -/
def State.inService (s : State) (b : Region) : Bool := decide (userBase ≤ b.1) && decide (b.1 + b.2 ≤ s.capacity)

/-- The raw ring, its tags and the corrected ring of a port (Tables 6.7, 6.8). -/
def State.portRings (s : State) (p : Nat) : List Region :=
  [(s.rf (Rf.SPK_RAW_BASE p), s.rawLines p * s.members p * s.packedLine p),
   (s.rf (Rf.SPK_RAWTAG_BASE p), 32 * s.rawLines p),
   (s.rf (Rf.SPK_COR_BASE p),
    s.corSlots p * s.height * (s.planes p * s.corLine p + s.maskBytes p + 32))]

/-- The stitched ring (Table 8.1). -/
def State.stitchedRing (s : State) : Region := (s.rf Rf.FUS_RING_BASE, s.fusSlots * s.fusSlotBytes)

/-- The rings in use: those of enabled ports and the stitched ring. -/
def State.rings (s : State) : List Region := s.portsOn.flatMap s.portRings ++ [s.stitchedRing]

/-- No two buffers of a list overlap. -/
def disjointAll : List Region → Bool
  | [] => true
  | b :: l => l.all (fun c => !overlap b c) && disjointAll l

/-- The buffer plan: event 0x0003 names the rule that fails. -/
def State.badPlan (s : State) : Bad :=
  let colour (p : Nat) : Bool := !s.bit (Rf.SPK_FMT_COLOUR p) || (s.delays p).contains 0
  firstBadOf [badAt 181 s.portsOn colour,
    badAt 192 s.portsOn (fun p => decide (2 * s.height ≤ s.rawLines p) && decide (4 ≤ s.corSlots p)),
    if 4 ≤ s.fusSlots then none else some (245, 0),
    badAt 192 s.portsOn (fun p => (s.portRings p).all s.inService && s.portsOn.all (fun q =>
      q == p || (s.portRings p).all (fun a => (s.portRings q).all (fun b => !overlap a b)))),
    if s.inService s.stitchedRing && disjointAll s.rings then none else some (245, 0)]

/-! ### Programs and budget (R61, R119) -/

/-- The units in use that have an engine: R61 does not speak of one marked unserved, which the checks leave out (DESIGN CHOICE,
log 197). -/
def State.unitsServed (s : State) : List Nat := (List.range 112).filter s.serving
def State.engineOf (s : State) (u : Nat) : Nat := s.rf (Rf.ENG_UNIT_ENGINE u)

def State.badProgram (s : State) : Bad :=
  badAt 0 s.unitsServed (fun u => s.bit (Rf.ENG_STATUS_ACTIVE_OK (s.engineOf u)))
def State.badBudget (s : State) : Bad :=
  badAt 0 s.unitsServed (fun u => decide (s.rf (Rf.ENG_ACT_BOUND_BOUND (s.engineOf u)) ≤ s.budget))

/-! ### One latch channel (R214) -/

def State.masterLatch (s : State) : Nat := s.rf (Rf.POS_TG_CFG_LATCH_CH s.master)

def State.badLatch (s : State) : Bad :=
  firstBadOf [badAt 0 s.portsOn (fun p => s.rf (Rf.POS_TG_CFG_LATCH_CH p) == s.masterLatch),
    badAt 1 (List.range 4) (fun u => !s.bit (Rf.POS_MK_CFG_MK_EN u) || s.rf (Rf.POS_CMP_CFG_CH u) == s.masterLatch)]

/-! ### Fuse (R246) -/

def State.cams (s : State) : List Nat := (List.range 48).filter s.camOn
def State.spanLo (s : State) (p : Nat) : Nat := s.rf (Rf.FUS_CAM_SPAN_U_LO p)
def State.spanHi (s : State) (p : Nat) : Nat := s.rf (Rf.FUS_CAM_SPAN_U_HI p)

/-- A delay keeps R233. -/
def State.delayOk (s : State) (p : Nat) : Bool :=
  let d := s.camDly p
  if d % 256 = 0 then decide (d ≤ 256 * s.height)
  else decide (128 * s.camV p ≤ d) && decide (d + 1024 ≤ 256 * s.height)

/-- F_p rises strictly from column to column over all the columns between its preimages of U_LO and U_HI: from the first step
between two columns that meets the span to the last one, and over all columns where none does. -/
def State.mapOk (s : State) (p : Nat) : Bool :=
  let steps := List.range (s.width p - 1)
  let f (x : Nat) : Int := s.camMap p x
  let lo : Int := s.spanLo p * 2 ^ 80
  let hi : Int := s.spanHi p * 2 ^ 80
  let meets (x : Nat) : Bool := decide (min (f x) (f (x + 1)) ≤ hi) && decide (lo ≤ max (f x) (f (x + 1)))
  let first := (steps.find? meets).getD 0
  let last := (steps.reverse.find? meets).getD (s.width p - 2)
  (List.range' first (last + 1 - first)).all (fun x => decide (f x < f (x + 1)))

def State.badFuse (s : State) : Bad :=
  let cs := s.cams
  let ref := s.rf Rf.FUS_GEOM_REFPORT
  firstBadOf [badAt 1 cs (fun p => decide (s.spanHi p < s.fusWidth) && decide (s.spanLo p ≤ s.spanHi p)),
    badAt 2 cs (fun p => decide ((cs.filter (fun q => decide (s.spanLo q ≤ s.spanLo p) && decide (s.spanLo p ≤ s.spanHi q))).length < 3)),
    badAt 3 cs s.delayOk,
    if s.camOn ref && decide (ref < 48) && decide (s.camDly ref = 0) then none else some (4, ref),
    badAt 5 cs s.portOn,
    badAt 6 cs (fun p => s.bit (Rf.SPK_FMT_COLOUR p) == s.bit Rf.FUS_GEOM_PLANES),
    badAt 7 cs s.mapOk]

/-- The first stitched pixel that lies in no span. -/
def State.uncovered (s : State) : Option Nat :=
  ((0 :: s.cams.map (fun p => s.spanHi p + 1)).filter (fun u => decide (u < s.fusWidth) &&
    !s.cams.any (fun p => decide (s.spanLo p ≤ u) && decide (u ≤ s.spanHi p)))).foldl
    (fun m u => match m with
      | some v => some (min u v)
      | none => some u) none

/-! ### Sieve (R276) -/

def aligned4K (b : Region) : Bool := decide (b.1 % 4096 = 0)

/-- The label merge table, the seam areas, the phase log and the periodic reference. -/
def State.sieveBufs (s : State) : List Region :=
  [(s.rf Rf.SIV_LMT_BASE, 0x80000000), (s.rf Rf.SIV_SEAMA_BASE, 0x4000000),
   (s.rf Rf.SIV_PLOG_BASE, s.rf Rf.SIV_PLOG_SLOTS * s.height * 4),
   (s.rf Rf.SIV_PREF_BASE_BASE, 16 * (s.rf Rf.SIV_PREF_PLINES + 1) * (ceilDiv s.fusWk 4096 * 4096))]

/-- The record queue, the crop staging area, and the retention rings of enabled streams. -/
def State.packBufs (s : State) : List Region :=
  [(s.rf Rf.PAK_RECQ_BASE, s.rf Rf.PAK_RECQ_SIZE * 0x100000), (s.rf Rf.PAK_CSTG_BASE, s.rf Rf.PAK_CSTG_SIZE * 0x100000)] ++
  ((List.range 8).filter (fun st => s.bit (Rf.PAK_STR_CFG_EN st))).map
    (fun st => (s.rf (Rf.PAK_STR_RET_BASE st), s.rf (Rf.PAK_STR_RET_SIZE st) * 0x1000000))

/-- Every buffer of a list is aligned, in service, and clear of the others and of the rest. -/
def State.bufsOk (s : State) (mine others : List Region) : Bool :=
  mine.all (fun b => aligned4K b && s.inService b) && disjointAll mine && mine.all (fun b => others.all (fun c => !overlap b c))

def State.recChain (s : State) (k : Nat) : Nat := s.rf Rf.SIV_CHAINS_REC_BASE + k
def State.pchChain (s : State) (u : Nat) : Nat := s.rf Rf.SIV_CHAINS_PCH_BASE + u

/-- The seam, record and phase chains, the mark chain and the confirmation chain. -/
def State.sieveChains (s : State) : List Nat :=
  [s.rf Rf.SIV_CHAINS_SEAM] ++ (List.range 16).map s.recChain ++ (List.range 32).map s.pchChain ++
  [s.rf Rf.POS_MK_CHAINS_MARK_CHAIN, s.rf Rf.POS_MK_CHAINS_CONF_CHAIN]

def distinct : List Nat → Bool
  | [] => true
  | c :: l => !l.contains c && distinct l

/-- The bits set of a 64-bit field; the producers of a chain, counted (isProducer reads the same two fields). -/
def bitCount (n : Nat) : Nat := ((List.range 64).filter (fun i => n.testBit i)).length
def State.producers (s : State) (c : Nat) : Nat := bitCount (s.rf (Rf.CHN_PROD0_PROD c)) + bitCount (s.rf (Rf.CHN_PROD1_PROD c))
def State.chainStore (s : State) (c : Nat) : Region := (s.rf (Rf.CHN_BASE_BASE c), s.producers c * s.share c * 8)

/-- The storage of every enabled chain (R341). -/
def State.chainStores (s : State) : List Region :=
  (((List.range 256).filter s.chainEn).map s.chainStore).filter (fun b => decide (b.2 ≠ 0))

def State.badSieve (s : State) : Bad :=
  let din := s.rf Rf.SIV_PREF_DIN
  let sieves := (List.range 32).filter (fun u => s.serving (64 + u))
  firstBadOf [if s.bufsOk s.sieveBufs (s.rings ++ s.packBufs ++ s.chainStores) then none else some (1, 0),
    badAt 2 sieves (fun u => decide (s.rf (Rf.SIV_LOOK_BOUND u) ≤ s.rf Rf.SIV_GEOM_LOOK_CYC)),
    if s.bit Rf.SIV_PREF_EN && !(s.bit (Rf.POS_DIN_CFG_REPEAT din) && s.rf (Rf.POS_DIN_CFG_LATCH_CH din) == s.masterLatch)
      then some (3, din) else none,
    if distinct (s.repChain :: s.sieveChains) then none else some (4, 0)]

/-! ### Pack (R305) -/

def State.outChain (s : State) (k : Nat) : Nat := s.rf Rf.PAK_CHAINS_OUT_BASE + k
def State.creqChain (s : State) (k : Nat) : Nat := s.rf Rf.PAK_CHAINS_CREQ_BASE + k

def State.packChains (s : State) : List Nat :=
  (List.range 16).map s.outChain ++ (List.range 16).map s.creqChain ++ [s.rf Rf.PAK_CHAINS_CROP, s.rf Rf.PAK_CHAINS_STATS]

/-- A range of host memory lies inside one brake window. -/
def State.inWindow (s : State) (a n : Nat) : Bool :=
  (List.range 16).any (fun w =>
    let b := s.rf (Rf.BRK_WIN0_BASE w) * 4096
    decide (b ≤ a) && decide (a + n ≤ b + s.rf (Rf.BRK_WIN1_PAGES w) * 4096))

def State.badPack (s : State) : Bad :=
  let reps := (List.range 8).map (fun d => s.rf (Rf.POS_DIN_CFG_REP_CHAIN d))
  let streams := (List.range 8).filter (fun st => s.bit (Rf.PAK_STR_CFG_EN st))
  let rs := (List.range 64).filter (fun r => s.bit (Rf.PAK_RING_CFG_EN r))
  let large (st : Nat) : Bool := decide (s.rf (Rf.PAK_STR_CFG_TYPES st) / 32 % 4 ≠ 0)
  firstBadOf [if distinct s.packChains && s.packChains.all (fun c => !(s.sieveChains ++ reps).contains c) then none else some (1, 0),
    if s.bufsOk s.packBufs (s.rings ++ s.sieveBufs ++ s.chainStores) then none else some (2, 0),
    badAt 3 streams (fun st => !large st || decide ((if s.strV6 st then 8336 else 8316) ≤ s.rf (Rf.PAK_STR_CFG_DGMAX st))),
    badAt 4 streams (fun st => s.bit (Rf.BRK_DST2_EN (s.rf (Rf.PAK_STR_CFG_DST st)))),
    badAt 5 rs (fun r => s.inWindow (s.rf (Rf.PAK_RING_BASE_ADDR r)) (2 ^ s.rf (Rf.PAK_RING_CFG_SIZE_LOG r)) &&
      s.inWindow (s.rf (Rf.PAK_RING_WB_ADDR r)) 8)]

/-! ### Chains (R352) -/

/-- A chain that a register or a program names, with the consumer and the producers it makes. -/
abbrev Named := Nat × Option Nat × List Nat

/-- The chains a program of a unit binds. -/
def Image.binds (m : Image) (u : Nat) : List Named :=
  ((List.range 16).filter m.bound?).map (fun q => if m.out? q then (m.chainOf q, none, [u]) else (m.chainOf q, some u, []))

/-- The chains that the active program of a unit's engine binds, and one that is admitted in the staging bank. -/
def State.boundChains (s : State) (u : Nat) : List Named :=
  let e := s.engineOf u
  let b := s.activeBank e
  ((s.eng e).bank b).binds u ++ (if ((s.eng e).adm (!b)).result = 1 then ((s.eng e).bank (!b)).binds u else [])

def State.named (s : State) : List Named :=
  let sieves := ((List.range 32).map (64 + ·)).filter s.serving
  let used (d : Nat) : Bool := s.bit Rf.SIV_PREF_EN && s.rf Rf.SIV_PREF_DIN == d
  s.unitsServed.flatMap s.boundChains ++
  [(s.rf Rf.POS_MK_CHAINS_MARK_CHAIN, some 113, sieves), (s.rf Rf.POS_MK_CHAINS_CONF_CHAIN, some 96, [113]),
   (s.rf Rf.SIV_CHAINS_SEAM, some 115, sieves)] ++
  (List.range 16).flatMap (fun k => [
    (s.recChain k, some (96 + k), 115 :: sieves.filter (fun u => (u - 64) / 2 == k)),
    (s.outChain k, some 117, [96 + k]), (s.creqChain k, some (96 + k), [96 + k])]) ++
  (List.range 32).map (fun u => (s.pchChain u, some (64 + u), [114])) ++
  (List.range 8).map (fun d => (s.rf (Rf.POS_DIN_CFG_REP_CHAIN d), if used d then some 114 else none, [113])) ++
  [(s.rf Rf.PAK_CHAINS_CROP, some 116, (List.range 16).map (96 + ·)), (s.rf Rf.PAK_CHAINS_STATS, some 117, s.portsOn)]

/-- The chains that carry TC0 traffic. -/
def State.tc0Chains (s : State) : List Nat :=
  [s.rf Rf.SIV_CHAINS_SEAM, s.rf Rf.POS_MK_CHAINS_MARK_CHAIN, s.rf Rf.POS_MK_CHAINS_CONF_CHAIN] ++
  (List.range 16).map s.recChain ++
  ((List.range 8).filter (fun d => s.bit (Rf.POS_DIN_CFG_REPEAT d))).map (fun d => s.rf (Rf.POS_DIN_CFG_REP_CHAIN d)) ++
  (List.range 256).filter (fun c => s.chainEn c && s.isProducer c 112)

def State.badChains (s : State) : Bad :=
  let ns := s.named
  let on := (List.range 256).filter s.chainEn
  let free (c : Nat) : Bool :=
    decide ((s.chainStore c).2 = 0) || (s.inService (s.chainStore c) &&
      (((on.filter (· ≠ c)).map s.chainStore).filter (fun b => decide (b.2 ≠ 0)) ++ s.rings ++ s.sieveBufs ++ s.packBufs).all
        (fun b => !overlap (s.chainStore c) b))
  firstBadOf [(ns.find? (fun n => !s.chainEn n.1)).map (fun n => (1, n.1)),
    (ns.find? (fun n => (match n.2.1 with
      | some e => s.rf (Rf.CHN_CFG_CONS n.1) != e
      | none => false) || n.2.2.any (fun p => !s.isProducer n.1 p))).map (fun n => (2, n.1)),
    badAt 3 on (fun c => decide ((s.chainStore c).1 % 64 = 0) && free c),
    badAt 4 s.tc0Chains (fun c => decide (s.rf (Rf.CHN_CFG_CLASS c) = 0))]

/-! ### The checks in order (Table 15.3) -/

/-- The first failed check as its event and the details it names. -/
def State.entryRefused (s : State) : Option (Nat × Nat × Nat) :=
  let ev (code : Nat) (b : Bad) : Option (Nat × Nat × Nat) := b.map (fun r => (code, r.1, r.2))
  ev 0x0003 s.badPlan <|> ev 0xD009 (s.badProgram.map (fun r => (s.engineOf r.2 + 256 * r.2, 0))) <|> ev 0xC00A (s.badBudget.map (fun r => (r.2, 0))) <|>
  ev 0x300D s.badLatch <|> ev 0x4001 s.badFuse <|> ev 0x5001 s.badSieve <|> ev 0x6001 s.badPack <|> ev 0x8001 s.badChains

/-! ### Entry actions (Table 15.4) -/

/-- An engine at the start values of R53: only its programs stay. -/
def Engine.fresh (x : Engine) : Engine :=
  { bank0 := x.bank0, bank1 := x.bank1, adm0 := x.adm0, adm1 := x.adm1, walk := x.walk, swapAt := x.swapAt, loadAt := x.loadAt,
    injected := x.injected, errs := x.errs.filter (fun k => decide (k.1 / 2 ^ 32 = 1)) }

/-- Action 2: start values, and the constant image in every engine that serves a unit. -/
def State.startValues (s : State) : State :=
  (List.range 119).foldl (fun s e => (s.setEng e (s.eng e).fresh).loadConstants e) s

/-- The table as it is rewritten: EPOCH 0xFFFF in every entry, STATE 0, and every other bit 0. -/
def lmtRewritten (b : Nat) : List Host.Cell :=
  (List.range (2 ^ 24)).flatMap (fun l => [(b + 128 * l + 94, 0xFF), (b + 128 * l + 95, 0xFF)])

/-- Action 3 (R263): the epoch rises, or the table is rewritten, by TC3 on every channel that serves a slot. -/
def State.lmtEpoch (s : State) : State :=
  if !s.bit Rf.SIV_SEQ_CLEAN ∨ s.rf Rf.SIV_SEQ_EPOCH = 0xFFFE then
    let b := s.rf Rf.SIV_LMT_BASE
    let out (k : Nat) : Bool := !cwIn b 0x80000000 k
    let t := { s with hub := replaceRange (fun _ => 0) s.hub b 0x80000000 (lmtRewritten b),
                      hubU := { s.hubU with errs := s.hubU.errs.filter (fun e => out e.1), wback := s.hubU.wback.filter out } }
    let t := t.touch true 3 b 0x80000000
    (t.setrf Rf.SIV_SEQ_EPOCH 0).setrf Rf.SIV_SEQ_CLEAN 1
  else s.setrf Rf.SIV_SEQ_EPOCH (s.rf Rf.SIV_SEQ_EPOCH + 1)

/-- Action 4 (R304): the slack of both inequalities in whole µs, and whether each holds. -/
def State.recordBound (s : State) : State :=
  let sieves := (List.range 32).filter (fun u => s.serving (64 + u))
  let most (f : Nat → Nat) : Nat := (sieves.map f).foldl max 0
  let f : Int := s.rf Rf.CAD_BUDGET_CLK_MHZ * (256 - s.rf Rf.CAD_GEOM_RESERVE : Nat)
  let σ : Int := s.rf Rf.PAK_TC0_SLACK_US
  let l : Int := most (fun u => s.rf (Rf.SIV_LOOK_BOUND u))
  let b : Int := most (fun u => s.rf (Rf.ENG_ACT_BOUND_BOUND (s.engineOf (64 + u))))
  let p : Int := s.rf Rf.CAD_PERIOD_PERIOD_NS
  let base : Int := ((5476 - 200 * σ) * f - 25600 * l) / (100 * f)
  let rerun : Int := ((p + 2000 - 3000 * σ) * f - 256000 * (2 * b + l)) / (1000 * f)
  let show' (v : Int) : Nat := ofSigned 16 (clampInt (-32768) 32767 v)
  let s := (s.setrf Rf.PAK_TC0_BASE_OK (if 0 ≤ base then 1 else 0)).setrf Rf.PAK_TC0_RERUN_OK (if 0 ≤ rerun then 1 else 0)
  (s.setrf Rf.PAK_TC0_BASE_MARGIN (show' base)).setrf Rf.PAK_TC0_RERUN_MARGIN (show' rerun)

/-- Action 5: sessions rise, retention is emptied, SEQ returns to 0. -/
def State.newSessions (s : State) : State :=
  ((List.range 8).foldl (fun s st => s.setrf (Rf.PAK_STR_SESS_SESSION st) (s.rf (Rf.PAK_STR_SESS_SESSION st) + 1)) s).emptyStreams

/-- Actions 1 to 5. -/
def State.entryActions (s : State) : State := s.emptyChains.startValues.lmtEpoch.recordBound.newSessions

/-! ### The start of the cadence unit (R114) -/

/-- What a port keeps of an earlier run: its link. -/
def PortUnit.fresh (x : PortUnit) : PortUnit :=
  { x with cur := none, trigs := [], rows := [], lastSs := none, bands := [], cuts := [], tokens := 0, grpBand := 0, grpNext := 0,
           missed := [], grpSeen := (0, 0), commits := [], rawTo := 0 }

/-- The device time of T(-1) under SRC = 1: START, or, where it has passed, the first of its instants at least 10 µs
ahead. -/
def State.startInstant (s : State) : Nat :=
  let t := s.rf Rf.CAD_START_TIME_NS + 2 ^ 32 * s.rf Rf.CAD_START_WRAP
  let late := toSigned 64 (s.now + 2 ^ 64 - t)
  let p := max 1 (s.rf Rf.CAD_PERIOD_PERIOD_NS)
  if 0 < late then (t + ceilDiv (late.toNat + 10000) p * p) % 2 ^ 64 else t

/-- Counters of the run at 0: trigger numbers, rows and bands. -/
def State.startPort (s : State) (p : Nat) : State :=
  ((s.setPort p (s.port p).fresh).setrf (Rf.SPK_PTRG_LSEQ p) 0).setrf (Rf.SPK_RAWPOS_NEXT p) 0

/-- A unit's engine waits for its first band; a spare that is not ready yet is left to become ready. -/
def State.startUnit (s : State) (u : Nat) : State :=
  let w := s.wu u
  let s := s.setWu u { failed := w.failed }
  if s.serving u ∧ w.failed.isNone then s.setrf (Rf.ENG_STATUS_STATE (s.engineOf u)) 1 else s

/-- A marking station at the start of a run; its list of entries stays. -/
def CmpUnit.fresh (x : CmpUnit) : CmpUnit := { x with built := [], band := 0, drops := [], told := [] }

/-- The cadence unit starts. -/
def State.cadStart (s : State) : State :=
  let s := { s with cad := { start := s.startInstant }, phase := {}, seam := {}, tc0 := {}, strips := [],
                    out := { s.out with nextHdr := 0, cropN := 0 }, pos := { s.pos with ends := [] } }
  let s := (List.range 48).foldl State.startPort s
  let s := (List.range 112).foldl State.startUnit s
  let s := (List.range 4).foldl (fun s u => s.setCmpU u (s.cmpU u).fresh) s
  let s := (List.range 56).foldl (fun s g => s.setrf (Rf.POS_TG_STAT_EVENTS g) 0) s
  let s := (s.setrf Rf.SIV_SEQ_NEXT_ID 1).setrf Rf.CAD_BAND_BAND 0
  let s := (s.setrf Rf.CAD_GEAR_STATE 1).setrf Rf.CAD_GEAR_CLEAN_CNT 0
  let s := (s.setrf Rf.CAD_GEAR_THERM s.thermFloor).setrf Rf.CAD_HOLDINFO_BACKLOG 0
  s.setrf Rf.CAD_GEAR_CUR s.gearFloor

end Sys2Proof.Machine
end

