-- ==== Sys2Proof/Machine/Scratch.lean ====
section
/-! DEFINITION. Scratch and hub movement: lds, sts, ldw, hld, hst and the completion of a copy (Table 2.10, R47 to
R49). -/

namespace Sys2Proof.Machine

def execLds (e : Eng) (g : BitVec 4) (d a : BitVec 6) (off : BitVec 24) (s : State) : Host.Outcome State Fault Refusal :=
  issueOp s e (.lds e g d a off)

def execSts (e : Eng) (g : BitVec 4) (b a : BitVec 6) (off : BitVec 24) (s : State) : Host.Outcome State Fault Refusal :=
  issueOp s e (.sts e g b a off)

/-- An ldw is issued: by descriptor, each group asked for in the band, and the place in program order that the stream
instructions issued before the first ldw of it come before (R171). -/
def Engine.noteLdw (x : Engine) (dd : BitVec 4) (g : Nat) : Engine :=
  let l := look (fun _ => []) x.ldws dd.toNat
  if l.any (fun q => q.1 == g) then x else { x with ldws := put (fun _ => []) x.ldws dd.toNat ((g, x.nextSeq) :: l) }

def execLdw (e : Eng) (dd : BitVec 4) (a : BitVec 6) (s : State) : Host.Outcome State Fault Refusal :=
  let x := s.eng e
  when' (s.runs e) s ((s.setEng e (x.noteLdw dd (x.s a).toNat)).issue e (.ldw e dd a))

def execHld (e : Eng) (g : BitVec 4) (dd da : BitVec 4) (rows : BitVec 12) (s : State) : Host.Outcome State Fault Refusal :=
  issueOp s e (.hld e g dd da rows)

def execHst (e : Eng) (g : BitVec 4) (dd da : BitVec 4) (rows : BitVec 12) (s : State) : Host.Outcome State Fault Refusal :=
  issueOp s e (.hst e g dd da rows)

/-- Hub requests move only while the hub is active: not in STANDBY, SAFE or a state without a hub (Table 15.1). -/
def State.hubActive (s : State) : Bool := s.hubU.on && decide (s.mode ≠ 0) && decide (s.mode ≠ 5)

end Sys2Proof.Machine
end

