-- ==== Sys2Proof/Machine/Loads.lean ====
section
/-! DEFINITION. The load sequencers, the tandem read, the start of a band, and engine faults with the spare that takes
the unit over (1.3.1, 2.4, 2.7, R249, R254, R304). -/

namespace Sys2Proof.Machine

/-! ### Load entries (Table 2.12) -/

/-- The engine serves a unit and takes part in the run: it waits for a band or works on one. -/
def State.loading (s : State) (e : Nat) : Bool :=
  s.cadOn && s.hubActive && decide (s.unitOf e < 112) && decide (1 ≤ s.rf (Rf.ENG_STATUS_STATE e)) &&
    decide (s.rf (Rf.ENG_STATUS_STATE e) ≤ 5)

/-- The first scratch byte of the half of an entry's area that holds band `n`. -/
def State.ldArea (s : State) (e n k : Nat) : Nat := s.loadFldAt e n k 3 0 16 * 64 + n % 2 * s.ldHalf e n k

/-- The enabled port in whose corrected ring an address lies. -/
def State.portOfCor (s : State) (a : Nat) : Option Nat :=
  (List.range 48).find? (fun p => s.portOn p && decide (s.rf (Rf.SPK_COR_BASE p) ≤ a) &&
    decide (a < s.corMasks p + s.corSlots p * s.height * (s.maskBytes p + 32)))

/-- The strip a Sieve or Pack unit reads. -/
def stripOfUnit (u : Nat) : Nat := if u < 96 then (u - 64) / 2 else u - 96

/-- Rows of line group `g` of an entry. -/
def State.ldRows (s : State) (e n k g : Nat) : List Nat := (List.range (s.ldLines e n k)).map (· + g * s.ldLines e n k)

/-- An entry reads the corrected ring of an unserved Spoke unit: its groups complete without a read (R241). -/
def State.deadEntry (s : State) (e n k : Nat) : Bool :=
  match s.portOfCor (s.ldBase e n k) with
  | some p => decide (48 ≤ s.unitOf e) && decide (s.unitOf e < 64) && s.unserved p
  | none => false

/-- The commit token that covers line group `g` of an entry has arrived (R20). An entry that lies in no ring has no
producer of tokens: DEDUCED, log 73. -/
def State.covered (s : State) (e n k g : Nat) : Bool :=
  let u := s.unitOf e
  let all (m : Nat) : Bool := (s.ldRows e n k g).all (fun r => m.testBit r)
  if 48 ≤ u ∧ u < 64 then
    match s.portOfCor (s.ldBase e n k) with
    | some p => s.unserved p || all (s.committedLines p n)
    | none => false
  else if 64 ≤ u then
    if s.periodic e n k then all (s.stripLines 0 n)
    else s.inStitched (s.ldBase e n k) && all (s.stripLines (stripOfUnit u) n)
  else false

/-- Line groups of an entry issued for a band. -/
def Engine.issued (x : Engine) (k n : Nat) : Nat := (x.loads.filter (fun r => r.entry == k && r.band == n)).length

/-- The band whose group an entry asks for next: the unit's next or running band, or, once that is issued whole, the one
after it. -/
def State.ldBand (s : State) (e k : Nat) : Nat :=
  let n := (s.wu (s.unitOf e)).done
  if (s.eng e).issued k n < s.ldGroups e n k ∧ k < s.loadCntAt e n then n else n + 1

/-- Group `g` of band `n` is the next one of the entry, and its token has arrived. -/
def State.ldNext (s : State) (e n k g : Nat) : Bool :=
  decide (k < s.loadCntAt e n) && !s.ldPort e n k && decide ((s.eng e).issued k n = g) && decide (g < s.ldGroups e n k) &&
    s.covered e n k g

/-! ### Fetching -/

/-- The load sequencer takes the token of a group of the periodic entry off the unit's phase chain (R254). -/
def State.takePhase (s : State) (e n k : Nat) : State :=
  if s.periodic e n k then
    let c := (s.rf Rf.SIV_CHAINS_PCH_BASE + (s.unitOf e - 64)) % 256
    match s.popPacket c (s.unitOf e) with
    | some (_, _, s) => s
    | none => s.popNone c (s.unitOf e)
  else s

/-- The fetch of a group is issued: the band's loads have begun (R58). -/
def State.issueLoad (s : State) (e n k g : Nat) (arrived : Bool) : State :=
  let x := s.eng e
  s.setEng e { x with loads := x.loads ++ [⟨k, g, n, arrived⟩], begun := max x.begun (n + 1) }

/-- Where row `r` of band `n` is read from. -/
def State.ldAt (s : State) (e n k r : Nat) : Nat :=
  let stride := s.loadFldAt e n k 2 0 32
  if s.periodic e n k then s.ldBase e n k + look (fun _ => 0) s.phase.ph (n * s.height + r) * stride
  else s.ldBase e n k + n % max 1 (s.loadFldAt e n k 3 32 8) * (s.loadFldAt e n k 2 32 32 * 4096) + r * stride

/-- The place of a line in the half, and its bytes, clipped to the half. -/
def State.ldOff (s : State) (e n k r : Nat) : Nat := r * roundUp (s.ldBytes e n k) 64
def State.ldLen (s : State) (e n k r : Nat) : Nat := min (s.ldBytes e n k) (s.ldHalf e n k - s.ldOff e n k r)

/-- What line `r` of band `n` reads. -/
def State.ldRange (s : State) (e n k r : Nat) : Nat × Nat := (s.ldAt e n k r, s.ldLen e n k r)

/-- One line of a band into its place in the half. -/
def State.ldLine (s : State) (e n k r : Nat) : State :=
  let b := s.ldArea e n k + s.ldOff e n k r
  let q := s.ldRange e n k r
  let x := s.eng e
  let cells := moveCells (s.hubView q.1 q.2) q.1 b
  s.setEng e { x with scratch := replaceRange (fun _ => 0) x.scratch b q.2 cells }

/-- The lines of a group are in scratch: those a transfer has read, where it carries data. -/
def State.ldArrive (s : State) (e n k g : Nat) (data : Bool) : State :=
  let s := if data then (s.ldRows e n k g).foldl (fun s r => s.ldLine e n k r) s else s
  let x := s.eng e
  (s.setEng e { x with loads := x.loads.map (fun r =>
    if r.entry = k ∧ r.grp = g ∧ r.band = n then { r with arrived := true } else r) }).resume e

/-- A group comes to a Sieve or Pack engine by the tandem read or with it; by a read of its own only in a re-run (R28),
and for a group the tandem read has issued before (R27), or whose phases came after it (R254). -/
def State.ownRead (s : State) (e n _ g : Nat) : Bool :=
  let u := s.unitOf e
  decide (u < 64) || (s.wu u).rerun == some n ||
    (decide (u < 96) && decide (g < s.tandem (stripOfUnit u) n))

/-- LOAD_GROUP_FETCH: the load sequencer issues the next group of a hub entry. -/
def execLoadGroupFetch (e : Eng) (entry : Fin 16) (grp : Nat) (s : State) : Host.Outcome State Fault Refusal :=
  let n := s.ldBand e entry
  let t := (s.takePhase e n entry).issueLoad e n entry grp false
  when' (s.loading e && s.ldNext e n entry grp && s.ownRead e n entry grp) s
    (if s.deadEntry e n entry then t.ldArrive e n entry grp false else t)

/-- The Sieve units of a strip that the tandem read of band `n` serves: those in service that do not run the band
again. -/
def State.tandemSieves (s : State) (k n : Nat) : List Nat :=
  [64 + 2 * k, 65 + 2 * k].filter (fun u => s.serving u && !((s.wu u).rerun == some n))

/-- The stitched data of band `n` goes to Pack: not in gear G3, where Sieve is the single consumer (R28, R124). In a strip with
no Sieve unit in service R29 makes Pack the single consumer, and Table 4.3 gives it no data in G3: the model feeds it then
(DESIGN CHOICE, log 193). -/
def State.packData (s : State) (k n : Nat) : Bool :=
  (!s.serving (64 + 2 * k) && !s.serving (65 + 2 * k)) || decide (s.packGear n ≠ 3)

/-- A group of an entry carries data: but a stitched one of Pack in G3. -/
def State.ldData (s : State) (e n k : Nat) : Bool :=
  decide (s.unitOf e < 96) || !(s.stitchedEntries e n).contains k || s.packData (s.unitOf e - 96) n

/-- LOAD_GROUP_ARRIVE: the lines of a group that was issued arrive in scratch. -/
def execLoadGroupArrive (e : Eng) (entry : Fin 16) (grp : Nat) (s : State) : Host.Outcome State Fault Refusal :=
  match (s.eng e).loads.find? (fun r => r.entry == entry.val && r.grp == grp && !r.arrived) with
  | some r =>
    let data := s.ldData e r.band entry
    let t := if data then s.transfer 1 (s.unitOf e) ((s.ldRows e r.band entry grp).map (s.ldRange e r.band entry)) else s
    when' (s.loading e) s (t.ldArrive e r.band entry grp data)
  | none => .next s

/-! ### The tandem read (1.3.1) -/

/-- A unit has credit for group `g` of band `n`: its half for the band is free, and its entries ask for that group. -/
def State.hasCredit (s : State) (u n g : Nat) : Bool :=
  let e := s.rf (Rf.ENG_UNIT_ENGINE u)
  let l := s.stitchedEntries e n
  s.loading e && decide ((s.wu u).done ≤ n) && decide (n ≤ (s.wu u).done + 1) && l.all (fun k => s.ldNext e n k g || decide (s.ldGroups e n k ≤ g)) &&
    l.any (fun k => s.ldNext e n k g)

/-- What the entries of a unit ask of the hub for group `g` of band `n`. -/
def State.feedRanges (s : State) (n g u : Nat) : List (Nat × Nat) :=
  let e := s.rf (Rf.ENG_UNIT_ENGINE u)
  ((s.stitchedEntries e n).filter (fun k => s.ldNext e n k g)).flatMap (fun k => (s.ldRows e n k g).map (s.ldRange e n k))

/-- The group is delivered to a unit. -/
def State.feed (s : State) (u n g : Nat) (data : Bool) : State :=
  let e := s.rf (Rf.ENG_UNIT_ENGINE u)
  (s.stitchedEntries e n).foldl (fun s k =>
    if s.ldNext e n k g then (s.issueLoad e n k g false).ldArrive e n k g data else s) s

/-- The periodic entries of a Sieve unit fetch the group with the tandem read, by a read of their own into its scratch
alone (R254). -/
def State.feedPhases (s : State) (n g u : Nat) : State :=
  let e := s.rf (Rf.ENG_UNIT_ENGINE u)
  (s.periodicEntries e n).foldl (fun s k =>
    if s.ldNext e n k g then
      (((s.takePhase e n k).transfer 1 u ((s.ldRows e n k g).map (s.ldRange e n k))).issueLoad e n k g false).ldArrive e n k g true
    else s) s

/-- Group `g` of band `n` is the next one of the strip's tandem read, its commit token has come, and every unit that must
have credit has it: the Sieve units, or Pack where none is served. -/
def State.tandemReady (s : State) (k n g : Nat) : Bool :=
  let units := s.tandemSieves k n
  decide (s.tandem k n = g) && decide (units ≠ [] ∨ s.serving (96 + k)) &&
    (if units = [] then [96 + k] else units).all (fun u => s.hasCredit u n g)

/-- The groups of a band that Pack owes a split read for, with group `g` set or cleared. -/
def StripUnit.setOwe (x : StripUnit) (n g : Nat) (on : Bool) : StripUnit :=
  let old := look (fun _ => 0) x.owe n
  let new := if on then old ||| 2 ^ g else if old.testBit g then old - 2 ^ g else old
  { x with owe := put (fun _ => 0) x.owe n new }

/-- The tandem read of a group, one transfer: to the Sieve units, and to Pack where it has credit; else Pack owes a split
read, which is counted. In G3 only Sieve is read for, and Pack's groups complete without data: DEDUCED, log 74. -/
def State.tandemRead (s : State) (k n g : Nat) : State :=
  let units := s.tandemSieves k n
  let pack := s.serving (96 + k) && s.hasCredit (96 + k) n g
  let data := s.packData k n
  let x := s.strip k
  let users := [64 + 2 * k, 65 + 2 * k, 96 + k].filter (fun u => s.serving u)
  let tan := insert1 (x.tan.filter (fun t => decide (n < t.1 + 8) || users.any (fun u => decide ((s.wu u).done ≤ t.1)))) n (g + 1)
  let s := s.setStrip k { x with tan := tan }
  let s := s.transfer 1 (if units = [] then 96 + k else 64 + 2 * k)
    ((units ++ if pack && data then [96 + k] else []).flatMap (s.feedRanges n g))
  let s := units.foldl (fun s u => (s.feed u n g true).feedPhases n g u) s
  if pack then s.feed (96 + k) n g data
  else if s.serving (96 + k) && data then
    { s.setStrip k ((s.strip k).setOwe n g true) with out := { s.out with splits := s.out.splits + 1 } }
  else s

/-- The band of the strip's next tandem read of group `g`. -/
def State.tandemBand (s : State) (k g : Nat) : Option Nat :=
  let us := [64 + 2 * k, 65 + 2 * k, 96 + k].filter (fun u => s.serving u)
  let ds := us.flatMap (fun u => [(s.wu u).done, (s.wu u).done + 1])
  ds.find? (fun n => s.tandemReady k n g)

def execTandemRead (k : Fin 16) (grp : Nat) (s : State) : Host.Outcome State Fault Refusal :=
  .next (match s.tandemBand k grp with
    | some n => s.tandemRead k n grp
    | none => s)

/-- PACK_SPLIT_READ: Pack fetches a group that the tandem read went without it, once it has credit, and with the last one
its part in the slot's release is done (R27). A group the tandem read of G3 passed comes without data; one read before a
re-run of Pack is read again. -/
def execPackSplitRead (k : Fin 16) (grp : Nat) (s : State) : Host.Outcome State Fault Refusal :=
  let u := 96 + k.val
  let d := (s.wu u).done
  .next (match [d, d + 1].find? (fun n => decide (grp < s.tandem k n) && s.serving u && s.hasCredit u n grp) with
    | some n =>
      let data := (look (fun _ => 0) (s.strip k).owe n).testBit grp || ((s.wu u).rerun == some n && s.packData k n)
      let t := if data then s.transfer 1 u (s.feedRanges n grp u) else s
      let t := t.feed u n grp data
      t.setStrip k ((t.strip k).setOwe n grp false)
    | none => s)

/-! ### The start of a band (R49, R77, R78) -/

/-- The groups that gate the start of band `n` are in scratch. -/
def State.gatesMet (s : State) (e n : Nat) : Bool :=
  (List.range (s.loadCntAt e n)).all (fun k => !s.ldGated e n k ||
    (List.range (if s.ldPort e n k then 1 else s.ldGroups e n k)).all (fun g =>
      (s.eng e).loads.any (fun r => r.entry == k && r.grp == g && r.band == n && r.arrived)))

/-- A Sieve unit runs at most two bands past the seam unit's next close (R249). -/
def State.seamAllows (s : State) (u n : Nat) : Bool :=
  !(decide (64 ≤ u) && decide (u < 96)) || decide (n ≤ s.seam.next + 2)

/-- The descriptor of an entry at the start of band `n`: ADDR, LOC and STRIDE are set, the program's fields stay. -/
def State.bindDesc (s : State) (e n k : Nat) : State :=
  let x := s.eng e
  let d := x.d (BitVec.ofNat 4 (s.loadFldAt e n k 0 0 4))
  let p := s.unitOf e
  let g := s.ldLines e n k
  let a := if s.ldPort e n k then
      s.loadFldAt e n k 3 0 16 * 64 + roundUp (32 * g) 64 + g * s.maskBytes p + s.history p * s.packedLine p
    else s.ldArea e n k
  let w0 := d.w0.toNat / 2 ^ 41 * 2 ^ 41 + a
  let w1 := d.w1.toNat / 2 ^ 32 * 2 ^ 32 + roundUp (s.ldBytes e n k) 64
  s.setEng e (x.setD (BitVec.ofNat 4 (s.loadFldAt e n k 0 0 4)) ⟨BitVec.ofNat 64 w0, BitVec.ofNat 64 w1⟩)

/-- The snapshots and credits of a unit at the start of a band (R45, R46). -/
def State.chainViews (s : State) (u : Nat) : List (Nat × ChainView) :=
  (List.range 256).filterMap (fun c =>
    let snap := if s.chainEn c ∧ s.rf (Rf.CHN_CFG_CONS c) = u then (s.chain c).words else 0
    let credit := if s.chainEn c ∧ s.isProducer c u then s.laneFree c u else 0
    if snap = 0 ∧ credit = 0 then none else some (c, ⟨snap, credit, 0⟩))

/-- Condition 3 of the bound: a Sieve band that starts later than SLACK_US after its token, its unit's previous
completion and, in a re-run, its spare's readiness fails bands `n` and `n - 1`. -/
def State.startSlack (s : State) (u e n : Nat) : State :=
  let w := s.wu u
  let from' := max (max (look (fun _ => 0) w.tokAt n) w.doneAt) (if w.rerun = some n then (s.eng e).readyAt else 0)
  if 64 ≤ u ∧ u < 96 ∧ from' + countsOfUs (s.rf Rf.PAK_TC0_SLACK_US) < s.count then
    (if 1 ≤ n then s.boundFails (n - 1) 3 else s).boundFails n 3
  else s

/-- What the start of a band does in the engine. -/
def State.startBand (s : State) (e : Nat) (t : TickToken) (rest : List TickToken) : State :=
  let u := s.unitOf e
  let n := t.band
  let w := s.wu u
  let s := s.startSlack u e n
  let s := match (s.eng e).swapAt with
    | some b => if b ≤ n then s.applySwap e b else s
    | none => s
  let s := match (s.eng e).loadAt with
    | some b => if b ≤ n then s.applyReload e b else s
    | none => s
  let x := s.eng e
  let views := if w.rerun = some n ∧ w.kept then x.views else s.chainViews u
  let x := { x with tok := t, tabs := [], hist0 := [], hist1 := [], loops := [], pc := 0, run := 0, lag := 0, ldSt := 0, chSt := 0,
                    qfull := 0, ilock := 0, wtickAt := none, ldws := [], hsts := [], sent := [], views := views, stalled := none,
                    loads := x.loads.filter (fun r => decide (n ≤ r.band)), begun := max x.begun (n + 1) }
  let s := (s.setEng e x).setWu u { w with toks := rest, kept := false }
  let s := (List.range (s.loadCnt e)).foldl (fun s k => s.bindDesc e n k) s
  s.setrf (Rf.ENG_STATUS_STATE e) 2

/-- BAND_START: the engine waits, the token of its unit's next band has come, and its gated entries are in scratch. -/
def execBandStart (e : Eng) (s : State) : Host.Outcome State Fault Refusal :=
  let u := s.unitOf e
  match (s.wu u).toks with
  | t :: rest =>
    when' (s.loading e && decide (s.rf (Rf.ENG_STATUS_STATE e) = 1) && decide (t.band = (s.wu u).done) &&
      s.gatesMet e t.band && s.seamAllows u t.band) s (s.startBand e t rest)
  | [] => .next s

/-! ### Engine faults (R62 to R67, Table 2.14) -/

/-- The bit of ENG_FAULT for a cause. -/
def faultFld (e : Nat) : FaultCause → Fld
  | .code => Rf.ENG_FAULT_CODE e
  | .wdog => Rf.ENG_FAULT_WDOG e
  | .hang => Rf.ENG_FAULT_HANG e
  | .tile => Rf.ENG_FAULT_TILE e
def faultNo : FaultCause → Nat
  | .code => 0
  | .wdog => 1
  | .hang => 2
  | .tile => 3

/-- The packets of the running band that the chains hold already, by chain: those the failed engine committed, and those
it still had to discard of an engine before it. -/
def discards (sent left : List (Nat × Nat)) : List (Nat × Nat) :=
  sent.foldl (fun l e => insert1 l e.1 (look (fun _ => 0) l e.1 + e.2)) left

/-- Words popped in the failed band are the snapshot's again. -/
def State.unpop (s : State) (u : Nat) : State :=
  { s with chains := (s.chains.map (fun e =>
      (e.1, if s.rf (Rf.CHN_CFG_CONS e.1) = u then { e.2 with gone := 0 } else e.2))).filter (fun e => decide (e.2 ≠ {})) }

/-- The views a spare takes over: each snapshot whole again, one popped to its end among them, and no push counted. -/
def State.keepViews (s : State) (e : Nat) : List (Nat × ChainView) :=
  (List.range 256).filterMap (fun c =>
    let v := (s.eng e).view c
    let snap := if s.rf (Rf.CHN_CFG_CONS c) = s.unitOf e then v.snap + (s.chain c).gone else v.snap
    if snap = 0 ∧ v.credit = 0 then none else some (c, ⟨snap, v.credit, 0⟩))

/-- Condition 4 of the bound: a Sieve engine that faults in band `n` before its LOOK fails band `n - 1`; a second fault in
band `n`, or one without RERUN_OK, fails band `n`. -/
def State.faultBound (s : State) (e u n : Nat) : State :=
  if 64 ≤ u ∧ u < 96 ∧ s.cadOn then
    let again := s.tc0.faults.contains n || !s.bit Rf.PAK_TC0_RERUN_OK
    let early := decide (look (fun _ => 0) (s.eng e).sent (s.rf Rf.SIV_CHAINS_SEAM) = 0 ∧ (s.wu u).discard = [])
    let s := { s with tc0 := { s.tc0 with faults := n :: s.tc0.faults.take 255 } }
    let s := if early ∧ 1 ≤ n then s.boundFails (n - 1) 4 else s
    if again then s.boundFails n 4 else s
  else s

/-- An engine is retired: isolated, its work stopped. -/
def State.retireEng (s : State) (e : Nat) : State :=
  let x := s.eng e
  let s := s.setEng e { x with stalled := none, queue := [], copies := [], loads := [], views := [], sent := [],
                               walk := none }
  let s := ((s.setrf (Rf.ENG_ROLE_RETIRED e) 1).setrf (Rf.ENG_ROLE_SPARE e) 0).setrf (Rf.ENG_ROLE_UNIT e) 0xFF
  (s.setrf (Rf.ENG_ADM_BUSY e) 0).setrf (Rf.ENG_STATUS_STATE e) 7

/-- The lowest-numbered standby spare of a section. -/
def State.spareOf (s : State) (sec : Nat) : Option Nat :=
  (List.range 119).find? (fun e => decide (engSection e = sec) && s.bit (Rf.ENG_ROLE_SPARE e))

/-- A spare takes a unit over, or the unit is unserved with event 0xD008. -/
def State.giveUnit (s : State) (e u sec : Nat) (views : List (Nat × ChainView)) : State :=
  match s.spareOf sec with
  | some f =>
    let s := (s.setrf (Rf.ENG_UNIT_ENGINE u) f).setrf (sparesFld sec) (s.rf (sparesFld sec) - 1)
    let s := (s.setrf (Rf.ENG_ROLE_SPARE f) 0).setrf (Rf.ENG_ROLE_UNIT f) u
    (s.setEng f { views := views }).setrf (Rf.ENG_STATUS_STATE f) 0
  | none =>
    let w := s.wu u
    (((s.setWu u { w with rerun := none, kept := false, failed := none, lost := [], discard := [] }).setrf
      (Rf.ENG_UNIT_UNSERVED u) 1)).raise 0xD008 (e + 256 * u)

/-- A fault of an engine (Table 2.14). A spare that fails before it is ready holds no program yet: the next is loaded from
the shadow it was to be loaded from itself (R67). -/
def State.engFault (s : State) (e : Nat) (c : FaultCause) : State :=
  let u := s.unitOf e
  let x := s.eng e
  let sec := engSection e
  let only := decide (c = .code) && !s.bit (Rf.ENG_FAULT_WDOG e) && !s.bit (Rf.ENG_FAULT_HANG e) && !s.bit (Rf.ENG_FAULT_TILE e)
  let s := (s.setrf (faultFld e c) 1).setEng e { x with injected := x.injected && only }
  let s := s.raise 0xD005 (s.engUnit e) (faultNo c)
  if s.bit (Rf.ENG_ROLE_SPARE e) then (s.retireEng e).setrf (sparesFld sec) (s.rf (sparesFld sec) - 1)
  else if 112 ≤ u then s.retireEng e
  else
    let w := s.wu u
    let busy := decide (2 ≤ s.rf (Rf.ENG_STATUS_STATE e)) && decide (s.rf (Rf.ENG_STATUS_STATE e) ≤ 5)
    let s := s.faultBound e u w.done
    let views := s.keepViews e
    let s := s.rewindAll u
    let s := if busy then s.unpop u else s
    let bare := decide (s.rf (Rf.ENG_STATUS_STATE e) = 0) && w.failed.isSome
    let w' := { w with rerun := if s.cadOn then some w.done else none, failed := if bare then w.failed else some e,
                       lost := e :: w.lost,
                       kept := busy || (w.kept && decide (w.rerun = some w.done)),
                       toks := if busy then x.tok :: w.toks else w.toks,
                       discard := if busy then discards x.sent w.discard else w.discard }
    ((s.setWu u w').retireEng e).giveUnit e u sec (if busy then views else x.views)

/-- An engine can fault: it is powered and not retired. -/
def State.canFault (s : State) (e : Nat) : Bool :=
  decide (s.mode ≠ 0) && decide (s.mode ≠ 5) && !s.bit (Rf.ENG_ROLE_RETIRED e)

/-- The run cycles have passed the admitted bound. -/
def State.wdogDue (s : State) (e : Nat) : Bool :=
  let st := s.rf (Rf.ENG_STATUS_STATE e)
  s.canFault e && decide (2 ≤ st) && decide (st ≤ 5) && decide (s.rf (Rf.ENG_ACT_BOUND_BOUND e) < (s.eng e).cycles)

/-- The count up to which the tiles advance on the instruction they hold: its charge from when it reached them, which is when it
was issued, when the one before it left, or when the copy it waited for was done. Nothing where it waits for a copy, which is
an excluded stall (R51). -/
def Engine.tilesTo (x : Engine) : Option Nat :=
  match x.queue with
  | [] => some x.stallAt
  | q :: _ =>
    let from' := max (max x.tileAt x.freeAt) q.at'
    if q.applied then some (max x.stallAt (from' + ceilDiv (tileCharge q.i * 25) 32))
    else if x.copies.isEmpty then some (max x.stallAt from') else none

/-- The count at which a stalled engine has hung (R62). A stall that is not excluded hangs 4,096 cycles, 3,200 counts,
after the core and the tiles last advanced: the core when the stall began, the tiles when an instruction last left them or
when the charge of the one they hold runs out (DEDUCED, log 47: the tiles advance while an instruction's cycles last). An excluded
stall hangs only once its condition is met, and 3,200 counts after that: the state holds no
instant at which the condition was met, and the count of the command that finds it met stands for it (DEDUCED, log 47). -/
def State.hangAt (s : State) (e : Nat) : Option Nat :=
  let x := s.eng e
  match x.stalled with
  | some i =>
    if !s.canFault e then none
    else if s.rf (Rf.ENG_STATUS_STATE e) = 2 then x.tilesTo.map (· + 3200)
    else if (s.waits e i).isNone then some (max x.stallAt s.count + 3200)
    else none
  | none => none

/-- ENGINE_WATCHDOG. -/
def execEngineWatchdog (e : Eng) (s : State) : Host.Outcome State Fault Refusal :=
  when' (s.wdogDue e) s (s.engFault e .wdog)

/-- ENGINE_HANG. -/
def execEngineHang (e : Eng) (s : State) : Host.Outcome State Fault Refusal :=
  match s.hangAt e with
  | some c => .next ((s.advanceTo c).engFault e .hang)
  | none => .next s

/-- ENGINE_FAULT: a fault with its cause. A code word or a tile result can fail at any time; a watchdog fault and a hang
are found as the rows above find them. -/
def execEngineFault (e : Eng) (cause : FaultCause) (s : State) : Host.Outcome State Fault Refusal :=
  match cause with
  | .wdog => when' (s.wdogDue e) s (s.engFault e .wdog)
  | .hang => when' (s.hangAt e).isSome s ((s.advanceTo ((s.hangAt e).getD 0)).engFault e .hang)
  | .code => when' (s.canFault e) s (s.engFault e .code)
  | .tile => when' (s.canFault e) s (s.engFault e .tile)

/-! ### The spare -/

/-- Hub cells as the words of a bank that begins at an address. -/
def bankOfCells (l : List Host.Cell) (a : Nat) : Image :=
  l.foldl (fun m c => insert1 m ((c.1 - a) / 8)
    (look (fun _ => (0 : Word)) m ((c.1 - a) / 8) + BitVec.ofNat 64 (c.2.toNat * 2 ^ (8 * ((c.1 - a) % 8))))) []

/-- A bank of an engine from its shadow. -/
def State.bankFromShadow (s : State) (e : Nat) (b : Bool) : Image :=
  let a := shadowBase e + (if b then 0x20000 else 0)
  bankOfCells (s.hubView a 0x20000) a

/-- The program registers of an engine, which go to its spare. -/
def programFlds (e : Nat) : List Fld :=
  [Rf.ENG_STATUS_ACTIVE_BANK e, Rf.ENG_STATUS_ACTIVE_OK e, Rf.ENG_ADM_RESULT e, Rf.ENG_ADM_INDEX e, Rf.ENG_ADM_IMAGE_ID e,
   Rf.ENG_BOUND_BOUND e, Rf.ENG_ACT_BOUND_BOUND e, Rf.ENG_BUDGET_BUDGET e, Rf.ENG_SWAP_BAND_BAND e, Rf.ENG_SWAP_AT_BAND e,
   Rf.ENG_CONST_SRC_HUB_ADDR e]

/-- The shadow of engine `e` is copied to that of `f`, and the banks of `f` are read from it. -/
def State.copyShadow (s : State) (e f : Nat) : State :=
  let r := s.readAs 3 (s.unitOf f) (shadowBase e) 0x300000
  let s := r.1.hubWrite true (s.unitOf f) (shadowBase f) 0x300000 (moveCells r.2 (shadowBase e) (shadowBase f))
  let s := ((programFlds e).zip (programFlds f)).foldl (fun s p => s.setrf p.2 (s.rf p.1)) s
  let x := s.eng e
  let y : Engine := { bank0 := s.bankFromShadow f false, bank1 := s.bankFromShadow f true, adm0 := x.adm0, adm1 := x.adm1,
                      views := (s.eng f).views, readyAt := s.count, begun := x.begun }
  s.setEng f y

/-- The carry region takes the checkpoint of band `n - 1`; that of band 0 is zero. -/
def State.loadCarry (s : State) (e n : Nat) : State :=
  if n = 0 then s
  else
    let m := min (s.carrySize e) 0x40000
    let a := checkpointAt e (n - 1)
    let r := s.readAs 3 (s.unitOf e) a m
    let x := r.1.eng e
    r.1.setEng e { x with scratch := replaceRange (fun _ => 0) x.scratch (s.carryBase e) m (moveCells r.2 a (s.carryBase e)) }

/-- SPARE_READY: the copies from the shadow are made, and the spare goes on for its unit with event 0xD006. -/
def State.spareReady (s : State) (u e : Nat) : State :=
  let f := s.rf (Rf.ENG_UNIT_ENGINE u)
  let w := s.wu u
  let swaps := (s.eng e).swapAt
  let reload := (s.eng e).loadAt
  let s := s.copyShadow e f
  let s := (s.setEng f { s.eng f with swapAt := swaps, loadAt := reload }).showArmed f
  let s := (s.setEng e { s.eng e with swapAt := none, loadAt := none }).showArmed e
  let s := (s.loadConstants f).loadCarry f w.done
  let s := s.raise 0xD006 (s.engUnit f) w.done e
  let s := if s.cadOn then (s.addCause spareCause).setrf (Rf.ENG_STATUS_STATE f) 1
    else s.setWu u { w with failed := none, lost := [] }
  if u < 48 then
    s.setPort u { s.port u with grpBand := w.done, grpNext := 0, missed := [], rawTo := s.rf (Rf.SPK_RAWPOS_NEXT u) }
  else s

def execSpareReady (u : Fin 112) (s : State) : Host.Outcome State Fault Refusal :=
  match (s.wu u).failed with
  | some e =>
    let f := s.rf (Rf.ENG_UNIT_ENGINE u)
    when' (s.hubActive && !s.unserved u && decide (s.rf (Rf.ENG_STATUS_STATE f) = 0)) s (s.spareReady u e)
  | none => .next s

end Sys2Proof.Machine
end

