-- ==== Sys2Proof/Machine/Modes.lean ====
section
/-! DEFINITION. The mode machine: requests, the drain, ABORT, SAFE, and the resets with what each of them loses
(15.1 to 15.4, R10 to R12, R432). -/

namespace Sys2Proof.Machine

def State.setModes (s : State) (m : ModeUnit) : State := { s with modes := m }

/-! ### What a reset or an entry to STANDBY loses (R10, Table 0.5) -/

/-- Class D fields that show a condition which outlasts the loss of class D; they are shown again at once, so that a
reader finds them as they are: DEDUCED, log 169. -/
def liveFld : List Fld :=
  [Rf.GLB_STATUS_READY, Rf.GLB_STATUS_FW, Rf.GLB_STATUS_BOARD, Rf.GLB_STATUS_SAFE_PIN, Rf.GLB_STATUS_LINK,
   Rf.GLB_PWR_VIN, Rf.GLB_PWR_IIN, Rf.GLB_PWR_PIN, Rf.GLB_PWR_OVP, Rf.MGT_STAT_FW, Rf.MGT_STAT_BANK, Rf.MGT_STAT_SVN,
   Rf.MGT_LOG_QUEUE, Rf.TIM_STAT_LOCKED, Rf.TIM_STAT_HOLDOVER, Rf.TIM_STAT_PPS_OK, Rf.PAK_PCIE_GEN, Rf.PAK_PCIE_WIDTH,
   Rf.PAK_PCIE_FLIT, Rf.PAK_PCIE_MPS, Rf.PAK_PCIE_MRRS] ++ (List.range 50).map Rf.HUB_CH_STAT_TEMP ++ (List.range 8).map Rf.POS_DIN_STAT_LEVEL

/-- Those of them that outlast a reset of the die as well: what the island and the pins show. -/
def islandFld : List Fld :=
  [Rf.GLB_STATUS_SAFE_PIN, Rf.GLB_PWR_VIN, Rf.GLB_PWR_IIN, Rf.GLB_PWR_PIN, Rf.GLB_PWR_OVP, Rf.TIM_STAT_LOCKED,
   Rf.TIM_STAT_HOLDOVER, Rf.TIM_STAT_PPS_OK] ++ (List.range 8).map Rf.POS_DIN_STAT_LEVEL

/-- What the always-on island shows of itself, and keeps while the main rails are off: the management processor, thermal
control, the log. -/
def mgtFld : List Fld :=
  [Rf.GLB_STATUS_FW, Rf.MGT_STAT_FW, Rf.MGT_STAT_BANK, Rf.MGT_STAT_SVN, Rf.MGT_TSTAT_DMAX, Rf.MGT_TSTAT_SENSOR, Rf.MGT_TSTAT_SKIP,
   Rf.MGT_TSTAT_THROTTLE, Rf.MGT_TSTAT_FAST, Rf.MGT_TSTAT_ONSETS, Rf.MGT_LOG_SEQ, Rf.MGT_LOG_COAL, Rf.MGT_LOG_QUEUE]

/-- The fields of some classes return to their reset values, but for those of a list. -/
def State.loseClasses (s : State) (classes : List Kept) (live : List Fld) : State :=
  s.loseFields (fun f => classes.contains f.kept && !live.any (fun g => g.key == f.key))

/-! ### Bands in flight (R410, R411) -/

/-- The bands that have opened and that some unit has not completed. -/
def State.inFlight (s : State) : Nat :=
  if !s.cadOn || !s.cad.started then 0
  else
    let least := ((List.range 112).filter s.serving).foldl (fun m u => min m (s.wu u).done) s.openBand
    (if s.cad.stop then s.openBand else s.openBand + 1) - least

/-! ### Perturbations end (R432) -/

/-- The units of a sparse list changed alike. -/
def mapUnits {α : Type} [DecidableEq α] (d : α) (f : α → α) (l : List (Nat × α)) : List (Nat × α) :=
  (l.map (fun e => (e.1, f e.2))).filter (fun e => decide (e.2 ≠ d))

/-- Every enable of the TST block clears, with event 0xE003 for each perturbation in effect, and the unlock with them. -/
def State.tstClear (s : State) : State :=
  let s := s.tstOn.foldl (fun s p => s.raise 0xE003 p.1) s
  let s := (List.range 4).foldl (fun s i => (s.setrf (Rf.TST_CRED_EN i) 0).setrf (Rf.TST_LANE_EN i) 0) s
  let s := [Rf.TST_HUBLAT_EN, Rf.TST_BP_HOST, Rf.TST_BP_SP0, Rf.TST_BP_SP1, Rf.TST_LINE_EN, Rf.TST_TICK_EN, Rf.TST_THERM_EN,
    Rf.TST_STAT_UNLOCKED, Rf.TST_STAT_ACTIVE].foldl (fun s f => s.setrf f 0) s
  { s with tests := {}, engines := mapUnits {} (fun x => { x with fab := none }) s.engines }

/-! ### The mode is reported (R428, event 0x0004) -/

/-- Items that are being placed go to no stream any more (Table 15.1). -/
def State.closeStreams (s : State) : State :=
  let l := (s.out.hands.map (fun h => (h.1, { h.2 with streams := [] }))).filter (fun h => !h.2.rings.isEmpty)
  { s with out := { s.out with hands := l } }

/-- The mode machine rests in mode `n`. -/
def State.setMode (s : State) (n : Nat) : State :=
  let s := if 2 ≤ n ∧ n ≤ 4 then s else s.closeStreams
  let s := s.setModes { s.modes with trans := .none }
  ((((s.setrf Rf.GLB_STATUS_MODE n).setrf Rf.GLB_STATUS_TRANS 0).setrf Rf.GLB_STATUS_TARGET n).setrf Rf.GLB_STATUS_DRAIN 0)

/-- Perturbations end, the mode changes and is reported. -/
def State.goMode (s : State) (n : Nat) : State :=
  let old := s.mode
  (s.tstClear.setMode n).raise 0x0004 old n

/-- A transition begins. -/
def State.beginTrans (s : State) (t : Trans) (n : Nat) : State :=
  let s := s.setModes { s.modes with trans := t }
  ((s.setrf Rf.GLB_STATUS_TRANS 1).setrf Rf.GLB_STATUS_TARGET n).setrf Rf.GLB_STATUS_DRAIN (if t = .drain then 1 else 0)

/-- A refused request: GLB_STATUS.REFUSE holds the code of its event. -/
def State.refuseReq (s : State) (code a0 a1 : Nat) : State := (s.setrf Rf.GLB_STATUS_REFUSE code).raise code a0 a1

/-! ### The pipeline stops -/

/-- An engine stops where it is: nothing of its band, its copies and its loads is left. -/
def Engine.halt (x : Engine) : Engine :=
  { x with queue := [], copies := [], loads := [], ldws := [], hsts := [], views := [], sent := [], stalled := none }

/-- The engines and their units stop. -/
def State.stopEngines (s : State) : State :=
  let s := { s with engines := mapUnits {} Engine.halt s.engines, units := mapUnits {} (fun w => { failed := w.failed }) s.units }
  (List.range 119).foldl (fun s e => s.setrf (Rf.ENG_STATUS_STATE e) 0) s

/-- The cadence unit stops: what was counted since the last due time is reported (R178, R194), and a retirement that waited
for it starts (R336). -/
def State.stopCadence (s : State) : State :=
  if s.cadOn then
    let s := s.portsOn.foldl (fun s p => s.tellAll p s.openBand) s
    (({ s with cad := {} }.setrf Rf.CAD_GEAR_STATE 0).setrf Rf.CAD_HOLDINFO_BACKLOG 0).hubCadStop
  else { s with cad := {} }

/-- What waits in output staging is dropped, but for the event record being placed. -/
def State.dropStaging (s : State) : State :=
  { s with outbox := [], out := { s.out with recq := [], crops := [], hdrs := [],
                                             hands := s.out.hands.filter (fun h => h.1 == 3) } }

/-- So is what lies on the chains that lead there. -/
def State.dropOutputs (s : State) : State :=
  let s := s.dropStaging
  ((List.range 16).flatMap (fun k => [s.recChain k, s.outChain k, s.creqChain k]) ++
    [s.rf Rf.PAK_CHAINS_CROP, s.rf Rf.PAK_CHAINS_STATS]).foldl
    (fun s c => s.setChain c { s.chain c with items := [], gone := 0 }) s

/-- Every open packet is rewound (R346). -/
def State.rewindOpen (s : State) : State :=
  { s with chains := mapUnits {} (fun x => { x with opens := mapUnits {} OpenPkt.rewound x.opens }) s.chains }

/-- Every band in flight is discarded (R411). -/
def State.discardBands (s : State) : State := s.stopEngines.rewindOpen.dropOutputs.stopCadence

/-! ### The datapath cleared -/

/-- What the position unit keeps while class D is lost: the filtered inputs, the dates its brakes run from. -/
def PosUnit.quiet (p : PosUnit) : PosUnit :=
  { enc := mapUnits {} (fun x => { x with hist := [] }) p.enc, gen := mapUnits {} (fun x => { left := x.left }) p.gen,
    mks := mapUnits {} (fun x => { rise := x.rise }) p.mks, emu := mapUnits {} (fun x => { last := x.last }) p.emu }

/-- A retraining pass is dropped, and its channel keeps the settings it had. -/
def State.dropPass (s : State) : State :=
  match s.hubU.pass with
  | some p => ((s.restoreTaps p).setHub { (s.restoreTaps p).hubU with pass := none }).unbar p.ch
  | none => s

/-- The event record being placed stays with the rings it is still to go to, and the rate brakes with what they have spent
(R400). -/
def OutUnit.standby (o : OutUnit) : OutUnit :=
  { rings := o.rings, ports := mapUnits {} (fun x => { spent := x.spent, at' := x.at' }) o.ports,
    hands := (o.hands.filter (fun h => h.1 == 3 && !h.2.rings.isEmpty)).map (fun h => (h.1, { h.2 with streams := [] })) }

/-- A copy of a migration that is cut short, since HUB_MIGSTAT is lost: its channels take their roles back, the spare is a
spare again, and the migrations that waited are forgotten (log 167). -/
def State.cutMigration (s : State) : State :=
  if s.bit Rf.HUB_MIGSTAT_ACTIVE then
    let s := s.setHub { s.hubU with migQ := [] }
    let src := s.rf (Rf.HUB_MAP_PHYS (s.rf Rf.HUB_MIGSTAT_SLOT))
    let s := s.setrf (Rf.HUB_CH_STAT_ROLE src) 0
    if s.bit Rf.HUB_MIGSTAT_RELOC then s
    else (s.setrf (Rf.HUB_CH_STAT_ROLE (s.rf Rf.HUB_MIGSTAT_TARGET)) 1).setrf Rf.HUB_STAT_SPARES (s.rf Rf.HUB_STAT_SPARES + 1)
  else s

/-- What the datapath holds beside its registers is class D and is lost with it: lanes, ports, chains, the units of the
pipeline, DMA with the appends that wait for the hub, streams. Engines keep their programs, and the brakes of the settings
messages what they have spent (R400). -/
def State.clearDatapath (s : State) : State :=
  let s := s.dropPass
  let append (i : Instr) : Bool := match i with
    | .dmaAppend _ _ _ => true
    | _ => false
  let s := s.setHub { s.hubU with held := s.hubU.held.filter (fun i => !append i),
                                  waiting := s.hubU.waiting.filter (fun i => !append i), tc0Seen := false, load := [] }
  { s with lanes := [], ports := mapUnits {} (fun x => { setAt := x.setAt, setTok := x.setTok }) s.ports, cad := {}, tests := {}, pos := s.pos.quiet, strips := [], outbox := [], phase := {},
           seam := {}, out := s.out.standby, tc0 := {}, chains := [], dma := [],
           engines := mapUnits {} (fun x => { x.fresh with walk := none }) s.engines,
           units := mapUnits {} (fun w => { failed := w.failed }) s.units }

/-- A training is abandoned: a hub that holds contents is trained again, at the rate in force, when STANDBY is left. -/
def State.cutTraining (s : State) : State :=
  if s.bit Rf.HUB_STAT_TRAINING then
    let s := s.setrf Rf.HUB_STAT_TRAINING 0
    if s.hubU.on then s.setHub { s.hubU with newRate := some (s.hubU.newRate.getD (s.rf Rf.HUB_FREQ_CUR)) } else s
  else s

/-- The hub, trained, is on: its first patrol begins (R317). -/
def State.hubOn (s : State) : State := if s.hubU.on then s else s.setHub { s.hubU with on := true, scrubT0 := s.count }

/-- The hub goes to self-refresh where it is trained (R323). -/
def State.hubRest (s : State) : State := if s.hubU.on then s.allSr true else s

/-- Entry to STANDBY: every open packet is rewound, the lists and the retention are emptied, class D is lost. -/
def State.enterStandby (s : State) : State :=
  let s := s.stopEngines.stopCadence.tstClear.emptyStreams
  let old := s.mode
  let s := ((s.cutTraining.cutMigration.loseClasses [.d] liveFld).clearDatapath.hubRest)
  (s.setModes { s.modes with nosieve := false }).setMode 0 |>.raise 0x0004 old 0

/-- Banks come back from the shadow (R406), read at TC3. -/
def State.reloadBanks (s : State) : State :=
  (List.range 119).foldl (fun s e =>
    let a := shadowBase e
    let s := s.noteErrs (s.hubU.errs.filter (fun k => cwIn a 0x40000 k.1))
    s.setEng e { s.eng e with bank0 := s.bankFromShadow e false, bank1 := s.bankFromShadow e true }) s

/-- What begins again when STANDBY is left: TIME schedules, and emulation (R229). -/
def State.wakeOutputs (s : State) : State :=
  let s := (List.range 56).foldl (fun s g => s.rearmTime g) s
  (List.range 4).foldl (fun s e => if s.bit (Rf.POS_EMU_CFG_EN e) then s.emuRebase e else s) s

/-- STANDBY is left for SERVICE: the banks are reloaded before the mode is reported, and then requests that waited go
on; a change of the transfer rate that waited takes place. -/
def State.leaveToService (s : State) : State :=
  let s := ((s.reloadBanks.goMode 1).wakeOutputs).allSr false
  match s.hubU.newRate with
  | some r => s.switchRate r
  | none => s.retryHeld

/-! ### Requests (R407 to R411) -/

/-- The transitions of Table 15.2, but for those to SAFE. -/
def allowed (old new : Nat) : Bool :=
  match old with
  | 0 => new == 1
  | 1 => new == 0 || (2 ≤ new && new ≤ 4)
  | 5 => new == 0
  | _ => new == 0 || new == 1

/-- The reason a request is refused for (Table 15.5). -/
def State.refusal (s : State) (req : Nat) : Option Nat :=
  if s.modes.trans ≠ .none then some 2
  else if s.bit Rf.GLB_STATUS_SAFE_PIN then some 3
  else if !s.bit Rf.GLB_STATUS_FW || !s.bit Rf.GLB_STATUS_BOARD then some 4
  else if s.modes.unslot then some 5
  else if !allowed s.mode req then some 1
  else none

/-- A request for an acquisition mode: the checks in their order, then the entry actions. -/
def State.enterReq (s : State) (req : Nat) (nosieve : Bool) : State :=
  let t := s.setModes { s.modes with nosieve := nosieve && decide (req = 4) }
  match t.entryRefused with
  | some (code, a0, a1) => s.refuseReq code a0 a1
  | none =>
    let t := if t.bit Rf.BRK_LOCK_LOCK then t else t.raise 0xB001
    let t := match t.uncovered with
      | some u => t.raise 0x4003 u
      | none => t
    (t.beginTrans .entry req).entryActions

/-- The open band has no line. -/
def State.openEmpty (s : State) : Bool :=
  decide (s.cad.lines = 0) && s.portsOn.all (fun p => decide ((s.pband p s.openBand).lines = 0))

/-- The drain begins: a final tick closes the open band, but for one that has no line (R410). -/
def State.beginDrain (s : State) (target : Nat) : State :=
  let s := s.beginTrans .drain target
  if !s.cad.started then s.setCad { s.cad with stop := true }
  else if s.openEmpty then
    let m := s.openBand
    let s := if s.cad.jit.isSome then s.endJitter else s
    (s.setCad { s.cad with stop := true, final := if m = 0 then none else some (m - 1),
                           bands := s.cad.bands.filter (fun b => decide (b.band ≠ m)) }).serve
  else (s.nextTick none true).serve

/-- The bands in flight are discarded and the target is reached. -/
def State.abortTo (s : State) (target : Nat) : State :=
  let n := s.inFlight
  let s := s.discardBands.raise 0x0007 n
  if target = 0 then s.enterStandby
  else (s.setModes { s.modes with nosieve := false }).goMode target

/-- ABORT alone, or REQ = 0 with ABORT = 1: it acts during a drain. -/
def State.abortReq (s : State) : State := if s.modes.trans = .drain then s.abortTo (s.rf Rf.GLB_STATUS_TARGET) else s

/-- A switch of the hub's rate that waited for STANDBY to be left: the training at the new rate comes before the mode (R329). -/
def State.switchAsleep (s : State) : State :=
  match s.hubU.newRate with
  | some r => (((s.setrf Rf.HUB_FREQ_PENDING 0).setrf Rf.HUB_FREQ_CUR r).setrf Rf.HUB_STAT_TRAINING 1).allSr false
  | none => s

/-- A request for STANDBY, SERVICE or an acquisition mode. -/
def State.modeReq (s : State) (req : Nat) (abort nosieve : Bool) : State :=
  if abort ∧ s.modes.trans = .drain then s.abortReq
  else if abort ∧ req = 0 then s
  else if req = s.mode ∧ s.modes.trans = .none then s
  else match s.refusal req with
    | some r => s.refuseReq 0x0005 r 0
    | none =>
      if s.mode = 0 then
        let s := s.beginTrans .service 1
        if s.hubU.on then s.switchAsleep else s.setrf Rf.HUB_STAT_TRAINING 1
      else if 2 ≤ s.mode ∧ s.mode ≤ 4 then (if abort then s.abortTo req else s.beginDrain req)
      else if req = 0 then (if s.bit Rf.HUB_STAT_TRAINING then s.beginTrans .rest 0 else s.enterStandby)
      else s.enterReq req nosieve

def execModeReqStandby (abort : Bool) (s : State) : Host.Outcome State Fault Refusal := .next (s.modeReq 0 abort false)
def execModeReqService (abort : Bool) (s : State) : Host.Outcome State Fault Refusal := .next (s.modeReq 1 abort false)
def execModeReqTeach (s : State) : Host.Outcome State Fault Refusal := .next (s.modeReq 2 false false)
def execModeReqInspect (s : State) : Host.Outcome State Fault Refusal := .next (s.modeReq 3 false false)
def execModeReqStream (nosieve : Bool) (s : State) : Host.Outcome State Fault Refusal := .next (s.modeReq 4 false nosieve)
def execModeAbort (s : State) : Host.Outcome State Fault Refusal := .next s.abortReq

/-- An initial training ends; where the rate was switched while the hub was off, it is the training of that switch (R334). -/
def State.firstTraining (s : State) (failed : List (Fin 50)) : State :=
  let t := (s.trainAll failed).setrf Rf.HUB_STAT_TRAINING 0
  if t.hubU.newRate = some (t.rf Rf.HUB_FREQ_CUR) then (t.setHub { t.hubU with newRate := none }).raise 0x700B (hubEv 0xFF 0xFF) else t

/-- Training has ended and the banks are reloaded; a slot left unserved keeps the module in STANDBY with
the hub off (R337). -/
def State.serviceUp (s : State) (failed : List (Fin 50)) : State :=
  let s := if s.bit Rf.HUB_STAT_TRAINING then s.firstTraining failed else s
  if s.modes.unslot then (s.setMode 0).refuseReq 0x0005 5 0
  else s.hubOn.leaveToService

/-- FREQUENCY_SWITCH_COMPLETE: the training at the new rate is complete, engines that waited for the hub go on, and a change to
STANDBY that waited for it is made (R329). -/
def execFrequencySwitchComplete (failed : List (Fin 50)) (s : State) : Host.Outcome State Fault Refusal :=
  let t := s.switchDone failed
  when' (s.bit Rf.HUB_STAT_TRAINING && decide (s.modes.trans ≠ .service)) s
    (if t.bit Rf.HUB_STAT_TRAINING then t
     else if s.modes.trans = .rest then t.enterStandby
     else (List.range 119).foldl State.resume t)

/-- ACQUISITION_ENTRY_COMPLETE: once a training of the hub is over, the cadence unit starts and the mode is reported. -/
def State.entered (s : State) : State :=
  ((s.tstClear).setMode (s.rf Rf.GLB_STATUS_TARGET)).cadStart.raise 0x0004 1 (s.rf Rf.GLB_STATUS_TARGET)

def execAcquisitionEntryComplete (s : State) : Host.Outcome State Fault Refusal :=
  when' (decide (s.modes.trans = .entry) && !s.bit Rf.HUB_STAT_TRAINING) s s.entered

/-- Every band up to the last closed one is complete and routed: no section, no chain to the outputs and no source holds
anything of it. -/
def State.drained (s : State) : Bool :=
  let n := s.openBand
  let empty (c : Nat) : Bool := (s.chain c).items.isEmpty
  !s.cad.started ||
    ((List.range 4).all (fun i => s.secDone i n) && (s.modes.nosieve || decide (n ≤ s.seam.next)) &&
      decide (n ≤ s.out.nextHdr) && s.out.hdrs.isEmpty && s.out.recq.isEmpty && s.out.crops.isEmpty && s.outbox.isEmpty &&
      s.out.hands.all (fun h => h.1 == 3) && (List.range 16).all (fun k => empty (s.recChain k) && empty (s.outChain k)) &&
      empty (s.rf Rf.POS_MK_CHAINS_CONF_CHAIN) && empty (s.rf Rf.PAK_CHAINS_CROP) && empty (s.rf Rf.PAK_CHAINS_STATS))

/-- DRAIN_COMPLETE: the cadence unit stops and the target is reached. -/
def execDrainComplete (s : State) : Host.Outcome State Fault Refusal :=
  let t := s.rf Rf.GLB_STATUS_TARGET
  let u := s.stopEngines.stopCadence
  when' (decide (s.modes.trans = .drain) && s.drained) s
    (if t = 0 then u.enterStandby else (u.setModes { u.modes with nosieve := false }).goMode t)

/-! ### SAFE (R412, R413) -/

/-- SAFE is entered: a transition and the bands in flight are abandoned, the outputs become inactive, the hub goes to
self-refresh, retention is emptied; what waited in output staging goes with the bands, and the chains keep their words until
STANDBY (R350). From STANDBY the hub is trained first where it is off (R323), with success (log 108), and
the banks are reloaded. Source 0 is SAFE_N, 1 the register. -/
def State.enterSafe (s : State) (source : Nat) : State :=
  if s.mode = 5 then s
  else
    let n := s.inFlight
    let busy := decide (s.modes.trans ≠ .none) || decide (0 < n)
    let left := decide (s.mode = 0)
    let s := s.stopCadence
    let s := if busy then s.raise 0x0007 n else s
    let s := s.raise 0x0006 source
    let s := s.cutTraining
    let s := if left && !s.hubU.on && !s.modes.unslot then (s.firstTraining []).hubOn else s
    let s := if left && s.hubU.on then s.reloadBanks else s
    let s := (s.setModes { s.modes with nosieve := false }).quietOutputs.dropStaging.dropPass.hubRest.emptyStreams.goMode 5
    if left then s.wakeOutputs else s

def execModeReqSafe (s : State) : Host.Outcome State Fault Refusal := .next (s.enterSafe 1)
def execSafe (s : State) : Host.Outcome State Fault Refusal := .next (s.enterSafe 1)

/-- SAFE_N_LOW: in STANDBY the mode stays as it is (R413), also while the change to SERVICE is under way, after which SAFE is
entered (log 206). -/
def execSafeNLow (s : State) : Host.Outcome State Fault Refusal :=
  let t := s.setrf Rf.GLB_STATUS_SAFE_PIN 1
  .next (if s.mode = 0 then t else t.enterSafe 0)

/-- SAFE_N_HIGH: SAFE may be left. -/
def execSafeNHigh (s : State) : Host.Outcome State Fault Refusal := .next (s.setrf Rf.GLB_STATUS_SAFE_PIN 0)

/-- SERVICE_READY: SERVICE is reached; with SAFE_N low SAFE follows at once (log 206). -/
def State.serviceReady (s : State) (failed : List (Fin 50)) : State :=
  let t := s.serviceUp failed
  if t.mode = 1 ∧ t.bit Rf.GLB_STATUS_SAFE_PIN then t.enterSafe 0 else t

def execServiceReady (failed : List (Fin 50)) (s : State) : Host.Outcome State Fault Refusal :=
  when' (decide (s.modes.trans = .service)) s (s.serviceReady failed)

/-! ### Resets (R414 to R417) -/

/-- A reset stops every engine, abandons a transition and discards the bands in flight. -/
def State.resetStops (s : State) : State :=
  let n := s.inFlight
  let busy := decide (s.modes.trans ≠ .none) || decide (0 < n)
  let s := s.stopEngines.rewindOpen.stopCadence.tstClear
  if busy then s.raise 0x0007 n else s

/-- The mode is STANDBY (R12). -/
def State.toStandby (s : State) : State := (s.setModes { s.modes with nosieve := false }).setMode 0

/-- A greater reset is in progress: it is the one taken (R417). -/
def State.greater (s : State) : Bool := s.modes.held || s.modes.cause.isSome || !s.modes.mains

/-- DPRST: class D is lost. -/
def execDprst (s : State) : Host.Outcome State Fault Refusal :=
  let t := ((s.setrf Rf.GLB_RSTCAUSE_CAUSE 7).bump Rf.GLB_RSTCAUSE_DPRST).resetStops.emptyStreams
  let t := (t.cutTraining.cutMigration.loseClasses [.d] liveFld).clearDatapath.hubRest.toStandby
  when' (!s.greater) s ((t.raise 0x000C).raise 0x0008 7)

/-- The cause of a host reset. -/
def hostCause : HostResetKind → Nat
  | .hot => 4
  | .linkDown => 5
  | .flr => 6

/-- HOST_RESET: classes H and D are lost, the result of a mailbox command under way is discarded, and the link is down
but after a function-level reset. -/
def execHostReset (kind : HostResetKind) (s : State) : Host.Outcome State Fault Refusal :=
  let t := ((s.setrf Rf.GLB_RSTCAUSE_CAUSE (hostCause kind)).bump Rf.GLB_RSTCAUSE_HOSTRST).resetStops.emptyStreams
  let t := ((t.cutTraining.cutMigration.loseClasses [.h, .d] liveFld).clearDatapath.hubRest.toStandby)
  let t := { t with out := { ports := t.out.ports }, mgt := { t.mgt with discard := t.mgt.result.isSome || t.mgt.cmd.isSome } }
  let down := [Rf.GLB_STATUS_LINK, Rf.PAK_PCIE_GEN, Rf.PAK_PCIE_WIDTH, Rf.PAK_PCIE_FLIT, Rf.PAK_PCIE_MPS, Rf.PAK_PCIE_MRRS]
  let t := if kind = .flr then t else t.loseFields (fun f => down.any (fun g => g.key == f.key))
  when' (!s.greater) s (t.raise 0x0008 (hostCause kind))

/-- The management processor starts anew: what its memory held is gone; flash and fuses stay. -/
def State.reboot (s : State) : State :=
  let s := s.setrf Rf.MGT_STAT_FW 0
  { s with logq := [], logCoal := false, mgt := { s.mgt with page := [], period := 100, kickAt := s.count, checked := false } }

/-- The loss of class M with what the die holds beside its registers: the hub's contents and training, the programs, the
events not routed. -/
def State.loseDie (s : State) (live : List Fld) : State :=
  let s := (s.cutMigration.loseClasses [.m, .h, .d] live).clearDatapath
  { s with hub := [], hubU := {}, evq := [], evLost := 0, engines := [], units := [], out := {} }.toStandby

/-- The processor starts anew with the die, and no mailbox command is left. -/
def State.rebootAll (s : State) : State :=
  { s.reboot with mgt := { s.reboot.mgt with cmd := none, result := none, discard := false } }

/-- MODULE_RESET: the die is held in reset, the straps are latched, class M is lost, and a new board table comes into
use. It acts with the main rails off too, which stay off (R417). -/
def execModuleReset (straps : BitVec 3) (s : State) : Host.Outcome State Fault Refusal :=
  let t := ((s.countStart.setrf Rf.GLB_RSTCAUSE_CAUSE 2).bump Rf.GLB_RSTCAUSE_MODRST).stopCadence.tstClear
  let t := (t.setrf Rf.GLB_STRAP_SMBADDR (straps.toNat % 4)).setrf Rf.GLB_STRAP_BOOT_SEL (straps.toNat / 4)
  let t := (t.loseDie islandFld).rebootAll
  let t := { t with mgt := { t.mgt with copyB := t.mgt.nextB } }
  when' (s.modes.vin && decide (s.modes.cause ≠ some 1)) s (t.setModes { t.modes with held := true, cause := some 2 })

/-- The section of a logical unit. -/
def unitSection (u : Nat) : Nat := if u < 48 then 1 else if u < 64 then 2 else if u < 96 then 3 else 4

/-- An unserved unit comes back into service where a spare is free (R67). -/
def State.serveAgain (s : State) (u : Nat) : State :=
  match s.unserved u, s.spareOf (unitSection u) with
  | true, some f =>
    let s := (s.setrf (Rf.ENG_UNIT_ENGINE u) f).setrf (Rf.ENG_UNIT_UNSERVED u) 0
    let s := (s.setrf (Rf.ENG_ROLE_SPARE f) 0).setrf (Rf.ENG_ROLE_UNIT f) u
    s.setrf (sparesFld (unitSection u)) (s.rf (sparesFld (unitSection u)) - 1)
  | _, _ => s

/-- RESET_N_RELEASE: the die leaves reset, and where the main rails are up the host port is ready; the processor starts. -/
def execResetNRelease (s : State) : Host.Outcome State Fault Refusal :=
  let t := (List.range 112).foldl State.serveAgain (s.setModes { s.modes with held := false, cause := none })
  let t := (t.setMgt { t.mgt with kickAt := t.count }).setrf Rf.GLB_STATUS_READY (if s.modes.mains then 1 else 0)
  when' s.modes.held s (t.raise 0x0008 2)

end Sys2Proof.Machine
end

