-- ==== Sys2Proof/Machine/Power.lean ====
section
/-! DEFINITION. Power-up and power-down, the boot of the management processor and its watchdog, the supply and its
phases, thermal control, and the host link (14.5, 14.6, 15.6, 15.7, R297). -/

namespace Sys2Proof.Machine

/-! ### The main rails (R399, R421, R424) -/

/-- The main rails are cut, and every perturbation ends (R432): the die loses what it holds, and the host link is down, so that
the result of a mailbox command under way is discarded (R392). The always-on island keeps its power, the management processor
in it runs on (R399), and of the sensors only those of the island stay valid. -/
def State.cutRails (s : State) : State :=
  let s := s.tstClear.stopCadence.loseDie (islandFld ++ mgtFld)
  let s := s.setMgt { s.mgt with discard := s.mgt.result.isSome || s.mgt.cmd.isSome }
  let off := s.mgt.sensors.map (fun e => (e.1, { e.2 with valid := e.2.valid && islandSensor e.1 }))
  (s.setMgt { s.mgt with sensors := off }).setModes { s.modes with mains := false }

/-! ### Power-up (R422, R68, R156) -/

/-- What a power-on keeps: class P in flash and fuses, the flash itself, the levels of the pins, the host's memory. -/
def State.poweredOn (s : State) (straps : Nat) : State :=
  let kept := s.regs.filter (fun e => match fldOfKey e.1 with
    | some f => decide (f.kept = .p)
    | none => false)
  let m := s.mgt
  let pins := s.pos.enc.map (fun e => (e.1, ({ a := e.2.a, b := e.2.b, z := e.2.z } : EncCh)))
  let t : State :=
    { regs := kept, host := s.host, free := s.free, pending := s.pending,
      pos := { enc := pins.filter (fun e => decide (e.2 ≠ ({} : EncCh))) },
      mgt := { flash := m.flash, good := m.good, trial := m.trial, len0 := m.len0, len1 := m.len1, copyB := m.nextB,
               nextB := m.nextB, ptp := m.ptp, net := m.net, logN := m.logN, saved := m.saved, lost := m.lost, slots := m.slots } }
  let t := (t.setrf Rf.GLB_STRAP_SMBADDR (straps % 4)).setrf Rf.GLB_STRAP_BOOT_SEL (straps / 4)
  let t := (t.bump Rf.GLB_STRAP_POWERON).setrf Rf.GLB_STATUS_SAFE_PIN (s.rf Rf.GLB_STATUS_SAFE_PIN)
  (List.range 8).foldl (fun t d => t.setrf (Rf.POS_DIN_STAT_LEVEL d) (s.rf (Rf.POS_DIN_STAT_LEVEL d))) t

/-- POWER_ON: VIN rises through 5.8 V. -/
def execPowerOn (straps : BitVec 3) (s : State) : Host.Outcome State Fault Refusal :=
  when' (!s.modes.vin) s (s.poweredOn straps.toNat)

/-- An engine fails its power-on test: it is retired, and its unit has no engine yet. -/
def State.failTest (s : State) (e : Nat) : State :=
  let u := s.unitOf e
  let sec := engSection e
  let s := if s.bit (Rf.ENG_ROLE_SPARE e) then s.setrf (sparesFld sec) (s.rf (sparesFld sec) - 1)
    else if u < 112 then s.setrf (Rf.ENG_UNIT_UNSERVED u) 1 else s
  s.retireEng e

/-- POWER_ON_TEST_COMPLETE: engines that failed are retired and spares assigned; a unit that none is left for is
unserved. The host port is ready. -/
def execPowerOnTestComplete (failed : List Eng) (s : State) : Host.Outcome State Fault Refusal :=
  let t := failed.foldl (fun s e => if s.bit (Rf.ENG_ROLE_RETIRED e) then s else s.failTest e) s
  let t := (List.range 112).foldl (fun s u =>
    let e := s.rf (Rf.ENG_UNIT_ENGINE u)
    let t := s.serveAgain u
    if t.unserved u then t.raise 0xD008 (e + 256 * u) else t) t
  let t := t.setModes { t.modes with cause := none }
  when' (decide (s.modes.cause = some 1) && s.modes.mains) s ((t.setrf Rf.GLB_STATUS_READY 1).raise 0x0008 1)

/-! ### What a start of the management processor loads (R156, R391) -/

/-- The equalisation of a lane, from its entry of the board table or at its default (R156). -/
def State.portBound (s : State) (l : Nat) : Nat :=
  ((List.range 48).find? (fun p => decide (s.laneBase p ≤ l) && decide (l < s.laneBase p + s.laneCount p))).getD 0
def State.loadLane (s : State) (l : Nat) (entry : Option (BitVec 64)) : State :=
  let fs := [Rf.SPK_LN_EQ_TX_SWING l, Rf.SPK_LN_EQ_TX_PRE l, Rf.SPK_LN_EQ_TX_POST l, Rf.SPK_LN_EQ_RX_CTLE l,
    Rf.SPK_LN_EQ_RX_DFE l, Rf.SPK_LN_EQ_POL_TX l, Rf.SPK_LN_EQ_POL_RX l]
  match entry with
  | some w => (fs.foldl (fun s f => s.setrf f (fldOf f w.toNat)) s).setrf (Rf.SPK_LN_EQ_DEFAULT l) 0
  | none => ((fs.foldl (fun s f => s.setrf f f.reset) s).setrf (Rf.SPK_LN_EQ_DEFAULT l) 1).raise 0x100F (s.portBound l + 256 * l)

/-- The board table is loaded into the die: once for each loss of BOARD, which is at a power-on, a module reset or a thermal
restart, and while the main rails are up. -/
def State.loadBoard (s : State) : State :=
  if s.bit Rf.GLB_STATUS_BOARD || !s.modes.mains then s
  else
    let table := s.boardTable
    let s := (List.range 192).foldl (fun s l => s.loadLane l (Config.laneEntry table l)) s
    s.setrf Rf.GLB_STATUS_BOARD 1

/-- The firmware of a bank runs: it loads the board table in use, reports the save of the last power loss, and erases save
slots until two are erased. -/
def State.runBank (s : State) (b : Bool) : State :=
  let s := (s.setrf Rf.MGT_STAT_FW 1).setrf Rf.GLB_STATUS_FW 1
  let s := (s.setrf Rf.MGT_STAT_BANK (if b then 1 else 0)).setrf Rf.MGT_STAT_SVN (s.svnOf b)
  let s := s.loadBoard
  let s := if s.mgt.lost then (s.setMgt { s.mgt with lost := false }).raise 0xA00C (s.mgt.saved.getD 0xFF) else s
  s.eraseSlots

/-! ### The management watchdog (R403, R12) -/

/-- A management watchdog reset: class D of the MGT and TST blocks is lost, and the processor starts anew. -/
def State.watchdogReset (s : State) : State :=
  let s := ((s.countStart.setrf Rf.GLB_RSTCAUSE_CAUSE 8).bump Rf.MGT_STAT_WDOG_CNT).tstClear
  let s := s.loseFields (fun f => decide (f.kept = .d) && (decide (f.addr / 0x100000 = 0xE) || decide (f.addr / 0x100000 = 0xF)))
  (s.reboot.raise 0xA008).raise 0x0008 8

/-- MGT_WATCHDOG_TIMEOUT: TIMEOUT_MS after the last kick, or after the start of the processor. It depends on the supply of the
island alone (R402). -/
def execMgtWatchdogTimeout (s : State) : Host.Outcome State Fault Refusal :=
  when' s.modes.vin s
    (s.advanceTo (s.mgt.kickAt + countsOfUs (1000 * s.rf Rf.MGT_WDOG_TIMEOUT_MS))).watchdogReset

/-- MGT_RESTART: a management watchdog reset at once. -/
def execMgtRestart (tag : BitVec 16) (s : State) : Host.Outcome State Fault Refusal :=
  .next (s.mailbox tag .mgtRestart (fun s => ok s.watchdogReset))

/-! ### The start of the processor (R395, R396) -/

/-- What a mailbox command answers once it is served; an unknown one answers RESULT 1. -/
def State.mbxAnswer (i : MbxCmd) (s : State) : Answer :=
  match i with
  | .info => s.info
  | .logRead seq n => s.logRead seq.toNat n
  | .bboxRead slot off => s.bboxRead slot off
  | .updBegin len => s.updBegin len
  | .updData off data => s.updData off data
  | .updVerify => s.updVerify
  | .updActivate => s.updActivate
  | .updConfirm => s.updConfirm
  | .boardWrite table => s.boardWrite table
  | .ptpSet cfg => s.ptpSet cfg
  | .ptpStatus => s.ptpStatus
  | .netSet cfg => s.netSet cfg
  | .mgtRestart => ok s.watchdogReset
  | .unknown => (1, [], s)

/-- A mailbox command that waited for the start is served. -/
def State.serveWaiting (s : State) : State :=
  match s.mgt.cmd with
  | some (tag, i) => (s.setMgt { s.mgt with cmd := none }).serveMbx tag i (State.mbxAnswer i)
  | none => s

/-- FIRMWARE_READY, at a date that only the processor knows: what the boot ROM selected runs; in recovery FW stays 0. -/
def execFirmwareReady (date : Nat) (s : State) : Host.Outcome State Fault Refusal :=
  let r := (s.advanceTo date).bootPick
  when' (s.modes.vin && !s.modes.held && decide (s.modes.cause ≠ some 1) && decide (s.rf Rf.MGT_STAT_FW = 0)) s
    (match r.1 with
     | some b => (r.2.runBank b).serveWaiting
     | none => ((r.2.setrf Rf.MGT_STAT_FW 2).raise 0xA00D).serveWaiting)

/-! ### Power-down and the supply (R419 to R424) -/

/-- POWER_OFF: VIN has stayed below 5.4 V for 5 µs; the main rails go off. The island's copy of the black box is
POWER_FAIL_WARNING. -/
def execPowerOff (s : State) : Host.Outcome State Fault Refusal :=
  let t := s.countStart.cutRails
  when' s.modes.vin s (t.setModes { t.modes with vin := false, held := false, cause := none, hot := false, coolAt := none, dead := false })

/-- VIN_OVERVOLTAGE: an excursion above 40 V. -/
def execVinOvervoltage (s : State) : Host.Outcome State Fault Refusal :=
  when' s.modes.vin s ((s.bump Rf.GLB_PWR_OVCNT).raise 0x0009)

/-- Throttling begins or ends, with its event. -/
def State.setThrottle (s : State) (on : Bool) : State :=
  let was := s.bit Rf.MGT_TSTAT_THROTTLE
  let s := s.setrf Rf.MGT_TSTAT_THROTTLE (if on then 1 else 0)
  if on && !was then (s.bump Rf.MGT_TSTAT_ONSETS).raise 0xA001
  else if was && !on then s.raise 0xA002
  else s

/-- The skip fraction of the thermal excess, and of a second failed phase (R398, R421). -/
def State.setSkip (s : State) (excess : Nat) : State :=
  let two := decide (2 ≤ s.rf Rf.GLB_STATUS_PHASES)
  let skip := max (min (30 * excess) 4000) (if two then 2000 else 0)
  ((s.setrf Rf.MGT_TSTAT_SKIP skip).setThrottle (decide (1 ≤ excess) || two)).thermSeen

/-- PHASE_FAILURE: event 0x000A; the second forces a skip fraction with event 0x000B; after the third the main rails are
cut until the next power-on. -/
def execPhaseFailure (s : State) : Host.Outcome State Fault Refusal :=
  let n := s.rf Rf.GLB_STATUS_PHASES + 1
  let t := (s.setrf Rf.GLB_STATUS_PHASES (min n 3)).raise 0x000A
  when' s.modes.mains s
    (if n = 2 then
       (let t := t.raise 0x000B
        ((t.setrf Rf.MGT_TSTAT_SKIP (max 2000 (t.rf Rf.MGT_TSTAT_SKIP))).setThrottle true).thermSeen)
     else if 3 ≤ n then (let t := t.cutRails; t.setModes { t.modes with dead := true })
     else t)

/-! ### Thermal control (R397 to R399, R443) -/

/-- D and the sensor that gave it, in eighths of a degree. -/
def hottest : List Int → Int × Nat
  | [] => (0, 0)
  | x :: xs => (xs.zipIdx).foldl (fun m e => if m.1 < e.1 then (e.1, e.2 + 1) else m) (x, 0)

/-- At 118 °C the main rails are cut (R399). -/
def State.shutdown (s : State) (d : Int) : State :=
  let s := (s.bump Rf.MGT_SHUT_COUNT).setrf Rf.MGT_SHUT_LAST_D (ofSigned 16 d)
  let s := ((s.setrf Rf.MGT_SHUT_LAST_WRAP (s.now / 2 ^ 32)).raise 0xA003 (ofSigned 16 d)).cutRails
  s.setModes { s.modes with hot := true, coolAt := none }

/-- A measurement of the die sensors. -/
def State.measure (s : State) (readings : List Int) : State :=
  let s := (readings.take 40).zipIdx.foldl (fun s e => s.sample e.2 (BitVec.ofInt 16 e.1)) s
  let d := hottest (readings.take 40)
  let off : Int := if s.bit Rf.TST_THERM_EN then toSigned 16 (s.rf Rf.TST_THERM_OFFSET) else 0
  let onset : Int := 8 * s.rf Rf.MGT_THERM_ONSET
  let s := (s.setrf Rf.MGT_TSTAT_DMAX (ofSigned 16 d.1)).setrf Rf.MGT_TSTAT_SENSOR d.2
  let s := s.setrf Rf.MGT_TSTAT_FAST (if onset - 64 ≤ d.1 + off ∨ 880 ≤ d.1 then 1 else 0)
  let s := s.setSkip (d.1 + off - onset).toNat
  if 944 ≤ d.1 then s.shutdown d.1 else s

/-- With the rails cut the island reads sensor 0 every 10 ms, and keeps the count since which it has read below 85 °C. -/
def State.measureOff (s : State) (x : Int) : State :=
  let s := s.sample 0 (BitVec.ofInt 16 x)
  s.setModes { s.modes with coolAt := if 680 ≤ x then none else some (s.modes.coolAt.getD s.count) }

/-- THERMAL_MEASURE: every 1 ms, every 50 µs near the onset, every 10 ms with the main rails off. -/
def execThermalMeasure (readings : List Int) (s : State) : Host.Outcome State Fault Refusal :=
  let step := if !s.modes.mains then 10000 else if s.bit Rf.MGT_TSTAT_FAST then 50 else 1000
  let t := s.advanceTo (s.modes.measAt + countsOfUs step)
  let t := t.setModes { t.modes with measAt := t.count }
  when' (s.modes.vin && decide (readings ≠ [])) s
    (if s.modes.mains then t.measure readings else t.measureOff (readings.headD 0))

/-- THERMAL_RESTART: sensor 0 has read below 85 °C for 1 s; class M is lost and the module starts anew. -/
def execThermalRestart (s : State) : Host.Outcome State Fault Refusal :=
  match s.modes.coolAt with
  | some c =>
    let t := ((s.advanceTo (c + countsOfUs 1000000)).countStart.loseDie islandFld).rebootAll
    let t := t.setModes { t.modes with mains := true, hot := false, coolAt := none }
    let t := (t.setrf Rf.GLB_RSTCAUSE_CAUSE 3).setrf Rf.GLB_STATUS_READY 1
    when' (s.modes.hot && s.modes.vin && !s.modes.held) s ((t.raise 0xA004).raise 0x0008 3)
  | none => .next s

/-! ### The host link (R297) -/

/-- A link Table 10.8 supports: its generation, width, FLIT mode at 64 GT/s, and payload and read request sizes. -/
def linkOk (gen width : Nat) (flit : Bool) (mps mrrs : Nat) : Bool :=
  [4, 5, 6].contains gen && [4, 8, 16].contains width && (gen ≠ 6 || flit) && [128, 256, 512].contains mps &&
    [128, 256, 512, 1024, 2048, 4096].contains mrrs

/-- HOST_LINK_UP: the link is trained, as one Table 10.8 supports; below x16 or below 64 GT/s that is event 0x600C. -/
def execHostLinkUp (gen width : Nat) (flit : Bool) (mps mrrs : BitVec 16) (s : State) : Host.Outcome State Fault Refusal :=
  let t := (s.setrf Rf.PAK_PCIE_GEN gen).setrf Rf.PAK_PCIE_WIDTH width
  let t := (t.setrf Rf.PAK_PCIE_FLIT (if flit then 1 else 0)).setrf Rf.PAK_PCIE_MPS mps.toNat
  let t := (t.setrf Rf.PAK_PCIE_MRRS mrrs.toNat).setrf Rf.GLB_STATUS_LINK 1
  when' (s.bit Rf.GLB_STATUS_READY && linkOk gen width flit mps.toNat mrrs.toNat) s (if width < 16 ∨ gen < 6 then t.raise 0x600C else t)

end Sys2Proof.Machine
end

