-- ==== Sys2Proof/Machine/Test.lean ====
section
/-! DEFINITION. The TST block: the uses of its perturbations, where they are allowed, and what each of them begins
(chapter 16). -/

namespace Sys2Proof.Machine

/-! ### Uses (R430 to R433) -/

/-- A use is allowed: in SERVICE, or in an acquisition mode under the unlock, and in no transition (Table 16.1). -/
def State.tstMay (s : State) : Bool :=
  decide (s.modes.trans = .none) && (decide (s.mode = 1) || (decide (2 ≤ s.mode) && decide (s.mode ≤ 4) && s.bit Rf.TST_STAT_UNLOCKED))

/-- The values written are in their ranges. -/
def okFlds (fs : List Fld) (v : Nat) : Bool :=
  fs.all (fun f => match f.acc with
    | .rw => f.ok (fldOf f v)
    | _ => true)

/-- The fields of a list that a word would change. -/
def State.changes (s : State) (fs : List Fld) (v : Nat) : Bool := fs.any (fun f => decide (s.rf f ≠ fldOf f v))

/-- The RW fields of a register take a word. -/
def State.writeFlds (s : State) (fs : List Fld) (v : Nat) : State :=
  fs.foldl (fun s f => match f.acc with
    | .rw => s.setrf f (fldOf f v)
    | _ => s) s

/-- A write of a TST register: ignored with event 0xE004 where a value is out of range or the use is not allowed; else
the fields are written, each use is reported with its kind and counted once, the LFSR starts at TST_SEED, `f` is what it begins, and what has ended is
reported. -/
def State.tstWrite (s : State) (fs : List Fld) (v : Nat) (inRange : Bool) (kinds : List Nat) (f : State → State) : State :=
  if !(okFlds fs v && inRange) || (!kinds.isEmpty && !s.tstMay) then s.raise 0xE004 ((fs.head?.map (·.addr)).getD 0)
  else
    let t := s.writeFlds fs v
    let seed := BitVec.ofNat 32 (max 1 (s.rf Rf.TST_SEED_SEED))
    let use : State := { t.bump Rf.TST_STAT_USES with tests := { t.tests with lfsr := seed } }
    let t := kinds.foldl (fun t k => t.raise 0xE002 k v) (if kinds.isEmpty then t else use)
    (f t).tstShow s

/-- A kind that a bit of the word enables. -/
def kindIf (v bit k : Nat) : List Nat := if v.testBit bit then [k] else []

def State.setTests (s : State) (t : TestUnit) : State := { s with tests := t }

/-! ### The unlock (R431, R383) -/

/-- A write of the management port to a block it never writes: dropped, counted, event 0xB003. -/
def State.mgtDropped (s : State) (off : Nat) : State := (s.bump Rf.BRK_CNT_MGTW).raise 0xB003 off

/-- TST_UNLOCK: 0x7E57 from the host in an acquisition mode. -/
def execTstUnlock (port : Port) (v : BitVec 64) (s : State) : Host.Outcome State Fault Refusal :=
  match port with
  | .mgt => .next (s.mgtDropped (Rf.TST_UNLOCK_KEY).addr)
  | .host =>
    when' (decide (2 ≤ s.mode) && decide (s.mode ≤ 4) && decide (v.toNat % 2 ^ 16 = 0x7E57)) s
      ((s.setrf Rf.TST_STAT_UNLOCKED 1).raise 0xE001)

/-! ### The registers as they are written -/

/-- Credit starvation (R435). -/
def State.tstCred (s : State) (i v : Nat) : State :=
  s.tstWrite [Rf.TST_CRED_CHAIN i, Rf.TST_CRED_EN i, Rf.TST_CRED_LIMIT i] v true (kindIf v 8 0) id

/-- Hub latency (R436): the time of completions, which the model does not keep. -/
def State.tstHublat (s : State) (v : Nat) : State :=
  s.tstWrite [Rf.TST_HUBLAT_DELAY, Rf.TST_HUBLAT_RAND, Rf.TST_HUBLAT_EN, Rf.TST_HUBLAT_CLASSES] v true (kindIf v 15 1) id

/-- Back-pressure (R437): its pattern begins with ON. A write that leaves the pattern as it is and sets no enable that was
clear is no use (R430). -/
def State.tstBp (s : State) (v : Nat) : State :=
  let anew := s.changes [Rf.TST_BP_ON_US, Rf.TST_BP_OFF_US] v
  let on (f : Fld) (b : Nat) : Bool := v.testBit b && (anew || !s.bit f)
  let kinds := (if on Rf.TST_BP_HOST 0 then [2] else []) ++ (if on Rf.TST_BP_SP0 1 || on Rf.TST_BP_SP1 2 then [3] else [])
  s.tstWrite [Rf.TST_BP_HOST, Rf.TST_BP_SP0, Rf.TST_BP_SP1, Rf.TST_BP_ON_US, Rf.TST_BP_OFF_US] v true kinds
    (fun s => if kinds.isEmpty then s else s.setTests { s.tests with bpAt := s.count })

/-- Lane symbols (R438). -/
def State.tstLane (s : State) (i v : Nat) : State :=
  s.tstWrite [Rf.TST_LANE_LANE i, Rf.TST_LANE_OP i, Rf.TST_LANE_BIT i, Rf.TST_LANE_EN i, Rf.TST_LANE_ONESHOT i,
    Rf.TST_LANE_RATE_LOG i] v true (kindIf v 16 4)
    (fun s => s.setTests { s.tests with laneN := put (fun _ => 0) s.tests.laneN i 0 })

/-- Line distortion (R441). -/
def State.tstLine (s : State) (v : Nat) : State :=
  s.tstWrite [Rf.TST_LINE_PORT, Rf.TST_LINE_EN, Rf.TST_LINE_OP, Rf.TST_LINE_N, Rf.TST_LINE_EVERY] v true (kindIf v 6 7)
    (fun s => s.setTests { s.tests with lineN := 0 })

/-- Tick jitter (R442): JMAX_NS is at most PERIOD_NS/8. -/
def State.tstTick (s : State) (v : Nat) : State :=
  s.tstWrite [Rf.TST_TICK_JMAX_NS, Rf.TST_TICK_EN] v (decide (8 * fldOf Rf.TST_TICK_JMAX_NS v ≤ s.rf Rf.CAD_PERIOD_PERIOD_NS))
    (kindIf v 24 8) id

/-- Thermal offset (R443). -/
def State.tstTherm (s : State) (v : Nat) : State := s.tstWrite [Rf.TST_THERM_OFFSET, Rf.TST_THERM_EN] v true (kindIf v 16 9) id

def execTstCred (_ : Port) (i : Fin 4) (v : BitVec 64) (s : State) : Host.Outcome State Fault Refusal := .next (s.tstCred i v.toNat)
def execTstHublat (_ : Port) (v : BitVec 64) (s : State) : Host.Outcome State Fault Refusal := .next (s.tstHublat v.toNat)
def execTstBp (_ : Port) (v : BitVec 64) (s : State) : Host.Outcome State Fault Refusal := .next (s.tstBp v.toNat).flow
def execTstLane (_ : Port) (i : Fin 4) (v : BitVec 64) (s : State) : Host.Outcome State Fault Refusal := .next (s.tstLane i v.toNat)
def execTstLine (_ : Port) (v : BitVec 64) (s : State) : Host.Outcome State Fault Refusal := .next (s.tstLine v.toNat)
def execTstTick (_ : Port) (v : BitVec 64) (s : State) : Host.Outcome State Fault Refusal := .next (s.tstTick v.toNat)
def execTstTherm (_ : Port) (v : BitVec 64) (s : State) : Host.Outcome State Fault Refusal := .next (s.tstTherm v.toNat)

/-- BACKPRESSURE_PHASE: the pattern comes to its next change, and what it held goes on. -/
def execBackpressurePhase (s : State) : Host.Outcome State Fault Refusal :=
  let on := countsOfUs (s.rf Rf.TST_BP_ON_US)
  let per := on + countsOfUs (s.rf Rf.TST_BP_OFF_US)
  let r := (s.count - s.tests.bpAt) % max 1 per
  when' (decide (0 < on) && (s.bit Rf.TST_BP_HOST || s.bit Rf.TST_BP_SP0 || s.bit Rf.TST_BP_SP1)) s
    (s.advanceTo (s.count + (if r < on then on - r else per - r))).flow

/-! ### Code symbols (R439) -/

/-- A pattern is XORed into a symbol of a codeword; a pattern that comes to 0 leaves no error. -/
def flipSym (l : List (Nat × Nat)) (sym pat : Nat) : List (Nat × Nat) :=
  put (fun _ => 0) l sym (look (fun _ => 0) l sym ^^^ pat)

/-- The stored codeword of the hub that holds an address takes the flip. -/
def State.flipHub (s : State) (a : Nat) (syms : List Nat) (pat : Nat) (counts : Bool) : State :=
  let s := s.writeBacks
  let k := a / 16
  let e := syms.foldl (fun l y => flipSym l y pat) (look (fun _ => []) s.hubU.errs k)
  let quiet := s.hubU.quiet.filter (· ≠ k)
  s.setHub { s.hubU with errs := put (fun _ => []) s.hubU.errs k e, quiet := if counts then quiet else quiet ++ [k] }

/-- The codeword of an engine's memory that an ADDR names: a word of instruction memory, 16 bytes of scratch, a register
(one of 64 scalars, of 16 descriptors, of 16 accumulators, or the one codeword of the predicates and the loop stack), 16 bytes
of a tile store. -/
def eccKey (mem a : Nat) : Nat :=
  errKey mem (match mem with
    | 1 => a
    | 3 => if a / 64 = 0 then a else if a / 64 = 3 then 192 else a / 64 * 64 + a % 16
    | _ => a / 16)

/-- A flip in an engine's memory: the codeword keeps its symbols in error. A single one is corrected and counted, at the flip, since the spec gives no instant (DEDUCED, log 143); two are never delivered, and make
the fault that ENGINE_FAULT declares (R62, R63). -/
def State.flipEngine (s : State) (e mem a : Nat) (syms : List Nat) (pat : Nat) : State :=
  let x := s.eng e
  let k := eccKey mem a
  let l := syms.foldl (fun l y => flipSym l y pat) (look (fun _ => []) x.errs k)
  let s := s.setEng e { x with errs := put (fun _ => []) x.errs k l, injected := x.injected || decide (2 ≤ l.length) }
  if l.length = 1 then s.bump (Rf.ENG_FAULT_CORR e) else s

/-- A flip in the management SRAM: the codeword keeps its symbols in error; the spec gives that memory no fault (log 208). -/
def State.flipSram (s : State) (a : Nat) (syms : List Nat) (pat : Nat) : State :=
  let k := a / 16
  let l := syms.foldl (fun l y => flipSym l y pat) (look (fun _ => []) s.mgt.sram k)
  { s with mgt := { s.mgt with sram := put (fun _ => []) s.mgt.sram k l } }

/-- A flip that awaits the next transfer through an engine's hub port. -/
def State.armFabric (s : State) (e : Nat) (syms : List Nat) (pat : Nat) : State :=
  let x := s.eng e
  s.setEng e { x with fab := some (syms.foldl (fun l y => flipSym l y pat) (x.fab.getD [])) }

/-- The ADDR lies in the memory named. -/
def State.eccAddr (s : State) (mem a : Nat) : Bool :=
  match mem with
  | 0 => decide (a < s.capacity)
  | 1 => decide (a < 32768)
  | 2 => decide (a < scratchSize)
  | 3 => decide (a < 256)
  | 4 => decide (a < 0x20000) && decide (a % 0x10000 < 0xC000)
  | 5 => decide (a < 0x400000)
  | _ => true

/-- A write of TST_ECC; GO makes the flip, or arms that of the next transfer. -/
def State.tstEcc (s : State) (v : Nat) : State :=
  let go := v.testBit 11
  let a := s.rf Rf.TST_ECC_ADDR_ADDR
  let mem := fldOf Rf.TST_ECC_MEM v
  let n := fldOf Rf.TST_ECC_NSYM v
  let sym := fldOf Rf.TST_ECC_SYM v
  let pat := if fldOf Rf.TST_ECC_PAT v = 0 then 0xFF else fldOf Rf.TST_ECC_PAT v
  let syms := if n = 2 then [sym, (sym + 1) % 18] else [sym]
  let flip (s : State) : State :=
    let done (s : State) : State := (s.setrf Rf.TST_ECC_DONE 1).raise 0xE003 5
    if !go then s
    else match mem with
      | 0 => done (s.flipHub a syms pat (v.testBit 10))
      | 5 => done (s.flipSram a syms pat)
      | 6 => (s.armFabric (fldOf Rf.TST_ECC_ENGINE v) syms pat).setrf Rf.TST_ECC_DONE 0
      | _ => done (s.flipEngine (fldOf Rf.TST_ECC_ENGINE v) mem a syms pat)
  s.tstWrite [Rf.TST_ECC_MEM, Rf.TST_ECC_NSYM, Rf.TST_ECC_SYM, Rf.TST_ECC_COUNT, Rf.TST_ECC_ENGINE, Rf.TST_ECC_PAT] v
    (!go || s.eccAddr mem a) (kindIf v 11 5) flip

def execTstEccGo (_ : Port) (v : BitVec 64) (s : State) : Host.Outcome State Fault Refusal := .next (s.tstEcc v.toNat)

/-! ### Encoder glitches (R440) -/

/-- A pulse that the filter lets pass: the level changes and comes back; a pulse on Z has one rising edge. -/
def State.glitch (s : State) (ch sig w : Nat) (both : Bool) : State :=
  if !passes (s.rf (Rf.POS_ENC_CFG_FILT ch)) w then s
  else if sig = 2 ∧ !both then
    let back := s.count + ceilDiv (25 * w) 4
    let x := s.encCh ch
    if x.z ∧ s.count < x.zFall then
      let t := (s.setEncCh ch { x with z := false }).indexEdge ch back
      t.setEncCh ch { t.encCh ch with z := true }
    else s.zRise ch s.count w
  else
    let x := s.encCh ch
    let a := x.a != (both || decide (sig = 0))
    let b := x.b != (both || decide (sig = 1))
    let t := s.levels ch a b s.count
    let back := s.count + ceilDiv (25 * w) 4
    (t.advanceTo back).levels ch x.a x.b back

/-- A write of TST_ENC; GO injects the glitch. -/
def State.tstEnc (s : State) (v : Nat) : State :=
  let go := v.testBit 16
  let f (s : State) : State :=
    if go then (s.glitch (fldOf Rf.TST_ENC_CH v) (fldOf Rf.TST_ENC_SIG v) (fldOf Rf.TST_ENC_W v) (v.testBit 5)).raise 0xE003 6 else s
  s.tstWrite [Rf.TST_ENC_CH, Rf.TST_ENC_SIG, Rf.TST_ENC_BOTH, Rf.TST_ENC_W] v true (kindIf v 16 6) f

def execTstEncGo (_ : Port) (v : BitVec 64) (s : State) : Host.Outcome State Fault Refusal := .next (s.tstEnc v.toNat)

end Sys2Proof.Machine
end

