-- ==== Sys2Proof/Machine/Access.lean ====
section
/-! DEFINITION. Register accesses: which are valid, what a register reads as, and what a write of each block does beside
setting fields (0.6 and the register sections of the chapters). -/

namespace Sys2Proof.Machine

/-- The state that the command of a row of its own leaves behind a register write. -/
def State.after (s : State) : Host.Outcome State Fault Refusal → State
  | .next t => t
  | _ => s

/-! ### Valid accesses (R5, R383) -/

/-- The MSI-X table and the pending bit array. -/
def inMsix (off : Nat) : Bool := decide (0x608000 ≤ off) && decide (off < 0x610100)

/-- Aligned 64-bit accesses to a defined offset; in the MSI-X structures aligned 32-bit ones too. -/
def accessOk (off size : Nat) : Bool :=
  (decide (size = 8) && decide (off % 8 = 0) && ((regAt off).isSome || (imemAt off).isSome)) ||
    (decide (size = 4) && decide (off % 4 = 0) && inMsix off)

/-- Where the management port may not write: BRK, the MSI-X structures and the test unlock. -/
def mgtBarred (off : Nat) : Bool :=
  (decide (0xD00000 ≤ off) && decide (off < 0xE00000)) || inMsix off || decide (off = (Rf.TST_UNLOCK_KEY).addr)

/-! ### Reading -/

/-- The index of a field in an array of `n` fields `F`, if it is one of them. -/
def idxIn (f : Fld) (n : Nat) (F : Nat → Fld) : Option Nat :=
  let b := (F 0).key
  let i := (f.key - b) / max 1 ((F 1).key - b)
  if b ≤ f.key ∧ i < n ∧ (F i).key = f.key then some i else none

/-- The bytes a channel's requests read and wrote in the last complete millisecond. -/
def State.lastMs (s : State) (c : Nat) : Nat × Nat :=
  let x := look (fun _ => ({} : ChLoad)) s.hubU.load c
  let ms := s.count / countsOfUs 1000
  if x.ms = ms then (x.lastRd, x.lastWr) else if x.ms + 1 = ms then (x.rd, x.wr) else (0, 0)

/-- The fields that show what the state holds elsewhere. -/
def State.views (s : State) : List (Nat × (Nat → Fld) × (Nat → Nat)) := [
  (119, Rf.ENG_STATUS_STATE, fun e =>
    if s.bit (Rf.ENG_ROLE_RETIRED e) then 7
    else if s.bit (Rf.ENG_ROLE_SPARE e) && decide (s.rf (Rf.ENG_STATUS_STATE e) = 0) then 8 else s.rf (Rf.ENG_STATUS_STATE e)),
  (1, fun _ => Rf.CAD_BUDGET_BUDGET, fun _ => s.budget),
  (48, Rf.SPK_PCAM_AGE_US, fun p => match (s.port p).stAt with
    | some c => min 0xFFFF ((s.count - c) / 1250)
    | none => 0xFFFF),
  (4, Rf.POS_CMP_STAT_DEPTH, fun u => (s.cmpU u).list.length),
  (4, Rf.POS_CMP_HEAD_POS, fun u => ((s.cmpU u).list.head?.map (·.e0.toNat)).getD 0),
  (1, fun _ => Rf.FUS_LAYOUT_LSK, fun _ => s.fusLsk),
  (1, fun _ => Rf.FUS_LAYOUT_MBK, fun _ => s.fusMbk),
  (1, fun _ => Rf.FUS_SLOTB_SLOT_BYTES, fun _ => s.fusSlotBytes),
  (16, Rf.FUS_STRIP_FIRST, fun k => s.stripX k),
  (16, Rf.FUS_STRIP_LAST, fun k => s.stripX (k + 1) - 1),
  (1, fun _ => Rf.HUB_STAT_CAP_GIB, fun _ => s.capGib),
  (1, fun _ => Rf.HUB_STAT_AVAIL, fun _ => if s.hubOpen then 1 else 0),
  (256, Rf.CHN_CNT_WORDS, fun c => (s.chain c).words % 2 ^ 32),
  (256, Rf.CHN_CNT_PACKETS, fun c => (s.chain c).packets % 2 ^ 32),
  (50, Rf.HUB_CH_LOAD_RD_MB, fun c => (s.lastMs c).1 / 1000000),
  (50, Rf.HUB_CH_LOAD_WR_MB, fun c => (s.lastMs c).2 / 1000000),
  (64, fun k => Rf.DMA_STAT_APPQ (k / 16) (k % 16), fun k => s.dmaQueued (k / 16) (k % 16)),
  (1, fun _ => Rf.TIM_NOW_T, fun _ => s.timNow),
  (1, fun _ => Rf.TIM_COUNT_COUNT, fun _ => s.count % 2 ^ 64)]

/-- The fields that show what only the hardware measures: free values. -/
def measured (f : Fld) : Bool :=
  (idxIn f 192 Rf.SPK_LN_STAT_PPM).isSome || (idxIn f 2 Rf.PAK_SP_STAT_FECCORR).isSome ||
    [Rf.GLB_PWR_VIN, Rf.GLB_PWR_IIN, Rf.GLB_PWR_PIN, Rf.GLB_PWR_OVP].any (fun g => g.key == f.key)

/-- The longest completion of the TC0 transactions since the last read: a free value within the bound of R328, and 0 where
there was none. -/
def State.longestTc0 (s : State) : Nat × State :=
  if s.hubU.tc0Seen then
    let r := s.freeBits 16
    (r.1 % 1501, { r.2 with hubU := { r.2.hubU with tc0Seen := false } })
  else (0, s)

/-- The word that the next pop of a chain returns, read from the hub where it serves reads, or the idle item (R349). -/
def State.chainHead (s : State) (c : Nat) : Nat × State :=
  match (s.chain c).items[(s.chain c).gone]? with
  | some i =>
    let a := s.chainLaneBase c i.ep + 8 * i.slot
    (readLE (s.hubView a 8) a 8, if s.hubOpen then (s.readAs (s.chainClass c) srcHost a 8).1 else s)
  | none => ((idleItem c).toNat, s)

/-- The value a field reads as. -/
def State.fieldRead (s : State) (f : Fld) : Nat × State :=
  match f.acc with
  | .wo => (0, s)
  | _ =>
    if measured f then s.freeBits f.width
    else if f.key = Rf.HUB_TC0_MAX_NS.key then s.longestTc0
    else match idxIn f 256 Rf.CHN_HEAD_WORD with
    | some c => s.chainHead c
    | none => match s.views.findSome? (fun v => (idxIn f v.1 v.2.1).map v.2.2) with
      | some n => (n % 2 ^ f.width, s)
      | none => (s.rf f, s)

/-- The word of a register, its fields read from the first on. -/
def State.wordRead (s : State) : List Fld → Nat × State
  | [] => (0, s)
  | f :: fs =>
    let r := s.fieldRead f
    let q := r.2.wordRead fs
    (r.1 * 2 ^ f.lo + q.1, q.2)

/-- A word of a bank as a read finds it (R54): in STANDBY, where the engine memories are power-gated, the bank's copy in the
engine shadow while the hub holds its contents, and zeros while it is off. -/
def State.bankRead (s : State) (e : Nat) (b : Bool) (i : Nat) : Word :=
  if s.mode = 0 then
    let a := shadowBase e + (if b then 0x20000 else 0) + 8 * i
    if s.hubU.on then BitVec.ofNat 64 (readLE (s.hubView a 8) a 8) else 0
  else look (fun _ => 0) ((s.eng e).bank b) i

/-- What that read counts: in STANDBY it is a read of the hub. -/
def State.bankNote (s : State) (e : Nat) (b : Bool) (i : Nat) : State :=
  if s.mode = 0 ∧ s.hubU.on then
    s.noteErrs (s.hubU.errs.filter (fun k => cwIn (shadowBase e + (if b then 0x20000 else 0) + 8 * i) 8 k.1))
  else s

/-- A valid read: the word, then the RC fields clear (R7), and a count that was read may be signalled again (R348). -/
def State.regRead (s : State) (off size : Nat) : State :=
  match imemAt off with
  | some (e, b, i) => { s.bankNote e b i with readData := s.bankRead e b i }
  | none =>
    let at8 := off / 8 * 8
    let fs := (regAt at8).getD []
    let s := match fs.head?.bind (fun f => idxIn f 64 Rf.PAK_RING_CNT_DROPPED) with
      | some r => s.settleFull r
      | none => s
    let r := s.wordRead fs
    let w := if size = 4 then r.1 / 2 ^ (8 * (off - at8)) % 2 ^ 32 else r.1
    let t := clearRc { r.2 with readData := BitVec.ofNat 64 w } fs
    match fs.head?.bind (fun f => idxIn f 256 Rf.CHN_CNT_WORDS) with
    | some c => (t.setChain c { t.chain c with armed := true }).setrf (Rf.CHN_STAT_PEND c) 0
    | none => t

/-! ### Writing fields (R7, R445) -/

/-- Every value written lies in its field's range. -/
def inRange (fs : List Fld) (v : Nat) : Bool :=
  fs.all (fun f => match f.acc with
    | .rw => f.ok (fldOf f v)
    | .rwl => f.ok (fldOf f v)
    | .wo => f.ok (fldOf f v)
    | _ => true)

/-- The fields take a word, each by its access code. An update that stands before a clear is of an earlier cycle (DEDUCED, log
201). -/
def State.setFlds (s : State) (fs : List Fld) (v : Nat) : State :=
  fs.foldl (fun s f => match f.acc with
    | .rw => s.setrf f (fldOf f v)
    | .rwl => s.setrf f (fldOf f v)
    | .w1c => if fldOf f v = 0 then s else s.setrf f 0
    | _ => s) s

/-- The event of an ignored write, with what it names (R445 and the chapters' event tables); that of PAK says with its second
detail whether it names a ring, a stream, a port or none (log 196). -/
def State.ignored (s : State) (off : Nat) : State :=
  let r := off % 0x100000
  match off / 0x100000 with
  | 1 => s.raise 0xC00B 0
  | 2 => s.raise (if r % 0x1000 < 0x100 then 0x100E else 0x200C) (r / 0x1000)
  | 4 => s.raise 0x4002 (if r < 0x1000 then 0xFF else (r - 0x1000) / 0x40)
  | 5 => s.raise 0x5002 0
  | 6 => if r < 0x20000 then s.raise 0x6002 0 0 else if r < 0x30000 then s.raise 0x6002 ((r - 0x20000) / 0x40) 1
      else if r < 0x38000 then s.raise 0x6002 ((r - 0x30000) / 0x80) 2 else s.raise 0x6002 ((r - 0x38000) / 0x40) 3
  | 7 => s.hubIgnored r
  | 9 => s.raise 0x8002 (r / 0x40)
  | 10 => s.raise 0x8006 (dmaEv (r / 0x1000) (r % 0x1000 / 0x100))
  | 11 => s.raise 0x300C (if r < 0x400 then r / 0x80 else if r < 0x600 then (r - 0x400) / 0x40
      else if r < 0x1000 then (r - 0x600) / 0x40 else if r < 0x2000 then (r - 0x1000) / 0x40
      else if r < 0x3000 then (r - 0x2000) / 0x200 else (r - 0x3000) / 0x40)
  | 12 => s.raise 0x9006 off
  | 13 => s.raise 0xB00A off
  | 14 => s.raise 0xA00E r
  | _ => s.raise 0x0001 off

/-- The fields take a word where the register takes writes now. -/
def State.takeWord (s : State) (off : Nat) (fs : List Fld) (v : Nat) (may : Bool) : State :=
  if may then s.setFlds fs v else s.ignored off

/-- An operation, if its bit is written. -/
def State.onBit (s : State) (v bit : Nat) (f : State → Host.Outcome State Fault Refusal) : State :=
  if v.testBit bit then s.after (f s) else s

/-! ### The blocks -/

/-- GLB: requests and resets. -/
def State.writeGlb (s : State) (r v : Nat) : State :=
  if r = 0x10 then
    if fldOf Rf.GLB_MODE_REQ v = 5 then s.enterSafe 1 else s.modeReq (fldOf Rf.GLB_MODE_REQ v) (v.testBit 3) (v.testBit 4)
  else if r = 0x18 then (s.onBit v 0 execDprst).onBit v 1 execSafe
  else s

/-- The limits of CAD registers that depend on each other (R117). -/
def State.cadLimits (s : State) (r v : Nat) : Bool :=
  let per := s.rf Rf.CAD_PERIOD_PERIOD_NS
  let gapOk (g p : Nat) : Bool := decide (g = 0) || decide (p ≤ 1000 * g)
  if r = 0x10 then decide (8000 * fldOf Rf.CAD_GEOM_TAIL_US v ≤ per)
  else if r = 0x18 then
    decide (8000 * s.rf Rf.CAD_GEOM_TAIL_US ≤ fldOf Rf.CAD_PERIOD_PERIOD_NS v) &&
      gapOk (s.rf Rf.CAD_MAXGAP_GAP_US) (fldOf Rf.CAD_PERIOD_PERIOD_NS v)
  else if r = 0x28 then gapOk (fldOf Rf.CAD_MAXGAP_GAP_US v) per
  else true

/-- CAD (R117, R118, R130). -/
def State.writeCad (s : State) (off : Nat) (fs : List Fld) (v : Nat) : State :=
  let r := off % 0x100000
  if r = 0 then (s.onBit v 0 execHold).onBit v 1 execAbandon
  else if r ≤ 0x28 then s.takeWord off fs v (!s.cadOn && s.cadLimits r v)
  else s.setFlds fs v

/-- SPK_PCFG (R138, R139): the binding changes only while the port is disabled; ENABLE brings the port up or stops it. -/
def State.writePcfg (s : State) (p off : Nat) (fs : List Fld) (v : Nat) : State :=
  let en := v.testBit 0
  if p < 48 then
    let pf : Fin 48 := Fin.ofNat 48 p
    if s.portOn p then
      if s.changes [Rf.SPK_PCFG_WIDTH p, Rf.SPK_PCFG_RATE p, Rf.SPK_PCFG_BASE p] v then s.ignored off
      else
        let t := (s.setFlds fs v).setrf (Rf.SPK_PCFG_ENABLE p) 1
        if en then t else t.after (execPortDisable pf t)
    else
      let t := (s.setFlds fs v).setrf (Rf.SPK_PCFG_ENABLE p) 0
      if !en then t else if t.groupOk p then t.after (execPortEnable pf t) else s.ignored off
  else s

/-- SPK (R163, R182, R193). -/
def State.writeSpk (s : State) (off : Nat) (fs : List Fld) (v : Nat) : State :=
  let p := off % 0x100000 / 0x1000
  let r := off % 0x1000
  let pf : Fin 48 := Fin.ofNat 48 p
  if r = 0 then s.writePcfg p off fs v
  else if r = 0x08 then (s.onBit v 0 (execRelock pf)).onBit v 1 (execRestore pf)
  else if r = 0x138 then s.after (execSetband pf (BitVec.ofNat 64 v) s)
  else if 0x100 ≤ r ∧ r ≤ 0x128 then s.takeWord off fs v (!s.cadOn)
  else s.setFlds fs v

/-- PAK (R295, R306, and the MSI-X table by the rules of PCI Express: a vector unmasked while pending is sent). -/
def State.writePak (s : State) (off : Nat) (fs : List Fld) (v : Nat) : State :=
  let r := off % 0x100000
  if r = 0x18 then s.setFlds fs v
  else if r < 0x8000 then s.takeWord off fs v (!s.cadOn)
  else if r < 0x20000 then
    let k := (r - 0x8000) / 16
    let f := Rf.MSIX_PBA_PEND (k / 64)
    let t := s.setFlds fs v
    if 0x8000 ≤ r ∧ r < 0x10000 ∧ !t.bit (Rf.MSIX_HI_MASK k) ∧ (t.rf f).testBit (k % 64) then
      (t.setrf f (t.rf f - 2 ^ (k % 64))).signal k
    else t
  else if r < 0x30000 then
    let k := (r - 0x20000) / 0x40
    if r % 0x40 = 0x18 then s.ringConsumer k v
    else s.takeWord off fs v (!s.bit (Rf.PAK_RING_CFG_EN k))
  else s.takeWord off fs v (!s.cadOn)

/-- HUB (R334, R335, R338). -/
def State.writeHub (s : State) (off : Nat) (fs : List Fld) (v : Nat) : State :=
  let r := off % 0x100000
  if r = 0 then s.takeWord off fs v (!s.cadOn || !s.changes [Rf.HUB_CFG_RESV] v)
  else if r = 0x08 then s.after (execFrequencySwitch (BitVec.ofNat 2 v) s)
  else if r = 0x30 then s.onBit v 0 (execMigReq (BitVec.ofNat 6 (v / 2 ^ 8)))
  else if r = 0x10 ∨ r = 0x20 ∨ r = 0x50 then s.takeWord off fs v (!s.cadOn)
  else s.setFlds fs v

/-- DMA (R358, R364, R366). -/
def State.writeDma (s : State) (off : Nat) (fs : List Fld) (v : Nat) : State :=
  let r := off % 0x100000
  let u := r / 0x1000
  let ch := r % 0x1000 / 0x100
  let q := r % 0x100
  if u < 4 then
    if q = 0 then
      s.takeWord off fs v (s.dmaRests u ch || !s.changes [Rf.DMA_CFG_REQSRC u ch, Rf.DMA_CFG_FEED u ch, Rf.DMA_CFG_REQ_DIN u ch,
        Rf.DMA_CFG_VECTOR u ch, Rf.DMA_CFG_BURST_LOG u ch, Rf.DMA_CFG_FEED_CHAIN u ch] v)
    else if q = 0x08 ∨ q = 0x10 then s.takeWord off fs v (s.dmaRests u ch)
    else if q = 0x18 then
      let t := if v.testBit 0 then s.dmaStartOp u ch else s
      if v.testBit 1 then t.dmaStopOp u ch else t
    else if q = 0x20 then s.dmaAppendAsk (Fin.ofNat 4 u) (Fin.ofNat 16 ch) (BitVec.ofNat 64 v)
    else s.setFlds fs v
  else s

/-- A trigger generator's registers (R208, R213): its high-water target and its schedule begin anew. -/
def State.writeGen (s : State) (off : Nat) (fs : List Fld) (v : Nat) : State :=
  let g := (off % 0x100000 - 0x1000) / 0x40
  let q := off % 0x40
  if s.cadOn && s.bit (Rf.POS_TG_CFG_EN g) then s.ignored off
  else
    let t := s.setFlds fs v
    let t := if q ≤ 0x10 then t.setGenSt g { t.genSt g with high := none } else t
    if q = 0 ∨ q = 0x18 ∨ q = 0x20 then t.rearmTime g else t

/-- POS (R198, R213, R215, R229). -/
def State.writePos (s : State) (off : Nat) (fs : List Fld) (v : Nat) : State :=
  let r := off % 0x100000
  if r < 0x400 ∧ r % 0x80 = 0x30 then
    let c : Fin 8 := Fin.ofNat 8 (r / 0x80)
    ((s.onBit v 0 (execPresetLoad c)).onBit v 1 (execLoadIdx c)).onBit v 2 (execIdxDisarm c)
  else if 0x400 ≤ r ∧ r < 0x500 ∧ r % 0x40 = 0 then (s.setFlds fs v).pollConfig ((r - 0x400) / 0x40)
  else if 0x600 ≤ r ∧ r < 0x800 ∧ r % 0x40 = 0 then (s.setFlds fs v).repConfig ((r - 0x600) / 0x40)
  else if 0x1000 ≤ r ∧ r < 0x2000 ∧ r % 0x40 ≤ 0x20 then s.writeGen off fs v
  else if 0x2000 ≤ r ∧ r < 0x2800 ∧ r % 0x200 = 0 then (s.keepLevel ((r - 0x2000) / 0x200)).setFlds fs v
  else if 0x2000 ≤ r ∧ r < 0x2800 ∧ r % 0x200 = 0x40 then
    let u := (r - 0x2000) / 0x200
    (s.setFlds fs v).stationConfig u (s.bit (Rf.POS_MK_CFG_MK_EN u))
  else if 0x2000 ≤ r ∧ r < 0x3000 ∧ r % 0x200 = 0x20 then
    s.after (execPosCmpAppend (Fin.ofNat 4 ((r - 0x2000) / 0x200)) (BitVec.ofNat 64 v) s)
  else if 0x2000 ≤ r ∧ r < 0x3000 ∧ r % 0x200 = 0x28 then s.onBit v 0 (execFlush (Fin.ofNat 4 ((r - 0x2000) / 0x200)))
  else if 0x3000 ≤ r ∧ r < 0x3100 ∧ r % 0x40 = 0 then (s.setFlds fs v).emuRebase ((r - 0x3000) / 0x40)
  else s.setFlds fs v

/-- TIM (R371, R372, R374, R375, R381). -/
def State.writeTim (s : State) (off : Nat) (fs : List Fld) (v : Nat) : State :=
  let r := off % 0x100000
  if r = 0 then
    if s.cadOn then s.ignored off
    else
      let t := s.setFlds fs v
      if t.bit Rf.TIM_CFG_REF10 then t else (t.setrf Rf.TIM_STAT_LOCKED 0).setrf Rf.TIM_STAT_HOLDOVER 0
  else if r = 0x20 then s.timOfs false (BitVec.ofNat 64 v)
  else if r = 0x28 then s.timOfs true (BitVec.ofNat 64 v)
  else if r = 0x30 then s.timRate (BitVec.ofNat 64 v)
  else if r = 0x38 then s.timStep (BitVec.ofNat 64 v)
  else if r = 0x40 then s.takeWord off fs v (!s.cadOn)
  else if r = 0x48 then s.after (execTimSnap s)
  else if 0x100 ≤ r then
    if s.cadOn then s.ignored off
    else
      let st := (r - 0x100) / 0x10
      let t := s.setFlds fs v
      t.setStr st { t.str st with slot := 0 }
  else s

/-- BRK (R401): a locked field is not written. -/
def State.writeBrk (s : State) (off : Nat) (fs : List Fld) (v : Nat) : State :=
  if s.bit Rf.BRK_LOCK_LOCK then s.raise 0x0002 off
  else if !inRange fs v then s.ignored off
  else if off = (Rf.BRK_LOCK_LOCK).addr then s.onBit v 0 execBrkLock
  else s.setFlds fs v

/-- An argument whose layout in the mailbox buffer the spec does not give: a free value. -/
def State.argument (s : State) (n : Nat) (f : Nat → State → State) : State :=
  let r := s.freeBits n
  f r.1 r.2

/-- The argument bytes of the mailbox: LEN of them from the start of its buffer. -/
def State.mailboxBytes (s : State) (n : Nat) : List (BitVec 8) :=
  ((List.range (ceilDiv n 8)).flatMap (fun k => bytesOf (cellsOf 0 (s.rf (Rf.MGT_MBX_BUF_DATA k)) 8) 0 8)).take n

/-- Bytes as a number, least significant first. -/
def numOf : List (BitVec 8) → Nat
  | [] => 0
  | b :: l => b.toNat + 256 * numOf l

/-- MGT_MBX_CMD: the command of CODE (Table 14.6); one that is unknown answers RESULT 1. -/
def State.writeMbx (s : State) (v : Nat) : State :=
  let tag := BitVec.ofNat 16 (fldOf Rf.MGT_MBX_CMD_TAG v)
  let arg := s.mailboxBytes (fldOf Rf.MGT_MBX_CMD_LEN v)
  match fldOf Rf.MGT_MBX_CMD_CODE v with
  | 0x01 => s.after (execInfo tag s)
  | 0x03 => s.argument 44 (fun a t => t.after (execLogRead tag (BitVec.ofNat 32 a) (a / 2 ^ 32) t))
  | 0x04 => s.argument 36 (fun a t => t.after (execBboxRead tag (a % 16) (a / 16) t))
  | 0x10 => s.after (execUpdBegin tag (numOf arg) s)
  | 0x11 => s.after (execUpdData tag (numOf (arg.take 8)) (arg.drop 8) s)
  | 0x12 => s.after (execUpdVerify tag s)
  | 0x13 => s.after (execUpdActivate tag s)
  | 0x14 => s.after (execUpdConfirm tag s)
  | 0x15 => s.after (execMgtRestart tag s)
  | 0x20 => s.after (execBoardWrite tag arg s)
  | 0x30 => s.argument 43 (fun a t => t.after (execPtpSet tag
      { domain := BitVec.ofNat 8 a, transport := BitVec.ofNat 2 (a / 2 ^ 8), peer := a.testBit 10,
        logSync := toSigned 8 (a / 2 ^ 11), logDelay := toSigned 8 (a / 2 ^ 19), priority1 := BitVec.ofNat 8 (a / 2 ^ 27),
        priority2 := BitVec.ofNat 8 (a / 2 ^ 35) } t))
  | 0x31 => s.after (execPtpStatus tag s)
  | 0x40 => s.argument 64 (fun a t => t.argument 64 (fun b t => t.argument 64 (fun c t => t.argument 16 (fun d t => t.after (execNetSet tag
      { mac := BitVec.ofNat 48 a, ip4 := BitVec.ofNat 32 (a / 2 ^ 48 + d * 2 ^ 16), ip6 := BitVec.ofNat 128 (b + c * 2 ^ 64) } t)))))
  | _ => s.mailbox tag .unknown (fun t => (1, [], t))

/-- MGT (R392, R403): the watchdog's register takes writes of the management port alone. -/
def State.writeMgt (s : State) (port : Port) (off : Nat) (fs : List Fld) (v : Nat) : State :=
  let r := off % 0x100000
  if r = 0x10 then s.writeMbx v
  else if r = 0x60 then
    match port with
    | .host => s.ignored off
    | .mgt => let t := s.setFlds fs v
              t.after (execKick .mgt (BitVec.ofNat 8 (fldOf Rf.MGT_WDOG_KICK v)) t)
  else s.setFlds fs v

/-- TST (chapter 16). -/
def State.writeTst (s : State) (port : Port) (off v : Nat) : State :=
  let r := off % 0x100000
  if r = 0 then s.after (execTstUnlock port (BitVec.ofNat 64 v) s)
  else if 0x40 ≤ r ∧ r < 0x60 then s.tstCred ((r - 0x40) / 8) v
  else if r = 0x60 then s.tstHublat v
  else if r = 0x68 then (s.tstBp v).flow
  else if 0x80 ≤ r ∧ r < 0xA0 then s.tstLane ((r - 0x80) / 8) v
  else if r = 0xA0 then s.tstEcc v
  else if r = 0xA8 then s.tstWrite [Rf.TST_ECC_ADDR_ADDR] v true [] id
  else if r = 0xC0 then s.tstEnc v
  else if r = 0xC8 then s.tstLine v
  else if r = 0xD0 then s.tstTick v
  else if r = 0xD8 then s.tstTherm v
  else if r = 0xE0 then s.tstWrite [Rf.TST_SEED_SEED] v true [] id
  else s

/-- ENG: control, and the other registers of an engine. -/
def State.writeEng (s : State) (off : Nat) (fs : List Fld) (v : Nat) : State :=
  if off < 0x1800000 ∧ off % 0x1000 = 0 then s.engCtrl (Fin.ofNat 119 ((off - 0x1000000) / 0x1000)) v
  else s.setFlds fs v

/-- A word written to a defined register; one without a field that takes writes ignores it. -/
def State.regWord (s : State) (port : Port) (off : Nat) (fs : List Fld) (v : Nat) : State :=
  let b := off / 0x100000
  if fs.all (fun f => f.acc == .ro || f.acc == .rc) then s
  else if b = 13 then s.writeBrk off fs v
  else if b = 15 then s.writeTst port off v
  else if !inRange fs v then s.ignored off
  else match b with
    | 0 => s.writeGlb off v
    | 1 => s.writeCad off fs v
    | 2 => s.writeSpk off fs v
    | 4 => s.takeWord off fs v (!s.cadOn)
    | 5 => s.takeWord off fs v (!s.cadOn)
    | 6 => s.writePak off fs v
    | 7 => s.writeHub off fs v
    | 9 => s.takeWord off fs v (!s.cadOn)
    | 10 => s.writeDma off fs v
    | 11 => s.writePos off fs v
    | 12 => s.writeTim off fs v
    | 14 => s.writeMgt port off fs v
    | _ => s.writeEng off fs v

/-- A valid write. A 32-bit write of an MSI-X structure leaves the other half as it is. -/
def State.regWrite (s : State) (port : Port) (off size v : Nat) : State :=
  match imemAt off with
  | some (e, b, i) => s.imemWrite e b i (BitVec.ofNat 64 v)
  | none =>
    let at8 := off / 8 * 8
    let fs := (regAt at8).getD []
    let old := (s.wordRead fs).1
    let w := if size = 4 then
      (if off = at8 then old / 2 ^ 32 * 2 ^ 32 + v % 2 ^ 32 else old % 2 ^ 32 + v % 2 ^ 32 * 2 ^ 32) else v
    s.regWord port at8 fs w

/-! ### The commands -/

/-- An invalid access: it reads zeros, writes nothing, and raises event 0x0001 (R5). -/
def State.badAccess (s : State) (off : Nat) (read : Bool) : State :=
  (if read then { s with readData := 0 } else s).raise 0x0001 off

/-- REGISTER_WRITE. -/
def execRegisterWrite (port : Port) (off size : Nat) (v : BitVec 64) (s : State) : Host.Outcome State Fault Refusal :=
  .next (if port = .mgt ∧ mgtBarred off then s.mgtDropped off
    else if accessOk off size then s.regWrite port off size v.toNat else s.badAccess off false)

/-- INVALID_REGISTER_ACCESS: a read, or a write of a value. -/
def execInvalidRegisterAccess (port : Port) (off size : Nat) (wr : Option (BitVec 64)) (s : State) :
    Host.Outcome State Fault Refusal :=
  when' (!accessOk off size) s
    (if port = .mgt ∧ mgtBarred off ∧ wr.isSome then s.mgtDropped off else s.badAccess off wr.isNone)

/-- READ_CLEAR: a read. -/
def execReadClear (_ : Port) (off size : Nat) (s : State) : Host.Outcome State Fault Refusal :=
  .next (if accessOk off size then s.regRead off size else s.badAccess off true)

end Sys2Proof.Machine
end

