-- ==== Sys2Proof/Machine/ChainInstr.lean ====
section
/-! DEFINITION. The chain instructions and the synchronisation instructions (Table 2.10, R45, R46, R342, R345). -/

namespace Sys2Proof.Machine

def execPush (e : Eng) (g : BitVec 4) (q : BitVec 4) (a : BitVec 6) (s : State) : Host.Outcome State Fault Refusal :=
  issueOp s e (.push e g q a)

def execPushr (e : Eng) (g : BitVec 4) (q : BitVec 4) (a : BitVec 6) (s : State) : Host.Outcome State Fault Refusal :=
  issueOp s e (.pushr e g q a)

/-- The packets a hardware endpoint keeps waiting for a chain, oldest first, as far as its lane has room for them. -/
def State.flushBox (s : State) (c ep : Nat) : List (Nat × Nat × List Word) → Bool → State
  | [], _ => s
  | x :: xs, stuck =>
    if x.1 = c ∧ x.2.1 = ep ∧ !stuck then
      match s.sendPacket c ep x.2.2 with
      | some t => ({ t with outbox := t.outbox.erase x }).flushBox c ep xs false
      | none => s.flushBox c ep xs true
    else s.flushBox c ep xs stuck

/-- CHAIN_SPACE_FREED: the engine of a producer unit that waits for space tries again, and so does a hardware endpoint
with packets waiting. -/
def execChainSpaceFreed (c : Fin 256) (ep : Fin 128) (s : State) : Host.Outcome State Fault Refusal :=
  let e := s.rf (Rf.ENG_UNIT_ENGINE ep)
  let s := s.flushBox c ep s.outbox false
  .next (if ep.val < 112 ∧ (s.rf (Rf.ENG_STATUS_STATE e) = 4 ∨ s.rf (Rf.ENG_STATUS_STATE e) = 5) then s.resume e else s)

/-- A commit by an engine: a packet it makes is counted as one the engine committed in its band (R65). -/
def State.engineCommit (s : State) (e : Nat) (q : BitVec 4) : State :=
  let c := s.handle e q
  let u := s.unitOf e
  let makes := s.chainEn c && decide (((s.chain c).openOf u).n ≠ 0)
  let s := s.commit c u
  let x := s.eng e
  if makes then s.setEng e { x with sent := put (fun _ => 0) x.sent c (look (fun _ => 0) x.sent c + 1) } else s

def execCommit (e : Eng) (g : BitVec 4) (q : BitVec 4) (s : State) : Host.Outcome State Fault Refusal :=
  when' (s.runs e) s ((if (s.eng e).guard g then s.engineCommit e q else s).coreStep e 2 true id)

def execRewind (e : Eng) (g : BitVec 4) (q : BitVec 4) (s : State) : Host.Outcome State Fault Refusal :=
  when' (s.runs e) s
    ((if (s.eng e).guard g then s.rewind (s.handle e q) (s.unitOf e) else s).coreStep e 2 true id)

def execPop (e : Eng) (g : BitVec 4) (d : BitVec 6) (q : BitVec 4) (s : State) : Host.Outcome State Fault Refusal :=
  issueOp s e (.pop e g d q)

def execCred (e : Eng) (g : BitVec 4) (d : BitVec 6) (q : BitVec 4) (s : State) : Host.Outcome State Fault Refusal :=
  coreOp s e (fun x => x.guard g) 1 (fun x =>
    x.setS d (BitVec.ofNat 64 ((x.view (s.handle e q)).credit - (x.view (s.handle e q)).pushed)))

def execCnt (e : Eng) (g : BitVec 4) (d : BitVec 6) (q : BitVec 4) (s : State) : Host.Outcome State Fault Refusal :=
  coreOp s e (fun x => x.guard g) 1 (fun x => x.setS d (BitVec.ofNat 64 (x.view (s.handle e q)).snap))

def execFence (e : Eng) (mask : BitVec 3) (s : State) : Host.Outcome State Fault Refusal :=
  issueOp s e (.fence e mask)

/-- event: raises 0xD800 + IMM[10:0] with the engine and the unit (R69). -/
def execEvent (e : Eng) (g : BitVec 4) (code : BitVec 11) (s : State) : Host.Outcome State Fault Refusal :=
  when' (s.runs e) s
    ((if (s.eng e).guard g then s.raise (0xD800 + code.toNat) (e + 256 * s.unitOf e) else s).coreStep e 2 true id)

/-- wtick (R50): waits for every stream instruction and copy, then ends the band. -/
def execWtick (e : Eng) (s : State) : Host.Outcome State Fault Refusal := issueOp s e (.wtick e)

end Sys2Proof.Machine
end

