-- ==== Sys2Proof/Machine/Control.lean ====
section
/-! DEFINITION. Bounded control: nop, br, loop and loopr (Table 2.9, R43, R44). -/

namespace Sys2Proof.Machine

def execNop (e : Eng) (s : State) : Host.Outcome State Fault Refusal := coreOp s e (fun _ => true) 1 id

/-- br: continues at pc + off when the guard reads 1; an offset of 0 is an undefined word (R41). -/
def execBr (e : Eng) (g : BitVec 4) (off : BitVec 14) (s : State) : Host.Outcome State Fault Refusal :=
  if (Instr.br e g off).wf then
    if s.runs e then
      let x := s.eng e
      let x := { x with run := x.run + 1 }
      .next (s.setEng e (x.goto (if x.guard g then x.pc + off.toNat else x.pc + 1)))
    else .next s
  else .refused (.undefinedWord "BR")

/-- Enter a loop whose body of `len` instructions follows: a count of 0 skips the body (R43), and a body of no
instruction, which the walker admits in no program, has nothing to run. -/
def Engine.enterLoop (x : Engine) (n len : Nat) : Engine :=
  let x := { x with run := x.run + 2 }
  if n = 0 ∨ len = 0 then x.goto (x.pc + 1 + len)
  else { x with loops := ⟨x.pc + 1, len, n, 0⟩ :: x.loops, pc := x.pc + 1 }

/-- loop (R43). -/
def execLoop (e : Eng) (n : BitVec 20) (len : BitVec 14) (s : State) : Host.Outcome State Fault Refusal :=
  .next (if s.runs e then s.setEng e ((s.eng e).enterLoop n.toNat len.toNat) else s)

/-- loopr: min(A, m) times with A unsigned; pD tells that A was above m, which ENG_CLAMP counts. -/
def execLoopr (e : Eng) (pd : BitVec 3) (a : BitVec 6) (m : BitVec 20) (len : BitVec 14) (s : State) :
    Host.Outcome State Fault Refusal :=
  if s.runs e then
    let x := s.eng e
    let n := (x.s a).toNat
    let cut := decide (m.toNat < n)
    let s := if cut then s.bump (Rf.ENG_CLAMP_CLAMP_CNT e) else s
    .next (s.setEng e ((x.setP pd cut).enterLoop (min n m.toNat) len.toNat))
  else .next s

end Sys2Proof.Machine
end

