-- ==== Sys2Proof/Machine/Crops.lean ====
section
/-! DEFINITION. The crop unit: descriptors, where each part of a crop is cut from, and crop records (10.4, R291). -/

namespace Sys2Proof.Machine

/-- The crop unit's endpoint. -/
def cropEp : Nat := 116

/-- A crop descriptor (Table 10.3). -/
structure CropDesc where
  ref   : Nat
  port  : Nat
  plane : Nat
  raw   : Bool
  row0  : Nat
  w     : Nat
  h     : Nat
  col0  : Nat
  clean : Bool
  deriving DecidableEq, Repr

def cropDesc (ws : List Word) : CropDesc :=
  let w (i : Nat) : Nat := (ws.getD i 0).toNat
  { ref := bitsOf (w 0) 0 32, port := bitsOf (w 0) 32 6, plane := bitsOf (w 0) 38 2, raw := (w 0).testBit 40,
    row0 := w 1, w := bitsOf (w 2) 0 12 + 1, h := bitsOf (w 2) 12 12 + 1, col0 := bitsOf (w 2) 24 16,
    clean := decide (bitsOf (w 0) 41 23 = 0) && decide (bitsOf (w 2) 40 24 = 0) && decide (w 3 = 0) }

/-- What a crop record says of a part: its status, its source, the leading rows missing, its first row, its rows, its
payload and the sample width. -/
structure CropPart where
  status : Nat
  raw    : Bool
  miss   : Nat
  first  : Nat
  rows   : Nat
  bits   : Nat
  pay    : List Word
  deriving DecidableEq, Repr

/-- A part as an item: the crop record of Table 10.6 before the payload. -/
def State.cropItem (s : State) (c : CropDesc) (p : CropPart) : OutItem :=
  let w (v : Nat) : Word := BitVec.ofNat 64 v
  let blk := p.pay.length / 8
  let ws := [w (0x30 + p.status * 2 ^ 8 + (if p.raw then 2 ^ 11 else 0) + c.plane * 2 ^ 12 + c.port * 2 ^ 16 + c.ref * 2 ^ 32),
      w c.row0, w (c.col0 + (c.w - 1) * 2 ^ 16 + (c.h - 1) * 2 ^ 28 + p.miss % 4096 * 2 ^ 40),
      w (p.first + p.rows * 2 ^ 16 + blk * 2 ^ 32 + p.bits * 2 ^ 48),
      w (if p.pay = [] then 0 else lineCrc p.pay (8 * p.pay.length)), 0, 0, 0] ++ p.pay
  { typ := 0x30, words := ws, band := some (c.row0 / max 1 s.height) }

/-- A number as `n` words, least significant first. -/
def wordsOf (v : Nat) : Nat → List Word
  | 0 => []
  | n + 1 => BitVec.ofNat 64 v :: wordsOf (v / 2 ^ 64) n

/-- One row of a part from the corrected ring: its tag and its U16 samples. -/
def State.corCropRow (s : State) (c : CropDesc) (i : Nat) : State × List Word :=
  let n := i / s.height
  let r := i % s.height
  let t := s.hubRead cropEp (s.corTagAt c.port n r) 32
  let a := s.corAt c.port n r c.plane + 2 * c.col0
  let d := t.1.hubRead cropEp a (2 * c.w)
  (d.1, wordsOf (readLE t.2 (s.corTagAt c.port n r) 32) 4 ++ wordsOf (readLE d.2 a (2 * c.w)) (ceilDiv (16 * c.w) 64))

/-- One row from the raw ring: its tag and its samples packed as received, from the first exposure's member. -/
def State.rawCropRow (s : State) (c : CropDesc) (i : Nat) : State × List Word :=
  let b := s.sampleBits c.port
  let t := s.hubRead cropEp (s.rawTagAt c.port i) 32
  let a := s.rawAt c.port i c.plane
  let n := ceilDiv ((c.col0 + c.w) * b) 8
  let d := t.1.hubRead cropEp a n
  (d.1, wordsOf (readLE t.2 (s.rawTagAt c.port i) 32) 4 ++
    wordsOf (bitsOf (readLE d.2 a n) (c.col0 * b) (c.w * b)) (ceilDiv (c.w * b) 64))

/-- The rows of a part, one behind the other, padded to 64 bytes. -/
def State.cropRows (s : State) (c : CropDesc) (raw : Bool) (rows : List Nat) : State × List Word :=
  let r := rows.foldl (fun (q : State × List Word) i =>
    let x := if raw then q.1.rawCropRow c i else q.1.corCropRow c i
    (x.1, q.2 ++ x.2)) (s, [])
  (r.1, r.2 ++ List.replicate (roundUp r.2.length 8 - r.2.length) 0)

/-- The rows of a part of a source. -/
def State.partRows (s : State) (c : CropDesc) (raw : Bool) : Nat :=
  let bits := if raw then s.sampleBits c.port else 16
  min c.h (8192 / (32 + ceilDiv (c.w * bits) 64 * 8))

/-- The corrected slot of band `b` is not released yet: T(b + 3) has not come. -/
def State.corHeld (s : State) (b : Nat) : Bool := decide (s.rf Rf.CAD_BAND_BAND ≤ b + 3)

/-- The parts of a crop from row `at'` of it on, with the state after their reads. -/
def State.cropParts (s : State) (c : CropDesc) (at' : Nat) : Nat → State × List CropPart
  | 0 => (s, [])
  | k + 1 =>
    if c.h ≤ at' then (s, [])
    else
      let raw := c.raw || !s.corHeld ((c.row0 + at') / max 1 s.height)
      let n := max 1 (min (s.partRows c raw) (c.h - at'))
      let rows := (List.range n).map (c.row0 + at' + ·)
      let kept := if raw then rows.filter (fun i => !s.overwritten c.port i) else rows
      let r := s.cropRows c raw kept
      let miss := n - kept.length
      let rest := r.1.cropParts c (at' + n) k
      (rest.1, { status := if miss = 0 then 0 else 1, raw := raw, miss := miss, first := at', rows := n,
                 bits := if raw then s.sampleBits c.port else 16, pay := r.2 } :: rest.2)

/-- A crop record without payload. -/
def noCrop (status miss : Nat) (raw : Bool) (bits : Nat) : CropPart := ⟨status, raw, miss, 0, 0, bits, []⟩

/-- Items into the crop staging area. -/
def State.stage (s : State) (xs : List OutItem) : State :=
  xs.foldl (fun s x =>
    let k := s.out.cropTo
    let s := s.putArea 2 cropEp s.cropArea k x.words
    { s with out := { s.out with crops := s.out.crops ++ [⟨x.typ, x.strip, x.band, k, x.words.length⟩],
                                 cropTo := (k + x.words.length) % s.cropArea.words } }) s

/-- The bytes that staged items take. -/
def stagedBytes (l : List Staged) : Nat := (l.map (fun x => 8 * x.n)).sum

/-- A crop DROPPED or GONE: counted, with event 0x6006 and the descriptor's port, at most once a millisecond. -/
def State.cropLost (s : State) (port : Nat) : State :=
  let s := s.bump Rf.PAK_CNT_CROPDROP
  if s.due (stampKey 0x6006 0) (countsOfUs 1000) then (s.stamp (stampKey 0x6006 0)).raise 0x6006 port else s

/-- The crop unit serves a descriptor (R287, R288). -/
def State.crop (s : State) (c : CropDesc) : State :=
  let emit (s : State) (p : CropPart) : State := s.stage [s.cropItem c p]
  if !c.clean || decide (4080 < c.w) || decide (48 ≤ c.port) || !s.portOn c.port then emit s (noCrop 4 0 false 0)
  else if decide (s.rf Rf.PAK_CROP_MAXBAND ≤ s.out.cropN) || decide (s.rf Rf.CAD_GEAR_CUR = 3) then
    (emit s (noCrop 3 0 false 0)).cropLost c.port
  else
    let t := { s with out := { s.out with cropN := s.out.cropN + 1 } }
    let r := t.cropParts c 0 c.h
    let xs := r.2.map (s.cropItem c)
    if r.2.all (fun p => p.miss == p.rows) then (emit t (noCrop 2 c.h true (s.sampleBits c.port))).cropLost c.port
    else if s.rf Rf.PAK_CSTG_SIZE * 2 ^ 20 < stagedBytes s.out.crops + itemsBytes xs then (emit t (noCrop 3 0 false 0)).cropLost c.port
    else r.1.stage xs

/-- CROP_DESCRIPTOR: the crop unit takes the next descriptor of chain CROP. While the hub does not serve, no request of it
starts, and the descriptor stays on its chain (R322). -/
def execCropDescriptor (s : State) : Host.Outcome State Fault Refusal :=
  when' s.hubOpen s (match s.popPacket (s.rf Rf.PAK_CHAINS_CROP) cropEp with
    | some (_, ws, t) => t.crop (cropDesc ws)
    | none => s.popNone (s.rf Rf.PAK_CHAINS_CROP) cropEp)

end Sys2Proof.Machine
end

