-- ==== Sys2Proof/Machine/Scalar.lean ====
section
/-! DEFINITION. The scalar instructions: register and immediate arithmetic, comparisons, predicate logic and the read
of a special register (R42, Tables 2.5 to 2.8). -/

namespace Sys2Proof.Machine

/-- A register-form operation of one cycle on sD (Table 2.5). -/
def alu (f : Word → Word → Word) (e : Eng) (g : BitVec 4) (d a b : BitVec 6) (s : State) :
    Host.Outcome State Fault Refusal :=
  coreOp s e (fun x => x.guard g) 1 (fun x => x.setS d (f (x.s a) (x.s b)))

/-- An immediate-form operation of one cycle on sD (Table 2.6). -/
def aluI (f : Word → Word) (e : Eng) (d a : BitVec 6) (s : State) : Host.Outcome State Fault Refusal :=
  coreOp s e (fun _ => true) 1 (fun x => x.setS d (f (x.s a)))

/-- A register comparison of one cycle on pD, unchanged when the guard reads 0 (Table 2.7). -/
def cmpR (f : Word → Word → Bool) (e : Eng) (g : BitVec 4) (pd : BitVec 3) (a b : BitVec 6) (s : State) :
    Host.Outcome State Fault Refusal :=
  coreOp s e (fun x => x.guard g) 1 (fun x => x.setP pd (f (x.s a) (x.s b)))

/-- A comparison with the sign-extended immediate. -/
def cmpI (f : Word → Word → Bool) (e : Eng) (pd : BitVec 3) (a : BitVec 6) (imm : BitVec 34) (s : State) :
    Host.Outcome State Fault Refusal :=
  coreOp s e (fun _ => true) 1 (fun x => x.setP pd (f (x.s a) (immS imm)))

/-- Predicate logic of one cycle on pD. -/
def predOp (f : Bool → Bool → Bool) (e : Eng) (pd pa pb : BitVec 3) (s : State) : Host.Outcome State Fault Refusal :=
  coreOp s e (fun _ => true) 1 (fun x => x.setP pd (f (x.p pa) (x.p pb)))

/-- Shifts by the low six bits of B. -/
def shAmt (b : Word) : Nat := b.toNat % 64

def execAdd (e : Eng) (g : BitVec 4) (d a b : BitVec 6) (s : State) : Host.Outcome State Fault Refusal :=
  alu (fun a b => a + b) e g d a b s

def execSub (e : Eng) (g : BitVec 4) (d a b : BitVec 6) (s : State) : Host.Outcome State Fault Refusal :=
  alu (fun a b => a - b) e g d a b s

def execAnd (e : Eng) (g : BitVec 4) (d a b : BitVec 6) (s : State) : Host.Outcome State Fault Refusal :=
  alu (fun a b => a &&& b) e g d a b s

def execOr (e : Eng) (g : BitVec 4) (d a b : BitVec 6) (s : State) : Host.Outcome State Fault Refusal :=
  alu (fun a b => a ||| b) e g d a b s

def execXor (e : Eng) (g : BitVec 4) (d a b : BitVec 6) (s : State) : Host.Outcome State Fault Refusal :=
  alu (fun a b => a ^^^ b) e g d a b s

def execShl (e : Eng) (g : BitVec 4) (d a b : BitVec 6) (s : State) : Host.Outcome State Fault Refusal :=
  alu (fun a b => a <<< shAmt b) e g d a b s

def execShr (e : Eng) (g : BitVec 4) (d a b : BitVec 6) (s : State) : Host.Outcome State Fault Refusal :=
  alu (fun a b => a >>> shAmt b) e g d a b s

def execSar (e : Eng) (g : BitVec 4) (d a b : BitVec 6) (s : State) : Host.Outcome State Fault Refusal :=
  alu (fun a b => a.sshiftRight (shAmt b)) e g d a b s

def execMul (e : Eng) (g : BitVec 4) (d a b : BitVec 6) (s : State) : Host.Outcome State Fault Refusal :=
  alu (fun a b => a * b) e g d a b s

def execMulh (e : Eng) (g : BitVec 4) (d a b : BitVec 6) (s : State) : Host.Outcome State Fault Refusal :=
  alu (fun a b => mulHigh a.toInt b.toInt) e g d a b s

def execMulhu (e : Eng) (g : BitVec 4) (d a b : BitVec 6) (s : State) : Host.Outcome State Fault Refusal :=
  alu (fun a b => mulHigh a.toNat b.toNat) e g d a b s

def execMin (e : Eng) (g : BitVec 4) (d a b : BitVec 6) (s : State) : Host.Outcome State Fault Refusal :=
  alu (fun a b => minS a b) e g d a b s

def execMax (e : Eng) (g : BitVec 4) (d a b : BitVec 6) (s : State) : Host.Outcome State Fault Refusal :=
  alu (fun a b => maxS a b) e g d a b s

def execMinu (e : Eng) (g : BitVec 4) (d a b : BitVec 6) (s : State) : Host.Outcome State Fault Refusal :=
  alu (fun a b => minU a b) e g d a b s

def execMaxu (e : Eng) (g : BitVec 4) (d a b : BitVec 6) (s : State) : Host.Outcome State Fault Refusal :=
  alu (fun a b => maxU a b) e g d a b s

def execAdds (e : Eng) (g : BitVec 4) (d a b : BitVec 6) (s : State) : Host.Outcome State Fault Refusal :=
  alu (fun a b => BitVec.ofInt 64 (satS64 (a.toInt + b.toInt))) e g d a b s

def execSubs (e : Eng) (g : BitVec 4) (d a b : BitVec 6) (s : State) : Host.Outcome State Fault Refusal :=
  alu (fun a b => BitVec.ofInt 64 (satS64 (a.toInt - b.toInt))) e g d a b s

def execClz (e : Eng) (g : BitVec 4) (d a : BitVec 6) (s : State) : Host.Outcome State Fault Refusal :=
  coreOp s e (fun x => x.guard g) 1 (fun x => x.setS d ((fun a : Word => BitVec.ofNat 64 (clzNat a.toNat 64)) (x.s a)))

def execPopc (e : Eng) (g : BitVec 4) (d a : BitVec 6) (s : State) : Host.Outcome State Fault Refusal :=
  coreOp s e (fun x => x.guard g) 1 (fun x => x.setS d ((fun a : Word => BitVec.ofNat 64 (popcNat a.toNat 64)) (x.s a)))

def execAddi (e : Eng) (d a : BitVec 6) (imm : BitVec 34) (s : State) : Host.Outcome State Fault Refusal :=
  aluI (fun a => a + immS imm) e d a s

def execAndi (e : Eng) (d a : BitVec 6) (imm : BitVec 34) (s : State) : Host.Outcome State Fault Refusal :=
  aluI (fun a => a &&& immS imm) e d a s

def execOri (e : Eng) (d a : BitVec 6) (imm : BitVec 34) (s : State) : Host.Outcome State Fault Refusal :=
  aluI (fun a => a ||| immS imm) e d a s

def execXori (e : Eng) (d a : BitVec 6) (imm : BitVec 34) (s : State) : Host.Outcome State Fault Refusal :=
  aluI (fun a => a ^^^ immS imm) e d a s

def execMuli (e : Eng) (d a : BitVec 6) (imm : BitVec 34) (s : State) : Host.Outcome State Fault Refusal :=
  aluI (fun a => a * immS imm) e d a s

def execMini (e : Eng) (d a : BitVec 6) (imm : BitVec 34) (s : State) : Host.Outcome State Fault Refusal :=
  aluI (fun a => minS a (immS imm)) e d a s

def execMaxi (e : Eng) (d a : BitVec 6) (imm : BitVec 34) (s : State) : Host.Outcome State Fault Refusal :=
  aluI (fun a => maxS a (immS imm)) e d a s

def execClamp (e : Eng) (d a : BitVec 6) (imm : BitVec 34) (s : State) : Host.Outcome State Fault Refusal :=
  aluI (fun a => BitVec.ofInt 64 (clampInt 0 (immU imm).toNat a.toInt)) e d a s

def execShli (e : Eng) (d a n : BitVec 6) (s : State) : Host.Outcome State Fault Refusal :=
  aluI (fun a => a <<< n.toNat) e d a s

def execShri (e : Eng) (d a n : BitVec 6) (s : State) : Host.Outcome State Fault Refusal :=
  aluI (fun a => a >>> n.toNat) e d a s

def execSari (e : Eng) (d a n : BitVec 6) (s : State) : Host.Outcome State Fault Refusal :=
  aluI (fun a => a.sshiftRight n.toNat) e d a s

def execMovi (e : Eng) (d : BitVec 6) (imm : BitVec 34) (s : State) : Host.Outcome State Fault Refusal :=
  coreOp s e (fun _ => true) 1 (fun x => x.setS d (immS imm))

def execSethi (e : Eng) (d a : BitVec 6) (h : BitVec 30) (s : State) : Host.Outcome State Fault Refusal :=
  aluI (fun a => (a &&& maskW 34) ||| (h.zeroExtend 64 <<< 34)) e d a s

/-- ext; a len of 0 or above 64 is an undefined word (R41). -/
def execExt (e : Eng) (d a : BitVec 6) (pos : BitVec 6) (len : BitVec 7) (s : State) :
    Host.Outcome State Fault Refusal :=
  if (Instr.ext e d a pos len).wf then aluI (fun a => (a >>> pos.toNat) &&& maskW len.toNat) e d a s
  else .refused (.undefinedWord "EXT")

/-- ins; a len of 0 or above 64, or pos + len above 64, is an undefined word (R41). -/
def execIns (e : Eng) (d a : BitVec 6) (pos : BitVec 6) (len : BitVec 7) (s : State) :
    Host.Outcome State Fault Refusal :=
  if (Instr.ins e d a pos len).wf then
    coreOp s e (fun _ => true) 1 (fun x => x.setS d
      ((x.s d &&& ~~~(maskW len.toNat <<< pos.toNat)) ||| ((x.s a &&& maskW len.toNat) <<< pos.toNat)))
  else .refused (.undefinedWord "INS")

def execCmpEq (e : Eng) (g : BitVec 4) (pd : BitVec 3) (a b : BitVec 6) (s : State) :
    Host.Outcome State Fault Refusal :=
  cmpR (fun a b => a == b) e g pd a b s

def execCmpiEq (e : Eng) (pd : BitVec 3) (a : BitVec 6) (imm : BitVec 34) (s : State) :
    Host.Outcome State Fault Refusal :=
  cmpI (fun a b => a == b) e pd a imm s

def execCmpNe (e : Eng) (g : BitVec 4) (pd : BitVec 3) (a b : BitVec 6) (s : State) :
    Host.Outcome State Fault Refusal :=
  cmpR (fun a b => a != b) e g pd a b s

def execCmpiNe (e : Eng) (pd : BitVec 3) (a : BitVec 6) (imm : BitVec 34) (s : State) :
    Host.Outcome State Fault Refusal :=
  cmpI (fun a b => a != b) e pd a imm s

def execCmpLt (e : Eng) (g : BitVec 4) (pd : BitVec 3) (a b : BitVec 6) (s : State) :
    Host.Outcome State Fault Refusal :=
  cmpR (fun a b => cmpLt a b) e g pd a b s

def execCmpiLt (e : Eng) (pd : BitVec 3) (a : BitVec 6) (imm : BitVec 34) (s : State) :
    Host.Outcome State Fault Refusal :=
  cmpI (fun a b => cmpLt a b) e pd a imm s

def execCmpLtu (e : Eng) (g : BitVec 4) (pd : BitVec 3) (a b : BitVec 6) (s : State) :
    Host.Outcome State Fault Refusal :=
  cmpR (fun a b => cmpLtu a b) e g pd a b s

def execCmpiLtu (e : Eng) (pd : BitVec 3) (a : BitVec 6) (imm : BitVec 34) (s : State) :
    Host.Outcome State Fault Refusal :=
  cmpI (fun a b => cmpLtu a b) e pd a imm s

def execCmpLe (e : Eng) (g : BitVec 4) (pd : BitVec 3) (a b : BitVec 6) (s : State) :
    Host.Outcome State Fault Refusal :=
  cmpR (fun a b => cmpLe a b) e g pd a b s

def execCmpiLe (e : Eng) (pd : BitVec 3) (a : BitVec 6) (imm : BitVec 34) (s : State) :
    Host.Outcome State Fault Refusal :=
  cmpI (fun a b => cmpLe a b) e pd a imm s

def execCmpLeu (e : Eng) (g : BitVec 4) (pd : BitVec 3) (a b : BitVec 6) (s : State) :
    Host.Outcome State Fault Refusal :=
  cmpR (fun a b => cmpLeu a b) e g pd a b s

def execCmpiLeu (e : Eng) (pd : BitVec 3) (a : BitVec 6) (imm : BitVec 34) (s : State) :
    Host.Outcome State Fault Refusal :=
  cmpI (fun a b => cmpLeu a b) e pd a imm s

def execPand (e : Eng) (pd pa pb : BitVec 3) (s : State) : Host.Outcome State Fault Refusal :=
  predOp (fun a b => a && b) e pd pa pb s

def execPor (e : Eng) (pd pa pb : BitVec 3) (s : State) : Host.Outcome State Fault Refusal :=
  predOp (fun a b => a || b) e pd pa pb s

def execPxor (e : Eng) (pd pa pb : BitVec 3) (s : State) : Host.Outcome State Fault Refusal :=
  predOp (fun a b => a ^^ b) e pd pa pb s

def execPandn (e : Eng) (pd pa pb : BitVec 3) (s : State) : Host.Outcome State Fault Refusal :=
  predOp (fun a b => a && !b) e pd pa pb s

def execPset (e : Eng) (pd : BitVec 3) (b : Bool) (s : State) : Host.Outcome State Fault Refusal :=
  coreOp s e (fun _ => true) 1 (fun x => x.setP pd b)

/-- rd; a selector above 0x0A is an undefined word (R41). -/
def execRd (e : Eng) (d : BitVec 6) (sel : BitVec 8) (s : State) : Host.Outcome State Fault Refusal :=
  if (Instr.rd e d sel).wf then coreOp s e (fun _ => true) 1 (fun x => x.setS d (s.special e sel.toNat))
  else .refused (.undefinedWord "RD")

end Sys2Proof.Machine
end

