-- ==== Sys2Proof/Machine/StreamCore.lean ====
section
/-! DEFINITION. The core and fixed-cost instructions of chapter 3: descriptors, accumulators, tables, histograms, the
feature merge, and the completion of a queued instruction (Table 3.5, R70 to R78). -/

namespace Sys2Proof.Machine

/-- A write of a descriptor by the core. -/
def descOp (s : State) (e : Eng) (g : BitVec 4) (dd : BitVec 4) (f : Engine → Desc → Desc) :
    Host.Outcome State Fault Refusal :=
  coreOp s e (fun x => x.guard g) 1 (fun x => x.setD dd (f x (x.d dd)))

def execDlo (e : Eng) (g : BitVec 4) (dd : BitVec 4) (a : BitVec 6) (s : State) : Host.Outcome State Fault Refusal :=
  descOp s e g dd (fun x d => { d with w0 := x.s a })

def execDhi (e : Eng) (g : BitVec 4) (dd : BitVec 4) (a : BitVec 6) (s : State) : Host.Outcome State Fault Refusal :=
  descOp s e g dd (fun x d => { d with w1 := x.s a })

/-- dfmt: bits [63:41] of w0. -/
def execDfmt (e : Eng) (g : BitVec 4) (dd : BitVec 4) (a : BitVec 6) (s : State) : Host.Outcome State Fault Refusal :=
  descOp s e g dd (fun x d => { d with w0 := (x.s a &&& ~~~maskW 41) ||| (d.w0 &&& maskW 41) })

/-- dadv: ADDR moves by r strides, r signed, and wraps in 40 bits. -/
def execDadv (e : Eng) (g : BitVec 4) (dd : BitVec 4) (r : BitVec 16) (s : State) : Host.Outcome State Fault Refusal :=
  descOp s e g dd (fun _ d => d.advance r.toInt)

def execDget (e : Eng) (g : BitVec 4) (d : BitVec 6) (da : BitVec 4) (w : Bool) (s : State) :
    Host.Outcome State Fault Refusal :=
  coreOp s e (fun x => x.guard g) 1 (fun x => x.setS d (if w then (x.d da).w1 else (x.d da).w0))

def execAclr (e : Eng) (g : BitVec 4) (ad : BitVec 3) (s : State) : Host.Outcome State Fault Refusal :=
  issueOp s e (.aclr e g ad)

/-- ard; a field number of 5 to 7 is an undefined word (R82). -/
def execArd (e : Eng) (g : BitVec 4) (d : BitVec 6) (aa f : BitVec 3) (s : State) : Host.Outcome State Fault Refusal :=
  if (Instr.ard e g d aa f).wf then issueOp s e (.ard e g d aa f) else .refused (.undefinedWord "ARD")

def execTld (e : Eng) (g : BitVec 4) (t : BitVec 2) (a : BitVec 6) (s : State) : Host.Outcome State Fault Refusal :=
  issueOp s e (.tld e g t a)

def execHclr (e : Eng) (g : BitVec 4) (s : State) : Host.Outcome State Fault Refusal :=
  issueOp s e (.hclr e g)

def execHput (e : Eng) (g : BitVec 4) (a : BitVec 6) (s : State) : Host.Outcome State Fault Refusal :=
  issueOp s e (.hput e g a)

def execFmrg (e : Eng) (g : BitVec 4) (ncap : BitVec 12) (a b : BitVec 6) (s : State) : Host.Outcome State Fault Refusal :=
  issueOp s e (.fmrg e g ncap a b)

/-- STREAM_COMPLETE: the oldest queued instruction finishes; a stalled core tries again. -/
def execStreamComplete (e : Eng) (s : State) : Host.Outcome State Fault Refusal := .next ((s.finishTile e).resume e)

end Sys2Proof.Machine
end

