-- ==== Sys2Proof/Machine/StreamTile.lean ====
section
/-! DEFINITION. The tile instructions (Table 3.6) and cgat: each enters the tile issue queue; `tileEffect` gives what it
does. A field value that its rule calls reserved makes an undefined word (R82). -/

namespace Sys2Proof.Machine

def execCgat (e : Eng) (x : StreamImm) (d a : BitVec 4) (rec : BitVec 6) (s : State) :
    Host.Outcome State Fault Refusal :=
  issueOp s e (.cgat e x d a rec)

def execVadd (e : Eng) (x : StreamImm) (d a b : BitVec 4) (s : State) : Host.Outcome State Fault Refusal :=
  issueOp s e (.vadd e x d a b)

def execVsub (e : Eng) (x : StreamImm) (d a b : BitVec 4) (s : State) : Host.Outcome State Fault Refusal :=
  issueOp s e (.vsub e x d a b)

def execVmul (e : Eng) (x : StreamImm) (d a b : BitVec 4) (sh : BitVec 5) (s : State) :
    Host.Outcome State Fault Refusal :=
  issueOp s e (.vmul e x d a b sh)

def execVmin (e : Eng) (x : StreamImm) (d a b : BitVec 4) (s : State) : Host.Outcome State Fault Refusal :=
  issueOp s e (.vmin e x d a b)

def execVmax (e : Eng) (x : StreamImm) (d a b : BitVec 4) (s : State) : Host.Outcome State Fault Refusal :=
  issueOp s e (.vmax e x d a b)

def execVabsd (e : Eng) (x : StreamImm) (d a b : BitVec 4) (s : State) : Host.Outcome State Fault Refusal :=
  issueOp s e (.vabsd e x d a b)

def execVaddk (e : Eng) (x : StreamImm) (d a : BitVec 4) (k : BitVec 6) (s : State) :
    Host.Outcome State Fault Refusal :=
  issueOp s e (.vaddk e x d a k)

def execVmulk (e : Eng) (x : StreamImm) (d a : BitVec 4) (k : BitVec 6) (sh : BitVec 5) (s : State) :
    Host.Outcome State Fault Refusal :=
  issueOp s e (.vmulk e x d a k sh)

def execVclamp (e : Eng) (x : StreamImm) (d a : BitVec 4) (k : BitVec 6) (s : State) :
    Host.Outcome State Fault Refusal :=
  issueOp s e (.vclamp e x d a k)

def execVcvt (e : Eng) (x : StreamImm) (d a : BitVec 4) (sh : BitVec 6) (s : State) :
    Host.Outcome State Fault Refusal :=
  issueOp s e (.vcvt e x d a sh)

def execVsel (e : Eng) (x : StreamImm) (d a b m : BitVec 4) (s : State) : Host.Outcome State Fault Refusal :=
  issueOp s e (.vsel e x d a b m)

def execVcmp (e : Eng) (x : StreamImm) (ad : BitVec 3) (a b : BitVec 4) (s : State) :
    Host.Outcome State Fault Refusal :=
  issueOp s e (.vcmp e x ad a b)

def execMapc (e : Eng) (x : StreamImm) (d a : BitVec 4) (rec : BitVec 6) (steps : BitVec 3) (b : BitVec 4) (ben : Bool) (s : State) :
    Host.Outcome State Fault Refusal :=
  issueOp s e (.mapc e x d a rec steps b ben)

def execLut (e : Eng) (x : StreamImm) (d a : BitVec 4) (t : BitVec 2) (sh : BitVec 4) (s : State) :
    Host.Outcome State Fault Refusal :=
  if (Instr.lut e x d a t sh).wf then issueOp s e (.lut e x d a t sh) else .refused (.undefinedWord "LUT")

def execLuti (e : Eng) (x : StreamImm) (d a : BitVec 4) (t : BitVec 2) (sh : BitVec 4) (s : State) :
    Host.Outcome State Fault Refusal :=
  if (Instr.luti e x d a t sh).wf then issueOp s e (.luti e x d a t sh) else .refused (.undefinedWord "LUTI")

def execK1d (e : Eng) (x : StreamImm) (d a : BitVec 4) (rec : BitVec 6) (taps : BitVec 2) (s : State) :
    Host.Outcome State Fault Refusal :=
  issueOp s e (.k1d e x d a rec taps)

def execK1v (e : Eng) (x : StreamImm) (d a : BitVec 4) (rec : BitVec 6) (taps : BitVec 2) (s : State) :
    Host.Outcome State Fault Refusal :=
  if (Instr.k1v e x d a rec taps).wf then issueOp s e (.k1v e x d a rec taps) else .refused (.undefinedWord "K1V")

def execK2d (e : Eng) (x : StreamImm) (d a : BitVec 4) (rec : BitVec 6) (big : Bool) (s : State) :
    Host.Outcome State Fault Refusal :=
  issueOp s e (.k2d e x d a rec big)

def execRs (e : Eng) (x : StreamImm) (d a : BitVec 4) (rec : BitVec 6) (big : Bool) (s : State) :
    Host.Outcome State Fault Refusal :=
  issueOp s e (.rs e x d a rec big)

def execFlat (e : Eng) (x : StreamImm) (d a b : BitVec 4) (gs : BitVec 4) (s : State) :
    Host.Outcome State Fault Refusal :=
  issueOp s e (.flat e x d a b gs)

def execDpr (e : Eng) (x : StreamImm) (d a b : BitVec 4) (rad : BitVec 2) (s : State) :
    Host.Outcome State Fault Refusal :=
  issueOp s e (.dpr e x d a b rad)

def execXmrg (e : Eng) (x : StreamImm) (d a : BitVec 4) (k : BitVec 6) (sd bw os : BitVec 4) (s : State) :
    Host.Outcome State Fault Refusal :=
  if (Instr.xmrg e x d a k sd bw os).wf then issueOp s e (.xmrg e x d a k sd bw os) else .refused (.undefinedWord "XMRG")

def execCmat (e : Eng) (x : StreamImm) (d a : BitVec 4) (rec : BitVec 6) (s : State) :
    Host.Outcome State Fault Refusal :=
  issueOp s e (.cmat e x d a rec)

def execScor (e : Eng) (x : StreamImm) (d a b : BitVec 4) (sh : BitVec 5) (q : BitVec 4) (pen : Bool) (k : BitVec 4) (men : Bool) (s : State) :
    Host.Outcome State Fault Refusal :=
  if (Instr.scor e x d a b sh q pen k men).wf then issueOp s e (.scor e x d a b sh q pen k men) else .refused (.undefinedWord "SCOR")

def execThr (e : Eng) (x : StreamImm) (d a : BitVec 4) (k : BitVec 6) (pol : BitVec 2) (s : State) :
    Host.Outcome State Fault Refusal :=
  if (Instr.thr e x d a k pol).wf then issueOp s e (.thr e x d a k pol) else .refused (.undefinedWord "THR")

def execMorph (e : Eng) (x : StreamImm) (d a : BitVec 4) (erode cross : Bool) (s : State) :
    Host.Outcome State Fault Refusal :=
  issueOp s e (.morph e x d a erode cross)

def execLbl (e : Eng) (x : StreamImm) (d a b : BitVec 4) (ctx : BitVec 6) (noprev : Bool) (s : State) :
    Host.Outcome State Fault Refusal :=
  issueOp s e (.lbl e x d a b ctx noprev)

def execFeat (e : Eng) (x : StreamImm) (a b : BitVec 4) (ctx : BitVec 6) (z : BitVec 4) (zen : Bool) (s : State) :
    Host.Outcome State Fault Refusal :=
  issueOp s e (.feat e x a b ctx z zen)

def execStat (e : Eng) (x : StreamImm) (ad : BitVec 3) (a : BitVec 4) (k : BitVec 6) (m : BitVec 4) (men : Bool) (s : State) :
    Host.Outcome State Fault Refusal :=
  issueOp s e (.stat e x ad a k m men)

def execHist (e : Eng) (x : StreamImm) (a : BitVec 4) (nb sh m : BitVec 4) (men : Bool) (s : State) :
    Host.Outcome State Fault Refusal :=
  if (Instr.hist e x a nb sh m men).wf then issueOp s e (.hist e x a nb sh m men) else .refused (.undefinedWord "HIST")

def execCrc (e : Eng) (x : StreamImm) (ad : BitVec 3) (a : BitVec 4) (s : State) : Host.Outcome State Fault Refusal :=
  issueOp s e (.crc e x ad a)

def execPred (e : Eng) (x : StreamImm) (d a b : BitVec 4) (noprev : Bool) (s : State) :
    Host.Outcome State Fault Refusal :=
  issueOp s e (.pred e x d a b noprev)

def execUpred (e : Eng) (x : StreamImm) (d a b : BitVec 4) (noprev : Bool) (s : State) :
    Host.Outcome State Fault Refusal :=
  issueOp s e (.upred e x d a b noprev)

def execGsel (e : Eng) (x : StreamImm) (d a : BitVec 4) (s : State) : Host.Outcome State Fault Refusal :=
  issueOp s e (.gsel e x d a)

def execGput (e : Eng) (x : StreamImm) (d a b : BitVec 4) (ctx : BitVec 6) (s : State) :
    Host.Outcome State Fault Refusal :=
  issueOp s e (.gput e x d a b ctx)

def execGdec (e : Eng) (x : StreamImm) (d a : BitVec 4) (ctx : BitVec 6) (s : State) :
    Host.Outcome State Fault Refusal :=
  issueOp s e (.gdec e x d a ctx)

end Sys2Proof.Machine
end

