-- ==== Sys2Proof/Machine/Dispatch.lean ====
section
/-! DEFINITION. The dispatch: one arm for each command, each a direct call of its meaning. -/

namespace Sys2Proof.Machine

def exec (i : Instr) (s : State) : Host.Outcome State Fault Refusal :=
  match i with
  | .registerWrite port off size v => Sys2Proof.Machine.execRegisterWrite port off size v s
  | .invalidRegisterAccess port off size wr => Sys2Proof.Machine.execInvalidRegisterAccess port off size wr s
  | .readClear port off size => Sys2Proof.Machine.execReadClear port off size s
  | .add e g d a b => Sys2Proof.Machine.execAdd e g d a b s
  | .sub e g d a b => Sys2Proof.Machine.execSub e g d a b s
  | .and e g d a b => Sys2Proof.Machine.execAnd e g d a b s
  | .or e g d a b => Sys2Proof.Machine.execOr e g d a b s
  | .xor e g d a b => Sys2Proof.Machine.execXor e g d a b s
  | .shl e g d a b => Sys2Proof.Machine.execShl e g d a b s
  | .shr e g d a b => Sys2Proof.Machine.execShr e g d a b s
  | .sar e g d a b => Sys2Proof.Machine.execSar e g d a b s
  | .mul e g d a b => Sys2Proof.Machine.execMul e g d a b s
  | .mulh e g d a b => Sys2Proof.Machine.execMulh e g d a b s
  | .mulhu e g d a b => Sys2Proof.Machine.execMulhu e g d a b s
  | .min e g d a b => Sys2Proof.Machine.execMin e g d a b s
  | .max e g d a b => Sys2Proof.Machine.execMax e g d a b s
  | .minu e g d a b => Sys2Proof.Machine.execMinu e g d a b s
  | .maxu e g d a b => Sys2Proof.Machine.execMaxu e g d a b s
  | .adds e g d a b => Sys2Proof.Machine.execAdds e g d a b s
  | .subs e g d a b => Sys2Proof.Machine.execSubs e g d a b s
  | .clz e g d a => Sys2Proof.Machine.execClz e g d a s
  | .popc e g d a => Sys2Proof.Machine.execPopc e g d a s
  | .addi e d a imm => Sys2Proof.Machine.execAddi e d a imm s
  | .andi e d a imm => Sys2Proof.Machine.execAndi e d a imm s
  | .ori e d a imm => Sys2Proof.Machine.execOri e d a imm s
  | .xori e d a imm => Sys2Proof.Machine.execXori e d a imm s
  | .shli e d a n => Sys2Proof.Machine.execShli e d a n s
  | .shri e d a n => Sys2Proof.Machine.execShri e d a n s
  | .sari e d a n => Sys2Proof.Machine.execSari e d a n s
  | .muli e d a imm => Sys2Proof.Machine.execMuli e d a imm s
  | .mini e d a imm => Sys2Proof.Machine.execMini e d a imm s
  | .maxi e d a imm => Sys2Proof.Machine.execMaxi e d a imm s
  | .movi e d imm => Sys2Proof.Machine.execMovi e d imm s
  | .sethi e d a h => Sys2Proof.Machine.execSethi e d a h s
  | .ext e d a pos len => Sys2Proof.Machine.execExt e d a pos len s
  | .ins e d a pos len => Sys2Proof.Machine.execIns e d a pos len s
  | .clamp e d a imm => Sys2Proof.Machine.execClamp e d a imm s
  | .cmpEq e g pd a b => Sys2Proof.Machine.execCmpEq e g pd a b s
  | .cmpNe e g pd a b => Sys2Proof.Machine.execCmpNe e g pd a b s
  | .cmpLt e g pd a b => Sys2Proof.Machine.execCmpLt e g pd a b s
  | .cmpLtu e g pd a b => Sys2Proof.Machine.execCmpLtu e g pd a b s
  | .cmpLe e g pd a b => Sys2Proof.Machine.execCmpLe e g pd a b s
  | .cmpLeu e g pd a b => Sys2Proof.Machine.execCmpLeu e g pd a b s
  | .cmpiEq e pd a imm => Sys2Proof.Machine.execCmpiEq e pd a imm s
  | .cmpiNe e pd a imm => Sys2Proof.Machine.execCmpiNe e pd a imm s
  | .cmpiLt e pd a imm => Sys2Proof.Machine.execCmpiLt e pd a imm s
  | .cmpiLtu e pd a imm => Sys2Proof.Machine.execCmpiLtu e pd a imm s
  | .cmpiLe e pd a imm => Sys2Proof.Machine.execCmpiLe e pd a imm s
  | .cmpiLeu e pd a imm => Sys2Proof.Machine.execCmpiLeu e pd a imm s
  | .pand e pd pa pb => Sys2Proof.Machine.execPand e pd pa pb s
  | .por e pd pa pb => Sys2Proof.Machine.execPor e pd pa pb s
  | .pxor e pd pa pb => Sys2Proof.Machine.execPxor e pd pa pb s
  | .pandn e pd pa pb => Sys2Proof.Machine.execPandn e pd pa pb s
  | .pset e pd b => Sys2Proof.Machine.execPset e pd b s
  | .rd e d sel => Sys2Proof.Machine.execRd e d sel s
  | .nop e => Sys2Proof.Machine.execNop e s
  | .br e g off => Sys2Proof.Machine.execBr e g off s
  | .loop e n len => Sys2Proof.Machine.execLoop e n len s
  | .loopr e pd a m len => Sys2Proof.Machine.execLoopr e pd a m len s
  | .wtick e => Sys2Proof.Machine.execWtick e s
  | .lds e g d a off => Sys2Proof.Machine.execLds e g d a off s
  | .sts e g b a off => Sys2Proof.Machine.execSts e g b a off s
  | .ldw e dd a => Sys2Proof.Machine.execLdw e dd a s
  | .hld e g dd da rows => Sys2Proof.Machine.execHld e g dd da rows s
  | .hst e g dd da rows => Sys2Proof.Machine.execHst e g dd da rows s
  | .copyComplete e k => Sys2Proof.Machine.execCopyComplete e k s
  | .push e g q a => Sys2Proof.Machine.execPush e g q a s
  | .pushr e g q a => Sys2Proof.Machine.execPushr e g q a s
  | .chainSpaceFreed c ep => Sys2Proof.Machine.execChainSpaceFreed c ep s
  | .commit e g q => Sys2Proof.Machine.execCommit e g q s
  | .rewind e g q => Sys2Proof.Machine.execRewind e g q s
  | .pop e g d q => Sys2Proof.Machine.execPop e g d q s
  | .cred e g d q => Sys2Proof.Machine.execCred e g d q s
  | .cnt e g d q => Sys2Proof.Machine.execCnt e g d q s
  | .fence e mask => Sys2Proof.Machine.execFence e mask s
  | .event e g code => Sys2Proof.Machine.execEvent e g code s
  | .dlo e g dd a => Sys2Proof.Machine.execDlo e g dd a s
  | .dhi e g dd a => Sys2Proof.Machine.execDhi e g dd a s
  | .dfmt e g dd a => Sys2Proof.Machine.execDfmt e g dd a s
  | .dadv e g dd r => Sys2Proof.Machine.execDadv e g dd r s
  | .dget e g d da w => Sys2Proof.Machine.execDget e g d da w s
  | .aclr e g ad => Sys2Proof.Machine.execAclr e g ad s
  | .ard e g d aa f => Sys2Proof.Machine.execArd e g d aa f s
  | .tld e g t a => Sys2Proof.Machine.execTld e g t a s
  | .hclr e g => Sys2Proof.Machine.execHclr e g s
  | .hput e g a => Sys2Proof.Machine.execHput e g a s
  | .fmrg e g ncap a b => Sys2Proof.Machine.execFmrg e g ncap a b s
  | .cgat e x d a rec => Sys2Proof.Machine.execCgat e x d a rec s
  | .vadd e x d a b => Sys2Proof.Machine.execVadd e x d a b s
  | .vsub e x d a b => Sys2Proof.Machine.execVsub e x d a b s
  | .vmul e x d a b sh => Sys2Proof.Machine.execVmul e x d a b sh s
  | .vmin e x d a b => Sys2Proof.Machine.execVmin e x d a b s
  | .vmax e x d a b => Sys2Proof.Machine.execVmax e x d a b s
  | .vabsd e x d a b => Sys2Proof.Machine.execVabsd e x d a b s
  | .vaddk e x d a k => Sys2Proof.Machine.execVaddk e x d a k s
  | .vmulk e x d a k sh => Sys2Proof.Machine.execVmulk e x d a k sh s
  | .vclamp e x d a k => Sys2Proof.Machine.execVclamp e x d a k s
  | .vcvt e x d a sh => Sys2Proof.Machine.execVcvt e x d a sh s
  | .vsel e x d a b m => Sys2Proof.Machine.execVsel e x d a b m s
  | .vcmp e x ad a b => Sys2Proof.Machine.execVcmp e x ad a b s
  | .mapc e x d a rec steps b ben => Sys2Proof.Machine.execMapc e x d a rec steps b ben s
  | .lut e x d a t sh => Sys2Proof.Machine.execLut e x d a t sh s
  | .luti e x d a t sh => Sys2Proof.Machine.execLuti e x d a t sh s
  | .k1d e x d a rec taps => Sys2Proof.Machine.execK1d e x d a rec taps s
  | .k1v e x d a rec taps => Sys2Proof.Machine.execK1v e x d a rec taps s
  | .k2d e x d a rec big => Sys2Proof.Machine.execK2d e x d a rec big s
  | .rs e x d a rec big => Sys2Proof.Machine.execRs e x d a rec big s
  | .flat e x d a b gs => Sys2Proof.Machine.execFlat e x d a b gs s
  | .dpr e x d a b rad => Sys2Proof.Machine.execDpr e x d a b rad s
  | .xmrg e x d a k sd bw os => Sys2Proof.Machine.execXmrg e x d a k sd bw os s
  | .cmat e x d a rec => Sys2Proof.Machine.execCmat e x d a rec s
  | .scor e x d a b sh q pen k men => Sys2Proof.Machine.execScor e x d a b sh q pen k men s
  | .thr e x d a k pol => Sys2Proof.Machine.execThr e x d a k pol s
  | .morph e x d a erode cross => Sys2Proof.Machine.execMorph e x d a erode cross s
  | .lbl e x d a b ctx noprev => Sys2Proof.Machine.execLbl e x d a b ctx noprev s
  | .feat e x a b ctx z zen => Sys2Proof.Machine.execFeat e x a b ctx z zen s
  | .stat e x ad a k m men => Sys2Proof.Machine.execStat e x ad a k m men s
  | .hist e x a nb sh m men => Sys2Proof.Machine.execHist e x a nb sh m men s
  | .crc e x ad a => Sys2Proof.Machine.execCrc e x ad a s
  | .pred e x d a b noprev => Sys2Proof.Machine.execPred e x d a b noprev s
  | .upred e x d a b noprev => Sys2Proof.Machine.execUpred e x d a b noprev s
  | .gsel e x d a => Sys2Proof.Machine.execGsel e x d a s
  | .gput e x d a b ctx => Sys2Proof.Machine.execGput e x d a b ctx s
  | .gdec e x d a ctx => Sys2Proof.Machine.execGdec e x d a ctx s
  | .streamComplete e => Sys2Proof.Machine.execStreamComplete e s
  | .instructionMemoryWrite port e bank idx v => Sys2Proof.Machine.execInstructionMemoryWrite port e bank idx v s
  | .load e => Sys2Proof.Machine.execLoad e s
  | .abort e => Sys2Proof.Machine.execAbort e s
  | .swap e => Sys2Proof.Machine.execSwap e s
  | .constReload e => Sys2Proof.Machine.execConstReload e s
  | .disarm e => Sys2Proof.Machine.execDisarm e s
  | .admissionWalkComplete e => Sys2Proof.Machine.execAdmissionWalkComplete e s
  | .loadGroupFetch e entry grp => Sys2Proof.Machine.execLoadGroupFetch e entry grp s
  | .loadGroupArrive e entry grp => Sys2Proof.Machine.execLoadGroupArrive e entry grp s
  | .bandStart e => Sys2Proof.Machine.execBandStart e s
  | .engineFault e cause => Sys2Proof.Machine.execEngineFault e cause s
  | .engineWatchdog e => Sys2Proof.Machine.execEngineWatchdog e s
  | .engineHang e => Sys2Proof.Machine.execEngineHang e s
  | .spareReady u => Sys2Proof.Machine.execSpareReady u s
  | .triggerTime gen => Sys2Proof.Machine.execTriggerTime gen s
  | .triggerExt gen => Sys2Proof.Machine.execTriggerExt gen s
  | .tickTime => Sys2Proof.Machine.execTickTime s
  | .gapTimeout => Sys2Proof.Machine.execGapTimeout s
  | .unservedStripWrite k => Sys2Proof.Machine.execUnservedStripWrite k s
  | .bandDue sec => Sys2Proof.Machine.execBandDue sec s
  | .hold => Sys2Proof.Machine.execHold s
  | .abandon => Sys2Proof.Machine.execAbandon s
  | .catchUpStart => Sys2Proof.Machine.execCatchUpStart s
  | .heldTokenIssue sec => Sys2Proof.Machine.execHeldTokenIssue sec s
  | .portEnable p => Sys2Proof.Machine.execPortEnable p s
  | .portDisable p => Sys2Proof.Machine.execPortDisable p s
  | .relock p => Sys2Proof.Machine.execRelock p s
  | .restore p => Sys2Proof.Machine.execRestore p s
  | .invalidSyncHeader l date => Sys2Proof.Machine.execInvalidSyncHeader l date s
  | .huntTimeout l => Sys2Proof.Machine.execHuntTimeout l s
  | .dataBlock l w date => Sys2Proof.Machine.execDataBlock l w date s
  | .fill l w date => Sys2Proof.Machine.execFill l w date s
  | .fillColumnInsert p => Sys2Proof.Machine.execFillColumnInsert p s
  | .am l w date => Sys2Proof.Machine.execAm l w date s
  | .ls l w date => Sys2Proof.Machine.execLs l w date s
  | .le l w date => Sys2Proof.Machine.execLe l w date s
  | .st l w date => Sys2Proof.Machine.execSt l w date s
  | .sack l w date => Sys2Proof.Machine.execSack l w date s
  | .lineTimeout p => Sys2Proof.Machine.execLineTimeout p s
  | .sackTimeout p => Sys2Proof.Machine.execSackTimeout p s
  | .silentTimeout p => Sys2Proof.Machine.execSilentTimeout p s
  | .portGroupWrite p grp => Sys2Proof.Machine.execPortGroupWrite p grp s
  | .lateGroupFetch p grp => Sys2Proof.Machine.execLateGroupFetch p grp s
  | .intakeGroupCommit p grp => Sys2Proof.Machine.execIntakeGroupCommit p grp s
  | .setband p k => Sys2Proof.Machine.execSetband p k s
  | .settingsLastFragment p => Sys2Proof.Machine.execSettingsLastFragment p s
  | .stripGroupCommit k grp => Sys2Proof.Machine.execStripGroupCommit k grp s
  | .tandemRead k grp => Sys2Proof.Machine.execTandemRead k grp s
  | .packSplitRead k grp => Sys2Proof.Machine.execPackSplitRead k grp s
  | .encoderEdge ch a b edge => Sys2Proof.Machine.execEncoderEdge ch a b edge s
  | .indexEdge ch edge => Sys2Proof.Machine.execIndexEdge ch edge s
  | .presetLoad ch => Sys2Proof.Machine.execPresetLoad ch s
  | .loadIdx ch => Sys2Proof.Machine.execLoadIdx ch s
  | .idxDisarm ch => Sys2Proof.Machine.execIdxDisarm ch s
  | .encoderStopTimeout ch => Sys2Proof.Machine.execEncoderStopTimeout ch s
  | .serialPoll k poll => Sys2Proof.Machine.execSerialPoll k poll s
  | .serialSample k f => Sys2Proof.Machine.execSerialSample k f s
  | .dinEdge d level edge => Sys2Proof.Machine.execDinEdge d level edge s
  | .compareFire u => Sys2Proof.Machine.execCompareFire u s
  | .markerRelease o => Sys2Proof.Machine.execMarkerRelease o s
  | .posCmpAppend u e3 => Sys2Proof.Machine.execPosCmpAppend u e3 s
  | .flush u => Sys2Proof.Machine.execFlush u s
  | .markRecord => Sys2Proof.Machine.execMarkRecord s
  | .batchClose u => Sys2Proof.Machine.execBatchClose u s
  | .emulationEdge o => Sys2Proof.Machine.execEmulationEdge o s
  | .phaseMark => Sys2Proof.Machine.execPhaseMark s
  | .seamLook => Sys2Proof.Machine.execSeamLook s
  | .seamAlias => Sys2Proof.Machine.execSeamAlias s
  | .seamComponent => Sys2Proof.Machine.execSeamComponent s
  | .seamEnd => Sys2Proof.Machine.execSeamEnd s
  | .seamClose => Sys2Proof.Machine.execSeamClose s
  | .recordFrame k => Sys2Proof.Machine.execRecordFrame k s
  | .outputItem src => Sys2Proof.Machine.execOutputItem src s
  | .cropDescriptor => Sys2Proof.Machine.execCropDescriptor s
  | .eventRecordRoute => Sys2Proof.Machine.execEventRecordRoute s
  | .ringWrite r => Sys2Proof.Machine.execRingWrite r s
  | .ringIrqTimer r => Sys2Proof.Machine.execRingIrqTimer r s
  | .ringConsumerWrite r v => Sys2Proof.Machine.execRingConsumerWrite r v s
  | .datagramFlush st => Sys2Proof.Machine.execDatagramFlush st s
  | .streamSlot st => Sys2Proof.Machine.execStreamSlot st s
  | .ackReceived st a => Sys2Proof.Machine.execAckReceived st a s
  | .ackTimeoutProbe st => Sys2Proof.Machine.execAckTimeoutProbe st s
  | .neighbourRequest p v6 target from_ => Sys2Proof.Machine.execNeighbourRequest p v6 target from_ s
  | .frameDrop p => Sys2Proof.Machine.execFrameDrop p s
  | .streamLinkChange p up => Sys2Proof.Machine.execStreamLinkChange p up s
  | .hostLinkUp gen width flit mps mrrs => Sys2Proof.Machine.execHostLinkUp gen width flit mps mrrs s
  | .hubTransaction src cls addr wr => Sys2Proof.Machine.execHubTransaction src cls addr wr s
  | .bar2Read addr n => Sys2Proof.Machine.execBar2Read addr n s
  | .bar2Write addr data => Sys2Proof.Machine.execBar2Write addr data s
  | .scrubBatch c granule n => Sys2Proof.Machine.execScrubBatch c granule n s
  | .bankRefresh c b => Sys2Proof.Machine.execBankRefresh c b s
  | .selfRefreshEntry c => Sys2Proof.Machine.execSelfRefreshEntry c s
  | .retrainPassStart c => Sys2Proof.Machine.execRetrainPassStart c s
  | .retrainSlice c m => Sys2Proof.Machine.execRetrainSlice c m s
  | .retrainForce c => Sys2Proof.Machine.execRetrainForce c s
  | .frequencySwitch rate => Sys2Proof.Machine.execFrequencySwitch rate s
  | .frequencySwitchComplete failed => Sys2Proof.Machine.execFrequencySwitchComplete failed s
  | .migReq slot => Sys2Proof.Machine.execMigReq slot s
  | .migrationCopy => Sys2Proof.Machine.execMigrationCopy s
  | .migrationComplete => Sys2Proof.Machine.execMigrationComplete s
  | .retirementComplete => Sys2Proof.Machine.execRetirementComplete s
  | .dmaStart u ch => Sys2Proof.Machine.execDmaStart u ch s
  | .dmaStop u ch => Sys2Proof.Machine.execDmaStop u ch s
  | .dmaAppend u ch a => Sys2Proof.Machine.execDmaAppend u ch a s
  | .dmaUnitGrant u => Sys2Proof.Machine.execDmaUnitGrant u s
  | .dmaDescriptorFetch u => Sys2Proof.Machine.execDmaDescriptorFetch u s
  | .dmaBurst u => Sys2Proof.Machine.execDmaBurst u s
  | .dmaDescriptorComplete u => Sys2Proof.Machine.execDmaDescriptorComplete u s
  | .chnCntRead c => Sys2Proof.Machine.execChnCntRead c s
  | .timStep v => Sys2Proof.Machine.execTimStep v s
  | .timOfsWrite frac v => Sys2Proof.Machine.execTimOfsWrite frac v s
  | .timRateWrite v => Sys2Proof.Machine.execTimRateWrite v s
  | .timSnap => Sys2Proof.Machine.execTimSnap s
  | .referenceLost => Sys2Proof.Machine.execReferenceLost s
  | .referenceRelock => Sys2Proof.Machine.execReferenceRelock s
  | .ppsInEdge date => Sys2Proof.Machine.execPpsInEdge date s
  | .ppsMissing => Sys2Proof.Machine.execPpsMissing s
  | .ppsOut => Sys2Proof.Machine.execPpsOut s
  | .ptpMessage m => Sys2Proof.Machine.execPtpMessage m s
  | .supervisionScan samples => Sys2Proof.Machine.execSupervisionScan samples s
  | .telemetryUpdate late page => Sys2Proof.Machine.execTelemetryUpdate late page s
  | .logWrite => Sys2Proof.Machine.execLogWrite s
  | .smbusSel sel => Sys2Proof.Machine.execSmbusSel sel s
  | .smbusRead => Sys2Proof.Machine.execSmbusRead s
  | .powerFailWarning => Sys2Proof.Machine.execPowerFailWarning s
  | .info tag => Sys2Proof.Machine.execInfo tag s
  | .logRead tag seq count => Sys2Proof.Machine.execLogRead tag seq count s
  | .bboxRead tag slot offset => Sys2Proof.Machine.execBboxRead tag slot offset s
  | .updBegin tag len => Sys2Proof.Machine.execUpdBegin tag len s
  | .updData tag off data => Sys2Proof.Machine.execUpdData tag off data s
  | .updVerify tag => Sys2Proof.Machine.execUpdVerify tag s
  | .updActivate tag => Sys2Proof.Machine.execUpdActivate tag s
  | .updConfirm tag => Sys2Proof.Machine.execUpdConfirm tag s
  | .mgtRestart tag => Sys2Proof.Machine.execMgtRestart tag s
  | .boardWrite tag table => Sys2Proof.Machine.execBoardWrite tag table s
  | .ptpSet tag cfg => Sys2Proof.Machine.execPtpSet tag cfg s
  | .ptpStatus tag => Sys2Proof.Machine.execPtpStatus tag s
  | .netSet tag cfg => Sys2Proof.Machine.execNetSet tag cfg s
  | .mailboxComplete => Sys2Proof.Machine.execMailboxComplete s
  | .mailboxBusy v => Sys2Proof.Machine.execMailboxBusy v s
  | .uartFrame off data crc => Sys2Proof.Machine.execUartFrame off data crc s
  | .thermalMeasure readings => Sys2Proof.Machine.execThermalMeasure readings s
  | .thermalRestart => Sys2Proof.Machine.execThermalRestart s
  | .brkLock => Sys2Proof.Machine.execBrkLock s
  | .kick port v => Sys2Proof.Machine.execKick port v s
  | .mgtWatchdogTimeout => Sys2Proof.Machine.execMgtWatchdogTimeout s
  | .modeReqStandby abort => Sys2Proof.Machine.execModeReqStandby abort s
  | .modeReqService abort => Sys2Proof.Machine.execModeReqService abort s
  | .modeReqTeach => Sys2Proof.Machine.execModeReqTeach s
  | .modeReqInspect => Sys2Proof.Machine.execModeReqInspect s
  | .modeReqStream nosieve => Sys2Proof.Machine.execModeReqStream nosieve s
  | .modeReqSafe => Sys2Proof.Machine.execModeReqSafe s
  | .modeAbort => Sys2Proof.Machine.execModeAbort s
  | .serviceReady failed => Sys2Proof.Machine.execServiceReady failed s
  | .acquisitionEntryComplete => Sys2Proof.Machine.execAcquisitionEntryComplete s
  | .drainComplete => Sys2Proof.Machine.execDrainComplete s
  | .safe => Sys2Proof.Machine.execSafe s
  | .safeNLow => Sys2Proof.Machine.execSafeNLow s
  | .safeNHigh => Sys2Proof.Machine.execSafeNHigh s
  | .dprst => Sys2Proof.Machine.execDprst s
  | .moduleReset straps => Sys2Proof.Machine.execModuleReset straps s
  | .hostReset kind => Sys2Proof.Machine.execHostReset kind s
  | .powerOn straps => Sys2Proof.Machine.execPowerOn straps s
  | .powerOnTestComplete failed => Sys2Proof.Machine.execPowerOnTestComplete failed s
  | .firmwareReady date => Sys2Proof.Machine.execFirmwareReady date s
  | .powerOff => Sys2Proof.Machine.execPowerOff s
  | .vinOvervoltage => Sys2Proof.Machine.execVinOvervoltage s
  | .phaseFailure => Sys2Proof.Machine.execPhaseFailure s
  | .tstUnlock port v => Sys2Proof.Machine.execTstUnlock port v s
  | .tstCred port k v => Sys2Proof.Machine.execTstCred port k v s
  | .tstHublat port v => Sys2Proof.Machine.execTstHublat port v s
  | .tstBp port v => Sys2Proof.Machine.execTstBp port v s
  | .backpressurePhase => Sys2Proof.Machine.execBackpressurePhase s
  | .tstLane port k v => Sys2Proof.Machine.execTstLane port k v s
  | .tstEccGo port v => Sys2Proof.Machine.execTstEccGo port v s
  | .tstEncGo port v => Sys2Proof.Machine.execTstEncGo port v s
  | .tstLine port v => Sys2Proof.Machine.execTstLine port v s
  | .tstTick port v => Sys2Proof.Machine.execTstTick port v s
  | .tstTherm port v => Sys2Proof.Machine.execTstTherm port v s
  | .resetNRelease => Sys2Proof.Machine.execResetNRelease s
  | .transmissionEnd p => Sys2Proof.Machine.execTransmissionEnd p s
  | .streamRateBucketRefill p => Sys2Proof.Machine.execStreamRateBucketRefill p s
  | .tc0TokenGain c => Sys2Proof.Machine.execTc0TokenGain c s
  | .correctedErrorWindowEnd c => Sys2Proof.Machine.execCorrectedErrorWindowEnd c s
  | .tickJitterIssue => Sys2Proof.Machine.execTickJitterIssue s

end Sys2Proof.Machine
end

