-- ==== Sys2Proof/Machine/Encode.lean ====
section
/-! DEFINITION. The word an instruction of an engine is written as in a program image (Tables 2.3, 2.5 to 2.10 and 3.4 to
3.6): what the admission walker reads the instruction from. -/

namespace Sys2Proof.Machine

/-- A word from its fields (Table 2.3). -/
def wordOf (maj mnr d a b imm : Nat) : Nat :=
  maj * 2 ^ 58 + mnr * 2 ^ 52 + d * 2 ^ 46 + a * 2 ^ 40 + b * 2 ^ 34 + imm

/-- The immediate of a guarded form: the guard above the rest. -/
def wordImm (g : BitVec 4) (rest : Nat) : Nat := g.toNat * 2 ^ 30 + rest

/-- The immediate of a stream instruction (Table 3.4). -/
def wordStrm (x : StreamImm) (param : Nat) : Nat := wordImm x.g (x.ncap.toNat * 2 ^ 18 + x.adv.toNat * 2 ^ 17 + param)

/-- Registers, predicates and control. -/
def encodeScalar : Instr → Option (Eng × Nat)
  | .add e g d a b => some (e, wordOf 0x01 0x00 d.toNat a.toNat b.toNat (wordImm g 0))
  | .sub e g d a b => some (e, wordOf 0x01 0x01 d.toNat a.toNat b.toNat (wordImm g 0))
  | .and e g d a b => some (e, wordOf 0x01 0x02 d.toNat a.toNat b.toNat (wordImm g 0))
  | .or e g d a b => some (e, wordOf 0x01 0x03 d.toNat a.toNat b.toNat (wordImm g 0))
  | .xor e g d a b => some (e, wordOf 0x01 0x04 d.toNat a.toNat b.toNat (wordImm g 0))
  | .shl e g d a b => some (e, wordOf 0x01 0x05 d.toNat a.toNat b.toNat (wordImm g 0))
  | .shr e g d a b => some (e, wordOf 0x01 0x06 d.toNat a.toNat b.toNat (wordImm g 0))
  | .sar e g d a b => some (e, wordOf 0x01 0x07 d.toNat a.toNat b.toNat (wordImm g 0))
  | .mul e g d a b => some (e, wordOf 0x01 0x08 d.toNat a.toNat b.toNat (wordImm g 0))
  | .mulh e g d a b => some (e, wordOf 0x01 0x09 d.toNat a.toNat b.toNat (wordImm g 0))
  | .mulhu e g d a b => some (e, wordOf 0x01 0x0A d.toNat a.toNat b.toNat (wordImm g 0))
  | .min e g d a b => some (e, wordOf 0x01 0x0B d.toNat a.toNat b.toNat (wordImm g 0))
  | .max e g d a b => some (e, wordOf 0x01 0x0C d.toNat a.toNat b.toNat (wordImm g 0))
  | .minu e g d a b => some (e, wordOf 0x01 0x0D d.toNat a.toNat b.toNat (wordImm g 0))
  | .maxu e g d a b => some (e, wordOf 0x01 0x0E d.toNat a.toNat b.toNat (wordImm g 0))
  | .adds e g d a b => some (e, wordOf 0x01 0x0F d.toNat a.toNat b.toNat (wordImm g 0))
  | .subs e g d a b => some (e, wordOf 0x01 0x10 d.toNat a.toNat b.toNat (wordImm g 0))
  | .clz e g d a => some (e, wordOf 0x01 0x11 d.toNat a.toNat 0 (wordImm g 0))
  | .popc e g d a => some (e, wordOf 0x01 0x12 d.toNat a.toNat 0 (wordImm g 0))
  | .addi e d a i => some (e, wordOf 0x02 0x00 d.toNat a.toNat 0 i.toNat)
  | .andi e d a i => some (e, wordOf 0x02 0x02 d.toNat a.toNat 0 i.toNat)
  | .ori e d a i => some (e, wordOf 0x02 0x03 d.toNat a.toNat 0 i.toNat)
  | .xori e d a i => some (e, wordOf 0x02 0x04 d.toNat a.toNat 0 i.toNat)
  | .shli e d a n => some (e, wordOf 0x02 0x05 d.toNat a.toNat 0 n.toNat)
  | .shri e d a n => some (e, wordOf 0x02 0x06 d.toNat a.toNat 0 n.toNat)
  | .sari e d a n => some (e, wordOf 0x02 0x07 d.toNat a.toNat 0 n.toNat)
  | .muli e d a i => some (e, wordOf 0x02 0x08 d.toNat a.toNat 0 i.toNat)
  | .mini e d a i => some (e, wordOf 0x02 0x0B d.toNat a.toNat 0 i.toNat)
  | .maxi e d a i => some (e, wordOf 0x02 0x0C d.toNat a.toNat 0 i.toNat)
  | .movi e d i => some (e, wordOf 0x02 0x20 d.toNat 0 0 i.toNat)
  | .sethi e d a h => some (e, wordOf 0x02 0x21 d.toNat a.toNat 0 h.toNat)
  | .ext e d a pos len => some (e, wordOf 0x02 0x22 d.toNat a.toNat 0 (len.toNat * 2 ^ 6 + pos.toNat))
  | .ins e d a pos len => some (e, wordOf 0x02 0x23 d.toNat a.toNat 0 (len.toNat * 2 ^ 6 + pos.toNat))
  | .clamp e d a i => some (e, wordOf 0x02 0x24 d.toNat a.toNat 0 i.toNat)
  | .cmpEq e g d a b => some (e, wordOf 0x03 0x00 d.toNat a.toNat b.toNat (wordImm g 0))
  | .cmpNe e g d a b => some (e, wordOf 0x03 0x01 d.toNat a.toNat b.toNat (wordImm g 0))
  | .cmpLt e g d a b => some (e, wordOf 0x03 0x02 d.toNat a.toNat b.toNat (wordImm g 0))
  | .cmpLtu e g d a b => some (e, wordOf 0x03 0x03 d.toNat a.toNat b.toNat (wordImm g 0))
  | .cmpLe e g d a b => some (e, wordOf 0x03 0x04 d.toNat a.toNat b.toNat (wordImm g 0))
  | .cmpLeu e g d a b => some (e, wordOf 0x03 0x05 d.toNat a.toNat b.toNat (wordImm g 0))
  | .cmpiEq e d a i => some (e, wordOf 0x04 0x00 d.toNat a.toNat 0 i.toNat)
  | .cmpiNe e d a i => some (e, wordOf 0x04 0x01 d.toNat a.toNat 0 i.toNat)
  | .cmpiLt e d a i => some (e, wordOf 0x04 0x02 d.toNat a.toNat 0 i.toNat)
  | .cmpiLtu e d a i => some (e, wordOf 0x04 0x03 d.toNat a.toNat 0 i.toNat)
  | .cmpiLe e d a i => some (e, wordOf 0x04 0x04 d.toNat a.toNat 0 i.toNat)
  | .cmpiLeu e d a i => some (e, wordOf 0x04 0x05 d.toNat a.toNat 0 i.toNat)
  | .pand e d a b => some (e, wordOf 0x05 0x00 d.toNat a.toNat b.toNat 0)
  | .por e d a b => some (e, wordOf 0x05 0x01 d.toNat a.toNat b.toNat 0)
  | .pxor e d a b => some (e, wordOf 0x05 0x02 d.toNat a.toNat b.toNat 0)
  | .pandn e d a b => some (e, wordOf 0x05 0x03 d.toNat a.toNat b.toNat 0)
  | .pset e d v => some (e, wordOf 0x05 0x04 d.toNat 0 0 v.toNat)
  | .rd e d sel => some (e, wordOf 0x06 0x00 d.toNat 0 0 sel.toNat)
  | .nop e => some (e, wordOf 0x08 0x00 0 0 0 0)
  | .br e g off => some (e, wordOf 0x08 0x01 0 0 0 (wordImm g off.toNat))
  | .loop e n len => some (e, wordOf 0x08 0x02 0 0 0 (n.toNat * 2 ^ 14 + len.toNat))
  | .loopr e p a m len => some (e, wordOf 0x08 0x03 p.toNat a.toNat 0 (m.toNat * 2 ^ 14 + len.toNat))
  | .wtick e => some (e, wordOf 0x08 0x3F 0 0 0 0)
  | _ => none

/-- Movement, chains, synchronisation, and MAJOR 0x10. -/
def encodeMove : Instr → Option (Eng × Nat)
  | .lds e g d a off => some (e, wordOf 0x0A 0x00 d.toNat a.toNat 0 (wordImm g off.toNat))
  | .sts e g b a off => some (e, wordOf 0x0A 0x01 0 a.toNat b.toNat (wordImm g off.toNat))
  | .ldw e d a => some (e, wordOf 0x0A 0x02 d.toNat a.toNat 0 0)
  | .hld e g d a rows => some (e, wordOf 0x0A 0x03 d.toNat a.toNat 0 (wordImm g rows.toNat))
  | .hst e g d a rows => some (e, wordOf 0x0A 0x04 d.toNat a.toNat 0 (wordImm g rows.toNat))
  | .push e g q a => some (e, wordOf 0x0C 0x00 q.toNat a.toNat 0 (wordImm g 0))
  | .pushr e g q a => some (e, wordOf 0x0C 0x01 q.toNat a.toNat 0 (wordImm g 0))
  | .commit e g q => some (e, wordOf 0x0C 0x02 q.toNat 0 0 (wordImm g 0))
  | .rewind e g q => some (e, wordOf 0x0C 0x03 q.toNat 0 0 (wordImm g 0))
  | .pop e g d q => some (e, wordOf 0x0C 0x04 d.toNat q.toNat 0 (wordImm g 0))
  | .cred e g d q => some (e, wordOf 0x0C 0x05 d.toNat q.toNat 0 (wordImm g 0))
  | .cnt e g d q => some (e, wordOf 0x0C 0x06 d.toNat q.toNat 0 (wordImm g 0))
  | .fence e mask => some (e, wordOf 0x0E 0x00 0 0 0 mask.toNat)
  | .event e g code => some (e, wordOf 0x0E 0x01 0 0 0 (wordImm g code.toNat))
  | .dlo e g d a => some (e, wordOf 0x10 0x00 d.toNat a.toNat 0 (wordImm g 0))
  | .dhi e g d a => some (e, wordOf 0x10 0x01 d.toNat a.toNat 0 (wordImm g 0))
  | .dfmt e g d a => some (e, wordOf 0x10 0x02 d.toNat a.toNat 0 (wordImm g 0))
  | .dadv e g d r => some (e, wordOf 0x10 0x03 d.toNat 0 0 (wordImm g r.toNat))
  | .dget e g d a w => some (e, wordOf 0x10 0x04 d.toNat a.toNat 0 (wordImm g w.toNat))
  | .aclr e g d => some (e, wordOf 0x10 0x05 d.toNat 0 0 (wordImm g 0))
  | .ard e g d a f => some (e, wordOf 0x10 0x06 d.toNat a.toNat 0 (wordImm g f.toNat))
  | .tld e g t a => some (e, wordOf 0x10 0x07 t.toNat a.toNat 0 (wordImm g 0))
  | .hclr e g => some (e, wordOf 0x10 0x08 0 0 0 (wordImm g 0))
  | .hput e g a => some (e, wordOf 0x10 0x09 0 a.toNat 0 (wordImm g 0))
  | _ => none

/-- The stream instructions. -/
def encodeStream : Instr → Option (Eng × Nat)
  | .vadd e x d a b => some (e, wordOf 0x11 0x00 d.toNat a.toNat b.toNat (wordStrm x 0))
  | .vsub e x d a b => some (e, wordOf 0x11 0x01 d.toNat a.toNat b.toNat (wordStrm x 0))
  | .vmul e x d a b sh => some (e, wordOf 0x11 0x02 d.toNat a.toNat b.toNat (wordStrm x sh.toNat))
  | .vmin e x d a b => some (e, wordOf 0x11 0x03 d.toNat a.toNat b.toNat (wordStrm x 0))
  | .vmax e x d a b => some (e, wordOf 0x11 0x04 d.toNat a.toNat b.toNat (wordStrm x 0))
  | .vabsd e x d a b => some (e, wordOf 0x11 0x05 d.toNat a.toNat b.toNat (wordStrm x 0))
  | .vaddk e x d a k => some (e, wordOf 0x11 0x06 d.toNat a.toNat k.toNat (wordStrm x 0))
  | .vmulk e x d a k sh => some (e, wordOf 0x11 0x07 d.toNat a.toNat k.toNat (wordStrm x sh.toNat))
  | .vclamp e x d a k => some (e, wordOf 0x11 0x08 d.toNat a.toNat k.toNat (wordStrm x 0))
  | .vcvt e x d a sh => some (e, wordOf 0x11 0x09 d.toNat a.toNat 0 (wordStrm x sh.toNat))
  | .vsel e x d a b m => some (e, wordOf 0x11 0x0A d.toNat a.toNat b.toNat (wordStrm x m.toNat))
  | .vcmp e x d a b => some (e, wordOf 0x11 0x0B d.toNat a.toNat b.toNat (wordStrm x 0))
  | .mapc e x d a k steps b ben =>
    some (e, wordOf 0x12 0x00 d.toNat a.toNat k.toNat (wordStrm x (ben.toNat * 2 ^ 7 + b.toNat * 2 ^ 3 + steps.toNat)))
  | .lut e x d a t sh => some (e, wordOf 0x13 0x00 d.toNat a.toNat t.toNat (wordStrm x sh.toNat))
  | .luti e x d a t sh => some (e, wordOf 0x13 0x01 d.toNat a.toNat t.toNat (wordStrm x sh.toNat))
  | .k1d e x d a k taps => some (e, wordOf 0x14 0x00 d.toNat a.toNat k.toNat (wordStrm x taps.toNat))
  | .k1v e x d a k taps => some (e, wordOf 0x14 0x01 d.toNat a.toNat k.toNat (wordStrm x taps.toNat))
  | .k2d e x d a k big => some (e, wordOf 0x14 0x02 d.toNat a.toNat k.toNat (wordStrm x big.toNat))
  | .rs e x d a k big => some (e, wordOf 0x15 0x00 d.toNat a.toNat k.toNat (wordStrm x big.toNat))
  | .flat e x d a b gs => some (e, wordOf 0x16 0x00 d.toNat a.toNat b.toNat (wordStrm x gs.toNat))
  | .dpr e x d a b rad => some (e, wordOf 0x16 0x01 d.toNat a.toNat b.toNat (wordStrm x rad.toNat))
  | .xmrg e x d a k sd bw os =>
    some (e, wordOf 0x16 0x02 d.toNat a.toNat k.toNat (wordStrm x (sd.toNat * 2 ^ 8 + os.toNat * 2 ^ 4 + bw.toNat)))
  | .cmat e x d a k => some (e, wordOf 0x16 0x03 d.toNat a.toNat k.toNat (wordStrm x 0))
  | .scor e x d a b sh q pen k men =>
    some (e, wordOf 0x17 0x00 d.toNat a.toNat b.toNat
      (wordStrm x (men.toNat * 2 ^ 14 + k.toNat * 2 ^ 10 + pen.toNat * 2 ^ 9 + q.toNat * 2 ^ 5 + sh.toNat)))
  | .thr e x d a k pol => some (e, wordOf 0x17 0x01 d.toNat a.toNat k.toNat (wordStrm x pol.toNat))
  | .morph e x d a erode cross => some (e, wordOf 0x18 0x00 d.toNat a.toNat 0 (wordStrm x (cross.toNat * 2 + erode.toNat)))
  | .lbl e x d a b ctx noprev =>
    some (e, wordOf 0x19 0x00 d.toNat a.toNat b.toNat (wordStrm x (noprev.toNat * 2 ^ 6 + ctx.toNat)))
  | .feat e x a b ctx z zen =>
    some (e, wordOf 0x19 0x01 0 a.toNat b.toNat (wordStrm x (zen.toNat * 2 ^ 10 + z.toNat * 2 ^ 6 + ctx.toNat)))
  | .fmrg e g ncap a b => some (e, wordOf 0x19 0x02 0 a.toNat b.toNat (wordStrm ⟨g, ncap, false⟩ 0))
  | .stat e x d a k m men => some (e, wordOf 0x1A 0x00 d.toNat a.toNat k.toNat (wordStrm x (men.toNat * 2 ^ 4 + m.toNat)))
  | .hist e x a nb sh m men =>
    some (e, wordOf 0x1A 0x01 0 a.toNat 0 (wordStrm x (men.toNat * 2 ^ 12 + m.toNat * 2 ^ 8 + sh.toNat * 2 ^ 4 + nb.toNat)))
  | .crc e x d a => some (e, wordOf 0x1A 0x02 d.toNat a.toNat 0 (wordStrm x 0))
  | .pred e x d a b noprev => some (e, wordOf 0x1B 0x00 d.toNat a.toNat b.toNat (wordStrm x noprev.toNat))
  | .upred e x d a b noprev => some (e, wordOf 0x1B 0x01 d.toNat a.toNat b.toNat (wordStrm x noprev.toNat))
  | .gsel e x d a => some (e, wordOf 0x1B 0x02 d.toNat a.toNat 0 (wordStrm x 0))
  | .gput e x d a b ctx => some (e, wordOf 0x1B 0x03 d.toNat a.toNat b.toNat (wordStrm x ctx.toNat))
  | .gdec e x d a ctx => some (e, wordOf 0x1B 0x04 d.toNat a.toNat 0 (wordStrm x ctx.toNat))
  | .cgat e x d a k => some (e, wordOf 0x1C 0x00 d.toNat a.toNat k.toNat (wordStrm x 0))
  | _ => none

/-- The engine of an instruction and its word; none for a command that is no instruction of an engine. -/
def encode (i : Instr) : Option (Eng × Nat) :=
  match encodeScalar i with
  | some w => some w
  | none => match encodeMove i with
    | some w => some w
    | none => encodeStream i

end Sys2Proof.Machine
end

