-- ==== Sys2Proof/Safety.lean ====
section
/-! DEFINITION. The terms the statements are written in: a command that completes, what an engine's instruction leaves
alone, an event that was raised, and memories in their canonical form. -/

namespace Sys2Proof
open Machine

/-- The command completes and its next state has the property. -/
def Gives (c : Instr) (s : State) (P : State → Prop) : Prop := ∃ t, exec c s = .next t ∧ P t

/-- The command completes. -/
def Completes (c : Instr) (s : State) : Prop := ∃ t, exec c s = .next t

/-- The two memories the spec gives the module addresses for, the hub and what it has written of the host's, hold their
canonical form. -/
def MemoryOk (s : State) : Prop := Memory.wf s.hub = true ∧ Memory.wf s.host = true

/-- Only engine `e` may differ: every register field, memory, chain, unit, queue and event is as it was. -/
def OnlyEngine (e : Nat) (s t : State) : Prop :=
  { t with engines := s.engines } = s ∧ ∀ k, k ≠ e → t.eng k = s.eng k

/-- The engine has run `cost` cycles more, and but for its scalars and its place in the program it is as it was:
scalar `d` holds `v` unless it is s0, every other scalar what it held. -/
def ScalarNext (e : Nat) (d : BitVec 6) (v : Word) (cost : Nat) (s t : State) : Prop :=
  let x := s.eng e
  let y := t.eng e
  OnlyEngine e s t ∧ y.run = x.run + cost ∧ (∀ r, y.s r = if r = d ∧ d ≠ 0 then v else x.s r) ∧
    { y with sregs := x.sregs, pc := x.pc, loops := x.loops, run := x.run } = x

/-- The same for predicate `pd`, p0 aside. -/
def PredNext (e : Nat) (pd : BitVec 3) (v : Bool) (cost : Nat) (s t : State) : Prop :=
  let x := s.eng e
  let y := t.eng e
  OnlyEngine e s t ∧ y.run = x.run + cost ∧ (∀ r, y.p r = if r = pd ∧ pd ≠ 0 then v else x.p r) ∧
    { y with preds := x.preds, pc := x.pc, loops := x.loops, run := x.run } = x

/-- The same for descriptor `dd`. -/
def DescNext (e : Nat) (dd : BitVec 4) (v : Desc) (cost : Nat) (s t : State) : Prop :=
  let x := s.eng e
  let y := t.eng e
  OnlyEngine e s t ∧ y.run = x.run + cost ∧ (∀ r, y.d r = if r = dd then v else x.d r) ∧
    { y with descs := x.descs, pc := x.pc, loops := x.loops, run := x.run } = x

/-- The engine an instruction that may have to wait belongs to: the instructions of scratch and of the hub, the pushes,
fence, ard, wtick and everything that enters the tile issue queue. -/
def Instr.issuer : Instr → Option Eng
  | .lds e .. | .sts e .. | .hld e .. | .hst e .. | .push e .. | .pushr e .. | .fence e .. | .ard e .. | .wtick e
  | .aclr e .. | .tld e .. | .hclr e .. | .hput e .. | .fmrg e .. | .cgat e .. | .vadd e .. | .vsub e .. | .vmul e ..
  | .vmin e .. | .vmax e .. | .vabsd e .. | .vaddk e .. | .vmulk e .. | .vclamp e .. | .vcvt e .. | .vsel e ..
  | .vcmp e .. | .mapc e .. | .lut e .. | .luti e .. | .k1d e .. | .k1v e .. | .k2d e .. | .rs e .. | .flat e ..
  | .dpr e .. | .xmrg e .. | .cmat e .. | .scor e .. | .thr e .. | .morph e .. | .lbl e .. | .feat e .. | .stat e ..
  | .hist e .. | .crc e .. | .pred e .. | .upred e .. | .gsel e .. | .gput e .. | .gdec e .. => some e
  | _ => none

/-- One byte of an engine's scratch. -/
def scrByte (x : Engine) (a : Nat) : Byte := look (fun _ => (0 : Byte)) x.scratch a

/-- One byte of the hub. -/
def hubByte (s : State) (a : Nat) : Byte := look (fun _ => (0 : Byte)) s.hub a

/-- One byte of host memory as the module has written it. -/
def hostByte (s : State) (a : Nat) : Byte := look (fun _ => (0 : Byte)) s.host a

/-- Byte `i` of a word. -/
def byteOf (w : Word) (i : Nat) : Byte := BitVec.ofNat 8 (w.toNat / 256 ^ i)

/-- The core continues at the next instruction: where that place ends a loop body, at the start of the next iteration or, after
the last, behind the loop (R43). -/
def Continues (e : Nat) (s t : State) : Prop :=
  ((t.eng e).pc, (t.eng e).loops) = loopNext ((s.eng e).pc + 1) (s.eng e).loops

/-- The instruction has run its charge, the core continues, and nothing else has changed (R40). -/
def NoEffect (e cost : Nat) (s t : State) : Prop :=
  OnlyEngine e s t ∧ Continues e s t ∧ (t.eng e).run = (s.eng e).run + cost ∧
    { t.eng e with pc := (s.eng e).pc, loops := (s.eng e).loops, run := (s.eng e).run } = s.eng e

/-- The hub address of word `k` of a producer's lane of a chain (R340). -/
def laneAddr (s : State) (c u k : Nat) : Nat := s.chainLaneBase c u + 8 * (k % s.share c)

/-- A producer's lane lies in the user region, below the capacity in service, and the chain's class is not TC0. -/
def LaneInHub (s : State) (c u : Nat) : Prop :=
  userBase ≤ s.chainLaneBase c u ∧ s.chainLaneBase c u + 8 * s.share c ≤ s.capacity ∧ s.chainClass c ≠ 0

/-- An area of the hub that is filled in a ring lies in the user region, below the capacity in service, and place `k` in it. -/
def AreaInHub (s : State) (r : HubArea) (k : Nat) : Prop := userBase ≤ r.base ∧ r.base + 8 * r.words ≤ s.capacity ∧ k < r.words

/-- The hub address of word `k` of such an area. -/
def wordAddr (r : HubArea) (k : Nat) : Nat := r.base + 8 * (k % r.words)

/-- The eight bytes of a word lie in the hub from an address. -/
def WordAt (t : State) (a : Nat) (w : Word) : Prop := ∀ i < 8, hubByte t (a + i) = byteOf w i

/-- The register fields an event itself moves: the head of the black box, whether it has wrapped, and the length of the
log queue (R389, R390). -/
def eventFlds : List Fld := [Rf.MGT_BBOX_HEAD, Rf.MGT_BBOX_WRAPPED, Rf.MGT_LOG_QUEUE]

/-- Of the whole state only these register fields may differ. -/
def FieldsOnly (fs : List Fld) (s t : State) : Prop :=
  { t with regs := s.regs } = s ∧ ∀ f, (∀ g ∈ fs, f.key ≠ g.key) → t.rf f = s.rf f

/-- The state `t` with what raising events changes taken from `s`. -/
def withEvents (s t : State) : State :=
  { t with evq := s.evq, evSeq := s.evSeq, evLost := s.evLost, bbox := s.bbox, logq := s.logq, logCoal := s.logCoal,
           stamps := s.stamps }

/-- Of the whole state only these register fields, and what raising events changes, may differ. -/
def FieldsAndEvents (fs : List Fld) (s t : State) : Prop :=
  { withEvents s t with regs := s.regs } = s ∧ ∀ f, (∀ g ∈ fs ++ eventFlds, f.key ≠ g.key) → t.rf f = s.rf f

/-- The event queue has gained an event of this code and these details, made at this time and band. -/
def Raised (s t : State) (code a0 a1 a2 : Nat) : Prop :=
  ∃ ev ∈ t.evq.drop s.evq.length, ev.code = code ∧ ev.a0 = a0 ∧ ev.a1 = a1 ∧ ev.a2 = a2

/-- A counter has moved on by one, or rests at its largest value. -/
def Counted (f : Fld) (s t : State) : Prop := t.rf f = min (s.rf f + 1) (2 ^ f.width - 1)

/-- No lane alteration of R438 is in force. -/
def NoAlteration (s : State) : Prop := ∀ i < 4, s.rf (Rf.TST_LANE_EN i) = 0

/-- Lane `l` alone carries port `p`, which is up; it is in AM_LOCK and nothing waits in its buffer. -/
def SingleLane (s : State) (p l : Nat) : Prop :=
  s.portOf l = some p ∧ s.portUp p = true ∧ s.rf (Rf.SPK_PCFG_WIDTH p) = 0 ∧ s.stripe p = 1 ∧ s.locked l = true ∧
    s.rf (Rf.SPK_LN_STAT_LANE_ID l) = 0 ∧ s.rf (Rf.SPK_LN_STAT_LOST l) = 0 ∧ (s.lane l).fifo = [] ∧ (s.port p).rr = 0 ∧
    (s.port p).discard = false ∧ NoAlteration s

/-- No open line of port `p` has met its timeout by a count (R147). -/
def LineFresh (s : State) (p c : Nat) : Prop :=
  ∀ o, (s.port p).line = some o → c < o.since + s.rf (Rf.SPK_PTMO_LINE_TMO_US p) * 1250

/-- Of the register fields only the self-refresh flags of channels may differ (R321). -/
def SrOnly (s t : State) : Prop := ∀ f : Fld, (∀ k, f.key ≠ (Rf.HUB_CH_STAT_SR k).key) → t.rf f = s.rf f

/-- No item waits for an output and no datagram is being built. -/
def OutputsQuiet (s : State) : Prop := s.out.hands = [] ∧ s.out.hdrs = [] ∧ ∀ st, (s.str st).build = []

/-- An event of this code and first detail waits in the queue. -/
def Told (t : State) (code a0 : Nat) : Prop := ∃ ev ∈ t.evq, ev.code = code ∧ ev.a0 = a0

/-- The TAG of a command of the mailbox (Table 14.6). -/
def Instr.mailboxTag : Instr → Option (BitVec 16)
  | .info tag | .logRead tag _ _ | .bboxRead tag _ _ | .updBegin tag _ | .updData tag _ _ | .updVerify tag
  | .updActivate tag | .updConfirm tag | .mgtRestart tag | .boardWrite tag _ | .ptpSet tag _ | .ptpStatus tag
  | .netSet tag _ => some tag
  | _ => none

/-- The event queue and the log queue hold no more than they may, and the memories their canonical form. -/
def QueuesAndMemories (s : State) : Prop := s.evq.length ≤ 1024 ∧ s.logq.length ≤ 4096 ∧ MemoryOk s

end Sys2Proof
end

