-- ==== Sys2Proof/Certificates/Slice0/Obligations.lean ====
section
/-! DEFINITION. The statements for the provers. -/

section
open Sys2Proof Sys2Proof.Machine

/-! ### The step and the state after reset -/

/-- With a command at the front of its queue the block carries out that command on the state with the rest of the
queue. -/
def Obligations.StepRunsTheFrontCommand : Prop :=
  ∀ (c : Instr) (rest : List Instr) (s : State), s.pending = c :: rest → step s = exec c { s with pending := rest }

/-! ### The scalar core (2.3) -/

/-- R42 with Table 2.5: the register-form operations of the core, a register result for every operand; a guard that
reads 0 leaves the destination as it was (R40), and every other scalar and piece of state is left alone. -/
def Obligations.ScalarRegisterOps : Prop :=
  ∀ (e : Eng) (g : BitVec 4) (d a b : BitVec 6) (s : State), s.runs e = true →
    let A := (s.eng e).s a
    let B := (s.eng e).s b
    ∀ p ∈ ([(.add e g d a b, A + B), (.sub e g d a b, A - B), (.and e g d a b, A &&& B), (.or e g d a b, A ||| B),
        (.xor e g d a b, A ^^^ B), (.shl e g d a b, A <<< (B.toNat % 64)), (.shr e g d a b, A >>> (B.toNat % 64)),
        (.sar e g d a b, A.sshiftRight (B.toNat % 64)), (.mul e g d a b, A * B),
        (.mulh e g d a b, BitVec.ofInt 64 ((A.toInt * B.toInt) / 2 ^ 64)),
        (.mulhu e g d a b, BitVec.ofNat 64 ((A.toNat * B.toNat) / 2 ^ 64)),
        (.min e g d a b, if A.toInt ≤ B.toInt then A else B), (.max e g d a b, if A.toInt ≤ B.toInt then B else A),
        (.minu e g d a b, if A.toNat ≤ B.toNat then A else B), (.maxu e g d a b, if A.toNat ≤ B.toNat then B else A),
        (.adds e g d a b, BitVec.ofInt 64 (max (-2 ^ 63) (min (2 ^ 63 - 1) (A.toInt + B.toInt)))),
        (.subs e g d a b, BitVec.ofInt 64 (max (-2 ^ 63) (min (2 ^ 63 - 1) (A.toInt - B.toInt)))),
        (.clz e g d a, if A = 0 then 64 else BitVec.ofNat 64 (63 - Nat.log2 A.toNat)),
        (.popc e g d a, BitVec.ofNat 64 ((List.range 64).filter (fun i => A.getLsbD i)).length)] :
        List (Instr × Word)),
      Gives p.1 s (fun t => Continues e s t ∧
        ScalarNext e d (if (s.eng e).guard g then p.2 else (s.eng e).s d) 1 s t)

/-- R42 with Table 2.6: the immediate forms. The 34-bit immediate is sign-extended, but for clamp's, which is unsigned;
ext and ins take a field of 1 to 64 bits (R41). -/
def Obligations.ScalarImmediateOps : Prop :=
  ∀ (e : Eng) (d a n pos : BitVec 6) (len : BitVec 7) (imm : BitVec 34) (h : BitVec 30) (s : State),
    s.runs e = true →
    let A := (s.eng e).s a
    let D := (s.eng e).s d
    let K : Word := imm.signExtend 64
    (∀ p ∈ ([(.addi e d a imm, A + K), (.andi e d a imm, A &&& K), (.ori e d a imm, A ||| K), (.xori e d a imm, A ^^^ K),
        (.muli e d a imm, A * K), (.mini e d a imm, if A.toInt ≤ K.toInt then A else K),
        (.maxi e d a imm, if A.toInt ≤ K.toInt then K else A), (.movi e d imm, K),
        (.clamp e d a imm, BitVec.ofInt 64 (max 0 (min (imm.toNat : Int) A.toInt))),
        (.shli e d a n, A <<< n.toNat), (.shri e d a n, A >>> n.toNat), (.sari e d a n, A.sshiftRight n.toNat)] :
        List (Instr × Word)), Gives p.1 s (fun t => Continues e s t ∧ ScalarNext e d p.2 1 s t)) ∧
    Gives (.sethi e d a h) s (fun t => Continues e s t ∧
      ScalarNext e d (BitVec.ofNat 64 (A.toNat % 2 ^ 34 + h.toNat * 2 ^ 34)) 1 s t) ∧
    (1 ≤ len.toNat → len.toNat ≤ 64 → Gives (.ext e d a pos len) s (fun t => Continues e s t ∧
      ScalarNext e d (BitVec.ofNat 64 (A.toNat / 2 ^ pos.toNat % 2 ^ len.toNat)) 1 s t)) ∧
    (1 ≤ len.toNat → pos.toNat + len.toNat ≤ 64 → Gives (.ins e d a pos len) s (fun t => Continues e s t ∧
      ∃ v : Word, ScalarNext e d v 1 s t ∧ ∀ i < 64, v.getLsbD i =
        if pos.toNat ≤ i ∧ i < pos.toNat + len.toNat then A.getLsbD (i - pos.toNat) else D.getLsbD i))

/-- Table 2.7: the comparisons set their predicate, for a register and for a sign-extended immediate; a guard that
reads 0 leaves it unchanged; and the predicate logic. p0 takes no write. -/
def Obligations.PredicateOps : Prop :=
  ∀ (e : Eng) (g : BitVec 4) (pd pa pb : BitVec 3) (a b : BitVec 6) (imm : BitVec 34) (v : Bool) (s : State),
    s.runs e = true →
    let A := (s.eng e).s a
    let B := (s.eng e).s b
    let K : Word := imm.signExtend 64
    let P := (s.eng e).p pa
    let Q := (s.eng e).p pb
    (∀ p ∈ ([(.cmpEq e g pd a b, decide (A = B)), (.cmpNe e g pd a b, decide (A ≠ B)),
        (.cmpLt e g pd a b, decide (A.toInt < B.toInt)), (.cmpLtu e g pd a b, decide (A.toNat < B.toNat)),
        (.cmpLe e g pd a b, decide (A.toInt ≤ B.toInt)), (.cmpLeu e g pd a b, decide (A.toNat ≤ B.toNat))] :
        List (Instr × Bool)), Gives p.1 s (fun t => Continues e s t ∧
          PredNext e pd (if (s.eng e).guard g then p.2 else (s.eng e).p pd) 1 s t)) ∧
    ∀ p ∈ ([(.cmpiEq e pd a imm, decide (A = K)), (.cmpiNe e pd a imm, decide (A ≠ K)),
        (.cmpiLt e pd a imm, decide (A.toInt < K.toInt)), (.cmpiLtu e pd a imm, decide (A.toNat < K.toNat)),
        (.cmpiLe e pd a imm, decide (A.toInt ≤ K.toInt)), (.cmpiLeu e pd a imm, decide (A.toNat ≤ K.toNat)),
        (.pand e pd pa pb, P && Q), (.por e pd pa pb, P || Q), (.pxor e pd pa pb, P != Q), (.pandn e pd pa pb, P && !Q),
        (.pset e pd v, v)] : List (Instr × Bool)), Gives p.1 s (fun t => Continues e s t ∧ PredNext e pd p.2 1 s t)

/-- Table 2.8: rd of each special register; selectors 7 to 10 read the indexes of the open loops, outermost first, and
0 for a level that is not open; and nop changes nothing but the run cycles. -/
def Obligations.SpecialRegisters : Prop :=
  ∀ (e : Eng) (d : BitVec 6) (sel : BitVec 8) (s : State), s.runs e = true →
    let x := s.eng e
    (∀ p ∈ ([(0, BitVec.ofNat 64 x.tok.band), (1, BitVec.ofNat 64 x.tok.gear), (2, BitVec.ofNat 64 (s.rf (Rf.ENG_ROLE_UNIT e))),
        (3, x.tok.enc), (4, x.tok.time), (5, x.tok.setref), (6, BitVec.ofNat 64 (s.rf Rf.CAD_GEOM_HEIGHT)),
        (7, BitVec.ofNat 64 ((x.loops.reverse[0]?.map (·.idx)).getD 0)), (8, BitVec.ofNat 64 ((x.loops.reverse[1]?.map (·.idx)).getD 0)),
        (9, BitVec.ofNat 64 ((x.loops.reverse[2]?.map (·.idx)).getD 0)),
        (10, BitVec.ofNat 64 ((x.loops.reverse[3]?.map (·.idx)).getD 0))] : List (Nat × Word)),
      sel.toNat = p.1 → Gives (.rd e d sel) s (fun t => Continues e s t ∧ ScalarNext e d p.2 1 s t)) ∧
    Gives (.nop e) s (fun t => Continues e s t ∧ ScalarNext e d (x.s d) 1 s t)

/-- R43: a taken br continues OFF instructions on, one not taken at the next; loop and loopr run their body of LEN
instructions the stated number of times, none skips it; loopr's number is the smaller of A and M and its predicate says
that A was above M, which CLAMP_CNT counts. Each completes in every loop nest: where the place it goes on to ends a
loop body, the loop begins its next iteration or, after its last, is left, and the loop around it is asked in turn.
Model's choices: log 41. -/
def Obligations.BranchesAndLoops : Prop :=
  ∀ (e : Eng) (g : BitVec 4) (off len : BitVec 14) (n : BitVec 20) (pd : BitVec 3) (a : BitVec 6) (s : State),
    s.runs e = true →
    let x := s.eng e
    let at' (t : State) : Nat × List LoopFrame := ((t.eng e).pc, (t.eng e).loops)
    (1 ≤ off.toNat → Gives (.br e g off) s (fun t => OnlyEngine e s t ∧
      { t.eng e with pc := x.pc, loops := x.loops, run := x.run } = x ∧ (t.eng e).run = x.run + 1 ∧
      at' t = loopNext (if x.guard g then x.pc + off.toNat else x.pc + 1) x.loops)) ∧
    Gives (.loop e n len) s (fun t => OnlyEngine e s t ∧
      { t.eng e with pc := x.pc, loops := x.loops, run := x.run } = x ∧ (t.eng e).run = x.run + 2 ∧
      at' t = if n = 0 ∨ len = 0 then loopNext (x.pc + 1 + len.toNat) x.loops
        else (x.pc + 1, ⟨x.pc + 1, len.toNat, n.toNat, 0⟩ :: x.loops)) ∧
    Gives (.loopr e pd a n len) s (fun t =>
      let k := min (x.s a).toNat n.toNat
      let cut := decide (n.toNat < (x.s a).toNat)
      (t.eng e).run = x.run + 2 ∧ (∀ r, (t.eng e).p r = if r = pd ∧ pd ≠ 0 then cut else x.p r) ∧
      { t.eng e with preds := x.preds, pc := x.pc, loops := x.loops, run := x.run } = x ∧
      at' t = (if k = 0 ∨ len = 0 then loopNext (x.pc + 1 + len.toNat) x.loops
        else (x.pc + 1, ⟨x.pc + 1, len.toNat, k, 0⟩ :: x.loops)) ∧
      (∀ f, f.key ≠ (Rf.ENG_CLAMP_CLAMP_CNT e).key → t.rf f = s.rf f) ∧
      t.rf (Rf.ENG_CLAMP_CLAMP_CNT e) = (if cut then min (s.rf (Rf.ENG_CLAMP_CLAMP_CNT e) + 1) (2 ^ (Rf.ENG_CLAMP_CLAMP_CNT e).width - 1)
        else s.rf (Rf.ENG_CLAMP_CLAMP_CNT e)) ∧
      { t with engines := s.engines, regs := s.regs } = s ∧ ∀ k, k ≠ e.val → t.eng k = s.eng k) ∧
    ∀ (pc : Nat) (f : LoopFrame) (fs : List LoopFrame), loopNext pc [] = (pc, []) ∧
      (pc ≠ f.start + f.len → loopNext pc (f :: fs) = (pc, f :: fs)) ∧
      (pc = f.start + f.len → f.idx + 1 < f.count → loopNext pc (f :: fs) = (f.start, { f with idx := f.idx + 1 } :: fs)) ∧
      (pc = f.start + f.len → f.count ≤ f.idx + 1 → loopNext pc (f :: fs) = loopNext pc fs)

/-- R41 and R82: a word with a field outside the range its instruction states is undefined; the model gives it no
effect and stops on it by name. On nothing else does a command stop: every other word of an instruction, and every
command that is no instruction, completes in every state, whatever its operands. Model's choices: logs 39 and 40. -/
def Obligations.UndefinedWords : Prop :=
  (∀ (e : Eng) (d a : BitVec 6) (pos : BitVec 6) (len : BitVec 7) (s : State),
    (len = 0 ∨ 64 < len.toNat → exec (.ext e d a pos len) s = .refused (.undefinedWord "EXT")) ∧
    (len = 0 ∨ 64 < pos.toNat + len.toNat → exec (.ins e d a pos len) s = .refused (.undefinedWord "INS"))) ∧
  (∀ (e : Eng) (g : BitVec 4) (s : State), exec (.br e g 0) s = .refused (.undefinedWord "BR")) ∧
  (∀ (e : Eng) (d : BitVec 6) (sel : BitVec 8) (s : State), 10 < sel.toNat →
    exec (.rd e d sel) s = .refused (.undefinedWord "RD")) ∧
  (∀ (e : Eng) (g : BitVec 4) (d : BitVec 6) (aa f : BitVec 3) (s : State), 4 < f.toNat →
    exec (.ard e g d aa f) s = .refused (.undefinedWord "ARD")) ∧
  (∀ (e : Eng) (x : StreamImm) (d a b m : BitVec 4) (t : BitVec 2) (k : BitVec 6) (sh : BitVec 4) (sh5 : BitVec 5)
      (pen men : Bool) (s : State),
    (12 < sh.toNat → exec (.lut e x d a t sh) s = .refused (.undefinedWord "LUT") ∧
      exec (.luti e x d a t sh) s = .refused (.undefinedWord "LUTI")) ∧
    (t = 3 → exec (.k1v e x d a k t) s = .refused (.undefinedWord "K1V") ∧
      exec (.thr e x d a k t) s = .refused (.undefinedWord "THR")) ∧
    (12 < b.toNat ∨ 8 < m.toNat → exec (.xmrg e x d a k sh b m) s = .refused (.undefinedWord "XMRG")) ∧
    (24 < sh5.toNat → exec (.scor e x d a b sh5 m pen sh men) s = .refused (.undefinedWord "SCOR")) ∧
    (b = 0 ∨ 12 < b.toNat → exec (.hist e x a b sh m men) s = .refused (.undefinedWord "HIST"))) ∧
  ∀ (i : Instr) (s : State), i.wf = true → Completes i s

/-- Table 3.2 and Table 3.5: the descriptor instructions. dfmt replaces bits 63 to 41; dadv moves the 40-bit address by
R strides, modulo 2^40, and leaves the other bits. -/
def Obligations.DescriptorOps : Prop :=
  ∀ (e : Eng) (g : BitVec 4) (dd : BitVec 4) (a d : BitVec 6) (r : BitVec 16) (w : Bool) (s : State), s.runs e = true →
    let x := s.eng e
    let A := x.s a
    let D := x.d dd
    let on (v : Desc) : Desc := if x.guard g then v else D
    Gives (.dlo e g dd a) s (fun t => Continues e s t ∧ DescNext e dd (on ⟨A, D.w1⟩) 1 s t) ∧
    Gives (.dhi e g dd a) s (fun t => Continues e s t ∧ DescNext e dd (on ⟨D.w0, A⟩) 1 s t) ∧
    Gives (.dfmt e g dd a) s (fun t => Continues e s t ∧ DescNext e dd
      (on ⟨BitVec.ofNat 64 (A.toNat / 2 ^ 41 * 2 ^ 41 + D.w0.toNat % 2 ^ 41), D.w1⟩) 1 s t) ∧
    Gives (.dadv e g dd r) s (fun t => Continues e s t ∧ ∃ v : Desc, DescNext e dd (on v) 1 s t ∧ v.w1 = D.w1 ∧
      v.w0.toNat / 2 ^ 40 = D.w0.toNat / 2 ^ 40 ∧
      ((v.addr : Int) - (D.addr + r.toInt * (D.w1.setWidth 32).toInt)) % 2 ^ 40 = 0) ∧
    Gives (.dget e g d dd w) s (fun t => Continues e s t ∧
      ScalarNext e d (if x.guard g then (if w then D.w1 else D.w0) else x.s d) 1 s t)

/-! ### Scratch, the hub and the chains seen from an engine (2.3, 12.2, 12.3) -/

/-- R47: lds reads the eight bytes from (A + IMM) with bits [2:0] forced to 0, the sum modulo 2^64; at or above 4 MiB
it reads 0 and counts a scratch violation. A guard that reads 0 leaves the scalar. sts stores the eight bytes of its
scalar at such an address and changes no other byte; a store into the constant region, or at or above 4 MiB, changes no
byte and counts a scratch violation. With a guard that reads 0 it has no effect, and waits for nothing (R40). -/
def Obligations.ScratchAccesses : Prop :=
  (∀ (e : Eng) (g : BitVec 4) (d a : BitVec 6) (off : BitVec 24) (s : State),
    s.runs e = true → s.waits e (.lds e g d a off) = none →
    let x := s.eng e
    let ad := ((x.s a).toNat + off.toNat) % 2 ^ 64 / 8 * 8
    let v := Rf.ENG_CLAMP_SCR_VIOL e
    (x.guard g = true → ad < 0x400000 → Gives (.lds e g d a off) s (fun t => Continues e s t ∧
      ∃ w : Word, ScalarNext e d w 2 s t ∧ ∀ i < 8, byteOf w i = scrByte x (ad + i))) ∧
    (x.guard g = true → 0x400000 ≤ ad → Gives (.lds e g d a off) s (fun t =>
      (∀ r, (t.eng e).s r = if r = d then 0 else x.s r) ∧ (t.eng e).scratch = x.scratch ∧
      t.rf v = min (s.rf v + 1) (2 ^ v.width - 1) ∧ (∀ f, f.key ≠ v.key → t.rf f = s.rf f) ∧
      { t with engines := s.engines, regs := s.regs } = s)) ∧
    (x.guard g = false → Gives (.lds e g d a off) s (fun t => Continues e s t ∧ ScalarNext e d (x.s d) 2 s t))) ∧
  ∀ (e : Eng) (g : BitVec 4) (b a : BitVec 6) (off : BitVec 24) (s : State), s.runs e = true →
    ((s.eng e).guard g = false → Gives (.sts e g b a off) s (NoEffect e 2 s)) ∧
    (s.waits e (.sts e g b a off) = none → (s.eng e).guard g = true →
    let x := s.eng e
    let ad := ((x.s a).toNat + off.toNat) % 2 ^ 64 / 8 * 8
    let v := Rf.ENG_CLAMP_SCR_VIOL e
    (ad < 0x400000 → s.inConst e ad = false → Gives (.sts e g b a off) s (fun t =>
      OnlyEngine e s t ∧ Continues e s t ∧ (t.eng e).run = x.run + 2 ∧
      (∀ k, scrByte (t.eng e) k = if ad ≤ k ∧ k < ad + 8 then byteOf (x.s b) (k - ad) else scrByte x k) ∧
      { t.eng e with scratch := x.scratch, pc := x.pc, loops := x.loops, run := x.run } = x)) ∧
    (0x400000 ≤ ad ∨ s.inConst e ad = true → Gives (.sts e g b a off) s (fun t =>
      t.rf v = min (s.rf v + 1) (2 ^ v.width - 1) ∧ (∀ f, f.key ≠ v.key → t.rf f = s.rf f) ∧
      { t.eng e with pc := x.pc, loops := x.loops, run := x.run } = x ∧
      { t with engines := s.engines, regs := s.regs } = s)))

/-- R46 to R50, R70, R74 and R76: an instruction that must wait is held with the state it stalls in; it has no other
effect, and the engine has not moved on. An ldw whose line group is not in scratch is held so in state 3; that it was
issued is noted for the lane logic (R171). -/
def Obligations.StalledInstructions : Prop :=
  (∀ (e : Eng) (dd : BitVec 4) (a : BitVec 6) (s : State), s.runs e = true →
    s.groupIn e dd ((s.eng e).s a).toNat = false → Gives (.ldw e dd a) s (fun t =>
      (t.eng e).stalled = some (.ldw e dd a) ∧ t.rf (Rf.ENG_STATUS_STATE e) = 3 ∧
      { t.eng e with stalled := (s.eng e).stalled, stallAt := (s.eng e).stallAt, ldws := (s.eng e).ldws } = s.eng e ∧
      (∀ k, k ≠ e.val → t.eng k = s.eng k) ∧ FieldsOnly [Rf.ENG_STATUS_STATE e] s { t with engines := s.engines })) ∧
  ∀ (i : Instr) (e : Eng) (st : Nat) (s : State), i.issuer = some e → i.wf = true → s.runs e = true →
    s.waits e i = some st → Gives i s (fun t => (t.eng e).stalled = some i ∧ t.rf (Rf.ENG_STATUS_STATE e) = st ∧
      { t.eng e with stalled := (s.eng e).stalled, stallAt := (s.eng e).stallAt } = s.eng e ∧
      (∀ k, k ≠ e.val → t.eng k = s.eng k) ∧ { t with engines := s.engines, regs := s.regs } = s ∧
      ∀ f, f.key ≠ (Rf.ENG_STATUS_STATE e).key → t.rf f = s.rf f)

/-- R48: hld and hst list a copy of rows + 1 rows, of the source run's length in bytes rounded up to 8, with the two
descriptors as they stand; one whose operands are of the wrong kind lists none and counts a scratch violation; one
whose guard reads 0 has no effect (R40). ldw goes on once its line group is in scratch (R49). -/
def Obligations.CopiesIssued : Prop :=
  ∀ (e : Eng) (g : BitVec 4) (dd da : BitVec 4) (rows : BitVec 12) (a : BitVec 6) (s : State), s.runs e = true →
    let x := s.eng e
    let v := Rf.ENG_CLAMP_SCR_VIOL e
    (∀ p ∈ ([(.hld e g dd da rows, CopyKind.hld, (x.d da).inHub && !(x.d dd).inHub),
             (.hst e g dd da rows, CopyKind.hst, !(x.d da).inHub && (x.d dd).inHub)] : List (Instr × CopyKind × Bool)),
      (x.guard g = false → Gives p.1 s (NoEffect e 4 s)) ∧
      (s.waits e p.1 = none → x.guard g = true →
      (p.2.2 = true → (x.d da).fmt = (x.d dd).fmt → Gives p.1 s (fun t => OnlyEngine e s t ∧ Continues e s t ∧
        (t.eng e).run = x.run + 4 ∧ (t.eng e).scratch = x.scratch ∧ ∃ c : Copy, (t.eng e).copies = x.copies ++ [c] ∧
        c.kind = p.2.1 ∧ c.src = x.d da ∧ c.dst = x.d dd ∧ c.rows = rows.toNat + 1 ∧
        c.bytes = (((x.d da).len + 1) * fmtBits (x.d da).fmt + 63) / 64 * 8)) ∧
      (p.2.2 = false ∨ (x.d da).fmt ≠ (x.d dd).fmt → Gives p.1 s (fun t => (t.eng e).copies = x.copies ∧
        t.rf v = min (s.rf v + 1) (2 ^ v.width - 1) ∧ { t with engines := s.engines, regs := s.regs } = s)))) ∧
    (s.groupIn e da (x.s a).toNat = true → Gives (.ldw e da a) s (fun t => OnlyEngine e s t ∧ Continues e s t ∧
      (t.eng e).run = x.run + 2 ∧ (t.eng e).scratch = x.scratch ∧ ∀ r, (t.eng e).s r = x.s r))

/-- R48, R74 and R108: a copy that completes leaves the list. An hld writes its rows of scratch with the bytes of the
hub, where a store may reach, and no byte of the hub; an hst writes its rows of the user region with the bytes of
scratch, and no byte of scratch; a cgat writes the elements of its crop, 0 beyond the ring line. The bytes are stated
where no later row of the copy lies over them and no codeword is in error. Stated with the core running, nothing else
queued and no transfer altered by a test (R439). Model's choices: log 10. -/
def Obligations.CopiesComplete : Prop :=
  ∀ (e : Eng) (k : Nat) (c : Copy) (s : State), (s.eng e).copies[k]? = some c → c.after = [] →
    s.hubU.on = true → s.mode ≠ 0 → s.mode ≠ 5 → s.copyFree e c = true → (s.eng e).fab = none →
    (s.eng e).stalled = none → (s.eng e).queue = [] →
    Gives (.copyComplete e k) s (fun t =>
      (∀ d ∈ (t.eng e).copies, d.seq ≠ c.seq) ∧
      (c.kind = .hld → (∀ a, hubByte t a = hubByte s a) ∧
        ∀ a, (∀ i < c.rows, ¬ (c.dst.row i ≤ a ∧ a < c.dst.row i + c.bytes)) → scrByte (t.eng e) a = scrByte (s.eng e) a) ∧
      (c.kind = .hst → (t.eng e).scratch = (s.eng e).scratch ∧
        ∀ a, (∀ i < c.rows, ¬ (c.dst.row i ≤ a ∧ a < c.dst.row i + c.bytes)) → hubByte t a = hubByte s a) ∧
      (s.hubU.errs = [] → ∀ i < c.rows, ∀ j < c.bytes, let a := c.dst.row i + j
        (∀ k < c.rows, i < k → ¬ (c.dst.row k ≤ a ∧ a < c.dst.row k + c.bytes)) →
        (c.kind = .hld → scrByte (t.eng e) a = if (s.limits e).open a then
            (if c.src.row i + j < s.capacity then hubByte s (c.src.row i + j) else 0) else scrByte (s.eng e) a) ∧
        (c.kind = .hst → hubByte t a = if userBase ≤ a ∧ a < s.capacity then scrByte (s.eng e) (c.src.row i + j)
          else hubByte s a)) ∧
      (c.kind = .cgat → c.bytes = runBytes c.src.fmt c.w → (∀ a, hubByte t a = hubByte s a) ∧
        (∀ a, (∀ i < c.rows, ¬ (c.dst.row i ≤ a ∧ a < c.dst.row i + c.bytes)) → scrByte (t.eng e) a = scrByte (s.eng e) a) ∧
        (s.hubU.errs = [] → c.src.fmt ≤ 2 → ∀ i < c.rows, ∀ k < c.w,
          let line := c.src.row ((c.line0 + i) % c.ring : Nat)
          let b := fmtBits c.src.fmt
          (∀ r < c.rows, i < r → c.dst.row r + c.bytes ≤ c.dst.row i ∨ c.dst.row i + c.bytes ≤ c.dst.row r) →
          (∀ j < c.bytes, (s.limits e).open (c.dst.row i + j) = true) → line + runBytes c.src.fmt (c.src.len + 1) ≤ s.capacity →
          elemRaw (t.eng e).scratch (c.dst.row i) b k = if c.src.len < c.x0 + k then 0 else elemRaw s.hub line b (c.x0 + k))))

/-- R46, R340 and R342: a push adds its words to the open packet of the engine's unit on the chain of its handle, at
the next places of the unit's lane in the hub, and writes no other byte of the hub; commit makes the packet visible
whole behind every earlier one; rewind gives it back. The chain is enabled and takes the unit's pushes, its lane lies
in the user region, and no re-run or notice is in force. With a guard that reads 0 none of the four has an effect
(R40). -/
def Obligations.PushCommitRewind : Prop :=
  ∀ (e : Eng) (g q : BitVec 4) (a : BitVec 6) (s : State), s.runs e = true →
    ((s.eng e).guard g = false →
      ∀ p ∈ ([(.push e g q a, 1), (.pushr e g q a, 4), (.commit e g q, 2), (.rewind e g q, 2)] : List (Instr × Nat)),
        Gives p.1 s (NoEffect e p.2 s)) ∧
    ((s.eng e).guard g = true →
    let x := s.eng e
    let c := s.handle e q
    let u := s.unitOf e
    let o := (s.chain c).openOf u
    let others (t : State) : Prop := (∀ k, k ≠ c → t.chain k = s.chain k) ∧ ∀ k, k ≠ e.val → t.eng k = s.eng k
    let pushed (t : State) (n cost : Nat) : Prop := others t ∧ SrOnly s t ∧ (t.eng e).run = x.run + cost ∧
      (t.chain c).items = (s.chain c).items ∧ (t.chain c).openOf u = { o with n := o.n + n } ∧
      ∀ b, (∀ i < n, b < laneAddr s c u (o.start + o.n + i) ∨ laneAddr s c u (o.start + o.n + i) + 8 ≤ b) →
        hubByte t b = hubByte s b
    s.chainEn c = true → s.isProducer c u = true →
    (LaneInHub s c u → s.waits e (.push e g q a) = none → s.pushOver c u 1 = false → Gives (.push e g q a) s (fun t =>
      pushed t 1 1 ∧ WordAt t (laneAddr s c u (o.start + o.n)) (x.s a))) ∧
    (LaneInHub s c u → s.waits e (.pushr e g q a) = none → (x.s a).toNat % 64 = 0 → (x.s a).toNat < 0x400000 →
      s.pushOver c u 8 = false → Gives (.pushr e g q a) s (fun t => pushed t 8 4 ∧
        ∀ i < 64, hubByte t (laneAddr s c u (o.start + o.n + i / 8) + i % 8) = scrByte x ((x.s a).toNat + i))) ∧
    (o.n ≠ 0 → (s.wu u).rerun = none → s.rf (Rf.CHN_CFG_NOTICE c) = 0 → Gives (.commit e g q) s (fun t => others t ∧
      t.hub = s.hub ∧ t.regs = s.regs ∧ (t.eng e).run = x.run + 2 ∧
      (t.chain c).openOf u = { start := (o.start + o.n) % s.share c } ∧
      ∃ l : List ChItem, (t.chain c).items = (s.chain c).items ++ l ∧ l.length = o.n ∧
        ∀ i < o.n, l[i]? = some ⟨u, (o.start + i) % s.share c, decide (i + 1 = o.n)⟩)) ∧
    Gives (.rewind e g q) s (fun t => others t ∧ t.hub = s.hub ∧ t.regs = s.regs ∧ (t.eng e).run = x.run + 2 ∧
      (t.chain c).items = (s.chain c).items ∧ (t.chain c).openOf u = { start := o.start }))

/-- R45, R46 and R349: pop takes the next word of the band's snapshot, which lies in the hub, and once none is left
reads the idle item and takes nothing; cnt reads what is left of the snapshot and cred the credit not yet spent; none
of the three has an effect where its guard reads 0 (R40). Model's choices: log 52. -/
def Obligations.PopCountCredit : Prop :=
  ∀ (e : Eng) (g q : BitVec 4) (d : BitVec 6) (s : State), s.runs e = true →
    ((s.eng e).guard g = false →
      ∀ p ∈ ([(.pop e g d q, 4), (.cnt e g d q, 1), (.cred e g d q, 1)] : List (Instr × Nat)), Gives p.1 s (NoEffect e p.2 s)) ∧
    ((s.eng e).guard g = true →
    let x := s.eng e
    let c := s.handle e q
    let ch := s.chain c
    (s.chainEn c = true → s.rf (Rf.CHN_CFG_CONS c) = s.unitOf e →
      (∀ i, s.waits e (.pop e g d q) = none → (x.view c).snap ≠ 0 → ch.items[ch.gone]? = some i →
        LaneInHub s c i.ep → i.slot < s.share c → s.hubU.errs = [] → Gives (.pop e g d q) s (fun t =>
        ∃ w : Word, (∀ k < 8, byteOf w k = hubByte s (laneAddr s c i.ep i.slot + k)) ∧
        (∀ r, (t.eng e).s r = if r = d ∧ d ≠ 0 then w else x.s r) ∧ (t.eng e).run = x.run + 4 ∧
        (t.chain c).gone = ch.gone + 1 ∧ (t.chain c).items = ch.items ∧ ((t.eng e).view c).snap = (x.view c).snap - 1 ∧
        (∀ k, k ≠ c → t.chain k = s.chain k) ∧ SrOnly s t ∧ t.hub = s.hub)) ∧
      ((x.view c).snap = 0 → Gives (.pop e g d q) s (fun t => Continues e s t ∧
        ScalarNext e d (BitVec.ofNat 64 (0x1D1E000000000000 + c)) 4 s t))) ∧
    Gives (.cnt e g d q) s (fun t => Continues e s t ∧ ScalarNext e d (BitVec.ofNat 64 (x.view c).snap) 1 s t) ∧
    Gives (.cred e g d q) s (fun t => Continues e s t ∧
      ScalarNext e d (BitVec.ofNat 64 ((x.view c).credit - (x.view c).pushed)) 1 s t))

/-! ### The stream instructions (3.1 to 3.5) -/

/-- R70, R71 and R83: a stream or fixed-cost instruction (aclr, tld, hclr, hput, fmrg, cgat, vadd, vsub, vmul, vmin,
vmax, vabsd, vaddk, vmulk, vclamp, vcvt, vsel, vcmp, mapc, lut, luti, k1d, k1v, k2d, rs, flat, dpr, xmrg, cmat, scor,
thr, morph, lbl, feat, stat, hist, crc, pred, upred, gsel, gput, gdec) completes its issue wherever its engine runs and
the queue has room: it enters the issue queue behind every earlier one with the descriptors and scalars as they stand
at issue; the core runs its charge and goes on; a guard that reads 0 enters it too, and then it changes no scratch
byte, accumulator, table or histogram. Every engine but this one, and every chain, is left alone. Model's choices: logs
9, 145 and 146. -/
def Obligations.StreamInstructionsEnter : Prop :=
  ∀ (i : Instr) (e : Eng) (s : State), i.issuer = some e → isQueued i = true → i.wf = true → s.runs e = true →
    (s.eng e).queue.length < 32 →
    let x := s.eng e
    Gives i s (fun t => (t.eng e).queue.length = x.queue.length + 1 ∧ (t.eng e).run = x.run + tileCharge i ∧
      (∃ q, (t.eng e).queue.getLast? = some q ∧ q.i = i ∧ q.on = x.guard (queueGuard i) ∧ q.descs = x.descs ∧
        q.sregs = x.sregs) ∧ (∀ r, (t.eng e).s r = x.s r) ∧ (∀ k, k ≠ e.val → t.eng k = s.eng k) ∧
      t.chains = s.chains ∧ t.hub = s.hub ∧ t.evq = s.evq ∧ Continues e s t ∧
      (x.queue = [] → x.guard (queueGuard i) = false → (t.eng e).scratch = x.scratch ∧ (t.eng e).acc0 = x.acc0 ∧
        (t.eng e).acc1 = x.acc1 ∧ (t.eng e).tabs = x.tabs ∧ (t.eng e).hist0 = x.hist0 ∧ (t.eng e).hist1 = x.hist1 ∧
        t.regs = s.regs))

/-- R70, R71, R81 and 3.4 to 3.5.5: where an engine's queue and copies are empty, an instruction of the tiles that its
guard lets act has its effect as it enters the queue: where R81 accepts it the scratch, accumulators and stores become
those of its tile effect and FMT_VIOL and DPR_MISS grow by what it counts; where R81 does not, nothing of them changes
and FMT_VIOL counts one (that the effect comes at entry is the model's choice, log 9). The tile effect of an
element-wise, lookup, kernel, resampling, correction, score or prediction instruction stores, as element i of its
output, its exact result limited to the format, wherever the output may be stored; those of mapc, dpr, cmat, thr, morph
and upred follow by their own rules. RND takes the nearest integer, halves toward plus infinity. Byte 50 of a kernel
record above 15 is cut to four bits, and PARAM[0] tells upred that there is no previous row (the model's choices, logs
140 and 51). -/
def Obligations.ElementwiseResults : Prop :=
  (∀ (i : Instr) (e : Eng) (s : State), i.issuer = some e → isQueued i = true → i.wf = true → s.runs e = true →
    let x := s.eng e
    let q : QEntry := ⟨x.nextSeq, i, true, x.descs, x.sregs, false, s.count⟩
    let o := tileEffect (s.limits e) q x
    x.queue = [] → x.copies = [] → x.errs = [] → x.guard (queueGuard i) = true → q.waitingCgat = false →
    Gives i s (fun t =>
      let y := t.eng e
      (q.accepted x.scratch = true → y.scratch = o.x.scratch ∧ y.acc0 = o.x.acc0 ∧ y.acc1 = o.x.acc1 ∧ y.tabs = o.x.tabs ∧
        y.hist0 = o.x.hist0 ∧ y.hist1 = o.x.hist1 ∧
        ∀ p ∈ [(Rf.ENG_TILE_FMT_VIOL e, o.fmt), (Rf.ENG_TILE_DPR_MISS e, o.dpr)],
          t.rf p.1 = min (s.rf p.1 + p.2) (2 ^ p.1.width - 1)) ∧
      (q.accepted x.scratch = false → y.scratch = x.scratch ∧ y.acc0 = x.acc0 ∧ y.acc1 = x.acc1 ∧ y.tabs = x.tabs ∧
        y.hist0 = x.hist0 ∧ y.hist1 = x.hist1 ∧ Counted (Rf.ENG_TILE_FMT_VIOL e) s t))) ∧
  (∀ (v : Int) (k : Nat), 2 * (2 ^ k * rnd v k - v) ≤ 2 ^ k ∧ -(2 ^ k : Int) < 2 * (2 ^ k * rnd v k - v)) ∧
  ∀ (l : Limits) (q : QEntry) (x : Engine) (e : Eng) (im : StreamImm) (d a b c : BitVec 4) (k : BitVec 6) (sh5 : BitVec 5)
      (sh6 : BitVec 6) (sh4 sh4' : BitVec 4) (t : BitVec 2) (st : BitVec 3) (f h : Bool),
    let m := x.scratch
    let n := q.n
    let D := q.d d
    let A (i : Nat) : Int := q.el m a i
    let B (i : Nat) : Int := q.el m b i
    let C (i : Nat) : Int := q.el m c i
    let R (r : Int) (i : Nat) : Int := (q.d a).el m r i
    let S := q.s k
    let half (lo : Nat) : Int := toSigned 32 (S / 2 ^ lo % 2 ^ 32)
    let co (i : Nat) : Int := toSigned 16 (readLE m (S + 2 * i) 2)
    let near (n : Nat) (i : Int) : Nat := (max 0 (min ((n : Int) - 1) i)).toNat
    let kern (taps : Nat) (f : Nat → Int) : Int :=
      rnd (∑ i ∈ Finset.range taps, co i * f i) (readLE m (S + 50) 1 % 16) + toSigned 16 (readLE m (S + 52) 2)
    let U (i : Nat) : Nat := (if (q.d a).fmt = 1 then A i + 32768 else A i).toNat
    let T (i : Nat) : Int := elemVal D.fmt (look (fun _ => 0) x.tabs (t.toNat * 4096 + i))
    let pos (j : Nat) : Nat := (readLE m S 8 + j * readLE m (S + 8) 8 + j * (j - 1) / 2 * readLE m (S + 16) 8 +
      j * (j - 1) * (j - 2) / 6 * readLE m (S + 24) 8) % 2 ^ 64
    let rsAt (taps j : Nat) : Int := rnd (∑ i ∈ Finset.range taps,
      toSigned 16 (readLE m (S + 64 + 16 * (pos j / 2 ^ 26 % 64) + 2 * i) 2) *
        A (near ((q.d a).len + 1) (toSigned 64 (pos j) / 2 ^ 32 - (taps / 2 : Nat) + 1 + i))) 14
    let merged (i : Nat) : Int :=
      let L : Nat := (A i).toNat
      let s : Nat := (C i).toNat
      let ratio : Nat := S % 2 ^ 16
      let satlo : Nat := S / 2 ^ 16 % 2 ^ 16
      if satlo ≤ s then 0xFFFF
      else if L < satlo then rnd (L * 256) (8 + sh4'.toNat)
      else if satlo + 2 ^ sh4.toNat ≤ L then rnd (s * ratio) (8 + sh4'.toNat)
      else rnd (rnd (L * 256 * (2 ^ sh4.toNat - (L - satlo)) + s * ratio * (L - satlo)) sh4.toNat) (8 + sh4'.toNat)
    let mean (i : Nat) : Nat := (B i).toNat % 2 ^ 16
    let scale (i : Nat) : Nat := (B i).toNat / 2 ^ 16
    let pre (left : Int) (i : Nat) : Int :=
      let u := if i = 0 then (if f then 0 else B 0) else left
      let v := if f then u else B i
      let w := if f then u else if i = 0 then B 0 else B (i - 1)
      if max u v ≤ w then min u v else if w ≤ min u v then max u v else u + v - w
    let res (i : Nat) : Int := let r := (A i - pre (A (i - 1)) i) % 2 ^ 16
      if r < 2 ^ 15 then 2 * r else 2 * (2 ^ 16 - r) - 1
    let out := (tileEffect l q x).x.scratch
    let lo : Int := if D.fmt = 1 then -32768 else 0
    let hi : Int := if D.fmt = 0 then 65535 else if D.fmt = 1 then 32767 else 255
    let sat (v : Int) : Int := max lo (min hi v)
    let bad (w : Nat) : Bool := decide (10 < w % 2 ^ 8 ∨ w / 2 ^ 14 % 4 ≠ 0 ∨ w / 2 ^ 48 ≠ 0 ∨
      ((w % 2 ^ 8 = 7 ∨ w % 2 ^ 8 = 8) ∧ f = false))
    let step (w : Nat) (v b : Int) : Int :=
      let K : Int := toSigned 32 (w / 2 ^ 16 % 2 ^ 32)
      let sh := w / 2 ^ 8 % 2 ^ 6
      [v, v + K, rnd (v * K) sh, min v K, max v K, rnd v sh, v * 2 ^ sh, v + b, rnd (v * b) sh, |v|, -v].getD (w % 2 ^ 8) v
    (D.fmt ≤ 2 → (∀ j < (n * fmtBits D.fmt + 7) / 8, l.open (D.row 0 + j) = true) →
      (∀ p ∈ ([(.vadd e im d a b, fun i => A i + B i), (.vsub e im d a b, fun i => A i - B i),
          (.vmul e im d a b sh5, fun i => rnd (A i * B i) sh5.toNat),
          (.vmin e im d a b, fun i => min (A i) (B i)), (.vmax e im d a b, fun i => max (A i) (B i)),
          (.vabsd e im d a b, fun i => |A i - B i|), (.vaddk e im d a k, fun i => A i + half 0),
          (.vmulk e im d a k sh5, fun i => rnd (A i * half 0) sh5.toNat),
          (.vclamp e im d a k, fun i => if half 32 < half 0 then half 32 else max (half 0) (min (half 32) (A i))),
          (.vcvt e im d a sh6, fun i => if 0 ≤ sh6.toInt then A i * 2 ^ sh6.toInt.toNat else rnd (A i) (-sh6.toInt).toNat),
          (.vsel e im d a b c, fun i => if C i = 1 then A i else B i),
          (.lut e im d a t sh4, fun i => T (min (U i / 2 ^ sh4.toNat) 4095)),
          (.luti e im d a t sh4, fun i =>
            let j := U i / 2 ^ sh4.toNat
            if 4095 ≤ j then T 4095 else T j + rnd ((T (j + 1) - T j) * (U i % 2 ^ sh4.toNat : Nat)) sh4.toNat),
          (.k1d e im d a k t, fun i => kern (2 * t.toNat + 3) (fun j => A (near n ((i : Int) - (t.toNat + 1) + j)))),
          (.k1v e im d a k t, fun i => kern (2 * t.toNat + 2) (fun j => R ((j : Int) - t.toNat) i)),
          (.k2d e im d a k false, fun i => kern 9 (fun j => R ((j / 3 : Nat) - 1) (near n ((i : Int) + (j % 3 : Nat) - 1)))),
          (.k2d e im d a k true, fun i => kern 25 (fun j => R ((j / 5 : Nat) - 2) (near n ((i : Int) + (j % 5 : Nat) - 2)))),
          (.rs e im d a k false, rsAt 4), (.rs e im d a k true, rsAt 6),
          (.flat e im d a b sh4, fun i => rnd (max ((A i).toNat - mean i : Int) 0 * scale i) sh4.toNat),
          (.xmrg e im d a k c sh4 sh4', merged),
          (.scor e im d a b sh5 c f sh4 h, fun i => if h = true ∧ q.el m sh4 i = 1 then 0
            else rnd ((A i - mean i - if f then C i else 0) * scale i) sh5.toNat),
          (.pred e im d a b f, res)] : List (Instr × (Nat → Int))),
        q.i = p.1 → ∀ i < n, D.el out 0 i = sat (p.2 i)) ∧
      (q.i = .upred e im d a b f → D.fmt = 0 → ∀ i < n, let E := (A i).toNat
        D.el out 0 i = (pre (D.el out 0 (i - 1)) i + if E % 2 = 0 then ((E / 2 : Nat) : Int) else -((E / 2 : Nat) : Int) - 1) % 2 ^ 16) ∧
      (q.i = .mapc e im d a k st b f →
        let W (j : Nat) : Nat := readLE m (S + 8 * j) 8
        let ends (j : Nat) : Bool := decide (W j % 2 ^ 8 = 0) || bad (W j)
        let live (j : Nat) : Bool := (List.range j).all (fun r => !ends r)
        (∀ i < n, ∀ V : Nat → Int, V 0 = A i →
          (∀ j ≤ st.toNat, V (j + 1) = if live (j + 1) then max (-2 ^ 47) (min (2 ^ 47 - 1) (step (W j) (V j) (if f then B i else 0))) else V j) →
          D.el out 0 i = sat (V (st.toNat + 1))) ∧
        (tileEffect l q x).fmt = if (List.range (st.toNat + 1)).any (fun j => live j && bad (W j)) then 1 else 0) ∧
      (q.i = .dpr e im d a b t →
        let left (i r : Nat) : Prop := 1 ≤ r ∧ r ≤ t.toNat + 1 ∧ r ≤ i ∧ B (i - r) ≠ 1
        let right (i r : Nat) : Prop := 1 ≤ r ∧ r ≤ t.toNat + 1 ∧ i + r < n ∧ B (i + r) ≠ 1
        let first (P : Nat → Prop) (r : Nat) : Prop := P r ∧ ∀ j < r, ¬ P j
        let lone (i : Nat) : Bool := decide (B i = 1 ∧ ∀ r < t.toNat + 1, (r < i → B (i - (r + 1)) = 1) ∧
          (i + (r + 1) < n → B (i + (r + 1)) = 1))
        (∀ i < n, (B i ≠ 1 → D.el out 0 i = sat (A i)) ∧ (B i = 1 →
          (∀ r r', first (left i) r → first (right i) r' → D.el out 0 i = sat (rnd (A (i - r) + A (i + r')) 1)) ∧
          (∀ r, first (left i) r → (∀ r', ¬ right i r') → D.el out 0 i = sat (A (i - r))) ∧
          (∀ r, first (right i) r → (∀ r', ¬ left i r') → D.el out 0 i = sat (A (i + r))) ∧
          (lone i = true → D.el out 0 i = sat (A i)))) ∧
        (tileEffect l q x).dpr = ((List.range n).filter lone).length)) ∧
    (q.i = .cmat e im d a k → (∀ p < 3, ∀ j < 2 * n, l.open (D.at p 0 + j) = true) →
      (∀ p < 3, ∀ p' < 3, p < p' → D.at p' 0 + 2 * n ≤ D.at p 0 ∨ D.at p 0 + 2 * n ≤ D.at p' 0) →
      ∀ p < 3, ∀ i < n, elemRaw out (D.at p 0) 16 i = max 0 (min 65535
        (rnd (∑ j ∈ Finset.range 3, co (3 * p + j) * elemRaw m ((q.d a).at j 0) 16 i) 12 +
          toSigned 16 (readLE m (S + 18 + 2 * p) 2)))) ∧
    (q.i = .thr e im d a k t → D.fmt = 7 → (∀ j < (2 * n + 7) / 8, l.open (D.row 0 + j) = true) → ∀ i < n,
      let v : Int := if t = 0 then A i else max (-32768) (min 32767 (if t = 1 then -A i else |A i|))
      let hiT := toSigned 16 (S % 2 ^ 16)
      let loT := toSigned 16 (S / 2 ^ 16 % 2 ^ 16)
      D.el out 0 i = if hiT ≤ v then 2 else if loT ≤ v then 1 else 0) ∧
    (q.i = .morph e im d a f h → D.fmt = (q.d a).fmt → D.fmt = 6 ∨ D.fmt = 7 →
      (∀ j < (n * fmtBits D.fmt + 7) / 8, l.open (D.row 0 + j) = true) → ∀ i < n,
      let around (r y : Int) : Prop := -1 ≤ r ∧ r ≤ 1 ∧ -1 ≤ y ∧ y ≤ 1 ∧ (h = true → r = 0 ∨ y = 0)
      let set (r y : Int) : Prop := 0 ≤ (i : Int) + y ∧ (i : Int) + y < n ∧ R r ((i : Int) + y).toNat ≠ 0
      let clear (r y : Int) : Prop := 0 ≤ (i : Int) + y ∧ (i : Int) + y < n ∧ R r ((i : Int) + y).toNat = 0
      (f = false → (A i ≠ 0 → D.el out 0 i = A i) ∧
        (A i = 0 → ((∃ r y, around r y ∧ set r y) → D.el out 0 i = 1) ∧ ((∀ r y, around r y → ¬ set r y) → D.el out 0 i = 0))) ∧
      (f = true → ((∃ r y, around r y ∧ clear r y) → D.el out 0 i = 0) ∧
        ((∀ r y, around r y → ¬ clear r y) → D.el out 0 i = A i)))

/-- R73, R76, R77, R100, R101 and Table 3.5: what the instructions that write no run leave. Tile 0 takes the first h
elements of a width-2 instruction and tile 1 the others, each into its own copy: vcmp counts elements and differences,
stat adds the elements its mask does not take out, hist counts them by bin; crc carries the check value over the bytes
of its run; aclr clears both copies of its accumulator; tld loads a table from scratch, hclr clears the bins and hput
stores them, the two stores added. Nothing else of scratch, accumulators and stores changes. The counters are within
their widths, stat's sums below their limits, tld's table and hput's bins within scratch. -/
def Obligations.TileRecords : Prop :=
  ∀ (l : Limits) (q : QEntry) (x : Engine) (e : Eng) (im : StreamImm) (g a b : BitVec 4) (ad : BitVec 3) (k : BitVec 6)
      (nb sh mk : BitVec 4) (men : Bool) (t : BitVec 2),
    let m := x.scratch
    let n := q.n
    let A (i : Nat) : Int := q.el m a i
    let B (i : Nat) : Int := q.el m b i
    let S := q.s k
    let U (i : Nat) : Nat := (if (q.d a).fmt = 1 then A i + 32768 else A i).toNat
    let y := (tileEffect l q x).x
    let part : List (List Nat) := let h := min n (16 * (((n + 15) / 16 + 1) / 2))
      [List.range h, (List.range n).drop h]
    let kept : List (List Nat) := part.map (·.filter (fun i => !(men && decide (q.el m mk i = 1))))
    let acc (z : Engine) (c i : Nat) : Acc := look (fun _ => Acc.clear) (if c = 0 then z.acc0 else z.acc1) i
    let bin (h : List (Nat × Nat)) (i : Nat) : Nat := look (fun _ => 0) h i
    let c32 (v : Nat) : Nat := min v (2 ^ 32 - 1)
    let others : Prop := ∀ c < 2, ∀ i, i ≠ ad.toNat → acc y c i = acc x c i
    (q.i = .vcmp e im ad a b → { y with acc0 := x.acc0, acc1 := x.acc1 } = x ∧ others ∧ ∀ c < 2,
      (acc x c ad.toNat).cnt < 2 ^ 32 → (acc x c ad.toNat).nsat < 2 ^ 32 →
      acc y c ad.toNat = { acc x c ad.toNat with
        cnt := c32 ((acc x c ad.toNat).cnt + (part.getD c []).length)
        nsat := c32 ((acc x c ad.toNat).nsat + ((part.getD c []).filter (fun i => decide (A i ≠ B i))).length) }) ∧
    (q.i = .stat e im ad a k mk men → { y with acc0 := x.acc0, acc1 := x.acc1 } = x ∧ others ∧ ∀ c < 2,
      let u := acc x c ad.toNat
      let ks := kept.getD c []
      u.cnt < 2 ^ 32 → u.nsat < 2 ^ 32 → |u.sum| + (ks.map (fun i => |A i|)).sum < 2 ^ 63 →
      u.ssq + (ks.map (fun i => (A i * A i).toNat)).sum < 2 ^ 64 →
      acc y c ad.toNat = { u with
        sum := u.sum + (ks.map A).sum
        ssq := u.ssq + (ks.map (fun i => (A i * A i).toNat)).sum
        cnt := c32 (u.cnt + ks.length)
        nsat := c32 (u.nsat + (ks.filter (fun i => decide (S % 2 ^ 16 ≤ U i))).length)
        mn := (ks.map U).foldl min u.mn
        mx := (ks.map U).foldl max u.mx }) ∧
    (q.i = .hist e im a nb sh mk men → { y with hist0 := x.hist0, hist1 := x.hist1 } = x ∧ ∀ i,
      let hits (ks : List Nat) : Nat := (ks.filter (fun j => decide (min (U j / 2 ^ sh.toNat) (2 ^ nb.toNat - 1) = i))).length
      (bin x.hist0 i < 2 ^ 32 → bin y.hist0 i = c32 (bin x.hist0 i + hits (kept.getD 0 []))) ∧
      (bin x.hist1 i < 2 ^ 32 → bin y.hist1 i = c32 (bin x.hist1 i + hits (kept.getD 1 [])))) ∧
    (q.i = .crc e im ad a → { y with acc0 := x.acc0 } = x ∧ others ∧ ∃ v : Nat → BitVec 32,
      let bytes := (n * fmtBits (q.d a).fmt + 7) / 8
      let bit (c : BitVec 32) : BitVec 32 := if c.getLsbD 0 then (c >>> 1) ^^^ 0x82F63B78#32 else c >>> 1
      v 0 = (acc x 0 ad.toNat).crc ∧
      (∀ j < bytes, v (j + 1) = bit (bit (bit (bit (bit (bit (bit (bit (v j ^^^ (scrByte x ((q.d a).row 0 + j)).zeroExtend 32))))))))) ∧
      acc y 0 ad.toNat = { acc x 0 ad.toNat with crc := v bytes }) ∧
    (q.i = .aclr e g ad → { y with acc0 := x.acc0, acc1 := x.acc1 } = x ∧ others ∧
      ∀ c < 2, acc y c ad.toNat = ⟨0, 0, 0, 0, 0xFFFF, 0, 0xFFFFFFFF⟩) ∧
    (q.i = .tld e g t k → S % 64 = 0 → S + 8192 ≤ 0x400000 → { y with tabs := x.tabs } = x ∧ ∀ i,
      look (fun _ => 0) y.tabs i =
        if t.toNat * 4096 ≤ i ∧ i < (t.toNat + 1) * 4096 then
          (let o := S + 2 * (i - t.toNat * 4096); (scrByte x o).toNat + 256 * (scrByte x (o + 1)).toNat)
        else look (fun _ => 0) x.tabs i) ∧
    (q.i = .hclr e g → { y with hist0 := x.hist0, hist1 := x.hist1 } = x ∧ ∀ i, bin y.hist0 i = 0 ∧ bin y.hist1 i = 0) ∧
    (q.i = .hput e g k → { y with scratch := m } = x ∧
      ((∀ p ∈ x.hist0 ++ x.hist1, p.1 < 4096) → ∀ j, (j < S ∨ S + 16384 ≤ j) → scrByte y j = scrByte x j) ∧
      ((∀ j < 16384, l.open (S + j) = true) → ∀ i < 4096, ∀ j < 4,
        scrByte y (S + 4 * i + j) = byteOf (BitVec.ofNat 64 (c32 (bin x.hist0 i + bin x.hist1 i))) j))

/-- R97 to R99 and R102 to R107. lbl gives a pixel 0, the smallest label beside it, a new label or the storm label,
records every further label of a neighbourhood as a merge of the list, once where the same follows itself, and counts
it as dropped where the list is full; feat adds every labelled pixel to the record of its label; fmrg merges the record
of the higher label of an entry into the other's. gsel finds the smallest parameter that makes a block shortest, gput
writes the codes of a block at BITS and gdec reads them back; and decoding inverts prediction. The context, the records
and the runs lie apart and may be stored; the labels stay below the storm label, the sums and columns within their
fields, and no record of feat has been merged. -/
def Obligations.LabelsFeaturesAndCodes : Prop :=
  (∀ (ns : List Nat) (v : Nat), (v ∈ labelSet ns ↔ v ∈ ns ∧ v ≠ 0 ∧ v ≠ 0xFFFFFF) ∧ (labelSet ns).Pairwise (· < ·)) ∧
  (∀ (es : List Nat) (k e : Nat), (e / 2 ^ k < 24 → code e k = List.replicate (e / 2 ^ k) true ++ false :: (List.range k).map e.testBit) ∧
    (24 ≤ e / 2 ^ k → code e k = List.replicate 24 true ++ (List.range 16).map e.testBit) ∧
    blockBits es k = 4 + (es.map (fun e => (code e k).length)).sum) ∧
  (∀ (a b : Nat → Int) (n : Nat) (np : Bool), (∀ i < n, 0 ≤ a i ∧ a i < 65536) →
    upredRow (fun i => (predEl a b np i).toNat) b np n = (List.range n).map a) ∧
  (∀ (f : Feat) (x y : Nat) (v : Int) (strong : Bool),
    let r := f.add x y v strong
    let fits (v : Int) : Prop := -2 ^ 63 ≤ v ∧ v < 2 ^ 63
    let dx : Int := (x : Int) - f.xf
    let diff (u w : Nat) : Int := let d := ((u : Int) - w) % 2 ^ 24; if d < 2 ^ 23 then d else d - 2 ^ 24
    let dy := diff y f.yf
    let s64 (v : Int) : Int := max (-2 ^ 63) (min (2 ^ 63 - 1) v)
    (f.area = 0 → r.area = 1 ∧ r.peak = v ∧ (fits v → r.sum = v) ∧ r.flags = 0 ∧ (r.xf, r.xmin, r.xmax) = (x, x, x) ∧
      (r.yf, r.ymin, r.ymax) = (y, y, y) ∧ (r.sdx, r.sdy, r.sdxx, r.sdxy, r.sdyy) = (0, 0, 0, 0, 0)) ∧
    (f.area ≠ 0 → r.area = min (f.area + 1) (2 ^ 32 - 1) ∧ (fits (f.sum + v) → r.sum = f.sum + v) ∧
      r.peak = (if |f.peak| < |v| then v else f.peak) ∧ (r.xf, r.xmin, r.xmax) = (f.xf, min f.xmin x, max f.xmax x) ∧
      (r.yf, r.ymin, r.ymax) = (f.yf, if dy < diff f.ymin f.yf then y else f.ymin, if diff f.ymax f.yf < dy then y else f.ymax) ∧
      (r.sdx, r.sdy, r.sdxx, r.sdxy, r.sdyy) =
        (s64 (f.sdx + dx), s64 (f.sdy + dy), s64 (f.sdxx + dx * dx), s64 (f.sdxy + dx * dy), s64 (f.sdyy + dy * dy)) ∧
      r.flags = (if [f.sdx + dx, f.sdy + dy, f.sdxx + dx * dx, f.sdxy + dx * dy, f.sdyy + dy * dy].all (fun v => decide (s64 v = v))
        then f.flags else f.flags ||| 1)) ∧
    r.strong = (if strong then min (f.strong + 1) (2 ^ 32 - 1) else f.strong) ∧ r.into = f.into) ∧
  (∀ (a b : Feat) (la : Nat),
    let r := (a.merge b la).1
    let dx : Int := (b.xf : Int) - a.xf
    let diff (u w : Nat) : Int := let d := ((u : Int) - w) % 2 ^ 24; if d < 2 ^ 23 then d else d - 2 ^ 24
    let dy := diff b.yf a.yf
    let s64 (v : Int) : Int := max (-2 ^ 63) (min (2 ^ 63 - 1) v)
    (a.merge b la).2 = { b with flags := b.flags ||| 2, into := la } ∧
    (b.area = 0 → r = { a with flags := a.flags ||| b.flags }) ∧
    (b.area ≠ 0 → a.area = 0 → r = { b with flags := a.flags ||| b.flags, into := a.into }) ∧
    (b.area ≠ 0 → a.area ≠ 0 →
      r.area = min (a.area + b.area) (2 ^ 32 - 1) ∧ r.strong = min (a.strong + b.strong) (2 ^ 32 - 1) ∧
      (-2 ^ 63 ≤ a.sum + b.sum → a.sum + b.sum < 2 ^ 63 → r.sum = a.sum + b.sum) ∧ r.peak = (if |a.peak| < |b.peak| then b.peak else a.peak) ∧
      (r.xf, r.xmin, r.xmax, r.yf) = (a.xf, min a.xmin b.xmin, max a.xmax b.xmax, a.yf) ∧
      r.ymin = (if diff b.ymin a.yf < diff a.ymin a.yf then b.ymin else a.ymin) ∧
      r.ymax = (if diff a.ymax a.yf < diff b.ymax a.yf then b.ymax else a.ymax) ∧
      r.into = a.into ∧
      let ms : List Int := [a.sdx + b.sdx + b.area * dx, a.sdy + b.sdy + b.area * dy, a.sdxx + b.sdxx + 2 * dx * b.sdx + b.area * dx * dx,
        a.sdxy + b.sdxy + dx * b.sdy + dy * b.sdx + b.area * dx * dy, a.sdyy + b.sdyy + 2 * dy * b.sdy + b.area * dy * dy]
      [r.sdx, r.sdy, r.sdxx, r.sdxy, r.sdyy] = ms.map s64 ∧
      r.flags = (if ms.all (fun v => decide (s64 v = v)) then a.flags else a.flags ||| 1) ||| b.flags)) ∧
  ∀ (l : Limits) (q : QEntry) (x : Engine) (e : Eng) (im : StreamImm) (g d a b z : BitVec 4) (nc : BitVec 12) (k k' : BitVec 6) (np : Bool),
    let m := x.scratch
    let n := q.n
    let D := q.d d
    let A (i : Nat) : Nat := (q.el m a i).toNat
    let B (i : Nat) : Nat := (q.el m b i).toNat
    let c := q.s k
    let out := (tileEffect l q x).x.scratch
    let open' (r : Nat × Nat) : Prop := ∀ j < r.2, l.open (r.1 + j) = true
    let apart (r r' : Nat × Nat) : Prop := r.1 + r.2 ≤ r'.1 ∨ r'.1 + r'.2 ≤ r.1
    let ctx : Nat × Nat := (c, 64)
    let fld (m : List Host.Cell) (a i lo w : Nat) : Nat := readLE m (a + 8 * i) 8 / 2 ^ lo % 2 ^ w
    (q.i = .lbl e im d a b k np → D.fmt = 8 → (q.d b).fmt = 8 →
      let run := (D.row 0, 4 * n)
      let list := (fld m c 1 0 22, 8 * fld m c 1 32 16)
      let next := fld m c 0 0 24
      let limit := fld m c 0 24 24
      open' run → open' list → open' ctx → apart run list → apart run ctx → apart list ctx → limit < 0xFFFFFF →
      let L (i : Nat) : Nat := elemRaw out (D.row 0) 32 i
      let up (i : Nat) : Nat := if np then 0 else B i
      let ns (i : Nat) : List Nat := [if i = 0 then 0 else L (i - 1), if i = 0 then 0 else up (i - 1), up i, if i + 1 < n then up (i + 1) else 0]
      let fresh (i N : Nat) : Bool := decide (A i ≠ 0 ∧ labelSet (ns i) = [] ∧ 0xFFFFFF ∉ ns i ∧ N ≤ limit)
      let pairs : List (Nat × Nat) := (List.range n).flatMap (fun i => if A i = 0 then [] else
        (labelSet (ns i)).tail.map (fun v => ((labelSet (ns i)).headD 0, v)))
      let mcnt := fld m c 2 0 32
      ∃ N : Nat → Nat, N 0 = next ∧ fld out c 0 0 24 = N n ∧ fld out c 0 24 24 = limit ∧
        (∀ i < n, N (i + 1) = (if fresh i (N i) then N i + 1 else N i) ∧
          L i = if A i = 0 then 0 else if labelSet (ns i) ≠ [] then (labelSet (ns i)).headD 0
            else if fresh i (N i) then N i else 0xFFFFFF) ∧
        fld out c 3 0 32 = min (fld m c 3 0 32 + ((List.range n).filter (fun i => decide (L i = 0xFFFFFF))).length) (2 ^ 32 - 1) ∧
        (mcnt + 3 * n ≤ fld m c 1 32 16 → let app := pairs.destutter (· ≠ ·)
          fld out c 2 0 32 = mcnt + app.length ∧ fld out c 2 32 32 = fld m c 2 32 32 ∧
          ∀ i < app.length, fld out (list.1) (mcnt + i) 0 64 = (app.getD i (0, 0)).1 + (app.getD i (0, 0)).2 * 2 ^ 24) ∧
        (mcnt = fld m c 1 32 16 → fld out c 2 0 32 = mcnt ∧
          fld out c 2 32 32 = min (fld m c 2 32 32 + pairs.length) (2 ^ 32 - 1) ∧
          ∀ j < list.2, look (fun _ => (0 : Byte)) out (list.1 + j) = look (fun _ => (0 : Byte)) m (list.1 + j))) ∧
    (q.i = .feat e im a b k z np → (q.d a).fmt = 8 → (q.d b).fmt = 1 →
      let tab := (fld m c 0 0 22, 128 * fld m c 1 0 24)
      let cnt := fld m c 1 0 24
      open' tab → open' ctx → apart tab ctx → fld m c 2 0 20 + n ≤ 2 ^ 20 → (∀ i < cnt, fld m (tab.1 + 128 * i) 2 17 1 = 0) →
      let at' (i : Nat) : Nat := (A i + 2 ^ 24 - fld m c 0 24 24) % 2 ^ 24
      let live (i : Nat) : Bool := decide (A i ≠ 0 ∧ A i ≠ 0xFFFFFF)
      (∀ r < cnt, readFeat out (tab.1 + 128 * r) =
        ((List.range n).filter (fun i => live i && decide (at' i = r))).foldl
          (fun f i => f.add (fld m c 2 0 20 + i) (fld m c 2 24 24) (q.el m b i) (np && decide (q.el m z i = 2)))
          (readFeat m (tab.1 + 128 * r))) ∧
      fld out c 2 24 24 = (fld m c 2 24 24 + 1) % 2 ^ 24 ∧
      fld out c 3 0 32 = min (fld m c 3 0 32 + ((List.range n).filter (fun i => live i && decide (cnt ≤ at' i))).length) (2 ^ 32 - 1)) ∧
    (q.i = .fmrg e g nc k k' →
      let fc := q.s k'
      let head := fld m c 3 32 32
      let tab := (fld m fc 0 0 22, 128 * fld m fc 1 0 24)
      let list := (fld m c 1 0 22, 8 * fld m c 2 0 32)
      let rec' (j lo : Nat) : Nat := (fld m list.1 j lo 24 + 2 ^ 24 - fld m fc 0 24 24) % 2 ^ 24
      let i := rec' head 0
      let j := rec' head 24
      open' tab → open' ctx → open' (fc, 64) → open' list → apart tab ctx → apart tab (fc, 64) → apart ctx (fc, 64) → apart tab list → apart ctx list →
      apart (fc, 64) list → fld m c 2 0 32 = head + 1 → i ≠ j → i < fld m fc 1 0 24 → j < fld m fc 1 0 24 →
      fld m list.1 head 0 24 < fld m list.1 head 24 24 →
      fld m (tab.1 + 128 * i) 2 17 1 = 0 → fld m (tab.1 + 128 * j) 2 17 1 = 0 →
      let r := (readFeat m (tab.1 + 128 * i)).merge (readFeat m (tab.1 + 128 * j)) (fld m list.1 head 0 24)
      readFeat out (tab.1 + 128 * i) = r.1 ∧ readFeat out (tab.1 + 128 * j) = r.2 ∧ fld out c 2 0 32 = 0 ∧ fld out c 3 32 32 = 0 ∧
      fld out fc 3 0 32 = fld m fc 3 0 32 ∧
      ∀ r < fld m fc 1 0 24, r ≠ i → r ≠ j → readFeat out (tab.1 + 128 * r) = readFeat m (tab.1 + 128 * r)) ∧
    (q.i = .gsel e im d a → D.fmt = 9 → open' (D.row 0, 4 * ((n + 63) / 64)) → ∀ j < (n + 63) / 64,
      let es := (List.range (min 64 (n - 64 * j))).map (fun i => A (64 * j + i))
      ∃ K ≤ 15, (∀ k' ≤ 15, blockBits es K ≤ blockBits es k') ∧ (∀ k' < K, blockBits es K < blockBits es k') ∧
        elemRaw out (D.row 0) 32 j = K + 2 ^ 8 * es.length + 2 ^ 16 * blockBits es K) ∧
    (q.i = .gput e im d a b k → n ≤ 64 →
      let es := (List.range n).map A
      let K := B 0 % 2 ^ 4
      let base := fld m c 0 0 22
      let cap := fld m c 0 32 22
      let p := readLE m (c + 8) 8
      open' (base, cap) → open' ctx → apart (base, cap) ctx → B 0 / 2 ^ 16 % 2 ^ 12 = blockBits es K →
      (p + blockBits es K ≤ cap * 8 → readLE out (c + 8) 8 = p + blockBits es K ∧ fld out c 2 0 8 = fld m c 2 0 8 ∧
        let str := (List.range 4).map K.testBit ++ es.flatMap (fun v => code v K)
        str.length = blockBits es K ∧ (∀ i < str.length, getBit out base (p + i) = str.getD i false) ∧
        ∀ i < cap * 8, (i < p ∨ p + str.length ≤ i) → getBit out base i = getBit m base i) ∧
      (cap * 8 < p + blockBits es K → readLE out (c + 8) 8 = p ∧ fld out c 2 0 1 = 1 ∧
        ∀ j < cap, look (fun _ => (0 : Byte)) out (base + j) = look (fun _ => (0 : Byte)) m (base + j))) ∧
    (q.i = .gdec e im d a k → D.fmt = 0 → n ≤ 64 →
      let base := fld m c 0 0 22
      let cap := fld m c 0 32 22
      let p := readLE m (c + 8) 8
      open' (D.row 0, 2 * n) → open' ctx → apart (D.row 0, 2 * n) ctx →
      (∀ (es : List Nat) (K : Nat), es.length = n → K < 16 → (∀ v ∈ es, v < 65536) →
        (let str := (List.range 4).map K.testBit ++ es.flatMap (fun v => code v K)
         p + str.length ≤ cap * 8 ∧ ∀ i < str.length, getBit m base (p + i) = str.getD i false) →
        (∀ i < n, elemRaw out (D.row 0) 16 i = es.getD i 0) ∧ readLE out (c + 8) 8 = p + blockBits es K ∧
        fld out c 2 0 8 = fld m c 2 0 8) ∧
      (cap * 8 < p + 4 → (∀ i < n, elemRaw out (D.row 0) 16 i = 0) ∧ readLE out (c + 8) 8 = p ∧ fld out c 2 1 1 = 1))

/-- R70 and R76: the oldest queued instruction that has had its effect leaves the queue, and nothing else of the engine
changes while its core is not stalled, the run cycles less what the tiles still owe of them (R51; log 145) among it;
ard reads the two tiles' copies of its accumulator combined (Table 3.1). Model's choices: log 54. -/
def Obligations.StreamCompletionAndArd : Prop :=
  (∀ (e : Eng) (q : QEntry) (qs : List QEntry) (s : State), (s.eng e).queue = q :: qs → q.applied = true →
    (s.eng e).stalled = none → Gives (.streamComplete e) s (fun t => OnlyEngine e s t ∧ (t.eng e).queue = qs ∧
      (t.eng e).scratch = (s.eng e).scratch ∧ (t.eng e).pc = (s.eng e).pc ∧
      ((s.eng e).lag ≤ (s.eng e).run → (t.eng e).run - (t.eng e).lag = (s.eng e).run - (s.eng e).lag) ∧
      (t.eng e).copies.map (·.seq) = (s.eng e).copies.map (·.seq))) ∧
  ∀ (e : Eng) (g : BitVec 4) (d : BitVec 6) (aa f : BitVec 3) (s : State), s.runs e = true → f.toNat ≤ 4 →
    s.waits e (.ard e g d aa f) = none →
    let x := s.eng e
    let p := look (fun _ => Acc.clear) x.acc0 aa.toNat
    let r := look (fun _ => Acc.clear) x.acc1 aa.toNat
    let v : Word := match f.toNat with
      | 0 => BitVec.ofInt 64 (max (-2 ^ 63) (min (2 ^ 63 - 1) (p.sum + r.sum)))
      | 1 => BitVec.ofNat 64 (min (p.ssq + r.ssq) (2 ^ 64 - 1))
      | 2 => BitVec.ofNat 64 (min (p.cnt + r.cnt) (2 ^ 32 - 1) + 2 ^ 32 * min (p.nsat + r.nsat) (2 ^ 32 - 1))
      | 3 => BitVec.ofNat 64 (min p.mn r.mn + 2 ^ 16 * max p.mx r.mx)
      | _ => BitVec.ofNat 64 (p.crc ^^^ 0xFFFFFFFF#32).toNat
    Gives (.ard e g d aa f) s (fun t => Continues e s t ∧ ScalarNext e d (if x.guard g then v else x.s d) 2 s t)

/-- R47 to R51 and R69: fence goes on once nothing it names is left; event raises 0xD800 + CODE with the engine and its
unit; wtick completes the band: the engine waits for the next at its first instruction, its unit has completed the
band, and the run cycles of the band are reported: what was charged, less what the tiles still owed of their charges.
Model's choices: logs 8, 48, 145 and 185. -/
def Obligations.SynchronisationAndBandEnd : Prop :=
  ∀ (e : Eng) (g : BitVec 4) (mask : BitVec 3) (code : BitVec 11) (s : State), s.runs e = true →
    let x := s.eng e
    (s.waits e (.fence e mask) = none → Gives (.fence e mask) s (fun t => OnlyEngine e s t ∧ Continues e s t ∧
      (t.eng e).run = x.run + 4 ∧ { t.eng e with pc := x.pc, loops := x.loops, run := x.run } = x)) ∧
    (x.guard g = true → s.evq.length < 1024 → Gives (.event e g code) s (fun t =>
      Raised s t (0xD800 + code.toNat) (e + 256 * s.unitOf e) 0 0 ∧ (t.eng e).run = x.run + 2 ∧ Continues e s t ∧
      FieldsAndEvents [] s { t with engines := s.engines })) ∧
    (x.guard g = false → Gives (.event e g code) s (fun t => OnlyEngine e s t ∧ Continues e s t ∧ (t.eng e).run = x.run + 2)) ∧
    (s.waits e (.wtick e) = none → Gives (.wtick e) s (fun t => t.rf (Rf.ENG_STATUS_STATE e) = 1 ∧
      (t.wu (s.unitOf e)).done = x.tok.band + 1 ∧ (t.wu (s.unitOf e)).doneAt = s.count ∧ (t.eng e).pc = 0 ∧
      (t.eng e).loops = [] ∧ t.rf (Rf.ENG_RUN_LAST e) = min (x.run + 1 - x.lag) 0xFFFFFFFF ∧
      (t.eng e).scratch = x.scratch ∧ ∀ r, (t.eng e).s r = x.s r))

/-! ### Programs, loads, bands and engine faults (2.4 to 2.7) -/

/-- R54: a write of instruction memory reaches the bank that does not run, whose admission it takes away; a write of
the active bank is ignored with event 0xD00A, and one of the staging bank during a walk with event 0xD003; so is a LOAD
during a walk, which ABORT ends. The write that voids an admission disarms a swap and leaves a reload armed, and a SWAP
after it does nothing. A read shows either bank; in STANDBY its copy in the shadow, or zeros while the hub is off.
Model's choices: logs 46 and 48. -/
def Obligations.InstructionMemoryWrites : Prop :=
  ∀ (port : Port) (e : Eng) (bank : Bool) (idx : BitVec 14) (v : BitVec 64) (s : State),
    let c := Instr.instructionMemoryWrite port e bank idx v
    (bank ≠ s.activeBank e → s.rf (Rf.ENG_ADM_BUSY e) = 0 → Gives c s (fun t =>
      (∀ j, look (fun _ => (0 : Word)) ((t.eng e).bank bank) j =
        if j = idx.toNat then v else look (fun _ => (0 : Word)) ((s.eng e).bank bank) j) ∧
      (t.eng e).bank (!bank) = (s.eng e).bank (!bank) ∧ ((t.eng e).adm bank).result = 0 ∧ t.rf (Rf.ENG_ADM_RESULT e) = 0 ∧
      t.rf (Rf.ENG_BOUND_BOUND e) = 0 ∧ (t.eng e).swapAt = none ∧ (t.eng e).loadAt = (s.eng e).loadAt ∧
      exec (.swap e) t = .next t ∧ (∀ k, k ≠ e.val → t.eng k = s.eng k) ∧ t.hub = s.hub ∧ t.evq = s.evq)) ∧
    (bank = s.activeBank e → s.evq.length < 1024 → Gives c s (fun t =>
      Raised s t 0xD00A (e + 256 * s.unitOf e) 0 0 ∧ FieldsAndEvents [] s t)) ∧
    (bank ≠ s.activeBank e → s.rf (Rf.ENG_ADM_BUSY e) ≠ 0 → s.evq.length < 1024 → Gives c s (fun t =>
      Raised s t 0xD003 (e + 256 * s.unitOf e) 0 0 ∧ FieldsAndEvents [] s t)) ∧
    (s.rf (Rf.ENG_ADM_BUSY e) ≠ 0 → s.evq.length < 1024 →
      Gives (.load e) s (fun t => Raised s t 0xD003 (e + 256 * s.unitOf e) 0 0 ∧ FieldsAndEvents [] s t) ∧
      Gives (.abort e) s (fun t => t.rf (Rf.ENG_ADM_BUSY e) = 0 ∧ (t.eng e).walk = none)) ∧
    (let half := if bank then 0x20000 else 0
     let reads (w : Word) : Prop := Gives (.readClear port (0x2000000 + 0x40000 * e + half + 8 * idx.toNat) 8) s (fun t =>
       t.readData = w ∧ { t with readData := s.readData } = s)
     let copy := 0x300000 * e.val + half + 8 * idx.toNat
     (s.mode ≠ 0 → reads (look (fun _ => (0 : Word)) ((s.eng e).bank bank) idx.toNat)) ∧
     (s.mode = 0 → s.hubU.on = false → reads 0) ∧
     (s.mode = 0 → s.hubU.on = true → s.hubU.errs = [] → copy + 8 ≤ s.capacity → reads (BitVec.ofNat 64 (readLE s.hub copy 8))))

/-- R54 to R57: LOAD starts a walk of the staging image; it is refused in STANDBY and SAFE with result 13 and for an
engine that serves no unit with result 14, and ignored during a walk with event 0xD003. The walk's end shows its
result, and an admitted image's bound, with event 0xD001 or 0xD002. ABORT ends a walk with result 15. Model's choices:
logs 43 and 48. -/
def Obligations.Admission : Prop :=
  ∀ (e : Eng) (s : State), s.evq.length < 1000 →
    let eu := e + 256 * s.unitOf e
    let idle := s.rf (Rf.ENG_ADM_BUSY e) = 0
    (idle → s.mode ≠ 0 → s.mode ≠ 5 → s.rf (Rf.ENG_ROLE_RETIRED e) = 0 → s.rf (Rf.ENG_ROLE_SPARE e) = 0 →
      Gives (.load e) s (fun t => t.rf (Rf.ENG_ADM_BUSY e) = 1 ∧ (t.eng e).walk.isSome = true ∧ (t.eng e).swapAt = none ∧
        (t.eng e).bank0 = (s.eng e).bank0 ∧ (t.eng e).bank1 = (s.eng e).bank1)) ∧
    (idle → s.mode = 0 ∨ s.mode = 5 → Gives (.load e) s (fun t => t.rf (Rf.ENG_ADM_RESULT e) = 13 ∧
      t.rf (Rf.ENG_ADM_BUSY e) = 0 ∧ Raised s t 0xD002 eu 13 0 ∧ t.hub = s.hub)) ∧
    (idle → s.mode ≠ 0 → s.mode ≠ 5 → s.rf (Rf.ENG_ROLE_RETIRED e) ≠ 0 ∨ s.rf (Rf.ENG_ROLE_SPARE e) ≠ 0 →
      Gives (.load e) s (fun t => t.rf (Rf.ENG_ADM_RESULT e) = 14 ∧ Raised s t 0xD002 eu 14 0 ∧ t.hub = s.hub)) ∧
    (¬ idle → Gives (.load e) s (fun t => Raised s t 0xD003 eu 0 0 ∧ FieldsAndEvents [] s t)) ∧
    (¬ idle → Gives (.abort e) s (fun t => t.rf (Rf.ENG_ADM_BUSY e) = 0 ∧ t.rf (Rf.ENG_ADM_RESULT e) = 15 ∧
      (t.eng e).walk = none ∧ Raised s t 0xD002 eu 15 0)) ∧
    (∀ w, (s.eng e).walk = some w → w.result < 16 → Gives (.admissionWalkComplete e) s (fun t =>
      t.rf (Rf.ENG_ADM_BUSY e) = 0 ∧ t.rf (Rf.ENG_ADM_RESULT e) = w.result ∧ (t.eng e).walk = none ∧
      ((t.eng e).adm (!s.activeBank e)).result = w.result ∧
      (w.result = 1 → t.rf (Rf.ENG_BOUND_BOUND e) = w.bound % 2 ^ (Rf.ENG_BOUND_BOUND e).width ∧ Raised s t 0xD001 eu w.bound 0) ∧
      (w.result ≠ 1 → t.rf (Rf.ENG_ADM_INDEX e) = w.index % 2 ^ (Rf.ENG_ADM_INDEX e).width ∧
        Raised s t 0xD002 eu w.result w.index)))

/-- R58 to R60: SWAP of an admitted image whose bound the budget holds is armed for ENG_SWAP_BAND, or, with the cadence
unit stopped and ENG_SWAP_BAND at 0, applies at once: the banks change places with event 0xD004. CONST_RELOAD is armed
in the same way where the hub serves it, and where it does not is held and changes nothing else (R322). DISARM takes
both back. A SWAP without an admitted image changes nothing. Model's choices: logs 48 and 137. -/
def Obligations.SwapsAndReloads : Prop :=
  ∀ (e : Eng) (s : State), s.evq.length < 1000 → s.hubU.errs = [] →
    let eu := e + 256 * s.unitOf e
    let a := (s.eng e).adm (!s.activeBank e)
    let ready := a.result = 1 ∧ s.rf (Rf.ENG_ADM_BUSY e) = 0 ∧ a.bound ≤ s.budget
    let now := s.cadOn = false ∧ s.rf (Rf.ENG_SWAP_BAND_BAND e) = 0
    (ready → now → Gives (.swap e) s (fun t => t.activeBank e = !s.activeBank e ∧ t.rf (Rf.ENG_STATUS_ACTIVE_OK e) = 1 ∧
      t.rf (Rf.ENG_STATUS_SWAP_ARMED e) = (if (s.eng e).loadAt.isSome then 1 else 0) ∧
      t.rf (Rf.ENG_ACT_BOUND_BOUND e) = a.bound % 2 ^ (Rf.ENG_ACT_BOUND_BOUND e).width ∧ Raised s t 0xD004 eu 0 0 ∧
      (t.eng e).bank0 = (s.eng e).bank0 ∧ (t.eng e).bank1 = (s.eng e).bank1 ∧ (t.eng e).scratch = (s.eng e).scratch)) ∧
    (ready → ¬ now → Gives (.swap e) s (fun t => (t.eng e).swapAt = some (s.armBand e) ∧
      t.rf (Rf.ENG_STATUS_SWAP_ARMED e) = 1 ∧ t.activeBank e = s.activeBank e ∧ t.evq = s.evq)) ∧
    (¬ ready → exec (.swap e) s = .next s) ∧
    (s.hubOpen = true → now → Gives (.constReload e) s (fun t => (t.eng e).loadAt = none ∧ Raised s t 0xD004 eu 0 0 ∧
      t.activeBank e = s.activeBank e ∧ (t.eng e).bank0 = (s.eng e).bank0 ∧ (t.eng e).bank1 = (s.eng e).bank1)) ∧
    (s.hubOpen = true → ¬ now → Gives (.constReload e) s (fun t => (t.eng e).loadAt = some (s.armBand e) ∧
      t.rf (Rf.ENG_STATUS_SWAP_ARMED e) = 1 ∧ (t.eng e).scratch = (s.eng e).scratch)) ∧
    (s.hubOpen = false → Gives (.constReload e) s (fun t =>
      { t with hubU := { t.hubU with held := s.hubU.held, waiting := s.hubU.waiting } } = s ∧
      t.hubU.held ++ t.hubU.waiting = s.hubU.held ++ (if s.tagFree 3 then [.constReload e] else []) ++ s.hubU.waiting ++
        (if s.tagFree 3 then [] else [.constReload e]))) ∧
    Gives (.disarm e) s (fun t => (t.eng e).swapAt = none ∧ (t.eng e).loadAt = none ∧
      t.rf (Rf.ENG_STATUS_SWAP_ARMED e) = 0 ∧ FieldsOnly [Rf.ENG_STATUS_SWAP_ARMED e] s { t with engines := s.engines })

/-- R49, R50, R77 and R78: a line group that is next for its load entry is issued and recorded; one of an unserved
Spoke unit's ring is complete without a read (R241), and one of a periodic entry takes the token off its phase chain
(R254). Once it arrives its lines are in scratch with the bytes of the hub. A band starts with the token of its unit:
the engine runs from its first instruction with empty tables, histograms and loop stack and no run cycles, its scalars
and its scratch as they were. The load clauses are for a core that is not stalled, the start for an engine with nothing
armed. Model's choices: logs 10, 74 and 163. -/
def Obligations.LoadsAndBandStart : Prop :=
  ∀ (e : Eng) (entry : Fin 16) (grp : Nat) (s : State), (s.eng e).stalled = none →
    let x := s.eng e
    let n := s.ldBand e entry
    (s.loading e = true → s.ldNext e n entry grp = true → s.ownRead e n entry grp = true →
      let c := (s.rf Rf.SIV_CHAINS_PCH_BASE + (s.unitOf e - 64)) % 256
      Gives (.loadGroupFetch e entry grp) s (fun t =>
        (s.periodic e n entry = false → OnlyEngine e s t) ∧
        (s.periodic e n entry = true → { t with engines := s.engines, chains := s.chains } = s ∧
          (∀ k, k ≠ e.val → t.eng k = s.eng k) ∧ (∀ k, k ≠ c → t.chain k = s.chain k) ∧
          (s.chainEn c = true → s.rf (Rf.CHN_CFG_CONS c) = s.unitOf e →
            (t.chain c).items = (s.chain c).items.drop (packetLen (s.chain c).items))) ∧
        (s.deadEntry e n entry = false → (t.eng e).loads = x.loads ++ [⟨entry, grp, n, false⟩]) ∧
        (s.deadEntry e n entry = true → (t.eng e).loads = (x.loads ++ [(⟨entry, grp, n, false⟩ : LoadRec)]).map (fun r : LoadRec =>
          if r.entry = entry ∧ r.grp = grp ∧ r.band = n then { r with arrived := true } else r)) ∧
        (t.eng e).begun = max x.begun (n + 1) ∧ (t.eng e).scratch = x.scratch)) ∧
    (∀ r, x.loads.find? (fun r => r.entry == entry.val && r.grp == grp && !r.arrived) = some r → s.loading e = true →
      Gives (.loadGroupArrive e entry grp) s (fun t =>
        (∀ q ∈ (t.eng e).loads, q.entry = entry → q.grp = grp → q.band = r.band → q.arrived = true) ∧
        (t.eng e).loads.length = x.loads.length ∧ t.hub = s.hub ∧ (t.eng e).pc = x.pc ∧
        (s.hubU.errs = [] → s.ldData e r.band entry = true → ∀ i ∈ s.ldRows e r.band entry grp, ∀ j < s.ldLen e r.band entry i,
          s.ldAt e r.band entry i + j < s.capacity →
          scrByte (t.eng e) (s.ldArea e r.band entry + s.ldOff e r.band entry i + j) = hubByte s (s.ldAt e r.band entry i + j)) ∧
        (s.ldData e r.band entry = false → (t.eng e).scratch = x.scratch) ∧
        ∀ a, (∀ i ∈ s.ldRows e r.band entry grp, ¬ (s.ldArea e r.band entry + s.ldOff e r.band entry i ≤ a ∧
          a < s.ldArea e r.band entry + s.ldOff e r.band entry i + s.ldLen e r.band entry i)) →
          scrByte (t.eng e) a = scrByte x a)) ∧
    ∀ (k : TickToken) (rest : List TickToken), (s.wu (s.unitOf e)).toks = k :: rest → s.loading e = true →
      s.rf (Rf.ENG_STATUS_STATE e) = 1 → k.band = (s.wu (s.unitOf e)).done → s.gatesMet e k.band = true →
      s.seamAllows (s.unitOf e) k.band = true → x.swapAt = none → x.loadAt = none →
      Gives (.bandStart e) s (fun t => t.rf (Rf.ENG_STATUS_STATE e) = 2 ∧ (t.eng e).tok = k ∧ (t.eng e).pc = 0 ∧
        (t.eng e).loops = [] ∧ (t.eng e).tabs = [] ∧ (t.eng e).hist0 = [] ∧ (t.eng e).hist1 = [] ∧ (t.eng e).run = 0 ∧
        (t.eng e).scratch = x.scratch ∧ (∀ r, (t.eng e).s r = x.s r) ∧ (t.wu (s.unitOf e)).toks = rest)

/-- R62, R64, R67 and Table 2.14: a fault retires its engine, shows its cause and raises event 0xD005; the unit it
served goes to the lowest-numbered standby spare of the section, and its band is run again: the spare is loaded from
the shadow of the engine that failed, or, where that was itself a spare that never became ready, of the one before it;
with no spare left the unit is unserved with event 0xD008. SPARE_READY lets the spare go on with event 0xD006. Model's
choices: logs 47, 48, 49 and 143. -/
def Obligations.EngineFaults : Prop :=
  ∀ (e : Eng) (s : State), s.evq.length < 800 →
    let u := s.unitOf e
    let sec := engSection e
    (∀ p ∈ ([(.engineWatchdog e, .wdog, 1, s.wdogDue e), (.engineHang e, .hang, 2, (s.hangAt e).isSome),
        (.engineFault e .wdog, .wdog, 1, s.wdogDue e), (.engineFault e .hang, .hang, 2, (s.hangAt e).isSome),
        (.engineFault e .code, .code, 0, s.canFault e), (.engineFault e .tile, .tile, 3, s.canFault e)] :
        List (Instr × FaultCause × Nat × Bool)), p.2.2.2 = true → Gives p.1 s (fun t =>
      t.rf (faultFld e p.2.1) = 1 ∧ t.rf (Rf.ENG_ROLE_RETIRED e) = 1 ∧ t.rf (Rf.ENG_STATUS_STATE e) = 7 ∧
      (t.eng e).queue = [] ∧ (t.eng e).copies = [] ∧ Raised s t 0xD005 (e + 256 * u) p.2.2.1 0 ∧ t.hub = s.hub ∧
      (s.rf (Rf.ENG_ROLE_SPARE e) = 0 → u < 112 →
        (∀ f, s.spareOf sec = some f → t.rf (Rf.ENG_UNIT_ENGINE u) = f ∧ t.rf (Rf.ENG_ROLE_UNIT f) = u ∧
          t.rf (Rf.ENG_ROLE_SPARE f) = 0 ∧
          (s.rf (Rf.ENG_STATUS_STATE e) ≠ 0 ∨ (s.wu u).failed = none → (t.wu u).failed = some e.val) ∧
          (s.rf (Rf.ENG_STATUS_STATE e) = 0 → ∀ b, (s.wu u).failed = some b → (t.wu u).failed = some b) ∧
          (s.cadOn = true → (t.wu u).rerun = some (s.wu u).done)) ∧
        (s.spareOf sec = none → t.rf (Rf.ENG_UNIT_UNSERVED u) = 1 ∧ Raised s t 0xD008 (e + 256 * u) 0 0)))) ∧
    ∀ (v : Fin 112) (b : Nat), (s.wu v).failed = some b → s.hubActive = true → s.unserved v = false → s.hubU.errs = [] →
      let f := s.rf (Rf.ENG_UNIT_ENGINE v)
      f < 119 → s.rf (Rf.ENG_STATUS_STATE f) = 0 → f ≠ b → s.cadOn = true → Gives (.spareReady v) s (fun t =>
        t.rf (Rf.ENG_STATUS_STATE f) = 1 ∧ t.rf (Rf.ENG_STATUS_ACTIVE_BANK f) = s.rf (Rf.ENG_STATUS_ACTIVE_BANK b) % 2 ∧
        (t.eng f).adm0 = (s.eng b).adm0 ∧ (t.eng f).adm1 = (s.eng b).adm1 ∧
        Raised s t 0xD006 (f + 256 * s.unitOf f) (s.wu v).done b)

/-! ### The cadence unit (chapter 4) -/

/-- R109, R111, R112 and R115: a tick under SRC = 1 comes at START plus a whole number of periods; under SRC = 0 with
the trigger of MASTER that follows the H-th line or is the first of the run, which is the first line of the band it
opens, and at the timeout of a band that has lines: GAP_US after the last tick, or after the first line where that came
later (whose lines R111 means is the model's choice: log 149); under SRC = 2 with an edge of the input and the kind
CAD_SRC names, unless it comes within PERIOD/2 of the last tick. It closes the open band at its instant and opens the
next one there; the first tick opens band 0. Where a trigger of the instant has brought the tick on (R109), the command
that stands for it changes nothing more. R126 to R129: at a tick the gear rises by one step for a late band of Intake,
Fuse or Sieve, of Pack in STREAM, a fast window or a spare substitution, no further than 3, in STREAM 2; a late band of
Pack outside STREAM sets 3; the floor lifts it. After UP_CLEAN clean ticks it falls by one, not below the floor. Events
0xC002 and 0xC003 tell of the two. A tick of the running cadence unit that does not enter hold takes its gear so, from
the causes that have come up by it. Model's choices: logs 4, 5, 59, 64 and 65. -/
def Obligations.TicksCloseAndOpen : Prop :=
  (∀ (s : State), s.ticking = true →
     let n := if s.cad.started then s.openBand + 1 else 0
     let made (c : Nat) (t : State) : Prop :=
       t.count = c ∧ t.rf Rf.CAD_BAND_BAND = n % 2 ^ 64 ∧ t.cad.started = true ∧ t.cad.lines = 0 ∧
       t.rf Rf.CAD_TICK_TIME_NS = t.now % 2 ^ 32 ∧ t.rf Rf.CAD_TICK_WRAP = t.now / 2 ^ 32 ∧
       (∃ b ∈ t.cad.bands, b.band = n ∧ b.opened = c ∧ b.openT = t.now ∧ b.closed = none ∧ b.first = none) ∧
       (s.cad.started = true → ∀ b ∈ t.cad.bands, b.band = s.openBand → b.closed = some c ∧ b.lines = s.cad.lines)
     (s.cadSrc = 1 → 0 < s.cad.ahead → exec .tickTime s = .next (s.setCad { s.cad with ahead := s.cad.ahead - 1 })) ∧
     (s.cadSrc = 1 → s.cad.ahead = 0 → Gives .tickTime s (made (s.countReach s.nextTickTime))) ∧
     (s.cadSrc ≠ 1 → exec .tickTime s = .next s) ∧
     (∀ g : Fin 56, s.cadSrc = 0 → s.master = g.val → s.genOn g = true → s.rf (Rf.POS_TG_CFG_SRC g) = 2 →
       (s.genSt g).ahead = 0 → s.cad.started = false ∨ s.height ≤ s.cad.lines →
       let at' := s.genAt g (s.genSt g).k
       let c := s.countReach at'
       Gives (.triggerTime g) s (fun t => t.count = c ∧ t.rf Rf.CAD_BAND_BAND = n % 2 ^ 64 ∧ t.cad.started = true ∧
         t.cad.lines = 1 ∧ t.rf Rf.CAD_TICK_TIME_NS = t.now % 2 ^ 32 ∧ t.rf Rf.CAD_TICK_WRAP = t.now / 2 ^ 32 ∧
         (∃ b ∈ t.cad.bands, b.band = n ∧ b.opened = c ∧ b.openT = t.now ∧ b.closed = none ∧
           b.first.map (·.1) = some (BitVec.ofNat 64 at')) ∧
         (s.cad.started = true → ∀ b ∈ t.cad.bands, b.band = s.openBand → b.closed = some c ∧ b.lines = s.cad.lines))) ∧
     (∀ (d : Fin 8) (level : Bool) (date held : Nat), s.cadSrc = 2 → s.rf Rf.CAD_SRC_DIN = d.val →
       edgeIs (s.rf Rf.CAD_SRC_EDGE) level = true → (if level then 1 else 0) ≠ s.rf (Rf.POS_DIN_STAT_LEVEL d) →
       s.rf (Rf.POS_DIN_STAT_LEVEL d) ≤ 1 → s.rf (Rf.POS_DIN_CFG_FILT d) ≤ held → s.cad.ahead = 0 →
       let c := max s.count date
       let last := s.rf Rf.CAD_TICK_TIME_NS + 2 ^ 32 * s.rf Rf.CAD_TICK_WRAP
       let soon := s.cad.started = true ∧ 2 * ((s.timeAt c + 2 ^ 64 - last) % 2 ^ 64) < s.rf Rf.CAD_PERIOD_PERIOD_NS
       (¬ soon → Gives (.dinEdge d level ⟨date, held⟩) s (made c)) ∧
       (soon → Gives (.dinEdge d level ⟨date, held⟩) s (fun t => Counted Rf.CAD_CNT_EXT_IGN s t ∧
         t.rf Rf.CAD_BAND_BAND = s.rf Rf.CAD_BAND_BAND ∧ t.cad = s.cad))) ∧
     (∀ b, s.bandRec s.openBand = some b → s.cadSrc = 0 → s.rf Rf.CAD_MAXGAP_GAP_US ≠ 0 → b.first.isSome = true →
       let gap := s.rf Rf.CAD_MAXGAP_GAP_US * 1250
       Gives .gapTimeout s (made (max s.count (if b.firstAt ≤ b.opened + gap then b.opened + gap else b.firstAt + gap)))) ∧
     (s.rf Rf.CAD_MAXGAP_GAP_US = 0 → exec .gapTimeout s = .next s)) ∧
  (∀ (m : Nat) (s : State), s.evq.length < 1000 → s.rf Rf.TST_TICK_EN = 0 → s.gear ≤ 3 → s.gearFloor ≤ 3 →
    s.rf Rf.CAD_GEAR_CLEAN_CNT < 2 ^ 16 - 1 →
    let stream := s.mode = 4
    let top := if stream then 2 else 3
    let is (i : Nat) : Prop := s.cad.causes.testBit i = true
    let down := is 0 ∨ is 1 ∨ is 2 ∨ is 4 ∨ is 5 ∨ (stream ∧ is 3)
    let g1 := if ¬ stream ∧ is 3 ∧ s.gear < 3 then 3 else if down ∧ s.gear < top then s.gear + 1 else s.gear
    let g := max g1 s.gearFloor
    let clean := s.cad.causes = 0 ∧ s.cad.unclean = false ∧ s.rf Rf.MGT_TSTAT_THROTTLE = 0
    let n := if clean then s.rf Rf.CAD_GEAR_CLEAN_CNT + 1 else 0
    let full := s.rf Rf.CAD_GEAR_UP_CLEAN ≤ n
    let t := s.ladder m
    t.gear = (if full ∧ s.gearFloor < g then g - 1 else g) ∧
    t.rf Rf.CAD_GEAR_CLEAN_CNT = (if full then 0 else n) ∧
    (s.gear < g → Raised s t 0xC002 (s.gear + 256 * g) m (s.cad.causes ||| if g1 < s.gearFloor then 64 else 0)) ∧
    (full → s.gearFloor < g → Raised s t 0xC003 (g + 256 * (g - 1)) m 0)) ∧
  (∀ s : State, s.gearFloor = max (s.rf Rf.CAD_GEAR_FLOOR) (
    let therm := if s.rf Rf.CAD_GEOM_RESERVE * 8000 < s.rf Rf.MGT_TSTAT_SKIP * 256 then 3
      else if s.rf Rf.MGT_TSTAT_THROTTLE ≠ 0 then 1 else 0
    if s.mode = 4 then min 2 therm else therm)) ∧
  ∀ s : State, s.ticking = true → s.cadSrc = 1 → s.cad.ahead = 0 → s.cad.started = true → s.cadState = 1 →
    Gives .tickTime s (fun t => t.cadState = 1 → ∃ u : State, t.gear = (u.ladder s.openBand).gear ∧ u.gear = s.gear ∧
      u.gearFloor = s.gearFloor ∧ u.mode = s.mode ∧ (s.cad.unclean = true → u.cad.unclean = true) ∧
      ∀ i, s.cad.causes.testBit i = true → u.cad.causes.testBit i = true)

/-- R121, R122, R130 to R136, R410 and R442: HOLD waits for the next tick; ABANDON gives up every held band not yet
replayed and leaves the first live band to the tick; catch-up starts at the first held band; a token issued without a
tick reaches every unit of its section that may have that of its next band, at gear 4 for a held band, and a held band
that is due with no line left is lost; the due time of Intake's band finds it late where a unit had not issued its
wtick by then; the delay of a tick's tokens ends. Model's choices: logs 57, 60, 61, 62, 63 and 65. -/
def Obligations.HoldCatchUpAndDueTimes : Prop :=
  ∀ (sec : Fin 4) (s : State), s.evq.length + 2 * s.cad.bands.length + 2 * s.cad.jitEvs.length < 1000 →
    (s.cadOn = true → exec .hold s = .next (s.setCad { s.cad with holdReq := true })) ∧
    (s.cadOn = false → Gives .hold s (fun t => Raised s t 0xC00B 0 0 0 ∧ FieldsAndEvents [] s t)) ∧
    (2 ≤ s.cadState → Gives .abandon s (fun t => t.cad.k = s.cad.k ∧
      (∀ b ∈ t.cad.bands, b.held = true → s.replayBegun b.band = false → b.lost = true) ∧
      ∀ b ∈ s.cad.bands, b.held = true → b.lost = false → s.replayBegun b.band = false → Raised s t 0xC007 0 b.band 0)) ∧
    (∀ n, s.secUnits 0 ≠ [] → (s.replayBegun n = true ↔ ∃ u ∈ s.secUnits 0, n < (s.wu u).next)) ∧
    (s.cadState < 2 → Gives .abandon s (fun t => Raised s t 0xC00B 0 0 0 ∧ FieldsAndEvents [] s t)) ∧
    (s.cadState = 2 → (∀ i < 4, s.secDone i s.cad.h = true) → (∀ p < 48, s.portOn p = true → s.correctedFree p s.cad.h = true) →
      Gives .catchUpStart s (fun t => t.cadState = 3 ∧ Raised s t 0xC005 0 s.cad.h 0)) ∧
    Gives (.heldTokenIssue sec) s (fun t =>
      (∀ u ∈ s.secUnits sec, let n := (s.wu u).next
        s.heldDue u n = true → (sec ≠ 0 ∨ n ≠ s.cad.nI ∨ s.bandHeld n = false ∨ s.allGone n = false) →
        n < (t.wu u).next ∧ ∃ k l, (t.wu u).toks = (s.wu u).toks ++ k :: l ∧ k.band = n ∧ (s.bandHeld n = true → k.gear = 4)) ∧
      (let n := s.cad.nI
       sec = 0 → s.bandHeld n = true → s.bandLost n = false → s.allGone n = true → (∀ u ∈ s.secUnits 0, (s.wu u).next ≤ n) →
        (∃ u ∈ s.secUnits 0, s.heldDue u n = true) → Raised s t 0xC007 0 n 0 ∧ ∀ b ∈ t.cad.bands, b.band = n → b.lost = true)) ∧
    (∀ c, s.cadOn = true → s.intakeDue s.cad.dI = some c → Gives (.bandDue 0) s (fun t =>
      t.cad.dI = s.cad.dI + 1 ∧ t.count = max s.count c ∧
      ∀ b, s.bandRec s.cad.dI = some b → b.held = false → b.lost = false → s.cad.stop = false →
        s.cad.late.contains (0, s.cad.dI) = false → (∃ u ∈ s.secUnits 0, ∀ k, s.wtickCount u s.cad.dI = some k → c < k) →
        t.rf (Rf.CAD_LATE_LAST 0) = s.cad.dI % 2 ^ 32 ∧
        t.rf (Rf.CAD_LATE_COUNT 0) = min (s.rf (Rf.CAD_LATE_COUNT 0) + 1) (2 ^ 24 - 1) ∧ t.cad.causes.testBit 0 = true)) ∧
    (sec ≠ 0 → exec (.bandDue sec) s = .next s) ∧
    (∀ c, s.cad.jit = some c → Gives .tickJitterIssue s (fun t => t.cad.jit = none ∧ t.cad.jitEvs = [] ∧
      t.count = max s.count c ∧ ∀ e ∈ s.cad.jitEvs, Raised s t e.1 e.2.1 e.2.2.1 e.2.2.2))

/-! ### Position and triggers (chapter 7) -/

/-- R109, R196 to R200 and R207 to R210: a generator's event latches the count of its channel and its time, and is
counted, the LVDS ones make a pulse where the brake has nothing against it; an edge of A or B that outlasts the filter
moves the count by one, and both at once are an error that moves nothing; an edge of Z latches the count, checks the
pair against CPI where the count moved in one direction only, and applies an armed load; a transition the filter stops
moves no count, an edge of Z that it stops only what the filter has seen of Z (log 162). A trigger that another one of
its instant has brought on is made but once. Model's choices: logs 5, 81, 84 and 196. -/
def Obligations.TriggersAndEncoderEdges : Prop :=
  (∀ (g : Fin 56) (s : State), s.genOn g = true →
    let x := s.genSt g
    let latched (time : Nat) (t : State) : Prop :=
      t.rf (Rf.POS_TG_LAST_COUNT g) = s.posCount (s.rf (Rf.POS_TG_CFG_LATCH_CH g)) % 2 ^ 64 ∧
      t.rf (Rf.POS_TG_LTIME_TIME_NS g) = time % 2 ^ 32 ∧ t.rf (Rf.POS_TG_LTIME_WRAP g) = time / 2 ^ 32 ∧
      t.rf (Rf.POS_TG_STAT_EVENTS g) = (s.rf (Rf.POS_TG_STAT_EVENTS g) + 1) % 2 ^ 32 ∧
      (48 ≤ g.val → x.left = none → (t.genSt g).left = some t.count ∧
        (t.genSt g).pulse = some (t.count + (25 * s.rf (Rf.POS_TG_CFG_PW g) + 3) / 4))
    (0 < x.ahead → s.rf (Rf.POS_TG_CFG_SRC g) = 2 → exec (.triggerTime g) s = .next (s.setGenSt g { x with ahead := x.ahead - 1 })) ∧
    (0 < x.ahead → exec (.triggerExt g) s = .next (s.setGenSt g { x with ahead := x.ahead - 1 })) ∧
    (x.ahead = 0 → s.rf (Rf.POS_TG_CFG_SRC g) = 2 → Gives (.triggerTime g) s (fun t => latched (s.genAt g x.k) t ∧
      (t.genSt g).k = x.k + 1 ∧ t.count = s.countReach (s.genAt g x.k))) ∧
    (x.ahead = 0 → s.rf (Rf.POS_TG_CFG_SRC g) = 3 → ∀ c cs, x.pend = c :: cs → Gives (.triggerExt g) s (fun t =>
      latched ((s.timeAt c + s.rf (Rf.POS_TG_CFG_DELAY_NS g)) % 2 ^ 64) t ∧ (t.genSt g).pend = cs))) ∧
  (∀ (ch : Fin 8) (a b : Bool) (date held : Nat) (s : State), held < s.rf (Rf.POS_ENC_CFG_FILT ch) →
    exec (.encoderEdge ch a b ⟨date, held⟩) s = .next s ∧ ∃ z d, exec (.indexEdge ch ⟨date, held⟩) s =
      .next (s.setEncCh ch { s.encCh ch with z := z, zFall := d })) ∧
  ∀ (ch : Fin 8) (a b : Bool) (date held : Nat) (s : State), s.rf (Rf.POS_ENC_CFG_EN ch) ≠ 0 → s.evq.length < 1000 →
    s.rf (Rf.POS_ENC_CFG_FILT ch) ≤ held →
    let x := s.encCh ch
    let n := s.rf (Rf.POS_ENC_CNT_COUNT ch)
    let forward : Bool := decide ((x.a, x.b, a, b) ∈ [(false, false, true, false), (true, false, true, true),
      (true, true, false, true), (false, true, false, false)])
    let up := forward != decide (s.rf (Rf.POS_ENC_CFG_DIRINV ch) ≠ 0)
    ((a ≠ x.a ↔ b = x.b) → Gives (.encoderEdge ch a b ⟨date, held⟩) s (fun t =>
      t.rf (Rf.POS_ENC_CNT_COUNT ch) = (if up then n + 1 else n + 2 ^ 64 - 1) % 2 ^ 64 ∧
      t.rf (Rf.POS_ENC_STAT_DIR ch) = (if up then 0 else 1) ∧ t.rf (Rf.POS_ENC_STAT_STOPPED ch) = 0 ∧
      (t.encCh ch).a = a ∧ (t.encCh ch).b = b)) ∧
    (a ≠ x.a → b ≠ x.b → Gives (.encoderEdge ch a b ⟨date, held⟩) s (fun t => t.rf (Rf.POS_ENC_CNT_COUNT ch) = n ∧
      t.rf (Rf.POS_ENC_STAT_ERR ch) = min (s.rf (Rf.POS_ENC_STAT_ERR ch) + 1) (2 ^ (Rf.POS_ENC_STAT_ERR ch).width - 1) ∧
      (s.stamps = [] → Raised s t 0x3001 ch 0 0))) ∧
    (let old := s.rf (Rf.POS_ENC_IDX_LAST ch)
     let cpi := s.rf (Rf.POS_ENC_CPI_CPI ch)
     let off := (((countDiff n old).natAbs : Int) - cpi).natAbs
     x.z = false → Gives (.indexEdge ch ⟨date, held⟩) s (fun t => t.rf (Rf.POS_ENC_IDXP_PREV ch) = old % 2 ^ 64 ∧
      (t.encCh ch).z = true ∧
      t.rf (Rf.POS_ENC_IDX_LAST ch) = n % 2 ^ 64 ∧
      (s.rf (Rf.POS_ENC_STAT_ARMED ch) = 0 → t.rf (Rf.POS_ENC_CNT_COUNT ch) = n) ∧
      (s.rf (Rf.POS_ENC_STAT_ARMED ch) ≠ 0 → t.rf (Rf.POS_ENC_STAT_ARMED ch) = 0 ∧
        t.rf (Rf.POS_ENC_CNT_COUNT ch) = s.rf (Rf.POS_ENC_PRESET_VALUE ch) % 2 ^ 64) ∧
      (x.up = x.down → t.rf (Rf.POS_ENC_STAT_DRIFT ch) = s.rf (Rf.POS_ENC_STAT_DRIFT ch)) ∧
      (x.idx = true → cpi ≠ 0 → x.up ≠ x.down → s.rf (Rf.POS_ENC_CFG_TOL ch) < off →
        t.rf (Rf.POS_ENC_STAT_DRIFT ch) = min (s.rf (Rf.POS_ENC_STAT_DRIFT ch) + 1) (2 ^ (Rf.POS_ENC_STAT_DRIFT ch).width - 1) ∧
        Raised s t 0x3002 ch off 0)))

/-- R199 to R204 and R228: a preset load and its arming, refused while the cadence runs; a channel at rest has no
speed; a poll falls due POLL_US after the one before, and one that finds the frame before it or its timeout still
running is skipped; a sample is counted by its cause or moves the count by its difference; a digital input's edge that
outlasts the filter is latched; an emulation output steps one edge toward its target, no sooner than its brake allows,
and Z stands where its position is a multiple of IDX. That a load keeps the dates of the counts before it is the
model's reading, and the date of a port's first poll and how long its frame runs are operands. Model's choices: logs
20, 156, 158 and 162. -/
def Obligations.PositionInputsAndEmulation : Prop :=
  (∀ (ch : Fin 8) (s : State), s.evq.length < 1024 →
    (s.cadOn = true → ∀ i ∈ [Instr.presetLoad ch, .loadIdx ch], Gives i s (fun t =>
      Raised s t 0x300C ch 0 0 ∧ FieldsAndEvents [] s t)) ∧
    (s.cadOn = false → Gives (.presetLoad ch) s (fun t => (t.encCh ch).hist.map (·.2) = (s.encCh ch).hist.map (·.2) ∧
      t.rf (Rf.POS_ENC_CNT_COUNT ch) = s.rf (Rf.POS_ENC_PRESET_VALUE ch) % 2 ^ 64)) ∧
    (s.cadOn = false → Gives (.loadIdx ch) s (fun t => t.rf (Rf.POS_ENC_STAT_ARMED ch) = 1 ∧
      FieldsOnly [Rf.POS_ENC_STAT_ARMED ch] s t)) ∧
    Gives (.idxDisarm ch) s (fun t => t.rf (Rf.POS_ENC_STAT_ARMED ch) = 0 ∧ FieldsOnly [Rf.POS_ENC_STAT_ARMED ch] s t) ∧
    (s.rf (Rf.POS_ENC_STAT_STOPPED ch) = 0 → Gives (.encoderStopTimeout ch) s (fun t =>
      t.rf (Rf.POS_ENC_VEL_VEL ch) = 0 ∧ t.rf (Rf.POS_ENC_STAT_STOPPED ch) = 1 ∧
      t.rf (Rf.POS_ENC_CNT_COUNT ch) = s.rf (Rf.POS_ENC_CNT_COUNT ch) ∧ ∀ n d l, (s.encCh ch).hist = (n, d) :: l →
        t.count = max s.count (d + s.rf (Rf.POS_ENC_CFG_STOP_US ch) * 1250)))) ∧
  (∀ (k : Fin 4) (f : SerialFrame) (wait timeout : Nat) (s : State), s.rf (Rf.POS_SSP_CFG_EN k) ≠ 0 →
    let n := s.rf (Rf.POS_SSP_CFG_BITS k)
    let x := s.serCh k
    let count := s.rf (Rf.POS_SSP_CNT_COUNT k)
    let bumped (g : Fld) (t : State) : Prop := t.rf g = min (s.rf g + 1) (2 ^ g.width - 1) ∧
      t.rf (Rf.POS_SSP_CNT_COUNT k) = count ∧ (t.serCh k).bad = x.bad + 1
    let due := x.next.getD (max s.count f.date)
    let next := due + s.rf (Rf.POS_SSP_CFG_POLL_US k) * 1250
    let late := due < x.busy
    (late → Gives (.serialPoll k ⟨f.date, wait, timeout⟩) s (fun t => t.rf (Rf.POS_SSP_STAT_NORESP k) = min (s.rf (Rf.POS_SSP_STAT_NORESP k) + 1)
      (2 ^ (Rf.POS_SSP_STAT_NORESP k).width - 1) ∧ t.serCh k = { x with next := some next } ∧ t.count = max s.count due)) ∧
    (¬ late → Gives (.serialPoll k ⟨f.date, wait, timeout⟩) s (fun t =>
      t.serCh k = { x with next := some next, busy := due + s.frameRun k wait timeout } ∧ t.count = max s.count due ∧
      t.regs = s.regs)) ∧
    (s.rf (Rf.POS_SSP_CFG_PROTO k) ≠ 2 → s.frameRun k wait timeout = n * 1250000 / max 1 (s.rf (Rf.POS_SSP_CFG_CLK_KHZ k))) ∧
    (f.answered = false → Gives (.serialSample k f) s (bumped (Rf.POS_SSP_STAT_NORESP k))) ∧
    (f.answered = true → f.complete = true → s.rf (Rf.POS_SSP_CFG_PROTO k) = 0 →
      let v := f.raw.toNat % 2 ^ n
      let diff := match x.prev with | some p => toSigned n (v + 2 ^ n - p) | none => 0
      (diff.natAbs ≤ s.rf (Rf.POS_SSP_JUMP_JUMP k) ∨ s.rf (Rf.POS_SSP_FLAG_STALE k) ≠ 0 →
        Gives (.serialSample k f) s (fun t => (t.serCh k).prev = some v ∧ (t.serCh k).bad = 0 ∧
          t.rf (Rf.POS_SSP_CNT_COUNT k) = ofSigned 64 (count + diff) ∧ t.rf (Rf.POS_SSP_FLAG_STALE k) = 0)) ∧
      (s.rf (Rf.POS_SSP_JUMP_JUMP k) < diff.natAbs → s.rf (Rf.POS_SSP_FLAG_STALE k) = 0 →
        Gives (.serialSample k f) s (bumped (Rf.POS_SSP_STAT_JUMPREJ k))))) ∧
  (∀ (d : Fin 8) (level : Bool) (date held : Nat) (s : State), held < s.rf (Rf.POS_DIN_CFG_FILT d) →
    exec (.dinEdge d level ⟨date, held⟩) s = .next s) ∧
  (∀ (d : Fin 8) (level : Bool) (date held : Nat) (s : State), (if level then 1 else 0) ≠ s.rf (Rf.POS_DIN_STAT_LEVEL d) →
    s.rf (Rf.POS_DIN_CFG_FILT d) ≤ held → s.rf (Rf.POS_DIN_STAT_LEVEL d) ≤ 1 → Gives (.dinEdge d level ⟨date, held⟩) s (fun t =>
      let k := s.rf (Rf.POS_DIN_CFG_EDGE d)
      t.rf (Rf.POS_DIN_STAT_LEVEL d) = (if level then 1 else 0) ∧
      (k = 2 ∨ k = (if level then 0 else 1) →
        t.rf (Rf.POS_DIN_LAT_COUNT d) = s.posCount (s.rf (Rf.POS_DIN_CFG_LATCH_CH d)) % 2 ^ 64 ∧
        t.rf (Rf.POS_DIN_TIME_TIME_NS d) = s.timeAt date % 2 ^ 32 ∧ t.rf (Rf.POS_DIN_TIME_WRAP d) = s.timeAt date / 2 ^ 32 ∧
        t.rf (Rf.POS_DIN_STAT_EDGES d) = min (s.rf (Rf.POS_DIN_STAT_EDGES d) + 1) (2 ^ (Rf.POS_DIN_STAT_EDGES d).width - 1)) ∧
      (k < 2 → k ≠ (if level then 0 else 1) → t.rf (Rf.POS_DIN_LAT_COUNT d) = s.rf (Rf.POS_DIN_LAT_COUNT d) ∧
        t.rf (Rf.POS_DIN_STAT_EDGES d) = s.rf (Rf.POS_DIN_STAT_EDGES d)))) ∧
  ∀ (o : Fin 4) (s : State), s.rf (Rf.POS_EMU_CFG_EN o) ≠ 0 → s.mode ≠ 0 →
    let x := s.emuSt o
    let gap := max 7 ((s.rf (Rf.BRK_EMU_MINEDGE_NS o) * 5 + 3) / 4)
    let c := match x.last with | some c => max s.count (c + gap) | none => s.count
    (s.emuTarget o ≠ x.e → Gives (.emulationEdge o) s (fun t => t.count = c ∧ (t.emuSt o).last = some c ∧
      (t.emuSt o).e = (if x.e < s.emuTarget o then x.e + 1 else x.e - 1) ∧
      (t.emuSt o).quad = (x.quad + if x.e < s.emuTarget o then 1 else 3) % 4 ∧
      ((t.emuSt o).z = true ↔ s.rf (Rf.POS_EMU_CFG_IDX o) ≠ 0 ∧ (s.rf (Rf.POS_EMU_CFG_IDX o) : Int) ∣ (t.emuSt o).e) ∧
      t.rf Rf.BRK_CNT2_EMUHOLD = (if s.count < c then min (s.rf Rf.BRK_CNT2_EMUHOLD + 1) (2 ^ Rf.BRK_CNT2_EMUHOLD.width - 1)
        else s.rf Rf.BRK_CNT2_EMUHOLD))) ∧
    (s.emuTarget o = x.e → exec (.emulationEdge o) s = .next s)

/-- R215 to R225 and Table 14.7: a compare entry fires when the level reaches its position, is late when it was behind
as it became head, and stays while the level is short of it; a marker is released at the end of its drives and no
sooner than MINW_US after its rise; an append and a flush of the list; a record builds an entry of its station; a batch
is appended in order of position. Model's choices: logs 20, 83 and 160. -/
def Obligations.CompareMarkersAndMarking : Prop :=
  (∀ (u : Fin 4) (s : State), s.rf (Rf.POS_CMP_CFG_EN u) ≠ 0 → s.mode ≠ 0 → s.mode ≠ 5 →
    ∀ x l, (s.cmpU u).list = x :: l →
    let pos := s.cmpSign u * toSigned 64 x.e0.toNat
    let one (f : Fld) (t : State) : Prop := t.rf f = min (s.rf f + 1) (2 ^ f.width - 1)
    ((s.cmpU u).qe < pos → pos ≤ s.cmpQ u → Gives (.compareFire u) s (fun t => (t.cmpU u).list = l ∧
      one (Rf.POS_CMP_STAT_FIRED u) t ∧
      ∀ o < 16, x.outMask.testBit o = true → s.mkOut o = {} → (t.mkOut o).on = true)) ∧
    (pos ≤ (s.cmpU u).qe → s.rf (Rf.POS_CMP_CFG_FIRE_LATE u) = 0 → Gives (.compareFire u) s (fun t =>
      (t.cmpU u).list = l ∧ one (Rf.POS_CMP_STAT_LATE u) t ∧ t.pos.mks = s.pos.mks)) ∧
    (pos ≤ (s.cmpU u).qe → s.rf (Rf.POS_CMP_CFG_FIRE_LATE u) ≠ 0 → Gives (.compareFire u) s (fun t =>
      (t.cmpU u).list = l ∧ one (Rf.POS_CMP_STAT_LATEF u) t)) ∧
    ((s.cmpU u).qe < pos → s.cmpQ u < pos → Gives (.compareFire u) s (fun t => { t with pos := s.pos } = s ∧
      t.cmpU u = { s.cmpU u with qb := s.cmpQ u } ∧ (∀ v, v ≠ u.val → t.cmpU v = s.cmpU v) ∧ t.pos.mks = s.pos.mks))) ∧
  (∀ (o : Fin 16) (c : Nat) (s : State), (s.mkOut o).on = true → (s.mkOut o).rise = some c → (s.mkOut o).span = [] →
    let at' := max s.count (((s.mkOut o).pulse.map (·.2)).foldl max 0)
    let least := c + s.rf (Rf.BRK_MK_MINW_US o) * 1250
    (least ≤ at' ∨ (s.mkOut o).ext = true → Gives (.markerRelease o) s (fun t => (t.mkOut o).on = false ∧
      (t.mkOut o).pulse = [] ∧ (t.rf Rf.POS_MK_OUT_LEVEL).testBit o = false ∧ least ≤ t.count)) ∧
    (at' < least → (s.mkOut o).ext = false → Gives (.markerRelease o) s (fun t => (t.mkOut o).on = true ∧
      (t.mkOut o).ext = true ∧ t.rf Rf.BRK_CNT_MKEXT = min (s.rf Rf.BRK_CNT_MKEXT + 1) (2 ^ Rf.BRK_CNT_MKEXT.width - 1)))) ∧
  (∀ (u : Fin 4) (e3 : BitVec 64) (s : State), s.evq.length < 800 →
    let w (j : Nat) : Word := BitVec.ofNat 64 (s.rf (Rf.POS_CMP_STG_E u j))
    ((s.cmpU u).list.length < 4096 → Gives (.posCmpAppend u e3) s (fun t =>
      (t.cmpU u).list = (s.cmpU u).list ++ [⟨w 0, w 1, w 2, e3⟩] ∧ { t with pos := s.pos } = s)) ∧
    (4096 ≤ (s.cmpU u).list.length → Gives (.posCmpAppend u e3) s (fun t => (t.cmpU u).list = (s.cmpU u).list ∧
      Raised s t 0x300C u 0 0)) ∧
    Gives (.flush u) s (fun t => (t.cmpU u).list = [] ∧ t.hub = s.hub ∧ t.cad = s.cad)) ∧
  (∀ (ep : Nat) (ws : List Word) (s s' : State), s.popPacket (s.rf Rf.POS_MK_CHAINS_MARK_CHAIN) 113 = some (ep, ws, s') →
    let defect := s.mode = 3 ∧ (ws.headD 0).toNat % 256 = 0x21 ∧ ws.length = 8
    (¬ defect → exec .markRecord s = .next s') ∧
    (defect → Gives .markRecord s (fun t => ∀ u < 4, s.rf (Rf.POS_MK_CFG_MK_EN u) ≠ 0 →
      s.markClass u ((ws.headD 0).toNat / 256 % 256) = true → (s.cmpU u).built.length < 4096 →
      (s.markEntry u ws).lmask ≠ 0 → ∃ b, (t.cmpU u).built = (s.cmpU u).built ++ [⟨b, ep - 64, s.markEntry u ws⟩] ∧
        (s.markEntry u ws).e0 = BitVec.ofInt 64 (toSigned 64 (ws.getD 2 0).toNat +
          s.cmpSign u * (s.rf (Rf.POS_MK_OFS_OFFSET u) - s.rf (Rf.POS_MK_PAD_PRE u)))))) ∧
  ∀ (u : Fin 4) (s : State), s.rf (Rf.POS_MK_CFG_MK_EN u) ≠ 0 → s.cadOn = true → s.lateBatch u = none → s.lateDrops u = none →
    let n := (s.cmpU u).band
    let mine := (s.cmpU u).built.filter (fun e => e.band == n)
    s.allEnds n = true → (s.cmpU u).list.length + mine.length ≤ 4096 → Gives (.batchClose u) s (fun t =>
      (t.cmpU u).band = n + 1 ∧ (t.cmpU u).built = (s.cmpU u).built.filter (fun e => e.band != n) ∧
      ∃ l : List CmpEntry, (t.cmpU u).list = (s.cmpU u).list ++ l ∧ l.Perm (mine.map (·.ent)) ∧
        l.Pairwise (fun x y => s.fwdPos u x ≤ s.fwdPos u y))

/-! ### Spokelink (chapter 5) -/

/-- R140, R149 and R150: a block read from the wire is the one that was sent, scrambled, with header 01 for data and 10
for control; a lane in HUNT locks after 64 valid headers in a row, of whatever block, with event 0x1001; an invalid one
begins the run afresh at another of the 66 boundaries; in LOCK it is counted, and the 16th among 64 sends the lane back
to HUNT with event 0x1002; the first good marker in AM_HUNT gives the lane its number and its place. What a block
without a valid header leaves in the descrambler is a free value. Model's choices: logs 68 and 209. -/
def Obligations.LaneLock : Prop :=
  (∀ (h : BitVec 58) (ctl : Bool) (w : Word), readBlock h (wireBlock h ctl w).2 =
    ((wireBlock h ctl w).1, if ctl then .ctl w else .data w)) ∧
  ∀ (l : Fin 192) (p date : Nat) (w : BitVec 64) (s : State), s.portOf l = some p → NoAlteration s → s.evq.length < 1000 →
    LineFresh s p (max s.count date) →
    let x := s.lane l
    let blk := s.rf (Rf.SPK_LN_STAT_BLK l)
    let told := p + 256 * l
    (∀ i ∈ ([(.dataBlock l w date, false), (.fill l w date, true), (.am l w date, true), (.ls l w date, true), (.le l w date, true),
        (.st l w date, true), (.sack l w date, true)] : List (Instr × Bool)),
      let scr := (wireBlock x.scr i.2 w).1
      blk = 1 →
        (x.good < 63 → Gives i.1 s (fun t => t.lane l = { x with good := x.good + 1, scr := scr } ∧
          { t with lanes := s.lanes, count := s.count } = s)) ∧
        (63 ≤ x.good → Gives i.1 s (fun t => t.rf (Rf.SPK_LN_STAT_BLK l) = 2 ∧ t.lane l = { bnd := x.bnd, scr := scr } ∧
          Raised s t 0x1001 told 0 0))) ∧
    (blk = 1 → Gives (.invalidSyncHeader l date) s (fun t =>
      { t.lane l with scr := x.scr } = { x with good := 0, bnd := (x.bnd + 1) % 66 } ∧
      { t with lanes := s.lanes, count := s.count, free := s.free } = s)) ∧
    (blk = 2 →
      let bad := (((true :: x.hist).take 64).filter id).length
      (bad < 16 → Gives (.invalidSyncHeader l date) s (fun t => t.rf (Rf.SPK_LN_STAT_BLK l) = 2 ∧
        Counted (Rf.SPK_LN_CNT_BADHDR l) s t)) ∧
      (16 ≤ bad → Gives (.invalidSyncHeader l date) s (fun t => t.rf (Rf.SPK_LN_STAT_BLK l) = 1 ∧
        t.rf (Rf.SPK_LN_STAT_AMST l) = 0 ∧ Counted (Rf.SPK_LN_CNT_LOCKLOSS l) s t ∧ Raised s t 0x1002 told 0 0))) ∧
    (blk = 2 → s.rf (Rf.SPK_LN_STAT_AMST l) = 0 → ctlGood w.toNat = true → w.toNat % 256 = 0x2D →
      Gives (.am l w date) s (fun t => t.rf (Rf.SPK_LN_STAT_AMST l) = 1 ∧
        t.rf (Rf.SPK_LN_STAT_LANE_ID l) = w.toNat / 2 ^ 8 % 8 ∧ (t.lane l).seq = w.toNat / 2 ^ 24 % 2 ^ 16 ∧
        (t.lane l).idx = 0)) ∧
    (blk = 2 → s.rf (Rf.SPK_LN_STAT_AMST l) = 0 → s.portUp p = false → ctlGood w.toNat = false → Gives (.fill l w date) s (Counted (Rf.SPK_PCNT2_BADCTL p) s))

/-- R142 to R145, R147, R157, R160 and R186 on a port of one lane: FILL carries nothing; LS opens a line; a data block
extends it, or is an orphan; LE ends it, good or bad; ST is what SPK_PCAM shows; SACK ends the messages it names; a
marker in its place numbers its column. A block that comes once the open line has met its timeout finds it closed. A
good line whose trigger is known and whose row is open, before the Intake due time of its band, is placed (R168, R169):
its samples lie in the raw ring in the row of its trigger and NEXT has passed the row; while the cadence unit is
stopped it changes nothing. Stated for a port of one member, with no earlier row open, a line of the port's width and
no TST_LINE in force. On a port of several lanes (R145, R153) a block of a lane whose turn has not come only joins that
lane's buffer, and one of the lane whose turn it is is the next of the port stream, and the turn moves on. Model's
choices: logs 5, 68 and 71. -/
def Obligations.PortStream : Prop :=
  (∀ (l : Fin 192) (p date : Nat) (w : BitVec 64) (s : State), s.portOf l = some p → s.portUp p = true → s.locked l = true →
    s.rf (Rf.SPK_LN_STAT_LOST l) = 0 → (s.stripe p).testBit (s.rf (Rf.SPK_LN_STAT_LANE_ID l)) = true → NoAlteration s →
    LineFresh s p (max s.count date) → (s.lane l).idx + 1 ≠ 4096 →
    let x := s.port p
    let n := (bitsSet (s.stripe p)).length
    (∀ m, s.nextLane p = some (some m) → m ≠ l → (s.lane m).fifo = [] → (s.lane l).filled < 128 → x.switch = none →
      Gives (.dataBlock l w date) s (fun t => (t.lane l).fifo = (s.lane l).fifo ++ [.data w] ∧ t.port p = x ∧
        (∀ k, k ≠ l.val → t.lane k = s.lane k) ∧ t.hub = s.hub ∧ t.regs = s.regs ∧ t.evq = s.evq)) ∧
    (∀ b m o, s.nextLane p = some (some l.val) → (s.lane l).fifo = [] →
      (∀ k ∈ s.lanesOf p, ∀ q, (s.lane k).fifo.head? ≠ some (.col q)) →
      (bitsSet (s.stripe p))[(x.rr + 1) % n]? = some b → s.laneFor p b = some m → m ≠ l → (s.lane m).fifo = [] →
      x.discard = false → x.line = some o → o.words.length < (65536 * s.sampleBits p + 63) / 64 →
      Gives (.dataBlock l w date) s (fun t => (t.lane l).fifo = [] ∧ (t.port p).rr = (x.rr + 1) % n ∧
        (t.port p).line = some { o with words := w :: o.words } ∧ (∀ k, k ≠ l.val → t.lane k = s.lane k) ∧ t.hub = s.hub))) ∧
  ∀ (l : Fin 192) (p date : Nat) (w : BitVec 64) (s : State), SingleLane s p l → s.evq.length < 1000 →
    let x := s.port p
    let v := w.toNat
    let c := max s.count date
    (∀ o, x.line = some o → o.since + s.rf (Rf.SPK_PTMO_LINE_TMO_US p) * 1250 ≤ c → s.cadOn = false →
      (s.lane l).idx + 1 ≠ 4096 → Gives (.dataBlock l w date) s (fun t => (t.port p).line = none ∧
        Counted (Rf.SPK_PCNT_LTMO p) s t ∧ Counted (Rf.SPK_PCNT_BADLINE p) s t ∧ Counted (Rf.SPK_PCNT_ORPHAN p) s t)) ∧
    (LineFresh s p c →
    ((s.lane l).idx + 1 ≠ 4096 → ctlGood v = true →
      (v % 256 = 0x1E → Gives (.fill l w date) s (fun t => t.regs = s.regs ∧ (t.port p).line = x.line ∧ t.hub = s.hub ∧
        t.evq = s.evq)) ∧
      (v % 256 = 0x33 → Gives (.ls l w date) s (fun t =>
        (t.port p).line = some ⟨v / 2 ^ 8 % 2 ^ 32, v / 2 ^ 40 % 2 ^ 8, v / 2 ^ 48 % 4, v / 2 ^ 50 % 4, [], false, c⟩ ∧
        (x.line.isSome = true → Counted (Rf.SPK_PCNT_NOEND p) s t))) ∧
      (v % 256 = 0x4B →
        (x.line = none → Gives (.le l w date) s (Counted (Rf.SPK_PCNT_ORPHAN p) s)) ∧
        (∀ o, x.line = some o → Gives (.le l w date) s (fun t => (t.port p).line = none ∧
          (o.excess = true ∨ o.words.length ≠ ((v / 2 ^ 8 % 2 ^ 16 + 1) * s.sampleBits p + 63) / 64 →
            s.cadOn = false → Counted (Rf.SPK_PCNT_BADLINE p) s t)) ∧
          (let px := v / 2 ^ 8 % 2 ^ 16 + 1
           let bits := px * s.sampleBits p
           let same (t : State) : Prop := (t.port p).line = none ∧ t.rf (Rf.SPK_PCNT_BADLINE p) = s.rf (Rf.SPK_PCNT_BADLINE p)
           o.excess = false → o.words.length = (bits + 63) / 64 →
           lineCrc o.words.reverse ((bits + 7) / 8) = v / 2 ^ 24 % 2 ^ 32 →
            (s.cadOn = false → Gives (.le l w date) s (fun t => same t ∧ t.hub = s.hub ∧ (t.port p).rows = x.rows ∧
              (t.port p).trigs = x.trigs)) ∧
            (∀ u b, s.cadOn = true → s.rf Rf.TST_LINE_EN = 0 → s.trigOf p o.lseq = some u → s.bandRec u.band = some b →
              (∀ d, s.intakeDue u.band = some d → c ≤ d) → u.row < s.height → u.placed = false → u.done = false → x.cur = none →
              s.members p = 1 → o.expo = 0 → o.plane = 0 → px = s.width p →
              (∀ k ∈ x.trigs, k.before u = true → k.done = true ∨ s.height ≤ k.row) →
              let i := u.band * s.height + u.row
              let a := s.rawAt p i 0
              let tag := s.rawTagAt p i
              let n := (bits + 7) / 8
              userBase ≤ a → a + n ≤ s.capacity → (tag + 32 ≤ a ∨ a + n ≤ tag) → Gives (.le l w date) s (fun t => same t ∧
                (t.port p).cur = none ∧ (∀ k ∈ (t.port p).trigs, k.same u = true → k.placed = true ∧ k.done = true) ∧
                t.rf (Rf.SPK_RAWPOS_NEXT p) = max (s.rf (Rf.SPK_RAWPOS_NEXT p)) (i + 1) % 2 ^ (Rf.SPK_RAWPOS_NEXT p).width ∧
                ∀ j < bits / 8, hubByte t (a + j) = BitVec.ofNat 8 ((o.words.reverse.getD (j / 8) 0).toNat / 256 ^ (j % 8))))))) ∧
      (v % 256 = 0x55 → Gives (.st l w date) s (fun t => t.rf (Rf.SPK_PCAM_STATE p) = v / 2 ^ 8 % 2 ^ 8 ∧
        t.rf (Rf.SPK_PCAM_SSID p) = v / 2 ^ 16 % 2 ^ 8 ∧ t.rf (Rf.SPK_PCAM_DN_MASK p) = v / 2 ^ 24 % 2 ^ 8 ∧
        t.rf (Rf.SPK_PCAM_TEMP p) = v / 2 ^ 32 % 2 ^ 8 ∧ t.rf (Rf.SPK_PCAM_CAMFLAGS p) = v / 2 ^ 40 % 2 ^ 16 ∧
        (t.port p).stAt = some c ∧
        (v / 2 ^ 8 % 2 ^ 8 ≠ s.rf (Rf.SPK_PCAM_STATE p) → v / 2 ^ 8 % 2 ^ 8 = 2 ∨ v / 2 ^ 8 % 2 ^ 8 = 3 →
          Raised s t 0x1010 p (v / 2 ^ 8 % 2 ^ 8) 0))) ∧
      (v % 256 = 0x66 →
        (let left := x.msgs.filter (fun m => m.msgid ≠ v / 2 ^ 8 % 2 ^ 8)
         left ≠ x.msgs →
          (v / 2 ^ 24 % 2 ^ 8 = 0 → Gives (.sack l w date) s (fun t => (t.port p).msgs = left ∧ t.rf (Rf.SPK_SETSTAT_STATE p) = 3)) ∧
          (v / 2 ^ 24 % 2 ^ 8 ∈ [1, 2, 3] → Gives (.sack l w date) s (fun t => (t.port p).msgs = left ∧
            (t.port p).cuts = x.cuts.filter (fun k => k.msgid ≠ v / 2 ^ 8 % 2 ^ 8) ∧
            Counted (Rf.SPK_PCNT2_SACKREJ p) s t ∧ Raised s t 0x100C p (v / 2 ^ 24 % 2 ^ 8) 0))) ∧
        ((∀ m ∈ x.msgs, m.msgid ≠ v / 2 ^ 8 % 2 ^ 8) → Gives (.sack l w date) s (Counted (Rf.SPK_PCNT2_BADCTL p) s)))) ∧
    ((s.lane l).idx + 1 ≠ 4096 →
      (x.line = none → Gives (.dataBlock l w date) s (Counted (Rf.SPK_PCNT_ORPHAN p) s)) ∧
      (∀ o, x.line = some o → o.words.length < (65536 * s.sampleBits p + 63) / 64 → Gives (.dataBlock l w date) s (fun t =>
        (t.port p).line = some { o with words := w :: o.words } ∧ t.hub = s.hub))) ∧
    ((s.lane l).idx + 1 = 4096 → ctlGood v = true → v % 256 = 0x2D → v / 2 ^ 8 % 8 = 0 → x.switch = none →
      v / 2 ^ 24 % 2 ^ 16 = ((s.lane l).seq + 1) % 2 ^ 16 → Gives (.am l w date) s (fun t =>
        (t.port p).amSeq = v / 2 ^ 24 % 2 ^ 16 ∧ (t.lane l).idx = 0 ∧ (t.lane l).miss = 0 ∧
        t.rf (Rf.SPK_LN_CNT_AMERR l) = s.rf (Rf.SPK_LN_CNT_AMERR l))))

/-- R138, R139, R143, R147 to R149, R153, R155, R160 to R164 and R182 to R184: enabling a port begins its bring-up,
unless its lane group is one R138 forbids; disabling it switches its lanes off; RELOCK begins again; RESTORE announces
the full mask; the timeouts of a lane in HUNT, of a line, of an acknowledgement and of a silent camera; a settings
message is armed or refused, and the last fragment of the oldest one not sent whole sets the cutover. A downstream slot
in which no queued block and no TRG was sent carries a marker at the beginning of its interval of 4,096, with the
lane's number, the stripe in force and the AMSEQ of the column, and FILL elsewhere; where the slots lie and the first
AMSEQ are free values. Model's choices: logs 68, 71, 151, 152 and 155. -/
def Obligations.PortCommands : Prop :=
  (∀ (l : Fin 192) (s : State), s.evq.length < 1024 → s.rf (Rf.SPK_LN_STAT_BLK l) = 1 → (s.lane l).told = false →
    Gives (.huntTimeout l) s (fun t => (t.lane l).told = true ∧ t.count = max s.count ((s.lane l).huntAt + 1250000) ∧
      Raised s t 0x1003 ((s.portOf l).getD 0 + 256 * l) 0 0)) ∧
  ∀ (p : Fin 48) (k : BitVec 64) (s : State), s.evq.length < 800 →
    let x := s.port p
    let starts (t : State) : Prop := t.portState p = 1 ∧ t.stripe p = 0 ∧ (t.port p).expect = s.fullMask p ∧
      (t.port p).switch = none ∧ ∀ l ∈ s.lanesOf p, t.rf (Rf.SPK_LN_STAT_BLK l) = 1 ∧ t.rf (Rf.SPK_LN_STAT_AMST l) = 0 ∧
        t.rf (Rf.SPK_LN_STAT_LOST l) = 0
    (s.portOn p = false → s.groupOk p = true → Gives (.portEnable p) s (fun t => t.portOn p = true ∧ starts t)) ∧
    (s.portOn p = false → s.groupOk p = false → Gives (.portEnable p) s (fun t => Raised s t 0x100E p 0 0 ∧
      FieldsAndEvents [] s t)) ∧
    (s.portOn p = true → Gives (.relock p) s starts) ∧
    (s.portOn p = true → Gives (.portDisable p) s (fun t => t.portOn p = false ∧ t.portState p = 0 ∧ t.stripe p = 0 ∧
      (t.port p).line = none ∧ (t.port p).dn = [] ∧
      ∀ l ∈ s.lanesOf p, t.rf (Rf.SPK_LN_STAT_BLK l) = 0 ∧ t.rf (Rf.SPK_LN_STAT_AMST l) = 0)) ∧
    (s.portUp p = true → (∀ l ∈ s.lanesOf p, s.locked l = true) → Gives (.restore p) s (fun t =>
      (t.port p).switch = some (s.fullMask p, 1, (s.newestSeq p + 2) % 65536) ∧
      t.rf (Rf.SPK_PSTAT_PENDING p) = s.fullMask p % 2 ^ 8 ∧ t.stripe p = s.stripe p)) ∧
    (s.portUp p = false ∨ (∃ l ∈ s.lanesOf p, s.locked l = false) → Gives (.restore p) s (fun t => Raised s t 0x100E p 0 0 ∧ FieldsAndEvents [] s t)) ∧
    (s.portUp p = true → x.rr = 0 → Gives (.fillColumnInsert p) s (fun t => Counted (Rf.SPK_PRM_INS p) s t ∧
      FieldsOnly [Rf.SPK_PRM_INS p] s t)) ∧
    (∀ o, x.line = some o → Gives (.lineTimeout p) s (fun t => (t.port p).line = none ∧ Counted (Rf.SPK_PCNT_LTMO p) s t ∧
      t.count = max s.count (o.since + s.rf (Rf.SPK_PTMO_LINE_TMO_US p) * 1250))) ∧
    (∀ m c, x.msg = some m → m.left = some c → Gives (.sackTimeout p) s (fun t => (t.port p).msgs = x.later ∧
      (t.port p).cuts = x.cuts ∧ Counted (Rf.SPK_PCNT2_SACKMISS p) s t ∧ Raised s t 0x100B p 0 0)) ∧
    (s.portState p = 2 ∨ s.portState p = 3 → Gives (.silentTimeout p) s (fun t => t.portState p = 4 ∧
      (t.port p).line = none ∧ Raised s t 0x1008 p 0 0)) ∧
    (let refused (r : Nat) (t : State) : Prop := Raised s t 0x2008 p k.toNat r ∧ Counted (Rf.SPK_LCNT2_SETREF p) s t ∧
       t.ports = s.ports
     let split := s.rf (Rf.SPK_FMT_SPLIT p) ≠ 0
     (s.cadOn = true → k.toNat < s.openBand → Gives (.setband p k) s (refused 1)) ∧
     (s.cadOn = true → s.openBand ≤ k.toNat → ¬ split → Gives (.setband p k) s (refused 2)) ∧
     (s.cadOn = true → s.openBand ≤ k.toNat → split → s.portUp p = false → Gives (.setband p k) s (refused 4)) ∧
     (s.cadOn = true → s.openBand ≤ k.toNat → split → s.portUp p = true → Gives (.setband p k) s (fun t =>
      t.rf (Rf.SPK_SETSTAT_STATE p) = 1 ∧ ∃ m, (k.toNat, m) ∈ (t.port p).armed ∧ m.band = some k.toNat ∧
        m.addr = s.rf (Rf.SPK_SETMSG_ADDR p) ∧ m.len = s.rf (Rf.SPK_SETMSG_LEN p) ∧ m.ssid = s.rf (Rf.SPK_SETMSG_SSID p)))) ∧
    (∀ m b, x.msgs.find? (fun m => m.left.isNone) = some m → m.band = some b → Gives (.settingsLastFragment p) s (fun t =>
      let cut := (s.rf (Rf.SPK_PTRG_LSEQ p) + s.rf (Rf.SPK_FMT_SET_LAT p) + 2 ^ 32 - 1) % 2 ^ 32
      (⟨cut, m.ssid, m.msgid⟩ : CutRec) ∈ (t.port p).cuts ∧ t.rf (Rf.SPK_SETSTAT_CUT_LSEQ p) = cut ∧ Raised s t 0x200A p b cut ∧
      ∃ a, t.count = max s.count a ∧ ∀ k ∈ (t.port p).msgs, k.msgid = m.msgid → k.left = some a)) ∧
    ∀ n j, s.sentAt p n j = none →
      (j % 4096 = 0 → (s.dnBlock p n j).toNat % 2 ^ 56 = (0x2D + n * 2 ^ 8 + s.stripe p * 2 ^ 16 +
        (s.amFirst p + j / 4096) % 2 ^ 16 * 2 ^ 24) % 2 ^ 56) ∧
      (j % 4096 ≠ 0 → s.trgIn p n (j - 1) = false → s.dnBlock p n j = 0x1E)

/-! ### Line groups, strips, marks and the seam (chapters 1, 6, 8 and 9) -/

/-- R20, R26 to R28, R171, R172, R191, R241, R244, R251 and R345: a line group of a port reaches its half of scratch; a
commit is posted once every row is stored; a strip's group is committed, an unserved strip's whole band; the tandem
read delivers a group to every Sieve unit of its strip, and to Pack where it has credit, else Pack is owed a split
read; the split read delivers it and pays what was owed; a repeat mark is taken; a producer that waits goes on once its
chain has space: an engine with the words it pushes, an endpoint of hardware with the first packet it keeps waiting.
Model's choices: logs 68, 73, 74, 75, 85, 187 and 199. -/
def Obligations.LineGroupsAndCommits : Prop :=
  (∀ (p : Fin 48) (g k : Nat) (s : State), s.portEntry p (s.port p).grpBand = some k → s.hubU.errs = [] →
    s.evq.length < 1000 →
    let e := s.rf (Rf.ENG_UNIT_ENGINE p)
    let n := (s.port p).grpBand
    let last := g + 1 = s.loadFldAt e n k 0 32 16
    (s.eng e).stalled = none →
    let done (t : State) : Prop := (∃ r ∈ (t.eng e).loads, r.entry = k ∧ r.grp = g ∧ r.band = n ∧ r.arrived = true) ∧
      (t.port p).grpBand = (if last then n + 1 else n) ∧ (t.port p).grpNext = (if last then 0 else g + 1) ∧
      (∀ r, (t.eng e).s r = (s.eng e).s r) ∧ (t.eng e).pc = (s.eng e).pc
    (s.groupReady p k g false = true → Gives (.portGroupWrite p g) s done) ∧
    (s.groupReady p k g true = true → Gives (.lateGroupFetch p g) s (fun t => done t ∧
      Counted (Rf.SPK_LCNT2_LATEFETCH p) s t ∧ ((s.pband p n).fetch = false → Raised s t 0x200B p n 0)))) ∧
  (∀ (p : Fin 48) (g k : Nat) (s : State),
    let e := s.rf (Rf.ENG_UNIT_ENGINE p)
    let x := s.eng e
    let n := x.tok.band
    let lines := s.loadFld e k 0 16 16
    s.portEntry p n = some k → g < s.loadFld e k 0 32 16 → 0 < lines →
    (∀ r c, g * lines ≤ r → r < (g + 1) * lines → c < s.planes p →
      covers x.hsts (s.corAt p n r c) (2 * s.width p) = true) →
    (∃ r ∈ x.loads, r.entry = k ∧ r.grp = g ∧ r.band = n ∧ r.arrived = true) →
    Gives (.intakeGroupCommit p g) s (fun t => { t with ports := s.ports } = s ∧
      ∀ r, (t.committedLines p n).testBit r =
        ((s.committedLines p n).testBit r || decide (g * lines ≤ r ∧ r < (g + 1) * lines)))) ∧
  (∀ (k : Fin 16) (g : Nat) (s : State), s.evq.length + 2 * (s.strip k).inv.length + 2 * (s.strip k).cut.length < 700 →
    let n := (s.eng (s.rf (Rf.ENG_UNIT_ENGINE (48 + k.val)))).tok.band
    let w := s.wu (48 + k.val)
    let m := w.done
    (s.stripReady k g = true → Gives (.stripGroupCommit k g) s (fun t => ∀ r, (t.stripLines k n).testBit r =
      ((s.stripLines k n).testBit r || (s.stripGroup k g).contains r))) ∧
    (s.unserved (48 + k.val) = true → m < s.cad.nF ∨ (∃ t ∈ w.toks, t.band = m) →
      (s.bandLost m = false → s.stitchedFree m = true →
        (∀ r < s.height, (s.stripLines k m).testBit r = false → s.feedsReady m k r = true) → s.hubU.errs = [] → Gives (.unservedStripWrite k) s (fun t => (t.wu (48 + k.val)).done = m + 1 ∧
          (t.wu (48 + k.val)).toks = w.toks.filter (fun t => decide (m < t.band)) ∧ Raised s t 0x4006 m k 0 ∧
          ∀ r < s.height, (t.stripLines k m).testBit r = true)) ∧
      (s.bandLost m = true → Gives (.unservedStripWrite k) s (fun t => (t.wu (48 + k.val)).done = m + 1 ∧
        t.strips = s.strips ∧ t.hub = s.hub)))) ∧
  (∀ (k : Fin 16) (g n : Nat) (s : State), s.hubU.errs = [] →
    (∀ u ∈ [64 + 2 * k.val, 65 + 2 * k.val, 96 + k.val], (s.eng (s.rf (Rf.ENG_UNIT_ENGINE u))).stalled = none) →
    let has (t : State) (u : Nat) : Prop := ∃ r ∈ (t.eng (s.rf (Rf.ENG_UNIT_ENGINE u))).loads,
      r.grp = g ∧ r.band = n ∧ r.arrived = true
    (s.tandemBand k g = some n → Gives (.tandemRead k g) s (fun t => t.tandem k n = g + 1 ∧
      (∀ u ∈ s.tandemSieves k n, has t u) ∧
      (s.serving (96 + k.val) = true → s.hasCredit (96 + k.val) n g = true → has t (96 + k.val)) ∧
      (s.serving (96 + k.val) = true → s.hasCredit (96 + k.val) n g = false → s.packData k n = true →
        (look (fun _ => 0) (t.strip k).owe n).testBit g = true ∧ t.out.splits = s.out.splits + 1))) ∧
    (n = (s.wu (96 + k.val)).done → g < s.tandem k n → s.serving (96 + k.val) = true → s.hasCredit (96 + k.val) n g = true →
      Gives (.packSplitRead k g) s (fun t => has t (96 + k.val) ∧ (∀ m, t.tandem k m = s.tandem k m) ∧
        (look (fun _ => 0) (t.strip k).owe n).testBit g = false ∧ ∀ m, t.stripLines k m = s.stripLines k m))) ∧
  (∀ (ep : Nat) (w0 w1 : Word) (ws : List Word) (s s' : State), s'.evq.length < 1024 → s.rf Rf.SIV_PREF_EN ≠ 0 →
    s.popPacket s.repChain 114 = some (ep, w0 :: w1 :: ws, s') → Gives .phaseMark s (fun t =>
      t.phase.marks = ⟨w0.toNat, w1.getLsbD 35, w1.getLsbD 36⟩ :: s.phase.marks ∧
      (w1.getLsbD 36 = true → Raised s t 0x5007 (s.wu 48).done (s.rf Rf.SIV_PREF_DIN) w0.toNat))) ∧
  ∀ (c : Fin 256) (ep : Fin 128) (s : State),
    let quiet := ∀ x ∈ s.outbox, x.1 = c.val → x.2.1 ≠ ep.val
    (∀ (e : Eng) (g q : BitVec 4) (a : BitVec 6), ep.val < 112 → quiet → s.rf (Rf.ENG_UNIT_ENGINE ep) = e.val →
      s.rf (Rf.ENG_STATUS_STATE e) = 4 → (s.eng e).guard g = true → s.chainEn (s.handle e q) = true →
      s.isProducer (s.handle e q) (s.unitOf e) = true →
      let x := s.eng e
      let h := s.handle e q
      let u := s.unitOf e
      let o := (s.chain h).openOf u
      let goesOn (t : State) (n : Nat) : Prop := (t.eng e).stalled = none ∧ t.rf (Rf.ENG_STATUS_STATE e) = 2 ∧
        Continues e s t ∧ (t.chain h).openOf u = { o with n := o.n + n }
      x.storesSound = true → LaneInHub s h u →
      (x.stalled = some (.push e g q a) → s.waits e (.push e g q a) = none → s.pushOver (s.handle e q) (s.unitOf e) 1 = false →
        Gives (.chainSpaceFreed c ep) s (fun t => goesOn t 1 ∧ WordAt t (laneAddr s h u (o.start + o.n)) (x.s a))) ∧
      (x.stalled = some (.pushr e g q a) → s.waits e (.pushr e g q a) = none → (x.s a).toNat % 64 = 0 →
        (x.s a).toNat < 0x400000 → s.pushOver (s.handle e q) (s.unitOf e) 8 = false →
        Gives (.chainSpaceFreed c ep) s (fun t => goesOn t 8 ∧
          ∀ i < 64, hubByte t (laneAddr s h u (o.start + o.n + i / 8) + i % 8) = scrByte x ((x.s a).toNat + i)))) ∧
    (∀ ws, 112 ≤ ep.val → ws ≠ [] → s.outbox.find? (fun x => x.1 == c.val && x.2.1 == ep.val) = some (c.val, ep.val, ws) →
      s.pushWaits c ep ws.length = false → s.chainEn c = true → s.isProducer c ep = true → (s.chain c).openOf ep = {} →
      (s.wu ep).rerun = none → s.pushOver c ep ws.length = false → Gives (.chainSpaceFreed c ep) s (fun t =>
        t.outbox.length < s.outbox.length ∧ (∃ l l' : List ChItem, (t.chain c).items = (s.chain c).items ++ l ++ l' ∧
          l.length = ws.length ∧ ∀ i < ws.length, l[i]? = some ⟨ep, i % s.share c, decide (i + 1 = ws.length)⟩) ∧
        (s.outbox.length = 1 → LaneInHub s c ep → ∀ i < ws.length, WordAt t (laneAddr s c ep i) (ws.getD i 0)))) ∧
    (quiet → 112 ≤ ep.val ∨ s.rf (Rf.ENG_STATUS_STATE (s.rf (Rf.ENG_UNIT_ENGINE ep))) ≠ 4 →
      exec (.chainSpaceFreed c ep) s = .next s)

/-- R259, R263 to R266 and R271: the seam unit takes the next packet of its chain when it is of the command's kind: a
LOOK is noted, an alias and a component write their entry of the label merge table, an END is noted; a packet that fits
no kind is discarded with event 0x5006; the close of a band moves on to the next and says so, once the hub serves it.
Model's choices: log 89. -/
def Obligations.SeamPacketsAndClose : Prop :=
  (∀ (ep : Nat) (ws : List Word) (s s' : State), s.popPacket (s.rf Rf.SIV_CHAINS_SEAM) 115 = some (ep, ws, s') →
    s'.evq.length < 1024 →
    let u := ep - 64
    let w (i : Nat) : Nat := (ws.getD i 0).toNat
    let room (l : Nat) : Prop := userBase ≤ s.lmtAt l ∧ s.lmtAt l + 128 ≤ s.capacity
    let f11 (t : State) (l parent st : Nat) : Prop := readLE t.hub (s.lmtAt l + 88) 8 =
      (parent + st * 2 ^ 24 + s.rf Rf.SIV_SEQ_EPOCH * 2 ^ 48) % 2 ^ 64
    (s.seamKind u ws = .look → Gives .seamLook s (fun t =>
      t.seam.looks = s.seam.looks ++ [(u, s.seamBand (w 0 / 2 ^ 32))] ∧ { t with seam := s.seam } = s')) ∧
    (s.seamKind u ws = .pointer → room (w 0 / 2 ^ 8 % 2 ^ 24) → Gives .seamAlias s (fun t =>
      f11 t (w 0 / 2 ^ 8 % 2 ^ 24) (w 0 / 2 ^ 32 % 2 ^ 24) 3 ∧
      t.seam.labels = s.seam.labels ++ [(w 0 / 2 ^ 8 % 2 ^ 24, s.lookOf u)])) ∧
    (s.seamKind u ws = .component → room (w 11 % 2 ^ 24) → Gives .seamComponent s (fun t =>
      f11 t (w 11 % 2 ^ 24) (w 11 % 2 ^ 24) 1 ∧
      (∀ i < 16, i ≠ 11 → readLE t.hub (s.lmtAt (w 11 % 2 ^ 24) + 8 * i) 8 = w i) ∧
      t.seam.labels = s.seam.labels ++ [(w 11 % 2 ^ 24, s.lookOf u)])) ∧
    (s.seamKind u ws = .ended → Gives .seamEnd s (fun t => t.seam.ends = s.seam.ends ++ [(u, s.seamBand (w 0 / 2 ^ 32))] ∧
      (w 0 / 2 ^ 8 % 2 = 1 → Raised s t 0x5003 (s.seamBand (w 0 / 2 ^ 32)) u 0))) ∧
    ∀ p ∈ [(Instr.seamLook, SeamKind.look), (.seamAlias, .pointer), (.seamComponent, .component), (.seamEnd, .ended)],
      (s.seamKind u ws = .error → Gives p.1 s (fun t => Counted Rf.SIV_CNT2_PKTERR s t ∧
        Raised s t 0x5006 (if ws.length = 2 ∧ w 0 % 256 = 4 then s.seamBand (w 0 / 2 ^ 32) else s.lookOf u) u 0)) ∧
      (s.seamKind u ws ≠ .error → s.seamKind u ws ≠ p.2 → exec p.1 s = .next s)) ∧
  ∀ (s : State), s.evq.length < 1024 →
    let n := s.seam.next
    (s.closeReady = true → s.hubOpen = true → Gives .seamClose s (fun t => t.seam.next = n + 1 ∧
      t.rf Rf.SIV_CLOSE_BAND = n % 2 ^ Rf.SIV_CLOSE_BAND.width ∧ (∀ e ∈ t.seam.looks, n < e.2) ∧ (∀ e ∈ t.seam.ends, n ≤ e.2) ∧
      ((∃ u < 32, s.noData u n = true) → Raised s t 0x5008 n 0 0))) ∧
    (s.closeReady = false ∨ s.hubOpen = false → exec .seamClose s = .next s)

/-! ### Pack, the host rings and the stream ports (chapter 10) -/

/-- R278, R279, R281, R287, R288 and R292 to R296: a framer takes a record into the record queue, whose words lie in
the hub, and asks for the crop of a defect record where PAK_CROP selects its class; it counts what is no record or
finds no room; the router takes the next item of a source, the next event as its record; the crop unit answers a
descriptor it cannot serve with its status, and one it can, here as one part from the corrected ring, with its rows'
tags and samples; an item that fits is written to its ring and the producer index moves on, one that does not is
dropped or waits, and so it waits while the host port is down; the consumer index follows the host's writes that lie in
what was produced. The crop unit takes no descriptor while the hub does not serve (R322). Model's choices: logs 90, 91,
92, 93 and 196. -/
def Obligations.RecordsItemsAndRings : Prop :=
  (∀ (k : Fin 16) (ep : Nat) (ws : List Word) (s s' : State), s'.evq.length < 1000 →
    s.popPacket (s.rf Rf.SIV_CHAINS_REC_BASE + k) (96 + k) = some (ep, ws, s') →
    let w0 := (ws.headD 0).toNat
    let typ := w0 % 256
    let record := ws.length = 8 ∧ (typ = 0x21 ∨ typ = 0x22 ∨ typ = 0x23)
    (¬ record → Gives (.recordFrame k) s (fun t => Counted Rf.PAK_CNT_BADPKT s t ∧ Raised s t 0x6009 (96 + k) 0 0 ∧
      t.out = s.out)) ∧
    (record →
      let c := s.rf Rf.PAK_CHAINS_CREQ_BASE + k
      let u := 96 + k.val
      let cls := w0 / 2 ^ 8 % 2 ^ 8
      let asks := typ = 0x21 ∧ s.rf Rf.PAK_CROP_EN ≠ 0 ∧ (s.rf (Rf.PAK_CROPCLS_CLASSES (cls / 64))).testBit (cls % 64) = true ∧
        (s.eng (s.rf (Rf.ENG_UNIT_ENGINE u))).tok.gear < 3 ∧ s'.chainEn c = true ∧ s'.isProducer c u = true ∧ 8 ≤ s'.laneFree c u
      let out : List Word := if asks then
        ws.set 7 (BitVec.ofNat 64 ((ws.getD 7 0).toNat / 2 ^ 32 * 2 ^ 32 + w0 / 2 ^ 32)) else ws
      (s.out.recq.length < s.rf Rf.PAK_RECQ_SIZE * 16384 → Gives (.recordFrame k) s (fun t =>
        (∃ x : Staged, t.out.recq = s.out.recq ++ [x] ∧ x.typ = typ ∧ x.n = 8 ∧ x.at' = s.out.recTo) ∧
        (AreaInHub s s.recArea s.out.recTo → ∀ i < 8, WordAt t (wordAddr s.recArea (s.out.recTo + i)) (out.getD i 0)) ∧
        (asks → ((s'.chain c).openOf u).n = 0 → ((s'.chain c).openOf u).overlong = false → (s.wu u).rerun = none →
          ∃ l : List ChItem, (t.chain c).items = (s'.chain c).items ++ l ∧ l.length = 8 ∧ ∀ i ∈ l, i.ep = u) ∧
        (¬ asks → t.chains = s'.chains))) ∧
      (s.rf Rf.PAK_RECQ_SIZE * 16384 ≤ s.out.recq.length → Gives (.recordFrame k) s (fun t => t.out = s.out ∧
        Counted Rf.PAK_CNT_RECLOST s t ∧ Raised s t 0x600D (96 + k) 0 0)))) ∧
  (∀ (x : OutItem) (y : Staged) (ys : List Staged) (s : State),
    let taken (x : OutItem) (src : Nat) (t : State) : Prop :=
      ((s.targets x).1 = [] → (∀ st < 8, s.strSelects x st = false) → s.out.hdrs = [] → Counted Rf.PAK_CNT_UNROUTED s t) ∧
      ((s.targets x).1 ≠ [] → t.hand src = some ⟨x, (s.targets x).1, []⟩)
    let read (r : HubArea) (src : Nat) (t : State) : Prop := ∃ x : OutItem, x.typ = y.typ ∧ x.strip = y.strip ∧ x.band = y.band ∧
      x.bad = [] ∧ x.words.length = y.n ∧ taken x src t ∧
      ∀ i < y.n, ∀ j < 8, byteOf (x.words.getD i 0) j = hubByte s (wordAddr r (y.at' + i) + j)
    ((s.targets ⟨y.typ, [], y.strip, y.band, []⟩).2 = [] → s.hubOpen = true → s.hubU.errs = [] →
      (s.out.recq = y :: ys → s.hand 1 = none → AreaInHub s s.recArea y.at' → y.n ≤ s.recArea.words →
        Gives (.outputItem .records) s (fun t => read s.recArea 1 t ∧ t.out.recq = ys)) ∧
      (s.out.crops = y :: ys → s.hand 2 = none → AreaInHub s s.cropArea y.at' → y.n ≤ s.cropArea.words →
        Gives (.outputItem .crops) s (fun t => read s.cropArea 2 t ∧ t.out.crops = ys))) ∧
    (s.hubOpen = false → ∀ src ∈ [OutSrc.records, .crops], Gives (.outputItem src) s (fun t => t.out.recq = s.out.recq ∧
      t.out.crops = s.out.crops)) ∧
    (∀ e es, (s.targets x).2 = [] → s.evq = e :: es → s.hand 3 = none →
      x = ⟨0x50, [BitVec.ofNat 64 (0x50 + e.code % 2 ^ 16 * 2 ^ 16 + e.seq % 2 ^ 32 * 2 ^ 32), BitVec.ofNat 64 e.time,
        BitVec.ofNat 64 e.band, BitVec.ofNat 64 e.a0, BitVec.ofNat 64 e.a1, BitVec.ofNat 64 e.a2,
        BitVec.ofNat 64 (min s.evLost (2 ^ 32 - 1)), 0], none, none, []⟩ →
      Gives .eventRecordRoute s (fun t => taken x 3 t ∧ es <+: t.evq))) ∧
  (∀ (k : Fin 16) (ep : Nat) (ws : List Word) (s s' : State), s'.evq.length < 1000 → s.hand (4 + k) = none →
    s.popPacket (s.rf Rf.PAK_CHAINS_OUT_BASE + k) 117 = some (ep, ws, s') → ws.length ≠ itemWords ws →
    Gives (.outputItem (.unit k)) s (fun t => Counted Rf.PAK_CNT_BADPKT s t ∧ Raised s t 0x6009 (96 + k) 0 0)) ∧
  (∀ s : State, s.hubOpen = false → exec .cropDescriptor s = .next s) ∧
  (∀ (ep : Nat) (ws : List Word) (s s' : State), s.popPacket (s.rf Rf.PAK_CHAINS_CROP) 116 = some (ep, ws, s') →
    let d := cropDesc ws
    let bad := d.clean = false ∨ 4080 < d.w ∨ 48 ≤ d.port ∨ s.portOn d.port = false
    let word (t : State) (i : Nat) : Nat := readLE t.hub (wordAddr s.cropArea (s.out.cropTo + i)) 8
    let staged (n : Nat) (t : State) : Prop := ∃ x : Staged, t.out.crops = s.out.crops ++ [x] ∧ x.typ = 0x30 ∧ x.n = n ∧
      x.at' = s.out.cropTo
    let answered (st : Nat) (t : State) : Prop := staged 8 t ∧ (AreaInHub s s.cropArea s.out.cropTo →
      word t 0 / 2 ^ 8 % 8 = st ∧ word t 0 / 2 ^ 32 = d.ref)
    (bad → Gives .cropDescriptor s (answered 4)) ∧
    (¬ bad → s.rf Rf.PAK_CROP_MAXBAND ≤ s.out.cropN ∨ s.gear = 3 → Gives .cropDescriptor s (fun t => answered 3 t ∧
      Counted Rf.PAK_CNT_CROPDROP s t ∧ t.out.cropN = s.out.cropN)) ∧
    (let row := 32 + (16 * d.w + 63) / 64 * 8
     let band (i : Nat) := (d.row0 + i) / s.height
     let tag (i : Nat) := s.corTagAt d.port (band i) ((d.row0 + i) % s.height)
     let line (i : Nat) := s.corAt d.port (band i) ((d.row0 + i) % s.height) d.plane + 2 * d.col0
     ¬ bad → s.out.cropN < s.rf Rf.PAK_CROP_MAXBAND → s.gear ≠ 3 → s.hubU.errs = [] → d.raw = false →
      s.corHeld (d.row0 / max 1 s.height) = true → d.h ≤ 8192 / row → 0 < s.height →
      stagedBytes s.out.crops + 64 + (d.h * row + 63) / 64 * 64 ≤ s.rf Rf.PAK_CSTG_SIZE * 2 ^ 20 →
      (∀ i < d.h, tag i + 32 ≤ s.capacity ∧ line i + 2 * d.w ≤ s.capacity) → AreaInHub s s.cropArea s.out.cropTo →
      Gives .cropDescriptor s (fun t => t.out.cropN = s.out.cropN + 1 ∧ staged (8 + (d.h * row + 63) / 64 * 8) t ∧
        word t 0 / 2 ^ 8 % 16 = 0 ∧ word t 0 / 2 ^ 32 = d.ref ∧ word t 1 = d.row0 % 2 ^ 64 ∧
        ∀ i < d.h, let at' (j : Nat) := hubByte t (wordAddr s.cropArea (s.out.cropTo + 8 + (i * row + j) / 8) + (i * row + j) % 8)
          (∀ j < 32, at' j = hubByte s (tag i + j)) ∧ ∀ j < 2 * d.w, at' (32 + j) = hubByte s (line i + j)))) ∧
  (∀ (r : Fin 64) (src : Nat) (h : Hand) (s : State), s.rf (Rf.PAK_RING_CFG_EN r) ≠ 0 → s.ringNext r = some (src, h) →
    let n := h.item.words.length / 8
    let prod := s.rf (Rf.PAK_RING_PROD_PROD r)
    let open' := s.rf Rf.GLB_STATUS_LINK ≠ 0 ∧ s.hostHeld = false
    (¬ open' → Gives (.ringWrite r) s (fun t => t.rf (Rf.PAK_RING_PROD_PROD r) = prod ∧ t.host = s.host ∧
      t.out.hands = s.out.hands)) ∧
    (open' → s.ringFits r h.item = true → Gives (.ringWrite r) s (fun t =>
      t.rf (Rf.PAK_RING_PROD_PROD r) = (prod + n) % 2 ^ 40)) ∧
    (open' → s.ringFits r h.item = false → s.rf (Rf.PAK_RING_CFG_FULLPOL r) ≠ 0 → droppable h.item.typ = true →
      Gives (.ringWrite r) s (fun t => t.rf (Rf.PAK_RING_PROD_PROD r) = prod ∧ Counted (Rf.PAK_RING_CNT_DROPPED r) s t)) ∧
    (open' → s.ringFits r h.item = false → s.rf (Rf.PAK_RING_CFG_FULLPOL r) = 0 ∨ droppable h.item.typ = false →
      Gives (.ringWrite r) s (fun t => t.rf (Rf.PAK_RING_PROD_PROD r) = prod ∧ (t.ring r).fullAt.isSome = true ∧
        t.host = s.host ∧ t.out.hands = s.out.hands))) ∧
  ∀ (r : Fin 64) (v : BitVec 64) (s : State), s.evq.length < 1024 →
    let v' := v.toNat % 2 ^ 40
    let prod := s.rf (Rf.PAK_RING_PROD_PROD r)
    let vec := s.rf (Rf.PAK_RING_CFG_VECTOR r)
    (∀ c, (s.ring r).first = some c → Gives (.ringIrqTimer r) s (fun t => (t.ring r).unsig = 0 ∧ (t.ring r).first = none ∧
      t.count = max s.count (c + s.rf (Rf.PAK_RING_IRQ_TIMER_US r) * 1250) ∧
      (s.rf Rf.GLB_STATUS_LINK ≠ 0 → vec < 2048 → s.rf (Rf.MSIX_HI_MASK vec) ≠ 0 → t.host = s.host ∧
        (t.rf (Rf.MSIX_PBA_PEND (vec / 64))).testBit (vec % 64) = true))) ∧
    (s.ringUsed r < (prod + 2 ^ 40 - v') % 2 ^ 40 → Gives (.ringConsumerWrite r v) s (fun t =>
      Raised s t 0x6002 r 1 0 ∧ FieldsAndEvents [] s t)) ∧
    ((prod + 2 ^ 40 - v') % 2 ^ 40 ≤ s.ringUsed r → Gives (.ringConsumerWrite r v) s (fun t =>
      t.rf (Rf.PAK_RING_CONS_CONS r) = v' ∧
      ((∀ h ∈ s.out.hands, s.mayRing h.1 r h.2 = true →
        (prod + 2 ^ 40 - v') % 2 ^ 40 + h.2.item.words.length / 8 ≤ s.ringUnits r) → (t.ring r).fullAt = none)))

/-- R295 and R297: an item of one unit that a ring takes is in host memory at its place in the ring, byte for byte,
where the windows permit its address and no word of it was lost in the hub (R316); the producer index is written back
behind it. Model's choices: log 136. -/
def Obligations.RingItemInHostMemory : Prop :=
  ∀ (r : Fin 64) (src : Nat) (h : Hand) (s : State), s.rf (Rf.PAK_RING_CFG_EN r) ≠ 0 → s.rf Rf.GLB_STATUS_LINK ≠ 0 →
    s.hostHeld = false → s.ringNext r = some (src, h) → s.ringFits r h.item = true → h.item.words.length = 8 →
    h.item.bad = [] →
    let prod := s.rf (Rf.PAK_RING_PROD_PROD r)
    let a := s.rf (Rf.PAK_RING_BASE_ADDR r) + prod % s.ringUnits r * 64
    let wb := s.rf (Rf.PAK_RING_WB_ADDR r)
    s.winOk true a 64 = true → s.winOk true wb 8 = true → wb + 8 ≤ a ∨ a + 64 ≤ wb →
    (s.ring r).unsig + 1 < s.rf (Rf.PAK_RING_IRQ_THRESH r) →
    Gives (.ringWrite r) s (fun t =>
      (∀ i < 64, hostByte t (a + i) = byteOf (h.item.words.getD (i / 8) 0) (i % 8)) ∧
      readLE t.host wb 8 = (prod + 1) % 2 ^ 40 ∧
      ∀ b, ¬ (a ≤ b ∧ b < a + 64) → ¬ (wb ≤ b ∧ b < wb + 8) → hostByte t b = hostByte s b)

/-- R298 to R302, R376, R377, R400 and R437: at its flush time a datagram takes the next SEQ into retention; a slot
lets QUOTA datagrams go; an acknowledgement releases what is below its CUM and asks for what it misses, or is
discarded; the oldest datagram is probed; a neighbour request for the port's own address is answered, at once or once a
test lets the port (R437), and any other frame dropped; a link change is told; the wire frees; the rate bucket lets the
datagram go; a host link that Table 10.8 supports trains, its figures are shown, and any other does not. Model's
choices: logs 95, 98 and 132. -/
def Obligations.StreamPorts : Prop :=
  ∀ (st : Fin 8) (p : Fin 2) (s : State), s.evq.length < 800 →
    let x := s.str st
    let q := s.sp (st.val / 4)
    (OutputsQuiet { s with out := { s.out with streams := s.out.streams.filter (fun e => e.1 ≠ st.val) } } → x.build ≠ [] →
      let pay := (x.build.map (·.words)).flatten
      let r := s.retArea st
      s.hubOpen = true → x.retBytes + 32 + 8 * pay.length ≤ s.rf (Rf.PAK_STR_RET_SIZE st) * 2 ^ 24 →
      (∀ d ∈ x.ret, d.seq ≠ s.rf (Rf.PAK_STR_SEQ_NEXT st)) → Gives (.datagramFlush st) s (fun t =>
        t.count = max s.count (x.first + s.rf (Rf.PAK_STR_TMO_FLUSH_US st) * 1250) ∧ (t.str st).build = [] ∧
        t.rf (Rf.PAK_STR_SEQ_NEXT st) = (s.rf (Rf.PAK_STR_SEQ_NEXT st) + 1) % 2 ^ (Rf.PAK_STR_SEQ_NEXT st).width ∧
        (∃ d ∈ (t.str st).ret, d.seq = s.rf (Rf.PAK_STR_SEQ_NEXT st) ∧ d.n = pay.length ∧ d.at' = x.retTo) ∧
        ((s.sp 0).q = [] → (s.sp 1).q = [] → AreaInHub s r x.retTo → ∀ i < pay.length,
          WordAt t (wordAddr r (x.retTo + 4 + i)) (pay.getD i 0)))) ∧
    (OutputsQuiet s → s.rf (Rf.PAK_STR_CFG_EN st) ≠ 0 → s.rf (Rf.PAK_STR_CFG_LAUNCH st) ≠ 0 → Gives (.streamSlot st) s (fun t =>
      (t.str st).slotQ = x.slotQ.drop (s.rf (Rf.TIM_LSLOTP_QUOTA st)) ∧ (t.str st).slot = s.slotNo st + 1 ∧
      t.count = s.countReach ((s.rf (Rf.TIM_LSLOT_START st) + s.slotNo st * s.rf (Rf.TIM_LSLOTP_PERIOD st)) % 2 ^ 64))) ∧
    (∀ a : AckFrame, s.rf (Rf.PAK_SP_STAT_UP (st.val / 4)) ≠ 0 → s.active = true →
      let cum := (a.words.getD 1 0).toNat
      let good := s.ackOk st a = true ∧ cum ≤ s.rf (Rf.PAK_STR_SEQ_NEXT st)
      (¬ good → Gives (.ackReceived st a) s (fun t => Counted (Rf.PAK_STR_CNT_BADACK st) s t ∧ t.out = s.out ∧
        t.rf (Rf.PAK_STR_CUM_CUM st) = s.rf (Rf.PAK_STR_CUM_CUM st))) ∧
      (good → a.words.length = 4 → Gives (.ackReceived st a) s (fun t =>
        t.rf (Rf.PAK_STR_CUM_CUM st) = max cum (s.rf (Rf.PAK_STR_CUM_CUM st)) ∧
        (s.rf (Rf.PAK_STR_CUM_CUM st) < cum → OutputsQuiet s → ∀ d ∈ (t.str st).ret, cum ≤ d.seq))) ∧
      (∀ n d, good → OutputsQuiet s → a.words.length = 6 → (a.words.getD 4 0).toNat = n → (a.words.getD 5 0).toNat = n →
        cum ≤ s.rf (Rf.PAK_STR_CUM_CUM st) → s.rf (Rf.PAK_STR_CUM_CUM st) ≤ n → n < s.rf (Rf.PAK_STR_SEQ_NEXT st) →
        x.ret.find? (fun d => d.seq == n) = some d → d.sent = none → q.q = [] → Gives (.ackReceived st a) s (fun t =>
          (⟨st, n, .retx⟩ : Tx) ∈ (t.sp (st.val / 4)).q ∨ (t.sp (st.val / 4)).wire = some ⟨st, n, .retx⟩))) ∧
    (∀ d ds, x.ret = d :: ds → s.active = true → Gives (.ackTimeoutProbe st) s (fun t => Counted (Rf.PAK_STR_CNT_PROBE st) s t ∧
      t.count = max s.count (x.cumAt + s.rf (Rf.PAK_STR_TMO_ACK_TMO_US st) * 1250))) ∧
    (s.rf (Rf.PAK_SP_STAT_UP p) ≠ 0 → s.active = true → ∀ (v6 : Bool) (target : BitVec 128) (mac : BitVec 48),
      let own := if v6 then s.rf (Rf.PAK_SP_IP6H_ADDR p) * 2 ^ 64 + s.rf (Rf.PAK_SP_IP6L_ADDR p) else s.rf (Rf.PAK_SP_IP4_ADDR p)
      (target.toNat = own → Gives (.neighbourRequest p v6 target mac) s (fun t =>
        (s.portHeld p = false → (t.sp p).answer = some (v6, mac.toNat, s.rf (Rf.PAK_SP_MAC_MAC p)) ∧ (t.sp p).asked = none) ∧
        (s.portHeld p = true → (t.sp p).answer = (s.sp p).answer ∧ (t.sp p).asked = some (v6, mac.toNat)) ∧
        { t with out := s.out } = s)) ∧
      (target.toNat ≠ own → Gives (.neighbourRequest p v6 target mac) s (fun t =>
        Counted (Rf.PAK_SP_STAT_RXDROP p) s t ∧ t.out = s.out)) ∧
      Gives (.frameDrop p) s (fun t => Counted (Rf.PAK_SP_STAT_RXDROP p) s t ∧ FieldsOnly [Rf.PAK_SP_STAT_RXDROP p] s t)) ∧
    (s.rf (Rf.PAK_SP_STAT_UP p) = 0 → Gives (.streamLinkChange p true) s (fun t => t.rf (Rf.PAK_SP_STAT_UP p) = 1 ∧
      Raised s t 0x600B p 1 0)) ∧
    (s.rf (Rf.PAK_SP_STAT_UP p) ≠ 0 → Gives (.streamLinkChange p false) s (fun t => t.rf (Rf.PAK_SP_STAT_UP p) = 0 ∧
      (t.sp p).wire = none ∧ Raised s t 0x600B p 0 0)) ∧
    (OutputsQuiet s → (s.sp p).wire.isSome = true → (s.sp p).q = [] → Gives (.transmissionEnd p) s (fun t =>
      (t.sp p).wire = none ∧ (t.sp p).frame = none)) ∧
    (∀ (x : Tx) (d : Dgram), OutputsQuiet s → s.txNext p = some x → x.kind ≠ .gone →
      (s.str x.stream).ret.find? (fun d => d.seq == x.seq) = some d → (s.sp p).capped = true → (s.sp p).wire = none →
      s.rf (Rf.PAK_SP_STAT_UP p) ≠ 0 → s.hubOpen = true → s.rf Rf.TST_BP_SP0 = 0 → s.rf Rf.TST_BP_SP1 = 0 →
      s.dstOk x.stream = true → s.rf (Rf.BRK_RATE_RATE p) ≠ 0 →
      100 * (8 * d.n + s.strOver x.stream) ≤ s.rf (Rf.BRK_RATE_BURST_KIB p) * 102400 →
      Gives (.streamRateBucketRefill p) s (fun t => (t.sp p).wire = some x ∧ (t.sp p).capped = false)) ∧
    (s.rf Rf.GLB_STATUS_READY ≠ 0 → ∀ (gen width : Nat) (flit : Bool) (mps mrrs : BitVec 16),
      let ok := (gen = 4 ∨ gen = 5 ∨ gen = 6 ∧ flit = true) ∧ (width = 4 ∨ width = 8 ∨ width = 16) ∧
        mps.toNat ∈ [128, 256, 512] ∧ mrrs.toNat ∈ [128, 256, 512, 1024, 2048, 4096]
      (¬ ok → exec (.hostLinkUp gen width flit mps mrrs) s = .next s) ∧
      (ok → Gives (.hostLinkUp gen width flit mps mrrs) s (fun t => t.rf Rf.GLB_STATUS_LINK = 1 ∧
        t.rf Rf.PAK_PCIE_GEN = gen ∧ t.rf Rf.PAK_PCIE_WIDTH = width ∧ t.rf Rf.PAK_PCIE_MPS = mps.toNat ∧
        t.rf Rf.PAK_PCIE_MRRS = mrrs.toNat ∧ (width < 16 ∨ gen < 6 → Raised s t 0x600C 0 0 0))))

/-! ### The hub (chapter 11) -/

/-- R309 to R311, R313, R318, R319, R322, R324 to R326 and R328: a source issues the classes of Table 11.2; a
transaction waits while the hub does not serve and before a forced slice, for a tag of its class, and for a token of
its channel in class 0; a write stores its bytes and no other, a read answers them, and their bank has accepted them; a
bank serves a request of class 0 before any other; BAR2 reaches the hub while it serves and is counted as refused while
it does not; a bucket gains a token every 125 ns, which a request kept for it takes. No codeword is in error, and no
slot is copied. Model's choices: logs 99 and 177. -/
def Obligations.HubTransactions : Prop :=
  ∀ (src : HubSrc) (cls : Fin 4) (addr n : Nat) (bs : List (BitVec 8)) (c : Fin 50) (s : State),
    s.hubU.errs = [] → s.evq.length < 1000 →
    let issues := s.hubU.on = true ∧ addr % 128 = 0 ∧ cls.val ∈ mayIssue src
    let served := s.hubOpen = true ∧ (cls = 0 ∨ s.rtForced (s.channelOf addr) = false)
    let token := cls ≠ 0 ∨ s.tc0Spent (s.channelOf addr) < 64
    let room (n : Nat) : Prop := userBase ≤ addr ∧ addr + n ≤ s.capacity
    let row := rowOf (s.granule addr / 48)
    let col := colOf (s.granule addr / 48)
    let bank (t : State) : BankSt := look (fun _ => {}) t.hubU.banks (s.bankAt addr)
    (¬ issues → ∀ wr, exec (.hubTransaction src cls addr wr) s = .next s) ∧
    (issues → s.tagFree cls = false → ∀ wr, Gives (.hubTransaction src cls addr wr) s (fun t =>
      t.hubU.waiting = s.hubU.waiting ++ [.hubTransaction src cls addr wr] ∧ { t with hubU := s.hubU } = s)) ∧
    (issues → s.tagFree cls = true →
      (¬ served → ∀ wr, Gives (.hubTransaction src cls addr wr) s (fun t =>
        t.hubU.held = s.hubU.held ++ [.hubTransaction src cls addr wr] ∧ { t with hubU := s.hubU } = s)) ∧
      (served → ¬ token → ∀ wr, Gives (.hubTransaction src cls addr wr) s (fun t =>
        t.hubU.held = s.hubU.held ++ [.hubTransaction src cls addr wr] ∧ t.hub = s.hub ∧ Counted Rf.HUB_TC0_TOKWAIT s t)) ∧
      (served → token → room 128 → s.rf Rf.HUB_MIGSTAT_ACTIVE = 0 →
        Gives (.hubTransaction src cls addr (some bs)) s (fun t =>
          (∀ i < min bs.length 128, hubByte t (addr + i) = bs.getD i 0) ∧
          (∀ a, a < addr ∨ addr + min bs.length 128 ≤ a → hubByte t a = hubByte s a) ∧ t.hubU.held = s.hubU.held ∧
          (bs ≠ [] → (bank t).queue.getLast? = some ⟨true, row, col, false, cls⟩ ∧ (bank t).queue.countP (·.wr) ≤ 32)) ∧
        Gives (.hubTransaction src cls addr none) s (fun t => t.hub = s.hub ∧
          t.readBytes = (List.range 128).map (fun i => hubByte s (addr + i)) ∧
          (bank t).queue.getLast? = some ⟨false, row, col, false, cls⟩ ∧
          ∀ q ∈ (bank t).queue, q.wr = true → q.row = row → q.seen = true))) ∧
    (s.rf Rf.GLB_STATUS_LINK ≠ 0 →
      (s.hubOpen = true → s.bar2Waits addr n = true → s.tagFree 2 = true → Gives (.bar2Read addr n) s (fun t =>
        t.hubU.held = s.hubU.held ++ [.bar2Read addr n] ∧ { t with hubU := s.hubU } = s)) ∧
      (s.hubOpen = true → s.bar2Waits addr n = false → room n → Gives (.bar2Read addr n) s (fun t => t.hub = s.hub ∧ t.hubU.poison = false ∧
        t.readBytes = (List.range n).map (fun i => hubByte s (addr + i)))) ∧
      (s.hubOpen = false → Gives (.bar2Read addr n) s (fun t => t.hub = s.hub ∧ t.readBytes = List.replicate n 0 ∧
        Counted Rf.HUB_ACCERR_COUNT s t ∧ t.rf Rf.HUB_ACCERR_ADDR = addr % 2 ^ 40)) ∧
      (s.hubOpen = true → s.bar2Waits addr bs.length = false → room bs.length → Gives (.bar2Write addr bs) s (fun t =>
        (∀ i < bs.length, hubByte t (addr + i) = bs.getD i 0) ∧
        (∀ a, a < addr ∨ addr + bs.length ≤ a → hubByte t a = hubByte s a) ∧ SrOnly s t)) ∧
      (s.hubOpen = false → Gives (.bar2Write addr bs) s (fun t => t.hub = s.hub ∧ Counted Rf.HUB_ACCERR_COUNT s t ∧
        t.rf Rf.HUB_ACCERR_ADDR = addr % 2 ^ 40))) ∧
    (∀ x : BankSt, x.inOrder = false → x.ready 0 ≠ [] → ∃ r, x.queue[x.pick s.arb]? = some r ∧ r.cls = 0) ∧
    (s.hubU.on = true → s.hubU.held = [] → s.hubU.waiting = [] →
      let kept := s.hubU.barred.find? (fun r => decide (r.1 / 16 = c.val) && decide (r.2.cls = 0))
      let k := max (look (fun _ => 0) s.hubU.gains c + 1) (s.count * 4 / 625)
      (kept = none → Gives (.tc0TokenGain c) s (fun t => t.tc0Spent c = s.tc0Spent c - 1 ∧ look (fun _ => 0) t.hubU.gains c = k ∧
        t.count = max s.count ((625 * k + 3) / 4) ∧ { t with hubU := s.hubU, count := s.count } = s)) ∧
      (∀ r, kept = some r → Gives (.tc0TokenGain c) s (fun t => t.hubU.barred = s.hubU.barred.erase r ∧
        t.tc0Spent c = s.tc0Spent c ∧ { t with hubU := s.hubU, count := s.count } = s)))

/-- R314 to R317, R320, R321, R330 to R337: scrubbing goes on where the patrol stands, at its rate, counts what it
meets, queues a write-back of what it corrects and ends a patrol with the last granule; a refresh of an idle bank that
is due, or one that has been postponed for 8 intervals; a self-refresh entry and a window's end, WIN_MS after it began;
a migration starts to the lowest spare, copies granule by granule at its rate and switches the slot over, a retirement
ends without one; a retraining pass starts, is forced, runs slice by slice, each moving a setting at most one step
toward its window's centre, and ends; a change of the transfer rate trains the hub again. Model's choices: logs 99,
102, 103, 104, 106 and 109. -/
def Obligations.HubMaintenance : Prop :=
  ∀ (c : Fin 50) (b : Fin 16) (g n k : Nat) (slot : BitVec 6) (m : SliceMeasure) (rate : BitVec 2) (s : State),
    s.evq.length < 1000 →
    let h := s.hubU
    let m' := min (g + n) (2 ^ 23)
    let last := m' = 2 ^ 23 ∧ s.hubChannels.getLast? = some c.val
    let bk := 16 * c.val + b.val
    let bank (t : State) : BankSt := look (fun _ => {}) t.hubU.banks bk
    let refr (t : State) : Nat := look (fun _ => 0) t.hubU.refr bk
    let every := s.refreshEvery c
    let due := refr s + every
    let sl := s.rf Rf.HUB_MIGSTAT_SLOT
    let src := s.rf (Rf.HUB_MAP_PHYS sl)
    let dst := s.rf Rf.HUB_MIGSTAT_TARGET
    let ptr := s.rf Rf.HUB_MIGSTAT_POINTER
    let ends := s.rf Rf.HUB_MIGSTAT_ACTIVE ≠ 0 ∧ ptr = s.copyLength ∧ sl < 48 ∧ src < 50 ∧ h.migQ = []
    (h.on = false ∨ s.scrubNext ≠ some (c.val, g) → exec (.scrubBatch c g n) s = .next s) ∧
    (h.on = true → s.scrubNext = some (c.val, g) →
      (h.errs = [] → Gives (.scrubBatch c g n) s (fun t => t.hub = s.hub ∧ t.count = max s.count (s.scrubDue c m') ∧
        (last → t.hubU.scrubAt = 0 ∧ t.rf Rf.HUB_SCRUB_PASSES = (s.rf Rf.HUB_SCRUB_PASSES + 1) % 2 ^ 32 ∧
          t.hubU.scrubT0 = t.count) ∧
        (¬ last → t.hubU.scrubAt = c.val * 2 ^ 23 + m' ∧ SrOnly s t))) ∧
      (∀ x, h.errs = [(k, [x])] → h.wback = [] → s.storedIn c g n k = true → h.quiet.contains k = false →
        Gives (.scrubBatch c g n) s (fun t => t.hubU.wback = [k] ∧ Counted (Rf.HUB_CH_ERR_CORR c) s t ∧ t.hub = s.hub)) ∧
      (∀ x y, h.errs = [(k, [x, y])] → h.wback = [] → s.storedIn c g n k = true → Gives (.scrubBatch c g n) s (fun t =>
        Counted (Rf.HUB_CH_ERR_UNCORR c) s t ∧ Raised s t 0x7002 (c + 256 * s.slotName c) (16 * k) 0 ∧
        t.hubU.errs = h.errs))) ∧
    (h.on = true → s.rf (Rf.HUB_CH_STAT_SR c) = 0 →
      ((bank s).queue = [] → (bank s).free ≤ max s.count due → s.tc0Waits bk = false → Gives (.bankRefresh c b) s (fun t =>
        t.count = max s.count due ∧ refr t = max due (t.count - 8 * every) ∧ (bank t).row = none ∧
        (bank t).free = t.count + 200 ∧ { t with hubU := s.hubU, count := s.count } = s)) ∧
      (due + 8 * every ≤ s.count → Gives (.bankRefresh c b) s (fun t => t.count = s.count ∧
        refr t = max due (t.count - 8 * every) ∧ (bank t).row = none)) ∧
      ((bank s).queue = [] → max s.count due < (bank s).free → s.count < due + 8 * every → Gives (.bankRefresh c b) s (fun t =>
        t.hubU = s.hubU ∧ t.count = max s.count due))) ∧
    (s.hubOpen = true → s.rf Rf.HUB_CFG_SR_IDLE_US ≠ 0 → s.rf (Rf.HUB_CH_CFG_SR_EN c) ≠ 0 → s.rf (Rf.HUB_CH_STAT_SR c) = 0 →
      h.pass = none → Gives (.selfRefreshEntry c) s (fun t => t.rf (Rf.HUB_CH_STAT_SR c) = 1 ∧
        t.count = max s.count (look (fun _ => 0) h.lastReq c + s.rf Rf.HUB_CFG_SR_IDLE_US * 1250))) ∧
    Gives (.correctedErrorWindowEnd c) s (fun t => t.rf (Rf.HUB_CH_ERR_WIN_LAST c) = min (look (fun _ => 0) h.win c) 0xFFFF ∧
      look (fun _ => 0) t.hubU.win c = 0 ∧
      t.count = max s.count (look (fun _ => 0) h.winAt c + s.rf Rf.HUB_ERR_WIN_MS * 1250000)) ∧
    (47 < slot.toNat → Gives (.migReq slot) s (fun t => Raised s t 0x7009 0xFFFF 0x30 0 ∧ FieldsAndEvents [] s t)) ∧
    (slot.toNat ≤ 47 → h.on = true → s.rf Rf.HUB_STAT_RETIRED = 0 → s.rf Rf.HUB_MIGSTAT_ACTIVE = 0 →
      ∀ d, s.standbyChannel = some d → s.rf (Rf.HUB_MAP_PHYS slot.toNat) < 50 → s.rf (Rf.HUB_MAP_PHYS slot.toNat) ≠ d →
        Gives (.migReq slot) s (fun t => t.rf Rf.HUB_MIGSTAT_ACTIVE = 1 ∧ t.rf Rf.HUB_MIGSTAT_SLOT = slot.toNat ∧
          t.rf Rf.HUB_MIGSTAT_TARGET = d ∧ t.rf Rf.HUB_MIGSTAT_POINTER = 0 ∧ t.rf (Rf.HUB_CH_STAT_ROLE d) = 3 ∧
          t.rf (Rf.HUB_CH_STAT_ROLE (s.rf (Rf.HUB_MAP_PHYS slot.toNat))) = 2 ∧
          Raised s t 0x7004 (s.rf (Rf.HUB_MAP_PHYS slot.toNat) + 256 * slot.toNat) d 0)) ∧
    (s.hubOpen = true → s.rf Rf.HUB_MIGSTAT_ACTIVE ≠ 0 → ptr < s.copyLength → h.errs = [] → Gives .migrationCopy s (fun t =>
      t.rf Rf.HUB_MIGSTAT_POINTER = (ptr + 1) % 2 ^ 24 ∧ t.hub = s.hub ∧
      t.count = max s.count (h.copyAt + ceilDiv 320 (max 1 (s.rf Rf.HUB_MIG_RATE))))) ∧
    (ends → s.rf Rf.HUB_MIGSTAT_RELOC = 0 → dst < 50 → src ≠ dst → Gives .migrationComplete s (fun t =>
      t.rf (Rf.HUB_MAP_PHYS sl) = dst ∧ t.rf Rf.HUB_MIGSTAT_ACTIVE = 0 ∧ t.rf (Rf.HUB_CH_STAT_ROLE src) = 4 ∧
      t.rf (Rf.HUB_CH_STAT_ROLE dst) = 0 ∧ t.rf (Rf.HUB_CH_STAT_SLOT dst) = sl ∧ Raised s t 0x7005 (src + 256 * sl) dst 0)) ∧
    (ends → s.rf Rf.HUB_MIGSTAT_RELOC ≠ 0 → Gives .retirementComplete s (fun t => t.rf Rf.HUB_STAT_RETIRED = 1 ∧
      t.rf Rf.HUB_STAT_RSLOT = sl ∧ t.rf Rf.HUB_MIGSTAT_ACTIVE = 0 ∧ t.rf (Rf.HUB_CH_STAT_ROLE src) = 4 ∧
      Raised s t 0x7007 (src + 256 * sl) 0 0)) ∧
    (s.hubOpen = true → h.pass = none → (List.range 50).find? s.rtDue = some c.val → Gives (.retrainPassStart c) s (fun t =>
      ∃ p, t.hubU.pass = some p ∧ p.ch = c ∧ p.slice = 0 ∧ p.good = true ∧ p.since = s.count ∧ p.forced = false)) ∧
    (∀ p, h.pass = some p → p.ch = c →
      (p.forced = false → Gives (.retrainForce c) s (fun t => t.hubU.pass = some { p with forced := true } ∧
        t.count = max s.count (p.since + s.rf Rf.HUB_RT_FORCE_US * 1250))) ∧
      (s.hubOpen = true → h.held = [] → h.waiting = [] → h.newRate = none →
        let lane (j : Nat) : Nat := (if p.slice < 8 then 0 else 72) + j
        (p.slice ≠ 15 → Gives (.retrainSlice c m) s (fun t => (∃ q, t.hubU.pass = some q ∧ q.ch = c ∧ q.slice = p.slice + 1 ∧
          q.forced = false ∧ q.since = max s.count (s.quietAt c) ∧
          (q.good = true ↔ p.good = true ∧ ∀ j < 72, sliceWidth m j ≠ 0)) ∧
          ∀ j < 72,
            let v := s.tapOf c (lane j)
            let w := t.tapOf c (lane j)
            (sliceWidth m j = 0 → w = v) ∧ (sliceCentre m j = 0 → w = v) ∧
            (sliceWidth m j ≠ 0 → 2 ≤ sliceCentre m j → 0 ≤ v → v < 255 → w = v + 1) ∧
            (sliceWidth m j ≠ 0 → sliceCentre m j ≤ -2 → 0 < v → v ≤ 255 → w = v - 1))) ∧
        (p.slice = 15 → p.good = true → (∀ j < 72, sliceWidth m j ≠ 0) → Gives (.retrainSlice c m) s (fun t =>
          t.hubU.pass = none ∧ Counted (Rf.HUB_CH_CAL_COUNT c) s t ∧ t.rf (Rf.HUB_CH_STAT_RTFAIL c) = 0)) ∧
        (p.slice = 15 → p.good = false → s.rf (Rf.HUB_CH_STAT_DEGRADED c) = 0 → Gives (.retrainSlice c m) s (fun t =>
          t.hubU.pass = none ∧ Counted (Rf.HUB_CH_CAL_FAILS c) s t ∧ t.rf (Rf.HUB_CH_STAT_DEGRADED c) = 1 ∧
          Raised s t 0x7003 (c + 256 * s.slotName c) 0 0)))) ∧
    (s.cadOn = true ∨ rate = 3 → Gives (.frequencySwitch rate) s (fun t => Raised s t 0x7009 0xFFFF 0x08 0 ∧
      FieldsAndEvents [] s t)) ∧
    (s.cadOn = false → rate ≠ 3 → rate.toNat ≠ s.rf Rf.HUB_FREQ_CUR → h.on = true →
      let open' := h.pass = none ∧ s.rf Rf.HUB_STAT_TRAINING = 0 ∧ s.active = true
      (open' → Gives (.frequencySwitch rate) s (fun t => t.rf Rf.HUB_FREQ_CUR = rate.toNat ∧
        t.rf Rf.HUB_FREQ_RATE = rate.toNat ∧ t.rf Rf.HUB_STAT_TRAINING = 1 ∧ t.rf (Rf.HUB_CH_STAT_SR c) = 0 ∧ t.hub = s.hub)) ∧
      (¬ open' → Gives (.frequencySwitch rate) s (fun t => t.hubU.newRate = some rate.toNat ∧
        t.rf Rf.HUB_FREQ_CUR = s.rf Rf.HUB_FREQ_CUR ∧ t.rf Rf.HUB_FREQ_PENDING = 1))) ∧
    (s.rf Rf.HUB_STAT_TRAINING ≠ 0 → s.modes.trans ≠ .service → s.modes.trans ≠ .rest → h.newRate = none → h.held = [] →
      h.waiting = [] → (∀ e < 119, (s.eng e).stalled = none) → Gives (.frequencySwitchComplete []) s (fun t =>
        t.rf Rf.HUB_STAT_TRAINING = 0 ∧ t.hub = s.hub ∧ Raised s t 0x700B 0xFFFF 0 0))

/-! ### DMA and the chains' counts (chapter 12) -/

/-- R347, R348 and R354 to R367: START, STOP and APPEND by the channel's state; a free unit goes to the next ready
channel; a descriptor is fetched, checked and begun; a burst between hub addresses moves its bytes and no other; a
descriptor that has moved all ends the list or goes on; a read of a chain's counts. Model's choices: logs 110, 111,
112, 113 and 170. -/
def Obligations.DmaChannels : Prop :=
  ∀ (u : Fin 4) (ch : Fin 16) (a : BitVec 64) (c : Fin 256) (s : State), s.evq.length < 1000 →
    let st := s.dmaState u ch
    let x := s.dmaCh u ch
    let rests := st = 0 ∨ 4 ≤ st
    let ev := ch.val + 256 * u.val
    let mine := s.rf (Rf.DMA_UNIT_BUSY u) ≠ 0 ∧ s.rf (Rf.DMA_UNIT_OWNER u) = ch
    (rests → Gives (.dmaStart u ch) s (fun t => t.dmaState u ch = 1 ∧ t.rf (Rf.DMA_STAT_ERR u ch) = 0 ∧
      t.rf (Rf.DMA_LAST_ADDR u ch) = s.rf (Rf.DMA_TAIL_ADDR u ch) % 2 ^ 64 ∧
      (t.dmaCh u ch).next = BitVec.ofNat 64 (s.rf (Rf.DMA_HEAD_ADDR u ch)) ∧ (t.dmaCh u ch).d = none)) ∧
    (¬ rests → Gives (.dmaStart u ch) s (fun t => Raised s t 0x8006 ev 0 0 ∧ FieldsAndEvents [] s t)) ∧
    (rests → exec (.dmaStop u ch) s = .next s) ∧
    (¬ rests → Gives (.dmaStop u ch) s (fun t => t.dmaState u ch = 5 ∧ (t.dmaCh u ch).d = none ∧
      (mine → t.rf (Rf.DMA_UNIT_BUSY u) = 0) ∧ t.hub = s.hub ∧ t.host = s.host)) ∧
    (s.rf (Rf.DMA_UNIT_BUSY u) = 0 → s.dmaReady u = some ch.val → Gives (.dmaUnitGrant u) s (fun t =>
      t.rf (Rf.DMA_UNIT_OWNER u) = ch ∧ t.rf (Rf.DMA_UNIT_BUSY u) = 1 ∧ t.dmaState u ch = 2)) ∧
    (mine → s.hubOpen = true → s.hubU.errs = [] → s.rf (Rf.DMA_CFG_FEED u ch) = 0 → x.d = none →
      let at' := x.next.toNat / 32 * 32
      let w (i : Nat) : Word := BitVec.ofNat 64 (readLE s.hub (at' + 8 * i) 8)
      let appended := x.appq.contains x.next && decide (s.rf (Rf.DMA_LAST_ADDR u ch) = x.next.toNat)
      x.next.toNat % 32 = 0 → at' + 32 ≤ s.capacity →
      (s.dmaCheck u (w 0, w 1, w 2, w 3) appended = none → Gives (.dmaDescriptorFetch u) s (fun t =>
        (t.dmaCh u ch).d = some (w 0, w 1, w 2, w 3) ∧ t.dmaState u ch = 2 ∧ t.rf (Rf.DMA_XFER_BYTES u ch) = 0 ∧
        t.rf (Rf.DMA_CUR_ADDR u ch) = x.next.toNat)) ∧
      (∀ code, s.dmaCheck u (w 0, w 1, w 2, w 3) appended = some code → Gives (.dmaDescriptorFetch u) s (fun t =>
        t.dmaState u ch = 6 ∧ t.rf (Rf.DMA_STAT_ERR u ch) = code ∧ t.rf (Rf.DMA_UNIT_BUSY u) = 0 ∧
        Raised s t 0x8005 ev code x.next.toNat))) ∧
    (∀ d : DmaDesc, mine → s.hubOpen = true → s.hubU.errs = [] → x.d = some d → d.ssp = 0 → d.dsp = 0 →
      let m := s.rf (Rf.DMA_XFER_BYTES u ch)
      let n := s.dmaBurstLen u ch d
      (s.dmaDone u ch d = false → d.sfix = false → d.dfix = false → s.rf (Rf.DMA_CFG_REQ_EN u ch) = 0 → n % 8 = 0 →
        d.src + m + n ≤ s.capacity → userBase ≤ d.dst + m → d.dst + m + n ≤ s.capacity → Gives (.dmaBurst u) s (fun t =>
          (∀ i < n, hubByte t (d.dst + m + i) = hubByte s (d.src + m + i)) ∧
          (∀ b, b < d.dst + m ∨ d.dst + m + n ≤ b → hubByte t b = hubByte s b) ∧
          t.rf (Rf.DMA_XFER_BYTES u ch) = (m + n) % 2 ^ 32)) ∧
      (s.dmaDone u ch d = true → d.f 40 1 = 0 → Gives (.dmaDescriptorComplete u) s (fun t =>
        Counted (Rf.DMA_STAT_DONE u ch) s t ∧ (t.dmaCh u ch).d = none ∧ (t.dmaCh u ch).next = d.next ∧
        (d.ended = true → t.dmaState u ch = 4 ∧ t.rf (Rf.DMA_UNIT_BUSY u) = 0) ∧
        (d.ended = false → t.dmaState u ch = 2 ∧ t.rf (Rf.DMA_UNIT_BUSY u) ≠ 0)))) ∧
    (1 ≤ st → st < 5 → s.hubOpen = false → s.rf (Rf.DMA_LAST_ADDR u ch) % 2 = 0 →
      (s.dmaQueued u ch < 16 → s.tagFree 2 = true → Gives (.dmaAppend u ch a) s (fun t =>
        t.hubU.held = s.hubU.held ++ [.dmaAppend u ch a] ∧ { t with hubU := s.hubU } = s)) ∧
      (16 ≤ s.dmaQueued u ch → Gives (.dmaAppend u ch a) s (fun t => Raised s t 0x8007 ev 0 0 ∧ FieldsAndEvents [] s t))) ∧
    (x.appAt ≠ s.count ∨ x.appN < 16 →
      (st = 0 → Gives (.dmaAppend u ch a) s (fun t => t.dmaState u ch = 1 ∧ t.rf (Rf.DMA_HEAD_ADDR u ch) = a.toNat ∧
        t.rf (Rf.DMA_LAST_ADDR u ch) = a.toNat ∧ (t.dmaCh u ch).next = a)) ∧
      (5 ≤ st → Gives (.dmaAppend u ch a) s (fun t => Raised s t 0x8006 ev 0 0 ∧ t.dmaState u ch = st))) ∧
    (x.appAt = s.count → 16 ≤ x.appN → s.hubOpen = true ∨ st = 0 ∨ 5 ≤ st → Gives (.dmaAppend u ch a) s (fun t => Raised s t 0x8007 ev 0 0 ∧
      FieldsAndEvents [] s t)) ∧
    Gives (.chnCntRead c) s (fun t => (t.chain c).armed = true ∧ t.rf (Rf.CHN_STAT_PEND c) = 0 ∧
      (t.chain c).items = (s.chain c).items ∧
      t.readData.toNat = ((s.chain c).items.drop (s.chain c).gone).length % 2 ^ 32 +
        (((s.chain c).items.drop (s.chain c).gone).filter (·.last)).length % 2 ^ 32 * 2 ^ 32)

/-! ### Time (chapter 13) -/

/-- R368 to R376: device time at a count is OFFSET plus COUNT times RATE; a step moves it by what it says and is
refused while the cadence runs; a change of RATE leaves the time of this count as it was; TIM_NOW shows the time before
them while the count is theirs (R372); a snapshot holds one count and its time. Model's choices: logs 20, 114 and 171.
-/
def Obligations.DeviceTimeSteering : Prop :=
  ∀ (v : BitVec 64) (s : State), s.evq.length < 1000 →
    (s.cadOn = true → Gives (.timStep v) s (fun t => Raised s t 0x9005 v.toNat 0 0 ∧ FieldsAndEvents [] s t)) ∧
    (s.cadOn = false → Gives (.timStep v) s (fun t => t.now = (s.now + v.toNat) % 2 ^ 64 ∧ t.count = s.count ∧
      t.timNow = s.timNow ∧ Counted Rf.TIM_CNT_STEPS s t ∧ Raised s t 0x9004 v.toNat 0 0)) ∧
    (s.cadOn = false → s.rf Rf.TIM_OFS_FRAC_OFFSET < 2 ^ 32 → Gives (.timStep v) s (fun t =>
      t.rf Rf.TIM_OFS_INT_OFFSET = (s.rf Rf.TIM_OFS_INT_OFFSET + v.toNat) % 2 ^ 64 ∧
      t.rf Rf.TIM_OFS_FRAC_OFFSET = s.rf Rf.TIM_OFS_FRAC_OFFSET)) ∧
    (s.cadOn = true → ∀ frac, Gives (.timOfsWrite frac v) s (fun t => FieldsAndEvents [] s t ∧
      ∃ n, Raised s t 0x9005 n 0 0)) ∧
    (s.cadOn = false → s.rf Rf.TIM_OFS_FRAC_OFFSET < 2 ^ 32 → s.rf Rf.TIM_OFS_INT_OFFSET < 2 ^ 64 →
      Gives (.timOfsWrite false v) s (fun t => t.rf Rf.TIM_OFS_INT_OFFSET = v.toNat ∧
        t.rf Rf.TIM_OFS_FRAC_OFFSET = s.rf Rf.TIM_OFS_FRAC_OFFSET ∧ Counted Rf.TIM_CNT_STEPS s t) ∧
      Gives (.timOfsWrite true v) s (fun t => t.rf Rf.TIM_OFS_INT_OFFSET = s.rf Rf.TIM_OFS_INT_OFFSET ∧
        t.rf Rf.TIM_OFS_FRAC_OFFSET = v.toNat % 2 ^ 32 ∧ Counted Rf.TIM_CNT_STEPS s t)) ∧
    (let ok := 3432537863 ≤ v.toNat ∧ v.toNat ≤ 3439409810
     (ok → Gives (.timRateWrite v) s (fun t => t.rf Rf.TIM_RATE_RATE = v.toNat ∧ t.now = s.now ∧ t.count = s.count ∧
       t.timNow = s.timNow)) ∧
     (¬ ok → Gives (.timRateWrite v) s (fun t => Raised s t 0x9006 0xC00030 0 0 ∧ FieldsAndEvents [] s t))) ∧
    Gives .timSnap s (fun t => t.rf Rf.TIM_SNAPC_COUNT = s.count % 2 ^ 64 ∧ t.rf Rf.TIM_SNAPT_T = s.now ∧
      FieldsOnly [Rf.TIM_SNAPC_COUNT, Rf.TIM_SNAPT_T] s t)

/-- R374, R378 and R379: the loss of the reference and its return, no sooner than 100 ms after it; an edge of PPS is
dated unless it follows the last within half a second, and is missed once, 1.5 s after it; the PPS output rises at the
least whole second plus OUT_PH that device time has not passed and that it has not just risen at; a PTP message of the
port's domain, transport and delay mechanism is timestamped, brings what the servo learns, and steers by a step or a
rate. Each of the six commands comes about in every state, and does nothing where its rule gives it nothing to do. What
of a message the servo makes is the message's, and what stands for the detection of a loss is the command. Model's
choices: logs 203, 204 and 205. -/
def Obligations.ReferencePpsAndPtp : Prop :=
  ∀ (date : Nat) (m : PtpMsg) (s : State), s.evq.length < 1000 →
    let ref := s.rf Rf.TIM_CFG_REF10 ≠ 0
    let holds := s.rf Rf.TIM_STAT_HOLDOVER ≠ 0
    let locked := s.rf Rf.TIM_STAT_LOCKED ≠ 0
    (ref → ¬ holds → Gives .referenceLost s (fun t => t.rf Rf.TIM_STAT_HOLDOVER = 1 ∧ t.rf Rf.TIM_STAT_LOCKED = 0 ∧
      t.time.lostAt = s.count ∧ t.count = s.count ∧ Raised s t 0x9001 0 0 0 ∧
      FieldsAndEvents [Rf.TIM_STAT_HOLDOVER, Rf.TIM_STAT_LOCKED] s { t with time := s.time })) ∧
    (¬ ref ∨ holds → exec .referenceLost s = .next s) ∧
    (ref → ¬ locked → Gives .referenceRelock s (fun t => t.rf Rf.TIM_STAT_HOLDOVER = 0 ∧ t.rf Rf.TIM_STAT_LOCKED = 1 ∧
      t.count = (if holds then max s.count (s.time.lostAt + 125000000) else s.count) ∧
      (holds → Raised s t 0x9002 0 0 0) ∧ (¬ holds → t.evq = s.evq) ∧
      FieldsAndEvents [Rf.TIM_STAT_HOLDOVER, Rf.TIM_STAT_LOCKED] s { t with count := s.count })) ∧
    (¬ ref ∨ locked → exec .referenceRelock s = .next s) ∧
    (let soon := ∃ c, s.time.pps = some c ∧ date < c + 625000000
     (¬ soon → Gives (.ppsInEdge date) s (fun t => t.rf Rf.TIM_PPSIN_T = s.timeAt date ∧ t.rf Rf.TIM_STAT_PPS_OK = 1 ∧
       t.time.pps = some date ∧ t.time.missed = false ∧ t.count = max s.count date)) ∧
     (soon → Gives (.ppsInEdge date) s (fun t => t.count = max s.count date ∧ { t with count := s.count } = s))) ∧
    (∀ c, s.time.pps = some c → s.time.missed = false → Gives .ppsMissing s (fun t => t.rf Rf.TIM_STAT_PPS_OK = 0 ∧
      t.time.missed = true ∧ t.count = max s.count (c + 1875000000) ∧ Raised s t 0x9003 0 0 0)) ∧
    (s.time.pps = none ∨ s.time.missed = true → exec .ppsMissing s = .next s) ∧
    (let instant (n : Nat) : Nat := n * 1000000000 + s.rf Rf.TIM_PPS_OUT_PH
     s.rf Rf.TIM_PPS_OUT_EN ≠ 0 → Gives .ppsOut s (fun t => ∃ n, t.time.out = some (instant n) ∧
      s.now ≤ instant n ∧ s.time.out ≠ some (instant n) ∧
      (∀ k < n, instant k < s.now ∨ s.time.out = some (instant k)) ∧
      t.count = s.countReach (instant n % 2 ^ 64) ∧ t.time.outEnd = some (t.count + s.rf Rf.TIM_PPS_OUT_W * 1250) ∧
      { t with count := s.count, time := s.time } = s)) ∧
    (s.rf Rf.TIM_PPS_OUT_EN = 0 → exec .ppsOut s = .next s) ∧
    (let cfg := s.mgt.ptp
     let taken := s.rf Rf.MGT_STAT_FW = 1 ∧ m.domain = cfg.domain ∧ m.transport = cfg.transport ∧
       (m.kind = .sync ∨ m.kind = .delay ∧ cfg.peer = false ∨ m.kind = .pdelay ∧ cfg.peer = true) ∧
       (cfg.priority1 = 255 → m.state ≠ 5 ∧ m.state ≠ 6)
     let known (t : State) : Prop := t.time.state = m.state.toNat ∧ t.time.master = m.master.toNat ∧
       t.time.offset = m.offset.toNat ∧ t.time.delay = m.delay.toNat ∧ t.time.stamp = s.timeAt m.date ∧
       t.count = max s.count m.date
     (¬ taken → exec (.ptpMessage m) s = .next s) ∧
     (taken → m.act = .none → Gives (.ptpMessage m) s (fun t => known t ∧ { t with count := s.count, time := s.time } = s)) ∧
     ∀ v : BitVec 64, taken →
       (m.act = .step v → s.cadOn = false → Gives (.ptpMessage m) s (fun t => known t ∧
         t.now = ((s.advanceTo m.date).now + v.toNat) % 2 ^ 64)) ∧
       (m.act = .step v → s.cadOn = true → Gives (.ptpMessage m) s (fun t => known t ∧ Raised s t 0x9005 v.toNat 0 0 ∧
         t.now = (s.advanceTo m.date).now)) ∧
       (let steers := 3432537863 ≤ v.toNat ∧ v.toNat ≤ 3439409810
        (m.act = .rate v → steers → Gives (.ptpMessage m) s (fun t => known t ∧ t.rf Rf.TIM_RATE_RATE = v.toNat ∧
          t.now = (s.advanceTo m.date).now)) ∧
        (m.act = .rate v → ¬ steers → Gives (.ptpMessage m) s (fun t => known t ∧ Raised s t 0x9006 0xC00030 0 0 ∧
          t.rf Rf.TIM_RATE_RATE = s.rf Rf.TIM_RATE_RATE))))

/-! ### Management (chapter 14) -/

/-- R385 to R391: a scan keeps a sensor's sample and, under the firmware, its ALARM; a telemetry update writes the
page; the oldest queued log entry goes to its slot of the flash ring; a duty waits for those above it; the SMBus reads
32 bytes, and refuses a wrong PEC; a power failure saves the black box in the lowest erased slot. Model's choices: logs
105, 116, 117, 169, 172 and 174. -/
def Obligations.ManagementReports : Prop :=
  ∀ (xs : List SensorSample) (x : SensorSample) (late : Bool) (page : List (BitVec 8)) (addr : BitVec 32)
      (pec : BitVec 8) (s : State), s.evq.length < 700 →
    (x ∈ xs → (xs.map (·.i)).Nodup → x.i.val < 119 → s.modes.mains = true → Gives (.supervisionScan xs) s (fun t => ∃ y, t.sensor x.i = some y ∧
      y.value = x.value.toNat ∧ y.time = s.now % 2 ^ 32 ∧ y.valid = true ∧
      (s.fwRuns = true → y.alarm = Config.sensorOut s.boardTable x.i x.value) ∧
      (s.fwRuns = true → (s.sensor x.i).map (·.alarm) = some (!y.alarm) →
        Raised s t 0xA005 x.i (if y.alarm then 1 else 0) 0) ∧
      (40 ≤ x.i.val → x.i.val < 65 → t.rf (Rf.HUB_CH_STAT_TEMP (2 * (x.i.val - 40))) = ofSigned 8 (x.value.toInt / 8)))) ∧
    (s.fwRuns = false ∨ s.mgt.result ≠ none ∨ s.logq ≠ [] → exec (.telemetryUpdate late page) s = .next s) ∧
    (s.fwRuns = true → s.mgt.result = none → s.logq = [] → Gives (.telemetryUpdate late page) s (fun t => readLE t.mgt.page 0 8 = s.now ∧
      (∀ a, 8 ≤ a → a < 4096 → a < page.length → look (fun _ => 0) t.mgt.page a = page.getD a 0) ∧
      t.mgt.period = (if late then min 10000 (2 * s.mgt.period) else 100) ∧
      (late = true → s.mgt.period < 10000 → Raised s t 0xA007 t.mgt.period 0 0))) ∧
    (∀ l q, s.fwRuns = true → s.mgt.result = none → s.logq = l :: q → Gives .logWrite s (fun t =>
      let a := 0x4B00000 + 32 * (s.mgt.logN % 0x200000)
      t.logq = q ∧ t.mgt.logN = s.mgt.logN + 1 ∧ t.evq = s.evq ∧
      t.rf Rf.MGT_LOG_SEQ = l.ev.seq % 2 ^ 32 ∧ t.rf Rf.MGT_LOG_QUEUE = q.length % 2 ^ 13 ∧
      readLE t.mgt.flash a 8 = l.ev.code % 2 ^ 16 + (if l.coal then 2 ^ 16 else 0) + l.ev.seq % 2 ^ 32 * 2 ^ 32 ∧
      readLE t.mgt.flash (a + 8) 8 = l.ev.time % 2 ^ 64 ∧ readLE t.mgt.flash (a + 16) 8 = l.ev.a0 % 2 ^ 64 ∧
      readLE t.mgt.flash (a + 24) 8 = l.ev.a1 % 2 ^ 32 + l.rep % 2 ^ 32 * 2 ^ 32 ∧
      ∀ b, b < a ∨ a + 32 ≤ b → look (fun _ => 0) t.mgt.flash b = look (fun _ => 0) s.mgt.flash b)) ∧
    (s.fwRuns = false ∨ s.mgt.result ≠ none ∨ s.logq = [] → exec .logWrite s = .next s) ∧
    (s.modes.vin = true →
      (∀ p, p = none ∨ p = some (s.selPec addr) → Gives (.smbusSel ⟨addr, p⟩) s (fun t => t.mgt.smbAddr = addr.toNat ∧
        { t with mgt := s.mgt } = s)) ∧
      (pec ≠ s.selPec addr → exec (.smbusSel ⟨addr, some pec⟩) s = .next s) ∧
      Gives .smbusRead s (fun t => t.mgt.smbAddr = (s.mgt.smbAddr + 32) % 2 ^ 32 ∧ t.mgt.smbData.length = 32 ∧
        { t with mgt := s.mgt } = s ∧ t.mgt.smbPec = pecOf ([s.smbDev false, 2, s.smbDev true, 32] ++ t.mgt.smbData) ∧
        (0x2000 ≤ s.mgt.smbAddr → s.mgt.smbAddr + 32 ≤ 0x3000 → ∀ k < 32,
          t.mgt.smbData.getD k 0 = look (fun _ => 0) s.mgt.page (s.mgt.smbAddr - 0x2000 + k)))) ∧
    (∀ j < 8, (s.rf Rf.MGT_BBOX_ERASED).testBit j = true → (∀ i < j, (s.rf Rf.MGT_BBOX_ERASED).testBit i = false) →
      let a := 0x4300000 + 0x100000 * j
      Gives .powerFailWarning s (fun t => t.mgt.saved = some j ∧ t.mgt.lost = true ∧
        (t.rf Rf.MGT_BBOX_ERASED).testBit j = false ∧ readLE t.mgt.flash a 8 = s.rf Rf.GLB_STRAP_POWERON % 2 ^ 64 ∧
        readLE t.mgt.flash (a + 8) 8 = s.now ∧ t.bbox = s.bbox ∧
        (∀ h ev, (h, ev) ∈ s.bbox → h < 16384 → (∀ e ∈ s.bbox, e.1 = h → e.2 = ev) →
          readLE t.mgt.flash (a + 4096 + 32 * h) 8 = ev.code % 2 ^ 16 + ev.seq % 2 ^ 32 * 2 ^ 32 ∧
          readLE t.mgt.flash (a + 4096 + 32 * h + 8) 8 = ev.time % 2 ^ 64) ∧
        ∀ b, b < a ∨ a + 0x81000 ≤ b → look (fun _ => 0) t.mgt.flash b = look (fun _ => 0) s.mgt.flash b)) ∧
    ((∀ j < 8, (s.rf Rf.MGT_BBOX_ERASED).testBit j = false) → Gives .powerFailWarning s (fun t =>
      t.mgt.saved = none ∧ t.mgt.lost = true ∧ t.mgt.flash = s.mgt.flash))

/-- R392: a command for a mailbox that is serving one is ignored with event 0xA010; without firmware it waits for the
processor's start; a completed command leaves its result, its bytes and its TAG, and clears BUSY; after a host reset
the result is dropped. Model's choices: log 173. -/
def Obligations.MailboxProtocol : Prop :=
  (∀ (c : Instr) (tag : BitVec 16) (s : State), c.mailboxTag = some tag → s.evq.length < 1024 →
    (s.rf Rf.MGT_MBX_STAT_BUSY ≠ 0 → Gives c s (fun t => Raised s t 0xA010 tag.toNat 0 0 ∧ FieldsAndEvents [] s t)) ∧
    (s.rf Rf.MGT_MBX_STAT_BUSY = 0 → s.fwRuns = false → s.recovery = false → Gives c s (fun t =>
      t.rf Rf.MGT_MBX_STAT_BUSY = 1 ∧ t.mgt.cmd.map (·.1) = some tag ∧ t.mgt.result = s.mgt.result ∧
      { t with regs := s.regs, mgt := s.mgt } = s ∧
      ∀ f : Fld, f.key ≠ (Rf.MGT_MBX_STAT_BUSY).key → t.rf f = s.rf f))) ∧
  ∀ (v : BitVec 64) (s : State), s.evq.length < 1024 →
    (s.rf Rf.MGT_MBX_STAT_BUSY ≠ 0 → Gives (.mailboxBusy v) s (fun t => Raised s t 0xA010 (v.toNat / 2 ^ 48) 0 0 ∧
      FieldsAndEvents [] s t)) ∧
    (s.rf Rf.MGT_MBX_STAT_BUSY = 0 → exec (.mailboxBusy v) s = .next s) ∧
    (s.mgt.result = none → exec .mailboxComplete s = .next s) ∧
    (s.fwRuns = false → s.recovery = false → exec .mailboxComplete s = .next s) ∧
    ∀ r bytes tag, s.mgt.result = some (r, bytes, tag) → s.fwRuns = true ∨ s.recovery = true →
      (s.mgt.discard = true → Gives .mailboxComplete s (fun t => t.mgt.result = none ∧ t.regs = s.regs ∧ t.host = s.host)) ∧
      (s.mgt.discard = false → bytes.length ≤ 65536 → Gives .mailboxComplete s (fun t => t.mgt.result = none ∧
        t.rf Rf.MGT_MBX_STAT_BUSY = 0 ∧ t.rf Rf.MGT_MBX_STAT_RESULT = r % 2 ^ 8 ∧ t.rf Rf.MGT_MBX_STAT_TAG = tag % 2 ^ 16 ∧
        t.rf Rf.MGT_MBX_STAT_LEN = bytes.length ∧
        ∀ i < bytes.length, t.rf (Rf.MGT_MBX_BUF_DATA (i / 8)) / 256 ^ (i % 8) % 256 = (bytes.getD i 0).toNat))

/-- R392 and Table 14.6: the firmware's answers to the commands that read, to those that set, and to MGT_RESTART. The
layout of the bytes of INFO and PTP_STATUS is not the spec's, so that they are a free function of what they tell.
Model's choices: logs 115, 117, 118, 119 and 120. -/
def Obligations.MailboxCommands : Prop :=
  ∀ (tag : BitVec 16) (seq : BitVec 32) (n slot off : Nat) (table : List (BitVec 8)) (ptp : PtpCfg) (net : NetCfg) (s : State),
    s.rf Rf.MGT_MBX_STAT_BUSY = 0 → s.rf Rf.MGT_STAT_FW = 1 → s.evq.length < 900 →
    let answers (c : Instr) (r : Nat) (P : List (BitVec 8) → State → Prop) : Prop := Gives c s (fun t =>
      t.rf Rf.MGT_MBX_STAT_BUSY = 1 ∧ ∃ bytes, t.mgt.result = some (r, bytes, tag.toNat) ∧ P bytes t)
    let log2 (v : Int) : Prop := -4 ≤ v ∧ v ≤ 4
    let valid := ptp.domain.toNat ≤ 127 ∧ ptp.transport.toNat < 3 ∧ log2 ptp.logSync ∧ log2 ptp.logDelay
    answers (.info tag) 0 (fun b t => t.free = s.free + 1 ∧
      b = Config.infoBytes s.free (s.svnOf false) (s.svnOf true) (s.rf Rf.MGT_STAT_FUSED) s.mgt.copyB) ∧
    answers (.ptpStatus tag) 0 (fun b t => t.free = s.free + 1 ∧
      b = Config.ptpBytes s.free s.time.state s.time.master s.time.offset s.time.delay) ∧
    (2040 < n → answers (.logRead tag seq n) 2 (fun b _ => b = [])) ∧
    (n ≤ 2040 → answers (.logRead tag seq n) 0 (fun b t => b.length ≤ 32 * n ∧ b.length % 32 = 0 ∧ t.mgt.flash = s.mgt.flash)) ∧
    (7 < slot ∨ 0x81000 ≤ off → answers (.bboxRead tag slot off) 2 (fun b _ => b = [])) ∧
    (slot ≤ 7 → off < 0x81000 → answers (.bboxRead tag slot off) 0 (fun b _ => b.length = min 65536 (0x81000 - off) ∧
      ∀ i < b.length, b.getD i 0 = look (fun _ => 0) s.mgt.flash (0x4300000 + 0x100000 * slot + off + i))) ∧
    (1 < s.mode → answers (.boardWrite tag table) 3 (fun b t => b = [] ∧ t.mgt.flash = s.mgt.flash)) ∧
    (s.mode ≤ 1 → 0x100000 < table.length ∨ Config.boardOk table = false →
      answers (.boardWrite tag table) 2 (fun b t => b = [] ∧ t.mgt.flash = s.mgt.flash)) ∧
    (s.mode ≤ 1 → table.length ≤ 0x100000 → Config.boardOk table = true →
      let a := boardCopy (!s.mgt.copyB)
      answers (.boardWrite tag table) 0 (fun _ t => t.mgt.nextB = !s.mgt.copyB ∧ t.mgt.copyB = s.mgt.copyB ∧
        (∀ i < 0x100000, look (fun _ => 0) t.mgt.flash (a + i) = table.getD i 0) ∧ Raised s t 0xA00F 0 0 0)) ∧
    (valid → answers (.ptpSet tag ptp) 0 (fun _ t => t.mgt.ptp = ptp)) ∧
    (¬ valid → answers (.ptpSet tag ptp) 2 (fun _ t => t.mgt.ptp = s.mgt.ptp)) ∧
    answers (.netSet tag net) 0 (fun _ t => t.mgt.net = some net) ∧
    answers (.mgtRestart tag) 0 (fun _ t => t.rf Rf.MGT_STAT_FW = 0 ∧ t.rf Rf.GLB_STATUS_FW = s.rf Rf.GLB_STATUS_FW ∧
      t.rf Rf.GLB_RSTCAUSE_CAUSE = 8 ∧ Counted Rf.MGT_STAT_WDOG_CNT s t ∧ t.logq.length ≤ 8 ∧ t.mgt.flash = s.mgt.flash ∧
      Raised s t 0xA008 0 0 0 ∧ Raised s t 0x0008 8 0 0)

/-- R393 to R396: an update erases, fills, verifies and activates the bank that is not the confirmed one, and confirms
the trial bank that runs; frames of the UART write that bank in recovery alone. Model's choices: logs 118 and 119. -/
def Obligations.FirmwareUpdates : Prop :=
  ∀ (tag : BitVec 16) (len off : Nat) (data : List (BitVec 8)) (crc : BitVec 32) (s : State), s.evq.length < 1000 →
    let base := flashBank (!s.mgt.good)
    let fb (t : State) (a : Nat) : BitVec 8 := look (fun _ => 0) t.mgt.flash a
    let image := s.flashCells base 0x2000000
    let key := (Config.imageKey image).toNat
    let forged := 4 ≤ key ∨ (s.rf Rf.MGT_STAT_KEYREV).testBit key = true
    let old := (Config.imageSvn image).toNat < s.rf Rf.MGT_STAT_FUSED
    let answers (c : Instr) (r : Nat) (P : State → Prop) : Prop := Gives c s (fun t => t.rf Rf.MGT_MBX_STAT_BUSY = 1 ∧
      t.mgt.result = some (r, [], tag.toNat) ∧ P t)
    (s.rf Rf.MGT_MBX_STAT_BUSY = 0 → s.rf Rf.MGT_STAT_FW = 1 ∨ s.rf Rf.MGT_STAT_FW = 2 →
      (1 < s.mode → answers (.updBegin tag len) 3 (fun t => t.mgt.flash = s.mgt.flash) ∧
        answers (.updData tag off data) 3 (fun t => t.mgt.flash = s.mgt.flash)) ∧
      (s.mode ≤ 1 → 0x2000000 < len → answers (.updBegin tag len) 2 (fun t => t.mgt.flash = s.mgt.flash)) ∧
      (s.mode ≤ 1 → len ≤ 0x2000000 → answers (.updBegin tag len) 0 (fun t => t.mgt.checked = false ∧
        (∀ a, base ≤ a → a < base + 0x2000000 → fb t a = 0) ∧
        ∀ a, a < base ∨ base + 0x2000000 ≤ a → fb t a = fb s a)) ∧
      (s.mode ≤ 1 → data.length ≤ 65528 → off + data.length ≤ 0x2000000 → answers (.updData tag off data) 0 (fun t =>
        t.mgt.checked = false ∧ (∀ i < data.length, fb t (base + off + i) = data.getD i 0) ∧
        ∀ a, a < base + off ∨ base + off + data.length ≤ a → fb t a = fb s a)) ∧
      (forged → answers (.updVerify tag) 4 (fun t => t.mgt.checked = false ∧ Raised s t 0xA00B 4 0 0)) ∧
      (¬ forged → old → answers (.updVerify tag) 5 (fun t => t.mgt.checked = false ∧ Raised s t 0xA00B 5 0 0)) ∧
      (¬ forged → ¬ old → answers (.updVerify tag) 0 (fun t => t.mgt.checked = true)) ∧
      (s.mgt.checked = true → answers (.updActivate tag) 0 (fun t => t.mgt.trial = !s.mgt.good ∧
        t.rf Rf.MGT_STAT_TRIAL = 1 ∧ t.rf Rf.MGT_STAT_TRIES = 0)) ∧
      (s.mgt.checked = false → ∃ r, r ≠ 0 ∧ answers (.updActivate tag) r (fun t => t.mgt.trial = s.mgt.trial))) ∧
    (s.rf Rf.MGT_MBX_STAT_BUSY = 0 → s.rf Rf.MGT_STAT_FW = 1 →
      (s.trialRuns = false → answers (.updConfirm tag) 3 (fun t => t.mgt.good = s.mgt.good)) ∧
      (s.trialRuns = true → answers (.updConfirm tag) 0 (fun t => t.mgt.good = s.mgt.trial ∧ t.rf Rf.MGT_STAT_TRIAL = 0 ∧
        t.rf Rf.MGT_STAT_FUSED = min 64 (max (s.rf Rf.MGT_STAT_FUSED) (s.svnOf s.mgt.trial)) ∧
        Raised s t 0xA00A (t.rf Rf.MGT_STAT_FUSED) 0 0))) ∧
    (s.rf Rf.MGT_STAT_FW = 2 → data.length = 1024 → off + 1024 ≤ 0x2000000 → crcOf data = crc →
      Gives (.uartFrame off data crc) s (fun t => (∀ i < 1024, fb t (base + off + i) = data.getD i 0) ∧
        ∀ a, a < base + off ∨ base + off + 1024 ≤ a → fb t a = fb s a)) ∧
    (s.rf Rf.MGT_STAT_FW ≠ 2 ∨ data.length ≠ 1024 ∨ crcOf data ≠ crc → exec (.uartFrame off data crc) s = .next s)

/-- R401 and R403: the brake lock is set once; a kick of the management port restarts the watchdog, one of the host is
ignored; a timeout is a reset of the management processor while VIN is up, which keeps what GLB_STATUS.FW shows (log
169). Model's choices: log 120. -/
def Obligations.LocksAndWatchdog : Prop :=
  ∀ (v : BitVec 8) (s : State), s.evq.length < 900 →
    (s.rf Rf.BRK_LOCK_LOCK = 0 → Gives .brkLock s (fun t => t.rf Rf.BRK_LOCK_LOCK = 1 ∧ Raised s t 0xB002 0 0 0 ∧
      FieldsAndEvents [Rf.BRK_LOCK_LOCK] s t)) ∧
    (s.rf Rf.BRK_LOCK_LOCK ≠ 0 → Gives .brkLock s (fun t => Raised s t 0x0002 0xD00000 0 0 ∧ FieldsAndEvents [] s t)) ∧
    (v = 0x5A → Gives (.kick .mgt v) s (fun t => t.mgt.kickAt = s.count ∧ { t with mgt := s.mgt } = s)) ∧
    (v ≠ 0x5A → exec (.kick .mgt v) s = .next s) ∧
    Gives (.kick .host v) s (fun t => Raised s t 0xA00E 0x60 0 0 ∧ FieldsAndEvents [] s t) ∧
    (s.modes.vin = true → Gives .mgtWatchdogTimeout s (fun t =>
      t.count = max s.count (s.mgt.kickAt + s.rf Rf.MGT_WDOG_TIMEOUT_MS * 1250000) ∧ t.mgt.kickAt = t.count ∧
      t.rf Rf.MGT_STAT_FW = 0 ∧ t.rf Rf.GLB_STATUS_FW = s.rf Rf.GLB_STATUS_FW ∧ t.rf Rf.GLB_RSTCAUSE_CAUSE = 8 ∧
      Counted Rf.MGT_STAT_WDOG_CNT s t ∧ t.hub = s.hub ∧ Raised s t 0xA008 0 0 0 ∧ Raised s t 0x0008 8 0 0)) ∧
    (s.modes.vin = false → exec .mgtWatchdogTimeout s = .next s)

/-! ### Modes, resets and power (chapter 15) -/

/-- R407 to R411 and Table 15.5: a request for the mode held does nothing; one that may not be made is refused with its
reason; each of the others begins its transition or ends in its mode; ABORT acts during a drain alone. Model's choices:
logs 76, 77, 123, 129, 175 and 206. -/
def Obligations.ModeRequests : Prop :=
  ∀ (req : Fin 5) (abort nosieve : Bool) (c : Instr) (s : State), s.evq.length < 700 →
    c = (match req with
      | 0 => .modeReqStandby abort
      | 1 => .modeReqService abort
      | 2 => .modeReqTeach
      | 3 => .modeReqInspect
      | _ => .modeReqStream nosieve) →
    let ab := abort && decide (req.val < 2)
    let idle := s.modes.trans = .none
    let refused (r : Nat) : Prop := Gives c s (fun t => t.rf Rf.GLB_STATUS_REFUSE = 5 ∧ Raised s t 0x0005 r 0 0 ∧
      FieldsAndEvents [Rf.GLB_STATUS_REFUSE] s t)
    let pinned := s.rf Rf.GLB_STATUS_SAFE_PIN ≠ 0
    let booted := s.rf Rf.GLB_STATUS_FW ≠ 0 ∧ s.rf Rf.GLB_STATUS_BOARD ≠ 0
    let may := idle ∧ ¬ pinned ∧ booted ∧ s.modes.unslot = false
    (req.val = s.mode → idle → exec c s = .next s) ∧
    (ab = false → ¬ idle → refused 2) ∧
    (req.val ≠ s.mode → idle → ab = false →
      (pinned → refused 3) ∧ (¬ pinned → ¬ booted → refused 4) ∧
      (¬ pinned → booted → s.modes.unslot = true → refused 5)) ∧
    (may → req.val ≠ s.mode → ab = false →
      (s.mode = 0 ∧ req ≠ 1 ∨ s.mode = 5 ∧ req ≠ 0 ∨ 2 ≤ s.mode ∧ s.mode ≤ 4 ∧ 2 ≤ req.val → refused 1) ∧
      (s.mode = 0 → req = 1 → Gives c s (fun t => t.modes.trans = .service ∧ t.rf Rf.GLB_STATUS_TRANS = 1 ∧
        t.rf Rf.GLB_STATUS_TARGET = 1 ∧ t.mode = 0 ∧ (s.hubU.on = false → t.rf Rf.HUB_STAT_TRAINING = 1))) ∧
      (s.mode = 1 ∨ s.mode = 5 → req = 0 → s.rf Rf.HUB_STAT_TRAINING ≠ 0 → Gives c s (fun t => t.modes.trans = .rest ∧
        t.rf Rf.GLB_STATUS_TRANS = 1 ∧ t.rf Rf.GLB_STATUS_TARGET = 0 ∧ t.mode = s.mode)) ∧
      (s.mode = 1 ∨ s.mode = 5 → req = 0 → s.rf Rf.HUB_STAT_TRAINING = 0 → Gives c s (fun t => t.mode = 0 ∧ t.modes.trans = .none ∧
        t.rf Rf.GLB_STATUS_REFUSE = 0 ∧ t.rf Rf.TST_STAT_USES = 0 ∧ t.chains = [] ∧ t.hub = s.hub ∧
        t.rf Rf.CAD_PERIOD_PERIOD_NS = s.rf Rf.CAD_PERIOD_PERIOD_NS ∧ Raised s t 0x0004 s.mode 0 0)) ∧
      (s.mode = 1 → 2 ≤ req.val →
        let ns := nosieve && decide (req.val = 4)
        let bad := State.entryRefused { s with modes := { s.modes with nosieve := ns } }
        (∀ code a0 a1, bad = some (code, a0, a1) → Gives c s (fun t => t.rf Rf.GLB_STATUS_REFUSE = code % 2 ^ 16 ∧
          t.mode = 1 ∧ t.modes.trans = .none ∧ Raised s t code a0 a1 0)) ∧
        (bad = none → Gives c s (fun t => t.modes.trans = .entry ∧ t.rf Rf.GLB_STATUS_TRANS = 1 ∧
          t.rf Rf.GLB_STATUS_TARGET = req.val ∧ t.mode = 1 ∧ t.modes.nosieve = ns ∧ t.chains = [] ∧
          (s.rf Rf.BRK_LOCK_LOCK = 0 → Raised s t 0xB001 0 0 0) ∧
          ∀ st < 8, t.rf (Rf.PAK_STR_SESS_SESSION st) = (s.rf (Rf.PAK_STR_SESS_SESSION st) + 1) % 2 ^ 16 ∧
            t.rf (Rf.PAK_STR_SEQ_NEXT st) = 0 ∧ (t.str st).ret = []))) ∧
      (2 ≤ s.mode → s.mode ≤ 4 → req.val < 2 → s.cad.started = false → Gives c s (fun t => t.modes.trans = .drain ∧
        t.rf Rf.GLB_STATUS_DRAIN = 1 ∧ t.rf Rf.GLB_STATUS_TARGET = req.val ∧ t.cad.stop = true ∧ t.mode = s.mode))) ∧
    (may → 2 ≤ s.mode → s.mode ≤ 4 → abort = true → req = 1 → Gives c s (fun t => t.mode = 1 ∧ t.modes.trans = .none ∧
      t.cad = {} ∧ Raised s t 0x0007 s.inFlight 0 0 ∧ Raised s t 0x0004 s.mode 1 0)) ∧
    (s.modes.trans ≠ .drain → exec .modeAbort s = .next s) ∧
    (s.modes.trans = .drain → s.rf Rf.GLB_STATUS_TARGET = 1 → Gives .modeAbort s (fun t => t.mode = 1 ∧
      t.modes.trans = .none ∧ t.cad = {} ∧ Raised s t 0x0007 s.inFlight 0 0))

/-- R408 to R413: SERVICE, an acquisition mode and the end of a drain are reported when they are reached; SAFE is
entered from every mode but itself, and SAFE_N in STANDBY leaves the mode, also while the change to SERVICE is under
way, after which SAFE is entered (logs 108, 206). Model's choices: logs 78, 123 and 124. -/
def Obligations.ModesReached : Prop :=
  ∀ s : State, s.evq.length < 700 →
    (∀ failed, s.modes.trans = .service → s.rf Rf.HUB_STAT_TRAINING = 0 ∨ failed = [] →
      (s.modes.unslot = false → s.hubU.newRate = none → s.hubU.held = [] → s.hubU.waiting = [] → s.hubU.errs = [] →
        Gives (.serviceReady failed) s (fun t => t.mode = (if s.rf Rf.GLB_STATUS_SAFE_PIN = 0 then 1 else 5) ∧
          t.modes.trans = .none ∧ t.hubU.on = true ∧ Raised s t 0x0004 s.mode 1 0 ∧
          (s.rf Rf.GLB_STATUS_SAFE_PIN ≠ 0 → Raised s t 0x0006 0 0 0 ∧ Raised s t 0x0004 1 5 0))) ∧
      (s.modes.unslot = true → Gives (.serviceReady failed) s (fun t => t.mode = 0 ∧ t.modes.trans = .none ∧
        t.rf Rf.GLB_STATUS_REFUSE = 5 ∧ Raised s t 0x0005 5 0 0))) ∧
    (∀ failed, s.modes.trans ≠ .service → exec (.serviceReady failed) s = .next s) ∧
    (s.modes.trans = .entry → s.rf Rf.HUB_STAT_TRAINING = 0 → s.rf Rf.GLB_STATUS_TARGET < 8 → Gives .acquisitionEntryComplete s (fun t =>
      t.mode = s.rf Rf.GLB_STATUS_TARGET ∧ t.modes.trans = .none ∧ t.rf Rf.CAD_GEAR_STATE = 1 ∧ t.rf Rf.CAD_BAND_BAND = 0 ∧
      t.rf Rf.SIV_SEQ_NEXT_ID = 1 ∧ Raised s t 0x0004 1 (s.rf Rf.GLB_STATUS_TARGET) 0)) ∧
    (s.modes.trans ≠ .entry ∨ s.rf Rf.HUB_STAT_TRAINING ≠ 0 → exec .acquisitionEntryComplete s = .next s) ∧
    (s.modes.trans = .drain → s.drained = true → s.rf Rf.GLB_STATUS_TARGET ≤ 1 → Gives .drainComplete s (fun t =>
      t.mode = s.rf Rf.GLB_STATUS_TARGET ∧ t.modes.trans = .none ∧ t.cad = {} ∧
      Raised s t 0x0004 s.mode (s.rf Rf.GLB_STATUS_TARGET) 0 ∧ (s.rf Rf.GLB_STATUS_TARGET = 0 → t.chains = []))) ∧
    (s.modes.trans ≠ .drain ∨ s.drained = false → exec .drainComplete s = .next s) ∧
    (let safeFrom (c : Instr) (source : Nat) : Prop := Gives c s (fun t => t.mode = 5 ∧ t.modes.trans = .none ∧ t.cad = {} ∧
       t.hub = s.hub ∧ (∀ st < 8, (t.str st).ret = []) ∧ Raised s t 0x0006 source 0 0 ∧ Raised s t 0x0004 s.mode 5 0)
     (s.mode ≠ 5 → s.mode ≠ 0 ∨ s.hubU.errs = [] → safeFrom .modeReqSafe 1 ∧ safeFrom .safe 1 ∧ (s.mode ≠ 0 → safeFrom .safeNLow 0)) ∧
     (s.mode = 5 → exec .modeReqSafe s = .next s ∧ exec .safe s = .next s)) ∧
    (s.mode = 5 ∨ s.mode = 0 → Gives .safeNLow s (fun t => t.rf Rf.GLB_STATUS_SAFE_PIN = 1 ∧
      FieldsOnly [Rf.GLB_STATUS_SAFE_PIN] s t)) ∧
    Gives .safeNHigh s (fun t => t.rf Rf.GLB_STATUS_SAFE_PIN = 0 ∧ FieldsOnly [Rf.GLB_STATUS_SAFE_PIN] s t)

/-- R414 to R417 and Table 0.5: DPRST and a host reset lose what they lose and are reported, unless a greater reset is
in progress; a module reset holds the die, loses class M and latches the straps until RESET_N is released, with the
main rails off too (log 108). Model's choices: logs 16, 123 and 169. -/
def Obligations.Resets : Prop :=
  ∀ (straps : BitVec 3) (kind : HostResetKind) (s : State), s.evq.length < 700 →
    let greater := s.modes.held = true ∨ s.modes.cause ≠ none ∨ s.modes.mains = false
    let cause := match kind with
      | .hot => 4
      | .linkDown => 5
      | .flr => 6
    (greater → exec .dprst s = .next s ∧ exec (.hostReset kind) s = .next s) ∧
    (¬ greater → Gives .dprst s (fun t => t.mode = 0 ∧ t.modes.trans = .none ∧ t.cad = {} ∧ t.chains = [] ∧
      t.rf Rf.GLB_RSTCAUSE_CAUSE = 7 ∧ Counted Rf.GLB_RSTCAUSE_DPRST s t ∧ t.hub = s.hub ∧ t.rf Rf.HUB_STAT_TRAINING = 0 ∧
      t.rf Rf.MGT_MBX_CFG_VECTOR = s.rf Rf.MGT_MBX_CFG_VECTOR ∧ Raised s t 0x000C 0 0 0 ∧ Raised s t 0x0008 7 0 0)) ∧
    (¬ greater → Gives (.hostReset kind) s (fun t => t.mode = 0 ∧ t.modes.trans = .none ∧ t.cad = {} ∧ t.chains = [] ∧
      t.rf Rf.GLB_RSTCAUSE_CAUSE = cause ∧ Counted Rf.GLB_RSTCAUSE_HOSTRST s t ∧ t.hub = s.hub ∧
      t.rf Rf.MGT_MBX_CFG_VECTOR = 0 ∧ t.rf Rf.MGT_MBX_STAT_BUSY = 0 ∧ t.mgt.discard = (s.mgt.result.isSome || s.mgt.cmd.isSome) ∧
      t.rf Rf.GLB_STATUS_LINK = (if kind = .flr then s.rf Rf.GLB_STATUS_LINK else 0) ∧ Raised s t 0x0008 cause 0 0)) ∧
    (s.modes.vin = true → s.modes.cause ≠ some 1 → Gives (.moduleReset straps) s (fun t => t.modes.held = true ∧
      t.mode = 0 ∧ t.rf Rf.GLB_RSTCAUSE_CAUSE = 2 ∧ Counted Rf.GLB_RSTCAUSE_MODRST s t ∧ t.hub = [] ∧ t.evq = [] ∧
      t.engines = [] ∧ t.rf Rf.CAD_PERIOD_PERIOD_NS = Rf.CAD_PERIOD_PERIOD_NS.reset ∧ t.mgt.flash = s.mgt.flash ∧
      t.rf Rf.GLB_STRAP_SMBADDR = straps.toNat % 4 ∧ t.rf Rf.GLB_STRAP_BOOT_SEL = straps.toNat / 4 ∧
      t.mgt.copyB = s.mgt.nextB)) ∧
    (s.modes.vin = false ∨ s.modes.cause = some 1 → exec (.moduleReset straps) s = .next s) ∧
    (s.modes.held = true → Gives .resetNRelease s (fun t => t.modes.held = false ∧ t.modes.cause = none ∧
      t.rf Rf.GLB_STATUS_READY = (if s.modes.mains = true then 1 else 0) ∧ t.mgt.kickAt = s.count ∧ Raised s t 0x0008 2 0 0)) ∧
    (s.modes.held = false → exec .resetNRelease s = .next s)

/-- R419 to R424 and R394 to R396: power comes and goes; the power-on test makes the host port ready, and gives the
unit of an engine that failed it to a spare; the boot ROM runs the confirmed bank, a trial bank that has tries left, or
recovery, loads each lane's entry of the board table, or the defaults, and serves the mailbox command that waited;
over-voltage and failed phases are counted. Model's choices: logs 49, 118, 119, 121, 122 and 125. -/
def Obligations.PowerAndBoot : Prop :=
  ∀ (straps : BitVec 3) (date : Nat) (s : State), s.evq.length < 500 →
    (s.modes.vin = true → exec (.powerOn straps) s = .next s) ∧
    (s.modes.vin = false → Gives (.powerOn straps) s (fun t => t.mode = 0 ∧ t.modes.vin = true ∧ t.modes.mains = true ∧
      t.modes.cause = some 1 ∧ t.rf Rf.GLB_RSTCAUSE_CAUSE = 1 ∧ Counted Rf.GLB_STRAP_POWERON s t ∧ t.hub = [] ∧
      t.rf Rf.GLB_STRAP_SMBADDR = straps.toNat % 4 ∧ t.rf Rf.GLB_STRAP_BOOT_SEL = straps.toNat / 4 ∧
      t.mgt.flash = s.mgt.flash ∧ t.mgt.good = s.mgt.good ∧ t.pending = s.pending ∧ t.count = 0)) ∧
    (s.modes.cause = some 1 → s.modes.mains = true → Gives (.powerOnTestComplete []) s (fun t => t.rf Rf.GLB_STATUS_READY = 1 ∧
      t.modes.cause = none ∧ Raised s t 0x0008 1 0 0)) ∧
    (∀ e : Eng, s.modes.cause = some 1 → s.modes.mains = true → s.rf (Rf.ENG_ROLE_RETIRED e) = 0 → s.rf (Rf.ENG_ROLE_SPARE e) = 0 →
      (∀ v < 112, s.unserved v = false) → let u := s.unitOf e
      ∀ f, u < 112 → s.spareOf (unitSection u) = some f → Gives (.powerOnTestComplete [e]) s (fun t =>
        t.rf Rf.GLB_STATUS_READY = 1 ∧ t.rf (Rf.ENG_ROLE_RETIRED e) = 1 ∧ t.rf (Rf.ENG_UNIT_ENGINE u) = f ∧
        t.rf (Rf.ENG_ROLE_UNIT f) = u ∧ t.rf (Rf.ENG_ROLE_SPARE f) = 0)) ∧
    (∀ failed, s.modes.cause ≠ some 1 ∨ s.modes.mains = false → exec (.powerOnTestComplete failed) s = .next s) ∧
    (s.modes.vin = true → s.modes.held = false → s.modes.cause ≠ some 1 → s.rf Rf.MGT_STAT_FW = 0 → ∀ tag i,
      s.mgt.cmd = some (tag, i) → Gives (.firmwareReady date) s (fun t => t.mgt.cmd = none ∧
        ∃ r bytes, t.mgt.result = some (r, bytes, tag.toNat))) ∧
    (s.modes.vin = true → s.modes.held = false → s.modes.cause ≠ some 1 → s.rf Rf.MGT_STAT_FW = 0 → s.mgt.cmd = none →
      let runs (b : Bool) (t : State) : Prop := t.rf Rf.MGT_STAT_FW = 1 ∧ t.rf Rf.GLB_STATUS_FW = 1 ∧
        (s.modes.mains = true → t.rf Rf.GLB_STATUS_BOARD ≠ 0) ∧ t.rf Rf.MGT_STAT_BANK = (if b then 1 else 0) ∧
        t.mgt.kickAt = s.mgt.kickAt ∧ t.count = max s.count date ∧
        (s.modes.mains = true → s.rf Rf.GLB_STATUS_BOARD = 0 → ∀ l : Fin 192,
          (∀ w, Config.laneEntry s.boardTable l = some w → t.rf (Rf.SPK_LN_EQ_DEFAULT l) = 0 ∧
            t.rf (Rf.SPK_LN_EQ_TX_SWING l) = fldOf (Rf.SPK_LN_EQ_TX_SWING l) w.toNat ∧
            t.rf (Rf.SPK_LN_EQ_RX_CTLE l) = fldOf (Rf.SPK_LN_EQ_RX_CTLE l) w.toNat ∧
            t.rf (Rf.SPK_LN_EQ_POL_RX l) = fldOf (Rf.SPK_LN_EQ_POL_RX l) w.toNat) ∧
          (Config.laneEntry s.boardTable l = none → t.rf (Rf.SPK_LN_EQ_DEFAULT l) = 1 ∧
            t.rf (Rf.SPK_LN_EQ_TX_SWING l) = 0xC ∧ t.rf (Rf.SPK_LN_EQ_RX_CTLE l) = 0x0A))
      let first := s.rf Rf.GLB_STRAP_BOOT_SEL = 0
      (¬ first → Gives (.firmwareReady date) s (fun t => t.rf Rf.MGT_STAT_FW = 2 ∧ t.rf Rf.GLB_STATUS_FW = s.rf Rf.GLB_STATUS_FW ∧
        Raised s t 0xA00D 0 0 0)) ∧
      (first → s.rf Rf.MGT_STAT_TRIAL = 0 → s.checkBank s.mgt.good = 0 → Gives (.firmwareReady date) s (runs s.mgt.good)) ∧
      (first → s.rf Rf.MGT_STAT_TRIAL = 0 → s.checkBank s.mgt.good ≠ 0 → s.checkBank (!s.mgt.good) = 0 →
        Gives (.firmwareReady date) s (fun t => runs (!s.mgt.good) t ∧ Raised s t 0xA009 0 0 0)) ∧
      (first → s.rf Rf.MGT_STAT_TRIAL ≠ 0 → s.rf Rf.MGT_STAT_TRIES < 3 → s.checkBank s.mgt.trial = 0 →
        Gives (.firmwareReady date) s (fun t => runs s.mgt.trial t ∧ t.rf Rf.MGT_STAT_TRIES = s.rf Rf.MGT_STAT_TRIES + 1)) ∧
      (first → s.rf Rf.MGT_STAT_TRIAL ≠ 0 → 3 ≤ s.rf Rf.MGT_STAT_TRIES → s.checkBank s.mgt.good = 0 →
        Gives (.firmwareReady date) s (fun t => runs s.mgt.good t ∧ t.rf Rf.MGT_STAT_TRIAL = 0 ∧ Raised s t 0xA009 0 0 0)) ∧
      (s.checkBank false ≠ 0 → s.checkBank true ≠ 0 → Gives (.firmwareReady date) s (fun t => t.rf Rf.MGT_STAT_FW = 2 ∧
        Raised s t 0xA00D 0 0 0))) ∧
    (s.modes.vin = false ∨ s.modes.held = true ∨ s.modes.cause = some 1 ∨ s.rf Rf.MGT_STAT_FW ≠ 0 →
      exec (.firmwareReady date) s = .next s) ∧
    (s.modes.vin = true → Gives .powerOff s (fun t => t.modes.vin = false ∧ t.modes.mains = false ∧ t.mode = 0 ∧
      t.hub = [] ∧ t.mgt.flash = s.mgt.flash)) ∧
    (s.modes.vin = true → Gives .vinOvervoltage s (fun t => Counted Rf.GLB_PWR_OVCNT s t ∧ Raised s t 0x0009 0 0 0 ∧
      FieldsAndEvents [Rf.GLB_PWR_OVCNT] s t)) ∧
    (s.modes.vin = false → exec .powerOff s = .next s ∧ exec .vinOvervoltage s = .next s) ∧
    (s.modes.mains = true →
      (s.rf Rf.GLB_STATUS_PHASES = 0 → Gives .phaseFailure s (fun t => t.rf Rf.GLB_STATUS_PHASES = 1 ∧
        Raised s t 0x000A 0 0 0 ∧ FieldsAndEvents [Rf.GLB_STATUS_PHASES] s t)) ∧
      (s.rf Rf.GLB_STATUS_PHASES = 1 → s.rf Rf.MGT_TSTAT_SKIP < 4096 → Gives .phaseFailure s (fun t =>
        t.rf Rf.GLB_STATUS_PHASES = 2 ∧ t.rf Rf.MGT_TSTAT_SKIP = max 2000 (s.rf Rf.MGT_TSTAT_SKIP) ∧
        t.rf Rf.MGT_TSTAT_THROTTLE = 1 ∧ Raised s t 0x000A 0 0 0 ∧ Raised s t 0x000B 0 0 0)) ∧
      (2 ≤ s.rf Rf.GLB_STATUS_PHASES → Gives .phaseFailure s (fun t => t.rf Rf.GLB_STATUS_PHASES = 3 ∧
        t.modes.mains = false ∧ t.modes.dead = true)))

/-- R397 to R399: a measurement reports the hottest die sensor and the skip fraction of its excess over the onset; at
118 °C the rails are cut; with the rails cut the island watches sensor 0, and after a second below 85 °C the module
starts anew. Model's choices: log 122. -/
def Obligations.ThermalControl : Prop :=
  ∀ (rs : List Int) (m : Int) (s : State), s.evq.length < 900 → s.modes.vin = true →
    let step := if s.modes.mains = false then 12500000 else if s.rf Rf.MGT_TSTAT_FAST = 0 then 1250000 else 62500
    let excess := (m - 8 * (s.rf Rf.MGT_THERM_ONSET : Nat)).toNat
    let two := 2 ≤ s.rf Rf.GLB_STATUS_PHASES
    (rs.length ≤ 40 → m ∈ rs → (∀ x ∈ rs, x ≤ m) → s.modes.mains = true → s.rf Rf.TST_THERM_EN = 0 →
      (m < 944 → Gives (.thermalMeasure rs) s (fun t => t.count = max s.count (s.modes.measAt + step) ∧
        t.modes.measAt = t.count ∧ t.rf Rf.MGT_TSTAT_DMAX = ofSigned 16 m ∧
        rs.getD (t.rf Rf.MGT_TSTAT_SENSOR) 0 = m ∧
        t.rf Rf.MGT_TSTAT_SKIP = max (min (30 * excess) 4000) (if two then 2000 else 0) ∧
        (t.rf Rf.MGT_TSTAT_THROTTLE ≠ 0 ↔ 1 ≤ excess ∨ two) ∧
        (s.rf Rf.MGT_TSTAT_THROTTLE = 0 → 1 ≤ excess ∨ two → Counted Rf.MGT_TSTAT_ONSETS s t ∧ Raised s t 0xA001 0 0 0) ∧
        (s.rf Rf.MGT_TSTAT_THROTTLE ≠ 0 → ¬ (1 ≤ excess ∨ two) → Raised s t 0xA002 0 0 0) ∧
        ∀ i < rs.length, ∃ y, t.sensor i = some y ∧ y.value = ofSigned 16 (rs.getD i 0) ∧ y.valid = true)) ∧
      (944 ≤ m → Gives (.thermalMeasure rs) s (fun t => t.modes.mains = false ∧ t.modes.hot = true ∧
        t.modes.coolAt = none ∧ t.mode = 0 ∧ t.hub = [] ∧ t.rf Rf.MGT_SHUT_LAST_D = ofSigned 16 m ∧
        Counted Rf.MGT_SHUT_COUNT s t))) ∧
    (rs.head? = some m → s.modes.mains = false → Gives (.thermalMeasure rs) s (fun t =>
      t.count = max s.count (s.modes.measAt + step) ∧
      t.modes.coolAt = (if 680 ≤ m then none else some (s.modes.coolAt.getD t.count)) ∧ t.modes.mains = false)) ∧
    (∀ c, s.modes.coolAt = some c → s.modes.hot = true → s.modes.held = false → Gives .thermalRestart s (fun t =>
      t.count = max s.count (c + 1250000000) ∧ t.modes.mains = true ∧ t.modes.hot = false ∧ t.modes.coolAt = none ∧
      t.rf Rf.GLB_RSTCAUSE_CAUSE = 3 ∧ t.rf Rf.GLB_STATUS_READY = 1 ∧ t.mode = 0 ∧ t.hub = [] ∧
      Told t 0xA004 0 ∧ Told t 0x0008 3)) ∧
    (s.modes.coolAt = none ∨ s.modes.hot = false ∨ s.modes.held = true → exec .thermalRestart s = .next s)

/-! ### Test perturbations (chapter 16) -/

/-- R430 to R443: the unlock; a use that is not allowed is ignored with event 0xE004; an allowed one takes its values,
is counted and reported, and shows as active; a write that enables nothing is no use, takes its values in every state,
and ends what it disables with event 0xE003; a flip makes its codeword's error; a glitch shorter than the filter passes
without effect, and one on Z that outlasts it latches the count; the back-pressure pattern comes to its next change.
Model's choices: logs 126, 143, 162 and 196. -/
def Obligations.Perturbations : Prop :=
  ∀ (port : Port) (i : Fin 4) (v : BitVec 64) (s : State), s.evq.length < 900 →
    let n := v.toNat
    let may := s.modes.trans = .none ∧ (s.mode = 1 ∨ 2 ≤ s.mode ∧ s.mode ≤ 4 ∧ s.rf Rf.TST_STAT_UNLOCKED ≠ 0)
    let bit (lo w : Nat) : Nat := n / 2 ^ lo % 2 ^ w
    let barred (c : Instr) (off : Nat) : Prop := ¬ may → Gives c s (fun t => Raised s t 0xE004 off 0 0 ∧ FieldsAndEvents [] s t)
    let used (c : Instr) (k : Nat) (P : State → Prop) : Prop := may → Gives c s (fun t => P t ∧ Counted Rf.TST_STAT_USES s t ∧
      Raised s t 0xE002 k n 0 ∧ (k ≠ 5 → k ≠ 6 → (t.rf Rf.TST_STAT_ACTIVE).testBit k = true))
    let idle (c : Instr) (P : State → Prop) : Prop := Gives c s (fun t => P t ∧ t.rf Rf.TST_STAT_USES = s.rf Rf.TST_STAT_USES)
    let ended (f : Fld) (k : Nat) (t : State) : Prop := t.rf f = 0 ∧ (s.rf f ≠ 0 → Raised s t 0xE003 k 0 0)
    let anew := s.rf Rf.TST_BP_HOST = 0 ∨ s.rf Rf.TST_BP_ON_US ≠ bit 16 16 ∨ s.rf Rf.TST_BP_OFF_US ≠ bit 32 16
    (2 ≤ s.mode → s.mode ≤ 4 → bit 0 16 = 0x7E57 → Gives (.tstUnlock .host v) s (fun t => t.rf Rf.TST_STAT_UNLOCKED = 1 ∧
      Raised s t 0xE001 0 0 0 ∧ FieldsAndEvents [Rf.TST_STAT_UNLOCKED] s t)) ∧
    (s.mode < 2 ∨ 4 < s.mode ∨ bit 0 16 ≠ 0x7E57 → exec (.tstUnlock .host v) s = .next s) ∧
    Gives (.tstUnlock .mgt v) s (fun t => Counted Rf.BRK_CNT_MGTW s t ∧ Raised s t 0xB003 0xF00000 0 0 ∧
      FieldsAndEvents [Rf.BRK_CNT_MGTW] s t) ∧
    (bit 8 1 = 1 → barred (.tstCred port i v) (0xF00040 + 8 * i) ∧ used (.tstCred port i v) 0 (fun t =>
      t.rf (Rf.TST_CRED_CHAIN i) = bit 0 8 ∧ t.rf (Rf.TST_CRED_EN i) = 1 ∧ t.rf (Rf.TST_CRED_LIMIT i) = bit 16 24)) ∧
    (bit 15 1 = 1 → barred (.tstHublat port v) 0xF00060 ∧ (bit 0 14 ≤ 10000 → used (.tstHublat port v) 1 (fun t =>
      t.rf Rf.TST_HUBLAT_DELAY = bit 0 14 ∧ t.rf Rf.TST_HUBLAT_EN = 1 ∧ t.rf Rf.TST_HUBLAT_CLASSES = bit 16 3))) ∧
    (bit 0 1 = 1 → anew → (¬ may → Gives (.tstBp port v) s (fun t => Raised s t 0xE004 0xF00068 0 0 ∧
        t.rf Rf.TST_BP_HOST = s.rf Rf.TST_BP_HOST)) ∧
      used (.tstBp port v) 2 (fun t => t.rf Rf.TST_BP_HOST = 1 ∧ t.rf Rf.TST_BP_SP0 = bit 1 1 ∧
        t.rf Rf.TST_BP_ON_US = bit 16 16 ∧ t.rf Rf.TST_BP_OFF_US = bit 32 16 ∧ t.tests.bpAt = s.count)) ∧
    (bit 16 1 = 1 → barred (.tstLane port i v) (0xF00080 + 8 * i) ∧ (bit 0 8 ≤ 191 → bit 24 6 ≤ 40 →
      used (.tstLane port i v) 4 (fun t => t.rf (Rf.TST_LANE_LANE i) = bit 0 8 ∧ t.rf (Rf.TST_LANE_OP i) = bit 8 2 ∧
        t.rf (Rf.TST_LANE_EN i) = 1 ∧ t.rf (Rf.TST_LANE_RATE_LOG i) = bit 24 6 ∧ look (fun _ => 0) t.tests.laneN i = 0))) ∧
    (bit 6 1 = 1 → barred (.tstLine port v) 0xF000C8 ∧ (bit 7 2 < 3 → 1 ≤ bit 16 16 → used (.tstLine port v) 7 (fun t =>
      t.rf Rf.TST_LINE_PORT = bit 0 6 ∧ t.rf Rf.TST_LINE_OP = bit 7 2 ∧ t.rf Rf.TST_LINE_N = bit 16 16 ∧
      t.rf Rf.TST_LINE_EVERY = bit 32 16 ∧ t.tests.lineN = 0))) ∧
    (bit 24 1 = 1 → barred (.tstTick port v) 0xF000D0 ∧
      (8 * bit 0 24 ≤ s.rf Rf.CAD_PERIOD_PERIOD_NS → used (.tstTick port v) 8 (fun t =>
        t.rf Rf.TST_TICK_JMAX_NS = bit 0 24 ∧ t.rf Rf.TST_TICK_EN = 1)) ∧
      (s.rf Rf.CAD_PERIOD_PERIOD_NS < 8 * bit 0 24 → Gives (.tstTick port v) s (fun t => Raised s t 0xE004 0xF000D0 0 0 ∧
        FieldsAndEvents [] s t))) ∧
    (bit 16 1 = 1 → barred (.tstTherm port v) 0xF000D8 ∧ (bit 0 16 ≤ 256 ∨ 65280 ≤ bit 0 16 → used (.tstTherm port v) 9 (fun t =>
      t.rf Rf.TST_THERM_OFFSET = bit 0 16 ∧ t.rf Rf.TST_THERM_EN = 1))) ∧
    (bit 11 1 = 1 → barred (.tstEccGo port v) 0xF000A0 ∧
      (bit 0 3 = 0 → bit 3 2 = 1 → bit 5 5 ≤ 17 → bit 16 7 ≤ 118 → s.hubU.errs = [] →
        let a := s.rf Rf.TST_ECC_ADDR_ADDR
        a < s.capacity → used (.tstEccGo port v) 5 (fun t =>
          t.hubU.errs = [(a / 16, [(bit 5 5, if bit 24 8 = 0 then 0xFF else bit 24 8)])] ∧ t.hub = s.hub ∧
          t.rf Rf.TST_ECC_DONE = 1 ∧ Raised s t 0xE003 5 0 0))) ∧
    (bit 16 1 = 1 → bit 3 2 = 2 → bit 5 1 = 0 → 1 ≤ bit 8 8 → s.rf (Rf.POS_ENC_CFG_FILT (bit 0 3)) ≤ bit 8 8 →
      s.rf (Rf.POS_ENC_CFG_EN (bit 0 3)) ≠ 0 → (s.encCh (bit 0 3)).z = false → s.rf (Rf.POS_ENC_STAT_ARMED (bit 0 3)) = 0 → used (.tstEncGo port v) 6 (fun t =>
        t.rf (Rf.POS_ENC_IDX_LAST (bit 0 3)) = s.posCount (bit 0 3) % 2 ^ 64 ∧ Raised s t 0xE003 6 0 0)) ∧
    (bit 16 1 = 1 → barred (.tstEncGo port v) 0xF000C0 ∧ (bit 3 2 < 3 → 1 ≤ bit 8 8 →
      bit 8 8 < s.rf (Rf.POS_ENC_CFG_FILT (bit 0 3)) → used (.tstEncGo port v) 6 (fun t =>
        t.pos = s.pos ∧ Raised s t 0xE003 6 0 0))) ∧
    (bit 8 1 = 0 → idle (.tstCred port i v) (fun t => ended (Rf.TST_CRED_EN i) 0 t ∧ t.rf (Rf.TST_CRED_CHAIN i) = bit 0 8 ∧
      t.rf (Rf.TST_CRED_LIMIT i) = bit 16 24)) ∧
    (bit 15 1 = 0 → bit 0 14 ≤ 10000 → idle (.tstHublat port v) (fun t => ended Rf.TST_HUBLAT_EN 1 t ∧
      t.rf Rf.TST_HUBLAT_DELAY = bit 0 14 ∧ t.rf Rf.TST_HUBLAT_CLASSES = bit 16 3)) ∧
    (bit 0 3 = 0 → idle (.tstBp port v) (fun t => ended Rf.TST_BP_HOST 2 t ∧ ended Rf.TST_BP_SP0 3 t ∧ ended Rf.TST_BP_SP1 3 t ∧
      t.rf Rf.TST_BP_ON_US = bit 16 16 ∧ t.rf Rf.TST_BP_OFF_US = bit 32 16)) ∧
    (bit 16 1 = 0 → bit 0 8 ≤ 191 → bit 24 6 ≤ 40 → idle (.tstLane port i v) (fun t => ended (Rf.TST_LANE_EN i) 4 t ∧
      t.rf (Rf.TST_LANE_LANE i) = bit 0 8 ∧ t.rf (Rf.TST_LANE_OP i) = bit 8 2)) ∧
    (bit 6 1 = 0 → bit 7 2 < 3 → 1 ≤ bit 16 16 → idle (.tstLine port v) (fun t => ended Rf.TST_LINE_EN 7 t ∧
      t.rf Rf.TST_LINE_PORT = bit 0 6 ∧ t.rf Rf.TST_LINE_N = bit 16 16)) ∧
    (bit 24 1 = 0 → 8 * bit 0 24 ≤ s.rf Rf.CAD_PERIOD_PERIOD_NS → idle (.tstTick port v) (fun t => ended Rf.TST_TICK_EN 8 t ∧
      t.rf Rf.TST_TICK_JMAX_NS = bit 0 24)) ∧
    (bit 16 1 = 0 → bit 0 16 ≤ 256 ∨ 65280 ≤ bit 0 16 → idle (.tstTherm port v) (fun t => ended Rf.TST_THERM_EN 9 t ∧
      t.rf Rf.TST_THERM_OFFSET = bit 0 16)) ∧
    (bit 11 1 = 0 → bit 5 5 ≤ 17 → bit 16 7 ≤ 118 → 1 ≤ bit 3 2 → bit 3 2 ≤ 2 → bit 0 3 < 7 → idle (.tstEccGo port v) (fun t =>
      t.rf Rf.TST_ECC_MEM = bit 0 3 ∧ t.hubU = s.hubU ∧ t.engines = s.engines)) ∧
    (bit 16 1 = 0 → bit 3 2 < 3 → 1 ≤ bit 8 8 → idle (.tstEncGo port v) (fun t => t.rf Rf.TST_ENC_CH = bit 0 3 ∧
      t.pos = s.pos)) ∧
    (s.rf Rf.TST_BP_HOST ≠ 0 → 0 < s.rf Rf.TST_BP_ON_US →
      let on := s.rf Rf.TST_BP_ON_US * 1250
      let at' := (s.count - s.tests.bpAt) % (on + s.rf Rf.TST_BP_OFF_US * 1250)
      Gives .backpressurePhase s (fun t => t.count = s.count + (if at' < on then on - at' else on + s.rf Rf.TST_BP_OFF_US * 1250 - at')))

/-! ### Register accesses and reset (chapter 0) -/

/-- R5, R7, R366, R383, R401 and the chapters' rules of ignored writes: an access that is not aligned, not of a
register's width, or of no register, reads zeros and writes nothing; the management port never writes the brakes; a
locked brake keeps its value; a field in range takes the value written while its unit takes writes, and else the write
is ignored with its block's event; a read clears RC fields alone. Model's choices: logs 19, 20, 21, 22, 26 and 28. -/
def Obligations.RegisterAccesses : Prop :=
  ∀ (port : Port) (off size : Nat) (v : BitVec 64) (i : Fin 4) (s : State), s.evq.length < 1000 →
    let n := v.toNat
    let defined := (regAt off).isSome = true ∨ (imemAt off).isSome = true
    let msix := 0x608000 ≤ off ∧ off < 0x610100
    let bad := ¬ (size = 8 ∧ off % 8 = 0 ∧ defined ∨ size = 4 ∧ off % 4 = 0 ∧ msix)
    let brk := 0xD00000 ≤ off ∧ off < 0xE00000
    (bad → Gives (.readClear port off size) s (fun t => t.readData = 0 ∧ Raised s t 0x0001 off 0 0) ∧
      Gives (.invalidRegisterAccess port off size none) s (fun t => t.readData = 0 ∧ Raised s t 0x0001 off 0 0) ∧
      (port = .host → Gives (.registerWrite port off size v) s (fun t => Raised s t 0x0001 off 0 0 ∧ FieldsAndEvents [] s t) ∧
        Gives (.invalidRegisterAccess port off size (some v)) s (fun t => Raised s t 0x0001 off 0 0 ∧ FieldsAndEvents [] s t))) ∧
    (brk → Gives (.registerWrite .mgt off size v) s (fun t => Counted Rf.BRK_CNT_MGTW s t ∧ Raised s t 0xB003 off 0 0 ∧
      FieldsAndEvents [Rf.BRK_CNT_MGTW] s t)) ∧
    (s.rf Rf.BRK_LOCK_LOCK ≠ 0 → Gives (.registerWrite .host (0xD00300 + 8 * i) 8 v) s (fun t =>
      Raised s t 0x0002 (0xD00300 + 8 * i) 0 0 ∧ FieldsAndEvents [] s t)) ∧
    (s.rf Rf.BRK_LOCK_LOCK = 0 → 1 ≤ n % 2 ^ 16 → 1 ≤ n / 2 ^ 16 % 2 ^ 24 →
      Gives (.registerWrite .host (0xD00300 + 8 * i) 8 v) s (fun t => t.rf (Rf.BRK_MK_MINW_US i) = n % 2 ^ 16 ∧
        t.rf (Rf.BRK_MK_MINGAP_US i) = n / 2 ^ 16 % 2 ^ 24 ∧ FieldsOnly [Rf.BRK_MK_MINW_US i, Rf.BRK_MK_MINGAP_US i] s t)) ∧
    exec (.registerWrite port 0 8 v) s = .next s ∧
    (90 ≤ n % 2 ^ 8 → n % 2 ^ 8 ≤ 112 → Gives (.registerWrite port 0xE00040 8 v) s (fun t =>
      t.rf Rf.MGT_THERM_ONSET = n % 2 ^ 8 ∧ FieldsOnly [Rf.MGT_THERM_ONSET] s t)) ∧
    (n % 2 ^ 8 < 90 ∨ 112 < n % 2 ^ 8 → Gives (.registerWrite port 0xE00040 8 v) s (fun t =>
      Raised s t 0xA00E 0x40 0 0 ∧ FieldsAndEvents [] s t)) ∧
    (s.cadOn = true → Gives (.registerWrite port 0x900000 8 v) s (fun t => Raised s t 0x8002 0 0 0 ∧ FieldsAndEvents [] s t)) ∧
    (1 ≤ s.dmaState 0 0 → s.dmaState 0 0 ≤ 3 → Gives (.registerWrite port 0xA00008 8 v) s (fun t =>
      Raised s t 0x8006 0 0 0 ∧ FieldsAndEvents [] s t)) ∧
    (s.dmaState 0 0 = 0 → n % 4 < 2 → Gives (.registerWrite port 0xA00008 8 v) s (fun t => t.rf (Rf.DMA_HEAD_ADDR 0 0) = n ∧
      FieldsOnly [Rf.DMA_HEAD_ADDR 0 0] s t)) ∧
    (2 ≤ n % 4 → Gives (.registerWrite port 0xA00008 8 v) s (fun t => Raised s t 0x8006 0 0 0 ∧ FieldsAndEvents [] s t)) ∧
    (msix → off % 4 = 0 → Gives (.readClear port off 4) s (fun t => t.readData.toNat < 2 ^ 32 ∧ t.evq = s.evq)) ∧
    (let fs := [Rf.BRK_CNT_MGTW, Rf.BRK_CNT_MKSUP, Rf.BRK_CNT_MKEXT, Rf.BRK_CNT_SETDROP]
     (∀ f ∈ fs, s.rf f < 2 ^ 16) → Gives (.readClear port 0xD00008 8) s (fun t =>
       t.readData.toNat = s.rf Rf.BRK_CNT_MGTW + s.rf Rf.BRK_CNT_MKSUP * 2 ^ 16 + s.rf Rf.BRK_CNT_MKEXT * 2 ^ 32 +
         s.rf Rf.BRK_CNT_SETDROP * 2 ^ 48 ∧ (∀ f ∈ fs, t.rf f = 0) ∧ FieldsOnly fs s { t with readData := s.readData })) ∧
    Gives (.readClear port 0xC00018 8) s (fun t => { t with readData := s.readData } = s)

/-- The values after reset that the register tables and 0.6 state, of registers of several blocks; no command waits (the
queue is the model's). -/
def Obligations.ResetValues : Prop :=
  let s := State.reset
  s.mode = 0 ∧ s.rf Rf.GLB_RSTCAUSE_CAUSE = 1 ∧ s.rf Rf.GLB_ID_VENDOR = 0xF0A5 ∧ s.rf Rf.TIM_RATE_RATE = 3435973837 ∧
  s.rf Rf.MGT_THERM_ONSET = 105 ∧ s.rf Rf.MGT_WDOG_TIMEOUT_MS = 1000 ∧ s.rf Rf.BRK_LOCK_LOCK = 0 ∧
  (∀ i < 4, s.rf (Rf.BRK_MK_MINGAP_US i) = 1000) ∧ (∀ st < 8, s.rf (Rf.TIM_LSLOTP_PERIOD st) = 1000000) ∧
  s.cadOn = false ∧ s.modes.cause = some 1 ∧ s.pending = []

/-! ### An invariant of every step -/

/-- The two memories hold their canonical form at reset, and the queues of R292 and R389 are empty. -/
def Obligations.InvariantAtReset : Prop := QueuesAndMemories State.reset

/-- R292 and R389: whatever the command, a step leaves at most 1,024 events queued and at most 4,096 log entries, and
the hub and what is written of host memory in their canonical form. -/
def Obligations.InvariantKeptByEveryStep : Prop :=
  ∀ s t : State, QueuesAndMemories s → step s = .next t → QueuesAndMemories t

/-! ### Instruction words (Tables 2.3, 2.5 to 2.10, 3.4 to 3.6) -/

/-- The walker reads from the word of a well-formed instruction that instruction, with every operand at every value its
field admits: no bit of an encoding is dropped, and no two instructions share a word. -/
def Obligations.WordsAreReadBack : Prop :=
  ∀ (i : Instr) (e : Eng) (w : Nat), encode i = some (e, w) → i.wf = true → imageInstr e w = some i ∧ w < 2 ^ 64

/-- Words written out from the tables' bits, one of each kind, and the instructions they spell. -/
def Obligations.SampleWords : Prop :=
  ∀ e : Eng,
    -- add s3 = s1 + s2 under guard p2: MAJOR 1, MINOR 0, DST 3, SRCA 1, SRCB 2, guard 2
    imageInstr e 0b000001_000000_000011_000001_000010_0010_000000000000000000000000000000 = some (.add e 2 3 1 2) ∧
    -- movi s5 = -1: MAJOR 2, MINOR 0x20, DST 5, IMM all ones
    imageInstr e 0b000010_100000_000101_000000_000000_1111111111111111111111111111111111 = some (.movi e 5 (BitVec.allOnes 34)) ∧
    -- cmp.lt p1 = s4 < s5: MAJOR 3, MINOR 2
    imageInstr e 0b000011_000010_000001_000100_000101_0000_000000000000000000000000000000 = some (.cmpLt e 0 1 4 5) ∧
    -- loop N = 3, LEN = 2: MAJOR 8, MINOR 2, N in [33:14], LEN in [13:0]
    imageInstr e 0b001000_000010_000000_000000_000000_00000000000000000011_00000000000010 = some (.loop e 3 2) ∧
    -- sts: scratch[s7 + 8] = s6: MAJOR 0xA, MINOR 1, SRCA 7, SRCB 6, offset 8
    imageInstr e 0b001010_000001_000000_000111_000110_0000_000000_000000000000000000001000 = some (.sts e 0 6 7 8) ∧
    -- commit port 9: MAJOR 0xC, MINOR 2, DST 9
    imageInstr e 0b001100_000010_001001_000000_000000_0000_000000000000000000000000000000 = some (.commit e 0 9) ∧
    -- fence on the tiles and hst copies (mask 3): MAJOR 0xE, MINOR 0
    imageInstr e 0b001110_000000_000000_000000_000000_0000000000000000000000000000000011 = some (.fence e 3) ∧
    -- vmul d1 = d2 × d3, SH 4, NCAP 5, ADV 1: MAJOR 0x11, MINOR 2
    imageInstr e 0b010001_000010_000001_000010_000011_0000_000000000101_1_00000000000000100 =
      some (.vmul e ⟨0, 5, true⟩ 1 2 3 4) ∧
    -- an unused bit that is set, and MAJOR 0x3F, make a word undefined (R41)
    imageInstr e 0b000001_000000_000011_000001_000010_0010_000000000000000000000000000001 = none ∧
    imageInstr e 0b111111_000000_000000_000000_000000_0000000000000000000000000000000000 = none

end
end

