-- ==== Sys2Proof/Laws/Sparse.lean ====
section
/-! SUPPORT. The laws of the sparse lists: what a write changes and what it leaves, and that every write keeps the
canonical form; then the same of the memories built on them. -/

namespace Sys2Proof.Machine

variable {α : Type}

/-! ### Reading after a write -/

theorem look_drop1 (d : Nat → α) (l : List (Nat × α)) (k j : Nat) :
    look d (drop1 l k) j = if j = k then d j else look d l j := by
  induction l with
  | nil => simp [drop1, look]
  | cons e l ih =>
    obtain ⟨i, v⟩ := e
    have hc : drop1 ((i, v) :: l) k = if i = k then drop1 l k else (i, v) :: drop1 l k := by
      by_cases h : i = k <;> simp [drop1, h]
    rw [hc]
    by_cases h : i = k
    · by_cases hj : j = k
      · subst hj; simpa [h] using ih
      · simp [h, hj, ih, look, Ne.symm hj]
    · by_cases hj : i = j
      · subst hj; simp [look, h]
      · simp [look, h, hj, ih]

theorem look_insert1 (d : Nat → α) (l : List (Nat × α)) (k j : Nat) (v : α) :
    look d (insert1 l k v) j = if j = k then v else look d l j := by
  induction l with
  | nil => simp [insert1, look, eq_comm]
  | cons e l ih =>
    obtain ⟨i, w⟩ := e
    unfold insert1
    by_cases h : i = k
    · by_cases hj : j = k
      · simp [look, h, hj]
      · simp [look, h, hj, Ne.symm hj]
    · by_cases hk : k < i
      · by_cases hj : j = k
        · simp [look, h, hk, hj]
        · simp [look, h, hk, hj, Ne.symm hj]
      · by_cases hj : i = j
        · subst hj; simp [look, h, hk]
        · simp [look, h, hk, hj, ih]

/-- A sparse list reads the value written at the place written, and elsewhere as before. -/
@[simp] theorem look_put [DecidableEq α] (d : Nat → α) (l : List (Nat × α)) (k j : Nat) (v : α) :
    look d (put d l k v) j = if j = k then v else look d l j := by
  unfold put
  split
  · rename_i h; rw [look_drop1]; split
    · rename_i hj; rw [hj, h]
    · rfl
  · exact look_insert1 d l k j v

theorem look_put_self [DecidableEq α] (d : Nat → α) (l : List (Nat × α)) (k : Nat) (v : α) :
    look d (put d l k v) k = v := by simp

/-- Elsewhere it reads as before, whatever default the reader has. -/
theorem look_put_ne [DecidableEq α] (d d' : Nat → α) (l : List (Nat × α)) {k j : Nat} (v : α) (h : j ≠ k) :
    look d' (put d l k v) j = look d' l j := by
  unfold put
  split
  · rw [look_drop1, if_neg h]
  · rw [look_insert1, if_neg h]

theorem look_filter_in (d : Nat → α) (p : Nat → Bool) (l : List (Nat × α)) (j : Nat) :
    look d (l.filter (fun e => p e.1)) j = if p j then look d l j else d j := by
  induction l with
  | nil => simp [look]
  | cons e l ih =>
    obtain ⟨i, v⟩ := e
    rw [List.filter_cons]
    by_cases hp : p i = true
    · rw [if_pos hp]
      by_cases hj : i = j
      · subst hj; simp [look, hp]
      · simp [look, hj, ih]
    · rw [if_neg hp, ih]
      by_cases hj : i = j
      · subst hj; simp [hp]
      · simp [look, hj]

theorem look_of_not_any (d : Nat → α) (l : List (Nat × α)) (j : Nat) (h : l.any (fun e => e.1 == j) = false) :
    look d l j = d j := by
  induction l with
  | nil => rfl
  | cons e l ih =>
    obtain ⟨i, v⟩ := e
    simp only [List.any_cons, Bool.or_eq_false_iff, beq_eq_false_iff_ne] at h
    simp [look, h.1, ih h.2]

/-! ### The canonical form -/

theorem rising_mono {l : List (Nat × α)} {a b : Nat} (h : rising a l = true) (hb : b ≤ a) : rising b l = true := by
  cases l with
  | nil => rfl
  | cons e l =>
    simp only [rising, Bool.and_eq_true, decide_eq_true_eq] at h ⊢
    exact ⟨Nat.le_trans hb h.1, h.2⟩

theorem rising_filter (p : Nat × α → Bool) {l : List (Nat × α)} {a : Nat} (h : rising a l = true) :
    rising a (l.filter p) = true := by
  induction l generalizing a with
  | nil => rfl
  | cons e l ih =>
    simp only [rising, Bool.and_eq_true, decide_eq_true_eq] at h
    rw [List.filter_cons]
    split
    · simp only [rising, Bool.and_eq_true, decide_eq_true_eq]; exact ⟨h.1, ih h.2⟩
    · exact ih (rising_mono h.2 (Nat.le_succ_of_le h.1))

theorem rising_insert1 {l : List (Nat × α)} {a k : Nat} (v : α) (h : rising a l = true) (hk : a ≤ k) :
    rising a (insert1 l k v) = true := by
  induction l generalizing a with
  | nil => simp [insert1, rising, hk]
  | cons e l ih =>
    obtain ⟨i, w⟩ := e
    simp only [rising, Bool.and_eq_true, decide_eq_true_eq] at h
    unfold insert1
    split
    · rename_i hi; subst hi; simp [rising, hk, h.2]
    · split
      · rename_i hi; simp only [rising, Bool.and_eq_true, decide_eq_true_eq]; exact ⟨hk, hi, h.2⟩
      · simp only [rising, Bool.and_eq_true, decide_eq_true_eq]; exact ⟨h.1, ih h.2 (by omega)⟩

theorem mem_insert1 {l : List (Nat × α)} {k : Nat} {v : α} {e : Nat × α} (h : e ∈ insert1 l k v) :
    e = (k, v) ∨ e ∈ l := by
  induction l with
  | nil => simpa [insert1] using h
  | cons x l ih =>
    unfold insert1 at h
    split at h
    · rcases List.mem_cons.1 h with h | h
      · exact .inl h
      · exact .inr (List.mem_cons_of_mem _ h)
    · split at h
      · rcases List.mem_cons.1 h with h | h
        · exact .inl h
        · exact .inr h
      · rcases List.mem_cons.1 h with h | h
        · exact .inr (h ▸ List.mem_cons_self)
        · rcases ih h with h | h
          · exact .inl h
          · exact .inr (List.mem_cons_of_mem _ h)

variable [DecidableEq α]

/-- A write keeps the canonical form. -/
theorem canon_put {d : Nat → α} {l : List (Nat × α)} (k : Nat) (v : α) (h : canon d l = true) :
    canon d (put d l k v) = true := by
  simp only [canon, Bool.and_eq_true, List.all_eq_true, decide_eq_true_eq] at h ⊢
  unfold put
  split
  · exact ⟨rising_filter _ h.1, fun e he => h.2 e (List.mem_of_mem_filter he)⟩
  · rename_i hv
    refine ⟨rising_insert1 v h.1 (Nat.zero_le _), fun e he => ?_⟩
    rcases mem_insert1 he with he | he
    · subst he; exact hv
    · exact h.2 e he

theorem canon_filter {d : Nat → α} (p : Nat × α → Bool) {l : List (Nat × α)} (h : canon d l = true) :
    canon d (l.filter p) = true := by
  simp only [canon, Bool.and_eq_true, List.all_eq_true, decide_eq_true_eq] at h ⊢
  exact ⟨rising_filter p h.1, fun e he => h.2 e (List.mem_of_mem_filter he)⟩

theorem canon_nil (d : Nat → α) : canon d [] = true := rfl

theorem canon_foldl {β : Type} {d : Nat → α} (f : List (Nat × α) → β → List (Nat × α))
    (hf : ∀ l b, canon d l = true → canon d (f l b) = true) (bs : List β) {l : List (Nat × α)}
    (h : canon d l = true) : canon d (bs.foldl f l) = true := by
  induction bs generalizing l with
  | nil => exact h
  | cons b bs ih => exact ih (hf l b h)

theorem canon_foldr {β : Type} {d : Nat → α} (f : β → List (Nat × α) → List (Nat × α))
    (hf : ∀ l b, canon d l = true → canon d (f b l) = true) (bs : List β) {l : List (Nat × α)}
    (h : canon d l = true) : canon d (bs.foldr f l) = true := by
  induction bs with
  | nil => exact h
  | cons b bs ih => exact hf _ b ih

/-- Replacing a range keeps the canonical form. -/
theorem canon_replaceRange {d : Nat → α} {l : List (Nat × α)} (b n : Nat) (mid : List (Nat × α))
    (h : canon d l = true) : canon d (replaceRange d l b n mid) = true :=
  canon_foldr _ (fun _ e hl => canon_put e.1 e.2 hl) _ (canon_filter _ h)

theorem look_foldr_put (d : Nat → α) (l mid : List (Nat × α)) (j : Nat) :
    look d (mid.foldr (fun e l => put d l e.1 e.2) l) j = if mid.any (fun e => e.1 == j) then look d mid j else look d l j := by
  induction mid with
  | nil => simp
  | cons e mid ih =>
    obtain ⟨i, v⟩ := e
    rw [List.foldr_cons, look_put, ih]
    by_cases hj : j = i
    · subst hj; simp [look]
    · have h2 : ¬ i = j := fun h => hj h.symm
      have h3 : (i == j) = false := beq_eq_false_iff_ne.2 h2
      rw [if_neg hj]
      simp only [List.any_cons, h3, Bool.false_or, look, if_neg h2]

/-- What a replaced range reads: the new entries inside it, the old ones outside. -/
theorem look_replaceRange (d : Nat → α) (l : List (Nat × α)) (b n : Nat) (mid : List (Nat × α)) (j : Nat) :
    look d (replaceRange d l b n mid) j = if b ≤ j ∧ j < b + n then look d mid j else look d l j := by
  unfold replaceRange
  rw [look_foldr_put]
  have hf := look_filter_in d (fun i => decide (b ≤ i) && decide (i < b + n)) mid j
  have hl := look_filter_in d (fun i => !(decide (b ≤ i) && decide (i < b + n))) l j
  by_cases hj : b ≤ j ∧ j < b + n
  · rw [if_pos hj]
    simp only [hj.1, hj.2, decide_true, Bool.and_self, if_true, Bool.not_true, Bool.false_eq_true, if_false] at hf hl
    split
    · exact hf
    · rename_i ha
      rw [hl, ← hf, look_of_not_any _ _ _ (Bool.eq_false_iff.2 ha)]
  · have hb : (decide (b ≤ j) && decide (j < b + n)) = false := by
      simp only [Bool.and_eq_false_iff, decide_eq_false_iff_not]; omega
    rw [if_neg hj]
    simp only [hb, Bool.not_false, if_true] at hl
    rw [hl, if_neg]
    intro ha
    obtain ⟨e, he, hej⟩ := List.any_eq_true.1 ha
    have := (List.mem_filter.1 he).2
    rw [beq_iff_eq.1 hej] at this
    rw [hb] at this; exact Bool.noConfusion this

/-! ### The memories -/

theorem wf_nil : Memory.wf [] = true := rfl

theorem wf_put {m : List Host.Cell} (a : Nat) (b : Byte) (h : Memory.wf m = true) :
    Memory.wf (put (fun _ => (0 : Byte)) m a b) = true := canon_put a b h

theorem wf_writeLE {m : List Host.Cell} (a v n : Nat) (h : Memory.wf m = true) :
    Memory.wf (writeLE m a v n) = true := by
  induction n generalizing m a v with
  | zero => exact h
  | succ n ih => exact ih _ _ (wf_put _ _ h)

theorem wf_replaceRange {m : List Host.Cell} (b n : Nat) (mid : List Host.Cell) (h : Memory.wf m = true) :
    Memory.wf (replaceRange (fun _ => (0 : Byte)) m b n mid) = true := canon_replaceRange b n mid h

theorem wf_clearBytes {m : List Host.Cell} (b n : Nat) (h : Memory.wf m = true) :
    Memory.wf (clearBytes m b n) = true := canon_replaceRange b n [] h

/-- The bytes `writeLE` stores: byte `i` of the number at `a + i`, every other byte as before. -/
theorem look_writeLE (m : List Host.Cell) (a v n j : Nat) :
    look (fun _ => (0 : Byte)) (writeLE m a v n) j =
      if a ≤ j ∧ j < a + n then BitVec.ofNat 8 (v / 256 ^ (j - a)) else look (fun _ => (0 : Byte)) m j := by
  induction n generalizing m a v with
  | zero => simp [writeLE]
  | succ n ih =>
    rw [writeLE, ih, look_put]
    by_cases h : j = a
    · subst h; simp
    · by_cases h1 : a + 1 ≤ j ∧ j < a + 1 + n
      · have h2 : a ≤ j ∧ j < a + (n + 1) := by omega
        rw [if_pos h1, if_pos h2, Nat.div_div_eq_div_mul, ← Nat.pow_succ']
        congr 3; omega
      · have h2 : ¬ (a ≤ j ∧ j < a + (n + 1)) := by omega
        rw [if_neg h1, if_neg h2, if_neg h]

end Sys2Proof.Machine
end

