-- ==== Sys2Proof/Laws/State.lean ====
section
/-! SUPPORT. The laws of State: for each update of one piece of it, what every other piece reads afterwards, and what
the piece itself reads. Each is true by computation, so no later proof unfolds a record update. -/

set_option linter.unusedVariables false

namespace Sys2Proof.Machine.State


/-! ### setrf -/

@[simp] theorem setrf_readData (s : State) (f : Fld) (v : Nat) : (s.setrf f v).readData = s.readData := rfl
@[simp] theorem setrf_readBytes (s : State) (f : Fld) (v : Nat) : (s.setrf f v).readBytes = s.readBytes := rfl
@[simp] theorem setrf_count (s : State) (f : Fld) (v : Nat) : (s.setrf f v).count = s.count := rfl
@[simp] theorem setrf_engines (s : State) (f : Fld) (v : Nat) : (s.setrf f v).engines = s.engines := rfl
@[simp] theorem setrf_units (s : State) (f : Fld) (v : Nat) : (s.setrf f v).units = s.units := rfl
@[simp] theorem setrf_chains (s : State) (f : Fld) (v : Nat) : (s.setrf f v).chains = s.chains := rfl
@[simp] theorem setrf_lanes (s : State) (f : Fld) (v : Nat) : (s.setrf f v).lanes = s.lanes := rfl
@[simp] theorem setrf_ports (s : State) (f : Fld) (v : Nat) : (s.setrf f v).ports = s.ports := rfl
@[simp] theorem setrf_cad (s : State) (f : Fld) (v : Nat) : (s.setrf f v).cad = s.cad := rfl
@[simp] theorem setrf_tests (s : State) (f : Fld) (v : Nat) : (s.setrf f v).tests = s.tests := rfl
@[simp] theorem setrf_pos (s : State) (f : Fld) (v : Nat) : (s.setrf f v).pos = s.pos := rfl
@[simp] theorem setrf_strips (s : State) (f : Fld) (v : Nat) : (s.setrf f v).strips = s.strips := rfl
@[simp] theorem setrf_outbox (s : State) (f : Fld) (v : Nat) : (s.setrf f v).outbox = s.outbox := rfl
@[simp] theorem setrf_phase (s : State) (f : Fld) (v : Nat) : (s.setrf f v).phase = s.phase := rfl
@[simp] theorem setrf_seam (s : State) (f : Fld) (v : Nat) : (s.setrf f v).seam = s.seam := rfl
@[simp] theorem setrf_out (s : State) (f : Fld) (v : Nat) : (s.setrf f v).out = s.out := rfl
@[simp] theorem setrf_tc0 (s : State) (f : Fld) (v : Nat) : (s.setrf f v).tc0 = s.tc0 := rfl
@[simp] theorem setrf_dma (s : State) (f : Fld) (v : Nat) : (s.setrf f v).dma = s.dma := rfl
@[simp] theorem setrf_time (s : State) (f : Fld) (v : Nat) : (s.setrf f v).time = s.time := rfl
@[simp] theorem setrf_mgt (s : State) (f : Fld) (v : Nat) : (s.setrf f v).mgt = s.mgt := rfl
@[simp] theorem setrf_modes (s : State) (f : Fld) (v : Nat) : (s.setrf f v).modes = s.modes := rfl
@[simp] theorem setrf_hub (s : State) (f : Fld) (v : Nat) : (s.setrf f v).hub = s.hub := rfl
@[simp] theorem setrf_hubU (s : State) (f : Fld) (v : Nat) : (s.setrf f v).hubU = s.hubU := rfl
@[simp] theorem setrf_host (s : State) (f : Fld) (v : Nat) : (s.setrf f v).host = s.host := rfl
@[simp] theorem setrf_evq (s : State) (f : Fld) (v : Nat) : (s.setrf f v).evq = s.evq := rfl
@[simp] theorem setrf_evSeq (s : State) (f : Fld) (v : Nat) : (s.setrf f v).evSeq = s.evSeq := rfl
@[simp] theorem setrf_evLost (s : State) (f : Fld) (v : Nat) : (s.setrf f v).evLost = s.evLost := rfl
@[simp] theorem setrf_bbox (s : State) (f : Fld) (v : Nat) : (s.setrf f v).bbox = s.bbox := rfl
@[simp] theorem setrf_logq (s : State) (f : Fld) (v : Nat) : (s.setrf f v).logq = s.logq := rfl
@[simp] theorem setrf_logCoal (s : State) (f : Fld) (v : Nat) : (s.setrf f v).logCoal = s.logCoal := rfl
@[simp] theorem setrf_stamps (s : State) (f : Fld) (v : Nat) : (s.setrf f v).stamps = s.stamps := rfl
@[simp] theorem setrf_free (s : State) (f : Fld) (v : Nat) : (s.setrf f v).free = s.free := rfl
@[simp] theorem setrf_pending (s : State) (f : Fld) (v : Nat) : (s.setrf f v).pending = s.pending := rfl
@[simp] theorem setrf_get_eng (s : State) (f : Fld) (v : Nat) (k : Nat) : (s.setrf f v).eng k = s.eng k := rfl
@[simp] theorem setrf_get_wu (s : State) (f : Fld) (v : Nat) (k : Nat) : (s.setrf f v).wu k = s.wu k := rfl
@[simp] theorem setrf_get_chain (s : State) (f : Fld) (v : Nat) (k : Nat) : (s.setrf f v).chain k = s.chain k := rfl
@[simp] theorem setrf_get_lane (s : State) (f : Fld) (v : Nat) (k : Nat) : (s.setrf f v).lane k = s.lane k := rfl
@[simp] theorem setrf_get_port (s : State) (f : Fld) (v : Nat) (k : Nat) : (s.setrf f v).port k = s.port k := rfl
@[simp] theorem setrf_get_strip (s : State) (f : Fld) (v : Nat) (k : Nat) : (s.setrf f v).strip k = s.strip k := rfl
@[simp] theorem setrf_get_encCh (s : State) (f : Fld) (v : Nat) (k : Nat) : (s.setrf f v).encCh k = s.encCh k := rfl
@[simp] theorem setrf_get_genSt (s : State) (f : Fld) (v : Nat) (k : Nat) : (s.setrf f v).genSt k = s.genSt k := rfl
@[simp] theorem setrf_get_cmpU (s : State) (f : Fld) (v : Nat) (k : Nat) : (s.setrf f v).cmpU k = s.cmpU k := rfl
@[simp] theorem setrf_get_mkOut (s : State) (f : Fld) (v : Nat) (k : Nat) : (s.setrf f v).mkOut k = s.mkOut k := rfl
@[simp] theorem setrf_get_str (s : State) (f : Fld) (v : Nat) (k : Nat) : (s.setrf f v).str k = s.str k := rfl
@[simp] theorem setrf_get_sp (s : State) (f : Fld) (v : Nat) (k : Nat) : (s.setrf f v).sp k = s.sp k := rfl
@[simp] theorem setrf_get_ring (s : State) (f : Fld) (v : Nat) (k : Nat) : (s.setrf f v).ring k = s.ring k := rfl

/-! ### setEng -/

@[simp] theorem setEng_regs (s : State) (e : Nat) (x : Engine) : (s.setEng e x).regs = s.regs := rfl
@[simp] theorem setEng_readData (s : State) (e : Nat) (x : Engine) : (s.setEng e x).readData = s.readData := rfl
@[simp] theorem setEng_readBytes (s : State) (e : Nat) (x : Engine) : (s.setEng e x).readBytes = s.readBytes := rfl
@[simp] theorem setEng_count (s : State) (e : Nat) (x : Engine) : (s.setEng e x).count = s.count := rfl
@[simp] theorem setEng_units (s : State) (e : Nat) (x : Engine) : (s.setEng e x).units = s.units := rfl
@[simp] theorem setEng_chains (s : State) (e : Nat) (x : Engine) : (s.setEng e x).chains = s.chains := rfl
@[simp] theorem setEng_lanes (s : State) (e : Nat) (x : Engine) : (s.setEng e x).lanes = s.lanes := rfl
@[simp] theorem setEng_ports (s : State) (e : Nat) (x : Engine) : (s.setEng e x).ports = s.ports := rfl
@[simp] theorem setEng_cad (s : State) (e : Nat) (x : Engine) : (s.setEng e x).cad = s.cad := rfl
@[simp] theorem setEng_tests (s : State) (e : Nat) (x : Engine) : (s.setEng e x).tests = s.tests := rfl
@[simp] theorem setEng_pos (s : State) (e : Nat) (x : Engine) : (s.setEng e x).pos = s.pos := rfl
@[simp] theorem setEng_strips (s : State) (e : Nat) (x : Engine) : (s.setEng e x).strips = s.strips := rfl
@[simp] theorem setEng_outbox (s : State) (e : Nat) (x : Engine) : (s.setEng e x).outbox = s.outbox := rfl
@[simp] theorem setEng_phase (s : State) (e : Nat) (x : Engine) : (s.setEng e x).phase = s.phase := rfl
@[simp] theorem setEng_seam (s : State) (e : Nat) (x : Engine) : (s.setEng e x).seam = s.seam := rfl
@[simp] theorem setEng_out (s : State) (e : Nat) (x : Engine) : (s.setEng e x).out = s.out := rfl
@[simp] theorem setEng_tc0 (s : State) (e : Nat) (x : Engine) : (s.setEng e x).tc0 = s.tc0 := rfl
@[simp] theorem setEng_dma (s : State) (e : Nat) (x : Engine) : (s.setEng e x).dma = s.dma := rfl
@[simp] theorem setEng_time (s : State) (e : Nat) (x : Engine) : (s.setEng e x).time = s.time := rfl
@[simp] theorem setEng_mgt (s : State) (e : Nat) (x : Engine) : (s.setEng e x).mgt = s.mgt := rfl
@[simp] theorem setEng_modes (s : State) (e : Nat) (x : Engine) : (s.setEng e x).modes = s.modes := rfl
@[simp] theorem setEng_hub (s : State) (e : Nat) (x : Engine) : (s.setEng e x).hub = s.hub := rfl
@[simp] theorem setEng_hubU (s : State) (e : Nat) (x : Engine) : (s.setEng e x).hubU = s.hubU := rfl
@[simp] theorem setEng_host (s : State) (e : Nat) (x : Engine) : (s.setEng e x).host = s.host := rfl
@[simp] theorem setEng_evq (s : State) (e : Nat) (x : Engine) : (s.setEng e x).evq = s.evq := rfl
@[simp] theorem setEng_evSeq (s : State) (e : Nat) (x : Engine) : (s.setEng e x).evSeq = s.evSeq := rfl
@[simp] theorem setEng_evLost (s : State) (e : Nat) (x : Engine) : (s.setEng e x).evLost = s.evLost := rfl
@[simp] theorem setEng_bbox (s : State) (e : Nat) (x : Engine) : (s.setEng e x).bbox = s.bbox := rfl
@[simp] theorem setEng_logq (s : State) (e : Nat) (x : Engine) : (s.setEng e x).logq = s.logq := rfl
@[simp] theorem setEng_logCoal (s : State) (e : Nat) (x : Engine) : (s.setEng e x).logCoal = s.logCoal := rfl
@[simp] theorem setEng_stamps (s : State) (e : Nat) (x : Engine) : (s.setEng e x).stamps = s.stamps := rfl
@[simp] theorem setEng_free (s : State) (e : Nat) (x : Engine) : (s.setEng e x).free = s.free := rfl
@[simp] theorem setEng_pending (s : State) (e : Nat) (x : Engine) : (s.setEng e x).pending = s.pending := rfl
@[simp] theorem setEng_get_rf (s : State) (e : Nat) (x : Engine) (g : Fld) : (s.setEng e x).rf g = s.rf g := rfl
@[simp] theorem setEng_get_bit (s : State) (e : Nat) (x : Engine) (g : Fld) : (s.setEng e x).bit g = s.bit g := rfl
@[simp] theorem setEng_get_eng (s : State) (e : Nat) (x : Engine) (k : Nat) :
    (s.setEng e x).eng k = if k = e then x else s.eng k := look_put _ _ _ _ _
@[simp] theorem setEng_get_wu (s : State) (e : Nat) (x : Engine) (k : Nat) : (s.setEng e x).wu k = s.wu k := rfl
@[simp] theorem setEng_get_chain (s : State) (e : Nat) (x : Engine) (k : Nat) : (s.setEng e x).chain k = s.chain k := rfl
@[simp] theorem setEng_get_lane (s : State) (e : Nat) (x : Engine) (k : Nat) : (s.setEng e x).lane k = s.lane k := rfl
@[simp] theorem setEng_get_port (s : State) (e : Nat) (x : Engine) (k : Nat) : (s.setEng e x).port k = s.port k := rfl
@[simp] theorem setEng_get_strip (s : State) (e : Nat) (x : Engine) (k : Nat) : (s.setEng e x).strip k = s.strip k := rfl
@[simp] theorem setEng_get_encCh (s : State) (e : Nat) (x : Engine) (k : Nat) : (s.setEng e x).encCh k = s.encCh k := rfl
@[simp] theorem setEng_get_genSt (s : State) (e : Nat) (x : Engine) (k : Nat) : (s.setEng e x).genSt k = s.genSt k := rfl
@[simp] theorem setEng_get_cmpU (s : State) (e : Nat) (x : Engine) (k : Nat) : (s.setEng e x).cmpU k = s.cmpU k := rfl
@[simp] theorem setEng_get_mkOut (s : State) (e : Nat) (x : Engine) (k : Nat) : (s.setEng e x).mkOut k = s.mkOut k := rfl
@[simp] theorem setEng_get_str (s : State) (e : Nat) (x : Engine) (k : Nat) : (s.setEng e x).str k = s.str k := rfl
@[simp] theorem setEng_get_sp (s : State) (e : Nat) (x : Engine) (k : Nat) : (s.setEng e x).sp k = s.sp k := rfl
@[simp] theorem setEng_get_ring (s : State) (e : Nat) (x : Engine) (k : Nat) : (s.setEng e x).ring k = s.ring k := rfl

/-! ### setWu -/

@[simp] theorem setWu_regs (s : State) (u : Nat) (x : WorkUnit) : (s.setWu u x).regs = s.regs := rfl
@[simp] theorem setWu_readData (s : State) (u : Nat) (x : WorkUnit) : (s.setWu u x).readData = s.readData := rfl
@[simp] theorem setWu_readBytes (s : State) (u : Nat) (x : WorkUnit) : (s.setWu u x).readBytes = s.readBytes := rfl
@[simp] theorem setWu_count (s : State) (u : Nat) (x : WorkUnit) : (s.setWu u x).count = s.count := rfl
@[simp] theorem setWu_engines (s : State) (u : Nat) (x : WorkUnit) : (s.setWu u x).engines = s.engines := rfl
@[simp] theorem setWu_chains (s : State) (u : Nat) (x : WorkUnit) : (s.setWu u x).chains = s.chains := rfl
@[simp] theorem setWu_lanes (s : State) (u : Nat) (x : WorkUnit) : (s.setWu u x).lanes = s.lanes := rfl
@[simp] theorem setWu_ports (s : State) (u : Nat) (x : WorkUnit) : (s.setWu u x).ports = s.ports := rfl
@[simp] theorem setWu_cad (s : State) (u : Nat) (x : WorkUnit) : (s.setWu u x).cad = s.cad := rfl
@[simp] theorem setWu_tests (s : State) (u : Nat) (x : WorkUnit) : (s.setWu u x).tests = s.tests := rfl
@[simp] theorem setWu_pos (s : State) (u : Nat) (x : WorkUnit) : (s.setWu u x).pos = s.pos := rfl
@[simp] theorem setWu_strips (s : State) (u : Nat) (x : WorkUnit) : (s.setWu u x).strips = s.strips := rfl
@[simp] theorem setWu_outbox (s : State) (u : Nat) (x : WorkUnit) : (s.setWu u x).outbox = s.outbox := rfl
@[simp] theorem setWu_phase (s : State) (u : Nat) (x : WorkUnit) : (s.setWu u x).phase = s.phase := rfl
@[simp] theorem setWu_seam (s : State) (u : Nat) (x : WorkUnit) : (s.setWu u x).seam = s.seam := rfl
@[simp] theorem setWu_out (s : State) (u : Nat) (x : WorkUnit) : (s.setWu u x).out = s.out := rfl
@[simp] theorem setWu_tc0 (s : State) (u : Nat) (x : WorkUnit) : (s.setWu u x).tc0 = s.tc0 := rfl
@[simp] theorem setWu_dma (s : State) (u : Nat) (x : WorkUnit) : (s.setWu u x).dma = s.dma := rfl
@[simp] theorem setWu_time (s : State) (u : Nat) (x : WorkUnit) : (s.setWu u x).time = s.time := rfl
@[simp] theorem setWu_mgt (s : State) (u : Nat) (x : WorkUnit) : (s.setWu u x).mgt = s.mgt := rfl
@[simp] theorem setWu_modes (s : State) (u : Nat) (x : WorkUnit) : (s.setWu u x).modes = s.modes := rfl
@[simp] theorem setWu_hub (s : State) (u : Nat) (x : WorkUnit) : (s.setWu u x).hub = s.hub := rfl
@[simp] theorem setWu_hubU (s : State) (u : Nat) (x : WorkUnit) : (s.setWu u x).hubU = s.hubU := rfl
@[simp] theorem setWu_host (s : State) (u : Nat) (x : WorkUnit) : (s.setWu u x).host = s.host := rfl
@[simp] theorem setWu_evq (s : State) (u : Nat) (x : WorkUnit) : (s.setWu u x).evq = s.evq := rfl
@[simp] theorem setWu_evSeq (s : State) (u : Nat) (x : WorkUnit) : (s.setWu u x).evSeq = s.evSeq := rfl
@[simp] theorem setWu_evLost (s : State) (u : Nat) (x : WorkUnit) : (s.setWu u x).evLost = s.evLost := rfl
@[simp] theorem setWu_bbox (s : State) (u : Nat) (x : WorkUnit) : (s.setWu u x).bbox = s.bbox := rfl
@[simp] theorem setWu_logq (s : State) (u : Nat) (x : WorkUnit) : (s.setWu u x).logq = s.logq := rfl
@[simp] theorem setWu_logCoal (s : State) (u : Nat) (x : WorkUnit) : (s.setWu u x).logCoal = s.logCoal := rfl
@[simp] theorem setWu_stamps (s : State) (u : Nat) (x : WorkUnit) : (s.setWu u x).stamps = s.stamps := rfl
@[simp] theorem setWu_free (s : State) (u : Nat) (x : WorkUnit) : (s.setWu u x).free = s.free := rfl
@[simp] theorem setWu_pending (s : State) (u : Nat) (x : WorkUnit) : (s.setWu u x).pending = s.pending := rfl
@[simp] theorem setWu_get_rf (s : State) (u : Nat) (x : WorkUnit) (g : Fld) : (s.setWu u x).rf g = s.rf g := rfl
@[simp] theorem setWu_get_bit (s : State) (u : Nat) (x : WorkUnit) (g : Fld) : (s.setWu u x).bit g = s.bit g := rfl
@[simp] theorem setWu_get_eng (s : State) (u : Nat) (x : WorkUnit) (k : Nat) : (s.setWu u x).eng k = s.eng k := rfl
@[simp] theorem setWu_get_wu (s : State) (u : Nat) (x : WorkUnit) (k : Nat) :
    (s.setWu u x).wu k = if k = u then x else s.wu k := look_put _ _ _ _ _
@[simp] theorem setWu_get_chain (s : State) (u : Nat) (x : WorkUnit) (k : Nat) : (s.setWu u x).chain k = s.chain k := rfl
@[simp] theorem setWu_get_lane (s : State) (u : Nat) (x : WorkUnit) (k : Nat) : (s.setWu u x).lane k = s.lane k := rfl
@[simp] theorem setWu_get_port (s : State) (u : Nat) (x : WorkUnit) (k : Nat) : (s.setWu u x).port k = s.port k := rfl
@[simp] theorem setWu_get_strip (s : State) (u : Nat) (x : WorkUnit) (k : Nat) : (s.setWu u x).strip k = s.strip k := rfl
@[simp] theorem setWu_get_encCh (s : State) (u : Nat) (x : WorkUnit) (k : Nat) : (s.setWu u x).encCh k = s.encCh k := rfl
@[simp] theorem setWu_get_genSt (s : State) (u : Nat) (x : WorkUnit) (k : Nat) : (s.setWu u x).genSt k = s.genSt k := rfl
@[simp] theorem setWu_get_cmpU (s : State) (u : Nat) (x : WorkUnit) (k : Nat) : (s.setWu u x).cmpU k = s.cmpU k := rfl
@[simp] theorem setWu_get_mkOut (s : State) (u : Nat) (x : WorkUnit) (k : Nat) : (s.setWu u x).mkOut k = s.mkOut k := rfl
@[simp] theorem setWu_get_str (s : State) (u : Nat) (x : WorkUnit) (k : Nat) : (s.setWu u x).str k = s.str k := rfl
@[simp] theorem setWu_get_sp (s : State) (u : Nat) (x : WorkUnit) (k : Nat) : (s.setWu u x).sp k = s.sp k := rfl
@[simp] theorem setWu_get_ring (s : State) (u : Nat) (x : WorkUnit) (k : Nat) : (s.setWu u x).ring k = s.ring k := rfl

/-! ### setChain -/

@[simp] theorem setChain_regs (s : State) (c : Nat) (x : Chain) : (s.setChain c x).regs = s.regs := rfl
@[simp] theorem setChain_readData (s : State) (c : Nat) (x : Chain) : (s.setChain c x).readData = s.readData := rfl
@[simp] theorem setChain_readBytes (s : State) (c : Nat) (x : Chain) : (s.setChain c x).readBytes = s.readBytes := rfl
@[simp] theorem setChain_count (s : State) (c : Nat) (x : Chain) : (s.setChain c x).count = s.count := rfl
@[simp] theorem setChain_engines (s : State) (c : Nat) (x : Chain) : (s.setChain c x).engines = s.engines := rfl
@[simp] theorem setChain_units (s : State) (c : Nat) (x : Chain) : (s.setChain c x).units = s.units := rfl
@[simp] theorem setChain_lanes (s : State) (c : Nat) (x : Chain) : (s.setChain c x).lanes = s.lanes := rfl
@[simp] theorem setChain_ports (s : State) (c : Nat) (x : Chain) : (s.setChain c x).ports = s.ports := rfl
@[simp] theorem setChain_cad (s : State) (c : Nat) (x : Chain) : (s.setChain c x).cad = s.cad := rfl
@[simp] theorem setChain_tests (s : State) (c : Nat) (x : Chain) : (s.setChain c x).tests = s.tests := rfl
@[simp] theorem setChain_pos (s : State) (c : Nat) (x : Chain) : (s.setChain c x).pos = s.pos := rfl
@[simp] theorem setChain_strips (s : State) (c : Nat) (x : Chain) : (s.setChain c x).strips = s.strips := rfl
@[simp] theorem setChain_outbox (s : State) (c : Nat) (x : Chain) : (s.setChain c x).outbox = s.outbox := rfl
@[simp] theorem setChain_phase (s : State) (c : Nat) (x : Chain) : (s.setChain c x).phase = s.phase := rfl
@[simp] theorem setChain_seam (s : State) (c : Nat) (x : Chain) : (s.setChain c x).seam = s.seam := rfl
@[simp] theorem setChain_out (s : State) (c : Nat) (x : Chain) : (s.setChain c x).out = s.out := rfl
@[simp] theorem setChain_tc0 (s : State) (c : Nat) (x : Chain) : (s.setChain c x).tc0 = s.tc0 := rfl
@[simp] theorem setChain_dma (s : State) (c : Nat) (x : Chain) : (s.setChain c x).dma = s.dma := rfl
@[simp] theorem setChain_time (s : State) (c : Nat) (x : Chain) : (s.setChain c x).time = s.time := rfl
@[simp] theorem setChain_mgt (s : State) (c : Nat) (x : Chain) : (s.setChain c x).mgt = s.mgt := rfl
@[simp] theorem setChain_modes (s : State) (c : Nat) (x : Chain) : (s.setChain c x).modes = s.modes := rfl
@[simp] theorem setChain_hub (s : State) (c : Nat) (x : Chain) : (s.setChain c x).hub = s.hub := rfl
@[simp] theorem setChain_hubU (s : State) (c : Nat) (x : Chain) : (s.setChain c x).hubU = s.hubU := rfl
@[simp] theorem setChain_host (s : State) (c : Nat) (x : Chain) : (s.setChain c x).host = s.host := rfl
@[simp] theorem setChain_evq (s : State) (c : Nat) (x : Chain) : (s.setChain c x).evq = s.evq := rfl
@[simp] theorem setChain_evSeq (s : State) (c : Nat) (x : Chain) : (s.setChain c x).evSeq = s.evSeq := rfl
@[simp] theorem setChain_evLost (s : State) (c : Nat) (x : Chain) : (s.setChain c x).evLost = s.evLost := rfl
@[simp] theorem setChain_bbox (s : State) (c : Nat) (x : Chain) : (s.setChain c x).bbox = s.bbox := rfl
@[simp] theorem setChain_logq (s : State) (c : Nat) (x : Chain) : (s.setChain c x).logq = s.logq := rfl
@[simp] theorem setChain_logCoal (s : State) (c : Nat) (x : Chain) : (s.setChain c x).logCoal = s.logCoal := rfl
@[simp] theorem setChain_stamps (s : State) (c : Nat) (x : Chain) : (s.setChain c x).stamps = s.stamps := rfl
@[simp] theorem setChain_free (s : State) (c : Nat) (x : Chain) : (s.setChain c x).free = s.free := rfl
@[simp] theorem setChain_pending (s : State) (c : Nat) (x : Chain) : (s.setChain c x).pending = s.pending := rfl
@[simp] theorem setChain_get_rf (s : State) (c : Nat) (x : Chain) (g : Fld) : (s.setChain c x).rf g = s.rf g := rfl
@[simp] theorem setChain_get_bit (s : State) (c : Nat) (x : Chain) (g : Fld) : (s.setChain c x).bit g = s.bit g := rfl
@[simp] theorem setChain_get_eng (s : State) (c : Nat) (x : Chain) (k : Nat) : (s.setChain c x).eng k = s.eng k := rfl
@[simp] theorem setChain_get_wu (s : State) (c : Nat) (x : Chain) (k : Nat) : (s.setChain c x).wu k = s.wu k := rfl
@[simp] theorem setChain_get_chain (s : State) (c : Nat) (x : Chain) (k : Nat) :
    (s.setChain c x).chain k = if k = c then x else s.chain k := look_put _ _ _ _ _
@[simp] theorem setChain_get_lane (s : State) (c : Nat) (x : Chain) (k : Nat) : (s.setChain c x).lane k = s.lane k := rfl
@[simp] theorem setChain_get_port (s : State) (c : Nat) (x : Chain) (k : Nat) : (s.setChain c x).port k = s.port k := rfl
@[simp] theorem setChain_get_strip (s : State) (c : Nat) (x : Chain) (k : Nat) : (s.setChain c x).strip k = s.strip k := rfl
@[simp] theorem setChain_get_encCh (s : State) (c : Nat) (x : Chain) (k : Nat) : (s.setChain c x).encCh k = s.encCh k := rfl
@[simp] theorem setChain_get_genSt (s : State) (c : Nat) (x : Chain) (k : Nat) : (s.setChain c x).genSt k = s.genSt k := rfl
@[simp] theorem setChain_get_cmpU (s : State) (c : Nat) (x : Chain) (k : Nat) : (s.setChain c x).cmpU k = s.cmpU k := rfl
@[simp] theorem setChain_get_mkOut (s : State) (c : Nat) (x : Chain) (k : Nat) : (s.setChain c x).mkOut k = s.mkOut k := rfl
@[simp] theorem setChain_get_str (s : State) (c : Nat) (x : Chain) (k : Nat) : (s.setChain c x).str k = s.str k := rfl
@[simp] theorem setChain_get_sp (s : State) (c : Nat) (x : Chain) (k : Nat) : (s.setChain c x).sp k = s.sp k := rfl
@[simp] theorem setChain_get_ring (s : State) (c : Nat) (x : Chain) (k : Nat) : (s.setChain c x).ring k = s.ring k := rfl

/-! ### advanceTo -/

@[simp] theorem advanceTo_regs (s : State) (c : Nat) : (s.advanceTo c).regs = s.regs := rfl
@[simp] theorem advanceTo_readData (s : State) (c : Nat) : (s.advanceTo c).readData = s.readData := rfl
@[simp] theorem advanceTo_readBytes (s : State) (c : Nat) : (s.advanceTo c).readBytes = s.readBytes := rfl
@[simp] theorem advanceTo_engines (s : State) (c : Nat) : (s.advanceTo c).engines = s.engines := rfl
@[simp] theorem advanceTo_units (s : State) (c : Nat) : (s.advanceTo c).units = s.units := rfl
@[simp] theorem advanceTo_chains (s : State) (c : Nat) : (s.advanceTo c).chains = s.chains := rfl
@[simp] theorem advanceTo_lanes (s : State) (c : Nat) : (s.advanceTo c).lanes = s.lanes := rfl
@[simp] theorem advanceTo_ports (s : State) (c : Nat) : (s.advanceTo c).ports = s.ports := rfl
@[simp] theorem advanceTo_cad (s : State) (c : Nat) : (s.advanceTo c).cad = s.cad := rfl
@[simp] theorem advanceTo_tests (s : State) (c : Nat) : (s.advanceTo c).tests = s.tests := rfl
@[simp] theorem advanceTo_pos (s : State) (c : Nat) : (s.advanceTo c).pos = s.pos := rfl
@[simp] theorem advanceTo_strips (s : State) (c : Nat) : (s.advanceTo c).strips = s.strips := rfl
@[simp] theorem advanceTo_outbox (s : State) (c : Nat) : (s.advanceTo c).outbox = s.outbox := rfl
@[simp] theorem advanceTo_phase (s : State) (c : Nat) : (s.advanceTo c).phase = s.phase := rfl
@[simp] theorem advanceTo_seam (s : State) (c : Nat) : (s.advanceTo c).seam = s.seam := rfl
@[simp] theorem advanceTo_out (s : State) (c : Nat) : (s.advanceTo c).out = s.out := rfl
@[simp] theorem advanceTo_tc0 (s : State) (c : Nat) : (s.advanceTo c).tc0 = s.tc0 := rfl
@[simp] theorem advanceTo_dma (s : State) (c : Nat) : (s.advanceTo c).dma = s.dma := rfl
@[simp] theorem advanceTo_time (s : State) (c : Nat) : (s.advanceTo c).time = s.time := rfl
@[simp] theorem advanceTo_mgt (s : State) (c : Nat) : (s.advanceTo c).mgt = s.mgt := rfl
@[simp] theorem advanceTo_modes (s : State) (c : Nat) : (s.advanceTo c).modes = s.modes := rfl
@[simp] theorem advanceTo_hub (s : State) (c : Nat) : (s.advanceTo c).hub = s.hub := rfl
@[simp] theorem advanceTo_hubU (s : State) (c : Nat) : (s.advanceTo c).hubU = s.hubU := rfl
@[simp] theorem advanceTo_host (s : State) (c : Nat) : (s.advanceTo c).host = s.host := rfl
@[simp] theorem advanceTo_evq (s : State) (c : Nat) : (s.advanceTo c).evq = s.evq := rfl
@[simp] theorem advanceTo_evSeq (s : State) (c : Nat) : (s.advanceTo c).evSeq = s.evSeq := rfl
@[simp] theorem advanceTo_evLost (s : State) (c : Nat) : (s.advanceTo c).evLost = s.evLost := rfl
@[simp] theorem advanceTo_bbox (s : State) (c : Nat) : (s.advanceTo c).bbox = s.bbox := rfl
@[simp] theorem advanceTo_logq (s : State) (c : Nat) : (s.advanceTo c).logq = s.logq := rfl
@[simp] theorem advanceTo_logCoal (s : State) (c : Nat) : (s.advanceTo c).logCoal = s.logCoal := rfl
@[simp] theorem advanceTo_stamps (s : State) (c : Nat) : (s.advanceTo c).stamps = s.stamps := rfl
@[simp] theorem advanceTo_free (s : State) (c : Nat) : (s.advanceTo c).free = s.free := rfl
@[simp] theorem advanceTo_pending (s : State) (c : Nat) : (s.advanceTo c).pending = s.pending := rfl
@[simp] theorem advanceTo_get_rf (s : State) (c : Nat) (g : Fld) : (s.advanceTo c).rf g = s.rf g := rfl
@[simp] theorem advanceTo_get_bit (s : State) (c : Nat) (g : Fld) : (s.advanceTo c).bit g = s.bit g := rfl
@[simp] theorem advanceTo_get_eng (s : State) (c : Nat) (k : Nat) : (s.advanceTo c).eng k = s.eng k := rfl
@[simp] theorem advanceTo_get_wu (s : State) (c : Nat) (k : Nat) : (s.advanceTo c).wu k = s.wu k := rfl
@[simp] theorem advanceTo_get_chain (s : State) (c : Nat) (k : Nat) : (s.advanceTo c).chain k = s.chain k := rfl
@[simp] theorem advanceTo_get_lane (s : State) (c : Nat) (k : Nat) : (s.advanceTo c).lane k = s.lane k := rfl
@[simp] theorem advanceTo_get_port (s : State) (c : Nat) (k : Nat) : (s.advanceTo c).port k = s.port k := rfl
@[simp] theorem advanceTo_get_strip (s : State) (c : Nat) (k : Nat) : (s.advanceTo c).strip k = s.strip k := rfl
@[simp] theorem advanceTo_get_encCh (s : State) (c : Nat) (k : Nat) : (s.advanceTo c).encCh k = s.encCh k := rfl
@[simp] theorem advanceTo_get_genSt (s : State) (c : Nat) (k : Nat) : (s.advanceTo c).genSt k = s.genSt k := rfl
@[simp] theorem advanceTo_get_cmpU (s : State) (c : Nat) (k : Nat) : (s.advanceTo c).cmpU k = s.cmpU k := rfl
@[simp] theorem advanceTo_get_mkOut (s : State) (c : Nat) (k : Nat) : (s.advanceTo c).mkOut k = s.mkOut k := rfl
@[simp] theorem advanceTo_get_str (s : State) (c : Nat) (k : Nat) : (s.advanceTo c).str k = s.str k := rfl
@[simp] theorem advanceTo_get_sp (s : State) (c : Nat) (k : Nat) : (s.advanceTo c).sp k = s.sp k := rfl
@[simp] theorem advanceTo_get_ring (s : State) (c : Nat) (k : Nat) : (s.advanceTo c).ring k = s.ring k := rfl

/-! ### stamp -/

@[simp] theorem stamp_regs (s : State) (k : Nat) : (s.stamp k).regs = s.regs := rfl
@[simp] theorem stamp_readData (s : State) (k : Nat) : (s.stamp k).readData = s.readData := rfl
@[simp] theorem stamp_readBytes (s : State) (k : Nat) : (s.stamp k).readBytes = s.readBytes := rfl
@[simp] theorem stamp_count (s : State) (k : Nat) : (s.stamp k).count = s.count := rfl
@[simp] theorem stamp_engines (s : State) (k : Nat) : (s.stamp k).engines = s.engines := rfl
@[simp] theorem stamp_units (s : State) (k : Nat) : (s.stamp k).units = s.units := rfl
@[simp] theorem stamp_chains (s : State) (k : Nat) : (s.stamp k).chains = s.chains := rfl
@[simp] theorem stamp_lanes (s : State) (k : Nat) : (s.stamp k).lanes = s.lanes := rfl
@[simp] theorem stamp_ports (s : State) (k : Nat) : (s.stamp k).ports = s.ports := rfl
@[simp] theorem stamp_cad (s : State) (k : Nat) : (s.stamp k).cad = s.cad := rfl
@[simp] theorem stamp_tests (s : State) (k : Nat) : (s.stamp k).tests = s.tests := rfl
@[simp] theorem stamp_pos (s : State) (k : Nat) : (s.stamp k).pos = s.pos := rfl
@[simp] theorem stamp_strips (s : State) (k : Nat) : (s.stamp k).strips = s.strips := rfl
@[simp] theorem stamp_outbox (s : State) (k : Nat) : (s.stamp k).outbox = s.outbox := rfl
@[simp] theorem stamp_phase (s : State) (k : Nat) : (s.stamp k).phase = s.phase := rfl
@[simp] theorem stamp_seam (s : State) (k : Nat) : (s.stamp k).seam = s.seam := rfl
@[simp] theorem stamp_out (s : State) (k : Nat) : (s.stamp k).out = s.out := rfl
@[simp] theorem stamp_tc0 (s : State) (k : Nat) : (s.stamp k).tc0 = s.tc0 := rfl
@[simp] theorem stamp_dma (s : State) (k : Nat) : (s.stamp k).dma = s.dma := rfl
@[simp] theorem stamp_time (s : State) (k : Nat) : (s.stamp k).time = s.time := rfl
@[simp] theorem stamp_mgt (s : State) (k : Nat) : (s.stamp k).mgt = s.mgt := rfl
@[simp] theorem stamp_modes (s : State) (k : Nat) : (s.stamp k).modes = s.modes := rfl
@[simp] theorem stamp_hub (s : State) (k : Nat) : (s.stamp k).hub = s.hub := rfl
@[simp] theorem stamp_hubU (s : State) (k : Nat) : (s.stamp k).hubU = s.hubU := rfl
@[simp] theorem stamp_host (s : State) (k : Nat) : (s.stamp k).host = s.host := rfl
@[simp] theorem stamp_evq (s : State) (k : Nat) : (s.stamp k).evq = s.evq := rfl
@[simp] theorem stamp_evSeq (s : State) (k : Nat) : (s.stamp k).evSeq = s.evSeq := rfl
@[simp] theorem stamp_evLost (s : State) (k : Nat) : (s.stamp k).evLost = s.evLost := rfl
@[simp] theorem stamp_bbox (s : State) (k : Nat) : (s.stamp k).bbox = s.bbox := rfl
@[simp] theorem stamp_logq (s : State) (k : Nat) : (s.stamp k).logq = s.logq := rfl
@[simp] theorem stamp_logCoal (s : State) (k : Nat) : (s.stamp k).logCoal = s.logCoal := rfl
@[simp] theorem stamp_free (s : State) (k : Nat) : (s.stamp k).free = s.free := rfl
@[simp] theorem stamp_pending (s : State) (k : Nat) : (s.stamp k).pending = s.pending := rfl
@[simp] theorem stamp_get_rf (s : State) (k : Nat) (g : Fld) : (s.stamp k).rf g = s.rf g := rfl
@[simp] theorem stamp_get_bit (s : State) (k : Nat) (g : Fld) : (s.stamp k).bit g = s.bit g := rfl
@[simp] theorem stamp_get_eng (s : State) (k : Nat) (k : Nat) : (s.stamp k).eng k = s.eng k := rfl
@[simp] theorem stamp_get_wu (s : State) (k : Nat) (k : Nat) : (s.stamp k).wu k = s.wu k := rfl
@[simp] theorem stamp_get_chain (s : State) (k : Nat) (k : Nat) : (s.stamp k).chain k = s.chain k := rfl
@[simp] theorem stamp_get_lane (s : State) (k : Nat) (k : Nat) : (s.stamp k).lane k = s.lane k := rfl
@[simp] theorem stamp_get_port (s : State) (k : Nat) (k : Nat) : (s.stamp k).port k = s.port k := rfl
@[simp] theorem stamp_get_strip (s : State) (k : Nat) (k : Nat) : (s.stamp k).strip k = s.strip k := rfl
@[simp] theorem stamp_get_encCh (s : State) (k : Nat) (k : Nat) : (s.stamp k).encCh k = s.encCh k := rfl
@[simp] theorem stamp_get_genSt (s : State) (k : Nat) (k : Nat) : (s.stamp k).genSt k = s.genSt k := rfl
@[simp] theorem stamp_get_cmpU (s : State) (k : Nat) (k : Nat) : (s.stamp k).cmpU k = s.cmpU k := rfl
@[simp] theorem stamp_get_mkOut (s : State) (k : Nat) (k : Nat) : (s.stamp k).mkOut k = s.mkOut k := rfl
@[simp] theorem stamp_get_str (s : State) (k : Nat) (k : Nat) : (s.stamp k).str k = s.str k := rfl
@[simp] theorem stamp_get_sp (s : State) (k : Nat) (k : Nat) : (s.stamp k).sp k = s.sp k := rfl
@[simp] theorem stamp_get_ring (s : State) (k : Nat) (k : Nat) : (s.stamp k).ring k = s.ring k := rfl

/-! ### setLane -/

@[simp] theorem setLane_regs (s : State) (l : Nat) (x : LaneSt) : (s.setLane l x).regs = s.regs := rfl
@[simp] theorem setLane_readData (s : State) (l : Nat) (x : LaneSt) : (s.setLane l x).readData = s.readData := rfl
@[simp] theorem setLane_readBytes (s : State) (l : Nat) (x : LaneSt) : (s.setLane l x).readBytes = s.readBytes := rfl
@[simp] theorem setLane_count (s : State) (l : Nat) (x : LaneSt) : (s.setLane l x).count = s.count := rfl
@[simp] theorem setLane_engines (s : State) (l : Nat) (x : LaneSt) : (s.setLane l x).engines = s.engines := rfl
@[simp] theorem setLane_units (s : State) (l : Nat) (x : LaneSt) : (s.setLane l x).units = s.units := rfl
@[simp] theorem setLane_chains (s : State) (l : Nat) (x : LaneSt) : (s.setLane l x).chains = s.chains := rfl
@[simp] theorem setLane_ports (s : State) (l : Nat) (x : LaneSt) : (s.setLane l x).ports = s.ports := rfl
@[simp] theorem setLane_cad (s : State) (l : Nat) (x : LaneSt) : (s.setLane l x).cad = s.cad := rfl
@[simp] theorem setLane_tests (s : State) (l : Nat) (x : LaneSt) : (s.setLane l x).tests = s.tests := rfl
@[simp] theorem setLane_pos (s : State) (l : Nat) (x : LaneSt) : (s.setLane l x).pos = s.pos := rfl
@[simp] theorem setLane_strips (s : State) (l : Nat) (x : LaneSt) : (s.setLane l x).strips = s.strips := rfl
@[simp] theorem setLane_outbox (s : State) (l : Nat) (x : LaneSt) : (s.setLane l x).outbox = s.outbox := rfl
@[simp] theorem setLane_phase (s : State) (l : Nat) (x : LaneSt) : (s.setLane l x).phase = s.phase := rfl
@[simp] theorem setLane_seam (s : State) (l : Nat) (x : LaneSt) : (s.setLane l x).seam = s.seam := rfl
@[simp] theorem setLane_out (s : State) (l : Nat) (x : LaneSt) : (s.setLane l x).out = s.out := rfl
@[simp] theorem setLane_tc0 (s : State) (l : Nat) (x : LaneSt) : (s.setLane l x).tc0 = s.tc0 := rfl
@[simp] theorem setLane_dma (s : State) (l : Nat) (x : LaneSt) : (s.setLane l x).dma = s.dma := rfl
@[simp] theorem setLane_time (s : State) (l : Nat) (x : LaneSt) : (s.setLane l x).time = s.time := rfl
@[simp] theorem setLane_mgt (s : State) (l : Nat) (x : LaneSt) : (s.setLane l x).mgt = s.mgt := rfl
@[simp] theorem setLane_modes (s : State) (l : Nat) (x : LaneSt) : (s.setLane l x).modes = s.modes := rfl
@[simp] theorem setLane_hub (s : State) (l : Nat) (x : LaneSt) : (s.setLane l x).hub = s.hub := rfl
@[simp] theorem setLane_hubU (s : State) (l : Nat) (x : LaneSt) : (s.setLane l x).hubU = s.hubU := rfl
@[simp] theorem setLane_host (s : State) (l : Nat) (x : LaneSt) : (s.setLane l x).host = s.host := rfl
@[simp] theorem setLane_evq (s : State) (l : Nat) (x : LaneSt) : (s.setLane l x).evq = s.evq := rfl
@[simp] theorem setLane_evSeq (s : State) (l : Nat) (x : LaneSt) : (s.setLane l x).evSeq = s.evSeq := rfl
@[simp] theorem setLane_evLost (s : State) (l : Nat) (x : LaneSt) : (s.setLane l x).evLost = s.evLost := rfl
@[simp] theorem setLane_bbox (s : State) (l : Nat) (x : LaneSt) : (s.setLane l x).bbox = s.bbox := rfl
@[simp] theorem setLane_logq (s : State) (l : Nat) (x : LaneSt) : (s.setLane l x).logq = s.logq := rfl
@[simp] theorem setLane_logCoal (s : State) (l : Nat) (x : LaneSt) : (s.setLane l x).logCoal = s.logCoal := rfl
@[simp] theorem setLane_stamps (s : State) (l : Nat) (x : LaneSt) : (s.setLane l x).stamps = s.stamps := rfl
@[simp] theorem setLane_free (s : State) (l : Nat) (x : LaneSt) : (s.setLane l x).free = s.free := rfl
@[simp] theorem setLane_pending (s : State) (l : Nat) (x : LaneSt) : (s.setLane l x).pending = s.pending := rfl
@[simp] theorem setLane_get_rf (s : State) (l : Nat) (x : LaneSt) (g : Fld) : (s.setLane l x).rf g = s.rf g := rfl
@[simp] theorem setLane_get_bit (s : State) (l : Nat) (x : LaneSt) (g : Fld) : (s.setLane l x).bit g = s.bit g := rfl
@[simp] theorem setLane_get_eng (s : State) (l : Nat) (x : LaneSt) (k : Nat) : (s.setLane l x).eng k = s.eng k := rfl
@[simp] theorem setLane_get_wu (s : State) (l : Nat) (x : LaneSt) (k : Nat) : (s.setLane l x).wu k = s.wu k := rfl
@[simp] theorem setLane_get_chain (s : State) (l : Nat) (x : LaneSt) (k : Nat) : (s.setLane l x).chain k = s.chain k := rfl
@[simp] theorem setLane_get_lane (s : State) (l : Nat) (x : LaneSt) (k : Nat) :
    (s.setLane l x).lane k = if k = l then x else s.lane k := look_put _ _ _ _ _
@[simp] theorem setLane_get_port (s : State) (l : Nat) (x : LaneSt) (k : Nat) : (s.setLane l x).port k = s.port k := rfl
@[simp] theorem setLane_get_strip (s : State) (l : Nat) (x : LaneSt) (k : Nat) : (s.setLane l x).strip k = s.strip k := rfl
@[simp] theorem setLane_get_encCh (s : State) (l : Nat) (x : LaneSt) (k : Nat) : (s.setLane l x).encCh k = s.encCh k := rfl
@[simp] theorem setLane_get_genSt (s : State) (l : Nat) (x : LaneSt) (k : Nat) : (s.setLane l x).genSt k = s.genSt k := rfl
@[simp] theorem setLane_get_cmpU (s : State) (l : Nat) (x : LaneSt) (k : Nat) : (s.setLane l x).cmpU k = s.cmpU k := rfl
@[simp] theorem setLane_get_mkOut (s : State) (l : Nat) (x : LaneSt) (k : Nat) : (s.setLane l x).mkOut k = s.mkOut k := rfl
@[simp] theorem setLane_get_str (s : State) (l : Nat) (x : LaneSt) (k : Nat) : (s.setLane l x).str k = s.str k := rfl
@[simp] theorem setLane_get_sp (s : State) (l : Nat) (x : LaneSt) (k : Nat) : (s.setLane l x).sp k = s.sp k := rfl
@[simp] theorem setLane_get_ring (s : State) (l : Nat) (x : LaneSt) (k : Nat) : (s.setLane l x).ring k = s.ring k := rfl

/-! ### setPort -/

@[simp] theorem setPort_regs (s : State) (p : Nat) (x : PortUnit) : (s.setPort p x).regs = s.regs := rfl
@[simp] theorem setPort_readData (s : State) (p : Nat) (x : PortUnit) : (s.setPort p x).readData = s.readData := rfl
@[simp] theorem setPort_readBytes (s : State) (p : Nat) (x : PortUnit) : (s.setPort p x).readBytes = s.readBytes := rfl
@[simp] theorem setPort_count (s : State) (p : Nat) (x : PortUnit) : (s.setPort p x).count = s.count := rfl
@[simp] theorem setPort_engines (s : State) (p : Nat) (x : PortUnit) : (s.setPort p x).engines = s.engines := rfl
@[simp] theorem setPort_units (s : State) (p : Nat) (x : PortUnit) : (s.setPort p x).units = s.units := rfl
@[simp] theorem setPort_chains (s : State) (p : Nat) (x : PortUnit) : (s.setPort p x).chains = s.chains := rfl
@[simp] theorem setPort_lanes (s : State) (p : Nat) (x : PortUnit) : (s.setPort p x).lanes = s.lanes := rfl
@[simp] theorem setPort_cad (s : State) (p : Nat) (x : PortUnit) : (s.setPort p x).cad = s.cad := rfl
@[simp] theorem setPort_tests (s : State) (p : Nat) (x : PortUnit) : (s.setPort p x).tests = s.tests := rfl
@[simp] theorem setPort_pos (s : State) (p : Nat) (x : PortUnit) : (s.setPort p x).pos = s.pos := rfl
@[simp] theorem setPort_strips (s : State) (p : Nat) (x : PortUnit) : (s.setPort p x).strips = s.strips := rfl
@[simp] theorem setPort_outbox (s : State) (p : Nat) (x : PortUnit) : (s.setPort p x).outbox = s.outbox := rfl
@[simp] theorem setPort_phase (s : State) (p : Nat) (x : PortUnit) : (s.setPort p x).phase = s.phase := rfl
@[simp] theorem setPort_seam (s : State) (p : Nat) (x : PortUnit) : (s.setPort p x).seam = s.seam := rfl
@[simp] theorem setPort_out (s : State) (p : Nat) (x : PortUnit) : (s.setPort p x).out = s.out := rfl
@[simp] theorem setPort_tc0 (s : State) (p : Nat) (x : PortUnit) : (s.setPort p x).tc0 = s.tc0 := rfl
@[simp] theorem setPort_dma (s : State) (p : Nat) (x : PortUnit) : (s.setPort p x).dma = s.dma := rfl
@[simp] theorem setPort_time (s : State) (p : Nat) (x : PortUnit) : (s.setPort p x).time = s.time := rfl
@[simp] theorem setPort_mgt (s : State) (p : Nat) (x : PortUnit) : (s.setPort p x).mgt = s.mgt := rfl
@[simp] theorem setPort_modes (s : State) (p : Nat) (x : PortUnit) : (s.setPort p x).modes = s.modes := rfl
@[simp] theorem setPort_hub (s : State) (p : Nat) (x : PortUnit) : (s.setPort p x).hub = s.hub := rfl
@[simp] theorem setPort_hubU (s : State) (p : Nat) (x : PortUnit) : (s.setPort p x).hubU = s.hubU := rfl
@[simp] theorem setPort_host (s : State) (p : Nat) (x : PortUnit) : (s.setPort p x).host = s.host := rfl
@[simp] theorem setPort_evq (s : State) (p : Nat) (x : PortUnit) : (s.setPort p x).evq = s.evq := rfl
@[simp] theorem setPort_evSeq (s : State) (p : Nat) (x : PortUnit) : (s.setPort p x).evSeq = s.evSeq := rfl
@[simp] theorem setPort_evLost (s : State) (p : Nat) (x : PortUnit) : (s.setPort p x).evLost = s.evLost := rfl
@[simp] theorem setPort_bbox (s : State) (p : Nat) (x : PortUnit) : (s.setPort p x).bbox = s.bbox := rfl
@[simp] theorem setPort_logq (s : State) (p : Nat) (x : PortUnit) : (s.setPort p x).logq = s.logq := rfl
@[simp] theorem setPort_logCoal (s : State) (p : Nat) (x : PortUnit) : (s.setPort p x).logCoal = s.logCoal := rfl
@[simp] theorem setPort_stamps (s : State) (p : Nat) (x : PortUnit) : (s.setPort p x).stamps = s.stamps := rfl
@[simp] theorem setPort_free (s : State) (p : Nat) (x : PortUnit) : (s.setPort p x).free = s.free := rfl
@[simp] theorem setPort_pending (s : State) (p : Nat) (x : PortUnit) : (s.setPort p x).pending = s.pending := rfl
@[simp] theorem setPort_get_rf (s : State) (p : Nat) (x : PortUnit) (g : Fld) : (s.setPort p x).rf g = s.rf g := rfl
@[simp] theorem setPort_get_bit (s : State) (p : Nat) (x : PortUnit) (g : Fld) : (s.setPort p x).bit g = s.bit g := rfl
@[simp] theorem setPort_get_eng (s : State) (p : Nat) (x : PortUnit) (k : Nat) : (s.setPort p x).eng k = s.eng k := rfl
@[simp] theorem setPort_get_wu (s : State) (p : Nat) (x : PortUnit) (k : Nat) : (s.setPort p x).wu k = s.wu k := rfl
@[simp] theorem setPort_get_chain (s : State) (p : Nat) (x : PortUnit) (k : Nat) : (s.setPort p x).chain k = s.chain k := rfl
@[simp] theorem setPort_get_lane (s : State) (p : Nat) (x : PortUnit) (k : Nat) : (s.setPort p x).lane k = s.lane k := rfl
@[simp] theorem setPort_get_port (s : State) (p : Nat) (x : PortUnit) (k : Nat) :
    (s.setPort p x).port k = if k = p then x else s.port k := look_put _ _ _ _ _
@[simp] theorem setPort_get_strip (s : State) (p : Nat) (x : PortUnit) (k : Nat) : (s.setPort p x).strip k = s.strip k := rfl
@[simp] theorem setPort_get_encCh (s : State) (p : Nat) (x : PortUnit) (k : Nat) : (s.setPort p x).encCh k = s.encCh k := rfl
@[simp] theorem setPort_get_genSt (s : State) (p : Nat) (x : PortUnit) (k : Nat) : (s.setPort p x).genSt k = s.genSt k := rfl
@[simp] theorem setPort_get_cmpU (s : State) (p : Nat) (x : PortUnit) (k : Nat) : (s.setPort p x).cmpU k = s.cmpU k := rfl
@[simp] theorem setPort_get_mkOut (s : State) (p : Nat) (x : PortUnit) (k : Nat) : (s.setPort p x).mkOut k = s.mkOut k := rfl
@[simp] theorem setPort_get_str (s : State) (p : Nat) (x : PortUnit) (k : Nat) : (s.setPort p x).str k = s.str k := rfl
@[simp] theorem setPort_get_sp (s : State) (p : Nat) (x : PortUnit) (k : Nat) : (s.setPort p x).sp k = s.sp k := rfl
@[simp] theorem setPort_get_ring (s : State) (p : Nat) (x : PortUnit) (k : Nat) : (s.setPort p x).ring k = s.ring k := rfl

/-! ### setCad -/

@[simp] theorem setCad_regs (s : State) (c : CadUnit) : (s.setCad c).regs = s.regs := rfl
@[simp] theorem setCad_readData (s : State) (c : CadUnit) : (s.setCad c).readData = s.readData := rfl
@[simp] theorem setCad_readBytes (s : State) (c : CadUnit) : (s.setCad c).readBytes = s.readBytes := rfl
@[simp] theorem setCad_count (s : State) (c : CadUnit) : (s.setCad c).count = s.count := rfl
@[simp] theorem setCad_engines (s : State) (c : CadUnit) : (s.setCad c).engines = s.engines := rfl
@[simp] theorem setCad_units (s : State) (c : CadUnit) : (s.setCad c).units = s.units := rfl
@[simp] theorem setCad_chains (s : State) (c : CadUnit) : (s.setCad c).chains = s.chains := rfl
@[simp] theorem setCad_lanes (s : State) (c : CadUnit) : (s.setCad c).lanes = s.lanes := rfl
@[simp] theorem setCad_ports (s : State) (c : CadUnit) : (s.setCad c).ports = s.ports := rfl
@[simp] theorem setCad_tests (s : State) (c : CadUnit) : (s.setCad c).tests = s.tests := rfl
@[simp] theorem setCad_pos (s : State) (c : CadUnit) : (s.setCad c).pos = s.pos := rfl
@[simp] theorem setCad_strips (s : State) (c : CadUnit) : (s.setCad c).strips = s.strips := rfl
@[simp] theorem setCad_outbox (s : State) (c : CadUnit) : (s.setCad c).outbox = s.outbox := rfl
@[simp] theorem setCad_phase (s : State) (c : CadUnit) : (s.setCad c).phase = s.phase := rfl
@[simp] theorem setCad_seam (s : State) (c : CadUnit) : (s.setCad c).seam = s.seam := rfl
@[simp] theorem setCad_out (s : State) (c : CadUnit) : (s.setCad c).out = s.out := rfl
@[simp] theorem setCad_tc0 (s : State) (c : CadUnit) : (s.setCad c).tc0 = s.tc0 := rfl
@[simp] theorem setCad_dma (s : State) (c : CadUnit) : (s.setCad c).dma = s.dma := rfl
@[simp] theorem setCad_time (s : State) (c : CadUnit) : (s.setCad c).time = s.time := rfl
@[simp] theorem setCad_mgt (s : State) (c : CadUnit) : (s.setCad c).mgt = s.mgt := rfl
@[simp] theorem setCad_modes (s : State) (c : CadUnit) : (s.setCad c).modes = s.modes := rfl
@[simp] theorem setCad_hub (s : State) (c : CadUnit) : (s.setCad c).hub = s.hub := rfl
@[simp] theorem setCad_hubU (s : State) (c : CadUnit) : (s.setCad c).hubU = s.hubU := rfl
@[simp] theorem setCad_host (s : State) (c : CadUnit) : (s.setCad c).host = s.host := rfl
@[simp] theorem setCad_evq (s : State) (c : CadUnit) : (s.setCad c).evq = s.evq := rfl
@[simp] theorem setCad_evSeq (s : State) (c : CadUnit) : (s.setCad c).evSeq = s.evSeq := rfl
@[simp] theorem setCad_evLost (s : State) (c : CadUnit) : (s.setCad c).evLost = s.evLost := rfl
@[simp] theorem setCad_bbox (s : State) (c : CadUnit) : (s.setCad c).bbox = s.bbox := rfl
@[simp] theorem setCad_logq (s : State) (c : CadUnit) : (s.setCad c).logq = s.logq := rfl
@[simp] theorem setCad_logCoal (s : State) (c : CadUnit) : (s.setCad c).logCoal = s.logCoal := rfl
@[simp] theorem setCad_stamps (s : State) (c : CadUnit) : (s.setCad c).stamps = s.stamps := rfl
@[simp] theorem setCad_free (s : State) (c : CadUnit) : (s.setCad c).free = s.free := rfl
@[simp] theorem setCad_pending (s : State) (c : CadUnit) : (s.setCad c).pending = s.pending := rfl
@[simp] theorem setCad_get_rf (s : State) (c : CadUnit) (g : Fld) : (s.setCad c).rf g = s.rf g := rfl
@[simp] theorem setCad_get_bit (s : State) (c : CadUnit) (g : Fld) : (s.setCad c).bit g = s.bit g := rfl
@[simp] theorem setCad_get_eng (s : State) (c : CadUnit) (k : Nat) : (s.setCad c).eng k = s.eng k := rfl
@[simp] theorem setCad_get_wu (s : State) (c : CadUnit) (k : Nat) : (s.setCad c).wu k = s.wu k := rfl
@[simp] theorem setCad_get_chain (s : State) (c : CadUnit) (k : Nat) : (s.setCad c).chain k = s.chain k := rfl
@[simp] theorem setCad_get_lane (s : State) (c : CadUnit) (k : Nat) : (s.setCad c).lane k = s.lane k := rfl
@[simp] theorem setCad_get_port (s : State) (c : CadUnit) (k : Nat) : (s.setCad c).port k = s.port k := rfl
@[simp] theorem setCad_get_strip (s : State) (c : CadUnit) (k : Nat) : (s.setCad c).strip k = s.strip k := rfl
@[simp] theorem setCad_get_encCh (s : State) (c : CadUnit) (k : Nat) : (s.setCad c).encCh k = s.encCh k := rfl
@[simp] theorem setCad_get_genSt (s : State) (c : CadUnit) (k : Nat) : (s.setCad c).genSt k = s.genSt k := rfl
@[simp] theorem setCad_get_cmpU (s : State) (c : CadUnit) (k : Nat) : (s.setCad c).cmpU k = s.cmpU k := rfl
@[simp] theorem setCad_get_mkOut (s : State) (c : CadUnit) (k : Nat) : (s.setCad c).mkOut k = s.mkOut k := rfl
@[simp] theorem setCad_get_str (s : State) (c : CadUnit) (k : Nat) : (s.setCad c).str k = s.str k := rfl
@[simp] theorem setCad_get_sp (s : State) (c : CadUnit) (k : Nat) : (s.setCad c).sp k = s.sp k := rfl
@[simp] theorem setCad_get_ring (s : State) (c : CadUnit) (k : Nat) : (s.setCad c).ring k = s.ring k := rfl

/-! ### setStrip -/

@[simp] theorem setStrip_regs (s : State) (k : Nat) (x : StripUnit) : (s.setStrip k x).regs = s.regs := rfl
@[simp] theorem setStrip_readData (s : State) (k : Nat) (x : StripUnit) : (s.setStrip k x).readData = s.readData := rfl
@[simp] theorem setStrip_readBytes (s : State) (k : Nat) (x : StripUnit) : (s.setStrip k x).readBytes = s.readBytes := rfl
@[simp] theorem setStrip_count (s : State) (k : Nat) (x : StripUnit) : (s.setStrip k x).count = s.count := rfl
@[simp] theorem setStrip_engines (s : State) (k : Nat) (x : StripUnit) : (s.setStrip k x).engines = s.engines := rfl
@[simp] theorem setStrip_units (s : State) (k : Nat) (x : StripUnit) : (s.setStrip k x).units = s.units := rfl
@[simp] theorem setStrip_chains (s : State) (k : Nat) (x : StripUnit) : (s.setStrip k x).chains = s.chains := rfl
@[simp] theorem setStrip_lanes (s : State) (k : Nat) (x : StripUnit) : (s.setStrip k x).lanes = s.lanes := rfl
@[simp] theorem setStrip_ports (s : State) (k : Nat) (x : StripUnit) : (s.setStrip k x).ports = s.ports := rfl
@[simp] theorem setStrip_cad (s : State) (k : Nat) (x : StripUnit) : (s.setStrip k x).cad = s.cad := rfl
@[simp] theorem setStrip_tests (s : State) (k : Nat) (x : StripUnit) : (s.setStrip k x).tests = s.tests := rfl
@[simp] theorem setStrip_pos (s : State) (k : Nat) (x : StripUnit) : (s.setStrip k x).pos = s.pos := rfl
@[simp] theorem setStrip_outbox (s : State) (k : Nat) (x : StripUnit) : (s.setStrip k x).outbox = s.outbox := rfl
@[simp] theorem setStrip_phase (s : State) (k : Nat) (x : StripUnit) : (s.setStrip k x).phase = s.phase := rfl
@[simp] theorem setStrip_seam (s : State) (k : Nat) (x : StripUnit) : (s.setStrip k x).seam = s.seam := rfl
@[simp] theorem setStrip_out (s : State) (k : Nat) (x : StripUnit) : (s.setStrip k x).out = s.out := rfl
@[simp] theorem setStrip_tc0 (s : State) (k : Nat) (x : StripUnit) : (s.setStrip k x).tc0 = s.tc0 := rfl
@[simp] theorem setStrip_dma (s : State) (k : Nat) (x : StripUnit) : (s.setStrip k x).dma = s.dma := rfl
@[simp] theorem setStrip_time (s : State) (k : Nat) (x : StripUnit) : (s.setStrip k x).time = s.time := rfl
@[simp] theorem setStrip_mgt (s : State) (k : Nat) (x : StripUnit) : (s.setStrip k x).mgt = s.mgt := rfl
@[simp] theorem setStrip_modes (s : State) (k : Nat) (x : StripUnit) : (s.setStrip k x).modes = s.modes := rfl
@[simp] theorem setStrip_hub (s : State) (k : Nat) (x : StripUnit) : (s.setStrip k x).hub = s.hub := rfl
@[simp] theorem setStrip_hubU (s : State) (k : Nat) (x : StripUnit) : (s.setStrip k x).hubU = s.hubU := rfl
@[simp] theorem setStrip_host (s : State) (k : Nat) (x : StripUnit) : (s.setStrip k x).host = s.host := rfl
@[simp] theorem setStrip_evq (s : State) (k : Nat) (x : StripUnit) : (s.setStrip k x).evq = s.evq := rfl
@[simp] theorem setStrip_evSeq (s : State) (k : Nat) (x : StripUnit) : (s.setStrip k x).evSeq = s.evSeq := rfl
@[simp] theorem setStrip_evLost (s : State) (k : Nat) (x : StripUnit) : (s.setStrip k x).evLost = s.evLost := rfl
@[simp] theorem setStrip_bbox (s : State) (k : Nat) (x : StripUnit) : (s.setStrip k x).bbox = s.bbox := rfl
@[simp] theorem setStrip_logq (s : State) (k : Nat) (x : StripUnit) : (s.setStrip k x).logq = s.logq := rfl
@[simp] theorem setStrip_logCoal (s : State) (k : Nat) (x : StripUnit) : (s.setStrip k x).logCoal = s.logCoal := rfl
@[simp] theorem setStrip_stamps (s : State) (k : Nat) (x : StripUnit) : (s.setStrip k x).stamps = s.stamps := rfl
@[simp] theorem setStrip_free (s : State) (k : Nat) (x : StripUnit) : (s.setStrip k x).free = s.free := rfl
@[simp] theorem setStrip_pending (s : State) (k : Nat) (x : StripUnit) : (s.setStrip k x).pending = s.pending := rfl
@[simp] theorem setStrip_get_rf (s : State) (k : Nat) (x : StripUnit) (g : Fld) : (s.setStrip k x).rf g = s.rf g := rfl
@[simp] theorem setStrip_get_bit (s : State) (k : Nat) (x : StripUnit) (g : Fld) : (s.setStrip k x).bit g = s.bit g := rfl
@[simp] theorem setStrip_get_eng (s : State) (k : Nat) (x : StripUnit) (k : Nat) : (s.setStrip k x).eng k = s.eng k := rfl
@[simp] theorem setStrip_get_wu (s : State) (k : Nat) (x : StripUnit) (k : Nat) : (s.setStrip k x).wu k = s.wu k := rfl
@[simp] theorem setStrip_get_chain (s : State) (k : Nat) (x : StripUnit) (k : Nat) : (s.setStrip k x).chain k = s.chain k := rfl
@[simp] theorem setStrip_get_lane (s : State) (k : Nat) (x : StripUnit) (k : Nat) : (s.setStrip k x).lane k = s.lane k := rfl
@[simp] theorem setStrip_get_port (s : State) (k : Nat) (x : StripUnit) (k : Nat) : (s.setStrip k x).port k = s.port k := rfl
@[simp] theorem setStrip_get_strip (s : State) (k : Nat) (x : StripUnit) (k : Nat) :
    (s.setStrip k x).strip k = if k = k then x else s.strip k := look_put _ _ _ _ _
@[simp] theorem setStrip_get_encCh (s : State) (k : Nat) (x : StripUnit) (k : Nat) : (s.setStrip k x).encCh k = s.encCh k := rfl
@[simp] theorem setStrip_get_genSt (s : State) (k : Nat) (x : StripUnit) (k : Nat) : (s.setStrip k x).genSt k = s.genSt k := rfl
@[simp] theorem setStrip_get_cmpU (s : State) (k : Nat) (x : StripUnit) (k : Nat) : (s.setStrip k x).cmpU k = s.cmpU k := rfl
@[simp] theorem setStrip_get_mkOut (s : State) (k : Nat) (x : StripUnit) (k : Nat) : (s.setStrip k x).mkOut k = s.mkOut k := rfl
@[simp] theorem setStrip_get_str (s : State) (k : Nat) (x : StripUnit) (k : Nat) : (s.setStrip k x).str k = s.str k := rfl
@[simp] theorem setStrip_get_sp (s : State) (k : Nat) (x : StripUnit) (k : Nat) : (s.setStrip k x).sp k = s.sp k := rfl
@[simp] theorem setStrip_get_ring (s : State) (k : Nat) (x : StripUnit) (k : Nat) : (s.setStrip k x).ring k = s.ring k := rfl

/-! ### setDma -/

@[simp] theorem setDma_regs (s : State) (u ch : Nat) (x : DmaCh) : (s.setDma u ch x).regs = s.regs := rfl
@[simp] theorem setDma_readData (s : State) (u ch : Nat) (x : DmaCh) : (s.setDma u ch x).readData = s.readData := rfl
@[simp] theorem setDma_readBytes (s : State) (u ch : Nat) (x : DmaCh) : (s.setDma u ch x).readBytes = s.readBytes := rfl
@[simp] theorem setDma_count (s : State) (u ch : Nat) (x : DmaCh) : (s.setDma u ch x).count = s.count := rfl
@[simp] theorem setDma_engines (s : State) (u ch : Nat) (x : DmaCh) : (s.setDma u ch x).engines = s.engines := rfl
@[simp] theorem setDma_units (s : State) (u ch : Nat) (x : DmaCh) : (s.setDma u ch x).units = s.units := rfl
@[simp] theorem setDma_chains (s : State) (u ch : Nat) (x : DmaCh) : (s.setDma u ch x).chains = s.chains := rfl
@[simp] theorem setDma_lanes (s : State) (u ch : Nat) (x : DmaCh) : (s.setDma u ch x).lanes = s.lanes := rfl
@[simp] theorem setDma_ports (s : State) (u ch : Nat) (x : DmaCh) : (s.setDma u ch x).ports = s.ports := rfl
@[simp] theorem setDma_cad (s : State) (u ch : Nat) (x : DmaCh) : (s.setDma u ch x).cad = s.cad := rfl
@[simp] theorem setDma_tests (s : State) (u ch : Nat) (x : DmaCh) : (s.setDma u ch x).tests = s.tests := rfl
@[simp] theorem setDma_pos (s : State) (u ch : Nat) (x : DmaCh) : (s.setDma u ch x).pos = s.pos := rfl
@[simp] theorem setDma_strips (s : State) (u ch : Nat) (x : DmaCh) : (s.setDma u ch x).strips = s.strips := rfl
@[simp] theorem setDma_outbox (s : State) (u ch : Nat) (x : DmaCh) : (s.setDma u ch x).outbox = s.outbox := rfl
@[simp] theorem setDma_phase (s : State) (u ch : Nat) (x : DmaCh) : (s.setDma u ch x).phase = s.phase := rfl
@[simp] theorem setDma_seam (s : State) (u ch : Nat) (x : DmaCh) : (s.setDma u ch x).seam = s.seam := rfl
@[simp] theorem setDma_out (s : State) (u ch : Nat) (x : DmaCh) : (s.setDma u ch x).out = s.out := rfl
@[simp] theorem setDma_tc0 (s : State) (u ch : Nat) (x : DmaCh) : (s.setDma u ch x).tc0 = s.tc0 := rfl
@[simp] theorem setDma_time (s : State) (u ch : Nat) (x : DmaCh) : (s.setDma u ch x).time = s.time := rfl
@[simp] theorem setDma_mgt (s : State) (u ch : Nat) (x : DmaCh) : (s.setDma u ch x).mgt = s.mgt := rfl
@[simp] theorem setDma_modes (s : State) (u ch : Nat) (x : DmaCh) : (s.setDma u ch x).modes = s.modes := rfl
@[simp] theorem setDma_hub (s : State) (u ch : Nat) (x : DmaCh) : (s.setDma u ch x).hub = s.hub := rfl
@[simp] theorem setDma_hubU (s : State) (u ch : Nat) (x : DmaCh) : (s.setDma u ch x).hubU = s.hubU := rfl
@[simp] theorem setDma_host (s : State) (u ch : Nat) (x : DmaCh) : (s.setDma u ch x).host = s.host := rfl
@[simp] theorem setDma_evq (s : State) (u ch : Nat) (x : DmaCh) : (s.setDma u ch x).evq = s.evq := rfl
@[simp] theorem setDma_evSeq (s : State) (u ch : Nat) (x : DmaCh) : (s.setDma u ch x).evSeq = s.evSeq := rfl
@[simp] theorem setDma_evLost (s : State) (u ch : Nat) (x : DmaCh) : (s.setDma u ch x).evLost = s.evLost := rfl
@[simp] theorem setDma_bbox (s : State) (u ch : Nat) (x : DmaCh) : (s.setDma u ch x).bbox = s.bbox := rfl
@[simp] theorem setDma_logq (s : State) (u ch : Nat) (x : DmaCh) : (s.setDma u ch x).logq = s.logq := rfl
@[simp] theorem setDma_logCoal (s : State) (u ch : Nat) (x : DmaCh) : (s.setDma u ch x).logCoal = s.logCoal := rfl
@[simp] theorem setDma_stamps (s : State) (u ch : Nat) (x : DmaCh) : (s.setDma u ch x).stamps = s.stamps := rfl
@[simp] theorem setDma_free (s : State) (u ch : Nat) (x : DmaCh) : (s.setDma u ch x).free = s.free := rfl
@[simp] theorem setDma_pending (s : State) (u ch : Nat) (x : DmaCh) : (s.setDma u ch x).pending = s.pending := rfl
@[simp] theorem setDma_get_rf (s : State) (u ch : Nat) (x : DmaCh) (g : Fld) : (s.setDma u ch x).rf g = s.rf g := rfl
@[simp] theorem setDma_get_bit (s : State) (u ch : Nat) (x : DmaCh) (g : Fld) : (s.setDma u ch x).bit g = s.bit g := rfl
@[simp] theorem setDma_get_eng (s : State) (u ch : Nat) (x : DmaCh) (k : Nat) : (s.setDma u ch x).eng k = s.eng k := rfl
@[simp] theorem setDma_get_wu (s : State) (u ch : Nat) (x : DmaCh) (k : Nat) : (s.setDma u ch x).wu k = s.wu k := rfl
@[simp] theorem setDma_get_chain (s : State) (u ch : Nat) (x : DmaCh) (k : Nat) : (s.setDma u ch x).chain k = s.chain k := rfl
@[simp] theorem setDma_get_lane (s : State) (u ch : Nat) (x : DmaCh) (k : Nat) : (s.setDma u ch x).lane k = s.lane k := rfl
@[simp] theorem setDma_get_port (s : State) (u ch : Nat) (x : DmaCh) (k : Nat) : (s.setDma u ch x).port k = s.port k := rfl
@[simp] theorem setDma_get_strip (s : State) (u ch : Nat) (x : DmaCh) (k : Nat) : (s.setDma u ch x).strip k = s.strip k := rfl
@[simp] theorem setDma_get_encCh (s : State) (u ch : Nat) (x : DmaCh) (k : Nat) : (s.setDma u ch x).encCh k = s.encCh k := rfl
@[simp] theorem setDma_get_genSt (s : State) (u ch : Nat) (x : DmaCh) (k : Nat) : (s.setDma u ch x).genSt k = s.genSt k := rfl
@[simp] theorem setDma_get_cmpU (s : State) (u ch : Nat) (x : DmaCh) (k : Nat) : (s.setDma u ch x).cmpU k = s.cmpU k := rfl
@[simp] theorem setDma_get_mkOut (s : State) (u ch : Nat) (x : DmaCh) (k : Nat) : (s.setDma u ch x).mkOut k = s.mkOut k := rfl
@[simp] theorem setDma_get_str (s : State) (u ch : Nat) (x : DmaCh) (k : Nat) : (s.setDma u ch x).str k = s.str k := rfl
@[simp] theorem setDma_get_sp (s : State) (u ch : Nat) (x : DmaCh) (k : Nat) : (s.setDma u ch x).sp k = s.sp k := rfl
@[simp] theorem setDma_get_ring (s : State) (u ch : Nat) (x : DmaCh) (k : Nat) : (s.setDma u ch x).ring k = s.ring k := rfl

/-! ### setHub -/

@[simp] theorem setHub_regs (s : State) (h : HubUnit) : (s.setHub h).regs = s.regs := rfl
@[simp] theorem setHub_readData (s : State) (h : HubUnit) : (s.setHub h).readData = s.readData := rfl
@[simp] theorem setHub_readBytes (s : State) (h : HubUnit) : (s.setHub h).readBytes = s.readBytes := rfl
@[simp] theorem setHub_count (s : State) (h : HubUnit) : (s.setHub h).count = s.count := rfl
@[simp] theorem setHub_engines (s : State) (h : HubUnit) : (s.setHub h).engines = s.engines := rfl
@[simp] theorem setHub_units (s : State) (h : HubUnit) : (s.setHub h).units = s.units := rfl
@[simp] theorem setHub_chains (s : State) (h : HubUnit) : (s.setHub h).chains = s.chains := rfl
@[simp] theorem setHub_lanes (s : State) (h : HubUnit) : (s.setHub h).lanes = s.lanes := rfl
@[simp] theorem setHub_ports (s : State) (h : HubUnit) : (s.setHub h).ports = s.ports := rfl
@[simp] theorem setHub_cad (s : State) (h : HubUnit) : (s.setHub h).cad = s.cad := rfl
@[simp] theorem setHub_tests (s : State) (h : HubUnit) : (s.setHub h).tests = s.tests := rfl
@[simp] theorem setHub_pos (s : State) (h : HubUnit) : (s.setHub h).pos = s.pos := rfl
@[simp] theorem setHub_strips (s : State) (h : HubUnit) : (s.setHub h).strips = s.strips := rfl
@[simp] theorem setHub_outbox (s : State) (h : HubUnit) : (s.setHub h).outbox = s.outbox := rfl
@[simp] theorem setHub_phase (s : State) (h : HubUnit) : (s.setHub h).phase = s.phase := rfl
@[simp] theorem setHub_seam (s : State) (h : HubUnit) : (s.setHub h).seam = s.seam := rfl
@[simp] theorem setHub_out (s : State) (h : HubUnit) : (s.setHub h).out = s.out := rfl
@[simp] theorem setHub_tc0 (s : State) (h : HubUnit) : (s.setHub h).tc0 = s.tc0 := rfl
@[simp] theorem setHub_dma (s : State) (h : HubUnit) : (s.setHub h).dma = s.dma := rfl
@[simp] theorem setHub_time (s : State) (h : HubUnit) : (s.setHub h).time = s.time := rfl
@[simp] theorem setHub_mgt (s : State) (h : HubUnit) : (s.setHub h).mgt = s.mgt := rfl
@[simp] theorem setHub_modes (s : State) (h : HubUnit) : (s.setHub h).modes = s.modes := rfl
@[simp] theorem setHub_hub (s : State) (h : HubUnit) : (s.setHub h).hub = s.hub := rfl
@[simp] theorem setHub_host (s : State) (h : HubUnit) : (s.setHub h).host = s.host := rfl
@[simp] theorem setHub_evq (s : State) (h : HubUnit) : (s.setHub h).evq = s.evq := rfl
@[simp] theorem setHub_evSeq (s : State) (h : HubUnit) : (s.setHub h).evSeq = s.evSeq := rfl
@[simp] theorem setHub_evLost (s : State) (h : HubUnit) : (s.setHub h).evLost = s.evLost := rfl
@[simp] theorem setHub_bbox (s : State) (h : HubUnit) : (s.setHub h).bbox = s.bbox := rfl
@[simp] theorem setHub_logq (s : State) (h : HubUnit) : (s.setHub h).logq = s.logq := rfl
@[simp] theorem setHub_logCoal (s : State) (h : HubUnit) : (s.setHub h).logCoal = s.logCoal := rfl
@[simp] theorem setHub_stamps (s : State) (h : HubUnit) : (s.setHub h).stamps = s.stamps := rfl
@[simp] theorem setHub_free (s : State) (h : HubUnit) : (s.setHub h).free = s.free := rfl
@[simp] theorem setHub_pending (s : State) (h : HubUnit) : (s.setHub h).pending = s.pending := rfl
@[simp] theorem setHub_get_rf (s : State) (h : HubUnit) (g : Fld) : (s.setHub h).rf g = s.rf g := rfl
@[simp] theorem setHub_get_bit (s : State) (h : HubUnit) (g : Fld) : (s.setHub h).bit g = s.bit g := rfl
@[simp] theorem setHub_get_eng (s : State) (h : HubUnit) (k : Nat) : (s.setHub h).eng k = s.eng k := rfl
@[simp] theorem setHub_get_wu (s : State) (h : HubUnit) (k : Nat) : (s.setHub h).wu k = s.wu k := rfl
@[simp] theorem setHub_get_chain (s : State) (h : HubUnit) (k : Nat) : (s.setHub h).chain k = s.chain k := rfl
@[simp] theorem setHub_get_lane (s : State) (h : HubUnit) (k : Nat) : (s.setHub h).lane k = s.lane k := rfl
@[simp] theorem setHub_get_port (s : State) (h : HubUnit) (k : Nat) : (s.setHub h).port k = s.port k := rfl
@[simp] theorem setHub_get_strip (s : State) (h : HubUnit) (k : Nat) : (s.setHub h).strip k = s.strip k := rfl
@[simp] theorem setHub_get_encCh (s : State) (h : HubUnit) (k : Nat) : (s.setHub h).encCh k = s.encCh k := rfl
@[simp] theorem setHub_get_genSt (s : State) (h : HubUnit) (k : Nat) : (s.setHub h).genSt k = s.genSt k := rfl
@[simp] theorem setHub_get_cmpU (s : State) (h : HubUnit) (k : Nat) : (s.setHub h).cmpU k = s.cmpU k := rfl
@[simp] theorem setHub_get_mkOut (s : State) (h : HubUnit) (k : Nat) : (s.setHub h).mkOut k = s.mkOut k := rfl
@[simp] theorem setHub_get_str (s : State) (h : HubUnit) (k : Nat) : (s.setHub h).str k = s.str k := rfl
@[simp] theorem setHub_get_sp (s : State) (h : HubUnit) (k : Nat) : (s.setHub h).sp k = s.sp k := rfl
@[simp] theorem setHub_get_ring (s : State) (h : HubUnit) (k : Nat) : (s.setHub h).ring k = s.ring k := rfl

/-! ### setMgt -/

@[simp] theorem setMgt_regs (s : State) (m : MgtUnit) : (s.setMgt m).regs = s.regs := rfl
@[simp] theorem setMgt_readData (s : State) (m : MgtUnit) : (s.setMgt m).readData = s.readData := rfl
@[simp] theorem setMgt_readBytes (s : State) (m : MgtUnit) : (s.setMgt m).readBytes = s.readBytes := rfl
@[simp] theorem setMgt_count (s : State) (m : MgtUnit) : (s.setMgt m).count = s.count := rfl
@[simp] theorem setMgt_engines (s : State) (m : MgtUnit) : (s.setMgt m).engines = s.engines := rfl
@[simp] theorem setMgt_units (s : State) (m : MgtUnit) : (s.setMgt m).units = s.units := rfl
@[simp] theorem setMgt_chains (s : State) (m : MgtUnit) : (s.setMgt m).chains = s.chains := rfl
@[simp] theorem setMgt_lanes (s : State) (m : MgtUnit) : (s.setMgt m).lanes = s.lanes := rfl
@[simp] theorem setMgt_ports (s : State) (m : MgtUnit) : (s.setMgt m).ports = s.ports := rfl
@[simp] theorem setMgt_cad (s : State) (m : MgtUnit) : (s.setMgt m).cad = s.cad := rfl
@[simp] theorem setMgt_tests (s : State) (m : MgtUnit) : (s.setMgt m).tests = s.tests := rfl
@[simp] theorem setMgt_pos (s : State) (m : MgtUnit) : (s.setMgt m).pos = s.pos := rfl
@[simp] theorem setMgt_strips (s : State) (m : MgtUnit) : (s.setMgt m).strips = s.strips := rfl
@[simp] theorem setMgt_outbox (s : State) (m : MgtUnit) : (s.setMgt m).outbox = s.outbox := rfl
@[simp] theorem setMgt_phase (s : State) (m : MgtUnit) : (s.setMgt m).phase = s.phase := rfl
@[simp] theorem setMgt_seam (s : State) (m : MgtUnit) : (s.setMgt m).seam = s.seam := rfl
@[simp] theorem setMgt_out (s : State) (m : MgtUnit) : (s.setMgt m).out = s.out := rfl
@[simp] theorem setMgt_tc0 (s : State) (m : MgtUnit) : (s.setMgt m).tc0 = s.tc0 := rfl
@[simp] theorem setMgt_dma (s : State) (m : MgtUnit) : (s.setMgt m).dma = s.dma := rfl
@[simp] theorem setMgt_time (s : State) (m : MgtUnit) : (s.setMgt m).time = s.time := rfl
@[simp] theorem setMgt_modes (s : State) (m : MgtUnit) : (s.setMgt m).modes = s.modes := rfl
@[simp] theorem setMgt_hub (s : State) (m : MgtUnit) : (s.setMgt m).hub = s.hub := rfl
@[simp] theorem setMgt_hubU (s : State) (m : MgtUnit) : (s.setMgt m).hubU = s.hubU := rfl
@[simp] theorem setMgt_host (s : State) (m : MgtUnit) : (s.setMgt m).host = s.host := rfl
@[simp] theorem setMgt_evq (s : State) (m : MgtUnit) : (s.setMgt m).evq = s.evq := rfl
@[simp] theorem setMgt_evSeq (s : State) (m : MgtUnit) : (s.setMgt m).evSeq = s.evSeq := rfl
@[simp] theorem setMgt_evLost (s : State) (m : MgtUnit) : (s.setMgt m).evLost = s.evLost := rfl
@[simp] theorem setMgt_bbox (s : State) (m : MgtUnit) : (s.setMgt m).bbox = s.bbox := rfl
@[simp] theorem setMgt_logq (s : State) (m : MgtUnit) : (s.setMgt m).logq = s.logq := rfl
@[simp] theorem setMgt_logCoal (s : State) (m : MgtUnit) : (s.setMgt m).logCoal = s.logCoal := rfl
@[simp] theorem setMgt_stamps (s : State) (m : MgtUnit) : (s.setMgt m).stamps = s.stamps := rfl
@[simp] theorem setMgt_free (s : State) (m : MgtUnit) : (s.setMgt m).free = s.free := rfl
@[simp] theorem setMgt_pending (s : State) (m : MgtUnit) : (s.setMgt m).pending = s.pending := rfl
@[simp] theorem setMgt_get_rf (s : State) (m : MgtUnit) (g : Fld) : (s.setMgt m).rf g = s.rf g := rfl
@[simp] theorem setMgt_get_bit (s : State) (m : MgtUnit) (g : Fld) : (s.setMgt m).bit g = s.bit g := rfl
@[simp] theorem setMgt_get_eng (s : State) (m : MgtUnit) (k : Nat) : (s.setMgt m).eng k = s.eng k := rfl
@[simp] theorem setMgt_get_wu (s : State) (m : MgtUnit) (k : Nat) : (s.setMgt m).wu k = s.wu k := rfl
@[simp] theorem setMgt_get_chain (s : State) (m : MgtUnit) (k : Nat) : (s.setMgt m).chain k = s.chain k := rfl
@[simp] theorem setMgt_get_lane (s : State) (m : MgtUnit) (k : Nat) : (s.setMgt m).lane k = s.lane k := rfl
@[simp] theorem setMgt_get_port (s : State) (m : MgtUnit) (k : Nat) : (s.setMgt m).port k = s.port k := rfl
@[simp] theorem setMgt_get_strip (s : State) (m : MgtUnit) (k : Nat) : (s.setMgt m).strip k = s.strip k := rfl
@[simp] theorem setMgt_get_encCh (s : State) (m : MgtUnit) (k : Nat) : (s.setMgt m).encCh k = s.encCh k := rfl
@[simp] theorem setMgt_get_genSt (s : State) (m : MgtUnit) (k : Nat) : (s.setMgt m).genSt k = s.genSt k := rfl
@[simp] theorem setMgt_get_cmpU (s : State) (m : MgtUnit) (k : Nat) : (s.setMgt m).cmpU k = s.cmpU k := rfl
@[simp] theorem setMgt_get_mkOut (s : State) (m : MgtUnit) (k : Nat) : (s.setMgt m).mkOut k = s.mkOut k := rfl
@[simp] theorem setMgt_get_str (s : State) (m : MgtUnit) (k : Nat) : (s.setMgt m).str k = s.str k := rfl
@[simp] theorem setMgt_get_sp (s : State) (m : MgtUnit) (k : Nat) : (s.setMgt m).sp k = s.sp k := rfl
@[simp] theorem setMgt_get_ring (s : State) (m : MgtUnit) (k : Nat) : (s.setMgt m).ring k = s.ring k := rfl

/-! ### setModes -/

@[simp] theorem setModes_regs (s : State) (m : ModeUnit) : (s.setModes m).regs = s.regs := rfl
@[simp] theorem setModes_readData (s : State) (m : ModeUnit) : (s.setModes m).readData = s.readData := rfl
@[simp] theorem setModes_readBytes (s : State) (m : ModeUnit) : (s.setModes m).readBytes = s.readBytes := rfl
@[simp] theorem setModes_count (s : State) (m : ModeUnit) : (s.setModes m).count = s.count := rfl
@[simp] theorem setModes_engines (s : State) (m : ModeUnit) : (s.setModes m).engines = s.engines := rfl
@[simp] theorem setModes_units (s : State) (m : ModeUnit) : (s.setModes m).units = s.units := rfl
@[simp] theorem setModes_chains (s : State) (m : ModeUnit) : (s.setModes m).chains = s.chains := rfl
@[simp] theorem setModes_lanes (s : State) (m : ModeUnit) : (s.setModes m).lanes = s.lanes := rfl
@[simp] theorem setModes_ports (s : State) (m : ModeUnit) : (s.setModes m).ports = s.ports := rfl
@[simp] theorem setModes_cad (s : State) (m : ModeUnit) : (s.setModes m).cad = s.cad := rfl
@[simp] theorem setModes_tests (s : State) (m : ModeUnit) : (s.setModes m).tests = s.tests := rfl
@[simp] theorem setModes_pos (s : State) (m : ModeUnit) : (s.setModes m).pos = s.pos := rfl
@[simp] theorem setModes_strips (s : State) (m : ModeUnit) : (s.setModes m).strips = s.strips := rfl
@[simp] theorem setModes_outbox (s : State) (m : ModeUnit) : (s.setModes m).outbox = s.outbox := rfl
@[simp] theorem setModes_phase (s : State) (m : ModeUnit) : (s.setModes m).phase = s.phase := rfl
@[simp] theorem setModes_seam (s : State) (m : ModeUnit) : (s.setModes m).seam = s.seam := rfl
@[simp] theorem setModes_out (s : State) (m : ModeUnit) : (s.setModes m).out = s.out := rfl
@[simp] theorem setModes_tc0 (s : State) (m : ModeUnit) : (s.setModes m).tc0 = s.tc0 := rfl
@[simp] theorem setModes_dma (s : State) (m : ModeUnit) : (s.setModes m).dma = s.dma := rfl
@[simp] theorem setModes_time (s : State) (m : ModeUnit) : (s.setModes m).time = s.time := rfl
@[simp] theorem setModes_mgt (s : State) (m : ModeUnit) : (s.setModes m).mgt = s.mgt := rfl
@[simp] theorem setModes_hub (s : State) (m : ModeUnit) : (s.setModes m).hub = s.hub := rfl
@[simp] theorem setModes_hubU (s : State) (m : ModeUnit) : (s.setModes m).hubU = s.hubU := rfl
@[simp] theorem setModes_host (s : State) (m : ModeUnit) : (s.setModes m).host = s.host := rfl
@[simp] theorem setModes_evq (s : State) (m : ModeUnit) : (s.setModes m).evq = s.evq := rfl
@[simp] theorem setModes_evSeq (s : State) (m : ModeUnit) : (s.setModes m).evSeq = s.evSeq := rfl
@[simp] theorem setModes_evLost (s : State) (m : ModeUnit) : (s.setModes m).evLost = s.evLost := rfl
@[simp] theorem setModes_bbox (s : State) (m : ModeUnit) : (s.setModes m).bbox = s.bbox := rfl
@[simp] theorem setModes_logq (s : State) (m : ModeUnit) : (s.setModes m).logq = s.logq := rfl
@[simp] theorem setModes_logCoal (s : State) (m : ModeUnit) : (s.setModes m).logCoal = s.logCoal := rfl
@[simp] theorem setModes_stamps (s : State) (m : ModeUnit) : (s.setModes m).stamps = s.stamps := rfl
@[simp] theorem setModes_free (s : State) (m : ModeUnit) : (s.setModes m).free = s.free := rfl
@[simp] theorem setModes_pending (s : State) (m : ModeUnit) : (s.setModes m).pending = s.pending := rfl
@[simp] theorem setModes_get_rf (s : State) (m : ModeUnit) (g : Fld) : (s.setModes m).rf g = s.rf g := rfl
@[simp] theorem setModes_get_bit (s : State) (m : ModeUnit) (g : Fld) : (s.setModes m).bit g = s.bit g := rfl
@[simp] theorem setModes_get_eng (s : State) (m : ModeUnit) (k : Nat) : (s.setModes m).eng k = s.eng k := rfl
@[simp] theorem setModes_get_wu (s : State) (m : ModeUnit) (k : Nat) : (s.setModes m).wu k = s.wu k := rfl
@[simp] theorem setModes_get_chain (s : State) (m : ModeUnit) (k : Nat) : (s.setModes m).chain k = s.chain k := rfl
@[simp] theorem setModes_get_lane (s : State) (m : ModeUnit) (k : Nat) : (s.setModes m).lane k = s.lane k := rfl
@[simp] theorem setModes_get_port (s : State) (m : ModeUnit) (k : Nat) : (s.setModes m).port k = s.port k := rfl
@[simp] theorem setModes_get_strip (s : State) (m : ModeUnit) (k : Nat) : (s.setModes m).strip k = s.strip k := rfl
@[simp] theorem setModes_get_encCh (s : State) (m : ModeUnit) (k : Nat) : (s.setModes m).encCh k = s.encCh k := rfl
@[simp] theorem setModes_get_genSt (s : State) (m : ModeUnit) (k : Nat) : (s.setModes m).genSt k = s.genSt k := rfl
@[simp] theorem setModes_get_cmpU (s : State) (m : ModeUnit) (k : Nat) : (s.setModes m).cmpU k = s.cmpU k := rfl
@[simp] theorem setModes_get_mkOut (s : State) (m : ModeUnit) (k : Nat) : (s.setModes m).mkOut k = s.mkOut k := rfl
@[simp] theorem setModes_get_str (s : State) (m : ModeUnit) (k : Nat) : (s.setModes m).str k = s.str k := rfl
@[simp] theorem setModes_get_sp (s : State) (m : ModeUnit) (k : Nat) : (s.setModes m).sp k = s.sp k := rfl
@[simp] theorem setModes_get_ring (s : State) (m : ModeUnit) (k : Nat) : (s.setModes m).ring k = s.ring k := rfl

/-! ### setTests -/

@[simp] theorem setTests_regs (s : State) (x : TestUnit) : (s.setTests x).regs = s.regs := rfl
@[simp] theorem setTests_readData (s : State) (x : TestUnit) : (s.setTests x).readData = s.readData := rfl
@[simp] theorem setTests_readBytes (s : State) (x : TestUnit) : (s.setTests x).readBytes = s.readBytes := rfl
@[simp] theorem setTests_count (s : State) (x : TestUnit) : (s.setTests x).count = s.count := rfl
@[simp] theorem setTests_engines (s : State) (x : TestUnit) : (s.setTests x).engines = s.engines := rfl
@[simp] theorem setTests_units (s : State) (x : TestUnit) : (s.setTests x).units = s.units := rfl
@[simp] theorem setTests_chains (s : State) (x : TestUnit) : (s.setTests x).chains = s.chains := rfl
@[simp] theorem setTests_lanes (s : State) (x : TestUnit) : (s.setTests x).lanes = s.lanes := rfl
@[simp] theorem setTests_ports (s : State) (x : TestUnit) : (s.setTests x).ports = s.ports := rfl
@[simp] theorem setTests_cad (s : State) (x : TestUnit) : (s.setTests x).cad = s.cad := rfl
@[simp] theorem setTests_pos (s : State) (x : TestUnit) : (s.setTests x).pos = s.pos := rfl
@[simp] theorem setTests_strips (s : State) (x : TestUnit) : (s.setTests x).strips = s.strips := rfl
@[simp] theorem setTests_outbox (s : State) (x : TestUnit) : (s.setTests x).outbox = s.outbox := rfl
@[simp] theorem setTests_phase (s : State) (x : TestUnit) : (s.setTests x).phase = s.phase := rfl
@[simp] theorem setTests_seam (s : State) (x : TestUnit) : (s.setTests x).seam = s.seam := rfl
@[simp] theorem setTests_out (s : State) (x : TestUnit) : (s.setTests x).out = s.out := rfl
@[simp] theorem setTests_tc0 (s : State) (x : TestUnit) : (s.setTests x).tc0 = s.tc0 := rfl
@[simp] theorem setTests_dma (s : State) (x : TestUnit) : (s.setTests x).dma = s.dma := rfl
@[simp] theorem setTests_time (s : State) (x : TestUnit) : (s.setTests x).time = s.time := rfl
@[simp] theorem setTests_mgt (s : State) (x : TestUnit) : (s.setTests x).mgt = s.mgt := rfl
@[simp] theorem setTests_modes (s : State) (x : TestUnit) : (s.setTests x).modes = s.modes := rfl
@[simp] theorem setTests_hub (s : State) (x : TestUnit) : (s.setTests x).hub = s.hub := rfl
@[simp] theorem setTests_hubU (s : State) (x : TestUnit) : (s.setTests x).hubU = s.hubU := rfl
@[simp] theorem setTests_host (s : State) (x : TestUnit) : (s.setTests x).host = s.host := rfl
@[simp] theorem setTests_evq (s : State) (x : TestUnit) : (s.setTests x).evq = s.evq := rfl
@[simp] theorem setTests_evSeq (s : State) (x : TestUnit) : (s.setTests x).evSeq = s.evSeq := rfl
@[simp] theorem setTests_evLost (s : State) (x : TestUnit) : (s.setTests x).evLost = s.evLost := rfl
@[simp] theorem setTests_bbox (s : State) (x : TestUnit) : (s.setTests x).bbox = s.bbox := rfl
@[simp] theorem setTests_logq (s : State) (x : TestUnit) : (s.setTests x).logq = s.logq := rfl
@[simp] theorem setTests_logCoal (s : State) (x : TestUnit) : (s.setTests x).logCoal = s.logCoal := rfl
@[simp] theorem setTests_stamps (s : State) (x : TestUnit) : (s.setTests x).stamps = s.stamps := rfl
@[simp] theorem setTests_free (s : State) (x : TestUnit) : (s.setTests x).free = s.free := rfl
@[simp] theorem setTests_pending (s : State) (x : TestUnit) : (s.setTests x).pending = s.pending := rfl
@[simp] theorem setTests_get_rf (s : State) (x : TestUnit) (g : Fld) : (s.setTests x).rf g = s.rf g := rfl
@[simp] theorem setTests_get_bit (s : State) (x : TestUnit) (g : Fld) : (s.setTests x).bit g = s.bit g := rfl
@[simp] theorem setTests_get_eng (s : State) (x : TestUnit) (k : Nat) : (s.setTests x).eng k = s.eng k := rfl
@[simp] theorem setTests_get_wu (s : State) (x : TestUnit) (k : Nat) : (s.setTests x).wu k = s.wu k := rfl
@[simp] theorem setTests_get_chain (s : State) (x : TestUnit) (k : Nat) : (s.setTests x).chain k = s.chain k := rfl
@[simp] theorem setTests_get_lane (s : State) (x : TestUnit) (k : Nat) : (s.setTests x).lane k = s.lane k := rfl
@[simp] theorem setTests_get_port (s : State) (x : TestUnit) (k : Nat) : (s.setTests x).port k = s.port k := rfl
@[simp] theorem setTests_get_strip (s : State) (x : TestUnit) (k : Nat) : (s.setTests x).strip k = s.strip k := rfl
@[simp] theorem setTests_get_encCh (s : State) (x : TestUnit) (k : Nat) : (s.setTests x).encCh k = s.encCh k := rfl
@[simp] theorem setTests_get_genSt (s : State) (x : TestUnit) (k : Nat) : (s.setTests x).genSt k = s.genSt k := rfl
@[simp] theorem setTests_get_cmpU (s : State) (x : TestUnit) (k : Nat) : (s.setTests x).cmpU k = s.cmpU k := rfl
@[simp] theorem setTests_get_mkOut (s : State) (x : TestUnit) (k : Nat) : (s.setTests x).mkOut k = s.mkOut k := rfl
@[simp] theorem setTests_get_str (s : State) (x : TestUnit) (k : Nat) : (s.setTests x).str k = s.str k := rfl
@[simp] theorem setTests_get_sp (s : State) (x : TestUnit) (k : Nat) : (s.setTests x).sp k = s.sp k := rfl
@[simp] theorem setTests_get_ring (s : State) (x : TestUnit) (k : Nat) : (s.setTests x).ring k = s.ring k := rfl

/-! ### setEncCh -/

@[simp] theorem setEncCh_regs (s : State) (c : Nat) (x : EncCh) : (s.setEncCh c x).regs = s.regs := rfl
@[simp] theorem setEncCh_readData (s : State) (c : Nat) (x : EncCh) : (s.setEncCh c x).readData = s.readData := rfl
@[simp] theorem setEncCh_readBytes (s : State) (c : Nat) (x : EncCh) : (s.setEncCh c x).readBytes = s.readBytes := rfl
@[simp] theorem setEncCh_count (s : State) (c : Nat) (x : EncCh) : (s.setEncCh c x).count = s.count := rfl
@[simp] theorem setEncCh_engines (s : State) (c : Nat) (x : EncCh) : (s.setEncCh c x).engines = s.engines := rfl
@[simp] theorem setEncCh_units (s : State) (c : Nat) (x : EncCh) : (s.setEncCh c x).units = s.units := rfl
@[simp] theorem setEncCh_chains (s : State) (c : Nat) (x : EncCh) : (s.setEncCh c x).chains = s.chains := rfl
@[simp] theorem setEncCh_lanes (s : State) (c : Nat) (x : EncCh) : (s.setEncCh c x).lanes = s.lanes := rfl
@[simp] theorem setEncCh_ports (s : State) (c : Nat) (x : EncCh) : (s.setEncCh c x).ports = s.ports := rfl
@[simp] theorem setEncCh_cad (s : State) (c : Nat) (x : EncCh) : (s.setEncCh c x).cad = s.cad := rfl
@[simp] theorem setEncCh_tests (s : State) (c : Nat) (x : EncCh) : (s.setEncCh c x).tests = s.tests := rfl
@[simp] theorem setEncCh_strips (s : State) (c : Nat) (x : EncCh) : (s.setEncCh c x).strips = s.strips := rfl
@[simp] theorem setEncCh_outbox (s : State) (c : Nat) (x : EncCh) : (s.setEncCh c x).outbox = s.outbox := rfl
@[simp] theorem setEncCh_phase (s : State) (c : Nat) (x : EncCh) : (s.setEncCh c x).phase = s.phase := rfl
@[simp] theorem setEncCh_seam (s : State) (c : Nat) (x : EncCh) : (s.setEncCh c x).seam = s.seam := rfl
@[simp] theorem setEncCh_out (s : State) (c : Nat) (x : EncCh) : (s.setEncCh c x).out = s.out := rfl
@[simp] theorem setEncCh_tc0 (s : State) (c : Nat) (x : EncCh) : (s.setEncCh c x).tc0 = s.tc0 := rfl
@[simp] theorem setEncCh_dma (s : State) (c : Nat) (x : EncCh) : (s.setEncCh c x).dma = s.dma := rfl
@[simp] theorem setEncCh_time (s : State) (c : Nat) (x : EncCh) : (s.setEncCh c x).time = s.time := rfl
@[simp] theorem setEncCh_mgt (s : State) (c : Nat) (x : EncCh) : (s.setEncCh c x).mgt = s.mgt := rfl
@[simp] theorem setEncCh_modes (s : State) (c : Nat) (x : EncCh) : (s.setEncCh c x).modes = s.modes := rfl
@[simp] theorem setEncCh_hub (s : State) (c : Nat) (x : EncCh) : (s.setEncCh c x).hub = s.hub := rfl
@[simp] theorem setEncCh_hubU (s : State) (c : Nat) (x : EncCh) : (s.setEncCh c x).hubU = s.hubU := rfl
@[simp] theorem setEncCh_host (s : State) (c : Nat) (x : EncCh) : (s.setEncCh c x).host = s.host := rfl
@[simp] theorem setEncCh_evq (s : State) (c : Nat) (x : EncCh) : (s.setEncCh c x).evq = s.evq := rfl
@[simp] theorem setEncCh_evSeq (s : State) (c : Nat) (x : EncCh) : (s.setEncCh c x).evSeq = s.evSeq := rfl
@[simp] theorem setEncCh_evLost (s : State) (c : Nat) (x : EncCh) : (s.setEncCh c x).evLost = s.evLost := rfl
@[simp] theorem setEncCh_bbox (s : State) (c : Nat) (x : EncCh) : (s.setEncCh c x).bbox = s.bbox := rfl
@[simp] theorem setEncCh_logq (s : State) (c : Nat) (x : EncCh) : (s.setEncCh c x).logq = s.logq := rfl
@[simp] theorem setEncCh_logCoal (s : State) (c : Nat) (x : EncCh) : (s.setEncCh c x).logCoal = s.logCoal := rfl
@[simp] theorem setEncCh_stamps (s : State) (c : Nat) (x : EncCh) : (s.setEncCh c x).stamps = s.stamps := rfl
@[simp] theorem setEncCh_free (s : State) (c : Nat) (x : EncCh) : (s.setEncCh c x).free = s.free := rfl
@[simp] theorem setEncCh_pending (s : State) (c : Nat) (x : EncCh) : (s.setEncCh c x).pending = s.pending := rfl
@[simp] theorem setEncCh_get_rf (s : State) (c : Nat) (x : EncCh) (g : Fld) : (s.setEncCh c x).rf g = s.rf g := rfl
@[simp] theorem setEncCh_get_bit (s : State) (c : Nat) (x : EncCh) (g : Fld) : (s.setEncCh c x).bit g = s.bit g := rfl
@[simp] theorem setEncCh_get_eng (s : State) (c : Nat) (x : EncCh) (k : Nat) : (s.setEncCh c x).eng k = s.eng k := rfl
@[simp] theorem setEncCh_get_wu (s : State) (c : Nat) (x : EncCh) (k : Nat) : (s.setEncCh c x).wu k = s.wu k := rfl
@[simp] theorem setEncCh_get_chain (s : State) (c : Nat) (x : EncCh) (k : Nat) : (s.setEncCh c x).chain k = s.chain k := rfl
@[simp] theorem setEncCh_get_lane (s : State) (c : Nat) (x : EncCh) (k : Nat) : (s.setEncCh c x).lane k = s.lane k := rfl
@[simp] theorem setEncCh_get_port (s : State) (c : Nat) (x : EncCh) (k : Nat) : (s.setEncCh c x).port k = s.port k := rfl
@[simp] theorem setEncCh_get_strip (s : State) (c : Nat) (x : EncCh) (k : Nat) : (s.setEncCh c x).strip k = s.strip k := rfl
@[simp] theorem setEncCh_get_encCh (s : State) (c : Nat) (x : EncCh) (k : Nat) :
    (s.setEncCh c x).encCh k = if k = c then x else s.encCh k := look_put _ _ _ _ _
@[simp] theorem setEncCh_get_genSt (s : State) (c : Nat) (x : EncCh) (k : Nat) : (s.setEncCh c x).genSt k = s.genSt k := rfl
@[simp] theorem setEncCh_get_cmpU (s : State) (c : Nat) (x : EncCh) (k : Nat) : (s.setEncCh c x).cmpU k = s.cmpU k := rfl
@[simp] theorem setEncCh_get_mkOut (s : State) (c : Nat) (x : EncCh) (k : Nat) : (s.setEncCh c x).mkOut k = s.mkOut k := rfl
@[simp] theorem setEncCh_get_str (s : State) (c : Nat) (x : EncCh) (k : Nat) : (s.setEncCh c x).str k = s.str k := rfl
@[simp] theorem setEncCh_get_sp (s : State) (c : Nat) (x : EncCh) (k : Nat) : (s.setEncCh c x).sp k = s.sp k := rfl
@[simp] theorem setEncCh_get_ring (s : State) (c : Nat) (x : EncCh) (k : Nat) : (s.setEncCh c x).ring k = s.ring k := rfl

/-! ### setSerCh -/

@[simp] theorem setSerCh_regs (s : State) (k : Nat) (x : SerCh) : (s.setSerCh k x).regs = s.regs := rfl
@[simp] theorem setSerCh_readData (s : State) (k : Nat) (x : SerCh) : (s.setSerCh k x).readData = s.readData := rfl
@[simp] theorem setSerCh_readBytes (s : State) (k : Nat) (x : SerCh) : (s.setSerCh k x).readBytes = s.readBytes := rfl
@[simp] theorem setSerCh_count (s : State) (k : Nat) (x : SerCh) : (s.setSerCh k x).count = s.count := rfl
@[simp] theorem setSerCh_engines (s : State) (k : Nat) (x : SerCh) : (s.setSerCh k x).engines = s.engines := rfl
@[simp] theorem setSerCh_units (s : State) (k : Nat) (x : SerCh) : (s.setSerCh k x).units = s.units := rfl
@[simp] theorem setSerCh_chains (s : State) (k : Nat) (x : SerCh) : (s.setSerCh k x).chains = s.chains := rfl
@[simp] theorem setSerCh_lanes (s : State) (k : Nat) (x : SerCh) : (s.setSerCh k x).lanes = s.lanes := rfl
@[simp] theorem setSerCh_ports (s : State) (k : Nat) (x : SerCh) : (s.setSerCh k x).ports = s.ports := rfl
@[simp] theorem setSerCh_cad (s : State) (k : Nat) (x : SerCh) : (s.setSerCh k x).cad = s.cad := rfl
@[simp] theorem setSerCh_tests (s : State) (k : Nat) (x : SerCh) : (s.setSerCh k x).tests = s.tests := rfl
@[simp] theorem setSerCh_strips (s : State) (k : Nat) (x : SerCh) : (s.setSerCh k x).strips = s.strips := rfl
@[simp] theorem setSerCh_outbox (s : State) (k : Nat) (x : SerCh) : (s.setSerCh k x).outbox = s.outbox := rfl
@[simp] theorem setSerCh_phase (s : State) (k : Nat) (x : SerCh) : (s.setSerCh k x).phase = s.phase := rfl
@[simp] theorem setSerCh_seam (s : State) (k : Nat) (x : SerCh) : (s.setSerCh k x).seam = s.seam := rfl
@[simp] theorem setSerCh_out (s : State) (k : Nat) (x : SerCh) : (s.setSerCh k x).out = s.out := rfl
@[simp] theorem setSerCh_tc0 (s : State) (k : Nat) (x : SerCh) : (s.setSerCh k x).tc0 = s.tc0 := rfl
@[simp] theorem setSerCh_dma (s : State) (k : Nat) (x : SerCh) : (s.setSerCh k x).dma = s.dma := rfl
@[simp] theorem setSerCh_time (s : State) (k : Nat) (x : SerCh) : (s.setSerCh k x).time = s.time := rfl
@[simp] theorem setSerCh_mgt (s : State) (k : Nat) (x : SerCh) : (s.setSerCh k x).mgt = s.mgt := rfl
@[simp] theorem setSerCh_modes (s : State) (k : Nat) (x : SerCh) : (s.setSerCh k x).modes = s.modes := rfl
@[simp] theorem setSerCh_hub (s : State) (k : Nat) (x : SerCh) : (s.setSerCh k x).hub = s.hub := rfl
@[simp] theorem setSerCh_hubU (s : State) (k : Nat) (x : SerCh) : (s.setSerCh k x).hubU = s.hubU := rfl
@[simp] theorem setSerCh_host (s : State) (k : Nat) (x : SerCh) : (s.setSerCh k x).host = s.host := rfl
@[simp] theorem setSerCh_evq (s : State) (k : Nat) (x : SerCh) : (s.setSerCh k x).evq = s.evq := rfl
@[simp] theorem setSerCh_evSeq (s : State) (k : Nat) (x : SerCh) : (s.setSerCh k x).evSeq = s.evSeq := rfl
@[simp] theorem setSerCh_evLost (s : State) (k : Nat) (x : SerCh) : (s.setSerCh k x).evLost = s.evLost := rfl
@[simp] theorem setSerCh_bbox (s : State) (k : Nat) (x : SerCh) : (s.setSerCh k x).bbox = s.bbox := rfl
@[simp] theorem setSerCh_logq (s : State) (k : Nat) (x : SerCh) : (s.setSerCh k x).logq = s.logq := rfl
@[simp] theorem setSerCh_logCoal (s : State) (k : Nat) (x : SerCh) : (s.setSerCh k x).logCoal = s.logCoal := rfl
@[simp] theorem setSerCh_stamps (s : State) (k : Nat) (x : SerCh) : (s.setSerCh k x).stamps = s.stamps := rfl
@[simp] theorem setSerCh_free (s : State) (k : Nat) (x : SerCh) : (s.setSerCh k x).free = s.free := rfl
@[simp] theorem setSerCh_pending (s : State) (k : Nat) (x : SerCh) : (s.setSerCh k x).pending = s.pending := rfl
@[simp] theorem setSerCh_get_rf (s : State) (k : Nat) (x : SerCh) (g : Fld) : (s.setSerCh k x).rf g = s.rf g := rfl
@[simp] theorem setSerCh_get_bit (s : State) (k : Nat) (x : SerCh) (g : Fld) : (s.setSerCh k x).bit g = s.bit g := rfl
@[simp] theorem setSerCh_get_eng (s : State) (k : Nat) (x : SerCh) (k : Nat) : (s.setSerCh k x).eng k = s.eng k := rfl
@[simp] theorem setSerCh_get_wu (s : State) (k : Nat) (x : SerCh) (k : Nat) : (s.setSerCh k x).wu k = s.wu k := rfl
@[simp] theorem setSerCh_get_chain (s : State) (k : Nat) (x : SerCh) (k : Nat) : (s.setSerCh k x).chain k = s.chain k := rfl
@[simp] theorem setSerCh_get_lane (s : State) (k : Nat) (x : SerCh) (k : Nat) : (s.setSerCh k x).lane k = s.lane k := rfl
@[simp] theorem setSerCh_get_port (s : State) (k : Nat) (x : SerCh) (k : Nat) : (s.setSerCh k x).port k = s.port k := rfl
@[simp] theorem setSerCh_get_strip (s : State) (k : Nat) (x : SerCh) (k : Nat) : (s.setSerCh k x).strip k = s.strip k := rfl
@[simp] theorem setSerCh_get_encCh (s : State) (k : Nat) (x : SerCh) (k : Nat) : (s.setSerCh k x).encCh k = s.encCh k := rfl
@[simp] theorem setSerCh_get_genSt (s : State) (k : Nat) (x : SerCh) (k : Nat) : (s.setSerCh k x).genSt k = s.genSt k := rfl
@[simp] theorem setSerCh_get_cmpU (s : State) (k : Nat) (x : SerCh) (k : Nat) : (s.setSerCh k x).cmpU k = s.cmpU k := rfl
@[simp] theorem setSerCh_get_mkOut (s : State) (k : Nat) (x : SerCh) (k : Nat) : (s.setSerCh k x).mkOut k = s.mkOut k := rfl
@[simp] theorem setSerCh_get_str (s : State) (k : Nat) (x : SerCh) (k : Nat) : (s.setSerCh k x).str k = s.str k := rfl
@[simp] theorem setSerCh_get_sp (s : State) (k : Nat) (x : SerCh) (k : Nat) : (s.setSerCh k x).sp k = s.sp k := rfl
@[simp] theorem setSerCh_get_ring (s : State) (k : Nat) (x : SerCh) (k : Nat) : (s.setSerCh k x).ring k = s.ring k := rfl

/-! ### setDinCh -/

@[simp] theorem setDinCh_regs (s : State) (d : Nat) (x : DinCh) : (s.setDinCh d x).regs = s.regs := rfl
@[simp] theorem setDinCh_readData (s : State) (d : Nat) (x : DinCh) : (s.setDinCh d x).readData = s.readData := rfl
@[simp] theorem setDinCh_readBytes (s : State) (d : Nat) (x : DinCh) : (s.setDinCh d x).readBytes = s.readBytes := rfl
@[simp] theorem setDinCh_count (s : State) (d : Nat) (x : DinCh) : (s.setDinCh d x).count = s.count := rfl
@[simp] theorem setDinCh_engines (s : State) (d : Nat) (x : DinCh) : (s.setDinCh d x).engines = s.engines := rfl
@[simp] theorem setDinCh_units (s : State) (d : Nat) (x : DinCh) : (s.setDinCh d x).units = s.units := rfl
@[simp] theorem setDinCh_chains (s : State) (d : Nat) (x : DinCh) : (s.setDinCh d x).chains = s.chains := rfl
@[simp] theorem setDinCh_lanes (s : State) (d : Nat) (x : DinCh) : (s.setDinCh d x).lanes = s.lanes := rfl
@[simp] theorem setDinCh_ports (s : State) (d : Nat) (x : DinCh) : (s.setDinCh d x).ports = s.ports := rfl
@[simp] theorem setDinCh_cad (s : State) (d : Nat) (x : DinCh) : (s.setDinCh d x).cad = s.cad := rfl
@[simp] theorem setDinCh_tests (s : State) (d : Nat) (x : DinCh) : (s.setDinCh d x).tests = s.tests := rfl
@[simp] theorem setDinCh_strips (s : State) (d : Nat) (x : DinCh) : (s.setDinCh d x).strips = s.strips := rfl
@[simp] theorem setDinCh_outbox (s : State) (d : Nat) (x : DinCh) : (s.setDinCh d x).outbox = s.outbox := rfl
@[simp] theorem setDinCh_phase (s : State) (d : Nat) (x : DinCh) : (s.setDinCh d x).phase = s.phase := rfl
@[simp] theorem setDinCh_seam (s : State) (d : Nat) (x : DinCh) : (s.setDinCh d x).seam = s.seam := rfl
@[simp] theorem setDinCh_out (s : State) (d : Nat) (x : DinCh) : (s.setDinCh d x).out = s.out := rfl
@[simp] theorem setDinCh_tc0 (s : State) (d : Nat) (x : DinCh) : (s.setDinCh d x).tc0 = s.tc0 := rfl
@[simp] theorem setDinCh_dma (s : State) (d : Nat) (x : DinCh) : (s.setDinCh d x).dma = s.dma := rfl
@[simp] theorem setDinCh_time (s : State) (d : Nat) (x : DinCh) : (s.setDinCh d x).time = s.time := rfl
@[simp] theorem setDinCh_mgt (s : State) (d : Nat) (x : DinCh) : (s.setDinCh d x).mgt = s.mgt := rfl
@[simp] theorem setDinCh_modes (s : State) (d : Nat) (x : DinCh) : (s.setDinCh d x).modes = s.modes := rfl
@[simp] theorem setDinCh_hub (s : State) (d : Nat) (x : DinCh) : (s.setDinCh d x).hub = s.hub := rfl
@[simp] theorem setDinCh_hubU (s : State) (d : Nat) (x : DinCh) : (s.setDinCh d x).hubU = s.hubU := rfl
@[simp] theorem setDinCh_host (s : State) (d : Nat) (x : DinCh) : (s.setDinCh d x).host = s.host := rfl
@[simp] theorem setDinCh_evq (s : State) (d : Nat) (x : DinCh) : (s.setDinCh d x).evq = s.evq := rfl
@[simp] theorem setDinCh_evSeq (s : State) (d : Nat) (x : DinCh) : (s.setDinCh d x).evSeq = s.evSeq := rfl
@[simp] theorem setDinCh_evLost (s : State) (d : Nat) (x : DinCh) : (s.setDinCh d x).evLost = s.evLost := rfl
@[simp] theorem setDinCh_bbox (s : State) (d : Nat) (x : DinCh) : (s.setDinCh d x).bbox = s.bbox := rfl
@[simp] theorem setDinCh_logq (s : State) (d : Nat) (x : DinCh) : (s.setDinCh d x).logq = s.logq := rfl
@[simp] theorem setDinCh_logCoal (s : State) (d : Nat) (x : DinCh) : (s.setDinCh d x).logCoal = s.logCoal := rfl
@[simp] theorem setDinCh_stamps (s : State) (d : Nat) (x : DinCh) : (s.setDinCh d x).stamps = s.stamps := rfl
@[simp] theorem setDinCh_free (s : State) (d : Nat) (x : DinCh) : (s.setDinCh d x).free = s.free := rfl
@[simp] theorem setDinCh_pending (s : State) (d : Nat) (x : DinCh) : (s.setDinCh d x).pending = s.pending := rfl
@[simp] theorem setDinCh_get_rf (s : State) (d : Nat) (x : DinCh) (g : Fld) : (s.setDinCh d x).rf g = s.rf g := rfl
@[simp] theorem setDinCh_get_bit (s : State) (d : Nat) (x : DinCh) (g : Fld) : (s.setDinCh d x).bit g = s.bit g := rfl
@[simp] theorem setDinCh_get_eng (s : State) (d : Nat) (x : DinCh) (k : Nat) : (s.setDinCh d x).eng k = s.eng k := rfl
@[simp] theorem setDinCh_get_wu (s : State) (d : Nat) (x : DinCh) (k : Nat) : (s.setDinCh d x).wu k = s.wu k := rfl
@[simp] theorem setDinCh_get_chain (s : State) (d : Nat) (x : DinCh) (k : Nat) : (s.setDinCh d x).chain k = s.chain k := rfl
@[simp] theorem setDinCh_get_lane (s : State) (d : Nat) (x : DinCh) (k : Nat) : (s.setDinCh d x).lane k = s.lane k := rfl
@[simp] theorem setDinCh_get_port (s : State) (d : Nat) (x : DinCh) (k : Nat) : (s.setDinCh d x).port k = s.port k := rfl
@[simp] theorem setDinCh_get_strip (s : State) (d : Nat) (x : DinCh) (k : Nat) : (s.setDinCh d x).strip k = s.strip k := rfl
@[simp] theorem setDinCh_get_encCh (s : State) (d : Nat) (x : DinCh) (k : Nat) : (s.setDinCh d x).encCh k = s.encCh k := rfl
@[simp] theorem setDinCh_get_genSt (s : State) (d : Nat) (x : DinCh) (k : Nat) : (s.setDinCh d x).genSt k = s.genSt k := rfl
@[simp] theorem setDinCh_get_cmpU (s : State) (d : Nat) (x : DinCh) (k : Nat) : (s.setDinCh d x).cmpU k = s.cmpU k := rfl
@[simp] theorem setDinCh_get_mkOut (s : State) (d : Nat) (x : DinCh) (k : Nat) : (s.setDinCh d x).mkOut k = s.mkOut k := rfl
@[simp] theorem setDinCh_get_str (s : State) (d : Nat) (x : DinCh) (k : Nat) : (s.setDinCh d x).str k = s.str k := rfl
@[simp] theorem setDinCh_get_sp (s : State) (d : Nat) (x : DinCh) (k : Nat) : (s.setDinCh d x).sp k = s.sp k := rfl
@[simp] theorem setDinCh_get_ring (s : State) (d : Nat) (x : DinCh) (k : Nat) : (s.setDinCh d x).ring k = s.ring k := rfl

/-! ### setGenSt -/

@[simp] theorem setGenSt_regs (s : State) (n : Nat) (x : GenSt) : (s.setGenSt n x).regs = s.regs := rfl
@[simp] theorem setGenSt_readData (s : State) (n : Nat) (x : GenSt) : (s.setGenSt n x).readData = s.readData := rfl
@[simp] theorem setGenSt_readBytes (s : State) (n : Nat) (x : GenSt) : (s.setGenSt n x).readBytes = s.readBytes := rfl
@[simp] theorem setGenSt_count (s : State) (n : Nat) (x : GenSt) : (s.setGenSt n x).count = s.count := rfl
@[simp] theorem setGenSt_engines (s : State) (n : Nat) (x : GenSt) : (s.setGenSt n x).engines = s.engines := rfl
@[simp] theorem setGenSt_units (s : State) (n : Nat) (x : GenSt) : (s.setGenSt n x).units = s.units := rfl
@[simp] theorem setGenSt_chains (s : State) (n : Nat) (x : GenSt) : (s.setGenSt n x).chains = s.chains := rfl
@[simp] theorem setGenSt_lanes (s : State) (n : Nat) (x : GenSt) : (s.setGenSt n x).lanes = s.lanes := rfl
@[simp] theorem setGenSt_ports (s : State) (n : Nat) (x : GenSt) : (s.setGenSt n x).ports = s.ports := rfl
@[simp] theorem setGenSt_cad (s : State) (n : Nat) (x : GenSt) : (s.setGenSt n x).cad = s.cad := rfl
@[simp] theorem setGenSt_tests (s : State) (n : Nat) (x : GenSt) : (s.setGenSt n x).tests = s.tests := rfl
@[simp] theorem setGenSt_strips (s : State) (n : Nat) (x : GenSt) : (s.setGenSt n x).strips = s.strips := rfl
@[simp] theorem setGenSt_outbox (s : State) (n : Nat) (x : GenSt) : (s.setGenSt n x).outbox = s.outbox := rfl
@[simp] theorem setGenSt_phase (s : State) (n : Nat) (x : GenSt) : (s.setGenSt n x).phase = s.phase := rfl
@[simp] theorem setGenSt_seam (s : State) (n : Nat) (x : GenSt) : (s.setGenSt n x).seam = s.seam := rfl
@[simp] theorem setGenSt_out (s : State) (n : Nat) (x : GenSt) : (s.setGenSt n x).out = s.out := rfl
@[simp] theorem setGenSt_tc0 (s : State) (n : Nat) (x : GenSt) : (s.setGenSt n x).tc0 = s.tc0 := rfl
@[simp] theorem setGenSt_dma (s : State) (n : Nat) (x : GenSt) : (s.setGenSt n x).dma = s.dma := rfl
@[simp] theorem setGenSt_time (s : State) (n : Nat) (x : GenSt) : (s.setGenSt n x).time = s.time := rfl
@[simp] theorem setGenSt_mgt (s : State) (n : Nat) (x : GenSt) : (s.setGenSt n x).mgt = s.mgt := rfl
@[simp] theorem setGenSt_modes (s : State) (n : Nat) (x : GenSt) : (s.setGenSt n x).modes = s.modes := rfl
@[simp] theorem setGenSt_hub (s : State) (n : Nat) (x : GenSt) : (s.setGenSt n x).hub = s.hub := rfl
@[simp] theorem setGenSt_hubU (s : State) (n : Nat) (x : GenSt) : (s.setGenSt n x).hubU = s.hubU := rfl
@[simp] theorem setGenSt_host (s : State) (n : Nat) (x : GenSt) : (s.setGenSt n x).host = s.host := rfl
@[simp] theorem setGenSt_evq (s : State) (n : Nat) (x : GenSt) : (s.setGenSt n x).evq = s.evq := rfl
@[simp] theorem setGenSt_evSeq (s : State) (n : Nat) (x : GenSt) : (s.setGenSt n x).evSeq = s.evSeq := rfl
@[simp] theorem setGenSt_evLost (s : State) (n : Nat) (x : GenSt) : (s.setGenSt n x).evLost = s.evLost := rfl
@[simp] theorem setGenSt_bbox (s : State) (n : Nat) (x : GenSt) : (s.setGenSt n x).bbox = s.bbox := rfl
@[simp] theorem setGenSt_logq (s : State) (n : Nat) (x : GenSt) : (s.setGenSt n x).logq = s.logq := rfl
@[simp] theorem setGenSt_logCoal (s : State) (n : Nat) (x : GenSt) : (s.setGenSt n x).logCoal = s.logCoal := rfl
@[simp] theorem setGenSt_stamps (s : State) (n : Nat) (x : GenSt) : (s.setGenSt n x).stamps = s.stamps := rfl
@[simp] theorem setGenSt_free (s : State) (n : Nat) (x : GenSt) : (s.setGenSt n x).free = s.free := rfl
@[simp] theorem setGenSt_pending (s : State) (n : Nat) (x : GenSt) : (s.setGenSt n x).pending = s.pending := rfl
@[simp] theorem setGenSt_get_rf (s : State) (n : Nat) (x : GenSt) (g : Fld) : (s.setGenSt n x).rf g = s.rf g := rfl
@[simp] theorem setGenSt_get_bit (s : State) (n : Nat) (x : GenSt) (g : Fld) : (s.setGenSt n x).bit g = s.bit g := rfl
@[simp] theorem setGenSt_get_eng (s : State) (n : Nat) (x : GenSt) (k : Nat) : (s.setGenSt n x).eng k = s.eng k := rfl
@[simp] theorem setGenSt_get_wu (s : State) (n : Nat) (x : GenSt) (k : Nat) : (s.setGenSt n x).wu k = s.wu k := rfl
@[simp] theorem setGenSt_get_chain (s : State) (n : Nat) (x : GenSt) (k : Nat) : (s.setGenSt n x).chain k = s.chain k := rfl
@[simp] theorem setGenSt_get_lane (s : State) (n : Nat) (x : GenSt) (k : Nat) : (s.setGenSt n x).lane k = s.lane k := rfl
@[simp] theorem setGenSt_get_port (s : State) (n : Nat) (x : GenSt) (k : Nat) : (s.setGenSt n x).port k = s.port k := rfl
@[simp] theorem setGenSt_get_strip (s : State) (n : Nat) (x : GenSt) (k : Nat) : (s.setGenSt n x).strip k = s.strip k := rfl
@[simp] theorem setGenSt_get_encCh (s : State) (n : Nat) (x : GenSt) (k : Nat) : (s.setGenSt n x).encCh k = s.encCh k := rfl
@[simp] theorem setGenSt_get_genSt (s : State) (n : Nat) (x : GenSt) (k : Nat) :
    (s.setGenSt n x).genSt k = if k = n then x else s.genSt k := look_put _ _ _ _ _
@[simp] theorem setGenSt_get_cmpU (s : State) (n : Nat) (x : GenSt) (k : Nat) : (s.setGenSt n x).cmpU k = s.cmpU k := rfl
@[simp] theorem setGenSt_get_mkOut (s : State) (n : Nat) (x : GenSt) (k : Nat) : (s.setGenSt n x).mkOut k = s.mkOut k := rfl
@[simp] theorem setGenSt_get_str (s : State) (n : Nat) (x : GenSt) (k : Nat) : (s.setGenSt n x).str k = s.str k := rfl
@[simp] theorem setGenSt_get_sp (s : State) (n : Nat) (x : GenSt) (k : Nat) : (s.setGenSt n x).sp k = s.sp k := rfl
@[simp] theorem setGenSt_get_ring (s : State) (n : Nat) (x : GenSt) (k : Nat) : (s.setGenSt n x).ring k = s.ring k := rfl

/-! ### setCmpU -/

@[simp] theorem setCmpU_regs (s : State) (u : Nat) (x : CmpUnit) : (s.setCmpU u x).regs = s.regs := rfl
@[simp] theorem setCmpU_readData (s : State) (u : Nat) (x : CmpUnit) : (s.setCmpU u x).readData = s.readData := rfl
@[simp] theorem setCmpU_readBytes (s : State) (u : Nat) (x : CmpUnit) : (s.setCmpU u x).readBytes = s.readBytes := rfl
@[simp] theorem setCmpU_count (s : State) (u : Nat) (x : CmpUnit) : (s.setCmpU u x).count = s.count := rfl
@[simp] theorem setCmpU_engines (s : State) (u : Nat) (x : CmpUnit) : (s.setCmpU u x).engines = s.engines := rfl
@[simp] theorem setCmpU_units (s : State) (u : Nat) (x : CmpUnit) : (s.setCmpU u x).units = s.units := rfl
@[simp] theorem setCmpU_chains (s : State) (u : Nat) (x : CmpUnit) : (s.setCmpU u x).chains = s.chains := rfl
@[simp] theorem setCmpU_lanes (s : State) (u : Nat) (x : CmpUnit) : (s.setCmpU u x).lanes = s.lanes := rfl
@[simp] theorem setCmpU_ports (s : State) (u : Nat) (x : CmpUnit) : (s.setCmpU u x).ports = s.ports := rfl
@[simp] theorem setCmpU_cad (s : State) (u : Nat) (x : CmpUnit) : (s.setCmpU u x).cad = s.cad := rfl
@[simp] theorem setCmpU_tests (s : State) (u : Nat) (x : CmpUnit) : (s.setCmpU u x).tests = s.tests := rfl
@[simp] theorem setCmpU_strips (s : State) (u : Nat) (x : CmpUnit) : (s.setCmpU u x).strips = s.strips := rfl
@[simp] theorem setCmpU_outbox (s : State) (u : Nat) (x : CmpUnit) : (s.setCmpU u x).outbox = s.outbox := rfl
@[simp] theorem setCmpU_phase (s : State) (u : Nat) (x : CmpUnit) : (s.setCmpU u x).phase = s.phase := rfl
@[simp] theorem setCmpU_seam (s : State) (u : Nat) (x : CmpUnit) : (s.setCmpU u x).seam = s.seam := rfl
@[simp] theorem setCmpU_out (s : State) (u : Nat) (x : CmpUnit) : (s.setCmpU u x).out = s.out := rfl
@[simp] theorem setCmpU_tc0 (s : State) (u : Nat) (x : CmpUnit) : (s.setCmpU u x).tc0 = s.tc0 := rfl
@[simp] theorem setCmpU_dma (s : State) (u : Nat) (x : CmpUnit) : (s.setCmpU u x).dma = s.dma := rfl
@[simp] theorem setCmpU_time (s : State) (u : Nat) (x : CmpUnit) : (s.setCmpU u x).time = s.time := rfl
@[simp] theorem setCmpU_mgt (s : State) (u : Nat) (x : CmpUnit) : (s.setCmpU u x).mgt = s.mgt := rfl
@[simp] theorem setCmpU_modes (s : State) (u : Nat) (x : CmpUnit) : (s.setCmpU u x).modes = s.modes := rfl
@[simp] theorem setCmpU_hub (s : State) (u : Nat) (x : CmpUnit) : (s.setCmpU u x).hub = s.hub := rfl
@[simp] theorem setCmpU_hubU (s : State) (u : Nat) (x : CmpUnit) : (s.setCmpU u x).hubU = s.hubU := rfl
@[simp] theorem setCmpU_host (s : State) (u : Nat) (x : CmpUnit) : (s.setCmpU u x).host = s.host := rfl
@[simp] theorem setCmpU_evq (s : State) (u : Nat) (x : CmpUnit) : (s.setCmpU u x).evq = s.evq := rfl
@[simp] theorem setCmpU_evSeq (s : State) (u : Nat) (x : CmpUnit) : (s.setCmpU u x).evSeq = s.evSeq := rfl
@[simp] theorem setCmpU_evLost (s : State) (u : Nat) (x : CmpUnit) : (s.setCmpU u x).evLost = s.evLost := rfl
@[simp] theorem setCmpU_bbox (s : State) (u : Nat) (x : CmpUnit) : (s.setCmpU u x).bbox = s.bbox := rfl
@[simp] theorem setCmpU_logq (s : State) (u : Nat) (x : CmpUnit) : (s.setCmpU u x).logq = s.logq := rfl
@[simp] theorem setCmpU_logCoal (s : State) (u : Nat) (x : CmpUnit) : (s.setCmpU u x).logCoal = s.logCoal := rfl
@[simp] theorem setCmpU_stamps (s : State) (u : Nat) (x : CmpUnit) : (s.setCmpU u x).stamps = s.stamps := rfl
@[simp] theorem setCmpU_free (s : State) (u : Nat) (x : CmpUnit) : (s.setCmpU u x).free = s.free := rfl
@[simp] theorem setCmpU_pending (s : State) (u : Nat) (x : CmpUnit) : (s.setCmpU u x).pending = s.pending := rfl
@[simp] theorem setCmpU_get_rf (s : State) (u : Nat) (x : CmpUnit) (g : Fld) : (s.setCmpU u x).rf g = s.rf g := rfl
@[simp] theorem setCmpU_get_bit (s : State) (u : Nat) (x : CmpUnit) (g : Fld) : (s.setCmpU u x).bit g = s.bit g := rfl
@[simp] theorem setCmpU_get_eng (s : State) (u : Nat) (x : CmpUnit) (k : Nat) : (s.setCmpU u x).eng k = s.eng k := rfl
@[simp] theorem setCmpU_get_wu (s : State) (u : Nat) (x : CmpUnit) (k : Nat) : (s.setCmpU u x).wu k = s.wu k := rfl
@[simp] theorem setCmpU_get_chain (s : State) (u : Nat) (x : CmpUnit) (k : Nat) : (s.setCmpU u x).chain k = s.chain k := rfl
@[simp] theorem setCmpU_get_lane (s : State) (u : Nat) (x : CmpUnit) (k : Nat) : (s.setCmpU u x).lane k = s.lane k := rfl
@[simp] theorem setCmpU_get_port (s : State) (u : Nat) (x : CmpUnit) (k : Nat) : (s.setCmpU u x).port k = s.port k := rfl
@[simp] theorem setCmpU_get_strip (s : State) (u : Nat) (x : CmpUnit) (k : Nat) : (s.setCmpU u x).strip k = s.strip k := rfl
@[simp] theorem setCmpU_get_encCh (s : State) (u : Nat) (x : CmpUnit) (k : Nat) : (s.setCmpU u x).encCh k = s.encCh k := rfl
@[simp] theorem setCmpU_get_genSt (s : State) (u : Nat) (x : CmpUnit) (k : Nat) : (s.setCmpU u x).genSt k = s.genSt k := rfl
@[simp] theorem setCmpU_get_cmpU (s : State) (u : Nat) (x : CmpUnit) (k : Nat) :
    (s.setCmpU u x).cmpU k = if k = u then x else s.cmpU k := look_put _ _ _ _ _
@[simp] theorem setCmpU_get_mkOut (s : State) (u : Nat) (x : CmpUnit) (k : Nat) : (s.setCmpU u x).mkOut k = s.mkOut k := rfl
@[simp] theorem setCmpU_get_str (s : State) (u : Nat) (x : CmpUnit) (k : Nat) : (s.setCmpU u x).str k = s.str k := rfl
@[simp] theorem setCmpU_get_sp (s : State) (u : Nat) (x : CmpUnit) (k : Nat) : (s.setCmpU u x).sp k = s.sp k := rfl
@[simp] theorem setCmpU_get_ring (s : State) (u : Nat) (x : CmpUnit) (k : Nat) : (s.setCmpU u x).ring k = s.ring k := rfl

/-! ### setMkOut -/

@[simp] theorem setMkOut_regs (s : State) (o : Nat) (x : MkOut) : (s.setMkOut o x).regs = s.regs := rfl
@[simp] theorem setMkOut_readData (s : State) (o : Nat) (x : MkOut) : (s.setMkOut o x).readData = s.readData := rfl
@[simp] theorem setMkOut_readBytes (s : State) (o : Nat) (x : MkOut) : (s.setMkOut o x).readBytes = s.readBytes := rfl
@[simp] theorem setMkOut_count (s : State) (o : Nat) (x : MkOut) : (s.setMkOut o x).count = s.count := rfl
@[simp] theorem setMkOut_engines (s : State) (o : Nat) (x : MkOut) : (s.setMkOut o x).engines = s.engines := rfl
@[simp] theorem setMkOut_units (s : State) (o : Nat) (x : MkOut) : (s.setMkOut o x).units = s.units := rfl
@[simp] theorem setMkOut_chains (s : State) (o : Nat) (x : MkOut) : (s.setMkOut o x).chains = s.chains := rfl
@[simp] theorem setMkOut_lanes (s : State) (o : Nat) (x : MkOut) : (s.setMkOut o x).lanes = s.lanes := rfl
@[simp] theorem setMkOut_ports (s : State) (o : Nat) (x : MkOut) : (s.setMkOut o x).ports = s.ports := rfl
@[simp] theorem setMkOut_cad (s : State) (o : Nat) (x : MkOut) : (s.setMkOut o x).cad = s.cad := rfl
@[simp] theorem setMkOut_tests (s : State) (o : Nat) (x : MkOut) : (s.setMkOut o x).tests = s.tests := rfl
@[simp] theorem setMkOut_strips (s : State) (o : Nat) (x : MkOut) : (s.setMkOut o x).strips = s.strips := rfl
@[simp] theorem setMkOut_outbox (s : State) (o : Nat) (x : MkOut) : (s.setMkOut o x).outbox = s.outbox := rfl
@[simp] theorem setMkOut_phase (s : State) (o : Nat) (x : MkOut) : (s.setMkOut o x).phase = s.phase := rfl
@[simp] theorem setMkOut_seam (s : State) (o : Nat) (x : MkOut) : (s.setMkOut o x).seam = s.seam := rfl
@[simp] theorem setMkOut_out (s : State) (o : Nat) (x : MkOut) : (s.setMkOut o x).out = s.out := rfl
@[simp] theorem setMkOut_tc0 (s : State) (o : Nat) (x : MkOut) : (s.setMkOut o x).tc0 = s.tc0 := rfl
@[simp] theorem setMkOut_dma (s : State) (o : Nat) (x : MkOut) : (s.setMkOut o x).dma = s.dma := rfl
@[simp] theorem setMkOut_time (s : State) (o : Nat) (x : MkOut) : (s.setMkOut o x).time = s.time := rfl
@[simp] theorem setMkOut_mgt (s : State) (o : Nat) (x : MkOut) : (s.setMkOut o x).mgt = s.mgt := rfl
@[simp] theorem setMkOut_modes (s : State) (o : Nat) (x : MkOut) : (s.setMkOut o x).modes = s.modes := rfl
@[simp] theorem setMkOut_hub (s : State) (o : Nat) (x : MkOut) : (s.setMkOut o x).hub = s.hub := rfl
@[simp] theorem setMkOut_hubU (s : State) (o : Nat) (x : MkOut) : (s.setMkOut o x).hubU = s.hubU := rfl
@[simp] theorem setMkOut_host (s : State) (o : Nat) (x : MkOut) : (s.setMkOut o x).host = s.host := rfl
@[simp] theorem setMkOut_evq (s : State) (o : Nat) (x : MkOut) : (s.setMkOut o x).evq = s.evq := rfl
@[simp] theorem setMkOut_evSeq (s : State) (o : Nat) (x : MkOut) : (s.setMkOut o x).evSeq = s.evSeq := rfl
@[simp] theorem setMkOut_evLost (s : State) (o : Nat) (x : MkOut) : (s.setMkOut o x).evLost = s.evLost := rfl
@[simp] theorem setMkOut_bbox (s : State) (o : Nat) (x : MkOut) : (s.setMkOut o x).bbox = s.bbox := rfl
@[simp] theorem setMkOut_logq (s : State) (o : Nat) (x : MkOut) : (s.setMkOut o x).logq = s.logq := rfl
@[simp] theorem setMkOut_logCoal (s : State) (o : Nat) (x : MkOut) : (s.setMkOut o x).logCoal = s.logCoal := rfl
@[simp] theorem setMkOut_stamps (s : State) (o : Nat) (x : MkOut) : (s.setMkOut o x).stamps = s.stamps := rfl
@[simp] theorem setMkOut_free (s : State) (o : Nat) (x : MkOut) : (s.setMkOut o x).free = s.free := rfl
@[simp] theorem setMkOut_pending (s : State) (o : Nat) (x : MkOut) : (s.setMkOut o x).pending = s.pending := rfl
@[simp] theorem setMkOut_get_rf (s : State) (o : Nat) (x : MkOut) (g : Fld) : (s.setMkOut o x).rf g = s.rf g := rfl
@[simp] theorem setMkOut_get_bit (s : State) (o : Nat) (x : MkOut) (g : Fld) : (s.setMkOut o x).bit g = s.bit g := rfl
@[simp] theorem setMkOut_get_eng (s : State) (o : Nat) (x : MkOut) (k : Nat) : (s.setMkOut o x).eng k = s.eng k := rfl
@[simp] theorem setMkOut_get_wu (s : State) (o : Nat) (x : MkOut) (k : Nat) : (s.setMkOut o x).wu k = s.wu k := rfl
@[simp] theorem setMkOut_get_chain (s : State) (o : Nat) (x : MkOut) (k : Nat) : (s.setMkOut o x).chain k = s.chain k := rfl
@[simp] theorem setMkOut_get_lane (s : State) (o : Nat) (x : MkOut) (k : Nat) : (s.setMkOut o x).lane k = s.lane k := rfl
@[simp] theorem setMkOut_get_port (s : State) (o : Nat) (x : MkOut) (k : Nat) : (s.setMkOut o x).port k = s.port k := rfl
@[simp] theorem setMkOut_get_strip (s : State) (o : Nat) (x : MkOut) (k : Nat) : (s.setMkOut o x).strip k = s.strip k := rfl
@[simp] theorem setMkOut_get_encCh (s : State) (o : Nat) (x : MkOut) (k : Nat) : (s.setMkOut o x).encCh k = s.encCh k := rfl
@[simp] theorem setMkOut_get_genSt (s : State) (o : Nat) (x : MkOut) (k : Nat) : (s.setMkOut o x).genSt k = s.genSt k := rfl
@[simp] theorem setMkOut_get_cmpU (s : State) (o : Nat) (x : MkOut) (k : Nat) : (s.setMkOut o x).cmpU k = s.cmpU k := rfl
@[simp] theorem setMkOut_get_mkOut (s : State) (o : Nat) (x : MkOut) (k : Nat) :
    (s.setMkOut o x).mkOut k = if k = o then x else s.mkOut k := look_put _ _ _ _ _
@[simp] theorem setMkOut_get_str (s : State) (o : Nat) (x : MkOut) (k : Nat) : (s.setMkOut o x).str k = s.str k := rfl
@[simp] theorem setMkOut_get_sp (s : State) (o : Nat) (x : MkOut) (k : Nat) : (s.setMkOut o x).sp k = s.sp k := rfl
@[simp] theorem setMkOut_get_ring (s : State) (o : Nat) (x : MkOut) (k : Nat) : (s.setMkOut o x).ring k = s.ring k := rfl

/-! ### setEmuSt -/

@[simp] theorem setEmuSt_regs (s : State) (e : Nat) (x : EmuSt) : (s.setEmuSt e x).regs = s.regs := rfl
@[simp] theorem setEmuSt_readData (s : State) (e : Nat) (x : EmuSt) : (s.setEmuSt e x).readData = s.readData := rfl
@[simp] theorem setEmuSt_readBytes (s : State) (e : Nat) (x : EmuSt) : (s.setEmuSt e x).readBytes = s.readBytes := rfl
@[simp] theorem setEmuSt_count (s : State) (e : Nat) (x : EmuSt) : (s.setEmuSt e x).count = s.count := rfl
@[simp] theorem setEmuSt_engines (s : State) (e : Nat) (x : EmuSt) : (s.setEmuSt e x).engines = s.engines := rfl
@[simp] theorem setEmuSt_units (s : State) (e : Nat) (x : EmuSt) : (s.setEmuSt e x).units = s.units := rfl
@[simp] theorem setEmuSt_chains (s : State) (e : Nat) (x : EmuSt) : (s.setEmuSt e x).chains = s.chains := rfl
@[simp] theorem setEmuSt_lanes (s : State) (e : Nat) (x : EmuSt) : (s.setEmuSt e x).lanes = s.lanes := rfl
@[simp] theorem setEmuSt_ports (s : State) (e : Nat) (x : EmuSt) : (s.setEmuSt e x).ports = s.ports := rfl
@[simp] theorem setEmuSt_cad (s : State) (e : Nat) (x : EmuSt) : (s.setEmuSt e x).cad = s.cad := rfl
@[simp] theorem setEmuSt_tests (s : State) (e : Nat) (x : EmuSt) : (s.setEmuSt e x).tests = s.tests := rfl
@[simp] theorem setEmuSt_strips (s : State) (e : Nat) (x : EmuSt) : (s.setEmuSt e x).strips = s.strips := rfl
@[simp] theorem setEmuSt_outbox (s : State) (e : Nat) (x : EmuSt) : (s.setEmuSt e x).outbox = s.outbox := rfl
@[simp] theorem setEmuSt_phase (s : State) (e : Nat) (x : EmuSt) : (s.setEmuSt e x).phase = s.phase := rfl
@[simp] theorem setEmuSt_seam (s : State) (e : Nat) (x : EmuSt) : (s.setEmuSt e x).seam = s.seam := rfl
@[simp] theorem setEmuSt_out (s : State) (e : Nat) (x : EmuSt) : (s.setEmuSt e x).out = s.out := rfl
@[simp] theorem setEmuSt_tc0 (s : State) (e : Nat) (x : EmuSt) : (s.setEmuSt e x).tc0 = s.tc0 := rfl
@[simp] theorem setEmuSt_dma (s : State) (e : Nat) (x : EmuSt) : (s.setEmuSt e x).dma = s.dma := rfl
@[simp] theorem setEmuSt_time (s : State) (e : Nat) (x : EmuSt) : (s.setEmuSt e x).time = s.time := rfl
@[simp] theorem setEmuSt_mgt (s : State) (e : Nat) (x : EmuSt) : (s.setEmuSt e x).mgt = s.mgt := rfl
@[simp] theorem setEmuSt_modes (s : State) (e : Nat) (x : EmuSt) : (s.setEmuSt e x).modes = s.modes := rfl
@[simp] theorem setEmuSt_hub (s : State) (e : Nat) (x : EmuSt) : (s.setEmuSt e x).hub = s.hub := rfl
@[simp] theorem setEmuSt_hubU (s : State) (e : Nat) (x : EmuSt) : (s.setEmuSt e x).hubU = s.hubU := rfl
@[simp] theorem setEmuSt_host (s : State) (e : Nat) (x : EmuSt) : (s.setEmuSt e x).host = s.host := rfl
@[simp] theorem setEmuSt_evq (s : State) (e : Nat) (x : EmuSt) : (s.setEmuSt e x).evq = s.evq := rfl
@[simp] theorem setEmuSt_evSeq (s : State) (e : Nat) (x : EmuSt) : (s.setEmuSt e x).evSeq = s.evSeq := rfl
@[simp] theorem setEmuSt_evLost (s : State) (e : Nat) (x : EmuSt) : (s.setEmuSt e x).evLost = s.evLost := rfl
@[simp] theorem setEmuSt_bbox (s : State) (e : Nat) (x : EmuSt) : (s.setEmuSt e x).bbox = s.bbox := rfl
@[simp] theorem setEmuSt_logq (s : State) (e : Nat) (x : EmuSt) : (s.setEmuSt e x).logq = s.logq := rfl
@[simp] theorem setEmuSt_logCoal (s : State) (e : Nat) (x : EmuSt) : (s.setEmuSt e x).logCoal = s.logCoal := rfl
@[simp] theorem setEmuSt_stamps (s : State) (e : Nat) (x : EmuSt) : (s.setEmuSt e x).stamps = s.stamps := rfl
@[simp] theorem setEmuSt_free (s : State) (e : Nat) (x : EmuSt) : (s.setEmuSt e x).free = s.free := rfl
@[simp] theorem setEmuSt_pending (s : State) (e : Nat) (x : EmuSt) : (s.setEmuSt e x).pending = s.pending := rfl
@[simp] theorem setEmuSt_get_rf (s : State) (e : Nat) (x : EmuSt) (g : Fld) : (s.setEmuSt e x).rf g = s.rf g := rfl
@[simp] theorem setEmuSt_get_bit (s : State) (e : Nat) (x : EmuSt) (g : Fld) : (s.setEmuSt e x).bit g = s.bit g := rfl
@[simp] theorem setEmuSt_get_eng (s : State) (e : Nat) (x : EmuSt) (k : Nat) : (s.setEmuSt e x).eng k = s.eng k := rfl
@[simp] theorem setEmuSt_get_wu (s : State) (e : Nat) (x : EmuSt) (k : Nat) : (s.setEmuSt e x).wu k = s.wu k := rfl
@[simp] theorem setEmuSt_get_chain (s : State) (e : Nat) (x : EmuSt) (k : Nat) : (s.setEmuSt e x).chain k = s.chain k := rfl
@[simp] theorem setEmuSt_get_lane (s : State) (e : Nat) (x : EmuSt) (k : Nat) : (s.setEmuSt e x).lane k = s.lane k := rfl
@[simp] theorem setEmuSt_get_port (s : State) (e : Nat) (x : EmuSt) (k : Nat) : (s.setEmuSt e x).port k = s.port k := rfl
@[simp] theorem setEmuSt_get_strip (s : State) (e : Nat) (x : EmuSt) (k : Nat) : (s.setEmuSt e x).strip k = s.strip k := rfl
@[simp] theorem setEmuSt_get_encCh (s : State) (e : Nat) (x : EmuSt) (k : Nat) : (s.setEmuSt e x).encCh k = s.encCh k := rfl
@[simp] theorem setEmuSt_get_genSt (s : State) (e : Nat) (x : EmuSt) (k : Nat) : (s.setEmuSt e x).genSt k = s.genSt k := rfl
@[simp] theorem setEmuSt_get_cmpU (s : State) (e : Nat) (x : EmuSt) (k : Nat) : (s.setEmuSt e x).cmpU k = s.cmpU k := rfl
@[simp] theorem setEmuSt_get_mkOut (s : State) (e : Nat) (x : EmuSt) (k : Nat) : (s.setEmuSt e x).mkOut k = s.mkOut k := rfl
@[simp] theorem setEmuSt_get_str (s : State) (e : Nat) (x : EmuSt) (k : Nat) : (s.setEmuSt e x).str k = s.str k := rfl
@[simp] theorem setEmuSt_get_sp (s : State) (e : Nat) (x : EmuSt) (k : Nat) : (s.setEmuSt e x).sp k = s.sp k := rfl
@[simp] theorem setEmuSt_get_ring (s : State) (e : Nat) (x : EmuSt) (k : Nat) : (s.setEmuSt e x).ring k = s.ring k := rfl

/-! ### setStr -/

@[simp] theorem setStr_regs (s : State) (j : Nat) (x : StreamSt) : (s.setStr j x).regs = s.regs := rfl
@[simp] theorem setStr_readData (s : State) (j : Nat) (x : StreamSt) : (s.setStr j x).readData = s.readData := rfl
@[simp] theorem setStr_readBytes (s : State) (j : Nat) (x : StreamSt) : (s.setStr j x).readBytes = s.readBytes := rfl
@[simp] theorem setStr_count (s : State) (j : Nat) (x : StreamSt) : (s.setStr j x).count = s.count := rfl
@[simp] theorem setStr_engines (s : State) (j : Nat) (x : StreamSt) : (s.setStr j x).engines = s.engines := rfl
@[simp] theorem setStr_units (s : State) (j : Nat) (x : StreamSt) : (s.setStr j x).units = s.units := rfl
@[simp] theorem setStr_chains (s : State) (j : Nat) (x : StreamSt) : (s.setStr j x).chains = s.chains := rfl
@[simp] theorem setStr_lanes (s : State) (j : Nat) (x : StreamSt) : (s.setStr j x).lanes = s.lanes := rfl
@[simp] theorem setStr_ports (s : State) (j : Nat) (x : StreamSt) : (s.setStr j x).ports = s.ports := rfl
@[simp] theorem setStr_cad (s : State) (j : Nat) (x : StreamSt) : (s.setStr j x).cad = s.cad := rfl
@[simp] theorem setStr_tests (s : State) (j : Nat) (x : StreamSt) : (s.setStr j x).tests = s.tests := rfl
@[simp] theorem setStr_pos (s : State) (j : Nat) (x : StreamSt) : (s.setStr j x).pos = s.pos := rfl
@[simp] theorem setStr_strips (s : State) (j : Nat) (x : StreamSt) : (s.setStr j x).strips = s.strips := rfl
@[simp] theorem setStr_outbox (s : State) (j : Nat) (x : StreamSt) : (s.setStr j x).outbox = s.outbox := rfl
@[simp] theorem setStr_phase (s : State) (j : Nat) (x : StreamSt) : (s.setStr j x).phase = s.phase := rfl
@[simp] theorem setStr_seam (s : State) (j : Nat) (x : StreamSt) : (s.setStr j x).seam = s.seam := rfl
@[simp] theorem setStr_tc0 (s : State) (j : Nat) (x : StreamSt) : (s.setStr j x).tc0 = s.tc0 := rfl
@[simp] theorem setStr_dma (s : State) (j : Nat) (x : StreamSt) : (s.setStr j x).dma = s.dma := rfl
@[simp] theorem setStr_time (s : State) (j : Nat) (x : StreamSt) : (s.setStr j x).time = s.time := rfl
@[simp] theorem setStr_mgt (s : State) (j : Nat) (x : StreamSt) : (s.setStr j x).mgt = s.mgt := rfl
@[simp] theorem setStr_modes (s : State) (j : Nat) (x : StreamSt) : (s.setStr j x).modes = s.modes := rfl
@[simp] theorem setStr_hub (s : State) (j : Nat) (x : StreamSt) : (s.setStr j x).hub = s.hub := rfl
@[simp] theorem setStr_hubU (s : State) (j : Nat) (x : StreamSt) : (s.setStr j x).hubU = s.hubU := rfl
@[simp] theorem setStr_host (s : State) (j : Nat) (x : StreamSt) : (s.setStr j x).host = s.host := rfl
@[simp] theorem setStr_evq (s : State) (j : Nat) (x : StreamSt) : (s.setStr j x).evq = s.evq := rfl
@[simp] theorem setStr_evSeq (s : State) (j : Nat) (x : StreamSt) : (s.setStr j x).evSeq = s.evSeq := rfl
@[simp] theorem setStr_evLost (s : State) (j : Nat) (x : StreamSt) : (s.setStr j x).evLost = s.evLost := rfl
@[simp] theorem setStr_bbox (s : State) (j : Nat) (x : StreamSt) : (s.setStr j x).bbox = s.bbox := rfl
@[simp] theorem setStr_logq (s : State) (j : Nat) (x : StreamSt) : (s.setStr j x).logq = s.logq := rfl
@[simp] theorem setStr_logCoal (s : State) (j : Nat) (x : StreamSt) : (s.setStr j x).logCoal = s.logCoal := rfl
@[simp] theorem setStr_stamps (s : State) (j : Nat) (x : StreamSt) : (s.setStr j x).stamps = s.stamps := rfl
@[simp] theorem setStr_free (s : State) (j : Nat) (x : StreamSt) : (s.setStr j x).free = s.free := rfl
@[simp] theorem setStr_pending (s : State) (j : Nat) (x : StreamSt) : (s.setStr j x).pending = s.pending := rfl
@[simp] theorem setStr_get_rf (s : State) (j : Nat) (x : StreamSt) (g : Fld) : (s.setStr j x).rf g = s.rf g := rfl
@[simp] theorem setStr_get_bit (s : State) (j : Nat) (x : StreamSt) (g : Fld) : (s.setStr j x).bit g = s.bit g := rfl
@[simp] theorem setStr_get_eng (s : State) (j : Nat) (x : StreamSt) (k : Nat) : (s.setStr j x).eng k = s.eng k := rfl
@[simp] theorem setStr_get_wu (s : State) (j : Nat) (x : StreamSt) (k : Nat) : (s.setStr j x).wu k = s.wu k := rfl
@[simp] theorem setStr_get_chain (s : State) (j : Nat) (x : StreamSt) (k : Nat) : (s.setStr j x).chain k = s.chain k := rfl
@[simp] theorem setStr_get_lane (s : State) (j : Nat) (x : StreamSt) (k : Nat) : (s.setStr j x).lane k = s.lane k := rfl
@[simp] theorem setStr_get_port (s : State) (j : Nat) (x : StreamSt) (k : Nat) : (s.setStr j x).port k = s.port k := rfl
@[simp] theorem setStr_get_strip (s : State) (j : Nat) (x : StreamSt) (k : Nat) : (s.setStr j x).strip k = s.strip k := rfl
@[simp] theorem setStr_get_encCh (s : State) (j : Nat) (x : StreamSt) (k : Nat) : (s.setStr j x).encCh k = s.encCh k := rfl
@[simp] theorem setStr_get_genSt (s : State) (j : Nat) (x : StreamSt) (k : Nat) : (s.setStr j x).genSt k = s.genSt k := rfl
@[simp] theorem setStr_get_cmpU (s : State) (j : Nat) (x : StreamSt) (k : Nat) : (s.setStr j x).cmpU k = s.cmpU k := rfl
@[simp] theorem setStr_get_mkOut (s : State) (j : Nat) (x : StreamSt) (k : Nat) : (s.setStr j x).mkOut k = s.mkOut k := rfl
@[simp] theorem setStr_get_str (s : State) (j : Nat) (x : StreamSt) (k : Nat) :
    (s.setStr j x).str k = if k = j then x else s.str k := look_put _ _ _ _ _
@[simp] theorem setStr_get_sp (s : State) (j : Nat) (x : StreamSt) (k : Nat) : (s.setStr j x).sp k = s.sp k := rfl
@[simp] theorem setStr_get_ring (s : State) (j : Nat) (x : StreamSt) (k : Nat) : (s.setStr j x).ring k = s.ring k := rfl

/-! ### setSp -/

@[simp] theorem setSp_regs (s : State) (p : Nat) (x : StrPort) : (s.setSp p x).regs = s.regs := rfl
@[simp] theorem setSp_readData (s : State) (p : Nat) (x : StrPort) : (s.setSp p x).readData = s.readData := rfl
@[simp] theorem setSp_readBytes (s : State) (p : Nat) (x : StrPort) : (s.setSp p x).readBytes = s.readBytes := rfl
@[simp] theorem setSp_count (s : State) (p : Nat) (x : StrPort) : (s.setSp p x).count = s.count := rfl
@[simp] theorem setSp_engines (s : State) (p : Nat) (x : StrPort) : (s.setSp p x).engines = s.engines := rfl
@[simp] theorem setSp_units (s : State) (p : Nat) (x : StrPort) : (s.setSp p x).units = s.units := rfl
@[simp] theorem setSp_chains (s : State) (p : Nat) (x : StrPort) : (s.setSp p x).chains = s.chains := rfl
@[simp] theorem setSp_lanes (s : State) (p : Nat) (x : StrPort) : (s.setSp p x).lanes = s.lanes := rfl
@[simp] theorem setSp_ports (s : State) (p : Nat) (x : StrPort) : (s.setSp p x).ports = s.ports := rfl
@[simp] theorem setSp_cad (s : State) (p : Nat) (x : StrPort) : (s.setSp p x).cad = s.cad := rfl
@[simp] theorem setSp_tests (s : State) (p : Nat) (x : StrPort) : (s.setSp p x).tests = s.tests := rfl
@[simp] theorem setSp_pos (s : State) (p : Nat) (x : StrPort) : (s.setSp p x).pos = s.pos := rfl
@[simp] theorem setSp_strips (s : State) (p : Nat) (x : StrPort) : (s.setSp p x).strips = s.strips := rfl
@[simp] theorem setSp_outbox (s : State) (p : Nat) (x : StrPort) : (s.setSp p x).outbox = s.outbox := rfl
@[simp] theorem setSp_phase (s : State) (p : Nat) (x : StrPort) : (s.setSp p x).phase = s.phase := rfl
@[simp] theorem setSp_seam (s : State) (p : Nat) (x : StrPort) : (s.setSp p x).seam = s.seam := rfl
@[simp] theorem setSp_tc0 (s : State) (p : Nat) (x : StrPort) : (s.setSp p x).tc0 = s.tc0 := rfl
@[simp] theorem setSp_dma (s : State) (p : Nat) (x : StrPort) : (s.setSp p x).dma = s.dma := rfl
@[simp] theorem setSp_time (s : State) (p : Nat) (x : StrPort) : (s.setSp p x).time = s.time := rfl
@[simp] theorem setSp_mgt (s : State) (p : Nat) (x : StrPort) : (s.setSp p x).mgt = s.mgt := rfl
@[simp] theorem setSp_modes (s : State) (p : Nat) (x : StrPort) : (s.setSp p x).modes = s.modes := rfl
@[simp] theorem setSp_hub (s : State) (p : Nat) (x : StrPort) : (s.setSp p x).hub = s.hub := rfl
@[simp] theorem setSp_hubU (s : State) (p : Nat) (x : StrPort) : (s.setSp p x).hubU = s.hubU := rfl
@[simp] theorem setSp_host (s : State) (p : Nat) (x : StrPort) : (s.setSp p x).host = s.host := rfl
@[simp] theorem setSp_evq (s : State) (p : Nat) (x : StrPort) : (s.setSp p x).evq = s.evq := rfl
@[simp] theorem setSp_evSeq (s : State) (p : Nat) (x : StrPort) : (s.setSp p x).evSeq = s.evSeq := rfl
@[simp] theorem setSp_evLost (s : State) (p : Nat) (x : StrPort) : (s.setSp p x).evLost = s.evLost := rfl
@[simp] theorem setSp_bbox (s : State) (p : Nat) (x : StrPort) : (s.setSp p x).bbox = s.bbox := rfl
@[simp] theorem setSp_logq (s : State) (p : Nat) (x : StrPort) : (s.setSp p x).logq = s.logq := rfl
@[simp] theorem setSp_logCoal (s : State) (p : Nat) (x : StrPort) : (s.setSp p x).logCoal = s.logCoal := rfl
@[simp] theorem setSp_stamps (s : State) (p : Nat) (x : StrPort) : (s.setSp p x).stamps = s.stamps := rfl
@[simp] theorem setSp_free (s : State) (p : Nat) (x : StrPort) : (s.setSp p x).free = s.free := rfl
@[simp] theorem setSp_pending (s : State) (p : Nat) (x : StrPort) : (s.setSp p x).pending = s.pending := rfl
@[simp] theorem setSp_get_rf (s : State) (p : Nat) (x : StrPort) (g : Fld) : (s.setSp p x).rf g = s.rf g := rfl
@[simp] theorem setSp_get_bit (s : State) (p : Nat) (x : StrPort) (g : Fld) : (s.setSp p x).bit g = s.bit g := rfl
@[simp] theorem setSp_get_eng (s : State) (p : Nat) (x : StrPort) (k : Nat) : (s.setSp p x).eng k = s.eng k := rfl
@[simp] theorem setSp_get_wu (s : State) (p : Nat) (x : StrPort) (k : Nat) : (s.setSp p x).wu k = s.wu k := rfl
@[simp] theorem setSp_get_chain (s : State) (p : Nat) (x : StrPort) (k : Nat) : (s.setSp p x).chain k = s.chain k := rfl
@[simp] theorem setSp_get_lane (s : State) (p : Nat) (x : StrPort) (k : Nat) : (s.setSp p x).lane k = s.lane k := rfl
@[simp] theorem setSp_get_port (s : State) (p : Nat) (x : StrPort) (k : Nat) : (s.setSp p x).port k = s.port k := rfl
@[simp] theorem setSp_get_strip (s : State) (p : Nat) (x : StrPort) (k : Nat) : (s.setSp p x).strip k = s.strip k := rfl
@[simp] theorem setSp_get_encCh (s : State) (p : Nat) (x : StrPort) (k : Nat) : (s.setSp p x).encCh k = s.encCh k := rfl
@[simp] theorem setSp_get_genSt (s : State) (p : Nat) (x : StrPort) (k : Nat) : (s.setSp p x).genSt k = s.genSt k := rfl
@[simp] theorem setSp_get_cmpU (s : State) (p : Nat) (x : StrPort) (k : Nat) : (s.setSp p x).cmpU k = s.cmpU k := rfl
@[simp] theorem setSp_get_mkOut (s : State) (p : Nat) (x : StrPort) (k : Nat) : (s.setSp p x).mkOut k = s.mkOut k := rfl
@[simp] theorem setSp_get_str (s : State) (p : Nat) (x : StrPort) (k : Nat) : (s.setSp p x).str k = s.str k := rfl
@[simp] theorem setSp_get_sp (s : State) (p : Nat) (x : StrPort) (k : Nat) :
    (s.setSp p x).sp k = if k = p then x else s.sp k := look_put _ _ _ _ _
@[simp] theorem setSp_get_ring (s : State) (p : Nat) (x : StrPort) (k : Nat) : (s.setSp p x).ring k = s.ring k := rfl

/-! ### setRing -/

@[simp] theorem setRing_regs (s : State) (r : Nat) (x : RingSt) : (s.setRing r x).regs = s.regs := rfl
@[simp] theorem setRing_readData (s : State) (r : Nat) (x : RingSt) : (s.setRing r x).readData = s.readData := rfl
@[simp] theorem setRing_readBytes (s : State) (r : Nat) (x : RingSt) : (s.setRing r x).readBytes = s.readBytes := rfl
@[simp] theorem setRing_count (s : State) (r : Nat) (x : RingSt) : (s.setRing r x).count = s.count := rfl
@[simp] theorem setRing_engines (s : State) (r : Nat) (x : RingSt) : (s.setRing r x).engines = s.engines := rfl
@[simp] theorem setRing_units (s : State) (r : Nat) (x : RingSt) : (s.setRing r x).units = s.units := rfl
@[simp] theorem setRing_chains (s : State) (r : Nat) (x : RingSt) : (s.setRing r x).chains = s.chains := rfl
@[simp] theorem setRing_lanes (s : State) (r : Nat) (x : RingSt) : (s.setRing r x).lanes = s.lanes := rfl
@[simp] theorem setRing_ports (s : State) (r : Nat) (x : RingSt) : (s.setRing r x).ports = s.ports := rfl
@[simp] theorem setRing_cad (s : State) (r : Nat) (x : RingSt) : (s.setRing r x).cad = s.cad := rfl
@[simp] theorem setRing_tests (s : State) (r : Nat) (x : RingSt) : (s.setRing r x).tests = s.tests := rfl
@[simp] theorem setRing_pos (s : State) (r : Nat) (x : RingSt) : (s.setRing r x).pos = s.pos := rfl
@[simp] theorem setRing_strips (s : State) (r : Nat) (x : RingSt) : (s.setRing r x).strips = s.strips := rfl
@[simp] theorem setRing_outbox (s : State) (r : Nat) (x : RingSt) : (s.setRing r x).outbox = s.outbox := rfl
@[simp] theorem setRing_phase (s : State) (r : Nat) (x : RingSt) : (s.setRing r x).phase = s.phase := rfl
@[simp] theorem setRing_seam (s : State) (r : Nat) (x : RingSt) : (s.setRing r x).seam = s.seam := rfl
@[simp] theorem setRing_tc0 (s : State) (r : Nat) (x : RingSt) : (s.setRing r x).tc0 = s.tc0 := rfl
@[simp] theorem setRing_dma (s : State) (r : Nat) (x : RingSt) : (s.setRing r x).dma = s.dma := rfl
@[simp] theorem setRing_time (s : State) (r : Nat) (x : RingSt) : (s.setRing r x).time = s.time := rfl
@[simp] theorem setRing_mgt (s : State) (r : Nat) (x : RingSt) : (s.setRing r x).mgt = s.mgt := rfl
@[simp] theorem setRing_modes (s : State) (r : Nat) (x : RingSt) : (s.setRing r x).modes = s.modes := rfl
@[simp] theorem setRing_hub (s : State) (r : Nat) (x : RingSt) : (s.setRing r x).hub = s.hub := rfl
@[simp] theorem setRing_hubU (s : State) (r : Nat) (x : RingSt) : (s.setRing r x).hubU = s.hubU := rfl
@[simp] theorem setRing_host (s : State) (r : Nat) (x : RingSt) : (s.setRing r x).host = s.host := rfl
@[simp] theorem setRing_evq (s : State) (r : Nat) (x : RingSt) : (s.setRing r x).evq = s.evq := rfl
@[simp] theorem setRing_evSeq (s : State) (r : Nat) (x : RingSt) : (s.setRing r x).evSeq = s.evSeq := rfl
@[simp] theorem setRing_evLost (s : State) (r : Nat) (x : RingSt) : (s.setRing r x).evLost = s.evLost := rfl
@[simp] theorem setRing_bbox (s : State) (r : Nat) (x : RingSt) : (s.setRing r x).bbox = s.bbox := rfl
@[simp] theorem setRing_logq (s : State) (r : Nat) (x : RingSt) : (s.setRing r x).logq = s.logq := rfl
@[simp] theorem setRing_logCoal (s : State) (r : Nat) (x : RingSt) : (s.setRing r x).logCoal = s.logCoal := rfl
@[simp] theorem setRing_stamps (s : State) (r : Nat) (x : RingSt) : (s.setRing r x).stamps = s.stamps := rfl
@[simp] theorem setRing_free (s : State) (r : Nat) (x : RingSt) : (s.setRing r x).free = s.free := rfl
@[simp] theorem setRing_pending (s : State) (r : Nat) (x : RingSt) : (s.setRing r x).pending = s.pending := rfl
@[simp] theorem setRing_get_rf (s : State) (r : Nat) (x : RingSt) (g : Fld) : (s.setRing r x).rf g = s.rf g := rfl
@[simp] theorem setRing_get_bit (s : State) (r : Nat) (x : RingSt) (g : Fld) : (s.setRing r x).bit g = s.bit g := rfl
@[simp] theorem setRing_get_eng (s : State) (r : Nat) (x : RingSt) (k : Nat) : (s.setRing r x).eng k = s.eng k := rfl
@[simp] theorem setRing_get_wu (s : State) (r : Nat) (x : RingSt) (k : Nat) : (s.setRing r x).wu k = s.wu k := rfl
@[simp] theorem setRing_get_chain (s : State) (r : Nat) (x : RingSt) (k : Nat) : (s.setRing r x).chain k = s.chain k := rfl
@[simp] theorem setRing_get_lane (s : State) (r : Nat) (x : RingSt) (k : Nat) : (s.setRing r x).lane k = s.lane k := rfl
@[simp] theorem setRing_get_port (s : State) (r : Nat) (x : RingSt) (k : Nat) : (s.setRing r x).port k = s.port k := rfl
@[simp] theorem setRing_get_strip (s : State) (r : Nat) (x : RingSt) (k : Nat) : (s.setRing r x).strip k = s.strip k := rfl
@[simp] theorem setRing_get_encCh (s : State) (r : Nat) (x : RingSt) (k : Nat) : (s.setRing r x).encCh k = s.encCh k := rfl
@[simp] theorem setRing_get_genSt (s : State) (r : Nat) (x : RingSt) (k : Nat) : (s.setRing r x).genSt k = s.genSt k := rfl
@[simp] theorem setRing_get_cmpU (s : State) (r : Nat) (x : RingSt) (k : Nat) : (s.setRing r x).cmpU k = s.cmpU k := rfl
@[simp] theorem setRing_get_mkOut (s : State) (r : Nat) (x : RingSt) (k : Nat) : (s.setRing r x).mkOut k = s.mkOut k := rfl
@[simp] theorem setRing_get_str (s : State) (r : Nat) (x : RingSt) (k : Nat) : (s.setRing r x).str k = s.str k := rfl
@[simp] theorem setRing_get_sp (s : State) (r : Nat) (x : RingSt) (k : Nat) : (s.setRing r x).sp k = s.sp k := rfl
@[simp] theorem setRing_get_ring (s : State) (r : Nat) (x : RingSt) (k : Nat) :
    (s.setRing r x).ring k = if k = r then x else s.ring k := look_put _ _ _ _ _

/-! ### setHand -/

@[simp] theorem setHand_regs (s : State) (j : Nat) (h : Hand) : (s.setHand j h).regs = s.regs := rfl
@[simp] theorem setHand_readData (s : State) (j : Nat) (h : Hand) : (s.setHand j h).readData = s.readData := rfl
@[simp] theorem setHand_readBytes (s : State) (j : Nat) (h : Hand) : (s.setHand j h).readBytes = s.readBytes := rfl
@[simp] theorem setHand_count (s : State) (j : Nat) (h : Hand) : (s.setHand j h).count = s.count := rfl
@[simp] theorem setHand_engines (s : State) (j : Nat) (h : Hand) : (s.setHand j h).engines = s.engines := rfl
@[simp] theorem setHand_units (s : State) (j : Nat) (h : Hand) : (s.setHand j h).units = s.units := rfl
@[simp] theorem setHand_chains (s : State) (j : Nat) (h : Hand) : (s.setHand j h).chains = s.chains := rfl
@[simp] theorem setHand_lanes (s : State) (j : Nat) (h : Hand) : (s.setHand j h).lanes = s.lanes := rfl
@[simp] theorem setHand_ports (s : State) (j : Nat) (h : Hand) : (s.setHand j h).ports = s.ports := rfl
@[simp] theorem setHand_cad (s : State) (j : Nat) (h : Hand) : (s.setHand j h).cad = s.cad := rfl
@[simp] theorem setHand_tests (s : State) (j : Nat) (h : Hand) : (s.setHand j h).tests = s.tests := rfl
@[simp] theorem setHand_pos (s : State) (j : Nat) (h : Hand) : (s.setHand j h).pos = s.pos := rfl
@[simp] theorem setHand_strips (s : State) (j : Nat) (h : Hand) : (s.setHand j h).strips = s.strips := rfl
@[simp] theorem setHand_outbox (s : State) (j : Nat) (h : Hand) : (s.setHand j h).outbox = s.outbox := rfl
@[simp] theorem setHand_phase (s : State) (j : Nat) (h : Hand) : (s.setHand j h).phase = s.phase := rfl
@[simp] theorem setHand_seam (s : State) (j : Nat) (h : Hand) : (s.setHand j h).seam = s.seam := rfl
@[simp] theorem setHand_tc0 (s : State) (j : Nat) (h : Hand) : (s.setHand j h).tc0 = s.tc0 := rfl
@[simp] theorem setHand_dma (s : State) (j : Nat) (h : Hand) : (s.setHand j h).dma = s.dma := rfl
@[simp] theorem setHand_time (s : State) (j : Nat) (h : Hand) : (s.setHand j h).time = s.time := rfl
@[simp] theorem setHand_mgt (s : State) (j : Nat) (h : Hand) : (s.setHand j h).mgt = s.mgt := rfl
@[simp] theorem setHand_modes (s : State) (j : Nat) (h : Hand) : (s.setHand j h).modes = s.modes := rfl
@[simp] theorem setHand_hub (s : State) (j : Nat) (h : Hand) : (s.setHand j h).hub = s.hub := rfl
@[simp] theorem setHand_hubU (s : State) (j : Nat) (h : Hand) : (s.setHand j h).hubU = s.hubU := rfl
@[simp] theorem setHand_host (s : State) (j : Nat) (h : Hand) : (s.setHand j h).host = s.host := rfl
@[simp] theorem setHand_evq (s : State) (j : Nat) (h : Hand) : (s.setHand j h).evq = s.evq := rfl
@[simp] theorem setHand_evSeq (s : State) (j : Nat) (h : Hand) : (s.setHand j h).evSeq = s.evSeq := rfl
@[simp] theorem setHand_evLost (s : State) (j : Nat) (h : Hand) : (s.setHand j h).evLost = s.evLost := rfl
@[simp] theorem setHand_bbox (s : State) (j : Nat) (h : Hand) : (s.setHand j h).bbox = s.bbox := rfl
@[simp] theorem setHand_logq (s : State) (j : Nat) (h : Hand) : (s.setHand j h).logq = s.logq := rfl
@[simp] theorem setHand_logCoal (s : State) (j : Nat) (h : Hand) : (s.setHand j h).logCoal = s.logCoal := rfl
@[simp] theorem setHand_stamps (s : State) (j : Nat) (h : Hand) : (s.setHand j h).stamps = s.stamps := rfl
@[simp] theorem setHand_free (s : State) (j : Nat) (h : Hand) : (s.setHand j h).free = s.free := rfl
@[simp] theorem setHand_pending (s : State) (j : Nat) (h : Hand) : (s.setHand j h).pending = s.pending := rfl
@[simp] theorem setHand_get_rf (s : State) (j : Nat) (h : Hand) (g : Fld) : (s.setHand j h).rf g = s.rf g := rfl
@[simp] theorem setHand_get_bit (s : State) (j : Nat) (h : Hand) (g : Fld) : (s.setHand j h).bit g = s.bit g := rfl
@[simp] theorem setHand_get_eng (s : State) (j : Nat) (h : Hand) (k : Nat) : (s.setHand j h).eng k = s.eng k := rfl
@[simp] theorem setHand_get_wu (s : State) (j : Nat) (h : Hand) (k : Nat) : (s.setHand j h).wu k = s.wu k := rfl
@[simp] theorem setHand_get_chain (s : State) (j : Nat) (h : Hand) (k : Nat) : (s.setHand j h).chain k = s.chain k := rfl
@[simp] theorem setHand_get_lane (s : State) (j : Nat) (h : Hand) (k : Nat) : (s.setHand j h).lane k = s.lane k := rfl
@[simp] theorem setHand_get_port (s : State) (j : Nat) (h : Hand) (k : Nat) : (s.setHand j h).port k = s.port k := rfl
@[simp] theorem setHand_get_strip (s : State) (j : Nat) (h : Hand) (k : Nat) : (s.setHand j h).strip k = s.strip k := rfl
@[simp] theorem setHand_get_encCh (s : State) (j : Nat) (h : Hand) (k : Nat) : (s.setHand j h).encCh k = s.encCh k := rfl
@[simp] theorem setHand_get_genSt (s : State) (j : Nat) (h : Hand) (k : Nat) : (s.setHand j h).genSt k = s.genSt k := rfl
@[simp] theorem setHand_get_cmpU (s : State) (j : Nat) (h : Hand) (k : Nat) : (s.setHand j h).cmpU k = s.cmpU k := rfl
@[simp] theorem setHand_get_mkOut (s : State) (j : Nat) (h : Hand) (k : Nat) : (s.setHand j h).mkOut k = s.mkOut k := rfl
@[simp] theorem setHand_get_str (s : State) (j : Nat) (h : Hand) (k : Nat) : (s.setHand j h).str k = s.str k := rfl
@[simp] theorem setHand_get_sp (s : State) (j : Nat) (h : Hand) (k : Nat) : (s.setHand j h).sp k = s.sp k := rfl
@[simp] theorem setHand_get_ring (s : State) (j : Nat) (h : Hand) (k : Nat) : (s.setHand j h).ring k = s.ring k := rfl

/-! ### Register fields -/

theorem rf_setrf (s : State) (f g : Fld) (v : Nat) (h : g.key ≠ f.key) : (s.setrf f v).rf g = s.rf g := by
  unfold rf setrf; dsimp only; rw [look_put_ne _ _ _ _ h]

@[simp] theorem rf_setrf_self (s : State) (f : Fld) (v : Nat) : (s.setrf f v).rf f = v % 2 ^ f.width :=
  look_put_self _ _ _ _

theorem bit_setrf (s : State) (f g : Fld) (v : Nat) (h : g.key ≠ f.key) : (s.setrf f v).bit g = s.bit g := by
  rw [bit, bit, rf_setrf s f g v h]

@[simp] theorem setrf_mode (s : State) (v : Nat) : (s.setrf Rf.GLB_STATUS_MODE v).mode = v % 8 := rf_setrf_self s _ v

end Sys2Proof.Machine.State
end

