-- ==== Sys2Proof/Laws/Engine.lean ====
section
/-! SUPPORT. The laws of the engine's operand forms and of the operations its instructions share: what a register write
changes, what retiring an instruction changes, and what `coreOp` gives. -/

namespace Sys2Proof.Machine

/-! ### Operands -/

@[simp] theorem Engine.s_zero (x : Engine) : x.s 0 = 0 := rfl

theorem Engine.s_setS (x : Engine) (r q : BitVec 6) (v : Word) :
    (x.setS r v).s q = if q = r ∧ r ≠ 0 then v else x.s q := by
  unfold Engine.setS Engine.s
  by_cases hr : r = 0
  · rw [if_pos hr, if_neg (show ¬ (q = r ∧ r ≠ 0) from fun h => h.2 hr)]
  · rw [if_neg hr]
    dsimp only
    by_cases hq : q = r
    · subst hq; rw [if_neg hr, if_pos ⟨rfl, hr⟩, look_put_self]
    · have h : q.toNat ≠ r.toNat := fun h => hq (BitVec.eq_of_toNat_eq h)
      rw [if_neg (show ¬ (q = r ∧ r ≠ 0) from fun h => hq h.1), look_put_ne _ _ _ _ h]

theorem Engine.p_setP (x : Engine) (r q : BitVec 3) (v : Bool) :
    (x.setP r v).p q = if q = r ∧ r ≠ 0 then v else x.p q := by
  unfold Engine.setP Engine.p
  by_cases hr : r = 0
  · rw [if_pos hr, if_neg (show ¬ (q = r ∧ r ≠ 0) from fun h => h.2 hr)]
  · rw [if_neg hr]
    dsimp only
    by_cases hq : q = r
    · subst hq; rw [if_neg hr, if_pos ⟨rfl, hr⟩, look_put_self]
    · have h : q.toNat ≠ r.toNat := fun h => hq (BitVec.eq_of_toNat_eq h)
      rw [if_neg (show ¬ (q = r ∧ r ≠ 0) from fun h => hq h.1), look_put_ne _ _ _ _ h]

theorem Engine.d_setD (x : Engine) (r q : BitVec 4) (v : Desc) :
    (x.setD r v).d q = if q = r then v else x.d q := by
  unfold Engine.setD Engine.d
  by_cases hq : q = r
  · subst hq; simp
  · have h : q.toNat ≠ r.toNat := fun h => hq (BitVec.eq_of_toNat_eq h)
    simp [hq, h]

@[simp] theorem Engine.retire_s (x : Engine) (c : Nat) (r : BitVec 6) : (x.retire c).s r = x.s r := rfl
@[simp] theorem Engine.retire_p (x : Engine) (c : Nat) (r : BitVec 3) : (x.retire c).p r = x.p r := rfl
@[simp] theorem Engine.retire_d (x : Engine) (c : Nat) (r : BitVec 4) : (x.retire c).d r = x.d r := rfl
@[simp] theorem Engine.retire_run (x : Engine) (c : Nat) : (x.retire c).run = x.run + c := rfl
@[simp] theorem Engine.retire_queue (x : Engine) (c : Nat) : (x.retire c).queue = x.queue := rfl
@[simp] theorem Engine.retire_copies (x : Engine) (c : Nat) : (x.retire c).copies = x.copies := rfl

/-- Retiring changes the run cycles and the place in the program alone. -/
theorem Engine.retire_frame (x : Engine) (c : Nat) :
    { x.retire c with pc := x.pc, loops := x.loops, run := x.run } = x := rfl

theorem Engine.retire_goes (x : Engine) (c : Nat) :
    ((x.retire c).pc, (x.retire c).loops) = loopNext (x.pc + 1) x.loops := rfl

@[simp] theorem Engine.setS_run (x : Engine) (r : BitVec 6) (v : Word) : (x.setS r v).run = x.run := by
  unfold Engine.setS; split <;> rfl
@[simp] theorem Engine.setS_loops (x : Engine) (r : BitVec 6) (v : Word) : (x.setS r v).loops = x.loops := by
  unfold Engine.setS; split <;> rfl
@[simp] theorem Engine.setS_pc (x : Engine) (r : BitVec 6) (v : Word) : (x.setS r v).pc = x.pc := by
  unfold Engine.setS; split <;> rfl
@[simp] theorem Engine.setP_run (x : Engine) (r : BitVec 3) (v : Bool) : (x.setP r v).run = x.run := by
  unfold Engine.setP; split <;> rfl
@[simp] theorem Engine.setP_loops (x : Engine) (r : BitVec 3) (v : Bool) : (x.setP r v).loops = x.loops := by
  unfold Engine.setP; split <;> rfl
@[simp] theorem Engine.setP_pc (x : Engine) (r : BitVec 3) (v : Bool) : (x.setP r v).pc = x.pc := by
  unfold Engine.setP; split <;> rfl

/-! ### One engine changed -/

theorem onlyEngine_setEng (s : State) (e : Nat) (y : Engine) : OnlyEngine e s (s.setEng e y) :=
  ⟨rfl, fun k hk => by simp [hk]⟩

theorem onlyEngine_refl (s : State) (e : Nat) : OnlyEngine e s s := ⟨rfl, fun _ _ => rfl⟩

/-! ### What a core instruction gives -/

theorem coreOp_runs {s : State} {e : Eng} (h : s.runs e = true) (on : Engine → Bool) (c : Nat) (f : Engine → Engine) :
    coreOp s e on c f = .next (s.setEng e ((if on (s.eng e) then f (s.eng e) else s.eng e).retire c)) := by
  simp [coreOp, h]

/-- An engine that does not run leaves the instruction without effect. -/
theorem coreOp_idle {s : State} {e : Eng} (h : s.runs e = false) (on : Engine → Bool) (c : Nat) (f : Engine → Engine) :
    coreOp s e on c f = .next s := by
  simp [coreOp, h]

/-- A core instruction that writes one scalar when its guard reads 1. -/
theorem scalarNext_coreOp {s : State} {e : Eng} (h : s.runs e = true) (on : Engine → Bool) (c : Nat) (d : BitVec 6)
    (v : Engine → Word) :
    ∃ t, coreOp s e on c (fun x => x.setS d (v x)) = .next t ∧ Continues e s t ∧
      ScalarNext e d (if on (s.eng e) then v (s.eng e) else (s.eng e).s d) c s t := by
  refine ⟨_, coreOp_runs h on c _, ?_, ?_⟩
  · rw [Continues, State.setEng_get_eng, if_pos rfl, Engine.retire_goes]; split <;> simp
  · refine ⟨onlyEngine_setEng s e _, ?_, ?_, ?_⟩
    · by_cases ho : on (s.eng e) = true <;> simp [ho]
    · intro r
      by_cases ho : on (s.eng e) = true
      · simp [ho, Engine.s_setS]
      · simp [ho]; intro h1 _; rw [h1]
    · by_cases ho : on (s.eng e) = true
      · rw [if_pos ho, State.setEng_get_eng, if_pos rfl]
        unfold Engine.setS; split <;> rfl
      · rw [if_neg ho, State.setEng_get_eng, if_pos rfl]; rfl

/-- A core instruction that writes one predicate. -/
theorem predNext_coreOp {s : State} {e : Eng} (h : s.runs e = true) (on : Engine → Bool) (c : Nat) (d : BitVec 3)
    (v : Engine → Bool) :
    ∃ t, coreOp s e on c (fun x => x.setP d (v x)) = .next t ∧ Continues e s t ∧
      PredNext e d (if on (s.eng e) then v (s.eng e) else (s.eng e).p d) c s t := by
  refine ⟨_, coreOp_runs h on c _, ?_, ?_⟩
  · rw [Continues, State.setEng_get_eng, if_pos rfl, Engine.retire_goes]; split <;> simp
  · refine ⟨onlyEngine_setEng s e _, ?_, ?_, ?_⟩
    · by_cases ho : on (s.eng e) = true <;> simp [ho]
    · intro r
      by_cases ho : on (s.eng e) = true
      · simp [ho, Engine.p_setP]
      · simp [ho]; intro h1 _; rw [h1]
    · by_cases ho : on (s.eng e) = true
      · rw [if_pos ho, State.setEng_get_eng, if_pos rfl]
        unfold Engine.setP; split <;> rfl
      · rw [if_neg ho, State.setEng_get_eng, if_pos rfl]; rfl

/-- A core instruction that writes one descriptor. -/
theorem descNext_coreOp {s : State} {e : Eng} (h : s.runs e = true) (on : Engine → Bool) (c : Nat) (d : BitVec 4)
    (v : Engine → Desc) :
    ∃ t, coreOp s e on c (fun x => x.setD d (v x)) = .next t ∧ Continues e s t ∧
      DescNext e d (if on (s.eng e) then v (s.eng e) else (s.eng e).d d) c s t := by
  refine ⟨_, coreOp_runs h on c _, ?_, ?_⟩
  · rw [Continues, State.setEng_get_eng, if_pos rfl, Engine.retire_goes]; split <;> rfl
  · refine ⟨onlyEngine_setEng s e _, ?_, ?_, ?_⟩
    · by_cases ho : on (s.eng e) = true <;> simp [ho, Engine.setD]
    · intro r
      by_cases ho : on (s.eng e) = true
      · simp [ho, Engine.d_setD]
      · simp [ho]; intro h1; rw [h1]
    · by_cases ho : on (s.eng e) = true
      · rw [if_pos ho, State.setEng_get_eng, if_pos rfl]; rfl
      · rw [if_neg ho, State.setEng_get_eng, if_pos rfl]; rfl

end Sys2Proof.Machine
end

