-- ==== Sys2Proof/Laws/Events.lean ====
section
/-! SUPPORT. The laws of raising an event: it changes the event queue, the black box, the log queue and their three
register fields alone, and it adds to the event queue. -/

namespace Sys2Proof

open Machine

/-! ### Frames of register and event changes -/

theorem FieldsOnly.refl (fs : List Fld) (s : State) : FieldsOnly fs s s := ⟨rfl, fun _ _ => rfl⟩

theorem FieldsAndEvents.refl (fs : List Fld) (s : State) : FieldsAndEvents fs s s := ⟨rfl, fun _ _ => rfl⟩

/-- Two states that agree but for their registers and their events, in terms of the fields left alone. -/
theorem withEvents_trans {s t u : State} (h1 : { withEvents s t with regs := s.regs } = s)
    (h2 : { withEvents t u with regs := t.regs } = t) : { withEvents s u with regs := s.regs } = s := by
  have h : { withEvents s u with regs := s.regs } =
    { withEvents s { withEvents t u with regs := t.regs } with regs := s.regs } := rfl
  rw [h, h2]; exact h1

theorem FieldsAndEvents.trans {fs : List Fld} {s t u : State} (h1 : FieldsAndEvents fs s t)
    (h2 : FieldsAndEvents fs t u) : FieldsAndEvents fs s u :=
  ⟨withEvents_trans h1.1 h2.1, fun f hf => (h2.2 f hf).trans (h1.2 f hf)⟩

theorem FieldsAndEvents.mono {fs gs : List Fld} {s t : State} (h : FieldsAndEvents fs s t) (hs : ∀ f ∈ fs, f ∈ gs) :
    FieldsAndEvents gs s t :=
  ⟨h.1, fun f hf => h.2 f (fun g hg => hf g (by
    rcases List.mem_append.1 hg with hg | hg
    · exact List.mem_append_left _ (hs g hg)
    · exact List.mem_append_right _ hg))⟩

theorem FieldsAndEvents.setrf {fs : List Fld} (s : State) (f : Fld) (v : Nat) (h : f ∈ fs ++ eventFlds) :
    FieldsAndEvents fs s (s.setrf f v) :=
  ⟨rfl, fun g hg => State.rf_setrf s f g v (hg f h)⟩

theorem FieldsOnly.trans {fs : List Fld} {s t u : State} (h1 : FieldsOnly fs s t) (h2 : FieldsOnly fs t u) :
    FieldsOnly fs s u := by
  refine ⟨?_, fun f hf => (h2.2 f hf).trans (h1.2 f hf)⟩
  have h : ({ u with regs := s.regs } : State) = { { u with regs := t.regs } with regs := s.regs } := rfl
  rw [h, h2.1]; exact h1.1

theorem FieldsOnly.setrf {fs : List Fld} (s : State) (f : Fld) (v : Nat) (h : f ∈ fs) : FieldsOnly fs s (s.setrf f v) :=
  ⟨rfl, fun g hg => State.rf_setrf s f g v (hg f h)⟩

theorem FieldsOnly.events {fs : List Fld} {s t : State} (h : FieldsOnly fs s t) : FieldsAndEvents fs s t := by
  refine ⟨?_, fun f hf => h.2 f (fun g hg => hf g (List.mem_append_left _ hg))⟩
  have e : { withEvents s t with regs := s.regs } = withEvents s { t with regs := s.regs } := rfl
  rw [e, h.1]; rfl

/-! ### Raising -/

theorem queueEv_frame (s : State) (ev : EvRec) (fs : List Fld) : FieldsAndEvents fs s (s.queueEv ev) := by
  unfold State.queueEv; split <;> exact ⟨rfl, fun _ _ => rfl⟩

theorem boxEv_frame (s : State) (ev : EvRec) (fs : List Fld) : FieldsAndEvents fs s (s.boxEv ev) := by
  unfold State.boxEv
  have h0 : FieldsAndEvents fs s { s with bbox := insert1 s.bbox (s.rf Rf.MGT_BBOX_HEAD) ev } := ⟨rfl, fun _ _ => rfl⟩
  dsimp only
  split
  · exact (h0.trans (.setrf _ _ _ (by simp [eventFlds]))).trans (.setrf _ _ _ (by simp [eventFlds]))
  · exact h0.trans (.setrf _ _ _ (by simp [eventFlds]))

theorem logEv_frame (s : State) (ev : EvRec) (fs : List Fld) : FieldsAndEvents fs s (s.logEv ev) := by
  unfold State.logEv
  dsimp only
  split
  · refine FieldsAndEvents.trans (t := { s with logq := coalesced _ _ s.logq }) ?_ (.setrf _ _ _ (by simp [eventFlds]))
    exact ⟨rfl, fun _ _ => rfl⟩
  · split
    · split
      · exact FieldsAndEvents.trans (t := { s with logq := s.logq ++ [LogEntry.mk ev 0 false], logCoal := true })
          ⟨rfl, fun _ _ => rfl⟩ (.setrf _ _ _ (by simp [eventFlds]))
      · exact FieldsAndEvents.trans (t := { s with logq := s.logq ++ [LogEntry.mk ev 0 false] })
          ⟨rfl, fun _ _ => rfl⟩ (.setrf _ _ _ (by simp [eventFlds]))
    · exact .refl _ _

theorem record_frame (s : State) (c a0 a1 a2 : Nat) (fs : List Fld) : FieldsAndEvents fs s (s.record c a0 a1 a2) :=
  ((queueEv_frame s _ fs).trans (boxEv_frame _ _ fs)).trans (logEv_frame _ _ fs)

theorem stamp_frame (s : State) (k : Nat) (fs : List Fld) : FieldsAndEvents fs s (s.stamp k) := ⟨rfl, fun _ _ => rfl⟩

theorem stampSecond_frame (s : State) (fs : List Fld) : FieldsAndEvents fs s s.stampSecond := ⟨rfl, fun _ _ => rfl⟩

/-- Raising an event changes nothing but the queues of events and their register fields. -/
theorem raise_frame (s : State) (c a0 a1 a2 : Nat) (fs : List Fld) : FieldsAndEvents fs s (s.raise c a0 a1 a2) := by
  unfold State.raise
  dsimp only
  have h := record_frame s c a0 a1 a2 fs
  split
  · have h2 := h.trans ((stamp_frame (s.record c a0 a1 a2) (stampKey 0x600E 0) fs).trans (record_frame _ 0x600E 0 0 0 fs))
    split
    · exact h2.trans ((stampSecond_frame _ fs).trans (record_frame _ 0xA006 0 0 0 fs))
    · exact h2
  · split
    · exact h.trans ((stampSecond_frame _ fs).trans (record_frame _ 0xA006 0 0 0 fs))
    · exact h

theorem raiseMs_frame (s : State) (c u a1 a2 : Nat) (fs : List Fld) : FieldsAndEvents fs s (s.raiseMs c u a1 a2) := by
  unfold State.raiseMs; split
  · exact (stamp_frame _ _ fs).trans (raise_frame _ _ _ _ _ fs)
  · exact .refl _ _

/-! ### The event queue -/

@[simp] theorem boxEv_evq (s : State) (ev : EvRec) : (s.boxEv ev).evq = s.evq := by
  unfold State.boxEv; dsimp only; split <;> rfl

@[simp] theorem logEv_evq (s : State) (ev : EvRec) : (s.logEv ev).evq = s.evq := by
  unfold State.logEv; dsimp only; split
  · rfl
  · split
    · split <;> rfl
    · rfl

theorem record_evq (s : State) (c a0 a1 a2 : Nat) :
    (s.record c a0 a1 a2).evq = if s.evq.length < 1024 then s.evq ++ [s.mkEv c a0 a1 a2] else s.evq := by
  unfold State.record; dsimp only
  rw [logEv_evq, boxEv_evq]; unfold State.queueEv; split <;> rfl

theorem record_prefix (s : State) (c a0 a1 a2 : Nat) : s.evq <+: (s.record c a0 a1 a2).evq := by
  rw [record_evq]; split
  · exact List.prefix_append _ _
  · exact List.prefix_refl _

theorem record_prefix_if (b : Bool) (s : State) (k c a0 a1 a2 : Nat) :
    s.evq <+: (if b then (s.stamp k).record c a0 a1 a2 else s).evq := by
  cases b
  · exact List.prefix_refl _
  · exact record_prefix (s.stamp k) c a0 a1 a2

theorem record_prefix_second (b : Bool) (s : State) (c a0 a1 a2 : Nat) :
    s.evq <+: (if b then s.stampSecond.record c a0 a1 a2 else s).evq := by
  cases b
  · exact List.prefix_refl _
  · exact record_prefix s.stampSecond c a0 a1 a2

/-- Raising an event adds to the event queue and takes nothing from it. -/
theorem raise_prefix (s : State) (c a0 a1 a2 : Nat) : (s.record c a0 a1 a2).evq <+: (s.raise c a0 a1 a2).evq :=
  (record_prefix_if _ _ (stampKey 0x600E 0) 0x600E 0 0 0).trans (record_prefix_second _ _ 0xA006 0 0 0)

/-- While the queue has room, raising an event puts it there. -/
theorem raise_raised (s : State) (c a0 a1 a2 : Nat) (h : s.evq.length < 1024) : Raised s (s.raise c a0 a1 a2) c a0 a1 a2 := by
  obtain ⟨l, hl⟩ := raise_prefix s c a0 a1 a2
  rw [record_evq, if_pos h] at hl
  refine ⟨s.mkEv c a0 a1 a2, ?_, rfl, rfl, rfl, rfl⟩
  rw [← hl]; simp

/-- An event stays raised while the queue only grows. -/
theorem Raised.later {s t u : State} {c a0 a1 a2 : Nat} (h : Raised s t c a0 a1 a2) (hp : t.evq <+: u.evq) :
    Raised s u c a0 a1 a2 := by
  obtain ⟨ev, he, h⟩ := h
  obtain ⟨l, hl⟩ := hp
  refine ⟨ev, ?_, h⟩
  rw [← hl, List.drop_append]
  exact List.mem_append_left _ he

/-- An event raised from a later state was raised since an earlier one whose queue is a prefix of it. -/
theorem Raised.earlier {r s t : State} {c a0 a1 a2 : Nat} (h : Raised s t c a0 a1 a2) (hl : r.evq.length ≤ s.evq.length) :
    Raised r t c a0 a1 a2 := by
  obtain ⟨ev, he, h⟩ := h
  refine ⟨ev, ?_, h⟩
  have : List.drop s.evq.length t.evq = (List.drop r.evq.length t.evq).drop (s.evq.length - r.evq.length) := by
    rw [List.drop_drop]; congr 1; omega
  rw [this] at he
  exact List.mem_of_mem_drop he

end Sys2Proof
end

