-- ==== Sys2Proof/Laws/Words.lean ====
section
/-! SUPPORT. What the admission walker reads in a word of known fields. -/

namespace Sys2Proof.Laws
open Machine

theorem wordF_wordOf (maj mnr d a b imm : Nat) (h1 : maj < 64) (h2 : mnr < 64) (h3 : d < 64) (h4 : a < 64) (h5 : b < 64)
    (h6 : imm < 2 ^ 34) : wordF (wordOf maj mnr d a b imm) = ⟨maj, mnr, d, a, b, imm⟩ := by
  simp only [wordF, wordOf, bitsOf]
  congr 1 <;> omega

theorem wordOf_lt (maj mnr d a b imm : Nat) (h1 : maj < 64) (h2 : mnr < 64) (h3 : d < 64) (h4 : a < 64) (h5 : b < 64)
    (h6 : imm < 2 ^ 34) : wordOf maj mnr d a b imm < 2 ^ 64 := by
  simp only [wordOf]
  omega

theorem wordImm_lt (g : BitVec 4) (r : Nat) (h : r < 2 ^ 30) : wordImm g r < 2 ^ 34 := by
  have := g.isLt
  simp only [wordImm]
  omega

theorem wordImm_g (g : BitVec 4) (r m n d a b : Nat) (h : r < 2 ^ 30) : (WordF.mk m n d a b (wordImm g r)).g = g := by
  have := g.isLt
  apply BitVec.eq_of_toNat_eq
  simp only [WordF.g, wordImm, BitVec.toNat_ofNat]
  omega

theorem wordImm_rest (g : BitVec 4) (r m n d a b : Nat) (h : r < 2 ^ 30) : (WordF.mk m n d a b (wordImm g r)).rest = r := by
  simp only [WordF.rest, wordImm]
  omega

theorem decide_toNat (b : Bool) (P : Prop) [Decidable P] (h : P ↔ b.toNat = 1) : decide P = b := by
  cases b <;> simp_all

theorem wordStrm_lt (x : StreamImm) (p : Nat) (h : p < 2 ^ 17) : wordStrm x p < 2 ^ 34 := by
  have := x.ncap.isLt
  have := Bool.toNat_lt x.adv
  apply wordImm_lt
  omega

theorem wordStrm_strm (x : StreamImm) (p m n d a b : Nat) (h : p < 2 ^ 17) :
    (WordF.mk m n d a b (wordStrm x p)).strm = x := by
  obtain ⟨g, c, v⟩ := x
  have hg := g.isLt
  have hc := c.isLt
  have hv := Bool.toNat_lt v
  have e1 : BitVec.ofNat 4 (wordStrm ⟨g, c, v⟩ p / 2 ^ 30) = g := by
    apply BitVec.eq_of_toNat_eq
    simp only [wordStrm, wordImm, BitVec.toNat_ofNat]
    omega
  have e2 : BitVec.ofNat 12 (wordStrm ⟨g, c, v⟩ p / 2 ^ 18) = c := by
    apply BitVec.eq_of_toNat_eq
    simp only [wordStrm, wordImm, BitVec.toNat_ofNat]
    omega
  have e3 : decide (wordStrm ⟨g, c, v⟩ p / 2 ^ 17 % 2 = 1) = v := by
    apply decide_toNat
    simp only [wordStrm, wordImm]
    omega
  simp only [WordF.strm, WordF.g, e1, e2, e3]

theorem wordStrm_param (x : StreamImm) (p m n d a b : Nat) (h : p < 2 ^ 17) :
    (WordF.mk m n d a b (wordStrm x p)).param = p := by
  have := x.ncap.isLt
  have := Bool.toNat_lt x.adv
  simp only [WordF.param, wordStrm, wordImm]
  omega

theorem ofNat_self {n : Nat} (v : BitVec n) (k : Nat) (h : k % 2 ^ n = v.toNat) : BitVec.ofNat n k = v := by
  apply BitVec.eq_of_toNat_eq
  rw [BitVec.toNat_ofNat, h]

theorem testBit_self (b : Bool) (v k : Nat) (h : v / 2 ^ k % 2 = b.toNat) : v.testBit k = b := by
  rw [Nat.testBit_eq_decide_div_mod_eq]
  exact decide_toNat b _ (by rw [h])

/-- What is kept of a word: the instruction it spells, where that is well formed. -/
def kept (o : Option Instr) : Option Instr :=
  match o with
  | some j => if j.wf then some j else none
  | none => none

theorem kept_req {c : Bool} {i j : Instr} (hc : c = true) (hi : i = j) (hw : j.wf = true) : kept (req c i) = some j := by
  subst hi
  simp [req, hc, kept, hw]

variable {e : Eng} {w mnr d a b imm : Nat}

theorem image_01 (h : wordF w = ⟨0x01, mnr, d, a, b, imm⟩) : imageInstr e w = kept (wordAlu e ⟨0x01, mnr, d, a, b, imm⟩) := by
  rw [imageInstr, h]; rfl
theorem image_02 (h : wordF w = ⟨0x02, mnr, d, a, b, imm⟩) : imageInstr e w = kept (wordAluI e ⟨0x02, mnr, d, a, b, imm⟩) := by
  rw [imageInstr, h]; rfl
theorem image_03 (h : wordF w = ⟨0x03, mnr, d, a, b, imm⟩) : imageInstr e w = kept (wordCmp e ⟨0x03, mnr, d, a, b, imm⟩) := by
  rw [imageInstr, h]; rfl
theorem image_04 (h : wordF w = ⟨0x04, mnr, d, a, b, imm⟩) : imageInstr e w = kept (wordCmpI e ⟨0x04, mnr, d, a, b, imm⟩) := by
  rw [imageInstr, h]; rfl
theorem image_05 (h : wordF w = ⟨0x05, mnr, d, a, b, imm⟩) : imageInstr e w = kept (wordPred e ⟨0x05, mnr, d, a, b, imm⟩) := by
  rw [imageInstr, h]; rfl
theorem image_06 (h : wordF w = ⟨0x06, mnr, d, a, b, imm⟩) : imageInstr e w =
    kept (req (decide (mnr = 0 ∧ a = 0 ∧ b = 0) && fits 8 imm) (.rd e (r6 d) (BitVec.ofNat 8 imm))) := by
  rw [imageInstr, h]; rfl
theorem image_08 (h : wordF w = ⟨0x08, mnr, d, a, b, imm⟩) : imageInstr e w = kept (wordCtl e ⟨0x08, mnr, d, a, b, imm⟩) := by
  rw [imageInstr, h]; rfl
theorem image_0A (h : wordF w = ⟨0x0A, mnr, d, a, b, imm⟩) : imageInstr e w = kept (wordMove e ⟨0x0A, mnr, d, a, b, imm⟩) := by
  rw [imageInstr, h]; rfl
theorem image_0C (h : wordF w = ⟨0x0C, mnr, d, a, b, imm⟩) : imageInstr e w = kept (wordChain e ⟨0x0C, mnr, d, a, b, imm⟩) := by
  rw [imageInstr, h]; rfl
theorem image_0E (h : wordF w = ⟨0x0E, mnr, d, a, b, imm⟩) : imageInstr e w = kept (wordSync e ⟨0x0E, mnr, d, a, b, imm⟩) := by
  rw [imageInstr, h]; rfl
theorem image_10 (h : wordF w = ⟨0x10, mnr, d, a, b, imm⟩) : imageInstr e w = kept (wordCore e ⟨0x10, mnr, d, a, b, imm⟩) := by
  rw [imageInstr, h]; rfl
theorem image_11 (h : wordF w = ⟨0x11, mnr, d, a, b, imm⟩) : imageInstr e w = kept (wordElem e ⟨0x11, mnr, d, a, b, imm⟩) := by
  rw [imageInstr, h]; rfl
theorem image_pix {maj : Nat} (m : maj = 0x12 ∨ maj = 0x13 ∨ maj = 0x14 ∨ maj = 0x15 ∨ maj = 0x16)
    (h : wordF w = ⟨maj, mnr, d, a, b, imm⟩) : imageInstr e w = kept (wordPix e ⟨maj, mnr, d, a, b, imm⟩) := by
  obtain rfl | rfl | rfl | rfl | rfl := m <;> (rw [imageInstr, h]; rfl)
theorem image_seg {maj : Nat} (m : maj = 0x17 ∨ maj = 0x18 ∨ maj = 0x19 ∨ maj = 0x1A ∨ maj = 0x1B ∨ maj = 0x1C)
    (h : wordF w = ⟨maj, mnr, d, a, b, imm⟩) : imageInstr e w = kept (wordSeg e ⟨maj, mnr, d, a, b, imm⟩) := by
  obtain rfl | rfl | rfl | rfl | rfl | rfl := m <;> (rw [imageInstr, h]; rfl)

end Sys2Proof.Laws
end

