-- ==== Sys2Proof/Laws/PerInstr.lean ====
section
/-! SUPPORT. What is said of every command as syntax: the word of an instruction of an engine is read back as that
instruction; a command that is no instruction of an engine has no word. One lemma for each constructor. -/

namespace Sys2Proof.Laws
open Machine

/-- The word of a well-formed instruction spells it (Tables 2.3, 2.5 to 2.10, 3.4 to 3.6). -/
def ReadBack.Statement (i : Instr) : Prop :=
  ∀ (e : Eng) (w : Nat), encode i = some (e, w) → i.wf = true → imageInstr e w = some i ∧ w < 2 ^ 64

theorem ReadBack.registerWrite (port : Port) (off : Nat) (size : Nat) (v : BitVec 64) :
    ReadBack.Statement (.registerWrite port off size v) :=
  fun _ _ h => nomatch h

theorem ReadBack.invalidRegisterAccess (port : Port) (off : Nat) (size : Nat) (wr : Option (BitVec 64)) :
    ReadBack.Statement (.invalidRegisterAccess port off size wr) :=
  fun _ _ h => nomatch h

theorem ReadBack.readClear (port : Port) (off : Nat) (size : Nat) : ReadBack.Statement (.readClear port off size) :=
  fun _ _ h => nomatch h

theorem ReadBack.add (e : Eng) (g : BitVec 4) (d : BitVec 6) (a : BitVec 6) (b : BitVec 6) :
    ReadBack.Statement (.add e g d a b) := by
  intro e' w h hw
  cases h
  have := g.isLt
  have := d.isLt
  have := a.isLt
  have := b.isLt
  have hp : 0 < 2 ^ 30 := by omega
  have hi := wordImm_lt g _ hp
  have hF := wordF_wordOf 0x01 0x00 (d.toNat) (a.toNat) (b.toNat) _ (by decide) (by decide) (by omega) (by omega) (by omega) hi
  refine ⟨?_, wordOf_lt _ _ _ _ _ _ (by decide) (by decide) (by omega) (by omega) (by omega) hi⟩
  rw [image_01 hF]
  simp only [wordAlu, wordImm_rest _ _ _ _ _ _ _ hp, wordImm_g _ _ _ _ _ _ _ hp]
  refine kept_req ?_ ?_ hw
  · rfl
  · congr 1 <;> exact ofNat_self _ _ (by omega)

theorem ReadBack.sub (e : Eng) (g : BitVec 4) (d : BitVec 6) (a : BitVec 6) (b : BitVec 6) :
    ReadBack.Statement (.sub e g d a b) := by
  intro e' w h hw
  cases h
  have := g.isLt
  have := d.isLt
  have := a.isLt
  have := b.isLt
  have hp : 0 < 2 ^ 30 := by omega
  have hi := wordImm_lt g _ hp
  have hF := wordF_wordOf 0x01 0x01 (d.toNat) (a.toNat) (b.toNat) _ (by decide) (by decide) (by omega) (by omega) (by omega) hi
  refine ⟨?_, wordOf_lt _ _ _ _ _ _ (by decide) (by decide) (by omega) (by omega) (by omega) hi⟩
  rw [image_01 hF]
  simp only [wordAlu, wordImm_rest _ _ _ _ _ _ _ hp, wordImm_g _ _ _ _ _ _ _ hp]
  refine kept_req ?_ ?_ hw
  · rfl
  · congr 1 <;> exact ofNat_self _ _ (by omega)

theorem ReadBack.and (e : Eng) (g : BitVec 4) (d : BitVec 6) (a : BitVec 6) (b : BitVec 6) :
    ReadBack.Statement (.and e g d a b) := by
  intro e' w h hw
  cases h
  have := g.isLt
  have := d.isLt
  have := a.isLt
  have := b.isLt
  have hp : 0 < 2 ^ 30 := by omega
  have hi := wordImm_lt g _ hp
  have hF := wordF_wordOf 0x01 0x02 (d.toNat) (a.toNat) (b.toNat) _ (by decide) (by decide) (by omega) (by omega) (by omega) hi
  refine ⟨?_, wordOf_lt _ _ _ _ _ _ (by decide) (by decide) (by omega) (by omega) (by omega) hi⟩
  rw [image_01 hF]
  simp only [wordAlu, wordImm_rest _ _ _ _ _ _ _ hp, wordImm_g _ _ _ _ _ _ _ hp]
  refine kept_req ?_ ?_ hw
  · rfl
  · congr 1 <;> exact ofNat_self _ _ (by omega)

theorem ReadBack.or (e : Eng) (g : BitVec 4) (d : BitVec 6) (a : BitVec 6) (b : BitVec 6) :
    ReadBack.Statement (.or e g d a b) := by
  intro e' w h hw
  cases h
  have := g.isLt
  have := d.isLt
  have := a.isLt
  have := b.isLt
  have hp : 0 < 2 ^ 30 := by omega
  have hi := wordImm_lt g _ hp
  have hF := wordF_wordOf 0x01 0x03 (d.toNat) (a.toNat) (b.toNat) _ (by decide) (by decide) (by omega) (by omega) (by omega) hi
  refine ⟨?_, wordOf_lt _ _ _ _ _ _ (by decide) (by decide) (by omega) (by omega) (by omega) hi⟩
  rw [image_01 hF]
  simp only [wordAlu, wordImm_rest _ _ _ _ _ _ _ hp, wordImm_g _ _ _ _ _ _ _ hp]
  refine kept_req ?_ ?_ hw
  · rfl
  · congr 1 <;> exact ofNat_self _ _ (by omega)

theorem ReadBack.xor (e : Eng) (g : BitVec 4) (d : BitVec 6) (a : BitVec 6) (b : BitVec 6) :
    ReadBack.Statement (.xor e g d a b) := by
  intro e' w h hw
  cases h
  have := g.isLt
  have := d.isLt
  have := a.isLt
  have := b.isLt
  have hp : 0 < 2 ^ 30 := by omega
  have hi := wordImm_lt g _ hp
  have hF := wordF_wordOf 0x01 0x04 (d.toNat) (a.toNat) (b.toNat) _ (by decide) (by decide) (by omega) (by omega) (by omega) hi
  refine ⟨?_, wordOf_lt _ _ _ _ _ _ (by decide) (by decide) (by omega) (by omega) (by omega) hi⟩
  rw [image_01 hF]
  simp only [wordAlu, wordImm_rest _ _ _ _ _ _ _ hp, wordImm_g _ _ _ _ _ _ _ hp]
  refine kept_req ?_ ?_ hw
  · rfl
  · congr 1 <;> exact ofNat_self _ _ (by omega)

theorem ReadBack.shl (e : Eng) (g : BitVec 4) (d : BitVec 6) (a : BitVec 6) (b : BitVec 6) :
    ReadBack.Statement (.shl e g d a b) := by
  intro e' w h hw
  cases h
  have := g.isLt
  have := d.isLt
  have := a.isLt
  have := b.isLt
  have hp : 0 < 2 ^ 30 := by omega
  have hi := wordImm_lt g _ hp
  have hF := wordF_wordOf 0x01 0x05 (d.toNat) (a.toNat) (b.toNat) _ (by decide) (by decide) (by omega) (by omega) (by omega) hi
  refine ⟨?_, wordOf_lt _ _ _ _ _ _ (by decide) (by decide) (by omega) (by omega) (by omega) hi⟩
  rw [image_01 hF]
  simp only [wordAlu, wordImm_rest _ _ _ _ _ _ _ hp, wordImm_g _ _ _ _ _ _ _ hp]
  refine kept_req ?_ ?_ hw
  · rfl
  · congr 1 <;> exact ofNat_self _ _ (by omega)

theorem ReadBack.shr (e : Eng) (g : BitVec 4) (d : BitVec 6) (a : BitVec 6) (b : BitVec 6) :
    ReadBack.Statement (.shr e g d a b) := by
  intro e' w h hw
  cases h
  have := g.isLt
  have := d.isLt
  have := a.isLt
  have := b.isLt
  have hp : 0 < 2 ^ 30 := by omega
  have hi := wordImm_lt g _ hp
  have hF := wordF_wordOf 0x01 0x06 (d.toNat) (a.toNat) (b.toNat) _ (by decide) (by decide) (by omega) (by omega) (by omega) hi
  refine ⟨?_, wordOf_lt _ _ _ _ _ _ (by decide) (by decide) (by omega) (by omega) (by omega) hi⟩
  rw [image_01 hF]
  simp only [wordAlu, wordImm_rest _ _ _ _ _ _ _ hp, wordImm_g _ _ _ _ _ _ _ hp]
  refine kept_req ?_ ?_ hw
  · rfl
  · congr 1 <;> exact ofNat_self _ _ (by omega)

theorem ReadBack.sar (e : Eng) (g : BitVec 4) (d : BitVec 6) (a : BitVec 6) (b : BitVec 6) :
    ReadBack.Statement (.sar e g d a b) := by
  intro e' w h hw
  cases h
  have := g.isLt
  have := d.isLt
  have := a.isLt
  have := b.isLt
  have hp : 0 < 2 ^ 30 := by omega
  have hi := wordImm_lt g _ hp
  have hF := wordF_wordOf 0x01 0x07 (d.toNat) (a.toNat) (b.toNat) _ (by decide) (by decide) (by omega) (by omega) (by omega) hi
  refine ⟨?_, wordOf_lt _ _ _ _ _ _ (by decide) (by decide) (by omega) (by omega) (by omega) hi⟩
  rw [image_01 hF]
  simp only [wordAlu, wordImm_rest _ _ _ _ _ _ _ hp, wordImm_g _ _ _ _ _ _ _ hp]
  refine kept_req ?_ ?_ hw
  · rfl
  · congr 1 <;> exact ofNat_self _ _ (by omega)

theorem ReadBack.mul (e : Eng) (g : BitVec 4) (d : BitVec 6) (a : BitVec 6) (b : BitVec 6) :
    ReadBack.Statement (.mul e g d a b) := by
  intro e' w h hw
  cases h
  have := g.isLt
  have := d.isLt
  have := a.isLt
  have := b.isLt
  have hp : 0 < 2 ^ 30 := by omega
  have hi := wordImm_lt g _ hp
  have hF := wordF_wordOf 0x01 0x08 (d.toNat) (a.toNat) (b.toNat) _ (by decide) (by decide) (by omega) (by omega) (by omega) hi
  refine ⟨?_, wordOf_lt _ _ _ _ _ _ (by decide) (by decide) (by omega) (by omega) (by omega) hi⟩
  rw [image_01 hF]
  simp only [wordAlu, wordImm_rest _ _ _ _ _ _ _ hp, wordImm_g _ _ _ _ _ _ _ hp]
  refine kept_req ?_ ?_ hw
  · rfl
  · congr 1 <;> exact ofNat_self _ _ (by omega)

theorem ReadBack.mulh (e : Eng) (g : BitVec 4) (d : BitVec 6) (a : BitVec 6) (b : BitVec 6) :
    ReadBack.Statement (.mulh e g d a b) := by
  intro e' w h hw
  cases h
  have := g.isLt
  have := d.isLt
  have := a.isLt
  have := b.isLt
  have hp : 0 < 2 ^ 30 := by omega
  have hi := wordImm_lt g _ hp
  have hF := wordF_wordOf 0x01 0x09 (d.toNat) (a.toNat) (b.toNat) _ (by decide) (by decide) (by omega) (by omega) (by omega) hi
  refine ⟨?_, wordOf_lt _ _ _ _ _ _ (by decide) (by decide) (by omega) (by omega) (by omega) hi⟩
  rw [image_01 hF]
  simp only [wordAlu, wordImm_rest _ _ _ _ _ _ _ hp, wordImm_g _ _ _ _ _ _ _ hp]
  refine kept_req ?_ ?_ hw
  · rfl
  · congr 1 <;> exact ofNat_self _ _ (by omega)

theorem ReadBack.mulhu (e : Eng) (g : BitVec 4) (d : BitVec 6) (a : BitVec 6) (b : BitVec 6) :
    ReadBack.Statement (.mulhu e g d a b) := by
  intro e' w h hw
  cases h
  have := g.isLt
  have := d.isLt
  have := a.isLt
  have := b.isLt
  have hp : 0 < 2 ^ 30 := by omega
  have hi := wordImm_lt g _ hp
  have hF := wordF_wordOf 0x01 0x0A (d.toNat) (a.toNat) (b.toNat) _ (by decide) (by decide) (by omega) (by omega) (by omega) hi
  refine ⟨?_, wordOf_lt _ _ _ _ _ _ (by decide) (by decide) (by omega) (by omega) (by omega) hi⟩
  rw [image_01 hF]
  simp only [wordAlu, wordImm_rest _ _ _ _ _ _ _ hp, wordImm_g _ _ _ _ _ _ _ hp]
  refine kept_req ?_ ?_ hw
  · rfl
  · congr 1 <;> exact ofNat_self _ _ (by omega)

theorem ReadBack.min (e : Eng) (g : BitVec 4) (d : BitVec 6) (a : BitVec 6) (b : BitVec 6) :
    ReadBack.Statement (.min e g d a b) := by
  intro e' w h hw
  cases h
  have := g.isLt
  have := d.isLt
  have := a.isLt
  have := b.isLt
  have hp : 0 < 2 ^ 30 := by omega
  have hi := wordImm_lt g _ hp
  have hF := wordF_wordOf 0x01 0x0B (d.toNat) (a.toNat) (b.toNat) _ (by decide) (by decide) (by omega) (by omega) (by omega) hi
  refine ⟨?_, wordOf_lt _ _ _ _ _ _ (by decide) (by decide) (by omega) (by omega) (by omega) hi⟩
  rw [image_01 hF]
  simp only [wordAlu, wordImm_rest _ _ _ _ _ _ _ hp, wordImm_g _ _ _ _ _ _ _ hp]
  refine kept_req ?_ ?_ hw
  · rfl
  · congr 1 <;> exact ofNat_self _ _ (by omega)

theorem ReadBack.max (e : Eng) (g : BitVec 4) (d : BitVec 6) (a : BitVec 6) (b : BitVec 6) :
    ReadBack.Statement (.max e g d a b) := by
  intro e' w h hw
  cases h
  have := g.isLt
  have := d.isLt
  have := a.isLt
  have := b.isLt
  have hp : 0 < 2 ^ 30 := by omega
  have hi := wordImm_lt g _ hp
  have hF := wordF_wordOf 0x01 0x0C (d.toNat) (a.toNat) (b.toNat) _ (by decide) (by decide) (by omega) (by omega) (by omega) hi
  refine ⟨?_, wordOf_lt _ _ _ _ _ _ (by decide) (by decide) (by omega) (by omega) (by omega) hi⟩
  rw [image_01 hF]
  simp only [wordAlu, wordImm_rest _ _ _ _ _ _ _ hp, wordImm_g _ _ _ _ _ _ _ hp]
  refine kept_req ?_ ?_ hw
  · rfl
  · congr 1 <;> exact ofNat_self _ _ (by omega)

theorem ReadBack.minu (e : Eng) (g : BitVec 4) (d : BitVec 6) (a : BitVec 6) (b : BitVec 6) :
    ReadBack.Statement (.minu e g d a b) := by
  intro e' w h hw
  cases h
  have := g.isLt
  have := d.isLt
  have := a.isLt
  have := b.isLt
  have hp : 0 < 2 ^ 30 := by omega
  have hi := wordImm_lt g _ hp
  have hF := wordF_wordOf 0x01 0x0D (d.toNat) (a.toNat) (b.toNat) _ (by decide) (by decide) (by omega) (by omega) (by omega) hi
  refine ⟨?_, wordOf_lt _ _ _ _ _ _ (by decide) (by decide) (by omega) (by omega) (by omega) hi⟩
  rw [image_01 hF]
  simp only [wordAlu, wordImm_rest _ _ _ _ _ _ _ hp, wordImm_g _ _ _ _ _ _ _ hp]
  refine kept_req ?_ ?_ hw
  · rfl
  · congr 1 <;> exact ofNat_self _ _ (by omega)

theorem ReadBack.maxu (e : Eng) (g : BitVec 4) (d : BitVec 6) (a : BitVec 6) (b : BitVec 6) :
    ReadBack.Statement (.maxu e g d a b) := by
  intro e' w h hw
  cases h
  have := g.isLt
  have := d.isLt
  have := a.isLt
  have := b.isLt
  have hp : 0 < 2 ^ 30 := by omega
  have hi := wordImm_lt g _ hp
  have hF := wordF_wordOf 0x01 0x0E (d.toNat) (a.toNat) (b.toNat) _ (by decide) (by decide) (by omega) (by omega) (by omega) hi
  refine ⟨?_, wordOf_lt _ _ _ _ _ _ (by decide) (by decide) (by omega) (by omega) (by omega) hi⟩
  rw [image_01 hF]
  simp only [wordAlu, wordImm_rest _ _ _ _ _ _ _ hp, wordImm_g _ _ _ _ _ _ _ hp]
  refine kept_req ?_ ?_ hw
  · rfl
  · congr 1 <;> exact ofNat_self _ _ (by omega)

theorem ReadBack.adds (e : Eng) (g : BitVec 4) (d : BitVec 6) (a : BitVec 6) (b : BitVec 6) :
    ReadBack.Statement (.adds e g d a b) := by
  intro e' w h hw
  cases h
  have := g.isLt
  have := d.isLt
  have := a.isLt
  have := b.isLt
  have hp : 0 < 2 ^ 30 := by omega
  have hi := wordImm_lt g _ hp
  have hF := wordF_wordOf 0x01 0x0F (d.toNat) (a.toNat) (b.toNat) _ (by decide) (by decide) (by omega) (by omega) (by omega) hi
  refine ⟨?_, wordOf_lt _ _ _ _ _ _ (by decide) (by decide) (by omega) (by omega) (by omega) hi⟩
  rw [image_01 hF]
  simp only [wordAlu, wordImm_rest _ _ _ _ _ _ _ hp, wordImm_g _ _ _ _ _ _ _ hp]
  refine kept_req ?_ ?_ hw
  · rfl
  · congr 1 <;> exact ofNat_self _ _ (by omega)

theorem ReadBack.subs (e : Eng) (g : BitVec 4) (d : BitVec 6) (a : BitVec 6) (b : BitVec 6) :
    ReadBack.Statement (.subs e g d a b) := by
  intro e' w h hw
  cases h
  have := g.isLt
  have := d.isLt
  have := a.isLt
  have := b.isLt
  have hp : 0 < 2 ^ 30 := by omega
  have hi := wordImm_lt g _ hp
  have hF := wordF_wordOf 0x01 0x10 (d.toNat) (a.toNat) (b.toNat) _ (by decide) (by decide) (by omega) (by omega) (by omega) hi
  refine ⟨?_, wordOf_lt _ _ _ _ _ _ (by decide) (by decide) (by omega) (by omega) (by omega) hi⟩
  rw [image_01 hF]
  simp only [wordAlu, wordImm_rest _ _ _ _ _ _ _ hp, wordImm_g _ _ _ _ _ _ _ hp]
  refine kept_req ?_ ?_ hw
  · rfl
  · congr 1 <;> exact ofNat_self _ _ (by omega)

theorem ReadBack.clz (e : Eng) (g : BitVec 4) (d : BitVec 6) (a : BitVec 6) : ReadBack.Statement (.clz e g d a) := by
  intro e' w h hw
  cases h
  have := g.isLt
  have := d.isLt
  have := a.isLt
  have hp : 0 < 2 ^ 30 := by omega
  have hi := wordImm_lt g _ hp
  have hF := wordF_wordOf 0x01 0x11 (d.toNat) (a.toNat) (0) _ (by decide) (by decide) (by omega) (by omega) (by omega) hi
  refine ⟨?_, wordOf_lt _ _ _ _ _ _ (by decide) (by decide) (by omega) (by omega) (by omega) hi⟩
  rw [image_01 hF]
  simp only [wordAlu, wordImm_rest _ _ _ _ _ _ _ hp, wordImm_g _ _ _ _ _ _ _ hp]
  refine kept_req ?_ ?_ hw
  · rfl
  · congr 1 <;> exact ofNat_self _ _ (by omega)

theorem ReadBack.popc (e : Eng) (g : BitVec 4) (d : BitVec 6) (a : BitVec 6) : ReadBack.Statement (.popc e g d a) := by
  intro e' w h hw
  cases h
  have := g.isLt
  have := d.isLt
  have := a.isLt
  have hp : 0 < 2 ^ 30 := by omega
  have hi := wordImm_lt g _ hp
  have hF := wordF_wordOf 0x01 0x12 (d.toNat) (a.toNat) (0) _ (by decide) (by decide) (by omega) (by omega) (by omega) hi
  refine ⟨?_, wordOf_lt _ _ _ _ _ _ (by decide) (by decide) (by omega) (by omega) (by omega) hi⟩
  rw [image_01 hF]
  simp only [wordAlu, wordImm_rest _ _ _ _ _ _ _ hp, wordImm_g _ _ _ _ _ _ _ hp]
  refine kept_req ?_ ?_ hw
  · rfl
  · congr 1 <;> exact ofNat_self _ _ (by omega)

theorem ReadBack.addi (e : Eng) (d : BitVec 6) (a : BitVec 6) (imm : BitVec 34) :
    ReadBack.Statement (.addi e d a imm) := by
  intro e' w h hw
  cases h
  have := d.isLt
  have := a.isLt
  have := imm.isLt
  have hi : imm.toNat < 2 ^ 34 := by omega
  have hF := wordF_wordOf 0x02 0x00 (d.toNat) (a.toNat) (0) _ (by decide) (by decide) (by omega) (by omega) (by omega) hi
  refine ⟨?_, wordOf_lt _ _ _ _ _ _ (by decide) (by decide) (by omega) (by omega) (by omega) hi⟩
  rw [image_02 hF]
  simp only [wordAluI, WordF.imm34]
  refine kept_req ?_ ?_ hw
  · rfl
  · congr 1 <;> exact ofNat_self _ _ (by omega)

theorem ReadBack.andi (e : Eng) (d : BitVec 6) (a : BitVec 6) (imm : BitVec 34) :
    ReadBack.Statement (.andi e d a imm) := by
  intro e' w h hw
  cases h
  have := d.isLt
  have := a.isLt
  have := imm.isLt
  have hi : imm.toNat < 2 ^ 34 := by omega
  have hF := wordF_wordOf 0x02 0x02 (d.toNat) (a.toNat) (0) _ (by decide) (by decide) (by omega) (by omega) (by omega) hi
  refine ⟨?_, wordOf_lt _ _ _ _ _ _ (by decide) (by decide) (by omega) (by omega) (by omega) hi⟩
  rw [image_02 hF]
  simp only [wordAluI, WordF.imm34]
  refine kept_req ?_ ?_ hw
  · rfl
  · congr 1 <;> exact ofNat_self _ _ (by omega)

theorem ReadBack.ori (e : Eng) (d : BitVec 6) (a : BitVec 6) (imm : BitVec 34) :
    ReadBack.Statement (.ori e d a imm) := by
  intro e' w h hw
  cases h
  have := d.isLt
  have := a.isLt
  have := imm.isLt
  have hi : imm.toNat < 2 ^ 34 := by omega
  have hF := wordF_wordOf 0x02 0x03 (d.toNat) (a.toNat) (0) _ (by decide) (by decide) (by omega) (by omega) (by omega) hi
  refine ⟨?_, wordOf_lt _ _ _ _ _ _ (by decide) (by decide) (by omega) (by omega) (by omega) hi⟩
  rw [image_02 hF]
  simp only [wordAluI, WordF.imm34]
  refine kept_req ?_ ?_ hw
  · rfl
  · congr 1 <;> exact ofNat_self _ _ (by omega)

theorem ReadBack.xori (e : Eng) (d : BitVec 6) (a : BitVec 6) (imm : BitVec 34) :
    ReadBack.Statement (.xori e d a imm) := by
  intro e' w h hw
  cases h
  have := d.isLt
  have := a.isLt
  have := imm.isLt
  have hi : imm.toNat < 2 ^ 34 := by omega
  have hF := wordF_wordOf 0x02 0x04 (d.toNat) (a.toNat) (0) _ (by decide) (by decide) (by omega) (by omega) (by omega) hi
  refine ⟨?_, wordOf_lt _ _ _ _ _ _ (by decide) (by decide) (by omega) (by omega) (by omega) hi⟩
  rw [image_02 hF]
  simp only [wordAluI, WordF.imm34]
  refine kept_req ?_ ?_ hw
  · rfl
  · congr 1 <;> exact ofNat_self _ _ (by omega)

theorem ReadBack.shli (e : Eng) (d : BitVec 6) (a : BitVec 6) (n : BitVec 6) : ReadBack.Statement (.shli e d a n) := by
  intro e' w h hw
  cases h
  have := d.isLt
  have := a.isLt
  have := n.isLt
  have hi : n.toNat < 2 ^ 34 := by omega
  have hF := wordF_wordOf 0x02 0x05 (d.toNat) (a.toNat) (0) _ (by decide) (by decide) (by omega) (by omega) (by omega) hi
  refine ⟨?_, wordOf_lt _ _ _ _ _ _ (by decide) (by decide) (by omega) (by omega) (by omega) hi⟩
  rw [image_02 hF]
  simp only [wordAluI]
  refine kept_req ?_ ?_ hw
  · simp only [fits, Bool.and_eq_true, decide_eq_true_eq, true_and]; omega
  · congr 1 <;> exact ofNat_self _ _ (by omega)

theorem ReadBack.shri (e : Eng) (d : BitVec 6) (a : BitVec 6) (n : BitVec 6) : ReadBack.Statement (.shri e d a n) := by
  intro e' w h hw
  cases h
  have := d.isLt
  have := a.isLt
  have := n.isLt
  have hi : n.toNat < 2 ^ 34 := by omega
  have hF := wordF_wordOf 0x02 0x06 (d.toNat) (a.toNat) (0) _ (by decide) (by decide) (by omega) (by omega) (by omega) hi
  refine ⟨?_, wordOf_lt _ _ _ _ _ _ (by decide) (by decide) (by omega) (by omega) (by omega) hi⟩
  rw [image_02 hF]
  simp only [wordAluI]
  refine kept_req ?_ ?_ hw
  · simp only [fits, Bool.and_eq_true, decide_eq_true_eq, true_and]; omega
  · congr 1 <;> exact ofNat_self _ _ (by omega)

theorem ReadBack.sari (e : Eng) (d : BitVec 6) (a : BitVec 6) (n : BitVec 6) : ReadBack.Statement (.sari e d a n) := by
  intro e' w h hw
  cases h
  have := d.isLt
  have := a.isLt
  have := n.isLt
  have hi : n.toNat < 2 ^ 34 := by omega
  have hF := wordF_wordOf 0x02 0x07 (d.toNat) (a.toNat) (0) _ (by decide) (by decide) (by omega) (by omega) (by omega) hi
  refine ⟨?_, wordOf_lt _ _ _ _ _ _ (by decide) (by decide) (by omega) (by omega) (by omega) hi⟩
  rw [image_02 hF]
  simp only [wordAluI]
  refine kept_req ?_ ?_ hw
  · simp only [fits, Bool.and_eq_true, decide_eq_true_eq, true_and]; omega
  · congr 1 <;> exact ofNat_self _ _ (by omega)

theorem ReadBack.muli (e : Eng) (d : BitVec 6) (a : BitVec 6) (imm : BitVec 34) :
    ReadBack.Statement (.muli e d a imm) := by
  intro e' w h hw
  cases h
  have := d.isLt
  have := a.isLt
  have := imm.isLt
  have hi : imm.toNat < 2 ^ 34 := by omega
  have hF := wordF_wordOf 0x02 0x08 (d.toNat) (a.toNat) (0) _ (by decide) (by decide) (by omega) (by omega) (by omega) hi
  refine ⟨?_, wordOf_lt _ _ _ _ _ _ (by decide) (by decide) (by omega) (by omega) (by omega) hi⟩
  rw [image_02 hF]
  simp only [wordAluI, WordF.imm34]
  refine kept_req ?_ ?_ hw
  · rfl
  · congr 1 <;> exact ofNat_self _ _ (by omega)

theorem ReadBack.mini (e : Eng) (d : BitVec 6) (a : BitVec 6) (imm : BitVec 34) :
    ReadBack.Statement (.mini e d a imm) := by
  intro e' w h hw
  cases h
  have := d.isLt
  have := a.isLt
  have := imm.isLt
  have hi : imm.toNat < 2 ^ 34 := by omega
  have hF := wordF_wordOf 0x02 0x0B (d.toNat) (a.toNat) (0) _ (by decide) (by decide) (by omega) (by omega) (by omega) hi
  refine ⟨?_, wordOf_lt _ _ _ _ _ _ (by decide) (by decide) (by omega) (by omega) (by omega) hi⟩
  rw [image_02 hF]
  simp only [wordAluI, WordF.imm34]
  refine kept_req ?_ ?_ hw
  · rfl
  · congr 1 <;> exact ofNat_self _ _ (by omega)

theorem ReadBack.maxi (e : Eng) (d : BitVec 6) (a : BitVec 6) (imm : BitVec 34) :
    ReadBack.Statement (.maxi e d a imm) := by
  intro e' w h hw
  cases h
  have := d.isLt
  have := a.isLt
  have := imm.isLt
  have hi : imm.toNat < 2 ^ 34 := by omega
  have hF := wordF_wordOf 0x02 0x0C (d.toNat) (a.toNat) (0) _ (by decide) (by decide) (by omega) (by omega) (by omega) hi
  refine ⟨?_, wordOf_lt _ _ _ _ _ _ (by decide) (by decide) (by omega) (by omega) (by omega) hi⟩
  rw [image_02 hF]
  simp only [wordAluI, WordF.imm34]
  refine kept_req ?_ ?_ hw
  · rfl
  · congr 1 <;> exact ofNat_self _ _ (by omega)

theorem ReadBack.movi (e : Eng) (d : BitVec 6) (imm : BitVec 34) : ReadBack.Statement (.movi e d imm) := by
  intro e' w h hw
  cases h
  have := d.isLt
  have := imm.isLt
  have hi : imm.toNat < 2 ^ 34 := by omega
  have hF := wordF_wordOf 0x02 0x20 (d.toNat) (0) (0) _ (by decide) (by decide) (by omega) (by omega) (by omega) hi
  refine ⟨?_, wordOf_lt _ _ _ _ _ _ (by decide) (by decide) (by omega) (by omega) (by omega) hi⟩
  rw [image_02 hF]
  simp only [wordAluI, WordF.imm34]
  refine kept_req ?_ ?_ hw
  · rfl
  · congr 1 <;> exact ofNat_self _ _ (by omega)

theorem ReadBack.sethi (e : Eng) (d : BitVec 6) (a : BitVec 6) (h : BitVec 30) :
    ReadBack.Statement (.sethi e d a h) := by
  intro e' w h hw
  cases h
  have := d.isLt
  have := a.isLt
  have := h.isLt
  have hi : h.toNat < 2 ^ 34 := by omega
  have hF := wordF_wordOf 0x02 0x21 (d.toNat) (a.toNat) (0) _ (by decide) (by decide) (by omega) (by omega) (by omega) hi
  refine ⟨?_, wordOf_lt _ _ _ _ _ _ (by decide) (by decide) (by omega) (by omega) (by omega) hi⟩
  rw [image_02 hF]
  simp only [wordAluI]
  refine kept_req ?_ ?_ hw
  · simp only [fits, Bool.and_eq_true, decide_eq_true_eq, true_and]; omega
  · congr 1 <;> exact ofNat_self _ _ (by omega)

theorem ReadBack.ext (e : Eng) (d : BitVec 6) (a : BitVec 6) (pos : BitVec 6) (len : BitVec 7) :
    ReadBack.Statement (.ext e d a pos len) := by
  intro e' w h hw
  cases h
  have := d.isLt
  have := a.isLt
  have := pos.isLt
  have := len.isLt
  have hi : len.toNat * 2 ^ 6 + pos.toNat < 2 ^ 34 := by omega
  have hF := wordF_wordOf 0x02 0x22 (d.toNat) (a.toNat) (0) _ (by decide) (by decide) (by omega) (by omega) (by omega) hi
  refine ⟨?_, wordOf_lt _ _ _ _ _ _ (by decide) (by decide) (by omega) (by omega) (by omega) hi⟩
  rw [image_02 hF]
  simp only [wordAluI]
  refine kept_req ?_ ?_ hw
  · simp only [fits, Bool.and_eq_true, decide_eq_true_eq, true_and]; omega
  · congr 1 <;> exact ofNat_self _ _ (by omega)

theorem ReadBack.ins (e : Eng) (d : BitVec 6) (a : BitVec 6) (pos : BitVec 6) (len : BitVec 7) :
    ReadBack.Statement (.ins e d a pos len) := by
  intro e' w h hw
  cases h
  have := d.isLt
  have := a.isLt
  have := pos.isLt
  have := len.isLt
  have hi : len.toNat * 2 ^ 6 + pos.toNat < 2 ^ 34 := by omega
  have hF := wordF_wordOf 0x02 0x23 (d.toNat) (a.toNat) (0) _ (by decide) (by decide) (by omega) (by omega) (by omega) hi
  refine ⟨?_, wordOf_lt _ _ _ _ _ _ (by decide) (by decide) (by omega) (by omega) (by omega) hi⟩
  rw [image_02 hF]
  simp only [wordAluI]
  refine kept_req ?_ ?_ hw
  · simp only [fits, Bool.and_eq_true, decide_eq_true_eq, true_and]; omega
  · congr 1 <;> exact ofNat_self _ _ (by omega)

theorem ReadBack.clamp (e : Eng) (d : BitVec 6) (a : BitVec 6) (imm : BitVec 34) :
    ReadBack.Statement (.clamp e d a imm) := by
  intro e' w h hw
  cases h
  have := d.isLt
  have := a.isLt
  have := imm.isLt
  have hi : imm.toNat < 2 ^ 34 := by omega
  have hF := wordF_wordOf 0x02 0x24 (d.toNat) (a.toNat) (0) _ (by decide) (by decide) (by omega) (by omega) (by omega) hi
  refine ⟨?_, wordOf_lt _ _ _ _ _ _ (by decide) (by decide) (by omega) (by omega) (by omega) hi⟩
  rw [image_02 hF]
  simp only [wordAluI, WordF.imm34]
  refine kept_req ?_ ?_ hw
  · rfl
  · congr 1 <;> exact ofNat_self _ _ (by omega)

theorem ReadBack.cmpEq (e : Eng) (g : BitVec 4) (pd : BitVec 3) (a : BitVec 6) (b : BitVec 6) :
    ReadBack.Statement (.cmpEq e g pd a b) := by
  intro e' w h hw
  cases h
  have := g.isLt
  have := pd.isLt
  have := a.isLt
  have := b.isLt
  have hp : 0 < 2 ^ 30 := by omega
  have hi := wordImm_lt g _ hp
  have hF := wordF_wordOf 0x03 0x00 (pd.toNat) (a.toNat) (b.toNat) _ (by decide) (by decide) (by omega) (by omega) (by omega) hi
  refine ⟨?_, wordOf_lt _ _ _ _ _ _ (by decide) (by decide) (by omega) (by omega) (by omega) hi⟩
  rw [image_03 hF]
  simp only [wordCmp, wordImm_rest _ _ _ _ _ _ _ hp, wordImm_g _ _ _ _ _ _ _ hp]
  refine kept_req ?_ ?_ hw
  · simp only [fits, Bool.and_eq_true, decide_eq_true_eq, and_true]; omega
  · congr 1 <;> exact ofNat_self _ _ (by omega)

theorem ReadBack.cmpNe (e : Eng) (g : BitVec 4) (pd : BitVec 3) (a : BitVec 6) (b : BitVec 6) :
    ReadBack.Statement (.cmpNe e g pd a b) := by
  intro e' w h hw
  cases h
  have := g.isLt
  have := pd.isLt
  have := a.isLt
  have := b.isLt
  have hp : 0 < 2 ^ 30 := by omega
  have hi := wordImm_lt g _ hp
  have hF := wordF_wordOf 0x03 0x01 (pd.toNat) (a.toNat) (b.toNat) _ (by decide) (by decide) (by omega) (by omega) (by omega) hi
  refine ⟨?_, wordOf_lt _ _ _ _ _ _ (by decide) (by decide) (by omega) (by omega) (by omega) hi⟩
  rw [image_03 hF]
  simp only [wordCmp, wordImm_rest _ _ _ _ _ _ _ hp, wordImm_g _ _ _ _ _ _ _ hp]
  refine kept_req ?_ ?_ hw
  · simp only [fits, Bool.and_eq_true, decide_eq_true_eq, and_true]; omega
  · congr 1 <;> exact ofNat_self _ _ (by omega)

theorem ReadBack.cmpLt (e : Eng) (g : BitVec 4) (pd : BitVec 3) (a : BitVec 6) (b : BitVec 6) :
    ReadBack.Statement (.cmpLt e g pd a b) := by
  intro e' w h hw
  cases h
  have := g.isLt
  have := pd.isLt
  have := a.isLt
  have := b.isLt
  have hp : 0 < 2 ^ 30 := by omega
  have hi := wordImm_lt g _ hp
  have hF := wordF_wordOf 0x03 0x02 (pd.toNat) (a.toNat) (b.toNat) _ (by decide) (by decide) (by omega) (by omega) (by omega) hi
  refine ⟨?_, wordOf_lt _ _ _ _ _ _ (by decide) (by decide) (by omega) (by omega) (by omega) hi⟩
  rw [image_03 hF]
  simp only [wordCmp, wordImm_rest _ _ _ _ _ _ _ hp, wordImm_g _ _ _ _ _ _ _ hp]
  refine kept_req ?_ ?_ hw
  · simp only [fits, Bool.and_eq_true, decide_eq_true_eq, and_true]; omega
  · congr 1 <;> exact ofNat_self _ _ (by omega)

theorem ReadBack.cmpLtu (e : Eng) (g : BitVec 4) (pd : BitVec 3) (a : BitVec 6) (b : BitVec 6) :
    ReadBack.Statement (.cmpLtu e g pd a b) := by
  intro e' w h hw
  cases h
  have := g.isLt
  have := pd.isLt
  have := a.isLt
  have := b.isLt
  have hp : 0 < 2 ^ 30 := by omega
  have hi := wordImm_lt g _ hp
  have hF := wordF_wordOf 0x03 0x03 (pd.toNat) (a.toNat) (b.toNat) _ (by decide) (by decide) (by omega) (by omega) (by omega) hi
  refine ⟨?_, wordOf_lt _ _ _ _ _ _ (by decide) (by decide) (by omega) (by omega) (by omega) hi⟩
  rw [image_03 hF]
  simp only [wordCmp, wordImm_rest _ _ _ _ _ _ _ hp, wordImm_g _ _ _ _ _ _ _ hp]
  refine kept_req ?_ ?_ hw
  · simp only [fits, Bool.and_eq_true, decide_eq_true_eq, and_true]; omega
  · congr 1 <;> exact ofNat_self _ _ (by omega)

theorem ReadBack.cmpLe (e : Eng) (g : BitVec 4) (pd : BitVec 3) (a : BitVec 6) (b : BitVec 6) :
    ReadBack.Statement (.cmpLe e g pd a b) := by
  intro e' w h hw
  cases h
  have := g.isLt
  have := pd.isLt
  have := a.isLt
  have := b.isLt
  have hp : 0 < 2 ^ 30 := by omega
  have hi := wordImm_lt g _ hp
  have hF := wordF_wordOf 0x03 0x04 (pd.toNat) (a.toNat) (b.toNat) _ (by decide) (by decide) (by omega) (by omega) (by omega) hi
  refine ⟨?_, wordOf_lt _ _ _ _ _ _ (by decide) (by decide) (by omega) (by omega) (by omega) hi⟩
  rw [image_03 hF]
  simp only [wordCmp, wordImm_rest _ _ _ _ _ _ _ hp, wordImm_g _ _ _ _ _ _ _ hp]
  refine kept_req ?_ ?_ hw
  · simp only [fits, Bool.and_eq_true, decide_eq_true_eq, and_true]; omega
  · congr 1 <;> exact ofNat_self _ _ (by omega)

theorem ReadBack.cmpLeu (e : Eng) (g : BitVec 4) (pd : BitVec 3) (a : BitVec 6) (b : BitVec 6) :
    ReadBack.Statement (.cmpLeu e g pd a b) := by
  intro e' w h hw
  cases h
  have := g.isLt
  have := pd.isLt
  have := a.isLt
  have := b.isLt
  have hp : 0 < 2 ^ 30 := by omega
  have hi := wordImm_lt g _ hp
  have hF := wordF_wordOf 0x03 0x05 (pd.toNat) (a.toNat) (b.toNat) _ (by decide) (by decide) (by omega) (by omega) (by omega) hi
  refine ⟨?_, wordOf_lt _ _ _ _ _ _ (by decide) (by decide) (by omega) (by omega) (by omega) hi⟩
  rw [image_03 hF]
  simp only [wordCmp, wordImm_rest _ _ _ _ _ _ _ hp, wordImm_g _ _ _ _ _ _ _ hp]
  refine kept_req ?_ ?_ hw
  · simp only [fits, Bool.and_eq_true, decide_eq_true_eq, and_true]; omega
  · congr 1 <;> exact ofNat_self _ _ (by omega)

theorem ReadBack.cmpiEq (e : Eng) (pd : BitVec 3) (a : BitVec 6) (imm : BitVec 34) :
    ReadBack.Statement (.cmpiEq e pd a imm) := by
  intro e' w h hw
  cases h
  have := pd.isLt
  have := a.isLt
  have := imm.isLt
  have hi : imm.toNat < 2 ^ 34 := by omega
  have hF := wordF_wordOf 0x04 0x00 (pd.toNat) (a.toNat) (0) _ (by decide) (by decide) (by omega) (by omega) (by omega) hi
  refine ⟨?_, wordOf_lt _ _ _ _ _ _ (by decide) (by decide) (by omega) (by omega) (by omega) hi⟩
  rw [image_04 hF]
  simp only [wordCmpI, WordF.imm34]
  refine kept_req ?_ ?_ hw
  · simp only [fits, Bool.and_eq_true, decide_eq_true_eq, and_true]; omega
  · congr 1 <;> exact ofNat_self _ _ (by omega)

theorem ReadBack.cmpiNe (e : Eng) (pd : BitVec 3) (a : BitVec 6) (imm : BitVec 34) :
    ReadBack.Statement (.cmpiNe e pd a imm) := by
  intro e' w h hw
  cases h
  have := pd.isLt
  have := a.isLt
  have := imm.isLt
  have hi : imm.toNat < 2 ^ 34 := by omega
  have hF := wordF_wordOf 0x04 0x01 (pd.toNat) (a.toNat) (0) _ (by decide) (by decide) (by omega) (by omega) (by omega) hi
  refine ⟨?_, wordOf_lt _ _ _ _ _ _ (by decide) (by decide) (by omega) (by omega) (by omega) hi⟩
  rw [image_04 hF]
  simp only [wordCmpI, WordF.imm34]
  refine kept_req ?_ ?_ hw
  · simp only [fits, Bool.and_eq_true, decide_eq_true_eq, and_true]; omega
  · congr 1 <;> exact ofNat_self _ _ (by omega)

theorem ReadBack.cmpiLt (e : Eng) (pd : BitVec 3) (a : BitVec 6) (imm : BitVec 34) :
    ReadBack.Statement (.cmpiLt e pd a imm) := by
  intro e' w h hw
  cases h
  have := pd.isLt
  have := a.isLt
  have := imm.isLt
  have hi : imm.toNat < 2 ^ 34 := by omega
  have hF := wordF_wordOf 0x04 0x02 (pd.toNat) (a.toNat) (0) _ (by decide) (by decide) (by omega) (by omega) (by omega) hi
  refine ⟨?_, wordOf_lt _ _ _ _ _ _ (by decide) (by decide) (by omega) (by omega) (by omega) hi⟩
  rw [image_04 hF]
  simp only [wordCmpI, WordF.imm34]
  refine kept_req ?_ ?_ hw
  · simp only [fits, Bool.and_eq_true, decide_eq_true_eq, and_true]; omega
  · congr 1 <;> exact ofNat_self _ _ (by omega)

theorem ReadBack.cmpiLtu (e : Eng) (pd : BitVec 3) (a : BitVec 6) (imm : BitVec 34) :
    ReadBack.Statement (.cmpiLtu e pd a imm) := by
  intro e' w h hw
  cases h
  have := pd.isLt
  have := a.isLt
  have := imm.isLt
  have hi : imm.toNat < 2 ^ 34 := by omega
  have hF := wordF_wordOf 0x04 0x03 (pd.toNat) (a.toNat) (0) _ (by decide) (by decide) (by omega) (by omega) (by omega) hi
  refine ⟨?_, wordOf_lt _ _ _ _ _ _ (by decide) (by decide) (by omega) (by omega) (by omega) hi⟩
  rw [image_04 hF]
  simp only [wordCmpI, WordF.imm34]
  refine kept_req ?_ ?_ hw
  · simp only [fits, Bool.and_eq_true, decide_eq_true_eq, and_true]; omega
  · congr 1 <;> exact ofNat_self _ _ (by omega)

theorem ReadBack.cmpiLe (e : Eng) (pd : BitVec 3) (a : BitVec 6) (imm : BitVec 34) :
    ReadBack.Statement (.cmpiLe e pd a imm) := by
  intro e' w h hw
  cases h
  have := pd.isLt
  have := a.isLt
  have := imm.isLt
  have hi : imm.toNat < 2 ^ 34 := by omega
  have hF := wordF_wordOf 0x04 0x04 (pd.toNat) (a.toNat) (0) _ (by decide) (by decide) (by omega) (by omega) (by omega) hi
  refine ⟨?_, wordOf_lt _ _ _ _ _ _ (by decide) (by decide) (by omega) (by omega) (by omega) hi⟩
  rw [image_04 hF]
  simp only [wordCmpI, WordF.imm34]
  refine kept_req ?_ ?_ hw
  · simp only [fits, Bool.and_eq_true, decide_eq_true_eq, and_true]; omega
  · congr 1 <;> exact ofNat_self _ _ (by omega)

theorem ReadBack.cmpiLeu (e : Eng) (pd : BitVec 3) (a : BitVec 6) (imm : BitVec 34) :
    ReadBack.Statement (.cmpiLeu e pd a imm) := by
  intro e' w h hw
  cases h
  have := pd.isLt
  have := a.isLt
  have := imm.isLt
  have hi : imm.toNat < 2 ^ 34 := by omega
  have hF := wordF_wordOf 0x04 0x05 (pd.toNat) (a.toNat) (0) _ (by decide) (by decide) (by omega) (by omega) (by omega) hi
  refine ⟨?_, wordOf_lt _ _ _ _ _ _ (by decide) (by decide) (by omega) (by omega) (by omega) hi⟩
  rw [image_04 hF]
  simp only [wordCmpI, WordF.imm34]
  refine kept_req ?_ ?_ hw
  · simp only [fits, Bool.and_eq_true, decide_eq_true_eq, and_true]; omega
  · congr 1 <;> exact ofNat_self _ _ (by omega)

theorem ReadBack.pand (e : Eng) (pd : BitVec 3) (pa : BitVec 3) (pb : BitVec 3) :
    ReadBack.Statement (.pand e pd pa pb) := by
  intro e' w h hw
  cases h
  have := pd.isLt
  have := pa.isLt
  have := pb.isLt
  have hi : 0 < 2 ^ 34 := by omega
  have hF := wordF_wordOf 0x05 0x00 (pd.toNat) (pa.toNat) (pb.toNat) _ (by decide) (by decide) (by omega) (by omega) (by omega) hi
  refine ⟨?_, wordOf_lt _ _ _ _ _ _ (by decide) (by decide) (by omega) (by omega) (by omega) hi⟩
  rw [image_05 hF]
  simp only [wordPred]
  refine kept_req ?_ ?_ hw
  · simp only [fits, Bool.and_eq_true, decide_eq_true_eq, and_true]; omega
  · congr 1 <;> exact ofNat_self _ _ (by omega)

theorem ReadBack.por (e : Eng) (pd : BitVec 3) (pa : BitVec 3) (pb : BitVec 3) :
    ReadBack.Statement (.por e pd pa pb) := by
  intro e' w h hw
  cases h
  have := pd.isLt
  have := pa.isLt
  have := pb.isLt
  have hi : 0 < 2 ^ 34 := by omega
  have hF := wordF_wordOf 0x05 0x01 (pd.toNat) (pa.toNat) (pb.toNat) _ (by decide) (by decide) (by omega) (by omega) (by omega) hi
  refine ⟨?_, wordOf_lt _ _ _ _ _ _ (by decide) (by decide) (by omega) (by omega) (by omega) hi⟩
  rw [image_05 hF]
  simp only [wordPred]
  refine kept_req ?_ ?_ hw
  · simp only [fits, Bool.and_eq_true, decide_eq_true_eq, and_true]; omega
  · congr 1 <;> exact ofNat_self _ _ (by omega)

theorem ReadBack.pxor (e : Eng) (pd : BitVec 3) (pa : BitVec 3) (pb : BitVec 3) :
    ReadBack.Statement (.pxor e pd pa pb) := by
  intro e' w h hw
  cases h
  have := pd.isLt
  have := pa.isLt
  have := pb.isLt
  have hi : 0 < 2 ^ 34 := by omega
  have hF := wordF_wordOf 0x05 0x02 (pd.toNat) (pa.toNat) (pb.toNat) _ (by decide) (by decide) (by omega) (by omega) (by omega) hi
  refine ⟨?_, wordOf_lt _ _ _ _ _ _ (by decide) (by decide) (by omega) (by omega) (by omega) hi⟩
  rw [image_05 hF]
  simp only [wordPred]
  refine kept_req ?_ ?_ hw
  · simp only [fits, Bool.and_eq_true, decide_eq_true_eq, and_true]; omega
  · congr 1 <;> exact ofNat_self _ _ (by omega)

theorem ReadBack.pandn (e : Eng) (pd : BitVec 3) (pa : BitVec 3) (pb : BitVec 3) :
    ReadBack.Statement (.pandn e pd pa pb) := by
  intro e' w h hw
  cases h
  have := pd.isLt
  have := pa.isLt
  have := pb.isLt
  have hi : 0 < 2 ^ 34 := by omega
  have hF := wordF_wordOf 0x05 0x03 (pd.toNat) (pa.toNat) (pb.toNat) _ (by decide) (by decide) (by omega) (by omega) (by omega) hi
  refine ⟨?_, wordOf_lt _ _ _ _ _ _ (by decide) (by decide) (by omega) (by omega) (by omega) hi⟩
  rw [image_05 hF]
  simp only [wordPred]
  refine kept_req ?_ ?_ hw
  · simp only [fits, Bool.and_eq_true, decide_eq_true_eq, and_true]; omega
  · congr 1 <;> exact ofNat_self _ _ (by omega)

theorem ReadBack.pset (e : Eng) (pd : BitVec 3) (b : Bool) : ReadBack.Statement (.pset e pd b) := by
  intro e' w h hw
  cases h
  have := pd.isLt
  have := Bool.toNat_lt b
  have hi : b.toNat < 2 ^ 34 := by omega
  have hF := wordF_wordOf 0x05 0x04 (pd.toNat) (0) (0) _ (by decide) (by decide) (by omega) (by omega) (by omega) hi
  refine ⟨?_, wordOf_lt _ _ _ _ _ _ (by decide) (by decide) (by omega) (by omega) (by omega) hi⟩
  rw [image_05 hF]
  simp only [wordPred]
  refine kept_req ?_ ?_ hw
  · simp only [fits, Bool.and_eq_true, decide_eq_true_eq, and_true, and_self]; omega
  · congr 1 <;> first | exact ofNat_self _ _ (by omega) | exact decide_toNat _ _ (by omega)

theorem ReadBack.rd (e : Eng) (d : BitVec 6) (sel : BitVec 8) : ReadBack.Statement (.rd e d sel) := by
  intro e' w h hw
  cases h
  have := d.isLt
  have := sel.isLt
  have hi : sel.toNat < 2 ^ 34 := by omega
  have hF := wordF_wordOf 0x06 0x00 (d.toNat) (0) (0) _ (by decide) (by decide) (by omega) (by omega) (by omega) hi
  refine ⟨?_, wordOf_lt _ _ _ _ _ _ (by decide) (by decide) (by omega) (by omega) (by omega) hi⟩
  rw [image_06 hF]
  refine kept_req ?_ ?_ hw
  · simp only [fits, Bool.and_eq_true, decide_eq_true_eq, true_and, and_self]; omega
  · congr 1 <;> exact ofNat_self _ _ (by omega)

theorem ReadBack.nop (e : Eng) : ReadBack.Statement (.nop e) := by
  intro e' w h hw
  cases h
  have hi : 0 < 2 ^ 34 := by omega
  have hF := wordF_wordOf 0x08 0x00 (0) (0) (0) _ (by decide) (by decide) (by omega) (by omega) (by omega) hi
  refine ⟨?_, wordOf_lt _ _ _ _ _ _ (by decide) (by decide) (by omega) (by omega) (by omega) hi⟩
  rw [image_08 hF]
  simp only [wordCtl]
  refine kept_req ?_ ?_ hw
  · rfl
  · congr 1 <;> exact ofNat_self _ _ (by omega)

theorem ReadBack.br (e : Eng) (g : BitVec 4) (off : BitVec 14) : ReadBack.Statement (.br e g off) := by
  intro e' w h hw
  cases h
  have := g.isLt
  have := off.isLt
  have hp : off.toNat < 2 ^ 30 := by omega
  have hi := wordImm_lt g _ hp
  have hF := wordF_wordOf 0x08 0x01 (0) (0) (0) _ (by decide) (by decide) (by omega) (by omega) (by omega) hi
  refine ⟨?_, wordOf_lt _ _ _ _ _ _ (by decide) (by decide) (by omega) (by omega) (by omega) hi⟩
  rw [image_08 hF]
  simp only [wordCtl, wordImm_rest _ _ _ _ _ _ _ hp, wordImm_g _ _ _ _ _ _ _ hp]
  refine kept_req ?_ ?_ hw
  · simp only [fits, Bool.and_eq_true, decide_eq_true_eq, true_and, and_self]; omega
  · congr 1 <;> exact ofNat_self _ _ (by simp only [wordImm]; omega)

theorem ReadBack.loop (e : Eng) (n : BitVec 20) (len : BitVec 14) : ReadBack.Statement (.loop e n len) := by
  intro e' w h hw
  cases h
  have := n.isLt
  have := len.isLt
  have hi : n.toNat * 2 ^ 14 + len.toNat < 2 ^ 34 := by omega
  have hF := wordF_wordOf 0x08 0x02 (0) (0) (0) _ (by decide) (by decide) (by omega) (by omega) (by omega) hi
  refine ⟨?_, wordOf_lt _ _ _ _ _ _ (by decide) (by decide) (by omega) (by omega) (by omega) hi⟩
  rw [image_08 hF]
  simp only [wordCtl]
  refine kept_req ?_ ?_ hw
  · rfl
  · congr 1 <;> exact ofNat_self _ _ (by omega)

theorem ReadBack.loopr (e : Eng) (pd : BitVec 3) (a : BitVec 6) (m : BitVec 20) (len : BitVec 14) :
    ReadBack.Statement (.loopr e pd a m len) := by
  intro e' w h hw
  cases h
  have := pd.isLt
  have := a.isLt
  have := m.isLt
  have := len.isLt
  have hi : m.toNat * 2 ^ 14 + len.toNat < 2 ^ 34 := by omega
  have hF := wordF_wordOf 0x08 0x03 (pd.toNat) (a.toNat) (0) _ (by decide) (by decide) (by omega) (by omega) (by omega) hi
  refine ⟨?_, wordOf_lt _ _ _ _ _ _ (by decide) (by decide) (by omega) (by omega) (by omega) hi⟩
  rw [image_08 hF]
  simp only [wordCtl]
  refine kept_req ?_ ?_ hw
  · simp only [fits, Bool.and_eq_true, decide_eq_true_eq, and_true]; omega
  · congr 1 <;> exact ofNat_self _ _ (by omega)

theorem ReadBack.wtick (e : Eng) : ReadBack.Statement (.wtick e) := by
  intro e' w h hw
  cases h
  have hi : 0 < 2 ^ 34 := by omega
  have hF := wordF_wordOf 0x08 0x3F (0) (0) (0) _ (by decide) (by decide) (by omega) (by omega) (by omega) hi
  refine ⟨?_, wordOf_lt _ _ _ _ _ _ (by decide) (by decide) (by omega) (by omega) (by omega) hi⟩
  rw [image_08 hF]
  simp only [wordCtl]
  refine kept_req ?_ ?_ hw
  · rfl
  · congr 1 <;> exact ofNat_self _ _ (by omega)

theorem ReadBack.lds (e : Eng) (g : BitVec 4) (d : BitVec 6) (a : BitVec 6) (off : BitVec 24) :
    ReadBack.Statement (.lds e g d a off) := by
  intro e' w h hw
  cases h
  have := g.isLt
  have := d.isLt
  have := a.isLt
  have := off.isLt
  have hp : off.toNat < 2 ^ 30 := by omega
  have hi := wordImm_lt g _ hp
  have hF := wordF_wordOf 0x0A 0x00 (d.toNat) (a.toNat) (0) _ (by decide) (by decide) (by omega) (by omega) (by omega) hi
  refine ⟨?_, wordOf_lt _ _ _ _ _ _ (by decide) (by decide) (by omega) (by omega) (by omega) hi⟩
  rw [image_0A hF]
  simp only [wordMove, wordImm_rest _ _ _ _ _ _ _ hp, wordImm_g _ _ _ _ _ _ _ hp]
  refine kept_req ?_ ?_ hw
  · simp only [fits, Bool.and_eq_true, decide_eq_true_eq, true_and]; omega
  · congr 1 <;> exact ofNat_self _ _ (by omega)

theorem ReadBack.sts (e : Eng) (g : BitVec 4) (b : BitVec 6) (a : BitVec 6) (off : BitVec 24) :
    ReadBack.Statement (.sts e g b a off) := by
  intro e' w h hw
  cases h
  have := g.isLt
  have := b.isLt
  have := a.isLt
  have := off.isLt
  have hp : off.toNat < 2 ^ 30 := by omega
  have hi := wordImm_lt g _ hp
  have hF := wordF_wordOf 0x0A 0x01 (0) (a.toNat) (b.toNat) _ (by decide) (by decide) (by omega) (by omega) (by omega) hi
  refine ⟨?_, wordOf_lt _ _ _ _ _ _ (by decide) (by decide) (by omega) (by omega) (by omega) hi⟩
  rw [image_0A hF]
  simp only [wordMove, wordImm_rest _ _ _ _ _ _ _ hp, wordImm_g _ _ _ _ _ _ _ hp]
  refine kept_req ?_ ?_ hw
  · simp only [fits, Bool.and_eq_true, decide_eq_true_eq, true_and]; omega
  · congr 1 <;> exact ofNat_self _ _ (by omega)

theorem ReadBack.ldw (e : Eng) (dd : BitVec 4) (a : BitVec 6) : ReadBack.Statement (.ldw e dd a) := by
  intro e' w h hw
  cases h
  have := dd.isLt
  have := a.isLt
  have hi : 0 < 2 ^ 34 := by omega
  have hF := wordF_wordOf 0x0A 0x02 (dd.toNat) (a.toNat) (0) _ (by decide) (by decide) (by omega) (by omega) (by omega) hi
  refine ⟨?_, wordOf_lt _ _ _ _ _ _ (by decide) (by decide) (by omega) (by omega) (by omega) hi⟩
  rw [image_0A hF]
  simp only [wordMove]
  refine kept_req ?_ ?_ hw
  · simp only [fits, Bool.and_eq_true, decide_eq_true_eq, and_true, and_self]; omega
  · congr 1 <;> exact ofNat_self _ _ (by omega)

theorem ReadBack.hld (e : Eng) (g : BitVec 4) (dd : BitVec 4) (da : BitVec 4) (rows : BitVec 12) :
    ReadBack.Statement (.hld e g dd da rows) := by
  intro e' w h hw
  cases h
  have := g.isLt
  have := dd.isLt
  have := da.isLt
  have := rows.isLt
  have hp : rows.toNat < 2 ^ 30 := by omega
  have hi := wordImm_lt g _ hp
  have hF := wordF_wordOf 0x0A 0x03 (dd.toNat) (da.toNat) (0) _ (by decide) (by decide) (by omega) (by omega) (by omega) hi
  refine ⟨?_, wordOf_lt _ _ _ _ _ _ (by decide) (by decide) (by omega) (by omega) (by omega) hi⟩
  rw [image_0A hF]
  simp only [wordMove, wordImm_rest _ _ _ _ _ _ _ hp, wordImm_g _ _ _ _ _ _ _ hp]
  refine kept_req ?_ ?_ hw
  · simp only [fits, Bool.and_eq_true, decide_eq_true_eq, and_true]; omega
  · congr 1 <;> exact ofNat_self _ _ (by omega)

theorem ReadBack.hst (e : Eng) (g : BitVec 4) (dd : BitVec 4) (da : BitVec 4) (rows : BitVec 12) :
    ReadBack.Statement (.hst e g dd da rows) := by
  intro e' w h hw
  cases h
  have := g.isLt
  have := dd.isLt
  have := da.isLt
  have := rows.isLt
  have hp : rows.toNat < 2 ^ 30 := by omega
  have hi := wordImm_lt g _ hp
  have hF := wordF_wordOf 0x0A 0x04 (dd.toNat) (da.toNat) (0) _ (by decide) (by decide) (by omega) (by omega) (by omega) hi
  refine ⟨?_, wordOf_lt _ _ _ _ _ _ (by decide) (by decide) (by omega) (by omega) (by omega) hi⟩
  rw [image_0A hF]
  simp only [wordMove, wordImm_rest _ _ _ _ _ _ _ hp, wordImm_g _ _ _ _ _ _ _ hp]
  refine kept_req ?_ ?_ hw
  · simp only [fits, Bool.and_eq_true, decide_eq_true_eq, and_true]; omega
  · congr 1 <;> exact ofNat_self _ _ (by omega)

theorem ReadBack.copyComplete (e : Eng) (k : Nat) : ReadBack.Statement (.copyComplete e k) :=
  fun _ _ h => nomatch h

theorem ReadBack.push (e : Eng) (g : BitVec 4) (q : BitVec 4) (a : BitVec 6) : ReadBack.Statement (.push e g q a) := by
  intro e' w h hw
  cases h
  have := g.isLt
  have := q.isLt
  have := a.isLt
  have hp : 0 < 2 ^ 30 := by omega
  have hi := wordImm_lt g _ hp
  have hF := wordF_wordOf 0x0C 0x00 (q.toNat) (a.toNat) (0) _ (by decide) (by decide) (by omega) (by omega) (by omega) hi
  refine ⟨?_, wordOf_lt _ _ _ _ _ _ (by decide) (by decide) (by omega) (by omega) (by omega) hi⟩
  rw [image_0C hF]
  simp only [wordChain, wordImm_rest _ _ _ _ _ _ _ hp, wordImm_g _ _ _ _ _ _ _ hp]
  refine kept_req ?_ ?_ hw
  · simp only [fits, Bool.and_eq_true, decide_eq_true_eq, and_true, and_self]; omega
  · congr 1 <;> exact ofNat_self _ _ (by omega)

theorem ReadBack.pushr (e : Eng) (g : BitVec 4) (q : BitVec 4) (a : BitVec 6) :
    ReadBack.Statement (.pushr e g q a) := by
  intro e' w h hw
  cases h
  have := g.isLt
  have := q.isLt
  have := a.isLt
  have hp : 0 < 2 ^ 30 := by omega
  have hi := wordImm_lt g _ hp
  have hF := wordF_wordOf 0x0C 0x01 (q.toNat) (a.toNat) (0) _ (by decide) (by decide) (by omega) (by omega) (by omega) hi
  refine ⟨?_, wordOf_lt _ _ _ _ _ _ (by decide) (by decide) (by omega) (by omega) (by omega) hi⟩
  rw [image_0C hF]
  simp only [wordChain, wordImm_rest _ _ _ _ _ _ _ hp, wordImm_g _ _ _ _ _ _ _ hp]
  refine kept_req ?_ ?_ hw
  · simp only [fits, Bool.and_eq_true, decide_eq_true_eq, and_true, and_self]; omega
  · congr 1 <;> exact ofNat_self _ _ (by omega)

theorem ReadBack.chainSpaceFreed (c : Fin 256) (ep : Fin 128) : ReadBack.Statement (.chainSpaceFreed c ep) :=
  fun _ _ h => nomatch h

theorem ReadBack.commit (e : Eng) (g : BitVec 4) (q : BitVec 4) : ReadBack.Statement (.commit e g q) := by
  intro e' w h hw
  cases h
  have := g.isLt
  have := q.isLt
  have hp : 0 < 2 ^ 30 := by omega
  have hi := wordImm_lt g _ hp
  have hF := wordF_wordOf 0x0C 0x02 (q.toNat) (0) (0) _ (by decide) (by decide) (by omega) (by omega) (by omega) hi
  refine ⟨?_, wordOf_lt _ _ _ _ _ _ (by decide) (by decide) (by omega) (by omega) (by omega) hi⟩
  rw [image_0C hF]
  simp only [wordChain, wordImm_rest _ _ _ _ _ _ _ hp, wordImm_g _ _ _ _ _ _ _ hp]
  refine kept_req ?_ ?_ hw
  · simp only [fits, Bool.and_eq_true, decide_eq_true_eq, and_true, and_self]; omega
  · congr 1 <;> exact ofNat_self _ _ (by omega)

theorem ReadBack.rewind (e : Eng) (g : BitVec 4) (q : BitVec 4) : ReadBack.Statement (.rewind e g q) := by
  intro e' w h hw
  cases h
  have := g.isLt
  have := q.isLt
  have hp : 0 < 2 ^ 30 := by omega
  have hi := wordImm_lt g _ hp
  have hF := wordF_wordOf 0x0C 0x03 (q.toNat) (0) (0) _ (by decide) (by decide) (by omega) (by omega) (by omega) hi
  refine ⟨?_, wordOf_lt _ _ _ _ _ _ (by decide) (by decide) (by omega) (by omega) (by omega) hi⟩
  rw [image_0C hF]
  simp only [wordChain, wordImm_rest _ _ _ _ _ _ _ hp, wordImm_g _ _ _ _ _ _ _ hp]
  refine kept_req ?_ ?_ hw
  · simp only [fits, Bool.and_eq_true, decide_eq_true_eq, and_true, and_self]; omega
  · congr 1 <;> exact ofNat_self _ _ (by omega)

theorem ReadBack.pop (e : Eng) (g : BitVec 4) (d : BitVec 6) (q : BitVec 4) : ReadBack.Statement (.pop e g d q) := by
  intro e' w h hw
  cases h
  have := g.isLt
  have := d.isLt
  have := q.isLt
  have hp : 0 < 2 ^ 30 := by omega
  have hi := wordImm_lt g _ hp
  have hF := wordF_wordOf 0x0C 0x04 (d.toNat) (q.toNat) (0) _ (by decide) (by decide) (by omega) (by omega) (by omega) hi
  refine ⟨?_, wordOf_lt _ _ _ _ _ _ (by decide) (by decide) (by omega) (by omega) (by omega) hi⟩
  rw [image_0C hF]
  simp only [wordChain, wordImm_rest _ _ _ _ _ _ _ hp, wordImm_g _ _ _ _ _ _ _ hp]
  refine kept_req ?_ ?_ hw
  · simp only [fits, Bool.and_eq_true, decide_eq_true_eq, and_true, and_self]; omega
  · congr 1 <;> exact ofNat_self _ _ (by omega)

theorem ReadBack.cred (e : Eng) (g : BitVec 4) (d : BitVec 6) (q : BitVec 4) : ReadBack.Statement (.cred e g d q) := by
  intro e' w h hw
  cases h
  have := g.isLt
  have := d.isLt
  have := q.isLt
  have hp : 0 < 2 ^ 30 := by omega
  have hi := wordImm_lt g _ hp
  have hF := wordF_wordOf 0x0C 0x05 (d.toNat) (q.toNat) (0) _ (by decide) (by decide) (by omega) (by omega) (by omega) hi
  refine ⟨?_, wordOf_lt _ _ _ _ _ _ (by decide) (by decide) (by omega) (by omega) (by omega) hi⟩
  rw [image_0C hF]
  simp only [wordChain, wordImm_rest _ _ _ _ _ _ _ hp, wordImm_g _ _ _ _ _ _ _ hp]
  refine kept_req ?_ ?_ hw
  · simp only [fits, Bool.and_eq_true, decide_eq_true_eq, and_true, and_self]; omega
  · congr 1 <;> exact ofNat_self _ _ (by omega)

theorem ReadBack.cnt (e : Eng) (g : BitVec 4) (d : BitVec 6) (q : BitVec 4) : ReadBack.Statement (.cnt e g d q) := by
  intro e' w h hw
  cases h
  have := g.isLt
  have := d.isLt
  have := q.isLt
  have hp : 0 < 2 ^ 30 := by omega
  have hi := wordImm_lt g _ hp
  have hF := wordF_wordOf 0x0C 0x06 (d.toNat) (q.toNat) (0) _ (by decide) (by decide) (by omega) (by omega) (by omega) hi
  refine ⟨?_, wordOf_lt _ _ _ _ _ _ (by decide) (by decide) (by omega) (by omega) (by omega) hi⟩
  rw [image_0C hF]
  simp only [wordChain, wordImm_rest _ _ _ _ _ _ _ hp, wordImm_g _ _ _ _ _ _ _ hp]
  refine kept_req ?_ ?_ hw
  · simp only [fits, Bool.and_eq_true, decide_eq_true_eq, and_true, and_self]; omega
  · congr 1 <;> exact ofNat_self _ _ (by omega)

theorem ReadBack.fence (e : Eng) (mask : BitVec 3) : ReadBack.Statement (.fence e mask) := by
  intro e' w h hw
  cases h
  have := mask.isLt
  have hi : mask.toNat < 2 ^ 34 := by omega
  have hF := wordF_wordOf 0x0E 0x00 (0) (0) (0) _ (by decide) (by decide) (by omega) (by omega) (by omega) hi
  refine ⟨?_, wordOf_lt _ _ _ _ _ _ (by decide) (by decide) (by omega) (by omega) (by omega) hi⟩
  rw [image_0E hF]
  simp only [wordSync]
  refine kept_req ?_ ?_ hw
  · simp only [fits, Bool.and_eq_true, decide_eq_true_eq, true_and, and_self]; omega
  · congr 1 <;> exact ofNat_self _ _ (by omega)

theorem ReadBack.event (e : Eng) (g : BitVec 4) (code : BitVec 11) : ReadBack.Statement (.event e g code) := by
  intro e' w h hw
  cases h
  have := g.isLt
  have := code.isLt
  have hp : code.toNat < 2 ^ 30 := by omega
  have hi := wordImm_lt g _ hp
  have hF := wordF_wordOf 0x0E 0x01 (0) (0) (0) _ (by decide) (by decide) (by omega) (by omega) (by omega) hi
  refine ⟨?_, wordOf_lt _ _ _ _ _ _ (by decide) (by decide) (by omega) (by omega) (by omega) hi⟩
  rw [image_0E hF]
  simp only [wordSync, wordImm_rest _ _ _ _ _ _ _ hp, wordImm_g _ _ _ _ _ _ _ hp]
  refine kept_req ?_ ?_ hw
  · simp only [fits, Bool.and_eq_true, decide_eq_true_eq, true_and, and_self]; omega
  · congr 1 <;> exact ofNat_self _ _ (by omega)

theorem ReadBack.dlo (e : Eng) (g : BitVec 4) (dd : BitVec 4) (a : BitVec 6) : ReadBack.Statement (.dlo e g dd a) := by
  intro e' w h hw
  cases h
  have := g.isLt
  have := dd.isLt
  have := a.isLt
  have hp : 0 < 2 ^ 30 := by omega
  have hi := wordImm_lt g _ hp
  have hF := wordF_wordOf 0x10 0x00 (dd.toNat) (a.toNat) (0) _ (by decide) (by decide) (by omega) (by omega) (by omega) hi
  refine ⟨?_, wordOf_lt _ _ _ _ _ _ (by decide) (by decide) (by omega) (by omega) (by omega) hi⟩
  rw [image_10 hF]
  simp only [wordCore, wordImm_rest _ _ _ _ _ _ _ hp, wordImm_g _ _ _ _ _ _ _ hp]
  refine kept_req ?_ ?_ hw
  · simp only [fits, Bool.and_eq_true, decide_eq_true_eq, and_true]; omega
  · congr 1 <;> exact ofNat_self _ _ (by omega)

theorem ReadBack.dhi (e : Eng) (g : BitVec 4) (dd : BitVec 4) (a : BitVec 6) : ReadBack.Statement (.dhi e g dd a) := by
  intro e' w h hw
  cases h
  have := g.isLt
  have := dd.isLt
  have := a.isLt
  have hp : 0 < 2 ^ 30 := by omega
  have hi := wordImm_lt g _ hp
  have hF := wordF_wordOf 0x10 0x01 (dd.toNat) (a.toNat) (0) _ (by decide) (by decide) (by omega) (by omega) (by omega) hi
  refine ⟨?_, wordOf_lt _ _ _ _ _ _ (by decide) (by decide) (by omega) (by omega) (by omega) hi⟩
  rw [image_10 hF]
  simp only [wordCore, wordImm_rest _ _ _ _ _ _ _ hp, wordImm_g _ _ _ _ _ _ _ hp]
  refine kept_req ?_ ?_ hw
  · simp only [fits, Bool.and_eq_true, decide_eq_true_eq, and_true]; omega
  · congr 1 <;> exact ofNat_self _ _ (by omega)

theorem ReadBack.dfmt (e : Eng) (g : BitVec 4) (dd : BitVec 4) (a : BitVec 6) :
    ReadBack.Statement (.dfmt e g dd a) := by
  intro e' w h hw
  cases h
  have := g.isLt
  have := dd.isLt
  have := a.isLt
  have hp : 0 < 2 ^ 30 := by omega
  have hi := wordImm_lt g _ hp
  have hF := wordF_wordOf 0x10 0x02 (dd.toNat) (a.toNat) (0) _ (by decide) (by decide) (by omega) (by omega) (by omega) hi
  refine ⟨?_, wordOf_lt _ _ _ _ _ _ (by decide) (by decide) (by omega) (by omega) (by omega) hi⟩
  rw [image_10 hF]
  simp only [wordCore, wordImm_rest _ _ _ _ _ _ _ hp, wordImm_g _ _ _ _ _ _ _ hp]
  refine kept_req ?_ ?_ hw
  · simp only [fits, Bool.and_eq_true, decide_eq_true_eq, and_true]; omega
  · congr 1 <;> exact ofNat_self _ _ (by omega)

theorem ReadBack.dadv (e : Eng) (g : BitVec 4) (dd : BitVec 4) (r : BitVec 16) :
    ReadBack.Statement (.dadv e g dd r) := by
  intro e' w h hw
  cases h
  have := g.isLt
  have := dd.isLt
  have := r.isLt
  have hp : r.toNat < 2 ^ 30 := by omega
  have hi := wordImm_lt g _ hp
  have hF := wordF_wordOf 0x10 0x03 (dd.toNat) (0) (0) _ (by decide) (by decide) (by omega) (by omega) (by omega) hi
  refine ⟨?_, wordOf_lt _ _ _ _ _ _ (by decide) (by decide) (by omega) (by omega) (by omega) hi⟩
  rw [image_10 hF]
  simp only [wordCore, wordImm_rest _ _ _ _ _ _ _ hp, wordImm_g _ _ _ _ _ _ _ hp]
  refine kept_req ?_ ?_ hw
  · simp only [fits, Bool.and_eq_true, decide_eq_true_eq, and_true, and_self]; omega
  · congr 1 <;> exact ofNat_self _ _ (by omega)

theorem ReadBack.dget (e : Eng) (g : BitVec 4) (d : BitVec 6) (da : BitVec 4) (w : Bool) :
    ReadBack.Statement (.dget e g d da w) := by
  intro e' w h hw
  cases h
  have := g.isLt
  have := d.isLt
  have := da.isLt
  have := Bool.toNat_lt w
  have hp : w.toNat < 2 ^ 30 := by omega
  have hi := wordImm_lt g _ hp
  have hF := wordF_wordOf 0x10 0x04 (d.toNat) (da.toNat) (0) _ (by decide) (by decide) (by omega) (by omega) (by omega) hi
  refine ⟨?_, wordOf_lt _ _ _ _ _ _ (by decide) (by decide) (by omega) (by omega) (by omega) hi⟩
  rw [image_10 hF]
  simp only [wordCore, wordImm_rest _ _ _ _ _ _ _ hp, wordImm_g _ _ _ _ _ _ _ hp]
  refine kept_req ?_ ?_ hw
  · simp only [fits, Bool.and_eq_true, decide_eq_true_eq, and_true]; omega
  · congr 1 <;> first | exact ofNat_self _ _ (by omega) | exact decide_toNat _ _ (by omega)

theorem ReadBack.aclr (e : Eng) (g : BitVec 4) (ad : BitVec 3) : ReadBack.Statement (.aclr e g ad) := by
  intro e' w h hw
  cases h
  have := g.isLt
  have := ad.isLt
  have hp : 0 < 2 ^ 30 := by omega
  have hi := wordImm_lt g _ hp
  have hF := wordF_wordOf 0x10 0x05 (ad.toNat) (0) (0) _ (by decide) (by decide) (by omega) (by omega) (by omega) hi
  refine ⟨?_, wordOf_lt _ _ _ _ _ _ (by decide) (by decide) (by omega) (by omega) (by omega) hi⟩
  rw [image_10 hF]
  simp only [wordCore, wordImm_rest _ _ _ _ _ _ _ hp, wordImm_g _ _ _ _ _ _ _ hp]
  refine kept_req ?_ ?_ hw
  · simp only [fits, Bool.and_eq_true, decide_eq_true_eq, and_true, and_self]; omega
  · congr 1 <;> exact ofNat_self _ _ (by omega)

theorem ReadBack.ard (e : Eng) (g : BitVec 4) (d : BitVec 6) (aa : BitVec 3) (f : BitVec 3) :
    ReadBack.Statement (.ard e g d aa f) := by
  intro e' w h hw
  cases h
  have := g.isLt
  have := d.isLt
  have := aa.isLt
  have := f.isLt
  have hp : f.toNat < 2 ^ 30 := by omega
  have hi := wordImm_lt g _ hp
  have hF := wordF_wordOf 0x10 0x06 (d.toNat) (aa.toNat) (0) _ (by decide) (by decide) (by omega) (by omega) (by omega) hi
  refine ⟨?_, wordOf_lt _ _ _ _ _ _ (by decide) (by decide) (by omega) (by omega) (by omega) hi⟩
  rw [image_10 hF]
  simp only [wordCore, wordImm_rest _ _ _ _ _ _ _ hp, wordImm_g _ _ _ _ _ _ _ hp]
  refine kept_req ?_ ?_ hw
  · simp only [fits, Bool.and_eq_true, decide_eq_true_eq, and_true]; omega
  · congr 1 <;> exact ofNat_self _ _ (by omega)

theorem ReadBack.tld (e : Eng) (g : BitVec 4) (t : BitVec 2) (a : BitVec 6) : ReadBack.Statement (.tld e g t a) := by
  intro e' w h hw
  cases h
  have := g.isLt
  have := t.isLt
  have := a.isLt
  have hp : 0 < 2 ^ 30 := by omega
  have hi := wordImm_lt g _ hp
  have hF := wordF_wordOf 0x10 0x07 (t.toNat) (a.toNat) (0) _ (by decide) (by decide) (by omega) (by omega) (by omega) hi
  refine ⟨?_, wordOf_lt _ _ _ _ _ _ (by decide) (by decide) (by omega) (by omega) (by omega) hi⟩
  rw [image_10 hF]
  simp only [wordCore, wordImm_rest _ _ _ _ _ _ _ hp, wordImm_g _ _ _ _ _ _ _ hp]
  refine kept_req ?_ ?_ hw
  · simp only [fits, Bool.and_eq_true, decide_eq_true_eq, and_true]; omega
  · congr 1 <;> exact ofNat_self _ _ (by omega)

theorem ReadBack.hclr (e : Eng) (g : BitVec 4) : ReadBack.Statement (.hclr e g) := by
  intro e' w h hw
  cases h
  have := g.isLt
  have hp : 0 < 2 ^ 30 := by omega
  have hi := wordImm_lt g _ hp
  have hF := wordF_wordOf 0x10 0x08 (0) (0) (0) _ (by decide) (by decide) (by omega) (by omega) (by omega) hi
  refine ⟨?_, wordOf_lt _ _ _ _ _ _ (by decide) (by decide) (by omega) (by omega) (by omega) hi⟩
  rw [image_10 hF]
  simp only [wordCore, wordImm_rest _ _ _ _ _ _ _ hp, wordImm_g _ _ _ _ _ _ _ hp]
  refine kept_req ?_ ?_ hw
  · rfl
  · congr 1 <;> exact ofNat_self _ _ (by omega)

theorem ReadBack.hput (e : Eng) (g : BitVec 4) (a : BitVec 6) : ReadBack.Statement (.hput e g a) := by
  intro e' w h hw
  cases h
  have := g.isLt
  have := a.isLt
  have hp : 0 < 2 ^ 30 := by omega
  have hi := wordImm_lt g _ hp
  have hF := wordF_wordOf 0x10 0x09 (0) (a.toNat) (0) _ (by decide) (by decide) (by omega) (by omega) (by omega) hi
  refine ⟨?_, wordOf_lt _ _ _ _ _ _ (by decide) (by decide) (by omega) (by omega) (by omega) hi⟩
  rw [image_10 hF]
  simp only [wordCore, wordImm_rest _ _ _ _ _ _ _ hp, wordImm_g _ _ _ _ _ _ _ hp]
  refine kept_req ?_ ?_ hw
  · rfl
  · congr 1 <;> exact ofNat_self _ _ (by omega)

theorem ReadBack.fmrg (e : Eng) (g : BitVec 4) (ncap : BitVec 12) (a : BitVec 6) (b : BitVec 6) :
    ReadBack.Statement (.fmrg e g ncap a b) := by
  intro e' w h hw
  cases h
  have := g.isLt
  have := ncap.isLt
  have := a.isLt
  have := b.isLt
  have hp : 0 < 2 ^ 17 := by omega
  have hi := wordStrm_lt ⟨g, ncap, false⟩ _ hp
  have hF := wordF_wordOf 0x19 0x02 (0) (a.toNat) (b.toNat) _ (by decide) (by decide) (by omega) (by omega) (by omega) hi
  refine ⟨?_, wordOf_lt _ _ _ _ _ _ (by decide) (by decide) (by omega) (by omega) (by omega) hi⟩
  rw [image_seg (by decide) hF]
  simp only [wordSeg, wordStrm_strm _ _ _ _ _ _ _ hp, wordStrm_param _ _ _ _ _ _ _ hp]
  refine kept_req ?_ ?_ hw
  · rfl
  · congr 1 <;> exact ofNat_self _ _ (by omega)

theorem ReadBack.cgat (e : Eng) (x : StreamImm) (d : BitVec 4) (a : BitVec 4) (rec : BitVec 6) :
    ReadBack.Statement (.cgat e x d a rec) := by
  intro e' w h hw
  cases h
  have := d.isLt
  have := a.isLt
  have := rec.isLt
  have hp : 0 < 2 ^ 17 := by omega
  have hi := wordStrm_lt x _ hp
  have hF := wordF_wordOf 0x1C 0x00 (d.toNat) (a.toNat) (rec.toNat) _ (by decide) (by decide) (by omega) (by omega) (by omega) hi
  refine ⟨?_, wordOf_lt _ _ _ _ _ _ (by decide) (by decide) (by omega) (by omega) (by omega) hi⟩
  rw [image_seg (by decide) hF]
  simp only [wordSeg, wordStrm_strm _ _ _ _ _ _ _ hp, wordStrm_param _ _ _ _ _ _ _ hp]
  refine kept_req ?_ ?_ hw
  · simp only [fits, Bool.and_eq_true, decide_eq_true_eq]; omega
  · congr 1 <;> exact ofNat_self _ _ (by omega)

theorem ReadBack.vadd (e : Eng) (x : StreamImm) (d : BitVec 4) (a : BitVec 4) (b : BitVec 4) :
    ReadBack.Statement (.vadd e x d a b) := by
  intro e' w h hw
  cases h
  have := d.isLt
  have := a.isLt
  have := b.isLt
  have hp : 0 < 2 ^ 17 := by omega
  have hi := wordStrm_lt x _ hp
  have hF := wordF_wordOf 0x11 0x00 (d.toNat) (a.toNat) (b.toNat) _ (by decide) (by decide) (by omega) (by omega) (by omega) hi
  refine ⟨?_, wordOf_lt _ _ _ _ _ _ (by decide) (by decide) (by omega) (by omega) (by omega) hi⟩
  rw [image_11 hF]
  simp only [wordElem, wordStrm_strm _ _ _ _ _ _ _ hp, wordStrm_param _ _ _ _ _ _ _ hp]
  refine kept_req ?_ ?_ hw
  · simp only [fits, Bool.and_eq_true, decide_eq_true_eq]; omega
  · congr 1 <;> exact ofNat_self _ _ (by omega)

theorem ReadBack.vsub (e : Eng) (x : StreamImm) (d : BitVec 4) (a : BitVec 4) (b : BitVec 4) :
    ReadBack.Statement (.vsub e x d a b) := by
  intro e' w h hw
  cases h
  have := d.isLt
  have := a.isLt
  have := b.isLt
  have hp : 0 < 2 ^ 17 := by omega
  have hi := wordStrm_lt x _ hp
  have hF := wordF_wordOf 0x11 0x01 (d.toNat) (a.toNat) (b.toNat) _ (by decide) (by decide) (by omega) (by omega) (by omega) hi
  refine ⟨?_, wordOf_lt _ _ _ _ _ _ (by decide) (by decide) (by omega) (by omega) (by omega) hi⟩
  rw [image_11 hF]
  simp only [wordElem, wordStrm_strm _ _ _ _ _ _ _ hp, wordStrm_param _ _ _ _ _ _ _ hp]
  refine kept_req ?_ ?_ hw
  · simp only [fits, Bool.and_eq_true, decide_eq_true_eq]; omega
  · congr 1 <;> exact ofNat_self _ _ (by omega)

theorem ReadBack.vmul (e : Eng) (x : StreamImm) (d : BitVec 4) (a : BitVec 4) (b : BitVec 4) (sh : BitVec 5) :
    ReadBack.Statement (.vmul e x d a b sh) := by
  intro e' w h hw
  cases h
  have := d.isLt
  have := a.isLt
  have := b.isLt
  have := sh.isLt
  have hp : sh.toNat < 2 ^ 17 := by omega
  have hi := wordStrm_lt x _ hp
  have hF := wordF_wordOf 0x11 0x02 (d.toNat) (a.toNat) (b.toNat) _ (by decide) (by decide) (by omega) (by omega) (by omega) hi
  refine ⟨?_, wordOf_lt _ _ _ _ _ _ (by decide) (by decide) (by omega) (by omega) (by omega) hi⟩
  rw [image_11 hF]
  simp only [wordElem, wordStrm_strm _ _ _ _ _ _ _ hp, wordStrm_param _ _ _ _ _ _ _ hp]
  refine kept_req ?_ ?_ hw
  · simp only [fits, Bool.and_eq_true, decide_eq_true_eq]; omega
  · congr 1 <;> exact ofNat_self _ _ (by omega)

theorem ReadBack.vmin (e : Eng) (x : StreamImm) (d : BitVec 4) (a : BitVec 4) (b : BitVec 4) :
    ReadBack.Statement (.vmin e x d a b) := by
  intro e' w h hw
  cases h
  have := d.isLt
  have := a.isLt
  have := b.isLt
  have hp : 0 < 2 ^ 17 := by omega
  have hi := wordStrm_lt x _ hp
  have hF := wordF_wordOf 0x11 0x03 (d.toNat) (a.toNat) (b.toNat) _ (by decide) (by decide) (by omega) (by omega) (by omega) hi
  refine ⟨?_, wordOf_lt _ _ _ _ _ _ (by decide) (by decide) (by omega) (by omega) (by omega) hi⟩
  rw [image_11 hF]
  simp only [wordElem, wordStrm_strm _ _ _ _ _ _ _ hp, wordStrm_param _ _ _ _ _ _ _ hp]
  refine kept_req ?_ ?_ hw
  · simp only [fits, Bool.and_eq_true, decide_eq_true_eq]; omega
  · congr 1 <;> exact ofNat_self _ _ (by omega)

theorem ReadBack.vmax (e : Eng) (x : StreamImm) (d : BitVec 4) (a : BitVec 4) (b : BitVec 4) :
    ReadBack.Statement (.vmax e x d a b) := by
  intro e' w h hw
  cases h
  have := d.isLt
  have := a.isLt
  have := b.isLt
  have hp : 0 < 2 ^ 17 := by omega
  have hi := wordStrm_lt x _ hp
  have hF := wordF_wordOf 0x11 0x04 (d.toNat) (a.toNat) (b.toNat) _ (by decide) (by decide) (by omega) (by omega) (by omega) hi
  refine ⟨?_, wordOf_lt _ _ _ _ _ _ (by decide) (by decide) (by omega) (by omega) (by omega) hi⟩
  rw [image_11 hF]
  simp only [wordElem, wordStrm_strm _ _ _ _ _ _ _ hp, wordStrm_param _ _ _ _ _ _ _ hp]
  refine kept_req ?_ ?_ hw
  · simp only [fits, Bool.and_eq_true, decide_eq_true_eq]; omega
  · congr 1 <;> exact ofNat_self _ _ (by omega)

theorem ReadBack.vabsd (e : Eng) (x : StreamImm) (d : BitVec 4) (a : BitVec 4) (b : BitVec 4) :
    ReadBack.Statement (.vabsd e x d a b) := by
  intro e' w h hw
  cases h
  have := d.isLt
  have := a.isLt
  have := b.isLt
  have hp : 0 < 2 ^ 17 := by omega
  have hi := wordStrm_lt x _ hp
  have hF := wordF_wordOf 0x11 0x05 (d.toNat) (a.toNat) (b.toNat) _ (by decide) (by decide) (by omega) (by omega) (by omega) hi
  refine ⟨?_, wordOf_lt _ _ _ _ _ _ (by decide) (by decide) (by omega) (by omega) (by omega) hi⟩
  rw [image_11 hF]
  simp only [wordElem, wordStrm_strm _ _ _ _ _ _ _ hp, wordStrm_param _ _ _ _ _ _ _ hp]
  refine kept_req ?_ ?_ hw
  · simp only [fits, Bool.and_eq_true, decide_eq_true_eq]; omega
  · congr 1 <;> exact ofNat_self _ _ (by omega)

theorem ReadBack.vaddk (e : Eng) (x : StreamImm) (d : BitVec 4) (a : BitVec 4) (k : BitVec 6) :
    ReadBack.Statement (.vaddk e x d a k) := by
  intro e' w h hw
  cases h
  have := d.isLt
  have := a.isLt
  have := k.isLt
  have hp : 0 < 2 ^ 17 := by omega
  have hi := wordStrm_lt x _ hp
  have hF := wordF_wordOf 0x11 0x06 (d.toNat) (a.toNat) (k.toNat) _ (by decide) (by decide) (by omega) (by omega) (by omega) hi
  refine ⟨?_, wordOf_lt _ _ _ _ _ _ (by decide) (by decide) (by omega) (by omega) (by omega) hi⟩
  rw [image_11 hF]
  simp only [wordElem, wordStrm_strm _ _ _ _ _ _ _ hp, wordStrm_param _ _ _ _ _ _ _ hp]
  refine kept_req ?_ ?_ hw
  · simp only [fits, Bool.and_eq_true, decide_eq_true_eq]; omega
  · congr 1 <;> exact ofNat_self _ _ (by omega)

theorem ReadBack.vmulk (e : Eng) (x : StreamImm) (d : BitVec 4) (a : BitVec 4) (k : BitVec 6) (sh : BitVec 5) :
    ReadBack.Statement (.vmulk e x d a k sh) := by
  intro e' w h hw
  cases h
  have := d.isLt
  have := a.isLt
  have := k.isLt
  have := sh.isLt
  have hp : sh.toNat < 2 ^ 17 := by omega
  have hi := wordStrm_lt x _ hp
  have hF := wordF_wordOf 0x11 0x07 (d.toNat) (a.toNat) (k.toNat) _ (by decide) (by decide) (by omega) (by omega) (by omega) hi
  refine ⟨?_, wordOf_lt _ _ _ _ _ _ (by decide) (by decide) (by omega) (by omega) (by omega) hi⟩
  rw [image_11 hF]
  simp only [wordElem, wordStrm_strm _ _ _ _ _ _ _ hp, wordStrm_param _ _ _ _ _ _ _ hp]
  refine kept_req ?_ ?_ hw
  · simp only [fits, Bool.and_eq_true, decide_eq_true_eq]; omega
  · congr 1 <;> exact ofNat_self _ _ (by omega)

theorem ReadBack.vclamp (e : Eng) (x : StreamImm) (d : BitVec 4) (a : BitVec 4) (k : BitVec 6) :
    ReadBack.Statement (.vclamp e x d a k) := by
  intro e' w h hw
  cases h
  have := d.isLt
  have := a.isLt
  have := k.isLt
  have hp : 0 < 2 ^ 17 := by omega
  have hi := wordStrm_lt x _ hp
  have hF := wordF_wordOf 0x11 0x08 (d.toNat) (a.toNat) (k.toNat) _ (by decide) (by decide) (by omega) (by omega) (by omega) hi
  refine ⟨?_, wordOf_lt _ _ _ _ _ _ (by decide) (by decide) (by omega) (by omega) (by omega) hi⟩
  rw [image_11 hF]
  simp only [wordElem, wordStrm_strm _ _ _ _ _ _ _ hp, wordStrm_param _ _ _ _ _ _ _ hp]
  refine kept_req ?_ ?_ hw
  · simp only [fits, Bool.and_eq_true, decide_eq_true_eq]; omega
  · congr 1 <;> exact ofNat_self _ _ (by omega)

theorem ReadBack.vcvt (e : Eng) (x : StreamImm) (d : BitVec 4) (a : BitVec 4) (sh : BitVec 6) :
    ReadBack.Statement (.vcvt e x d a sh) := by
  intro e' w h hw
  cases h
  have := d.isLt
  have := a.isLt
  have := sh.isLt
  have hp : sh.toNat < 2 ^ 17 := by omega
  have hi := wordStrm_lt x _ hp
  have hF := wordF_wordOf 0x11 0x09 (d.toNat) (a.toNat) (0) _ (by decide) (by decide) (by omega) (by omega) (by omega) hi
  refine ⟨?_, wordOf_lt _ _ _ _ _ _ (by decide) (by decide) (by omega) (by omega) (by omega) hi⟩
  rw [image_11 hF]
  simp only [wordElem, wordStrm_strm _ _ _ _ _ _ _ hp, wordStrm_param _ _ _ _ _ _ _ hp]
  refine kept_req ?_ ?_ hw
  · simp only [fits, Bool.and_eq_true, decide_eq_true_eq, and_true]; omega
  · congr 1 <;> exact ofNat_self _ _ (by omega)

theorem ReadBack.vsel (e : Eng) (x : StreamImm) (d : BitVec 4) (a : BitVec 4) (b : BitVec 4) (m : BitVec 4) :
    ReadBack.Statement (.vsel e x d a b m) := by
  intro e' w h hw
  cases h
  have := d.isLt
  have := a.isLt
  have := b.isLt
  have := m.isLt
  have hp : m.toNat < 2 ^ 17 := by omega
  have hi := wordStrm_lt x _ hp
  have hF := wordF_wordOf 0x11 0x0A (d.toNat) (a.toNat) (b.toNat) _ (by decide) (by decide) (by omega) (by omega) (by omega) hi
  refine ⟨?_, wordOf_lt _ _ _ _ _ _ (by decide) (by decide) (by omega) (by omega) (by omega) hi⟩
  rw [image_11 hF]
  simp only [wordElem, wordStrm_strm _ _ _ _ _ _ _ hp, wordStrm_param _ _ _ _ _ _ _ hp]
  refine kept_req ?_ ?_ hw
  · simp only [fits, Bool.and_eq_true, decide_eq_true_eq]; omega
  · congr 1 <;> exact ofNat_self _ _ (by omega)

theorem ReadBack.vcmp (e : Eng) (x : StreamImm) (ad : BitVec 3) (a : BitVec 4) (b : BitVec 4) :
    ReadBack.Statement (.vcmp e x ad a b) := by
  intro e' w h hw
  cases h
  have := ad.isLt
  have := a.isLt
  have := b.isLt
  have hp : 0 < 2 ^ 17 := by omega
  have hi := wordStrm_lt x _ hp
  have hF := wordF_wordOf 0x11 0x0B (ad.toNat) (a.toNat) (b.toNat) _ (by decide) (by decide) (by omega) (by omega) (by omega) hi
  refine ⟨?_, wordOf_lt _ _ _ _ _ _ (by decide) (by decide) (by omega) (by omega) (by omega) hi⟩
  rw [image_11 hF]
  simp only [wordElem, wordStrm_strm _ _ _ _ _ _ _ hp, wordStrm_param _ _ _ _ _ _ _ hp]
  refine kept_req ?_ ?_ hw
  · simp only [fits, Bool.and_eq_true, decide_eq_true_eq]; omega
  · congr 1 <;> exact ofNat_self _ _ (by omega)

theorem ReadBack.mapc (e : Eng) (x : StreamImm) (d : BitVec 4) (a : BitVec 4) (rec : BitVec 6) (steps : BitVec 3)
    (b : BitVec 4) (ben : Bool) : ReadBack.Statement (.mapc e x d a rec steps b ben) := by
  intro e' w h hw
  cases h
  have := d.isLt
  have := a.isLt
  have := rec.isLt
  have := steps.isLt
  have := b.isLt
  have := Bool.toNat_lt ben
  have hp : ben.toNat * 2 ^ 7 + b.toNat * 2 ^ 3 + steps.toNat < 2 ^ 17 := by omega
  have hi := wordStrm_lt x _ hp
  have hF := wordF_wordOf 0x12 0x00 (d.toNat) (a.toNat) (rec.toNat) _ (by decide) (by decide) (by omega) (by omega) (by omega) hi
  refine ⟨?_, wordOf_lt _ _ _ _ _ _ (by decide) (by decide) (by omega) (by omega) (by omega) hi⟩
  rw [image_pix (by decide) hF]
  simp only [wordPix, wordStrm_strm _ _ _ _ _ _ _ hp, wordStrm_param _ _ _ _ _ _ _ hp]
  refine kept_req ?_ ?_ hw
  · simp only [fits, Bool.and_eq_true, decide_eq_true_eq]; omega
  · congr 1 <;> first | exact ofNat_self _ _ (by omega) | exact decide_toNat _ _ (by omega)

theorem ReadBack.lut (e : Eng) (x : StreamImm) (d : BitVec 4) (a : BitVec 4) (t : BitVec 2) (sh : BitVec 4) :
    ReadBack.Statement (.lut e x d a t sh) := by
  intro e' w h hw
  cases h
  have := d.isLt
  have := a.isLt
  have := t.isLt
  have := sh.isLt
  have hp : sh.toNat < 2 ^ 17 := by omega
  have hi := wordStrm_lt x _ hp
  have hF := wordF_wordOf 0x13 0x00 (d.toNat) (a.toNat) (t.toNat) _ (by decide) (by decide) (by omega) (by omega) (by omega) hi
  refine ⟨?_, wordOf_lt _ _ _ _ _ _ (by decide) (by decide) (by omega) (by omega) (by omega) hi⟩
  rw [image_pix (by decide) hF]
  simp only [wordPix, wordStrm_strm _ _ _ _ _ _ _ hp, wordStrm_param _ _ _ _ _ _ _ hp]
  refine kept_req ?_ ?_ hw
  · simp only [fits, Bool.and_eq_true, decide_eq_true_eq]; omega
  · congr 1 <;> exact ofNat_self _ _ (by omega)

theorem ReadBack.luti (e : Eng) (x : StreamImm) (d : BitVec 4) (a : BitVec 4) (t : BitVec 2) (sh : BitVec 4) :
    ReadBack.Statement (.luti e x d a t sh) := by
  intro e' w h hw
  cases h
  have := d.isLt
  have := a.isLt
  have := t.isLt
  have := sh.isLt
  have hp : sh.toNat < 2 ^ 17 := by omega
  have hi := wordStrm_lt x _ hp
  have hF := wordF_wordOf 0x13 0x01 (d.toNat) (a.toNat) (t.toNat) _ (by decide) (by decide) (by omega) (by omega) (by omega) hi
  refine ⟨?_, wordOf_lt _ _ _ _ _ _ (by decide) (by decide) (by omega) (by omega) (by omega) hi⟩
  rw [image_pix (by decide) hF]
  simp only [wordPix, wordStrm_strm _ _ _ _ _ _ _ hp, wordStrm_param _ _ _ _ _ _ _ hp]
  refine kept_req ?_ ?_ hw
  · simp only [fits, Bool.and_eq_true, decide_eq_true_eq]; omega
  · congr 1 <;> exact ofNat_self _ _ (by omega)

theorem ReadBack.k1d (e : Eng) (x : StreamImm) (d : BitVec 4) (a : BitVec 4) (rec : BitVec 6) (taps : BitVec 2) :
    ReadBack.Statement (.k1d e x d a rec taps) := by
  intro e' w h hw
  cases h
  have := d.isLt
  have := a.isLt
  have := rec.isLt
  have := taps.isLt
  have hp : taps.toNat < 2 ^ 17 := by omega
  have hi := wordStrm_lt x _ hp
  have hF := wordF_wordOf 0x14 0x00 (d.toNat) (a.toNat) (rec.toNat) _ (by decide) (by decide) (by omega) (by omega) (by omega) hi
  refine ⟨?_, wordOf_lt _ _ _ _ _ _ (by decide) (by decide) (by omega) (by omega) (by omega) hi⟩
  rw [image_pix (by decide) hF]
  simp only [wordPix, wordStrm_strm _ _ _ _ _ _ _ hp, wordStrm_param _ _ _ _ _ _ _ hp]
  refine kept_req ?_ ?_ hw
  · simp only [fits, Bool.and_eq_true, decide_eq_true_eq]; omega
  · congr 1 <;> exact ofNat_self _ _ (by omega)

theorem ReadBack.k1v (e : Eng) (x : StreamImm) (d : BitVec 4) (a : BitVec 4) (rec : BitVec 6) (taps : BitVec 2) :
    ReadBack.Statement (.k1v e x d a rec taps) := by
  intro e' w h hw
  cases h
  have := d.isLt
  have := a.isLt
  have := rec.isLt
  have := taps.isLt
  have hp : taps.toNat < 2 ^ 17 := by omega
  have hi := wordStrm_lt x _ hp
  have hF := wordF_wordOf 0x14 0x01 (d.toNat) (a.toNat) (rec.toNat) _ (by decide) (by decide) (by omega) (by omega) (by omega) hi
  refine ⟨?_, wordOf_lt _ _ _ _ _ _ (by decide) (by decide) (by omega) (by omega) (by omega) hi⟩
  rw [image_pix (by decide) hF]
  simp only [wordPix, wordStrm_strm _ _ _ _ _ _ _ hp, wordStrm_param _ _ _ _ _ _ _ hp]
  refine kept_req ?_ ?_ hw
  · simp only [fits, Bool.and_eq_true, decide_eq_true_eq]; omega
  · congr 1 <;> exact ofNat_self _ _ (by omega)

theorem ReadBack.k2d (e : Eng) (x : StreamImm) (d : BitVec 4) (a : BitVec 4) (rec : BitVec 6) (big : Bool) :
    ReadBack.Statement (.k2d e x d a rec big) := by
  intro e' w h hw
  cases h
  have := d.isLt
  have := a.isLt
  have := rec.isLt
  have := Bool.toNat_lt big
  have hp : big.toNat < 2 ^ 17 := by omega
  have hi := wordStrm_lt x _ hp
  have hF := wordF_wordOf 0x14 0x02 (d.toNat) (a.toNat) (rec.toNat) _ (by decide) (by decide) (by omega) (by omega) (by omega) hi
  refine ⟨?_, wordOf_lt _ _ _ _ _ _ (by decide) (by decide) (by omega) (by omega) (by omega) hi⟩
  rw [image_pix (by decide) hF]
  simp only [wordPix, wordStrm_strm _ _ _ _ _ _ _ hp, wordStrm_param _ _ _ _ _ _ _ hp]
  refine kept_req ?_ ?_ hw
  · simp only [fits, Bool.and_eq_true, decide_eq_true_eq]; omega
  · congr 1 <;> first | exact ofNat_self _ _ (by omega) | exact decide_toNat _ _ (by omega)

theorem ReadBack.rs (e : Eng) (x : StreamImm) (d : BitVec 4) (a : BitVec 4) (rec : BitVec 6) (big : Bool) :
    ReadBack.Statement (.rs e x d a rec big) := by
  intro e' w h hw
  cases h
  have := d.isLt
  have := a.isLt
  have := rec.isLt
  have := Bool.toNat_lt big
  have hp : big.toNat < 2 ^ 17 := by omega
  have hi := wordStrm_lt x _ hp
  have hF := wordF_wordOf 0x15 0x00 (d.toNat) (a.toNat) (rec.toNat) _ (by decide) (by decide) (by omega) (by omega) (by omega) hi
  refine ⟨?_, wordOf_lt _ _ _ _ _ _ (by decide) (by decide) (by omega) (by omega) (by omega) hi⟩
  rw [image_pix (by decide) hF]
  simp only [wordPix, wordStrm_strm _ _ _ _ _ _ _ hp, wordStrm_param _ _ _ _ _ _ _ hp]
  refine kept_req ?_ ?_ hw
  · simp only [fits, Bool.and_eq_true, decide_eq_true_eq]; omega
  · congr 1 <;> first | exact ofNat_self _ _ (by omega) | exact decide_toNat _ _ (by omega)

theorem ReadBack.flat (e : Eng) (x : StreamImm) (d : BitVec 4) (a : BitVec 4) (b : BitVec 4) (gs : BitVec 4) :
    ReadBack.Statement (.flat e x d a b gs) := by
  intro e' w h hw
  cases h
  have := d.isLt
  have := a.isLt
  have := b.isLt
  have := gs.isLt
  have hp : gs.toNat < 2 ^ 17 := by omega
  have hi := wordStrm_lt x _ hp
  have hF := wordF_wordOf 0x16 0x00 (d.toNat) (a.toNat) (b.toNat) _ (by decide) (by decide) (by omega) (by omega) (by omega) hi
  refine ⟨?_, wordOf_lt _ _ _ _ _ _ (by decide) (by decide) (by omega) (by omega) (by omega) hi⟩
  rw [image_pix (by decide) hF]
  simp only [wordPix, wordStrm_strm _ _ _ _ _ _ _ hp, wordStrm_param _ _ _ _ _ _ _ hp]
  refine kept_req ?_ ?_ hw
  · simp only [fits, Bool.and_eq_true, decide_eq_true_eq]; omega
  · congr 1 <;> exact ofNat_self _ _ (by omega)

theorem ReadBack.dpr (e : Eng) (x : StreamImm) (d : BitVec 4) (a : BitVec 4) (b : BitVec 4) (rad : BitVec 2) :
    ReadBack.Statement (.dpr e x d a b rad) := by
  intro e' w h hw
  cases h
  have := d.isLt
  have := a.isLt
  have := b.isLt
  have := rad.isLt
  have hp : rad.toNat < 2 ^ 17 := by omega
  have hi := wordStrm_lt x _ hp
  have hF := wordF_wordOf 0x16 0x01 (d.toNat) (a.toNat) (b.toNat) _ (by decide) (by decide) (by omega) (by omega) (by omega) hi
  refine ⟨?_, wordOf_lt _ _ _ _ _ _ (by decide) (by decide) (by omega) (by omega) (by omega) hi⟩
  rw [image_pix (by decide) hF]
  simp only [wordPix, wordStrm_strm _ _ _ _ _ _ _ hp, wordStrm_param _ _ _ _ _ _ _ hp]
  refine kept_req ?_ ?_ hw
  · simp only [fits, Bool.and_eq_true, decide_eq_true_eq]; omega
  · congr 1 <;> exact ofNat_self _ _ (by omega)

theorem ReadBack.xmrg (e : Eng) (x : StreamImm) (d : BitVec 4) (a : BitVec 4) (k : BitVec 6) (sd : BitVec 4)
    (bw : BitVec 4) (os : BitVec 4) : ReadBack.Statement (.xmrg e x d a k sd bw os) := by
  intro e' w h hw
  cases h
  have := d.isLt
  have := a.isLt
  have := k.isLt
  have := sd.isLt
  have := bw.isLt
  have := os.isLt
  have hp : sd.toNat * 2 ^ 8 + os.toNat * 2 ^ 4 + bw.toNat < 2 ^ 17 := by omega
  have hi := wordStrm_lt x _ hp
  have hF := wordF_wordOf 0x16 0x02 (d.toNat) (a.toNat) (k.toNat) _ (by decide) (by decide) (by omega) (by omega) (by omega) hi
  refine ⟨?_, wordOf_lt _ _ _ _ _ _ (by decide) (by decide) (by omega) (by omega) (by omega) hi⟩
  rw [image_pix (by decide) hF]
  simp only [wordPix, wordStrm_strm _ _ _ _ _ _ _ hp, wordStrm_param _ _ _ _ _ _ _ hp]
  refine kept_req ?_ ?_ hw
  · simp only [fits, Bool.and_eq_true, decide_eq_true_eq]; omega
  · congr 1 <;> exact ofNat_self _ _ (by omega)

theorem ReadBack.cmat (e : Eng) (x : StreamImm) (d : BitVec 4) (a : BitVec 4) (rec : BitVec 6) :
    ReadBack.Statement (.cmat e x d a rec) := by
  intro e' w h hw
  cases h
  have := d.isLt
  have := a.isLt
  have := rec.isLt
  have hp : 0 < 2 ^ 17 := by omega
  have hi := wordStrm_lt x _ hp
  have hF := wordF_wordOf 0x16 0x03 (d.toNat) (a.toNat) (rec.toNat) _ (by decide) (by decide) (by omega) (by omega) (by omega) hi
  refine ⟨?_, wordOf_lt _ _ _ _ _ _ (by decide) (by decide) (by omega) (by omega) (by omega) hi⟩
  rw [image_pix (by decide) hF]
  simp only [wordPix, wordStrm_strm _ _ _ _ _ _ _ hp, wordStrm_param _ _ _ _ _ _ _ hp]
  refine kept_req ?_ ?_ hw
  · simp only [fits, Bool.and_eq_true, decide_eq_true_eq]; omega
  · congr 1 <;> exact ofNat_self _ _ (by omega)

theorem ReadBack.scor (e : Eng) (x : StreamImm) (d : BitVec 4) (a : BitVec 4) (b : BitVec 4) (sh : BitVec 5)
    (q : BitVec 4) (pen : Bool) (k : BitVec 4) (men : Bool) :
    ReadBack.Statement (.scor e x d a b sh q pen k men) := by
  intro e' w h hw
  cases h
  have := d.isLt
  have := a.isLt
  have := b.isLt
  have := sh.isLt
  have := q.isLt
  have := Bool.toNat_lt pen
  have := k.isLt
  have := Bool.toNat_lt men
  have hp : men.toNat * 2 ^ 14 + k.toNat * 2 ^ 10 + pen.toNat * 2 ^ 9 + q.toNat * 2 ^ 5 + sh.toNat < 2 ^ 17 := by omega
  have hi := wordStrm_lt x _ hp
  have hF := wordF_wordOf 0x17 0x00 (d.toNat) (a.toNat) (b.toNat) _ (by decide) (by decide) (by omega) (by omega) (by omega) hi
  refine ⟨?_, wordOf_lt _ _ _ _ _ _ (by decide) (by decide) (by omega) (by omega) (by omega) hi⟩
  rw [image_seg (by decide) hF]
  simp only [wordSeg, wordStrm_strm _ _ _ _ _ _ _ hp, wordStrm_param _ _ _ _ _ _ _ hp]
  refine kept_req ?_ ?_ hw
  · simp only [fits, Bool.and_eq_true, decide_eq_true_eq]; omega
  · congr 1 <;> first | exact ofNat_self _ _ (by omega) | exact testBit_self _ _ _ (by omega)

theorem ReadBack.thr (e : Eng) (x : StreamImm) (d : BitVec 4) (a : BitVec 4) (k : BitVec 6) (pol : BitVec 2) :
    ReadBack.Statement (.thr e x d a k pol) := by
  intro e' w h hw
  cases h
  have := d.isLt
  have := a.isLt
  have := k.isLt
  have := pol.isLt
  have hp : pol.toNat < 2 ^ 17 := by omega
  have hi := wordStrm_lt x _ hp
  have hF := wordF_wordOf 0x17 0x01 (d.toNat) (a.toNat) (k.toNat) _ (by decide) (by decide) (by omega) (by omega) (by omega) hi
  refine ⟨?_, wordOf_lt _ _ _ _ _ _ (by decide) (by decide) (by omega) (by omega) (by omega) hi⟩
  rw [image_seg (by decide) hF]
  simp only [wordSeg, wordStrm_strm _ _ _ _ _ _ _ hp, wordStrm_param _ _ _ _ _ _ _ hp]
  refine kept_req ?_ ?_ hw
  · simp only [fits, Bool.and_eq_true, decide_eq_true_eq]; omega
  · congr 1 <;> exact ofNat_self _ _ (by omega)

theorem ReadBack.morph (e : Eng) (x : StreamImm) (d : BitVec 4) (a : BitVec 4) (erode : Bool) (cross : Bool) :
    ReadBack.Statement (.morph e x d a erode cross) := by
  intro e' w h hw
  cases h
  have := d.isLt
  have := a.isLt
  have := Bool.toNat_lt erode
  have := Bool.toNat_lt cross
  have hp : cross.toNat * 2 + erode.toNat < 2 ^ 17 := by omega
  have hi := wordStrm_lt x _ hp
  have hF := wordF_wordOf 0x18 0x00 (d.toNat) (a.toNat) (0) _ (by decide) (by decide) (by omega) (by omega) (by omega) hi
  refine ⟨?_, wordOf_lt _ _ _ _ _ _ (by decide) (by decide) (by omega) (by omega) (by omega) hi⟩
  rw [image_seg (by decide) hF]
  simp only [wordSeg, wordStrm_strm _ _ _ _ _ _ _ hp, wordStrm_param _ _ _ _ _ _ _ hp]
  refine kept_req ?_ ?_ hw
  · simp only [fits, Bool.and_eq_true, decide_eq_true_eq, and_true]; omega
  · congr 1 <;> first | exact ofNat_self _ _ (by omega) | exact testBit_self _ _ _ (by omega)

theorem ReadBack.lbl (e : Eng) (x : StreamImm) (d : BitVec 4) (a : BitVec 4) (b : BitVec 4) (ctx : BitVec 6)
    (noprev : Bool) : ReadBack.Statement (.lbl e x d a b ctx noprev) := by
  intro e' w h hw
  cases h
  have := d.isLt
  have := a.isLt
  have := b.isLt
  have := ctx.isLt
  have := Bool.toNat_lt noprev
  have hp : noprev.toNat * 2 ^ 6 + ctx.toNat < 2 ^ 17 := by omega
  have hi := wordStrm_lt x _ hp
  have hF := wordF_wordOf 0x19 0x00 (d.toNat) (a.toNat) (b.toNat) _ (by decide) (by decide) (by omega) (by omega) (by omega) hi
  refine ⟨?_, wordOf_lt _ _ _ _ _ _ (by decide) (by decide) (by omega) (by omega) (by omega) hi⟩
  rw [image_seg (by decide) hF]
  simp only [wordSeg, wordStrm_strm _ _ _ _ _ _ _ hp, wordStrm_param _ _ _ _ _ _ _ hp]
  refine kept_req ?_ ?_ hw
  · simp only [fits, Bool.and_eq_true, decide_eq_true_eq]; omega
  · congr 1 <;> first | exact ofNat_self _ _ (by omega) | exact testBit_self _ _ _ (by omega)

theorem ReadBack.feat (e : Eng) (x : StreamImm) (a : BitVec 4) (b : BitVec 4) (ctx : BitVec 6) (z : BitVec 4)
    (zen : Bool) : ReadBack.Statement (.feat e x a b ctx z zen) := by
  intro e' w h hw
  cases h
  have := a.isLt
  have := b.isLt
  have := ctx.isLt
  have := z.isLt
  have := Bool.toNat_lt zen
  have hp : zen.toNat * 2 ^ 10 + z.toNat * 2 ^ 6 + ctx.toNat < 2 ^ 17 := by omega
  have hi := wordStrm_lt x _ hp
  have hF := wordF_wordOf 0x19 0x01 (0) (a.toNat) (b.toNat) _ (by decide) (by decide) (by omega) (by omega) (by omega) hi
  refine ⟨?_, wordOf_lt _ _ _ _ _ _ (by decide) (by decide) (by omega) (by omega) (by omega) hi⟩
  rw [image_seg (by decide) hF]
  simp only [wordSeg, wordStrm_strm _ _ _ _ _ _ _ hp, wordStrm_param _ _ _ _ _ _ _ hp]
  refine kept_req ?_ ?_ hw
  · simp only [fits, Bool.and_eq_true, decide_eq_true_eq, and_true]; omega
  · congr 1 <;> first | exact ofNat_self _ _ (by omega) | exact testBit_self _ _ _ (by omega)

theorem ReadBack.stat (e : Eng) (x : StreamImm) (ad : BitVec 3) (a : BitVec 4) (k : BitVec 6) (m : BitVec 4)
    (men : Bool) : ReadBack.Statement (.stat e x ad a k m men) := by
  intro e' w h hw
  cases h
  have := ad.isLt
  have := a.isLt
  have := k.isLt
  have := m.isLt
  have := Bool.toNat_lt men
  have hp : men.toNat * 2 ^ 4 + m.toNat < 2 ^ 17 := by omega
  have hi := wordStrm_lt x _ hp
  have hF := wordF_wordOf 0x1A 0x00 (ad.toNat) (a.toNat) (k.toNat) _ (by decide) (by decide) (by omega) (by omega) (by omega) hi
  refine ⟨?_, wordOf_lt _ _ _ _ _ _ (by decide) (by decide) (by omega) (by omega) (by omega) hi⟩
  rw [image_seg (by decide) hF]
  simp only [wordSeg, wordStrm_strm _ _ _ _ _ _ _ hp, wordStrm_param _ _ _ _ _ _ _ hp]
  refine kept_req ?_ ?_ hw
  · simp only [fits, Bool.and_eq_true, decide_eq_true_eq]; omega
  · congr 1 <;> first | exact ofNat_self _ _ (by omega) | exact testBit_self _ _ _ (by omega)

theorem ReadBack.hist (e : Eng) (x : StreamImm) (a : BitVec 4) (nb : BitVec 4) (sh : BitVec 4) (m : BitVec 4)
    (men : Bool) : ReadBack.Statement (.hist e x a nb sh m men) := by
  intro e' w h hw
  cases h
  have := a.isLt
  have := nb.isLt
  have := sh.isLt
  have := m.isLt
  have := Bool.toNat_lt men
  have hp : men.toNat * 2 ^ 12 + m.toNat * 2 ^ 8 + sh.toNat * 2 ^ 4 + nb.toNat < 2 ^ 17 := by omega
  have hi := wordStrm_lt x _ hp
  have hF := wordF_wordOf 0x1A 0x01 (0) (a.toNat) (0) _ (by decide) (by decide) (by omega) (by omega) (by omega) hi
  refine ⟨?_, wordOf_lt _ _ _ _ _ _ (by decide) (by decide) (by omega) (by omega) (by omega) hi⟩
  rw [image_seg (by decide) hF]
  simp only [wordSeg, wordStrm_strm _ _ _ _ _ _ _ hp, wordStrm_param _ _ _ _ _ _ _ hp]
  refine kept_req ?_ ?_ hw
  · simp only [fits, Bool.and_eq_true, decide_eq_true_eq, true_and, and_self]; omega
  · congr 1 <;> first | exact ofNat_self _ _ (by omega) | exact testBit_self _ _ _ (by omega)

theorem ReadBack.crc (e : Eng) (x : StreamImm) (ad : BitVec 3) (a : BitVec 4) : ReadBack.Statement (.crc e x ad a) := by
  intro e' w h hw
  cases h
  have := ad.isLt
  have := a.isLt
  have hp : 0 < 2 ^ 17 := by omega
  have hi := wordStrm_lt x _ hp
  have hF := wordF_wordOf 0x1A 0x02 (ad.toNat) (a.toNat) (0) _ (by decide) (by decide) (by omega) (by omega) (by omega) hi
  refine ⟨?_, wordOf_lt _ _ _ _ _ _ (by decide) (by decide) (by omega) (by omega) (by omega) hi⟩
  rw [image_seg (by decide) hF]
  simp only [wordSeg, wordStrm_strm _ _ _ _ _ _ _ hp, wordStrm_param _ _ _ _ _ _ _ hp]
  refine kept_req ?_ ?_ hw
  · simp only [fits, Bool.and_eq_true, decide_eq_true_eq, and_true]; omega
  · congr 1 <;> exact ofNat_self _ _ (by omega)

theorem ReadBack.pred (e : Eng) (x : StreamImm) (d : BitVec 4) (a : BitVec 4) (b : BitVec 4) (noprev : Bool) :
    ReadBack.Statement (.pred e x d a b noprev) := by
  intro e' w h hw
  cases h
  have := d.isLt
  have := a.isLt
  have := b.isLt
  have := Bool.toNat_lt noprev
  have hp : noprev.toNat < 2 ^ 17 := by omega
  have hi := wordStrm_lt x _ hp
  have hF := wordF_wordOf 0x1B 0x00 (d.toNat) (a.toNat) (b.toNat) _ (by decide) (by decide) (by omega) (by omega) (by omega) hi
  refine ⟨?_, wordOf_lt _ _ _ _ _ _ (by decide) (by decide) (by omega) (by omega) (by omega) hi⟩
  rw [image_seg (by decide) hF]
  simp only [wordSeg, wordStrm_strm _ _ _ _ _ _ _ hp, wordStrm_param _ _ _ _ _ _ _ hp]
  refine kept_req ?_ ?_ hw
  · simp only [fits, Bool.and_eq_true, decide_eq_true_eq]; omega
  · congr 1 <;> first | exact ofNat_self _ _ (by omega) | exact testBit_self _ _ _ (by omega)

theorem ReadBack.upred (e : Eng) (x : StreamImm) (d : BitVec 4) (a : BitVec 4) (b : BitVec 4) (noprev : Bool) :
    ReadBack.Statement (.upred e x d a b noprev) := by
  intro e' w h hw
  cases h
  have := d.isLt
  have := a.isLt
  have := b.isLt
  have := Bool.toNat_lt noprev
  have hp : noprev.toNat < 2 ^ 17 := by omega
  have hi := wordStrm_lt x _ hp
  have hF := wordF_wordOf 0x1B 0x01 (d.toNat) (a.toNat) (b.toNat) _ (by decide) (by decide) (by omega) (by omega) (by omega) hi
  refine ⟨?_, wordOf_lt _ _ _ _ _ _ (by decide) (by decide) (by omega) (by omega) (by omega) hi⟩
  rw [image_seg (by decide) hF]
  simp only [wordSeg, wordStrm_strm _ _ _ _ _ _ _ hp, wordStrm_param _ _ _ _ _ _ _ hp]
  refine kept_req ?_ ?_ hw
  · simp only [fits, Bool.and_eq_true, decide_eq_true_eq]; omega
  · congr 1 <;> first | exact ofNat_self _ _ (by omega) | exact testBit_self _ _ _ (by omega)

theorem ReadBack.gsel (e : Eng) (x : StreamImm) (d : BitVec 4) (a : BitVec 4) : ReadBack.Statement (.gsel e x d a) := by
  intro e' w h hw
  cases h
  have := d.isLt
  have := a.isLt
  have hp : 0 < 2 ^ 17 := by omega
  have hi := wordStrm_lt x _ hp
  have hF := wordF_wordOf 0x1B 0x02 (d.toNat) (a.toNat) (0) _ (by decide) (by decide) (by omega) (by omega) (by omega) hi
  refine ⟨?_, wordOf_lt _ _ _ _ _ _ (by decide) (by decide) (by omega) (by omega) (by omega) hi⟩
  rw [image_seg (by decide) hF]
  simp only [wordSeg, wordStrm_strm _ _ _ _ _ _ _ hp, wordStrm_param _ _ _ _ _ _ _ hp]
  refine kept_req ?_ ?_ hw
  · simp only [fits, Bool.and_eq_true, decide_eq_true_eq, and_true]; omega
  · congr 1 <;> exact ofNat_self _ _ (by omega)

theorem ReadBack.gput (e : Eng) (x : StreamImm) (d : BitVec 4) (a : BitVec 4) (b : BitVec 4) (ctx : BitVec 6) :
    ReadBack.Statement (.gput e x d a b ctx) := by
  intro e' w h hw
  cases h
  have := d.isLt
  have := a.isLt
  have := b.isLt
  have := ctx.isLt
  have hp : ctx.toNat < 2 ^ 17 := by omega
  have hi := wordStrm_lt x _ hp
  have hF := wordF_wordOf 0x1B 0x03 (d.toNat) (a.toNat) (b.toNat) _ (by decide) (by decide) (by omega) (by omega) (by omega) hi
  refine ⟨?_, wordOf_lt _ _ _ _ _ _ (by decide) (by decide) (by omega) (by omega) (by omega) hi⟩
  rw [image_seg (by decide) hF]
  simp only [wordSeg, wordStrm_strm _ _ _ _ _ _ _ hp, wordStrm_param _ _ _ _ _ _ _ hp]
  refine kept_req ?_ ?_ hw
  · simp only [fits, Bool.and_eq_true, decide_eq_true_eq]; omega
  · congr 1 <;> exact ofNat_self _ _ (by omega)

theorem ReadBack.gdec (e : Eng) (x : StreamImm) (d : BitVec 4) (a : BitVec 4) (ctx : BitVec 6) :
    ReadBack.Statement (.gdec e x d a ctx) := by
  intro e' w h hw
  cases h
  have := d.isLt
  have := a.isLt
  have := ctx.isLt
  have hp : ctx.toNat < 2 ^ 17 := by omega
  have hi := wordStrm_lt x _ hp
  have hF := wordF_wordOf 0x1B 0x04 (d.toNat) (a.toNat) (0) _ (by decide) (by decide) (by omega) (by omega) (by omega) hi
  refine ⟨?_, wordOf_lt _ _ _ _ _ _ (by decide) (by decide) (by omega) (by omega) (by omega) hi⟩
  rw [image_seg (by decide) hF]
  simp only [wordSeg, wordStrm_strm _ _ _ _ _ _ _ hp, wordStrm_param _ _ _ _ _ _ _ hp]
  refine kept_req ?_ ?_ hw
  · simp only [fits, Bool.and_eq_true, decide_eq_true_eq, and_true]; omega
  · congr 1 <;> exact ofNat_self _ _ (by omega)

theorem ReadBack.streamComplete (e : Eng) : ReadBack.Statement (.streamComplete e) :=
  fun _ _ h => nomatch h

theorem ReadBack.instructionMemoryWrite (port : Port) (e : Eng) (bank : Bool) (idx : BitVec 14) (v : BitVec 64) :
    ReadBack.Statement (.instructionMemoryWrite port e bank idx v) :=
  fun _ _ h => nomatch h

theorem ReadBack.load (e : Eng) : ReadBack.Statement (.load e) :=
  fun _ _ h => nomatch h

theorem ReadBack.abort (e : Eng) : ReadBack.Statement (.abort e) :=
  fun _ _ h => nomatch h

theorem ReadBack.swap (e : Eng) : ReadBack.Statement (.swap e) :=
  fun _ _ h => nomatch h

theorem ReadBack.constReload (e : Eng) : ReadBack.Statement (.constReload e) :=
  fun _ _ h => nomatch h

theorem ReadBack.disarm (e : Eng) : ReadBack.Statement (.disarm e) :=
  fun _ _ h => nomatch h

theorem ReadBack.admissionWalkComplete (e : Eng) : ReadBack.Statement (.admissionWalkComplete e) :=
  fun _ _ h => nomatch h

theorem ReadBack.loadGroupFetch (e : Eng) (entry : Fin 16) (grp : Nat) :
    ReadBack.Statement (.loadGroupFetch e entry grp) :=
  fun _ _ h => nomatch h

theorem ReadBack.loadGroupArrive (e : Eng) (entry : Fin 16) (grp : Nat) :
    ReadBack.Statement (.loadGroupArrive e entry grp) :=
  fun _ _ h => nomatch h

theorem ReadBack.bandStart (e : Eng) : ReadBack.Statement (.bandStart e) :=
  fun _ _ h => nomatch h

theorem ReadBack.engineFault (e : Eng) (cause : FaultCause) : ReadBack.Statement (.engineFault e cause) :=
  fun _ _ h => nomatch h

theorem ReadBack.engineWatchdog (e : Eng) : ReadBack.Statement (.engineWatchdog e) :=
  fun _ _ h => nomatch h

theorem ReadBack.engineHang (e : Eng) : ReadBack.Statement (.engineHang e) :=
  fun _ _ h => nomatch h

theorem ReadBack.spareReady (u : Fin 112) : ReadBack.Statement (.spareReady u) :=
  fun _ _ h => nomatch h

theorem ReadBack.triggerTime (gen : Fin 56) : ReadBack.Statement (.triggerTime gen) :=
  fun _ _ h => nomatch h

theorem ReadBack.triggerExt (gen : Fin 56) : ReadBack.Statement (.triggerExt gen) :=
  fun _ _ h => nomatch h

theorem ReadBack.tickTime : ReadBack.Statement (.tickTime) :=
  fun _ _ h => nomatch h

theorem ReadBack.gapTimeout : ReadBack.Statement (.gapTimeout) :=
  fun _ _ h => nomatch h

theorem ReadBack.unservedStripWrite (k : Fin 16) : ReadBack.Statement (.unservedStripWrite k) :=
  fun _ _ h => nomatch h

theorem ReadBack.bandDue (sec : Fin 4) : ReadBack.Statement (.bandDue sec) :=
  fun _ _ h => nomatch h

theorem ReadBack.hold : ReadBack.Statement (.hold) :=
  fun _ _ h => nomatch h

theorem ReadBack.abandon : ReadBack.Statement (.abandon) :=
  fun _ _ h => nomatch h

theorem ReadBack.catchUpStart : ReadBack.Statement (.catchUpStart) :=
  fun _ _ h => nomatch h

theorem ReadBack.heldTokenIssue (sec : Fin 4) : ReadBack.Statement (.heldTokenIssue sec) :=
  fun _ _ h => nomatch h

theorem ReadBack.portEnable (p : Fin 48) : ReadBack.Statement (.portEnable p) :=
  fun _ _ h => nomatch h

theorem ReadBack.portDisable (p : Fin 48) : ReadBack.Statement (.portDisable p) :=
  fun _ _ h => nomatch h

theorem ReadBack.relock (p : Fin 48) : ReadBack.Statement (.relock p) :=
  fun _ _ h => nomatch h

theorem ReadBack.restore (p : Fin 48) : ReadBack.Statement (.restore p) :=
  fun _ _ h => nomatch h

theorem ReadBack.invalidSyncHeader (l : Fin 192) (date : Nat) : ReadBack.Statement (.invalidSyncHeader l date) :=
  fun _ _ h => nomatch h

theorem ReadBack.huntTimeout (l : Fin 192) : ReadBack.Statement (.huntTimeout l) :=
  fun _ _ h => nomatch h

theorem ReadBack.dataBlock (l : Fin 192) (w : BitVec 64) (date : Nat) : ReadBack.Statement (.dataBlock l w date) :=
  fun _ _ h => nomatch h

theorem ReadBack.fill (l : Fin 192) (w : BitVec 64) (date : Nat) : ReadBack.Statement (.fill l w date) :=
  fun _ _ h => nomatch h

theorem ReadBack.fillColumnInsert (p : Fin 48) : ReadBack.Statement (.fillColumnInsert p) :=
  fun _ _ h => nomatch h

theorem ReadBack.am (l : Fin 192) (w : BitVec 64) (date : Nat) : ReadBack.Statement (.am l w date) :=
  fun _ _ h => nomatch h

theorem ReadBack.ls (l : Fin 192) (w : BitVec 64) (date : Nat) : ReadBack.Statement (.ls l w date) :=
  fun _ _ h => nomatch h

theorem ReadBack.le (l : Fin 192) (w : BitVec 64) (date : Nat) : ReadBack.Statement (.le l w date) :=
  fun _ _ h => nomatch h

theorem ReadBack.st (l : Fin 192) (w : BitVec 64) (date : Nat) : ReadBack.Statement (.st l w date) :=
  fun _ _ h => nomatch h

theorem ReadBack.sack (l : Fin 192) (w : BitVec 64) (date : Nat) : ReadBack.Statement (.sack l w date) :=
  fun _ _ h => nomatch h

theorem ReadBack.lineTimeout (p : Fin 48) : ReadBack.Statement (.lineTimeout p) :=
  fun _ _ h => nomatch h

theorem ReadBack.sackTimeout (p : Fin 48) : ReadBack.Statement (.sackTimeout p) :=
  fun _ _ h => nomatch h

theorem ReadBack.silentTimeout (p : Fin 48) : ReadBack.Statement (.silentTimeout p) :=
  fun _ _ h => nomatch h

theorem ReadBack.portGroupWrite (p : Fin 48) (grp : Nat) : ReadBack.Statement (.portGroupWrite p grp) :=
  fun _ _ h => nomatch h

theorem ReadBack.lateGroupFetch (p : Fin 48) (grp : Nat) : ReadBack.Statement (.lateGroupFetch p grp) :=
  fun _ _ h => nomatch h

theorem ReadBack.intakeGroupCommit (p : Fin 48) (grp : Nat) : ReadBack.Statement (.intakeGroupCommit p grp) :=
  fun _ _ h => nomatch h

theorem ReadBack.setband (p : Fin 48) (k : BitVec 64) : ReadBack.Statement (.setband p k) :=
  fun _ _ h => nomatch h

theorem ReadBack.settingsLastFragment (p : Fin 48) : ReadBack.Statement (.settingsLastFragment p) :=
  fun _ _ h => nomatch h

theorem ReadBack.stripGroupCommit (k : Fin 16) (grp : Nat) : ReadBack.Statement (.stripGroupCommit k grp) :=
  fun _ _ h => nomatch h

theorem ReadBack.tandemRead (k : Fin 16) (grp : Nat) : ReadBack.Statement (.tandemRead k grp) :=
  fun _ _ h => nomatch h

theorem ReadBack.packSplitRead (k : Fin 16) (grp : Nat) : ReadBack.Statement (.packSplitRead k grp) :=
  fun _ _ h => nomatch h

theorem ReadBack.encoderEdge (ch : Fin 8) (a : Bool) (b : Bool) (edge : RawEdge) :
    ReadBack.Statement (.encoderEdge ch a b edge) :=
  fun _ _ h => nomatch h

theorem ReadBack.indexEdge (ch : Fin 8) (edge : RawEdge) : ReadBack.Statement (.indexEdge ch edge) :=
  fun _ _ h => nomatch h

theorem ReadBack.presetLoad (ch : Fin 8) : ReadBack.Statement (.presetLoad ch) :=
  fun _ _ h => nomatch h

theorem ReadBack.loadIdx (ch : Fin 8) : ReadBack.Statement (.loadIdx ch) :=
  fun _ _ h => nomatch h

theorem ReadBack.idxDisarm (ch : Fin 8) : ReadBack.Statement (.idxDisarm ch) :=
  fun _ _ h => nomatch h

theorem ReadBack.encoderStopTimeout (ch : Fin 8) : ReadBack.Statement (.encoderStopTimeout ch) :=
  fun _ _ h => nomatch h

theorem ReadBack.serialPoll (k : Fin 4) (poll : PollTiming) : ReadBack.Statement (.serialPoll k poll) :=
  fun _ _ h => nomatch h

theorem ReadBack.serialSample (k : Fin 4) (f : SerialFrame) : ReadBack.Statement (.serialSample k f) :=
  fun _ _ h => nomatch h

theorem ReadBack.dinEdge (d : Fin 8) (level : Bool) (edge : RawEdge) : ReadBack.Statement (.dinEdge d level edge) :=
  fun _ _ h => nomatch h

theorem ReadBack.compareFire (u : Fin 4) : ReadBack.Statement (.compareFire u) :=
  fun _ _ h => nomatch h

theorem ReadBack.markerRelease (o : Fin 16) : ReadBack.Statement (.markerRelease o) :=
  fun _ _ h => nomatch h

theorem ReadBack.posCmpAppend (u : Fin 4) (e3 : BitVec 64) : ReadBack.Statement (.posCmpAppend u e3) :=
  fun _ _ h => nomatch h

theorem ReadBack.flush (u : Fin 4) : ReadBack.Statement (.flush u) :=
  fun _ _ h => nomatch h

theorem ReadBack.markRecord : ReadBack.Statement (.markRecord) :=
  fun _ _ h => nomatch h

theorem ReadBack.batchClose (u : Fin 4) : ReadBack.Statement (.batchClose u) :=
  fun _ _ h => nomatch h

theorem ReadBack.emulationEdge (o : Fin 4) : ReadBack.Statement (.emulationEdge o) :=
  fun _ _ h => nomatch h

theorem ReadBack.phaseMark : ReadBack.Statement (.phaseMark) :=
  fun _ _ h => nomatch h

theorem ReadBack.seamLook : ReadBack.Statement (.seamLook) :=
  fun _ _ h => nomatch h

theorem ReadBack.seamAlias : ReadBack.Statement (.seamAlias) :=
  fun _ _ h => nomatch h

theorem ReadBack.seamComponent : ReadBack.Statement (.seamComponent) :=
  fun _ _ h => nomatch h

theorem ReadBack.seamEnd : ReadBack.Statement (.seamEnd) :=
  fun _ _ h => nomatch h

theorem ReadBack.seamClose : ReadBack.Statement (.seamClose) :=
  fun _ _ h => nomatch h

theorem ReadBack.recordFrame (k : Fin 16) : ReadBack.Statement (.recordFrame k) :=
  fun _ _ h => nomatch h

theorem ReadBack.outputItem (src : OutSrc) : ReadBack.Statement (.outputItem src) :=
  fun _ _ h => nomatch h

theorem ReadBack.cropDescriptor : ReadBack.Statement (.cropDescriptor) :=
  fun _ _ h => nomatch h

theorem ReadBack.eventRecordRoute : ReadBack.Statement (.eventRecordRoute) :=
  fun _ _ h => nomatch h

theorem ReadBack.ringWrite (r : Fin 64) : ReadBack.Statement (.ringWrite r) :=
  fun _ _ h => nomatch h

theorem ReadBack.ringIrqTimer (r : Fin 64) : ReadBack.Statement (.ringIrqTimer r) :=
  fun _ _ h => nomatch h

theorem ReadBack.ringConsumerWrite (r : Fin 64) (v : BitVec 64) : ReadBack.Statement (.ringConsumerWrite r v) :=
  fun _ _ h => nomatch h

theorem ReadBack.datagramFlush (st : Fin 8) : ReadBack.Statement (.datagramFlush st) :=
  fun _ _ h => nomatch h

theorem ReadBack.streamSlot (st : Fin 8) : ReadBack.Statement (.streamSlot st) :=
  fun _ _ h => nomatch h

theorem ReadBack.ackReceived (st : Fin 8) (a : AckFrame) : ReadBack.Statement (.ackReceived st a) :=
  fun _ _ h => nomatch h

theorem ReadBack.ackTimeoutProbe (st : Fin 8) : ReadBack.Statement (.ackTimeoutProbe st) :=
  fun _ _ h => nomatch h

theorem ReadBack.neighbourRequest (p : Fin 2) (v6 : Bool) (target : BitVec 128) (from_ : BitVec 48) :
    ReadBack.Statement (.neighbourRequest p v6 target from_) :=
  fun _ _ h => nomatch h

theorem ReadBack.frameDrop (p : Fin 2) : ReadBack.Statement (.frameDrop p) :=
  fun _ _ h => nomatch h

theorem ReadBack.streamLinkChange (p : Fin 2) (up : Bool) : ReadBack.Statement (.streamLinkChange p up) :=
  fun _ _ h => nomatch h

theorem ReadBack.hostLinkUp (gen : Nat) (width : Nat) (flit : Bool) (mps : BitVec 16) (mrrs : BitVec 16) :
    ReadBack.Statement (.hostLinkUp gen width flit mps mrrs) :=
  fun _ _ h => nomatch h

theorem ReadBack.hubTransaction (src : HubSrc) (cls : Fin 4) (addr : Nat) (wr : Option (List (BitVec 8))) : ReadBack.Statement (.hubTransaction src cls addr wr) :=
  fun _ _ h => nomatch h

theorem ReadBack.bar2Read (addr : Nat) (n : Nat) : ReadBack.Statement (.bar2Read addr n) :=
  fun _ _ h => nomatch h

theorem ReadBack.bar2Write (addr : Nat) (data : List (BitVec 8)) : ReadBack.Statement (.bar2Write addr data) :=
  fun _ _ h => nomatch h

theorem ReadBack.scrubBatch (c : Fin 50) (granule : Nat) (n : Nat) : ReadBack.Statement (.scrubBatch c granule n) :=
  fun _ _ h => nomatch h

theorem ReadBack.bankRefresh (c : Fin 50) (b : Fin 16) : ReadBack.Statement (.bankRefresh c b) :=
  fun _ _ h => nomatch h

theorem ReadBack.selfRefreshEntry (c : Fin 50) : ReadBack.Statement (.selfRefreshEntry c) :=
  fun _ _ h => nomatch h

theorem ReadBack.retrainPassStart (c : Fin 50) : ReadBack.Statement (.retrainPassStart c) :=
  fun _ _ h => nomatch h

theorem ReadBack.retrainSlice (c : Fin 50) (m : SliceMeasure) : ReadBack.Statement (.retrainSlice c m) :=
  fun _ _ h => nomatch h

theorem ReadBack.retrainForce (c : Fin 50) : ReadBack.Statement (.retrainForce c) :=
  fun _ _ h => nomatch h

theorem ReadBack.frequencySwitch (rate : BitVec 2) : ReadBack.Statement (.frequencySwitch rate) :=
  fun _ _ h => nomatch h

theorem ReadBack.frequencySwitchComplete (failed : List (Fin 50)) :
    ReadBack.Statement (.frequencySwitchComplete failed) :=
  fun _ _ h => nomatch h

theorem ReadBack.migReq (slot : BitVec 6) : ReadBack.Statement (.migReq slot) :=
  fun _ _ h => nomatch h

theorem ReadBack.migrationCopy : ReadBack.Statement (.migrationCopy) :=
  fun _ _ h => nomatch h

theorem ReadBack.migrationComplete : ReadBack.Statement (.migrationComplete) :=
  fun _ _ h => nomatch h

theorem ReadBack.retirementComplete : ReadBack.Statement (.retirementComplete) :=
  fun _ _ h => nomatch h

theorem ReadBack.dmaStart (u : Fin 4) (ch : Fin 16) : ReadBack.Statement (.dmaStart u ch) :=
  fun _ _ h => nomatch h

theorem ReadBack.dmaStop (u : Fin 4) (ch : Fin 16) : ReadBack.Statement (.dmaStop u ch) :=
  fun _ _ h => nomatch h

theorem ReadBack.dmaAppend (u : Fin 4) (ch : Fin 16) (a : BitVec 64) : ReadBack.Statement (.dmaAppend u ch a) :=
  fun _ _ h => nomatch h

theorem ReadBack.dmaUnitGrant (u : Fin 4) : ReadBack.Statement (.dmaUnitGrant u) :=
  fun _ _ h => nomatch h

theorem ReadBack.dmaDescriptorFetch (u : Fin 4) : ReadBack.Statement (.dmaDescriptorFetch u) :=
  fun _ _ h => nomatch h

theorem ReadBack.dmaBurst (u : Fin 4) : ReadBack.Statement (.dmaBurst u) :=
  fun _ _ h => nomatch h

theorem ReadBack.dmaDescriptorComplete (u : Fin 4) : ReadBack.Statement (.dmaDescriptorComplete u) :=
  fun _ _ h => nomatch h

theorem ReadBack.chnCntRead (c : Fin 256) : ReadBack.Statement (.chnCntRead c) :=
  fun _ _ h => nomatch h

theorem ReadBack.timStep (v : BitVec 64) : ReadBack.Statement (.timStep v) :=
  fun _ _ h => nomatch h

theorem ReadBack.timOfsWrite (frac : Bool) (v : BitVec 64) : ReadBack.Statement (.timOfsWrite frac v) :=
  fun _ _ h => nomatch h

theorem ReadBack.timRateWrite (v : BitVec 64) : ReadBack.Statement (.timRateWrite v) :=
  fun _ _ h => nomatch h

theorem ReadBack.timSnap : ReadBack.Statement (.timSnap) :=
  fun _ _ h => nomatch h

theorem ReadBack.referenceLost : ReadBack.Statement (.referenceLost) :=
  fun _ _ h => nomatch h

theorem ReadBack.referenceRelock : ReadBack.Statement (.referenceRelock) :=
  fun _ _ h => nomatch h

theorem ReadBack.ppsInEdge (date : Nat) : ReadBack.Statement (.ppsInEdge date) :=
  fun _ _ h => nomatch h

theorem ReadBack.ppsMissing : ReadBack.Statement (.ppsMissing) :=
  fun _ _ h => nomatch h

theorem ReadBack.ppsOut : ReadBack.Statement (.ppsOut) :=
  fun _ _ h => nomatch h

theorem ReadBack.ptpMessage (m : PtpMsg) : ReadBack.Statement (.ptpMessage m) :=
  fun _ _ h => nomatch h

theorem ReadBack.supervisionScan (samples : List SensorSample) : ReadBack.Statement (.supervisionScan samples) :=
  fun _ _ h => nomatch h

theorem ReadBack.telemetryUpdate (late : Bool) (page : List (BitVec 8)) :
    ReadBack.Statement (.telemetryUpdate late page) :=
  fun _ _ h => nomatch h

theorem ReadBack.logWrite : ReadBack.Statement (.logWrite) :=
  fun _ _ h => nomatch h

theorem ReadBack.smbusSel (sel : SmbSel) : ReadBack.Statement (.smbusSel sel) :=
  fun _ _ h => nomatch h

theorem ReadBack.smbusRead : ReadBack.Statement (.smbusRead) :=
  fun _ _ h => nomatch h

theorem ReadBack.powerFailWarning : ReadBack.Statement (.powerFailWarning) :=
  fun _ _ h => nomatch h

theorem ReadBack.info (tag : BitVec 16) : ReadBack.Statement (.info tag) :=
  fun _ _ h => nomatch h

theorem ReadBack.logRead (tag : BitVec 16) (seq : BitVec 32) (count : Nat) :
    ReadBack.Statement (.logRead tag seq count) :=
  fun _ _ h => nomatch h

theorem ReadBack.bboxRead (tag : BitVec 16) (slot : Nat) (offset : Nat) :
    ReadBack.Statement (.bboxRead tag slot offset) :=
  fun _ _ h => nomatch h

theorem ReadBack.updBegin (tag : BitVec 16) (len : Nat) : ReadBack.Statement (.updBegin tag len) :=
  fun _ _ h => nomatch h

theorem ReadBack.updData (tag : BitVec 16) (off : Nat) (data : List (BitVec 8)) :
    ReadBack.Statement (.updData tag off data) :=
  fun _ _ h => nomatch h

theorem ReadBack.updVerify (tag : BitVec 16) : ReadBack.Statement (.updVerify tag) :=
  fun _ _ h => nomatch h

theorem ReadBack.updActivate (tag : BitVec 16) : ReadBack.Statement (.updActivate tag) :=
  fun _ _ h => nomatch h

theorem ReadBack.updConfirm (tag : BitVec 16) : ReadBack.Statement (.updConfirm tag) :=
  fun _ _ h => nomatch h

theorem ReadBack.mgtRestart (tag : BitVec 16) : ReadBack.Statement (.mgtRestart tag) :=
  fun _ _ h => nomatch h

theorem ReadBack.boardWrite (tag : BitVec 16) (table : List (BitVec 8)) : ReadBack.Statement (.boardWrite tag table) :=
  fun _ _ h => nomatch h

theorem ReadBack.ptpSet (tag : BitVec 16) (cfg : PtpCfg) : ReadBack.Statement (.ptpSet tag cfg) :=
  fun _ _ h => nomatch h

theorem ReadBack.ptpStatus (tag : BitVec 16) : ReadBack.Statement (.ptpStatus tag) :=
  fun _ _ h => nomatch h

theorem ReadBack.netSet (tag : BitVec 16) (cfg : NetCfg) : ReadBack.Statement (.netSet tag cfg) :=
  fun _ _ h => nomatch h

theorem ReadBack.mailboxComplete : ReadBack.Statement (.mailboxComplete) :=
  fun _ _ h => nomatch h

theorem ReadBack.mailboxBusy (v : BitVec 64) : ReadBack.Statement (.mailboxBusy v) :=
  fun _ _ h => nomatch h

theorem ReadBack.uartFrame (off : Nat) (data : List (BitVec 8)) (crc : BitVec 32) :
    ReadBack.Statement (.uartFrame off data crc) :=
  fun _ _ h => nomatch h

theorem ReadBack.thermalMeasure (readings : List Int) : ReadBack.Statement (.thermalMeasure readings) :=
  fun _ _ h => nomatch h

theorem ReadBack.thermalRestart : ReadBack.Statement (.thermalRestart) :=
  fun _ _ h => nomatch h

theorem ReadBack.brkLock : ReadBack.Statement (.brkLock) :=
  fun _ _ h => nomatch h

theorem ReadBack.kick (port : Port) (v : BitVec 8) : ReadBack.Statement (.kick port v) :=
  fun _ _ h => nomatch h

theorem ReadBack.mgtWatchdogTimeout : ReadBack.Statement (.mgtWatchdogTimeout) :=
  fun _ _ h => nomatch h

theorem ReadBack.modeReqStandby (abort : Bool) : ReadBack.Statement (.modeReqStandby abort) :=
  fun _ _ h => nomatch h

theorem ReadBack.modeReqService (abort : Bool) : ReadBack.Statement (.modeReqService abort) :=
  fun _ _ h => nomatch h

theorem ReadBack.modeReqTeach : ReadBack.Statement (.modeReqTeach) :=
  fun _ _ h => nomatch h

theorem ReadBack.modeReqInspect : ReadBack.Statement (.modeReqInspect) :=
  fun _ _ h => nomatch h

theorem ReadBack.modeReqStream (nosieve : Bool) : ReadBack.Statement (.modeReqStream nosieve) :=
  fun _ _ h => nomatch h

theorem ReadBack.modeReqSafe : ReadBack.Statement (.modeReqSafe) :=
  fun _ _ h => nomatch h

theorem ReadBack.modeAbort : ReadBack.Statement (.modeAbort) :=
  fun _ _ h => nomatch h

theorem ReadBack.serviceReady (failed : List (Fin 50)) : ReadBack.Statement (.serviceReady failed) :=
  fun _ _ h => nomatch h

theorem ReadBack.acquisitionEntryComplete : ReadBack.Statement (.acquisitionEntryComplete) :=
  fun _ _ h => nomatch h

theorem ReadBack.drainComplete : ReadBack.Statement (.drainComplete) :=
  fun _ _ h => nomatch h

theorem ReadBack.safe : ReadBack.Statement (.safe) :=
  fun _ _ h => nomatch h

theorem ReadBack.safeNLow : ReadBack.Statement (.safeNLow) :=
  fun _ _ h => nomatch h

theorem ReadBack.safeNHigh : ReadBack.Statement (.safeNHigh) :=
  fun _ _ h => nomatch h

theorem ReadBack.dprst : ReadBack.Statement (.dprst) :=
  fun _ _ h => nomatch h

theorem ReadBack.moduleReset (straps : BitVec 3) : ReadBack.Statement (.moduleReset straps) :=
  fun _ _ h => nomatch h

theorem ReadBack.hostReset (kind : HostResetKind) : ReadBack.Statement (.hostReset kind) :=
  fun _ _ h => nomatch h

theorem ReadBack.powerOn (straps : BitVec 3) : ReadBack.Statement (.powerOn straps) :=
  fun _ _ h => nomatch h

theorem ReadBack.powerOnTestComplete (failed : List Eng) : ReadBack.Statement (.powerOnTestComplete failed) :=
  fun _ _ h => nomatch h

theorem ReadBack.firmwareReady (date : Nat) : ReadBack.Statement (.firmwareReady date) :=
  fun _ _ h => nomatch h

theorem ReadBack.powerOff : ReadBack.Statement (.powerOff) :=
  fun _ _ h => nomatch h

theorem ReadBack.vinOvervoltage : ReadBack.Statement (.vinOvervoltage) :=
  fun _ _ h => nomatch h

theorem ReadBack.phaseFailure : ReadBack.Statement (.phaseFailure) :=
  fun _ _ h => nomatch h

theorem ReadBack.tstUnlock (port : Port) (v : BitVec 64) : ReadBack.Statement (.tstUnlock port v) :=
  fun _ _ h => nomatch h

theorem ReadBack.tstCred (port : Port) (i : Fin 4) (v : BitVec 64) : ReadBack.Statement (.tstCred port i v) :=
  fun _ _ h => nomatch h

theorem ReadBack.tstHublat (port : Port) (v : BitVec 64) : ReadBack.Statement (.tstHublat port v) :=
  fun _ _ h => nomatch h

theorem ReadBack.tstBp (port : Port) (v : BitVec 64) : ReadBack.Statement (.tstBp port v) :=
  fun _ _ h => nomatch h

theorem ReadBack.backpressurePhase : ReadBack.Statement (.backpressurePhase) :=
  fun _ _ h => nomatch h

theorem ReadBack.tstLane (port : Port) (i : Fin 4) (v : BitVec 64) : ReadBack.Statement (.tstLane port i v) :=
  fun _ _ h => nomatch h

theorem ReadBack.tstEccGo (port : Port) (v : BitVec 64) : ReadBack.Statement (.tstEccGo port v) :=
  fun _ _ h => nomatch h

theorem ReadBack.tstEncGo (port : Port) (v : BitVec 64) : ReadBack.Statement (.tstEncGo port v) :=
  fun _ _ h => nomatch h

theorem ReadBack.tstLine (port : Port) (v : BitVec 64) : ReadBack.Statement (.tstLine port v) :=
  fun _ _ h => nomatch h

theorem ReadBack.tstTick (port : Port) (v : BitVec 64) : ReadBack.Statement (.tstTick port v) :=
  fun _ _ h => nomatch h

theorem ReadBack.tstTherm (port : Port) (v : BitVec 64) : ReadBack.Statement (.tstTherm port v) :=
  fun _ _ h => nomatch h

theorem ReadBack.resetNRelease : ReadBack.Statement (.resetNRelease) :=
  fun _ _ h => nomatch h

theorem ReadBack.transmissionEnd (p : Fin 2) : ReadBack.Statement (.transmissionEnd p) :=
  fun _ _ h => nomatch h

theorem ReadBack.streamRateBucketRefill (p : Fin 2) : ReadBack.Statement (.streamRateBucketRefill p) :=
  fun _ _ h => nomatch h

theorem ReadBack.tc0TokenGain (c : Fin 50) : ReadBack.Statement (.tc0TokenGain c) :=
  fun _ _ h => nomatch h

theorem ReadBack.correctedErrorWindowEnd (c : Fin 50) : ReadBack.Statement (.correctedErrorWindowEnd c) :=
  fun _ _ h => nomatch h

theorem ReadBack.tickJitterIssue : ReadBack.Statement (.tickJitterIssue) :=
  fun _ _ h => nomatch h

end Sys2Proof.Laws
end

