-- ==== Sys2Proof/Laws/Wire.lean ====
section
/-! SUPPORT. A block of 66 bits on the wire (R140): what a receiver whose descrambler holds the 58 bits sent before reads is
what was sent, and it holds after it the bits the transmitter holds. -/

namespace Sys2Proof.Machine

/-- Descrambling inverts scrambling from the same 58 bits, and both end with the same 58 bits. -/
theorem runBits_descramble (bs : List Bool) (h : BitVec 58) :
    runBits descrambleBit h (runBits scrambleBit h bs).2 = ((runBits scrambleBit h bs).1, bs) := by
  induction bs generalizing h with
  | nil => rfl
  | cons b bs ih =>
    simp only [runBits, scrambleBit, descrambleBit] at ih ⊢
    rw [ih]
    simp [Bool.xor_comm, Bool.xor_left_comm]

/-- Bit `i` of the number that a list of bits spells from bit 0 on. -/
theorem testBit_ofBits (bs : List Bool) (i : Nat) :
    (bs.foldr (fun (b : Bool) (v : Nat) => (if b then 1 else 0) + 2 * v) 0).testBit i = bs.getD i false := by
  induction bs generalizing i with
  | nil => simp
  | cons b bs ih =>
    simp only [List.foldr_cons]
    cases i with
    | zero => cases b <;> simp [Nat.testBit_zero, Nat.add_mod]
    | succ i =>
      rw [Nat.testBit_succ, List.getD_cons_succ, ← ih i]
      congr 1
      cases b <;> simp <;> omega

theorem payloadOf_payloadBits (w : Word) : payloadOf (payloadBits w) = w := by
  apply BitVec.eq_of_getLsbD_eq
  intro i hi
  simp only [payloadOf, BitVec.getLsbD_ofNat, testBit_ofBits, payloadBits]
  simp [hi, List.getD_eq_getElem?_getD]

/-- The receiver reads the block that was sent. -/
theorem readBlock_wireBlock (h : BitVec 58) (c : Bool) (w : Word) :
    readBlock h (wireBlock h c w).2 = ((wireBlock h c w).1, if c then .ctl w else .data w) := by
  have e := runBits_descramble (payloadBits w) h
  cases c <;> simp [readBlock, wireBlock, e, payloadOf_payloadBits]

end Sys2Proof.Machine
end

