-- ==== Sys2Proof/Tests/Slice0.lean ====
section
/-! SUPPORT. The author's own tests: `test_…` compares one step with a value worked out from the spec by hand, `witness_…`
shows a concrete state and operands that meet the hypotheses of a statement, one for each of its clauses, with a figure of
the outcome beside it. -/

set_option Elab.async false

namespace Sys2Proof.Tests
open Machine

/-! ### Small states -/

/-- Register fields written one after another. -/
def withRegs (l : List (Fld × Nat)) (s : State) : State := l.foldl (fun s p => s.setrf p.1 p.2) s

/-- The command completes with a state of which `p` reads 1. -/
def yields (c : Instr) (s : State) (p : State → Bool) : Bool := match exec c s with | .next t => p t | _ => false

/-- The command changes nothing. -/
def stays (c : Instr) (s : State) : Bool := yields c s (· == s)

/-- The command is the undefined word of this mnemonic. -/
def undefinedBy (c : Instr) (s : State) (m : String) : Bool :=
  match exec c s with | .refused (.undefinedWord n) => n == m | _ => false

/-- An event with these details has been raised. -/
def raised (code a0 a1 a2 : Nat) (t : State) : Bool :=
  t.evq.any (fun v => v.code == code && v.a0 == a0 && v.a1 == a1 && v.a2 == a2)

/-- A module at count 1,000,000 in STREAM with the hub powered. -/
def live : State := withRegs [(Rf.GLB_STATUS_MODE, 3)] { State.reset with count := 1000000, hubU := { on := true } }

/-- The same with engine `e` running, in the state `x`. -/
def running (e : Nat) (x : Engine) : State := withRegs [(Rf.ENG_STATUS_STATE e, 2)] (live.setEng e x)

/-- An engine with s1 = 7, s2 = -2, p1 = 1, d1 a run of 16 U16 in scratch at 0x100, d2 one at 0x200, d3 one in the hub. -/
def core : Engine :=
  { sregs := [(1, 7), (2, -2)], preds := [(1, true)],
    descs := [(1, ⟨0x000F000000000100, 64⟩), (2, ⟨0x000F000000000200, 64⟩), (3, ⟨0x000F010000100000, 64⟩)], pc := 5, run := 10 }

/-! ### Well-formedness: every check refuses an ill-formed term -/

theorem test_wf_accepts : (Instr.ext 0 1 2 0 64).wf = true ∧ (Instr.ins 0 1 2 60 4).wf = true ∧ (Instr.br 0 0 1).wf = true ∧
    (Instr.rd 0 1 10).wf = true ∧ (Instr.ard 0 0 1 0 4).wf = true ∧ (Instr.lut 0 ⟨0, 16, false⟩ 1 2 0 12).wf = true ∧
    (Instr.xmrg 0 ⟨0, 16, false⟩ 1 2 0 0 12 8).wf = true ∧ (Instr.hist 0 ⟨0, 16, false⟩ 1 12 0 0 false).wf = true := by
  decide +kernel

theorem test_wf_refuses : (Instr.ext 0 1 2 0 0).wf = false ∧ (Instr.ext 0 1 2 0 65).wf = false ∧
    (Instr.ins 0 1 2 0 0).wf = false ∧ (Instr.ins 0 1 2 60 5).wf = false ∧ (Instr.br 0 0 0).wf = false ∧
    (Instr.rd 0 1 11).wf = false ∧ (Instr.ard 0 0 1 0 5).wf = false ∧ (Instr.lut 0 ⟨0, 16, false⟩ 1 2 0 13).wf = false ∧
    (Instr.luti 0 ⟨0, 16, false⟩ 1 2 0 13).wf = false ∧ (Instr.k1v 0 ⟨0, 16, false⟩ 1 2 0 3).wf = false ∧
    (Instr.thr 0 ⟨0, 16, false⟩ 1 2 0 3).wf = false ∧ (Instr.xmrg 0 ⟨0, 16, false⟩ 1 2 0 0 13 0).wf = false ∧
    (Instr.xmrg 0 ⟨0, 16, false⟩ 1 2 0 0 0 9).wf = false ∧ (Instr.scor 0 ⟨0, 16, false⟩ 1 2 3 25 0 false 0 false).wf = false ∧
    (Instr.hist 0 ⟨0, 16, false⟩ 1 0 0 0 false).wf = false ∧ (Instr.hist 0 ⟨0, 16, false⟩ 1 13 0 0 false).wf = false := by
  decide +kernel

/-! ### The step -/

theorem witness_step : { State.reset with pending := [.nop 3, .hold] }.pending = [.nop 3, .hold] := by decide +kernel

/-- On an empty queue the clock counts on by one. -/
theorem test_idle_step : (match step State.reset with | .next t => t.count == 1 | _ => false) = true := by decide +kernel

/-! ### The scalar core -/

theorem witness_core_runs : (running 3 core).runs 3 = true ∧ (running 118 core).runs 118 = true ∧
    (core.guard 1 = true ∧ core.guard 9 = false ∧ core.guard 0 = true ∧ core.guard 2 = false) := by decide +kernel

/-- 7 + (-2) = 5; a guard that reads 0 keeps the destination; s0 takes no write. -/
theorem test_add : yields (.add 3 1 3 1 2) (running 3 core) (fun t => (t.eng 3).s 3 == 5 && (t.eng 3).pc == 6 && (t.eng 3).run == 11) ∧
    yields (.add 3 9 1 1 2) (running 3 core) (fun t => (t.eng 3).s 1 == 7) ∧
    yields (.add 3 0 0 1 2) (running 3 core) (fun t => (t.eng 3).s 0 == 0) := by decide +kernel

/-- mulh of 7 and -2 is the high half of -14; adds saturates at 2^63 - 1; clz 7 = 61; popc(-2) = 63. -/
theorem test_scalar_corners : yields (.mulh 3 0 3 1 2) (running 3 core) (fun t => (t.eng 3).s 3 == -1) ∧
    yields (.clz 3 0 3 1) (running 3 core) (fun t => (t.eng 3).s 3 == 61) ∧
    yields (.popc 3 0 3 2) (running 3 core) (fun t => (t.eng 3).s 3 == 63) ∧
    yields (.adds 3 0 3 4 4) (running 3 { core with sregs := [(4, 0x7000000000000000)] })
      (fun t => (t.eng 3).s 3 == 0x7FFFFFFFFFFFFFFF) ∧
    yields (.sar 3 0 3 2 1) (running 3 core) (fun t => (t.eng 3).s 3 == -1) := by decide +kernel

theorem witness_ext_ins : yields (.ext 3 3 2 60 64) (running 3 core) (fun t => (t.eng 3).s 3 == 15) ∧
    yields (.ins 3 1 2 4 60) (running 3 core) (fun t => (t.eng 3).s 1 == 0xFFFFFFFFFFFFFFE7) ∧
    yields (.movi 3 3 (BitVec.allOnes 34)) (running 3 core) (fun t => (t.eng 3).s 3 == -1) ∧
    yields (.sethi 3 3 2 1) (running 3 core) (fun t => (t.eng 3).s 3 == 0x7FFFFFFFE) ∧
    yields (.clamp 3 3 2 9) (running 3 core) (fun t => (t.eng 3).s 3 == 0) := by decide +kernel

theorem test_cmp : yields (.cmpLt 3 0 2 2 1) (running 3 core) (fun t => (t.eng 3).p 2) ∧
    yields (.cmpLtu 3 0 2 2 1) (running 3 core) (fun t => !(t.eng 3).p 2) ∧
    yields (.pset 3 0 false) (running 3 core) (fun t => (t.eng 3).p 0) := by decide +kernel

/-- Selector 7 is the outermost loop's index, 10 a level that is not open. -/
theorem witness_rd : yields (.rd 3 3 7) (running 3 { core with loops := [⟨5, 1, 4, 1⟩, ⟨2, 9, 6, 3⟩] })
      (fun t => (t.eng 3).s 3 == 3) ∧
    yields (.rd 3 3 10) (running 3 core) (fun t => (t.eng 3).s 3 == 0) ∧
    yields (.rd 3 3 2) (running 3 core) (fun t => (t.eng 3).s 3 == 3) := by decide +kernel

theorem witness_br_loop : yields (.br 3 1 1) (running 3 core) (fun t => (t.eng 3).pc == 6) ∧
    yields (.br 3 1 16383) (running 3 core) (fun t => (t.eng 3).pc == 16388) ∧
    yields (.br 3 9 4) (running 3 core) (fun t => (t.eng 3).pc == 6) ∧
    yields (.loop 3 1 1) (running 3 core) (fun t => (t.eng 3).loops == [⟨6, 1, 1, 0⟩]) ∧
    yields (.loop 3 0 4) (running 3 core) (fun t => (t.eng 3).pc == 10) ∧
    yields (.loopr 3 2 1 7 2) (running 3 core) (fun t => !(t.eng 3).p 2 && (t.eng 3).loops == [⟨6, 2, 7, 0⟩]) ∧
    yields (.loopr 3 2 1 6 2) (running 3 core) (fun t => (t.eng 3).p 2 && t.rf (Rf.ENG_CLAMP_CLAMP_CNT 3) == 1) ∧
    yields (.loopr 3 2 5 6 2) (running 3 core) (fun t => (t.eng 3).pc == 8 && !(t.eng 3).p 2) := by decide +kernel

theorem witness_undefined : undefinedBy (.ext 3 1 2 0 65) live "EXT" ∧ undefinedBy (.ins 3 1 2 1 64) live "INS" ∧
    undefinedBy (.br 3 0 0) live "BR" ∧ undefinedBy (.rd 3 1 11) live "RD" ∧ undefinedBy (.ard 3 0 1 0 5) live "ARD" ∧
    undefinedBy (.lut 3 ⟨0, 16, false⟩ 1 2 0 13) live "LUT" ∧ undefinedBy (.luti 3 ⟨0, 16, false⟩ 1 2 0 15) live "LUTI" ∧
    undefinedBy (.k1v 3 ⟨0, 16, false⟩ 1 2 0 3) live "K1V" ∧ undefinedBy (.thr 3 ⟨0, 16, false⟩ 1 2 0 3) live "THR" ∧
    undefinedBy (.xmrg 3 ⟨0, 16, false⟩ 1 2 0 0 13 0) live "XMRG" ∧
    undefinedBy (.scor 3 ⟨0, 16, false⟩ 1 2 3 25 0 false 0 false) live "SCOR" ∧
    undefinedBy (.hist 3 ⟨0, 16, false⟩ 1 0 0 0 false) live "HIST" := by decide +kernel

/-- A row below moves ADDR by the stride; row -4 of stride 64 from 0x100 is address 0. -/
theorem test_dadv : yields (.dadv 3 0 1 (-4)) (running 3 core) (fun t => ((t.eng 3).d 1).addr == 0 && ((t.eng 3).d 1).w1 == 64) ∧
    yields (.dadv 3 0 1 (-5)) (running 3 core) (fun t => ((t.eng 3).d 1).addr == 2 ^ 40 - 64) ∧
    yields (.dfmt 3 0 1 2) (running 3 core) (fun t => ((t.eng 3).d 1).w0 == 0xFFFFFE0000000100) := by decide +kernel

/-! ### Scratch, copies and chains from an engine -/

/-- s3 at the last eight bytes of scratch, s4 at its end. -/
def atEnd : Engine := { core with sregs := [(1, 7), (3, 0x3FFFFF), (4, 0x400000)], scratch := [(0x3FFFF8, 0x11), (0x3FFFFF, 0x88)] }

theorem witness_lds : (running 3 atEnd).waits 3 (.lds 3 0 2 3 0) = none ∧ (running 3 atEnd).waits 3 (.lds 3 0 2 4 0) = none ∧
    (running 3 atEnd).waits 3 (.lds 3 9 2 3 0) = none ∧
    yields (.lds 3 0 2 3 0) (running 3 atEnd) (fun t => (t.eng 3).s 2 == 0x8800000000000011) ∧
    yields (.lds 3 0 2 4 0) (running 3 atEnd) (fun t => (t.eng 3).s 2 == 0 && t.rf (Rf.ENG_CLAMP_SCR_VIOL 3) == 1) := by
  decide +kernel

/-- An image whose constant region is the 64 bytes from 0x40. -/
def withConst (x : Engine) : Engine := { x with bank0 := [(1, 0x00010001)] }

theorem witness_sts :
    let s := running 3 (withConst { atEnd with sregs := [(1, 7), (2, 0x40), (3, 0x3FFFFF), (4, 0x400000)] })
    s.waits 3 (.sts 3 0 1 3 0) = none ∧ s.inConst 3 0x40 = true ∧ s.inConst 3 0x80 = false ∧
    yields (.sts 3 0 1 3 0) s (fun t => scrByte (t.eng 3) 0x3FFFF8 == 7 && scrByte (t.eng 3) 0x3FFFFF == 0) ∧
    yields (.sts 3 0 1 2 0) s (fun t => scrByte (t.eng 3) 0x40 == 0 && t.rf (Rf.ENG_CLAMP_SCR_VIOL 3) == 1) ∧
    yields (.sts 3 0 1 4 0) s (fun t => t.rf (Rf.ENG_CLAMP_SCR_VIOL 3) == 1) ∧
    yields (.sts 3 0 1 2 64) s (fun t => scrByte (t.eng 3) 0x80 == 7) := by decide +kernel

/-- 32 instructions fill the issue queue. -/
def full : Engine := { core with queue := (List.range 32).map (fun k => ⟨k, .aclr 3 0 0, true, [], [], true, 0⟩) }

theorem witness_stalled : (running 3 full).waits 3 (.vadd 3 ⟨0, 16, false⟩ 1 1 2) = some 2 ∧
    (running 3 full).waits 3 (.fence 3 1) = some 2 ∧ (running 3 full).waits 3 (.wtick 3) = some 2 ∧
    yields (.wtick 3) (running 3 full) (fun t => (t.eng 3).pc == 5 && (t.eng 3).stalled == some (.wtick 3)) := by decide +kernel

theorem witness_copies :
    let s := running 3 core
    s.waits 3 (.hld 3 0 1 3 0) = none ∧ s.waits 3 (.hst 3 0 3 1 0) = none ∧ (core.d 3).inHub = true ∧ (core.d 1).inHub = false ∧
    yields (.hld 3 0 1 3 0) s (fun t => (t.eng 3).copies.map (fun c => (c.rows, c.bytes)) == [(1, 32)]) ∧
    yields (.hst 3 0 3 1 4095) s (fun t => (t.eng 3).copies.map (fun c => (c.rows, c.bytes)) == [(4096, 32)]) ∧
    yields (.hld 3 0 3 1 0) s (fun t => (t.eng 3).copies.isEmpty && t.rf (Rf.ENG_CLAMP_SCR_VIOL 3) == 1) := by decide +kernel

/-- Load entry 0 of the image fills descriptor 1; its group 0 of band 0 has arrived. -/
theorem witness_ldw :
    let s := running 3 { core with sregs := [], bank0 := [(0, 0x0001000000000000), (8, 1)], loads := [⟨0, 0, 0, true⟩] }
    s.groupIn 3 1 0 = true ∧ yields (.ldw 3 1 0) s (fun t => (t.eng 3).pc == 6) := by decide +kernel

/-- A copy of one row of 16 bytes between scratch 0x100 and hub byte 0x30000000. -/
def copyOf (k : CopyKind) : Copy :=
  let scr : Desc := ⟨0x0007000000000100, 64⟩
  let hub : Desc := ⟨0x0007010030000000, 64⟩
  match k with
  | .hst => ⟨0, [], k, scr, hub, 1, 16, 0, 0, 0, 0⟩
  | _ => ⟨0, [], k, hub, scr, 1, 16, 0, 0, 0, 0⟩

theorem witness_copy_complete :
    let s (k : CopyKind) : State := { running 3 { core with copies := [copyOf k], scratch := [(0x101, 5)] } with hub := [(0x30000002, 9)] }
    (s .hld).copyFree 3 (copyOf .hld) = true ∧ (s .hst).copyFree 3 (copyOf .hst) = true ∧
    yields (.copyComplete 3 0) (s .hld) (fun t => (t.eng 3).scratch == [(0x102, 9)] && t.hub == [(0x30000002, 9)]) ∧
    yields (.copyComplete 3 0) (s .hst) (fun t => t.hub == [(0x30000001, 5)] && (t.eng 3).copies.isEmpty) := by decide +kernel

/-- Handle 0 is chain 0, which unit 3 produces: its lane of 64 words is the third from hub byte 0x50000000. -/
def producing (x : Engine) : State := withRegs [(Rf.CHN_CFG_EN 0, 1), (Rf.CHN_CFG_SHARE 0, 64), (Rf.CHN_PROD0_PROD 0, 11),
  (Rf.CHN_BASE_BASE 0, 0x50000000), (Rf.CHN_CFG_CLASS 0, 1)] (running 3 x)
def lane3 : Nat := 0x50000400
def opened (n : Nat) (s : State) : State := s.setChain 0 ((s.chain 0).setOpen 3 ⟨5, n, false⟩)

/-- Words in the hub from a byte of it. -/
def inHub (a : Nat) (ws : List Nat) (s : State) : State := { s with hub := s.hub ++ wordCells a (ws.map (BitVec.ofNat 64)) }

theorem witness_push_commit :
    let s := producing core
    s.chainEn 0 = true ∧ s.isProducer 0 3 = true ∧ s.handle 3 0 = 0 ∧ s.waits 3 (.push 3 0 0 1) = none ∧ s.pushOver 0 3 1 = false ∧
    (opened 63 s).pushOver 0 3 1 = false ∧ (opened 64 s).pushOver 0 3 1 = true ∧
    s.chainLaneBase 0 3 = lane3 ∧ userBase ≤ lane3 ∧ lane3 + 512 ≤ s.capacity ∧ s.chainClass 0 = 1 ∧
    yields (.push 3 0 0 1) (opened 63 s) (fun t => ((t.chain 0).openOf 3).n == 64 && readLE t.hub (lane3 + 8 * 4) 8 == 7) ∧
    yields (.push 3 0 0 1) s (fun t => (t.chain 0).openOf 3 == ⟨0, 1, false⟩ && readLE t.hub lane3 8 == 7) ∧
    yields (.commit 3 0 0) (opened 2 s) (fun t => (t.chain 0).items == [⟨3, 5, false⟩, ⟨3, 6, true⟩] && (t.chain 0).openOf 3 == ⟨7, 0, false⟩) ∧
    yields (.rewind 3 0 0) (opened 2 s) (fun t => (t.chain 0).items.isEmpty && (t.chain 0).openOf 3 == ⟨5, 0, false⟩) := by
  decide +kernel

theorem witness_pushr :
    let s := producing { core with sregs := [(1, 0x3FFFC0)], scratch := [(0x3FFFC0, 1), (0x3FFFFF, 0x80)] }
    s.waits 3 (.pushr 3 0 0 1) = none ∧ s.pushOver 0 3 8 = false ∧
    yields (.pushr 3 0 0 1) s (fun t => ((t.chain 0).openOf 3).n == 8 && readLE t.hub lane3 8 == 1 && hubByte t (lane3 + 63) == 0x80) := by
  decide +kernel

/-- Chain 0 has one item, in place 2 of the lane of unit 64, and unit 3 for its consumer; the band's snapshot holds one word,
then none. -/
theorem witness_pop :
    let s (n : Nat) : State := inHub 0x50000010 [0xAB] ((withRegs [(Rf.CHN_CFG_EN 0, 1), (Rf.CHN_CFG_CONS 0, 3), (Rf.CHN_CFG_SHARE 0, 64),
      (Rf.CHN_PROD1_PROD 0, 1), (Rf.CHN_BASE_BASE 0, 0x50000000), (Rf.CHN_CFG_CLASS 0, 1)]
      (running 3 (core.setView 0 ⟨n, 9, 4⟩))).setChain 0 { items := [⟨64, 2, true⟩] })
    (s 1).chainEn 0 = true ∧ (s 1).waits 3 (.pop 3 0 3 0) = none ∧ (s 1).chainLaneBase 0 64 = 0x50000000 ∧ (s 1).rf (Rf.CHN_CFG_CONS 0) = (s 1).unitOf 3 ∧
    yields (.pop 3 0 3 0) (s 1) (fun t => (t.eng 3).s 3 == 0xAB && (t.chain 0).gone == 1) ∧
    yields (.pop 3 0 3 0) (s 0) (fun t => (t.eng 3).s 3 == 0x1D1E000000000000 && (t.chain 0).gone == 0) ∧
    yields (.cred 3 0 3 0) (s 1) (fun t => (t.eng 3).s 3 == 5) := by decide +kernel

/-! ### Stream instructions -/

/-- vadd of two runs of 16: element 0 is 1 + 2, element 1 saturates at 65,535. A guard that reads 0 stores nothing. -/
theorem test_vadd :
    let x := { core with scratch := [(0x100, 1), (0x102, 0xFF), (0x103, 0xFF), (0x200, 2), (0x202, 2)] }
    yields (.vadd 3 ⟨0, 16, false⟩ 1 1 2) (running 3 x) (fun t =>
      ((t.eng 3).d 1).el (t.eng 3).scratch 0 0 == 3 && ((t.eng 3).d 1).el (t.eng 3).scratch 0 1 == 65535 && (t.eng 3).queue.length == 1) ∧
    yields (.vadd 3 ⟨9, 16, false⟩ 1 1 2) (running 3 x) (fun t => (t.eng 3).scratch == x.scratch && (t.eng 3).queue.length == 1) := by
  decide +kernel

/-- Guard 9 reads 0: none of these has an effect (R40), also where it would be counted or would wait. -/
theorem witness_guard_off :
    let s := producing (withConst { atEnd with acc0 := [] })
    let x := s.eng 3
    x.guard 9 = false ∧ [Instr.sts 3 9 1 4 0, .hld 3 9 1 3 0, .hst 3 9 3 1 0, .push 3 9 0 1, .pushr 3 9 0 1, .commit 3 9 0, .rewind 3 9 0,
      .pop 3 9 3 0, .cnt 3 9 3 0, .cred 3 9 3 0].all (fun c => yields c s (fun t => t.hub == s.hub && t.chains == s.chains && t.regs == s.regs &&
        (t.eng 3).pc == 6 && { t.eng 3 with pc := x.pc, run := x.run } == x)) = true := by decide +kernel

theorem witness_stream : Instr.issuer (.vadd 3 ⟨0, 16, false⟩ 1 1 2) = some 3 ∧ isQueued (.vadd 3 ⟨0, 16, false⟩ 1 1 2) = true ∧
    (Instr.vadd 3 ⟨0, 16, false⟩ 1 1 2).wf = true ∧ core.queue.length < 32 ∧ (core.d 1).fmt ≤ 2 ∧
    (List.range 32).all (fun j => (⟨0x40, 0x80⟩ : Limits).open ((core.d 1).row 0 + j)) = true := by decide +kernel

/-- The smallest sum that no U16 holds, and S16's two ends. -/
theorem test_rounding : rnd 3 1 = 2 ∧ rnd (-3) 1 = -1 ∧ rnd (-2) 2 = 0 ∧ rnd 6 2 = 2 := by decide +kernel

theorem witness_ard :
    let a : Acc := ⟨-5, 25, 1, 0, 3, 9, 0⟩
    let x := { core with acc0 := [(0, a)], acc1 := [(0, { a with mx := 12, sum := 2 })] }
    (running 3 x).waits 3 (.ard 3 0 3 0 4) = none ∧
    yields (.ard 3 0 3 0 0) (running 3 x) (fun t => (t.eng 3).s 3 == -3) ∧
    yields (.ard 3 0 3 0 2) (running 3 x) (fun t => (t.eng 3).s 3 == 2) ∧
    yields (.ard 3 0 3 0 3) (running 3 x) (fun t => (t.eng 3).s 3 == 3 + 12 * 65536) := by decide +kernel

/-! ### The tiles' effects, each on a run of four elements -/

/-- Scratch with these numbers (address, number, bytes). -/
def scratchOf (l : List (Nat × Nat × Nat)) : List Host.Cell := l.foldl (fun m p => writeLE m p.1 p.2.1 p.2.2) []

/-- Four U16 at 0x100 (5, 65535, 7, 1000), what follows at 0x200 (16-bit), 0x300 (bits) and the record at 0x400 (bytes). -/
def quad (b : List Nat) (bits : Nat) (record : List (Nat × Nat × Nat)) : List Host.Cell :=
  scratchOf ([(0x100, 5, 2), (0x102, 65535, 2), (0x104, 7, 2), (0x106, 1000, 2), (0x300, bits, 4)] ++
    b.mapIdx (fun i v => (0x200 + 2 * i, v, 2)) ++ record.map (fun p => (0x400 + p.1, p.2.1, p.2.2)))

/-- A run of `n` elements of a format at an address, its rows and planes 64 bytes apart. -/
def runAt (a fmt n : Nat) : Desc := ⟨BitVec.ofNat 64 (a + fmt * 2 ^ 41 + (n - 1) * 2 ^ 48), 64 + 1 * 2 ^ 32⟩

/-- An instruction in the queue: d1 its output at 0x500, d2 the numbers at 0x100, d3 those at 0x200, d4 those at 0x300; s1 as
given and s2 the record's address. -/
def entry (i : Instr) (fd fa fb fm s1 : Nat) : QEntry :=
  ⟨0, i, true, [(1, runAt 0x500 fd 4), (2, runAt 0x100 fa 4), (3, runAt 0x200 fb 4), (4, runAt 0x300 fm 4)],
    [(1, BitVec.ofNat 64 s1), (2, 0x400)], false, 0⟩

/-- R81 accepts the entry, and its effect is what `p` asks of the engine. -/
def leaves (q : QEntry) (m : List Host.Cell) (p : Engine → Bool) : Bool :=
  q.accepted m && p (tileEffect ⟨0, 0⟩ q { scratch := m }).x

/-- Its output is these four elements. -/
def writes (q : QEntry) (m : List Host.Cell) (l : List Int) : Bool :=
  leaves q m (fun x => (List.range 4).map ((q.d 1).el x.scratch 0) == l)

/-- A whole-run instruction: no cap that binds, no advance. -/
def whole : StreamImm := ⟨0, 16, false⟩

/-- R85, by hand: 5 * 3 / 2 = 7.5 rounds up and 65,535 * 3 / 2 saturates; LO 6 and HI 100; half of 65,535 is 32,768, above
what S16 holds; a mask takes elements 0 and 2 from A. -/
theorem test_vmulk_vclamp_vcvt_vsel :
    writes (entry (.vmulk 3 whole 1 2 1 1) 0 0 0 7 3) (quad [] 0 []) [8, 65535, 11, 1500] = true ∧
    writes (entry (.vclamp 3 whole 1 2 1) 0 0 0 7 (6 + 100 * 2 ^ 32)) (quad [] 0 []) [6, 100, 7, 100] = true ∧
    writes (entry (.vcvt 3 whole 1 2 (-1)) 1 0 0 7 0) (quad [] 0 []) [3, 32767, 4, 500] = true ∧
    writes (entry (.vsel 3 whole 1 2 3 4) 0 0 0 6 0) (quad [9, 8, 7, 6] 5 []) [5, 8, 7, 6] = true := by decide +kernel

/-- R86: one step that adds 10; R91's neighbours: a dead pixel between 5 and 7 becomes 6, one at the right end takes the
pixel left of it; R95: classes at HI 1000 and LO 7; R103: residues 2, 0, 1, 0 without a previous row. -/
theorem test_mapc_dpr_thr_upred :
    writes (entry (.mapc 3 whole 1 2 2 0 0 false) 0 0 0 7 0) (quad [] 0 [(0, 1 + 10 * 2 ^ 16, 8)]) [15, 65535, 17, 1010] = true ∧
    writes (entry (.dpr 3 whole 1 2 4 0) 0 0 0 6 0) (quad [] 0b1010 []) [5, 6, 7, 7] = true ∧
    writes (entry (.thr 3 whole 1 3 1 0) 7 0 1 7 (1000 + 7 * 2 ^ 16)) (quad [5, 65535, 7, 1000] 0 []) [0, 0, 1, 2] = true ∧
    writes (entry (.upred 3 whole 1 3 2 true) 0 0 0 7 0) (quad [2, 0, 1, 0] 0 []) [1, 1, 0, 0] = true := by decide +kernel

/-- R93: identity with an offset of 1 in plane 0 (its three planes are rows 0x100, 0x140 and 0x180); R96: a cross dilates
one bit to its two neighbours. -/
theorem test_cmat_morph :
    writes (entry (.cmat 3 whole 1 2 2) 0 0 0 7 0) (quad [] 0 [(0, 4096, 2), (8, 4096, 2), (16, 4096, 2), (18, 1, 2)])
      [6, 65535, 8, 1001] = true ∧
    writes (entry (.morph 3 whole 1 4 false true) 6 0 0 6 0) (quad [] 0b0010 []) [1, 1, 1, 0] = true := by decide +kernel

/-- R100 and R101, with R73's halves: a run of four is tile 0's. The check value of CRC-32C is that of the nine characters
1 to 9, before ard's final XOR. -/
theorem test_vcmp_stat_hist_crc :
    let a0 (x : Engine) : Acc := look (fun _ => Acc.clear) x.acc0 2
    let a1 (x : Engine) : Acc := look (fun _ => Acc.clear) x.acc1 2
    leaves (entry (.vcmp 3 whole 2 2 3) 0 0 0 7 0) (quad [5, 1, 7, 2] 0 []) (fun x => (a0 x).cnt == 4 && (a0 x).nsat == 2 &&
      a1 x == Acc.clear) = true ∧
    leaves (entry (.stat 3 whole 2 2 1 4 true) 0 0 0 6 1000) (quad [] 0b0010 []) (fun x => a0 x == ⟨1012, 1000074, 3, 1, 5, 1000, 0xFFFFFFFF⟩) = true ∧
    leaves (entry (.hist 3 whole 2 4 6 0 false) 0 0 0 7 0) (quad [] 0 []) (fun x => look (fun _ => 0) x.hist0 0 == 2 &&
      look (fun _ => 0) x.hist0 15 == 2 && x.hist1.isEmpty) = true ∧
    leaves { entry (.crc 3 whole 2 3) 0 0 10 7 0 with descs := [(3, runAt 0x200 10 9)] } (quad [0x3231, 0x3433, 0x3635, 0x3837, 0x39] 0 [])
      (fun x => (a0 x).crc ^^^ 0xFFFFFFFF == 0xE3069283) = true := by decide +kernel

/-- Where tld's table and hput's bins may stand; aclr and hclr on an engine whose accumulator and bins hold something. -/
theorem witness_tables : 0x400 % 64 = 0 ∧ 0x400 + 8192 ≤ 0x400000 ∧
    (∀ j < 16384, (⟨0, 0⟩ : Limits).open (0x400 + j) = true) ∧
    yields (.aclr 3 0 2) (running 3 { core with acc0 := [(2, ⟨-5, 25, 1, 0, 3, 9, 0⟩)] }) (fun t =>
      look (fun _ => Acc.clear) (t.eng 3).acc0 2 == ⟨0, 0, 0, 0, 0xFFFF, 0, 0xFFFFFFFF⟩) = true ∧
    yields (.hclr 3 0) (running 3 { core with hist0 := [(4, 9)] }) (fun t => look (fun _ => 0) (t.eng 3).hist0 4 == 0) = true :=
  ⟨by decide, by decide, fun j h => by
    have : 0x400 + j < scratchSize := by simp only [scratchSize]; omega
    simp [Limits.open, this], by decide +kernel, by decide +kernel⟩

/-- R97: a new label 20, then 3, which B brings beside it, with the merges (3, 20) and (3, 9). R98: two pixels of label 20 in
columns 100 and 101 of row 7, and one whose record is beyond FCNT. R99: label 21's record, five columns to the right. -/
theorem test_lbl_feat_fmrg :
    let rec' (x : Engine) (i : Nat) : Feat := readFeat x.scratch (0x800 + 128 * i)
    let w (x : Engine) (a : Nat) : Nat := readLE x.scratch a 8
    leaves (entry (.lbl 3 whole 1 4 3 2 false) 8 0 8 7 0)
      (quad [0, 0, 0, 0, 3, 0, 9, 0] 0x45 [(0, 20 + 24 * 2 ^ 24, 8), (8, 0x800 + 8 * 2 ^ 32, 8)]) (fun x =>
        (List.range 4).map ((runAt 0x500 8 4).el x.scratch 0) == [20, 3, 0, 3] && w x 0x400 == 21 + 24 * 2 ^ 24 && w x 0x410 == 2 &&
        w x 0x800 == 3 + 20 * 2 ^ 24 && w x 0x808 == 3 + 9 * 2 ^ 24) = true ∧
    leaves (entry (.feat 3 whole 3 2 2 0 false) 0 1 8 7 0)
      (quad [20, 0, 20, 0, 0, 0, 22, 0] 0 [(0, 0x800 + 20 * 2 ^ 24, 8), (8, 2, 8), (16, 100 + 7 * 2 ^ 24, 8)]) (fun x =>
        rec' x 0 == ⟨2, 0, 4, 5, 0, 0, 100, 100, 101, 7, 7, 7, 1, 0, 1, 0, 0⟩ && w x 0x410 == 100 + 8 * 2 ^ 24 && w x 0x418 == 1) = true ∧
    leaves (entry (.fmrg 3 0 0 2 1) 0 0 0 7 0x600)
      (writeFeat ⟨0, 0⟩ (writeFeat ⟨0, 0⟩ (quad [] 0 [(8, 0x500, 8), (16, 1, 8), (0x100, 20 + 21 * 2 ^ 24, 8), (0x200, 0x800 + 20 * 2 ^ 24, 8),
        (0x208, 2, 8)]) 0x800 ⟨2, 0, 4, 5, 0, 0, 100, 100, 101, 7, 7, 7, 1, 0, 1, 0, 0⟩) 0x880 ⟨1, 1, -9, -9, 0, 0, 105, 105, 105, 8, 8, 8, 0, 0, 0, 0, 0⟩)
      (fun x => rec' x 0 == ⟨3, 1, -5, -9, 0, 0, 100, 100, 105, 7, 7, 8, 6, 1, 26, 5, 1⟩ &&
        rec' x 1 == ⟨1, 1, -9, -9, 2, 20, 105, 105, 105, 8, 8, 8, 0, 0, 0, 0, 0⟩ && w x 0x410 == 0) = true := by decide +kernel

/-- R104 to R107: residues 0, 0, 0 and 1 are 4 + 5 bits with K = 0; the one 1-bit of their codes is bit 7 from the start at
bit 3, and they are read back; a context with no room for a K gives 0s and the error bit. -/
theorem test_gsel_gput_gdec :
    let w (x : Engine) (a : Nat) : Nat := readLE x.scratch a 8
    writes (entry (.gsel 3 whole 1 3) 9 0 0 7 0) (quad [0, 0, 0, 1] 0 []) [0x90400, 0, 0, 0] = true ∧
    leaves (entry (.gput 3 whole 1 3 4 2) 10 0 0 9 0) (quad [0, 0, 0, 1] 0x90400 [(0, 0x500 + 8 * 2 ^ 32, 8), (8, 3, 8)]) (fun x =>
      w x 0x500 == 0x400 && w x 0x408 == 12 && w x 0x410 == 0) = true ∧
    leaves (entry (.gput 3 whole 1 3 4 2) 10 0 0 9 0) (quad [0, 0, 0, 1] 0x90400 [(0, 0x500 + 1 * 2 ^ 32, 8), (8, 3, 8)]) (fun x =>
      w x 0x500 == 0 && w x 0x408 == 3 && w x 0x410 == 1) = true ∧
    leaves (entry (.gdec 3 whole 1 3 2) 0 0 10 7 0) (quad [0x400] 0 [(0, 0x200 + 8 * 2 ^ 32, 8), (8, 3, 8)]) (fun x =>
      (List.range 4).map ((runAt 0x500 0 4).el x.scratch 0) == [0, 0, 0, 1] && w x 0x408 == 12) = true ∧
    leaves (entry (.gdec 3 whole 1 3 2) 0 0 10 7 0) (quad [0x400] 0 [(0, 0x200 + 1 * 2 ^ 32, 8), (8, 5, 8)]) (fun x =>
      (List.range 4).map ((runAt 0x500 0 4).el x.scratch 0) == [0, 0, 0, 0] && w x 0x410 == 2) = true := by decide +kernel

/-- Entry on an idle queue: vadd of two runs that R81 accepts, and one whose output begins four
elements into its first operand, which R81 does not and FMT_VIOL counts. -/
theorem witness_idle_entry :
    let x := { core with descs := [(1, runAt 0x100 0 4), (2, runAt 0x200 0 4), (3, runAt 0x108 0 16)], scratch := quad [1, 1, 1, 1] 0 [] }
    let f (t : State) : Nat := t.rf (Rf.ENG_TILE_FMT_VIOL 3)
    (x.queue = [] ∧ x.copies = [] ∧ x.errs = [] ∧ x.guard 0 = true) ∧
    yields (.vadd 3 whole 1 1 2) (running 3 x) (fun t => f t == 0 && (List.range 4).map ((runAt 0x100 0 4).el (t.eng 3).scratch 0) == [6, 65535, 8, 1001]) = true ∧
    yields (.vadd 3 whole 1 3 2) (running 3 { x with descs := [(1, runAt 0x110 0 16), (2, runAt 0x200 0 16), (3, runAt 0x108 0 16)] })
      (fun t => f t == 1 && (t.eng 3).scratch == x.scratch) = true := by decide +kernel

theorem witness_stream_complete : full.stalled = none ∧
    yields (.streamComplete 3) (running 3 full) (fun t => (t.eng 3).queue.length == 31) := by decide +kernel

theorem witness_fence_event_wtick :
    let s := running 3 { core with tok := ⟨7, 0, 0, 0, 0⟩ }
    s.waits 3 (.fence 3 7) = none ∧ s.waits 3 (.wtick 3) = none ∧ s.evq.length < 1024 ∧ core.guard 9 = false ∧
    yields (.event 3 0 0x7FF) s (raised 0xDFFF (3 + 256 * 3) 0 0) ∧ yields (.event 3 9 1) s (fun t => t.evq.isEmpty) ∧
    yields (.wtick 3) s (fun t => t.rf (Rf.ENG_STATUS_STATE 3) == 1 && (t.wu 3).done == 8 && t.rf (Rf.ENG_RUN_LAST 3) == 11) := by
  decide +kernel

/-! ### Programs, loads and bands -/

/-- Engine 3 with an image whose word 5 is 9 in bank 0 and 8 in bank 1, the second admitted with bound 500. -/
def banked : Engine := { core with bank0 := [(5, 9)], bank1 := [(5, 8)], adm1 := ⟨1, 500, 0⟩ }
def stopped : State := withRegs [(Rf.GLB_STATUS_MODE, 1)] (live.setEng 3 banked)

theorem witness_instruction_memory :
    let busy := withRegs [(Rf.ENG_ADM_BUSY 3, 1)] stopped
    stopped.activeBank 3 = false ∧ stopped.rf (Rf.ENG_ADM_BUSY 3) = 0 ∧ busy.rf (Rf.ENG_ADM_BUSY 3) ≠ 0 ∧
    yields (.instructionMemoryWrite .host 3 true 16383 7) stopped (fun t =>
      (t.eng 3).bank1 == [(5, 8), (16383, 7)] && (t.eng 3).adm1.result == 0 && (t.eng 3).bank0 == [(5, 9)]) ∧
    yields (.instructionMemoryWrite .host 3 false 5 7) stopped (fun t => raised 0xD00A (3 + 256 * 3) 0 0 t && (t.eng 3).bank0 == [(5, 9)]) ∧
    yields (.instructionMemoryWrite .mgt 3 true 5 7) busy (raised 0xD003 (3 + 256 * 3) 0 0) := by decide +kernel

theorem witness_instruction_memory_reads :
    let off (hub : Bool) : State := withRegs [(Rf.GLB_STATUS_MODE, 0)] { live.setEng 3 banked with
      hub := [(0x920028, 6)], hubU := { on := hub } }
    yields (.readClear .host 0x20E0028 8) stopped (fun t => t.readData == 8) ∧
    yields (.readClear .host 0x20E0028 8) (off false) (fun t => t.readData == 0) ∧
    0x920030 ≤ (off true).capacity ∧
    yields (.readClear .mgt 0x20E0028 8) (off true) (fun t => t.readData == 6) := by decide +kernel

theorem witness_admission :
    let busy := withRegs [(Rf.ENG_ADM_BUSY 3, 1)] stopped
    let walked (r : Nat) := stopped.setEng 3 { banked with walk := some ⟨r, 16384, 777, 0⟩ }
    stopped.mode ≠ 0 ∧ stopped.mode ≠ 5 ∧ stopped.rf (Rf.ENG_ROLE_RETIRED 3) = 0 ∧ stopped.rf (Rf.ENG_ROLE_SPARE 3) = 0 ∧
    yields (.load 3) (withRegs [(Rf.GLB_STATUS_MODE, 5)] stopped) (raised 0xD002 (3 + 256 * 3) 13 0) ∧
    yields (.load 3) (withRegs [(Rf.GLB_STATUS_MODE, 0)] stopped) (raised 0xD002 (3 + 256 * 3) 13 0) ∧
    yields (.load 3) (withRegs [(Rf.ENG_ROLE_SPARE 3, 1)] stopped) (fun t => t.rf (Rf.ENG_ADM_RESULT 3) == 14) ∧
    yields (.load 3) (withRegs [(Rf.ENG_ROLE_RETIRED 3, 1)] stopped) (fun t => t.rf (Rf.ENG_ADM_RESULT 3) == 14) ∧
    yields (.load 3) busy (raised 0xD003 (3 + 256 * 3) 0 0) ∧
    yields (.abort 3) busy (fun t => raised 0xD002 (3 + 256 * 3) 15 0 t && t.rf (Rf.ENG_ADM_RESULT 3) == 15) ∧
    yields (.admissionWalkComplete 3) (walked 1) (fun t => raised 0xD001 (3 + 256 * 3) 777 0 t && t.rf (Rf.ENG_BOUND_BOUND 3) == 777) ∧
    yields (.admissionWalkComplete 3) (walked 12) (fun t => raised 0xD002 (3 + 256 * 3) 12 16384 t && t.rf (Rf.ENG_ADM_RESULT 3) == 12) := by
  decide +kernel

/-- An empty staging image is no image: the walk finds HEADER (result 2) at word 0. -/
theorem test_load_empty : yields (.load 3) (stopped.setEng 3 {}) (fun t =>
    (t.eng 3).walk.map (fun w => (w.result, w.index)) == some (2, 0)) := by decide +kernel

theorem witness_swap :
    let later := withRegs [(Rf.ENG_SWAP_BAND_BAND 3, 12)] stopped
    let none1 := stopped.setEng 3 { banked with adm1 := ⟨0, 0, 0⟩ }
    (stopped.eng 3).adm1.bound ≤ stopped.budget ∧ stopped.cadOn = false ∧ stopped.rf (Rf.ENG_SWAP_BAND_BAND 3) = 0 ∧
    yields (.swap 3) stopped (fun t => t.activeBank 3 && raised 0xD004 (3 + 256 * 3) 0 0 t && t.rf (Rf.ENG_ACT_BOUND_BOUND 3) == 500) ∧
    yields (.swap 3) later (fun t => (t.eng 3).swapAt == some 12 && t.rf (Rf.ENG_STATUS_SWAP_ARMED 3) == 1 && t.evq.isEmpty) ∧
    stays (.swap 3) none1 ∧
    yields (.constReload 3) stopped (raised 0xD004 (3 + 256 * 3) 0 0) ∧
    yields (.constReload 3) later (fun t => (t.eng 3).loadAt == some 12) ∧
    yields (.disarm 3) (later.setEng 3 { banked with swapAt := some 12 }) (fun t => (t.eng 3).swapAt == none) := by decide +kernel

/-- Unit 3 loads one entry of two groups of no ring; then a token waits for it. -/
def loadingState : State := withRegs [(Rf.CAD_GEAR_STATE, 1), (Rf.ENG_STATUS_STATE 3, 1)] (live.setEng 3 { core with
  bank0 := [(0, 0x0001000000000000), (8, 0x0000000200010001), (9, 0x1000000), (10, 64), (11, 0x0000000100000010)] })

theorem witness_loads :
    let s := loadingState.setEng 3 { loadingState.eng 3 with loads := [⟨0, 0, 0, false⟩] }
    loadingState.loading 3 = true ∧ loadingState.ldBand 3 0 = 0 ∧ loadingState.ldGroups 3 0 0 = 2 ∧
    loadingState.ownRead 3 0 0 0 = true ∧ loadingState.deadEntry 3 0 0 = false ∧
    yields (.loadGroupArrive 3 0 0) s (fun t => (t.eng 3).loads == [⟨0, 0, 0, true⟩]) ∧
    loadingState.covered 3 0 0 0 = false := by decide +kernel

/-- A Fuse unit whose entry 0 reads lines of port 0's corrected ring; line 0 of band 0 is committed. -/
theorem witness_load_fetch :
    let s := withRegs [(Rf.CAD_GEAR_STATE, 1), (Rf.ENG_STATUS_STATE 51, 1), (Rf.SPK_PCFG_ENABLE 0, 1),
      (Rf.SPK_FMT_WIDTH 0, 511), (Rf.SPK_COR_BASE 0, 0x1000000), (Rf.SPK_COR_SLOTS 0, 4), (Rf.CAD_GEOM_HEIGHT, 16)]
      ((live.setEng 51 { loadingState.eng 3 with loads := [] }).setPort 0 { commits := [(0, 1)] })
    s.loading 51 = true ∧ s.ldNext 51 0 0 0 = true ∧ s.ownRead 51 0 0 0 = true ∧ s.deadEntry 51 0 0 = false ∧
    yields (.loadGroupFetch 51 0 0) s (fun t => (t.eng 51).loads == [⟨0, 0, 0, false⟩] && (t.eng 51).begun == 1) := by decide +kernel

theorem witness_band_start :
    let k : TickToken := ⟨0, 5, 6, 1, 0⟩
    let s := loadingState.setWu 3 { toks := [k] }
    s.loading 3 = true ∧ k.band = (s.wu 3).done ∧ s.gatesMet 3 0 = true ∧ s.seamAllows 3 0 = true ∧
    yields (.bandStart 3) s (fun t => t.rf (Rf.ENG_STATUS_STATE 3) == 2 && (t.eng 3).pc == 0 && (t.eng 3).tok == k && (t.eng 3).run == 0) := by
  decide +kernel

theorem witness_engine_fault :
    let s := withRegs [(Rf.ENG_ACT_BOUND_BOUND 3, 9)] (running 3 core)
    let hung := s.setEng 3 { core with stalled := some (.fence 3 1) }
    s.wdogDue 3 = true ∧ (hung.hangAt 3).isSome = true ∧ s.canFault 3 = true ∧ s.rf (Rf.ENG_ROLE_SPARE 3) = 0 ∧ s.unitOf 3 < 112 ∧
    s.spareOf (engSection 3) = some 48 ∧
    yields (.engineWatchdog 3) s (fun t => raised 0xD005 (3 + 256 * 3) 1 0 t && t.rf (Rf.ENG_UNIT_ENGINE 3) == 48 && t.rf (Rf.ENG_STATUS_STATE 3) == 7) ∧
    yields (.engineHang 3) hung (fun t => raised 0xD005 (3 + 256 * 3) 2 0 t && t.rf (Rf.ENG_ROLE_RETIRED 3) == 1) ∧
    yields (.engineFault 3 .code) s (raised 0xD005 (3 + 256 * 3) 0 0) ∧ yields (.engineFault 3 .tile) s (raised 0xD005 (3 + 256 * 3) 3 0) := by
  decide +kernel

theorem witness_unserved_and_spare_ready :
    let s := withRegs [(Rf.ENG_ROLE_SPARE 48, 0), (Rf.ENG_ROLE_SPARE 49, 0), (Rf.ENG_ROLE_SPARE 50, 0)] live
    let r := withRegs [(Rf.CAD_GEAR_STATE, 1), (Rf.ENG_UNIT_ENGINE 3, 48), (Rf.ENG_ROLE_UNIT 48, 3)] ((live.setEng 3 banked).setWu 3 { failed := some 3, done := 4 })
    s.spareOf 0 = none ∧ yields (.engineFault 3 .code) s (raised 0xD008 (3 + 256 * 3) 0 0) ∧
    r.hubActive = true ∧ r.unserved 3 = false ∧ r.rf (Rf.ENG_STATUS_STATE 48) = 0 ∧ (r.wu 3).failed = some 3 := by decide +kernel

/-! ### The cadence unit -/

/-- Band 5 is open since count 900,000, ticks under SRC = 1 every 10 µs from 0. -/
def ticks (src : Nat) (b : BandRec) : State := withRegs [(Rf.CAD_GEAR_STATE, 1), (Rf.CAD_SRC_SRC, src), (Rf.CAD_PERIOD_PERIOD_NS, 200000),
  (Rf.CAD_BAND_BAND, 5)] { live with cad := { started := true, dI := 5, bands := [b] } }
def band5 : BandRec := { band := 5, opened := 900000, openT := 720000, openE := 0 }

theorem witness_tick_time : (ticks 1 band5).ticking = true ∧ (ticks 1 band5).nextTickTime = 1200000 ∧
    yields .tickTime (ticks 1 band5) (fun t => t.rf Rf.CAD_BAND_BAND == 6 && t.rf Rf.CAD_TICK_TIME_NS == 1200000 &&
      (t.bandRec 5).map (·.closed) == some (some 1500000)) ∧
    yields .tickTime { ticks 1 band5 with cad := {} } (fun t => t.rf Rf.CAD_BAND_BAND == 0 && t.cad.started) ∧
    yields .tickTime { ticks 1 band5 with cad := { (ticks 1 band5).cad with ahead := 2 } } (fun t => t.cad.ahead == 1 && t.count == 1000000) ∧
    stays .tickTime (ticks 2 band5) := by decide +kernel

/-- SRC 2: a rise of input 0 makes a tick, one within half a period of the last tick is ignored; SRC 0: the master's trigger
after the last line of a band opens the next with that line. -/
theorem witness_other_ticks :
    let ext (last : Nat) : State := withRegs [(Rf.CAD_TICK_TIME_NS, last)] (ticks 2 band5)
    let own := withRegs [(Rf.POS_TG_CFG_EN 0, 1), (Rf.POS_TG_CFG_SRC 0, 2), (Rf.POS_TG_START_TIME_NS 0, 900000),
      (Rf.POS_TG_PERIOD_PERIOD 0, 1000 * 2 ^ 32)] { ticks 0 band5 with cad := { (ticks 0 band5).cad with lines := 1024 } }
    edgeIs ((ext 0).rf Rf.CAD_SRC_EDGE) true = true ∧ own.master = 0 ∧ own.genOn 0 = true ∧ own.height = 1024 ∧ (own.genSt 0).ahead = 0 ∧
    yields (.dinEdge 0 true ⟨1000001, 9⟩) (ext 0) (fun t => t.rf Rf.CAD_BAND_BAND == 6 && t.count == 1000001 && (t.bandRec 5).map (·.closed) == some (some 1000001)) ∧
    yields (.dinEdge 0 true ⟨1000001, 9⟩) (ext 750000) (fun t => t.rf Rf.CAD_BAND_BAND == 5 && t.rf Rf.CAD_CNT_EXT_IGN == 1) ∧
    yields (.triggerTime 0) own (fun t => t.rf Rf.CAD_BAND_BAND == 6 && t.cad.lines == 1 && t.rf Rf.CAD_TICK_TIME_NS == 900000) := by decide +kernel

/-- R126 to R129: a late band of Fuse lifts gear 1 to 2; a late band of Pack outside STREAM sets 3; the second of two clean
ticks lets it fall. -/
theorem test_ladder :
    let s (gear causes clean : Nat) : State := withRegs [(Rf.CAD_GEAR_CUR, gear), (Rf.CAD_GEAR_UP_CLEAN, 2), (Rf.CAD_GEAR_CLEAN_CNT, clean)]
      { ticks 1 band5 with cad := { (ticks 1 band5).cad with causes := causes } }
    let up (gear causes : Nat) : State := (s gear causes 0).ladder 7
    (s 1 2 0).gearFloor = 0 ∧ (up 1 2).gear = 2 ∧ raised 0xC002 (1 + 256 * 2) 7 2 (up 1 2) = true ∧ (up 0 8).gear = 3 ∧
    ((s 1 0 1).ladder 7).gear = 0 ∧ raised 0xC003 1 7 0 ((s 1 0 1).ladder 7) = true ∧ ((s 1 0 0).ladder 7).gear = 1 := by decide +kernel

/-- GAP_US 100 is 125,000 counts, from the tick at 900,000, or from a first line that came after 1,025,000. -/
theorem witness_gap_timeout :
    let gap (b : BandRec) : State := withRegs [(Rf.CAD_MAXGAP_GAP_US, 100)] (ticks 0 b)
    (gap { band5 with first := some (0, 0), firstAt := 1025000 }).bandRec 5 ≠ none ∧
    yields .gapTimeout (gap { band5 with first := some (0, 0), firstAt := 1025000 }) (fun t => t.count == 1025000) ∧
    yields .gapTimeout (gap { band5 with first := some (0, 0), firstAt := 1025001 }) (fun t => t.count == 1150001) ∧
    stays .gapTimeout (ticks 0 band5) := by decide +kernel

theorem witness_hold :
    let on := ticks 1 band5
    let hold (st : Nat) : State := withRegs [(Rf.CAD_GEAR_STATE, st)] { on with cad := { on.cad with h := 5, bands := [{ band5 with held := true }] } }
    on.cadOn = true ∧ live.cadOn = false ∧ yields .hold on (fun t => t.cad.holdReq) ∧ yields .hold live (raised 0xC00B 0 0 0) ∧
    (hold 2).cadState = 2 ∧ yields .abandon (hold 2) (fun t => raised 0xC007 0 5 0 t && t.cad.k == (hold 2).cad.k && t.bandLost 5) ∧
    yields .abandon (hold 3) (raised 0xC007 0 5 0) ∧ yields .abandon on (raised 0xC00B 0 0 0) ∧
    (List.range 4).all (fun i => (hold 2).secDone i 0) = true ∧
    yields .catchUpStart { hold 2 with cad := { (hold 2).cad with h := 0 } } (fun t => raised 0xC005 0 0 0 t && t.cadState == 3) := by
  decide +kernel

/-- A drain: ticks have stopped and band 5 is closed; and a held band in catch-up with no port to have lost it. -/
theorem witness_held_token :
    let on := withRegs [(Rf.SPK_PCFG_ENABLE 47, 1)] (ticks 1 { band5 with closed := some 950000 })
    let drain := { on with cad := { on.cad with stop := true, nI := 5 } }.setWu 47 { next := 5, done := 5 }
    (drain.secUnits 0).contains 47 = true ∧ drain.heldDue 47 5 = true ∧ drain.bandLost 5 = false ∧ drain.bandHeld 5 = false ∧
    yields (.heldTokenIssue 0) drain (fun t => (t.wu 47).next == 6 && (t.wu 47).toks.map (·.band) == [5]) ∧
    on.bandRec 5 ≠ none ∧ on.wtickCount 47 5 = none ∧
    on.intakeDue 5 = some (950000 + countsOfUs (on.rf Rf.CAD_GEOM_TAIL_US)) ∧
    yields (.bandDue 0) on (fun t => t.cad.dI == 6) ∧ stays (.bandDue 3) on ∧
    yields .tickJitterIssue { on with cad := { on.cad with jit := some 1000001, jitEvs := [(0xC002, 1, 2, 3)] } }
      (fun t => t.cad.jit == none && raised 0xC002 1 2 3 t && t.count == 1000001) := by decide +kernel

/-! ### Position and triggers -/

/-- Generator `g` on source `src`: START 900,000 ns and a period of 1,000 ns, delay 8 ns, PW 4. -/
def withGen (g src : Nat) (x : GenSt) : State := withRegs [(Rf.POS_TG_CFG_EN g, 1), (Rf.POS_TG_CFG_SRC g, src), (Rf.POS_TG_CFG_PW g, 4),
  (Rf.POS_TG_START_TIME_NS g, 900000), (Rf.POS_TG_PERIOD_PERIOD g, 1000 * 2 ^ 32), (Rf.POS_TG_CFG_DELAY_NS g, 8),
  (Rf.POS_ENC_CNT_COUNT 0, 77)] { live with pos := { gen := [(g, x)] } }

theorem witness_generators : (withGen 55 2 { k := 1 }).genOn 55 = true ∧ (withGen 0 3 {}).genOn 0 = true ∧
    (withGen 55 2 { k := 1 }).genAt 55 1 = 901000 ∧
    yields (.triggerTime 55) (withGen 55 2 { k := 1 }) (fun t => t.rf (Rf.POS_TG_LTIME_TIME_NS 55) == 901000 &&
      t.rf (Rf.POS_TG_LAST_COUNT 55) == 77 && (t.genSt 55).k == 2 && (t.genSt 55).pulse == some (t.count + 25)) ∧
    yields (.triggerExt 0) (withGen 0 3 { pend := [1000000, 1000010] }) (fun t => t.rf (Rf.POS_TG_LTIME_TIME_NS 0) == 800008 &&
      (t.genSt 0).pend == [1000010] && t.rf (Rf.POS_TG_STAT_EVENTS 0) == 1) := by decide +kernel

/-- Channel 7 enabled at count 41, with A and B at the given levels. -/
def withEnc (a b : Bool) (n : Nat) : State := withRegs [(Rf.POS_ENC_CFG_EN 7, 1), (Rf.POS_ENC_CNT_COUNT 7, n), (Rf.POS_ENC_CPI_CPI 7, 30),
  (Rf.POS_ENC_CFG_TOL 7, 2), (Rf.POS_ENC_IDX_LAST 7, 8), (Rf.POS_ENC_PRESET_VALUE 7, 500)]
  { live with pos := { enc := [(7, { a := a, b := b, idx := true, up := true })] } }

theorem witness_encoder :
    let s := withEnc false false 41
    let armed := withRegs [(Rf.POS_ENC_STAT_ARMED 7, 1)] s
    let filt := withRegs [(Rf.POS_ENC_CFG_FILT 7, 10)] s
    stays (.encoderEdge 7 true false ⟨1000001, 9⟩) filt ∧ yields (.indexEdge 7 ⟨1000001, 9⟩) filt (fun t => t.regs == filt.regs && t.evq.isEmpty) ∧
    (s.encCh 7).up ≠ (s.encCh 7).down ∧
    yields (.encoderEdge 7 true false ⟨1000001, 9⟩) s (fun t => t.rf (Rf.POS_ENC_CNT_COUNT 7) == 42) ∧
    yields (.encoderEdge 7 false true ⟨1000001, 9⟩) (withEnc false false 0) (fun t => t.rf (Rf.POS_ENC_CNT_COUNT 7) == 2 ^ 64 - 1) ∧
    yields (.encoderEdge 7 true true ⟨1000001, 9⟩) s (fun t => raised 0x3001 7 0 0 t && t.rf (Rf.POS_ENC_CNT_COUNT 7) == 41) ∧
    (countDiff 41 8).natAbs = 33 ∧
    yields (.indexEdge 7 ⟨1000001, 9⟩) s (fun t => t.rf (Rf.POS_ENC_IDX_LAST 7) == 41 && raised 0x3002 7 3 0 t) ∧
    yields (.indexEdge 7 ⟨1000001, 9⟩) (withEnc false false 40) (fun t => t.rf (Rf.POS_ENC_IDX_LAST 7) == 40 && t.evq.isEmpty) ∧
    yields (.indexEdge 7 ⟨1000001, 9⟩) armed (fun t => t.rf (Rf.POS_ENC_CNT_COUNT 7) == 500 && t.rf (Rf.POS_ENC_STAT_ARMED 7) == 0) := by
  decide +kernel

theorem witness_preset :
    let s := withEnc true true 41
    let on := withRegs [(Rf.CAD_GEAR_STATE, 1)] s
    yields (.presetLoad 7) s (fun t => t.rf (Rf.POS_ENC_CNT_COUNT 7) == 500) ∧ yields (.presetLoad 7) on (raised 0x300C 7 0 0) ∧
    yields (.loadIdx 7) s (fun t => t.rf (Rf.POS_ENC_STAT_ARMED 7) == 1) ∧ yields (.loadIdx 7) on (raised 0x300C 7 0 0) ∧
    yields (.idxDisarm 7) (withRegs [(Rf.POS_ENC_STAT_ARMED 7, 1)] on) (fun t => t.rf (Rf.POS_ENC_STAT_ARMED 7) == 0) ∧
    yields (.encoderStopTimeout 7) (withRegs [(Rf.POS_ENC_STAT_STOPPED 7, 0), (Rf.POS_ENC_VEL_VEL 7, 9)] s)
      (fun t => t.rf (Rf.POS_ENC_VEL_VEL 7) == 0 && t.rf (Rf.POS_ENC_STAT_STOPPED 7) == 1) := by decide +kernel

/-- Serial port 3 in PROTO 0 with 12 bits: 4,090 before, 5 now, is a move of 11; 12 is past a JUMP of 11. -/
theorem witness_serial :
    let s := withRegs [(Rf.POS_SSP_CFG_EN 3, 1), (Rf.POS_SSP_CFG_PROTO 3, 0), (Rf.POS_SSP_CFG_BITS 3, 12), (Rf.POS_SSP_JUMP_JUMP 3, 11)]
      { live with pos := { ser := [(3, { prev := some 4090, busy := 1000005 })] } }
    let f (raw : BitVec 48) : SerialFrame := ⟨true, true, raw, true, true, 0, 1000005⟩
    yields (.serialSample 3 (f 5)) (withRegs [(Rf.POS_SSP_FLAG_STALE 3, 0)] s) (fun t => t.rf (Rf.POS_SSP_CNT_COUNT 3) == 11 && (t.serCh 3).prev == some 5) ∧
    yields (.serialSample 3 (f 6)) (withRegs [(Rf.POS_SSP_FLAG_STALE 3, 0)] s) (fun t => t.rf (Rf.POS_SSP_CNT_COUNT 3) == 0 && t.rf (Rf.POS_SSP_STAT_JUMPREJ 3) == 1) ∧
    yields (.serialSample 3 { f 5 with answered := false }) s (fun t => t.rf (Rf.POS_SSP_STAT_NORESP 3) == 1) ∧
    yields (.serialPoll 3 ⟨1000005, 0, 0⟩) s (fun t => decide ((t.serCh 3).busy ≥ 1000005) && t.rf (Rf.POS_SSP_STAT_NORESP 3) == 0) ∧
    yields (.serialPoll 3 ⟨1000004, 64, 9⟩) s (fun t => t.rf (Rf.POS_SSP_STAT_NORESP 3) == 1) := by decide +kernel

theorem witness_din :
    let s (k : Nat) : State := withRegs [(Rf.POS_DIN_CFG_EDGE 7, k), (Rf.POS_ENC_CNT_COUNT 0, 77)] live
    (s 0).rf (Rf.POS_DIN_STAT_LEVEL 7) = 0 ∧ stays (.dinEdge 7 true ⟨1000000, 9⟩) (withRegs [(Rf.POS_DIN_CFG_FILT 7, 10)] (s 0)) ∧
    yields (.dinEdge 7 true ⟨1000000, 9⟩) (s 0) (fun t => t.rf (Rf.POS_DIN_LAT_COUNT 7) == 77 && t.rf (Rf.POS_DIN_TIME_TIME_NS 7) == 800000) ∧
    yields (.dinEdge 7 true ⟨1000000, 9⟩) (s 1) (fun t => t.rf (Rf.POS_DIN_STAT_EDGES 7) == 0 && t.rf (Rf.POS_DIN_STAT_LEVEL 7) == 1) ∧
    yields (.dinEdge 7 true ⟨1000000, 9⟩) (s 2) (fun t => t.rf (Rf.POS_DIN_STAT_EDGES 7) == 1) := by decide +kernel

/-- MINEDGE_NS 100 is 125 counts after the edge before. -/
theorem witness_emulation :
    let s (n : Nat) : State := withRegs [(Rf.POS_EMU_CFG_EN 3, 1), (Rf.POS_EMU_CFG_NUM 3, 1), (Rf.POS_EMU_CFG_DEN 3, 1),
      (Rf.BRK_EMU_MINEDGE_NS 3, 100), (Rf.POS_ENC_CNT_COUNT 0, n)] { live with pos := { emu := [(3, { e := 4, last := some 999999 })] } }
    (s 5).emuTarget 3 = 5 ∧ (s 4).emuTarget 3 = 4 ∧
    yields (.emulationEdge 3) (s 5) (fun t => (t.emuSt 3).e == 5 && t.count == 1000124 && t.rf Rf.BRK_CNT2_EMUHOLD == 1) ∧
    yields (.emulationEdge 3) (s 3) (fun t => (t.emuSt 3).e == 3) ∧ stays (.emulationEdge 3) (s 4) := by decide +kernel

/-- Compare unit 3 at level 100 with an entry at `pos` for output 15, which became head at level `qe`. -/
def compare (late pos : Nat) (qe : Int) : State := withRegs [(Rf.POS_CMP_CFG_EN 3, 1), (Rf.POS_CMP_CFG_FIRE_LATE 3, late), (Rf.POS_ENC_CNT_COUNT 0, 100)]
  { live with pos := { cmp := [(3, { list := [⟨BitVec.ofNat 64 pos, 1, 0x8000 * 2 ^ 32, 0⟩], qe := qe })] } }

theorem witness_compare : (compare 0 100 99).cmpQ 3 = 100 ∧ (CmpEntry.mk 100 1 (0x8000 * 2 ^ 32) 0).outMask.testBit 15 = true ∧
    yields (.compareFire 3) (compare 0 100 99) (fun t => t.rf (Rf.POS_CMP_STAT_FIRED 3) == 1 && (t.mkOut 15).on) ∧
    yields (.compareFire 3) (compare 0 99 99) (fun t => t.rf (Rf.POS_CMP_STAT_LATE 3) == 1 && !(t.mkOut 15).on) ∧
    yields (.compareFire 3) (compare 1 99 99) (fun t => t.rf (Rf.POS_CMP_STAT_LATEF 3) == 1) ∧
    yields (.compareFire 3) (compare 0 101 99) (fun t => t.cmpU 3 == { (compare 0 101 99).cmpU 3 with qb := 100 }) := by decide +kernel

/-- MINW_US 8 is 10,000 counts from the rise at 990,000. -/
theorem witness_marker_release :
    let s (e : Nat) (x : Bool) : State := withRegs [(Rf.BRK_MK_MINW_US 15, 8)]
      { live with pos := { mks := [(15, { on := true, rise := some 990000, pulse := [(0, e)], ext := x })] } }
    yields (.markerRelease 15) (s 999000 false) (fun t => !(t.mkOut 15).on) ∧
    yields (.markerRelease 15) { s 999000 false with count := 999999 } (fun t => (t.mkOut 15).on && t.rf Rf.BRK_CNT_MKEXT == 1) ∧
    yields (.markerRelease 15) { s 999000 true with count := 999999 } (fun t => !(t.mkOut 15).on && t.count == 1000000) := by decide +kernel

theorem witness_compare_list :
    let x : CmpEntry := ⟨1, 2, 3, 4⟩
    let s (n : Nat) : State := withRegs [(Rf.POS_CMP_STG_E 3 0, 9)] { live with pos := { cmp := [(3, { list := List.replicate n x })] } }
    yields (.posCmpAppend 3 6) (s 1) (fun t => (t.cmpU 3).list == [x, ⟨9, 0, 0, 6⟩]) ∧
    yields (.posCmpAppend 3 6) (s 4095) (fun t => (t.cmpU 3).list.length == 4096) ∧
    yields (.posCmpAppend 3 6) (s 4096) (fun t => (t.cmpU 3).list.length == 4096 && raised 0x300C 3 0 0 t) ∧
    yields (.flush 3) (s 2) (fun t => (t.cmpU 3).list.isEmpty) := by decide +kernel

/-- A packet of words `ws` on chain `c`, from endpoint `ep`, for endpoint `cons`, in a lane at hub byte 0x50000000. -/
def packet (c ep cons : Nat) (ws : List Nat) (s : State) : State :=
  inHub 0x50000000 ws ((withRegs [(Rf.CHN_CFG_EN c, 1), (Rf.CHN_CFG_CONS c, cons), (Rf.CHN_CFG_SHARE c, 64), (Rf.CHN_BASE_BASE c, 0x50000000),
    (Rf.CHN_CFG_CLASS c, 1)] s).setChain c { items := itemsOf ep 64 0 ws.length })

/-- Station 0 marks class 5 on output 8's line mask, 30 counts past the row, less a PRE of 10. -/
theorem witness_mark_record :
    let set (s : State) := withRegs [(Rf.POS_MK_CHAINS_MARK_CHAIN, 9), (Rf.POS_MK_CFG_MK_EN 0, 1), (Rf.POS_MK_CFG_LMASK 0, 1),
      (Rf.POS_MK_CLS_CLASSES 0 0, 32), (Rf.POS_MK_OFS_OFFSET 0, 30), (Rf.POS_MK_PAD_PRE 0, 10)] s
    let s := packet 9 70 113 [0x0521, 0, 1000, 1000, 0, 0, 0, 0] (set live)
    s.mode = 3 ∧ (s.popPacket 9 113).isSome = true ∧ s.markClass 0 5 = true ∧ (s.cmpU 0).built.length < 4096 ∧
    yields .markRecord s (fun t => (t.cmpU 0).built.map (fun b => (b.unit, b.ent.e0)) == [(6, 1020)]) ∧
    yields .markRecord (packet 9 70 113 [0x0522, 0, 0, 0, 0, 0, 0, 0] (set live)) (fun t => (t.cmpU 0).built.isEmpty && (t.chain 9).items.isEmpty) := by
  decide +kernel

/-- Two entries of a lost band are appended in order of position. -/
theorem witness_batch_close :
    let m (p : Word) : MkEntry := ⟨0, 0, ⟨p, 1, 0, 0⟩⟩
    let s := withRegs [(Rf.POS_MK_CFG_MK_EN 0, 1), (Rf.CAD_GEAR_STATE, 1)] { live with
      pos := { cmp := [(0, { built := [m 9, m 4] })] }, cad := { bands := [{ band := 0, opened := 0, openT := 0, openE := 0, lost := true }] } }
    s.lateBatch 0 = none ∧ s.allEnds 0 = true ∧
    yields (.batchClose 0) s (fun t => (t.cmpU 0).list.map (·.e0) == [4, 9] && (t.cmpU 0).band == 1 && (t.cmpU 0).built.isEmpty) := by
  decide +kernel

/-! ### Spokelink -/

/-- Port 47 of one lane, lane 191, with nothing altered; the lane as given. -/
def laneState (blk amst : Nat) (x : LaneSt) : State := withRegs [(Rf.SPK_PCFG_ENABLE 47, 1), (Rf.SPK_PCFG_WIDTH 47, 0), (Rf.SPK_PCFG_BASE 47, 191),
  (Rf.SPK_LN_STAT_BLK 191, blk), (Rf.SPK_LN_STAT_AMST 191, amst)] (live.setLane 191 x)

/-- A control block with its CHK. -/
def ctl (w : Nat) : BitVec 64 := ctlMake w

/-- The check value of CRC-8 with polynomial 0x07: 0xF4 for the digits 1 to 9 in ASCII. -/
theorem test_crc8 : [0x31, 0x32, 0x33, 0x34, 0x35, 0x36, 0x37, 0x38, 0x39].foldl crc8Byte 0 = 0xF4 := by decide +kernel

theorem witness_lane_lock :
    let bad (n : Nat) : State := laneState 2 2 { hist := List.replicate n true }
    (laneState 1 0 {}).portOf 191 = some 47 ∧
    yields (.dataBlock 191 5 1000000) (laneState 1 0 { good := 62 }) (fun t => (t.lane 191).good == 63) ∧
    yields (.fill 191 0x1E 1000000) (laneState 1 0 { good := 63 }) (fun t => t.rf (Rf.SPK_LN_STAT_BLK 191) == 2 && raised 0x1001 (47 + 256 * 191) 0 0 t) ∧
    yields (.invalidSyncHeader 191 1000000) (laneState 1 0 { good := 63 }) (fun t => (t.lane 191).good == 0) ∧
    yields (.invalidSyncHeader 191 1000000) (bad 14) (fun t => t.rf (Rf.SPK_LN_STAT_BLK 191) == 2 && t.rf (Rf.SPK_LN_CNT_BADHDR 191) == 1) ∧
    yields (.invalidSyncHeader 191 1000000) (bad 15) (fun t => raised 0x1002 (47 + 256 * 191) 0 0 t && t.rf (Rf.SPK_LN_STAT_BLK 191) == 1) ∧
    ctlGood (ctl (0x2D + 7 * 2 ^ 8 + 0xFFFF * 2 ^ 24)).toNat = true ∧
    yields (.am 191 (ctl (0x2D + 7 * 2 ^ 8 + 0xFFFF * 2 ^ 24)) 1000000) (laneState 2 0 {}) (fun t =>
      t.rf (Rf.SPK_LN_STAT_LANE_ID 191) == 7 && (t.lane 191).seq == 0xFFFF) ∧
    (laneState 2 0 {}).portUp 47 = false ∧
    yields (.fill 191 0x11E 1000000) (laneState 2 0 {}) (fun t => t.rf (Rf.SPK_PCNT2_BADCTL 47) == 1) := by decide +kernel

/-- The same port up, its lane in AM_LOCK at index `k` of its markers. -/
def portState (k : Nat) (x : PortUnit) : State := withRegs [(Rf.SPK_PSTAT_STATE 47, 2), (Rf.SPK_PSTAT_STRIPE 47, 1), (Rf.SPK_FMT_BITS 47, 8)]
  ((laneState 2 2 { idx := k, seq := 0xFFFF, mask := 1 }).setPort 47 { x with expect := 1 })
def line (n : Nat) : OpenLine := ⟨3, 4, 0, 0, List.replicate n 0, false, 1000000⟩

theorem witness_single_lane :
    let s := portState 9 {}
    s.portOf 191 = some 47 ∧ s.portUp 47 = true ∧ s.stripe 47 = 1 ∧ s.locked 191 = true ∧ s.rf (Rf.SPK_LN_STAT_LANE_ID 191) = 0 ∧
    s.rf (Rf.SPK_LN_STAT_LOST 191) = 0 ∧ (s.lane 191).fifo = [] ∧ (s.port 47).rr = 0 ∧ (s.port 47).discard = false ∧ (List.range 4).all (fun i => s.rf (Rf.TST_LANE_EN i) == 0) = true := by decide +kernel

theorem witness_port_stream :
    let s := portState 9 {}
    let ls := ctl (0x33 + 7 * 2 ^ 8 + 2 * 2 ^ 40)
    let le := ctl (0x4B + 7 * 2 ^ 8)
    yields (.fill 191 0x1E 1000000) s (fun t => t.evq.isEmpty && (t.port 47).line == none) ∧
    yields (.ls 191 ls 1000001) s (fun t => (t.port 47).line == some ⟨7, 2, 0, 0, [], false, 1000001⟩) ∧
    yields (.ls 191 ls 1000001) (portState 4094 { line := some (line 1) }) (fun t => t.rf (Rf.SPK_PCNT_NOEND 47) == 1) ∧
    yields (.dataBlock 191 5 1000000) (portState 9 { line := some (line 1) }) (fun t => (t.port 47).line.map (·.words) == some [5, 0]) ∧
    yields (.dataBlock 191 5 1000000) s (fun t => t.rf (Rf.SPK_PCNT_ORPHAN 47) == 1) ∧
    yields (.le 191 le 1000000) s (fun t => t.rf (Rf.SPK_PCNT_ORPHAN 47) == 1) ∧
    yields (.le 191 le 1000000) (portState 9 { line := some (line 2) }) (fun t => t.rf (Rf.SPK_PCNT_BADLINE 47) == 1 && (t.port 47).line == none) ∧
    yields (.st 191 (ctl (0x55 + 3 * 2 ^ 8 + 9 * 2 ^ 16)) 1000000) s (fun t => t.rf (Rf.SPK_PCAM_SSID 47) == 9 && raised 0x1010 47 3 0 t) ∧
    yields (.st 191 (ctl (0x55 + 2 * 2 ^ 8)) 1000000) s (raised 0x1010 47 2 0) := by decide +kernel

/-- A line of 16 pixels whose trigger is row 2 of the open band 5 reaches row 5 * 1,024 + 2 of the ring, place 1,026 of 2,048. -/
theorem witness_line_placed :
    let o : OpenLine := { line 0 with words := [0x1817161514131211, 0x0807060504030201] }
    let le := ctl (0x4B + 15 * 2 ^ 8 + lineCrc o.words.reverse 16 * 2 ^ 24)
    let u : TrigRec := { lseq := 3, band := 5, row := 2, enc := 0, time := 0, held := false }
    let off := portState 9 { line := some o }
    let s := withRegs [(Rf.CAD_GEAR_STATE, 1), (Rf.CAD_BAND_BAND, 5), (Rf.SPK_FMT_WIDTH 47, 15), (Rf.SPK_RAWN_LINES 47, 2048), (Rf.SPK_RAW_BASE 47, 0x40000000),
      (Rf.SPK_RAWTAG_BASE 47, 0x48000000)] { portState 9 { line := some o, trigs := [u] } with cad := { started := true, dI := 5, bands := [band5] } }
    let a := 0x40000000 + 1026 * 64
    (s.trigOf 47 3 = some u ∧ s.bandRec 5 = some band5 ∧ s.intakeDue 5 = none ∧ s.members 47 = 1 ∧ s.width 47 = 16 ∧ s.sampleBits 47 = 8) ∧
    s.rawAt 47 5122 0 = a ∧ s.rawTagAt 47 5122 = 0x48000000 + 32 * 1026 ∧
    yields (.le 191 le 1000000) s (fun t => hubByte t a == 1 && hubByte t (a + 15) == 0x18 && t.rf (Rf.SPK_RAWPOS_NEXT 47) == 5123 &&
      (t.port 47).trigs.map (·.done) == [true]) ∧
    yields (.le 191 le 1000000) off (fun t => t.hub == off.hub && t.rf (Rf.SPK_PCNT_BADLINE 47) == 0 && (t.port 47).line == none) := by decide +kernel

/-- Port 47 on lanes 190 and 191: the turn is lane 190's, so that a block of lane 191 waits. -/
theorem witness_two_lanes :
    let s := withRegs ([190, 191].flatMap (fun l => [(Rf.SPK_LN_STAT_BLK l, 2), (Rf.SPK_LN_STAT_AMST l, 2), (Rf.SPK_LN_STAT_LANE_ID l, l - 190)]) ++
      [(Rf.SPK_PCFG_WIDTH 47, 1), (Rf.SPK_PCFG_BASE 47, 190), (Rf.SPK_PSTAT_STRIPE 47, 3)]) (portState 9 { line := some (line 1) })
    s.lanesOf 47 = [190, 191] ∧ s.stripe 47 = 3 ∧ s.nextLane 47 = some (some 190) ∧ s.laneFor 47 1 = some 191 ∧
    yields (.dataBlock 191 5 1000000) s (fun t => (t.lane 191).fifo == [.data 5] && (t.port 47).line == some (line 1)) ∧
    yields (.dataBlock 190 5 1000000) s (fun t => (t.port 47).line.map (·.words) == some [5, 0] && (t.port 47).rr == 1) := by decide +kernel

theorem witness_sack_and_marker :
    let m : SetMsg := { band := some 6, addr := 0, len := 64, ssid := 3, msgid := 5 }
    let s := portState 9 { msg := some m }
    let sack (code : Nat) := ctl (0x66 + 5 * 2 ^ 8 + code * 2 ^ 24)
    yields (.sack 191 (sack 0) 1000000) s (fun t => (t.port 47).msg == none && t.rf (Rf.SPK_SETSTAT_STATE 47) == 3) ∧
    yields (.sack 191 (sack 1) 1000000) s (raised 0x100C 47 1 0) ∧ yields (.sack 191 (sack 3) 1000000) s (raised 0x100C 47 3 0) ∧
    yields (.sack 191 (sack 0) 1000000) (portState 9 {}) (fun t => t.rf (Rf.SPK_PCNT2_BADCTL 47) == 1) ∧
    yields (.am 191 (ctl (0x2D + 1 * 2 ^ 16)) 1000000) (portState 4095 {}) (fun t => (t.lane 191).idx == 0 && (t.port 47).amSeq == 0) := by
  decide +kernel

theorem witness_port_commands :
    let off := withRegs [(Rf.SPK_PCFG_ENABLE 47, 0)] (laneState 0 0 {})
    let wide := withRegs [(Rf.SPK_PCFG_WIDTH 47, 1)] off
    let s := portState 9 {}
    off.groupOk 47 = true ∧ wide.groupOk 47 = false ∧ yields (.portEnable 47) off (fun t => t.portState 47 == 1 && t.rf (Rf.SPK_LN_STAT_BLK 191) == 1) ∧
    yields (.portEnable 47) wide (raised 0x100E 47 0 0) ∧ yields (.relock 47) s (fun t => t.portState 47 == 1 && t.stripe 47 == 0) ∧
    yields (.portDisable 47) s (fun t => !t.portOn 47 && t.portState 47 == 0) ∧
    s.lanesOf 47 = [191] ∧ yields (.restore 47) (portState 9 { amSeq := 65535 }) (fun t => (t.port 47).switch == some (1, 1, 1)) ∧
    yields (.restore 47) off (raised 0x100E 47 0 0) ∧
    yields (.fillColumnInsert 47) s (fun t => t.rf (Rf.SPK_PRM_INS 47) == 1) ∧
    yields (.lineTimeout 47) (portState 9 { line := some (line 1) }) (fun t => t.rf (Rf.SPK_PCNT_LTMO 47) == 1) ∧
    yields (.silentTimeout 47) s (raised 0x1008 47 0 0) ∧
    yields (.huntTimeout 191) (laneState 1 0 { huntAt := 5 }) (fun t => raised 0x1003 (47 + 256 * 191) 0 0 t && t.count == 1250005) := by
  decide +kernel

theorem witness_settings :
    let m : SetMsg := { band := some 6, addr := 0, len := 64, ssid := 3 }
    let s (split st : Nat) : State := withRegs [(Rf.CAD_GEAR_STATE, 1), (Rf.CAD_BAND_BAND, 5), (Rf.SPK_FMT_SPLIT 47, split), (Rf.SPK_PSTAT_STATE 47, st),
      (Rf.SPK_SETMSG_ADDR 47, 0x30000000), (Rf.SPK_SETMSG_LEN 47, 64), (Rf.SPK_PTRG_LSEQ 47, 100), (Rf.SPK_FMT_SET_LAT 47, 3)] (portState 9 {})
    yields (.setband 47 4) (s 1 2) (raised 0x2008 47 4 1) ∧ yields (.setband 47 5) (s 0 2) (raised 0x2008 47 5 2) ∧
    yields (.setband 47 5) (s 1 5) (raised 0x2008 47 5 4) ∧
    yields (.setband 47 5) (s 1 4) (fun t => (t.port 47).armed.map (·.1) == [5] && t.rf (Rf.SPK_SETSTAT_STATE 47) == 1) ∧
    yields (.sackTimeout 47) ((s 1 2).setPort 47 { msg := some { m with left := some 7 } }) (raised 0x100B 47 0 0) ∧
    (((s 1 2).setPort 47 { msg := some m }).port 47).msgs.find? (fun m => m.left.isNone) = some m ∧ m.band = some 6 ∧
    (portState 9 {}).sentAt 47 0 4096 = none ∧ (portState 9 {}).sentAt 47 0 4097 = none ∧ (portState 9 {}).trgIn 47 0 4096 = false := by
  decide +kernel

/-! ### Line groups, strips, marks and the seam -/

/-- Unit 0 with a PORT entry of 16 groups of one line; line 0 of band 0 has come; height 16, corrected ring of 4 slots. -/
def portLoad (x : PortUnit) (y : Engine) : State := withRegs [(Rf.CAD_GEAR_STATE, 1), (Rf.ENG_STATUS_STATE 0, 1), (Rf.SPK_PCFG_ENABLE 0, 1),
  (Rf.SPK_FMT_WIDTH 0, 511), (Rf.SPK_COR_BASE 0, 0x30000000), (Rf.SPK_COR_SLOTS 0, 4), (Rf.CAD_GEOM_HEIGHT, 16), (Rf.SPK_RAWN_LINES 0, 64),
  (Rf.SPK_RAWPOS_NEXT 0, 1)] (((live.setEng 0 { y with bank0 := [(0, 0x0001000000000000), (8, 0x0000001000010021), (9, 0), (10, 64),
    (11, 0x0000000100000010)] })).setPort 0 x)

theorem witness_port_group :
    let s := portLoad {} {}
    let late := portLoad { missed := [(0, 0)] } {}
    s.portEntry 0 0 = some 0 ∧ s.groupReady 0 0 0 false = true ∧ late.groupReady 0 0 0 true = true ∧
    yields (.portGroupWrite 0 0) s (fun t => (t.eng 0).loads == [⟨0, 0, 0, true⟩] && (t.port 0).grpNext == 1) ∧
    yields (.lateGroupFetch 0 0) late (fun t => raised 0x200B 0 0 0 t && t.rf (Rf.SPK_LCNT2_LATEFETCH 0) == 1) := by decide +kernel

theorem witness_group_commit :
    let s := portLoad {} { loads := [⟨0, 0, 0, true⟩], hsts := [(0x30000000, 1024)] }
    s.planes 0 = 1 ∧ s.corAt 0 0 0 0 = 0x30000000 ∧ covers (s.eng 0).hsts 0x30000000 1024 = true ∧
    covers [(0x30000000, 1016)] 0x30000000 1024 = false ∧
    yields (.intakeGroupCommit 0 0) s (fun t => t.committedLines 0 0 == 1) := by decide +kernel

/-- Strip 1, of stitched width 64, whose Fuse engine has stored all of the stitched ring. -/
def fuseStrip : State := withRegs [(Rf.FUS_GEOM_WIDTH, 63), (Rf.FUS_RING_BASE, 0x40000000), (Rf.FUS_RING_SLOTS, 4), (Rf.CAD_GEOM_HEIGHT, 16)]
  ((live.setEng 51 { hsts := [(0x40000000, 0x1000000)] }).setPort 0 { commits := [(0, 0xFFFF)] })

theorem witness_strip_commit :
    let e := fuseStrip.rf (Rf.ENG_UNIT_ENGINE 49)
    let s := fuseStrip.setEng e (fuseStrip.eng 51)
    let dead := withRegs [(Rf.ENG_UNIT_UNSERVED 49, 1), (Rf.ENG_UNIT_UNSERVED 0, 1)] (fuseStrip.setWu 49 { toks := [⟨0, 0, 0, 1, 0⟩] })
    s.stripReady 1 3 = true ∧ s.stripGroup 1 3 = [3] ∧ yields (.stripGroupCommit 1 3) s (fun t => t.stripLines 1 0 == 8) ∧
    dead.unserved 49 = true ∧ yields (.unservedStripWrite 1) dead (fun t => (t.wu 49).done == 1 && (t.wu 49).toks.isEmpty &&
      t.stripLines 1 0 == 0xFFFF && raised 0x4006 0 1 0 t) := by decide +kernel

/-- Sieve unit 66 and Pack unit 97 of strip 1 take entry 0, of one line a group, from the stitched ring; unit 67 is unserved. -/
def tandemStrip (tan : List (Nat × Nat)) : State :=
  let s := fuseStrip
  let img : List (Nat × Word) := [(0, 0x0001000000000000), (8, 0x0000000200010001), (9, 0x40000000), (10, 64), (11, 0x0000080100010000)]
  let sv := s.rf (Rf.ENG_UNIT_ENGINE 66)
  let pk := s.rf (Rf.ENG_UNIT_ENGINE 97)
  withRegs [(Rf.ENG_UNIT_UNSERVED 67, 1), (Rf.CAD_GEAR_STATE, 1), (Rf.ENG_STATUS_STATE sv, 1), (Rf.ENG_STATUS_STATE pk, 1)]
    (((s.setEng sv { bank0 := img }).setEng pk { bank0 := img }).setStrip 1 { commits := [(0, 1)], tan := tan })

theorem witness_tandem :
    let s := tandemStrip []
    let r := tandemStrip [(0, 1)]
    let sv := s.rf (Rf.ENG_UNIT_ENGINE 66)
    let pk := s.rf (Rf.ENG_UNIT_ENGINE 97)
    s.tandemBand 1 0 = some 0 ∧ s.tandemSieves 1 0 = [66] ∧
    yields (.tandemRead 1 0) s (fun t => t.tandem 1 0 == 1 && (t.eng sv).loads == [⟨0, 0, 0, true⟩] && (t.eng pk).loads == [⟨0, 0, 0, true⟩]) ∧
    (r.wu 97).done = 0 ∧ 0 < r.tandem 1 0 ∧ r.serving 97 = true ∧ r.hasCredit 97 0 0 = true ∧
    yields (.packSplitRead 1 0) r (fun t => (t.eng pk).loads == [⟨0, 0, 0, true⟩] && (t.eng sv).loads.isEmpty) := by decide +kernel

theorem witness_phase_mark :
    let set (s : State) := withRegs [(Rf.SIV_PREF_EN, 1), (Rf.SIV_PREF_DIN, 2), (Rf.POS_DIN_CFG_REP_CHAIN 2, 8)] s
    yields .phaseMark (packet 8 113 114 [1234, 2 ^ 36] (set live)) (fun t => t.phase.marks == [⟨1234, false, true⟩] && raised 0x5007 0 2 1234 t) ∧
    yields .phaseMark (packet 8 113 114 [1234, 2 ^ 35] (set live)) (fun t => t.phase.marks == [⟨1234, true, false⟩] && t.evq.isEmpty) := by
  decide +kernel

/-- An engine stalled on a push goes on; a packet of the phase unit that waited is sent. -/
theorem witness_chain_space :
    let s := withRegs [(Rf.ENG_STATUS_STATE 3, 4)] (producing { core with stalled := some (.push 3 0 0 1) })
    let t := withRegs [(Rf.CHN_CFG_EN 0, 1), (Rf.CHN_CFG_SHARE 0, 64), (Rf.CHN_PROD1_PROD 0, 2 ^ 49),
      (Rf.CHN_BASE_BASE 0, 0x50000000)] { live with outbox := [(0, 113, [8, 9])] }
    s.waits 3 (.push 3 0 0 1) = none ∧ s.pushOver 0 3 1 = false ∧
    yields (.chainSpaceFreed 0 3) s (fun t => (t.eng 3).stalled == none && readLE t.hub lane3 8 == 7) ∧
    t.pushWaits 0 113 2 = false ∧ t.isProducer 0 113 = true ∧ t.pushOver 0 113 2 = false ∧
    yields (.chainSpaceFreed 0 113) t (fun t => t.outbox.isEmpty && (t.chain 0).items == [⟨113, 0, false⟩, ⟨113, 1, true⟩] &&
      readLE t.hub 0x50000008 8 == 9) := by decide +kernel

theorem witness_seam_packets :
    let set (s : State) := withRegs [(Rf.SIV_CHAINS_SEAM, 6), (Rf.SIV_LMT_BASE, 0x30000000)] s
    let pk (ws : List Nat) : State := packet 6 70 115 ws (set live)
    let ends : State := packet 6 70 115 [0x104, 0] (set { live with seam := { looks := [(6, 0)] } })
    (pk [1]).seamKind 6 [1] = .look ∧ yields .seamLook (pk [1 + 2 * 2 ^ 32]) (fun t => t.seam.looks == [(6, 2)]) ∧
    yields .seamAlias (pk [3 + 5 * 2 ^ 8 + 9 * 2 ^ 32]) (fun t => readLE t.hub (0x30000000 + 5 * 128 + 88) 8 == 9 + 3 * 2 ^ 24 && t.seam.labels == [(5, 0)]) ∧
    yields .seamComponent (pk [1, 2, 3, 4, 5, 6, 7, 8, 9, 10, 11, 12, 13, 14, 15, 16]) (fun t =>
      readLE t.hub (0x30000000 + 12 * 128 + 88) 8 == 12 + 2 ^ 24 && readLE t.hub (0x30000000 + 12 * 128) 8 == 1) ∧
    ends.seamKind 6 [0x104, 0] = .ended ∧ yields .seamEnd ends (fun t => raised 0x5003 0 6 0 t && t.seam.ends == [(6, 0)]) ∧
    yields .seamEnd (pk [1, 1]) (raised 0x5006 0 6 0) ∧ stays .seamEnd (pk [1]) := by decide +kernel

/-- Every tile has delivered END of band 0 and LOOK of band 1. -/
theorem witness_seam_close :
    let s := withRegs [(Rf.CAD_GEAR_STATE, 1)] { live with seam := {
      ends := (List.range 32).map (·, 0), looks := (List.range 32).map (·, 1) } }
    s.closeReady = true ∧ s.hubOpen = true ∧ live.closeReady = false ∧ stays .seamClose live := by decide +kernel

/-! ### Pack, the host rings and the stream ports -/

/-- The host link is up, ring 63 of 64 units takes every type and may write its own pages; the windows permit 0x100000 on. -/
def ringState (full : Nat) (o : OutUnit) : State := withRegs [(Rf.GLB_STATUS_LINK, 1), (Rf.PAK_RING_CFG_EN 63, 1), (Rf.PAK_RING_CFG_SIZE_LOG 63, 12),
  (Rf.PAK_RING_CFG_TYPES 63, 0xFF), (Rf.PAK_RING_CFG_STRIPS 63, 0xFFFF), (Rf.PAK_RING_BASE_ADDR 63, 0x100000), (Rf.PAK_RING_WB_ADDR 63, 0x102000),
  (Rf.PAK_RING_CFG_VECTOR 63, 5), (Rf.PAK_RING_IRQ_THRESH 63, 9), (Rf.PAK_RING_PROD_PROD 63, full), (Rf.BRK_WIN0_BASE 0, 0x100),
  (Rf.BRK_WIN1_PAGES 0, 16), (Rf.BRK_WIN1_WR 0, 1), (Rf.PAK_RECQ_SIZE, 1), (Rf.PAK_RECQ_BASE, 0x70000000),
  (Rf.PAK_CSTG_SIZE, 1), (Rf.PAK_CSTG_BASE, 0x78000000)] { live with out := o }

def rec8 (w0 : Word) : List Word := [w0, 1, 2, 3, 4, 5, 6, 7]
def item (typ : Nat) : OutItem := { typ := typ, words := rec8 (BitVec.ofNat 64 typ) }
def record (typ at' : Nat) : Staged := { typ := typ, at' := at', n := 8 }
def inHand (typ : Nat) : OutUnit := { hands := [(1, ⟨item typ, [63], []⟩)] }

theorem witness_records :
    let set (s : State) := withRegs [(Rf.SIV_CHAINS_REC_BASE, 20), (Rf.PAK_RECQ_SIZE, 1), (Rf.PAK_RECQ_BASE, 0x70000000)] s
    let pk (ws : List Nat) (s : State) : State := packet 35 64 111 ws (set s)
    let full : State := { live with out := { recq := List.replicate 16384 (record 0x22 0) } }
    yields (.recordFrame 15) (pk [0x22, 6, 0, 0, 0, 0, 0, 0] { live with out := { recTo := 16 } }) (fun t =>
      t.out.recq == [record 0x22 16] && t.out.recTo == 24 && readLE t.hub (0x70000000 + 17 * 8) 8 == 6) ∧
    yields (.recordFrame 15) (pk [0x22, 0, 0, 0, 0, 0, 0] live) (fun t => raised 0x6009 111 0 0 t && t.rf Rf.PAK_CNT_BADPKT == 1) ∧
    yields (.recordFrame 15) (pk [0x20, 0, 0, 0, 0, 0, 0, 0] live) (raised 0x6009 111 0 0) ∧
    yields (.recordFrame 15) (pk [0x23, 0, 0, 0, 0, 0, 0, 0] full) (fun t => raised 0x600D 111 0 0 t && t.out.recq.length == 16384) := by
  decide +kernel

/-- A defect record of class 5, whose crop PAK_CROP asks for on chain 79 of Pack unit 15: its w7 is filled and eight words
are on the chain. -/
theorem witness_record_asks :
    let s := packet 35 64 111 [0x21 + 5 * 2 ^ 8 + 9 * 2 ^ 32, 0, 0, 0, 0, 0, 0, 7] (withRegs [(Rf.SIV_CHAINS_REC_BASE, 20), (Rf.PAK_CHAINS_CREQ_BASE, 64),
      (Rf.PAK_RECQ_SIZE, 1), (Rf.PAK_RECQ_BASE, 0x70000000), (Rf.PAK_CROP_EN, 1), (Rf.PAK_CROPCLS_CLASSES 0, 0x20), (Rf.CHN_CFG_EN 79, 1),
      (Rf.CHN_CFG_SHARE 79, 64), (Rf.CHN_CFG_CONS 79, 111), (Rf.CHN_PROD1_PROD 79, 2 ^ 47), (Rf.CHN_BASE_BASE 79, 0x60000000)] live)
    (s.eng (s.rf (Rf.ENG_UNIT_ENGINE 111))).tok.gear = 0 ∧ s.chainEn 79 = true ∧ s.isProducer 79 111 = true ∧ s.laneFree 79 111 = 64 ∧
    yields (.recordFrame 15) s (fun t => t.out.recq.length == 1 && (t.chain 79).items.length == 8 && readLE t.hub (0x70000000 + 56) 8 == 9) := by
  decide +kernel

theorem witness_sources :
    let s (o : OutUnit) : State := ringState 0 o
    ((s {}).targets (item 0x22)) = ([63], []) ∧ (live.targets (item 0x22)) = ([], []) ∧ (s {}).recArea.base = 0x70000000 ∧
    yields (.outputItem .records) (inHub 0x70000000 [0x22, 1, 2, 3, 4, 5, 6, 7] (s { recq := [record 0x22 0, record 0x23 8] })) (fun t =>
      t.out.recq == [record 0x23 8] && (t.hand 1).map (·.item) == some (item 0x22)) ∧
    yields (.outputItem .crops) (s { crops := [record 0x30 0] }) (fun t => t.out.crops.isEmpty && (t.hand 2).isSome) ∧
    yields (.outputItem .records) { live with out := { recq := [record 0x22 0] } } (fun t => t.rf Rf.PAK_CNT_UNROUTED == 1) ∧
    yields .eventRecordRoute { s {} with evq := [⟨0x1001, 0, 0, 0, 0, 0, 0⟩] } (fun t => t.evq.isEmpty && (t.hand 3).isSome) ∧
    yields (.outputItem (.unit 15)) (packet 15 111 117 [0x40, 0] live) (raised 0x6009 111 0 0) := by decide +kernel

/-- A crop descriptor of an enabled port within the limit; of a port that is off; and beyond MAXBAND. -/
theorem witness_crops :
    let set (s : State) := withRegs [(Rf.PAK_CHAINS_CROP, 40)] s
    let d (port : Nat) : List Nat := [7 + port * 2 ^ 32, 0, 0, 0]
    let on (n : Nat) : State := packet 40 96 116 (d 47) (set (withRegs [(Rf.SPK_PCFG_ENABLE 47, 1)] { live with out := { cropN := n } }))
    (cropDesc [7 + 47 * 2 ^ 32, 0, 0, 0]).port = 47 ∧ (cropDesc [7 + 47 * 2 ^ 32, 0, 0, 0]).clean = true ∧
    (cropDesc [7, 0, 4079, 0]).w = 4080 ∧ (on 0).portOn 47 = true ∧
    yields .cropDescriptor (packet 40 96 116 (d 3) (set live)) (fun t => t.out.crops.map (·.typ) == [0x30]) ∧
    yields .cropDescriptor (on 65536) (fun t => t.rf Rf.PAK_CNT_CROPDROP == 1 && t.out.cropN == 65536) := by decide +kernel

theorem witness_ring_write :
    let keep := withRegs [(Rf.PAK_RING_CFG_FULLPOL 63, 1)]
    (ringState 63 (inHand 0x22)).ringFits 63 (item 0x22) = true ∧ (ringState 64 (inHand 0x22)).ringFits 63 (item 0x22) = false ∧
    (ringState 0 (inHand 0x22)).ringNext 63 = some (1, ⟨item 0x22, [63], []⟩) ∧ (ringState 0 {}).hostHeld = false ∧
    droppable 0x50 = true ∧ droppable 0x22 = false ∧
    (ringState 63 (inHand 0x22)).winOk true (0x100000 + 63 * 64) 64 = true ∧ (ringState 0 {}).winOk true 0x102000 8 = true ∧
    yields (.ringWrite 63) (ringState 63 (inHand 0x22)) (fun t => t.rf (Rf.PAK_RING_PROD_PROD 63) == 64 &&
      hostByte t (0x100000 + 63 * 64) == 0x22 && hostByte t (0x100000 + 63 * 64 + 8) == 1 && readLE t.host 0x102000 8 == 64) ∧
    yields (.ringWrite 63) (ringState 64 (inHand 0x22)) (fun t => (t.ring 63).fullAt.isSome && t.rf (Rf.PAK_RING_PROD_PROD 63) == 64) ∧
    yields (.ringWrite 63) (keep (ringState 64 (inHand 0x50))) (fun t => t.rf (Rf.PAK_RING_CNT_DROPPED 63) == 1) ∧
    yields (.ringWrite 63) (keep (ringState 64 (inHand 0x22))) (fun t => (t.ring 63).fullAt.isSome) := by decide +kernel

theorem witness_ring_indexes :
    let s := ringState 40 { rings := [(63, { unsig := 3, first := some 1000000 })] }
    yields (.ringConsumerWrite 63 40) s (fun t => t.rf (Rf.PAK_RING_CONS_CONS 63) == 40) ∧
    yields (.ringConsumerWrite 63 41) s (raised 0x6002 63 1 0) ∧ s.rf (Rf.MSIX_HI_MASK 5) = 0 ∧
    yields (.ringIrqTimer 63) (withRegs [(Rf.MSIX_HI_MASK 5, 1)] s) (fun t => (t.ring 63).unsig == 0 && (t.rf (Rf.MSIX_PBA_PEND 0)).testBit 5) := by
  decide +kernel

/-! Stream ports: stream 7 on port 1, which is up, to destination 0, at 10.0.0.1. -/
def strState (st : StreamSt) (q : StrPort) : State := withRegs [(Rf.PAK_SP_STAT_UP 1, 1), (Rf.PAK_STR_CFG_EN 7, 1), (Rf.PAK_STR_CFG_DST 7, 0),
  (Rf.PAK_STR_CFG_DGMAX 7, 1500), (Rf.PAK_STR_RET_SIZE 7, 1), (Rf.PAK_STR_RET_BASE 7, 0x60000000),
  (Rf.PAK_STR_SEQ_NEXT 7, 5), (Rf.BRK_DST2_EN 0, 1), (Rf.BRK_DST1_ADDR_LO 0, 0x0A000001),
  (Rf.BRK_DST2_PORT 0, 9000), (Rf.BRK_RATE_RATE 1, 100), (Rf.BRK_RATE_BURST_KIB 1, 64), (Rf.PAK_STR_TMO_FLUSH_US 7, 10), (Rf.PAK_SP_IP4_ADDR 1, 0x0A000002)]
  { live with out := { streams := [(7, st)], ports := [(1, q)] } }
def dg (n : Nat) : Dgram := { seq := n, at' := 0, n := 8 }
def ack (ws : List Word) : AckFrame := ⟨false, 0x0A000001, 9000, 8 * ws.length, ws⟩

theorem witness_streams_out :
    let s := strState { build := [item 0x22], first := 1000000 } {}
    (s.str 7).retBytes = 0 ∧ (s.str 7).ret = [] ∧
    yields (.datagramFlush 7) s (fun t => (t.str 7).build.isEmpty && (t.str 7).ret.map (·.seq) == [5] && t.rf (Rf.PAK_STR_SEQ_NEXT 7) == 6 &&
      t.count == 1012500) ∧
    yields (.streamSlot 7) (withRegs [(Rf.PAK_STR_CFG_LAUNCH 7, 1), (Rf.TIM_LSLOTP_QUOTA 7, 1)] (strState { ret := [dg 3, dg 4], slotQ := [3, 4] } {}))
      (fun t => (t.str 7).slotQ == [4]) ∧
    yields (.ackTimeoutProbe 7) (strState { ret := [dg 3] } {}) (fun t => t.rf (Rf.PAK_STR_CNT_PROBE 7) == 1) := by decide +kernel

/-- An acknowledgement of CUM 4, and one that also asks for SEQ 4 alone. -/
theorem witness_ack :
    let s := strState { ret := [dg 3, dg 4] } {}
    let plain := ack [0x0000000700015A92, 4, 0, 0]
    let miss := ack [0x0001000700015A92, 4, 0, 0, 4, 4]
    s.ackOk 7 plain = true ∧ s.ackOk 7 miss = true ∧ s.ackOk 7 (ack [0x0000000700015A93, 4, 0, 0]) = false ∧
    yields (.ackReceived 7 plain) s (fun t => t.rf (Rf.PAK_STR_CUM_CUM 7) == 4 && (t.str 7).ret == [dg 4]) ∧
    yields (.ackReceived 7 (ack [0x0000000700015A92, 6, 0, 0])) s (fun t => t.rf (Rf.PAK_STR_CNT_BADACK 7) == 1) ∧
    yields (.ackReceived 7 miss) (withRegs [(Rf.PAK_STR_CUM_CUM 7, 4)] (strState { ret := [dg 4] } {}))
      (fun t => (t.sp 1).wire == some ⟨7, 4, .retx⟩) := by decide +kernel

theorem witness_stream_port :
    let s (q : StrPort) : State := strState { ret := [dg 4] } q
    let x : Tx := ⟨7, 4, .new⟩
    yields (.neighbourRequest 1 false 0x0A000002 0x123456) (s {}) (fun t => (t.sp 1).answer.map (·.2.1) == some 0x123456) ∧
    yields (.neighbourRequest 1 false 0x0A000002 0x123456) (withRegs [(Rf.TST_BP_SP1, 1), (Rf.TST_BP_ON_US, 9)] { s {} with tests := { bpAt := 1000000 } })
      (fun t => (t.sp 1).answer == none && (t.sp 1).asked == some (false, 0x123456)) ∧
    yields (.neighbourRequest 1 false 0x0A000003 0x123456) (s {}) (fun t => t.rf (Rf.PAK_SP_STAT_RXDROP 1) == 1) ∧
    yields (.frameDrop 1) (s {}) (fun t => t.rf (Rf.PAK_SP_STAT_RXDROP 1) == 1) ∧
    yields (.streamLinkChange 1 false) (s { wire := some x }) (fun t => (t.sp 1).wire == none && raised 0x600B 1 0 0 t) ∧
    yields (.streamLinkChange 0 true) (s {}) (raised 0x600B 0 1 0) ∧
    yields (.transmissionEnd 1) (s { wire := some x }) (fun t => (t.sp 1).wire == none) ∧
    (s { q := [x], capped := true }).txNext 1 = some x ∧
    yields (.streamRateBucketRefill 1) (s { q := [x], capped := true }) (fun t => (t.sp 1).wire == some x && !(t.sp 1).capped) ∧
    yields (.hostLinkUp 5 16 true 512 4096) (withRegs [(Rf.GLB_STATUS_READY, 1)] live) (fun t => t.rf Rf.PAK_PCIE_GEN == 5 && raised 0x600C 0 0 0 t) ∧
    yields (.hostLinkUp 6 16 true 128 128) (withRegs [(Rf.GLB_STATUS_READY, 1)] live) (fun t => t.rf Rf.GLB_STATUS_LINK == 1 && t.evq.isEmpty) ∧
    stays (.hostLinkUp 6 16 false 128 128) (withRegs [(Rf.GLB_STATUS_READY, 1)] live) ∧ stays (.hostLinkUp 5 2 true 128 128) (withRegs [(Rf.GLB_STATUS_READY, 1)] live) := by
  decide +kernel

/-! ### The hub -/

/-- The first byte of the user region, the last granule of it, and a state that serves. -/
theorem witness_hub_transactions :
    let s := { live with hub := [(0x20000000, 5), (96 * gib - 1, 6)] }
    let linked := withRegs [(Rf.GLB_STATUS_LINK, 1)] s
    let training := withRegs [(Rf.HUB_STAT_TRAINING, 1)] linked
    let spent (n : Nat) : State := { s with hubU := { s.hubU with spent := (List.range 50).map (·, n) } }
    let tags := { s with hubU := { s.hubU with held := List.replicate 3776 (.bar2Read 0x20000000 1) } }
    let bank (t : State) : BankSt := look (fun _ => {}) t.hubU.banks (s.bankAt 0x20000000)
    let forced := { s with hubU := { s.hubU with pass := some ⟨s.channelOf 0x20000000, 0, true, 0, [], 255, true⟩ } }
    s.hubOpen = true ∧ training.hubOpen = false ∧ training.hubU.on = true ∧ s.capacity = 96 * gib ∧ userBase = 0x20000000 ∧
    s.rtForced (s.channelOf 0x20000000) = false ∧ (spent 63).tc0Spent ((spent 63).channelOf 0x20000000) < 64 ∧
    mayIssue (.engine 0) = [0, 1] ∧ s.tagFree 2 = true ∧ tags.tagFree 2 = false ∧ tags.tagFree 0 = true ∧
    yields (.hubTransaction (.engine 0) 0 0x20000000 (some [1, 2])) (spent 63) (fun t => hubByte t 0x20000000 == 1 && hubByte t 0x20000001 == 2 &&
      (bank t).queue.length == 1) ∧
    yields (.hubTransaction (.engine 0) 0 0x20000000 none) (spent 64) (fun t => t.hubU.held.length == 1 && t.rf Rf.HUB_TC0_TOKWAIT == 1) ∧
    yields (.hubTransaction .host 2 (96 * gib - 128) none) (spent 64) (fun t => t.readBytes.getD 127 0 == 6) ∧
    yields (.hubTransaction .host 2 0x20000000 none) training (fun t => t.hubU.held.length == 1) ∧
    yields (.hubTransaction .host 2 0x20000000 none) forced (fun t => t.hubU.held.length == 1) ∧
    yields (.hubTransaction .host 2 0x20000000 none) tags (fun t => t.hubU.waiting.length == 1) ∧
    stays (.hubTransaction .host 0 0x20000000 none) s ∧ stays (.hubTransaction .host 2 0x20000001 none) s ∧
    linked.bar2Waits (96 * gib - 1) 1 = false ∧ forced.bar2Waits 0x20000000 4 = true ∧
    yields (.bar2Read 0x20000000 4) (withRegs [(Rf.GLB_STATUS_LINK, 1)] forced) (fun t => t.hubU.held.length == 1) ∧
    yields (.bar2Read (96 * gib - 1) 1) linked (fun t => t.readBytes == [6]) ∧
    yields (.bar2Read 0x20000000 4) training (fun t => t.readBytes == [0, 0, 0, 0] && t.rf Rf.HUB_ACCERR_COUNT == 1) ∧
    yields (.bar2Write 0x20000000 [7, 8]) linked (fun t => hubByte t 0x20000001 == 8) ∧
    yields (.bar2Write 0x20000000 [7, 8]) training (fun t => hubByte t 0x20000000 == 5 && t.rf Rf.HUB_ACCERR_ADDR == 0x20000000) ∧
    yields (.tc0TokenGain 49) (spent 3) (fun t => t.tc0Spent 49 == 2) := by decide +kernel

/-- A codeword of the user region, which channel 32 stores in its local granule 43,690. -/
def cw : Nat := 0x20000000 / 16
/-- The patrol stands at a granule of a channel. -/
def patrol (c g : Nat) (s : State) : State := { s with hubU := { s.hubU with scrubAt := c * 2 ^ 23 + g } }
def scrubbed (xs : List (Nat × Nat)) : State := patrol 32 43690 { live with hubU := { on := true, errs := [(cw, xs)] } }

theorem witness_scrub :
    live.hubChannels.contains 32 = true ∧ live.hubChannels.getLast? = some 49 ∧ (scrubbed [(0, 1)]).storedIn 32 43690 1 cw = true ∧
    (patrol 32 43690 live).scrubNext = some (32, 43690) ∧ (patrol 49 (2 ^ 23 - 1) live).scrubNext = some (49, 2 ^ 23 - 1) ∧
    yields (.scrubBatch 32 43690 1) (patrol 32 43690 live) (fun t => t.hubU.scrubAt == 32 * 2 ^ 23 + 43691) ∧
    yields (.scrubBatch 49 (2 ^ 23 - 1) 9) (patrol 49 (2 ^ 23 - 1) live) (fun t => t.hubU.scrubAt == 0 && t.rf Rf.HUB_SCRUB_PASSES == 1) ∧
    stays (.scrubBatch 32 43690 1) live ∧
    yields (.scrubBatch 32 43690 1) (scrubbed [(0, 1)]) (fun t => t.hubU.wback == [cw] && t.rf (Rf.HUB_CH_ERR_CORR 32) == 1) ∧
    yields (.scrubBatch 32 43690 1) (scrubbed [(0, 1), (4, 1)]) (fun t => t.hubU.errs.length == 1 && t.rf (Rf.HUB_CH_ERR_UNCORR 32) == 1) := by
  decide +kernel

theorem witness_refresh :
    let s := withRegs [(Rf.HUB_CFG_SR_IDLE_US, 9), (Rf.HUB_CH_CFG_SR_EN 49, 1)] { live with hubU := { on := true, win := [(49, 70000)] } }
    let busy (c : Nat) : State := { s with count := c, hubU := { s.hubU with refr := [(799, 999000)], banks := [(799, { row := some 3, free := 1010000 })] } }
    (busy 1000000).refreshEvery 49 = 4875 ∧ s.tc0Waits 799 = false ∧
    yields (.bankRefresh 49 15) s (fun t => t.hubU.refr == [(49 * 16 + 15, 961000)] && t.count == 1000000) ∧
    yields (.bankRefresh 49 15) (busy 1000000) (fun t => t.hubU == (busy 1000000).hubU && t.count == 1003875) ∧
    yields (.bankRefresh 49 15) (busy 1010000) (fun t => t.hubU.refr == [(799, 1003875)] && t.hubU.banks == [(799, { free := 1010200 })]) ∧
    yields (.bankRefresh 49 15) (busy 1042875) (fun t => t.hubU.refr == [(799, 1003875)]) ∧
    yields (.selfRefreshEntry 49) s (fun t => t.rf (Rf.HUB_CH_STAT_SR 49) == 1) ∧
    yields (.correctedErrorWindowEnd 49) s (fun t => t.rf (Rf.HUB_CH_ERR_WIN_LAST 49) == 65535 && t.hubU.win.isEmpty) := by decide +kernel

/-- Slot 47 moves to channel 48, the lowest spare; at its end, and when retiring, the slot changes its channel. -/
def moving (ptr reloc : Nat) : State := withRegs [(Rf.HUB_MIGSTAT_ACTIVE, 1), (Rf.HUB_MIGSTAT_SLOT, 47), (Rf.HUB_MIGSTAT_TARGET, 48),
  (Rf.HUB_MIGSTAT_POINTER, ptr), (Rf.HUB_MIGSTAT_RELOC, reloc)] live

theorem witness_migration :
    live.standbyChannel = some 48 ∧ live.rf (Rf.HUB_MAP_PHYS 47) = 47 ∧ (moving 0 0).copyLength = 2 ^ 23 ∧
    yields (.migReq 48) live (raised 0x7009 0xFFFF 0x30 0) ∧
    yields (.migReq 47) live (fun t => raised 0x7004 (47 + 256 * 47) 48 0 t && t.rf (Rf.HUB_CH_STAT_ROLE 48) == 3) ∧
    yields .migrationCopy (moving (2 ^ 23 - 1) 0) (fun t => t.rf Rf.HUB_MIGSTAT_POINTER == 2 ^ 23) ∧
    yields .migrationComplete (moving (2 ^ 23) 0) (fun t => raised 0x7005 (47 + 256 * 47) 48 0 t && t.rf (Rf.HUB_MAP_PHYS 47) == 48) ∧
    yields .retirementComplete (moving (moving 0 1).copyLength 1) (fun t => raised 0x7007 (47 + 256 * 47) 0 0 t && t.rf Rf.HUB_STAT_RETIRED == 1) := by
  decide +kernel

/-- A pass of channel 49 at its slice 15; a slice whose windows all pass, and one with a lane that has none. -/
def training (k : Nat) (good : Bool) : State := { live with hubU := { on := true, pass := some ⟨49, k, good, 999000, [], 255, false⟩ } }
def passing : SliceMeasure := ⟨List.replicate 72 0, List.replicate 72 20⟩

theorem witness_retraining :
    let due := withRegs [(Rf.HUB_CH_CFG_RT_EN 48, 0), (Rf.HUB_CH_CFG_RT_EN 49, 1), (Rf.HUB_CH_STAT_TEMP 49, 100)] live
    due.rtDue 49 = true ∧ (training 15 true).hubOpen = true ∧
    yields (.retrainForce 49) (training 3 true) (fun t => (t.hubU.pass.map (·.forced)) == some true && t.count == 1005250) ∧
    (training 15 true).hubU.held = [] ∧ (training 15 true).hubU.newRate = none ∧ (List.range 72).all (fun j => sliceWidth passing j == 21 && sliceCentre passing j == 20) ∧
    sliceWidth ⟨[1], [0]⟩ 0 = 0 ∧ sliceCentre ⟨[-5], [3]⟩ 0 = -2 ∧
    (training 14 true).hubU.pass.isSome = true ∧ (training 15 false).rf (Rf.HUB_CH_STAT_DEGRADED 49) = 0 := by
  decide +kernel

theorem witness_frequency :
    let tr := withRegs [(Rf.HUB_STAT_TRAINING, 1)] live
    yields (.frequencySwitch 3) live (raised 0x7009 0xFFFF 8 0) ∧ yields (.frequencySwitch 1) (withRegs [(Rf.CAD_GEAR_STATE, 1)] live) (raised 0x7009 0xFFFF 8 0) ∧
    live.rf Rf.HUB_FREQ_CUR ≠ 1 ∧ yields (.frequencySwitch 1) live (fun t => t.rf Rf.HUB_FREQ_CUR == 1 && t.rf Rf.HUB_STAT_TRAINING == 1) ∧
    tr.rf Rf.HUB_STAT_TRAINING ≠ 0 ∧ tr.modes.trans ≠ .service ∧ tr.hubU.newRate = none ∧ tr.hubU.held = [] := by decide +kernel

/-! ### DMA and the chains' counts -/

/-- Channel 15 of unit 3 in state `st`, its head at 0x30000000. -/
def dmaSt (st : Nat) (x : DmaCh) : State := withRegs [(Rf.DMA_STAT_STATE 3 15, st), (Rf.DMA_HEAD_ADDR 3 15, 0x30000000), (Rf.DMA_TAIL_ADDR 3 15, 0x30000000),
  (Rf.DMA_CFG_BURST_LOG 3 15, 12)] { live with dma := [(63, x)] }

/-- The same holding the unit. -/
def owning (st : Nat) (x : DmaCh) : State := withRegs [(Rf.DMA_UNIT_BUSY 3, 1), (Rf.DMA_UNIT_OWNER 3, 15)] (dmaSt st x)

theorem witness_dma_commands :
    yields (.dmaStart 3 15) (dmaSt 0 {}) (fun t => t.dmaState 3 15 == 1 && (t.dmaCh 3 15).next == 0x30000000) ∧
    yields (.dmaStart 3 15) (dmaSt 6 {}) (fun t => t.dmaState 3 15 == 1) ∧ yields (.dmaStart 3 15) (dmaSt 3 {}) (raised 0x8006 (15 + 256 * 3) 0 0) ∧
    stays (.dmaStop 3 15) (dmaSt 4 {}) ∧ yields (.dmaStop 3 15) (owning 2 {}) (fun t => t.dmaState 3 15 == 5 && t.rf (Rf.DMA_UNIT_BUSY 3) == 0) ∧
    (dmaSt 1 {}).dmaReady 3 = some 15 ∧ yields (.dmaUnitGrant 3) (dmaSt 1 {}) (fun t => t.rf (Rf.DMA_UNIT_OWNER 3) == 15 && t.dmaState 3 15 == 2) ∧
    yields (.dmaAppend 3 15 0x40) (dmaSt 0 { appAt := 1000000, appN := 15 }) (fun t => t.dmaState 3 15 == 1 && t.rf (Rf.DMA_LAST_ADDR 3 15) == 0x40) ∧
    yields (.dmaAppend 3 15 0x40) (dmaSt 0 { appAt := 1000000, appN := 16 }) (raised 0x8007 (15 + 256 * 3) 0 0) ∧
    yields (.dmaAppend 3 15 0x40) (dmaSt 5 {}) (raised 0x8006 (15 + 256 * 3) 0 0) := by decide +kernel

/-- A descriptor that moves 16 bytes from hub 0x30001000 to 0x30002000 and ends its list; and one of length 0. -/
def desc16 : DmaDesc := (0x30001000, 0x30002000, 0, 16 + 2 ^ 32)
def withDesc (len : Nat) : State := { owning 2 { next := 0x30000000 } with
  hub := [(0x30000001, 0x10), (0x30000003, 0x30), (0x30000009, 0x20), (0x3000000B, 0x30), (0x30000018, BitVec.ofNat 8 len), (0x3000001C, 1)] }

theorem witness_dma_work :
    (withDesc 16).dmaCheck 3 desc16 false = none ∧ (withDesc 16).dmaCheck 3 (0x30001000, 0x30002000, 0, 2 ^ 32) false = some 1 ∧
    yields (.dmaDescriptorFetch 3) (withDesc 16) (fun t => (t.dmaCh 3 15).d == some desc16 && t.rf (Rf.DMA_CUR_ADDR 3 15) == 0x30000000) ∧
    yields (.dmaDescriptorFetch 3) (withDesc 0) (fun t => t.dmaState 3 15 == 6 && raised 0x8005 (15 + 256 * 3) 1 0x30000000 t) ∧
    (owning 2 { d := some desc16 }).dmaBurstLen 3 15 desc16 = 16 ∧ (owning 2 { d := some desc16 }).dmaDone 3 15 desc16 = false ∧
    yields (.dmaBurst 3) { owning 2 { d := some desc16 } with hub := [(0x3000100F, 7)] } (fun t => hubByte t 0x3000200F == 7 && t.rf (Rf.DMA_XFER_BYTES 3 15) == 16) ∧
    yields (.dmaDescriptorComplete 3) (withRegs [(Rf.DMA_XFER_BYTES 3 15, 16)] (owning 2 { d := some desc16 })) (fun t =>
      t.dmaState 3 15 == 4 && t.rf (Rf.DMA_UNIT_BUSY 3) == 0 && t.rf (Rf.DMA_STAT_DONE 3 15) == 1) ∧
    yields (.chnCntRead 255) (live.setChain 255 { items := [⟨1, 8, false⟩, ⟨1, 9, true⟩], armed := false }) (fun t =>
      t.readData == 0x0000000100000002 && (t.chain 255).armed) := by decide +kernel

/-! ### Time -/

/-- R374's Table: the first RATE that is out of range at each end. -/
theorem witness_time_steering :
    let on := withRegs [(Rf.CAD_GEAR_STATE, 1)] live
    yields (.timStep (-1)) live (fun t => t.now == 799999 && t.timNow == 800000 && raised 0x9004 (2 ^ 64 - 1) 0 0 t) ∧ yields (.timStep 1) on (raised 0x9005 1 0 0) ∧
    yields (.timOfsWrite false 5) live (fun t => t.rf Rf.TIM_OFS_INT_OFFSET == 5 && t.now == 800005) ∧
    yields (.timOfsWrite true 5) on (fun t => t.evq.length == 1 && t.rf Rf.TIM_OFS_FRAC_OFFSET == 0) ∧
    yields (.timRateWrite 3432537863) live (fun t => t.rf Rf.TIM_RATE_RATE == 3432537863 && t.now == 800000) ∧
    yields (.timRateWrite 3439409810) live (fun t => t.rf Rf.TIM_RATE_RATE == 3439409810 && t.now == 800000) ∧
    yields (.timRateWrite 3432537862) live (raised 0x9006 0xC00030 0 0) ∧ yields (.timRateWrite 3439409811) live (raised 0x9006 0xC00030 0 0) ∧
    yields .timSnap live (fun t => t.rf Rf.TIM_SNAPC_COUNT == 1000000 && t.rf Rf.TIM_SNAPT_T == 800000) := by decide +kernel

/-- An event message of domain 0 over transport 0 for the port as it is delivered, at count 1,000,002. -/
def ptpMsg (k : PtpKind) (a : ServoAct) : PtpMsg := ⟨k, 0, 0, 1000002, 3, 4, 5, 6, a⟩

theorem witness_reference_pps :
    let s (u : TimeUnit) : State := withRegs [(Rf.TIM_CFG_REF10, 1), (Rf.TIM_PPS_OUT_EN, 1), (Rf.TIM_PPS_OUT_W, 2)] { live with time := u }
    let held := withRegs [(Rf.TIM_STAT_HOLDOVER, 1)] (s { lostAt := 900000 })
    let locked := withRegs [(Rf.TIM_STAT_LOCKED, 1)] (s {})
    yields .referenceLost locked (fun t => raised 0x9001 0 0 0 t && t.rf Rf.TIM_STAT_HOLDOVER == 1 && t.rf Rf.TIM_STAT_LOCKED == 0 && t.time.lostAt == 1000000) ∧
    stays .referenceLost held ∧ stays .referenceLost live ∧
    yields .referenceRelock held (fun t => raised 0x9002 0 0 0 t && t.count == 125900000 && t.rf Rf.TIM_STAT_LOCKED == 1) ∧
    yields .referenceRelock (s {}) (fun t => t.evq.isEmpty && t.count == 1000000 && t.rf Rf.TIM_STAT_LOCKED == 1) ∧
    stays .referenceRelock locked ∧ stays .referenceRelock live ∧
    yields (.ppsInEdge 625000005) (s { pps := some 5 }) (fun t => t.time.pps == some 625000005 && t.rf Rf.TIM_STAT_PPS_OK == 1) ∧
    yields (.ppsInEdge 625000004) (s { pps := some 5 }) (fun t => t.time.pps == some 5) ∧
    yields .ppsMissing (s { pps := some 5 }) (fun t => raised 0x9003 0 0 0 t && t.count == 1875000005) ∧
    stays .ppsMissing (s {}) ∧ stays .ppsMissing (s { pps := some 5, missed := true }) ∧
    yields .ppsOut (s {}) (fun t => t.time.out == some 1000000000 && t.time.outEnd == some (t.count + 2500)) ∧
    yields .ppsOut (s { out := some 1000000000 }) (fun t => t.time.out == some 2000000000) ∧ stays .ppsOut live := by decide +kernel

theorem witness_ptp :
    let s := withRegs [(Rf.MGT_STAT_FW, 1)] live
    let peer := { s with mgt := { ptp := { ptpReset with peer := true } } }
    let on := withRegs [(Rf.CAD_GEAR_STATE, 1)] s
    yields (.ptpMessage (ptpMsg .sync .none)) s (fun t => t.time.state == 3 && t.time.delay == 6 && t.count == 1000002 && t.time.stamp == 800001) ∧
    yields (.ptpMessage (ptpMsg .pdelay .none)) peer (fun t => t.time.master == 4) ∧
    stays (.ptpMessage (ptpMsg .pdelay .none)) s ∧ stays (.ptpMessage (ptpMsg .sync .none)) live ∧
    stays (.ptpMessage { ptpMsg .sync .none with domain := 1 }) s ∧ stays (.ptpMessage { ptpMsg .sync .none with state := 6 }) s ∧
    yields (.ptpMessage (ptpMsg .sync (.step 9))) s (fun t => t.now == (s.advanceTo 1000002).now + 9) ∧
    yields (.ptpMessage (ptpMsg .delay (.step 9))) on (raised 0x9005 9 0 0) ∧
    yields (.ptpMessage (ptpMsg .sync (.rate 3432537863))) s (fun t => t.rf Rf.TIM_RATE_RATE == 3432537863) ∧
    yields (.ptpMessage (ptpMsg .sync (.rate 1))) s (raised 0x9006 0xC00030 0 0) := by decide +kernel

/-! ### Management -/

/-- The firmware runs from bank 0. -/
def firm : State := withRegs [(Rf.MGT_STAT_FW, 1), (Rf.GLB_STATUS_FW, 1), (Rf.GLB_STATUS_BOARD, 1)] { live with modes := { cause := none } }

theorem witness_management_reports :
    let ev : EvRec := ⟨0x1234, 7, 11, 0, 21, 22, 0⟩
    let logged := { firm with logq := [⟨ev, 3, true⟩] }
    let slot (n : Nat) : State := withRegs [(Rf.MGT_BBOX_ERASED, n)] { live with bbox := [(2, ev)] }
    yields (.supervisionScan [⟨40, 480⟩]) live (fun t => t.rf (Rf.HUB_CH_STAT_TEMP 0) == 60 && (t.sensor 40).map (·.value) == some 480) ∧
    live.fwRuns = false ∧ firm.fwRuns = true ∧ stays (.telemetryUpdate true []) live ∧
    yields (.telemetryUpdate true [1, 2, 3, 4, 5, 6, 7, 8, 9]) firm (fun t => readLE t.mgt.page 0 8 == 800000 && look (fun _ => 0) t.mgt.page 8 == 9 &&
      t.mgt.period == 200 && raised 0xA007 200 0 0 t) ∧
    yields .logWrite logged (fun t => t.logq.isEmpty && readLE t.mgt.flash 0x4B00000 8 == 0x0000000700011234 &&
      readLE t.mgt.flash 0x4B00018 8 == 0x0000000300000016) ∧
    stays .logWrite firm ∧
    yields (.smbusSel ⟨0x2FE0, none⟩) live (fun t => t.mgt.smbAddr == 0x2FE0) ∧
    yields .smbusRead { live with mgt := { smbAddr := 0x2FE0, page := [(0xFE1, 5)] } } (fun t => t.mgt.smbData.getD 1 0 == 5 && t.mgt.smbAddr == 0x3000) ∧
    yields .powerFailWarning (slot 0x80) (fun t => t.mgt.saved == some 7 && readLE t.mgt.flash 0x4A01040 8 == 0x0000000700001234) ∧
    yields .powerFailWarning (slot 0x81) (fun t => t.mgt.saved == some 0) ∧
    yields .powerFailWarning (slot 0) (fun t => t.mgt.saved == none && t.mgt.lost) := by decide +kernel

/-- The check value of the CRC of SMBus over "123456789" is 0xF4 (the published one). -/
theorem test_pec : pecOf [0x31, 0x32, 0x33, 0x34, 0x35, 0x36, 0x37, 0x38, 0x39] = 0xF4 ∧
    yields (.smbusSel ⟨5, some (live.selPec 5)⟩) live (fun t => t.mgt.smbAddr == 5) ∧
    stays (.smbusSel ⟨5, some (live.selPec 5 ^^^ 1)⟩) live := by decide +kernel

theorem witness_mailbox :
    let busy := withRegs [(Rf.MGT_MBX_STAT_BUSY, 1)] firm
    let done (d : Bool) : State := { busy with mgt := { result := some (0, [1, 2, 3, 4, 5, 6, 7, 8, 9], 77), discard := d } }
    yields (.info 5) busy (raised 0xA010 5 0 0) ∧ yields (.netSet 5 ⟨0, 0, 0⟩) live (fun t => t.rf Rf.MGT_MBX_STAT_BUSY == 1 && t.mgt.net == none && t.mgt.cmd.isSome) ∧
    yields (.mailboxBusy 0x0007000000000000) busy (raised 0xA010 7 0 0) ∧ stays (.mailboxBusy 0) firm ∧ stays .mailboxComplete firm ∧
    yields .mailboxComplete (done false) (fun t => t.rf Rf.MGT_MBX_STAT_BUSY == 0 && t.rf Rf.MGT_MBX_STAT_TAG == 77 && t.rf Rf.MGT_MBX_STAT_LEN == 9 &&
      t.rf (Rf.MGT_MBX_BUF_DATA 1) == 9) ∧
    yields .mailboxComplete (done true) (fun t => t.mgt.result == none && t.rf Rf.MGT_MBX_STAT_LEN == 0) := by decide +kernel

/-- The answers that no open value enters: RESULT and, for a setting, what it set. -/
theorem witness_mailbox_commands :
    let ans (r : Nat) (t : State) : Bool := t.mgt.result.map (·.1) == some r
    let ptp (d : BitVec 8) (n : Int) : PtpCfg := ⟨d, 2, false, n, -4, 0, 0⟩
    yields (.logRead 1 0 2040) firm (ans 0) ∧ yields (.logRead 1 0 2041) firm (ans 2) ∧
    yields (.bboxRead 1 7 0x80FFF) firm (fun t => ans 0 t && t.mgt.result.map (·.2.1.length) == some 1) ∧
    yields (.bboxRead 1 8 0) firm (ans 2) ∧ yields (.bboxRead 1 7 0x81000) firm (ans 2) ∧
    yields (.boardWrite 1 []) firm (ans 3) ∧
    yields (.ptpSet 1 (ptp 127 4)) firm (fun t => ans 0 t && t.mgt.ptp == ptp 127 4) ∧
    yields (.ptpSet 1 (ptp 128 4)) firm (ans 2) ∧ yields (.ptpSet 1 (ptp 0 5)) firm (ans 2) ∧
    yields (.netSet 1 ⟨9, 8, 7⟩) firm (fun t => ans 0 t && t.mgt.net == some ⟨9, 8, 7⟩) ∧
    yields (.mgtRestart 1) firm (fun t => ans 0 t && t.rf Rf.GLB_RSTCAUSE_CAUSE == 8 && raised 0x0008 8 0 0 t) := by decide +kernel

/-- Whatever the image, all four of its keys revoked make it a forged one. Which key an image names is a figure of `Config`
without a value, so that this witness and the next take the key as they find it. -/
theorem witness_forged (k n : Nat) (h : n = 15) : 4 ≤ k ∨ n.testBit k = true := by
  subst h
  rcases Nat.lt_or_ge k 4 with hk | hk
  · exact .inr (by have : ∀ j < 4, Nat.testBit 15 j = true := by decide
                   exact this k hk)
  · exact .inl hk

theorem witness_firmware_updates :
    let srv := withRegs [(Rf.GLB_STATUS_MODE, 1)] firm
    let boot := withRegs [(Rf.MGT_STAT_FW, 2)] { live with mgt := { flash := [(0x100000, 1), (0x2100000, 7), (0x4100000, 9)] } }
    let ans (r : Nat) (t : State) : Bool := t.mgt.result.map (·.1) == some r
    yields (.updBegin 1 64) firm (ans 3) ∧ yields (.updData 1 0 [5]) firm (ans 3) ∧
    yields (.updBegin 1 0x2000001) srv (ans 2) ∧
    yields (.updBegin 1 0x2000000) { srv with mgt := boot.mgt } (fun t => ans 0 t && t.mgt.flash == [(0x100000, 1), (0x4100000, 9)]) ∧
    yields (.updData 1 0x1FFFFFF [5]) srv (fun t => ans 0 t && t.mgt.flash == [(0x40FFFFF, 5)]) ∧
    yields (.updActivate 1) { srv with mgt := { checked := true } } (fun t => ans 0 t && t.mgt.trial && t.rf Rf.MGT_STAT_TRIAL == 1) ∧
    srv.mgt.checked = false ∧ yields (.updConfirm 1) srv (ans 3) ∧
    (withRegs [(Rf.MGT_STAT_TRIAL, 1), (Rf.MGT_STAT_BANK, 1)] { srv with mgt := { trial := true } }).trialRuns = true ∧
    boot.recovery = true ∧ stays (.uartFrame 0 [1] 0) boot ∧ stays (.uartFrame 0 [] 0) srv := by decide +kernel

/-- Of an image whose key is below 4 the key is good where none is revoked, and its SVN is not too low where none is fused. -/
theorem witness_good_key (k v : Nat) (h : k < 4) :
    ¬ (4 ≤ k ∨ (firm.rf Rf.MGT_STAT_KEYREV).testBit k = true) ∧ ¬ v < firm.rf Rf.MGT_STAT_FUSED := by
  have z : firm.rf Rf.MGT_STAT_KEYREV = 0 ∧ firm.rf Rf.MGT_STAT_FUSED = 0 := by decide +kernel
  rw [z.1, z.2]
  exact ⟨fun c => c.elim (Nat.not_le.mpr h) (by simp), Nat.not_lt_zero v⟩

theorem witness_uart_frame : ∃ (crc : BitVec 32) (z : List (BitVec 8)), z.length = 1024 ∧ crcOf z = crc ∧ 0x400 + 1024 ≤ 0x2000000 ∧
    (withRegs [(Rf.MGT_STAT_FW, 2)] live).rf Rf.MGT_STAT_FW = 2 :=
  ⟨_, List.replicate 1024 0, by decide +kernel, rfl, by decide, by decide +kernel⟩

/-- The check value of CRC-32C (the polynomial of R101): the nine characters 1 to 9. -/
theorem test_crc : crcOf [0x31, 0x32, 0x33, 0x34, 0x35, 0x36, 0x37, 0x38, 0x39] = 0xE3069283 := by decide +kernel

theorem witness_locks :
    let locked := withRegs [(Rf.BRK_LOCK_LOCK, 1)] firm
    yields .brkLock firm (fun t => t.rf Rf.BRK_LOCK_LOCK == 1 && raised 0xB002 0 0 0 t) ∧ yields .brkLock locked (raised 0x0002 0xD00000 0 0) ∧
    yields (.kick .mgt 0x5A) firm (fun t => t.mgt.kickAt == 1000000) ∧ stays (.kick .mgt 0x5B) firm ∧ yields (.kick .host 0x5A) firm (raised 0xA00E 0x60 0 0) ∧
    yields .mgtWatchdogTimeout firm (fun t => t.count == 1250000000 && t.rf Rf.MGT_STAT_FW == 0 && raised 0xA008 0 0 0 t) ∧
    stays .mgtWatchdogTimeout { firm with modes := { vin := false } } := by decide +kernel

/-! ### Modes and resets -/

def inMode (m : Nat) : State := withRegs [(Rf.GLB_STATUS_MODE, m)] firm
def trans (x : Trans) (s : State) : State := { s with modes := { s.modes with trans := x } }

theorem witness_requests_refused :
    let r (c : Instr) (n : Nat) (s : State) : Bool := yields c s (fun t => raised 0x0005 n 0 0 t && t.rf Rf.GLB_STATUS_REFUSE == 5)
    stays .modeReqTeach (inMode 2) ∧ r .modeReqInspect 2 (trans .drain (inMode 2)) ∧
    r (.modeReqService false) 3 (withRegs [(Rf.GLB_STATUS_SAFE_PIN, 1)] (inMode 5)) ∧
    r (.modeReqService false) 4 (withRegs [(Rf.GLB_STATUS_BOARD, 0)] (inMode 0)) ∧
    r (.modeReqService false) 5 { inMode 0 with modes := { cause := none, unslot := true } } ∧
    r (.modeReqStream true) 1 (inMode 0) ∧ r (.modeReqService false) 1 (inMode 5) ∧ r .modeReqInspect 1 (inMode 4) := by decide +kernel

theorem witness_requests_taken :
    yields (.modeReqService false) (inMode 0) (fun t => t.modes.trans == .service && t.rf Rf.GLB_STATUS_TARGET == 1 && t.mode == 0) ∧
    yields (.modeReqStandby false) (inMode 1) (fun t => t.mode == 0 && raised 0x0004 1 0 0 t) ∧
    yields (.modeReqStandby false) (inMode 5) (fun t => t.mode == 0 && raised 0x0004 5 0 0 t) ∧
    (inMode 1).entryRefused.isSome = true ∧ yields .modeReqTeach (inMode 1) (fun t => t.mode == 1 && t.modes.trans == .none) ∧
    (inMode 4).cad.started = false ∧ yields (.modeReqService false) (inMode 4) (fun t => t.modes.trans == .drain && t.rf Rf.GLB_STATUS_DRAIN == 1) ∧
    yields (.modeReqService true) (inMode 2) (fun t => t.mode == 1 && raised 0x0007 0 0 0 t && raised 0x0004 2 1 0 t) ∧
    stays .modeAbort (inMode 2) ∧
    yields .modeAbort (trans .drain (withRegs [(Rf.GLB_STATUS_TARGET, 1)] (inMode 2))) (fun t => t.mode == 1 && t.modes.trans == .none) := by decide +kernel

theorem witness_modes_reached :
    let srv := trans .service (inMode 0)
    yields (.serviceReady []) srv (fun t => t.mode == 1 && t.hubU.on && raised 0x0004 0 1 0 t) ∧
    yields (.serviceReady []) { srv with modes := { srv.modes with unslot := true } } (fun t => t.mode == 0 && raised 0x0005 5 0 0 t) ∧
    stays (.serviceReady []) (inMode 0) ∧
    yields .acquisitionEntryComplete (trans .entry (withRegs [(Rf.GLB_STATUS_TARGET, 4)] (inMode 1))) (fun t => t.mode == 4 && t.rf Rf.CAD_GEAR_STATE == 1 &&
      raised 0x0004 1 4 0 t) ∧
    stays .acquisitionEntryComplete (inMode 1) ∧
    yields .drainComplete (trans .drain (withRegs [(Rf.GLB_STATUS_TARGET, 1)] (inMode 3))) (fun t => t.mode == 1 && raised 0x0004 3 1 0 t) ∧
    stays .drainComplete (inMode 3) := by decide +kernel

theorem witness_safe :
    yields .modeReqSafe (inMode 4) (fun t => t.mode == 5 && raised 0x0006 1 0 0 t) ∧ yields .safe (inMode 0) (fun t => t.mode == 5) ∧
    yields .safeNLow (inMode 1) (fun t => t.mode == 5 && raised 0x0006 0 0 0 t) ∧ yields .safeNLow (trans .service (inMode 0)) (fun t => t.mode == 0 && t.modes.trans == .service) ∧
    stays .modeReqSafe (inMode 5) ∧ stays .safe (inMode 5) ∧
    yields .safeNLow (inMode 0) (fun t => t.mode == 0 && t.rf Rf.GLB_STATUS_SAFE_PIN == 1) ∧
    yields .safeNHigh (withRegs [(Rf.GLB_STATUS_SAFE_PIN, 1)] (inMode 5)) (fun t => t.mode == 5 && t.rf Rf.GLB_STATUS_SAFE_PIN == 0) := by decide +kernel

theorem witness_resets :
    let s := withRegs [(Rf.MGT_MBX_CFG_VECTOR, 9), (Rf.GLB_STATUS_LINK, 1), (Rf.CAD_PERIOD_PERIOD_NS, 7000000)] { inMode 4 with hub := [(5, 5)] }
    let held := { s with modes := { cause := some 2, held := true } }
    stays .dprst held ∧ stays (.hostReset .flr) { s with modes := { cause := none, mains := false } } ∧
    yields .dprst s (fun t => t.mode == 0 && raised 0x0008 7 0 0 t && t.hub == [(5, 5)] && t.rf Rf.MGT_MBX_CFG_VECTOR == 9) ∧
    yields (.hostReset .flr) s (fun t => raised 0x0008 6 0 0 t && t.rf Rf.GLB_STATUS_LINK == 1 && t.rf Rf.MGT_MBX_CFG_VECTOR == 0) ∧
    yields (.hostReset .linkDown) s (fun t => raised 0x0008 5 0 0 t && t.rf Rf.GLB_STATUS_LINK == 0) ∧
    yields (.moduleReset 5) s (fun t => t.modes.held && t.hub.isEmpty && t.rf Rf.CAD_PERIOD_PERIOD_NS != 7000000 && t.rf Rf.GLB_STRAP_SMBADDR == 1 &&
      t.rf Rf.GLB_STRAP_BOOT_SEL == 1) ∧
    stays (.moduleReset 5) { s with modes := { mains := false } } ∧
    yields .resetNRelease held (fun t => !t.modes.held && raised 0x0008 2 0 0 t) ∧ stays .resetNRelease s := by decide +kernel

theorem witness_power :
    let off : State := { live with modes := { vin := false, mains := false } }
    let on (p : Nat) : State := withRegs [(Rf.GLB_STATUS_PHASES, p)] { live with modes := { cause := none } }
    stays (.powerOn 3) live ∧ off.modes.vin = false ∧
    yields (.powerOnTestComplete []) live (fun t => t.rf Rf.GLB_STATUS_READY == 1 && raised 0x0008 1 0 0 t) ∧ stays (.powerOnTestComplete []) (on 0) ∧
    yields (.firmwareReady 0) (withRegs [(Rf.GLB_STRAP_BOOT_SEL, 1)] (on 0)) (fun t => t.rf Rf.MGT_STAT_FW == 2 && raised 0xA00D 0 0 0 t) ∧
    stays (.firmwareReady 0) firm ∧
    live.modes.vin = true ∧
    yields .vinOvervoltage live (fun t => t.rf Rf.GLB_PWR_OVCNT == 1 && raised 0x0009 0 0 0 t) ∧ stays .powerOff off ∧ stays .vinOvervoltage off ∧
    yields .phaseFailure (on 0) (fun t => t.rf Rf.GLB_STATUS_PHASES == 1 && raised 0x000A 0 0 0 t) ∧
    yields .phaseFailure (on 1) (fun t => t.rf Rf.MGT_TSTAT_SKIP == 2000 && raised 0x000B 0 0 0 t) ∧
    yields .phaseFailure (on 2) (fun t => t.modes.dead && !t.modes.mains) := by decide +kernel

/-- Example 14.1's throttle: one eighth of a degree above the onset skips 30 of 4,000, 17 eighths 510. -/
theorem witness_thermal :
    let s := withRegs [(Rf.MGT_TSTAT_THROTTLE, 1)] firm
    yields (.thermalMeasure [800, 841]) firm (fun t => t.rf Rf.MGT_TSTAT_SKIP == 30 && t.rf Rf.MGT_TSTAT_SENSOR == 1 && raised 0xA001 0 0 0 t) ∧
    yields (.thermalMeasure [857, 800]) s (fun t => t.rf Rf.MGT_TSTAT_SKIP == 510 && t.evq.isEmpty) ∧
    yields (.thermalMeasure [840]) s (fun t => t.rf Rf.MGT_TSTAT_SKIP == 0 && raised 0xA002 0 0 0 t) ∧
    yields (.thermalMeasure [943]) s (fun t => t.modes.mains) ∧
    yields (.thermalMeasure [944]) s (fun t => !t.modes.mains && t.modes.hot && t.rf Rf.MGT_SHUT_COUNT == 1) ∧
    yields (.thermalMeasure [679]) { live with modes := { mains := false, hot := true } } (fun t => t.modes.coolAt == some 12500000) ∧
    yields (.thermalMeasure [680]) { live with modes := { mains := false, hot := true, coolAt := some 5 } } (fun t => t.modes.coolAt == none) ∧
    stays .thermalRestart { live with modes := { mains := false, hot := true } } := by decide +kernel

/-- Chain `c`, its lanes of no words: its consumer and its one producer, one of those above 63. -/
def chainRegs (c cons prod : Nat) : List (Fld × Nat) :=
  [(Rf.CHN_CFG_SHARE c, 0), (Rf.CHN_CFG_CONS c, cons), (Rf.CHN_PROD1_PROD c, 2 ^ (prod - 64))]

/-- The chains 0 to 85 that the units of hardware name, and the registers that name them. -/
def chainsNamed : List (Fld × Nat) :=
  [(Rf.SIV_CHAINS_SEAM, 80), (Rf.SIV_CHAINS_REC_BASE, 0), (Rf.SIV_CHAINS_PCH_BASE, 16), (Rf.PAK_CHAINS_OUT_BASE, 48), (Rf.PAK_CHAINS_CREQ_BASE, 64),
   (Rf.PAK_CHAINS_CROP, 83), (Rf.PAK_CHAINS_STATS, 84), (Rf.POS_MK_CHAINS_MARK_CHAIN, 81), (Rf.POS_MK_CHAINS_CONF_CHAIN, 82),
   (Rf.CHN_PROD1_PROD 83, 0xFFFF * 2 ^ 32), (Rf.CHN_PROD0_PROD 84, 1)] ++
  (List.range 8).map (fun d => (Rf.POS_DIN_CFG_REP_CHAIN d, 85)) ++
  (([80, 81, 82] ++ List.range 16).map (fun c => (Rf.CHN_CFG_CLASS c, 0))) ++
  chainRegs 80 115 64 ++ chainRegs 81 113 64 ++ chainRegs 82 96 113 ++ chainRegs 83 116 96 ++ chainRegs 84 117 64 ++ chainRegs 85 0 113 ++
  (List.range 16).flatMap (fun k => chainRegs k (96 + k) 115 ++ chainRegs (16 + k) (64 + k) 114 ++ chainRegs (32 + k) (80 + k) 114 ++
    chainRegs (48 + k) 117 (96 + k) ++ chainRegs (64 + k) (96 + k) (96 + k))

/-- SERVICE with one camera of 16 columns on port 0, every buffer apart, and no unit that an engine serves. -/
def ready : State :=
  let plan : List (Fld × Nat) := [(Rf.GLB_STATUS_MODE, 1), (Rf.GLB_STATUS_FW, 1), (Rf.GLB_STATUS_BOARD, 1), (Rf.SPK_PCFG_ENABLE 0, 1), (Rf.SPK_FMT_WIDTH 0, 15),
    (Rf.SPK_RAWN_LINES 0, 2048), (Rf.SPK_RAW_BASE 0, 0x40000000), (Rf.SPK_RAWTAG_BASE 0, 0x48000000), (Rf.SPK_COR_BASE 0, 0x50000000),
    (Rf.FUS_RING_BASE, 0x100000000), (Rf.FUS_CAM_CFG_EN 0, 1), (Rf.FUS_GEOM_WIDTH, 63), (Rf.FUS_CAM_SPAN_U_HI 0, 15),
    (Rf.SIV_LMT_BASE, 0x400000000), (Rf.SIV_SEAMA_BASE, 0x500000000), (Rf.SIV_PLOG_BASE, 0x510000000), (Rf.SIV_PREF_BASE_BASE, 0x520000000),
    (Rf.PAK_RECQ_BASE, 0x530000000), (Rf.PAK_CSTG_BASE, 0x540000000)]
  let fields := (List.range 86).map (fun c => (Rf.CHN_CFG_EN c, 1)) ++ plan ++ chainsNamed ++
    (0 :: List.range' 48 64).map (fun u => (Rf.ENG_UNIT_UNSERVED u, 1))
  { live with regs := fields.map (fun p : Fld × Nat => (p.1.key, p.2)) }

theorem ready_on : (List.range 256).filter ready.chainEn = List.range 86 := by decide +kernel

theorem ready_stores : ready.chainStores = [] := by
  unfold State.chainStores; rw [ready_on]; decide +kernel

theorem ready_sieve : ready.badSieve = none := by
  unfold State.badSieve; rw [ready_stores]; decide +kernel

theorem ready_pack : ready.badPack = none := by
  unfold State.badPack; rw [ready_stores]; decide +kernel

theorem ready_chains : ready.badChains = none := by
  have h : (List.range 256).filter (fun c => ready.chainEn c && ready.isProducer c 112) = [] := by
    rw [show (fun c => ready.chainEn c && ready.isProducer c 112) = (fun c => ready.isProducer c 112 && ready.chainEn c) from
      funext (fun c => Bool.and_comm _ _), ← List.filter_filter, ready_on]; decide +kernel
  unfold State.badChains State.tc0Chains; rw [h, ready_on]; decide +kernel

/-- A request of TEACH or INSPECT, or of STREAM with Sieve, that the checks of Table 15.3 let begin. -/
theorem witness_entry_allowed : (ready.mode = 1 ∧ ready.modes.trans = .none ∧ ready.modes.unslot = false ∧ ready.rf Rf.GLB_STATUS_SAFE_PIN = 0 ∧
    ready.rf Rf.GLB_STATUS_FW = 1 ∧ ready.rf Rf.GLB_STATUS_BOARD = 1) ∧
    State.entryRefused { ready with modes := { ready.modes with nosieve := false } } = none := by
  have h : ready.badPlan = none ∧ ready.badProgram = none ∧ ready.badBudget = none ∧ ready.badLatch = none ∧ ready.badFuse = none := by
    decide +kernel
  refine ⟨by decide +kernel, ?_⟩
  show ready.entryRefused = none
  simp only [State.entryRefused, h, ready_sieve, ready_pack, ready_chains]
  rfl

/-! ### Perturbations -/

theorem witness_perturbations :
    let s := inMode 1
    let no := inMode 5
    let used (c : Instr) (k n : Nat) : Bool := yields c s (fun t => raised 0xE002 k n 0 t && t.rf Rf.TST_STAT_USES == 1)
    let barred (c : Instr) (off : Nat) : Bool := yields c no (raised 0xE004 off 0 0)
    yields (.tstUnlock .host 0x7E57) (inMode 2) (fun t => t.rf Rf.TST_STAT_UNLOCKED == 1 && raised 0xE001 0 0 0 t) ∧
    stays (.tstUnlock .host 0x7E57) s ∧ stays (.tstUnlock .host 0x7E56) (inMode 2) ∧ yields (.tstUnlock .mgt 0) s (raised 0xB003 0xF00000 0 0) ∧
    used (.tstCred .host 3 0x0000000000050107) 0 0x50107 ∧ barred (.tstCred .mgt 3 0x100) 0xF00058 ∧
    used (.tstHublat .host 0xA710) 1 0xA710 ∧ barred (.tstHublat .host 0x8000) 0xF00060 ∧
    used (.tstBp .host 0x0002000300000003) 2 0x0002000300000003 ∧ barred (.tstBp .host 1) 0xF00068 ∧
    used (.tstLane .host 0 0x280100BF) 4 0x280100BF ∧ barred (.tstLane .host 1 0x10000) 0xF00088 ∧
    used (.tstLine .host 0x0000000000010140) 7 0x10140 ∧ barred (.tstLine .host 0x40) 0xF000C8 ∧
    used (.tstTick .host 0x1000000) 8 0x1000000 ∧ yields (.tstTick .host 0x1FFFFFF) s (raised 0xE004 0xF000D0 0 0) ∧
    used (.tstTherm .host 0x10100) 9 0x10100 ∧ used (.tstTherm .host 0x1FF00) 9 0x1FF00 ∧
    used (.tstEccGo .host 0x2000A28) 5 0x2000A28 ∧ barred (.tstEccGo .host 0x800) 0xF000A0 ∧
    yields (.tstEncGo .host 0x10300) (withRegs [(Rf.POS_ENC_CFG_FILT 0, 4)] s) (fun t => raised 0xE003 6 0 0 t && t.pos == s.pos) ∧ barred (.tstEncGo .host 0x10000) 0xF000C0 := by decide +kernel

/-- With the enable bit 0 a write is taken in every state and counts no use; one that ends what was on says so. -/
theorem witness_perturbations_off :
    let s := withRegs [(Rf.TST_CRED_EN 3, 1), (Rf.TST_HUBLAT_EN, 1), (Rf.TST_BP_HOST, 1), (Rf.TST_LANE_EN 0, 1), (Rf.TST_LINE_EN, 1), (Rf.TST_TICK_EN, 1),
      (Rf.TST_THERM_EN, 1)] (inMode 5)
    let off (c : Instr) (f : Fld) (k : Nat) : Bool := yields c s (fun t => t.rf f == 0 && raised 0xE003 k 0 0 t && t.rf Rf.TST_STAT_USES == 0)
    off (.tstCred .host 3 0x50007) (Rf.TST_CRED_EN 3) 0 ∧ off (.tstHublat .host 0x2710) Rf.TST_HUBLAT_EN 1 ∧
    off (.tstBp .host 0x0002000300000000) Rf.TST_BP_HOST 2 ∧ off (.tstLane .host 0 0x280000BF) (Rf.TST_LANE_EN 0) 4 ∧
    off (.tstLine .host 0x10100) Rf.TST_LINE_EN 7 ∧ off (.tstTick .host 0) Rf.TST_TICK_EN 8 ∧ off (.tstTherm .host 0xFF00) Rf.TST_THERM_EN 9 ∧
    yields (.tstEccGo .host 0x1228) s (fun t => t.rf Rf.TST_STAT_USES == 0 && t.hubU == s.hubU) ∧
    yields (.tstEncGo .host 0x307) s (fun t => t.rf Rf.TST_ENC_CH == 7 && t.pos == s.pos) := by decide +kernel

theorem witness_backpressure :
    let s := withRegs [(Rf.TST_BP_HOST, 1), (Rf.TST_BP_ON_US, 3), (Rf.TST_BP_OFF_US, 2)] { live with tests := { bpAt := 999000 } }
    yields .backpressurePhase s (fun t => t.count == 999000 + 3750) ∧
    yields .backpressurePhase { s with tests := { bpAt := 996000 } } (fun t => t.count == 996000 + 6250) := by decide +kernel

/-! ### Further clauses -/

theorem witness_stalls_and_chains :
    let s := running 3 { core with sregs := [], bank0 := [(0, 0x0001000000000000), (8, 1)] }
    let pr := withRegs [(Rf.ENG_STATUS_STATE 3, 4)] (producing { core with stalled := some (.pushr 3 0 0 0), scratch := [(9, 6)] })
    s.groupIn 3 1 0 = false ∧ yields (.ldw 3 1 0) s (fun t => (t.eng 3).stalled == some (.ldw 3 1 0) && t.rf (Rf.ENG_STATUS_STATE 3) == 3) ∧
    pr.waits 3 (.pushr 3 0 0 0) = none ∧ pr.pushOver 0 3 8 = false ∧
    yields (.chainSpaceFreed 0 3) pr (fun t => (t.eng 3).stalled == none && readLE t.hub (lane3 + 8) 8 == 0x0600) ∧
    stays (.chainSpaceFreed 0 3) (running 3 core) ∧
    yields (.constReload 3) (withRegs [(Rf.HUB_STAT_TRAINING, 1)] stopped) (fun t => t.hubU.held == [.constReload 3]) := by decide +kernel

/-- Element 2 of a line of 8-bit samples, from byte 2 of the hub's line, and an element beyond the line's end. -/
theorem witness_gather :
    let c : Copy := ⟨0, [], .cgat, ⟨0x0002050030000000, 64⟩, ⟨0x0007000000000100, 64⟩, 1, 2, 1, 0, 2, 2⟩
    let s := { running 3 { core with copies := [c] } with hub := [(0x30000002, 9)] }
    s.copyFree 3 c = true ∧ runBytes 2 2 = 2 ∧ c.src.fmt = 2 ∧ (s.limits 3).open 0x100 = true ∧
    yields (.copyComplete 3 0) s (fun t => (t.eng 3).scratch == [(0x100, 9)] && (t.eng 3).copies.isEmpty) := by decide +kernel

theorem witness_expired_line :
    let s := portState 9 { line := some { line 1 with since := 0 } }
    s.rf (Rf.SPK_PTMO_LINE_TMO_US 47) * 1250 = 1250000 ∧ s.cadOn = false ∧
    yields (.dataBlock 191 5 1250000) s (fun t => (t.port 47).line == none && t.rf (Rf.SPK_PCNT_LTMO 47) == 1 && t.rf (Rf.SPK_PCNT_ORPHAN 47) == 1) := by
  decide +kernel

/-- One row of 16 columns of port 47's corrected ring, whose band 0 is held. -/
theorem witness_crop_served :
    let ws : List Nat := [7 + 47 * 2 ^ 32, 0, 15, 0]
    let s := packet 40 96 116 ws (withRegs [(Rf.PAK_CHAINS_CROP, 40), (Rf.SPK_PCFG_ENABLE 47, 1), (Rf.CAD_GEOM_HEIGHT, 16), (Rf.SPK_COR_SLOTS 47, 4),
      (Rf.SPK_COR_BASE 47, 0x30000000), (Rf.PAK_CROP_MAXBAND, 4), (Rf.PAK_CSTG_SIZE, 1),
      (Rf.PAK_CSTG_BASE, 0x78000000)] { live with hub := [(0x30000002, 9)] })
    let d := cropDesc (ws.map (BitVec.ofNat 64))
    d.w = 16 ∧ d.h = 1 ∧ d.raw = false ∧ s.corHeld 0 = true ∧ s.hubOpen = true ∧ s.corAt 47 0 0 0 = 0x30000000 ∧
    yields .cropDescriptor s (fun t => t.out.crops.map (·.n) == [16] && hubByte t (0x78000000 + 8 * 12 + 2) == 9) ∧
    stays .cropDescriptor (withRegs [(Rf.HUB_STAT_TRAINING, 1)] s) := by decide +kernel

theorem witness_waits_outside :
    let down := withRegs [(Rf.GLB_STATUS_LINK, 0)] (ringState 63 (inHand 0x22))
    let off := withRegs [(Rf.HUB_STAT_TRAINING, 1)] (dmaSt 1 {})
    yields (.ringWrite 63) down (fun t => t.rf (Rf.PAK_RING_PROD_PROD 63) == 63 && t.out.hands.length == 1) ∧
    off.hubOpen = false ∧ off.tagFree 2 = true ∧
    yields (.dmaAppend 3 15 0x40) off (fun t => t.hubU.held == [.dmaAppend 3 15 0x40]) ∧
    (([⟨40, 480⟩] : List SensorSample).map (·.i)).Nodup := by decide +kernel

theorem witness_boot_and_steps :
    let test := { live with modes := { cause := some 1 } }
    test.unitOf 3 = 3 ∧ test.spareOf (unitSection 3) = some 48 ∧ (List.range 112).all (fun v => !test.unserved v) = true ∧
    yields (.powerOnTestComplete [3]) test (fun t => t.rf (Rf.ENG_UNIT_ENGINE 3) == 48 && t.rf (Rf.ENG_ROLE_RETIRED 3) == 1) ∧
    yields .drainComplete (trans .drain (withRegs [(Rf.GLB_STATUS_TARGET, 0)] (inMode 3))) (fun t => t.mode == 0 && t.chains.isEmpty) ∧
    yields (.tstEncGo .host 0x10110) (withRegs [(Rf.POS_ENC_CFG_EN 0, 1), (Rf.POS_ENC_CFG_FILT 0, 1)] (inMode 1)) (raised 0xE003 6 0 0) := by
  decide +kernel

/-! ### Register accesses, the invariant and the words -/

theorem witness_register_accesses :
    let locked := withRegs [(Rf.BRK_LOCK_LOCK, 1)] live
    let on := withRegs [(Rf.CAD_GEAR_STATE, 1)] live
    let busy := withRegs [(Rf.DMA_STAT_STATE 0 0, 2)] live
    yields (.readClear .host 0x10 2) live (fun t => t.readData == 0 && raised 0x0001 0x10 0 0 t) ∧
    yields (.registerWrite .host 0x14 8 5) live (raised 0x0001 0x14 0 0) ∧ yields (.invalidRegisterAccess .mgt 3 4 none) live (raised 0x0001 3 0 0) ∧
    yields (.invalidRegisterAccess .host 3 4 (some 9)) live (raised 0x0001 3 0 0) ∧
    yields (.registerWrite .mgt 0xD00300 8 5) live (fun t => raised 0xB003 0xD00300 0 0 t && t.rf Rf.BRK_CNT_MGTW == 1) ∧
    yields (.registerWrite .host 0xD00318 8 0x10001) locked (raised 0x0002 0xD00318 0 0) ∧
    yields (.registerWrite .host 0xD00318 8 0x10002) live (fun t => t.rf (Rf.BRK_MK_MINW_US 3) == 2 && t.rf (Rf.BRK_MK_MINGAP_US 3) == 1) ∧
    stays (.registerWrite .host 0 8 5) live ∧
    yields (.registerWrite .mgt 0xE00040 8 90) live (fun t => t.rf Rf.MGT_THERM_ONSET == 90) ∧
    yields (.registerWrite .host 0xE00040 8 112) live (fun t => t.rf Rf.MGT_THERM_ONSET == 112) ∧
    yields (.registerWrite .host 0xE00040 8 89) live (raised 0xA00E 0x40 0 0) ∧ yields (.registerWrite .host 0xE00040 8 113) live (raised 0xA00E 0x40 0 0) ∧
    yields (.registerWrite .host 0x900000 8 1) on (raised 0x8002 0 0 0) ∧ yields (.registerWrite .host 0xA00008 8 1) busy (raised 0x8006 0 0 0) ∧
    yields (.registerWrite .host 0xA00008 8 0x40) live (fun t => t.rf (Rf.DMA_HEAD_ADDR 0 0) == 0x40) ∧
    yields (.readClear .host 0xD00008 8) (withRegs [(Rf.BRK_CNT_MGTW, 65535), (Rf.BRK_CNT_SETDROP, 2)] live) (fun t =>
      t.readData == 0x000200000000FFFF && t.rf Rf.BRK_CNT_MGTW == 0) ∧
    yields (.readClear .mgt 0xC00018 8) live (fun t => t.readData == 1000000) := by decide +kernel

/-- Of no register, of half a register, and the one table of 32-bit registers. -/
theorem witness_other_accesses :
    (regAt 0x1F0).isSome = false ∧ (imemAt 0x1F0).isSome = false ∧
    yields (.readClear .host 0x1F0 8) live (fun t => t.readData == 0 && raised 0x0001 0x1F0 0 0 t) ∧
    yields (.readClear .host 0xC00018 4) live (raised 0x0001 0xC00018 0 0) ∧ yields (.registerWrite .host 0x1F0 8 5) live (raised 0x0001 0x1F0 0 0) ∧
    yields (.registerWrite .host 0xD0030C 4 5) live (raised 0x0001 0xD0030C 0 0) ∧ yields (.readClear .host 0x608004 4) live (fun t => t.evq.isEmpty) := by
  decide +kernel

theorem witness_invariant : State.reset.evq.length ≤ 1024 ∧ State.reset.logq.length ≤ 4096 ∧ Memory.wf State.reset.hub = true ∧
    Memory.wf State.reset.host = true ∧ (match step State.reset with | .next _ => true | _ => false) = true := by decide +kernel

theorem witness_words : encode (.add 3 2 3 1 2) = some (3, 0b000001_000000_000011_000001_000010_0010_000000000000000000000000000000) ∧
    (Instr.add 3 2 3 1 2).wf = true ∧ encode .hold = none := by decide +kernel

end Sys2Proof.Tests
end

section
/-! SUPPORT. A datapath reset whose own reports fill the event queue: what stopping the cadence unit tells of the bands not yet
reported (R178, R194; log 154) takes the last places of the 1,024 (R292), and event 0x000C is counted as lost. -/

namespace Sys2Proof.Machine

/-! ### Raising an event, record by record -/

/-- What holds before an event is raised and survives each of its records and stamps holds afterwards. -/
theorem raise_induction {P : State → Prop} {s : State} (c a0 a1 a2 : Nat) (hs : P s)
    (hrecord : ∀ u k b0 b1 b2, k ∈ [c, 0x600E, 0xA006] → P u → P (u.record k b0 b1 b2))
    (hstamp : ∀ u k, P u → P (u.stamp k)) (hsecond : ∀ u, P u → P u.stampSecond) : P (s.raise c a0 a1 a2) := by
  have hc : P (s.record c a0 a1 a2) := hrecord _ _ _ _ _ (by simp) hs
  have hfull (b : Bool) : P (if b then ((s.record c a0 a1 a2).stamp (stampKey 0x600E 0)).record 0x600E 0 0 0
      else s.record c a0 a1 a2) := by
    cases b
    · exact hc
    · exact hrecord _ 0x600E 0 0 0 (by simp) (hstamp _ _ hc)
  have hmerged (b : Bool) {u : State} (hu : P u) : P (if b then u.stampSecond.record 0xA006 0 0 0 else u) := by
    cases b
    · exact hu
    · exact hrecord _ 0xA006 0 0 0 (by simp) (hsecond _ hu)
  exact hmerged _ (hfull _)

/-- An event that finds the queue full is not queued (R292). -/
theorem raise_evq_of_full {s : State} (c a0 a1 a2 : Nat) (h : 1024 ≤ s.evq.length) : (s.raise c a0 a1 a2).evq = s.evq := by
  refine raise_induction (P := fun u => u.evq = s.evq) c a0 a1 a2 rfl ?_ (fun _ _ hu => hu) (fun _ hu => hu)
  intro u k b0 b1 b2 _ hu
  rw [record_evq, hu, if_neg (Nat.not_lt.2 h)]

/-- An event takes a place of the queue, if one is left. -/
theorem raise_evq_length (s : State) (c a0 a1 a2 : Nat) :
    min 1024 (s.evq.length + 1) ≤ (s.raise c a0 a1 a2).evq.length := by
  have h := (raise_prefix s c a0 a1 a2).length_le
  rw [record_evq] at h
  split at h
  · rw [List.length_append, List.length_singleton] at h; omega
  · omega

theorem raise_ports (s : State) (c a0 a1 a2 : Nat) : (s.raise c a0 a1 a2).ports = s.ports := by
  have h := congrArg State.ports (raise_frame s c a0 a1 a2 []).1
  exact h

theorem raise_hubU (s : State) (c a0 a1 a2 : Nat) : (s.raise c a0 a1 a2).hubU = s.hubU := by
  have h := congrArg State.hubU (raise_frame s c a0 a1 a2 []).1
  exact h

theorem raise_openBand (s : State) (c a0 a1 a2 : Nat) : (s.raise c a0 a1 a2).openBand = s.openBand :=
  (raise_frame s c a0 a1 a2 []).2 Rf.CAD_BAND_BAND (by decide)

@[simp] theorem raise_port (s : State) (c a0 a1 a2 p : Nat) : (s.raise c a0 a1 a2).port p = s.port p := by
  unfold State.port; rw [raise_ports]

/-! ### A queue that grows by no event 0x000C -/

/-- From `s` to `t` the event queue only grows, and by no event 0x000C. -/
def GrowsQuietly (s t : State) : Prop := s.evq <+: t.evq ∧ ∀ ev ∈ t.evq, ev ∈ s.evq ∨ ev.code ≠ 0x000C

theorem GrowsQuietly.of_eq {s t : State} (h : t.evq = s.evq) : GrowsQuietly s t :=
  ⟨h ▸ List.prefix_refl _, fun _ hev => .inl (h ▸ hev)⟩

theorem GrowsQuietly.trans {s t u : State} (h1 : GrowsQuietly s t) (h2 : GrowsQuietly t u) : GrowsQuietly s u :=
  ⟨h1.1.trans h2.1, fun ev hev => (h2.2 ev hev).elim (h1.2 ev) .inr⟩

theorem GrowsQuietly.foldl {α : Type} {f : State → α → State} (hf : ∀ s a, GrowsQuietly s (f s a)) (l : List α) (s : State) :
    GrowsQuietly s (l.foldl f s) := by
  induction l generalizing s with
  | nil => exact .of_eq rfl
  | cons a l ih => exact (hf s a).trans (ih _)

theorem record_growsQuietly (s : State) (c a0 a1 a2 : Nat) (hc : c ≠ 0x000C) : GrowsQuietly s (s.record c a0 a1 a2) := by
  refine ⟨record_prefix s c a0 a1 a2, fun ev hev => ?_⟩
  rw [record_evq] at hev
  split at hev
  · rcases List.mem_append.1 hev with hev | hev
    · exact .inl hev
    · exact .inr (List.mem_singleton.1 hev ▸ hc)
  · exact .inl hev

theorem raise_growsQuietly (s : State) (c a0 a1 a2 : Nat) (hc : c ≠ 0x000C) : GrowsQuietly s (s.raise c a0 a1 a2) := by
  refine raise_induction c a0 a1 a2 (.of_eq rfl) ?_ (fun _ _ hu => hu.trans (.of_eq rfl)) (fun _ hu => hu.trans (.of_eq rfl))
  intro u k b0 b1 b2 hk hu
  refine hu.trans (record_growsQuietly u k b0 b1 b2 ?_)
  simp only [List.mem_cons, List.not_mem_nil, or_false] at hk
  omega

/-! ### What leaves the event queue alone -/

/-- A piece of the state that one step of a fold leaves alone is left alone by the fold. -/
theorem foldl_keeps {α β : Type} (piece : State → β) {f : State → α → State} (hf : ∀ s a, piece (f s a) = piece s)
    (l : List α) (s : State) : piece (l.foldl f s) = piece s := by
  induction l generalizing s with
  | nil => rfl
  | cons a l ih => exact (ih _).trans (hf s a)

theorem stopEngines_evq (s : State) : s.stopEngines.evq = s.evq := by
  unfold State.stopEngines; refine foldl_keeps State.evq ?_ _ _; exact fun _ _ => rfl

theorem stopEngines_ports (s : State) : s.stopEngines.ports = s.ports := by
  unfold State.stopEngines; refine foldl_keeps State.ports ?_ _ _; exact fun _ _ => rfl

theorem stopEngines_hubU (s : State) : s.stopEngines.hubU = s.hubU := by
  unfold State.stopEngines; refine foldl_keeps State.hubU ?_ _ _; exact fun _ _ => rfl

theorem rewindOpen_evq (s : State) : s.rewindOpen.evq = s.evq := rfl
theorem rewindOpen_ports (s : State) : s.rewindOpen.ports = s.ports := rfl
theorem rewindOpen_hubU (s : State) : s.rewindOpen.hubU = s.hubU := rfl

theorem emptyStreams_evq (s : State) : s.emptyStreams.evq = s.evq := by
  unfold State.emptyStreams; refine foldl_keeps State.evq ?_ _ _; exact fun _ _ => rfl

theorem cutTraining_evq (s : State) : s.cutTraining.evq = s.evq := by
  unfold State.cutTraining
  split
  · dsimp only; split <;> rfl
  · rfl

theorem cutMigration_evq (s : State) : s.cutMigration.evq = s.evq := by
  unfold State.cutMigration
  split
  · dsimp only; split <;> rfl
  · rfl

theorem dropPass_evq (s : State) : s.dropPass.evq = s.evq := by unfold State.dropPass; split <;> rfl

theorem clearDatapath_evq (s : State) : s.clearDatapath.evq = s.evq := dropPass_evq s

theorem hubRest_evq (s : State) : s.hubRest.evq = s.evq := by
  unfold State.hubRest; split
  · unfold State.allSr; refine foldl_keeps State.evq ?_ _ _; exact fun _ _ => rfl
  · rfl

theorem setMode_evq (s : State) (n : Nat) : (s.setMode n).evq = s.evq := by
  unfold State.setMode; dsimp only; split <;> rfl

theorem toStandby_evq (s : State) : s.toStandby.evq = s.evq := setMode_evq _ 0

/-! ### The reports of the bands of a port (R178) -/

/-- What a report of port `p` keeps of all that a later report, or the rest of the cadence unit's stop, reads: the other ports,
the hub's unit and the open band; and it queues no event 0x000C. -/
structure ReportsPort (p : Nat) (s t : State) : Prop where
  others   : ∀ q, q ≠ p → t.port q = s.port q
  hubU     : t.hubU = s.hubU
  openBand : t.openBand = s.openBand
  queue    : GrowsQuietly s t

theorem ReportsPort.refl (p : Nat) (s : State) : ReportsPort p s s := ⟨fun _ _ => rfl, rfl, rfl, .of_eq rfl⟩

theorem ReportsPort.trans {p : Nat} {s t u : State} (h1 : ReportsPort p s t) (h2 : ReportsPort p t u) : ReportsPort p s u :=
  ⟨fun q hq => (h2.others q hq).trans (h1.others q hq), h2.hubU.trans h1.hubU, h2.openBand.trans h1.openBand,
    h1.queue.trans h2.queue⟩

theorem ReportsPort.foldl {α : Type} {p : Nat} {f : State → α → State} (hf : ∀ s a, ReportsPort p s (f s a)) (l : List α)
    (s : State) : ReportsPort p s (l.foldl f s) := by
  induction l generalizing s with
  | nil => exact .refl p s
  | cons a l ih => exact (hf s a).trans (ih _)

theorem pband_setPband (s : State) (p n m : Nat) (b : PortBand) :
    (s.setPband p n b).pband p m = if m = n then b else s.pband p m := by
  simp [State.pband, State.setPband]

@[simp] theorem raise_pband (s : State) (c a0 a1 a2 p n : Nat) : (s.raise c a0 a1 a2).pband p n = s.pband p n := by
  rw [State.pband, raise_port, State.pband]

theorem tellCount_of_silent {s : State} {p n bit : Nat} {count : PortBand → Nat} (code extra : Nat)
    (h : count (s.pband p n) = 0 ∨ (s.pband p n).told.testBit bit = true) :
    s.tellCount p n bit code extra count = s := by
  rw [State.tellCount]; exact if_pos h

/-- A count not yet reported is marked as reported and raises its event. -/
theorem tellCount_of_owed {s : State} {p n bit : Nat} {count : PortBand → Nat} (code extra : Nat)
    (h : ¬ (count (s.pband p n) = 0 ∨ (s.pband p n).told.testBit bit = true)) :
    s.tellCount p n bit code extra count =
      (s.setPband p n { s.pband p n with told := (s.pband p n).told ||| 2 ^ bit }).raise code (p + 256 * extra) n
        (count (s.pband p n)) := by
  rw [State.tellCount]; exact if_neg h

theorem setPband_reportsPort (s : State) (p n : Nat) (b : PortBand) : ReportsPort p s (s.setPband p n b) :=
  ⟨fun q hq => by rw [State.setPband, State.setPort_get_port, if_neg hq], rfl, rfl, .of_eq rfl⟩

theorem raise_reportsPort (s : State) (p c a0 a1 a2 : Nat) (hc : c ≠ 0x000C) : ReportsPort p s (s.raise c a0 a1 a2) :=
  ⟨fun _ _ => raise_port _ _ _ _ _ _, raise_hubU _ _ _ _ _, raise_openBand _ _ _ _ _, raise_growsQuietly _ _ _ _ _ hc⟩

theorem tellCount_reportsPort (s : State) (p n bit code extra : Nat) (count : PortBand → Nat) (hc : code ≠ 0x000C) :
    ReportsPort p s (s.tellCount p n bit code extra count) := by
  by_cases h : count (s.pband p n) = 0 ∨ (s.pband p n).told.testBit bit = true
  · rw [tellCount_of_silent _ _ h]; exact .refl p s
  · rw [tellCount_of_owed _ _ h]; exact (setPband_reportsPort _ _ _ _).trans (raise_reportsPort _ _ _ _ _ _ hc)

theorem tellCount_pband_ne (s : State) (p n bit code extra : Nat) (count : PortBand → Nat) {m : Nat} (hm : m ≠ n) :
    (s.tellCount p n bit code extra count).pband p m = s.pband p m := by
  by_cases h : count (s.pband p n) = 0 ∨ (s.pband p n).told.testBit bit = true
  · rw [tellCount_of_silent _ _ h]
  · rw [tellCount_of_owed _ _ h, raise_pband, pband_setPband, if_neg hm]

theorem tellCount_pband_owed {s : State} {p n bit : Nat} {b : PortBand} {count : PortBand → Nat} (code extra : Nat)
    (hb : s.pband p n = b) (h : ¬ (count b = 0 ∨ b.told.testBit bit = true)) :
    (s.tellCount p n bit code extra count).pband p n = { b with told := b.told ||| 2 ^ bit } := by
  rw [← hb] at h ⊢
  rw [tellCount_of_owed _ _ h, raise_pband, pband_setPband]
  exact if_pos rfl

theorem tellCount_evq_length {s : State} {p n bit : Nat} {b : PortBand} {count : PortBand → Nat} (code extra : Nat)
    (hb : s.pband p n = b) (h : ¬ (count b = 0 ∨ b.told.testBit bit = true)) :
    min 1024 (s.evq.length + 1) ≤ (s.tellCount p n bit code extra count).evq.length := by
  rw [← hb] at h
  rw [tellCount_of_owed _ _ h]
  exact raise_evq_length (s.setPband p n _) _ _ _ _

theorem tellLate_reportsPort (s : State) (p n : Nat) : ReportsPort p s (s.tellLate p n) := by
  unfold State.tellLate
  dsimp only
  refine ReportsPort.trans ?_ (tellCount_reportsPort _ p n 3 0x2006 0 _ (by decide))
  refine ReportsPort.trans ?_ (tellCount_reportsPort _ p n 2 0x2005 0 _ (by decide))
  refine ReportsPort.trans ?_ (tellCount_reportsPort _ p n 1 0x2004 0 _ (by decide))
  exact tellCount_reportsPort _ p n 0 0x2003 _ _ (by decide)

theorem tellLate_pband_ne (s : State) (p n : Nat) {m : Nat} (hm : m ≠ n) : (s.tellLate p n).pband p m = s.pband p m := by
  simp only [State.tellLate, tellCount_pband_ne _ _ _ _ _ _ _ hm]

theorem tellAll_reportsPort (s : State) (p n : Nat) : ReportsPort p s (s.tellAll p n) := by
  unfold State.tellAll
  refine .foldl ?_ _ s
  exact fun s e => tellLate_reportsPort s p e.1

/-! ### Two bands that each port has still to report -/

/-- A band with a row synthesised, a surplus line, a late one and a masked row, none of them reported. -/
def owingBand : PortBand := { synth := 1, surp := 1, late := 1, ssidx := 1 }

/-- Bands 0 and 1 are a port's known bands, and nothing of them has been reported. -/
def OwesTwoBands (s : State) (p : Nat) : Prop := (s.port p).bands = [(0, owingBand), (1, owingBand)]

theorem tellLate_of_owing {s : State} {p n : Nat} (h : s.pband p n = owingBand) :
    min 1024 (s.evq.length + 4) ≤ (s.tellLate p n).evq.length := by
  have hb1 := tellCount_pband_owed (bit := 0) (count := (·.synth)) 0x2003 (s.pband p n).cause h (by decide)
  have hb2 := tellCount_pband_owed (bit := 1) (count := (·.surp)) 0x2004 0 hb1 (by decide)
  have hb3 := tellCount_pband_owed (bit := 2) (count := (·.late)) 0x2005 0 hb2 (by decide)
  have h1 := tellCount_evq_length (bit := 0) (count := (·.synth)) 0x2003 (s.pband p n).cause h (by decide)
  have h2 := tellCount_evq_length (bit := 1) (count := (·.surp)) 0x2004 0 hb1 (by decide)
  have h3 := tellCount_evq_length (bit := 2) (count := (·.late)) 0x2005 0 hb2 (by decide)
  have h4 := tellCount_evq_length (bit := 3) (count := (·.ssidx)) 0x2006 0 hb3 (by decide)
  unfold State.tellLate
  dsimp only
  omega

theorem tellAll_of_owing {s : State} {p : Nat} (h : OwesTwoBands s p) :
    min 1024 (s.evq.length + 8) ≤ (s.tellAll p 1).evq.length := by
  have hbands : (s.port p).bands = [(0, owingBand), (1, owingBand)] := h
  have hall : s.tellAll p 1 = (s.tellLate p 0).tellLate p 1 := by simp [State.tellAll, hbands]
  have h0 : s.pband p 0 = owingBand := by rw [State.pband, hbands]; rfl
  have h1 : (s.tellLate p 0).pband p 1 = owingBand := by
    rw [tellLate_pband_ne _ _ _ (by decide), State.pband, hbands]; rfl
  have hlate0 := tellLate_of_owing h0
  have hlate1 := tellLate_of_owing h1
  rw [hall]
  omega

/-- What stopping the cadence unit reports of ports. -/
def State.tellPorts (s : State) (ps : List Nat) : State := ps.foldl (fun s p => s.tellAll p s.openBand) s

theorem tellPorts_evq_length {ps : List Nat} (hps : ps.Nodup) {s : State} (hopen : s.openBand = 1)
    (howes : ∀ p ∈ ps, OwesTwoBands s p) : min 1024 (s.evq.length + 8 * ps.length) ≤ (s.tellPorts ps).evq.length := by
  induction ps generalizing s with
  | nil => exact Nat.min_le_right _ _
  | cons p ps ih =>
    obtain ⟨hp, hps⟩ := List.nodup_cons.1 hps
    have hfirst := tellAll_of_owing (howes p List.mem_cons_self)
    have hframe := tellAll_reportsPort s p 1
    have hrest : min 1024 ((s.tellAll p 1).evq.length + 8 * ps.length) ≤ ((s.tellAll p 1).tellPorts ps).evq.length := by
      refine ih hps (hframe.openBand.trans hopen) (fun q hq => ?_)
      rw [OwesTwoBands, hframe.others q (fun e => hp (e ▸ hq))]
      exact howes q (List.mem_cons_of_mem _ hq)
    have hstep : s.tellPorts (p :: ps) = (s.tellAll p 1).tellPorts ps := by rw [← hopen]; rfl
    rw [hstep, List.length_cons]
    omega

theorem tellPorts_growsQuietly (s : State) (ps : List Nat) : GrowsQuietly s (s.tellPorts ps) :=
  .foldl (fun s p => (tellAll_reportsPort s p _).queue) ps s

theorem tellPorts_hubU (s : State) (ps : List Nat) : (s.tellPorts ps).hubU = s.hubU :=
  foldl_keeps State.hubU (fun s p => (tellAll_reportsPort s p _).hubU) ps s

/-! ### The stop of the cadence unit, and what follows it in a datapath reset -/

/-- Where no retirement waits for it, the stop of a running cadence unit adds to the event queue what it reports of the
ports. -/
theorem stopCadence_evq {s : State} (hon : s.cadOn = true) (hdefer : s.hubU.deferred = none) :
    s.stopCadence.evq = (s.tellPorts s.portsOn).evq := by
  have h : (s.tellPorts s.portsOn).hubU.deferred = none := by rw [tellPorts_hubU, hdefer]
  unfold State.stopCadence
  rw [if_pos hon]
  unfold State.hubCadStop
  dsimp only
  split
  · rename_i k hk
    have hk : (s.tellPorts s.portsOn).hubU.deferred = some k := hk
    rw [h] at hk
    cases hk
  · rfl

/-- The enables clear without an event of their own: each perturbation in effect has told its end before. -/
theorem tstClear_evq (s : State) : s.tstClear.evq = (s.tstOn.foldl (fun s p => s.raise 0xE003 p.1) s).evq := by
  unfold State.tstClear
  dsimp only
  rw [foldl_keeps State.evq fun (u : State) (f : Fld) => State.setrf_evq u f 0]
  rw [foldl_keeps State.evq fun (u : State) (i : Nat) =>
    (State.setrf_evq _ (Rf.TST_LANE_EN i) 0).trans (State.setrf_evq u (Rf.TST_CRED_EN i) 0)]

theorem tstClear_growsQuietly (s : State) : GrowsQuietly s s.tstClear := by
  have hended : GrowsQuietly s (s.tstOn.foldl (fun s p => s.raise 0xE003 p.1) s) := by
    refine .foldl ?_ _ s
    exact fun s p => raise_growsQuietly s 0xE003 p.1 0 0 (by decide)
  exact hended.trans (.of_eq (tstClear_evq s))

theorem resetStops_growsQuietly (s : State) : GrowsQuietly s.stopEngines.rewindOpen.stopCadence s.resetStops := by
  unfold State.resetStops
  dsimp only
  split
  · exact (tstClear_growsQuietly _).trans (raise_growsQuietly _ 0x0007 _ 0 0 (by decide))
  · exact tstClear_growsQuietly _

/-- A datapath reset has counted itself and stopped the engines. -/
def State.dprstHalted (s : State) : State :=
  ((s.setrf Rf.GLB_RSTCAUSE_CAUSE 7).bump Rf.GLB_RSTCAUSE_DPRST).stopEngines.rewindOpen

/-- It has stopped the cadence unit and the perturbations too. -/
def State.dprstStopped (s : State) : State := ((s.setrf Rf.GLB_RSTCAUSE_CAUSE 7).bump Rf.GLB_RSTCAUSE_DPRST).resetStops

theorem dprstHalted_evq (s : State) : s.dprstHalted.evq = s.evq := by
  rw [State.dprstHalted, rewindOpen_evq, stopEngines_evq, State.bump, State.setrf_evq, State.setrf_evq]

theorem dprstHalted_ports (s : State) : s.dprstHalted.ports = s.ports := by
  rw [State.dprstHalted, rewindOpen_ports, stopEngines_ports, State.bump, State.setrf_ports, State.setrf_ports]

theorem dprstHalted_hubU (s : State) : s.dprstHalted.hubU = s.hubU := by
  rw [State.dprstHalted, rewindOpen_hubU, stopEngines_hubU, State.bump, State.setrf_hubU, State.setrf_hubU]

theorem dprstStopped_growsQuietly (s : State) : GrowsQuietly s.dprstHalted.stopCadence s.dprstStopped :=
  resetStops_growsQuietly _

/-- The same once class D is lost and the mode is STANDBY: it has still to raise its own two events. -/
def State.dprstStandby (s : State) : State :=
  ((s.dprstStopped.emptyStreams.cutTraining.cutMigration.loseClasses [.d] liveFld).clearDatapath.hubRest).toStandby

theorem exec_dprst {s : State} (h : s.greater = false) :
    exec .dprst s = .next ((s.dprstStandby.raise 0x000C).raise 0x0008 7) := by
  have hexec : exec .dprst s = execDprst s := rfl
  simp only [hexec, execDprst, when', h, State.dprstStandby, State.dprstStopped, Bool.not_false, if_true]

theorem dprstStandby_evq (s : State) : s.dprstStandby.evq = s.dprstStopped.evq := by
  have hlost (u : State) : (u.loseClasses [.d] liveFld).evq = u.evq := rfl
  rw [State.dprstStandby, toStandby_evq, hubRest_evq, clearDatapath_evq, hlost, cutMigration_evq, cutTraining_evq,
    emptyStreams_evq]

/-- A datapath reset whose stop of the pipeline has filled the event queue leaves the queue at that. -/
theorem dprst_evq_of_full {s t : State} (hgreater : s.greater = false) (hfull : 1024 ≤ s.dprstStopped.evq.length)
    (h : exec .dprst s = .next t) : t.evq = s.dprstStopped.evq := by
  rw [exec_dprst hgreater] at h
  rw [← Host.Outcome.next.inj h]
  rw [← dprstStandby_evq] at hfull ⊢
  have hfirst := raise_evq_of_full 0x000C 0 0 0 hfull
  rw [raise_evq_of_full, hfirst]
  rwa [hfirst]

/-! ### The state that refutes -/

/-- 699 events that wait for the router. -/
def backlog : List EvRec := List.replicate 699 ⟨0x2001, 0, 0, 0, 0, 0, 0⟩

/-- INSPECT with every port enabled and band 1 open, while no port has reported anything of bands 0 and 1, and 699 events wait. -/
def crowded : State :=
  let on := (List.range 48).foldl (fun s p => s.setrf (Rf.SPK_PCFG_ENABLE p) 1) State.reset
  { ((on.setrf Rf.GLB_STATUS_MODE 3).setrf Rf.CAD_GEAR_STATE 1).setrf Rf.CAD_BAND_BAND 1 with
    ports := (List.range 48).map (fun p => (p, { bands := [(0, owingBand), (1, owingBand)] }))
    cad := { started := true }
    modes := { cause := none }
    evq := backlog }

theorem crowded_evq : crowded.evq = backlog := rfl

theorem crowded_halted : crowded.dprstHalted.cadOn = true ∧ crowded.dprstHalted.openBand = 1 ∧
    crowded.dprstHalted.portsOn = List.range 48 := by decide +kernel

theorem crowded_owes {p : Nat} (hp : p < 48) : OwesTwoBands crowded.dprstHalted p := by
  have hall : ∀ p < 48, (crowded.port p).bands = [(0, owingBand), (1, owingBand)] := by decide +kernel
  rw [OwesTwoBands, State.port, dprstHalted_ports]
  exact hall p hp

/-- 48 ports with eight counts each have 384 events to report, and 325 places are left. -/
theorem crowded_fills : GrowsQuietly crowded crowded.dprstStopped ∧ 1024 ≤ crowded.dprstStopped.evq.length := by
  obtain ⟨hon, hopen, hports⟩ := crowded_halted
  have hdefer : crowded.dprstHalted.hubU.deferred = none := by rw [dprstHalted_hubU]; rfl
  have hstop : crowded.dprstHalted.stopCadence.evq = (crowded.dprstHalted.tellPorts (List.range 48)).evq := by
    rw [stopCadence_evq hon hdefer, hports]
  have htold : min 1024 (699 + 8 * 48) ≤ (crowded.dprstHalted.tellPorts (List.range 48)).evq.length := by
    have h := tellPorts_evq_length List.nodup_range hopen (fun p hp => crowded_owes (List.mem_range.1 hp))
    rwa [dprstHalted_evq, crowded_evq, backlog, List.length_replicate, List.length_range] at h
  have hrest := dprstStopped_growsQuietly crowded
  have hquiet := (tellPorts_growsQuietly crowded.dprstHalted (List.range 48)).trans (.of_eq hstop)
  refine ⟨(GrowsQuietly.of_eq (dprstHalted_evq crowded)).trans (hquiet.trans hrest), ?_⟩
  have hlen := hrest.1.length_le
  rw [hstop] at hlen
  omega

/-- Refutes O51: with 699 events waiting, as the hypothesis allows, the reports that a datapath reset makes when it stops the
cadence unit fill the event queue, so that its own event 0x000C is not queued (R292). -/
theorem not_resets : ¬ Obligations.Resets := by
  unfold Obligations.Resets
  intro h
  have hroom : crowded.evq.length < 700 := by rw [crowded_evq, backlog, List.length_replicate]; decide
  obtain ⟨-, hdprst, -⟩ := h 0 .hot crowded hroom
  obtain ⟨t, ht, -, -, -, -, -, -, -, -, -, ⟨ev, hev, hcode, -⟩, -⟩ := hdprst (by decide)
  obtain ⟨hquiet, hfull⟩ := crowded_fills
  have hevq : t.evq = crowded.dprstStopped.evq := dprst_evq_of_full (by decide) hfull ht
  rcases hquiet.2 ev (hevq ▸ List.mem_of_mem_drop hev) with hold | hnew
  · rw [crowded_evq] at hold
    rw [List.eq_of_mem_replicate hold] at hcode
    exact absurd hcode (by decide)
  · exact hnew hcode

end Sys2Proof.Machine
end

section
/-! SUPPORT. CHAIN_SPACE_FREED where the engine of the endpoint waits in state 5, that of a pop which the hub does not serve
(log 195): the engine tries again there too, and goes on once the hub serves. -/

namespace Sys2Proof.Machine

/-- With no packet waiting anywhere, CHAIN_SPACE_FREED only has an engine in state 4 or 5 try its instruction again. -/
theorem exec_chainSpaceFreed_of_waiting {c : Fin 256} {ep : Fin 128} {s : State} (hbox : s.outbox = []) (hunit : ep.val < 112)
    (hstate : s.rf (Rf.ENG_STATUS_STATE (s.rf (Rf.ENG_UNIT_ENGINE ep))) = 4 ∨
      s.rf (Rf.ENG_STATUS_STATE (s.rf (Rf.ENG_UNIT_ENGINE ep))) = 5) :
    exec (.chainSpaceFreed c ep) s = .next (s.resume (s.rf (Rf.ENG_UNIT_ENGINE ep))) := by
  have hexec : exec (.chainSpaceFreed c ep) s = execChainSpaceFreed c ep s := rfl
  have hflush : s.flushBox c ep s.outbox false = s := by rw [hbox]; rfl
  rw [hexec, execChainSpaceFreed]
  simp only [hflush]
  rw [if_pos ⟨hunit, hstate⟩]

/-- A stalled instruction that need not wait any more is issued again. -/
theorem resume_of_free {s : State} {e : Nat} {i : Instr} (hstalled : (s.eng e).stalled = some i) (hfree : s.waits e i = none)
    (hsound : (s.eng e).storesSound = true) : s.resume e = (s.unstall e).issue e i := by
  simp [State.resume, hstalled, hfree, hsound]

/-- INSPECT with the hub serving: chain 0, from endpoint 113 to unit 0, holds one word, and engine 0, which serves unit 0, is
still held in state 5 on the pop of it, as it was while the hub trained. -/
def heldPop : State :=
  let x : Engine := { stalled := some (.pop 0 0 1 0), views := [(0, ⟨1, 0, 0⟩)] }
  let s : State := { State.reset with
    hubU := { on := true }, engines := [(0, x)], chains := [(0, { items := [⟨113, 0, true⟩] })] }
  let s := (s.setrf Rf.GLB_STATUS_MODE 3).setrf (Rf.ENG_STATUS_STATE 0) 5
  let s := ((s.setrf (Rf.CHN_CFG_EN 0) 1).setrf (Rf.CHN_CFG_CONS 0) 0).setrf (Rf.CHN_CFG_SHARE 0) 64
  (s.setrf (Rf.CHN_PROD1_PROD 0) (2 ^ 49)).setrf (Rf.CHN_BASE_BASE 0) 0x50000000

theorem heldPop_engine : heldPop.rf (Rf.ENG_UNIT_ENGINE 0) = 0 := by decide +kernel

theorem heldPop_state : heldPop.rf (Rf.ENG_STATUS_STATE 0) = 5 := by decide +kernel

/-- Before the hub serves, the pop waits in state 5; now it need not wait. -/
theorem heldPop_waits :
    (heldPop.setrf Rf.HUB_STAT_TRAINING 1).waits 0 (.pop 0 0 1 0) = some 5 ∧ heldPop.waits 0 (.pop 0 0 1 0) = none := by
  decide +kernel

/-- The pop takes the word, and the engine runs. -/
theorem heldPop_issued : ((heldPop.unstall 0).issue 0 (.pop 0 0 1 0)).rf (Rf.ENG_STATUS_STATE 0) = 2 := by decide +kernel

theorem exec_chainSpaceFreed_heldPop :
    exec (.chainSpaceFreed 0 0) heldPop = .next ((heldPop.unstall 0).issue 0 (.pop 0 0 1 0)) := by
  have hstate : heldPop.rf (Rf.ENG_STATUS_STATE (heldPop.rf (Rf.ENG_UNIT_ENGINE (0 : Fin 128)))) = 5 := by
    simpa [heldPop_engine] using heldPop_state
  have hresume := resume_of_free (s := heldPop) (e := 0) (i := .pop 0 0 1 0) rfl heldPop_waits.2 rfl
  rw [exec_chainSpaceFreed_of_waiting rfl (by decide) (.inr hstate), ← hresume]
  exact congrArg (fun e => Host.Outcome.next (heldPop.resume e)) heldPop_engine

/-- Refutes O34: its last clause has CHAIN_SPACE_FREED change nothing unless the endpoint's engine waits in state 4, but an engine
that waits in state 5 for the pop of a word tries again too (log 195), and goes on where the hub serves. -/
theorem not_lineGroupsAndCommits : ¬ Obligations.LineGroupsAndCommits := by
  unfold Obligations.LineGroupsAndCommits
  intro h
  obtain ⟨-, -, -, -, -, hspace⟩ := h
  obtain ⟨-, -, hidle⟩ := hspace 0 0 heldPop
  have hnot4 : heldPop.rf (Rf.ENG_STATUS_STATE (heldPop.rf (Rf.ENG_UNIT_ENGINE (0 : Fin 128)))) ≠ 4 := by
    have hstate := heldPop_state
    simp [heldPop_engine, hstate]
  have hsame : exec (.chainSpaceFreed 0 0) heldPop = .next heldPop :=
    hidle (fun _ hx => absurd hx List.not_mem_nil) (.inr hnot4)
  rw [exec_chainSpaceFreed_heldPop] at hsame
  have hissued := heldPop_issued
  rw [Host.Outcome.next.inj hsame, heldPop_state] at hissued
  exact absurd hissued (by decide)

end Sys2Proof.Machine
end

section
/-! SUPPORT. The scalar core (2.3): what the instructions of Tables 2.5 to 2.9 give. -/

namespace Sys2Proof.Machine

/-! ### Arithmetic of words (Table 2.5) -/

theorem minS_eq (a b : Word) : minS a b = if a.toInt ≤ b.toInt then a else b := by
  simp [minS, cmpLe, BitVec.sle_eq_decide]

theorem maxS_eq (a b : Word) : maxS a b = if a.toInt ≤ b.toInt then b else a := by
  simp [maxS, cmpLe, BitVec.sle_eq_decide]

theorem minU_eq (a b : Word) : minU a b = if a.toNat ≤ b.toNat then a else b := by
  simp [minU, cmpLeu, BitVec.ule_eq_decide]

theorem maxU_eq (a b : Word) : maxU a b = if a.toNat ≤ b.toNat then b else a := by
  simp [maxU, cmpLeu, BitVec.ule_eq_decide]

theorem clampInt_eq {lo hi : Int} (h : lo ≤ hi) (v : Int) : clampInt lo hi v = max lo (min hi v) := by
  unfold clampInt; split <;> [skip; split] <;> omega

theorem satS64_eq (v : Int) : satS64 v = max (-2 ^ 63) (min (2 ^ 63 - 1) v) := clampInt_eq (by decide) v

theorem mulHigh_toNat (a b : Word) : mulHigh a.toNat b.toNat = BitVec.ofNat 64 (a.toNat * b.toNat / 2 ^ 64) := by
  rw [mulHigh, ← BitVec.ofInt_natCast]; norm_cast

/-- The zeros above the highest one bit of a number below 2^n. -/
theorem clzNat_eq {v n : Nat} (hv : v ≠ 0) (hn : v < 2 ^ n) : clzNat v n = n - 1 - Nat.log2 v := by
  induction n with
  | zero => omega
  | succ n ih =>
    rw [clzNat]
    by_cases hb : v < 2 ^ n
    · have hlog : Nat.log2 v < n := (Nat.log2_lt hv).2 hb
      rw [Nat.testBit_lt_two_pow hb, ih hb]
      simp only [Bool.false_eq_true, if_false]; omega
    · have hlog : Nat.log2 v = n := (Nat.log2_eq_iff hv).2 ⟨not_lt.1 hb, hn⟩
      have hbit : v.testBit n = true := by rw [← hlog, Nat.testBit_log2 hv]
      simp [hbit, hlog]

theorem clzNat_zero (n : Nat) : clzNat 0 n = n := by
  induction n with
  | zero => rfl
  | succ n ih => simp [clzNat, ih]

theorem popcNat_eq (v n : Nat) : popcNat v n = ((List.range n).filter v.testBit).length := by
  induction n with
  | zero => rfl
  | succ n ih =>
    rw [popcNat, ih, List.range_succ, List.filter_append, List.length_append]
    by_cases hb : v.testBit n = true <;> simp [hb, Nat.add_comm]

theorem clz_eq (a : Word) : BitVec.ofNat 64 (clzNat a.toNat 64) = if a = 0 then 64 else BitVec.ofNat 64 (63 - Nat.log2 a.toNat) := by
  by_cases h : a = 0
  · subst h; rfl
  · have hne : a.toNat ≠ 0 := fun e => h (BitVec.eq_of_toNat_eq e)
    rw [if_neg h, clzNat_eq hne a.isLt]

theorem popc_eq (a : Word) :
    BitVec.ofNat 64 (popcNat a.toNat 64) = BitVec.ofNat 64 ((List.range 64).filter (fun i => a.getLsbD i)).length := by
  rw [popcNat_eq]; rfl

/-! ### Instructions that write one scalar or one predicate -/

/-- A guarded instruction that writes one scalar. -/
theorem gives_scalar {s : State} {e : Eng} (h : s.runs e = true) {g : BitVec 4} {d : BitVec 6} {c : Nat} {i : Instr}
    {v : Engine → Word} {w : Word} (hi : exec i s = coreOp s e (fun x => x.guard g) c (fun x => x.setS d (v x)))
    (hv : v (s.eng e) = w) :
    Gives i s (fun t => Continues e s t ∧ ScalarNext e d (if (s.eng e).guard g then w else (s.eng e).s d) c s t) := by
  obtain ⟨t, ht, hc, hn⟩ := scalarNext_coreOp h (fun x => x.guard g) c d v
  exact ⟨t, hi.trans ht, hc, hv ▸ hn⟩

/-- An instruction without a guard that writes one scalar. -/
theorem gives_scalar_always {s : State} {e : Eng} (h : s.runs e = true) {d : BitVec 6} {c : Nat} {i : Instr}
    {v : Engine → Word} {w : Word} (hi : exec i s = coreOp s e (fun _ => true) c (fun x => x.setS d (v x)))
    (hv : v (s.eng e) = w) : Gives i s (fun t => Continues e s t ∧ ScalarNext e d w c s t) := by
  obtain ⟨t, ht, hc, hn⟩ := scalarNext_coreOp h (fun _ => true) c d v
  exact ⟨t, hi.trans ht, hc, hv ▸ hn⟩

/-- A guarded instruction that writes one predicate. -/
theorem gives_pred {s : State} {e : Eng} (h : s.runs e = true) {g : BitVec 4} {d : BitVec 3} {c : Nat} {i : Instr}
    {v : Engine → Bool} {w : Bool} (hi : exec i s = coreOp s e (fun x => x.guard g) c (fun x => x.setP d (v x)))
    (hv : v (s.eng e) = w) :
    Gives i s (fun t => Continues e s t ∧ PredNext e d (if (s.eng e).guard g then w else (s.eng e).p d) c s t) := by
  obtain ⟨t, ht, hc, hn⟩ := predNext_coreOp h (fun x => x.guard g) c d v
  exact ⟨t, hi.trans ht, hc, hv ▸ hn⟩

/-- An instruction without a guard that writes one predicate. -/
theorem gives_pred_always {s : State} {e : Eng} (h : s.runs e = true) {d : BitVec 3} {c : Nat} {i : Instr}
    {v : Engine → Bool} {w : Bool} (hi : exec i s = coreOp s e (fun _ => true) c (fun x => x.setP d (v x)))
    (hv : v (s.eng e) = w) : Gives i s (fun t => Continues e s t ∧ PredNext e d w c s t) := by
  obtain ⟨t, ht, hc, hn⟩ := predNext_coreOp h (fun _ => true) c d v
  exact ⟨t, hi.trans ht, hc, hv ▸ hn⟩

/-- A register-form operation (Table 2.5). -/
theorem gives_alu {s : State} {e : Eng} (h : s.runs e = true) {g : BitVec 4} {d a b : BitVec 6} {i : Instr}
    (f : Word → Word → Word) {w : Word} (hi : exec i s = alu f e g d a b s) (hv : f ((s.eng e).s a) ((s.eng e).s b) = w) :
    Gives i s (fun t => Continues e s t ∧ ScalarNext e d (if (s.eng e).guard g then w else (s.eng e).s d) 1 s t) :=
  gives_scalar h hi hv

/-- An operation with an immediate (Table 2.6). -/
theorem gives_aluI {s : State} {e : Eng} (h : s.runs e = true) {d a : BitVec 6} {i : Instr} (f : Word → Word) {w : Word}
    (hi : exec i s = aluI f e d a s) (hv : f ((s.eng e).s a) = w) :
    Gives i s (fun t => Continues e s t ∧ ScalarNext e d w 1 s t) :=
  gives_scalar_always h hi hv

/-- A comparison of two scalars (Table 2.7). -/
theorem gives_cmpR {s : State} {e : Eng} (h : s.runs e = true) {g : BitVec 4} {pd : BitVec 3} {a b : BitVec 6} {i : Instr}
    (f : Word → Word → Bool) {w : Bool} (hi : exec i s = cmpR f e g pd a b s) (hv : f ((s.eng e).s a) ((s.eng e).s b) = w) :
    Gives i s (fun t => Continues e s t ∧ PredNext e pd (if (s.eng e).guard g then w else (s.eng e).p pd) 1 s t) :=
  gives_pred h hi hv

/-- A comparison with an immediate. -/
theorem gives_cmpI {s : State} {e : Eng} (h : s.runs e = true) {pd : BitVec 3} {a : BitVec 6} {imm : BitVec 34} {i : Instr}
    (f : Word → Word → Bool) {w : Bool} (hi : exec i s = cmpI f e pd a imm s) (hv : f ((s.eng e).s a) (immS imm) = w) :
    Gives i s (fun t => Continues e s t ∧ PredNext e pd w 1 s t) :=
  gives_pred_always h hi hv

/-- Predicate logic. -/
theorem gives_predOp {s : State} {e : Eng} (h : s.runs e = true) {pd pa pb : BitVec 3} {i : Instr} (f : Bool → Bool → Bool)
    {w : Bool} (hi : exec i s = predOp f e pd pa pb s) (hv : f ((s.eng e).p pa) ((s.eng e).p pb) = w) :
    Gives i s (fun t => Continues e s t ∧ PredNext e pd w 1 s t) :=
  gives_pred_always h hi hv

/-- Settles O2: each operation is one write of a scalar, with the value of Table 2.5. -/
theorem scalarRegisterOps : Obligations.ScalarRegisterOps := by
  unfold Obligations.ScalarRegisterOps
  intro e g d a b s h A B
  simp only [List.forall_mem_cons, List.not_mem_nil, false_implies, implies_true, and_true]
  exact ⟨gives_alu h (fun a b => a + b) rfl rfl, gives_alu h (fun a b => a - b) rfl rfl,
    gives_alu h (fun a b => a &&& b) rfl rfl, gives_alu h (fun a b => a ||| b) rfl rfl, gives_alu h (fun a b => a ^^^ b) rfl rfl,
    gives_alu h (fun a b => a <<< shAmt b) rfl rfl, gives_alu h (fun a b => a >>> shAmt b) rfl rfl,
    gives_alu h (fun a b => a.sshiftRight (shAmt b)) rfl rfl, gives_alu h (fun a b => a * b) rfl rfl,
    gives_alu h (fun a b => mulHigh a.toInt b.toInt) rfl rfl,
    gives_alu h (fun a b => mulHigh a.toNat b.toNat) rfl (mulHigh_toNat A B),
    gives_alu h minS rfl (minS_eq A B), gives_alu h maxS rfl (maxS_eq A B),
    gives_alu h minU rfl (minU_eq A B), gives_alu h maxU rfl (maxU_eq A B),
    gives_alu h (fun a b => BitVec.ofInt 64 (satS64 (a.toInt + b.toInt))) rfl (congrArg (BitVec.ofInt 64) (satS64_eq _)),
    gives_alu h (fun a b => BitVec.ofInt 64 (satS64 (a.toInt - b.toInt))) rfl (congrArg (BitVec.ofInt 64) (satS64_eq _)),
    gives_scalar h (v := fun x => BitVec.ofNat 64 (clzNat (x.s a).toNat 64)) rfl (clz_eq A),
    gives_scalar h (v := fun x => BitVec.ofNat 64 (popcNat (x.s a).toNat 64)) rfl (popc_eq A)⟩

/-! ### Bit fields (Table 2.6) -/

theorem maskW_toNat {n : Nat} (h : n ≤ 64) : (maskW n).toNat = 2 ^ n - 1 := by
  have hp : 2 ^ n ≤ 2 ^ 64 := Nat.pow_le_pow_right (by decide) h
  have h1 : 0 < 2 ^ n := by positivity
  rw [maskW, BitVec.toNat_ofNat, Nat.mod_eq_of_lt (by omega)]

/-- Bit `i` of the mask of the low `n` bits. -/
theorem getLsbD_maskW {n : Nat} (h : n ≤ 64) (i : Nat) : (maskW n).getLsbD i = decide (i < n) := by
  rw [← BitVec.testBit_toNat, maskW_toNat h, Nat.testBit_two_pow_sub_one]

/-- sethi keeps the low 34 bits of its source below its own 30. -/
theorem sethi_eq (a : Word) (h : BitVec 30) :
    (a &&& maskW 34) ||| (h.zeroExtend 64 <<< 34) = BitVec.ofNat 64 (a.toNat % 2 ^ 34 + h.toNat * 2 ^ 34) := by
  have hh := h.isLt
  apply BitVec.eq_of_toNat_eq
  have hlo : a.toNat % 2 ^ 34 < 2 ^ 34 := Nat.mod_lt _ (by decide)
  have hhi : (h.zeroExtend 64 <<< 34).toNat = h.toNat * 2 ^ 34 := by
    simp only [BitVec.toNat_shiftLeft, BitVec.toNat_setWidth, Nat.shiftLeft_eq]; omega
  rw [BitVec.toNat_or, BitVec.toNat_and, maskW_toNat (by decide), Nat.and_two_pow_sub_one_eq_mod, hhi, BitVec.toNat_ofNat,
    Nat.mod_eq_of_lt (by omega : a.toNat % 2 ^ 34 + h.toNat * 2 ^ 34 < 2 ^ 64), Nat.or_comm, Nat.mul_comm,
    ← Nat.two_pow_add_eq_or_of_lt hlo, Nat.add_comm]

/-- ext reads a field as a number. -/
theorem ext_eq (a : Word) (pos : Nat) {len : Nat} (h : len ≤ 64) :
    (a >>> pos) &&& maskW len = BitVec.ofNat 64 (a.toNat / 2 ^ pos % 2 ^ len) := by
  apply BitVec.eq_of_toNat_eq
  have hlt : a.toNat / 2 ^ pos % 2 ^ len < 2 ^ 64 :=
    lt_of_le_of_lt (Nat.mod_le _ _) (lt_of_le_of_lt (Nat.div_le_self _ _) a.isLt)
  rw [BitVec.toNat_and, maskW_toNat h, Nat.and_two_pow_sub_one_eq_mod, BitVec.toNat_ushiftRight, Nat.shiftRight_eq_div_pow,
    BitVec.toNat_ofNat, Nat.mod_eq_of_lt hlt]

/-- ins puts the low bits of one word into a field of another. -/
theorem getLsbD_ins (a d : Word) {pos len i : Nat} (h : pos + len ≤ 64) (hi : i < 64) :
    ((d &&& ~~~(maskW len <<< pos)) ||| ((a &&& maskW len) <<< pos)).getLsbD i =
      if pos ≤ i ∧ i < pos + len then a.getLsbD (i - pos) else d.getLsbD i := by
  have hmask (j : Nat) : (maskW len).getLsbD j = decide (j < len) := getLsbD_maskW (by omega) j
  simp only [BitVec.getLsbD_or, BitVec.getLsbD_and, BitVec.getLsbD_not, BitVec.getLsbD_shiftLeft, hmask, hi, decide_true,
    Bool.true_and]
  by_cases h1 : pos ≤ i
  · have hin : i - pos < len ↔ i < pos + len := by omega
    by_cases h2 : i < pos + len <;> simp [h1, h2, hin, show ¬ i < pos by omega]
  · simp [h1, show i < pos by omega]

/-- clamp limits a word to 0 and its unsigned immediate. -/
theorem clamp_eq (a : Word) (imm : BitVec 34) :
    BitVec.ofInt 64 (clampInt 0 (immU imm).toNat a.toInt) = BitVec.ofInt 64 (max 0 (min (imm.toNat : Int) a.toInt)) := by
  have himm : (immU imm).toNat = imm.toNat := by
    rw [immU, BitVec.toNat_setWidth, Nat.mod_eq_of_lt (lt_trans imm.isLt (by decide))]
  rw [clampInt_eq (Int.natCast_nonneg _), himm]

/-- Settles O3: each operation is one write of a scalar, with the value of Table 2.6. -/
theorem scalarImmediateOps : Obligations.ScalarImmediateOps := by
  unfold Obligations.ScalarImmediateOps
  intro e d a n pos len imm hi s h A D K
  simp only [List.forall_mem_cons, List.not_mem_nil, false_implies, implies_true, and_true]
  refine ⟨⟨gives_aluI h (fun a => a + immS imm) rfl rfl, gives_aluI h (fun a => a &&& immS imm) rfl rfl,
    gives_aluI h (fun a => a ||| immS imm) rfl rfl, gives_aluI h (fun a => a ^^^ immS imm) rfl rfl,
    gives_aluI h (fun a => a * immS imm) rfl rfl, gives_aluI h (fun a => minS a (immS imm)) rfl (minS_eq A K),
    gives_aluI h (fun a => maxS a (immS imm)) rfl (maxS_eq A K), gives_scalar_always h (v := fun _ => immS imm) rfl rfl,
    gives_aluI h (fun a => BitVec.ofInt 64 (clampInt 0 (immU imm).toNat a.toInt)) rfl (clamp_eq A imm),
    gives_aluI h (fun a => a <<< n.toNat) rfl rfl, gives_aluI h (fun a => a >>> n.toNat) rfl rfl,
    gives_aluI h (fun a => a.sshiftRight n.toNat) rfl rfl⟩,
    gives_aluI h (fun a => (a &&& maskW 34) ||| (hi.zeroExtend 64 <<< 34)) rfl (sethi_eq A hi), ?_, ?_⟩
  · intro h1 h64
    have hext : exec (.ext e d a pos len) s = aluI (fun a => (a >>> pos.toNat) &&& maskW len.toNat) e d a s :=
      if_pos (show (Instr.ext e d a pos len).wf = true by simp [Instr.wf, h1, h64])
    exact gives_aluI h _ hext (ext_eq A pos.toNat h64)
  · intro h1 h64
    have hlen : len.toNat ≤ 64 := le_trans (Nat.le_add_left _ _) h64
    have hins : exec (.ins e d a pos len) s = coreOp s e (fun _ => true) 1 (fun x => x.setS d
        ((x.s d &&& ~~~(maskW len.toNat <<< pos.toNat)) ||| ((x.s a &&& maskW len.toNat) <<< pos.toNat))) :=
      if_pos (show (Instr.ins e d a pos len).wf = true by simp [Instr.wf, h1, hlen, h64])
    obtain ⟨t, ht, hc, hn⟩ := gives_scalar_always h hins rfl
    exact ⟨t, ht, hc, _, hn, fun i hi => getLsbD_ins A D h64 hi⟩

/-! ### Comparisons and predicates (Table 2.7) -/

theorem cmpLt_eq (a b : Word) : cmpLt a b = decide (a.toInt < b.toInt) := BitVec.slt_eq_decide
theorem cmpLe_eq (a b : Word) : cmpLe a b = decide (a.toInt ≤ b.toInt) := BitVec.sle_eq_decide
theorem bne_word_eq (a b : Word) : (a != b) = decide (a ≠ b) := by by_cases h : a = b <;> simp [h]

/-- Settles O4: each instruction is one write of a predicate, with the value of Table 2.7. -/
theorem predicateOps : Obligations.PredicateOps := by
  unfold Obligations.PredicateOps
  intro e g pd pa pb a b imm v s h A B K P Q
  simp only [List.forall_mem_cons, List.not_mem_nil, false_implies, implies_true, and_true]
  exact ⟨⟨gives_cmpR h (fun a b => a == b) rfl rfl, gives_cmpR h (fun a b => a != b) rfl (bne_word_eq A B),
    gives_cmpR h cmpLt rfl (cmpLt_eq A B), gives_cmpR h cmpLtu rfl rfl, gives_cmpR h cmpLe rfl (cmpLe_eq A B),
    gives_cmpR h cmpLeu rfl rfl⟩,
    gives_cmpI h (fun a b => a == b) rfl rfl, gives_cmpI h (fun a b => a != b) rfl (bne_word_eq A K),
    gives_cmpI h cmpLt rfl (cmpLt_eq A K), gives_cmpI h cmpLtu rfl rfl, gives_cmpI h cmpLe rfl (cmpLe_eq A K),
    gives_cmpI h cmpLeu rfl rfl, gives_predOp h (fun a b => a && b) rfl rfl, gives_predOp h (fun a b => a || b) rfl rfl,
    gives_predOp h (fun a b => a ^^ b) rfl rfl, gives_predOp h (fun a b => a && !b) rfl rfl,
    gives_pred_always h (v := fun _ => v) rfl rfl⟩

/-! ### Special registers (Table 2.8) -/

/-- A loop's index, outermost first; 0 for a level that is not open. -/
theorem special_loop (s : State) (e k : Nat) :
    s.special e (7 + k) = BitVec.ofNat 64 (((s.eng e).loops.reverse[k]?.map (·.idx)).getD 0) := by
  have hspec : s.special e (7 + k) = match (s.eng e).loops.reverse[7 + k - 7]? with
      | some f => BitVec.ofNat 64 f.idx
      | none => 0 := by
    rw [Nat.add_comm]; rfl
  rw [hspec, Nat.add_sub_cancel_left]
  cases (s.eng e).loops.reverse[k]? <;> rfl

/-- rd of a selector that is defined (R41) reads its special register. -/
theorem gives_rd {s : State} {e : Eng} (h : s.runs e = true) {d : BitVec 6} {sel : BitVec 8} {n : Nat} {w : Word}
    (hw : s.special e n = w) (hn : n ≤ 10) (hsel : sel.toNat = n) :
    Gives (.rd e d sel) s (fun t => Continues e s t ∧ ScalarNext e d w 1 s t) := by
  subst hsel
  have hrd : exec (.rd e d sel) s = coreOp s e (fun _ => true) 1 (fun x => x.setS d (s.special e sel.toNat)) :=
    if_pos (show (Instr.rd e d sel).wf = true from decide_eq_true hn)
  exact gives_scalar_always h hrd hw

/-- Settles O5: rd is one write of a scalar; nop is a core instruction without an effect of its own. -/
theorem specialRegisters : Obligations.SpecialRegisters := by
  unfold Obligations.SpecialRegisters
  intro e d sel s h x
  simp only [List.forall_mem_cons, List.not_mem_nil, false_implies, implies_true, and_true]
  refine ⟨⟨gives_rd h rfl (by decide), gives_rd h rfl (by decide), gives_rd h rfl (by decide), gives_rd h rfl (by decide),
    gives_rd h rfl (by decide), gives_rd h rfl (by decide), gives_rd h rfl (by decide),
    gives_rd h (special_loop s e 0) (by decide), gives_rd h (special_loop s e 1) (by decide),
    gives_rd h (special_loop s e 2) (by decide), gives_rd h (special_loop s e 3) (by decide)⟩, ?_⟩
  obtain ⟨t, ht, hc, hn⟩ := scalarNext_coreOp h (fun _ => false) 1 d (fun x => x.s d)
  refine ⟨t, ?_, hc, hn⟩
  have hnop : exec (.nop e) s = coreOp s e (fun _ => true) 1 id := rfl
  rw [hnop, coreOp_runs h, ← ht, coreOp_runs h]; rfl

end Sys2Proof.Machine
end

section
/-! SUPPORT. Counters and flags of the register store, bounded control, scratch and the issue of instructions that may have
to wait (2.3). -/

namespace Sys2Proof.Machine

/-! ### Counters -/

theorem rf_bump (s : State) (f g : Fld) (n : Nat) (h : g.key ≠ f.key) : (s.bump f n).rf g = s.rf g :=
  State.rf_setrf _ _ _ _ h

@[simp] theorem rf_bump_self (s : State) (f : Fld) (n : Nat) : (s.bump f n).rf f = min (s.rf f + n) (2 ^ f.width - 1) := by
  have h : 0 < 2 ^ f.width := by positivity
  rw [State.bump, State.rf_setrf_self, Nat.mod_eq_of_lt]
  omega

@[simp] theorem bump_eng (s : State) (f : Fld) (n k : Nat) : (s.bump f n).eng k = s.eng k := rfl

/-! ### Bounded control (R43) -/

theorem Engine.goto_goes (x : Engine) (pc : Nat) : ((x.goto pc).pc, (x.goto pc).loops) = loopNext pc x.loops := rfl

theorem Engine.enterLoop_run (x : Engine) (n len : Nat) : (x.enterLoop n len).run = x.run + 2 := by
  unfold Engine.enterLoop; dsimp only; split <;> rfl

/-- Entering a loop changes the run cycles and the place in the program alone. -/
theorem Engine.enterLoop_frame (x : Engine) (n len : Nat) :
    { x.enterLoop n len with pc := x.pc, loops := x.loops, run := x.run } = x := by
  unfold Engine.enterLoop; dsimp only; split <;> rfl

theorem Engine.enterLoop_preds (x : Engine) (n len : Nat) : (x.enterLoop n len).preds = x.preds := by
  unfold Engine.enterLoop; dsimp only; split <;> rfl

theorem Engine.enterLoop_goes (x : Engine) (n len : Nat) : ((x.enterLoop n len).pc, (x.enterLoop n len).loops) =
    if n = 0 ∨ len = 0 then loopNext (x.pc + 1 + len) x.loops else (x.pc + 1, ⟨x.pc + 1, len, n, 0⟩ :: x.loops) := by
  unfold Engine.enterLoop; dsimp only; split <;> rfl

theorem Engine.setP_frame (x : Engine) (r : BitVec 3) (v : Bool) : { x.setP r v with preds := x.preds } = x := by
  unfold Engine.setP; split <;> rfl

/-- loopr's loop: what it does to the engine beside its predicate. -/
theorem Engine.setP_enterLoop_frame (x : Engine) (r : BitVec 3) (v : Bool) (n len : Nat) :
    { (x.setP r v).enterLoop n len with preds := x.preds, pc := x.pc, loops := x.loops, run := x.run } = x := by
  have h := Engine.enterLoop_frame (x.setP r v) n len
  rw [Engine.setP_pc, Engine.setP_loops, Engine.setP_run] at h
  calc { (x.setP r v).enterLoop n len with preds := x.preds, pc := x.pc, loops := x.loops, run := x.run }
      = { ({ (x.setP r v).enterLoop n len with pc := x.pc, loops := x.loops, run := x.run } : Engine) with preds := x.preds } := rfl
    _ = { x.setP r v with preds := x.preds } := by rw [h]
    _ = x := Engine.setP_frame x r v

theorem exec_br {s : State} {e : Eng} (h : s.runs e = true) (g : BitVec 4) {off : BitVec 14} (hoff : 1 ≤ off.toNat) :
    exec (.br e g off) s = .next (s.setEng e ({ s.eng e with run := (s.eng e).run + 1 }.goto
      (if (s.eng e).guard g then (s.eng e).pc + off.toNat else (s.eng e).pc + 1))) := by
  have hwf : (Instr.br e g off).wf = true := decide_eq_true hoff
  have hexec : exec (.br e g off) s = execBr e g off s := rfl
  rw [hexec, execBr, if_pos hwf, if_pos h]; rfl

theorem exec_loop {s : State} {e : Eng} (h : s.runs e = true) (n : BitVec 20) (len : BitVec 14) :
    exec (.loop e n len) s = .next (s.setEng e ((s.eng e).enterLoop n.toNat len.toNat)) :=
  congrArg Host.Outcome.next (if_pos h)

/-- loopr with its count: the state whose engine enters the loop. -/
theorem exec_loopr {s : State} {e : Eng} (h : s.runs e = true) (pd : BitVec 3) (a : BitVec 6) (m : BitVec 20) (len : BitVec 14) :
    exec (.loopr e pd a m len) s =
      .next ((if m.toNat < ((s.eng e).s a).toNat then s.bump (Rf.ENG_CLAMP_CLAMP_CNT e) else s).setEng e
        (((s.eng e).setP pd (decide (m.toNat < ((s.eng e).s a).toNat))).enterLoop (min ((s.eng e).s a).toNat m.toNat) len.toNat)) := by
  have hexec : exec (.loopr e pd a m len) s = execLoopr e pd a m len s := rfl
  rw [hexec, execLoopr, if_pos h]
  simp only [decide_eq_true_eq]

theorem toNat_eq_zero_iff {w : Nat} (v : BitVec w) : v.toNat = 0 ↔ v = 0 :=
  ⟨fun h => BitVec.eq_of_toNat_eq (by simpa using h), fun h => by simp [h]⟩

/-- Settles O6. -/
theorem branchesAndLoops : Obligations.BranchesAndLoops := by
  unfold Obligations.BranchesAndLoops
  intro e g off len n pd a s h x at'
  refine ⟨fun hoff => ⟨_, exec_br h g hoff, onlyEngine_setEng s e _, ?_⟩, ⟨_, exec_loop h n len, onlyEngine_setEng s e _, ?_⟩,
    ⟨_, exec_loopr h pd a n len, ?_⟩, ?_⟩
  · simp only [State.setEng_get_eng, if_true, at']
    exact ⟨rfl, rfl, Engine.goto_goes _ _⟩
  · simp only [State.setEng_get_eng, if_true, at']
    refine ⟨Engine.enterLoop_frame _ _ _, Engine.enterLoop_run _ _ _, ?_⟩
    rw [Engine.enterLoop_goes]; simp only [toNat_eq_zero_iff]; rfl
  · have hengs : ∀ k, (if n.toNat < ((s.eng e).s a).toNat then s.bump (Rf.ENG_CLAMP_CLAMP_CNT e) else s).eng k = s.eng k := by
      intro k; split <;> rfl
    simp only [State.setEng_get_eng, if_true, at', State.setEng_get_rf, hengs]
    refine ⟨by rw [Engine.enterLoop_run, Engine.setP_run], ?_, Engine.setP_enterLoop_frame _ _ _ _ _, ?_, ?_, ?_, ?_, ?_⟩
    · intro r
      rw [← Engine.p_setP, Engine.p, Engine.enterLoop_preds]; rfl
    · rw [Engine.enterLoop_goes, Engine.setP_pc, Engine.setP_loops]; simp only [toNat_eq_zero_iff]; rfl
    · intro f hf; split
      · exact rf_bump _ _ _ _ hf
      · rfl
    · simp only [decide_eq_true_eq]; split
      · exact rf_bump_self _ _ _
      · rfl
    · split <;> rfl
    · exact fun k hk => if_neg hk
  · intro pc f fs
    refine ⟨rfl, fun h => ?_, fun h hlt => ?_, fun h hle => ?_⟩
    · rw [loopNext, if_neg h]
    · rw [loopNext, if_pos h, if_pos hlt]
    · rw [loopNext, if_pos h, if_neg (Nat.not_lt.2 hle)]

end Sys2Proof.Machine
end

section
/-! SUPPORT. The instructions of the engine that may have to wait (2.3.2): how one is issued, held or performed, and what lds and
sts do to scratch. -/

namespace Sys2Proof.Machine

/-! ### Issue -/

theorem issueOp_of_waits {s : State} {e : Eng} {i : Instr} {st : Nat} (h : s.runs e = true) (hw : s.waits e i = some st) :
    issueOp s e i = .next (s.stall e i st) := by
  rw [issueOp, when', if_pos h, State.issue, hw]

theorem issueOp_of_free {s : State} {e : Eng} {i : Instr} (h : s.runs e = true) (hw : s.waits e i = none) :
    issueOp s e i = .next (s.perform e i) := by
  rw [issueOp, when', if_pos h, State.issue, hw]

/-- The command of a well-formed instruction that may have to wait is its issue. -/
theorem exec_of_issuer {i : Instr} {e : Eng} (s : State) (hi : i.issuer = some e) (hwf : i.wf = true) :
    exec i s = issueOp s e i := by
  cases i
  case lds | sts | hld | hst | push | pushr | fence | wtick | aclr | tld | hclr | hput | fmrg | cgat | vadd | vsub | vmul
    | vmin | vmax | vabsd | vaddk | vmulk | vclamp | vcvt | vsel | vcmp | mapc | k1d | k2d | rs | flat | dpr | cmat
    | morph | lbl | feat | stat | crc | pred | upred | gsel | gput | gdec =>
    cases hi; rfl
  case ard | lut | luti | k1v | xmrg | scor | thr | hist => cases hi; exact if_pos hwf
  all_goals cases hi

/-- The states a waiting engine shows. -/
theorem waits_le_five {s : State} {e st : Nat} {i : Instr} (h : s.waits e i = some st) : st ≤ 5 := by
  unfold State.waits at h
  dsimp only at h
  split at h
  all_goals repeat' split at h
  all_goals simp only [Option.some.injEq, reduceCtorEq] at h
  all_goals omega

/-- An instruction that is held: the state it stalls in is shown, and nothing else has changed (R46 to R50). -/
theorem stall_frame (s : State) (e : Nat) (i : Instr) {st : Nat} (hst : st ≤ 5) :
    ((s.stall e i st).eng e).stalled = some i ∧ (s.stall e i st).rf (Rf.ENG_STATUS_STATE e) = st ∧
      { (s.stall e i st).eng e with stalled := (s.eng e).stalled, stallAt := (s.eng e).stallAt } = s.eng e ∧
      (∀ k, k ≠ e → (s.stall e i st).eng k = s.eng k) ∧ { s.stall e i st with engines := s.engines, regs := s.regs } = s ∧
      ∀ f, f.key ≠ (Rf.ENG_STATUS_STATE e).key → (s.stall e i st).rf f = s.rf f := by
  have hself : (s.stall e i st).eng e = { s.eng e with stalled := some i, stallAt := s.count } := by
    rw [State.stall, State.setrf_get_eng, State.setEng_get_eng, if_pos rfl]
  have hwidth : 2 ^ (Rf.ENG_STATUS_STATE e).width = 16 := rfl
  refine ⟨by rw [hself], ?_, by rw [hself], fun k hk => ?_, rfl, fun f hf => State.rf_setrf _ _ _ _ hf⟩
  · rw [State.stall, State.rf_setrf_self, hwidth, Nat.mod_eq_of_lt (by omega)]
  · rw [State.stall, State.setrf_get_eng, State.setEng_get_eng, if_neg hk]

/-! ### ldw (R49) -/

theorem exec_ldw {s : State} {e : Eng} (h : s.runs e = true) (dd : BitVec 4) (a : BitVec 6) :
    exec (.ldw e dd a) s = .next ((s.setEng e ((s.eng e).noteLdw dd ((s.eng e).s a).toNat)).issue e (.ldw e dd a)) :=
  congrArg Host.Outcome.next (if_pos h)

/-- Noting an ldw leaves the engine as it was but for the note (R171). -/
theorem Engine.noteLdw_frame (x : Engine) (dd : BitVec 4) (g : Nat) : { x.noteLdw dd g with ldws := x.ldws } = x := by
  unfold Engine.noteLdw; dsimp only; split <;> rfl

theorem Engine.noteLdw_eq (x : Engine) (dd : BitVec 4) (g : Nat) : ∃ l, x.noteLdw dd g = { x with ldws := l } := by
  unfold Engine.noteLdw; dsimp only; split
  · exact ⟨x.ldws, rfl⟩
  · exact ⟨_, rfl⟩

/-- What an ldw waits for does not depend on the notes of the ldws issued. -/
theorem waits_ldw_noted {s : State} {e : Nat} {l : List (Nat × List (Nat × Nat))} (i : Eng) (dd : BitVec 4) (a : BitVec 6) :
    (s.setEng e { s.eng e with ldws := l }).waits e (.ldw i dd a) =
      if s.groupIn e dd ((s.eng e).s a).toNat then none else some 3 := by
  have hwaits (t : State) : t.waits e (.ldw i dd a) = if t.groupIn e dd ((t.eng e).s a).toNat then none else some 3 := rfl
  have heng : (s.setEng e { s.eng e with ldws := l }).eng e = { s.eng e with ldws := l } := by
    rw [State.setEng_get_eng, if_pos rfl]
  have hs : ((s.setEng e { s.eng e with ldws := l }).eng e).s a = (s.eng e).s a := by rw [heng]; rfl
  have hin (g : Nat) : (s.setEng e { s.eng e with ldws := l }).groupIn e dd g = s.groupIn e dd g := by
    simp only [State.groupIn, State.loadCnt, State.loadFld, State.imgWord, heng, State.setEng_get_bit]
  rw [hwaits, hs, hin]

/-- Settles O10. -/
theorem stalledInstructions : Obligations.StalledInstructions := by
  unfold Obligations.StalledInstructions
  refine ⟨fun e dd a s h hout => ⟨_, exec_ldw h dd a, ?_⟩, fun i e st s hi hwf h hw => ?_⟩
  · obtain ⟨l, hl⟩ := Engine.noteLdw_eq (s.eng e) dd ((s.eng e).s a).toNat
    have hwaits := waits_ldw_noted (s := s) (e := e) (l := l) e dd a
    rw [if_neg (by simp [hout])] at hwaits
    rw [hl, State.issue, hwaits]
    obtain ⟨hstalled, hstate, hself, hothers, hrest, hfields⟩ :=
      stall_frame (s.setEng e { s.eng e with ldws := l }) e (.ldw e dd a) (st := 3) (by decide)
    rw [State.setEng_get_eng, if_pos rfl] at hself
    refine ⟨hstalled, hstate, ?_, fun k hk => ?_, rfl, fun f hf => hfields f (hf _ (List.mem_singleton_self _))⟩
    · exact congrArg (fun x : Engine => { x with ldws := (s.eng e).ldws }) hself
    · rw [hothers k hk, State.setEng_get_eng, if_neg hk]
  · exact ⟨_, (exec_of_issuer s hi hwf).trans (issueOp_of_waits h hw), stall_frame s e i (waits_le_five hw)⟩

/-! ### Performing an instruction -/

@[simp] theorem coreStep_eng (s : State) (e c : Nat) (on : Bool) (f : Engine → Engine) (k : Nat) :
    (s.coreStep e c on f).eng k = if k = e then (if on then f (s.eng e) else s.eng e).retire c else s.eng k :=
  State.setEng_get_eng _ _ _ _

@[simp] theorem coreStep_rf (s : State) (e c : Nat) (on : Bool) (f : Engine → Engine) (g : Fld) :
    (s.coreStep e c on f).rf g = s.rf g := rfl

theorem coreStep_continues (s : State) (e c : Nat) (on : Bool) (f : Engine → Engine) (hpc : (f (s.eng e)).pc = (s.eng e).pc)
    (hloops : (f (s.eng e)).loops = (s.eng e).loops) : Continues e s (s.coreStep e c on f) := by
  rw [Continues, coreStep_eng, if_pos rfl, Engine.retire_goes]
  cases on
  · rfl
  · rw [if_pos rfl, hpc, hloops]

/-- An instruction that only retires has no effect but its charge. -/
theorem noEffect_coreStep (s : State) (e c : Nat) : NoEffect e c s (s.coreStep e c false id) := by
  refine ⟨onlyEngine_setEng s e _, coreStep_continues s e c false id rfl rfl, ?_, ?_⟩ <;>
    rw [coreStep_eng, if_pos rfl] <;> rfl

theorem coreStep_off (s : State) (e c : Nat) (f : Engine → Engine) : s.coreStep e c false f = s.coreStep e c false id := rfl

theorem Engine.setS_frame (x : Engine) (r : BitVec 6) (v : Word) : { x.setS r v with sregs := x.sregs } = x := by
  unfold Engine.setS; split <;> rfl

@[simp] theorem Engine.setS_scratch (x : Engine) (r : BitVec 6) (v : Word) : (x.setS r v).scratch = x.scratch := by
  unfold Engine.setS; split <;> rfl

/-- A write of 0 reads 0 also of s0. -/
theorem Engine.s_setS_zero (x : Engine) (r q : BitVec 6) : (x.setS r 0).s q = if q = r then 0 else x.s q := by
  rw [Engine.s_setS]
  by_cases hq : q = r
  · subst hq
    by_cases h0 : q = 0
    · subst h0; rfl
    · rw [if_pos ⟨rfl, h0⟩, if_pos rfl]
  · rw [if_neg hq, if_neg (fun h => hq h.1)]

theorem Engine.setS_retire_frame (x : Engine) (r : BitVec 6) (v : Word) (c : Nat) :
    { (x.setS r v).retire c with sregs := x.sregs, pc := x.pc, loops := x.loops, run := x.run } = x := by
  unfold Engine.setS; split <;> rfl

/-- A performed instruction that writes one scalar. -/
theorem scalarNext_coreStep (s : State) (e c : Nat) (on : Bool) (d : BitVec 6) (v : Word) :
    Continues e s (s.coreStep e c on (fun x => x.setS d v)) ∧
      ScalarNext e d (if on then v else (s.eng e).s d) c s (s.coreStep e c on (fun x => x.setS d v)) := by
  refine ⟨coreStep_continues _ _ _ _ _ (Engine.setS_pc _ _ _) (Engine.setS_loops _ _ _), onlyEngine_setEng s e _, ?_, ?_, ?_⟩
  · rw [coreStep_eng, if_pos rfl]; cases on <;> simp
  · intro r
    rw [coreStep_eng, if_pos rfl]
    cases on
    · simp only [Bool.false_eq_true, if_false, Engine.retire_s]
      split
      · next hr => rw [hr.1]
      · rfl
    · simp only [if_true, Engine.retire_s, Engine.s_setS]
  · rw [coreStep_eng, if_pos rfl]
    cases on
    · rfl
    · exact Engine.setS_retire_frame (s.eng e) d v c

/-! ### Bytes of scratch -/

theorem readLE_lt (m : List Host.Cell) (a n : Nat) : readLE m a n < 256 ^ n := by
  induction n generalizing a with
  | zero => simp [readLE]
  | succ n ih =>
    have hb := (look (fun _ => (0 : Byte)) m a).isLt
    have hr := ih (a + 1)
    rw [readLE, Nat.pow_succ]
    omega

/-- Byte `i` of a number read from memory is the byte at that place. -/
theorem readLE_byte (m : List Host.Cell) (a : Nat) {n i : Nat} (h : i < n) :
    readLE m a n / 256 ^ i % 256 = (look (fun _ => (0 : Byte)) m (a + i)).toNat := by
  induction n generalizing a i with
  | zero => omega
  | succ n ih =>
    have hb := (look (fun _ => (0 : Byte)) m a).isLt
    rw [readLE]
    cases i with
    | zero => simp only [Nat.pow_zero, Nat.div_one, Nat.add_zero]; omega
    | succ i =>
      have hdiv : ((look (fun _ => (0 : Byte)) m a).toNat + 256 * readLE m (a + 1) n) / 256 = readLE m (a + 1) n := by omega
      rw [Nat.pow_succ', ← Nat.div_div_eq_div_mul, hdiv, ih (a + 1) (Nat.lt_of_succ_lt_succ h), Nat.add_assoc, Nat.add_comm 1]

theorem byteOf_readLE (m : List Host.Cell) (a : Nat) {i : Nat} (h : i < 8) :
    byteOf (BitVec.ofNat 64 (readLE m a 8)) i = look (fun _ => (0 : Byte)) m (a + i) := by
  have hlt : readLE m a 8 < 2 ^ 64 := readLE_lt m a 8
  apply BitVec.eq_of_toNat_eq
  rw [byteOf, BitVec.toNat_ofNat, BitVec.toNat_ofNat, Nat.mod_eq_of_lt hlt]
  exact readLE_byte m a h

/-- The address of lds and sts wraps modulo 2^64 (R47). -/
theorem scrAddr_eq (a : Word) (off : BitVec 24) : scrAddr a off = (a.toNat + off.toNat) % 2 ^ 64 / 8 * 8 := by
  have hoff : (off.zeroExtend 64).toNat = off.toNat := by
    rw [BitVec.toNat_setWidth, Nat.mod_eq_of_lt (lt_trans off.isLt (by decide))]
  rw [scrAddr, BitVec.toNat_add, hoff]

/-! ### lds and sts (R47) -/

theorem waits_lds_off {s : State} {e : Nat} {g : BitVec 4} (hg : (s.eng e).guard g = false) (i : Eng) (d a : BitVec 6)
    (off : BitVec 24) : s.waits e (.lds i g d a off) = none :=
  if_neg (by simp [hg])

theorem waits_sts_off {s : State} {e : Nat} {g : BitVec 4} (hg : (s.eng e).guard g = false) (i : Eng) (b a : BitVec 6)
    (off : BitVec 24) : s.waits e (.sts i g b a off) = none :=
  if_neg (by simp [hg])

theorem exec_lds {s : State} {e : Eng} {g : BitVec 4} {d a : BitVec 6} {off : BitVec 24} (h : s.runs e = true)
    (hw : s.waits e (.lds e g d a off) = none) : exec (.lds e g d a off) s =
      .next (if (s.eng e).guard g then s.doLds e d a off else s.coreStep e 2 false id) :=
  (exec_of_issuer s rfl rfl).trans (issueOp_of_free h hw)

theorem exec_sts {s : State} {e : Eng} {g : BitVec 4} {b a : BitVec 6} {off : BitVec 24} (h : s.runs e = true)
    (hw : s.waits e (.sts e g b a off) = none) : exec (.sts e g b a off) s =
      .next (if (s.eng e).guard g then s.doSts e b a off else s.coreStep e 2 false id) :=
  (exec_of_issuer s rfl rfl).trans (issueOp_of_free h hw)

theorem doLds_of_inside {s : State} {e : Nat} {a : BitVec 6} {off : BitVec 24} (d : BitVec 6)
    (h : scrAddr ((s.eng e).s a) off < scratchSize) : s.doLds e d a off =
      s.coreStep e 2 true (fun x => x.setS d (BitVec.ofNat 64 (readLE (s.eng e).scratch (scrAddr ((s.eng e).s a) off) 8))) := by
  rw [State.doLds]
  simp only [if_neg (Nat.not_le.2 h), State.coreStep, scrRead, if_pos h]

theorem doLds_of_outside {s : State} {e : Nat} {a : BitVec 6} {off : BitVec 24} (d : BitVec 6)
    (h : scratchSize ≤ scrAddr ((s.eng e).s a) off) : s.doLds e d a off =
      (s.bump (Rf.ENG_CLAMP_SCR_VIOL e)).coreStep e 2 true (fun x => x.setS d 0) := by
  rw [State.doLds]
  simp only [if_pos h, State.coreStep, scrRead, if_neg (Nat.not_lt.2 h)]; rfl

theorem doSts_of_open {s : State} {e : Nat} {a : BitVec 6} {off : BitVec 24} (b : BitVec 6)
    (h : scrAddr ((s.eng e).s a) off < scratchSize) (hc : s.inConst e (scrAddr ((s.eng e).s a) off) = false) :
    s.doSts e b a off = s.coreStep e 2 true (fun x =>
      { x with scratch := writeLE x.scratch (scrAddr ((s.eng e).s a) off) ((s.eng e).s b).toNat 8 }) := by
  rw [State.doSts]
  simp only [hc, Bool.or_false, decide_eq_true_eq, if_neg (Nat.not_le.2 h), State.coreStep]

theorem doSts_of_violation {s : State} {e : Nat} {a : BitVec 6} {off : BitVec 24} (b : BitVec 6)
    (h : scratchSize ≤ scrAddr ((s.eng e).s a) off ∨ s.inConst e (scrAddr ((s.eng e).s a) off) = true) :
    s.doSts e b a off = (s.bump (Rf.ENG_CLAMP_SCR_VIOL e)).coreStep e 2 true id := by
  rw [State.doSts]
  exact if_pos (by simpa using h)

/-- The bytes a store of eight bytes leaves. -/
theorem scrByte_writeLE (x : Engine) (ad : Nat) (v : Word) (k : Nat) :
    scrByte { x with scratch := writeLE x.scratch ad v.toNat 8 } k =
      if ad ≤ k ∧ k < ad + 8 then byteOf v (k - ad) else scrByte x k :=
  look_writeLE _ _ _ _ _

/-- Settles O9. -/
theorem scratchAccesses : Obligations.ScratchAccesses := by
  unfold Obligations.ScratchAccesses
  refine ⟨fun e g d a off s h hw => ?_, fun e g b a off s h => ⟨fun hg => ?_, fun hw hg => ?_⟩⟩
  · intro x ad v
    have had : ad = scrAddr (x.s a) off := (scrAddr_eq _ _).symm
    clear_value ad; subst had
    refine ⟨fun hg hin => ⟨_, exec_lds h hw, ?_⟩, fun hg hout => ⟨_, exec_lds h hw, ?_⟩, fun hg => ⟨_, exec_lds h hw, ?_⟩⟩
    · rw [if_pos hg, doLds_of_inside d hin]
      obtain ⟨hc, hn⟩ := scalarNext_coreStep s e 2 true d
        (BitVec.ofNat 64 (readLE (s.eng e).scratch (scrAddr ((s.eng e).s a) off) 8))
      exact ⟨hc, _, hn, fun i hi => byteOf_readLE _ _ hi⟩
    · rw [if_pos hg, doLds_of_outside d hout]
      refine ⟨fun r => ?_, ?_, rf_bump_self _ _ _, fun f hf => rf_bump _ _ _ _ hf, rfl⟩
      · rw [coreStep_eng, if_pos rfl, if_pos rfl, Engine.retire_s, Engine.s_setS_zero]; rfl
      · rw [coreStep_eng, if_pos rfl]
        exact Engine.setS_scratch (s.eng e) d 0
    · rw [if_neg (Bool.eq_false_iff.1 hg), coreStep_off s e 2 (fun x => x.setS d ((s.eng e).s d)) |>.symm]
      exact scalarNext_coreStep s e 2 false d ((s.eng e).s d)
  · exact ⟨_, exec_sts h (waits_sts_off hg _ _ _ _), by rw [if_neg (Bool.eq_false_iff.1 hg)]; exact noEffect_coreStep s e 2⟩
  · intro x ad v
    have had : ad = scrAddr (x.s a) off := (scrAddr_eq _ _).symm
    clear_value ad; subst had
    refine ⟨fun hin hc => ⟨_, exec_sts h hw, ?_⟩, fun hviol => ⟨_, exec_sts h hw, ?_⟩⟩
    · rw [if_pos hg, doSts_of_open b hin hc]
      refine ⟨onlyEngine_setEng s e _, coreStep_continues _ _ _ _ _ rfl rfl, ?_, fun k => ?_, ?_⟩ <;>
        rw [coreStep_eng, if_pos rfl]
      · rfl
      · exact scrByte_writeLE (s.eng e) _ _ k
      · rfl
    · rw [if_pos hg, doSts_of_violation b hviol]
      refine ⟨rf_bump_self _ _ _, fun f hf => rf_bump _ _ _ _ hf, ?_, rfl⟩
      rw [coreStep_eng, if_pos rfl]; rfl

end Sys2Proof.Machine
end

section
/-! SUPPORT. What hld, hst and ldw do when they are issued (R48, R49). -/

namespace Sys2Proof.Machine

/-! ### Copies -/

theorem exec_hld {s : State} {e : Eng} {g dd da : BitVec 4} {rows : BitVec 12} (h : s.runs e = true)
    (hw : s.waits e (.hld e g dd da rows) = none) :
    exec (.hld e g dd da rows) s = .next (s.issueCopy e .hld ((s.eng e).guard g) dd da rows) :=
  (exec_of_issuer s rfl rfl).trans (issueOp_of_free h hw)

theorem exec_hst {s : State} {e : Eng} {g dd da : BitVec 4} {rows : BitVec 12} (h : s.runs e = true)
    (hw : s.waits e (.hst e g dd da rows) = none) :
    exec (.hst e g dd da rows) s = .next (s.issueCopy e .hst ((s.eng e).guard g) dd da rows) :=
  (exec_of_issuer s rfl rfl).trans (issueOp_of_free h hw)

theorem waits_hld_off {s : State} {e : Nat} {g : BitVec 4} (hg : (s.eng e).guard g = false) (i : Eng) (dd da : BitVec 4)
    (rows : BitVec 12) : s.waits e (.hld i g dd da rows) = none := by
  have hw : s.waits e (.hld i g dd da rows) = if (s.eng e).guard g && (mkCopy (s.eng e) .hld dd da rows []).okKind &&
      (s.eng e).leaving (mkCopy (s.eng e) .hld dd da rows []).scratchSet then some 5 else none := rfl
  rw [hw, hg]; rfl

theorem waits_hst_off {s : State} {e : Nat} {g : BitVec 4} (hg : (s.eng e).guard g = false) (i : Eng) (dd da : BitVec 4)
    (rows : BitVec 12) : s.waits e (.hst i g dd da rows) = none := by
  have hw : s.waits e (.hst i g dd da rows) = if (s.eng e).guard g && (mkCopy (s.eng e) .hst dd da rows []).okKind &&
      (s.eng e).arriving (mkCopy (s.eng e) .hst dd da rows []).scratchSet then some 5 else none := rfl
  rw [hw, hg]; rfl

/-- A run's length in bytes rounded up to 8. -/
theorem copyBytesOf_eq (d : Desc) : copyBytesOf d = ((d.len + 1) * fmtBits d.fmt + 63) / 64 * 8 := by
  rw [copyBytesOf, roundUp, runBytes, ceilDiv]
  omega

theorem issueCopy_off (s : State) (e : Nat) (k : CopyKind) (d a : BitVec 4) (rows : BitVec 12) :
    s.issueCopy e k false d a rows = s.coreStep e 4 false id := rfl

/-- A copy whose operands are in order is listed behind the others. -/
theorem issueCopy_of_ok {s : State} {e : Nat} {k : CopyKind} {d a : BitVec 4} {rows : BitVec 12}
    (h : (mkCopy (s.eng e) k d a rows []).okKind = true) : ∃ l, s.issueCopy e k true d a rows =
      s.coreStep e 4 true (fun x => { x with copies := x.copies ++ [mkCopy (s.eng e) k d a rows l], nextSeq := x.nextSeq + 1 }) := by
  constructor
  rw [State.issueCopy]
  dsimp only
  rw [if_pos h]
  rfl

theorem issueCopy_of_violation {s : State} {e : Nat} {k : CopyKind} {d a : BitVec 4} {rows : BitVec 12}
    (h : (mkCopy (s.eng e) k d a rows []).okKind = false) :
    s.issueCopy e k true d a rows = (s.coreStep e 4 true id).bump (Rf.ENG_CLAMP_SCR_VIOL e) := by
  rw [State.issueCopy]
  dsimp only
  rw [if_neg (Bool.eq_false_iff.1 h)]
  rfl

/-- What the statement of a copy's issue says, for one of the two instructions. -/
theorem gives_copy {s : State} {e : Eng} {g dd da : BitVec 4} {rows : BitVec 12} {i : Instr} {k : CopyKind} {right : Bool}
    (hoff : (s.eng e).guard g = false → s.waits e i = none)
    (hexec : s.waits e i = none → exec i s = .next (s.issueCopy e k ((s.eng e).guard g) dd da rows))
    (hright : (mkCopy (s.eng e) k dd da rows []).okKind = (right && ((s.eng e).d da).fmt == ((s.eng e).d dd).fmt)) :
    let x := s.eng e
    let v := Rf.ENG_CLAMP_SCR_VIOL e
    (x.guard g = false → Gives i s (NoEffect e 4 s)) ∧
    (s.waits e i = none → x.guard g = true →
      (right = true → (x.d da).fmt = (x.d dd).fmt → Gives i s (fun t => OnlyEngine e s t ∧ Continues e s t ∧
        (t.eng e).run = x.run + 4 ∧ (t.eng e).scratch = x.scratch ∧ ∃ c : Copy, (t.eng e).copies = x.copies ++ [c] ∧
        c.kind = k ∧ c.src = x.d da ∧ c.dst = x.d dd ∧ c.rows = rows.toNat + 1 ∧
        c.bytes = (((x.d da).len + 1) * fmtBits (x.d da).fmt + 63) / 64 * 8)) ∧
      (right = false ∨ (x.d da).fmt ≠ (x.d dd).fmt → Gives i s (fun t => (t.eng e).copies = x.copies ∧
        t.rf v = min (s.rf v + 1) (2 ^ v.width - 1) ∧ { t with engines := s.engines, regs := s.regs } = s))) := by
  intro x v
  refine ⟨fun hg => ⟨_, hexec (hoff hg), ?_⟩, fun hw hg => ⟨fun hr hf => ⟨_, hexec hw, ?_⟩, fun hbad => ⟨_, hexec hw, ?_⟩⟩⟩
  · have hg' : (s.eng e).guard g = false := hg
    rw [hg', issueCopy_off]; exact noEffect_coreStep s e 4
  · have hg' : (s.eng e).guard g = true := hg
    have hok : (mkCopy (s.eng e) k dd da rows []).okKind = true := by rw [hright, hr]; simpa using hf
    obtain ⟨l, hl⟩ := issueCopy_of_ok hok
    rw [hg', hl]
    refine ⟨onlyEngine_setEng s e _, coreStep_continues _ _ _ _ _ rfl rfl, ?_, ?_, mkCopy (s.eng e) k dd da rows l, ?_, rfl, rfl,
      rfl, rfl, copyBytesOf_eq _⟩ <;> rw [coreStep_eng, if_pos rfl, if_pos rfl]
    · rfl
    · rfl
    · rfl
  · have hg' : (s.eng e).guard g = true := hg
    have hbad' : (mkCopy (s.eng e) k dd da rows []).okKind = false := by
      rw [hright]
      rcases hbad with hr | hf
      · rw [hr]; rfl
      · have hne : (((s.eng e).d da).fmt == ((s.eng e).d dd).fmt) = false := by simpa using hf
        rw [hne, Bool.and_false]
    rw [hg', issueCopy_of_violation hbad']
    refine ⟨?_, rf_bump_self _ _ _, rfl⟩
    rw [bump_eng, coreStep_eng, if_pos rfl]; rfl

/-- Settles O11. -/
theorem copiesIssued : Obligations.CopiesIssued := by
  unfold Obligations.CopiesIssued
  intro e g dd da rows a s h x v
  simp only [List.forall_mem_cons, List.not_mem_nil, false_implies, implies_true, and_true]
  refine ⟨⟨gives_copy (fun hg => waits_hld_off hg _ _ _ _) (exec_hld h) ?_,
    gives_copy (fun hg => waits_hst_off hg _ _ _ _) (exec_hst h) ?_⟩, fun hin => ⟨_, exec_ldw h da a, ?_⟩⟩
  · have hinto : (mkCopy (s.eng e) .hld dd da rows []).into = true := rfl
    simp only [Copy.okKind, hinto, beq_true, Bool.bne_true]; rfl
  · have hinto : (mkCopy (s.eng e) .hst dd da rows []).into = false := rfl
    simp only [Copy.okKind, hinto, beq_false, Bool.bne_false]; rfl
  · obtain ⟨l, hl⟩ := Engine.noteLdw_eq (s.eng e) da ((s.eng e).s a).toNat
    have hwaits := waits_ldw_noted (s := s) (e := e) (l := l) e da a
    rw [if_pos hin] at hwaits
    rw [hl, State.issue, hwaits]
    have hself : ((s.setEng e { s.eng e with ldws := l }).perform e (.ldw e da a)).eng e =
        Engine.retire { s.eng e with ldws := l } 2 := by
      rw [State.perform, coreStep_eng, if_pos rfl, if_pos rfl, State.setEng_get_eng, if_pos rfl]; rfl
    refine ⟨⟨rfl, fun k hk => ?_⟩, ?_, ?_, ?_, fun r => ?_⟩
    · rw [State.perform, coreStep_eng, if_neg hk, State.setEng_get_eng, if_neg hk]
    · rw [Continues, hself]; rfl
    · rw [hself]; rfl
    · rw [hself]; rfl
    · rw [hself]; rfl

end Sys2Proof.Machine
end

section
/-! SUPPORT. Undefined words (R41, R82), and that no other command stops. -/

namespace Sys2Proof.Machine

/-- A command with an effect only where a condition holds completes. -/
theorem completes_if {c : Bool} {t u : State} :
    ∃ v, (if c then .next t else .next u : Host.Outcome State Fault Refusal) = .next v := by
  cases c <;> exact ⟨_, rfl⟩

/-- A command whose words outside its ranges are undefined completes where they are in them. -/
theorem completes_of_range {c : Bool} (hc : c = true) {p q : Host.Outcome State Fault Refusal} (hp : ∃ t, p = .next t) :
    ∃ t, (if c then p else q) = .next t := by
  rw [if_pos hc]; exact hp

/-- Every command completes whose operands are in their ranges: the scalar core by their one condition, the words with a range where it
holds, and of the others each branch of their definitions. -/
theorem completes_of_wf (i : Instr) (s : State) (h : i.wf = true) : Completes i s := by
  cases i
  case add | sub | and | or | xor | shl | shr | sar | mul | mulh | mulhu | min | max | minu | maxu | adds | subs | clz | popc
    | addi | andi | ori | xori | shli | shri | sari | muli | mini | maxi | movi | sethi | clamp | cmpEq | cmpNe | cmpLt
    | cmpLtu | cmpLe | cmpLeu | cmpiEq | cmpiNe | cmpiLt | cmpiLtu | cmpiLe | cmpiLeu | pand | por | pxor | pandn | pset
    | nop | cred | cnt | dlo | dhi | dfmt | dadv | dget =>
    exact completes_if
  case ext | ins | rd | br => exact completes_of_range h completes_if
  case ard | lut | luti | k1v | xmrg | scor | thr | hist => exact completes_of_range h ⟨_, rfl⟩
  case bandStart =>
    delta Completes exec execBandStart
    dsimp only
    split <;> exact ⟨_, rfl⟩
  case loopr | loadGroupArrive | engineFault | engineHang | spareReady | gapTimeout | bandDue | lineTimeout
    | portGroupWrite | lateGroupFetch | intakeGroupCommit | ackTimeoutProbe | retrainSlice | retrainForce | dmaUnitGrant
    | dmaDescriptorFetch | ppsMissing | logWrite | thermalRestart | kick | tstUnlock | streamRateBucketRefill
    | tickJitterIssue =>
    delta Completes exec
    dsimp only
    delta execLoopr execLoadGroupArrive execEngineFault execEngineHang execSpareReady execGapTimeout execBandDue
      execLineTimeout execPortGroupWrite execLateGroupFetch execIntakeGroupCommit execAckTimeoutProbe execRetrainSlice
      execRetrainForce execDmaUnitGrant execDmaDescriptorFetch execPpsMissing execLogWrite execThermalRestart execKick
      execTstUnlock execStreamRateBucketRefill execTickJitterIssue
    split <;> exact ⟨_, rfl⟩
  case sackTimeout | settingsLastFragment | dmaBurst | dmaDescriptorComplete =>
    delta Completes exec
    dsimp only
    delta execSackTimeout execSettingsLastFragment execDmaBurst execDmaDescriptorComplete
    split
    · split <;> exact ⟨_, rfl⟩
    · exact ⟨_, rfl⟩
  case triggerExt =>
    delta Completes exec execTriggerExt
    dsimp only
    split
    · exact ⟨_, rfl⟩
    · split <;> exact ⟨_, rfl⟩
  case mailboxComplete =>
    delta Completes exec execMailboxComplete
    dsimp only
    split
    · exact ⟨_, rfl⟩
    · split
      · exact ⟨_, rfl⟩
      · split <;> exact ⟨_, rfl⟩
  all_goals exact ⟨_, rfl⟩

/-- Settles O7: the words outside the ranges of `Instr.wf` are refused by name, and every other command completes. -/
theorem undefinedWords : Obligations.UndefinedWords := by
  unfold Obligations.UndefinedWords
  refine ⟨fun e d a pos len s => ⟨fun h => if_neg ?_, fun h => if_neg ?_⟩, fun e g s => rfl, fun e d sel s h => if_neg ?_,
    fun e g d aa f s h => if_neg ?_,
    fun e x d a b m t k sh sh5 pen men s => ⟨fun h => ⟨if_neg ?_, if_neg ?_⟩, fun h => ?_, fun h => if_neg ?_, fun h => if_neg ?_,
      fun h => if_neg ?_⟩, completes_of_wf⟩
  case refine_7 => subst h; exact ⟨rfl, rfl⟩
  case refine_1 | refine_2 | refine_10 =>
    simp only [Instr.wf, Bool.and_eq_true, decide_eq_true_eq]
    rcases h with h | h
    · simp [h]
    · omega
  case refine_3 | refine_4 | refine_5 | refine_6 | refine_8 | refine_9 =>
    simp only [Instr.wf, Bool.and_eq_true, decide_eq_true_eq]
    omega

end Sys2Proof.Machine
end

section
/-! SUPPORT. What an access of the hub changes (11.1 to 11.3): the banks and their queues, the self-refresh of the channels it
wakes, the bytes it writes, and what it counts and raises; nothing else of the module. -/

namespace Sys2Proof.Machine

/-- A fold is related to its start where each of its steps is, by a relation that is reflexive and transitive. -/
theorem foldl_relates {α : Type} {R : State → State → Prop} (hrefl : ∀ s, R s s) (htrans : ∀ {s t u}, R s t → R t u → R s u)
    {f : State → α → State} (hf : ∀ s a, R s (f s a)) (l : List α) (s : State) : R s (l.foldl f s) := by
  induction l generalizing s with
  | nil => exact hrefl s
  | cons a l ih => exact htrans (hf s a) (ih _)

/-! ### The requests of an access -/

/-- From `s` to `t` requests of TC1 to TC3 have reached the banks: only the hub's unit and the self-refresh flags may differ. -/
structure Touched (s t : State) : Prop where
  rest : { t with regs := s.regs, hubU := s.hubU } = s
  sr   : SrOnly s t
  errs : ∀ e ∈ t.hubU.errs, e ∈ s.hubU.errs

theorem Touched.refl (s : State) : Touched s s := ⟨rfl, fun _ _ => rfl, fun _ h => h⟩

theorem Touched.trans {s t u : State} (h1 : Touched s t) (h2 : Touched t u) : Touched s u := by
  refine ⟨?_, fun f hf => (h2.sr f hf).trans (h1.sr f hf), fun e he => h1.errs e (h2.errs e he)⟩
  calc { u with regs := s.regs, hubU := s.hubU }
      = { ({ u with regs := t.regs, hubU := t.hubU } : State) with regs := s.regs, hubU := s.hubU } := rfl
    _ = s := by rw [h2.rest, h1.rest]

theorem Touched.foldl {α : Type} {f : State → α → State} (hf : ∀ s a, Touched s (f s a)) (l : List α) (s : State) :
    Touched s (l.foldl f s) :=
  foldl_relates Touched.refl Touched.trans hf l s

/-- A change of the hub's unit that leaves its errors, or some of them. -/
theorem Touched.hubU (s : State) (h : HubUnit) (he : ∀ e ∈ h.errs, e ∈ s.hubU.errs) : Touched s { s with hubU := h } :=
  ⟨rfl, fun _ _ => rfl, he⟩

theorem wake_touched (s : State) (c : Nat) : Touched s (s.wake c) := by
  unfold State.wake
  split
  · refine ⟨rfl, fun f hf => ?_, fun _ h => h⟩
    show (s.setrf (Rf.HUB_CH_STAT_SR c) 0).rf f = s.rf f
    exact State.rf_setrf _ _ _ _ (hf c)
  · exact ⟨rfl, fun _ _ => rfl, fun _ h => h⟩

theorem admitReqs_touched (s : State) (rs : List (Nat × BankReq)) : Touched s (s.admitReqs rs) :=
  .hubU s _ (fun _ h => h)

theorem requests_touched (s : State) {cls : Nat} (hcls : cls ≠ 0) (rs : List (Nat × BankReq)) :
    Touched s (s.requests cls rs) := by
  rw [State.requests, if_neg hcls]
  exact Touched.trans (.hubU s { s.hubU with barred := s.hubU.barred ++ rs.filter (fun r => s.rtForced (r.1 / 16)) }
    (fun _ h => h)) (admitReqs_touched _ _)

theorem linesAt_touched (s : State) (wr : Bool) {cls : Nat} (hcls : cls ≠ 0) (ls : List Nat) :
    Touched s (s.linesAt wr cls ls) := by
  unfold State.linesAt
  dsimp only
  generalize (if wr then ls.filterMap (s.copyPlace cls) else []) = cs
  split
  · exact (Touched.foldl wake_touched _ _).trans (requests_touched _ hcls _)
  · exact ((Touched.foldl wake_touched _ _).trans (requests_touched _ hcls _)).trans (admitReqs_touched _ _)

theorem writeBacks_touched (s : State) : Touched s s.writeBacks := by
  unfold State.writeBacks
  split
  · exact .refl s
  · exact Touched.trans (.hubU s { s.hubU with wback := [], errs := s.hubU.errs.filter (fun e => !s.hubU.wback.contains e.1) }
      (fun e he => List.mem_of_mem_filter he)) (linesAt_touched _ _ (by decide) _)

theorem touchAll_touched (s : State) (wr : Bool) {cls : Nat} (hcls : cls ≠ 0) (rs : List (Nat × Nat)) :
    Touched s (s.touchAll wr cls rs) := by
  unfold State.touchAll
  dsimp only
  split
  · exact writeBacks_touched s
  · exact (writeBacks_touched s).trans (linesAt_touched _ _ hcls _)

theorem Touched.eng {s t : State} (h : Touched s t) (k : Nat) : t.eng k = s.eng k :=
  (congrArg (fun u : State => u.eng k) h.rest :)

theorem Touched.chain {s t : State} (h : Touched s t) (k : Nat) : t.chain k = s.chain k :=
  (congrArg (fun u : State => u.chain k) h.rest :)

theorem Touched.hub {s t : State} (h : Touched s t) : t.hub = s.hub := (congrArg State.hub h.rest :)

/-! ### Accesses in general -/

/-- From `s` to `t` the hub was read, or written elsewhere: its unit, register fields and events may differ, and events are only
added. -/
structure Fetched (s t : State) : Prop where
  rest  : { withEvents s t with regs := s.regs, hubU := s.hubU } = s
  queue : s.evq <+: t.evq

theorem Fetched.refl (s : State) : Fetched s s := ⟨rfl, List.prefix_refl _⟩

theorem Fetched.trans {s t u : State} (h1 : Fetched s t) (h2 : Fetched t u) : Fetched s u := by
  refine ⟨?_, h1.queue.trans h2.queue⟩
  calc { withEvents s u with regs := s.regs, hubU := s.hubU }
      = { withEvents s { withEvents t u with regs := t.regs, hubU := t.hubU } with
          regs := s.regs, hubU := s.hubU } := rfl
    _ = s := by rw [h2.rest, h1.rest]

theorem Fetched.foldl {α : Type} {f : State → α → State} (hf : ∀ s a, Fetched s (f s a)) (l : List α) (s : State) :
    Fetched s (l.foldl f s) :=
  foldl_relates Fetched.refl Fetched.trans hf l s

theorem Fetched.setrf (s : State) (f : Fld) (v : Nat) : Fetched s (s.setrf f v) := ⟨rfl, List.prefix_refl _⟩
theorem Fetched.bump (s : State) (f : Fld) (n : Nat) : Fetched s (s.bump f n) := ⟨rfl, List.prefix_refl _⟩
theorem Fetched.hubU (s : State) (h : HubUnit) : Fetched s { s with hubU := h } := ⟨rfl, List.prefix_refl _⟩
theorem Fetched.stamp (s : State) (k : Nat) : Fetched s (s.stamp k) := ⟨rfl, List.prefix_refl _⟩

theorem evq_prefix_raise (s : State) (c a0 a1 a2 : Nat) : s.evq <+: (s.raise c a0 a1 a2).evq :=
  (record_prefix s c a0 a1 a2).trans (raise_prefix s c a0 a1 a2)

/-- A change of register fields and events. -/
theorem Fetched.of_fields {fs : List Fld} {s t : State} (h : FieldsAndEvents fs s t) (hq : s.evq <+: t.evq) : Fetched s t :=
  ⟨congrArg (fun u : State => { u with hubU := s.hubU })
    (show ({ withEvents s t with regs := s.regs } : State) = s from h.1), hq⟩

theorem Fetched.raise (s : State) (c a0 a1 a2 : Nat) : Fetched s (s.raise c a0 a1 a2) :=
  .of_fields (raise_frame s c a0 a1 a2 []) (evq_prefix_raise s c a0 a1 a2)

theorem Touched.fetched {s t : State} (h : Touched s t) : Fetched s t := by
  refine ⟨?_, ?_⟩
  · calc { withEvents s t with regs := s.regs, hubU := s.hubU }
        = { withEvents s ({ t with regs := s.regs, hubU := s.hubU } : State) with regs := s.regs, hubU := s.hubU } := rfl
      _ = s := by rw [h.rest]; rfl
  · rw [show t.evq = s.evq from (congrArg State.evq h.rest :)]

theorem Fetched.engines {s t : State} (h : Fetched s t) : t.engines = s.engines := (congrArg State.engines h.rest :)
theorem Fetched.eng {s t : State} (h : Fetched s t) (k : Nat) : t.eng k = s.eng k :=
  (congrArg (fun u : State => u.eng k) h.rest :)
theorem Fetched.wu {s t : State} (h : Fetched s t) (k : Nat) : t.wu k = s.wu k := (congrArg (fun u : State => u.wu k) h.rest :)
theorem Fetched.chain {s t : State} (h : Fetched s t) (k : Nat) : t.chain k = s.chain k :=
  (congrArg (fun u : State => u.chain k) h.rest :)
theorem Fetched.hub {s t : State} (h : Fetched s t) : t.hub = s.hub := (congrArg State.hub h.rest :)
theorem Fetched.count {s t : State} (h : Fetched s t) : t.count = s.count := (congrArg State.count h.rest :)

/-! ### Each step of an access -/

theorem tokenWait_fetched (s : State) (c : Nat) : Fetched s (s.tokenWait c) := by
  unfold State.tokenWait
  dsimp only
  split
  · exact (Fetched.bump _ _ _).trans ((Fetched.stamp _ _).trans (.raise _ _ _ _ _))
  · exact .bump _ _ _

theorem requestTc0_fetched (s : State) (r : Nat × BankReq) : Fetched s (s.requestTc0 r) := by
  unfold State.requestTc0
  dsimp only
  split
  · exact (Fetched.hubU s _).trans (tokenWait_fetched _ _)
  · exact (Fetched.hubU s _).trans (admitReqs_touched _ _).fetched

theorem requests_fetched (s : State) (cls : Nat) (rs : List (Nat × BankReq)) : Fetched s (s.requests cls rs) := by
  by_cases hcls : cls = 0
  · rw [State.requests, if_pos hcls]; exact .foldl requestTc0_fetched _ _
  · exact (requests_touched s hcls rs).fetched

theorem linesAt_fetched (s : State) (wr : Bool) (cls : Nat) (ls : List Nat) : Fetched s (s.linesAt wr cls ls) := by
  unfold State.linesAt
  dsimp only
  generalize (if wr then ls.filterMap (s.copyPlace cls) else []) = cs
  split
  · exact (Touched.foldl wake_touched _ _).fetched.trans (requests_fetched _ _ _)
  · exact ((Touched.foldl wake_touched _ _).fetched.trans (requests_fetched _ _ _)).trans (admitReqs_touched _ _).fetched

theorem touchAll_fetched (s : State) (wr : Bool) (cls : Nat) (rs : List (Nat × Nat)) : Fetched s (s.touchAll wr cls rs) := by
  unfold State.touchAll
  dsimp only
  split
  · exact (writeBacks_touched s).fetched
  · exact (writeBacks_touched s).fetched.trans (linesAt_fetched _ _ _ _)

theorem startMigration_fetched (s : State) (slot : Nat) : Fetched s (s.startMigration slot) := by
  unfold State.startMigration
  dsimp only
  split
  · refine Fetched.trans (t := State.setrf _ _ _) ?_ (.raise _ _ _ _ _)
    exact ⟨rfl, List.prefix_refl _⟩
  · split
    · exact .raise _ _ _ _ _
    · split
      · exact .raise _ _ _ _ _
      · split
        · refine Fetched.trans (t := State.setrf _ _ _) ?_ (.raise _ _ _ _ _)
          exact ⟨rfl, List.prefix_refl _⟩
        · refine Fetched.trans (t := State.setrf _ _ _) ?_ (.raise _ _ _ _ _)
          exact ⟨rfl, List.prefix_refl _⟩

theorem triggerMigration_fetched (s : State) (slot : Nat) : Fetched s (s.triggerMigration slot) := by
  unfold State.triggerMigration
  split
  · split
    · exact .refl s
    · exact ⟨rfl, List.prefix_refl _⟩
  · exact startMigration_fetched s slot

theorem corrected_fetched (s : State) (k : Nat) : Fetched s (s.corrected k) := by
  unfold State.corrected
  dsimp only
  split
  · split
    · refine Fetched.trans ?_ (triggerMigration_fetched _ _)
      refine Fetched.trans (t := { s with regs := _, hubU := _ }) ?_ (.raise _ _ _ _ _)
      exact ⟨rfl, List.prefix_refl _⟩
    · exact ⟨rfl, List.prefix_refl _⟩
  · exact ⟨rfl, List.prefix_refl _⟩

theorem uncorrectable_fetched (s : State) (k : Nat) : Fetched s (s.uncorrectable k) :=
  (Fetched.bump _ _ _).trans (.raise _ _ _ _ _)

theorem noteErrs_fetched (s : State) (es : List (Nat × List (Nat × Nat))) : Fetched s (s.noteErrs es) := by
  refine .foldl (fun s e => ?_) es s
  split
  · exact corrected_fetched s e.1
  · exact uncorrectable_fetched s e.1

theorem hubRefused_fetched (s : State) (src a : Nat) : Fetched s (s.hubRefused src a) := by
  unfold State.hubRefused
  dsimp only
  split
  · exact (show Fetched s ((s.bump Rf.HUB_ACCERR_COUNT).setrf Rf.HUB_ACCERR_ADDR a) from ⟨rfl, List.prefix_refl _⟩).trans
      ((Fetched.stamp _ _).trans (.raise _ _ _ _ _))
  · exact ⟨rfl, List.prefix_refl _⟩

theorem noteReads_fetched (s : State) (cls : Nat) (rs : List (Nat × Nat)) : Fetched s (s.noteReads cls rs) :=
  (touchAll_fetched s false cls rs).trans (noteErrs_fetched _ _)

theorem transfer_fetched (s : State) (cls u : Nat) (rs : List (Nat × Nat)) : Fetched s (s.transfer cls u rs) := by
  unfold State.transfer
  dsimp only
  split
  · exact (noteReads_fetched _ _ _).trans (hubRefused_fetched _ _ _)
  · exact noteReads_fetched _ _ _

theorem readAs_fetched (s : State) (cls src a n : Nat) : Fetched s (s.readAs cls src a n).1 := by
  have hnote : Fetched s (s.noteRead cls a (min n (s.capacity - a))) :=
    (touchAll_fetched s false cls _).trans (noteErrs_fetched _ _)
  unfold State.readAs
  dsimp only
  split
  · exact hnote.trans (hubRefused_fetched _ _ _)
  · exact hnote

/-! ### Writes -/

/-- From `s` to `t` the hub was accessed: as where it is read, and its bytes may differ too. -/
def Accessed (s t : State) : Prop := Fetched s { t with hub := s.hub }

theorem Fetched.accessed {s t : State} (h : Fetched s t) : Accessed s t := by
  have hrest := congrArg (fun u : State => { u with hub := s.hub }) h.rest
  exact ⟨hrest, h.queue⟩

theorem Accessed.refl (s : State) : Accessed s s := (Fetched.refl s).accessed

theorem Accessed.trans {s t u : State} (h1 : Accessed s t) (h2 : Accessed t u) : Accessed s u := by
  have h2' : Fetched { t with hub := s.hub } { u with hub := s.hub } :=
    ⟨congrArg (fun v : State => { v with hub := s.hub }) h2.rest, h2.queue⟩
  exact Fetched.trans h1 h2'

theorem Accessed.foldl {α : Type} {f : State → α → State} (hf : ∀ s a, Accessed s (f s a)) (l : List α) (s : State) :
    Accessed s (l.foldl f s) :=
  foldl_relates Accessed.refl Accessed.trans hf l s

theorem Accessed.engines {s t : State} (h : Accessed s t) : t.engines = s.engines :=
  (congrArg State.engines h.rest :)
theorem Accessed.eng {s t : State} (h : Accessed s t) (k : Nat) : t.eng k = s.eng k := Fetched.eng h k
theorem Accessed.wu {s t : State} (h : Accessed s t) (k : Nat) : t.wu k = s.wu k := Fetched.wu h k
theorem Accessed.chain {s t : State} (h : Accessed s t) (k : Nat) : t.chain k = s.chain k := Fetched.chain h k
theorem Accessed.count {s t : State} (h : Accessed s t) : t.count = s.count := (congrArg State.count h.rest :)
theorem Accessed.queue {s t : State} (h : Accessed s t) : s.evq <+: t.evq := h.2

/-- The requests of a write: write-backs of the codewords it covers are skipped (R315). -/
def State.storing (s : State) (cls lo hi : Nat) : State :=
  State.touch { s with hubU := { s.hubU with wback := s.hubU.wback.filter (fun k => !cwIn lo (hi - lo) k) } } true cls lo (hi - lo)

/-- The bytes of a write have reached the hub, and the codewords written anew hold no error. -/
def State.storeBytes (s : State) (lo hi : Nat) (cells : List Host.Cell) : State :=
  { s with hub := replaceRange (fun _ => 0) s.hub lo (hi - lo) cells,
           hubU := { s.hubU with errs := s.hubU.errs.filter (fun e =>
             !(cwIn lo (hi - lo) e.1 && (decide (e.2.length < 2) ||
               (decide (lo ≤ 16 * e.1) && decide (16 * e.1 + 16 ≤ hi))))) } }

theorem writeAs_eq (s : State) (own : Bool) (cls src a n : Nat) (cells : List Host.Cell) :
    s.writeAs own cls src a n cells =
      let lo := if own then a else max a userBase
      let hi := min (a + n) s.capacity
      let t := if lo < hi then (s.storing cls lo hi).storeBytes lo hi cells else s
      if decide (lo ≠ a ∧ 0 < n) || decide (hi < a + n) then t.hubRefused src (if lo ≠ a then a else max a s.capacity) else t :=
  rfl

theorem storing_fetched (s : State) (cls lo hi : Nat) : Fetched s (s.storing cls lo hi) :=
  (Fetched.hubU s { s.hubU with wback := s.hubU.wback.filter (fun k => !cwIn lo (hi - lo) k) }).trans
    (touchAll_fetched _ true cls [(lo, hi - lo)])

theorem storing_touched (s : State) {cls : Nat} (hcls : cls ≠ 0) (lo hi : Nat) : Touched s (s.storing cls lo hi) :=
  (Touched.hubU s { s.hubU with wback := s.hubU.wback.filter (fun k => !cwIn lo (hi - lo) k) } (fun _ h => h)).trans
    (touchAll_touched _ true hcls [(lo, hi - lo)])

theorem storeBytes_accessed (s : State) (lo hi : Nat) (cells : List Host.Cell) : Accessed s (s.storeBytes lo hi cells) :=
  ⟨rfl, List.prefix_refl _⟩

theorem writeAs_accessed (s : State) (own : Bool) (cls src a n : Nat) (cells : List Host.Cell) :
    Accessed s (s.writeAs own cls src a n cells) := by
  rw [writeAs_eq]
  dsimp only
  generalize (if own then a else max a userBase) = lo
  generalize min (a + n) s.capacity = hi
  have hstored : Accessed s (if lo < hi then (s.storing cls lo hi).storeBytes lo hi cells else s) := by
    split
    · exact (storing_fetched _ _ _ _).accessed.trans (storeBytes_accessed _ _ _ _)
    · exact .refl s
  split
  · exact hstored.trans (hubRefused_fetched _ _ _).accessed
  · exact hstored

/-- A write into the hub's range of the user region is its requests and its bytes. -/
theorem writeAs_of_inside {s : State} {a n : Nat} (cls src : Nat) (cells : List Host.Cell) (hlo : userBase ≤ a) (hn : 0 < n)
    (hhi : a + n ≤ s.capacity) :
    s.writeAs false cls src a n cells = (s.storing cls a (a + n)).storeBytes a (a + n) cells := by
  have hmax : max a userBase = a := by omega
  have hmin : min (a + n) s.capacity = a + n := by omega
  rw [writeAs_eq]
  dsimp only
  rw [if_neg Bool.false_ne_true, hmax, hmin]
  rw [if_pos (Nat.lt_add_of_pos_right hn), if_neg (by simp)]

theorem hubByte_writeAs {s : State} {a n : Nat} (cls src : Nat) (cells : List Host.Cell) (hlo : userBase ≤ a) (hn : 0 < n)
    (hhi : a + n ≤ s.capacity) (b : Nat) : hubByte (s.writeAs false cls src a n cells) b =
      if a ≤ b ∧ b < a + n then look (fun _ => (0 : Byte)) cells b else hubByte s b := by
  have hb : hubByte ((s.storing cls a (a + n)).storeBytes a (a + n) cells) b =
      look (fun _ => (0 : Byte)) (replaceRange (fun _ => 0) (s.storing cls a (a + n)).hub a (a + n - a) cells) b := rfl
  rw [writeAs_of_inside cls src cells hlo hn hhi, hb, look_replaceRange, (storing_fetched _ _ _ _).hub, Nat.add_sub_cancel_left]
  rfl

theorem writeAs_touched {s : State} {cls a n : Nat} (hcls : cls ≠ 0) (src : Nat) (cells : List Host.Cell) (hlo : userBase ≤ a)
    (hn : 0 < n) (hhi : a + n ≤ s.capacity) : Touched s { s.writeAs false cls src a n cells with hub := s.hub } := by
  have h := storing_touched s hcls a (a + n)
  rw [writeAs_of_inside cls src cells hlo hn hhi]
  refine ⟨(congrArg (fun u : State => { u with hub := s.hub }) h.rest :), h.sr, fun e he => ?_⟩
  exact h.errs e (List.mem_of_mem_filter he)

end Sys2Proof.Machine
end

section
/-! SUPPORT. The words of a chain's lane in the hub, and the engine's instructions on chains (R45, R46). -/

namespace Sys2Proof.Machine

/-! ### The capacity, and reads below it -/

theorem key_ne_sr {f : Fld} (hlo : f.lo < 17) : ∀ k, f.key ≠ (Rf.HUB_CH_STAT_SR k).key := by
  intro k
  have hk : (Rf.HUB_CH_STAT_SR k).key = (0x710008 + 0x1000 * k) * 64 + 17 := rfl
  rw [hk, Fld.key]
  omega

theorem srOnly_bit {s t : State} (h : SrOnly s t) {f : Fld} (hlo : f.lo < 17) : t.bit f = s.bit f :=
  congrArg (fun v : Nat => decide (v ≠ 0)) (h f (key_ne_sr hlo))

theorem srOnly_capacity {s t : State} (h : SrOnly s t) : t.capacity = s.capacity := by
  rw [State.capacity, State.capGib, State.relocating, srOnly_bit h (f := Rf.HUB_STAT_RETIRED) (by decide),
    srOnly_bit h (f := Rf.HUB_MIGSTAT_ACTIVE) (by decide), srOnly_bit h (f := Rf.HUB_MIGSTAT_RELOC) (by decide),
    h Rf.HUB_STAT_SPARES (key_ne_sr (by decide)), h Rf.HUB_CFG_RESV (key_ne_sr (by decide))]
  rfl

theorem Touched.noErrs {s t : State} (h : Touched s t) (he : s.hubU.errs = []) : t.hubU.errs = [] :=
  List.eq_nil_iff_forall_not_mem.2 (fun e hm => List.not_mem_nil (he ▸ h.errs e hm))

/-- A read with no codeword in error is its requests alone. -/
theorem noteRead_touched {s : State} {cls : Nat} (hcls : cls ≠ 0) (he : s.hubU.errs = []) (a n : Nat) :
    Touched s (s.noteRead cls a n) := by
  have htouch := touchAll_touched s false hcls [(a, n)]
  have hnone : ((s.touch false cls a n).hubU.errs.filter (fun e => cwIn a n e.1)) = [] := by
    rw [State.touch, htouch.noErrs he]; rfl
  rw [State.noteRead]
  rw [hnone]
  exact htouch

theorem readAs_touched {s : State} {cls a n : Nat} (hcls : cls ≠ 0) (he : s.hubU.errs = []) (src : Nat)
    (hhi : a + n ≤ s.capacity) : Touched s (s.readAs cls src a n).1 := by
  have hmin : min n (s.capacity - a) = n := by omega
  rw [State.readAs]
  rw [hmin, if_neg (Nat.lt_irrefl n)]
  exact noteRead_touched hcls he a n

/-- What a read delivers with no codeword in error: the bytes of the hub, 0 at or above the capacity in service. -/
theorem look_hubView {s : State} (he : s.hubU.errs = []) {a n b : Nat} (hb : a ≤ b ∧ b < a + n) :
    look (fun _ => (0 : Byte)) (s.hubView a n) b = if b < s.capacity then hubByte s b else 0 := by
  have hfilter := look_filter_in (fun _ => (0 : Byte))
    (fun i => decide (a ≤ i) && decide (i < a + n) && decide (i < s.capacity)) s.hub b
  simp only [hb.1, hb.2, decide_true, Bool.true_and, decide_eq_true_eq] at hfilter
  rw [State.hubView]
  simp only [he, List.any_nil, Bool.not_false, Bool.and_true]
  exact hfilter

theorem readLE_congr {l m : List Host.Cell} {a n : Nat}
    (h : ∀ i < n, look (fun _ => (0 : Byte)) l (a + i) = look (fun _ => (0 : Byte)) m (a + i)) : readLE l a n = readLE m a n := by
  induction n generalizing a with
  | zero => rfl
  | succ n ih =>
    have h0 := h 0 (Nat.succ_pos n)
    have hrest : readLE l (a + 1) n = readLE m (a + 1) n :=
      ih (fun i hi => by simpa [Nat.add_assoc, Nat.add_comm 1 i] using h (i + 1) (Nat.succ_lt_succ hi))
    rw [readLE, readLE, hrest]
    rw [Nat.add_zero] at h0
    rw [h0]

/-! ### One word of an area -/

theorem pieces_of_fits {r : HubArea} {k n : Nat} (h : k + n ≤ r.words) : r.pieces k n = [(r.base + 8 * k, n)] := by
  have hmin : min n (r.words - k) = n := by omega
  rw [HubArea.pieces]
  rw [hmin, if_neg (Nat.lt_irrefl n)]

/-- A word read from an area: its requests, and the bytes of the hub. -/
theorem getArea_word {s : State} {cls src k : Nat} {r : HubArea} (hcls : cls ≠ 0) (he : s.hubU.errs = []) (hk : k < r.words)
    (hhi : r.base + 8 * r.words ≤ s.capacity) : Touched s (s.getArea cls src r k 1).2 ∧
      ∀ i < 8, byteOf ((s.getArea cls src r k 1).1.headD 0) i = hubByte s (r.base + 8 * k + i) := by
  have hget : s.getArea cls src r k 1 = (cellWords (s.hubView (r.base + 8 * k) (8 * 1)) (r.base + 8 * k) 1,
      (s.readAs cls src (r.base + 8 * k) (8 * 1)).1) := by
    rw [State.getArea, pieces_of_fits (by omega)]; rfl
  rw [hget]
  refine ⟨readAs_touched hcls he src (by omega), fun i hi => ?_⟩
  have hword : (cellWords (s.hubView (r.base + 8 * k) (8 * 1)) (r.base + 8 * k) 1).headD 0 =
      BitVec.ofNat 64 (readLE (s.hubView (r.base + 8 * k) 8) (r.base + 8 * k) 8) := rfl
  rw [hword, byteOf_readLE _ _ hi, look_hubView he (by omega), if_pos (by omega)]

/-! ### pop, cnt and cred (R45, R349) -/

theorem exec_pop {s : State} {e : Eng} {g : BitVec 4} {d : BitVec 6} {q : BitVec 4} (h : s.runs e = true)
    (hw : s.waits e (.pop e g d q) = none) : exec (.pop e g d q) s = .next (s.perform e (.pop e g d q)) :=
  issueOp_of_free h hw

theorem waits_pop (s : State) (e : Eng) (g : BitVec 4) (d : BitVec 6) (q : BitVec 4) : s.waits e (.pop e g d q) =
    if (s.eng e).guard g && s.popWaits e (s.handle e q) then some 5 else none := rfl

theorem perform_pop_off {s : State} {e : Eng} {g : BitVec 4} (hg : (s.eng e).guard g = false) (d : BitVec 6) (q : BitVec 4) :
    s.perform e (.pop e g d q) = s.coreStep e 4 false id :=
  if_neg (by simp [hg])

theorem perform_pop {s : State} {e : Eng} {g : BitVec 4} (hg : (s.eng e).guard g = true) (d : BitVec 6) (q : BitVec 4) :
    s.perform e (.pop e g d q) =
      (s.popWord e (s.handle e q)).2.coreStep e 4 true (fun x => x.setS d (s.popWord e (s.handle e q)).1) :=
  if_pos hg

theorem popRefused_of_consumer {s : State} {c u : Nat} (hen : s.chainEn c = true) (hcons : s.rf (Rf.CHN_CFG_CONS c) = u) :
    s.popRefused c u = false := by
  simp [State.popRefused, hen, hcons]

/-- Once no word of the snapshot is left a pop reads the idle item. -/
theorem popWord_idle {s : State} {e c : Nat} (hr : s.popRefused c (s.unitOf e) = false) (hsnap : ((s.eng e).view c).snap = 0) :
    s.popWord e c = (idleItem c, s) := by
  simp [State.popWord, hr, hsnap]

/-- The next word of the snapshot is read from its place in its producer's lane. -/
theorem popWord_next {s : State} {e c : Nat} {i : ChItem} (hr : s.popRefused c (s.unitOf e) = false)
    (hsnap : ((s.eng e).view c).snap ≠ 0) (hi : (s.chain c).items[(s.chain c).gone]? = some i) (hlane : LaneInHub s c i.ep)
    (hslot : i.slot < s.share c) (he : s.hubU.errs = []) :
    ∃ (w : Word) (t : State), s.popWord e c = (w, (t.setChain c { s.chain c with gone := (s.chain c).gone + 1 }).setEng e
      ((s.eng e).setView c { (s.eng e).view c with snap := ((s.eng e).view c).snap - 1 })) ∧ Touched s t ∧
      ∀ k < 8, byteOf w k = hubByte s (laneAddr s c i.ep i.slot + k) := by
  obtain ⟨-, hhi, hcls⟩ := hlane
  obtain ⟨ht, hbytes⟩ := getArea_word (src := s.unitOf e) (r := s.chainLane c i.ep) hcls he hslot hhi
  refine ⟨(s.getArea (s.chainClass c) (s.unitOf e) (s.chainLane c i.ep) i.slot 1).1.headD 0, _, ?_, ht, fun k hk => ?_⟩
  · rw [State.popWord]
    simp only [hr, hsnap, hi, Bool.false_eq_true, if_false]
  rw [laneAddr, Nat.mod_eq_of_lt hslot]
  exact hbytes k hk

/-- cnt and cred: a guarded instruction that writes one scalar, and has no effect where its guard reads 0. -/
theorem noEffect_coreOp {s : State} {e : Eng} (h : s.runs e = true) {g : BitVec 4} (hg : (s.eng e).guard g = false) {c : Nat}
    {i : Instr} (f : Engine → Engine) (hi : exec i s = coreOp s e (fun x => x.guard g) c f) : Gives i s (NoEffect e c s) := by
  refine ⟨s.coreStep e c false id, hi.trans ?_, noEffect_coreStep s e c⟩
  rw [coreOp_runs h, hg]; rfl

theorem Engine.view_retire (x : Engine) (n c : Nat) : (x.retire n).view c = x.view c := rfl

theorem Engine.view_setS (x : Engine) (r : BitVec 6) (v : Word) (c : Nat) : (x.setS r v).view c = x.view c := by
  unfold Engine.setS; split <;> rfl

theorem Engine.view_setView (x : Engine) (c : Nat) (v : ChainView) : (x.setView c v).view c = v := look_put_self _ _ _ _

/-- Settles O14. -/
theorem popCountCredit : Obligations.PopCountCredit := by
  unfold Obligations.PopCountCredit
  intro e g q d s h
  refine ⟨fun hg => ?_, fun hg => ?_⟩
  · simp only [List.forall_mem_cons, List.not_mem_nil, false_implies, implies_true, and_true]
    refine ⟨⟨_, exec_pop h ?_, ?_⟩, noEffect_coreOp h hg
      (fun x => x.setS d (BitVec.ofNat 64 (x.view (s.handle e q)).snap)) rfl, noEffect_coreOp h hg
      (fun x => x.setS d (BitVec.ofNat 64 ((x.view (s.handle e q)).credit - (x.view (s.handle e q)).pushed))) rfl⟩
    · rw [waits_pop, hg]; rfl
    · rw [perform_pop_off hg]; exact noEffect_coreStep s e 4
  intro x c ch
  refine ⟨fun hen hcons => ⟨fun i hw hsnap hi hlane hslot he => ⟨_, exec_pop h hw, ?_⟩, fun hsnap => ⟨_, exec_pop h ?_, ?_⟩⟩, ?_, ?_⟩
  · have hr : s.popRefused c (s.unitOf e) = false := popRefused_of_consumer hen hcons
    obtain ⟨w, t, hpop, ht, hbytes⟩ := popWord_next hr hsnap hi hlane hslot he
    rw [perform_pop hg, show s.popWord e (s.handle e q) = _ from hpop]
    refine ⟨w, hbytes, fun r => ?_, ?_, ?_, ?_, ?_, fun k hk => ?_, ht.sr, ht.hub⟩
    · rw [coreStep_eng, if_pos rfl, if_pos rfl, State.setEng_get_eng, if_pos rfl, Engine.retire_s, Engine.s_setS]; rfl
    · rw [coreStep_eng, if_pos rfl, if_pos rfl, State.setEng_get_eng, if_pos rfl]
      rw [Engine.retire_run, Engine.setS_run]; rfl
    · simp [State.coreStep, ch, c]
    · simp [State.coreStep, ch, c]
    · rw [coreStep_eng, if_pos rfl, if_pos rfl, State.setEng_get_eng, if_pos rfl, Engine.view_retire, Engine.view_setS,
        Engine.view_setView]
    · simp [State.coreStep, hk, ht.chain k]
  · have hr : s.popRefused c (s.unitOf e) = false := popRefused_of_consumer hen hcons
    have hwaits : s.popWaits e c = false := by simp [State.popWaits, hr, show ((s.eng e).view c).snap = 0 from hsnap]
    rw [waits_pop, show s.popWaits e (s.handle e q) = false from hwaits, Bool.and_false]; rfl
  · have hr : s.popRefused c (s.unitOf e) = false := popRefused_of_consumer hen hcons
    rw [perform_pop hg, popWord_idle hr hsnap]
    exact scalarNext_coreStep s e 4 true d (idleItem c)
  · have hcnt := gives_scalar h (i := .cnt e g d q) (v := fun x => BitVec.ofNat 64 (x.view (s.handle e q)).snap) rfl rfl
    rw [if_pos hg] at hcnt
    exact hcnt
  · have hcred := gives_scalar h (i := .cred e g d q)
      (v := fun x => BitVec.ofNat 64 ((x.view (s.handle e q)).credit - (x.view (s.handle e q)).pushed)) rfl rfl
    rw [if_pos hg] at hcred
    exact hcred

end Sys2Proof.Machine
end

section
/-! SUPPORT. Words written to a ring of words in the hub, and what push, pushr, commit and rewind do (R46, R340, R342). -/

namespace Sys2Proof.Machine

/-! ### Words as cells -/

theorem look_cellsOf_append (a v n : Nat) (l : List Host.Cell) (j : Nat) :
    look (fun _ => (0 : Byte)) (cellsOf a v n ++ l) j =
      if a ≤ j ∧ j < a + n ∧ v / 256 ^ (j - a) % 256 ≠ 0 then BitVec.ofNat 8 (v / 256 ^ (j - a))
      else look (fun _ => (0 : Byte)) l j := by
  induction n generalizing a v with
  | zero => rw [if_neg (by omega)]; rfl
  | succ n ih =>
    have hcons : look (fun _ => (0 : Byte)) (cellsOf a v (n + 1) ++ l) j =
        if j = a ∧ v % 256 ≠ 0 then BitVec.ofNat 8 v else look (fun _ => (0 : Byte)) (cellsOf (a + 1) (v / 256) n ++ l) j := by
      rw [cellsOf]
      by_cases hv : v % 256 = 0
      · simp [hv]
      · by_cases hj : a = j
        · simp [hv, hj, look]
        · simp [hv, hj, look, Ne.symm hj]
    rw [hcons, ih]
    by_cases hj : j = a
    · subst hj
      by_cases hv : v % 256 = 0 <;> simp [hv]
    · by_cases hlt : a ≤ j
      · have hexp : j - a = j - (a + 1) + 1 := by omega
        rw [if_neg (by omega), hexp, Nat.pow_succ', ← Nat.div_div_eq_div_mul]
        congr 1
        simp only [eq_iff_iff]
        exact ⟨fun ⟨h1, h2, h3⟩ => ⟨hlt, by omega, h3⟩, fun ⟨h1, h2, h3⟩ => ⟨by omega, by omega, h3⟩⟩
      · rw [if_neg (by omega), if_neg (by omega), if_neg (by omega)]

/-- What the cells of words read. -/
theorem look_wordCells (a : Nat) (ws : List Word) (j : Nat) :
    look (fun _ => (0 : Byte)) (wordCells a ws) j =
      if a ≤ j ∧ j < a + 8 * ws.length then byteOf (ws.getD ((j - a) / 8) 0) ((j - a) % 8) else 0 := by
  induction ws generalizing a with
  | nil => rw [if_neg (by simp)]; rfl
  | cons w ws ih =>
    rw [wordCells, look_cellsOf_append, ih, List.length_cons]
    by_cases h8 : a ≤ j ∧ j < a + 8
    · have hdiv : (j - a) / 8 = 0 := by omega
      have hmod : (j - a) % 8 = j - a := by omega
      rw [if_neg (c := a + 8 ≤ j ∧ _) (by omega), if_pos (c := a ≤ j ∧ j < a + 8 * _) (by omega), hdiv, hmod]
      by_cases hz : w.toNat / 256 ^ (j - a) % 256 = 0
      · rw [if_neg (fun h => h.2.2 hz)]
        exact BitVec.eq_of_toNat_eq (by simp [byteOf, hz])
      · rw [if_pos ⟨h8.1, h8.2, hz⟩]; rfl
    · rw [if_neg (c := a ≤ j ∧ j < a + 8 ∧ _) (fun h => h8 ⟨h.1, h.2.1⟩)]
      by_cases hin : a + 8 ≤ j ∧ j < a + 8 + 8 * ws.length
      · have hdiv : (j - a) / 8 = (j - (a + 8)) / 8 + 1 := by omega
        have hmod : (j - (a + 8)) % 8 = (j - a) % 8 := by omega
        rw [if_pos hin, if_pos (by omega), hdiv, hmod, List.getD_cons_succ]
      · rw [if_neg hin, if_neg (by omega)]

/-! ### Words written to a ring -/

/-- Words written to consecutive places of the user region. -/
theorem hubByte_writeWords {s : State} {a : Nat} {ws : List Word} (cls src : Nat) (hlo : userBase ≤ a) (hn : ws ≠ [])
    (hhi : a + 8 * ws.length ≤ s.capacity) (b : Nat) :
    hubByte (s.writeAs false cls src a (8 * ws.length) (wordCells a ws)) b =
      if a ≤ b ∧ b < a + 8 * ws.length then byteOf (ws.getD ((b - a) / 8) 0) ((b - a) % 8) else hubByte s b := by
  have hpos : 0 < ws.length := List.length_pos_iff.2 hn
  rw [hubByte_writeAs cls src _ hlo (by omega) hhi, look_wordCells]
  by_cases hb : a ≤ b ∧ b < a + 8 * ws.length
  · rw [if_pos hb, if_pos hb, if_pos hb]
  · rw [if_neg hb, if_neg hb]

/-- Words stand at consecutive places of a ring from place `k`, and no other byte of the hub has changed. -/
structure WroteRing (s t : State) (r : HubArea) (k : Nat) (ws : List Word) : Prop where
  touched : Touched s { t with hub := s.hub }
  words   : ∀ i < ws.length, ∀ j < 8, hubByte t (wordAddr r (k + i) + j) = byteOf (ws.getD i 0) j
  frame   : ∀ b, (∀ i < ws.length, b < wordAddr r (k + i) ∨ wordAddr r (k + i) + 8 ≤ b) → hubByte t b = hubByte s b

/-- Words that end before the area does. -/
theorem putArea_of_fits {s : State} {cls k : Nat} (src : Nat) {r : HubArea} {ws : List Word} (hcls : cls ≠ 0)
    (hlo : userBase ≤ r.base) (hhi : r.base + 8 * r.words ≤ s.capacity) (hn : ws ≠ []) (hfit : k + ws.length ≤ r.words) :
    WroteRing s (s.putArea cls src r k ws) r k ws := by
  have hput : s.putArea cls src r k ws = s.writeAs false cls src (r.base + 8 * k) (8 * ws.length) (wordCells (r.base + 8 * k) ws) := by
    rw [State.putArea, pieces_of_fits hfit]
    simp only [List.foldl_cons, List.foldl_nil, List.take_length]
  have hplace {i : Nat} (hi : i < ws.length) : wordAddr r (k + i) = r.base + 8 * (k + i) := by
    rw [wordAddr, Nat.mod_eq_of_lt (by omega)]
  have hpos : 0 < ws.length := List.length_pos_iff.2 hn
  have hbyte := hubByte_writeWords (s := s) cls src (a := r.base + 8 * k) (by omega) hn (by omega)
  rw [hput]
  refine ⟨writeAs_touched hcls src _ (by omega) (by omega) (by omega), fun i hi j hj => ?_, fun b hb => ?_⟩
  · have hdiv : (r.base + 8 * (k + i) + j - (r.base + 8 * k)) / 8 = i := by omega
    have hmod : (r.base + 8 * (k + i) + j - (r.base + 8 * k)) % 8 = j := by omega
    rw [hplace hi, hbyte, if_pos (by omega), hdiv, hmod]
  · rw [hbyte, if_neg]
    rintro ⟨h1, h2⟩
    have hi : (b - (r.base + 8 * k)) / 8 < ws.length := by omega
    have hout := hb _ hi
    rw [hplace hi] at hout
    omega

/-- Words that run past the end of the area go on at its first place. -/
theorem putArea_of_wraps {s : State} {cls k : Nat} (src : Nat) {r : HubArea} {ws : List Word} (hcls : cls ≠ 0)
    (hlo : userBase ≤ r.base) (hhi : r.base + 8 * r.words ≤ s.capacity) (hk : k < r.words) (hn : ws.length ≤ r.words)
    (hwrap : r.words < k + ws.length) : WroteRing s (s.putArea cls src r k ws) r k ws := by
  let m := r.words - k
  have hm : m = r.words - k := rfl
  let t := s.putArea cls src r k (ws.take m)
  have htake : (ws.take m).length = m := by rw [List.length_take]; omega
  have hdrop : (ws.drop m).length = ws.length - m := List.length_drop
  have hne (l : List Word) (h : 0 < l.length) : l ≠ [] := List.length_pos_iff.1 h
  have h1 : WroteRing s t r k (ws.take m) :=
    putArea_of_fits src hcls hlo hhi (hne _ (by omega)) (by omega)
  have hcap : t.capacity = s.capacity := srOnly_capacity h1.touched.sr
  have h2 : WroteRing t (t.putArea cls src r 0 (ws.drop m)) r 0 (ws.drop m) :=
    putArea_of_fits src hcls hlo (by rw [hcap]; exact hhi) (hne _ (by omega)) (by omega)
  have hput : s.putArea cls src r k ws = t.putArea cls src r 0 (ws.drop m) := by
    have hpieces : r.pieces k ws.length = [(r.base + 8 * k, m), (r.base, ws.length - m)] := by
      have hmin : min ws.length (r.words - k) = m := by omega
      rw [HubArea.pieces, hmin, if_pos (by omega)]
    have hfirst : t = s.writeAs false cls src (r.base + 8 * k) (8 * m) (wordCells (r.base + 8 * k) (ws.take m)) := by
      simp only [t, State.putArea]
      rw [pieces_of_fits (by omega), htake]
      simp only [List.foldl_cons, List.foldl_nil, List.take_take, Nat.min_self]
    rw [State.putArea, hpieces, State.putArea, pieces_of_fits (by omega), hdrop, hfirst]
    rfl
  have hhead {i : Nat} (hi : i < m) : wordAddr r (k + i) = r.base + 8 * (k + i) := by
    rw [wordAddr, Nat.mod_eq_of_lt (by omega)]
  have htail {i : Nat} (hi : m ≤ i) : wordAddr r (k + i) = wordAddr r (0 + (i - m)) := by
    have hsum : k + i = i - m + r.words := by omega
    rw [wordAddr, wordAddr, hsum, Nat.add_mod_right, Nat.zero_add]
  have hlow {i : Nat} (hi : i < ws.length - m) : wordAddr r (0 + i) = r.base + 8 * i := by
    rw [wordAddr, Nat.mod_eq_of_lt (by omega), Nat.zero_add]
  rw [hput]
  refine ⟨?_, fun i hi j hj => ?_, fun b hb => ?_⟩
  · have htouch2 : Touched { t with hub := s.hub } { t.putArea cls src r 0 (ws.drop m) with hub := s.hub } :=
      ⟨congrArg (fun u : State => { u with hub := s.hub }) h2.touched.rest, h2.touched.sr, h2.touched.errs⟩
    exact h1.touched.trans htouch2
  · by_cases him : i < m
    · rw [h2.frame, h1.words i (by omega) j hj]
      · simp [List.getD_eq_getElem?_getD, him]
      · intro i' hi'
        rw [hhead him, hlow (by omega)]
        omega
    · rw [htail (by omega), h2.words (i - m) (by omega) j hj]
      simp [List.getD_eq_getElem?_getD, Nat.add_sub_cancel' (Nat.le_of_not_lt him)]
  · rw [h2.frame, h1.frame]
    · exact fun i hi => hb i (by omega)
    · intro i hi
      have := hb (m + i) (by omega)
      rwa [htail (by omega), Nat.add_sub_cancel_left] at this

/-- Words written from a place of an area that holds so many. -/
theorem putArea_wrote {s : State} {cls k : Nat} (src : Nat) {r : HubArea} {ws : List Word} (hcls : cls ≠ 0)
    (hlo : userBase ≤ r.base) (hhi : r.base + 8 * r.words ≤ s.capacity) (hne : ws ≠ []) (hk : k < r.words)
    (hn : ws.length ≤ r.words) : WroteRing s (s.putArea cls src r k ws) r k ws := by
  by_cases hfit : k + ws.length ≤ r.words
  · exact putArea_of_fits src hcls hlo hhi hne hfit
  · exact putArea_of_wraps src hcls hlo hhi hk hn (by omega)

/-! ### push and pushr (R46, R47) -/

theorem pushOver_le {s : State} {c u n : Nat} (h : s.pushOver c u n = false) :
    ((s.chain c).openOf u).overlong = false ∧ ((s.chain c).openOf u).n + n ≤ s.share c := by
  simp only [State.pushOver, Bool.or_eq_false_iff, decide_eq_false_iff_not, not_lt] at h
  exact ⟨h.1, by omega⟩

theorem pushRefused_of_producer {s : State} {c u : Nat} (hen : s.chainEn c = true) (hprod : s.isProducer c u = true) :
    s.pushRefused c u = false := by
  simp [State.pushRefused, hen, hprod]

/-- The chain whose open packet of an endpoint has `n` words more. -/
def Chain.lengthened (x : Chain) (u n : Nat) : Chain := x.setOpen u { x.openOf u with n := (x.openOf u).n + n }

/-- A push that is neither refused nor overlong adds its words to the open packet, and to the lane. -/
theorem push_of_room {s : State} {c u : Nat} {ws : List Word} (hen : s.chainEn c = true) (hprod : s.isProducer c u = true)
    (hover : s.pushOver c u ws.length = false) :
    s.push c u ws = (s.setChain c ((s.chain c).lengthened u ws.length)).putArea (s.chainClass c) u (s.chainLane c u)
        ((((s.chain c).openOf u).start + ((s.chain c).openOf u).n) % s.share c) ws := by
  rw [State.push]
  simp only [pushRefused_of_producer hen hprod, (pushOver_le hover).1, hover, Bool.false_eq_true, if_false, Chain.lengthened]

/-- The words stand at the next places of the lane, and no other byte of the hub has changed. -/
theorem push_wrote {s : State} {c u : Nat} {ws : List Word} (hen : s.chainEn c = true) (hprod : s.isProducer c u = true)
    (hover : s.pushOver c u ws.length = false) (hlane : LaneInHub s c u) (hne : ws ≠ []) :
    WroteRing (s.setChain c ((s.chain c).lengthened u ws.length)) (s.push c u ws) (s.chainLane c u)
      ((((s.chain c).openOf u).start + ((s.chain c).openOf u).n) % s.share c) ws := by
  obtain ⟨hlo, hhi, hcls⟩ := hlane
  have hle := (pushOver_le hover).2
  have hpos : 0 < ws.length := List.length_pos_iff.2 hne
  rw [push_of_room hen hprod hover]
  have hcap : (s.setChain c ((s.chain c).lengthened u ws.length)).capacity = s.capacity := rfl
  have hshare : (s.chainLane c u).words = s.share c := rfl
  have hbase : (s.chainLane c u).base = s.chainLaneBase c u := rfl
  refine putArea_wrote u hcls ?_ ?_ hne ?_ ?_
  · rw [hbase]; exact hlo
  · rw [hbase, hshare, hcap]; exact hhi
  · rw [hshare]; exact Nat.mod_lt _ (by omega)
  · rw [hshare]; omega

theorem wordAddr_chainLane (s : State) (c u k i : Nat) :
    wordAddr (s.chainLane c u) (k % s.share c + i) = laneAddr s c u (k + i) := by
  have hmod : (k % s.share c + i) % s.share c = (k + i) % s.share c := Nat.mod_add_mod _ _ _
  rw [wordAddr, laneAddr, ← hmod]; rfl

/-- What a push of words by the engine's unit does, once the instruction retires. -/
theorem enginePush_gives {s : State} {e : Nat} {q : BitVec 4} {ws : List Word} (cost : Nat)
    (hen : s.chainEn (s.handle e q) = true) (hprod : s.isProducer (s.handle e q) (s.unitOf e) = true)
    (hover : s.pushOver (s.handle e q) (s.unitOf e) ws.length = false) (hlane : LaneInHub s (s.handle e q) (s.unitOf e))
    (hne : ws ≠ []) :
    let t := (s.enginePush e q ws).coreStep e cost true id
    let c := s.handle e q
    let u := s.unitOf e
    let o := (s.chain c).openOf u
    (((∀ k, k ≠ c → t.chain k = s.chain k) ∧ ∀ k, k ≠ e → t.eng k = s.eng k) ∧ SrOnly s t ∧
      (t.eng e).run = (s.eng e).run + cost ∧ (t.chain c).items = (s.chain c).items ∧
      (t.chain c).openOf u = { o with n := o.n + ws.length } ∧
      ∀ b, (∀ i < ws.length, b < laneAddr s c u (o.start + o.n + i) ∨ laneAddr s c u (o.start + o.n + i) + 8 ≤ b) →
        hubByte t b = hubByte s b) ∧
    ∀ i < ws.length, WordAt t (laneAddr s c u (o.start + o.n + i)) (ws.getD i 0) := by
  intro t c u o
  have hpush := push_wrote hen hprod hover hlane hne
  generalize hp : s.push (s.handle e q) (s.unitOf e) ws = p at hpush
  have ht : t = (p.notePush e c ws.length).coreStep e cost true id := by rw [← hp]; rfl
  have heng (k : Nat) : p.eng k = s.eng k := Touched.eng hpush.touched k
  have hchain (k : Nat) : p.chain k = (s.setChain c ((s.chain c).lengthened u ws.length)).chain k :=
    Touched.chain hpush.touched k
  have hplace (i : Nat) := wordAddr_chainLane s c u (o.start + o.n) i
  rw [ht]
  refine ⟨⟨⟨fun k hk => ?_, fun k hk => ?_⟩, hpush.touched.sr, ?_, ?_, ?_, fun b hb => ?_⟩, fun i hi j hj => ?_⟩
  · rw [show ((p.notePush e c ws.length).coreStep e cost true id).chain k = p.chain k from rfl, hchain, State.setChain_get_chain,
      if_neg hk]
  · rw [coreStep_eng, if_neg hk, State.notePush, State.setEng_get_eng, if_neg hk, heng]
  · rw [coreStep_eng, if_pos rfl, if_pos rfl, Engine.retire_run, State.notePush]; simp [heng, Engine.setView]
  · rw [show ((p.notePush e c ws.length).coreStep e cost true id).chain c = p.chain c from rfl, hchain, State.setChain_get_chain,
      if_pos rfl]; rfl
  · rw [show ((p.notePush e c ws.length).coreStep e cost true id).chain c = p.chain c from rfl, hchain, State.setChain_get_chain,
      if_pos rfl]
    exact look_put_self _ _ _ _
  · exact hpush.frame b (fun i hi => by rw [hplace]; exact hb i hi)
  · have hword := hpush.words i hi j hj
    rw [hplace] at hword
    exact hword

theorem waits_push (s : State) (e : Eng) (g q : BitVec 4) (a : BitVec 6) : s.waits e (.push e g q a) =
    if (s.eng e).guard g && s.pushWaits (s.handle e q) (s.unitOf e) 1 then some 4 else none := rfl

theorem waits_push_off {s : State} {e : Eng} {g : BitVec 4} (hg : (s.eng e).guard g = false) (q : BitVec 4) (a : BitVec 6) :
    s.waits e (.push e g q a) = none ∧ s.waits e (.pushr e g q a) = none :=
  ⟨if_neg (by simp [hg]), if_neg (by simp [hg])⟩

theorem exec_push {s : State} {e : Eng} {g q : BitVec 4} {a : BitVec 6} (h : s.runs e = true)
    (hw : s.waits e (.push e g q a) = none) : exec (.push e g q a) s =
      .next ((if (s.eng e).guard g then s.enginePush e q [(s.eng e).s a] else s).coreStep e 1 true id) :=
  issueOp_of_free h hw

theorem exec_pushr {s : State} {e : Eng} {g q : BitVec 4} {a : BitVec 6} (h : s.runs e = true)
    (hw : s.waits e (.pushr e g q a) = none) : exec (.pushr e g q a) s =
      .next (if (s.eng e).guard g then s.doPushr e q a else s.coreStep e 4 false id) :=
  issueOp_of_free h hw

theorem doPushr_of_aligned {s : State} {e : Nat} {a : BitVec 6} (q : BitVec 4) (hal : ((s.eng e).s a).toNat % 64 = 0)
    (hlt : ((s.eng e).s a).toNat < scratchSize) :
    s.doPushr e q a = (s.enginePush e q ((s.eng e).words8 ((s.eng e).s a).toNat)).coreStep e 4 true id := by
  rw [State.doPushr]
  simp only [hal, ne_eq, not_true_eq_false, if_false, if_neg (Nat.not_le.2 hlt)]

/-- The words of scratch a pushr takes. -/
theorem byteOf_words8 {x : Engine} {ad i : Nat} (hal : ad % 64 = 0) (hlt : ad < scratchSize) (hi : i < 64) :
    byteOf ((x.words8 ad).getD (i / 8) 0) (i % 8) = scrByte x (ad + i) := by
  have hin : ad + 8 * (i / 8) < scratchSize := by
    have hsize : scratchSize = 0x400000 := rfl
    omega
  have hsum : ad + 8 * (i / 8) + i % 8 = ad + i := by omega
  have hword : (x.words8 ad).getD (i / 8) 0 = BitVec.ofNat 64 (scrRead x.scratch (ad + 8 * (i / 8)) 8) := by
    have h8 : i / 8 < 8 := by omega
    simp [Engine.words8, List.getD_eq_getElem?_getD, h8]
  rw [hword, scrRead, if_pos hin, byteOf_readLE _ _ (Nat.mod_lt _ (by decide)), hsum]
  rfl

/-! ### commit and rewind (R342) -/

theorem exec_commit {s : State} {e : Eng} (h : s.runs e = true) (g q : BitVec 4) : exec (.commit e g q) s =
    .next ((if (s.eng e).guard g then s.engineCommit e q else s).coreStep e 2 true id) :=
  congrArg Host.Outcome.next (if_pos h)

theorem exec_rewind {s : State} {e : Eng} (h : s.runs e = true) (g q : BitVec 4) : exec (.rewind e g q) s =
    .next ((if (s.eng e).guard g then s.rewind (s.handle e q) (s.unitOf e) else s).coreStep e 2 true id) :=
  congrArg Host.Outcome.next (if_pos h)

/-- The chain once the open packet of a producer is committed, with the notice off. -/
def Chain.committed (x : Chain) (u share : Nat) : Chain :=
  { x.setOpen u { start := ((x.openOf u).start + (x.openOf u).n) % share } with
    items := x.items ++ itemsOf u share (x.openOf u).start (x.openOf u).n, armed := false }

theorem notice_off {s : State} {c : Nat} (hnotice : s.rf (Rf.CHN_CFG_NOTICE c) = 0) (b : Bool) :
    s.notice c b = s.setChain c { s.chain c with armed := false } := by
  rw [State.notice]
  exact if_neg (by simp [State.bit, hnotice])

/-- The commit of a packet, with no re-run and no notice in force. -/
theorem commit_of_packet {s : State} {c u : Nat} (hen : s.chainEn c = true) (hn : ((s.chain c).openOf u).n ≠ 0)
    (hrun : (s.wu u).rerun = none) (hnotice : s.rf (Rf.CHN_CFG_NOTICE c) = 0) :
    (s.commit c u).chain c = (s.chain c).committed u (s.share c) ∧ { s.commit c u with chains := s.chains } = s ∧
      ∀ k, k ≠ c → (s.commit c u).chain k = s.chain k := by
  have hcommit : s.commit c u = (s.setChain c ((s.chain c).setOpen u
      { start := (((s.chain c).openOf u).start + ((s.chain c).openOf u).n) % s.share c })).deliver c u
        ((s.chain c).openOf u).start ((s.chain c).openOf u).n := by
    rw [State.commit]
    simp only [hen, hn, hrun, Bool.not_true, Bool.false_eq_true, if_false, Option.isSome_none, Bool.false_and]
  rw [hcommit, State.deliver, notice_off]
  · refine ⟨?_, rfl, fun k hk => ?_⟩
    · simp only [State.setChain_get_chain, if_true]; rfl
    · simp only [State.setChain_get_chain, if_neg hk]
  · exact hnotice

/-- The engine notes a packet it makes (R65). -/
theorem engineCommit_of_packet {s : State} {e : Nat} {q : BitVec 4} (hen : s.chainEn (s.handle e q) = true)
    (hn : ((s.chain (s.handle e q)).openOf (s.unitOf e)).n ≠ 0) :
    ∃ l, s.engineCommit e q = (s.commit (s.handle e q) (s.unitOf e)).setEng e
      { (s.commit (s.handle e q) (s.unitOf e)).eng e with sent := l } := by
  rw [State.engineCommit]
  simp only [hen, hn, ne_eq, not_false_eq_true, decide_true, Bool.and_self, if_true]
  exact ⟨_, rfl⟩

/-- Settles O13. -/
theorem pushCommitRewind : Obligations.PushCommitRewind := by
  unfold Obligations.PushCommitRewind
  intro e g q a s h
  refine ⟨fun hg => ?_, fun hg => ?_⟩
  · have hoff := waits_push_off hg q a
    simp only [List.forall_mem_cons, List.not_mem_nil, false_implies, implies_true, and_true]
    refine ⟨⟨_, exec_push h hoff.1, ?_⟩, ⟨_, exec_pushr h hoff.2, ?_⟩, ⟨_, exec_commit h g q, ?_⟩, ⟨_, exec_rewind h g q, ?_⟩⟩ <;>
      rw [hg] <;> exact noEffect_coreStep s e _
  · intro x c u o others pushed hen hprod
    refine ⟨fun hlane hw hover => ⟨_, exec_push h hw, ?_⟩, fun hlane hw hal hlt hover => ⟨_, exec_pushr h hw, ?_⟩,
      fun hn hrun hnotice => ⟨_, exec_commit h g q, ?_⟩, ⟨_, exec_rewind h g q, ?_⟩⟩
    · have hpush := enginePush_gives (ws := [(s.eng e).s a]) 1 hen hprod hover hlane (List.cons_ne_nil _ _)
      rw [if_pos hg]
      exact ⟨hpush.1, hpush.2 0 Nat.zero_lt_one⟩
    · have hpush := enginePush_gives (ws := (s.eng e).words8 ((s.eng e).s a).toNat) 4 hen hprod hover hlane (List.cons_ne_nil _ _)
      rw [if_pos hg, doPushr_of_aligned q hal hlt]
      refine ⟨hpush.1, fun i hi => ?_⟩
      rw [← byteOf_words8 hal hlt hi]
      exact hpush.2 (i / 8) (by have : ((s.eng e).words8 ((s.eng e).s a).toNat).length = 8 := rfl; omega) (i % 8) (by omega)
    · obtain ⟨hchain, hrest, hothers⟩ := commit_of_packet hen hn hrun hnotice
      obtain ⟨l, hl⟩ := engineCommit_of_packet hen hn
      have heng (k : Nat) : (s.commit c u).eng k = s.eng k := (congrArg (fun t : State => t.eng k) hrest :)
      rw [if_pos hg, hl]
      refine ⟨⟨hothers, fun k hk => ?_⟩, (congrArg State.hub hrest :), (congrArg State.regs hrest :), ?_, ?_, ?_⟩
      · rw [coreStep_eng, if_neg hk, State.setEng_get_eng, if_neg hk]; exact heng k
      · rw [coreStep_eng, if_pos rfl, if_pos rfl, State.setEng_get_eng, if_pos rfl, Engine.retire_run]
        show ((s.commit c u).eng e).run + 2 = x.run + 2
        rw [heng]
      · exact (congrArg (fun y : Chain => y.openOf u) hchain).trans (look_put_self _ _ _ _)
      · refine ⟨itemsOf u (s.share c) o.start o.n, (congrArg Chain.items hchain :), ?_, fun i hi => ?_⟩
        · rw [itemsOf, List.length_map, List.length_range]
        · rw [itemsOf, List.getElem?_map, List.getElem?_range hi]; rfl
    · have hself : (s.rewind c u).chain c = (s.chain c).setOpen u o.rewound := by
        rw [State.rewind, State.setChain_get_chain, if_pos rfl]
      rw [if_pos hg]
      refine ⟨⟨fun k hk => ?_, fun k hk => ?_⟩, rfl, rfl, ?_, (congrArg Chain.items hself :), ?_⟩
      · exact (State.setChain_get_chain _ _ _ _).trans (if_neg hk)
      · rw [coreStep_eng, if_neg hk]; rfl
      · rw [coreStep_eng, if_pos rfl, if_pos rfl, Engine.retire_run]; rfl
      · exact (congrArg (fun y : Chain => y.openOf u) hself).trans (look_put_self _ _ _ _)

end Sys2Proof.Machine
end

section
/-! SUPPORT. fence, event and wtick: synchronisation and the end of a band (2.3.2). -/

namespace Sys2Proof.Machine

/-! ### What raising an event leaves alone -/

@[simp] theorem raise_engines (s : State) (c a0 a1 a2 : Nat) : (s.raise c a0 a1 a2).engines = s.engines :=
  (Fetched.raise s c a0 a1 a2).engines

@[simp] theorem raise_eng (s : State) (c a0 a1 a2 k : Nat) : (s.raise c a0 a1 a2).eng k = s.eng k :=
  (Fetched.raise s c a0 a1 a2).eng k

@[simp] theorem raise_wu (s : State) (c a0 a1 a2 k : Nat) : (s.raise c a0 a1 a2).wu k = s.wu k :=
  (Fetched.raise s c a0 a1 a2).wu k

@[simp] theorem raise_count (s : State) (c a0 a1 a2 : Nat) : (s.raise c a0 a1 a2).count = s.count :=
  (Fetched.raise s c a0 a1 a2).count

@[simp] theorem raise_hub (s : State) (c a0 a1 a2 : Nat) : (s.raise c a0 a1 a2).hub = s.hub :=
  (Fetched.raise s c a0 a1 a2).hub

/-- The register fields of the event machinery lie at 0xA00000 and above, below those of the engines. -/
theorem rf_raise {f : Fld} (hf : ∀ g ∈ eventFlds, f.key ≠ g.key) (s : State) (c a0 a1 a2 : Nat) :
    (s.raise c a0 a1 a2).rf f = s.rf f :=
  (raise_frame s c a0 a1 a2 []).2 f hf

theorem engine_key_ne_event {f : Fld} (hf : 0x1000000 ≤ f.addr) : ∀ g ∈ eventFlds, f.key ≠ g.key := by
  have hlt : ∀ g ∈ eventFlds, g.key < 0x1000000 * 64 := by decide
  intro g hg
  have := hlt g hg
  rw [Fld.key]
  omega

theorem rf_raise_engine {f : Fld} (hf : 0x1000000 ≤ f.addr) (s : State) (c a0 a1 a2 : Nat) :
    (s.raise c a0 a1 a2).rf f = s.rf f :=
  rf_raise (engine_key_ne_event hf) s c a0 a1 a2

/-- An event raised once the queue is as it was. -/
theorem raised_of_evq_eq {s t : State} (h : t.evq = s.evq) (hroom : s.evq.length < 1024) (c a0 a1 a2 : Nat) :
    Raised s (t.raise c a0 a1 a2) c a0 a1 a2 :=
  (raise_raised t c a0 a1 a2 (by rw [h]; exact hroom)).earlier (by rw [h])

/-! ### The end of a band -/

/-- Of an engine its scalars and scratch, the cycles it has reported, and the instant, are as they were. -/
structure KeepsCore (e : Nat) (s t : State) : Prop where
  scratch : (t.eng e).scratch = (s.eng e).scratch
  sregs   : (t.eng e).sregs = (s.eng e).sregs
  count   : t.count = s.count
  last    : t.rf (Rf.ENG_RUN_LAST e) = s.rf (Rf.ENG_RUN_LAST e)

theorem KeepsCore.refl (e : Nat) (s : State) : KeepsCore e s s := ⟨rfl, rfl, rfl, rfl⟩

theorem KeepsCore.trans {e : Nat} {s t u : State} (h1 : KeepsCore e s t) (h2 : KeepsCore e t u) : KeepsCore e s u :=
  ⟨h2.scratch.trans h1.scratch, h2.sregs.trans h1.sregs, h2.count.trans h1.count, h2.last.trans h1.last⟩

theorem KeepsCore.raise (e : Nat) (s : State) (c a0 a1 a2 : Nat) : KeepsCore e s (s.raise c a0 a1 a2) := by
  refine ⟨by rw [raise_eng], by rw [raise_eng], raise_count _ _ _ _ _, rf_raise (engine_key_ne_event ?_) _ _ _ _ _⟩
  exact Nat.le_add_right_of_le (by decide)

theorem KeepsCore.setrf {e : Nat} (s : State) {f : Fld} (hf : (Rf.ENG_RUN_LAST e).key ≠ f.key) (v : Nat) :
    KeepsCore e s (s.setrf f v) :=
  ⟨rfl, rfl, rfl, State.rf_setrf s f _ v hf⟩

/-- Fields at other places of the engines' pages are not the last run cycles. -/
theorem runLast_key_ne {e : Nat} {f : Fld} (hf : f.addr % 0x1000 ≠ 0x48) (hlo : f.lo < 64) : (Rf.ENG_RUN_LAST e).key ≠ f.key := by
  have hkey : (Rf.ENG_RUN_LAST e).key = (0x1000048 + 0x1000 * e) * 64 + 0 := rfl
  rw [hkey, Fld.key]
  omega

theorem makeSpare_keepsCore (e : Nat) (s : State) (f : Nat) : KeepsCore e s (s.makeSpare f) := by
  have hspares : (sparesFld (engSection f)).addr % 0x1000 ≠ 0x48 ∧ (sparesFld (engSection f)).lo < 64 := by
    unfold sparesFld; split <;> decide
  have hrole (a : Nat) (h : a % 0x1000 ≠ 0x48) : (0x1000000 + a + 0x1000 * f) % 0x1000 ≠ 0x48 := by omega
  unfold State.makeSpare
  exact ((((KeepsCore.setrf s (runLast_key_ne (hrole 0x10 (by decide)) (Nat.le_of_ble_eq_true rfl)) 0).trans
    (.setrf _ (runLast_key_ne (hrole 0x10 (by decide)) (Nat.le_of_ble_eq_true rfl)) 1)).trans
    (.setrf _ (runLast_key_ne (hrole 0x10 (by decide)) (Nat.le_of_ble_eq_true rfl)) 0xFF)).trans
    (.setrf _ (runLast_key_ne (hrole 0x8 (by decide)) (Nat.le_of_ble_eq_true rfl)) 8)).trans
    (.setrf _ (runLast_key_ne hspares.1 hspares.2) _)

theorem rerunDone_keepsCore (e : Nat) (s : State) (u : Nat) : KeepsCore e s (s.rerunDone u) := by
  have hlost (s : State) (f : Nat) : KeepsCore e s (if (s.eng f).injected then
      ((s.setEng f { s.eng f with injected := false }).makeSpare f).raise 0xE005 f else s) := by
    split
    · have hset : KeepsCore e s (s.setEng f { s.eng f with injected := false }) := by
        refine ⟨?_, ?_, rfl, rfl⟩ <;> rw [State.setEng_get_eng] <;> split
        · next h => rw [h]
        · rfl
        · next h => rw [h]
        · rfl
      exact (hset.trans (makeSpare_keepsCore e _ f)).trans (.raise e _ _ _ _ _)
    · exact .refl e s
  unfold State.rerunDone
  dsimp only
  split
  · exact .refl e s
  · refine KeepsCore.trans ?_ (foldl_relates (KeepsCore.refl e) .trans hlost _ _)
    refine KeepsCore.trans ?_ (KeepsCore.raise e _ _ _ _ _)
    exact ⟨rfl, rfl, rfl, rfl⟩

theorem bandEndItem_keepsCore (e : Nat) (s : State) (u n : Nat) : KeepsCore e s (s.bandEndItem u n) := by
  unfold State.bandEndItem
  split
  · exact ⟨rfl, rfl, rfl, rfl⟩
  · exact .refl e s

/-- What the report of a band's cycles shows (R50). -/
theorem reportCycles_last (s : State) (e : Nat) : (s.reportCycles e).rf (Rf.ENG_RUN_LAST e) = min (s.eng e).cycles 0xFFFFFFFF := by
  have hmax : (Rf.ENG_RUN_LAST e).key ≠ (Rf.ENG_RUN_MAX e).key := by simp only [Fld.key, Rf.ENG_RUN_LAST, Rf.ENG_RUN_MAX]; omega
  have hpage (a : Nat) (h : a % 0x1000 ≠ 0x48) : (0x1000000 + a + 0x1000 * e) % 0x1000 ≠ 0x48 := by omega
  have hwidth : 2 ^ (Rf.ENG_RUN_LAST e).width = 0x100000000 := rfl
  unfold State.reportCycles State.peak
  dsimp only
  rw [State.rf_setrf _ _ _ _ (runLast_key_ne (hpage 0x78 (by decide)) (Nat.le_of_ble_eq_true rfl)),
    State.rf_setrf _ _ _ _ (runLast_key_ne (hpage 0x78 (by decide)) (Nat.le_of_ble_eq_true rfl)),
    State.rf_setrf _ _ _ _ (runLast_key_ne (hpage 0x50 (by decide)) (Nat.le_of_ble_eq_true rfl)),
    State.rf_setrf _ _ _ _ (runLast_key_ne (hpage 0x50 (by decide)) (Nat.le_of_ble_eq_true rfl)),
    State.rf_setrf _ _ _ _ hmax, State.rf_setrf_self, hwidth, Nat.mod_eq_of_lt (by omega)]

/-- The band's writes are done and its cycles are reported; what follows ends the re-run and gives the unit its next band. -/
def State.bandReported (s : State) (e : Nat) : State :=
  let n := (s.eng e).tok.band
  (((s.setEng e ((s.eng e).retire 1)).writeCheckpoint e n).returnCredits (s.unitOf e)).reportCycles e

theorem bandReported_core (s : State) (e : Nat) : ((s.bandReported e).eng e) = (s.eng e).retire 1 ∧
    (s.bandReported e).count = s.count ∧
    (s.bandReported e).rf (Rf.ENG_RUN_LAST e) = min ((s.eng e).run + 1 - (s.eng e).lag) 0xFFFFFFFF := by
  have hwrite := writeAs_accessed (s.setEng e ((s.eng e).retire 1)) true
    (hubClass true ((s.setEng e ((s.eng e).retire 1)).unitOf e)) ((s.setEng e ((s.eng e).retire 1)).unitOf e)
  have heng : (((s.setEng e ((s.eng e).retire 1)).writeCheckpoint e (s.eng e).tok.band).eng e) = (s.eng e).retire 1 :=
    ((hwrite _ _ _).eng e).trans (by rw [State.setEng_get_eng, if_pos rfl])
  refine ⟨heng, (hwrite _ _ _).count, (reportCycles_last _ e).trans ?_⟩
  have hret : (((s.setEng e ((s.eng e).retire 1)).writeCheckpoint e (s.eng e).tok.band).returnCredits (s.unitOf e)).eng e =
    (s.eng e).retire 1 := heng
  rw [hret]; rfl

/-- The unit has completed the band, and the engine waits for the next one at its first instruction (R50). -/
theorem endBand_gives (s : State) (e : Nat) : (s.endBand e).rf (Rf.ENG_STATUS_STATE e) = 1 ∧
    ((s.endBand e).wu (s.unitOf e)).done = (s.eng e).tok.band + 1 ∧ ((s.endBand e).wu (s.unitOf e)).doneAt = s.count ∧
    ((s.endBand e).eng e).pc = 0 ∧ ((s.endBand e).eng e).loops = [] ∧
    (s.endBand e).rf (Rf.ENG_RUN_LAST e) = min ((s.eng e).run + 1 - (s.eng e).lag) 0xFFFFFFFF ∧
    ((s.endBand e).eng e).scratch = (s.eng e).scratch ∧ ∀ r, ((s.endBand e).eng e).s r = (s.eng e).s r := by
  obtain ⟨heng, hcount, hlast⟩ := bandReported_core s e
  have hkeeps := (rerunDone_keepsCore e (s.bandReported e) (s.unitOf e)).trans
    (bandEndItem_keepsCore e _ (s.unitOf e) (s.eng e).tok.band)
  generalize hp : ((s.bandReported e).rerunDone (s.unitOf e)).bandEndItem (s.unitOf e) (s.eng e).tok.band = p at hkeeps
  have hend : s.endBand e = ((p.setWu (s.unitOf e) { p.wu (s.unitOf e) with
      done := (s.eng e).tok.band + 1, doneAt := p.count,
      ends := ((s.eng e).tok.band, (p.eng e).wtickAt.getD p.count) :: (p.wu (s.unitOf e)).ends.take 7 }).setEng e
        { p.eng e with pc := 0, loops := [], sent := [], lag := 0, wtickAt := none }).setrf (Rf.ENG_STATUS_STATE e) 1 := by
    rw [← hp]; rfl
  have hself : (s.endBand e).eng e = { p.eng e with pc := 0, loops := [], sent := [], lag := 0, wtickAt := none } := by
    rw [hend, State.setrf_get_eng, State.setEng_get_eng, if_pos rfl]
  have hunit : (s.endBand e).wu (s.unitOf e) = { p.wu (s.unitOf e) with
      done := (s.eng e).tok.band + 1, doneAt := p.count,
      ends := ((s.eng e).tok.band, (p.eng e).wtickAt.getD p.count) :: (p.wu (s.unitOf e)).ends.take 7 } := by
    rw [hend, State.setrf_get_wu, State.setEng_get_wu, State.setWu_get_wu, if_pos rfl]
  have hstate : (Rf.ENG_RUN_LAST e).key ≠ (Rf.ENG_STATUS_STATE e).key := by
    simp only [Fld.key, Rf.ENG_RUN_LAST, Rf.ENG_STATUS_STATE]; omega
  refine ⟨?_, by rw [hunit], ?_, by rw [hself], by rw [hself], ?_, ?_, fun r => ?_⟩
  · rw [hend, State.rf_setrf_self]; rfl
  · rw [hunit]; exact hkeeps.count.trans hcount
  · rw [hend, State.rf_setrf _ _ _ _ hstate]
    exact hkeeps.last.trans hlast
  · rw [hself]; exact hkeeps.scratch.trans (congrArg Engine.scratch heng :)
  · rw [hself]
    have hregs : (p.eng e).sregs = (s.eng e).sregs := hkeeps.sregs.trans (congrArg Engine.sregs heng :)
    rw [Engine.s, Engine.s, hregs]

/-! ### The three instructions -/

theorem exec_event {s : State} {e : Eng} (h : s.runs e = true) (g : BitVec 4) (code : BitVec 11) : exec (.event e g code) s =
    .next ((if (s.eng e).guard g then s.raise (0xD800 + code.toNat) (e + 256 * s.unitOf e) else s).coreStep e 2 true id) :=
  congrArg Host.Outcome.next (if_pos h)

/-- Settles O20. -/
theorem synchronisationAndBandEnd : Obligations.SynchronisationAndBandEnd := by
  unfold Obligations.SynchronisationAndBandEnd
  intro e g mask code s h x
  refine ⟨fun hw => ⟨_, issueOp_of_free h hw, ?_⟩, fun hg hroom => ⟨_, exec_event h g code, ?_⟩,
    fun hg => ⟨_, exec_event h g code, ?_⟩, fun hw => ⟨_, issueOp_of_free h hw, endBand_gives s e⟩⟩
  · obtain ⟨honly, hnext, hrun, hrest⟩ := noEffect_coreStep s e 4
    exact ⟨honly, hnext, hrun, hrest⟩
  · rw [if_pos hg]
    have hr := raise_raised s (0xD800 + code.toNat) (e + 256 * s.unitOf e) 0 0 hroom
    obtain ⟨hrest, hfields⟩ := raise_frame s (0xD800 + code.toNat) (e + 256 * s.unitOf e) 0 0 []
    refine ⟨hr, ?_, ?_, (congrArg (fun t : State => { t with engines := s.engines }) hrest :), hfields⟩
    · rw [coreStep_eng, if_pos rfl, if_pos rfl, raise_eng]; rfl
    · rw [Continues, coreStep_eng, if_pos rfl, if_pos rfl, raise_eng]; rfl
  · rw [if_neg (Bool.eq_false_iff.1 hg)]
    obtain ⟨honly, hnext, hrun, -⟩ := noEffect_coreStep s e 2
    exact ⟨honly, hnext, hrun⟩

end Sys2Proof.Machine
end

section
/-! SUPPORT. The bits of ENG_CTRL and the admission of images (2.6, R54 to R57). -/

namespace Sys2Proof.Machine

/-! ### The bits of ENG_CTRL -/

theorem exec_load (e : Eng) (s : State) : exec (.load e) s = .next (s.loadOp e) := by
  have hctrl : s.engCtrl e 1 = s.loadOp e := by simp [State.engCtrl, Nat.testBit]
  exact congrArg Host.Outcome.next hctrl

theorem exec_abort (e : Eng) (s : State) : exec (.abort e) s = .next (s.abortOp e) := by
  have hctrl : s.engCtrl e 2 = s.abortOp e := by simp [State.engCtrl, Nat.testBit]
  exact congrArg Host.Outcome.next hctrl

theorem exec_swap (e : Eng) (s : State) : exec (.swap e) s = .next (s.swapOp e) := by
  have hctrl : s.engCtrl e 4 = s.swapOp e := by simp [State.engCtrl, Nat.testBit]
  exact congrArg Host.Outcome.next hctrl

theorem exec_constReload (e : Eng) (s : State) : exec (.constReload e) s = .next (s.reloadOp e) := by
  have hctrl : s.engCtrl e 8 = s.reloadOp e := by simp [State.engCtrl, Nat.testBit]
  exact congrArg Host.Outcome.next hctrl

theorem exec_disarm (e : Eng) (s : State) : exec (.disarm e) s = .next (s.disarmOp e) := by
  have hctrl : s.engCtrl e 16 = s.disarmOp e := by simp [State.engCtrl, Nat.testBit]
  exact congrArg Host.Outcome.next hctrl

theorem bit_eq_false {s : State} {f : Fld} (h : s.rf f = 0) : s.bit f = false := by simp [State.bit, h]
theorem bit_eq_true {s : State} {f : Fld} (h : s.rf f ≠ 0) : s.bit f = true := by simp [State.bit, h]

/-! ### What is recorded of the staging bank -/

theorem Engine.adm_setAdm (x : Engine) (b : Bool) (a : BankAdm) : (x.setAdm b a).adm b = a := by cases b <;> rfl

theorem Engine.setAdm_frame (x : Engine) (b : Bool) (a : BankAdm) : { x.setAdm b a with adm0 := x.adm0, adm1 := x.adm1 } = x := by
  cases b <;> rfl

@[simp] theorem setStaging_eng (s : State) (e k : Nat) (a : BankAdm) :
    (s.setStaging e a).eng k = if k = e then (s.eng e).setAdm (!s.activeBank e) a else s.eng k := by
  rw [State.setStaging, State.setrf_get_eng, State.setrf_get_eng, State.setEng_get_eng]

theorem setStaging_rf (s : State) (e : Nat) (a : BankAdm) {f : Fld} (h1 : f.key ≠ (Rf.ENG_ADM_RESULT e).key)
    (h2 : f.key ≠ (Rf.ENG_BOUND_BOUND e).key) : (s.setStaging e a).rf f = s.rf f := by
  rw [State.setStaging, State.rf_setrf _ _ _ _ h2, State.rf_setrf _ _ _ _ h1]; rfl

theorem setStaging_result (s : State) (e : Nat) (a : BankAdm) :
    (s.setStaging e a).rf (Rf.ENG_ADM_RESULT e) = a.result % 2 ^ (Rf.ENG_ADM_RESULT e).width := by
  have hk : (Rf.ENG_ADM_RESULT e).key ≠ (Rf.ENG_BOUND_BOUND e).key := by
    simp only [Fld.key, Rf.ENG_ADM_RESULT, Rf.ENG_BOUND_BOUND]; omega
  rw [State.setStaging, State.rf_setrf _ _ _ _ hk, State.rf_setrf_self]

theorem setStaging_bound (s : State) (e : Nat) (a : BankAdm) :
    (s.setStaging e a).rf (Rf.ENG_BOUND_BOUND e) = a.bound % 2 ^ (Rf.ENG_BOUND_BOUND e).width := by
  rw [State.setStaging, State.rf_setrf_self]

@[simp] theorem setStaging_hub (s : State) (e : Nat) (a : BankAdm) : (s.setStaging e a).hub = s.hub := rfl
@[simp] theorem setStaging_evq (s : State) (e : Nat) (a : BankAdm) : (s.setStaging e a).evq = s.evq := rfl

/-- What a refusal leaves: its result, the admission of the staging bank, and event 0xD002. -/
theorem refuseImage_eq (s : State) (e result index : Nat) : s.refuseImage e result index =
    ((s.setStaging e { (s.eng e).adm (!s.activeBank e) with result := result }).setrf (Rf.ENG_ADM_INDEX e) index).raise 0xD002
      (e + 256 * s.unitOf e) result index := rfl

/-- The fields of an engine's page lie above those of the event machinery. -/
theorem page_le {a : Nat} (h : 0x1000000 ≤ a) (e : Nat) : 0x1000000 ≤ a + 0x1000 * e := Nat.le_add_right_of_le h

theorem refuseImage_fields (s : State) (e : Nat) {result : Nat} (index : Nat) (hres : result < 32) :
    (s.refuseImage e result index).rf (Rf.ENG_ADM_RESULT e) = result ∧
      (s.refuseImage e result index).rf (Rf.ENG_ADM_BUSY e) = s.rf (Rf.ENG_ADM_BUSY e) ∧
      (s.refuseImage e result index).rf (Rf.ENG_ADM_INDEX e) = index % 2 ^ (Rf.ENG_ADM_INDEX e).width := by
  have hindex : (Rf.ENG_ADM_RESULT e).key ≠ (Rf.ENG_ADM_INDEX e).key := by
    simp only [Fld.key, Rf.ENG_ADM_RESULT, Rf.ENG_ADM_INDEX]; omega
  have hbusy : (Rf.ENG_ADM_BUSY e).key ≠ (Rf.ENG_ADM_INDEX e).key ∧ (Rf.ENG_ADM_BUSY e).key ≠ (Rf.ENG_ADM_RESULT e).key ∧
      (Rf.ENG_ADM_BUSY e).key ≠ (Rf.ENG_BOUND_BOUND e).key := by
    simp only [Fld.key, Rf.ENG_ADM_BUSY, Rf.ENG_ADM_INDEX, Rf.ENG_ADM_RESULT, Rf.ENG_BOUND_BOUND]; omega
  have hwidth : 2 ^ (Rf.ENG_ADM_RESULT e).width = 32 := rfl
  have hpage : 0x1000000 ≤ 0x1000018 + 0x1000 * e := page_le (by decide) e
  rw [refuseImage_eq]
  refine ⟨?_, ?_, ?_⟩
  · rw [rf_raise_engine hpage, State.rf_setrf _ _ _ _ hindex, setStaging_result, hwidth, Nat.mod_eq_of_lt hres]
  · rw [rf_raise_engine hpage, State.rf_setrf _ _ _ _ hbusy.1, setStaging_rf _ _ _ hbusy.2.1 hbusy.2.2]
  · rw [rf_raise_engine hpage, State.rf_setrf_self]

theorem refuseImage_eng (s : State) (e result index : Nat) : (s.refuseImage e result index).eng e =
    (s.eng e).setAdm (!s.activeBank e) { (s.eng e).adm (!s.activeBank e) with result := result } := by
  rw [refuseImage_eq, raise_eng, State.setrf_get_eng, setStaging_eng, if_pos rfl]

theorem refuseImage_hub (s : State) (e result index : Nat) : (s.refuseImage e result index).hub = s.hub := by
  rw [refuseImage_eq, raise_hub]; rfl

theorem refuseImage_raised {s : State} (e result index : Nat) (hroom : s.evq.length < 1024) :
    Raised s (s.refuseImage e result index) 0xD002 (e + 256 * s.unitOf e) result index := by
  rw [refuseImage_eq]
  refine raised_of_evq_eq ?_ hroom _ _ _ _
  rfl

theorem disarmSwap_eng (s : State) (e k : Nat) :
    (s.disarmSwap e).eng k = if k = e then { s.eng e with swapAt := none } else s.eng k := by
  rw [State.disarmSwap, State.showArmed, State.setrf_get_eng, State.setEng_get_eng]

theorem disarmSwap_rf (s : State) (e : Nat) {f : Fld} (h : f.key ≠ (Rf.ENG_STATUS_SWAP_ARMED e).key) :
    (s.disarmSwap e).rf f = s.rf f := by
  rw [State.disarmSwap, State.showArmed, State.rf_setrf _ _ _ _ h]; rfl

theorem disarmSwap_mode (s : State) (e : Nat) : (s.disarmSwap e).mode = s.mode := by
  have hkey : Rf.GLB_STATUS_MODE.key ≠ (Rf.ENG_STATUS_SWAP_ARMED e).key := by
    simp only [Fld.key, Rf.GLB_STATUS_MODE, Rf.ENG_STATUS_SWAP_ARMED]; omega
  exact disarmSwap_rf s e hkey

/-- A LOAD that a walk in progress leaves without effect. -/
theorem loadOp_busy {s : State} {e : Eng} (h : s.rf (Rf.ENG_ADM_BUSY e) ≠ 0) :
    s.loadOp e = s.raise 0xD003 (e + 256 * s.unitOf e) :=
  if_pos (bit_eq_true h)

theorem loadOp_standby {s : State} {e : Eng} (h : s.rf (Rf.ENG_ADM_BUSY e) = 0) (hmode : s.mode = 0 ∨ s.mode = 5) :
    s.loadOp e = (s.disarmSwap e).refuseImage e 13 0 := by
  rw [State.loadOp, bit_eq_false h, if_neg Bool.false_ne_true]
  dsimp only
  rw [disarmSwap_mode, if_pos hmode]

theorem loadOp_unserving {s : State} {e : Eng} (h : s.rf (Rf.ENG_ADM_BUSY e) = 0) (h0 : s.mode ≠ 0) (h5 : s.mode ≠ 5)
    (hrole : s.rf (Rf.ENG_ROLE_RETIRED e) ≠ 0 ∨ s.rf (Rf.ENG_ROLE_SPARE e) ≠ 0) :
    s.loadOp e = (s.disarmSwap e).refuseImage e 14 0 := by
  rw [State.loadOp, bit_eq_false h, if_neg Bool.false_ne_true]
  have hkeys : (Rf.ENG_ROLE_RETIRED e).key ≠ (Rf.ENG_STATUS_SWAP_ARMED e).key ∧
      (Rf.ENG_ROLE_SPARE e).key ≠ (Rf.ENG_STATUS_SWAP_ARMED e).key := by
    simp only [Fld.key, Rf.ENG_ROLE_RETIRED, Rf.ENG_ROLE_SPARE, Rf.ENG_STATUS_SWAP_ARMED]; omega
  have hout : ((s.disarmSwap e).bit (Rf.ENG_ROLE_RETIRED e) || (s.disarmSwap e).bit (Rf.ENG_ROLE_SPARE e)) = true := by
    rw [State.bit, State.bit, disarmSwap_rf _ _ hkeys.1, disarmSwap_rf _ _ hkeys.2]
    simpa using hrole
  dsimp only
  rw [disarmSwap_mode, if_neg (not_or.2 ⟨h0, h5⟩), if_pos hout]

theorem shadowBank_accessed (s : State) (e : Nat) (b : Bool) : Accessed s (s.shadowBank e b) := by
  unfold State.shadowBank State.hubWrite
  exact writeAs_accessed _ _ _ _ _ _ _

theorem shadowConstants_accessed (s : State) (e n : Nat) : Accessed s (s.shadowConstants e n) := by
  unfold State.shadowConstants State.hubWrite
  exact (readAs_fetched _ _ _ _ _).accessed.trans (writeAs_accessed _ _ _ _ _ _ _)

/-- A LOAD that starts a walk: the images have gone to the shadow, and the walk has its result to come. -/
theorem loadOp_walk {s : State} {e : Eng} (h : s.rf (Rf.ENG_ADM_BUSY e) = 0) (h0 : s.mode ≠ 0) (h5 : s.mode ≠ 5)
    (hret : s.rf (Rf.ENG_ROLE_RETIRED e) = 0) (hspare : s.rf (Rf.ENG_ROLE_SPARE e) = 0) :
    ∃ p w v, Accessed (s.disarmSwap e) p ∧ s.loadOp e =
      ((State.setEng p e { p.eng e with walk := some w }).setrf (Rf.ENG_ADM_BUSY e) 1).setrf (Rf.ENG_BUDGET_BUDGET e) v := by
  have hkeys : (Rf.ENG_ROLE_RETIRED e).key ≠ (Rf.ENG_STATUS_SWAP_ARMED e).key ∧
      (Rf.ENG_ROLE_SPARE e).key ≠ (Rf.ENG_STATUS_SWAP_ARMED e).key := by
    simp only [Fld.key, Rf.ENG_ROLE_RETIRED, Rf.ENG_ROLE_SPARE, Rf.ENG_STATUS_SWAP_ARMED]; omega
  have hin : ((s.disarmSwap e).bit (Rf.ENG_ROLE_RETIRED e) || (s.disarmSwap e).bit (Rf.ENG_ROLE_SPARE e)) = false := by
    rw [State.bit, State.bit, disarmSwap_rf _ _ hkeys.1, disarmSwap_rf _ _ hkeys.2, hret, hspare]; rfl
  rw [State.loadOp, bit_eq_false h, if_neg Bool.false_ne_true]
  dsimp only
  rw [disarmSwap_mode, if_neg (not_or.2 ⟨h0, h5⟩), hin, if_neg Bool.false_ne_true]
  exact ⟨_, _, _, (shadowBank_accessed _ _ _).trans (shadowConstants_accessed _ _ _), rfl⟩

/-! ### The end of a walk -/

theorem exec_admissionWalkComplete {s : State} {e : Eng} {w : Walk} (h : (s.eng e).walk = some w) :
    exec (.admissionWalkComplete e) s = .next (s.walkDone e w) := by
  have hexec : exec (.admissionWalkComplete e) s = .next (match (s.eng e).walk with | some w => s.walkDone e w | none => s) := rfl
  rw [hexec, h]

/-- The engine's walk is over. -/
def State.walkOver (s : State) (e : Nat) : State := (s.setEng e { s.eng e with walk := none }).setrf (Rf.ENG_ADM_BUSY e) 0

theorem walkOver_eng (s : State) (e : Nat) : (s.walkOver e).eng e = { s.eng e with walk := none } := by
  rw [State.walkOver, State.setrf_get_eng, State.setEng_get_eng, if_pos rfl]

theorem walkOver_busy (s : State) (e : Nat) : (s.walkOver e).rf (Rf.ENG_ADM_BUSY e) = 0 := by
  rw [State.walkOver, State.rf_setrf_self]; rfl

theorem walkOver_rf (s : State) (e : Nat) {f : Fld} (h : f.key ≠ (Rf.ENG_ADM_BUSY e).key) : (s.walkOver e).rf f = s.rf f := by
  rw [State.walkOver, State.rf_setrf _ _ _ _ h]; rfl

theorem walkOver_activeBank (s : State) (e : Nat) : (s.walkOver e).activeBank e = s.activeBank e := by
  have hkey : (Rf.ENG_STATUS_ACTIVE_BANK e).key ≠ (Rf.ENG_ADM_BUSY e).key := by
    simp only [Fld.key, Rf.ENG_STATUS_ACTIVE_BANK, Rf.ENG_ADM_BUSY]; omega
  exact congrArg (fun v : Nat => decide (v ≠ 0)) (walkOver_rf s e hkey)

theorem walkOver_unitOf (s : State) (e : Nat) : (s.walkOver e).unitOf e = s.unitOf e := by
  have hkey : (Rf.ENG_ROLE_UNIT e).key ≠ (Rf.ENG_ADM_BUSY e).key := by
    simp only [Fld.key, Rf.ENG_ROLE_UNIT, Rf.ENG_ADM_BUSY]; omega
  exact walkOver_rf s e hkey

theorem abortOp_busy {s : State} {e : Nat} (h : s.rf (Rf.ENG_ADM_BUSY e) ≠ 0) :
    s.abortOp e = (s.walkOver e).refuseImage e 15 0 :=
  if_pos (bit_eq_true h)

/-- What the end of a walk with a refusal shows. -/
theorem walkOver_refused {s : State} (e : Nat) {result : Nat} (index : Nat) (hres : result < 32) (hroom : s.evq.length < 1024) :
    let t := (s.walkOver e).refuseImage e result index
    t.rf (Rf.ENG_ADM_BUSY e) = 0 ∧ t.rf (Rf.ENG_ADM_RESULT e) = result ∧ (t.eng e).walk = none ∧
      ((t.eng e).adm (!s.activeBank e)).result = result ∧ t.rf (Rf.ENG_ADM_INDEX e) = index % 2 ^ (Rf.ENG_ADM_INDEX e).width ∧
      Raised s t 0xD002 (e + 256 * s.unitOf e) result index := by
  obtain ⟨hresult, hbusy, hindex⟩ := refuseImage_fields (s.walkOver e) e index hres
  have heng := refuseImage_eng (s.walkOver e) e result index
  rw [walkOver_activeBank] at heng
  have hraised := refuseImage_raised (s := s.walkOver e) e result index hroom
  rw [walkOver_unitOf] at hraised
  refine ⟨hbusy.trans (walkOver_busy s e), hresult, ?_, ?_, hindex, hraised⟩
  · rw [heng, walkOver_eng]
    cases s.activeBank e <;> rfl
  · rw [heng, Engine.adm_setAdm]

/-- What the end of a walk that admits its image shows. -/
theorem walkOver_admitted (s : State) (e : Nat) (w : Walk) (hw : w.result = 1) (hroom : s.evq.length < 1024) :
    let t := s.walkDone e w
    t.rf (Rf.ENG_ADM_BUSY e) = 0 ∧ t.rf (Rf.ENG_ADM_RESULT e) = 1 ∧ (t.eng e).walk = none ∧
      ((t.eng e).adm (!s.activeBank e)).result = 1 ∧ t.rf (Rf.ENG_BOUND_BOUND e) = w.bound % 2 ^ (Rf.ENG_BOUND_BOUND e).width ∧
      Raised s t 0xD001 (e + 256 * s.unitOf e) w.bound 0 := by
  intro t
  have ht : t = (((s.walkOver e).setStaging e ⟨1, w.bound, w.look⟩).setrf (Rf.ENG_ADM_INDEX e) 0).raise 0xD001
      (e + 256 * (s.walkOver e).unitOf e) w.bound := if_pos hw
  clear_value t; subst ht
  have hindex : (Rf.ENG_ADM_RESULT e).key ≠ (Rf.ENG_ADM_INDEX e).key ∧ (Rf.ENG_BOUND_BOUND e).key ≠ (Rf.ENG_ADM_INDEX e).key := by
    simp only [Fld.key, Rf.ENG_ADM_RESULT, Rf.ENG_ADM_INDEX, Rf.ENG_BOUND_BOUND]; omega
  have hbusy : (Rf.ENG_ADM_BUSY e).key ≠ (Rf.ENG_ADM_INDEX e).key ∧ (Rf.ENG_ADM_BUSY e).key ≠ (Rf.ENG_ADM_RESULT e).key ∧
      (Rf.ENG_ADM_BUSY e).key ≠ (Rf.ENG_BOUND_BOUND e).key := by
    simp only [Fld.key, Rf.ENG_ADM_BUSY, Rf.ENG_ADM_INDEX, Rf.ENG_ADM_RESULT, Rf.ENG_BOUND_BOUND]; omega
  have hpage : 0x1000000 ≤ 0x1000018 + 0x1000 * e := page_le (by decide) e
  have heng : ((s.walkOver e).setStaging e ⟨1, w.bound, w.look⟩).eng e =
      ({ s.eng e with walk := none } : Engine).setAdm (!s.activeBank e) ⟨1, w.bound, w.look⟩ := by
    rw [setStaging_eng, if_pos rfl, walkOver_eng, walkOver_activeBank]
  refine ⟨?_, ?_, ?_, ?_, ?_, ?_⟩
  · rw [rf_raise_engine hpage, State.rf_setrf _ _ _ _ hbusy.1, setStaging_rf _ _ _ hbusy.2.1 hbusy.2.2, walkOver_busy]
  · rw [rf_raise_engine hpage, State.rf_setrf _ _ _ _ hindex.1, setStaging_result]; rfl
  · rw [raise_eng, State.setrf_get_eng, heng]
    cases s.activeBank e <;> rfl
  · rw [raise_eng, State.setrf_get_eng, heng, Engine.adm_setAdm]
  · rw [rf_raise_engine (page_le (by decide) e), State.rf_setrf _ _ _ _ hindex.2, setStaging_bound]
  · rw [walkOver_unitOf]
    refine raised_of_evq_eq ?_ hroom _ _ _ _
    rfl

theorem walkDone_refused (s : State) (e : Nat) {w : Walk} (hw : w.result ≠ 1) :
    s.walkDone e w = (s.walkOver e).refuseImage e w.result w.index :=
  if_neg hw

/-- Settles O22. -/
theorem admission : Obligations.Admission := by
  unfold Obligations.Admission
  intro e s hroom eu idle
  have hroom' : s.evq.length < 1024 := by omega
  have hunit : (s.disarmSwap e).unitOf e = s.unitOf e := by
    have hkey : (Rf.ENG_ROLE_UNIT e).key ≠ (Rf.ENG_STATUS_SWAP_ARMED e).key := by
      simp only [Fld.key, Rf.ENG_ROLE_UNIT, Rf.ENG_STATUS_SWAP_ARMED]; omega
    exact disarmSwap_rf s e hkey
  have hbusy : (s.disarmSwap e).rf (Rf.ENG_ADM_BUSY e) = s.rf (Rf.ENG_ADM_BUSY e) := by
    have hkey : (Rf.ENG_ADM_BUSY e).key ≠ (Rf.ENG_STATUS_SWAP_ARMED e).key := by
      simp only [Fld.key, Rf.ENG_ADM_BUSY, Rf.ENG_STATUS_SWAP_ARMED]; omega
    exact disarmSwap_rf s e hkey
  refine ⟨fun hidle h0 h5 hret hspare => ⟨_, exec_load e s, ?_⟩, fun hidle hmode => ⟨_, exec_load e s, ?_⟩,
    fun hidle h0 h5 hrole => ⟨_, exec_load e s, ?_⟩, fun hwalk => ⟨_, exec_load e s, ?_⟩, fun hwalk => ⟨_, exec_abort e s, ?_⟩,
    fun w hw hres => ⟨_, exec_admissionWalkComplete hw, ?_⟩⟩
  · obtain ⟨p, w, v, hp, hload⟩ := loadOp_walk hidle h0 h5 hret hspare
    have hkey : (Rf.ENG_ADM_BUSY e).key ≠ (Rf.ENG_BUDGET_BUDGET e).key := by
      simp only [Fld.key, Rf.ENG_ADM_BUSY, Rf.ENG_BUDGET_BUDGET]; omega
    have heng : (s.loadOp e).eng e = { ({ s.eng e with swapAt := none } : Engine) with walk := some w } := by
      rw [hload, State.setrf_get_eng, State.setrf_get_eng, State.setEng_get_eng, if_pos rfl, hp.eng, disarmSwap_eng, if_pos rfl]
    refine ⟨?_, by rw [heng]; rfl, by rw [heng], by rw [heng], by rw [heng]⟩
    rw [hload, State.rf_setrf _ _ _ _ hkey, State.rf_setrf_self]; rfl
  · rw [loadOp_standby hidle hmode]
    obtain ⟨hresult, hb, -⟩ := refuseImage_fields (s.disarmSwap e) e 0 (result := 13) (by decide)
    have hraised := refuseImage_raised (s := s.disarmSwap e) e 13 0 hroom'
    rw [hunit] at hraised
    exact ⟨hresult, hb.trans (hbusy.trans hidle), hraised, refuseImage_hub _ _ _ _⟩
  · rw [loadOp_unserving hidle h0 h5 hrole]
    obtain ⟨hresult, -, -⟩ := refuseImage_fields (s.disarmSwap e) e 0 (result := 14) (by decide)
    have hraised := refuseImage_raised (s := s.disarmSwap e) e 14 0 hroom'
    rw [hunit] at hraised
    exact ⟨hresult, hraised, refuseImage_hub _ _ _ _⟩
  · rw [loadOp_busy hwalk]
    exact ⟨raise_raised _ _ _ _ _ hroom', raise_frame _ _ _ _ _ _⟩
  · rw [abortOp_busy hwalk]
    obtain ⟨hb, hresult, hnone, -, -, hraised⟩ := walkOver_refused e 0 (result := 15) (by decide) hroom'
    exact ⟨hb, hresult, hnone, hraised⟩
  · by_cases h1 : w.result = 1
    · obtain ⟨hb, hresult, hnone, hadm, hbound, hraised⟩ := walkOver_admitted s e w h1 hroom'
      rw [h1]
      exact ⟨hb, hresult, hnone, hadm, fun _ => ⟨hbound, hraised⟩, fun h => absurd rfl h⟩
    · obtain ⟨hb, hresult, hnone, hadm, hindex, hraised⟩ := walkOver_refused e w.index (result := w.result) (by omega) hroom'
      rw [walkDone_refused s e h1]
      exact ⟨hb, hresult, hnone, hadm, fun h => absurd h h1, fun _ => ⟨hindex, hraised⟩⟩

end Sys2Proof.Machine
end

section
/-! SUPPORT. Writes and reads of the instruction memories (R54). -/

namespace Sys2Proof.Machine

/-! ### Writes -/

theorem exec_instructionMemoryWrite (port : Port) (e : Eng) (bank : Bool) (idx : BitVec 14) (v : BitVec 64) (s : State) :
    exec (.instructionMemoryWrite port e bank idx v) s = .next (s.imemWrite e bank idx.toNat v) := rfl

theorem imemWrite_active {s : State} {e : Nat} {bank : Bool} (h : bank = s.activeBank e) (idx : Nat) (v : Word) :
    s.imemWrite e bank idx v = s.raise 0xD00A (e + 256 * s.unitOf e) :=
  if_pos h

theorem imemWrite_busy {s : State} {e : Nat} {bank : Bool} (h : bank ≠ s.activeBank e) (hb : s.rf (Rf.ENG_ADM_BUSY e) ≠ 0)
    (idx : Nat) (v : Word) : s.imemWrite e bank idx v = s.raise 0xD003 (e + 256 * s.unitOf e) :=
  (if_neg h).trans (if_pos (bit_eq_true hb))

/-- The engine once a word of a bank is written. -/
def Engine.withWord (x : Engine) (bank : Bool) (idx : Nat) (v : Word) : Engine :=
  { x with errs := drop1 x.errs (errKey 1 ((if bank then 16384 else 0) + idx)) }.setBank bank
    (put (fun _ => 0) (x.bank bank) idx v)

theorem Engine.bank_withWord (x : Engine) (bank : Bool) (idx : Nat) (v : Word) :
    (x.withWord bank idx v).bank bank = put (fun _ => 0) (x.bank bank) idx v := by cases bank <;> rfl

theorem Engine.bank_not_withWord (x : Engine) (bank : Bool) (idx : Nat) (v : Word) :
    (x.withWord bank idx v).bank (!bank) = x.bank (!bank) := by cases bank <;> rfl

theorem Engine.loadAt_withWord (x : Engine) (bank : Bool) (idx : Nat) (v : Word) : (x.withWord bank idx v).loadAt = x.loadAt := by
  cases bank <;> rfl

theorem Engine.bank_setAdm (x : Engine) (b c : Bool) (a : BankAdm) : (x.setAdm b a).bank c = x.bank c := by cases b <;> rfl

theorem Engine.loadAt_setAdm (x : Engine) (b : Bool) (a : BankAdm) : (x.setAdm b a).loadAt = x.loadAt := by cases b <;> rfl

theorem imemWrite_staging {s : State} {e : Nat} {bank : Bool} (h : bank ≠ s.activeBank e) (hb : s.rf (Rf.ENG_ADM_BUSY e) = 0)
    (idx : Nat) (v : Word) :
    s.imemWrite e bank idx v = ((s.setEng e ((s.eng e).withWord bank idx v)).setStaging e ⟨0, 0, 0⟩).disarmSwap e := by
  rw [State.imemWrite, if_neg h, bit_eq_false hb, if_neg Bool.false_ne_true]
  rfl

/-- The engine after a write of its staging bank: the word is there, its admission is gone and no swap is armed. -/
theorem imemWrite_staging_eng {s : State} {e : Nat} {bank : Bool} (h : bank ≠ s.activeBank e) (hb : s.rf (Rf.ENG_ADM_BUSY e) = 0)
    (idx : Nat) (v : Word) : (s.imemWrite e bank idx v).eng e =
      { ((s.eng e).withWord bank idx v).setAdm bank ⟨0, 0, 0⟩ with swapAt := none } := by
  have hbank : (!(s.setEng e ((s.eng e).withWord bank idx v)).activeBank e) = bank := by
    have hsame : (s.setEng e ((s.eng e).withWord bank idx v)).activeBank e = s.activeBank e := rfl
    rw [hsame, Bool.eq_not_of_ne h]
  rw [imemWrite_staging h hb, disarmSwap_eng, if_pos rfl, setStaging_eng, if_pos rfl, State.setEng_get_eng, if_pos rfl, hbank]

theorem imemWrite_staging_fields {s : State} {e : Nat} {bank : Bool} (h : bank ≠ s.activeBank e)
    (hb : s.rf (Rf.ENG_ADM_BUSY e) = 0) (idx : Nat) (v : Word) :
    (s.imemWrite e bank idx v).rf (Rf.ENG_ADM_RESULT e) = 0 ∧ (s.imemWrite e bank idx v).rf (Rf.ENG_BOUND_BOUND e) = 0 ∧
      (s.imemWrite e bank idx v).activeBank e = s.activeBank e := by
  have harmed : (Rf.ENG_ADM_RESULT e).key ≠ (Rf.ENG_STATUS_SWAP_ARMED e).key ∧
      (Rf.ENG_BOUND_BOUND e).key ≠ (Rf.ENG_STATUS_SWAP_ARMED e).key ∧
      (Rf.ENG_STATUS_ACTIVE_BANK e).key ≠ (Rf.ENG_STATUS_SWAP_ARMED e).key := by
    simp only [Fld.key, Rf.ENG_ADM_RESULT, Rf.ENG_BOUND_BOUND, Rf.ENG_STATUS_ACTIVE_BANK, Rf.ENG_STATUS_SWAP_ARMED]; omega
  have hactive : (Rf.ENG_STATUS_ACTIVE_BANK e).key ≠ (Rf.ENG_ADM_RESULT e).key ∧
      (Rf.ENG_STATUS_ACTIVE_BANK e).key ≠ (Rf.ENG_BOUND_BOUND e).key := by
    simp only [Fld.key, Rf.ENG_ADM_RESULT, Rf.ENG_BOUND_BOUND, Rf.ENG_STATUS_ACTIVE_BANK]; omega
  rw [imemWrite_staging h hb]
  refine ⟨?_, ?_, ?_⟩
  · rw [disarmSwap_rf _ _ harmed.1, setStaging_result]; rfl
  · rw [disarmSwap_rf _ _ harmed.2.1, setStaging_bound]; rfl
  · have hrf := (disarmSwap_rf ((s.setEng e ((s.eng e).withWord bank idx v)).setStaging e ⟨0, 0, 0⟩) e harmed.2.2).trans
      (setStaging_rf _ _ _ hactive.1 hactive.2)
    exact congrArg (fun v : Nat => decide (v ≠ 0)) hrf

/-- A SWAP with no admitted image changes nothing. -/
theorem swapOp_unadmitted {s : State} {e : Nat} (h : ((s.eng e).adm (!s.activeBank e)).result ≠ 1) : s.swapOp e = s :=
  if_pos (.inl h)

/-! ### Reads -/

/-- The offset of a word of an instruction memory names its engine, bank and index. -/
theorem imemAt_word (e : Eng) (bank : Bool) (idx : BitVec 14) :
    imemAt (0x2000000 + 0x40000 * e + (if bank then 0x20000 else 0) + 8 * idx.toNat) = some (e.val, bank, idx.toNat) := by
  have he := e.isLt
  have hidx := idx.isLt
  rw [imemAt]
  cases bank
  · have h1 : (0x2000000 + 0x40000 * e.val + 0 + 8 * idx.toNat - 0x2000000) / 0x40000 = e.val := by omega
    have h2 : ¬ 0x20000 ≤ (0x2000000 + 0x40000 * e.val + 0 + 8 * idx.toNat - 0x2000000) % 0x40000 := by omega
    have h3 : (0x2000000 + 0x40000 * e.val + 0 + 8 * idx.toNat - 0x2000000) % 0x20000 / 8 = idx.toNat := by omega
    rw [if_neg Bool.false_ne_true, if_pos (by omega)]
    simp only [h1, h2, h3, decide_false]
  · have h1 : (0x2000000 + 0x40000 * e.val + 0x20000 + 8 * idx.toNat - 0x2000000) / 0x40000 = e.val := by omega
    have h2 : 0x20000 ≤ (0x2000000 + 0x40000 * e.val + 0x20000 + 8 * idx.toNat - 0x2000000) % 0x40000 := by omega
    have h3 : (0x2000000 + 0x40000 * e.val + 0x20000 + 8 * idx.toNat - 0x2000000) % 0x20000 / 8 = idx.toNat := by omega
    rw [if_pos rfl, if_pos (by omega)]
    simp only [h1, h2, h3, decide_true]

theorem exec_readImem (port : Port) (e : Eng) (bank : Bool) (idx : BitVec 14) (s : State) :
    exec (.readClear port (0x2000000 + 0x40000 * e + (if bank then 0x20000 else 0) + 8 * idx.toNat) 8) s =
      .next { s.bankNote e bank idx.toNat with readData := s.bankRead e bank idx.toNat } := by
  have hexec (off : Nat) : exec (.readClear port off 8) s = .next (if accessOk off 8 then s.regRead off 8 else s.badAccess off true) := rfl
  have hat := imemAt_word e bank idx
  have h8 : (0x2000000 + 0x40000 * e.val + (if bank then 0x20000 else 0) + 8 * idx.toNat) % 8 = 0 := by
    cases bank <;> simp only [Bool.false_eq_true, if_true, if_false] <;> omega
  have hok : accessOk (0x2000000 + 0x40000 * e.val + (if bank then 0x20000 else 0) + 8 * idx.toNat) 8 = true := by
    rw [accessOk, hat, h8]; simp
  rw [hexec, if_pos hok, State.regRead, hat]

theorem bankNote_of_clean {s : State} (h : s.mode ≠ 0 ∨ s.hubU.on = false ∨ s.hubU.errs = []) (e : Nat) (b : Bool) (i : Nat) :
    s.bankNote e b i = s := by
  rw [State.bankNote]
  split
  · next hon =>
    obtain ⟨hmode, hon⟩ := hon
    rcases h with h | h | h
    · exact absurd hmode h
    · rw [h] at hon; exact absurd hon Bool.false_ne_true
    · rw [h]; rfl
  · rfl

theorem bankRead_live {s : State} (h : s.mode ≠ 0) (e : Nat) (b : Bool) (i : Nat) :
    s.bankRead e b i = look (fun _ => (0 : Word)) ((s.eng e).bank b) i :=
  if_neg h

theorem bankRead_off {s : State} (h : s.mode = 0) (hon : s.hubU.on = false) (e : Nat) (b : Bool) (i : Nat) :
    s.bankRead e b i = 0 := by
  rw [State.bankRead, if_pos h, hon, if_neg Bool.false_ne_true]

theorem bankRead_copy {s : State} {e i : Nat} {b : Bool} (h : s.mode = 0) (hon : s.hubU.on = true) (he : s.hubU.errs = [])
    (hcap : 0x300000 * e + (if b then 0x20000 else 0) + 8 * i + 8 ≤ s.capacity) :
    s.bankRead e b i = BitVec.ofNat 64 (readLE s.hub (0x300000 * e + (if b then 0x20000 else 0) + 8 * i) 8) := by
  have hread {a : Nat} (ha : a + 8 ≤ s.capacity) : readLE (s.hubView a 8) a 8 = readLE s.hub a 8 := by
    refine readLE_congr (fun k hk => ?_)
    rw [look_hubView he ⟨Nat.le_add_right _ _, by omega⟩, if_pos (by omega)]
    rfl
  rw [← hread hcap, State.bankRead, if_pos h, if_pos hon]
  rfl

/-- Settles O21. -/
theorem instructionMemoryWrites : Obligations.InstructionMemoryWrites := by
  unfold Obligations.InstructionMemoryWrites
  intro port e bank idx v s c
  refine ⟨fun hst hb => ⟨_, exec_instructionMemoryWrite port e bank idx v s, ?_⟩,
    fun hact hroom => ⟨_, exec_instructionMemoryWrite port e bank idx v s, ?_⟩,
    fun hst hb hroom => ⟨_, exec_instructionMemoryWrite port e bank idx v s, ?_⟩,
    fun hb hroom => ⟨⟨_, exec_load e s, ?_⟩, ⟨_, exec_abort e s, ?_⟩⟩, ?_⟩
  · have heng := imemWrite_staging_eng hst hb idx.toNat v
    obtain ⟨hresult, hbound, hactive⟩ := imemWrite_staging_fields hst hb idx.toNat v
    have hbank : (!s.activeBank e) = bank := by rw [Bool.eq_not_of_ne hst]
    have hadm : (((s.imemWrite e bank idx.toNat v).eng e).adm bank).result = 0 := by
      rw [heng]
      exact congrArg BankAdm.result (Engine.adm_setAdm _ bank ⟨0, 0, 0⟩)
    refine ⟨fun j => ?_, ?_, hadm, hresult, hbound, by rw [heng], ?_, ?_, fun k hk => ?_, ?_, ?_⟩
    · have hword : ((s.imemWrite e bank idx.toNat v).eng e).bank bank = put (fun _ => 0) ((s.eng e).bank bank) idx.toNat v := by
        rw [heng]
        exact (Engine.bank_setAdm _ _ _ _).trans (Engine.bank_withWord _ _ _ _)
      rw [hword]
      exact look_put _ _ _ _ _
    · rw [heng]
      exact (Engine.bank_setAdm _ _ _ _).trans (Engine.bank_not_withWord _ _ _ _)
    · rw [heng]
      exact (Engine.loadAt_setAdm _ _ _).trans (Engine.loadAt_withWord _ _ _ _)
    · rw [exec_swap, swapOp_unadmitted]
      rw [hactive, hbank, hadm]; decide
    · rw [imemWrite_staging hst hb, disarmSwap_eng, if_neg hk, setStaging_eng, if_neg hk, State.setEng_get_eng, if_neg hk]
    · rw [imemWrite_staging hst hb]; rfl
    · rw [imemWrite_staging hst hb]; rfl
  · rw [imemWrite_active hact]
    exact ⟨raise_raised _ _ _ _ _ hroom, raise_frame _ _ _ _ _ _⟩
  · rw [imemWrite_busy hst hb]
    exact ⟨raise_raised _ _ _ _ _ hroom, raise_frame _ _ _ _ _ _⟩
  · rw [loadOp_busy hb]
    exact ⟨raise_raised _ _ _ _ _ hroom, raise_frame _ _ _ _ _ _⟩
  · rw [abortOp_busy hb]
    obtain ⟨hidle, -, hnone, -⟩ := walkOver_refused e 0 (result := 15) (by decide) hroom
    exact ⟨hidle, hnone⟩
  · intro half reads copy
    refine ⟨fun hmode => ⟨_, exec_readImem port e bank idx s, ?_⟩, fun hmode hon => ⟨_, exec_readImem port e bank idx s, ?_⟩,
      fun hmode hon he hcap => ⟨_, exec_readImem port e bank idx s, ?_⟩⟩
    · rw [bankNote_of_clean (.inl hmode), bankRead_live hmode]
      exact ⟨rfl, rfl⟩
    · rw [bankNote_of_clean (.inr (.inl hon)), bankRead_off hmode hon]
      exact ⟨rfl, rfl⟩
    · rw [bankNote_of_clean (.inr (.inr he)), bankRead_copy hmode hon he hcap]
      exact ⟨rfl, rfl⟩

end Sys2Proof.Machine
end

section
/-! SUPPORT. The register fields an access of the hub moves where no codeword is in error: what it refuses (R310), the tokens it
waits for (R325), the channels it wakes (R321) and the events; and how many events it adds. -/

namespace Sys2Proof.Machine

/-! ### The fields an access moves -/

/-- The keys of the fields that an access with no codeword in error moves. -/
def hubMoved (k : Nat) : Prop :=
  k ∈ [Rf.HUB_ACCERR_COUNT.key, Rf.HUB_ACCERR_ADDR.key, Rf.HUB_TC0_TOKWAIT.key] ++ eventFlds.map Fld.key ∨
    ∃ c, k = (Rf.HUB_CH_STAT_SR c).key

theorem not_hubMoved_of_low {f : Fld} (hlo : f.lo < 17)
    (h : f.key ∉ [Rf.HUB_ACCERR_COUNT.key, Rf.HUB_ACCERR_ADDR.key, Rf.HUB_TC0_TOKWAIT.key] ++ eventFlds.map Fld.key) :
    ¬ hubMoved f.key := by
  rintro (hk | ⟨c, hc⟩)
  · exact h hk
  · exact key_ne_sr hlo c hc

theorem not_hubMoved_of_engine {f : Fld} (ha : 0x1000000 ≤ f.addr) (hlo : f.lo < 64) (hsr : f.lo < 17 ∨ f.addr % 0x1000 ≠ 8) :
    ¬ hubMoved f.key := by
  rintro (hk | ⟨c, hc⟩)
  · have hall : ∀ k ∈ [Rf.HUB_ACCERR_COUNT.key, Rf.HUB_ACCERR_ADDR.key, Rf.HUB_TC0_TOKWAIT.key] ++ eventFlds.map Fld.key,
        k < 0x1000000 * 64 := by decide
    have := hall _ hk
    rw [Fld.key] at this
    omega
  · have hsrkey : (Rf.HUB_CH_STAT_SR c).key = (0x710008 + 0x1000 * c) * 64 + 17 := rfl
    rw [hsrkey, Fld.key] at hc
    omega

/-- Only the fields an access moves may differ, and no codeword has come to be in error. -/
structure Calm (s t : State) : Prop where
  flds : ∀ f : Fld, ¬ hubMoved f.key → t.rf f = s.rf f
  errs : ∀ e ∈ t.hubU.errs, e ∈ s.hubU.errs

theorem Calm.refl (s : State) : Calm s s := ⟨fun _ _ => rfl, fun _ h => h⟩

theorem Calm.trans {s t u : State} (h1 : Calm s t) (h2 : Calm t u) : Calm s u :=
  ⟨fun f hf => (h2.flds f hf).trans (h1.flds f hf), fun e he => h1.errs e (h2.errs e he)⟩

theorem Calm.foldl {α : Type} {f : State → α → State} (hf : ∀ s a, Calm s (f s a)) (l : List α) (s : State) :
    Calm s (l.foldl f s) :=
  foldl_relates Calm.refl Calm.trans hf l s

theorem Calm.bit {s t : State} (h : Calm s t) {f : Fld} (hf : ¬ hubMoved f.key) : t.bit f = s.bit f :=
  congrArg (fun v : Nat => decide (v ≠ 0)) (h.flds f hf)

theorem Calm.noErrs {s t : State} (h : Calm s t) (he : s.hubU.errs = []) : t.hubU.errs = [] :=
  List.eq_nil_iff_forall_not_mem.2 (fun e hm => List.not_mem_nil (he ▸ h.errs e hm))

theorem Calm.setrf (s : State) {f : Fld} (hf : hubMoved f.key) (v : Nat) : Calm s (s.setrf f v) :=
  ⟨fun g hg => State.rf_setrf s f g v (fun e => hg (e ▸ hf)), fun _ h => h⟩

theorem Calm.hubU (s : State) (h : HubUnit) (he : h.errs = s.hubU.errs) : Calm s { s with hubU := h } :=
  ⟨fun _ _ => rfl, fun _ hm => he ▸ hm⟩

theorem Calm.raise (s : State) (c a0 a1 a2 : Nat) : Calm s (s.raise c a0 a1 a2) := by
  refine ⟨fun f hf => rf_raise (fun g hg e => hf (.inl ?_)) _ _ _ _ _, fun e he => ?_⟩
  · rw [e]
    exact List.mem_append_right _ (List.mem_map_of_mem hg)
  · have hunit : (s.raise c a0 a1 a2).hubU = s.hubU := (congrArg State.hubU (raise_frame s c a0 a1 a2 []).1 :)
    rwa [hunit] at he

theorem Touched.calm {s t : State} (h : Touched s t) : Calm s t :=
  ⟨fun f hf => h.sr f (fun c hc => hf (.inr ⟨c, hc⟩)), h.errs⟩

theorem tokenWait_calm (s : State) (c : Nat) : Calm s (s.tokenWait c) := by
  have hcount : Calm s (s.bump Rf.HUB_TC0_TOKWAIT) := .setrf s (.inl (by simp)) _
  have hstamp (t : State) (k : Nat) : Calm t (t.stamp k) := ⟨fun _ _ => rfl, fun _ h => h⟩
  unfold State.tokenWait
  dsimp only
  split
  · exact hcount.trans ((hstamp _ _).trans (.raise _ _ _ _ _))
  · exact hcount

theorem requestTc0_calm (s : State) (r : Nat × BankReq) : Calm s (s.requestTc0 r) := by
  unfold State.requestTc0
  dsimp only
  split
  · refine Calm.trans ?_ (tokenWait_calm _ _)
    exact .hubU s _ rfl
  · refine Calm.trans ?_ (admitReqs_touched _ _).calm
    exact .hubU s _ rfl

theorem requests_calm (s : State) (cls : Nat) (rs : List (Nat × BankReq)) : Calm s (s.requests cls rs) := by
  by_cases hcls : cls = 0
  · rw [State.requests, if_pos hcls]
    exact .foldl requestTc0_calm _ _
  · exact (requests_touched s hcls rs).calm

theorem linesAt_calm (s : State) (wr : Bool) (cls : Nat) (ls : List Nat) : Calm s (s.linesAt wr cls ls) := by
  unfold State.linesAt
  dsimp only
  generalize (if wr then ls.filterMap (s.copyPlace cls) else []) = cs
  split
  · exact (Touched.foldl wake_touched _ _).calm.trans (requests_calm _ _ _)
  · exact ((Touched.foldl wake_touched _ _).calm.trans (requests_calm _ _ _)).trans (admitReqs_touched _ _).calm

theorem touchAll_calm (s : State) (wr : Bool) (cls : Nat) (rs : List (Nat × Nat)) : Calm s (s.touchAll wr cls rs) := by
  unfold State.touchAll
  dsimp only
  split
  · exact (writeBacks_touched s).calm
  · exact (writeBacks_touched s).calm.trans (linesAt_calm _ _ _ _)

theorem hubRefused_calm (s : State) (src a : Nat) : Calm s (s.hubRefused src a) := by
  have hcount : Calm s ((s.bump Rf.HUB_ACCERR_COUNT).setrf Rf.HUB_ACCERR_ADDR a) :=
    (Calm.setrf s (.inl (by simp)) _).trans (.setrf _ (.inl (by simp)) _)
  have hstamp (t : State) (k : Nat) : Calm t (t.stamp k) := ⟨fun _ _ => rfl, fun _ h => h⟩
  unfold State.hubRefused
  dsimp only
  split
  · exact hcount.trans ((hstamp _ _).trans (.raise _ _ _ _ _))
  · exact hcount

theorem noteRead_calm {s : State} (he : s.hubU.errs = []) (cls a n : Nat) : Calm s (s.noteRead cls a n) := by
  have htouch := touchAll_calm s false cls [(a, n)]
  have hnone : ((s.touch false cls a n).hubU.errs.filter (fun e => cwIn a n e.1)) = [] := by
    rw [State.touch, htouch.noErrs he]; rfl
  rw [State.noteRead]
  rw [hnone]
  exact htouch

theorem readAs_calm {s : State} (he : s.hubU.errs = []) (cls src a n : Nat) : Calm s (s.readAs cls src a n).1 := by
  unfold State.readAs
  dsimp only
  split
  · exact (noteRead_calm he _ _ _).trans (hubRefused_calm _ _ _)
  · exact noteRead_calm he _ _ _

theorem storing_calm (s : State) (cls lo hi : Nat) : Calm s (s.storing cls lo hi) :=
  (Calm.hubU s { s.hubU with wback := s.hubU.wback.filter (fun k => !cwIn lo (hi - lo) k) } rfl).trans
    (touchAll_calm _ true cls [(lo, hi - lo)])

theorem storeBytes_calm (s : State) (lo hi : Nat) (cells : List Host.Cell) : Calm s (s.storeBytes lo hi cells) :=
  ⟨fun _ _ => rfl, fun _ he => List.mem_of_mem_filter he⟩

theorem writeAs_calm (s : State) (own : Bool) (cls src a n : Nat) (cells : List Host.Cell) :
    Calm s (s.writeAs own cls src a n cells) := by
  rw [writeAs_eq]
  dsimp only
  generalize (if own then a else max a userBase) = lo
  generalize min (a + n) s.capacity = hi
  have hstored : Calm s (if lo < hi then (s.storing cls lo hi).storeBytes lo hi cells else s) := by
    split
    · exact (storing_calm _ _ _ _).trans (storeBytes_calm _ _ _ _)
    · exact .refl s
  split
  · exact hstored.trans (hubRefused_calm _ _ _)
  · exact hstored

/-! ### How many events an access adds -/

/-- At most `n` events have been added to the queue. -/
def Adds (n : Nat) (s t : State) : Prop := t.evq.length ≤ s.evq.length + n

theorem Adds.refl (s : State) : Adds 0 s s := Nat.le_refl _

theorem Adds.trans {m n : Nat} {s t u : State} (h1 : Adds m s t) (h2 : Adds n t u) : Adds (m + n) s u := by
  unfold Adds at *
  omega

theorem Adds.mono {m n : Nat} {s t : State} (h : Adds m s t) (hmn : m ≤ n) : Adds n s t := Nat.le_trans h (by omega)

theorem Touched.adds {s t : State} (h : Touched s t) : Adds 0 s t :=
  Nat.le_of_eq (congrArg List.length (congrArg State.evq h.rest :))

theorem record_adds (s : State) (c a0 a1 a2 : Nat) : Adds 1 s (s.record c a0 a1 a2) := by
  rw [Adds, record_evq]
  split
  · rw [List.length_append, List.length_singleton]
  · omega

/-- An event may bring an overflow and a full log with it. -/
theorem raise_adds (s : State) (c a0 a1 a2 : Nat) : Adds 3 s (s.raise c a0 a1 a2) := by
  have hc : Adds 1 s (s.record c a0 a1 a2) := record_adds s c a0 a1 a2
  have hfull (b : Bool) : Adds 2 s (if b then ((s.record c a0 a1 a2).stamp (stampKey 0x600E 0)).record 0x600E 0 0 0
      else s.record c a0 a1 a2) := by
    cases b
    · exact hc.mono (by decide)
    · exact hc.trans (record_adds ((s.record c a0 a1 a2).stamp (stampKey 0x600E 0)) 0x600E 0 0 0)
  have hmerged (b : Bool) {u : State} (hu : Adds 2 s u) : Adds 3 s (if b then u.stampSecond.record 0xA006 0 0 0 else u) := by
    cases b
    · exact hu.mono (by decide)
    · exact hu.trans (record_adds u.stampSecond 0xA006 0 0 0)
  exact hmerged _ (hfull _)

theorem hubRefused_adds (s : State) (src a : Nat) : Adds 3 s (s.hubRefused src a) := by
  unfold State.hubRefused
  dsimp only
  split
  · exact raise_adds (State.stamp _ _) _ _ _ _
  · exact (Adds.refl s).mono (by decide)

theorem readAs_adds {s : State} {cls : Nat} (hcls : cls ≠ 0) (he : s.hubU.errs = []) (src a n : Nat) :
    Adds 3 s (s.readAs cls src a n).1 := by
  have hnote := (noteRead_touched hcls he a (min n (s.capacity - a))).adds
  unfold State.readAs
  dsimp only
  split
  · exact hnote.trans (hubRefused_adds _ _ _)
  · exact hnote.mono (by decide)

theorem writeAs_adds (s : State) (own : Bool) {cls : Nat} (hcls : cls ≠ 0) (src a n : Nat) (cells : List Host.Cell) :
    Adds 3 s (s.writeAs own cls src a n cells) := by
  rw [writeAs_eq]
  dsimp only
  generalize (if own then a else max a userBase) = lo
  generalize min (a + n) s.capacity = hi
  have hstored : Adds 0 s (if lo < hi then (s.storing cls lo hi).storeBytes lo hi cells else s) := by
    split
    · exact (storing_touched s hcls lo hi).adds
    · exact .refl s
  split
  · exact hstored.trans (hubRefused_adds _ _ _)
  · exact hstored.mono (by decide)

end Sys2Proof.Machine
end

section
/-! SUPPORT. SWAP, CONST_RELOAD and DISARM (R58 to R60). -/

namespace Sys2Proof.Machine

/-! ### What an access of the hub for an engine leaves -/

theorem Calm.unitOf {s t : State} (h : Calm s t) (e : Nat) : t.unitOf e = s.unitOf e :=
  h.flds (Rf.ENG_ROLE_UNIT e) (not_hubMoved_of_engine (page_le (by decide) e) (Nat.le_of_ble_eq_true rfl)
    (.inl (Nat.le_of_ble_eq_true rfl)))

theorem Calm.activeBank {s t : State} (h : Calm s t) (e : Nat) : t.activeBank e = s.activeBank e :=
  h.bit (f := Rf.ENG_STATUS_ACTIVE_BANK e) (not_hubMoved_of_engine (page_le (by decide) e) (Nat.le_of_ble_eq_true rfl)
    (.inl (Nat.le_of_ble_eq_true rfl)))

theorem Calm.cadOn {s t : State} (h : Calm s t) : t.cadOn = s.cadOn := by
  have hgear : t.rf Rf.CAD_GEAR_STATE = s.rf Rf.CAD_GEAR_STATE :=
    h.flds Rf.CAD_GEAR_STATE (not_hubMoved_of_low (by decide) (by decide))
  rw [State.cadOn, State.cadOn, hgear]

theorem Calm.swapBand {s t : State} (h : Calm s t) (e : Nat) :
    t.rf (Rf.ENG_SWAP_BAND_BAND e) = s.rf (Rf.ENG_SWAP_BAND_BAND e) :=
  h.flds (Rf.ENG_SWAP_BAND_BAND e) (not_hubMoved_of_engine (page_le (by decide) e) (Nat.le_of_ble_eq_true rfl)
    (.inl (Nat.le_of_ble_eq_true rfl)))

theorem Calm.armNow {s t : State} (h : Calm s t) (e : Nat) : t.armNow e = s.armNow e := by
  rw [State.armNow, State.armNow, h.cadOn, h.swapBand]

/-- The shadow is of class TC3. -/
theorem hubClass_own (src : Nat) : hubClass true src = 3 := by simp [hubClass]

theorem shadowConstants_calm {s : State} (he : s.hubU.errs = []) (e n : Nat) : Calm s (s.shadowConstants e n) := by
  unfold State.shadowConstants State.hubWrite
  exact (readAs_calm he _ _ _ _).trans (writeAs_calm _ _ _ _ _ _ _)

theorem shadowConstants_adds {s : State} (he : s.hubU.errs = []) (e n : Nat) : Adds 6 s (s.shadowConstants e n) := by
  unfold State.shadowConstants State.hubWrite
  rw [hubClass_own]
  exact (readAs_adds (by decide) he _ _ _).trans (writeAs_adds _ _ (by decide) _ _ _ _)

/-- The constant region takes the shadow's constant image: a read of the hub, and the engine's scratch. -/
theorem loadConstants_eng (s : State) (e : Nat) : ∃ m, (s.loadConstants e).eng e = { s.eng e with scratch := m } := by
  unfold State.loadConstants
  dsimp only
  rw [State.setEng_get_eng, if_pos rfl, (readAs_fetched _ _ _ _ _).eng]
  exact ⟨_, rfl⟩

theorem loadConstants_queue (s : State) (e : Nat) : s.evq <+: (s.loadConstants e).evq :=
  (readAs_fetched s 3 (s.unitOf e) (shadowConst e) (min (s.constSize e) 0x200000)).queue

theorem loadConstants_calm {s : State} (he : s.hubU.errs = []) (e : Nat) :
    Calm s (s.loadConstants e) ∧ Adds 3 s (s.loadConstants e) := by
  have hcalm := readAs_calm he 3 (s.unitOf e) (shadowConst e) (min (s.constSize e) 0x200000)
  exact ⟨⟨hcalm.flds, hcalm.errs⟩, readAs_adds (by decide) he _ _ _⟩

/-! ### The swap -/

theorem disarmSwap_armed (s : State) (e : Nat) :
    (s.disarmSwap e).rf (Rf.ENG_STATUS_SWAP_ARMED e) = (if (s.eng e).loadAt.isSome then 1 else 0) := by
  rw [State.disarmSwap, State.showArmed, State.rf_setrf_self, State.setEng_get_eng, if_pos rfl]
  simp only [Option.isSome_none, Bool.false_or]
  split <;> rfl

/-- The banks have changed places, each with its admission. -/
def State.swapped (s : State) (e : Nat) : State :=
  let x := s.eng e
  let b := !s.activeBank e
  let t := ((s.disarmSwap e).setrf (Rf.ENG_STATUS_ACTIVE_BANK e) (if b then 1 else 0)).setrf (Rf.ENG_STATUS_ACTIVE_OK e) 1
  let t := (t.setrf (Rf.ENG_ACT_BOUND_BOUND e) (x.adm b).bound).setrf (Rf.ENG_BOUND_BOUND e) (x.adm (!b)).bound
  let t := t.setrf (Rf.ENG_ADM_RESULT e) (x.adm (!b)).result
  t.setrf (Rf.ENG_ADM_IMAGE_ID e) ((x.bank b).f 6 32 32)

/-- A Sieve unit's LOOK bound becomes that of its new program (R262). -/
def State.lookTaken (t : State) (e u v : Nat) : State :=
  if engSection e = 3 ∧ 64 ≤ u ∧ u < 96 then t.setrf (Rf.SIV_LOOK_BOUND (u - 64)) v else t

theorem applySwap_eq (s : State) (e band : Nat) : s.applySwap e band =
    let t := (s.swapped e).lookTaken e (s.unitOf e) ((s.eng e).adm (!s.activeBank e)).look
    (t.setrf (Rf.ENG_SWAP_AT_BAND e) band).raise 0xD004 (e + 256 * t.unitOf e) band := rfl

theorem lookTaken_rf {f : Fld} (hf : 0x1000000 ≤ f.addr) (t : State) (e u v : Nat) : (t.lookTaken e u v).rf f = t.rf f := by
  unfold State.lookTaken
  split
  · next h =>
    refine State.rf_setrf _ _ _ _ ?_
    have hkey : (Rf.SIV_LOOK_BOUND (u - 64)).key = (0x500100 + 0x8 * (u - 64)) * 64 + 0 := rfl
    rw [hkey, Fld.key]
    omega
  · rfl

theorem lookTaken_eng (t : State) (e u v k : Nat) : (t.lookTaken e u v).eng k = t.eng k := by
  unfold State.lookTaken; split <;> rfl

theorem lookTaken_evq (t : State) (e u v : Nat) : (t.lookTaken e u v).evq = t.evq := by
  unfold State.lookTaken; split <;> rfl

theorem swapped_eng (s : State) (e : Nat) : (s.swapped e).eng e = { s.eng e with swapAt := none } := by
  simp only [State.swapped, State.setrf_get_eng, disarmSwap_eng, if_true]

theorem swapped_fields (s : State) (e : Nat) : (s.swapped e).activeBank e = !s.activeBank e ∧
    (s.swapped e).rf (Rf.ENG_STATUS_ACTIVE_OK e) = 1 ∧
    (s.swapped e).rf (Rf.ENG_STATUS_SWAP_ARMED e) = (if (s.eng e).loadAt.isSome then 1 else 0) ∧
    (s.swapped e).rf (Rf.ENG_ACT_BOUND_BOUND e) =
      ((s.eng e).adm (!s.activeBank e)).bound % 2 ^ (Rf.ENG_ACT_BOUND_BOUND e).width ∧
    (s.swapped e).unitOf e = s.unitOf e := by
  refine ⟨?_, ?_, ?_, ?_, ?_⟩ <;>
    simp (disch := (simp only [Fld.key, Rf.ENG_STATUS_ACTIVE_BANK, Rf.ENG_STATUS_ACTIVE_OK, Rf.ENG_STATUS_SWAP_ARMED,
      Rf.ENG_ACT_BOUND_BOUND, Rf.ENG_BOUND_BOUND, Rf.ENG_ADM_RESULT, Rf.ENG_ADM_IMAGE_ID, Rf.ENG_ROLE_UNIT]; omega)) only
      [State.swapped, State.activeBank, State.bit, State.unitOf, State.rf_setrf, State.rf_setrf_self, disarmSwap_armed, disarmSwap_rf]
  · have hwidth : 2 ^ (Rf.ENG_STATUS_ACTIVE_BANK e).width = 2 := rfl
    rw [hwidth]
    by_cases h : s.rf (Rf.ENG_STATUS_ACTIVE_BANK e) = 0 <;> simp [h]
  · rfl

/-- What a swap that applies leaves. -/
theorem applySwap_gives (s : State) (e : Nat) (hroom : s.evq.length < 1024) :
    let t := s.applySwap e 0
    t.activeBank e = !s.activeBank e ∧ t.rf (Rf.ENG_STATUS_ACTIVE_OK e) = 1 ∧
      t.rf (Rf.ENG_STATUS_SWAP_ARMED e) = (if (s.eng e).loadAt.isSome then 1 else 0) ∧
      t.rf (Rf.ENG_ACT_BOUND_BOUND e) = ((s.eng e).adm (!s.activeBank e)).bound % 2 ^ (Rf.ENG_ACT_BOUND_BOUND e).width ∧
      Raised s t 0xD004 (e + 256 * s.unitOf e) 0 0 ∧ t.eng e = { s.eng e with swapAt := none } := by
  intro t
  obtain ⟨hactive, hok, harmed, hbound, hunit⟩ := swapped_fields s e
  have hpage {a : Nat} (h : 0x1000000 ≤ a) := page_le h e
  have hkeys : (Rf.ENG_STATUS_ACTIVE_BANK e).key ≠ (Rf.ENG_SWAP_AT_BAND e).key ∧
      (Rf.ENG_STATUS_ACTIVE_OK e).key ≠ (Rf.ENG_SWAP_AT_BAND e).key ∧
      (Rf.ENG_STATUS_SWAP_ARMED e).key ≠ (Rf.ENG_SWAP_AT_BAND e).key ∧
      (Rf.ENG_ACT_BOUND_BOUND e).key ≠ (Rf.ENG_SWAP_AT_BAND e).key := by
    simp only [Fld.key, Rf.ENG_STATUS_ACTIVE_BANK, Rf.ENG_STATUS_ACTIVE_OK, Rf.ENG_STATUS_SWAP_ARMED, Rf.ENG_ACT_BOUND_BOUND,
      Rf.ENG_SWAP_AT_BAND]
    omega
  have hrf {f : Fld} (ha : 0x1000000 ≤ f.addr) (hk : f.key ≠ (Rf.ENG_SWAP_AT_BAND e).key) : t.rf f = (s.swapped e).rf f := by
    simp only [t, applySwap_eq]
    rw [rf_raise_engine ha, State.rf_setrf _ _ _ _ hk, lookTaken_rf ha]
  refine ⟨?_, ?_, ?_, ?_, ?_, ?_⟩
  · exact (congrArg (fun v : Nat => decide (v ≠ 0)) (hrf (hpage (by decide)) hkeys.1)).trans hactive
  · exact (hrf (hpage (by decide)) hkeys.2.1).trans hok
  · exact (hrf (hpage (by decide)) hkeys.2.2.1).trans harmed
  · exact (hrf (hpage (by decide)) hkeys.2.2.2).trans hbound
  · have hlook : ((s.swapped e).lookTaken e (s.unitOf e) ((s.eng e).adm (!s.activeBank e)).look).unitOf e = s.unitOf e :=
      (lookTaken_rf (f := Rf.ENG_ROLE_UNIT e) (hpage (by decide)) _ _ _ _).trans hunit
    simp only [t, applySwap_eq]
    rw [hlook]
    refine raised_of_evq_eq ?_ hroom _ _ _ _
    exact lookTaken_evq _ _ _ _
  · simp only [t, applySwap_eq]
    rw [raise_eng, State.setrf_get_eng, lookTaken_eng, swapped_eng]

/-! ### SWAP -/

theorem armNow_iff (s : State) (e : Nat) : s.armNow e = true ↔ s.cadOn = false ∧ s.rf (Rf.ENG_SWAP_BAND_BAND e) = 0 := by
  simp [State.armNow]

theorem swapOp_now {s : State} {e : Nat} (hres : ((s.eng e).adm (!s.activeBank e)).result = 1)
    (hbusy : s.rf (Rf.ENG_ADM_BUSY e) = 0) (hbound : ((s.eng e).adm (!s.activeBank e)).bound ≤ s.budget)
    (hnow : s.armNow e = true) : s.swapOp e = s.applySwap e 0 := by
  rw [State.swapOp]
  simp only [hres, bit_eq_false hbusy, Nat.not_lt.2 hbound, hnow, ne_eq, not_true_eq_false, Bool.false_eq_true, or_self, if_false,
    if_true]

/-- A swap, or with it a reload, armed for a band. -/
def State.armed (s : State) (e : Nat) (x : Engine) (b : Nat) : State :=
  ((s.setEng e x).showArmed e).setrf (Rf.ENG_SWAP_AT_BAND e) b

theorem armed_eng (s : State) (e : Nat) (x : Engine) (b : Nat) : (s.armed e x b).eng e = x := by
  rw [State.armed, State.setrf_get_eng, State.showArmed, State.setrf_get_eng, State.setEng_get_eng, if_pos rfl]

theorem armed_rf (s : State) (e : Nat) (x : Engine) (b : Nat) {f : Fld} (h1 : f.key ≠ (Rf.ENG_STATUS_SWAP_ARMED e).key)
    (h2 : f.key ≠ (Rf.ENG_SWAP_AT_BAND e).key) : (s.armed e x b).rf f = s.rf f := by
  rw [State.armed, State.rf_setrf _ _ _ _ h2, State.showArmed, State.rf_setrf _ _ _ _ h1]; rfl

theorem armed_shown {s : State} {e b : Nat} {x : Engine} (h : (x.swapAt.isSome || x.loadAt.isSome) = true) :
    (s.armed e x b).rf (Rf.ENG_STATUS_SWAP_ARMED e) = 1 := by
  have hkey : (Rf.ENG_STATUS_SWAP_ARMED e).key ≠ (Rf.ENG_SWAP_AT_BAND e).key := by
    simp only [Fld.key, Rf.ENG_STATUS_SWAP_ARMED, Rf.ENG_SWAP_AT_BAND]; omega
  rw [State.armed, State.rf_setrf _ _ _ _ hkey, State.showArmed, State.rf_setrf_self, State.setEng_get_eng, if_pos rfl, if_pos h]
  rfl

theorem armed_activeBank (s : State) (e : Nat) (x : Engine) (b : Nat) : (s.armed e x b).activeBank e = s.activeBank e := by
  have hkeys : (Rf.ENG_STATUS_ACTIVE_BANK e).key ≠ (Rf.ENG_STATUS_SWAP_ARMED e).key ∧
      (Rf.ENG_STATUS_ACTIVE_BANK e).key ≠ (Rf.ENG_SWAP_AT_BAND e).key := by
    simp only [Fld.key, Rf.ENG_STATUS_ACTIVE_BANK, Rf.ENG_STATUS_SWAP_ARMED, Rf.ENG_SWAP_AT_BAND]; omega
  exact congrArg (fun v : Nat => decide (v ≠ 0)) (armed_rf s e x b hkeys.1 hkeys.2)

theorem swapOp_later {s : State} {e : Nat} (hres : ((s.eng e).adm (!s.activeBank e)).result = 1)
    (hbusy : s.rf (Rf.ENG_ADM_BUSY e) = 0) (hbound : ((s.eng e).adm (!s.activeBank e)).bound ≤ s.budget)
    (hnow : s.armNow e = false) : s.swapOp e = s.armed e { s.eng e with swapAt := some (s.armBand e) } (s.armBand e) := by
  rw [State.swapOp]
  simp only [hres, bit_eq_false hbusy, Nat.not_lt.2 hbound, hnow, ne_eq, not_true_eq_false, Bool.false_eq_true, or_self, if_false]
  rfl

theorem swapOp_not_ready {s : State} {e : Nat} (h : ¬ (((s.eng e).adm (!s.activeBank e)).result = 1 ∧
    s.rf (Rf.ENG_ADM_BUSY e) = 0 ∧ ((s.eng e).adm (!s.activeBank e)).bound ≤ s.budget)) : s.swapOp e = s := by
  refine if_pos ?_
  by_contra hno
  simp only [not_or, not_not, not_lt] at hno
  obtain ⟨hres, hbusy, hbound⟩ := hno
  exact h ⟨hres, by simpa [State.bit] using hbusy, hbound⟩

/-! ### CONST_RELOAD -/

theorem applyReload_eq (s : State) (e band : Nat) : s.applyReload e band =
    let l := s.loadConstants e
    let x : Engine := { l.eng e with loadAt := none }
    (l.armed e x band).raise 0xD004 (e + 256 * ((l.setEng e x).showArmed e).unitOf e) band := by
  simp only [State.applyReload, State.armed, State.engUnit]

/-- An event raised behind at most `n` others. -/
theorem raised_of_adds {n : Nat} {s t : State} (h : Adds n s t) (hq : s.evq.length ≤ t.evq.length)
    (hroom : s.evq.length + n < 1024) (c a0 a1 a2 : Nat) : Raised s (t.raise c a0 a1 a2) c a0 a1 a2 :=
  (raise_raised t c a0 a1 a2 (Nat.lt_of_le_of_lt h hroom)).earlier hq

theorem showArmed_unitOf (s : State) (e : Nat) : (s.showArmed e).unitOf e = s.unitOf e := by
  refine State.rf_setrf s (Rf.ENG_STATUS_SWAP_ARMED e) (Rf.ENG_ROLE_UNIT e) _ ?_
  simp only [Fld.key, Rf.ENG_ROLE_UNIT, Rf.ENG_STATUS_SWAP_ARMED]
  omega

/-- What a reload that applies leaves. -/
theorem applyReload_gives {s : State} (he : s.hubU.errs = []) (e : Nat) (hroom : s.evq.length + 3 < 1024) :
    let t := s.applyReload e 0
    (t.eng e).loadAt = none ∧ Raised s t 0xD004 (e + 256 * s.unitOf e) 0 0 ∧ t.activeBank e = s.activeBank e ∧
      (t.eng e).bank0 = (s.eng e).bank0 ∧ (t.eng e).bank1 = (s.eng e).bank1 := by
  intro t
  obtain ⟨m, heng⟩ := loadConstants_eng s e
  obtain ⟨hcalm, hadds⟩ := loadConstants_calm he e
  have hqueue := (loadConstants_queue s e).length_le
  have ht := applyReload_eq s e 0
  generalize s.loadConstants e = l at heng hcalm hadds hqueue ht
  have hself : t.eng e = { ({ s.eng e with scratch := m } : Engine) with loadAt := none } := by
    simp only [t, ht]
    rw [raise_eng, armed_eng, heng]
  refine ⟨by rw [hself], ?_, ?_, by rw [hself], by rw [hself]⟩
  · simp only [t, ht]
    rw [showArmed_unitOf, show (l.setEng e _).unitOf e = l.unitOf e from rfl, hcalm.unitOf]
    exact raised_of_adds (t := l.armed e _ 0) hadds hqueue hroom _ _ _ _
  · have hactive : t.activeBank e = (l.armed e { l.eng e with loadAt := none } 0).activeBank e := by
      simp only [t, ht]
      exact congrArg (fun v : Nat => decide (v ≠ 0)) (rf_raise_engine (f := Rf.ENG_STATUS_ACTIVE_BANK e) (page_le (by decide) e) _ _ _ _ _)
    rw [hactive, armed_activeBank, hcalm.activeBank]

/-- A reload that applies at once, behind the copy of the constant image to the shadow. -/
theorem reloadOp_now {s p : State} {e : Eng}
    (hp : s.shadowConstants e (max ((s.eng e).bank true).constBytes ((s.eng e).bank false).constBytes) = p)
    (hopen : s.hubOpen = true) (hnow : p.armNow e = true) : s.reloadOp e = p.applyReload e 0 := by
  rw [State.reloadOp, if_pos hopen, State.reloadNow, hp]
  exact if_pos hnow

theorem reloadOp_later {s p : State} {e : Eng}
    (hp : s.shadowConstants e (max ((s.eng e).bank true).constBytes ((s.eng e).bank false).constBytes) = p)
    (hopen : s.hubOpen = true) (hnow : p.armNow e = false) :
    s.reloadOp e = p.armed e { p.eng e with loadAt := some (p.armBand e) } (p.armBand e) := by
  rw [State.reloadOp, if_pos hopen, State.reloadNow, hp]
  exact if_neg (Bool.eq_false_iff.1 hnow)

theorem reloadOp_held {s : State} {e : Eng} (hclosed : s.hubOpen = false) : s.reloadOp e = s.holdTx (.constReload e) :=
  if_neg (Bool.eq_false_iff.1 hclosed)

theorem disarmOp_eng (s : State) (e : Nat) : (s.disarmOp e).eng e = { s.eng e with swapAt := none, loadAt := none } := by
  rw [State.disarmOp, State.showArmed, State.setrf_get_eng, State.setEng_get_eng, if_pos rfl]

/-- Settles O23. -/
theorem swapsAndReloads : Obligations.SwapsAndReloads := by
  unfold Obligations.SwapsAndReloads
  intro e s hroom he eu a ready now
  have hroom' : s.evq.length < 1024 := by omega
  have hnow : s.armNow e = true ↔ now := armNow_iff s e
  have hacc := shadowConstants_accessed s e (max ((s.eng e).bank true).constBytes ((s.eng e).bank false).constBytes)
  have hcalm := shadowConstants_calm he e (max ((s.eng e).bank true).constBytes ((s.eng e).bank false).constBytes)
  have hadds := shadowConstants_adds he e (max ((s.eng e).bank true).constBytes ((s.eng e).bank false).constBytes)
  generalize hp : s.shadowConstants e (max ((s.eng e).bank true).constBytes ((s.eng e).bank false).constBytes) = p
    at hacc hcalm hadds
  refine ⟨fun hready hn => ⟨_, exec_swap e s, ?_⟩, fun hready hn => ⟨_, exec_swap e s, ?_⟩, fun hready => ?_,
    fun hopen hn => ⟨_, exec_constReload e s, ?_⟩, fun hopen hn => ⟨_, exec_constReload e s, ?_⟩,
    fun hclosed => ⟨_, exec_constReload e s, ?_⟩, ⟨_, exec_disarm e s, ?_⟩⟩
  · obtain ⟨hres, hbusy, hbound⟩ := hready
    rw [swapOp_now hres hbusy hbound (hnow.2 hn)]
    obtain ⟨hactive, hok, harmed, hb, hraised, heng⟩ := applySwap_gives s e hroom'
    exact ⟨hactive, hok, harmed, hb, hraised, by rw [heng], by rw [heng], by rw [heng]⟩
  · obtain ⟨hres, hbusy, hbound⟩ := hready
    rw [swapOp_later hres hbusy hbound (Bool.eq_false_iff.2 (fun h => hn (hnow.1 h)))]
    exact ⟨by rw [armed_eng], armed_shown rfl, armed_activeBank _ _ _ _, rfl⟩
  · rw [exec_swap, swapOp_not_ready hready]
  · rw [reloadOp_now hp hopen ((hcalm.armNow e).trans (hnow.2 hn))]
    obtain ⟨hload, hraised, hactive, h0, h1⟩ := applyReload_gives (hcalm.noErrs he) e
      (by have : p.evq.length ≤ s.evq.length + 6 := hadds; omega)
    have hx : p.eng e = s.eng e := hacc.eng e
    have hu : p.unitOf e = s.unitOf e := hcalm.unitOf e
    rw [hu] at hraised
    rw [hx] at h0 h1
    exact ⟨hload, hraised.earlier hacc.queue.length_le, hactive.trans (hcalm.activeBank e), h0, h1⟩
  · rw [reloadOp_later hp hopen ((hcalm.armNow e).trans (Bool.eq_false_iff.2 (fun h => hn (hnow.1 h))))]
    have hband : p.armBand e = s.armBand e := by
      have hx : p.eng e = s.eng e := hacc.eng e
      have hon : p.cadOn = s.cadOn := hcalm.cadOn
      have hswap : p.rf (Rf.ENG_SWAP_BAND_BAND e) = s.rf (Rf.ENG_SWAP_BAND_BAND e) := hcalm.swapBand e
      rw [State.armBand, State.armBand, hx, hon, hswap]
    refine ⟨?_, armed_shown (Bool.or_true _), ?_⟩
    · rw [armed_eng, hband]
    · rw [armed_eng, hacc.eng]
  · rw [reloadOp_held hclosed, State.holdTx]
    have hcls : heldClass (.constReload e) = 3 := rfl
    rw [hcls]
    by_cases htag : s.tagFree 3 = true
    · rw [if_pos htag, if_pos htag, if_pos htag]
      exact ⟨rfl, by simp⟩
    · rw [if_neg htag, if_neg htag, if_neg htag]
      exact ⟨rfl, by simp⟩
  · have heng := disarmOp_eng s e
    refine ⟨by rw [heng], by rw [heng], ?_, rfl, fun f hf => ?_⟩
    · rw [State.disarmOp, State.showArmed, State.rf_setrf_self, State.setEng_get_eng, if_pos rfl]; rfl
    · exact State.rf_setrf _ _ _ _ (hf _ (List.mem_singleton_self _))

end Sys2Proof.Machine
end

section
/-! SUPPORT. SPARE_READY: the shadow of a failed engine goes to its spare, and the spare goes on (R64). -/

namespace Sys2Proof.Machine

/-! ### The program registers -/

/-- The program registers of engine `b` are copied to those of `f`. -/
def State.copyProgram (s : State) (b f : Nat) : State :=
  ((programFlds b).zip (programFlds f)).foldl (fun s p => s.setrf p.2 (s.rf p.1)) s

theorem copyProgram_activeBank (s : State) (b f : Nat) :
    (s.copyProgram b f).rf (Rf.ENG_STATUS_ACTIVE_BANK f) = s.rf (Rf.ENG_STATUS_ACTIVE_BANK b) % 2 := by
  have hwidth : 2 ^ (Rf.ENG_STATUS_ACTIVE_BANK f).width = 2 := rfl
  simp (disch := (simp only [Fld.key, Rf.ENG_STATUS_ACTIVE_BANK, Rf.ENG_STATUS_ACTIVE_OK, Rf.ENG_ADM_RESULT, Rf.ENG_ADM_INDEX,
    Rf.ENG_ADM_IMAGE_ID, Rf.ENG_BOUND_BOUND, Rf.ENG_ACT_BOUND_BOUND, Rf.ENG_BUDGET_BUDGET, Rf.ENG_SWAP_BAND_BAND,
    Rf.ENG_SWAP_AT_BAND, Rf.ENG_CONST_SRC_HUB_ADDR]; omega)) only [State.copyProgram, programFlds, List.zip_cons_cons,
    List.zip_nil_right, List.foldl_cons, List.foldl_nil, State.rf_setrf, State.rf_setrf_self, hwidth]

theorem copyProgram_unit (s : State) (b f : Nat) : (s.copyProgram b f).rf (Rf.ENG_ROLE_UNIT f) = s.rf (Rf.ENG_ROLE_UNIT f) := by
  simp (disch := (simp only [Fld.key, Rf.ENG_STATUS_ACTIVE_BANK, Rf.ENG_STATUS_ACTIVE_OK, Rf.ENG_ADM_RESULT, Rf.ENG_ADM_INDEX,
    Rf.ENG_ADM_IMAGE_ID, Rf.ENG_BOUND_BOUND, Rf.ENG_ACT_BOUND_BOUND, Rf.ENG_BUDGET_BUDGET, Rf.ENG_SWAP_BAND_BAND,
    Rf.ENG_SWAP_AT_BAND, Rf.ENG_CONST_SRC_HUB_ADDR, Rf.ENG_ROLE_UNIT]; omega)) only [State.copyProgram, programFlds,
    List.zip_cons_cons, List.zip_nil_right, List.foldl_cons, List.foldl_nil, State.rf_setrf]

theorem cadOn_setrf {f : Fld} (hf : 0x1000000 ≤ f.addr) (s : State) (v : Nat) : (s.setrf f v).cadOn = s.cadOn := by
  have hkey : Rf.CAD_GEAR_STATE.key < 0x1000000 * 64 := by decide
  have hrf : (s.setrf f v).rf Rf.CAD_GEAR_STATE = s.rf Rf.CAD_GEAR_STATE := by
    refine State.rf_setrf _ _ _ _ ?_
    have hfkey : f.key = f.addr * 64 + f.lo := rfl
    omega
  rw [State.cadOn, State.cadOn, hrf]

theorem copyProgram_cadOn (s : State) (b f : Nat) : (s.copyProgram b f).cadOn = s.cadOn := by
  have hpage : ∀ p ∈ (programFlds b).zip (programFlds f), 0x1000000 ≤ p.2.addr := by
    intro p hp
    have hmem : p.2 ∈ programFlds f := (List.of_mem_zip hp).2
    simp only [programFlds, List.mem_cons, List.not_mem_nil, or_false] at hmem
    rcases hmem with h | h | h | h | h | h | h | h | h | h | h <;> rw [h] <;> exact page_le (by decide) f
  unfold State.copyProgram
  generalize (programFlds b).zip (programFlds f) = l at hpage
  induction l generalizing s with
  | nil => rfl
  | cons p l ih =>
    exact (ih _ (fun q hq => hpage q (List.mem_cons_of_mem _ hq))).trans (cadOn_setrf (hpage p List.mem_cons_self) s _)

theorem copyProgram_rest (s : State) (b f : Nat) : ∃ r, s.copyProgram b f = { s with regs := r } := by
  unfold State.copyProgram
  generalize (programFlds b).zip (programFlds f) = l
  induction l generalizing s with
  | nil => exact ⟨s.regs, rfl⟩
  | cons p l ih =>
    obtain ⟨r, hr⟩ := ih (s.setrf p.2 (s.rf p.1))
    exact ⟨r, hr⟩

/-! ### The stages of SPARE_READY -/

/-- On the way to SPARE_READY: the spare `f` has the bank and the admissions of the failed engine `b`, and at most `n` events have
been added. -/
structure TakesOver (b f n : Nat) (s t : State) : Prop where
  bank  : t.rf (Rf.ENG_STATUS_ACTIVE_BANK f) = s.rf (Rf.ENG_STATUS_ACTIVE_BANK b) % 2
  unit  : t.unitOf f = s.unitOf f
  cadOn : t.cadOn = s.cadOn
  adm0  : (t.eng f).adm0 = (s.eng b).adm0
  adm1  : (t.eng f).adm1 = (s.eng b).adm1
  errs  : t.hubU.errs = []
  queue : s.evq.length ≤ t.evq.length
  adds  : Adds n s t

/-- An access of the hub that reads into the engine's scratch keeps it so. -/
theorem TakesOver.read {b f m n : Nat} {s t u : State} (h : TakesOver b f m s t) (hcalm : Calm t u) (hadds : Adds n t u)
    (hqueue : t.evq <+: u.evq) (heng : ∃ l, u.eng f = { t.eng f with scratch := l }) : TakesOver b f (m + n) s u := by
  obtain ⟨l, heng⟩ := heng
  have hbank : ¬ hubMoved (Rf.ENG_STATUS_ACTIVE_BANK f).key := not_hubMoved_of_engine (page_le (by decide) f)
    (Nat.le_of_ble_eq_true rfl) (.inl (Nat.le_of_ble_eq_true rfl))
  exact ⟨(hcalm.flds _ hbank).trans h.bank, (hcalm.unitOf f).trans h.unit, hcalm.cadOn.trans h.cadOn,
    (congrArg Engine.adm0 heng).trans h.adm0, (congrArg Engine.adm1 heng).trans h.adm1, hcalm.noErrs h.errs,
    h.queue.trans hqueue.length_le, h.adds.trans hadds⟩

/-- The armed swap and reload of an engine are set and shown. -/
theorem TakesOver.arm {b f n : Nat} {s t : State} (h : TakesOver b f n s t) (k : Nat) (x y : Option Nat) :
    TakesOver b f n s ((t.setEng k { t.eng k with swapAt := x, loadAt := y }).showArmed k) := by
  have hkeys : (Rf.ENG_STATUS_ACTIVE_BANK f).key ≠ (Rf.ENG_STATUS_SWAP_ARMED k).key ∧
      (Rf.ENG_ROLE_UNIT f).key ≠ (Rf.ENG_STATUS_SWAP_ARMED k).key := by
    simp only [Fld.key, Rf.ENG_STATUS_ACTIVE_BANK, Rf.ENG_STATUS_SWAP_ARMED, Rf.ENG_ROLE_UNIT]; omega
  have heng : (((t.setEng k { t.eng k with swapAt := x, loadAt := y }).showArmed k).eng f).adm0 = (t.eng f).adm0 ∧
      (((t.setEng k { t.eng k with swapAt := x, loadAt := y }).showArmed k).eng f).adm1 = (t.eng f).adm1 := by
    rw [State.showArmed, State.setrf_get_eng, State.setEng_get_eng]
    split
    · next hk => rw [hk]; exact ⟨rfl, rfl⟩
    · exact ⟨rfl, rfl⟩
  exact ⟨(State.rf_setrf _ _ _ _ hkeys.1).trans h.bank, (State.rf_setrf _ _ _ _ hkeys.2).trans h.unit,
    (cadOn_setrf (page_le (by decide) k) _ _).trans h.cadOn, heng.1.trans h.adm0, heng.2.trans h.adm1, h.errs, h.queue, h.adds⟩

theorem copyShadow_takesOver {s : State} (he : s.hubU.errs = []) (b f : Nat) : TakesOver b f 6 s (s.copyShadow b f) := by
  have hread := readAs_fetched s 3 (s.unitOf f) (shadowBase b) 0x300000
  have hreadCalm := readAs_calm he 3 (s.unitOf f) (shadowBase b) 0x300000
  have hreadAdds := readAs_adds (cls := 3) (by decide) he (s.unitOf f) (shadowBase b) 0x300000
  generalize hr : s.readAs 3 (s.unitOf f) (shadowBase b) 0x300000 = r at hread hreadCalm hreadAdds
  have hwrite := writeAs_accessed r.1 true 3 (s.unitOf f) (shadowBase f) 0x300000 (moveCells r.2 (shadowBase b) (shadowBase f))
  have hwriteCalm := writeAs_calm r.1 true 3 (s.unitOf f) (shadowBase f) 0x300000 (moveCells r.2 (shadowBase b) (shadowBase f))
  have hwriteAdds := writeAs_adds r.1 true (cls := 3) (by decide) (s.unitOf f) (shadowBase f) 0x300000
    (moveCells r.2 (shadowBase b) (shadowBase f))
  generalize hp : r.1.writeAs true 3 (s.unitOf f) (shadowBase f) 0x300000 (moveCells r.2 (shadowBase b) (shadowBase f)) = p
    at hwrite hwriteCalm hwriteAdds
  have hacc : Accessed s p := hread.accessed.trans hwrite
  have hcalm : Calm s p := hreadCalm.trans hwriteCalm
  have hadds : Adds 6 s p := hreadAdds.trans hwriteAdds
  obtain ⟨regs, hrest⟩ := copyProgram_rest p b f
  have hcopy : s.copyShadow b f = (p.copyProgram b f).setEng f
      { bank0 := (p.copyProgram b f).bankFromShadow f false, bank1 := (p.copyProgram b f).bankFromShadow f true,
        adm0 := ((p.copyProgram b f).eng b).adm0, adm1 := ((p.copyProgram b f).eng b).adm1,
        views := ((p.copyProgram b f).eng f).views, readyAt := (p.copyProgram b f).count,
        begun := ((p.copyProgram b f).eng b).begun } := by
    rw [State.copyShadow, State.hubWrite, hubClass_own, hr]
    simp only [hp, State.copyProgram]
  have heng : (p.copyProgram b f).eng b = s.eng b := by rw [hrest]; exact hacc.eng b
  have hbank : ¬ hubMoved (Rf.ENG_STATUS_ACTIVE_BANK b).key := not_hubMoved_of_engine (page_le (by decide) b)
    (Nat.le_of_ble_eq_true rfl) (.inl (Nat.le_of_ble_eq_true rfl))
  have hevq : (p.copyProgram b f).evq = p.evq := by rw [hrest]
  have herrs : (p.copyProgram b f).hubU.errs = [] := by rw [hrest]; exact hcalm.noErrs he
  have hbankf : (p.copyProgram b f).rf (Rf.ENG_STATUS_ACTIVE_BANK f) = s.rf (Rf.ENG_STATUS_ACTIVE_BANK b) % 2 := by
    rw [copyProgram_activeBank, hcalm.flds _ hbank]
  have hunit : (p.copyProgram b f).unitOf f = s.unitOf f := (copyProgram_unit p b f).trans (hcalm.unitOf f)
  have hon : (p.copyProgram b f).cadOn = s.cadOn := (copyProgram_cadOn p b f).trans hcalm.cadOn
  clear hrest hr hp
  generalize p.copyProgram b f = q at hcopy heng hevq herrs hbankf hunit hon
  rw [hcopy]
  refine ⟨hbankf, hunit, hon, ?_, ?_, herrs, ?_, ?_⟩
  · rw [State.setEng_get_eng, if_pos rfl, heng]
  · rw [State.setEng_get_eng, if_pos rfl, heng]
  · exact (hacc.queue.length_le).trans (Nat.le_of_eq (congrArg List.length hevq).symm)
  · exact (Nat.le_of_eq (congrArg List.length hevq)).trans hadds

theorem TakesOver.loadConstants {b f n : Nat} {s t : State} (h : TakesOver b f n s t) :
    TakesOver b f (n + 3) s (t.loadConstants f) := by
  obtain ⟨hcalm, hadds⟩ := loadConstants_calm h.errs f
  obtain ⟨m, heng⟩ := loadConstants_eng t f
  exact h.read hcalm hadds (loadConstants_queue t f) ⟨m, heng⟩

theorem TakesOver.loadCarry {b f n : Nat} {s t : State} (h : TakesOver b f n s t) (k : Nat) :
    TakesOver b f (n + 3) s (t.loadCarry f k) := by
  unfold State.loadCarry
  split
  · exact ⟨h.bank, h.unit, h.cadOn, h.adm0, h.adm1, h.errs, h.queue, h.adds.mono (by omega)⟩
  · have hfetch := readAs_fetched t 3 (t.unitOf f) (checkpointAt f (k - 1)) (min (t.carrySize f) 0x40000)
    have hcalm := readAs_calm h.errs 3 (t.unitOf f) (checkpointAt f (k - 1)) (min (t.carrySize f) 0x40000)
    have hadds := readAs_adds (cls := 3) (by decide) h.errs (t.unitOf f) (checkpointAt f (k - 1)) (min (t.carrySize f) 0x40000)
    dsimp only
    generalize t.readAs 3 (t.unitOf f) (checkpointAt f (k - 1)) (min (t.carrySize f) 0x40000) = r at hfetch hcalm hadds
    refine h.read ⟨hcalm.flds, hcalm.errs⟩ hadds hfetch.queue ?_
    rw [State.setEng_get_eng, if_pos rfl, hfetch.eng]
    exact ⟨_, rfl⟩

/-- The spare before the event that says it is ready. -/
def State.spareLoaded (s : State) (u b f : Nat) : State :=
  let t := s.copyShadow b f
  let t := (t.setEng f { t.eng f with swapAt := (s.eng b).swapAt, loadAt := (s.eng b).loadAt }).showArmed f
  let t := (t.setEng b { t.eng b with swapAt := none, loadAt := none }).showArmed b
  (t.loadConstants f).loadCarry f (s.wu u).done

theorem spareLoaded_takesOver {s : State} (he : s.hubU.errs = []) (u b f : Nat) : TakesOver b f 12 s (s.spareLoaded u b f) :=
  ((((copyShadow_takesOver he b f).arm f _ _).arm b _ _).loadConstants).loadCarry _

/-- The lines a port's group has still to bring are those of the band that is run again. -/
def State.linesRestart (t : State) (u n : Nat) : State :=
  if u < 48 then t.setPort u { t.port u with grpBand := n, grpNext := 0, missed := [], rawTo := t.rf (Rf.SPK_RAWPOS_NEXT u) }
  else t

theorem linesRestart_rf (t : State) (u n : Nat) (g : Fld) : (t.linesRestart u n).rf g = t.rf g := by
  unfold State.linesRestart; split <;> rfl

theorem linesRestart_eng (t : State) (u n k : Nat) : (t.linesRestart u n).eng k = t.eng k := by
  unfold State.linesRestart; split <;> rfl

theorem linesRestart_evq (t : State) (u n : Nat) : (t.linesRestart u n).evq = t.evq := by
  unfold State.linesRestart; split <;> rfl

theorem raise_cadOn (s : State) (c a0 a1 a2 : Nat) : (s.raise c a0 a1 a2).cadOn = s.cadOn := by
  rw [State.cadOn, State.cadOn, rf_raise (by decide)]

/-- The event that says the spare is ready, and what follows it. -/
theorem spareReady_eq (s : State) (u b : Nat) : s.spareReady u b =
    let f := s.rf (Rf.ENG_UNIT_ENGINE u)
    let q := (s.spareLoaded u b f).raise 0xD006 (f + 256 * (s.spareLoaded u b f).unitOf f) (s.wu u).done b
    (if q.cadOn then (q.addCause spareCause).setrf (Rf.ENG_STATUS_STATE f) 1
      else q.setWu u { s.wu u with failed := none, lost := [] }).linesRestart u (s.wu u).done := by
  unfold State.spareReady State.linesRestart State.spareLoaded State.engUnit
  rfl

/-- What SPARE_READY leaves while the cadence unit runs. -/
theorem spareReady_gives {s : State} {u b : Nat} (he : s.hubU.errs = []) (hroom : s.evq.length + 12 < 1024)
    (hon : s.cadOn = true) :
    let f := s.rf (Rf.ENG_UNIT_ENGINE u)
    let t := s.spareReady u b
    t.rf (Rf.ENG_STATUS_STATE f) = 1 ∧ t.rf (Rf.ENG_STATUS_ACTIVE_BANK f) = s.rf (Rf.ENG_STATUS_ACTIVE_BANK b) % 2 ∧
      (t.eng f).adm0 = (s.eng b).adm0 ∧ (t.eng f).adm1 = (s.eng b).adm1 ∧
      Raised s t 0xD006 (f + 256 * s.unitOf f) (s.wu u).done b := by
  intro f t
  have hload := spareLoaded_takesOver he u b f
  have ht := spareReady_eq s u b
  dsimp only at ht
  generalize s.spareLoaded u b f = p at hload ht
  rw [if_pos ((raise_cadOn _ _ _ _ _).trans (hload.cadOn.trans hon))] at ht
  have hroomp : p.evq.length < 1024 := Nat.lt_of_le_of_lt hload.adds hroom
  have hpage : 0x1000000 ≤ (Rf.ENG_STATUS_STATE f).addr := page_le (by decide) f
  have hkey : (Rf.ENG_STATUS_ACTIVE_BANK f).key ≠ (Rf.ENG_STATUS_STATE f).key := by
    simp only [Fld.key, Rf.ENG_STATUS_ACTIVE_BANK, Rf.ENG_STATUS_STATE]; omega
  have heng : t.eng f = p.eng f := by
    simp only [t, ht]
    rw [linesRestart_eng, State.setrf_get_eng]
    exact raise_eng _ _ _ _ _ _
  refine ⟨?_, ?_, by rw [heng, hload.adm0], by rw [heng, hload.adm1], ?_⟩
  · simp only [t, ht]
    rw [linesRestart_rf, State.rf_setrf_self]; rfl
  · simp only [t, ht]
    rw [linesRestart_rf, State.rf_setrf _ _ _ _ hkey]
    exact (rf_raise_engine (f := Rf.ENG_STATUS_ACTIVE_BANK f) hpage _ _ _ _ _).trans hload.bank
  · have hraised := (raise_raised p 0xD006 (f + 256 * p.unitOf f) (s.wu u).done b hroomp).earlier hload.queue
    rw [hload.unit] at hraised
    have hevq : t.evq = (p.raise 0xD006 (f + 256 * s.unitOf f) (s.wu u).done b).evq := by
      simp only [t, ht]
      rw [linesRestart_evq, State.setrf_evq, hload.unit]
      rfl
    exact hraised.later (by rw [hevq])

end Sys2Proof.Machine
end

section
/-! SUPPORT. A fault of an engine: it is retired, and its unit goes to a spare (R62, R64, R67). -/

namespace Sys2Proof.Machine

/-! ### What a fault notes beside the engines -/

/-- From `s` to `t` the engines' register pages, the cadence unit's state, the hub and the units are as they were, and at most `n`
events have been added. -/
structure Beside (n : Nat) (s t : State) : Prop where
  page  : ∀ g : Fld, 0x1000000 ≤ g.addr → t.rf g = s.rf g
  cadOn : t.cadOn = s.cadOn
  hub   : t.hub = s.hub
  wu    : ∀ k, t.wu k = s.wu k
  eng   : ∀ k, t.eng k = s.eng k
  queue : s.evq <+: t.evq
  adds  : Adds n s t

theorem Beside.refl (s : State) : Beside 0 s s := ⟨fun _ _ => rfl, rfl, rfl, fun _ => rfl, fun _ => rfl, List.prefix_refl _, .refl s⟩

theorem Beside.trans {m n : Nat} {s t u : State} (h1 : Beside m s t) (h2 : Beside n t u) : Beside (m + n) s u :=
  ⟨fun g hg => (h2.page g hg).trans (h1.page g hg), h2.cadOn.trans h1.cadOn, h2.hub.trans h1.hub,
    fun k => (h2.wu k).trans (h1.wu k), fun k => (h2.eng k).trans (h1.eng k), h1.queue.trans h2.queue, h1.adds.trans h2.adds⟩

theorem Beside.mono {m n : Nat} {s t : State} (h : Beside m s t) (hmn : m ≤ n) : Beside n s t :=
  ⟨h.page, h.cadOn, h.hub, h.wu, h.eng, h.queue, h.adds.mono hmn⟩

theorem Beside.raise (s : State) (c a0 a1 a2 : Nat) : Beside 3 s (s.raise c a0 a1 a2) :=
  ⟨fun _ hg => rf_raise_engine hg _ _ _ _ _, raise_cadOn _ _ _ _ _, raise_hub _ _ _ _ _, fun _ => raise_wu _ _ _ _ _ _,
    fun _ => raise_eng _ _ _ _ _ _, evq_prefix_raise _ _ _ _ _, raise_adds _ _ _ _ _⟩

theorem Beside.chains (s : State) (l : List (Nat × Chain)) : Beside 0 s { s with chains := l } :=
  ⟨fun _ _ => rfl, rfl, rfl, fun _ => rfl, fun _ => rfl, List.prefix_refl _, Nat.le_refl _⟩

theorem Beside.tc0 (s : State) (x : BoundUnit) : Beside 0 s { s with tc0 := x } :=
  ⟨fun _ _ => rfl, rfl, rfl, fun _ => rfl, fun _ => rfl, List.prefix_refl _, Nat.le_refl _⟩

theorem Beside.void (s : State) : Beside 0 s (s.bump Rf.PAK_TC0CNT_VOID) := by
  have hkey : Rf.PAK_TC0CNT_VOID.key < 0x1000000 * 64 := by decide
  have hgear : Rf.CAD_GEAR_STATE.key ≠ Rf.PAK_TC0CNT_VOID.key := by decide
  refine ⟨fun g hg => rf_bump _ _ _ _ ?_, ?_, rfl, fun _ => rfl, fun _ => rfl, List.prefix_refl _, Nat.le_refl _⟩
  · have hgkey : g.key = g.addr * 64 + g.lo := rfl
    omega
  · rw [State.cadOn, State.cadOn, rf_bump _ _ _ _ hgear]

/-- Condition 4 of the bound fails: what counts it beside the event is VOID alone. -/
theorem boundFails_four (s : State) (n : Nat) : s.boundFails n 4 =
    if s.tc0.failed.any (fun e => e.1 == n && e.2 == 4) then s
    else
      let t : State := { s with tc0 := { s.tc0 with failed := (s.tc0.failed ++ [(n, 4)]).filter (fun e => decide (n < e.1 + 256)) } }
      (if !s.tc0.failed.any (fun e => e.1 == n) then t.bump Rf.PAK_TC0CNT_VOID else t).raise 0x6003 n 4 := rfl

theorem boundFails_beside (s : State) (n : Nat) : Beside 3 s (s.boundFails n 4) := by
  rw [boundFails_four]
  split
  · exact (Beside.refl s).mono (by decide)
  · dsimp only
    split
    · exact ((Beside.tc0 s _).trans (.void _)).trans (.raise _ _ _ _ _)
    · exact (Beside.tc0 s _).trans (.raise _ _ _ _ _)

theorem faultBound_beside (s : State) (e u n : Nat) : Beside 6 s (s.faultBound e u n) := by
  unfold State.faultBound
  split
  · have hsecond (b : Bool) (t : State) : Beside 3 t (if b then t.boundFails n 4 else t) := by
      cases b
      · exact (Beside.refl t).mono (by decide)
      · exact boundFails_beside t n
    dsimp only
    refine Beside.trans (m := 3) ?_ (hsecond _ _)
    split
    · exact (Beside.tc0 s _).trans (boundFails_beside _ _)
    · exact (Beside.tc0 s _).mono (by decide)
  · exact (Beside.refl s).mono (by decide)

/-! ### Retirement -/

theorem retireEng_work (s : State) (e : Nat) : ((s.retireEng e).eng e).queue = [] ∧ ((s.retireEng e).eng e).copies = [] := by
  constructor <;> simp only [State.retireEng, State.setrf_get_eng, State.setEng_get_eng, if_true]

/-- The fields a retirement sets. -/
theorem retireEng_fields (s : State) (e : Nat) : (s.retireEng e).rf (Rf.ENG_ROLE_RETIRED e) = 1 ∧
    (s.retireEng e).rf (Rf.ENG_ROLE_SPARE e) = 0 ∧ (s.retireEng e).rf (Rf.ENG_STATUS_STATE e) = 7 := by
  refine ⟨?_, ?_, ?_⟩ <;>
    simp (disch := (simp only [Fld.key, Rf.ENG_ROLE_RETIRED, Rf.ENG_ROLE_SPARE, Rf.ENG_ROLE_UNIT, Rf.ENG_ADM_BUSY,
      Rf.ENG_STATUS_STATE]; omega)) only [State.retireEng, State.rf_setrf, State.rf_setrf_self]
  all_goals rfl

/-- Every other field is as it was. -/
theorem retireEng_rf (s : State) (e : Nat) {g : Fld} (h : ∀ f ∈ [Rf.ENG_ROLE_RETIRED e, Rf.ENG_ROLE_SPARE e, Rf.ENG_ROLE_UNIT e,
    Rf.ENG_ADM_BUSY e, Rf.ENG_STATUS_STATE e], g.key ≠ f.key) : (s.retireEng e).rf g = s.rf g := by
  simp only [List.forall_mem_cons, List.not_mem_nil, false_implies, implies_true, and_true] at h
  obtain ⟨h1, h2, h3, h4, h5⟩ := h
  simp only [State.retireEng, State.rf_setrf _ _ _ _ h1, State.rf_setrf _ _ _ _ h2, State.rf_setrf _ _ _ _ h3,
    State.rf_setrf _ _ _ _ h4, State.rf_setrf _ _ _ _ h5, State.setEng_get_rf]

theorem retireEng_wu (s : State) (e k : Nat) : (s.retireEng e).wu k = s.wu k := by
  simp only [State.retireEng, State.setrf_get_wu, State.setEng_get_wu]

/-! ### The cause and its event -/

/-- The cause is shown, with event 0xD005; the engine keeps or loses the mark of an injected fault. -/
def State.faultShown (s : State) (e : Nat) (c : FaultCause) (keep : Bool) : State :=
  let t := (s.setrf (faultFld e c) 1).setEng e { s.eng e with injected := (s.eng e).injected && keep }
  t.raise 0xD005 (e + 256 * t.unitOf e) (faultNo c)

theorem faultFld_key (e : Nat) (c : FaultCause) : ∃ lo < 4, (faultFld e c).key = (0x1000058 + 0x1000 * e) * 64 + lo ∧
    (faultFld e c).width = 1 := by
  cases c
  · exact ⟨0, by decide, rfl, rfl⟩
  · exact ⟨1, by decide, rfl, rfl⟩
  · exact ⟨2, by decide, rfl, rfl⟩
  · exact ⟨3, by decide, rfl, rfl⟩

theorem faultFld_page (e : Nat) (c : FaultCause) : 0x1000000 ≤ (faultFld e c).addr := by
  cases c <;> exact page_le (by decide) e

/-- What showing the cause leaves, from `s` to `t`. -/
structure FaultTold (s t : State) (e : Nat) (c : FaultCause) (n : Nat) : Prop where
  fault  : t.rf (faultFld e c) = 1
  page   : ∀ g : Fld, 0x1000000 ≤ g.addr → g.key ≠ (faultFld e c).key → t.rf g = s.rf g
  cadOn  : t.cadOn = s.cadOn
  hub    : t.hub = s.hub
  wu     : ∀ k, t.wu k = s.wu k
  queue  : s.evq <+: t.evq
  adds   : Adds n s t
  raised : Raised s t 0xD005 (e + 256 * s.unitOf e) (faultNo c) 0

theorem faultShown_told (s : State) (e : Nat) (c : FaultCause) (keep : Bool) (hroom : s.evq.length < 1024) :
    FaultTold s (s.faultShown e c keep) e c 3 := by
  obtain ⟨lo, hlo, hkey, hwidth⟩ := faultFld_key e c
  have hunit : ((s.setrf (faultFld e c) 1).setEng e { s.eng e with injected := (s.eng e).injected && keep }).unitOf e =
      s.unitOf e := by
    have hne : (Rf.ENG_ROLE_UNIT e).key ≠ (faultFld e c).key := by
      rw [hkey]; simp only [Fld.key, Rf.ENG_ROLE_UNIT]; omega
    exact State.rf_setrf s _ _ _ hne
  have hraise := Beside.raise ((s.setrf (faultFld e c) 1).setEng e { s.eng e with injected := (s.eng e).injected && keep })
    0xD005 (e + 256 * s.unitOf e) (faultNo c) 0
  have ht : s.faultShown e c keep = ((s.setrf (faultFld e c) 1).setEng e
      { s.eng e with injected := (s.eng e).injected && keep }).raise 0xD005 (e + 256 * s.unitOf e) (faultNo c) 0 := by
    rw [State.faultShown, hunit]
  rw [ht]
  refine ⟨?_, fun g hg hne => ?_, ?_, hraise.hub, hraise.wu, hraise.queue, hraise.adds, ?_⟩
  · rw [hraise.page _ (faultFld_page e c), State.setEng_get_rf, State.rf_setrf_self, hwidth]
    rfl
  · rw [hraise.page g hg, State.setEng_get_rf, State.rf_setrf _ _ _ _ hne]
  · exact hraise.cadOn.trans (cadOn_setrf (faultFld_page e c) s 1)
  · refine raised_of_evq_eq ?_ hroom _ _ _ _
    rfl

theorem FaultTold.beside {s t u : State} {e m n : Nat} {c : FaultCause} (h : FaultTold s t e c m) (hb : Beside n t u) :
    FaultTold s u e c (m + n) :=
  ⟨(hb.page _ (faultFld_page e c)).trans h.fault, fun g hg hne => (hb.page g hg).trans (h.page g hg hne),
    hb.cadOn.trans h.cadOn, hb.hub.trans h.hub, fun k => (hb.wu k).trans (h.wu k), h.queue.trans hb.queue,
    h.adds.trans hb.adds, h.raised.later hb.queue⟩

/-! ### The engine that failed -/

/-- The engine is retired with its cause shown, its work stopped. -/
structure OutOfUse (s t : State) (e : Nat) (c : FaultCause) : Prop where
  fault   : t.rf (faultFld e c) = 1
  retired : t.rf (Rf.ENG_ROLE_RETIRED e) = 1
  state   : t.rf (Rf.ENG_STATUS_STATE e) = 7
  queue   : (t.eng e).queue = []
  copies  : (t.eng e).copies = []
  raised  : Raised s t 0xD005 (e + 256 * s.unitOf e) (faultNo c) 0
  hub     : t.hub = s.hub

theorem retireEng_outOfUse {s p : State} {e n : Nat} {c : FaultCause} (h : FaultTold s p e c n) (u : Nat) (w : WorkUnit) :
    OutOfUse s ((p.setWu u w).retireEng e) e c ∧ OutOfUse s (p.retireEng e) e c := by
  obtain ⟨lo, hlo, hkey, -⟩ := faultFld_key e c
  have hne : ∀ f ∈ [Rf.ENG_ROLE_RETIRED e, Rf.ENG_ROLE_SPARE e, Rf.ENG_ROLE_UNIT e, Rf.ENG_ADM_BUSY e, Rf.ENG_STATUS_STATE e],
      (faultFld e c).key ≠ f.key := by
    simp only [List.forall_mem_cons, List.not_mem_nil, false_implies, implies_true, and_true, hkey]
    simp only [Fld.key, Rf.ENG_ROLE_RETIRED, Rf.ENG_ROLE_SPARE, Rf.ENG_ROLE_UNIT, Rf.ENG_ADM_BUSY, Rf.ENG_STATUS_STATE]
    omega
  have hgen (q : State) (hrf : q.rf (faultFld e c) = 1) (hhub : q.hub = s.hub) (hq : p.evq = q.evq) :
      OutOfUse s (q.retireEng e) e c := by
    obtain ⟨hret, -, hstate⟩ := retireEng_fields q e
    obtain ⟨hqueue, hcopies⟩ := retireEng_work q e
    have hevq : (q.retireEng e).evq = q.evq := rfl
    exact ⟨(retireEng_rf q e hne).trans hrf, hret, hstate, hqueue, hcopies, h.raised.later (by rw [hevq, hq]), hhub⟩
  exact ⟨hgen _ h.fault h.hub rfl, hgen _ h.fault h.hub rfl⟩

/-- What changes neither the fields of the engine's page nor its work, and takes no event away, keeps it so. -/
theorem OutOfUse.keep {s t v : State} {e : Nat} {c : FaultCause} (h : OutOfUse s t e c)
    (hrf : ∀ g ∈ [faultFld e c, Rf.ENG_ROLE_RETIRED e, Rf.ENG_STATUS_STATE e], v.rf g = t.rf g) (heng : v.eng e = t.eng e)
    (hhub : v.hub = t.hub) (hqueue : t.evq <+: v.evq) : OutOfUse s v e c := by
  simp only [List.forall_mem_cons, List.not_mem_nil, false_implies, implies_true, and_true] at hrf
  obtain ⟨hfault, hret, hstate⟩ := hrf
  exact ⟨hfault.trans h.fault, hret.trans h.retired, hstate.trans h.state, by rw [heng]; exact h.queue,
    by rw [heng]; exact h.copies, h.raised.later hqueue, hhub.trans h.hub⟩

/-! ### The unit and its spare -/

theorem spareOf_some {s : State} {sec f : Nat} (h : s.spareOf sec = some f) : f < 119 ∧ s.rf (Rf.ENG_ROLE_SPARE f) ≠ 0 := by
  have hmem := List.mem_range.1 (List.mem_of_find?_eq_some h)
  have hp := List.find?_some h
  simp only [Bool.and_eq_true, decide_eq_true_eq, State.bit] at hp
  exact ⟨hmem, hp.2⟩

theorem sparesFld_key (sec : Nat) : ∃ lo < 16, (sparesFld sec).key = 0x1800400 * 64 + lo := by
  unfold sparesFld
  split
  · exact ⟨0, by decide, rfl⟩
  · exact ⟨4, by decide, rfl⟩
  · exact ⟨8, by decide, rfl⟩
  · exact ⟨12, by decide, rfl⟩

/-- The spare takes the unit over. -/
def State.takeUnit (r : State) (u sec f : Nat) (views : List (Nat × ChainView)) : State :=
  let s := (r.setrf (Rf.ENG_UNIT_ENGINE u) f).setrf (sparesFld sec) (r.rf (sparesFld sec) - 1)
  let s := (s.setrf (Rf.ENG_ROLE_SPARE f) 0).setrf (Rf.ENG_ROLE_UNIT f) u
  (s.setEng f { views := views }).setrf (Rf.ENG_STATUS_STATE f) 0

/-- No spare is left: the unit is unserved. -/
def State.loseUnit (r : State) (e u : Nat) : State :=
  (((r.setWu u { r.wu u with rerun := none, kept := false, failed := none, lost := [], discard := [] }).setrf
    (Rf.ENG_UNIT_UNSERVED u) 1)).raise 0xD008 (e + 256 * u)

theorem giveUnit_some {r : State} {sec f : Nat} (h : r.spareOf sec = some f) (e u : Nat) (views : List (Nat × ChainView)) :
    r.giveUnit e u sec views = r.takeUnit u sec f views := by
  rw [State.giveUnit, h]; rfl

theorem giveUnit_none {r : State} {sec : Nat} (h : r.spareOf sec = none) (e u : Nat) (views : List (Nat × ChainView)) :
    r.giveUnit e u sec views = r.loseUnit e u := by
  rw [State.giveUnit, h]; rfl

/-- The fields a takeover leaves alone. -/
theorem takeUnit_rf (r : State) (u sec f : Nat) (views : List (Nat × ChainView)) {g : Fld}
    (h : ∀ k ∈ [Rf.ENG_UNIT_ENGINE u, sparesFld sec, Rf.ENG_ROLE_SPARE f, Rf.ENG_ROLE_UNIT f, Rf.ENG_STATUS_STATE f],
      g.key ≠ k.key) : (r.takeUnit u sec f views).rf g = r.rf g := by
  simp only [List.forall_mem_cons, List.not_mem_nil, false_implies, implies_true, and_true] at h
  obtain ⟨h1, h2, h3, h4, h5⟩ := h
  simp only [State.takeUnit, State.rf_setrf _ _ _ _ h1, State.rf_setrf _ _ _ _ h2, State.rf_setrf _ _ _ _ h3,
    State.rf_setrf _ _ _ _ h4, State.rf_setrf _ _ _ _ h5, State.setEng_get_rf]

theorem takeUnit_fields (r : State) {u f : Nat} (sec : Nat) (hu : u < 112) (hf : f < 119) (views : List (Nat × ChainView)) :
    (r.takeUnit u sec f views).rf (Rf.ENG_UNIT_ENGINE u) = f ∧ (r.takeUnit u sec f views).rf (Rf.ENG_ROLE_UNIT f) = u ∧
      (r.takeUnit u sec f views).rf (Rf.ENG_ROLE_SPARE f) = 0 := by
  obtain ⟨lo, hlo, hkey⟩ := sparesFld_key sec
  have hspares : (Rf.ENG_UNIT_ENGINE u).key ≠ (sparesFld sec).key := by
    rw [hkey]; simp only [Fld.key, Rf.ENG_UNIT_ENGINE]; omega
  have hengine : (Rf.ENG_UNIT_ENGINE u).key ≠ (Rf.ENG_ROLE_SPARE f).key ∧
      (Rf.ENG_UNIT_ENGINE u).key ≠ (Rf.ENG_ROLE_UNIT f).key ∧ (Rf.ENG_UNIT_ENGINE u).key ≠ (Rf.ENG_STATUS_STATE f).key := by
    simp only [Fld.key, Rf.ENG_UNIT_ENGINE, Rf.ENG_ROLE_SPARE, Rf.ENG_ROLE_UNIT, Rf.ENG_STATUS_STATE]; omega
  have hrole : (Rf.ENG_ROLE_UNIT f).key ≠ (Rf.ENG_STATUS_STATE f).key ∧ (Rf.ENG_ROLE_SPARE f).key ≠ (Rf.ENG_ROLE_UNIT f).key ∧
      (Rf.ENG_ROLE_SPARE f).key ≠ (Rf.ENG_STATUS_STATE f).key := by
    simp only [Fld.key, Rf.ENG_ROLE_SPARE, Rf.ENG_ROLE_UNIT, Rf.ENG_STATUS_STATE]; omega
  have hwidth : 2 ^ (Rf.ENG_UNIT_ENGINE u).width = 256 ∧ 2 ^ (Rf.ENG_ROLE_UNIT f).width = 256 := ⟨rfl, rfl⟩
  refine ⟨?_, ?_, ?_⟩
  · simp only [State.takeUnit, State.rf_setrf _ _ _ _ hengine.2.2, State.setEng_get_rf, State.rf_setrf _ _ _ _ hengine.2.1,
      State.rf_setrf _ _ _ _ hengine.1, State.rf_setrf _ _ _ _ hspares, State.rf_setrf_self, hwidth.1]
    exact Nat.mod_eq_of_lt (by omega)
  · simp only [State.takeUnit, State.rf_setrf _ _ _ _ hrole.1, State.setEng_get_rf, State.rf_setrf_self, hwidth.2]
    exact Nat.mod_eq_of_lt (by omega)
  · simp only [State.takeUnit, State.rf_setrf _ _ _ _ hrole.2.2, State.setEng_get_rf, State.rf_setrf _ _ _ _ hrole.2.1,
      State.rf_setrf_self]
    exact Nat.zero_mod _

/-- The engine that failed stays as it is where another takes its unit over. -/
theorem takeUnit_outOfUse {s r : State} {e f u : Nat} {c : FaultCause} (h : OutOfUse s r e c) (he : e < 119) (hfe : f ≠ e)
    (sec : Nat) (views : List (Nat × ChainView)) : OutOfUse s (r.takeUnit u sec f views) e c := by
  obtain ⟨lo, hlo, hkey⟩ := sparesFld_key sec
  obtain ⟨lo', hlo', hkey', -⟩ := faultFld_key e c
  refine h.keep (fun g hg => takeUnit_rf r u sec f views ?_) ?_ rfl (List.prefix_refl _)
  · simp only [List.mem_cons, List.not_mem_nil, or_false] at hg
    simp only [List.forall_mem_cons, List.not_mem_nil, false_implies, implies_true, and_true, hkey]
    rcases hg with rfl | rfl | rfl
    · rw [hkey']
      simp only [Fld.key, Rf.ENG_UNIT_ENGINE, Rf.ENG_ROLE_SPARE, Rf.ENG_ROLE_UNIT, Rf.ENG_STATUS_STATE]
      omega
    · simp only [Fld.key, Rf.ENG_UNIT_ENGINE, Rf.ENG_ROLE_SPARE, Rf.ENG_ROLE_UNIT, Rf.ENG_STATUS_STATE, Rf.ENG_ROLE_RETIRED]
      omega
    · simp only [Fld.key, Rf.ENG_UNIT_ENGINE, Rf.ENG_ROLE_SPARE, Rf.ENG_ROLE_UNIT, Rf.ENG_STATUS_STATE]
      omega
  · simp only [State.takeUnit, State.setrf_get_eng, State.setEng_get_eng, if_neg (Ne.symm hfe)]

theorem loseUnit_raised {r : State} (hroom : r.evq.length < 1024) (e u : Nat) :
    Raised r (r.loseUnit e u) 0xD008 (e + 256 * u) 0 0 := by
  refine raised_of_evq_eq ?_ hroom _ _ _ _
  rfl

theorem loseUnit_unserved (r : State) (e u : Nat) : (r.loseUnit e u).rf (Rf.ENG_UNIT_UNSERVED u) = 1 := by
  rw [State.loseUnit, rf_raise_engine (Nat.le_add_right_of_le (by decide)), State.rf_setrf_self]; rfl

theorem loseUnit_outOfUse {s r : State} {e u : Nat} {c : FaultCause} (h : OutOfUse s r e c) :
    OutOfUse s (r.loseUnit e u) e c := by
  obtain ⟨lo, hlo, hkey, -⟩ := faultFld_key e c
  have hkeep (g : Fld) (hpage : 0x1000000 ≤ g.addr) (hne : g.key ≠ (Rf.ENG_UNIT_UNSERVED u).key) :
      (r.loseUnit e u).rf g = r.rf g := by
    rw [State.loseUnit, rf_raise_engine hpage, State.rf_setrf _ _ _ _ hne]; rfl
  refine h.keep (fun g hg => ?_) ?_ ?_ ?_
  · simp only [List.mem_cons, List.not_mem_nil, or_false] at hg
    rcases hg with rfl | rfl | rfl
    · refine hkeep _ (faultFld_page e c) ?_
      rw [hkey]; simp only [Fld.key, Rf.ENG_UNIT_UNSERVED]; omega
    · refine hkeep _ (page_le (by decide) e) ?_
      simp only [Fld.key, Rf.ENG_UNIT_UNSERVED, Rf.ENG_ROLE_RETIRED]; omega
    · refine hkeep _ (page_le (by decide) e) ?_
      simp only [Fld.key, Rf.ENG_UNIT_UNSERVED, Rf.ENG_STATUS_STATE]; omega
  · rw [State.loseUnit, raise_eng]; rfl
  · rw [State.loseUnit, raise_hub]; rfl
  · exact evq_prefix_raise (State.setrf (State.setWu r u _) _ _) _ _ _ _

/-! ### The fault as a whole -/

/-- Whether a fault is of a code word and no other cause is shown yet. -/
def State.codeOnly (s : State) (e : Nat) (c : FaultCause) : Bool :=
  decide (c = .code) && !s.bit (Rf.ENG_FAULT_WDOG e) && !s.bit (Rf.ENG_FAULT_HANG e) && !s.bit (Rf.ENG_FAULT_TILE e)

theorem engFault_spare {s p : State} {e : Nat} {c : FaultCause} (hp : s.faultShown e c (s.codeOnly e c) = p)
    (h : p.rf (Rf.ENG_ROLE_SPARE e) ≠ 0) : s.engFault e c =
      (p.retireEng e).setrf (sparesFld (engSection e)) (p.rf (sparesFld (engSection e)) - 1) := by
  subst hp
  exact if_pos (bit_eq_true h)

theorem engFault_unitless {s p : State} {e : Nat} {c : FaultCause} (hp : s.faultShown e c (s.codeOnly e c) = p)
    (h : p.rf (Rf.ENG_ROLE_SPARE e) = 0) (hu : 112 ≤ s.unitOf e) : s.engFault e c = p.retireEng e := by
  subst hp
  exact (if_neg (Bool.eq_false_iff.1 (bit_eq_false h))).trans (if_pos hu)

/-- What the fault leaves with the unit it takes from the engine. -/
structure BandLost (p q : State) (e u : Nat) (w : WorkUnit) : Prop where
  beside : Beside 6 p q
  failed : w.failed = if decide (q.rf (Rf.ENG_STATUS_STATE e) = 0) && (p.wu u).failed.isSome then (p.wu u).failed else some e
  rerun  : w.rerun = if q.cadOn then some (p.wu u).done else none

theorem engFault_unit {s p : State} {e : Nat} {c : FaultCause} (hp : s.faultShown e c (s.codeOnly e c) = p)
    (h : p.rf (Rf.ENG_ROLE_SPARE e) = 0) (hu : s.unitOf e < 112) : ∃ q w views, BandLost p q e (s.unitOf e) w ∧
      s.engFault e c = ((State.setWu q (s.unitOf e) w).retireEng e).giveUnit e (s.unitOf e) (engSection e) views := by
  have hcond : p.bit (Rf.ENG_ROLE_SPARE e) ≠ true := Bool.eq_false_iff.1 (bit_eq_false h)
  subst hp
  refine ⟨_, _, _, ?_, (if_neg hcond).trans ((if_neg (Nat.not_le.2 hu)).trans rfl)⟩
  have hchains (t : State) (b : Bool) (u : Nat) : Beside 0 t (if b then (t.rewindAll u).unpop u else t.rewindAll u) := by
    cases b
    · exact .chains t _
    · exact (Beside.chains t _).trans (.chains _ _)
  refine ⟨(faultBound_beside _ _ _ _).trans (hchains _ _ _), rfl, rfl⟩

/-- What the statement says of a fault. -/
def FaultGives (s t : State) (e : Nat) (c : FaultCause) : Prop :=
  let u := s.unitOf e
  t.rf (faultFld e c) = 1 ∧ t.rf (Rf.ENG_ROLE_RETIRED e) = 1 ∧ t.rf (Rf.ENG_STATUS_STATE e) = 7 ∧
    (t.eng e).queue = [] ∧ (t.eng e).copies = [] ∧ Raised s t 0xD005 (e + 256 * u) (faultNo c) 0 ∧ t.hub = s.hub ∧
    (s.rf (Rf.ENG_ROLE_SPARE e) = 0 → u < 112 →
      (∀ f, s.spareOf (engSection e) = some f → t.rf (Rf.ENG_UNIT_ENGINE u) = f ∧ t.rf (Rf.ENG_ROLE_UNIT f) = u ∧
        t.rf (Rf.ENG_ROLE_SPARE f) = 0 ∧
        (s.rf (Rf.ENG_STATUS_STATE e) ≠ 0 ∨ (s.wu u).failed = none → (t.wu u).failed = some e) ∧
        (s.rf (Rf.ENG_STATUS_STATE e) = 0 → ∀ b, (s.wu u).failed = some b → (t.wu u).failed = some b) ∧
        (s.cadOn = true → (t.wu u).rerun = some (s.wu u).done)) ∧
      (s.spareOf (engSection e) = none → t.rf (Rf.ENG_UNIT_UNSERVED u) = 1 ∧ Raised s t 0xD008 (e + 256 * u) 0 0))

theorem OutOfUse.faultGives {s t : State} {e : Nat} {c : FaultCause} (h : OutOfUse s t e c)
    (hunit : s.rf (Rf.ENG_ROLE_SPARE e) ≠ 0 ∨ 112 ≤ s.unitOf e) : FaultGives s t e c :=
  ⟨h.fault, h.retired, h.state, h.queue, h.copies, h.raised, h.hub, fun hs hu => hunit.elim (absurd hs) (fun h => by omega)⟩

/-- The spares of a section stay what they are while an engine that is none is retired. -/
theorem spareOf_retireEng {s q : State} {e : Nat} {c : FaultCause} (hspare : s.rf (Rf.ENG_ROLE_SPARE e) = 0)
    (hpage : ∀ g : Fld, 0x1000000 ≤ g.addr → g.key ≠ (faultFld e c).key → q.rf g = s.rf g) (sec : Nat) :
    (q.retireEng e).spareOf sec = s.spareOf sec := by
  obtain ⟨lo, hlo, hkey, -⟩ := faultFld_key e c
  have hbit (k : Nat) : (q.retireEng e).rf (Rf.ENG_ROLE_SPARE k) = s.rf (Rf.ENG_ROLE_SPARE k) := by
    by_cases hk : k = e
    · rw [hk, (retireEng_fields q e).2.1, hspare]
    · rw [retireEng_rf q e, hpage _ (page_le (by decide) k)]
      · rw [hkey]; simp only [Fld.key, Rf.ENG_ROLE_SPARE]; omega
      · simp only [List.forall_mem_cons, List.not_mem_nil, false_implies, implies_true, and_true]
        simp only [Fld.key, Rf.ENG_ROLE_RETIRED, Rf.ENG_ROLE_SPARE, Rf.ENG_ROLE_UNIT, Rf.ENG_ADM_BUSY, Rf.ENG_STATUS_STATE]
        omega
  simp only [State.spareOf, State.bit, hbit]

theorem engFault_gives {s : State} {e : Nat} (he : e < 119) (c : FaultCause) (hroom : s.evq.length < 800) :
    FaultGives s (s.engFault e c) e c := by
  have htold := faultShown_told s e c (s.codeOnly e c) (by omega)
  generalize hp : s.faultShown e c (s.codeOnly e c) = p at htold
  obtain ⟨lo, hlo, hkey, -⟩ := faultFld_key e c
  have hrole : (Rf.ENG_ROLE_SPARE e).key ≠ (faultFld e c).key := by
    rw [hkey]; simp only [Fld.key, Rf.ENG_ROLE_SPARE]; omega
  have hstate : (Rf.ENG_STATUS_STATE e).key ≠ (faultFld e c).key := by
    rw [hkey]; simp only [Fld.key, Rf.ENG_STATUS_STATE]; omega
  have hsame : p.rf (Rf.ENG_ROLE_SPARE e) = s.rf (Rf.ENG_ROLE_SPARE e) := htold.page _ (page_le (by decide) e) hrole
  by_cases hspare : s.rf (Rf.ENG_ROLE_SPARE e) = 0
  · by_cases hu : s.unitOf e < 112
    · obtain ⟨q, w, views, ⟨hbeside, hfailed, hrerun⟩, hfault⟩ := engFault_unit hp (hsame.trans hspare) hu
      have hq := htold.beside hbeside
      have hout := (retireEng_outOfUse hq (s.unitOf e) w).1
      have hspares := spareOf_retireEng (q := q.setWu (s.unitOf e) w) (c := c) hspare (fun g hg hne => hq.page g hg hne)
        (engSection e)
      have hwu : (((q.setWu (s.unitOf e) w).retireEng e).wu (s.unitOf e)) = w := by
        rw [retireEng_wu, State.setWu_get_wu, if_pos rfl]
      have hroomq : ((q.setWu (s.unitOf e) w).retireEng e).evq.length < 1024 := Nat.lt_of_le_of_lt hq.adds (by omega)
      have hqueue : s.evq <+: ((q.setWu (s.unitOf e) w).retireEng e).evq := hq.queue
      generalize (q.setWu (s.unitOf e) w).retireEng e = r at hfault hout hspares hwu hroomq hqueue
      rw [hq.page _ (page_le (by decide) e) hstate, htold.wu] at hfailed
      rw [hq.cadOn, htold.wu] at hrerun
      rw [hfault]
      cases hsp : s.spareOf (engSection e) with
      | some f =>
        obtain ⟨hf, hfs⟩ := spareOf_some hsp
        have hfe : f ≠ e := fun h => hfs (h ▸ hspare)
        rw [giveUnit_some (hspares.trans hsp)]
        obtain ⟨hfault, hret, hst, hqu, hco, hraised, hhub⟩ := takeUnit_outOfUse hout he hfe (engSection e) views
        obtain ⟨hengine, hunit, hnospare⟩ := takeUnit_fields r (engSection e) hu hf views
        have hwt : (r.takeUnit (s.unitOf e) (engSection e) f views).wu (s.unitOf e) = w := hwu
        refine ⟨hfault, hret, hst, hqu, hco, hraised, hhub, fun _ _ => ⟨fun f' hf' => ?_, fun h => ?_⟩⟩
        · obtain rfl : f = f' := Option.some.inj (hsp.symm.trans hf')
          rw [hwt]
          refine ⟨hengine, hunit, hnospare, fun h => ?_, fun h b hb => ?_, fun hon => ?_⟩
          · rw [hfailed, if_neg]
            rcases h with h | h <;> simp [h]
          · rw [hfailed, if_pos (by simp [h, hb]), hb]
          · rw [hrerun, if_pos hon]
        · rw [hsp] at h; cases h
      | none =>
        rw [giveUnit_none (hspares.trans hsp)]
        obtain ⟨hfault, hret, hst, hqu, hco, hraised, hhub⟩ := loseUnit_outOfUse (u := s.unitOf e) hout
        refine ⟨hfault, hret, hst, hqu, hco, hraised, hhub, fun _ _ => ⟨fun f' hf' => ?_, fun _ => ⟨?_, ?_⟩⟩⟩
        · rw [hsp] at hf'; cases hf'
        · exact loseUnit_unserved r e _
        · exact (loseUnit_raised hroomq e (s.unitOf e)).earlier hqueue.length_le
    · rw [engFault_unitless hp (hsame.trans hspare) (by omega)]
      exact (retireEng_outOfUse htold 0 (p.wu 0)).2.faultGives (.inr (by omega))
  · rw [engFault_spare hp (fun h => hspare (hsame.symm.trans h))]
    obtain ⟨lo', hlo', hspkey⟩ := sparesFld_key (engSection e)
    refine OutOfUse.faultGives (OutOfUse.keep (retireEng_outOfUse htold 0 (p.wu 0)).2 (fun g hg => ?_) rfl rfl (List.prefix_refl _))
      (.inl hspare)
    refine State.rf_setrf _ _ _ _ ?_
    rw [hspkey]
    simp only [List.mem_cons, List.not_mem_nil, or_false] at hg
    rcases hg with rfl | rfl | rfl
    · rw [hkey]; omega
    · simp only [Fld.key, Rf.ENG_ROLE_RETIRED]; omega
    · simp only [Fld.key, Rf.ENG_STATUS_STATE]; omega

/-- A stall that hangs is found at a later instant, which none of this depends on. -/
theorem engFault_hang {s : State} {e : Nat} (he : e < 119) (n : Nat) (hroom : s.evq.length < 800) :
    FaultGives s ((s.advanceTo n).engFault e .hang) e .hang :=
  engFault_gives (s := s.advanceTo n) he .hang hroom

theorem exec_engineHang {s : State} {e : Eng} {n : Nat} (h : s.hangAt e = some n) :
    exec (.engineHang e) s = .next ((s.advanceTo n).engFault e .hang) := by
  have hexec : exec (.engineHang e) s = execEngineHang e s := rfl
  rw [hexec, execEngineHang, h]

theorem exec_spareReady {s : State} {v : Fin 112} {b : Nat} (hb : (s.wu v).failed = some b) (hactive : s.hubActive = true)
    (hserved : s.unserved v = false) (hst : s.rf (Rf.ENG_STATUS_STATE (s.rf (Rf.ENG_UNIT_ENGINE v))) = 0) :
    exec (.spareReady v) s = .next (s.spareReady v b) := by
  have hexec : exec (.spareReady v) s = execSpareReady v s := rfl
  have hready : (s.hubActive && !s.unserved v && decide (s.rf (Rf.ENG_STATUS_STATE (s.rf (Rf.ENG_UNIT_ENGINE v))) = 0)) = true := by
    simp [hactive, hserved, hst]
  rw [hexec, execSpareReady, hb]
  exact congrArg Host.Outcome.next (if_pos hready)

/-- Settles O25. -/
theorem engineFaults : Obligations.EngineFaults := by
  unfold Obligations.EngineFaults
  intro e s hroom u sec
  refine ⟨?_, ?_⟩
  · simp only [List.forall_mem_cons, List.not_mem_nil, false_implies, implies_true, and_true]
    refine ⟨fun h => ⟨_, congrArg Host.Outcome.next (if_pos h), engFault_gives e.isLt .wdog hroom⟩, fun h => ?_,
      fun h => ⟨_, congrArg Host.Outcome.next (if_pos h), engFault_gives e.isLt .wdog hroom⟩,
      fun h => ⟨_, congrArg Host.Outcome.next (if_pos h), engFault_hang e.isLt _ hroom⟩,
      fun h => ⟨_, congrArg Host.Outcome.next (if_pos h), engFault_gives e.isLt .code hroom⟩,
      fun h => ⟨_, congrArg Host.Outcome.next (if_pos h), engFault_gives e.isLt .tile hroom⟩⟩
    obtain ⟨n, hn⟩ := Option.isSome_iff_exists.1 h
    exact ⟨_, exec_engineHang hn, engFault_hang e.isLt n hroom⟩
  · intro v b hb hactive hserved he f hf hst hfb hon
    exact ⟨_, exec_spareReady hb hactive hserved hst, spareReady_gives he (by omega) hon⟩

end Sys2Proof.Machine
end

section
/-! SUPPORT. The fetch of a periodic line group whose phase chain refuses the load sequencer (R254, R351). -/

namespace Sys2Proof.Machine

/-- A phase chain that refuses the unit's load sequencer counts the refusal, with event 0x8009. -/
theorem takePhase_of_refused {s : State} {e n k : Nat} (hper : s.periodic e n k = true)
    (hrefused : s.popRefused ((s.rf Rf.SIV_CHAINS_PCH_BASE + (s.unitOf e - 64)) % 256) (s.unitOf e) = true) :
    s.takePhase e n k = s.chainRefused ((s.rf Rf.SIV_CHAINS_PCH_BASE + (s.unitOf e - 64)) % 256) (s.unitOf e) := by
  simp [State.takePhase, State.popPacket, State.popNone, hper, hrefused]

theorem issueLoad_evq (s : State) (e n k g : Nat) (arrived : Bool) : (s.issueLoad e n k g arrived).evq = s.evq := rfl

theorem chainRefused_evq_ne {s : State} (c ep : Nat) (hroom : s.evq.length < 1024) : (s.chainRefused c ep).evq ≠ s.evq := by
  intro hsame
  have hbump : (if c < 256 then s.bump (Rf.CHN_STAT_REFUSED c) else s).evq = s.evq := by split <;> rfl
  obtain ⟨ev, hev, -⟩ := raise_raised _ 0x8009 c ep 0 (hbump ▸ hroom)
  rw [hbump, show State.evq (State.raise _ 0x8009 c ep 0) = s.evq from hsame, List.drop_length] at hev
  exact List.not_mem_nil hev

/-- The fetch of a live group of a hub entry takes its token and is recorded. -/
theorem exec_loadGroupFetch {s : State} {e : Eng} {entry : Fin 16} {grp : Nat} (hloading : s.loading e = true)
    (hnext : s.ldNext e (s.ldBand e entry) entry grp = true) (hown : s.ownRead e (s.ldBand e entry) entry grp = true)
    (hlive : s.deadEntry e (s.ldBand e entry) entry = false) :
    exec (.loadGroupFetch e entry grp) s =
      .next ((s.takePhase e (s.ldBand e entry) entry).issueLoad e (s.ldBand e entry) entry grp false) := by
  have hexec : exec (.loadGroupFetch e entry grp) s = execLoadGroupFetch e entry grp s := rfl
  simp [hexec, execLoadGroupFetch, when', hloading, hnext, hown, hlive]

/-- INSPECT with the hub serving: engine 68, for Sieve unit 64, waits for band 0, which the unit runs again. Load entry 0 of
its program is the periodic one, of one group of one line, which is committed; its phase chain, chain 0, is disabled. -/
def refusedPhase : State :=
  let x : Engine := { bank0 := [(0, 1#64 <<< 48), (8, 1#64 <<< 16 ||| 1#64 <<< 32)] }
  let s : State := { State.reset with
    hubU := { on := true }, engines := [(68, x)], units := [(64, { rerun := some 0 })],
    strips := [(0, { commits := [(0, 1)] })] }
  let s := (s.setrf Rf.GLB_STATUS_MODE 3).setrf Rf.CAD_GEAR_STATE 1
  (s.setrf (Rf.ENG_STATUS_STATE 68) 1).setrf Rf.SIV_PREF_EN 1

theorem refusedPhase_band : refusedPhase.ldBand 68 0 = 0 := by decide +kernel

theorem refusedPhase_fetches : refusedPhase.loading 68 = true ∧ refusedPhase.ldNext 68 0 0 0 = true ∧
    refusedPhase.ownRead 68 0 0 0 = true ∧ refusedPhase.deadEntry 68 0 0 = false := by decide +kernel

theorem refusedPhase_periodic : refusedPhase.periodic 68 0 0 = true := by decide +kernel

theorem refusedPhase_refused :
    refusedPhase.popRefused ((refusedPhase.rf Rf.SIV_CHAINS_PCH_BASE + (refusedPhase.unitOf 68 - 64)) % 256)
      (refusedPhase.unitOf 68) = true := by decide +kernel

/-- The fetch leaves the event of the refused token behind. -/
theorem refusedPhase_fetched : ∃ t, exec (.loadGroupFetch 68 0 0) refusedPhase = .next t ∧ t.evq ≠ refusedPhase.evq := by
  obtain ⟨hloading, hnext, hown, hlive⟩ := refusedPhase_fetches
  have hband : refusedPhase.ldBand (68 : Eng) (0 : Fin 16) = 0 := refusedPhase_band
  have hrefused := takePhase_of_refused refusedPhase_periodic refusedPhase_refused
  refine ⟨_, exec_loadGroupFetch hloading (by rw [hband]; exact hnext) (by rw [hband]; exact hown)
    (by rw [hband]; exact hlive), ?_⟩
  rw [issueLoad_evq, hband]
  exact fun hsame => chainRefused_evq_ne _ _ (by decide) ((congrArg State.evq hrefused).symm.trans hsame)

/-- Refutes O24: it has the fetch of a periodic group change nothing but engines and chains, but where the phase chain is
disabled the pop of the token is refused, which is counted in CHN_STAT and raises event 0x8009 (R351). -/
theorem not_loadsAndBandStart : ¬ Obligations.LoadsAndBandStart := by
  unfold Obligations.LoadsAndBandStart
  intro h
  obtain ⟨hfetch, -⟩ := h 68 0 0 refusedPhase rfl
  obtain ⟨hloading, hnext, hown, -⟩ := refusedPhase_fetches
  have hband : refusedPhase.ldBand (68 : Eng) (0 : Fin 16) = 0 := refusedPhase_band
  obtain ⟨t, ht, -, hperiodic, -⟩ := hfetch hloading (by rw [hband]; exact hnext) (by rw [hband]; exact hown)
  obtain ⟨hframe, -⟩ := hperiodic (by rw [hband]; exact refusedPhase_periodic)
  obtain ⟨t', ht', hevq⟩ := refusedPhase_fetched
  rw [ht', Host.Outcome.next.injEq] at ht
  exact hevq (ht ▸ (congrArg State.evq hframe :))

end Sys2Proof.Machine
end

section
/-! SUPPORT. The bytes and elements of scratch that the rows of a copy write (R47, R79), and a write of the hub that may lie
outside the user region in part (R310). -/

namespace Sys2Proof.Machine

/-! ### Cells moved and stored -/

theorem look_moveCells {l : List Host.Cell} {a : Nat} (h : ∀ e ∈ l, a ≤ e.1) (b j : Nat) :
    look (fun _ => (0 : Byte)) (moveCells l a b) (b + j) = look (fun _ => (0 : Byte)) l (a + j) := by
  induction l with
  | nil => rfl
  | cons e l ih =>
    obtain ⟨i, v⟩ := e
    have hi : a ≤ i := h _ List.mem_cons_self
    have hrest := ih (fun e he => h e (List.mem_cons_of_mem _ he))
    have hplace : i - a + b = b + j ↔ i = a + j := by omega
    rw [moveCells, List.map_cons, look, look, ← hrest]
    simp only [hplace]
    rfl

theorem moveCells_places {l : List Host.Cell} {a n : Nat} (h : ∀ e ∈ l, a ≤ e.1 ∧ e.1 < a + n) (b : Nat) :
    ∀ e ∈ moveCells l a b, b ≤ e.1 ∧ e.1 < b + n := by
  intro e he
  obtain ⟨c, hc, rfl⟩ := List.mem_map.1 he
  have := h c hc
  dsimp only
  omega

theorem look_foldr_open (l : Limits) (m cells : List Host.Cell) (j : Nat) :
    look (fun _ => (0 : Byte)) (cells.foldr (fun e m => if l.open e.1 then put (fun _ => 0) m e.1 e.2 else m) m) j =
      if l.open j = true ∧ cells.any (fun e => e.1 == j) = true then look (fun _ => 0) cells j
      else look (fun _ => 0) m j := by
  induction cells with
  | nil => simp
  | cons e cells ih =>
    obtain ⟨i, v⟩ := e
    rw [List.foldr_cons]
    by_cases hj : i = j
    · subst hj
      by_cases ho : l.open i = true
      · simp [ho, look]
      · rw [if_neg ho, ih, if_neg (fun h => ho h.1), if_neg (fun h => ho h.1)]
    · have hput (w : List Host.Cell) :
          look (fun _ => (0 : Byte)) (if l.open i then put (fun _ => 0) w i v else w) j = look (fun _ => 0) w j := by
        split
        · rw [look_put, if_neg (Ne.symm hj)]
        · rfl
      rw [hput, ih]
      simp [look, hj]

/-- What stored cells read: the new ones where a store may reach in their range, and the old ones elsewhere. -/
theorem look_storeCells {l : Limits} {m cells : List Host.Cell} {b n : Nat} (h : ∀ e ∈ cells, b ≤ e.1 ∧ e.1 < b + n) (j : Nat) :
    look (fun _ => (0 : Byte)) (storeCells l m b n cells) j =
      if (b ≤ j ∧ j < b + n) ∧ l.open j = true then look (fun _ => 0) cells j else look (fun _ => 0) m j := by
  have hkept := look_filter_in (fun _ => (0 : Byte)) (fun i => !(decide (b ≤ i) && decide (i < b + n) && l.open i)) m j
  rw [storeCells, look_foldr_open, hkept]
  by_cases hin : (b ≤ j ∧ j < b + n) ∧ l.open j = true
  · rw [if_pos (c := (b ≤ j ∧ j < b + n) ∧ _) hin]
    by_cases hany : cells.any (fun e => e.1 == j) = true
    · rw [if_pos ⟨hin.2, hany⟩]
    · rw [if_neg (fun hc => hany hc.2), look_of_not_any _ _ _ (Bool.eq_false_iff.2 hany)]
      simp [hin]
  · have hnot : ¬ (l.open j = true ∧ cells.any (fun e => e.1 == j) = true) := by
      rintro ⟨ho, hany⟩
      obtain ⟨e, he, hej⟩ := List.any_eq_true.1 hany
      exact hin ⟨beq_iff_eq.1 hej ▸ h e he, ho⟩
    rw [if_neg hin, if_neg hnot, if_pos]
    rw [Bool.not_eq_true', Bool.eq_false_iff]
    intro hc
    simp only [Bool.and_eq_true, decide_eq_true_eq] at hc
    exact hin hc

/-! ### Elements -/

/-- What a store of `n` bytes reads: the bytes of the number where a store may reach. -/
theorem look_putBytes (l : Limits) (m : List Host.Cell) (a v n j : Nat) :
    look (fun _ => (0 : Byte)) (putBytes l m a v n) j =
      if (a ≤ j ∧ j < a + n) ∧ l.open j = true then BitVec.ofNat 8 (v / 256 ^ (j - a)) else look (fun _ => 0) m j := by
  induction n generalizing m a v with
  | zero => rw [putBytes, if_neg (by omega)]
  | succ n ih =>
    have hfirst : look (fun _ => (0 : Byte)) (putByte l m a v) j =
        if j = a ∧ l.open j = true then BitVec.ofNat 8 v else look (fun _ => 0) m j := by
      rw [putByte]
      by_cases hj : j = a
      · subst hj
        by_cases ho : l.open j = true <;> simp [ho]
      · rw [if_neg (c := j = a ∧ _) (fun h => hj h.1)]
        split
        · rw [look_put, if_neg hj]
        · rfl
    rw [putBytes, ih, hfirst]
    by_cases hj : j = a
    · subst hj
      rw [if_neg (by omega), Nat.sub_self, Nat.pow_zero, Nat.div_one]
      by_cases ho : l.open j = true
      · rw [if_pos ⟨rfl, ho⟩, if_pos ⟨⟨Nat.le_refl j, by omega⟩, ho⟩]
      · rw [if_neg (fun h => ho h.2), if_neg (c := _ ∧ _) (fun h => ho h.2)]
    · rw [if_neg (c := j = a ∧ _) (fun h => hj h.1)]
      by_cases hin : (a + 1 ≤ j ∧ j < a + 1 + n) ∧ l.open j = true
      · have hshift : j - a = (j - (a + 1)) + 1 := by omega
        rw [if_pos hin, if_pos ⟨by omega, hin.2⟩, hshift, Nat.pow_succ', Nat.div_div_eq_div_mul]
      · rw [if_neg hin, if_neg (fun h => hin ⟨by omega, h.2⟩)]

/-- A number is read back from its bytes. -/
theorem readLE_of_bytes {m : List Host.Cell} {a v n : Nat}
    (h : ∀ i < n, look (fun _ => (0 : Byte)) m (a + i) = BitVec.ofNat 8 (v / 256 ^ i)) : readLE m a n = v % 256 ^ n := by
  induction n generalizing a v with
  | zero => rw [readLE, Nat.pow_zero, Nat.mod_one]
  | succ n ih =>
    have hfirst := h 0 (Nat.succ_pos n)
    have hrest : readLE m (a + 1) n = v / 256 % 256 ^ n := by
      refine ih (fun i hi => ?_)
      rw [Nat.div_div_eq_div_mul, ← Nat.pow_succ', Nat.add_assoc, Nat.add_comm 1 i]
      exact h (i + 1) (Nat.succ_lt_succ hi)
    rw [Nat.add_zero, Nat.pow_zero, Nat.div_one] at hfirst
    have hsplit : v % 256 ^ (n + 1) = v % 256 + 256 * (v / 256 % 256 ^ n) := by rw [Nat.pow_succ', Nat.mod_mul]
    rw [readLE, hrest, hfirst, BitVec.toNat_ofNat, hsplit]

/-- The low bytes of a number read. -/
theorem readLE_mod (m : List Host.Cell) (a : Nat) {n k : Nat} (h : n ≤ k) : readLE m a k % 256 ^ n = readLE m a n := by
  refine (readLE_of_bytes (fun i hi => ?_)).symm
  apply BitVec.eq_of_toNat_eq
  rw [BitVec.toNat_ofNat]
  exact (readLE_byte m a (Nat.lt_of_lt_of_le hi h)).symm

/-- An element of whole bytes. -/
theorem elemRaw_bytes (m : List Host.Cell) (base k : Nat) {nb : Nat} (h : nb ≤ 5) :
    elemRaw m base (8 * nb) k = readLE m (base + k * nb) nb := by
  have hplace : k * (8 * nb) = 8 * (k * nb) := Nat.mul_left_comm k 8 nb
  rw [elemRaw, hplace, Nat.mul_div_cancel_left _ (by decide), Nat.mul_mod_right, bitsOf, Nat.pow_zero, Nat.div_one, Nat.pow_mul]
  exact readLE_mod m _ h

theorem elemRaw_lt (m : List Host.Cell) (base bits k : Nat) : elemRaw m base bits k < 2 ^ bits :=
  Nat.mod_lt _ (Nat.two_pow_pos bits)

/-- An element lies in its bytes. -/
theorem putElem_outside {l : Limits} {m : List Host.Cell} {base bits k v j : Nat}
    (h : j < base ∨ base + ceilDiv ((k + 1) * bits) 8 ≤ j) :
    look (fun _ => (0 : Byte)) (putElem l m base bits k v) j = look (fun _ => 0) m j := by
  have hmul : (k + 1) * bits = k * bits + bits := Nat.succ_mul k bits
  rw [ceilDiv, hmul] at h
  rw [putElem]
  split
  · next hwhole =>
    obtain ⟨nb, rfl⟩ : ∃ nb, bits = 8 * nb := ⟨bits / 8, by omega⟩
    have hplace : k * (8 * nb) = 8 * (k * nb) := Nat.mul_left_comm k 8 nb
    rw [hplace] at h
    rw [Nat.mul_div_cancel_left _ (by decide : 0 < 8), look_putBytes, if_neg]
    omega
  · dsimp only
    rw [look_putBytes, if_neg]
    rw [ceilDiv]
    omega

theorem putRun_outside {l : Limits} {m : List Host.Cell} {base fmt n j : Nat} (f : Nat → Int)
    (h : j < base ∨ base + runBytes fmt n ≤ j) :
    look (fun _ => (0 : Byte)) (putRun l base fmt f n m) j = look (fun _ => 0) m j := by
  induction n with
  | zero => rfl
  | succ n ih =>
    have hmul : (n + 1) * fmtBits fmt = n * fmtBits fmt + fmtBits fmt := Nat.succ_mul _ _
    have hle : runBytes fmt n ≤ runBytes fmt (n + 1) := by
      rw [runBytes, runBytes, ceilDiv, ceilDiv, hmul]
      omega
    rw [putRun, putElem_outside h]
    exact ih (by omega)

/-- An element of whole bytes, once its run is stored where a store may reach. -/
theorem readLE_putRun {l : Limits} {m : List Host.Cell} {base fmt n nb k : Nat} {f : Nat → Int} (hbits : fmtBits fmt = 8 * nb)
    (hk : k < n) (ho : ∀ i < nb, l.open (base + k * nb + i) = true) :
    readLE (putRun l base fmt f n m) (base + k * nb) nb = ofSigned (8 * nb) (f k) := by
  induction n with
  | zero => omega
  | succ n ih =>
    have hwhole : 8 * nb % 8 = 0 := Nat.mul_mod_right 8 nb
    have hsize : 8 * nb / 8 = nb := Nat.mul_div_cancel_left nb (by decide)
    have hput : putRun l base fmt f (n + 1) m =
        putBytes l (putRun l base fmt f n m) (base + n * nb) (ofSigned (8 * nb) (f n)) nb := by
      rw [putRun, putElem, hbits, if_pos hwhole, hsize]
    rw [hput]
    by_cases hlast : k = n
    · subst hlast
      have hbytes := readLE_of_bytes (m := putBytes l (putRun l base fmt f k m) (base + k * nb) (ofSigned (8 * nb) (f k)) nb)
        (a := base + k * nb) (v := ofSigned (8 * nb) (f k)) (n := nb) (fun i hi => by
          rw [look_putBytes, if_pos ⟨by omega, ho i hi⟩, Nat.add_sub_cancel_left])
      have hlt : ofSigned (8 * nb) (f k) < 256 ^ nb := by
        rw [show 256 = 2 ^ 8 from rfl, ← Nat.pow_mul, ofSigned]
        have := Int.emod_lt_of_pos (f k) (b := ((2 ^ (8 * nb) : Nat) : Int)) (by exact_mod_cast Nat.two_pow_pos (8 * nb))
        have := Int.emod_nonneg (f k) (b := ((2 ^ (8 * nb) : Nat) : Int)) (by
          exact_mod_cast Nat.pos_iff_ne_zero.1 (Nat.two_pow_pos (8 * nb)))
        omega
      rw [hbytes, Nat.mod_eq_of_lt hlt]
    · have hlt : k < n := by omega
      have hbelow : (k + 1) * nb ≤ n * nb := Nat.mul_le_mul_right nb hlt
      rw [Nat.succ_mul] at hbelow
      rw [← ih hlt]
      refine readLE_congr (fun i hi => ?_)
      rw [look_putBytes, if_neg (by omega)]

/-! ### Writes of the hub -/

/-- A write of a source that is not the module's own reaches the user region below the capacity in service (R310). -/
theorem hubByte_writeAs_user (s : State) (cls src a n : Nat) (cells : List Host.Cell) (b : Nat) :
    hubByte (s.writeAs false cls src a n cells) b =
      if (a ≤ b ∧ b < a + n) ∧ userBase ≤ b ∧ b < s.capacity then look (fun _ => (0 : Byte)) cells b else hubByte s b := by
  have hrefused (t : State) (src a : Nat) : hubByte (t.hubRefused src a) b = hubByte t b := by
    rw [hubByte, (hubRefused_fetched t src a).hub]; rfl
  have hstored (lo hi : Nat) : hubByte ((s.storing cls lo hi).storeBytes lo hi cells) b =
      if lo ≤ b ∧ b < lo + (hi - lo) then look (fun _ => (0 : Byte)) cells b else hubByte s b := by
    have hb : hubByte ((s.storing cls lo hi).storeBytes lo hi cells) b =
        look (fun _ => (0 : Byte)) (replaceRange (fun _ => 0) (s.storing cls lo hi).hub lo (hi - lo) cells) b := rfl
    rw [hb, look_replaceRange, (storing_fetched _ _ _ _).hub]
    rfl
  have hbytes : hubByte (if max a userBase < min (a + n) s.capacity then
      (s.storing cls (max a userBase) (min (a + n) s.capacity)).storeBytes (max a userBase) (min (a + n) s.capacity) cells
      else s) b = if (a ≤ b ∧ b < a + n) ∧ userBase ≤ b ∧ b < s.capacity then look (fun _ => (0 : Byte)) cells b
        else hubByte s b := by
    split
    · rw [hstored]
      exact if_congr (by omega) rfl rfl
    · exact (if_neg (by omega)).symm
  rw [writeAs_eq]
  dsimp only
  rw [if_neg Bool.false_ne_true]
  split
  · rw [hrefused]; exact hbytes
  · exact hbytes

end Sys2Proof.Machine
end

section
/-! SUPPORT. COPY_COMPLETE: the rows that a copy moves, one after another (R48, R74, R108). -/

namespace Sys2Proof.Machine

/-! ### What the move of a row leaves -/

/-- The two engines differ in their scratch and its errors alone. -/
def SameCore (x y : Engine) : Prop := { y with scratch := x.scratch, errs := x.errs } = x

theorem SameCore.refl (x : Engine) : SameCore x x := rfl

theorem SameCore.trans {x y z : Engine} (h1 : SameCore x y) (h2 : SameCore y z) : SameCore x z := by
  calc { z with scratch := x.scratch, errs := x.errs }
      = { ({ z with scratch := y.scratch, errs := y.errs } : Engine) with scratch := x.scratch, errs := x.errs } := rfl
    _ = x := by rw [h2, h1]

theorem SameCore.queue {x y : Engine} (h : SameCore x y) : y.queue = x.queue := (congrArg Engine.queue h :)
theorem SameCore.stalled {x y : Engine} (h : SameCore x y) : y.stalled = x.stalled := (congrArg Engine.stalled h :)
theorem SameCore.bank0 {x y : Engine} (h : SameCore x y) : y.bank0 = x.bank0 := (congrArg Engine.bank0 h :)
theorem SameCore.bank1 {x y : Engine} (h : SameCore x y) : y.bank1 = x.bank1 := (congrArg Engine.bank1 h :)

theorem Engine.rewritten_core (x : Engine) (b n : Nat) : SameCore x (x.rewritten b n) := by
  unfold Engine.rewritten; split <;> rfl

theorem Engine.rewritten_scratch (x : Engine) (b n : Nat) : (x.rewritten b n).scratch = x.scratch := by
  unfold Engine.rewritten; split <;> rfl

/-- The move of rows with no codeword in error has left the fields but those an access moves and the engine's count of scratch
violations. -/
structure Moving (e : Nat) (s t : State) : Prop where
  flds : ∀ f : Fld, ¬ hubMoved f.key → f.key ≠ (Rf.ENG_CLAMP_SCR_VIOL e).key → t.rf f = s.rf f
  errs : ∀ x ∈ t.hubU.errs, x ∈ s.hubU.errs

theorem Moving.refl (e : Nat) (s : State) : Moving e s s := ⟨fun _ _ _ => rfl, fun _ h => h⟩

theorem Moving.trans {e : Nat} {s t u : State} (h1 : Moving e s t) (h2 : Moving e t u) : Moving e s u :=
  ⟨fun f hf hv => (h2.flds f hf hv).trans (h1.flds f hf hv), fun x hx => h1.errs x (h2.errs x hx)⟩

theorem Calm.moving {s t : State} (h : Calm s t) (e : Nat) : Moving e s t := ⟨fun f hf _ => h.flds f hf, h.errs⟩

theorem Moving.setEng (e : Nat) (s : State) (k : Nat) (x : Engine) : Moving e s (s.setEng k x) :=
  ⟨fun _ _ _ => rfl, fun _ h => h⟩

theorem Moving.violations (e : Nat) (s : State) (n : Nat) : Moving e s (s.bump (Rf.ENG_CLAMP_SCR_VIOL e) n) :=
  ⟨fun f _ hv => State.rf_setrf s (Rf.ENG_CLAMP_SCR_VIOL e) f _ hv, fun _ h => h⟩

theorem Moving.noErrs {e : Nat} {s t : State} (h : Moving e s t) (he : s.hubU.errs = []) : t.hubU.errs = [] :=
  List.eq_nil_iff_forall_not_mem.2 (fun x hx => List.not_mem_nil (he ▸ h.errs x hx))

theorem Moving.bit {e : Nat} {s t : State} (h : Moving e s t) {f : Fld} (hf : ¬ hubMoved f.key)
    (hv : f.key ≠ (Rf.ENG_CLAMP_SCR_VIOL e).key) : t.bit f = s.bit f :=
  congrArg (fun v : Nat => decide (v ≠ 0)) (h.flds f hf hv)

/-- The fields below the engines' registers are none of their counts. -/
theorem key_ne_violations {f : Fld} (haddr : f.addr < 0x1000000) (hlo : f.lo < 64) (e : Nat) :
    f.key ≠ (Rf.ENG_CLAMP_SCR_VIOL e).key := by
  have hkey : (Rf.ENG_CLAMP_SCR_VIOL e).key = (0x1000060 + 0x1000 * e) * 64 + 32 := rfl
  rw [hkey, Fld.key]
  omega

theorem Moving.capacity {e : Nat} {s t : State} (h : Moving e s t) : t.capacity = s.capacity := by
  have hbit (f : Fld) (hm : ¬ hubMoved f.key) (ha : f.addr < 0x1000000) (hlo : f.lo < 64) : t.bit f = s.bit f :=
    h.bit hm (key_ne_violations ha hlo e)
  have hspares : t.rf Rf.HUB_STAT_SPARES = s.rf Rf.HUB_STAT_SPARES :=
    h.flds _ (not_hubMoved_of_low (by decide) (by decide)) (key_ne_violations (by decide) (by decide) e)
  have hresv : t.rf Rf.HUB_CFG_RESV = s.rf Rf.HUB_CFG_RESV :=
    h.flds _ (not_hubMoved_of_low (by decide) (by decide)) (key_ne_violations (by decide) (by decide) e)
  rw [State.capacity, State.capGib, State.relocating, hspares, hresv,
    hbit Rf.HUB_STAT_RETIRED (not_hubMoved_of_low (by decide) (by decide)) (by decide) (by decide),
    hbit Rf.HUB_MIGSTAT_ACTIVE (not_hubMoved_of_low (by decide) (by decide)) (by decide) (by decide),
    hbit Rf.HUB_MIGSTAT_RELOC (not_hubMoved_of_low (by decide) (by decide)) (by decide) (by decide)]
  rfl

theorem Moving.limits {e : Nat} {s t : State} (h : Moving e s t) (hcore : SameCore (s.eng e) (t.eng e)) :
    t.limits e = s.limits e := by
  have hne : (Rf.ENG_STATUS_ACTIVE_BANK e).key ≠ (Rf.ENG_CLAMP_SCR_VIOL e).key := by
    simp only [Fld.key, Rf.ENG_STATUS_ACTIVE_BANK, Rf.ENG_CLAMP_SCR_VIOL]
    omega
  have hbank : t.bit (Rf.ENG_STATUS_ACTIVE_BANK e) = s.bit (Rf.ENG_STATUS_ACTIVE_BANK e) :=
    h.bit (not_hubMoved_of_engine (page_le (by decide) e) (Nat.le_of_ble_eq_true rfl) (.inl (Nat.le_of_ble_eq_true rfl))) hne
  have hword (i : Nat) : t.imgWord e i = s.imgWord e i := by
    rw [State.imgWord, State.imgWord, hbank, hcore.bank0, hcore.bank1]
  rw [State.limits, State.limits, State.constBase, State.constBase, State.constSize, State.constSize, hword]

/-! ### One row of an hld -/

theorem hubView_places (s : State) (a n : Nat) : ∀ e ∈ s.hubView a n, a ≤ e.1 ∧ e.1 < a + n := by
  intro e he
  have hin := (List.mem_filter.1 he).2
  simp only [Bool.and_eq_true, decide_eq_true_eq] at hin
  exact hin.1.1

theorem rowIn_eng (s : State) (e a b n : Nat) : (s.rowIn e a b n).eng e = Engine.rewritten
    { s.eng e with scratch := storeCells (s.limits e) (s.eng e).scratch b n (moveCells (s.hubView a n) a b) } b n := by
  have hread : (s.hubRead (s.unitOf e) a n).1.eng e = s.eng e := (readAs_fetched s _ _ a n).eng e
  rw [State.rowIn]
  dsimp only
  rw [State.bump, State.setrf_get_eng, State.setEng_get_eng, if_pos rfl, hread]
  rfl

theorem rowIn_core (s : State) (e a b n : Nat) : SameCore (s.eng e) ((s.rowIn e a b n).eng e) := by
  have hstored (m : List Host.Cell) : SameCore (s.eng e) { s.eng e with scratch := m } := rfl
  rw [rowIn_eng]
  exact (hstored _).trans (Engine.rewritten_core _ b n)

theorem rowIn_hub (s : State) (e a b n : Nat) : (s.rowIn e a b n).hub = s.hub := (readAs_fetched s _ _ a n).hub

theorem scrByte_rowIn (s : State) (e a b n j : Nat) : scrByte ((s.rowIn e a b n).eng e) j =
    if (b ≤ j ∧ j < b + n) ∧ (s.limits e).open j = true then look (fun _ => (0 : Byte)) (s.hubView a n) (a + (j - b))
    else scrByte (s.eng e) j := by
  rw [scrByte, rowIn_eng, Engine.rewritten_scratch, look_storeCells (moveCells_places (hubView_places s a n) b)]
  by_cases hin : (b ≤ j ∧ j < b + n) ∧ (s.limits e).open j = true
  · have hmove := look_moveCells (fun c hc => (hubView_places s a n c hc).1) b (j - b)
    rw [Nat.add_sub_cancel' hin.1.1] at hmove
    rw [if_pos hin, if_pos hin, hmove]
  · rw [if_neg hin, if_neg hin]; rfl

theorem rowIn_moving {s : State} (he : s.hubU.errs = []) (e a b n : Nat) : Moving e s (s.rowIn e a b n) :=
  ((readAs_calm he _ _ a n).moving e).trans ((Moving.setEng e _ e _).trans (.violations e _ _))

/-! ### One row of an hst -/

theorem rowOut_eng (s : State) (e a b n : Nat) : (s.rowOut e a b n).eng e = s.eng e := (writeAs_accessed s _ _ _ b n _).eng e

theorem hubByte_rowOut (s : State) (e a b n j : Nat) : hubByte (s.rowOut e a b n) j =
    if (b ≤ j ∧ j < b + n) ∧ userBase ≤ j ∧ j < s.capacity then scrByte (s.eng e) (a + (j - b)) else hubByte s j := by
  have hwrite : hubByte (s.rowOut e a b n) j = hubByte (s.writeAs false (hubClass false (s.unitOf e)) (s.unitOf e) b n
    (moveCells ((s.eng e).scratch.filter (fun c => decide (a ≤ c.1) && decide (c.1 < a + n))) a b)) j := rfl
  rw [hwrite, hubByte_writeAs_user]
  by_cases hin : (b ≤ j ∧ j < b + n) ∧ userBase ≤ j ∧ j < s.capacity
  · have hlow : ∀ c ∈ (s.eng e).scratch.filter (fun c => decide (a ≤ c.1) && decide (c.1 < a + n)), a ≤ c.1 := fun c hc =>
      of_decide_eq_true (Bool.and_eq_true_iff.1 (List.mem_filter.1 hc).2).1
    have hmove := look_moveCells hlow b (j - b)
    have hkept := look_filter_in (fun _ => (0 : Byte)) (fun i => decide (a ≤ i) && decide (i < a + n)) (s.eng e).scratch
      (a + (j - b))
    have hplace : a + (j - b) < a + n := by omega
    rw [Nat.add_sub_cancel' hin.1.1] at hmove
    rw [if_pos hin, if_pos hin, hmove, hkept, if_pos (by simp [hplace])]
    rfl
  · rw [if_neg hin, if_neg hin]

theorem rowOut_moving (s : State) (e a b n : Nat) : Moving e s (s.rowOut e a b n) :=
  ((writeAs_calm s _ _ _ b n _).moving e).trans (.violations e _ _)

/-! ### One row of a cgat -/

/-- The line of the ring that row `i` of a crop reads, and how much of it. -/
def Copy.line (c : Copy) (i : Nat) : Nat := c.src.row ((c.line0 + i) % c.ring : Nat)
def Copy.lineBytes (c : Copy) : Nat := runBytes c.src.fmt (min (c.x0 + c.w) (c.src.len + 1))

/-- What the read of that line leaves. -/
def State.lineRead (s : State) (e : Nat) (c : Copy) (i : Nat) : State := (s.hubRead (s.unitOf e) (c.line i) c.lineBytes).1

theorem lineRead_fetched (s : State) (e : Nat) (c : Copy) (i : Nat) : Fetched s (s.lineRead e c i) := readAs_fetched _ _ _ _ _

theorem moveRow_hld {c : Copy} (h : c.kind = .hld) (s : State) (e i : Nat) :
    s.moveRow e c i = s.rowIn e (c.src.row i) (c.dst.row i) c.bytes := by rw [State.moveRow, h]

theorem moveRow_hst {c : Copy} (h : c.kind = .hst) (s : State) (e i : Nat) :
    s.moveRow e c i = s.rowOut e (c.src.row i) (c.dst.row i) c.bytes := by rw [State.moveRow, h]

theorem moveRow_cgat {c : Copy} (h : c.kind = .cgat) (s : State) (e i : Nat) : s.moveRow e c i =
    ((s.lineRead e c i).setEng e { State.eng (s.lineRead e c i) e with
      scratch := cropLine (s.limits e) ((s.lineRead e c i).eng e).scratch (s.hubView (c.line i) c.lineBytes) c
        (c.dst.row i) (c.line i) }).bump
      (Rf.ENG_CLAMP_SCR_VIOL e) (violWrite (s.limits e) (c.dst.row i, c.bytes)) := by rw [State.moveRow, h]; rfl

theorem cgat_eng {c : Copy} (h : c.kind = .cgat) (s : State) (e i : Nat) : (s.moveRow e c i).eng e =
    { s.eng e with
      scratch := cropLine (s.limits e) (s.eng e).scratch (s.hubView (c.line i) c.lineBytes) c (c.dst.row i) (c.line i) } := by
  rw [moveRow_cgat h, State.bump, State.setrf_get_eng, State.setEng_get_eng, if_pos rfl, (lineRead_fetched s e c i).eng]

theorem cgat_hub {c : Copy} (h : c.kind = .cgat) (s : State) (e i : Nat) : (s.moveRow e c i).hub = s.hub := by
  rw [moveRow_cgat h]
  exact (lineRead_fetched s e c i).hub

theorem cgat_moving {c : Copy} (h : c.kind = .cgat) {s : State} (he : s.hubU.errs = []) (e i : Nat) :
    Moving e s (s.moveRow e c i) := by
  rw [moveRow_cgat h]
  have hread : Calm s (s.lineRead e c i) := readAs_calm he _ _ _ _
  exact (hread.moving e).trans ((Moving.setEng e _ e _).trans (.violations e _ _))

/-- A signed element is stored as it is read. -/
theorem fmtBits_crop (fmt : Nat) : fmtBits (if fmt = 1 then 0 else fmt) = fmtBits fmt := by
  split
  · next h => rw [h]; rfl
  · rfl

theorem cropLine_outside {l : Limits} {m hub : List Host.Cell} {c : Copy} {row j : Nat} (src : Nat)
    (h : j < row ∨ row + runBytes c.src.fmt c.w ≤ j) :
    look (fun _ => (0 : Byte)) (cropLine l m hub c row src) j = look (fun _ => 0) m j := by
  have hsize : runBytes (if c.src.fmt = 1 then 0 else c.src.fmt) c.w = runBytes c.src.fmt c.w := by
    rw [runBytes, runBytes, fmtBits_crop]
  exact putRun_outside _ (by rwa [hsize])

/-- A number of `n` bits is cut to itself. -/
theorem ofSigned_natCast {n v : Nat} (h : v < 2 ^ n) : ofSigned n (v : Int) = v := by
  rw [ofSigned, ← Int.natCast_emod, Int.toNat_natCast, Nat.mod_eq_of_lt h]

/-- An element of a crop in a format of whole bytes. -/
theorem elemRaw_cropLine {l : Limits} {m hub : List Host.Cell} {c : Copy} {row src nb k : Nat}
    (hbits : fmtBits c.src.fmt = 8 * nb) (hnb : nb ≤ 5) (hk : k < c.w) (ho : ∀ i < nb, l.open (row + k * nb + i) = true) :
    elemRaw (cropLine l m hub c row src) row (fmtBits c.src.fmt) k =
      if c.src.len < c.x0 + k then 0 else elemRaw hub src (fmtBits c.src.fmt) (c.x0 + k) := by
  have hstored := readLE_putRun (l := l) (m := m) (base := row) (f := fun k =>
    if c.src.len < c.x0 + k then 0 else (elemRaw hub src (fmtBits c.src.fmt) (c.x0 + k) : Nat))
    ((fmtBits_crop c.src.fmt).trans hbits) hk ho
  have hvalue : elemRaw (cropLine l m hub c row src) row (8 * nb) k =
      ofSigned (8 * nb) (if c.src.len < c.x0 + k then 0 else (elemRaw hub src (fmtBits c.src.fmt) (c.x0 + k) : Nat)) := by
    rw [elemRaw_bytes _ _ _ hnb]
    exact hstored
  have hcut : ofSigned (8 * nb) (elemRaw hub src (8 * nb) (c.x0 + k) : Nat) = elemRaw hub src (8 * nb) (c.x0 + k) :=
    ofSigned_natCast (elemRaw_lt _ _ _ _)
  rw [hbits] at hvalue ⊢
  rw [hvalue]
  split
  · exact ofSigned_natCast (Nat.two_pow_pos _)
  · exact hcut

/-! ### The rows of a copy -/

theorem moveRow_core (s : State) (e : Nat) (c : Copy) (i : Nat) : SameCore (s.eng e) ((s.moveRow e c i).eng e) := by
  cases hkind : c.kind
  · rw [moveRow_hld hkind]; exact rowIn_core _ _ _ _ _
  · rw [moveRow_hst hkind, rowOut_eng]; exact .refl _
  · rw [cgat_eng hkind]; rfl

theorem moveRow_moving {s : State} (he : s.hubU.errs = []) (e : Nat) (c : Copy) (i : Nat) : Moving e s (s.moveRow e c i) := by
  cases hkind : c.kind
  · rw [moveRow_hld hkind]; exact rowIn_moving he _ _ _ _
  · rw [moveRow_hst hkind]; exact rowOut_moving _ _ _ _ _
  · exact cgat_moving hkind he e i

end Sys2Proof.Machine
end

section
/-! SUPPORT. COPY_COMPLETE as a whole: the rows move in order, and the copy leaves the list. -/

namespace Sys2Proof.Machine

/-! ### The rows in order -/

/-- The rows of a copy have moved. -/
def State.rowsMoved (s : State) (e : Nat) (c : Copy) : State := (List.range c.rows).foldl (fun s i => s.moveRow e c i) s

/-- What every row keeps holds once all have moved. -/
theorem rowsMoved_keeps {P : State → Prop} {s : State} {e : Nat} {c : Copy} (h0 : P s)
    (hstep : ∀ t i, i < c.rows → P t → P (t.moveRow e c i)) : P (s.rowsMoved e c) :=
  List.foldlRecOn (motive := P) _ _ h0 (fun t ht i hi => hstep t i (List.mem_range.1 hi) ht)

/-- What row `i` brings about, and no later row takes away, holds once all have moved. -/
theorem foldl_range_brings {Inv P : State → Prop} {f : State → Nat → State} {n i : Nat} {s : State} (hi : i < n) (h0 : Inv s)
    (hinv : ∀ t k, Inv t → Inv (f t k)) (hset : ∀ t, Inv t → P (f t i))
    (hkeep : ∀ t k, i < k → k < n → Inv t → P t → P (f t k)) : P ((List.range n).foldl f s) := by
  have hall (n : Nat) : Inv ((List.range n).foldl f s) :=
    List.foldlRecOn (motive := Inv) _ _ h0 (fun t ht k _ => hinv t k ht)
  induction n with
  | zero => omega
  | succ n ih =>
    rw [List.range_succ, List.foldl_append, List.foldl_cons, List.foldl_nil]
    by_cases hlast : i = n
    · subst hlast; exact hset _ (hall i)
    · exact hkeep _ n (by omega) (Nat.lt_succ_self n) (hall n)
        (ih (by omega) (fun t k hik hk => hkeep t k hik (Nat.lt_succ_of_lt hk)))

/-- With no codeword in error, a state amid the rows: what the rows do not touch. -/
def AmidRows (e : Nat) (s t : State) : Prop := Moving e s t ∧ SameCore (s.eng e) (t.eng e)

theorem AmidRows.refl (e : Nat) (s : State) : AmidRows e s s := ⟨.refl e s, .refl _⟩

theorem AmidRows.limits {e : Nat} {s t : State} (h : AmidRows e s t) : t.limits e = s.limits e := h.1.limits h.2

theorem AmidRows.step {e : Nat} {s t : State} (h : AmidRows e s t) (he : s.hubU.errs = []) (c : Copy) (i : Nat) :
    AmidRows e s (t.moveRow e c i) :=
  ⟨h.1.trans (moveRow_moving (h.1.noErrs he) e c i), h.2.trans (moveRow_core t e c i)⟩

/-- Address `a` lies outside row `i`. -/
def Copy.Misses (c : Copy) (a i : Nat) : Prop := ¬ (c.dst.row i ≤ a ∧ a < c.dst.row i + c.bytes)

/-! ### hld -/

theorem scrByte_hld_of_misses {c : Copy} (hkind : c.kind = .hld) {e a i : Nat} (hmiss : c.Misses a i) (t : State) :
    scrByte ((t.moveRow e c i).eng e) a = scrByte (t.eng e) a := by
  rw [moveRow_hld hkind, scrByte_rowIn, if_neg (fun h => hmiss h.1)]

theorem scrByte_hld {c : Copy} (hkind : c.kind = .hld) {s : State} {e i j : Nat} (he : s.hubU.errs = []) (hi : i < c.rows)
    (hj : j < c.bytes) (hlast : ∀ k < c.rows, i < k → c.Misses (c.dst.row i + j) k) :
    scrByte ((s.rowsMoved e c).eng e) (c.dst.row i + j) = if (s.limits e).open (c.dst.row i + j) then
      (if c.src.row i + j < s.capacity then hubByte s (c.src.row i + j) else 0) else scrByte (s.eng e) (c.dst.row i + j) := by
  refine foldl_range_brings (Inv := fun t => AmidRows e s t ∧ t.hub = s.hub ∧
    ((s.limits e).open (c.dst.row i + j) = false → scrByte (t.eng e) (c.dst.row i + j) = scrByte (s.eng e) (c.dst.row i + j)))
    (P := fun t => scrByte (t.eng e) (c.dst.row i + j) = _) hi ⟨.refl e s, rfl, fun _ => rfl⟩ ?_ ?_ ?_
  · rintro t k ⟨hamid, hhub, hshut⟩
    refine ⟨hamid.step he c k, ?_, fun ho => ?_⟩
    · rw [moveRow_hld hkind, rowIn_hub, hhub]
    · rw [moveRow_hld hkind, scrByte_rowIn, hamid.limits, ho, if_neg (by simp), hshut ho]
  · rintro t ⟨hamid, hhub, hshut⟩
    have hbyte : hubByte t (c.src.row i + j) = hubByte s (c.src.row i + j) := by rw [hubByte, hhub]; rfl
    rw [moveRow_hld hkind, scrByte_rowIn, hamid.limits, Nat.add_sub_cancel_left]
    by_cases ho : (s.limits e).open (c.dst.row i + j) = true
    · rw [if_pos ⟨⟨Nat.le_add_right _ _, Nat.add_lt_add_left hj _⟩, ho⟩, if_pos ho,
        look_hubView (hamid.1.noErrs he) ⟨Nat.le_add_right _ _, Nat.add_lt_add_left hj _⟩, hamid.1.capacity, hbyte]
    · rw [if_neg (fun h => ho h.2), if_neg ho, hshut (Bool.eq_false_iff.2 ho)]
  · rintro t k hik hk - ht
    rw [scrByte_hld_of_misses hkind (hlast k hk hik)]
    exact ht

/-! ### hst -/

theorem scratch_hst {c : Copy} (hkind : c.kind = .hst) (s : State) (e i : Nat) : (s.moveRow e c i).eng e = s.eng e := by
  rw [moveRow_hst hkind, rowOut_eng]

theorem hubByte_hst_of_misses {c : Copy} (hkind : c.kind = .hst) {e a i : Nat} (hmiss : c.Misses a i) (t : State) :
    hubByte (t.moveRow e c i) a = hubByte t a := by
  rw [moveRow_hst hkind, hubByte_rowOut, if_neg (fun h => hmiss h.1)]

theorem hubByte_hst {c : Copy} (hkind : c.kind = .hst) {s : State} {e i j : Nat} (he : s.hubU.errs = []) (hi : i < c.rows)
    (hj : j < c.bytes) (hlast : ∀ k < c.rows, i < k → c.Misses (c.dst.row i + j) k) :
    hubByte (s.rowsMoved e c) (c.dst.row i + j) = if userBase ≤ c.dst.row i + j ∧ c.dst.row i + j < s.capacity then
      scrByte (s.eng e) (c.src.row i + j) else hubByte s (c.dst.row i + j) := by
  refine foldl_range_brings (Inv := fun t => AmidRows e s t ∧ t.eng e = s.eng e ∧
    (¬ (userBase ≤ c.dst.row i + j ∧ c.dst.row i + j < s.capacity) → hubByte t (c.dst.row i + j) = hubByte s (c.dst.row i + j)))
    (P := fun t => hubByte t (c.dst.row i + j) = _) hi ⟨.refl e s, rfl, fun _ => rfl⟩ ?_ ?_ ?_
  · rintro t k ⟨hamid, heng, hout⟩
    refine ⟨hamid.step he c k, (scratch_hst hkind t e k).trans heng, fun ho => ?_⟩
    rw [moveRow_hst hkind, hubByte_rowOut, hamid.1.capacity, if_neg (fun h => ho h.2), hout ho]
  · rintro t ⟨hamid, heng, hout⟩
    rw [moveRow_hst hkind, hubByte_rowOut, hamid.1.capacity, heng, Nat.add_sub_cancel_left]
    by_cases ho : userBase ≤ c.dst.row i + j ∧ c.dst.row i + j < s.capacity
    · rw [if_pos ⟨⟨Nat.le_add_right _ _, Nat.add_lt_add_left hj _⟩, ho⟩, if_pos ho]
    · rw [if_neg (fun h => ho h.2), if_neg ho, hout ho]
  · rintro t k hik hk - ht
    rw [hubByte_hst_of_misses hkind (hlast k hk hik)]
    exact ht

/-! ### cgat -/

theorem scrByte_cgat_of_misses {c : Copy} (hkind : c.kind = .cgat) (hbytes : c.bytes = runBytes c.src.fmt c.w) {e a i : Nat}
    (hmiss : c.Misses a i) (t : State) : scrByte ((t.moveRow e c i).eng e) a = scrByte (t.eng e) a := by
  rw [Copy.Misses, hbytes] at hmiss
  rw [cgat_eng hkind]
  exact cropLine_outside _ (by omega)

/-- The formats of a crop's elements are of one or two whole bytes. -/
theorem fmtBits_whole {fmt : Nat} (h : fmt ≤ 2) : ∃ nb, nb ≤ 2 ∧ fmtBits fmt = 8 * nb := by
  obtain rfl | rfl | rfl : fmt = 0 ∨ fmt = 1 ∨ fmt = 2 := by omega
  · exact ⟨2, by decide, rfl⟩
  · exact ⟨2, by decide, rfl⟩
  · exact ⟨1, by decide, rfl⟩

theorem runBytes_whole {fmt nb : Nat} (h : fmtBits fmt = 8 * nb) (n : Nat) : runBytes fmt n = n * nb := by
  have hmul : n * (8 * nb) = 8 * (n * nb) := Nat.mul_left_comm n 8 nb
  rw [runBytes, ceilDiv, h, hmul]
  omega

/-- An element is read from its bytes alone. -/
theorem elemRaw_congr {l m : List Host.Cell} {a nb k : Nat} (hnb : nb ≤ 5)
    (h : ∀ i < nb, look (fun _ => (0 : Byte)) l (a + k * nb + i) = look (fun _ => 0) m (a + k * nb + i)) :
    elemRaw l a (8 * nb) k = elemRaw m a (8 * nb) k := by
  rw [elemRaw_bytes _ _ _ hnb, elemRaw_bytes _ _ _ hnb, readLE_congr h]

/-- An element lies in a run that is long enough. -/
theorem elem_in_run {nb n k i : Nat} (hk : k < n) (hi : i < nb) : k * nb + i < n * nb := by
  have := Nat.mul_le_mul_right nb hk
  rw [Nat.succ_mul] at this
  omega

/-- An element of the line that a crop reads is that of the hub. -/
theorem elemRaw_hubView {s : State} (he : s.hubU.errs = []) {c : Copy} {nb i k : Nat} (hbits : fmtBits c.src.fmt = 8 * nb)
    (hnb : nb ≤ 5) (hk : k < c.w) (hlen : c.x0 + k ≤ c.src.len)
    (hcap : c.line i + runBytes c.src.fmt (c.src.len + 1) ≤ s.capacity) :
    elemRaw (s.hubView (c.line i) c.lineBytes) (c.line i) (8 * nb) (c.x0 + k) =
      elemRaw s.hub (c.line i) (8 * nb) (c.x0 + k) := by
  rw [runBytes_whole hbits] at hcap
  refine elemRaw_congr hnb (fun q hq => ?_)
  have hread : (c.x0 + k) * nb + q < c.lineBytes := by
    rw [Copy.lineBytes, runBytes_whole hbits]
    exact elem_in_run (by omega) hq
  have hline : (c.x0 + k) * nb + q < (c.src.len + 1) * nb := elem_in_run (by omega) hq
  rw [look_hubView he (by omega), if_pos (by omega)]
  rfl

theorem elemRaw_cgat {c : Copy} (hkind : c.kind = .cgat) (hbytes : c.bytes = runBytes c.src.fmt c.w) {s : State} {e i k : Nat}
    (he : s.hubU.errs = []) (hfmt : c.src.fmt ≤ 2) (hi : i < c.rows) (hk : k < c.w)
    (hlater : ∀ r < c.rows, i < r → c.dst.row r + c.bytes ≤ c.dst.row i ∨ c.dst.row i + c.bytes ≤ c.dst.row r)
    (hopen : ∀ j < c.bytes, (s.limits e).open (c.dst.row i + j) = true)
    (hcap : c.line i + runBytes c.src.fmt (c.src.len + 1) ≤ s.capacity) :
    elemRaw ((s.rowsMoved e c).eng e).scratch (c.dst.row i) (fmtBits c.src.fmt) k =
      if c.src.len < c.x0 + k then 0 else elemRaw s.hub (c.line i) (fmtBits c.src.fmt) (c.x0 + k) := by
  obtain ⟨nb, hnb, hbits⟩ := fmtBits_whole hfmt
  have hplace (q : Nat) (hq : q < nb) : k * nb + q < c.bytes := by
    rw [hbytes, runBytes_whole hbits]
    exact elem_in_run hk hq
  refine foldl_range_brings (Inv := fun t => AmidRows e s t ∧ t.hub = s.hub)
    (P := fun t => elemRaw (t.eng e).scratch (c.dst.row i) (fmtBits c.src.fmt) k = _) hi ⟨.refl e s, rfl⟩ ?_ ?_ ?_
  · rintro t r ⟨hamid, hhub⟩
    exact ⟨hamid.step he c r, (cgat_hub hkind t e r).trans hhub⟩
  · rintro t ⟨hamid, hhub⟩
    rw [cgat_eng hkind, elemRaw_cropLine hbits (by omega) hk (fun q hq => ?_), hbits]
    · split
      · rfl
      · rw [elemRaw_hubView (hamid.1.noErrs he) hbits (by omega) hk (by omega) (by rwa [hamid.1.capacity]), hhub]
    · rw [hamid.limits, Nat.add_assoc]
      exact hopen _ (hplace q hq)
  · rintro t r hir hr - ht
    rw [← ht, hbits]
    refine elemRaw_congr (by omega) (fun q hq => ?_)
    refine scrByte_cgat_of_misses hkind hbytes ?_ t
    have := hlater r hr hir
    have := hplace q hq
    rw [Copy.Misses]
    omega

/-! ### Completion -/

theorem fabric_of_none {s : State} {e : Nat} (h : (s.eng e).fab = none) : s.fabric e = s := by
  rw [State.fabric]
  rw [h]

theorem resume_of_none {s : State} {e : Nat} (h : (s.eng e).stalled = none) : s.resume e = s := by
  rw [State.resume]
  rw [h]

theorem rowsMoved_core (s : State) (e : Nat) (c : Copy) : SameCore (s.eng e) ((s.rowsMoved e c).eng e) :=
  rowsMoved_keeps (P := fun t => SameCore (s.eng e) (t.eng e)) (.refl _) (fun t i _ ht => ht.trans (moveRow_core t e c i))

/-- The engine once a copy has left the list: what it stored is noted, and the copies that waited for it wait no more. -/
def Engine.copyDone (x : Engine) (c : Copy) : Engine :=
  Engine.releaseCopies { x with
    copies := x.copies.filter (fun d => d.seq ≠ c.seq)
    hsts := x.hsts ++ if c.kind = .hst then (List.range c.rows).map (fun i => (c.dst.row i, c.bytes)) else [] } c.seq

theorem copyDone_copies (x : Engine) (c : Copy) : ∀ d ∈ (x.copyDone c).copies, d.seq ≠ c.seq := by
  intro d hd
  obtain ⟨d', hd', rfl⟩ := List.mem_map.1 hd
  exact of_decide_eq_true (List.mem_filter.1 hd').2

/-- With nothing queued, a copy completes with its rows. -/
theorem finishCopy_of_idle {s : State} {e k : Nat} {c : Copy} (hc : (s.eng e).copies[k]? = some c) (hafter : c.after = [])
    (hqueue : (s.eng e).queue = []) :
    s.finishCopy e k = (s.rowsMoved e c).setEng e (((s.rowsMoved e c).eng e).copyDone c) := by
  have hempty : ((s.rowsMoved e c).eng e).queue = [] := (rowsMoved_core s e c).queue.trans hqueue
  have hrows : (List.range c.rows).foldl (fun s i => s.moveRow e c i) s = s.rowsMoved e c := rfl
  simp [State.finishCopy, hc, hafter, hrows, hempty, Engine.copyDone, Engine.releaseCopies, State.applyReady]

/-- COPY_COMPLETE of a copy that may move, on an engine whose core runs with nothing queued. -/
theorem exec_copyComplete {s : State} {e : Eng} {k : Nat} {c : Copy} (hc : (s.eng e).copies[k]? = some c) (hafter : c.after = [])
    (hon : s.hubU.on = true) (h0 : s.mode ≠ 0) (h5 : s.mode ≠ 5) (hfree : s.copyFree e c = true) (hfab : (s.eng e).fab = none)
    (hstalled : (s.eng e).stalled = none) (hqueue : (s.eng e).queue = []) :
    exec (.copyComplete e k) s = .next ((s.rowsMoved e c).setEng e (((s.rowsMoved e c).eng e).copyDone c)) := by
  have hexec : exec (.copyComplete e k) s = execCopyComplete e k s := rfl
  have hmoves : s.copyMoves e k = true := by rw [State.copyMoves, hc]; exact hfree
  have hidle : (((s.rowsMoved e c).setEng e (((s.rowsMoved e c).eng e).copyDone c)).eng e).stalled = none := by
    rw [State.setEng_get_eng, if_pos rfl]
    exact (rowsMoved_core s e c).stalled.trans hstalled
  rw [hexec, execCopyComplete, fabric_of_none hfab]
  simp [when', hon, h0, h5, hmoves, finishCopy_of_idle hc hafter hqueue, resume_of_none hidle]

/-- Settles O12, row by row: what a row brings about holds at the end where no later row lies over it. -/
theorem copiesComplete : Obligations.CopiesComplete := by
  unfold Obligations.CopiesComplete
  intro e k c s hc hafter hon h0 h5 hfree hfab hstalled hqueue
  refine ⟨_, exec_copyComplete hc hafter hon h0 h5 hfree hfab hstalled hqueue, ?_⟩
  generalize ht : (s.rowsMoved e c).setEng e (((s.rowsMoved e c).eng e).copyDone c) = t
  have heng : t.eng e = ((s.rowsMoved e c).eng e).copyDone c := by rw [← ht, State.setEng_get_eng, if_pos rfl]
  have hscr : (t.eng e).scratch = ((s.rowsMoved e c).eng e).scratch := by rw [heng]; rfl
  have hbyte (a : Nat) : scrByte (t.eng e) a = scrByte ((s.rowsMoved e c).eng e) a := by rw [scrByte, hscr]; rfl
  have hhub (a : Nat) : hubByte t a = hubByte (s.rowsMoved e c) a := by rw [← ht]; rfl
  refine ⟨fun d hd => copyDone_copies _ c d (heng ▸ hd), fun hkind => ⟨fun a => ?_, fun a hout => ?_⟩,
    fun hkind => ⟨?_, fun a hout => ?_⟩, fun he i hi j hj => ?_, fun hkind hbytes => ⟨fun a => ?_, fun a hout => ?_, ?_⟩⟩
  · rw [hhub]
    exact rowsMoved_keeps (P := fun u => hubByte u a = hubByte s a) rfl (fun u i _ hu => by
      rw [moveRow_hld hkind, hubByte, rowIn_hub]; exact hu)
  · rw [hbyte]
    exact rowsMoved_keeps (P := fun u => scrByte (u.eng e) a = _) rfl (fun u i hi hu => by
      rw [scrByte_hld_of_misses hkind (hout i hi)]; exact hu)
  · rw [hscr]
    exact rowsMoved_keeps (P := fun u => (u.eng e).scratch = _) rfl (fun u i _ hu => by rw [scratch_hst hkind]; exact hu)
  · rw [hhub]
    exact rowsMoved_keeps (P := fun u => hubByte u a = hubByte s a) rfl (fun u i hi hu => by
      rw [hubByte_hst_of_misses hkind (hout i hi)]; exact hu)
  · intro a hlast
    refine ⟨fun hkind => ?_, fun hkind => ?_⟩
    · rw [hbyte]; exact scrByte_hld hkind he hi hj hlast
    · rw [hhub]; exact hubByte_hst hkind he hi hj hlast
  · rw [hhub]
    exact rowsMoved_keeps (P := fun u => hubByte u a = hubByte s a) rfl (fun u i _ hu => by
      rw [hubByte, cgat_hub hkind]; exact hu)
  · rw [hbyte]
    exact rowsMoved_keeps (P := fun u => scrByte (u.eng e) a = _) rfl (fun u i hi hu => by
      rw [scrByte_cgat_of_misses hkind hbytes (hout i hi)]; exact hu)
  · intro he hfmt i hi q hq line b hlater hopen hcap
    rw [hscr]
    exact elemRaw_cgat hkind hbytes he hfmt hi hq hlater hopen hcap

end Sys2Proof.Machine
end

section
/-! SUPPORT. The core's instructions on descriptors and accumulators, and STREAM_COMPLETE (Tables 3.1, 3.2 and 3.5, R70, R76,
R78). -/

namespace Sys2Proof.Machine

/-! ### Descriptors (Table 3.2) -/

/-- An instruction that writes one descriptor where its guard lets it. -/
theorem gives_desc {s : State} {e : Eng} (h : s.runs e = true) {g dd : BitVec 4} {i : Instr} {f : Engine → Desc → Desc}
    {v : Desc} (hi : exec i s = descOp s e g dd f) (hv : f (s.eng e) ((s.eng e).d dd) = v) :
    Gives i s (fun t => Continues e s t ∧ DescNext e dd (if (s.eng e).guard g then v else (s.eng e).d dd) 1 s t) := by
  obtain ⟨t, ht, hc, hn⟩ := descNext_coreOp h (fun x => x.guard g) 1 dd (fun x => f x (x.d dd))
  exact ⟨t, hi.trans ht, hc, hv ▸ hn⟩

/-- dfmt puts the high bits of a scalar above the low 41 of the descriptor. -/
theorem dfmt_eq (a w : Word) :
    (a &&& ~~~maskW 41) ||| (w &&& maskW 41) = BitVec.ofNat 64 (a.toNat / 2 ^ 41 * 2 ^ 41 + w.toNat % 2 ^ 41) := by
  have hlo : w.toNat % 2 ^ 41 < 2 ^ 41 := Nat.mod_lt _ (by decide)
  have ha := a.isLt
  apply BitVec.eq_of_getLsbD_eq
  intro i hi
  have hmask := getLsbD_maskW (n := 41) (by decide) i
  rw [BitVec.getLsbD_or, BitVec.getLsbD_and, BitVec.getLsbD_and, BitVec.getLsbD_not, hmask, BitVec.getLsbD_ofNat,
    Nat.mul_comm, Nat.testBit_two_pow_mul_add _ hlo, ← BitVec.testBit_toNat, ← BitVec.testBit_toNat, Nat.testBit_mod_two_pow,
    Nat.testBit_div_two_pow]
  by_cases hlt : i < 41
  · simp [hi, hlt]
  · simp [hi, hlt, Nat.sub_add_cancel (Nat.not_lt.1 hlt)]

theorem ofSigned_lt (n : Nat) (v : Int) : ofSigned n v < 2 ^ n := by
  have hpos : 0 < 2 ^ n := Nat.two_pow_pos n
  have := Int.emod_lt_of_pos v (b := ((2 ^ n : Nat) : Int)) (by exact_mod_cast hpos)
  rw [ofSigned]
  omega

/-- Cut to two's complement, an integer keeps its residue. -/
theorem ofSigned_cast (n : Nat) (v : Int) : (ofSigned n v : Int) = v % (2 ^ n : Nat) := by
  have hpos : ((2 ^ n : Nat) : Int) ≠ 0 := by exact_mod_cast (Nat.two_pow_pos n).ne'
  rw [ofSigned, Int.toNat_of_nonneg (Int.emod_nonneg v hpos)]

/-- A number read as two's complement is its bits as a signed word. -/
theorem toSigned_toNat {n : Nat} (v : BitVec n) : toSigned n v.toNat = v.toInt := by
  have hlt := v.isLt
  rw [toSigned, BitVec.toInt_eq_toNat_cond, Nat.mod_eq_of_lt hlt]
  cases n with
  | zero => simp [BitVec.eq_nil v]
  | succ n =>
    have hhalf : 2 * v.toNat < 2 ^ (n + 1) ↔ v.toNat < 2 ^ n := by rw [Nat.pow_succ]; omega
    rw [Nat.add_sub_cancel]
    exact if_congr hhalf.symm rfl rfl

theorem Desc.stride_eq (d : Desc) : d.stride = (d.w1.setWidth 32).toInt := by
  have hbits : bitsOf d.w1.toNat 0 32 = (d.w1.setWidth 32).toNat := by
    rw [bitsOf, Nat.pow_zero, Nat.div_one, BitVec.toNat_setWidth]
  rw [Desc.stride, hbits, toSigned_toNat]

/-- Another address leaves the other bits of a descriptor's first word. -/
theorem Desc.withAddr_w0 (d : Desc) (a : Int) : (d.withAddr a).w0.toNat = d.w0.toNat / 2 ^ 40 * 2 ^ 40 + ofSigned 40 a := by
  have hw := d.w0.isLt
  have ha := ofSigned_lt 40 a
  rw [Desc.withAddr, BitVec.toNat_ofNat]
  omega

theorem Desc.withAddr_addr (d : Desc) (a : Int) : (d.withAddr a).addr = ofSigned 40 a := by
  have ha := ofSigned_lt 40 a
  rw [Desc.addr, bitsOf, Desc.withAddr_w0]
  omega

/-- dadv moves the address by strides, modulo 2^40. -/
theorem Desc.advance_addr (d : Desc) (r : Int) :
    (((d.advance r).addr : Int) - (d.addr + r * (d.w1.setWidth 32).toInt)) % 2 ^ 40 = 0 := by
  have hpow : ((2 ^ 40 : Nat) : Int) = 2 ^ 40 := by norm_num
  rw [Desc.advance, Desc.withAddr_addr, ofSigned_cast, Desc.stride_eq, hpow]
  omega

theorem Desc.advance_high (d : Desc) (r : Int) : (d.advance r).w0.toNat / 2 ^ 40 = d.w0.toNat / 2 ^ 40 := by
  have hlt := ofSigned_lt 40 (d.addr + r * d.stride)
  rw [Desc.advance, Desc.withAddr_w0]
  omega

theorem Desc.advance_w1 (d : Desc) (r : Int) : (d.advance r).w1 = d.w1 := by rw [Desc.advance, Desc.withAddr]

/-- Settles O8: each instruction is one write of a descriptor or of a scalar. -/
theorem descriptorOps : Obligations.DescriptorOps := by
  unfold Obligations.DescriptorOps
  intro e g dd a d r w s h x A D on
  refine ⟨gives_desc h (f := fun x d => { d with w0 := x.s a }) rfl rfl,
    gives_desc h (f := fun x d => { d with w1 := x.s a }) rfl rfl, gives_desc h (f := fun x d =>
      { d with w0 := (x.s a &&& ~~~maskW 41) ||| (d.w0 &&& maskW 41) }) rfl
      (congrArg (fun v : Word => Desc.mk v D.w1) (dfmt_eq A D.w0)), ?_,
    gives_scalar h (v := fun x => if w then (x.d dd).w1 else (x.d dd).w0) rfl rfl⟩
  obtain ⟨t, ht, hc, hn⟩ := gives_desc (i := .dadv e g dd r) h (f := fun _ d => d.advance r.toInt) (g := g) (dd := dd)
    rfl rfl
  exact ⟨t, ht, hc, D.advance r.toInt, hn, D.advance_w1 _, D.advance_high _, D.advance_addr _⟩

/-! ### STREAM_COMPLETE (R70) -/

/-- A core that is not held waits for nothing. -/
theorem waited_of_running {s : State} {e : Nat} (h : (s.eng e).stalled = none) : s.waited e = 0 := by
  have hwait : s.runWait e = false := by rw [State.runWait, h, Bool.and_false]
  rw [State.waited, hwait]
  rfl

/-- The engine once its oldest queued instruction has left the tiles at a count. -/
def Engine.tileDone (x : Engine) (seq : Nat) (qs : List QEntry) (count : Nat) : Engine :=
  let left := min x.lag (owedBy tileCharge qs)
  let y := { x with queue := qs, tileAt := count, run := x.run - (x.lag - left), lag := left }
  if x.copies.any (fun c => c.seq == seq) then y else y.releaseCopies seq

theorem Engine.tileDone_kept (x : Engine) (seq : Nat) (qs : List QEntry) (count : Nat) :
    (x.tileDone seq qs count).queue = qs ∧ (x.tileDone seq qs count).scratch = x.scratch ∧
      (x.tileDone seq qs count).pc = x.pc ∧ (x.tileDone seq qs count).stalled = x.stalled ∧
      (x.tileDone seq qs count).copies.map (·.seq) = x.copies.map (·.seq) := by
  unfold Engine.tileDone
  dsimp only
  split
  · exact ⟨rfl, rfl, rfl, rfl, rfl⟩
  · refine ⟨rfl, rfl, rfl, rfl, ?_⟩
    rw [Engine.releaseCopies, List.map_map]
    rfl

/-- The run cycles but for what the tiles owe of them stay as they are. -/
theorem Engine.tileDone_cycles {x : Engine} (h : x.lag ≤ x.run) (seq : Nat) (qs : List QEntry) (count : Nat) :
    (x.tileDone seq qs count).run - (x.tileDone seq qs count).lag = x.run - x.lag := by
  have hrun : (x.tileDone seq qs count).run = x.run - (x.lag - min x.lag (owedBy tileCharge qs)) := by
    unfold Engine.tileDone; dsimp only; split <;> rfl
  have hlag : (x.tileDone seq qs count).lag = min x.lag (owedBy tileCharge qs) := by
    unfold Engine.tileDone; dsimp only; split <;> rfl
  omega

theorem exec_streamComplete {s : State} {e : Eng} {q : QEntry} {qs : List QEntry} (hq : (s.eng e).queue = q :: qs)
    (happ : q.applied = true) (hs : (s.eng e).stalled = none) :
    exec (.streamComplete e) s = .next (s.setEng e ((s.eng e).tileDone q.seq qs s.count)) := by
  have hfinish : s.finishTile e = s.setEng e ((s.eng e).tileDone q.seq qs s.count) := by
    simp only [State.finishTile, hq, happ, if_true, waited_of_running hs, Nat.sub_zero]
    rfl
  have hidle : ((s.setEng e ((s.eng e).tileDone q.seq qs s.count)).eng e).stalled = none := by
    rw [State.setEng_get_eng, if_pos rfl, ((s.eng e).tileDone_kept _ _ _).2.2.2.1, hs]
  have hexec : exec (.streamComplete e) s = .next ((s.finishTile e).resume e) := rfl
  rw [hexec, hfinish, resume_of_none hidle]

/-! ### ard (Table 3.1, R76) -/

/-- The sums of the two tiles together, limited to 64 bits. -/
theorem accField_sum (p q : Acc) : accField p q 0 = BitVec.ofInt 64 (max (-2 ^ 63) (min (2 ^ 63 - 1) (p.sum + q.sum))) :=
  congrArg (BitVec.ofInt 64) (satS64_eq (p.sum + q.sum))

/-- The two counts, one in each half of the word. -/
theorem accField_counts (p q : Acc) : accField p q 2 =
    BitVec.ofNat 64 (min (p.cnt + q.cnt) (2 ^ 32 - 1) + 2 ^ 32 * min (p.nsat + q.nsat) (2 ^ 32 - 1)) := by
  rw [Nat.mul_comm]; rfl

/-- The smallest value and the largest. -/
theorem accField_range (p q : Acc) : accField p q 3 = BitVec.ofNat 64 (min p.mn q.mn + 2 ^ 16 * max p.mx q.mx) := by
  rw [Nat.mul_comm]; rfl

theorem exec_ard {s : State} {e : Eng} {g : BitVec 4} {d : BitVec 6} {aa f : BitVec 3} (h : s.runs e = true) (hf : f.toNat ≤ 4)
    (hw : s.waits e (.ard e g d aa f) = none) : exec (.ard e g d aa f) s =
      .next (s.coreStep e 2 ((s.eng e).guard g) (fun x => x.setS d (accField (look (fun _ => Acc.clear) x.acc0 aa.toNat)
        (look (fun _ => Acc.clear) x.acc1 aa.toNat) f.toNat))) :=
  (exec_of_issuer s rfl (show (Instr.ard e g d aa f).wf = true from decide_eq_true hf)).trans (issueOp_of_free h hw)

/-- Settles O19: the queue loses its head, and ard reads the two copies of its accumulator. -/
theorem streamCompletionAndArd : Obligations.StreamCompletionAndArd := by
  unfold Obligations.StreamCompletionAndArd
  refine ⟨fun e q qs s hq happ hs => ?_, fun e g d aa f s h hf hw => ?_⟩
  · obtain ⟨hqueue, hscr, hpc, -, hcopies⟩ := (s.eng e).tileDone_kept q.seq qs s.count
    refine ⟨_, exec_streamComplete hq happ hs, onlyEngine_setEng s e _, ?_⟩
    rw [State.setEng_get_eng, if_pos rfl]
    exact ⟨hqueue, hscr, hpc, fun hlag => Engine.tileDone_cycles hlag _ _ _, hcopies⟩
  · intro x p r v
    have hv : accField p r f.toNat = v := by
      have hfield : f.toNat = 0 ∨ f.toNat = 1 ∨ f.toNat = 2 ∨ f.toNat = 3 ∨ f.toNat = 4 := by omega
      obtain hf | hf | hf | hf | hf := hfield <;> simp only [v, hf]
      · exact accField_sum p r
      · rw [accField]
      · exact accField_counts p r
      · exact accField_range p r
      · rw [accField]
    refine ⟨_, exec_ard h hf hw, ?_⟩
    exact hv ▸ scalarNext_coreStep s e 2 (x.guard g) d (accField p r f.toNat)

end Sys2Proof.Machine
end

section
/-! SUPPORT. An instruction enters the tile issue queue (R70, R71, R75, R83): what its effect may change of the engine, and what
the queue keeps of it. -/

namespace Sys2Proof.Machine

/-! ### What an instruction of the tiles reads and writes of its engine -/

/-- The engine with the scratch, the accumulators, the tables and the histograms of another. -/
def Engine.withStores (x y : Engine) : Engine :=
  { x with scratch := y.scratch, acc0 := y.acc0, acc1 := y.acc1, tabs := y.tabs, hist0 := y.hist0, hist1 := y.hist1 }

/-- An effect on one engine, carried over to another. -/
def TileOut.onto (x : Engine) (o : TileOut) : TileOut := { o with x := x.withStores o.x }

theorem tileElem_withStores (l : Limits) (q : QEntry) (x y : Engine) :
    tileElem l q (x.withStores y) = (tileElem l q y).map (TileOut.onto x) := by
  unfold tileElem
  dsimp only
  split <;> rfl

theorem tileSieve_withStores (l : Limits) (q : QEntry) (x y : Engine) :
    tileSieve l q (x.withStores y) = (tileSieve l q y).map (TileOut.onto x) := by
  unfold tileSieve
  dsimp only
  split <;> rfl

theorem tileCodec_withStores (l : Limits) (q : QEntry) (x y : Engine) :
    tileCodec l q (x.withStores y) = (tileCodec l q y).map (TileOut.onto x) := by
  unfold tileCodec
  dsimp only
  split <;> rfl

/-- An instruction of the tiles reads and writes the stores alone, and leaves the rest of its engine as it was. -/
theorem tileEffect_withStores (l : Limits) (q : QEntry) (x y : Engine) :
    tileEffect l q (x.withStores y) = (tileEffect l q y).onto x := by
  unfold tileEffect
  rw [tileElem_withStores, tileSieve_withStores, tileCodec_withStores]
  cases tileElem l q y
  · cases tileSieve l q y
    · cases tileCodec l q y <;> rfl
    · rfl
  · rfl

theorem tileEffect_core (l : Limits) (q : QEntry) (x : Engine) :
    (tileEffect l q x).x = x.withStores (tileEffect l q x).x :=
  congrArg TileOut.x (tileEffect_withStores l q x x)

/-! ### The engine as the instruction enters -/

/-- ADV moves descriptors alone (Table 3.4). -/
theorem advRuns_eq (x : Engine) (rs : List (BitVec 4)) : advRuns x rs = { x with descs := (advRuns x rs).descs } := by
  induction rs generalizing x with
  | nil => rfl
  | cons r rs ih =>
    have hrest (v : Desc) : advRuns (x.setD r v) rs = { x with descs := (advRuns (x.setD r v) rs).descs } := ih (x.setD r v)
    rw [advRuns]
    exact hrest _

/-- The entry of an instruction issued at a count: its place, its guard, and the descriptors and scalars as they stand. -/
def Engine.entry (x : Engine) (i : Instr) (count : Nat) : QEntry :=
  ⟨x.nextSeq, i, x.guard (queueGuard i), x.descs, x.sregs, false, count⟩

/-- The engine with that entry in its queue. -/
def Engine.queued (x : Engine) (i : Instr) (count : Nat) : Engine :=
  { x with queue := x.queue ++ [x.entry i count], nextSeq := x.nextSeq + 1, lag := x.lag + (tileCharge i - 1) }

/-- The engine with the instruction in its queue, its charge run and the core at the next instruction. -/
def Engine.entered (x : Engine) (i : Instr) (count : Nat) : Engine :=
  Engine.retire { x.queued i count with
    descs := if x.guard (queueGuard i) && advOf i then (advRuns (x.queued i count) (namedRuns i)).descs else x.descs } (tileCharge i)

theorem Engine.entered_eq (x : Engine) (i : Instr) (count : Nat) : x.entered i count = Engine.retire
    (if x.guard (queueGuard i) && advOf i then advRuns (x.queued i count) (namedRuns i) else x.queued i count) (tileCharge i) := by
  rw [Engine.entered]
  split
  · rw [← advRuns_eq]
  · rfl

@[simp] theorem Engine.entered_queue (x : Engine) (i : Instr) (count : Nat) :
    (x.entered i count).queue = x.queue ++ [x.entry i count] := rfl

theorem enqueue_eq (s : State) (e : Nat) (i : Instr) :
    s.enqueue e i = (s.setEng e ((s.eng e).entered i s.count)).applyReady e ((s.eng e).queue ++ [(s.eng e).entry i s.count]) := by
  have henqueue : s.enqueue e i = (s.setEng e ((s.eng e).entered i s.count)).applyReady e
      ((s.setEng e ((s.eng e).entered i s.count)).eng e).queue := by
    rw [Engine.entered_eq]
    rfl
  rw [henqueue, State.setEng_get_eng, if_pos rfl, Engine.entered_queue]

/-- A queued instruction enters wherever its engine runs and the queue has room (R70). -/
theorem exec_queued {i : Instr} {e : Eng} {s : State} (hi : i.issuer = some e) (hq : isQueued i = true) (hwf : i.wf = true)
    (h : s.runs e = true) (hroom : (s.eng e).queue.length < 32) : exec i s = .next (s.enqueue e i) := by
  have hwaits : s.waits e i = none ∧ s.perform e i = s.enqueue e i := by
    have hfull : ¬ (isQueued i && decide (32 ≤ (s.eng e).queue.length)) = true := by simp [hroom]
    cases i
    case lds | sts | hld | hst | push | pushr | fence | ard | wtick => cases hq
    case aclr | tld | hclr | hput | fmrg | cgat | vadd | vsub | vmul | vmin | vmax | vabsd | vaddk | vmulk | vclamp | vcvt
      | vsel | vcmp | mapc | lut | luti | k1d | k1v | k2d | rs | flat | dpr | xmrg | cmat | scor | thr | morph | lbl | feat
      | stat | hist | crc | pred | upred | gsel | gput | gdec => exact ⟨if_neg hfull, rfl⟩
    all_goals cases hi
  rw [exec_of_issuer s hi hwf, issueOp_of_free h hwaits.1, hwaits.2]

/-! ### What giving entries their effect leaves -/

/-- An entry but for whether it has had its effect. -/
def QEntry.issued (q : QEntry) : QEntry := { q with applied := false }

/-- Between the two states entries of the engine's queue have had effects: the stores, the copies that cgats have begun, the
marks of the queue and the register fields alone may differ. -/
structure Worked (e : Nat) (s t : State) : Prop where
  rest   : { t with engines := s.engines, regs := s.regs } = s
  others : ∀ k, k ≠ e → t.eng k = s.eng k
  core   : { (t.eng e).withStores (s.eng e) with copies := (s.eng e).copies, queue := (s.eng e).queue } = s.eng e
  queue  : (t.eng e).queue.map QEntry.issued = (s.eng e).queue.map QEntry.issued

theorem Worked.refl (e : Nat) (s : State) : Worked e s s := ⟨rfl, fun _ _ => rfl, rfl, rfl⟩

theorem Worked.trans {e : Nat} {s t u : State} (h1 : Worked e s t) (h2 : Worked e t u) : Worked e s u := by
  refine ⟨?_, fun k hk => (h2.others k hk).trans (h1.others k hk), ?_, h2.queue.trans h1.queue⟩
  · exact (congrArg (fun v : State => { v with engines := s.engines, regs := s.regs }) h2.rest).trans h1.rest
  · exact (congrArg (fun y : Engine => { y.withStores (s.eng e) with copies := (s.eng e).copies, queue := (s.eng e).queue })
      h2.core).trans h1.core

theorem Worked.setEng {e : Nat} {s : State} {y : Engine}
    (hcore : { y.withStores (s.eng e) with copies := (s.eng e).copies, queue := (s.eng e).queue } = s.eng e)
    (hqueue : y.queue.map QEntry.issued = (s.eng e).queue.map QEntry.issued) : Worked e s (s.setEng e y) := by
  have heng : (s.setEng e y).eng e = y := by rw [State.setEng_get_eng, if_pos rfl]
  exact ⟨rfl, fun k hk => by rw [State.setEng_get_eng, if_neg hk], by rw [heng]; exact hcore, by rw [heng]; exact hqueue⟩

theorem Worked.setrf (e : Nat) (s : State) (f : Fld) (v : Nat) : Worked e s (s.setrf f v) := ⟨rfl, fun _ _ => rfl, rfl, rfl⟩
theorem Worked.bump (e : Nat) (s : State) (f : Fld) (n : Nat) : Worked e s (s.bump f n) := .setrf e s f _

/-- What an effect counts (R47, R71, R80, R81). -/
def State.countTile (s : State) (e : Nat) (q : QEntry) (l : Limits) (o : TileOut) : State :=
  let s := if (shape q.i).isSome && decide (q.cap < (q.d (countReg q.i)).len + 1) then s.bump (Rf.ENG_TILE_CAP_CNT e) else s
  ((s.bump (Rf.ENG_TILE_FMT_VIOL e) o.fmt).bump (Rf.ENG_TILE_DPR_MISS e) o.dpr).bump (Rf.ENG_CLAMP_SCR_VIOL e)
    (((q.runReads ++ q.recordSet ++ o.rd).map violRead).sum + ((q.runWrites ++ o.wr).map (violWrite l)).sum)

theorem countTile_worked (s : State) (e : Nat) (q : QEntry) (l : Limits) (o : TileOut) : Worked e s (s.countTile e q l o) := by
  have hcap : Worked e s (if (shape q.i).isSome && decide (q.cap < (q.d (countReg q.i)).len + 1) then
      s.bump (Rf.ENG_TILE_CAP_CNT e) else s) := by
    split
    · exact .bump e s _ _
    · exact .refl e s
  exact ((hcap.trans (.bump e _ _ _)).trans (.bump e _ _ _)).trans (.bump e _ _ _)

@[simp] theorem countTile_eng (s : State) (e : Nat) (q : QEntry) (l : Limits) (o : TileOut) (k : Nat) :
    (s.countTile e q l o).eng k = s.eng k := by
  unfold State.countTile; dsimp only; split <;> rfl

/-- The entry is one of the tiles': no cgat that waits for its copy. -/
theorem applyEntry_eq {s : State} {e : Nat} {q : QEntry} (hon : q.on = true) (happ : q.applied = false)
    (hcrop : q.waitingCgat = false) : s.applyEntry e q = if q.accepted (s.eng e).scratch then
      (s.setEng e (tileEffect (s.limits e) q (s.eng e)).x).countTile e q (s.limits e) (tileEffect (s.limits e) q (s.eng e))
    else s.bump (Rf.ENG_TILE_FMT_VIOL e) := by
  unfold State.applyEntry
  dsimp only
  rw [if_neg (by simp [hon])]
  split
  next hi => simp [QEntry.waitingCgat, hi, happ] at hcrop
  next => rfl

theorem applyEntry_off {s : State} {e : Nat} {q : QEntry} (hon : q.on = false) : s.applyEntry e q = s := by
  unfold State.applyEntry
  exact if_pos (by simp [hon])

theorem tileEffect_worked (s : State) (e : Nat) (q : QEntry) :
    Worked e s (s.setEng e (tileEffect (s.limits e) q (s.eng e)).x) := by
  rw [tileEffect_core]
  exact .setEng rfl rfl

theorem applyEntry_worked (s : State) (e : Nat) (q : QEntry) : Worked e s (s.applyEntry e q) := by
  unfold State.applyEntry
  dsimp only
  split
  · exact .refl e s
  · split
    · split
      · split
        · exact (Worked.bump e s _ _).trans (.setEng rfl rfl)
        · exact .setEng rfl rfl
      · exact .bump e s _ _
    · split
      · exact (tileEffect_worked s e q).trans (countTile_worked _ e q _ _)
      · exact .bump e s _ _

/-- Marking an entry as applied changes nothing else of the queue. -/
theorem markApplied_worked (s : State) (e n : Nat) : Worked e s (s.setEng e ((s.eng e).markApplied n)) := by
  refine .setEng rfl ?_
  rw [Engine.markApplied, List.map_map]
  refine List.map_congr_left (fun q _ => ?_)
  rw [Function.comp_apply]
  split <;> rfl

theorem applyReady_worked (e : Nat) (qs : List QEntry) (s : State) : Worked e s (s.applyReady e qs) := by
  induction qs generalizing s with
  | nil => exact .refl e s
  | cons q qs ih =>
    rw [State.applyReady]
    split
    · exact ih s
    · split
      · exact ((applyEntry_worked s e q).trans (markApplied_worked _ e q.seq)).trans (ih _)
      · exact .refl e s

/-- The one entry of a queue whose guard reads 0 leaves everything but its mark. -/
theorem applyReady_off {s : State} {e : Nat} {q : QEntry} (hon : q.on = false) :
    s.applyReady e [q] = s ∨ s.applyReady e [q] = s.setEng e ((s.eng e).markApplied q.seq) := by
  rw [State.applyReady, applyEntry_off hon]
  split
  · exact .inl rfl
  · split
    · exact .inr rfl
    · exact .inl rfl

/-- A guard that reads 0: the stores and the registers stay as they were. -/
theorem enqueue_off {s : State} {e : Nat} {i : Instr} (hqueue : (s.eng e).queue = [])
    (hg : (s.eng e).guard (queueGuard i) = false) :
    ((s.enqueue e i).eng e).withStores (s.eng e) = (s.enqueue e i).eng e ∧ (s.enqueue e i).regs = s.regs := by
  rw [enqueue_eq, hqueue, List.nil_append]
  obtain h | h := applyReady_off (s := s.setEng e ((s.eng e).entered i s.count)) (e := e) (q := (s.eng e).entry i s.count) hg
  · rw [h, State.setEng_get_eng, if_pos rfl]
    exact ⟨rfl, rfl⟩
  · rw [h, State.setEng_get_eng, if_pos rfl, State.setEng_get_eng, if_pos rfl]
    exact ⟨rfl, rfl⟩

/-- The entry that an instruction has just made, whatever entries have had their effect. -/
theorem last_of_issued {es fs : List QEntry} {q : QEntry} (h : es.map QEntry.issued = (fs ++ [q]).map QEntry.issued) :
    ∃ r, es.getLast? = some r ∧ r.i = q.i ∧ r.on = q.on ∧ r.descs = q.descs ∧ r.sregs = q.sregs := by
  have hlast := congrArg List.getLast? h
  rw [List.getLast?_map, List.getLast?_map, List.getLast?_append, List.getLast?_singleton, Option.some_or, Option.map_some] at hlast
  obtain ⟨r, hr, hrq⟩ := Option.map_eq_some_iff.1 hlast
  exact ⟨r, hr, (congrArg QEntry.i hrq :), (congrArg QEntry.on hrq :), (congrArg QEntry.descs hrq :), (congrArg QEntry.sregs hrq :)⟩

/-- Settles O15: from the entry to the end of the step, only stores, cgat's copies, marks and register fields change. -/
theorem streamInstructionsEnter : Obligations.StreamInstructionsEnter := by
  unfold Obligations.StreamInstructionsEnter
  intro i e s hi hq hwf h hroom x
  refine ⟨_, exec_queued hi hq hwf h hroom, ?_⟩
  have hoff := enqueue_off (s := s) (e := e) (i := i)
  have hworked : Worked e (s.setEng e (x.entered i s.count)) (s.enqueue e i) := by
    rw [enqueue_eq]; exact applyReady_worked _ _ _
  generalize s.enqueue e i = t at hworked hoff ⊢
  obtain ⟨hrest, hothers, hcore, hqueue⟩ := hworked
  rw [State.setEng_get_eng, if_pos rfl] at hcore hqueue
  refine ⟨?_, (congrArg Engine.run hcore :), last_of_issued hqueue, fun r => (congrArg (fun y : Engine => y.s r) hcore :),
    fun k hk => (hothers k hk).trans (by rw [State.setEng_get_eng, if_neg hk]), (congrArg State.chains hrest :),
    (congrArg State.hub hrest :), (congrArg State.evq hrest :),
    (congrArg (fun y : Engine => (y.pc, y.loops)) hcore :), fun hempty hg => ?_⟩
  · have hlen := congrArg List.length hqueue
    rw [List.length_map, List.length_map] at hlen
    exact hlen.trans List.length_append
  · obtain ⟨hstores, hregs⟩ := hoff hempty hg
    exact ⟨(congrArg Engine.scratch hstores.symm :), (congrArg Engine.acc0 hstores.symm :),
      (congrArg Engine.acc1 hstores.symm :), (congrArg Engine.tabs hstores.symm :), (congrArg Engine.hist0 hstores.symm :),
      (congrArg Engine.hist1 hstores.symm :), hregs⟩

end Sys2Proof.Machine
end

section
/-! SUPPORT. Scratch as a string of bits: a run of elements of any format is stored and read back (R79, Table 3.3). -/

namespace Sys2Proof.Machine

/-! ### Bits of a number -/

theorem testBit_bitsOf (v lo n j : Nat) : (bitsOf v lo n).testBit j = (decide (j < n) && v.testBit (lo + j)) := by
  rw [bitsOf, Nat.testBit_mod_two_pow, Nat.testBit_div_two_pow, Nat.add_comm]

theorem bitsOf_lt (v lo n : Nat) : bitsOf v lo n < 2 ^ n := Nat.mod_lt _ (Nat.two_pow_pos n)

theorem testBit_of_lt {v n j : Nat} (h : v < 2 ^ n) (hj : n ≤ j) : v.testBit j = false :=
  Nat.testBit_lt_two_pow (lt_of_lt_of_le h (Nat.pow_le_pow_right (by decide) hj))

theorem bitsOf_add_mul (b o n : Nat) : b = b % 2 ^ o + 2 ^ o * (bitsOf b o n + 2 ^ n * (b / 2 ^ o / 2 ^ n)) := by
  rw [bitsOf, Nat.mod_add_div, Nat.mod_add_div]

/-- A field of a number replaced. -/
theorem testBit_replace (b o n v t : Nat) : (b - bitsOf b o n * 2 ^ o + v % 2 ^ n * 2 ^ o).testBit t =
    if o ≤ t ∧ t < o + n then v.testBit (t - o) else b.testBit t := by
  have hlow : b % 2 ^ o < 2 ^ o := Nat.mod_lt _ (Nat.two_pow_pos o)
  have hfield : v % 2 ^ n < 2 ^ n := Nat.mod_lt _ (Nat.two_pow_pos n)
  have hnew : b - bitsOf b o n * 2 ^ o + v % 2 ^ n * 2 ^ o =
      2 ^ o * (2 ^ n * (b / 2 ^ o / 2 ^ n) + v % 2 ^ n) + b % 2 ^ o := by
    have hb := bitsOf_add_mul b o n
    generalize bitsOf b o n = f at hb ⊢
    rw [Nat.mul_comm f, Nat.mul_comm (v % 2 ^ n)]
    rw [Nat.mul_add] at hb ⊢
    omega
  rw [hnew, Nat.testBit_two_pow_mul_add _ hlow, Nat.testBit_two_pow_mul_add _ hfield]
  by_cases h1 : t < o
  · rw [if_pos h1, if_neg (by omega), Nat.testBit_mod_two_pow]
    simp [h1]
  · rw [if_neg h1]
    by_cases h2 : t - o < n
    · rw [if_pos h2, if_pos (by omega), Nat.testBit_mod_two_pow]
      simp [h2]
    · rw [if_neg h2, if_neg (by omega), Nat.testBit_div_two_pow, Nat.testBit_div_two_pow]
      congr 1
      omega

/-! ### Bits of a memory -/

/-- Bit `i` of a memory, counted from bit 0 of its byte 0. -/
def memBit (m : List Host.Cell) (i : Nat) : Bool := (look (fun _ => (0 : Byte)) m (i / 8)).toNat.testBit (i % 8)

theorem testBit_readLE (m : List Host.Cell) (a n t : Nat) :
    (readLE m a n).testBit t = (decide (t < 8 * n) && memBit m (8 * a + t)) := by
  by_cases ht : t < 8 * n
  · have hbyte := readLE_byte m a (n := n) (i := t / 8) (by omega)
    have hplace : (8 * a + t) / 8 = a + t / 8 := by omega
    have hbit : (8 * a + t) % 8 = t % 8 := by omega
    have hsplit : 8 * (t / 8) + t % 8 = t := Nat.div_add_mod t 8
    rw [memBit, hplace, hbit, ← hbyte, show 256 = 2 ^ 8 from rfl, ← Nat.pow_mul, Nat.testBit_mod_two_pow,
      Nat.testBit_div_two_pow, Nat.add_comm, hsplit]
    simp [ht, Nat.mod_lt]
  · rw [testBit_of_lt (n := 8 * n) (by rw [Nat.pow_mul]; exact readLE_lt m a n) (by omega)]
    simp [ht]

theorem memBit_putBytes (l : Limits) (m : List Host.Cell) (a v n i : Nat) : memBit (putBytes l m a v n) i =
    if (8 * a ≤ i ∧ i < 8 * (a + n)) ∧ l.open (i / 8) = true then v.testBit (i - 8 * a) else memBit m i := by
  have hin : (a ≤ i / 8 ∧ i / 8 < a + n) ↔ 8 * a ≤ i ∧ i < 8 * (a + n) := by omega
  rw [memBit, look_putBytes]
  by_cases h : (8 * a ≤ i ∧ i < 8 * (a + n)) ∧ l.open (i / 8) = true
  · rw [if_pos h, if_pos ⟨hin.2 h.1, h.2⟩, BitVec.toNat_ofNat, Nat.testBit_mod_two_pow, show 256 = 2 ^ 8 from rfl, ← Nat.pow_mul,
      Nat.testBit_div_two_pow]
    have hplace : i % 8 + 8 * (i / 8 - a) = i - 8 * a := by omega
    simp [hplace, Nat.mod_lt]
  · rw [if_neg h, if_neg (fun hc => h ⟨hin.1 hc.1, hc.2⟩)]
    rfl

/-- An element stored: its bits where a store may reach, and every other bit as before. -/
theorem memBit_putElem (l : Limits) (m : List Host.Cell) (base bits k v i : Nat) : memBit (putElem l m base bits k v) i =
    if (8 * base + k * bits ≤ i ∧ i < 8 * base + k * bits + bits) ∧ l.open (i / 8) = true then
      v.testBit (i - (8 * base + k * bits)) else memBit m i := by
  rw [putElem]
  split
  · next hwhole =>
    obtain ⟨nb, rfl⟩ : ∃ nb, bits = 8 * nb := ⟨bits / 8, by omega⟩
    have hsize : 8 * nb / 8 = nb := Nat.mul_div_cancel_left nb (by decide)
    have hplace : 8 * (base + k * nb) = 8 * base + k * (8 * nb) := by ring
    have hend : 8 * (base + k * nb + nb) = 8 * base + k * (8 * nb) + 8 * nb := by ring
    rw [hsize, memBit_putBytes, hplace, hend]
  · have hsplit : 8 * (k * bits / 8) + k * bits % 8 = k * bits := Nat.div_add_mod _ 8
    have hlt : k * bits % 8 < 8 := Nat.mod_lt _ (by decide)
    have hsize : k * bits % 8 + bits ≤ 8 * ceilDiv (k * bits % 8 + bits) 8 := by rw [ceilDiv]; omega
    dsimp only
    generalize ceilDiv (k * bits % 8 + bits) 8 = n at hsize ⊢
    generalize k * bits % 8 = o at hsplit hlt hsize ⊢
    generalize k * bits / 8 = a at hsplit ⊢
    rw [← hsplit, memBit_putBytes, testBit_replace]
    by_cases hopen : l.open (i / 8) = true
    · simp only [hopen, and_true]
      by_cases hin : 8 * (base + a) ≤ i ∧ i < 8 * (base + a + n)
      · have hbits : (o ≤ i - 8 * (base + a) ∧ i - 8 * (base + a) < o + bits) ↔
            8 * base + (8 * a + o) ≤ i ∧ i < 8 * base + (8 * a + o) + bits := by omega
        have hfrom : i - 8 * (base + a) - o = i - (8 * base + (8 * a + o)) := by omega
        have hback : 8 * (base + a) + (i - 8 * (base + a)) = i := by omega
        have hread : i - 8 * (base + a) < 8 * n := by omega
        rw [if_pos hin, hfrom, testBit_readLE, hback]
        simp only [hbits, hread, decide_true, Bool.true_and]
      · rw [if_neg hin, if_neg (by omega)]
    · rw [if_neg (fun hc => hopen hc.2), if_neg (fun hc => hopen hc.2)]

theorem testBit_elemRaw (m : List Host.Cell) (base : Nat) {bits : Nat} (hbits : bits ≤ 33) (k j : Nat) :
    (elemRaw m base bits k).testBit j = (decide (j < bits) && memBit m (8 * base + k * bits + j)) := by
  have hsplit : 8 * (k * bits / 8) + k * bits % 8 = k * bits := Nat.div_add_mod _ 8
  have hplace : 8 * (base + k * bits / 8) + (k * bits % 8 + j) = 8 * base + k * bits + j := by omega
  rw [elemRaw, testBit_bitsOf, testBit_readLE, hplace]
  by_cases hj : j < bits
  · have hread : k * bits % 8 + j < 8 * 5 := by omega
    simp [hj, hread]
  · simp [hj]

/-! ### Runs -/

/-- A byte of a run that may be stored holds bits of it alone. -/
theorem memBit_putRun (l : Limits) (m : List Host.Cell) (base fmt n : Nat) (f : Nat → Int) {k j : Nat} (hj : j < fmtBits fmt)
    (hopen : l.open (base + (k * fmtBits fmt + j) / 8) = true) :
    memBit (putRun l base fmt f n m) (8 * base + k * fmtBits fmt + j) =
      if k < n then (ofSigned (fmtBits fmt) (f k)).testBit j else memBit m (8 * base + k * fmtBits fmt + j) := by
  have hbyte : (8 * base + k * fmtBits fmt + j) / 8 = base + (k * fmtBits fmt + j) / 8 := by omega
  induction n with
  | zero => rfl
  | succ n ih =>
    rw [putRun, memBit_putElem, hbyte, ih]
    obtain hlt | rfl | hgt := Nat.lt_trichotomy k n
    · have := Nat.mul_le_mul_right (fmtBits fmt) (Nat.succ_le_of_lt hlt)
      rw [Nat.succ_mul] at this
      rw [if_neg (fun hc => by omega), if_pos hlt, if_pos (Nat.lt_succ_of_lt hlt)]
    · rw [if_pos ⟨⟨Nat.le_add_right _ _, by omega⟩, hopen⟩, if_pos (Nat.lt_succ_self k), Nat.add_sub_cancel_left]
    · have := Nat.mul_le_mul_right (fmtBits fmt) (Nat.succ_le_of_lt hgt)
      rw [Nat.succ_mul] at this
      rw [if_neg (fun hc => by omega), if_neg (by omega), if_neg (by omega)]

theorem fmtBits_le (fmt : Nat) : fmtBits fmt ≤ 32 := by
  unfold fmtBits
  split <;> decide

/-- An element of a run that may be stored reads back as it was stored, whatever its format. -/
theorem elemRaw_putRun {l : Limits} {m : List Host.Cell} {base fmt n k : Nat} {f : Nat → Int} (hk : k < n)
    (hopen : ∀ j < (n * fmtBits fmt + 7) / 8, l.open (base + j) = true) :
    elemRaw (putRun l base fmt f n m) base (fmtBits fmt) k = ofSigned (fmtBits fmt) (f k) := by
  have hrow := Nat.mul_le_mul_right (fmtBits fmt) (Nat.succ_le_of_lt hk)
  rw [Nat.succ_mul] at hrow
  apply Nat.eq_of_testBit_eq
  intro j
  rw [testBit_elemRaw _ _ (Nat.le_succ_of_le (fmtBits_le fmt))]
  by_cases hj : j < fmtBits fmt
  · rw [memBit_putRun _ _ _ _ _ _ hj (hopen _ (by omega)), if_pos hk]
    simp [hj]
  · rw [testBit_of_lt (ofSigned_lt _ _) (Nat.not_lt.1 hj)]
    simp [hj]

/-- The value of an element of a run that has been stored. -/
theorem el_putRun {l : Limits} {m : List Host.Cell} {D : Desc} {n k : Nat} {f : Nat → Int} (hk : k < n)
    (hopen : ∀ j < (n * fmtBits D.fmt + 7) / 8, l.open (D.row 0 + j) = true) :
    D.el (putRun l (D.row 0) D.fmt f n m) 0 k = elemVal D.fmt (ofSigned (fmtBits D.fmt) (f k)) := by
  rw [Desc.el, elemRaw_putRun hk hopen]

/-! ### Values and their limits (3.4) -/

theorem ofSigned_of_nonneg {n : Nat} {v : Int} (h0 : 0 ≤ v) (h1 : v < (2 ^ n : Nat)) : (ofSigned n v : Int) = v := by
  rw [ofSigned_cast, Int.emod_eq_of_lt h0 h1]

/-- An integer of `n` bits of two's complement reads back. -/
theorem toSigned_ofSigned {n : Nat} (hn : n ≠ 0) {v : Int} (h0 : -(2 ^ (n - 1) : Nat) ≤ v) (h1 : v < (2 ^ (n - 1) : Nat)) :
    toSigned n (ofSigned n v) = v := by
  have hpow : 2 ^ n = 2 * 2 ^ (n - 1) := by rw [← Nat.pow_succ', Nat.succ_eq_add_one, Nat.sub_add_cancel (Nat.pos_of_ne_zero hn)]
  have hcut := ofSigned_cast n v
  have hlt := ofSigned_lt n v
  rw [toSigned, Nat.mod_eq_of_lt hlt, hpow] at *
  generalize 2 ^ (n - 1) = p at *
  by_cases hv : 0 ≤ v
  · rw [Int.emod_eq_of_lt hv (by push_cast; omega)] at hcut
    rw [if_pos (by omega), hcut]
  · have hshift : v % (2 * p : Nat) = v + (2 * p : Nat) := by
      rw [← Int.add_emod_right, Int.emod_eq_of_lt (by push_cast; omega) (by push_cast; omega)]
    rw [hshift] at hcut
    rw [if_neg (by omega), hcut]
    ring

/-- SAT_F of the formats of whole values. -/
theorem satF_eq {fmt : Nat} (h : fmt ≤ 2) (v : Int) : satF fmt v =
    max (if fmt = 1 then -32768 else 0) (min (if fmt = 0 then 65535 else if fmt = 1 then 32767 else 255) v) := by
  obtain rfl | rfl | rfl : fmt = 0 ∨ fmt = 1 ∨ fmt = 2 := by omega
  · exact clampInt_eq (by decide) v
  · exact clampInt_eq (by decide) v
  · exact clampInt_eq (by decide) v

/-- A value limited to its format is stored as it is. -/
theorem elemVal_satF {fmt : Nat} (h : fmt ≤ 2) (v : Int) : elemVal fmt (ofSigned (fmtBits fmt) (satF fmt v)) = satF fmt v := by
  have hlim := satF_eq h v
  obtain rfl | rfl | rfl : fmt = 0 ∨ fmt = 1 ∨ fmt = 2 := by omega
  · exact ofSigned_of_nonneg (by rw [hlim]; exact le_max_left _ _) (by rw [hlim]; norm_num [fmtBits])
  · exact toSigned_ofSigned (by decide) (by rw [hlim]; exact le_max_left _ _) (by rw [hlim]; norm_num [fmtBits])
  · exact ofSigned_of_nonneg (by rw [hlim]; exact le_max_left _ _) (by rw [hlim]; norm_num [fmtBits])

/-- RND takes the nearest integer, halves toward plus infinity. -/
theorem rnd_nearest (v : Int) (k : Nat) : 2 * (2 ^ k * rnd v k - v) ≤ 2 ^ k ∧ -(2 ^ k : Int) < 2 * (2 ^ k * rnd v k - v) := by
  rw [rnd]
  cases k with
  | zero => simp
  | succ k =>
    have hpow : (2 : Int) ^ (k + 1) = 2 * 2 ^ k := pow_succ' 2 k
    have hpos : (0 : Int) < 2 ^ k := by positivity
    rw [if_neg (Nat.succ_ne_zero k), Nat.succ_sub_one, hpow]
    have hdiv := Int.mul_ediv_add_emod (v + 2 ^ k) (2 * 2 ^ k)
    have h0 := Int.emod_nonneg (v + 2 ^ k) (b := 2 * 2 ^ k) (by omega)
    have h1 := Int.emod_lt_of_pos (v + 2 ^ k) (b := 2 * 2 ^ k) (by omega)
    omega

end Sys2Proof.Machine
end

section
/-! SUPPORT. An instruction of the tiles that enters an idle queue has its effect at once (R70, R71, R81). -/

namespace Sys2Proof.Machine

/-! ### The entry of an idle queue -/

theorem storesSound_of_clean {x : Engine} (h : x.errs = []) : x.storesSound = true := by
  rw [Engine.storesSound, Engine.lostWords, h]
  rfl

/-- With no copy in progress and no word in error nothing holds an entry back. -/
theorem free_of_idle {x : Engine} (hcopies : x.copies = []) (herrs : x.errs = []) (q : QEntry) : x.free q = true := by
  have hbad (r : List (Nat × Nat)) : x.badScr r = false := by
    rw [Engine.badScr, Engine.lostWords, herrs]
    rfl
  rw [Engine.free, hcopies, hbad]
  simp

theorem enqueue_of_idle {s : State} {e : Nat} (i : Instr) (hqueue : (s.eng e).queue = []) (hcopies : (s.eng e).copies = [])
    (herrs : (s.eng e).errs = []) {t : State}
    (ht : (s.setEng e ((s.eng e).entered i s.count)).applyEntry e ((s.eng e).entry i s.count) = t) :
    s.enqueue e i = t.setEng e ((t.eng e).markApplied (s.eng e).nextSeq) := by
  have heng : (s.setEng e ((s.eng e).entered i s.count)).eng e = (s.eng e).entered i s.count := by
    rw [State.setEng_get_eng, if_pos rfl]
  have hready : ((s.eng e).entered i s.count).storesSound && ((s.eng e).entered i s.count).free ((s.eng e).entry i s.count) := by
    rw [storesSound_of_clean (x := (s.eng e).entered i s.count) herrs,
      free_of_idle (x := (s.eng e).entered i s.count) hcopies herrs]
    rfl
  have hwaits : ¬ ((s.eng e).entry i s.count).applied = true := Bool.false_ne_true
  rw [enqueue_eq, hqueue, List.nil_append, State.applyReady, heng, if_neg hwaits, if_pos hready, ht, State.applyReady]
  rfl

/-- The bounds of the constant region are the image's. -/
theorem limits_setEng {s : State} {e : Nat} {y : Engine} (h0 : y.bank0 = (s.eng e).bank0) (h1 : y.bank1 = (s.eng e).bank1) :
    (s.setEng e y).limits e = s.limits e := by
  have hword (i : Nat) : (s.setEng e y).imgWord e i = s.imgWord e i := by
    rw [State.imgWord, State.imgWord, State.setEng_get_eng, if_pos rfl, h0, h1, State.setEng_get_bit]
  rw [State.limits, State.limits, State.constBase, State.constBase, State.constSize, State.constSize, hword]

/-- The effect on the engine that the instruction has entered is that on the engine before. -/
theorem tileEffect_entered (s : State) (e : Nat) (i : Instr) (q : QEntry) :
    tileEffect ((s.setEng e ((s.eng e).entered i s.count)).limits e) q ((s.eng e).entered i s.count) =
      (tileEffect (s.limits e) q (s.eng e)).onto ((s.eng e).entered i s.count) := by
  rw [limits_setEng (y := (s.eng e).entered i s.count) rfl rfl]
  exact tileEffect_withStores _ q ((s.eng e).entered i s.count) (s.eng e)

/-! ### What an effect counts -/

theorem countTile_fmt (s : State) (e : Nat) (q : QEntry) (l : Limits) (o : TileOut) :
    (s.countTile e q l o).rf (Rf.ENG_TILE_FMT_VIOL e) =
      min (s.rf (Rf.ENG_TILE_FMT_VIOL e) + o.fmt) (2 ^ (Rf.ENG_TILE_FMT_VIOL e).width - 1) := by
  have hviol : (Rf.ENG_TILE_FMT_VIOL e).key ≠ (Rf.ENG_CLAMP_SCR_VIOL e).key := by
    simp only [Fld.key, Rf.ENG_TILE_FMT_VIOL, Rf.ENG_CLAMP_SCR_VIOL]; omega
  have hdpr : (Rf.ENG_TILE_FMT_VIOL e).key ≠ (Rf.ENG_TILE_DPR_MISS e).key := by
    simp only [Fld.key, Rf.ENG_TILE_FMT_VIOL, Rf.ENG_TILE_DPR_MISS]; omega
  have hcap : (Rf.ENG_TILE_FMT_VIOL e).key ≠ (Rf.ENG_TILE_CAP_CNT e).key := by
    simp only [Fld.key, Rf.ENG_TILE_FMT_VIOL, Rf.ENG_TILE_CAP_CNT]; omega
  rw [State.countTile, rf_bump _ _ _ _ hviol, rf_bump _ _ _ _ hdpr, rf_bump_self]
  split
  · rw [rf_bump _ _ _ _ hcap]
  · rfl

theorem countTile_dpr (s : State) (e : Nat) (q : QEntry) (l : Limits) (o : TileOut) :
    (s.countTile e q l o).rf (Rf.ENG_TILE_DPR_MISS e) =
      min (s.rf (Rf.ENG_TILE_DPR_MISS e) + o.dpr) (2 ^ (Rf.ENG_TILE_DPR_MISS e).width - 1) := by
  have hviol : (Rf.ENG_TILE_DPR_MISS e).key ≠ (Rf.ENG_CLAMP_SCR_VIOL e).key := by
    simp only [Fld.key, Rf.ENG_TILE_DPR_MISS, Rf.ENG_CLAMP_SCR_VIOL]; omega
  have hfmt : (Rf.ENG_TILE_DPR_MISS e).key ≠ (Rf.ENG_TILE_FMT_VIOL e).key := by
    simp only [Fld.key, Rf.ENG_TILE_DPR_MISS, Rf.ENG_TILE_FMT_VIOL]; omega
  have hcap : (Rf.ENG_TILE_DPR_MISS e).key ≠ (Rf.ENG_TILE_CAP_CNT e).key := by
    simp only [Fld.key, Rf.ENG_TILE_DPR_MISS, Rf.ENG_TILE_CAP_CNT]; omega
  rw [State.countTile, rf_bump _ _ _ _ hviol, rf_bump_self, rf_bump _ _ _ _ hfmt]
  split
  · rw [rf_bump _ _ _ _ hcap]
  · rfl

/-! ### The state after the entry -/

/-- R81 accepts the instruction: the stores are those of its effect, and what it counts is counted. -/
theorem enqueue_of_accepted {s : State} {e : Nat} {i : Instr} (hqueue : (s.eng e).queue = []) (hcopies : (s.eng e).copies = [])
    (herrs : (s.eng e).errs = []) {q : QEntry} (hq : (s.eng e).entry i s.count = q) (hon : q.on = true)
    (hcrop : q.waitingCgat = false) (hacc : q.accepted (s.eng e).scratch = true) :
    ((s.enqueue e i).eng e).withStores (tileEffect (s.limits e) q (s.eng e)).x = (s.enqueue e i).eng e ∧
      ∀ p ∈ [(Rf.ENG_TILE_FMT_VIOL e, (tileEffect (s.limits e) q (s.eng e)).fmt),
          (Rf.ENG_TILE_DPR_MISS e, (tileEffect (s.limits e) q (s.eng e)).dpr)],
        (s.enqueue e i).rf p.1 = min (s.rf p.1 + p.2) (2 ^ p.1.width - 1) := by
  have heng : (s.setEng e ((s.eng e).entered i s.count)).eng e = (s.eng e).entered i s.count := by
    rw [State.setEng_get_eng, if_pos rfl]
  have happ : q.applied = false := hq ▸ rfl
  have heffect := applyEntry_eq (s := s.setEng e ((s.eng e).entered i s.count)) (e := e) hon happ hcrop
  rw [heng, if_pos (show q.accepted ((s.eng e).entered i s.count).scratch = true from hacc), tileEffect_entered, ← hq] at heffect
  rw [enqueue_of_idle i hqueue hcopies herrs heffect, hq]
  generalize tileEffect (s.limits e) q (s.eng e) = o
  refine ⟨?_, ?_⟩
  · rw [State.setEng_get_eng, if_pos rfl, countTile_eng, State.setEng_get_eng, if_pos rfl]
    rfl
  · simp only [List.forall_mem_cons, List.not_mem_nil, false_implies, implies_true, and_true]
    exact ⟨countTile_fmt _ e q _ _, countTile_dpr _ e q _ _⟩

/-- R81 does not accept it: the stores stay, and the violation is counted. -/
theorem enqueue_of_refused {s : State} {e : Nat} {i : Instr} (hqueue : (s.eng e).queue = []) (hcopies : (s.eng e).copies = [])
    (herrs : (s.eng e).errs = []) {q : QEntry} (hq : (s.eng e).entry i s.count = q) (hon : q.on = true)
    (hcrop : q.waitingCgat = false) (hacc : q.accepted (s.eng e).scratch = false) :
    ((s.enqueue e i).eng e).withStores (s.eng e) = (s.enqueue e i).eng e ∧
      Counted (Rf.ENG_TILE_FMT_VIOL e) s (s.enqueue e i) := by
  have heng : (s.setEng e ((s.eng e).entered i s.count)).eng e = (s.eng e).entered i s.count := by
    rw [State.setEng_get_eng, if_pos rfl]
  have happ : q.applied = false := hq ▸ rfl
  have heffect := applyEntry_eq (s := s.setEng e ((s.eng e).entered i s.count)) (e := e) hon happ hcrop
  rw [heng, if_neg (by rw [show ((s.eng e).entered i s.count).scratch = (s.eng e).scratch from rfl, hacc]; simp), ← hq] at heffect
  rw [enqueue_of_idle i hqueue hcopies herrs heffect]
  refine ⟨?_, rf_bump_self _ _ _⟩
  rw [State.setEng_get_eng, if_pos rfl, bump_eng, State.setEng_get_eng, if_pos rfl]
  rfl

end Sys2Proof.Machine
end

section
/-! SUPPORT. The exact results of the instructions of the tiles that write a run, element by element (3.4 to 3.5.5 and 3.5.9): each
element's rule of the model as the spec's formula. -/

namespace Sys2Proof.Machine

/-! ### Elements of the output run -/

/-- The effect of the entry writes the values `g`, each limited to the format, as the elements of one run. -/
def WritesRun (l : Limits) (q : QEntry) (x : Engine) (d : BitVec 4) (g : Nat → Int) : Prop :=
  (tileEffect l q x).x.scratch =
    putRun l ((q.d d).row 0) (q.d d).fmt (fun k => satF (q.d d).fmt (g k)) q.n x.scratch

/-- What the rule of its instruction says of an entry, said of the entry. -/
theorem WritesRun.of_instr {l : Limits} {q : QEntry} {x : Engine} {d : BitVec 4} {g : Nat → Int} {i : Instr} (hi : q.i = i)
    (h : WritesRun l { q with i := i } x d g) : WritesRun l q x d g := by
  subst hi
  exact h

/-- Element `k` of the run holds its value, limited and cut to the format. -/
theorem WritesRun.el_raw {l : Limits} {q : QEntry} {x : Engine} {d : BitVec 4} {g : Nat → Int} (h : WritesRun l q x d g)
    (hopen : ∀ j < (q.n * fmtBits (q.d d).fmt + 7) / 8, l.open ((q.d d).row 0 + j) = true) {k : Nat} (hk : k < q.n) :
    (q.d d).el (tileEffect l q x).x.scratch 0 k =
      elemVal (q.d d).fmt (ofSigned (fmtBits (q.d d).fmt) (satF (q.d d).fmt (g k))) := by
  rw [WritesRun] at h
  rw [h]
  exact el_putRun hk hopen

/-- In the formats of whole values it holds its value limited to the format. -/
theorem WritesRun.el {l : Limits} {q : QEntry} {x : Engine} {d : BitVec 4} {g : Nat → Int} (h : WritesRun l q x d g)
    (hfmt : (q.d d).fmt ≤ 2) (hopen : ∀ j < (q.n * fmtBits (q.d d).fmt + 7) / 8, l.open ((q.d d).row 0 + j) = true) {k : Nat}
    (hk : k < q.n) : (q.d d).el (tileEffect l q x).x.scratch 0 k = satF (q.d d).fmt (g k) :=
  (h.el_raw hopen hk).trans (elemVal_satF hfmt _)

/-! ### Parameters and sums -/

theorem clampLoHi_eq (a lo hi : Int) : clampLoHi a lo hi = if hi < lo then hi else max lo (min hi a) := by
  rw [clampLoHi]
  split <;> omega

theorem sumI_eq (f : Nat → Int) (n : Nat) : sumI f n = ∑ i ∈ Finset.range n, f i := by
  induction n with
  | zero => rfl
  | succ n ih => rw [sumI, List.range_succ, List.foldl_append, Finset.sum_range_succ, ← ih]; rfl

/-- A column limited to those of a run. -/
theorem clampCol_eq {n : Nat} (hn : 0 < n) (c : Int) : clampCol c n = (max 0 (min ((n : Int) - 1) c)).toNat := by
  have hlast : ((n - 1 : Nat) : Int) = (n : Int) - 1 := by omega
  rw [clampCol, hlast, clampInt_eq (by omega)]

/-- A kernel's sum over the elements it takes (R88). -/
theorem kernel_eq (m : List Host.Cell) (a taps : Nat) {at' f : Nat → Int} (h : ∀ j < taps, at' j = f j) :
    kernel m a taps at' = rnd (∑ j ∈ Finset.range taps, toSigned 16 (readLE m (a + 2 * j) 2) * f j)
      (readLE m (a + 50) 1 % 16) + toSigned 16 (readLE m (a + 52) 2) := by
  have hsum : sumI (fun i => coef m a i * at' i) taps = ∑ j ∈ Finset.range taps, coef m a j * f j :=
    (sumI_eq _ _).trans (Finset.sum_congr rfl (fun j hj => by rw [h j (Finset.mem_range.1 hj)]))
  rw [kernel, hsum]
  rfl

/-- Resampling at a position (R89). -/
theorem rsEl_eq (m : List Host.Cell) (a taps len : Nat) (src : Nat → Int) (j : Nat) : rsEl m a taps len src j =
    rnd (∑ i ∈ Finset.range taps, toSigned 16 (readLE m (a + 64 + 16 * (rsPos m a j / 2 ^ 26 % 64) + 2 * i) 2) *
      src (max 0 (min (((len + 1 : Nat) : Int) - 1) (toSigned 64 (rsPos m a j) / 2 ^ 32 - (taps / 2 : Nat) + 1 + i))).toNat) 14 := by
  rw [rsEl, sumI_eq]
  simp only [clampCol_eq (Nat.succ_pos len)]
  rfl

/-! ### Intake correction (R90, R92) and scores (R94) -/

theorem flatEl_eq (a b gs : Nat) :
    flatEl a b gs = rnd (max ((a : Int) - (b % 2 ^ 16 : Nat)) 0 * (b / 2 ^ 16 : Nat)) gs := by
  have hdark : ((a - b % 65536 : Nat) : Int) = max ((a : Int) - (b % 2 ^ 16 : Nat)) 0 := by omega
  have hgain : ((b / 2 ^ 16 : Nat) : Int) = (b : Int) / 65536 := Int.natCast_ediv b 65536
  rw [flatEl, hdark, hgain]

theorem xmrgEl_eq (a s ratio satlo bw os : Nat) : xmrgEl a s ratio satlo bw os =
    if satlo ≤ s then 0xFFFF
    else if a < satlo then rnd (a * 256) (8 + os)
    else if satlo + 2 ^ bw ≤ a then rnd (s * ratio) (8 + os)
    else rnd (rnd (a * 256 * (2 ^ bw - ((a : Int) - satlo)) + s * ratio * ((a : Int) - satlo)) bw) (8 + os) := by
  rw [xmrgEl]
  dsimp only
  split
  · rfl
  · split
    · rfl
    · next hlow =>
      have hover : ((a - satlo : Nat) : Int) = (a : Int) - satlo := by omega
      rw [hover]

/-! ### Map chains (R86) -/

theorem badStep_eq {w : Nat} (hw : w < 2 ^ 64) (ben : Bool) : badStep w ben =
    decide (10 < w % 2 ^ 8 ∨ w / 2 ^ 14 % 4 ≠ 0 ∨ w / 2 ^ 48 ≠ 0 ∨ ((w % 2 ^ 8 = 7 ∨ w % 2 ^ 8 = 8) ∧ ben = false)) := by
  have hop : bitsOf w 0 8 = w % 2 ^ 8 := by rw [bitsOf, Nat.pow_zero, Nat.div_one]
  have hhigh : bitsOf w 48 16 = w / 2 ^ 48 := Nat.mod_eq_of_lt (by omega)
  rw [badStep, hop, hhigh, bitsOf]
  simp only [Bool.decide_or, Bool.decide_and, Bool.or_assoc]
  cases ben <;> rfl

theorem mapStep_eq (w : Nat) (v b : Int) : mapStep w v b =
    [v, v + toSigned 32 (w / 2 ^ 16 % 2 ^ 32), rnd (v * toSigned 32 (w / 2 ^ 16 % 2 ^ 32)) (w / 2 ^ 8 % 2 ^ 6),
      min v (toSigned 32 (w / 2 ^ 16 % 2 ^ 32)), max v (toSigned 32 (w / 2 ^ 16 % 2 ^ 32)), rnd v (w / 2 ^ 8 % 2 ^ 6),
      v * 2 ^ (w / 2 ^ 8 % 2 ^ 6), v + b, rnd (v * b) (w / 2 ^ 8 % 2 ^ 6), |v|, -v].getD (w % 2 ^ 8) v := by
  have hop : bitsOf w 0 8 = w % 2 ^ 8 := by rw [bitsOf, Nat.pow_zero, Nat.div_one]
  have habs : (if v < 0 then -v else v) = |v| := by
    split
    · next h => exact (abs_of_neg h).symm
    · next h => exact (abs_of_nonneg (Int.not_lt.1 h)).symm
  rw [mapStep, hop, sParam, bitsOf, bitsOf, habs]
  generalize w % 2 ^ 8 = op
  match op with
  | 0 | 1 | 2 | 3 | 4 | 5 | 6 | 7 | 8 | 9 | 10 => rfl
  | n + 11 => simp

/-- Whether a step ends the chain: END, or a step that acts as END for a fault of its own. -/
def mapEnds (ben : Bool) (w : Nat) : Bool := decide (w % 2 ^ 8 = 0) || badStep w ben

theorem mapRun_cons (ben : Bool) (b v : Int) (w : Nat) (ws : List Nat) : mapRun ben b (w :: ws) v =
    if mapEnds ben w then v else mapRun ben b ws (max (-2 ^ 47) (min (2 ^ 47 - 1) (mapStep w v b))) := by
  have hop : bitsOf w 0 8 = w % 2 ^ 8 := by rw [bitsOf, Nat.pow_zero, Nat.div_one]
  have hlim : lim47 (mapStep w v b) = max (-2 ^ 47) (min (2 ^ 47 - 1) (mapStep w v b)) := clampInt_eq (by decide) _
  rw [mapRun, hop, hlim, mapEnds]

/-- No step before step `j` ends the chain. -/
def mapLive (ben : Bool) (W : Nat → Nat) (j : Nat) : Bool := (List.range j).all (fun r => !mapEnds ben (W r))

theorem mapLive_succ (ben : Bool) (W : Nat → Nat) (j : Nat) :
    mapLive ben W (j + 1) = (mapLive ben W j && !mapEnds ben (W j)) := by
  rw [mapLive, List.range_succ, List.all_append]
  simp [mapLive]

/-- The values a chain takes: each from the one before it while the chain is live. -/
def MapValues (ben : Bool) (b : Int) (W : Nat → Nat) (V : Nat → Int) (st : Nat) : Prop :=
  ∀ j ≤ st, V (j + 1) =
    if mapLive ben W (j + 1) then max (-2 ^ 47) (min (2 ^ 47 - 1) (mapStep (W j) (V j) b)) else V j

/-- A chain that has ended keeps its value. -/
theorem MapValues.ended {ben : Bool} {b : Int} {W : Nat → Nat} {V : Nat → Int} {st j : Nat} (h : MapValues ben b W V st)
    (hend : mapLive ben W j = false) {k : Nat} (hk : j + k ≤ st + 1) : V (j + k) = V j ∧ mapLive ben W (j + k) = false := by
  induction k with
  | zero => exact ⟨rfl, hend⟩
  | succ k ih =>
    obtain ⟨hv, hlive⟩ := ih (by omega)
    have hdead : mapLive ben W (j + k + 1) = false := by rw [mapLive_succ, hlive]; rfl
    refine ⟨?_, hdead⟩
    rw [← Nat.add_assoc, h (j + k) (by omega), hdead, ← hv]
    rfl

theorem mapRun_eq {ben : Bool} {b : Int} {W : Nat → Nat} {V : Nat → Int} {st : Nat} (h : MapValues ben b W V st) (n j : Nat)
    (hn : j + n = st + 1) (hlive : mapLive ben W j = true) : mapRun ben b ((List.range' j n).map W) (V j) = V (j + n) := by
  induction n generalizing j with
  | zero => rfl
  | succ n ih =>
    have hcount : j + (n + 1) = j + 1 + n := by omega
    rw [List.range'_succ, List.map_cons, mapRun_cons, hcount]
    have hstep := h j (by omega)
    rw [mapLive_succ, hlive, Bool.true_and] at hstep
    cases hend : mapEnds ben (W j)
    · rw [hend, Bool.not_false, if_pos rfl] at hstep
      have hnext : mapLive ben W (j + 1) = true := by rw [mapLive_succ, hlive, hend]; rfl
      have hrest := ih (j + 1) (by omega) hnext
      rw [hstep] at hrest
      rw [if_neg Bool.false_ne_true]
      exact hrest
    · rw [hend, Bool.not_true, if_neg Bool.false_ne_true] at hstep
      have hdead : mapLive ben W (j + 1) = false := by rw [mapLive_succ, hlive, hend]; rfl
      have hkept := (h.ended hdead (k := n) (by omega)).1
      rw [if_pos rfl]
      exact (hkept.trans hstep).symm

/-- The chain reaches a faulty step where one stands that no earlier step ends it before. -/
theorem mapBad_eq (ben : Bool) (W : Nat → Nat) (n j : Nat) (hlive : mapLive ben W j = true) :
    mapBad ben ((List.range' j n).map W) =
      (List.range' j n).any (fun r => mapLive ben W r && badStep (W r) ben) := by
  induction n generalizing j with
  | zero => rfl
  | succ n ih =>
    have hop : bitsOf (W j) 0 8 = W j % 2 ^ 8 := by rw [bitsOf, Nat.pow_zero, Nat.div_one]
    rw [List.range'_succ, List.map_cons, mapBad, List.any_cons, hlive, hop]
    cases hbad : badStep (W j) ben
    · by_cases hend : W j % 2 ^ 8 = 0
      · have hdead (r : Nat) : mapLive ben W (j + 1 + r) = false := by
          induction r with
          | zero => rw [Nat.add_zero, mapLive_succ, mapEnds, hend]; simp
          | succ r ihr => rw [← Nat.add_assoc, mapLive_succ, ihr]; rfl
        have hnone : (List.range' (j + 1) n).any (fun r => mapLive ben W r && badStep (W r) ben) = false := by
          rw [List.any_eq_false]
          intro r hr
          obtain ⟨k, -, rfl⟩ := List.mem_range'.1 hr
          rw [Nat.one_mul, hdead]
          simp
        rw [hnone, if_neg Bool.false_ne_true, if_pos hend]
        rfl
      · have hnext : mapLive ben W (j + 1) = true := by rw [mapLive_succ, hlive, mapEnds, hbad, decide_eq_false hend]; rfl
        rw [if_neg Bool.false_ne_true, if_neg hend, ih (j + 1) hnext]
        rfl
    · rfl

/-! ### Defect pixels (R91) -/

/-- The column `r` places to one side. -/
def sideCol (x : Nat) (left : Bool) (r : Nat) : Nat := if left then x - r else x + r

/-- A column of the run stands there, and it is unmarked. -/
def sideGood (bad : Nat → Bool) (n x : Nat) (left : Bool) (r : Nat) : Bool :=
  (if left then decide (r ≤ x) else decide (x + r < n)) && !bad (sideCol x left r)

theorem nearGood_succ (a : Nat → Int) (bad : Nat → Bool) (n x : Nat) (left : Bool) (f k : Nat) :
    nearGood a bad n x left (f + 1) k =
      if sideGood bad n x left k then some (a (sideCol x left k)) else nearGood a bad n x left f (k + 1) := rfl

/-- The search finds the first unmarked column. -/
theorem nearGood_of_first {a : Nat → Int} {bad : Nat → Bool} {n x : Nat} {left : Bool} {f k r : Nat} (hk : k ≤ r)
    (hr : r < k + f) (hgood : sideGood bad n x left r = true) (hfirst : ∀ j, k ≤ j → j < r → sideGood bad n x left j = false) :
    nearGood a bad n x left f k = some (a (sideCol x left r)) := by
  induction f generalizing k with
  | zero => omega
  | succ f ih =>
    rw [nearGood_succ]
    obtain rfl | hlt := Nat.eq_or_lt_of_le hk
    · rw [if_pos hgood]
    · rw [hfirst k (Nat.le_refl k) hlt, if_neg Bool.false_ne_true]
      exact ih hlt (by omega) (fun j hj => hfirst j (by omega))

theorem nearGood_eq_none_iff {a : Nat → Int} {bad : Nat → Bool} {n x : Nat} {left : Bool} {f k : Nat} :
    nearGood a bad n x left f k = none ↔ ∀ r, k ≤ r → r < k + f → sideGood bad n x left r = false := by
  induction f generalizing k with
  | zero => exact ⟨fun _ r _ _ => by omega, fun _ => rfl⟩
  | succ f ih =>
    rw [nearGood_succ]
    cases hg : sideGood bad n x left k
    · rw [if_neg Bool.false_ne_true, ih]
      refine ⟨fun h r hk hr => ?_, fun h r hk hr => h r (by omega) (by omega)⟩
      obtain rfl | hlt := Nat.eq_or_lt_of_le hk
      · exact hg
      · exact h r hlt (by omega)
    · rw [if_pos rfl]
      exact ⟨fun h => (nomatch h), fun h => by rw [h k (Nat.le_refl k) (by omega)] at hg; cases hg⟩

/-- A pixel is left as it is for want of an unmarked neighbour on either side. -/
theorem dprEl_snd (a : Nat → Int) (bad : Nat → Bool) (n rad x : Nat) : (dprEl a bad n rad x).2 =
    (bad x && (nearGood a bad n x true rad 1).isNone && (nearGood a bad n x false rad 1).isNone) := by
  rw [dprEl]
  cases bad x
  · rfl
  · cases nearGood a bad n x true rad 1 <;> cases nearGood a bad n x false rad 1 <;> rfl

/-- A column on the left within the radius, inside the run and unmarked; and one on the right. -/
def LeftFree (b : Nat → Int) (rad i r : Nat) : Prop := 1 ≤ r ∧ r ≤ rad ∧ r ≤ i ∧ b (i - r) ≠ 1
def RightFree (b : Nat → Int) (n rad i r : Nat) : Prop := 1 ≤ r ∧ r ≤ rad ∧ i + r < n ∧ b (i + r) ≠ 1

section
variable {a b : Nat → Int} {n rad i : Nat}

theorem leftFree_iff {r : Nat} : LeftFree b rad i r ↔
    1 ≤ r ∧ r < 1 + rad ∧ sideGood (fun c => decide (b c = 1)) n i true r = true := by
  rw [LeftFree, sideGood, sideCol, if_pos rfl, if_pos rfl]
  simp only [Bool.and_eq_true, Bool.not_eq_true', decide_eq_true_eq, decide_eq_false_iff_not]
  omega

theorem rightFree_iff {r : Nat} : RightFree b n rad i r ↔
    1 ≤ r ∧ r < 1 + rad ∧ sideGood (fun c => decide (b c = 1)) n i false r = true := by
  rw [RightFree, sideGood, sideCol, if_neg Bool.false_ne_true, if_neg Bool.false_ne_true]
  simp only [Bool.and_eq_true, Bool.not_eq_true', decide_eq_true_eq, decide_eq_false_iff_not]
  omega

/-- The search as a predicate of distances: its first distance, or none. -/
theorem nearGood_of_least {left : Bool} {P : Nat → Prop}
    (hP : ∀ {r}, P r ↔ 1 ≤ r ∧ r < 1 + rad ∧ sideGood (fun c => decide (b c = 1)) n i left r = true) {r : Nat}
    (h : P r ∧ ∀ j < r, ¬ P j) : nearGood a (fun c => decide (b c = 1)) n i left rad 1 = some (a (sideCol i left r)) := by
  obtain ⟨h1, hr, hgood⟩ := hP.1 h.1
  refine nearGood_of_first h1 hr hgood (fun j hj hjr => ?_)
  exact Bool.eq_false_iff.2 (fun hc => h.2 j hjr (hP.2 ⟨hj, by omega, hc⟩))

theorem nearGood_of_none {left : Bool} {P : Nat → Prop}
    (hP : ∀ {r}, P r ↔ 1 ≤ r ∧ r < 1 + rad ∧ sideGood (fun c => decide (b c = 1)) n i left r = true) :
    nearGood a (fun c => decide (b c = 1)) n i left rad 1 = none ↔ ∀ r, ¬ P r := by
  rw [nearGood_eq_none_iff]
  refine ⟨fun h r hr => ?_, fun h r h1 hr => Bool.eq_false_iff.2 (fun hc => h r (hP.2 ⟨h1, hr, hc⟩))⟩
  obtain ⟨h1, hrad, hgood⟩ := hP.1 hr
  rw [h r h1 hrad] at hgood
  cases hgood

theorem nearGood_left {r : Nat} (h : LeftFree b rad i r ∧ ∀ j < r, ¬ LeftFree b rad i j) :
    nearGood a (fun c => decide (b c = 1)) n i true rad 1 = some (a (i - r)) :=
  nearGood_of_least (P := LeftFree b rad i) leftFree_iff h

theorem nearGood_right {r : Nat} (h : RightFree b n rad i r ∧ ∀ j < r, ¬ RightFree b n rad i j) :
    nearGood a (fun c => decide (b c = 1)) n i false rad 1 = some (a (i + r)) :=
  nearGood_of_least (P := RightFree b n rad i) rightFree_iff h

theorem nearGood_left_eq_none : nearGood a (fun c => decide (b c = 1)) n i true rad 1 = none ↔ ∀ r, ¬ LeftFree b rad i r :=
  nearGood_of_none leftFree_iff

theorem nearGood_right_eq_none :
    nearGood a (fun c => decide (b c = 1)) n i false rad 1 = none ↔ ∀ r, ¬ RightFree b n rad i r :=
  nearGood_of_none rightFree_iff

theorem dprEl_of_unmarked (h : b i ≠ 1) : (dprEl a (fun c => decide (b c = 1)) n rad i).1 = a i := by
  rw [dprEl, if_neg (by simpa using h)]

theorem dprEl_of_both {r r' : Nat} (h : b i = 1) (hl : LeftFree b rad i r ∧ ∀ j < r, ¬ LeftFree b rad i j)
    (hr : RightFree b n rad i r' ∧ ∀ j < r', ¬ RightFree b n rad i j) :
    (dprEl a (fun c => decide (b c = 1)) n rad i).1 = rnd (a (i - r) + a (i + r')) 1 := by
  rw [dprEl, if_pos (by simpa using h), nearGood_left hl, nearGood_right hr]

theorem dprEl_of_left {r : Nat} (h : b i = 1) (hl : LeftFree b rad i r ∧ ∀ j < r, ¬ LeftFree b rad i j)
    (hr : ∀ r', ¬ RightFree b n rad i r') : (dprEl a (fun c => decide (b c = 1)) n rad i).1 = a (i - r) := by
  rw [dprEl, if_pos (by simpa using h), nearGood_left hl, nearGood_right_eq_none.2 hr]

theorem dprEl_of_right {r : Nat} (h : b i = 1) (hr : RightFree b n rad i r ∧ ∀ j < r, ¬ RightFree b n rad i j)
    (hl : ∀ r', ¬ LeftFree b rad i r') : (dprEl a (fun c => decide (b c = 1)) n rad i).1 = a (i + r) := by
  rw [dprEl, if_pos (by simpa using h), nearGood_right hr, nearGood_left_eq_none.2 hl]

/-- A marked pixel without an unmarked one within the radius. -/
theorem lone_iff : (b i = 1 ∧ ∀ r < rad, (r < i → b (i - (r + 1)) = 1) ∧ (i + (r + 1) < n → b (i + (r + 1)) = 1)) ↔
    b i = 1 ∧ (∀ r, ¬ LeftFree b rad i r) ∧ ∀ r, ¬ RightFree b n rad i r := by
  refine and_congr_right (fun _ => ⟨fun h => ⟨fun r hr => ?_, fun r hr => ?_⟩, fun h r hr => ⟨fun hi => ?_, fun hi => ?_⟩⟩)
  · obtain ⟨h1, hrad, hi, hb⟩ := hr
    have := (h (r - 1) (by omega)).1 (by omega)
    rw [Nat.sub_add_cancel h1] at this
    exact hb this
  · obtain ⟨h1, hrad, hi, hb⟩ := hr
    have := (h (r - 1) (by omega)).2 (by omega)
    rw [Nat.sub_add_cancel h1] at this
    exact hb this
  · exact not_not.1 (fun hb => h.1 (r + 1) ⟨by omega, by omega, by omega, hb⟩)
  · exact not_not.1 (fun hb => h.2 (r + 1) ⟨by omega, by omega, hi, hb⟩)

theorem dprEl_of_lone (h : b i = 1 ∧ (∀ r, ¬ LeftFree b rad i r) ∧ ∀ r, ¬ RightFree b n rad i r) :
    (dprEl a (fun c => decide (b c = 1)) n rad i).1 = a i := by
  obtain ⟨hb, hl, hr⟩ := h
  rw [dprEl, if_pos (by simpa using hb), nearGood_left_eq_none.2 hl, nearGood_right_eq_none.2 hr]

/-- The pixels that dpr counts as left. -/
theorem dprEl_missed : (dprEl a (fun c => decide (b c = 1)) n rad i).2 = decide (b i = 1 ∧
    ∀ r < rad, (r < i → b (i - (r + 1)) = 1) ∧ (i + (r + 1) < n → b (i + (r + 1)) = 1)) := by
  rw [Bool.eq_iff_iff, decide_eq_true_eq, lone_iff, dprEl_snd, ← nearGood_left_eq_none (a := a) (n := n),
    ← nearGood_right_eq_none (a := a)]
  simp only [Bool.and_eq_true, decide_eq_true_eq, Option.isNone_iff_eq_none, and_assoc]

end

/-! ### Colour matrices (R93) -/

theorem cmatEl_eq (m : List Host.Cell) (r c : Nat) (a : Nat → Int) : cmatEl m r c a =
    rnd (∑ k ∈ Finset.range 3, toSigned 16 (readLE m (r + 2 * (3 * c + k)) 2) * a k) 12 +
      toSigned 16 (readLE m (r + 18 + 2 * c) 2) := by
  rw [cmatEl, sumI_eq]
  rfl

/-- A run of 16-bit elements that another run's bytes lie apart from keeps its elements. -/
theorem elemRaw_putRun_apart {l : Limits} {m : List Host.Cell} {base base' n n' k : Nat} (f : Nat → Int) (hk : k < n)
    (h : base + 2 * n ≤ base' ∨ base' + 2 * n' ≤ base) :
    elemRaw (putRun l base' 0 f n' m) base 16 k = elemRaw m base 16 k := by
  have hsize : runBytes 0 n' = 2 * n' := by rw [runBytes_whole (nb := 2) rfl, Nat.mul_comm]
  refine elemRaw_congr (nb := 2) (by decide) (fun i hi => putRun_outside f ?_)
  rw [hsize]
  omega

/-! ### Thresholds (R95) and structuring elements (R96) -/

theorem thrEl_eq (a hi lo : Int) (t : BitVec 2) : thrEl a hi lo t.toNat =
    (let v := if t = 0 then a else max (-32768) (min 32767 (if t = 1 then -a else |a|))
      if hi ≤ v then 2 else if lo ≤ v then 1 else 0) := by
  have hsat (v : Int) : satS16 v = max (-32768) (min 32767 v) := clampInt_eq (by decide) v
  obtain rfl | rfl | rfl | rfl : t = 0 ∨ t = 1 ∨ t = 2 ∨ t = 3 := by revert t; decide
  · rfl
  · show (if hi ≤ satS16 (-a) then 2 else if lo ≤ satS16 (-a) then 1 else 0) = _
    rw [hsat]; rfl
  · show (if hi ≤ satS16 |a| then 2 else if lo ≤ satS16 |a| then 1 else 0) = _
    rw [hsat]; rfl
  · show (if hi ≤ satS16 |a| then 2 else if lo ≤ satS16 |a| then 1 else 0) = _
    rw [hsat]; rfl

/-- The places around a pixel, by row and column. -/
theorem mem_seAround (cross : Bool) (r y : Int) :
    (r, y) ∈ seAround cross ↔ -1 ≤ r ∧ r ≤ 1 ∧ -1 ≤ y ∧ y ≤ 1 ∧ (cross = true → r = 0 ∨ y = 0) := by
  cases cross
  · simp only [seAround, Bool.false_eq_true, if_false, List.mem_cons, List.not_mem_nil, Prod.mk.injEq, or_false, false_implies,
      and_true]
    omega
  · simp only [seAround, if_true, List.mem_cons, List.not_mem_nil, Prod.mk.injEq, or_false, true_implies]
    omega

/-- A pixel of the row around which the element stands. -/
def Around (cross : Bool) (r y : Int) : Prop := -1 ≤ r ∧ r ≤ 1 ∧ -1 ≤ y ∧ y ≤ 1 ∧ (cross = true → r = 0 ∨ y = 0)

/-- Dilation: a set pixel stays, and a clear one is set where a pixel around it is (R96). -/
theorem morphEl_dilate (cross : Bool) (n : Nat) (a : Int → Nat → Int) (x : Nat) :
    (a 0 x ≠ 0 → morphEl false cross n a x = a 0 x) ∧ (a 0 x = 0 →
      ((∃ r y, Around cross r y ∧ 0 ≤ (x : Int) + y ∧ (x : Int) + y < n ∧ a r ((x : Int) + y).toNat ≠ 0) →
        morphEl false cross n a x = 1) ∧
      ((∀ r y, Around cross r y → ¬ (0 ≤ (x : Int) + y ∧ (x : Int) + y < n ∧ a r ((x : Int) + y).toNat ≠ 0)) →
        morphEl false cross n a x = 0)) := by
  have hany : ((seAround cross).any fun p => if (x : Int) + p.2 < 0 ∨ (n : Int) ≤ x + p.2 then false else
      decide (a p.1 ((x : Int) + p.2).toNat ≠ 0)) = true ↔
      ∃ r y, Around cross r y ∧ 0 ≤ (x : Int) + y ∧ (x : Int) + y < n ∧ a r ((x : Int) + y).toNat ≠ 0 := by
    rw [List.any_eq_true]
    refine ⟨fun ⟨p, hp, h⟩ => ?_, fun ⟨r, y, hr, h0, hn, h⟩ => ⟨(r, y), (mem_seAround cross r y).2 hr, ?_⟩⟩
    · split at h
      · cases h
      · exact ⟨p.1, p.2, (mem_seAround cross p.1 p.2).1 hp, by omega, by omega, of_decide_eq_true h⟩
    · rw [if_neg (by dsimp only; omega)]
      exact decide_eq_true h
  refine ⟨fun hset => ?_, fun hclear => ⟨fun h => ?_, fun h => ?_⟩⟩
  · rw [morphEl, if_neg Bool.false_ne_true, if_pos hset]
  · rw [morphEl, if_neg Bool.false_ne_true, if_neg (not_not.2 hclear), if_pos (hany.2 h)]
  · rw [morphEl, if_neg Bool.false_ne_true, if_neg (not_not.2 hclear), if_neg]
    intro hc
    obtain ⟨r, y, hr, h'⟩ := hany.1 hc
    exact h r y hr h'

/-- Erosion: a pixel is cleared where a pixel around it is clear. -/
theorem morphEl_erode (cross : Bool) (n : Nat) (a : Int → Nat → Int) (x : Nat) :
    ((∃ r y, Around cross r y ∧ 0 ≤ (x : Int) + y ∧ (x : Int) + y < n ∧ a r ((x : Int) + y).toNat = 0) →
      morphEl true cross n a x = 0) ∧
    ((∀ r y, Around cross r y → ¬ (0 ≤ (x : Int) + y ∧ (x : Int) + y < n ∧ a r ((x : Int) + y).toNat = 0)) →
      morphEl true cross n a x = a 0 x) := by
  have hall : ((seAround cross).all fun p => if (x : Int) + p.2 < 0 ∨ (n : Int) ≤ x + p.2 then true else
      decide (a p.1 ((x : Int) + p.2).toNat ≠ 0)) = true ↔
      ∀ r y, Around cross r y → ¬ (0 ≤ (x : Int) + y ∧ (x : Int) + y < n ∧ a r ((x : Int) + y).toNat = 0) := by
    rw [List.all_eq_true]
    refine ⟨fun h r y hr hc => ?_, fun h p hp => ?_⟩
    · have := h (r, y) ((mem_seAround cross r y).2 hr)
      rw [if_neg (by dsimp only; omega)] at this
      exact of_decide_eq_true this hc.2.2
    · split
      · rfl
      · exact decide_eq_true (fun hz => h p.1 p.2 ((mem_seAround cross p.1 p.2).1 hp) ⟨by omega, by omega, hz⟩)
  refine ⟨fun ⟨r, y, hr, hc⟩ => ?_, fun h => ?_⟩
  · rw [morphEl, if_pos rfl, if_neg (fun h => hall.1 h r y hr hc)]
  · rw [morphEl, if_pos rfl, if_pos (hall.2 h)]

/-- What morph writes is 0, 1 or the pixel as it was. -/
theorem morphEl_cases (er cross : Bool) (n : Nat) (a : Int → Nat → Int) (x : Nat) :
    morphEl er cross n a x = 0 ∨ morphEl er cross n a x = 1 ∨ morphEl er cross n a x = a 0 x := by
  rw [morphEl]
  dsimp only
  split
  · split
    · exact .inr (.inr rfl)
    · exact .inl rfl
  · split
    · exact .inr (.inr rfl)
    · split
      · exact .inr (.inl rfl)
      · exact .inl rfl

/-- A value of a mask or a class in its format. -/
theorem elemVal_ofSigned_small {fmt : Nat} {v : Int} (h0 : 0 ≤ v) (h : fmt = 6 ∧ v ≤ 1 ∨ fmt = 7 ∧ v ≤ 2) :
    elemVal fmt (ofSigned (fmtBits fmt) v) = v := by
  obtain ⟨rfl, h1⟩ | ⟨rfl, h1⟩ := h
  · exact ofSigned_of_nonneg h0 (by norm_num [fmtBits]; omega)
  · have hraw : (ofSigned (fmtBits 7) v : Int) = v := ofSigned_of_nonneg h0 (by norm_num [fmtBits]; omega)
    rw [elemVal, if_neg (by omega)]
    exact hraw

/-- What a mask or a class reads as. -/
theorem elemVal_small_range {fmt raw : Nat} (h : fmt = 6 ∨ fmt = 7) (hraw : raw < 2 ^ fmtBits fmt) :
    0 ≤ elemVal fmt raw ∧ (fmt = 6 ∧ elemVal fmt raw ≤ 1 ∨ fmt = 7 ∧ elemVal fmt raw ≤ 2) := by
  obtain rfl | rfl := h
  · have : raw < 2 := hraw
    exact ⟨Int.natCast_nonneg raw, .inl ⟨rfl, by rw [elemVal] <;> omega⟩⟩
  · have : raw < 4 := hraw
    rw [elemVal]
    split <;> omega

/-! ### Prediction (R102, R103) -/

/-- The neighbours of an element: from the left, above and above on the left. -/
theorem neighbours_eq (left : Int) (b : Nat → Int) (np : Bool) (x : Nat) : neighbours left b np x =
    (let u := if x = 0 then (if np then 0 else b 0) else left;
      (u, if np then u else b x, if np then u else if x = 0 then b 0 else b (x - 1))) := by
  rw [neighbours]
  by_cases hx : x = 0
  · subst hx; cases np <;> rfl
  · cases np <;> simp [hx]

/-- The left neighbour of element 0 is not asked for. -/
theorem neighbours_left {left left' : Int} {x : Nat} (h : x ≠ 0 → left = left') (b : Nat → Int) (np : Bool) :
    neighbours left b np x = neighbours left' b np x := by
  rw [neighbours_eq, neighbours_eq]
  by_cases hx : x = 0
  · simp [hx]
  · rw [h hx]

/-- A residue's code value (R104). -/
theorem zig_eq (r : Int) : zig r = if r % 2 ^ 16 < 2 ^ 15 then 2 * (r % 2 ^ 16) else 2 * (2 ^ 16 - r % 2 ^ 16) - 1 := by
  have hcut := ofSigned_cast 16 r
  have hlt := ofSigned_lt 16 r
  rw [zig, toSigned, Nat.mod_eq_of_lt hlt]
  norm_num at hcut hlt ⊢
  rw [← hcut]
  generalize ofSigned 16 r = v at hlt
  split_ifs <;> omega

theorem upredRow_length (e : Nat → Nat) (b : Nat → Int) (np : Bool) (n : Nat) : (upredRow e b np n).length = n := by
  induction n with
  | zero => rfl
  | succ n ih => rw [upredRow, List.length_append, ih]; rfl

/-- Each pixel of upred comes from the one before it. -/
theorem upredRow_getD (e : Nat → Nat) (b : Nat → Int) (np : Bool) {i n : Nat} (h : i < n) :
    (upredRow e b np n).getD i 0 =
      (let nb := neighbours ((upredRow e b np n).getD (i - 1) 0) b np i;
        (predict nb.1 nb.2.1 nb.2.2 + unzig (e i)) % 2 ^ 16) := by
  induction n with
  | zero => omega
  | succ n ih =>
    have hlen := upredRow_length e b np n
    rw [upredRow]
    by_cases hlast : i = n
    · subst hlast
      rw [List.getD_append_right _ _ _ _ (by omega), hlen, Nat.sub_self]
      have hleft : i ≠ 0 → (upredRow e b np i).getLastD 0 = (upredRow e b np i ++ [((ofSigned 16
          (predict (neighbours ((upredRow e b np i).getLastD 0) b np i).1 (neighbours ((upredRow e b np i).getLastD 0) b np i).2.1
          (neighbours ((upredRow e b np i).getLastD 0) b np i).2.2 + unzig (e i)) : Nat) : Int)]).getD (i - 1) 0 := by
        intro hi
        rw [List.getD_append _ _ _ _ (by omega), List.getLastD_eq_getLast?, List.getLast?_eq_getElem?, hlen,
          List.getD_eq_getElem?_getD]
      dsimp only
      rw [← neighbours_left hleft]
      exact ofSigned_cast 16 _
    · rw [List.getD_append _ _ _ _ (by omega), ih (by omega)]
      dsimp only
      rw [List.getD_append _ _ _ _ (by omega)]

end Sys2Proof.Machine
end

section
/-! SUPPORT. The instructions that write a run, each as a whole: what its output holds once it has had its effect (3.5.1 to
3.5.5). -/

namespace Sys2Proof.Machine

variable {l : Limits} {q : QEntry} {x : Engine} {e : Eng} {im : StreamImm} {d a b : BitVec 4} {k : BitVec 6}

/-! ### upred (R103) -/

/-- A pixel of upred: its prediction from the pixel before it, and its residue, modulo 2^16. -/
theorem el_upred {np : Bool} (hi : q.i = .upred e im d a b np) (hfmt : (q.d d).fmt = 0)
    (hopen : ∀ j < (q.n * fmtBits (q.d d).fmt + 7) / 8, l.open ((q.d d).row 0 + j) = true) {i : Nat} (hn : i < q.n) :
    (q.d d).el (tileEffect l q x).x.scratch 0 i =
      (let nb := neighbours ((q.d d).el (tileEffect l q x).x.scratch 0 (i - 1)) (q.el x.scratch b) np i;
        (predict nb.1 nb.2.1 nb.2.2 + unzig (q.el x.scratch a i).toNat) % 2 ^ 16) := by
  have hwrites : WritesRun l q x d
      (fun j => (upredRow (fun k => (q.el x.scratch a k).toNat) (q.el x.scratch b) np q.n).getD j 0) := by
    cases q
    subst hi
    rfl
  have hrow {j : Nat} (hj : j < q.n) : (q.d d).el (tileEffect l q x).x.scratch 0 j =
      (upredRow (fun k => (q.el x.scratch a k).toNat) (q.el x.scratch b) np q.n).getD j 0 := by
    rw [hwrites.el (by omega) hopen hj, hfmt, upredRow_getD _ _ _ hj, satF_eq (by decide)]
    dsimp only
    generalize predict _ _ _ + unzig _ = v
    have h0 := Int.emod_nonneg v (b := 2 ^ 16) (by decide)
    have h1 := Int.emod_lt_of_pos v (b := 2 ^ 16) (by decide)
    rw [if_neg (by decide), if_pos rfl, min_eq_right (by omega), max_eq_right h0]
  rw [hrow hn, hrow (lt_of_le_of_lt (Nat.sub_le _ _) hn), upredRow_getD _ _ _ hn]

/-! ### mapc (R86) -/

theorem el_mapc {st : BitVec 3} {ben : Bool} (hi : q.i = .mapc e im d a k st b ben) (hfmt : (q.d d).fmt ≤ 2)
    (hopen : ∀ j < (q.n * fmtBits (q.d d).fmt + 7) / 8, l.open ((q.d d).row 0 + j) = true) {i : Nat} (hn : i < q.n)
    {V : Nat → Int} (h0 : V 0 = q.el x.scratch a i)
    (hV : MapValues ben (if ben then q.el x.scratch b i else 0) (fun j => readLE x.scratch (q.s k + 8 * j) 8) V st.toNat) :
    (q.d d).el (tileEffect l q x).x.scratch 0 i = satF (q.d d).fmt (V (st.toNat + 1)) := by
  have hrun := mapRun_eq hV (st.toNat + 1) 0 (Nat.zero_add _) rfl
  rw [Nat.zero_add, h0, ← List.range_eq_range'] at hrun
  rw [← hrun]
  exact (WritesRun.of_instr hi rfl).el hfmt hopen hn

theorem fmt_mapc {st : BitVec 3} {ben : Bool} (hi : q.i = .mapc e im d a k st b ben) : (tileEffect l q x).fmt =
    if (List.range (st.toNat + 1)).any (fun j => mapLive ben (fun j => readLE x.scratch (q.s k + 8 * j) 8) j &&
      badStep (readLE x.scratch (q.s k + 8 * j) 8) ben) then 1 else 0 := by
  have hbad := mapBad_eq ben (fun j => readLE x.scratch (q.s k + 8 * j) 8) (st.toNat + 1) 0 rfl
  rw [← List.range_eq_range'] at hbad
  have heffect : (tileEffect l q x).fmt = if mapBad ben ((List.range (st.toNat + 1)).map
      (fun j => readLE x.scratch (q.s k + 8 * j) 8)) then 1 else 0 := by
    cases q
    subst hi
    rfl
  rw [heffect, hbad]

/-! ### dpr (R91) -/

theorem el_dpr {t : BitVec 2} (hi : q.i = .dpr e im d a b t) (hfmt : (q.d d).fmt ≤ 2)
    (hopen : ∀ j < (q.n * fmtBits (q.d d).fmt + 7) / 8, l.open ((q.d d).row 0 + j) = true) {i : Nat} (hn : i < q.n) :
    (q.d d).el (tileEffect l q x).x.scratch 0 i = satF (q.d d).fmt
      (dprEl (q.el x.scratch a) (fun c => decide (q.el x.scratch b c = 1)) q.n (t.toNat + 1) i).1 := by
  have hwrites : WritesRun l q x d
      (fun i => (dprEl (q.el x.scratch a) (fun c => decide (q.el x.scratch b c = 1)) q.n (t.toNat + 1) i).1) := by
    cases q
    subst hi
    rfl
  exact hwrites.el hfmt hopen hn

theorem missed_dpr {t : BitVec 2} (hi : q.i = .dpr e im d a b t) : (tileEffect l q x).dpr = ((List.range q.n).filter (fun i =>
    (dprEl (q.el x.scratch a) (fun c => decide (q.el x.scratch b c = 1)) q.n (t.toNat + 1) i).2)).length := by
  cases q
  subst hi
  rfl

end Sys2Proof.Machine
end

section
/-! SUPPORT. What the instructions of the tiles that write a run store in it (3.4 to 3.5.5). -/

namespace Sys2Proof.Machine

section
variable {l : Limits} {q : QEntry} {x : Engine} {e : Eng} {im : StreamImm} {d a b : BitVec 4} {k : BitVec 6}

/-- The entry's effect writes a run whose elements are the values `v`, each limited to the format. -/
def Writes (l : Limits) (q : QEntry) (x : Engine) (d : BitVec 4) (v : Nat → Int) : Prop :=
  ∃ g, WritesRun l q x d g ∧ ∀ i < q.n, g i = v i

theorem WritesRun.writes {g : Nat → Int} (h : WritesRun l q x d g) : Writes l q x d g := ⟨g, h, fun _ _ => rfl⟩

theorem Writes.el {v : Nat → Int} (h : Writes l q x d v) (hfmt : (q.d d).fmt ≤ 2)
    (hopen : ∀ j < (q.n * fmtBits (q.d d).fmt + 7) / 8, l.open ((q.d d).row 0 + j) = true) : ∀ i < q.n,
    (q.d d).el (tileEffect l q x).x.scratch 0 i = max (if (q.d d).fmt = 1 then -32768 else 0)
      (min (if (q.d d).fmt = 0 then 65535 else if (q.d d).fmt = 1 then 32767 else 255) (v i)) := by
  obtain ⟨g, hwrites, hg⟩ := h
  intro i hi
  rw [hwrites.el hfmt hopen hi, hg i hi, satF_eq hfmt]

/-! ### Kernels (R88) and resampling (R89) -/

/-- A column limited to those of the run. -/
def nearCol (n : Nat) (c : Int) : Nat := (max 0 (min ((n : Int) - 1) c)).toNat

/-- The kernel's result over the elements it takes. -/
def kernelSum (m : List Host.Cell) (r taps : Nat) (f : Nat → Int) : Int :=
  rnd (∑ i ∈ Finset.range taps, toSigned 16 (readLE m (r + 2 * i) 2) * f i) (readLE m (r + 50) 1 % 16) +
    toSigned 16 (readLE m (r + 52) 2)

theorem writes_k1d {t : BitVec 2} (hi : q.i = .k1d e im d a k t) : Writes l q x d (fun i =>
    kernelSum x.scratch (q.s k) (2 * t.toNat + 3) (fun j => q.el x.scratch a (nearCol q.n ((i : Int) - (t.toNat + 1) + j)))) := by
  refine ⟨fun i => kernel x.scratch (q.s k) (2 * t.toNat + 3)
    (fun j => q.el x.scratch a (clampCol ((i : Int) - (t.toNat + 1 : Nat) + j) q.n)), ?_, fun i hn => ?_⟩
  · cases q
    subst hi
    rfl
  · refine kernel_eq _ _ _ (fun j _ => ?_)
    rw [clampCol_eq (Nat.zero_lt_of_lt hn)]
    push_cast
    rfl

theorem writes_k1v {t : BitVec 2} (hi : q.i = .k1v e im d a k t) : Writes l q x d (fun i =>
    kernelSum x.scratch (q.s k) (2 * t.toNat + 2) (fun j => (q.d a).el x.scratch ((j : Int) - t.toNat) i)) :=
  ⟨_, WritesRun.of_instr hi rfl, fun _ _ => kernel_eq _ _ _ (fun _ _ => rfl)⟩

theorem writes_k2d {big : Bool} (hi : q.i = .k2d e im d a k big) : Writes l q x d (fun i =>
    let w := if big then 5 else 3
    kernelSum x.scratch (q.s k) (w * w) (fun j => (q.d a).el x.scratch ((j / w : Nat) - ((w - 1) / 2 : Nat) : Int)
      (nearCol q.n ((i : Int) + (j % w : Nat) - ((w - 1) / 2 : Nat))))) := by
  refine ⟨fun i =>
    let w := if big then 5 else 3
    kernel x.scratch (q.s k) (w * w) (fun j => (q.d a).el x.scratch ((j / w : Nat) - ((w - 1) / 2 : Nat) : Int)
      (clampCol ((i : Int) + (j % w : Nat) - ((w - 1) / 2 : Nat)) q.n)), ?_, fun i hn => ?_⟩
  · cases q
    subst hi
    rfl
  · exact kernel_eq _ _ _ (fun j _ => congrArg _ (clampCol_eq (Nat.zero_lt_of_lt hn) _))

theorem writes_rs {big : Bool} (hi : q.i = .rs e im d a k big) : Writes l q x d (fun j =>
    let taps := if big then 6 else 4
    rnd (∑ i ∈ Finset.range taps,
      toSigned 16 (readLE x.scratch (q.s k + 64 + 16 * (rsPos x.scratch (q.s k) j / 2 ^ 26 % 64) + 2 * i) 2) *
        q.el x.scratch a (nearCol ((q.d a).len + 1)
          (toSigned 64 (rsPos x.scratch (q.s k) j) / 2 ^ 32 - (taps / 2 : Nat) + 1 + i))) 14) :=
  ⟨_, WritesRun.of_instr hi rfl, fun _ _ => rsEl_eq _ _ _ _ _ _⟩

/-! ### Clamps, intake correction (R90, R92), scores (R94) and prediction (R102) -/

theorem writes_vclamp (hi : q.i = .vclamp e im d a k) : Writes l q x d (fun i =>
    if toSigned 32 (q.s k / 2 ^ 32 % 2 ^ 32) < toSigned 32 (q.s k / 2 ^ 0 % 2 ^ 32) then toSigned 32 (q.s k / 2 ^ 32 % 2 ^ 32)
    else max (toSigned 32 (q.s k / 2 ^ 0 % 2 ^ 32)) (min (toSigned 32 (q.s k / 2 ^ 32 % 2 ^ 32)) (q.el x.scratch a i))) :=
  ⟨_, WritesRun.of_instr hi rfl, fun _ _ => clampLoHi_eq _ _ _⟩

theorem writes_flat {sh : BitVec 4} (hi : q.i = .flat e im d a b sh) : Writes l q x d (fun i =>
    rnd (max (((q.el x.scratch a i).toNat : Int) - ((q.el x.scratch b i).toNat % 2 ^ 16 : Nat)) 0 *
      ((q.el x.scratch b i).toNat / 2 ^ 16 : Nat)) sh.toNat) :=
  ⟨_, WritesRun.of_instr hi rfl, fun _ _ => flatEl_eq _ _ _⟩

theorem writes_xmrg {c bw os : BitVec 4} (hi : q.i = .xmrg e im d a k c bw os) : Writes l q x d (fun i =>
    let L : Nat := (q.el x.scratch a i).toNat
    let s : Nat := (q.el x.scratch c i).toNat
    let ratio : Nat := q.s k % 2 ^ 16
    let satlo : Nat := q.s k / 2 ^ 16 % 2 ^ 16
    if satlo ≤ s then 0xFFFF
    else if L < satlo then rnd (L * 256) (8 + os.toNat)
    else if satlo + 2 ^ bw.toNat ≤ L then rnd (s * ratio) (8 + os.toNat)
    else rnd (rnd (L * 256 * (2 ^ bw.toNat - ((L : Int) - satlo)) + s * ratio * ((L : Int) - satlo)) bw.toNat) (8 + os.toNat)) := by
  have hlow : bitsOf (q.s k) 0 16 = q.s k % 2 ^ 16 := by rw [bitsOf, Nat.pow_zero, Nat.div_one]
  refine ⟨fun i => xmrgEl (q.el x.scratch a i).toNat (q.el x.scratch c i).toNat (bitsOf (q.s k) 0 16) (bitsOf (q.s k) 16 16)
    bw.toNat os.toNat, WritesRun.of_instr hi rfl, fun i _ => ?_⟩
  rw [hlow]
  exact xmrgEl_eq _ _ _ _ _ _

theorem writes_scor {sh : BitVec 5} {c mask : BitVec 4} {pen men : Bool} (hi : q.i = .scor e im d a b sh c pen mask men) :
    Writes l q x d (fun i => if men = true ∧ q.el x.scratch mask i = 1 then 0
      else rnd ((q.el x.scratch a i - ((q.el x.scratch b i).toNat % 2 ^ 16 : Nat) - if pen then q.el x.scratch c i else 0) *
        ((q.el x.scratch b i).toNat / 2 ^ 16 : Nat)) sh.toNat) := by
  refine ⟨_, WritesRun.of_instr hi rfl, fun i _ => ?_⟩
  simp only [Bool.and_eq_true, decide_eq_true_eq]
  rfl

/-- What an element is predicted from the one before it and the row above. -/
def prediction (left : Int) (b : Nat → Int) (np : Bool) (i : Nat) : Int :=
  let u := if i = 0 then (if np then 0 else b 0) else left
  let v := if np then u else b i
  let w := if np then u else if i = 0 then b 0 else b (i - 1)
  if max u v ≤ w then min u v else if w ≤ min u v then max u v else u + v - w

theorem predict_neighbours (left : Int) (b : Nat → Int) (np : Bool) (i : Nat) :
    predict (neighbours left b np i).1 (neighbours left b np i).2.1 (neighbours left b np i).2.2 = prediction left b np i := by
  rw [neighbours_eq]
  rfl

theorem writes_pred {np : Bool} (hi : q.i = .pred e im d a b np) : Writes l q x d (fun i =>
    let r := (q.el x.scratch a i - prediction (q.el x.scratch a (i - 1)) (q.el x.scratch b) np i) % 2 ^ 16
    if r < 2 ^ 15 then 2 * r else 2 * (2 ^ 16 - r) - 1) := by
  refine ⟨predEl (q.el x.scratch a) (q.el x.scratch b) np, WritesRun.of_instr hi rfl, fun i _ => ?_⟩
  have hleft : i ≠ 0 → (if i = 0 then 0 else q.el x.scratch a (i - 1)) = q.el x.scratch a (i - 1) := fun h => if_neg h
  rw [predEl, neighbours_left hleft, predict_neighbours]
  exact zig_eq _

/-! ### thr (R95) and morph (R96) -/

theorem el_thr {t : BitVec 2} (hi : q.i = .thr e im d a k t) (hfmt : (q.d d).fmt = 7)
    (hopen : ∀ j < (2 * q.n + 7) / 8, l.open ((q.d d).row 0 + j) = true) {i : Nat} (hn : i < q.n) :
    (q.d d).el (tileEffect l q x).x.scratch 0 i =
      thrEl (q.el x.scratch a i) (toSigned 16 (q.s k % 2 ^ 16)) (toSigned 16 (q.s k / 2 ^ 16 % 2 ^ 16)) t.toNat := by
  have hwrites : WritesRun l q x d (fun i => thrEl (q.el x.scratch a i) (toSigned 16 (bitsOf (q.s k) 0 16))
      (toSigned 16 (bitsOf (q.s k) 16 16)) t.toNat) := WritesRun.of_instr hi rfl
  have hlow : bitsOf (q.s k) 0 16 = q.s k % 2 ^ 16 := by rw [bitsOf, Nat.pow_zero, Nat.div_one]
  have hbits : fmtBits (q.d d).fmt = 2 := by rw [hfmt]; rfl
  rw [hwrites.el_raw (by rw [hbits, Nat.mul_comm]; exact hopen) hn, hlow, bitsOf, hfmt]
  have hclass (u v w : Int) : 0 ≤ thrEl u v w t.toNat ∧ thrEl u v w t.toNat ≤ 2 := by
    rw [thrEl_eq]; dsimp only; split_ifs <;> omega
  exact elemVal_ofSigned_small (hclass _ _ _).1 (.inr ⟨rfl, (hclass _ _ _).2⟩)

theorem el_morph {er cross : Bool} (hi : q.i = .morph e im d a er cross) (hsame : (q.d d).fmt = (q.d a).fmt)
    (hfmt : (q.d d).fmt = 6 ∨ (q.d d).fmt = 7)
    (hopen : ∀ j < (q.n * fmtBits (q.d d).fmt + 7) / 8, l.open ((q.d d).row 0 + j) = true) {i : Nat} (hn : i < q.n) :
    (q.d d).el (tileEffect l q x).x.scratch 0 i = morphEl er cross q.n (fun r c => (q.d a).el x.scratch r c) i := by
  have hwrites : WritesRun l q x d (morphEl er cross q.n (fun r c => (q.d a).el x.scratch r c)) := by
    cases q
    subst hi
    rfl
  have hpixel := elemVal_small_range (raw := elemRaw x.scratch ((q.d a).row 0) (fmtBits (q.d a).fmt) i) (hsame ▸ hfmt)
    (bitsOf_lt _ _ _)
  have hsat (v : Int) : satF (q.d d).fmt v = v := by obtain h | h := hfmt <;> rw [h] <;> rfl
  rw [hwrites.el_raw hopen hn, hsat]
  rw [← hsame] at hpixel
  obtain h | h | h := morphEl_cases er cross q.n (fun r c => (q.d a).el x.scratch r c) i
  · rw [h]; exact elemVal_ofSigned_small le_rfl (by omega)
  · rw [h]; exact elemVal_ofSigned_small (by decide) (by omega)
  · rw [h, Desc.el, ← hsame]; exact elemVal_ofSigned_small hpixel.1 hpixel.2

/-! ### cmat (R93) -/

/-- A plane of cmat's output. -/
def cmatPlane (q : QEntry) (x : Engine) (a : BitVec 4) (k : BitVec 6) (p i : Nat) : Int :=
  satU16 (cmatEl x.scratch (q.s k) p (fun j => elemVal 0 (elemRaw x.scratch ((q.d a).at j 0) 16 i)))

theorem scratch_cmat (hi : q.i = .cmat e im d a k) : (tileEffect l q x).x.scratch =
    putRun l ((q.d d).at (2 : Nat) 0) 0 (cmatPlane q x a k 2) q.n (putRun l ((q.d d).at (1 : Nat) 0) 0 (cmatPlane q x a k 1) q.n
      (putRun l ((q.d d).at (0 : Nat) 0) 0 (cmatPlane q x a k 0) q.n x.scratch)) := by
  cases q
  subst hi
  rfl

theorem elemRaw_cmatPlane {m : List Host.Cell} {p i : Nat} (hopen : ∀ j < 2 * q.n, l.open ((q.d d).at p 0 + j) = true)
    (hn : i < q.n) : (elemRaw (putRun l ((q.d d).at p 0) 0 (cmatPlane q x a k p) q.n m) ((q.d d).at p 0) 16 i : Int) =
      cmatPlane q x a k p i := by
  have hlim : cmatPlane q x a k p i = max 0 (min 65535 _) := clampInt_eq (by decide) _
  have hsize : (q.n * fmtBits 0 + 7) / 8 = 2 * q.n := by norm_num [fmtBits]; omega
  have hraw := elemRaw_putRun (l := l) (m := m) (fmt := 0) (f := cmatPlane q x a k p) hn (by rw [hsize]; exact hopen)
  rw [show fmtBits 0 = 16 from rfl] at hraw
  rw [hraw]
  exact ofSigned_of_nonneg (by rw [hlim]; exact le_max_left _ _) (by rw [hlim]; norm_num)

theorem elemRaw_cmat (hi : q.i = .cmat e im d a k)
    (hopen : ∀ p < 3, ∀ j < 2 * q.n, l.open ((q.d d).at (p : Nat) 0 + j) = true)
    (hapart : ∀ p < 3, ∀ p' < 3, p < p' → (q.d d).at (p' : Nat) 0 + 2 * q.n ≤ (q.d d).at (p : Nat) 0 ∨
      (q.d d).at (p : Nat) 0 + 2 * q.n ≤ (q.d d).at (p' : Nat) 0) {p : Nat} (hp : p < 3) {i : Nat} (hn : i < q.n) :
    (elemRaw (tileEffect l q x).x.scratch ((q.d d).at p 0) 16 i : Int) = cmatPlane q x a k p i := by
  have h01 := hapart 0 (by decide) 1 (by decide) (by decide)
  have h02 := hapart 0 (by decide) 2 (by decide) (by decide)
  have h12 := hapart 1 (by decide) 2 (by decide) (by decide)
  rw [scratch_cmat hi]
  obtain rfl | rfl | rfl : p = 0 ∨ p = 1 ∨ p = 2 := by omega
  · rw [elemRaw_putRun_apart _ hn h02.symm, elemRaw_putRun_apart _ hn h01.symm, elemRaw_cmatPlane (hopen 0 hp) hn]
  · rw [elemRaw_putRun_apart _ hn h12.symm, elemRaw_cmatPlane (hopen 1 hp) hn]
  · rw [elemRaw_cmatPlane (hopen 2 hp) hn]

end

/-- Settles O16: the entry of an idle queue has its effect at once, and that effect writes the values of the formulas. -/
theorem elementwiseResults : Obligations.ElementwiseResults := by
  unfold Obligations.ElementwiseResults
  refine ⟨fun i e s hi hqueued hwf hruns hqueue hcopies herrs hg hcrop => ?_, rnd_nearest,
    fun l q x e im d a b c k sh5 sh6 sh4 sh4' t st f h => ?_⟩
  · have hroom : (s.eng e).queue.length < 32 := by
      rw [hqueue]
      decide
    have hentry : (s.eng e).entry i s.count =
        ⟨(s.eng e).nextSeq, i, true, (s.eng e).descs, (s.eng e).sregs, false, s.count⟩ := by rw [Engine.entry, hg]
    refine ⟨_, exec_queued hi hqueued hwf hruns hroom, fun hacc => ?_, fun hacc => ?_⟩
    · obtain ⟨hstores, hcounts⟩ := enqueue_of_accepted hqueue hcopies herrs hentry rfl hcrop hacc
      exact ⟨(congrArg Engine.scratch hstores.symm :), (congrArg Engine.acc0 hstores.symm :),
        (congrArg Engine.acc1 hstores.symm :), (congrArg Engine.tabs hstores.symm :), (congrArg Engine.hist0 hstores.symm :),
        (congrArg Engine.hist1 hstores.symm :), hcounts⟩
    · obtain ⟨hstores, hcounted⟩ := enqueue_of_refused hqueue hcopies herrs hentry rfl hcrop hacc
      exact ⟨(congrArg Engine.scratch hstores.symm :), (congrArg Engine.acc0 hstores.symm :),
        (congrArg Engine.acc1 hstores.symm :), (congrArg Engine.tabs hstores.symm :), (congrArg Engine.hist0 hstores.symm :),
        (congrArg Engine.hist1 hstores.symm :), hcounted⟩
  · intro m n D A B C R S half co near kern U T pos rsAt merged mean scale pre res out lo hi sat bad step
    refine ⟨fun hfmt hopen => ⟨?_, ?_, ?_, ?_⟩, ?_, ?_, ?_⟩
    · simp only [List.forall_mem_cons, List.not_mem_nil, IsEmpty.forall_iff, implies_true, and_true]
      refine ⟨?_, ?_, ?_, ?_, ?_, ?_, ?_, ?_, ?_, ?_, ?_, ?_, ?_, ?_, ?_, ?_, ?_, ?_, ?_, ?_, ?_, ?_, ?_⟩
      · exact fun hi => (WritesRun.of_instr hi rfl).writes.el hfmt hopen
      · exact fun hi => (WritesRun.of_instr hi rfl).writes.el hfmt hopen
      · exact fun hi => (WritesRun.of_instr hi rfl).writes.el hfmt hopen
      · exact fun hi => (WritesRun.of_instr hi rfl).writes.el hfmt hopen
      · exact fun hi => (WritesRun.of_instr hi rfl).writes.el hfmt hopen
      · exact fun hi => (WritesRun.of_instr hi rfl).writes.el hfmt hopen
      · exact fun hi => (WritesRun.of_instr hi rfl).writes.el hfmt hopen
      · exact fun hi => (WritesRun.of_instr hi rfl).writes.el hfmt hopen
      · exact fun hi => (writes_vclamp hi).el hfmt hopen
      · exact fun hi => (WritesRun.of_instr hi rfl).writes.el hfmt hopen
      · exact fun hi => (WritesRun.of_instr hi rfl).writes.el hfmt hopen
      · exact fun hi => (WritesRun.of_instr hi rfl).writes.el hfmt hopen
      · exact fun hi => (WritesRun.of_instr hi rfl).writes.el hfmt hopen
      · exact fun hi => (writes_k1d hi).el hfmt hopen
      · exact fun hi => (writes_k1v hi).el hfmt hopen
      · exact fun hi => (writes_k2d hi).el hfmt hopen
      · exact fun hi => (writes_k2d hi).el hfmt hopen
      · exact fun hi => (writes_rs hi).el hfmt hopen
      · exact fun hi => (writes_rs hi).el hfmt hopen
      · exact fun hi => (writes_flat hi).el hfmt hopen
      · exact fun hi => (writes_xmrg hi).el hfmt hopen
      · exact fun hi => (writes_scor hi).el hfmt hopen
      · exact fun hi => (writes_pred hi).el hfmt hopen
    · intro hi hfmt0 i hn
      have hpixel := el_upred hi hfmt0 hopen (x := x) hn
      dsimp only at hpixel
      rw [predict_neighbours] at hpixel
      exact hpixel
    · intro hi W ends live
      have hbad (j : Nat) : bad (W j) = badStep (W j) f := (badStep_eq (readLE_lt m (S + 8 * j) 8) f).symm
      have hends (j : Nat) : ends j = mapEnds f (W j) := congrArg (decide (W j % 2 ^ 8 = 0) || ·) (hbad j)
      have hlive (j : Nat) : live j = mapLive f W j := List.all_congr rfl (fun r => congrArg (!·) (hends r))
      refine ⟨fun i hn V h0 hV => ?_, ?_⟩
      · refine (el_mapc hi hfmt hopen hn h0 (fun j hj => ?_)).trans (satF_eq hfmt _)
        rw [hV j hj, hlive, mapStep_eq]
      · rw [fmt_mapc hi]
        exact congrArg (fun c : Bool => if c then 1 else 0)
          (List.any_congr rfl (fun j => by rw [hlive, hbad]))
    · intro hi left right first lone
      have hel {i : Nat} (hn : i < n) := (el_dpr hi hfmt hopen (x := x) hn).trans (satF_eq hfmt _)
      refine ⟨fun i hn => ⟨fun hb => ?_,
        fun hb => ⟨fun r r' hl hr => ?_, fun r hl hr => ?_, fun r hr hl => ?_, fun h => ?_⟩⟩, ?_⟩
      · rw [hel hn, dprEl_of_unmarked hb]
      · rw [hel hn, dprEl_of_both hb hl hr]
      · rw [hel hn, dprEl_of_left hb hl hr]
      · rw [hel hn, dprEl_of_right hb hr hl]
      · rw [hel hn, dprEl_of_lone (lone_iff.1 (of_decide_eq_true h))]
      · rw [missed_dpr hi]
        exact congrArg List.length (List.filter_congr (fun i _ => dprEl_missed))
    · intro hi hopen hapart p hp i hn
      rw [elemRaw_cmat hi hopen hapart hp hn, cmatPlane, cmatEl_eq]
      exact clampInt_eq (by decide) _
    · intro hi hfmt hopen i hn
      exact (el_thr hi hfmt hopen hn).trans (thrEl_eq _ _ _ _)
    · intro hi hsame hfmt hopen i hn around set clear
      have hpixel : D.el out 0 i = _ := el_morph hi hsame hfmt hopen hn
      refine ⟨?_, ?_⟩
      · rintro rfl
        rw [hpixel]
        exact morphEl_dilate h n R i
      · rintro rfl
        rw [hpixel]
        exact morphEl_erode h n R i

end Sys2Proof.Machine
end

section
/-! SUPPORT. What vcmp, stat, hist and crc leave in the accumulators and the histograms (R73, R76, R77, R100, R101). -/

namespace Sys2Proof.Machine

/-! ### The elements of the two tiles (R73, R76) -/

/-- The elements of a width-2 instruction that each tile takes. -/
def tileParts (n : Nat) : List (List Nat) :=
  let h := min n (16 * (((n + 15) / 16 + 1) / 2))
  [List.range h, (List.range n).drop h]

theorem tileParts_eq (n : Nat) : tileParts n = [List.range (min (tile0 16 n) n), (List.range n).drop (tile0 16 n)] := by
  have hwhole : min n (16 * (((n + 15) / 16 + 1) / 2)) = min (tile0 16 n) n := by
    rw [tile0, ceilDiv, ceilDiv, Nat.min_comm]
    rfl
  have hdrop : (List.range n).drop (min (tile0 16 n) n) = (List.range n).drop (tile0 16 n) := by
    obtain h | h := Nat.le_total (tile0 16 n) n
    · rw [Nat.min_eq_left h]
    · rw [Nat.min_eq_right h, List.drop_eq_nil_of_le (by simp), List.drop_eq_nil_of_le (by simpa using h)]
  rw [tileParts, hwhole, hdrop]

/-- Each copy takes its tile's elements into the one accumulator. -/
theorem look_onAccs (x : Engine) (ad : BitVec 3) (n : Nat) (f : Acc → List Nat → Acc) {c : Nat} (hc : c < 2) (i : Nat) :
    look (fun _ => Acc.clear) (if c = 0 then (onAccs x ad 2 16 n f).acc0 else (onAccs x ad 2 16 n f).acc1) i =
      if i = ad.toNat then f (look (fun _ => Acc.clear) (if c = 0 then x.acc0 else x.acc1) ad.toNat) ((tileParts n).getD c [])
      else look (fun _ => Acc.clear) (if c = 0 then x.acc0 else x.acc1) i := by
  rw [tileParts_eq]
  obtain rfl | rfl : c = 0 ∨ c = 1 := by omega
  · exact look_put _ _ _ _ _
  · exact look_put _ _ _ _ _

/-- A counter that saturates at each of two steps saturates once. -/
theorem min_add_min (a b c top : Nat) : min (min (a + b) top + c) top = min (a + (b + c)) top := by omega

theorem counter_lt (v : Nat) : min v (2 ^ 32 - 1) < 2 ^ 32 := by omega

theorem length_filter_cons (p : Nat → Bool) (k : Nat) (ks : List Nat) :
    ((k :: ks).filter p).length = (if p k then 1 else 0) + (ks.filter p).length := by
  rw [List.filter_cons]
  split
  · rw [List.length_cons, Nat.add_comm]
  · rw [Nat.zero_add]

/-! ### vcmp -/

theorem cmpAcc_eq (diff : Nat → Bool) (ks : List Nat) (a : Acc) (hcnt : a.cnt < 2 ^ 32) (hnsat : a.nsat < 2 ^ 32) :
    cmpAcc a diff ks = { a with
      cnt := min (a.cnt + ks.length) (2 ^ 32 - 1)
      nsat := min (a.nsat + (ks.filter diff).length) (2 ^ 32 - 1) } := by
  induction ks generalizing a with
  | nil =>
    have h1 : min a.cnt (2 ^ 32 - 1) = a.cnt := by omega
    have h2 : min a.nsat (2 ^ 32 - 1) = a.nsat := by omega
    rw [cmpAcc, List.filter_nil, List.length_nil, Nat.add_zero, Nat.add_zero, h1, h2]
  | cons k ks ih =>
    rw [cmpAcc, ih _ (counter_lt _) (counter_lt _)]
    dsimp only
    rw [min_add_min, min_add_min, ← length_filter_cons, Nat.add_comm 1, ← List.length_cons]

/-! ### stat (R100) -/

/-- One element, with neither sum at its limit. -/
theorem Acc.stat_eq {u : Acc} {a : Int} (hsum : |u.sum + a| < 2 ^ 63) (hssq : u.ssq + (a * a).toNat < 2 ^ 64) (satlev v : Nat) :
    u.stat satlev a v = { u with
      sum := u.sum + a
      ssq := u.ssq + (a * a).toNat
      cnt := min (u.cnt + 1) (2 ^ 32 - 1)
      nsat := min (u.nsat + if decide (satlev ≤ v) then 1 else 0) (2 ^ 32 - 1)
      mn := min u.mn v
      mx := max u.mx v } := by
  have hkept : satS64 (u.sum + a) = u.sum + a := by
    obtain ⟨hlow, hhigh⟩ := abs_lt.1 hsum
    rw [satS64_eq, min_eq_right (Int.le_sub_one_of_lt hhigh), max_eq_right hlow.le]
  rw [Acc.stat, hkept, Nat.min_eq_left (Nat.le_sub_one_of_lt hssq)]
  simp only [decide_eq_true_eq]

/-- The figures of a run of elements, none of the sums at its limit. -/
theorem foldl_stat (satlev : Nat) (A : Nat → Int) (U : Nat → Nat) (ks : List Nat) (u : Acc) (hcnt : u.cnt < 2 ^ 32)
    (hnsat : u.nsat < 2 ^ 32) (hsum : |u.sum| + (ks.map (fun i => |A i|)).sum < 2 ^ 63)
    (hssq : u.ssq + (ks.map (fun i => (A i * A i).toNat)).sum < 2 ^ 64) :
    ks.foldl (fun c k => c.stat satlev (A k) (U k)) u = { u with
      sum := u.sum + (ks.map A).sum
      ssq := u.ssq + (ks.map (fun i => (A i * A i).toNat)).sum
      cnt := min (u.cnt + ks.length) (2 ^ 32 - 1)
      nsat := min (u.nsat + (ks.filter (fun i => decide (satlev ≤ U i))).length) (2 ^ 32 - 1)
      mn := (ks.map U).foldl min u.mn
      mx := (ks.map U).foldl max u.mx } := by
  induction ks generalizing u with
  | nil =>
    have h1 : min u.cnt (2 ^ 32 - 1) = u.cnt := by omega
    have h2 : min u.nsat (2 ^ 32 - 1) = u.nsat := by omega
    simp only [List.foldl_nil, List.map_nil, List.sum_nil, List.filter_nil, List.length_nil, Nat.add_zero, Int.add_zero, h1, h2]
  | cons k ks ih =>
    have hrest : 0 ≤ (ks.map (fun i => |A i|)).sum := List.sum_nonneg (by simp)
    have habs := abs_add_le u.sum (A k)
    rw [List.map_cons, List.sum_cons, ← Int.add_assoc] at hsum
    rw [List.map_cons, List.sum_cons, ← Nat.add_assoc] at hssq
    have hsum' : |u.sum + A k| + (ks.map (fun i => |A i|)).sum < 2 ^ 63 := lt_of_le_of_lt (Int.add_le_add_right habs _) hsum
    have hsum'' : |u.sum + A k| < 2 ^ 63 := lt_of_le_of_lt (Int.le_add_of_nonneg_right hrest) hsum'
    have hssq' : u.ssq + (A k * A k).toNat < 2 ^ 64 := lt_of_le_of_lt (Nat.le_add_right _ _) hssq
    rw [List.foldl_cons, Acc.stat_eq hsum'' hssq', ih]
    · dsimp only
      rw [min_add_min, min_add_min, ← length_filter_cons (fun i => decide (satlev ≤ U i)), Nat.add_comm 1, ← List.length_cons,
        List.map_cons, List.sum_cons, List.map_cons, List.sum_cons, List.map_cons, List.foldl_cons, List.foldl_cons, Int.add_assoc,
        Nat.add_assoc]
    · exact counter_lt _
    · exact counter_lt _
    · exact hsum'
    · exact hssq

/-! ### hist (R100) and crc (R101) -/

theorem look_histAdd (bin : Nat → Nat) (ks : List Nat) (h : List (Nat × Nat)) (i : Nat) (hi : look (fun _ => 0) h i < 2 ^ 32) :
    look (fun _ => 0) (histAdd h bin ks) i =
      min (look (fun _ => 0) h i + (ks.filter (fun j => decide (bin j = i))).length) (2 ^ 32 - 1) := by
  induction ks generalizing h with
  | nil =>
    rw [histAdd, List.filter_nil, List.length_nil]
    omega
  | cons k ks ih =>
    have hput := look_put (fun _ => 0) h (bin k) i (min (look (fun _ => 0) h (bin k) + 1) (2 ^ 32 - 1))
    rw [histAdd, ih _ (by rw [hput]; split <;> omega), hput, List.filter_cons]
    by_cases hb : bin k = i
    · rw [if_pos hb.symm, if_pos (decide_eq_true hb), List.length_cons, hb]
      omega
    · rw [if_neg (fun h => hb h.symm), if_neg (by simp [hb])]

/-- The check value over one byte more. -/
theorem crcBytes_succ (m : List Host.Cell) (c : BitVec 32) (a n : Nat) :
    crcBytes m c a (n + 1) = crcByte (crcBytes m c a n) (look (fun _ => 0) m (a + n)) := by
  induction n generalizing c a with
  | zero => rfl
  | succ n ih =>
    have hplace : a + 1 + n = a + (n + 1) := by omega
    rw [crcBytes, ih, hplace]
    rfl

end Sys2Proof.Machine
end

section
/-! SUPPORT. What aclr, tld, hclr and hput leave in the accumulators, the tables, the histograms and scratch (Table 3.5). -/

namespace Sys2Proof.Machine

/-! ### tld -/

/-- A list of the values of listed entries, its default 0 left out, reads them back. -/
theorem look_map_filter (b : Nat) (f : Nat → Nat) (ks : List Nat) (i : Nat) :
    look (fun _ => 0) ((ks.map (fun i => (b + i, f i))).filter (fun e => decide (e.2 ≠ 0))) (b + i) =
      if i ∈ ks then f i else 0 := by
  induction ks with
  | nil => rfl
  | cons k ks ih =>
    rw [List.map_cons, List.filter_cons]
    by_cases hz : f k = 0
    · rw [if_neg (by simp [hz]), ih]
      by_cases hk : i = k
      · subst hk
        simp [hz]
      · simp [hk]
    · rw [if_pos (by simp [hz]), look, ih]
      by_cases hk : i = k
      · subst hk
        simp
      · rw [if_neg (by omega)]
        simp [hk]

/-- A byte that no listed one stands for reads 0. -/
theorem look_of_unlisted {m : List Host.Cell} {a : Nat} (h : ∀ e ∈ m, e.1 ≠ a) : look (fun _ => (0 : Byte)) m a = 0 := by
  refine look_of_not_any _ m a (List.any_eq_false.2 (fun e he => ?_))
  simp [h e he]

/-- A table slot as tld fills it. -/
theorem look_tabFrom (m : List Host.Cell) (t : Nat) {a i : Nat} (ha : a + 8192 ≤ scratchSize) (hi : i < 4096) :
    look (fun _ => 0) (tabFrom m t a) (t * 4096 + i) = readLE m (a + 2 * i) 2 := by
  rw [tabFrom, look_map_filter (t * 4096) (fun i => readLE m (a + 2 * i) 2)]
  split
  · rfl
  · next hnone =>
    have hzero {j : Nat} (hj : j = 2 * i ∨ j = 2 * i + 1) : look (fun _ => (0 : Byte)) m (a + j) = 0 := by
      refine look_of_unlisted (fun e he heq => hnone ?_)
      rw [List.mem_dedup, List.mem_map]
      refine ⟨e, List.mem_filter.2 ⟨he, ?_⟩, by omega⟩
      simp only [Bool.and_eq_true, decide_eq_true_eq]
      omega
    rw [readLE, readLE, readLE, hzero (.inl rfl), Nat.add_assoc, hzero (.inr rfl)]
    rfl

/-! ### hput -/

/-- Bins stored one after another: each by its own figure. -/
theorem look_foldl_bins (l : Limits) (a : Nat) (f : Nat → Nat) (bs : List Nat) (m : List Host.Cell) (i j : Nat) (hj : j < 4) :
    look (fun _ => (0 : Byte)) (bs.foldl (fun m b => putBytes l m (a + 4 * b) (f b) 4) m) (a + 4 * i + j) =
      if i ∈ bs ∧ l.open (a + 4 * i + j) = true then BitVec.ofNat 8 (f i / 256 ^ j)
      else look (fun _ => (0 : Byte)) m (a + 4 * i + j) := by
  induction bs generalizing m with
  | nil => simp
  | cons b bs ih =>
    rw [List.foldl_cons, ih, look_putBytes]
    by_cases hopen : l.open (a + 4 * i + j) = true
    · by_cases hb : i = b
      · subst hb
        have hplace : a + 4 * i + j - (a + 4 * i) = j := by omega
        rw [hplace, if_pos (c := (a + 4 * i ≤ a + 4 * i + j ∧ _) ∧ _) ⟨⟨by omega, by omega⟩, hopen⟩]
        simp [hopen]
      · rw [if_neg (c := (a + 4 * b ≤ a + 4 * i + j ∧ _) ∧ _) (by omega)]
        simp [hb]
    · rw [if_neg (fun h => hopen h.2), if_neg (fun h => hopen h.2), if_neg (fun h => hopen h.2)]

theorem look_foldl_bins_outside (l : Limits) (a : Nat) (f : Nat → Nat) (bs : List Nat) (m : List Host.Cell) {k : Nat}
    (hbs : ∀ b ∈ bs, b < 4096) (hk : k < a ∨ a + 16384 ≤ k) :
    look (fun _ => (0 : Byte)) (bs.foldl (fun m b => putBytes l m (a + 4 * b) (f b) 4) m) k =
      look (fun _ => (0 : Byte)) m k := by
  induction bs generalizing m with
  | nil => rfl
  | cons b bs ih =>
    have hb := hbs b List.mem_cons_self
    rw [List.foldl_cons, ih _ (fun b' hb' => hbs b' (List.mem_cons_of_mem _ hb')), look_putBytes, if_neg (by omega)]

/-- The bins of the two stores added. -/
def binSum (h0 h1 : List (Nat × Nat)) (b : Nat) : Nat := min (look (fun _ => 0) h0 b + look (fun _ => 0) h1 b) (2 ^ 32 - 1)

theorem hputMem_eq (l : Limits) (m : List Host.Cell) (h0 h1 : List (Nat × Nat)) (a : Nat) : hputMem l m h0 h1 a =
    ((h0 ++ h1).map (·.1)).foldl (fun m b => putBytes l m (a + 4 * b) (binSum h0 h1 b) 4)
      (m.filter (fun e => !(decide (a ≤ e.1) && decide (e.1 < a + 16384) && l.open e.1))) := rfl

theorem hputMem_outside (l : Limits) (m : List Host.Cell) (h0 h1 : List (Nat × Nat)) {a k : Nat}
    (hbins : ∀ p ∈ h0 ++ h1, p.1 < 4096) (hk : k < a ∨ a + 16384 ≤ k) :
    look (fun _ => (0 : Byte)) (hputMem l m h0 h1 a) k = look (fun _ => (0 : Byte)) m k := by
  have hkeys : ∀ b ∈ (h0 ++ h1).map (·.1), b < 4096 := by
    intro b hb
    obtain ⟨p, hp, rfl⟩ := List.mem_map.1 hb
    exact hbins p hp
  have hcell := look_filter_in (fun _ => (0 : Byte)) (fun i => !(decide (a ≤ i) && decide (i < a + 16384) && l.open i)) m k
  have hplace : (!(decide (a ≤ k) && decide (k < a + 16384) && l.open k)) = true := by
    obtain h | h := hk
    · simp [Nat.not_le.2 h]
    · simp [Nat.not_lt.2 h]
  rw [hputMem_eq]
  rw [look_foldl_bins_outside l a (binSum h0 h1) _ _ hkeys hk, hcell, hplace, if_pos rfl]

/-- A bin that no entry of a store stands for reads 0. -/
theorem binSum_of_unlisted {h0 h1 : List (Nat × Nat)} {b : Nat} (h : b ∉ (h0 ++ h1).map (·.1)) : binSum h0 h1 b = 0 := by
  have hstore {hs : List (Nat × Nat)} (hsub : ∀ p ∈ hs, p ∈ h0 ++ h1) : look (fun _ => 0) hs b = 0 := by
    refine look_of_not_any _ hs b (List.any_eq_false.2 (fun p hp => ?_))
    have : p.1 ≠ b := fun heq => h (List.mem_map.2 ⟨p, hsub p hp, heq⟩)
    simp [this]
  rw [binSum, hstore (fun p hp => List.mem_append_left _ hp), hstore (fun p hp => List.mem_append_right _ hp)]
  rfl

theorem hputMem_inside {l : Limits} (m : List Host.Cell) (h0 h1 : List (Nat × Nat)) {a : Nat}
    (hopen : ∀ j < 16384, l.open (a + j) = true) {i j : Nat} (hi : i < 4096) (hj : j < 4) :
    look (fun _ => (0 : Byte)) (hputMem l m h0 h1 a) (a + 4 * i + j) = BitVec.ofNat 8 (binSum h0 h1 i / 256 ^ j) := by
  have hplace : l.open (a + 4 * i + j) = true := by rw [Nat.add_assoc]; exact hopen _ (by omega)
  have hcell := look_filter_in (fun _ => (0 : Byte)) (fun i => !(decide (a ≤ i) && decide (i < a + 16384) && l.open i)) m
    (a + 4 * i + j)
  have hcut : (!(decide (a ≤ a + 4 * i + j) && decide (a + 4 * i + j < a + 16384) && l.open (a + 4 * i + j))) = false := by
    rw [hplace, decide_eq_true (by omega), decide_eq_true (by omega)]
    rfl
  rw [hputMem_eq]
  rw [look_foldl_bins l a (binSum h0 h1) _ _ i j hj, hcell, hcut]
  by_cases hlisted : i ∈ (h0 ++ h1).map (·.1)
  · rw [if_pos ⟨hlisted, hplace⟩]
  · rw [if_neg (fun h => hlisted h.1), binSum_of_unlisted hlisted, Nat.zero_div]
    rfl

theorem byteOf_ofNat {v : Nat} (hv : v < 2 ^ 64) (j : Nat) : byteOf (BitVec.ofNat 64 v) j = BitVec.ofNat 8 (v / 256 ^ j) := by
  rw [byteOf, BitVec.toNat_ofNat, Nat.mod_eq_of_lt hv]

/-! ### The instructions -/

section
variable {l : Limits} {q : QEntry} {x : Engine} {e : Eng} {im : StreamImm} {g a b : BitVec 4} {ad : BitVec 3} {k : BitVec 6}

theorem effect_vcmp (hi : q.i = .vcmp e im ad a b) : (tileEffect l q x).x =
    onAccs x ad 2 16 q.n (fun u ks => cmpAcc u (fun i => decide (q.el x.scratch a i ≠ q.el x.scratch b i)) ks) := by
  cases q
  subst hi
  rfl

/-- The elements that a mask does not take out. -/
def unmasked (q : QEntry) (m : List Host.Cell) (mk : BitVec 4) (men : Bool) (ks : List Nat) : List Nat :=
  ks.filter (fun i => !(men && decide (q.el m mk i = 1)))

theorem effect_stat {mk : BitVec 4} {men : Bool} (hi : q.i = .stat e im ad a k mk men) : (tileEffect l q x).x =
    onAccs x ad 2 16 q.n (fun u ks => (unmasked q x.scratch mk men ks).foldl
      (fun u i => u.stat (bitsOf (q.s k) 0 16) (q.el x.scratch a i) (statV (q.d a).fmt (q.el x.scratch a i))) u) := by
  cases q
  subst hi
  rfl

/-- The bin of an element. -/
def histBin (q : QEntry) (m : List Host.Cell) (a nb sh : BitVec 4) (i : Nat) : Nat :=
  min (statV (q.d a).fmt (q.el m a i) / 2 ^ sh.toNat) (2 ^ nb.toNat - 1)

theorem effect_hist {nb sh mk : BitVec 4} {men : Bool} (hi : q.i = .hist e im a nb sh mk men) : (tileEffect l q x).x =
    { x with hist0 := histAdd x.hist0 (histBin q x.scratch a nb sh) (unmasked q x.scratch mk men ((tileParts q.n).getD 0 []))
             hist1 := histAdd x.hist1 (histBin q x.scratch a nb sh) (unmasked q x.scratch mk men ((tileParts q.n).getD 1 [])) } := by
  rw [tileParts_eq]
  cases q
  subst hi
  rfl

theorem effect_crc (hi : q.i = .crc e im ad a) : (tileEffect l q x).x =
    { x with acc0 := put (fun _ => Acc.clear) x.acc0 ad.toNat { look (fun _ => Acc.clear) x.acc0 ad.toNat with
        crc := crcBytes x.scratch (look (fun _ => Acc.clear) x.acc0 ad.toNat).crc ((q.d a).row 0) (runBytes (q.d a).fmt q.n) } } := by
  cases q
  subst hi
  rfl

theorem effect_aclr (hi : q.i = .aclr e g ad) : (tileEffect l q x).x =
    { x with acc0 := drop1 x.acc0 ad.toNat, acc1 := drop1 x.acc1 ad.toNat } := by
  cases q
  subst hi
  rfl

theorem effect_tld {t : BitVec 2} (hi : q.i = .tld e g t k) : (tileEffect l q x).x =
    { x with tabs := replaceRange (fun _ => 0) x.tabs (t.toNat * 4096) 4096 (tabFrom x.scratch t.toNat (q.s k)) } := by
  cases q
  subst hi
  rfl

theorem effect_hclr (hi : q.i = .hclr e g) : (tileEffect l q x).x = { x with hist0 := [], hist1 := [] } := by
  cases q
  subst hi
  rfl

theorem effect_hput (hi : q.i = .hput e g k) :
    (tileEffect l q x).x = { x with scratch := hputMem l x.scratch x.hist0 x.hist1 (q.s k) } := by
  cases q
  subst hi
  rfl

end

/-- Settles O17: by the elements of each tile for the accumulators and bins, by the bytes for the stores. -/
theorem tileRecords : Obligations.TileRecords := by
  unfold Obligations.TileRecords
  intro l q x e im g a b ad k nb sh mk men t m n A B S U y part kept acc bin c32 others
  have hlevel : bitsOf (q.s k) 0 16 = S % 2 ^ 16 := by rw [bitsOf, Nat.pow_zero, Nat.div_one]
  refine ⟨fun hi => ?_, fun hi => ?_, fun hi => ?_, fun hi => ?_, fun hi => ?_, fun hi => ?_, fun hi => ?_, fun hi => ?_⟩
  · have hy : y = _ := effect_vcmp hi
    refine ⟨by rw [hy]; rfl, fun c hc i hne => ?_, fun c hc hcnt hnsat => ?_⟩
    · rw [hy]
      exact (look_onAccs _ _ _ _ hc i).trans (if_neg hne)
    · rw [hy]
      exact ((look_onAccs _ _ _ _ hc _).trans (if_pos rfl)).trans (cmpAcc_eq _ _ _ hcnt hnsat)
  · have hy : y = _ := effect_stat hi
    rw [hlevel] at hy
    refine ⟨by rw [hy]; rfl, fun c hc i hne => ?_, fun c hc => ?_⟩
    · rw [hy]
      exact (look_onAccs _ _ _ _ hc i).trans (if_neg hne)
    · intro u ks hcnt hnsat hsum hssq
      have hks : ks = unmasked q m mk men ((tileParts n).getD c []) := by
        obtain rfl | rfl : c = 0 ∨ c = 1 := by omega
        · rfl
        · rfl
      rw [hy]
      refine ((look_onAccs _ _ _ _ hc _).trans (if_pos rfl)).trans ?_
      rw [← hks]
      exact foldl_stat _ A U ks u hcnt hnsat hsum hssq
  · have hy : y = _ := effect_hist hi
    rw [hy]
    exact ⟨rfl, fun i => ⟨look_histAdd _ _ _ _, look_histAdd _ _ _ _⟩⟩
  · have hy : y = _ := effect_crc hi
    refine ⟨by rw [hy], fun c hc i hne => ?_, crcBytes m (acc x 0 ad.toNat).crc ((q.d a).row 0), rfl,
      fun j _ => crcBytes_succ _ _ _ _, ?_⟩
    · rw [hy]
      obtain rfl | rfl : c = 0 ∨ c = 1 := by omega
      · exact (look_put _ _ _ _ _).trans (if_neg hne)
      · rfl
    · rw [hy]
      exact (look_put _ _ _ _ _).trans (if_pos rfl)
  · have hy : y = _ := effect_aclr hi
    have hcopy (c : Nat) (hc : c < 2) (i : Nat) : acc y c i = if i = ad.toNat then Acc.clear else acc x c i := by
      rw [hy]
      obtain rfl | rfl : c = 0 ∨ c = 1 := by omega
      · exact look_drop1 _ _ _ _
      · exact look_drop1 _ _ _ _
    exact ⟨by rw [hy], fun c hc i hne => (hcopy c hc i).trans (if_neg hne), fun c hc => (hcopy c hc _).trans (if_pos rfl)⟩
  · intro _ hS
    have hy : y = _ := effect_tld hi
    refine ⟨by rw [hy], fun i => ?_⟩
    rw [hy]
    refine (look_replaceRange _ _ _ _ _ _).trans ?_
    rw [← Nat.succ_mul]
    split
    · next hin =>
      obtain ⟨j, rfl⟩ := Nat.exists_eq_add_of_le hin.1
      rw [look_tabFrom m t.toNat hS (by omega), Nat.add_sub_cancel_left]
      rfl
    · rfl
  · have hy : y = _ := effect_hclr hi
    rw [hy]
    exact ⟨rfl, fun i => ⟨rfl, rfl⟩⟩
  · have hy : y = _ := effect_hput hi
    rw [hy]
    refine ⟨rfl, fun hbins j hj => hputMem_outside l m _ _ hbins hj, fun hopen i hi j hj => ?_⟩
    refine (hputMem_inside m _ _ hopen hi hj).trans (byteOf_ofNat ?_ j).symm
    exact lt_of_lt_of_le (counter_lt _) (by decide)

end Sys2Proof.Machine
end

section
/-! SUPPORT. A context of lbl that counts more entries than its merge list holds (R97, Table 3.9). -/

namespace Sys2Proof.Machine

/-- A context at 256 with MLIST 504, MCAP 0 and MCNT 1, so that the entry at index MCNT lies at 512, where the output run begins;
two set pixels at 768, and above them the labels 5 and 7 at 1024. -/
def overcountScratch : List Host.Cell := [(264, 0xF8), (265, 1), (272, 1), (768, 1), (769, 1), (1024, 5), (1028, 7)]

/-- A run of two elements. -/
def pairRun (addr fmt : Nat) : Desc := ⟨BitVec.ofNat 64 (addr + fmt * 2 ^ 41 + 2 ^ 48), 0⟩

/-- lbl over the two pixels. -/
def overcountEntry : QEntry where
  seq := 0
  i := .lbl 0 ⟨0, 0, false⟩ 1 2 3 1 false
  on := true
  descs := [(1, pairRun 512 8), (2, pairRun 768 2), (3, pairRun 1024 8)]
  sregs := [(1, 256)]
  applied := false

/-- The scratch that lbl leaves: the entry (5, 7) in the place of the labels 5 and 5. -/
theorem scratch_overcount : (tileEffect ⟨0, 0⟩ overcountEntry { scratch := overcountScratch }).x.scratch =
    [(264, 0xF8), (265, 1), (272, 2), (512, 5), (515, 7), (768, 1), (769, 1), (1024, 5), (1028, 7)] := by decide

/-- Refutes O18: nothing in the clause of lbl keeps MCNT at or below MCAP. Where it stands above, R97 appends behind the list, and
here over the output run: label 0 reads 5 + 7 x 2^24, and not 5, the smallest label beside its pixel. -/
theorem not_labelsFeaturesAndCodes : ¬ Obligations.LabelsFeaturesAndCodes := by
  unfold Obligations.LabelsFeaturesAndCodes
  rintro ⟨-, -, -, -, -, hclauses⟩
  obtain ⟨hlbl, -⟩ := hclauses ⟨0, 0⟩ overcountEntry { scratch := overcountScratch } 0 ⟨0, 0, false⟩ 0 1 2 3 0 0 1 0 false
  obtain ⟨N, -, -, -, hrow, -⟩ := hlbl rfl (by decide) (by decide) (by decide) (by decide) (by decide) (by decide) (by decide)
    (by decide) (by decide)
  have hlabel := (hrow 0 (by decide)).2
  rw [scratch_overcount] at hlabel
  rw [if_neg (by decide), if_pos (by decide)] at hlabel
  exact absurd hlabel (by decide)

end Sys2Proof.Machine
end

section
/-! SUPPORT. A tick under SRC = 1 whose tokens let a retransmission read the hub, where a field of HUB_MAP holds a number its six
bits cannot. -/

namespace Sys2Proof.Machine

/-- COUNT at 1 with a retransmission to send from a word of the hub that has a codeword in error, and slot 0 of the map at
physical channel 1264: the count of corrected codewords of that channel would lie at 0x710028 + 0x1000 x 1264, the address of
TIM_OFS_FRAC. -/
def strayMap : State :=
  let s : State := { State.reset with
    count := 1
    hubU := { on := true, errs := [(0, [(0, 1)])] }
    out := { streams := [(0, { ret := [⟨0, 0, 0, some 0, none⟩] })], ports := [(0, { q := [⟨0, 0, .retx⟩] })] }
    regs := [((Rf.HUB_MAP_PHYS 0).key, 1264)] }
  let s := ((s.setrf Rf.GLB_STATUS_MODE 1).setrf Rf.CAD_GEAR_STATE 1).setrf Rf.CAD_SRC_SRC 1
  let s := (s.setrf (Rf.PAK_SP_STAT_UP 0) 1).setrf (Rf.BRK_DST2_EN 0) 1
  s.setrf Rf.TIM_OFS_FRAC_OFFSET 858993458

/-- After an operation CAD_TICK_TIME shows the device time (R115). -/
def showsNow {φ ρ : Type} : Host.Outcome State φ ρ → Bool
  | .next t => t.rf Rf.CAD_TICK_TIME_NS == t.now % 2 ^ 32
  | _ => true

/-- The tick shows its device time, then counts the corrected codeword into the fraction of OFFSET: the device time moves on. -/
theorem tickTime_strayMap : showsNow (exec .tickTime strayMap) = false := by decide +kernel

/-- Refutes O26: its first clause speaks of every register store, and there the device time of the instant can move within a
tick. Where HUB_MAP gives slot 0 a physical channel above 63, which its field of six bits cannot hold, the count of corrected
codewords of that channel has the address of TIM_OFS_FRAC, and a retransmission that starts behind the tick's tokens counts
there: CAD_TICK_TIME shows the device time from before. -/
theorem not_ticksCloseAndOpen : ¬ Obligations.TicksCloseAndOpen := by
  unfold Obligations.TicksCloseAndOpen
  rintro ⟨hticks, -⟩
  obtain ⟨-, hmade, -⟩ := hticks strayMap (by decide +kernel)
  obtain ⟨t, ht, -, -, -, -, hshown, -⟩ := hmade (by decide +kernel) rfl
  have hnot := tickTime_strayMap
  rw [ht] at hnot
  exact absurd hshown (by simpa [showsNow] using hnot)

end Sys2Proof.Machine
end

section
/-! SUPPORT. What serving the outputs leaves alone (10.5 to 10.7): the cadence unit, the units and engines, COUNT, and the register
fields below those of the ports. -/

namespace Sys2Proof.Machine

/-! ### Which register fields move -/

/-- Only register fields with keys in `K` differ. -/
def Moves (K : Nat → Prop) (s t : State) : Prop := ∀ f : Fld, ¬ K f.key → t.rf f = s.rf f

theorem Moves.refl (K : Nat → Prop) (s : State) : Moves K s s := fun _ _ => rfl

theorem Moves.trans {K : Nat → Prop} {s t u : State} (h1 : Moves K s t) (h2 : Moves K t u) : Moves K s u :=
  fun f hf => (h2 f hf).trans (h1 f hf)

theorem Moves.mono {K L : Nat → Prop} {s t : State} (h : Moves K s t) (hKL : ∀ k, K k → L k) : Moves L s t :=
  fun f hf => h f (fun hk => hf (hKL _ hk))

theorem Moves.foldl {K : Nat → Prop} {α : Type} {f : State → α → State} (hf : ∀ s a, Moves K s (f s a)) (l : List α)
    (s : State) : Moves K s (l.foldl f s) :=
  foldl_relates (Moves.refl K) Moves.trans hf l s

theorem Moves.setrf {K : Nat → Prop} (s : State) {f : Fld} (hf : K f.key) (v : Nat) : Moves K s (s.setrf f v) :=
  fun g hg => State.rf_setrf s f g v (fun e => hg (e ▸ hf))

theorem Moves.bump {K : Nat → Prop} (s : State) {f : Fld} (hf : K f.key) (n : Nat) : Moves K s (s.bump f n) := .setrf s hf _

theorem Moves.of_calm {K : Nat → Prop} {s t : State} (h : Calm s t) (hK : ∀ k, hubMoved k → K k) : Moves K s t :=
  fun f hf => h.flds f (fun hk => hf (hK _ hk))

theorem Moves.raise {K : Nat → Prop} (hK : ∀ k, hubMoved k → K k) (s : State) (c a0 a1 a2 : Nat) :
    Moves K s (s.raise c a0 a1 a2) := .of_calm (.raise s c a0 a1 a2) hK

theorem Moves.bit {K : Nat → Prop} {s t : State} (h : Moves K s t) {f : Fld} (hf : ¬ K f.key) : t.bit f = s.bit f :=
  congrArg (fun v : Nat => decide (v ≠ 0)) (h f hf)

/-- The keys of the fields of the ports and of everything above them: those of the cadence unit lie below. -/
def farKey (k : Nat) : Prop := 0x200000 * 64 ≤ k

theorem farKey_of_addr {f : Fld} (h : 0x200000 ≤ f.addr) : farKey f.key := by
  unfold farKey Fld.key
  omega

theorem farKey_of_hubMoved {k : Nat} (h : hubMoved k) : farKey k := by
  rcases h with hk | ⟨c, rfl⟩
  · exact (show ∀ k ∈ [Rf.HUB_ACCERR_COUNT.key, Rf.HUB_ACCERR_ADDR.key, Rf.HUB_TC0_TOKWAIT.key] ++ eventFlds.map Fld.key,
      0x200000 * 64 ≤ k by decide) k hk
  · exact farKey_of_addr (f := Rf.HUB_CH_STAT_SR c) (show 0x200000 ≤ 0x710008 + 0x1000 * c by omega)

/-! ### Reads of the hub, whatever codewords they find in error -/

theorem startMigration_moves (s : State) (slot : Nat) : Moves farKey s (s.startMigration slot) := by
  have hstat {f : Fld} (h : 0x200000 ≤ f.addr) (t : State) (v : Nat) : Moves farKey t (t.setrf f v) := .setrf t (farKey_of_addr h) v
  have hrole (t : State) (c v : Nat) : Moves farKey t (t.setrf (Rf.HUB_CH_STAT_ROLE c) v) :=
    hstat (Nat.le_add_right_of_le (by decide)) t v
  have hraise := Moves.raise (K := farKey) (fun _ => farKey_of_hubMoved)
  have hslot (t : State) (a b c d e : Nat) : Moves farKey t (((((t.setrf Rf.HUB_MIGSTAT_ACTIVE a).setrf Rf.HUB_MIGSTAT_RELOC
      b).setrf Rf.HUB_MIGSTAT_SLOT c).setrf Rf.HUB_MIGSTAT_TARGET d).setrf Rf.HUB_MIGSTAT_POINTER e) :=
    (((hstat (by decide) _ _).trans (hstat (by decide) _ _)).trans (hstat (by decide) _ _)).trans
      ((hstat (by decide) _ _).trans (hstat (by decide) _ _))
  unfold State.startMigration
  dsimp only
  split
  · have hspares (t : State) (v : Nat) : Moves farKey t (t.setrf Rf.HUB_STAT_SPARES v) := hstat (by decide) t v
    exact (((hslot _ _ _ _ _ _).trans (hrole _ _ _)).trans (hrole _ _ _)).trans ((hspares _ _).trans (hraise _ _ _ _ _))
  · split
    · exact hraise _ _ _ _ _
    · split
      · exact hraise _ _ _ _ _
      · split
        · refine Moves.trans ?_ (hraise _ _ _ _ _)
          exact Moves.trans (t := { s with hubU := { s.hubU with deferred := some slot } }) (fun _ _ => rfl) (hstat (by decide) _ _)
        · exact ((hslot _ _ _ _ _ _).trans (hrole _ _ _)).trans (hraise _ _ _ _ _)

theorem triggerMigration_moves (s : State) (slot : Nat) : Moves farKey s (s.triggerMigration slot) := by
  unfold State.triggerMigration
  split
  · split
    · exact .refl _ s
    · exact Moves.trans (t := { s with hubU := _ }) (fun _ _ => rfl) (.setrf _ (farKey_of_addr (by decide)) _)
  · exact startMigration_moves s slot

theorem corrected_moves (s : State) (k : Nat) : Moves farKey s (s.corrected k) := by
  have hcount (t : State) (c : Nat) : Moves farKey t (t.bump (Rf.HUB_CH_ERR_CORR c)) :=
    .bump t (farKey_of_addr (Nat.le_add_right_of_le (by decide))) 1
  unfold State.corrected
  dsimp only
  split
  · split
    · refine Moves.trans ?_ (triggerMigration_moves _ _)
      refine Moves.trans ?_ (.raise (fun _ => farKey_of_hubMoved) _ _ _ _ _)
      exact hcount { s with hubU := _ } _
    · exact hcount { s with hubU := _ } _
  · exact fun _ _ => rfl

theorem noteErrs_moves (s : State) (es : List (Nat × List (Nat × Nat))) : Moves farKey s (s.noteErrs es) := by
  refine .foldl (fun s e => ?_) es s
  split
  · exact corrected_moves s e.1
  · exact (Moves.bump _ (farKey_of_addr (Nat.le_add_right_of_le (by decide))) 1).trans (.raise (fun _ => farKey_of_hubMoved) _ _ _ _ _)

theorem readAs_moves (s : State) (cls src a n : Nat) : Moves farKey s (s.readAs cls src a n).1 := by
  have hnote : Moves farKey s (s.noteRead cls a (min n (s.capacity - a))) :=
    (Moves.of_calm (touchAll_calm s false cls _) (fun _ => farKey_of_hubMoved)).trans (noteErrs_moves _ _)
  unfold State.readAs
  dsimp only
  split
  · exact hnote.trans (.of_calm (hubRefused_calm _ _ _) (fun _ => farKey_of_hubMoved))
  · exact hnote

/-! ### What stands by -/

/-- From `s` to `t` the cadence unit, the units, the engines, the modes and COUNT stay, events are only added, and only register
fields with keys in `K` move. -/
structure Bystands (K : Nat → Prop) (s t : State) : Prop where
  cad     : t.cad = s.cad
  units   : t.units = s.units
  engines : t.engines = s.engines
  modes   : t.modes = s.modes
  count   : t.count = s.count
  queue   : s.evq <+: t.evq
  flds    : Moves K s t

section
variable {K : Nat → Prop}

theorem Bystands.refl (K : Nat → Prop) (s : State) : Bystands K s s := ⟨rfl, rfl, rfl, rfl, rfl, List.prefix_refl _, .refl K s⟩

theorem Bystands.trans {s t u : State} (h1 : Bystands K s t) (h2 : Bystands K t u) : Bystands K s u :=
  ⟨h2.cad.trans h1.cad, h2.units.trans h1.units, h2.engines.trans h1.engines, h2.modes.trans h1.modes, h2.count.trans h1.count,
    h1.queue.trans h2.queue, h1.flds.trans h2.flds⟩

theorem Bystands.foldl {α : Type} {f : State → α → State} (hf : ∀ s a, Bystands K s (f s a)) (l : List α) (s : State) :
    Bystands K s (l.foldl f s) :=
  foldl_relates (Bystands.refl K) Bystands.trans hf l s

theorem Bystands.mono {L : Nat → Prop} {s t : State} (h : Bystands K s t) (hKL : ∀ k, K k → L k) : Bystands L s t :=
  { h with flds := h.flds.mono hKL }

theorem Bystands.wu {s t : State} (h : Bystands K s t) (u : Nat) : t.wu u = s.wu u := by
  rw [State.wu, h.units]; rfl

theorem Bystands.setrf (s : State) {f : Fld} (hf : K f.key) (v : Nat) : Bystands K s (s.setrf f v) :=
  ⟨rfl, rfl, rfl, rfl, rfl, List.prefix_refl _, .setrf s hf v⟩

theorem Bystands.bump (s : State) {f : Fld} (hf : K f.key) (n : Nat) : Bystands K s (s.bump f n) := .setrf s hf _

theorem Bystands.of_accessed {s t : State} (h : Accessed s t) (hf : Moves K s t) : Bystands K s t :=
  ⟨(congrArg State.cad h.rest :), (congrArg State.units h.rest :), h.engines, (congrArg State.modes h.rest :), h.count, h.queue, hf⟩

theorem Bystands.raise (hK : ∀ k, hubMoved k → K k) (s : State) (c a0 a1 a2 : Nat) : Bystands K s (s.raise c a0 a1 a2) :=
  .of_accessed (Fetched.raise s c a0 a1 a2).accessed (.raise hK s c a0 a1 a2)

theorem Bystands.raiseMs (hK : ∀ k, hubMoved k → K k) (s : State) (c u a1 a2 : Nat) : Bystands K s (s.raiseMs c u a1 a2) := by
  unfold State.raiseMs
  split
  · have hstamp : Bystands K s (s.stamp (stampKey c u)) := ⟨rfl, rfl, rfl, rfl, rfl, List.prefix_refl _, fun _ _ => rfl⟩
    exact hstamp.trans (.raise hK _ c u a1 a2)
  · exact .refl K s

theorem Bystands.writeAs (hK : ∀ k, hubMoved k → K k) (s : State) (own : Bool) (cls src a n : Nat) (cells : List Host.Cell) :
    Bystands K s (s.writeAs own cls src a n cells) :=
  .of_accessed (writeAs_accessed s own cls src a n cells) (.of_calm (writeAs_calm s own cls src a n cells) hK)

/-- A change of the outputs alone. -/
theorem Bystands.out (s : State) (o : OutUnit) : Bystands K s { s with out := o } :=
  ⟨rfl, rfl, rfl, rfl, rfl, List.prefix_refl _, fun _ _ => rfl⟩

/-- A draw of a free value. -/
theorem Bystands.free (s : State) (n : Nat) : Bystands K s { s with free := n } :=
  ⟨rfl, rfl, rfl, rfl, rfl, List.prefix_refl _, fun _ _ => rfl⟩

/-- A change of the ports alone. -/
theorem Bystands.setPort (s : State) (p : Nat) (x : PortUnit) : Bystands K s (s.setPort p x) :=
  ⟨rfl, rfl, rfl, rfl, rfl, List.prefix_refl _, fun _ _ => rfl⟩

end

/-! ### The outputs -/

/-- An item of the outputs moves: the fields it counts in lie above those of the cadence unit. -/
def Flows (s t : State) : Prop := Bystands farKey s t

theorem Flows.trans {s t u : State} (h1 : Flows s t) (h2 : Flows t u) : Flows s u := Bystands.trans h1 h2
theorem Flows.out (s : State) (o : OutUnit) : Flows s { s with out := o } := Bystands.out s o
theorem Flows.setStr (s : State) (st : Nat) (x : StreamSt) : Flows s (s.setStr st x) := .out s _
theorem Flows.setSp (s : State) (p : Nat) (x : StrPort) : Flows s (s.setSp p x) := .out s _
theorem Flows.setHand (s : State) (j : Nat) (h : Hand) : Flows s (s.setHand j h) := .out s _
theorem Flows.bump (s : State) {f : Fld} (h : 0x200000 ≤ f.addr) : Flows s (s.bump f) := Bystands.bump s (farKey_of_addr h) 1
theorem Flows.setrf (s : State) {f : Fld} (h : 0x200000 ≤ f.addr) (v : Nat) : Flows s (s.setrf f v) :=
  Bystands.setrf s (farKey_of_addr h) v
theorem Flows.raiseMs (s : State) (c u : Nat) : Flows s (s.raiseMs c u) := Bystands.raiseMs (fun _ => farKey_of_hubMoved) s c u 0 0

theorem take_flows (s : State) (src : Nat) (x : OutItem) : Flows s (s.take src x) := by
  unfold State.take
  dsimp only
  split
  · split
    · exact Bystands.refl _ s
    · exact .bump s (by decide)
  · exact .setHand s src _

theorem nextHeader_flows (s : State) : Flows s s.nextHeader := by
  unfold State.nextHeader
  split
  · exact Flows.trans (.out s _) (take_flows _ _ _)
  · exact Bystands.refl _ s

theorem cancelTx_flows (s : State) (st : Nat) (p : Nat → Bool) : Flows s (s.cancelTx st p) := .setSp s _ _

theorem dropOldest_flows (s : State) (st : Nat) : Flows s (s.dropOldest st) := by
  unfold State.dropOldest
  dsimp only
  split
  · exact Bystands.refl _ s
  · refine Flows.trans ?_ (.raiseMs _ _ _)
    exact ((Flows.setStr s st _).trans (cancelTx_flows _ st _)).trans (.bump _ (Nat.le_add_right_of_le (by decide)))

theorem makeRoom_flows (st n : Nat) : ∀ (k : Nat) (s : State), Flows s (s.makeRoom st n k)
  | 0, s => Bystands.refl _ s
  | k + 1, s => by
    unfold State.makeRoom
    split
    · exact Bystands.refl _ s
    · exact (dropOldest_flows s st).trans (makeRoom_flows st n k _)

theorem putArea_flows (s : State) (cls src : Nat) (r : HubArea) (k : Nat) (ws : List Word) : Flows s (s.putArea cls src r k ws) := by
  have hpieces (l : List (Nat × Nat)) : ∀ q : State × List Word, Flows q.1 (l.foldl (fun (q : State × List Word) p =>
      (q.1.writeAs false cls src p.1 (8 * p.2) (wordCells p.1 (q.2.take p.2)), q.2.drop p.2)) q).1 := by
    induction l with
    | nil => exact fun q => Bystands.refl _ q.1
    | cons p l ih =>
      intro q
      rw [List.foldl_cons]
      exact Flows.trans (Bystands.writeAs (fun _ => farKey_of_hubMoved) q.1 _ _ _ _ _ _) (ih (_, _))
  exact hpieces _ (s, ws)

theorem getArea_flows (s : State) (cls src : Nat) (r : HubArea) (k n : Nat) : Flows s (s.getArea cls src r k n).2 := by
  have hpieces (l : List (Nat × Nat)) : ∀ q : List Word × State, Flows q.2 (l.foldl (fun (q : List Word × State) p =>
      (q.1 ++ cellWords (q.2.readAs cls src p.1 (8 * p.2)).2 p.1 p.2, (q.2.readAs cls src p.1 (8 * p.2)).1)) q).2 := by
    induction l with
    | nil => exact fun q => Bystands.refl _ q.2
    | cons p l ih =>
      intro q
      rw [List.foldl_cons]
      exact Flows.trans (Bystands.of_accessed (readAs_fetched q.2 _ _ _ _).accessed (readAs_moves q.2 _ _ _ _)) (ih (_, _))
  exact hpieces _ ([], s)

theorem complete_flows {s t : State} {st : Nat} (h : s.complete st = some t) : Flows s t := by
  unfold State.complete at h
  dsimp only at h
  generalize hroom : (if (s.bit (Rf.PAK_STR_CFG_RETPOL st) && s.hubOpen) = true then _ else s) = u at h
  have hu : Flows s u := by
    rw [← hroom]
    split
    · exact makeRoom_flows _ _ _ s
    · exact Bystands.refl _ s
  split at h
  · rw [Option.some.injEq] at h
    refine hu.trans ?_
    have hseq (v : State) (n : Nat) : Flows v (v.setrf (Rf.PAK_STR_SEQ_NEXT st) n) := .setrf v (Nat.le_add_right_of_le (by decide)) n
    rw [← h]
    split
    · exact ((putArea_flows u _ _ _ _ _).trans (.setStr _ st _)).trans (hseq _ _)
    · exact (((putArea_flows u _ _ _ _ _).trans (.setStr _ st _)).trans (hseq _ _)).trans (.setSp _ _ _)
  · exact absurd h (by simp)

theorem fillStream_flows (st : Nat) : ∀ (k : Nat) (s : State), Flows s (s.fillStream st k)
  | 0, s => Bystands.refl _ s
  | k + 1, s => by
    unfold State.fillStream
    split
    · exact Bystands.refl _ s
    · dsimp only
      split
      · exact (((Flows.setStr s st _).trans (.setHand _ _ _)).trans (nextHeader_flows _)).trans (fillStream_flows st k _)
      · split
        · exact Bystands.refl _ s
        · split
          · next t ht => exact (complete_flows ht).trans (fillStream_flows st k t)
          · exact Bystands.refl _ s

theorem flushDue_flows (s : State) (st : Nat) : Flows s (s.flushDue st) := by
  unfold State.flushDue
  dsimp only
  split
  · cases h : s.complete st with
    | none => exact Bystands.refl _ s
    | some t => exact complete_flows h
  · exact Bystands.refl _ s

theorem answerDue_flows (s : State) (p : Nat) : Flows s (s.answerDue p) := by
  unfold State.answerDue
  dsimp only
  split
  · split
    · exact .setSp s p _
    · exact Bystands.refl _ s
  · exact Bystands.refl _ s

theorem txWords_flows (s : State) (t : Tx) : Flows s (s.txWords t).2 := by
  have hgone : Flows s (s.goneWords t).2 := by
    unfold State.goneWords
    split
    · exact Bystands.refl _ s
    · exact Bystands.free s _
  have hret (d : Dgram) : Flows s (s.retWords t d).2 := by
    unfold State.retWords
    dsimp only
    refine Flows.trans ?_ (getArea_flows _ _ _ _ _ _)
    split
    · exact putArea_flows s _ _ _ _ _
    · exact Bystands.refl _ s
  unfold State.txWords
  split
  · exact hgone
  · exact hret _
  · exact Bystands.refl _ s

theorem txStart_flows (s : State) (p : Nat) (t : Tx) (n : Nat) : Flows s (s.txStart p t n) := by
  have hsent := txWords_flows s t
  unfold State.txStart
  dsimp only
  split
  · exact ((hsent.trans (.setStr _ _ _)).trans (.setSp _ _ _)).trans (.bump _ (Nat.le_add_right_of_le (by decide)))
  · exact (hsent.trans (.setStr _ _ _)).trans (.setSp _ _ _)

theorem startTx_flows (s : State) (p : Nat) : Flows s (s.startTx p) := by
  unfold State.startTx
  split
  · exact Bystands.refl _ s
  · split
    · exact Bystands.refl _ s
    · split
      · exact .setSp s p _
      · dsimp only
        split
        · exact Bystands.refl _ s
        · split
          · exact txStart_flows s p _ _
          · split
            · exact Bystands.refl _ s
            · exact ((Flows.setSp s p _).trans (.bump _ (by decide))).trans (.raiseMs _ _ _)

theorem flow_flows (s : State) : Flows s s.flow := by
  have hstreams : Flows s ((List.range 8).foldl (fun s st => (s.fillStream st 128).flushDue st) s.nextHeader) :=
    (nextHeader_flows s).trans (Bystands.foldl (fun s st => (fillStream_flows st 128 s).trans (flushDue_flows _ st)) _ _)
  exact (((hstreams.trans (answerDue_flows _ 0)).trans (answerDue_flows _ 1)).trans (startTx_flows _ 0)).trans (startTx_flows _ 1)

end Sys2Proof.Machine
end

section
/-! SUPPORT. What serving the sections leaves alone (4.2 to 4.4): tokens are only added, the sections' pointers, the gears and the
set-change marks of the bands, BACKLOG and the outputs move, and bands nothing asks for are forgotten. -/

namespace Sys2Proof.Machine

/-! ### A token -/

/-- The keys of the fields of a port that are no enable. -/
def portKey (k : Nat) : Prop := 0x200000 * 64 ≤ k ∧ k < 0x230000 * 64 ∧ k % 0x40000 ≠ 0

theorem farKey_of_portKey {k : Nat} (h : portKey k) : farKey k := h.1

/-- A field at bit `lo` of a port's register at an offset of 0x8 to 0xFF8 within its block. -/
theorem portKey_of_offset {f : Fld} (p off lo : Nat) (hp : p < 48) (haddr : f.addr = 0x200000 + off + 0x1000 * p)
    (hbit : f.lo = lo) (hoff : 0 < off) (htop : off < 0x1000) (hlo : lo < 64) : portKey f.key := by
  unfold portKey Fld.key
  omega

theorem formSsids_bystands (s : State) {p : Nat} (hp : p < 48) (n : Nat) : Bystands portKey s (s.formSsids p n).2 := by
  have hset (t : State) (v : Nat) : Bystands portKey t (t.setrf (Rf.SPK_SETSTAT_S0 p) v) :=
    .setrf t (portKey_of_offset p 0x140 8 hp rfl rfl (by decide) (by decide) (by decide)) v
  have hset1 (t : State) (v : Nat) : Bystands portKey t (t.setrf (Rf.SPK_SETSTAT_S1 p) v) :=
    .setrf t (portKey_of_offset p 0x140 16 hp rfl rfl (by decide) (by decide) (by decide)) v
  exact (Bystands.setPort s p _).trans ((hset _ _).trans (hset1 _ _))

/-- What a band is, and whether it is held and lost. -/
def BandRec.fate (b : BandRec) : Nat × Bool × Bool := (b.band, b.held, b.lost)

theorem BandRec.fate_eq {a b : BandRec} (h : b.fate = a.fate) : b.band = a.band ∧ b.held = a.held ∧ b.lost = a.lost := by
  simpa [BandRec.fate] using h

/-- The state in which a unit's token of a band is formed: its settings-set references, and the mark of a set change. -/
def State.formed (s : State) (n u : Nat) : State :=
  let r : Nat × State := if u < 48 then s.formSsids u n else s.freeBits 64
  if u < 48 ∧ r.1.testBit 16 then r.2.setBand n (fun b => { b with setchg := b.setchg ||| 2 ^ u }) else r.2

/-- Only what a unit's token changes in the bands, and the fields of its port. -/
theorem formed_cases (s : State) (n u : Nat) : ∃ r, Bystands portKey s r ∧
    (s.formed n u = r ∨ s.formed n u = r.setBand n (fun b => { b with setchg := b.setchg ||| 2 ^ u })) := by
  unfold State.formed
  dsimp only
  have hr : Bystands portKey s (if u < 48 then s.formSsids u n else s.freeBits 64).2 := by
    split
    · next hu => exact formSsids_bystands s hu n
    · exact Bystands.free s _
  exact ⟨_, hr, (ite_eq_or_eq _ _ _).symm⟩

theorem giveToken_eq (s : State) (n u : Nat) (t : Word × Word) : ∃ ref : Word, s.giveToken n u t = (s.formed n u).setWu u
    { (s.formed n u).wu u with
      toks := ((s.formed n u).wu u).toks ++ [⟨n, t.1, t.2, (s.formed n u).tokenGear n, ref⟩]
      tokAt := insert1 (((s.formed n u).wu u).tokAt.filter (fun e => decide (n < e.1 + 8))) n (s.formed n u).count
      next := n + 1 } := ⟨_, rfl⟩

/-! ### What serving keeps -/

/-- The keys of the fields that serving moves. -/
def serveKey (k : Nat) : Prop := farKey k ∨ k = Rf.CAD_HOLDINFO_BACKLOG.key

/-- The cadence unit without the sections' pointers, the due times and the bands. -/
def CadUnit.base (c : CadUnit) : CadUnit := { c with nI := 0, nF := 0, nS := 0, nP := 0, due := [], bands := [] }

/-- From `s` to `t` the sections have been served. -/
structure Serves (s t : State) : Prop where
  toks  : ∀ u, (s.wu u).toks <+: (t.wu u).toks
  next  : ∀ u, (s.wu u).next ≤ (t.wu u).next
  count : t.count = s.count
  queue : s.evq <+: t.evq
  flds  : Moves serveKey s t
  base  : t.cad.base = s.cad.base
  fates : ∀ b ∈ t.cad.bands, ∃ a ∈ s.cad.bands, b.fate = a.fate

theorem Serves.of_bystands {s t : State} (h : Bystands serveKey s t) : Serves s t where
  toks u := by rw [h.wu u]
  next u := by rw [h.wu u]
  count := h.count
  queue := h.queue
  flds := h.flds
  base := by rw [h.cad]
  fates b hb := ⟨b, h.cad ▸ hb, rfl⟩

theorem Serves.of_flows {s t : State} (h : Flows s t) : Serves s t := .of_bystands (h.mono (fun _ => .inl))

theorem Serves.refl (s : State) : Serves s s := .of_bystands (.refl _ s)

theorem Serves.trans {s t u : State} (h1 : Serves s t) (h2 : Serves t u) : Serves s u where
  toks v := (h1.toks v).trans (h2.toks v)
  next v := (h1.next v).trans (h2.next v)
  count := h2.count.trans h1.count
  queue := h1.queue.trans h2.queue
  flds := h1.flds.trans h2.flds
  base := h2.base.trans h1.base
  fates b hb := by
    obtain ⟨c, hc, hbc⟩ := h2.fates b hb
    obtain ⟨a, ha, hca⟩ := h1.fates c hc
    exact ⟨a, ha, hbc.trans hca⟩

theorem Serves.foldl {α : Type} {f : State → α → State} (hf : ∀ s a, Serves s (f s a)) (l : List α) (s : State) :
    Serves s (l.foldl f s) :=
  foldl_relates Serves.refl Serves.trans hf l s

theorem Serves.raise (s : State) (c a0 a1 a2 : Nat) : Serves s (s.raise c a0 a1 a2) :=
  .of_flows (Bystands.raise (fun _ => farKey_of_hubMoved) s c a0 a1 a2)

/-- A change of the cadence unit that keeps what serving keeps. -/
theorem Serves.setCad (s : State) {c : CadUnit} (hbase : c.base = s.cad.base)
    (hfates : ∀ b ∈ c.bands, ∃ a ∈ s.cad.bands, b.fate = a.fate) : Serves s (s.setCad c) :=
  ⟨fun _ => List.prefix_refl _, fun _ => le_refl _, rfl, List.prefix_refl _, fun _ _ => rfl, hbase, hfates⟩

theorem Serves.setBand (s : State) (n : Nat) {f : BandRec → BandRec} (hf : ∀ b, (f b).fate = b.fate) : Serves s (s.setBand n f) := by
  refine .setCad s rfl (fun b hb => ?_)
  obtain ⟨a, ha, rfl⟩ := List.mem_map.1 hb
  refine ⟨a, ha, ?_⟩
  split
  · exact hf a
  · rfl

theorem Serves.setNext (s : State) (sec n : Nat) : Serves s (s.setCad (s.cad.setNext sec n)) := by
  have hbase : (s.cad.setNext sec n).base = s.cad.base := by unfold CadUnit.setNext; split <;> rfl
  have hbands : (s.cad.setNext sec n).bands = s.cad.bands := by unfold CadUnit.setNext; split <;> rfl
  exact .setCad s hbase (fun b hb => ⟨b, hbands ▸ hb, rfl⟩)

/-- A unit that has more tokens and waits for a later one. -/
theorem Serves.setWu (s : State) (u : Nat) {w : WorkUnit} (htoks : (s.wu u).toks <+: w.toks) (hnext : (s.wu u).next ≤ w.next) :
    Serves s (s.setWu u w) where
  toks v := by
    rw [State.setWu_get_wu]
    split
    · next h => rwa [h]
    · exact List.prefix_refl _
  next v := by
    rw [State.setWu_get_wu]
    split
    · next h => rwa [h]
    · exact le_refl _
  count := rfl
  queue := List.prefix_refl _
  flds := .refl _ s
  base := rfl
  fates b hb := ⟨b, hb, rfl⟩

/-! ### The sections -/

theorem formed_wu (s : State) (n u v : Nat) : (s.formed n u).wu v = s.wu v := by
  obtain ⟨r, hr, h | h⟩ := formed_cases s n u <;> rw [h]
  · exact hr.wu v
  · exact hr.wu v

theorem formed_serves (s : State) (n u : Nat) : Serves s (s.formed n u) := by
  obtain ⟨r, hr, h | h⟩ := formed_cases s n u <;> rw [h]
  · exact .of_flows (hr.mono (fun _ => farKey_of_portKey))
  · exact (Serves.of_flows (hr.mono (fun _ => farKey_of_portKey))).trans (.setBand r n (fun _ => rfl))

theorem giveToken_serves {s : State} {n u : Nat} (t : Word × Word) (h : (s.wu u).next ≤ n + 1) : Serves s (s.giveToken n u t) := by
  obtain ⟨ref, hgive⟩ := giveToken_eq s n u t
  rw [hgive]
  refine (formed_serves s n u).trans (.setWu _ u (List.prefix_append _ _) ?_)
  rw [formed_wu]
  exact h

theorem giveToken_next (s : State) (n u v : Nat) (t : Word × Word) :
    ((s.giveToken n u t).wu v).next = if v = u then n + 1 else (s.wu v).next := by
  obtain ⟨ref, hgive⟩ := giveToken_eq s n u t
  rw [hgive, State.setWu_get_wu]
  split
  · rfl
  · rw [formed_wu]

theorem bandGear_serves (s : State) (sec n : Nat) : Serves s (s.bandGear sec n) := .setBand s n (fun _ => rfl)

/-- The tokens of a band go to units none of which waits for one of a later band but the next. -/
theorem giveTokens_serves (n : Nat) (t : Word × Word) : ∀ (l : List Nat) (s : State), (∀ u ∈ l, (s.wu u).next ≤ n + 1) →
    Serves s (l.foldl (fun s u => s.giveToken n u t) s)
  | [], s, _ => .refl s
  | u :: l, s, h => by
    refine (giveToken_serves t (h u (List.mem_cons_self ..))).trans (giveTokens_serves n t l _ (fun v hv => ?_))
    rw [giveToken_next]
    split
    · exact le_refl _
    · exact h v (List.mem_cons_of_mem _ hv)

theorem issue1_serves (s : State) (sec n : Nat) : Serves s (s.issue1 sec n) := by
  refine Serves.trans ?_ (.setNext _ sec (n + 1))
  refine (giveTokens_serves n _ _ s (fun u hu => ?_)).trans (bandGear_serves _ sec n)
  exact Nat.le_succ_of_le (of_decide_eq_true (List.mem_filter.1 hu).2)

theorem passUnit_serves (s : State) (n u : Nat) : Serves s (s.passUnit n u) := by
  unfold State.passUnit
  dsimp only
  have hpast : Serves s (s.setWu u { s.wu u with done := max (s.wu u).done (n + 1), next := max (s.wu u).next (n + 1) }) :=
    .setWu s u (List.prefix_refl _) (le_max_left _ _)
  split
  · exact hpast.trans (.of_bystands (Bystands.setPort _ u _))
  · exact hpast

theorem passOver_serves (s : State) (sec n : Nat) : Serves s (s.passOver sec n) :=
  (Serves.foldl (fun s u => passUnit_serves s n u) _ s).trans (.setNext _ sec (n + 1))

theorem issueSec_serves (sec : Nat) : ∀ (fuel : Nat) (s : State), Serves s (State.issueSec sec fuel s)
  | 0, s => .refl s
  | fuel + 1, s => by
    unfold State.issueSec
    dsimp only
    split
    · split
      · exact (passOver_serves s sec _).trans (issueSec_serves sec fuel _)
      · exact .refl s
    · split
      · exact .refl s
      · exact (issue1_serves s sec _).trans (issueSec_serves sec fuel _)

theorem issueAll_serves (s : State) : Serves s s.issueAll :=
  (((issueSec_serves 0 _ s).trans (issueSec_serves 1 _ _)).trans (issueSec_serves 2 _ _)).trans (issueSec_serves 3 _ _)

theorem headers_serves : ∀ (fuel : Nat) (s : State), Serves s (State.headers fuel s)
  | 0, s => .refl s
  | fuel + 1, s => by
    unfold State.headers
    dsimp only
    split
    · exact .refl s
    · split
      · exact (Serves.of_flows (.out s _)).trans (headers_serves fuel _)
      · exact .refl s

theorem forget_serves (s : State) : Serves s s.forget :=
  .setCad s rfl (fun b hb => ⟨b, (List.mem_filter.1 hb).1, rfl⟩)

theorem serve_serves (s : State) : Serves s s.serve := by
  have hbacklog (t : State) : Serves t t.showHold := .of_bystands (.setrf t (.inr rfl) _)
  have hsec := (issueAll_serves s).trans (headers_serves s.issueAll.cad.bands.length _)
  exact ((hsec.trans (forget_serves _)).trans (hbacklog _)).trans (.of_flows (flow_flows _))

/-- The end of a delay serves from the state whose delay is over. -/
theorem endJitter_serves (s : State) : Serves (s.setCad { s.cad with jit := none, jitEvs := [] }) s.endJitter := by
  have hraised (l : List (Nat × Nat × Nat × Nat)) (t : State) :
      Serves t (l.foldl (fun s e => s.raise e.1 e.2.1 e.2.2.1 e.2.2.2) t) := .foldl (fun s e => .raise s e.1 e.2.1 e.2.2.1 e.2.2.2) l t
  unfold State.endJitter
  exact (hraised s.cad.jitEvs _).trans (serve_serves _)

end Sys2Proof.Machine
end

section
/-! SUPPORT. The events of a whole list, and the commands of hold and catch-up that raise them (R130 to R136, R442). -/

namespace Sys2Proof.Machine

/-! ### An event for each element of a list -/

/-- While the queue has room, an event brings one more with it at the most. -/
theorem raise_adds_of_room {s : State} (c a0 a1 a2 : Nat) (h : s.evq.length < 1024) : Adds 2 s (s.raise c a0 a1 a2) := by
  have hmerged (b : Bool) {u : State} (hu : Adds 1 s u) : Adds 2 s (if b then u.stampSecond.record 0xA006 0 0 0 else u) := by
    cases b
    · exact hu.mono (by decide)
    · exact hu.trans (record_adds u.stampSecond 0xA006 0 0 0)
  have hroom : decide (1024 ≤ s.evq.length) = false := decide_eq_false (by omega)
  unfold State.raise
  simp only [hroom, Bool.false_and, Bool.false_eq_true, if_false]
  exact hmerged _ (record_adds s c a0 a1 a2)

/-- A fold whose every step raises the event of its element, after changes that leave the queue alone. -/
theorem foldl_raises {α : Type} {f : State → α → State} (ev : α → Nat × Nat × Nat × Nat)
    (hf : ∀ s a, ∃ u : State, u.evq = s.evq ∧ f s a = u.raise (ev a).1 (ev a).2.1 (ev a).2.2.1 (ev a).2.2.2) :
    ∀ (l : List α) (s : State), s.evq.length + 2 * l.length < 1024 →
      s.evq <+: (l.foldl f s).evq ∧ ∀ a ∈ l, Raised s (l.foldl f s) (ev a).1 (ev a).2.1 (ev a).2.2.1 (ev a).2.2.2
  | [], s, _ => ⟨List.prefix_refl _, fun _ h => absurd h List.not_mem_nil⟩
  | a :: l, s, hroom => by
    rw [List.length_cons] at hroom
    obtain ⟨u, hu, hfa⟩ := hf s a
    have hgrow : s.evq <+: (f s a).evq := by
      rw [hfa, ← hu]
      exact evq_prefix_raise u _ _ _ _
    have hadds : (f s a).evq.length ≤ s.evq.length + 2 := by
      rw [hfa, ← hu]
      exact raise_adds_of_room _ _ _ _ (by rw [hu]; omega)
    have hhead : Raised s (f s a) (ev a).1 (ev a).2.1 (ev a).2.2.1 (ev a).2.2.2 := by
      rw [hfa]
      exact (raise_raised u _ _ _ _ (by rw [hu]; omega)).earlier (by rw [hu])
    obtain ⟨hrest, htail⟩ := foldl_raises ev hf l (f s a) (by omega)
    refine ⟨hgrow.trans hrest, fun b hb => ?_⟩
    rcases List.mem_cons.1 hb with rfl | hb
    · exact hhead.later hrest
    · exact (htail b hb).earlier hgrow.length_le

/-! ### Serving, later -/

theorem Serves.raised {r s t : State} {c a0 a1 a2 : Nat} (hst : Serves s t) (h : Raised r s c a0 a1 a2) : Raised r t c a0 a1 a2 :=
  h.later hst.queue

theorem Serves.k {s t : State} (h : Serves s t) : t.cad.k = s.cad.k := (congrArg CadUnit.k h.base :)
theorem Serves.jit {s t : State} (h : Serves s t) : t.cad.jit = s.cad.jit := (congrArg CadUnit.jit h.base :)
theorem Serves.jitEvs {s t : State} (h : Serves s t) : t.cad.jitEvs = s.cad.jitEvs := (congrArg CadUnit.jitEvs h.base :)
theorem Serves.dI {s t : State} (h : Serves s t) : t.cad.dI = s.cad.dI := (congrArg CadUnit.dI h.base :)
theorem Serves.causes {s t : State} (h : Serves s t) : t.cad.causes = s.cad.causes := (congrArg CadUnit.causes h.base :)

/-- Serving leaves the registers of the cadence unit but BACKLOG alone. -/
theorem Serves.rf {s t : State} (hst : Serves s t) {f : Fld} (hlow : f.key < 0x200000 * 64)
    (hne : f.key ≠ Rf.CAD_HOLDINFO_BACKLOG.key) : t.rf f = s.rf f :=
  hst.flds f (fun h => h.elim (fun h => absurd h (Nat.not_le_of_lt hlow)) hne)

/-- The end of a delay raises the events that wait for it. -/
theorem endJitter_raised {s : State} (hroom : s.evq.length + 2 * s.cad.jitEvs.length < 1024) :
    ∀ e ∈ s.cad.jitEvs, Raised s s.endJitter e.1 e.2.1 e.2.2.1 e.2.2.2 := by
  intro e he
  unfold State.endJitter
  exact (serve_serves _).raised ((foldl_raises (fun e : Nat × Nat × Nat × Nat => e) (fun s _ => ⟨s, rfl, rfl⟩) s.cad.jitEvs
    (s.setCad { s.cad with jit := none, jitEvs := [] }) hroom).2 e he)

/-! ### Held bands -/

/-- A band that is lost. -/
def BandRec.gone (b : BandRec) : BandRec := { b with lost := true }

theorem lose_eq (s : State) (n : Nat) :
    s.lose n = ((s.setBand n BandRec.gone).bump Rf.CAD_HOLDINFO_LOST).raise 0xC007 0 n 0 := rfl

theorem lose_cad (s : State) (n : Nat) : (s.lose n).cad = (s.setBand n BandRec.gone).cad :=
  (Bystands.raise (K := farKey) (fun _ => farKey_of_hubMoved) _ _ _ _ _).cad

theorem loses_bands (l : List Nat) : ∀ s : State, (l.foldl State.lose s).cad.bands =
    s.cad.bands.map (fun b => if b.band ∈ l then b.gone else b) := by
  induction l with
  | nil => exact fun s => (List.map_id'' (fun _ => rfl) _).symm
  | cons n l ih =>
    intro s
    rw [List.foldl_cons, ih, lose_cad]
    refine (List.map_map ..).trans (List.map_congr_left (fun b _ => ?_))
    by_cases hn : b.band = n
    · simp [hn, BandRec.gone]
    · simp [hn]

theorem loses_k (l : List Nat) (s : State) : (l.foldl State.lose s).cad.k = s.cad.k :=
  foldl_keeps (fun s => s.cad.k) (fun s n => by rw [lose_cad]; rfl) l s

theorem loses_raised {l : List Nat} {s : State} (hroom : s.evq.length + 2 * l.length < 1024) :
    ∀ n ∈ l, Raised s (l.foldl State.lose s) 0xC007 0 n 0 :=
  (foldl_raises (fun n => (0xC007, 0, n, 0))
    (fun s n => ⟨(s.setBand n BandRec.gone).bump Rf.CAD_HOLDINFO_LOST, rfl, lose_eq s n⟩) l s hroom).2

/-- The held bands whose replay has not begun. -/
def State.backlog (s : State) : List Nat := (s.cad.bands.filter (fun b => b.held && !b.lost && !s.replayBegun b.band)).map (·.band)

theorem mem_backlog {s : State} {b : BandRec} (hb : b ∈ s.cad.bands) (hheld : b.held = true) (hlost : b.lost = false)
    (hnew : s.replayBegun b.band = false) : b.band ∈ s.backlog :=
  List.mem_map.2 ⟨b, List.mem_filter.2 ⟨hb, by rw [hheld, hlost, hnew]; rfl⟩, rfl⟩

theorem abandon_gives {s : State} (hroom : s.evq.length + 2 * s.cad.bands.length < 1000) (hstate : 2 ≤ s.cadState) :
    Gives .abandon s (fun t => t.cad.k = s.cad.k ∧
      (∀ b ∈ t.cad.bands, b.held = true → s.replayBegun b.band = false → b.lost = true) ∧
      ∀ b ∈ s.cad.bands, b.held = true → b.lost = false → s.replayBegun b.band = false → Raised s t 0xC007 0 b.band 0) := by
  have hserve := serve_serves (s.backlog.foldl State.lose s)
  have hlen : s.backlog.length ≤ s.cad.bands.length := by
    unfold State.backlog
    rw [List.length_map]
    exact List.length_filter_le _ _
  refine ⟨(s.backlog.foldl State.lose s).serve, ?_, ?_, ?_, ?_⟩
  · show execAbandon s = _
    unfold execAbandon
    rw [if_neg (by omega)]
    rfl
  · exact hserve.k.trans (loses_k _ s)
  · intro b hb hheld hnew
    obtain ⟨a, ha, hba⟩ := hserve.fates b hb
    obtain ⟨hband, hh, hl⟩ := BandRec.fate_eq hba
    rw [loses_bands] at ha
    obtain ⟨a0, ha0, rfl⟩ := List.mem_map.1 ha
    by_cases hin : a0.band ∈ s.backlog
    · rw [hl, if_pos hin]
      rfl
    · rw [if_neg hin] at hband hh hl
      rw [hl]
      rw [hh] at hheld
      rw [hband] at hnew
      by_contra hlost
      exact hin (mem_backlog ha0 hheld (Bool.eq_false_iff.2 hlost) hnew)
  · intro b hb hheld hlost hnew
    exact hserve.raised (loses_raised (by omega) _ (mem_backlog hb hheld hlost hnew))

/-- HOLD and ABANDON raise event 0xC00B where they change nothing. -/
theorem ignored_gives {c : Instr} {s : State} (hroom : s.evq.length < 1024) (hexec : exec c s = .next (s.raise 0xC00B 0)) :
    Gives c s (fun t => Raised s t 0xC00B 0 0 0 ∧ FieldsAndEvents [] s t) :=
  ⟨_, hexec, raise_raised s _ _ _ _ hroom, raise_frame s _ _ _ _ []⟩

theorem replayBegun_iff {s : State} (n : Nat) (hus : s.secUnits 0 ≠ []) :
    s.replayBegun n = true ↔ ∃ u ∈ s.secUnits 0, n < (s.wu u).next := by
  unfold State.replayBegun
  split
  · next hnil => exact absurd hnil hus
  · rw [List.any_eq_true]
    exact ⟨fun ⟨u, hu, h⟩ => ⟨u, hu, of_decide_eq_true h⟩, fun ⟨u, hu, h⟩ => ⟨u, hu, decide_eq_true h⟩⟩

theorem catchUpStart_gives {s : State} (hroom : s.evq.length < 1024) (hstate : s.cadState = 2)
    (hdone : ∀ i < 4, s.secDone i s.cad.h = true) (hfree : ∀ p < 48, s.portOn p = true → s.correctedFree p s.cad.h = true) :
    Gives .catchUpStart s (fun t => t.cadState = 3 ∧ Raised s t 0xC005 0 s.cad.h 0) := by
  have hserve := serve_serves ((s.setrf Rf.CAD_GEAR_STATE 3).raise 0xC005 0 s.cad.h)
  refine ⟨_, ?_, ?_, hserve.raised ((raise_raised (s.setrf Rf.CAD_GEAR_STATE 3) _ _ _ _ hroom).earlier (le_refl _))⟩
  · show execCatchUpStart s = _
    have hsecs : (List.range 4).all (fun i => s.secDone i s.cad.h) = true :=
      List.all_eq_true.2 (fun i hi => hdone i (List.mem_range.1 hi))
    have hports : s.portsOn.all (fun p => s.correctedFree p s.cad.h) = true := by
      refine List.all_eq_true.2 (fun p hp => ?_)
      obtain ⟨hp, hon⟩ := List.mem_filter.1 hp
      exact hfree p (List.mem_range.1 hp) hon
    unfold execCatchUpStart when'
    dsimp only
    rw [hsecs, hports, decide_eq_true hstate, Bool.true_and, Bool.true_and, if_pos rfl]
  · unfold State.cadState
    rw [hserve.rf (by decide) (by decide), rf_raise (by decide), State.rf_setrf_self]
    rfl

theorem tickJitterIssue_gives {s : State} {c : Nat} (hroom : s.evq.length + 2 * s.cad.jitEvs.length < 1024)
    (hjit : s.cad.jit = some c) : Gives .tickJitterIssue s (fun t => t.cad.jit = none ∧ t.cad.jitEvs = [] ∧
      t.count = max s.count c ∧ ∀ e ∈ s.cad.jitEvs, Raised s t e.1 e.2.1 e.2.2.1 e.2.2.2) := by
  have hend := endJitter_serves (s.advanceTo c)
  refine ⟨(s.advanceTo c).endJitter, ?_, hend.jit, hend.jitEvs, hend.count,
    fun e he => (endJitter_raised (s := s.advanceTo c) hroom e he).earlier (le_refl _)⟩
  show execTickJitterIssue s = _
  unfold execTickJitterIssue
  rw [hjit]

end Sys2Proof.Machine
end

section
/-! SUPPORT. The tokens that go without a tick (R132, R133, R410): what a unit's token leaves to the units after it in its section,
and when the token of a band is due. -/

namespace Sys2Proof.Machine

/-! ### The register fields that move -/

theorem le_of_hubMoved {k : Nat} (h : hubMoved k) : 0x700000 * 64 ≤ k := by
  rcases h with hk | ⟨c, rfl⟩
  · exact (show ∀ k ∈ [Rf.HUB_ACCERR_COUNT.key, Rf.HUB_ACCERR_ADDR.key, Rf.HUB_TC0_TOKWAIT.key] ++ eventFlds.map Fld.key,
      0x700000 * 64 ≤ k by decide) k hk
  · show 0x700000 * 64 ≤ (0x710008 + 0x1000 * c) * 64 + 17
    omega

/-- The keys of the fields that an issue without a tick, or a due time, moves: those of the ports, the count of lost bands, and those
that an access of the hub or an event moves. -/
def sideKey (k : Nat) : Prop := portKey k ∨ k = Rf.CAD_HOLDINFO_LOST.key ∨ hubMoved k

theorem not_sideKey_of_low {k : Nat} (h : k < 0x200000 * 64) (hne : k ≠ Rf.CAD_HOLDINFO_LOST.key) : ¬ sideKey k := by
  rintro (hk | hk | hk)
  · exact absurd hk.1 (by omega)
  · exact hne hk
  · have := le_of_hubMoved hk
    omega

theorem not_sideKey_of_fuse {k : Nat} (h : 0x400000 * 64 ≤ k) (htop : k < 0x700000 * 64) : ¬ sideKey k := by
  have hlost : Rf.CAD_HOLDINFO_LOST.key = 0x100048 * 64 + 48 := rfl
  rintro (hk | hk | hk)
  · have := hk.2.1
    omega
  · omega
  · have := le_of_hubMoved hk
    omega

/-- A field at bit `lo` of a camera's register. -/
theorem not_sideKey_camera {f : Fld} (p off lo : Nat) (hp : p < 48) (haddr : f.addr = 0x401000 + off + 0x40 * p)
    (hbit : f.lo = lo) (hoff : off < 64) (hlo : lo < 64) : ¬ sideKey f.key := by
  have hkey : f.key = f.addr * 64 + f.lo := rfl
  exact not_sideKey_of_fuse (by omega) (by omega)

theorem not_sideKey_enable {p : Nat} (hp : p < 48) : ¬ sideKey (Rf.SPK_PCFG_ENABLE p).key := by
  have hk : (Rf.SPK_PCFG_ENABLE p).key = (0x200000 + 0x1000 * p) * 64 + 0 := rfl
  have hlost : Rf.CAD_HOLDINFO_LOST.key = 0x100048 * 64 + 48 := rfl
  rintro (h | h | h)
  · have := h.2.2
    omega
  · omega
  · have := le_of_hubMoved h
    omega

theorem not_sideKey_of_engine {f : Fld} (h : 0x1000000 ≤ f.addr) (hlo : f.lo < 17) : ¬ sideKey f.key := by
  have hk : f.key = f.addr * 64 + f.lo := rfl
  have hlost : Rf.CAD_HOLDINFO_LOST.key = 0x100048 * 64 + 48 := rfl
  rintro (h' | h' | h')
  · have := h'.2.1
    omega
  · omega
  · exact not_hubMoved_of_engine h (by omega) (.inl hlo) h'

theorem not_sideKey_unserved (u : Nat) : ¬ sideKey (Rf.ENG_UNIT_UNSERVED u).key :=
  not_sideKey_of_engine (show 0x1000000 ≤ 0x1800000 + 0x8 * u by omega) (show 8 < 17 by decide)

theorem not_sideKey_engine (u : Nat) : ¬ sideKey (Rf.ENG_UNIT_ENGINE u).key :=
  not_sideKey_of_engine (show 0x1000000 ≤ 0x1800000 + 0x8 * u by omega) (show 0 < 17 by decide)

/-! ### What decides whether a band is due -/

/-- A band without what its tokens change in it. -/
def BandRec.bare (b : BandRec) : BandRec := { b with setchg := 0, gear := 0, gP := none }

/-- What is known of band `n`, without what its tokens change in it. -/
def CadUnit.known (c : CadUnit) (n : Nat) : List BandRec := (c.bands.filter (fun b => b.band == n)).map BandRec.bare

theorem any_band (c : CadUnit) (n : Nat) {f : BandRec → Bool} (hf : ∀ b, f b.bare = f b) :
    c.bands.any (fun b => b.band == n && f b) = (c.known n).any f := by
  rw [CadUnit.known, List.any_map, List.any_filter]
  exact congrArg c.bands.any (funext fun b => congrArg _ (hf b).symm)

/-- A change of band `m` that keeps its number shows in what is known of band `n` only where it is that band and more than its tokens'
part of it changes. -/
theorem known_setBand (s : State) {m n : Nat} {f : BandRec → BandRec} (hband : ∀ b, (f b).band = b.band)
    (hbare : m = n → ∀ b, (f b).bare = b.bare) : (s.setBand m f).cad.known n = s.cad.known n := by
  show ((s.cad.bands.map _).filter _).map _ = (s.cad.bands.filter _).map _
  induction s.cad.bands with
  | nil => rfl
  | cons b bs ih =>
    have hn : (if b.band = m then f b else b).band = b.band := by
      split
      · exact hband b
      · rfl
    rw [List.map_cons, List.filter_cons, List.filter_cons, hn]
    split
    · next hb =>
      rw [List.map_cons, List.map_cons, ih]
      congr 1
      split
      · next hm => exact hbare (hm.symm.trans (eq_of_beq hb)) b
      · rfl
    · exact ih

/-- From `s` to `t` all that decides whether band `n` is due stays but the units' own bands. -/
structure DueKept (n : Nat) (s t : State) : Prop where
  flds  : Moves sideKey s t
  modes : t.modes = s.modes
  base  : t.cad.base = s.cad.base
  known : t.cad.known n = s.cad.known n

theorem DueKept.refl (n : Nat) (s : State) : DueKept n s s := ⟨.refl _ s, rfl, rfl, rfl⟩

theorem DueKept.trans {n : Nat} {s t u : State} (h1 : DueKept n s t) (h2 : DueKept n t u) : DueKept n s u :=
  ⟨h1.flds.trans h2.flds, h2.modes.trans h1.modes, h2.base.trans h1.base, h2.known.trans h1.known⟩

theorem DueKept.of_bystands {n : Nat} {s t : State} (h : Bystands sideKey s t) : DueKept n s t :=
  ⟨h.flds, h.modes, by rw [h.cad], by rw [h.cad]⟩

theorem DueKept.setBand {n : Nat} (s : State) {m : Nat} {f : BandRec → BandRec} (hband : ∀ b, (f b).band = b.band)
    (hbare : m = n → ∀ b, (f b).bare = b.bare) : DueKept n s (s.setBand m f) :=
  ⟨fun _ _ => rfl, rfl, rfl, known_setBand s hband hbare⟩

theorem DueKept.setWu (n : Nat) (s : State) (u : Nat) (w : WorkUnit) : DueKept n s (s.setWu u w) := ⟨fun _ _ => rfl, rfl, rfl, rfl⟩

/-! ### Units -/

/-- The section of a unit. -/
def secOf (u : Nat) : Nat := if u < 48 then 0 else if u < 64 then 1 else if u < 96 then 2 else 3

theorem secOf_of_mem_secUnits {s : State} {sec : Fin 4} {u : Nat} (h : u ∈ s.secUnits sec) : u < 112 ∧ secOf u = sec := by
  have hu := List.mem_of_mem_filter h
  unfold secOf
  match sec with
  | 0 | 1 | 2 | 3 =>
    obtain ⟨j, hj, rfl⟩ := List.mem_map.1 hu
    rw [List.mem_range] at hj
    grind

theorem secUnits_nodup (s : State) (sec : Nat) : (s.secUnits sec).Nodup := by
  refine List.Nodup.filter _ (List.Nodup.map (fun a b h => ?_) List.nodup_range)
  exact Nat.add_left_cancel h

section
variable {n : Nat} {s t : State} (hkept : DueKept n s t)
include hkept

theorem DueKept.serving (u : Nat) : t.serving u = s.serving u := by
  have hused : t.unitUsed u = s.unitUsed u := by
    unfold State.unitUsed
    rw [hkept.modes]
    split
    · next hu => exact hkept.flds.bit (not_sideKey_enable hu)
    · rfl
  rw [State.serving, State.serving, hused, State.unserved, State.unserved, hkept.flds.bit (not_sideKey_unserved u)]

theorem DueKept.secUnits (sec : Nat) : t.secUnits sec = s.secUnits sec := by
  unfold State.secUnits
  exact List.filter_congr (fun u _ => hkept.serving u)

theorem DueKept.camReaders {p : Nat} (hp : p < 48) : t.camReaders p = s.camReaders p := by
  have hon : t.camOn p = s.camOn p := hkept.flds.bit (not_sideKey_camera p 0 0 hp rfl rfl (by decide) (by decide))
  have hth : t.camTh p = s.camTh p := by
    rw [State.camTh, State.camTh, hkept.flds.bit (not_sideKey_camera p 0 1 hp rfl rfl (by decide) (by decide))]
  have hlo : t.rf (Rf.FUS_CAM_SPAN_U_LO p) = s.rf (Rf.FUS_CAM_SPAN_U_LO p) :=
    hkept.flds _ (not_sideKey_camera p 8 0 hp rfl rfl (by decide) (by decide))
  have hhi : t.rf (Rf.FUS_CAM_SPAN_U_HI p) = s.rf (Rf.FUS_CAM_SPAN_U_HI p) :=
    hkept.flds _ (not_sideKey_camera p 8 20 hp rfl rfl (by decide) (by decide))
  have hx (k : Nat) : t.stripX k = s.stripX k := by
    rw [State.stripX, State.stripX, State.fusWidth, State.fusWidth, hkept.flds _ (not_sideKey_of_fuse (by decide) (by decide))]
  unfold State.camReaders State.stripBits
  simp only [hon, hth, hlo, hhi, hx]

theorem DueKept.before (u : Nat) : t.before u = s.before u := by
  have hreaders : (s.secUnits 0).filter (fun p => (t.camReaders p).contains (u - 48)) =
      (s.secUnits 0).filter (fun p => (s.camReaders p).contains (u - 48)) := by
    refine List.filter_congr (fun p hp => ?_)
    obtain ⟨-, hsec⟩ := secOf_of_mem_secUnits (sec := 0) hp
    rw [hkept.camReaders (by unfold secOf at hsec; split at hsec <;> grind)]
  unfold State.before
  simp only [hkept.secUnits, hreaders, hkept.serving]

theorem DueKept.bandHeld : t.bandHeld n = s.bandHeld n := by
  rw [State.bandHeld, State.bandHeld, any_band _ n (fun _ => rfl), any_band _ n (fun _ => rfl), hkept.known]

theorem DueKept.bandLost : t.bandLost n = s.bandLost n := by
  rw [State.bandLost, State.bandLost, any_band _ n (fun _ => rfl), any_band _ n (fun _ => rfl), hkept.known]

theorem DueKept.bandClosed : t.bandClosed n = s.bandClosed n := by
  rw [State.bandClosed, State.bandClosed, any_band _ n (fun _ => rfl), any_band _ n (fun _ => rfl), hkept.known]

theorem DueKept.tokenDue : t.tokenDue 0 n = s.tokenDue 0 n := by
  have hsrc : t.cadSrc = s.cadSrc := hkept.flds _ (not_sideKey_of_low (by decide) (by decide))
  show t.cad.bands.any _ = s.cad.bands.any _
  rw [hsrc, any_band _ n (fun _ => rfl), any_band _ n (fun _ => rfl), hkept.known]

/-- Whether a unit may have the token of a band without a tick rests on what stays, and on what it and the units before it have
completed. -/
theorem DueKept.heldDue {u : Nat} (hdone : ∀ v, v = u ∨ v ∈ s.before u → (t.wu v).done = (s.wu v).done) :
    t.heldDue u n = s.heldDue u n := by
  have hstate : t.cadState = s.cadState := hkept.flds _ (not_sideKey_of_low (by decide) (by decide))
  have hon : t.cadOn = s.cadOn := by
    rw [State.cadOn, State.cadOn, hkept.flds _ (not_sideKey_of_low (by decide) (by decide))]
  have hh : t.cad.h = s.cad.h := (congrArg CadUnit.h hkept.base :)
  have hstop : t.cad.stop = s.cad.stop := (congrArg CadUnit.stop hkept.base :)
  have hall : (s.before u).all (fun v => decide (n < (t.wu v).done)) = (s.before u).all (fun v => decide (n < (s.wu v).done)) := by
    rw [Bool.eq_iff_iff, List.all_eq_true, List.all_eq_true]
    exact forall₂_congr (fun v hv => by rw [hdone v (.inr hv)])
  unfold State.heldDue
  rw [hkept.bandHeld, hkept.bandLost, hkept.bandClosed, hkept.tokenDue, hkept.before, hon, hstate, hh, hstop, hdone u (.inl rfl), hall]

end

/-! ### The units of a section, one by one -/

theorem before_secOf {s : State} {u v : Nat} (hu : u < 112) (hv : v ∈ s.before u) : secOf v < secOf u := by
  have hport (l : List Nat) (hl : ∀ w ∈ l, w ∈ s.secUnits 0) (h : v ∈ l) : secOf v = 0 :=
    (secOf_of_mem_secUnits (sec := 0) (hl v h)).2
  unfold State.before at hv
  dsimp only at hv
  split at hv
  · exact absurd hv List.not_mem_nil
  · split at hv
    · have h0 : secOf v = 0 := by
        split at hv
        · exact hport _ (fun _ h => h) hv
        · exact hport _ (fun _ h => List.mem_of_mem_filter h) hv
      rw [h0]
      unfold secOf
      grind
    · split at hv
      · rw [List.mem_singleton.1 hv]
        unfold secOf
        grind
      · split at hv
        · rw [List.mem_singleton.1 hv]
          unfold secOf
          grind
        · have := List.mem_of_mem_filter hv
          unfold secOf
          grind

theorem formed_kept (s : State) (n m u : Nat) : DueKept n s (s.formed m u) := by
  obtain ⟨r, hr, h | h⟩ := formed_cases s m u <;> rw [h]
  · exact .of_bystands (hr.mono (fun _ => .inl))
  · exact (DueKept.of_bystands (hr.mono (fun _ => .inl))).trans (.setBand r (fun _ => rfl) (fun _ _ => rfl))

theorem giveToken_kept (s : State) (n m u : Nat) (t : Word × Word) : DueKept n s (s.giveToken m u t) := by
  obtain ⟨ref, hgive⟩ := giveToken_eq s m u t
  rw [hgive]
  exact (formed_kept s n m u).trans (.setWu n _ u _)

theorem unitNext_kept (n : Nat) (s : State) (sec u : Nat) : DueKept n s (s.unitNext sec u) := by
  unfold State.unitNext
  dsimp only
  split
  · split
    · unfold State.passUnit
      dsimp only
      split
      · exact (DueKept.setWu n s u _).trans (.of_bystands (Bystands.setPort _ u _))
      · exact .setWu n s u _
    · exact .refl n s
  · split
    · exact (giveToken_kept s n _ u _).trans (.setBand _ (fun _ => rfl) (fun _ _ => rfl))
    · exact .refl n s

theorem giveToken_wu_ne (s : State) {n u v : Nat} (t : Word × Word) (h : v ≠ u) : (s.giveToken n u t).wu v = s.wu v := by
  obtain ⟨ref, hgive⟩ := giveToken_eq s n u t
  rw [hgive, State.setWu_get_wu, if_neg h, formed_wu]

theorem unitNext_wu_ne (s : State) (sec : Nat) {u v : Nat} (h : v ≠ u) : (s.unitNext sec u).wu v = s.wu v := by
  unfold State.unitNext
  dsimp only
  split
  · split
    · have hpast (w : WorkUnit) : (s.setWu u w).wu v = s.wu v := by rw [State.setWu_get_wu, if_neg h]
      unfold State.passUnit
      dsimp only
      split
      · exact hpast _
      · exact hpast _
    · rfl
  · split
    · exact giveToken_wu_ne s _ h
    · rfl

theorem unitNexts_wu_ne (sec : Nat) {v : Nat} : ∀ (l : List Nat) (s : State), v ∉ l →
    (l.foldl (fun t u => t.unitNext sec u) s).wu v = s.wu v
  | [], _, _ => rfl
  | u :: l, s, h => by
    rw [List.mem_cons, not_or] at h
    exact (unitNexts_wu_ne sec l _ h.2).trans (unitNext_wu_ne s sec h.1)

/-- A unit has the token of band `n`, at gear 4 where it is held. -/
def HasToken (n : Nat) (held : Bool) (w w' : WorkUnit) : Prop :=
  n < w'.next ∧ ∃ k l, w'.toks = w.toks ++ k :: l ∧ k.band = n ∧ (held = true → k.gear = 4)

/-- A unit whose next band is due has its token. -/
theorem unitNext_hasToken {s : State} {sec u : Nat} (h : s.heldDue u (s.wu u).next = true) :
    HasToken (s.wu u).next (s.bandHeld (s.wu u).next) (s.wu u) ((s.unitNext sec u).wu u) := by
  have hlost : s.bandLost (s.wu u).next = false := by
    unfold State.heldDue at h
    grind
  obtain ⟨ref, hgive⟩ := giveToken_eq s (s.wu u).next u (s.tokenTimes (s.wu u).next)
  have hheld := (formed_kept s (s.wu u).next (s.wu u).next u).bandHeld
  have hunit : s.unitNext sec u = (s.giveToken (s.wu u).next u (s.tokenTimes (s.wu u).next)).bandGear sec (s.wu u).next := by
    unfold State.unitNext
    dsimp only
    rw [if_neg (by rw [hlost]; exact Bool.false_ne_true), if_pos h]
  have hwu : ∀ t : State, (t.bandGear sec (s.wu u).next).wu u = t.wu u := fun _ => rfl
  rw [hunit, hwu, hgive, State.setWu_get_wu, if_pos rfl, formed_wu]
  refine ⟨Nat.lt_succ_self _, _, [], rfl, rfl, fun hh => ?_⟩
  show State.tokenGear _ _ = 4
  rw [State.tokenGear, hheld, if_pos hh]

/-- Every unit of a section whose next band is due has its token once the section has been gone through. -/
theorem unitNexts_hasToken (sec : Fin 4) {u n : Nat} : ∀ (l : List Nat) (s : State), l.Nodup → u < 112 → secOf u = sec →
    (∀ v ∈ l, secOf v = sec) → u ∈ l → (s.wu u).next = n → s.heldDue u n = true →
    HasToken n (s.bandHeld n) (s.wu u) ((l.foldl (fun t u => t.unitNext sec u) s).wu u)
  | [], _, _, _, _, _, hmem, _, _ => absurd hmem List.not_mem_nil
  | v :: l, s, hnodup, hu, husec, hsec, hmem, hnext, hdue => by
    rw [List.nodup_cons] at hnodup
    rw [List.foldl_cons]
    by_cases hv : u = v
    · subst hv
      rw [unitNexts_wu_ne _ _ _ hnodup.1]
      subst hnext
      exact unitNext_hasToken hdue
    · have hkept := unitNext_kept n s sec v
      have hwu : (s.unitNext sec v).wu u = s.wu u := unitNext_wu_ne s sec hv
      have hstill : (s.unitNext sec v).heldDue u n = true := by
        rw [hkept.heldDue, hdue]
        rintro w (rfl | hw)
        · rw [hwu]
        · have hlt := before_secOf hu hw
          rw [unitNext_wu_ne s sec (fun hwv => by rw [hwv, hsec v (List.mem_cons_self ..)] at hlt; omega)]
      rw [← hkept.bandHeld, ← hwu]
      exact unitNexts_hasToken sec l _ hnodup.2 hu husec (fun w hw => hsec w (List.mem_cons_of_mem _ hw))
        ((List.mem_cons.1 hmem).resolve_left hv) (by rw [hwu, hnext]) hstill

end Sys2Proof.Machine
end

section
/-! SUPPORT. HELD_TOKEN_ISSUE (R132, R133): the band with no line left, and the tokens of a section. -/

namespace Sys2Proof.Machine

/-! ### The band with no line left -/

theorem loseGone_cases (s : State) : s.loseGone = s ∨
    s.bandHeld s.cad.nI = true ∧ s.allGone s.cad.nI = true ∧ s.loseGone = s.lose s.cad.nI := by
  unfold State.loseGone
  dsimp only
  split
  · next h =>
    obtain ⟨hheld, -, -, -, hgone⟩ := h
    exact .inr ⟨hheld, hgone, rfl⟩
  · exact .inl rfl

theorem loseGone_eq {s : State} (hheld : s.bandHeld s.cad.nI = true) (hlost : s.bandLost s.cad.nI = false)
    (hgone : s.allGone s.cad.nI = true) (hnext : ∀ u ∈ s.secUnits 0, (s.wu u).next ≤ s.cad.nI)
    (hdue : ∃ u ∈ s.secUnits 0, s.heldDue u s.cad.nI = true) : s.loseGone = s.lose s.cad.nI := by
  have hnew : s.replayBegun s.cad.nI = false := by
    obtain ⟨u, hu, -⟩ := hdue
    rw [← Bool.not_eq_true, replayBegun_iff _ (List.ne_nil_of_mem hu)]
    rintro ⟨v, hv, h⟩
    exact absurd (hnext v hv) (Nat.not_le_of_lt h)
  unfold State.loseGone
  exact if_pos ⟨hheld, by rw [hlost]; rfl, by rw [hnew]; rfl, List.any_eq_true.2 hdue, hgone⟩

theorem lose_wu (s : State) (n u : Nat) : (s.lose n).wu u = s.wu u := by
  rw [lose_eq, raise_wu]
  rfl

theorem lose_kept (s : State) {n m : Nat} (h : m ≠ n) : DueKept n s (s.lose m) := by
  rw [lose_eq]
  refine (DueKept.setBand (f := BandRec.gone) s (fun _ => rfl) (fun hmn => absurd hmn h)).trans (.of_bystands ?_)
  exact (Bystands.bump _ (.inr (.inl rfl)) 1).trans (.raise (fun _ hk => .inr (.inr hk)) _ _ _ _ _)

/-! ### What follows in the command -/

theorem unitNext_serves (s : State) (sec u : Nat) : Serves s (s.unitNext sec u) := by
  unfold State.unitNext
  dsimp only
  split
  · split
    · exact passUnit_serves s _ u
    · exact .refl s
  · split
    · exact (giveToken_serves _ (Nat.le_succ _)).trans (bandGear_serves _ sec _)
    · exact .refl s

theorem secNext_serves (s : State) (sec : Nat) : Serves s (s.secNext sec) := by
  unfold State.secNext
  split
  · exact .refl s
  · exact .setNext s sec _

theorem emptyNext_serves (s : State) (sec : Nat) : Serves s (s.emptyNext sec) := by
  unfold State.emptyNext
  dsimp only
  split
  · exact issue1_serves s sec _
  · exact .refl s

/-- The state in which the section's units take their tokens: the band with no line left is lost (R133). -/
def State.issuing (s : State) (sec : Nat) : State := if sec = 0 then s.loseGone else s

/-- The section once its units have taken their tokens. -/
def State.issued (s : State) (sec : Nat) : State := ((s.issuing sec).secUnits sec).foldl (fun t u => t.unitNext sec u) (s.issuing sec)

theorem heldTokenIssue_eq (s : State) (sec : Fin 4) :
    exec (.heldTokenIssue sec) s = .next (((s.issued sec).secNext sec).emptyNext sec).serve := rfl

theorem issued_serves (s : State) (sec : Nat) : Serves (s.issued sec) (((s.issued sec).secNext sec).emptyNext sec).serve :=
  ((secNext_serves _ sec).trans (emptyNext_serves _ sec)).trans (serve_serves _)

theorem issuing_wu (s : State) (sec u : Nat) : (s.issuing sec).wu u = s.wu u := by
  unfold State.issuing
  split
  · obtain h | ⟨-, -, h⟩ := loseGone_cases s <;> rw [h]
    exact lose_wu s _ u
  · rfl

/-- A band that is not lost here keeps what decides whether it is due. -/
theorem issuing_kept {s : State} {sec n : Nat} (h : sec ≠ 0 ∨ n ≠ s.cad.nI ∨ s.bandHeld n = false ∨ s.allGone n = false) :
    DueKept n s (s.issuing sec) := by
  unfold State.issuing
  split
  · next hsec =>
    obtain heq | ⟨hheld, hgone, heq⟩ := loseGone_cases s <;> rw [heq]
    · exact .refl n s
    · refine lose_kept s (fun hn => ?_)
      subst hn
      rw [hheld, hgone] at h
      simp [hsec] at h
  · exact .refl n s

theorem HasToken.later {n : Nat} {held : Bool} {w : WorkUnit} {s t : State} {u : Nat} (h : HasToken n held w (s.wu u))
    (hst : Serves s t) : HasToken n held w (t.wu u) := by
  obtain ⟨hnext, k, l, htoks, hband, hgear⟩ := h
  obtain ⟨m, hm⟩ := hst.toks u
  refine ⟨lt_of_lt_of_le hnext (hst.next u), k, l ++ m, ?_, hband, hgear⟩
  rw [← hm, htoks, List.append_assoc, List.cons_append]

/-- The tokens of a section that may have that of its next band. -/
theorem issued_hasToken {s : State} {sec : Fin 4} {u : Nat} (hu : u ∈ s.secUnits sec) (hdue : s.heldDue u (s.wu u).next = true)
    (h : sec ≠ 0 ∨ (s.wu u).next ≠ s.cad.nI ∨ s.bandHeld (s.wu u).next = false ∨ s.allGone (s.wu u).next = false) :
    HasToken (s.wu u).next (s.bandHeld (s.wu u).next) (s.wu u) ((s.issued sec).wu u) := by
  have hkept : DueKept (s.wu u).next s (s.issuing sec) := issuing_kept (h.imp_left (fun h0 hv => h0 (Fin.ext hv)))
  have hunits := hkept.secUnits sec
  obtain ⟨hlt, hsec⟩ := secOf_of_mem_secUnits hu
  have hgo := unitNexts_hasToken sec ((s.issuing sec).secUnits sec) (s.issuing sec) (secUnits_nodup _ _) hlt hsec
    (fun v hv => (secOf_of_mem_secUnits hv).2) (hunits ▸ hu) (by rw [issuing_wu])
    (by rw [hkept.heldDue (fun v _ => by rw [issuing_wu]), hdue])
  rw [hkept.bandHeld, issuing_wu] at hgo
  exact hgo

/-- A lost band is told of, and stays lost. -/
theorem issued_lost {s : State} (hroom : s.evq.length < 1024) (hlose : s.loseGone = s.lose s.cad.nI) :
    Raised s (s.issued 0) 0xC007 0 s.cad.nI 0 ∧ ∀ b ∈ (s.issued 0).cad.bands, b.band = s.cad.nI → b.lost = true := by
  have hissuing : s.issuing 0 = s.lose s.cad.nI := hlose
  have hserves : Serves (s.lose s.cad.nI) (s.issued 0) := by
    unfold State.issued
    rw [hissuing]
    exact .foldl (fun t u => unitNext_serves t 0 u) _ _
  refine ⟨hserves.raised ?_, fun b hb hband => ?_⟩
  · rw [lose_eq]
    exact (raise_raised ((s.setBand s.cad.nI BandRec.gone).bump Rf.CAD_HOLDINFO_LOST) _ _ _ _ hroom).earlier (le_refl _)
  · obtain ⟨a, ha, hba⟩ := hserves.fates b hb
    obtain ⟨hbband, -, hblost⟩ := BandRec.fate_eq hba
    rw [lose_cad] at ha
    obtain ⟨a0, -, rfl⟩ := List.mem_map.1 ha
    rw [hblost]
    rw [hbband] at hband
    by_cases h0 : a0.band = s.cad.nI
    · rw [if_pos h0]
      rfl
    · rw [if_neg h0] at hband
      exact absurd hband h0

theorem heldTokenIssue_gives {s : State} (sec : Fin 4) (hroom : s.evq.length < 1024) : Gives (.heldTokenIssue sec) s (fun t =>
    (∀ u ∈ s.secUnits sec, let n := (s.wu u).next
      s.heldDue u n = true → (sec ≠ 0 ∨ n ≠ s.cad.nI ∨ s.bandHeld n = false ∨ s.allGone n = false) →
      n < (t.wu u).next ∧ ∃ k l, (t.wu u).toks = (s.wu u).toks ++ k :: l ∧ k.band = n ∧ (s.bandHeld n = true → k.gear = 4)) ∧
    (let n := s.cad.nI
     sec = 0 → s.bandHeld n = true → s.bandLost n = false → s.allGone n = true → (∀ u ∈ s.secUnits 0, (s.wu u).next ≤ n) →
      (∃ u ∈ s.secUnits 0, s.heldDue u n = true) → Raised s t 0xC007 0 n 0 ∧ ∀ b ∈ t.cad.bands, b.band = n → b.lost = true)) := by
  have hserves := issued_serves s sec
  refine ⟨_, heldTokenIssue_eq s sec, fun u hu hdue h => (issued_hasToken hu hdue h).later hserves, ?_⟩
  rintro n rfl hheld hlost hgone hnext hdue
  obtain ⟨hraised, hall⟩ := issued_lost hroom (loseGone_eq hheld hlost hgone hnext hdue)
  refine ⟨hserves.raised hraised, fun b hb hband => ?_⟩
  obtain ⟨a, ha, hba⟩ := hserves.fates b hb
  obtain ⟨hbband, -, hblost⟩ := BandRec.fate_eq hba
  rw [hblost]
  exact hall a ha (hbband.symm.trans hband)

end Sys2Proof.Machine
end

section
/-! SUPPORT. BAND_DUE (R121, R122): what Intake's due time does at the ports, and the judgement of its band. -/

namespace Sys2Proof.Machine

/-! ### The ports at the due time -/

/-- A port's rows are closed or a band of it is told of: only its own fields move, and those that an access of the hub or an event
moves. -/
def Sides (s t : State) : Prop := Bystands sideKey s t

theorem Sides.trans {s t u : State} (h1 : Sides s t) (h2 : Sides t u) : Sides s u := Bystands.trans h1 h2
theorem Sides.setPort (s : State) (p : Nat) (x : PortUnit) : Sides s (s.setPort p x) := Bystands.setPort s p x
theorem Sides.raise (s : State) (c a0 a1 a2 : Nat) : Sides s (s.raise c a0 a1 a2) :=
  Bystands.raise (fun _ hk => .inr (.inr hk)) s c a0 a1 a2
theorem Sides.hubWrite (s : State) (own : Bool) (src a n : Nat) (cells : List Host.Cell) : Sides s (s.hubWrite own src a n cells) :=
  Bystands.writeAs (fun _ hk => .inr (.inr hk)) s own _ src a n cells

/-- A fold over some elements stands by where each of its steps does. -/
theorem Bystands.foldl_mem {K : Nat → Prop} {α : Type} {f : State → α → State} : ∀ (l : List α),
    (∀ a ∈ l, ∀ s, Bystands K s (f s a)) → ∀ s, Bystands K s (l.foldl f s)
  | [], _, s => .refl K s
  | a :: l, hf, s => (hf a (List.mem_cons_self ..) s).trans (Bystands.foldl_mem l (fun b hb => hf b (List.mem_cons_of_mem _ hb)) _)

theorem trigDone_sides (s : State) (p : Nat) (r : TrigRec) (line : Bool) : Sides s (s.trigDone p r line) := .setPort s p _

theorem tellCount_sides (s : State) (p n bit code extra : Nat) (count : PortBand → Nat) :
    Sides s (s.tellCount p n bit code extra count) := by
  unfold State.tellCount
  dsimp only
  split
  · exact Bystands.refl _ s
  · exact (Sides.setPort s p _).trans (.raise _ _ _ _ _)

theorem tellLate_sides (s : State) (p n : Nat) : Sides s (s.tellLate p n) := by
  have htell := fun t : State => tellCount_sides t p n
  unfold State.tellLate
  dsimp only
  exact (((htell _ _ _ _ _).trans (htell _ _ _ _ _)).trans (htell _ _ _ _ _)).trans (htell _ _ _ _ _)

theorem tellAll_sides (s : State) (p n : Nat) : Sides s (s.tellAll p n) := by
  have hbands (l : List (Nat × PortBand)) : Sides s (l.foldl (fun s e => s.tellLate p e.1) s) :=
    Bystands.foldl (f := fun (s : State) (e : Nat × PortBand) => s.tellLate p e.1) (fun s e => tellLate_sides s p e.1) l s
  unfold State.tellAll
  exact hbands _

theorem writeFill_sides (s : State) (p i : Nat) : Sides s (s.writeFill p i) :=
  Bystands.foldl (fun s _ => Sides.hubWrite s _ _ _ _ _) _ s

/-- A band is told of its change of settings set within it. -/
theorem cutTold_sides (s : State) (p n a1 a2 : Nat) (b : PortBand) (last : Option Nat) (cut : Nat → Prop) [DecidablePred cut] :
    Sides s (match last with
      | some old => if cut old then (s.setPband p n b).raise 0x2007 p a1 a2 else s
      | none => s) := by
  split
  · split
    · exact (Sides.setPort s p _).trans (.raise _ _ _ _ _)
    · exact Bystands.refl _ s
  · exact Bystands.refl _ s

section
variable {p : Nat} (hp : p < 48)
include hp

theorem resolveRow_sides (s : State) (r : RowRec) : Sides s (s.resolveRow p r) := by
  have hbump {f : Fld} (off lo : Nat) (haddr : f.addr = 0x200000 + off + 0x1000 * p) (hbit : f.lo = lo) (hoff : 0 < off)
      (htop : off < 0x1000) (hlo : lo < 64) (t : State) (n : Nat) : Sides t (t.bump f n) :=
    .bump t (.inl (portKey_of_offset p off lo hp haddr hbit hoff htop hlo)) n
  have hlcnt (t : State) (a b : Nat) : Sides t ((t.bump (Rf.SPK_LCNT_SHORT p) a).bump (Rf.SPK_LCNT_LONG p) b) :=
    (hbump 0x148 0 rfl rfl (by decide) (by decide) (by decide) t a).trans (hbump 0x148 16 rfl rfl (by decide) (by decide) (by decide) _ b)
  have hlcnt2 (t : State) (a b : Nat) : Sides t ((t.bump (Rf.SPK_LCNT_SYNTH p) a).bump (Rf.SPK_LCNT2_SSIDX p) b) :=
    (hbump 0x148 32 rfl rfl (by decide) (by decide) (by decide) t a).trans (hbump 0x150 0 rfl rfl (by decide) (by decide) (by decide) _ b)
  have hpos (t : State) (v : Nat) : Sides t (t.setrf (Rf.SPK_RAWPOS_NEXT p) v) :=
    .setrf t (.inl (portKey_of_offset p 0x158 0 hp rfl rfl (by decide) (by decide) (by decide))) v
  unfold State.resolveRow
  exact ((((Sides.setPort s p _).trans (hlcnt _ _ _)).trans (hlcnt2 _ _ _)).trans (.hubWrite _ _ _ _ _ _)).trans (hpos _ _)

theorem synthRows_sides (s : State) (want : TrigRec → Bool) : Sides s (s.synthRows p want) := by
  have hrow (s : State) (t : TrigRec) : Sides s (s.synthRow p t) := (writeFill_sides s p _).trans (resolveRow_sides hp _ _)
  exact Bystands.foldl (fun s t => (hrow s t).trans (trigDone_sides _ p t false)) _ s

theorem closeRow_sides (s : State) : Sides s (s.closeRow p) := by
  have hfill (c : Prop) [Decidable c] (t : State) (i : Nat) : Sides t (if c then t.writeFill p i else t) := by
    split
    · exact writeFill_sides t p i
    · exact Bystands.refl _ t
  have hplaced (x : PortUnit) (f : TrigRec → Bool) (r : TrigRec) : Sides s (((s.setPort p x).synthRows p f).trigDone p r true) :=
    ((Sides.setPort s p x).trans (synthRows_sides hp _ f)).trans (trigDone_sides _ p r true)
  have hresolved (c : Prop) [Decidable c] {t : State} (h : Sides s t) (i : Nat) (r : RowRec) (x : PortUnit) :
      Sides s (((if c then t.writeFill p i else t).resolveRow p r).setPort p x) :=
    ((h.trans (hfill c t i)).trans (resolveRow_sides hp _ r)).trans (.setPort _ p x)
  unfold State.closeRow
  split
  · exact Bystands.refl _ s
  · exact (hresolved _ (hplaced _ _ _) _ _ _).trans (cutTold_sides _ p _ _ _ _ _ _)

theorem intakeDuePort_sides (s : State) (n : Nat) : Sides s (s.intakeDuePort p n) := by
  have hev (s : State) (code k extra : Nat) : Sides s (if k = 0 then s else s.raise code (p + 256 * extra) n k) := by
    split
    · exact Bystands.refl _ s
    · exact .raise s _ _ _ _
  have hcur : Sides s (match (s.port p).cur with
      | some c => if c.trig.band ≤ n then s.closeRow p else s
      | none => s) := by
    split
    · split
      · exact closeRow_sides hp s
      · exact Bystands.refl _ s
    · exact Bystands.refl _ s
  unfold State.intakeDuePort
  exact ((((hcur.trans (synthRows_sides hp _ _)).trans (hev _ _ _ _)).trans (hev _ _ _ _)).trans (tellAll_sides _ p n)).trans
    (.setPort _ p _)

end
end Sys2Proof.Machine
end

section
/-! SUPPORT. BAND_DUE (R122): the judgement of Intake's band; and hold, catch-up and the due times together. -/

namespace Sys2Proof.Machine

/-! ### The judgement of a band -/

/-- An event of a tick changes what raising it changes, or waits. -/
theorem cadEv_cases (s : State) (code a0 a1 a2 : Nat) : s.cadEv code a0 a1 a2 = s.raise code a0 a1 a2 ∨
    ∃ l, s.cadEv code a0 a1 a2 = s.setCad { s.cad with jitEvs := l } := by
  unfold State.cadEv
  split
  · exact .inr ⟨_, rfl⟩
  · exact .inl rfl

theorem cadEv_causes (s : State) (code a0 a1 a2 : Nat) : (s.cadEv code a0 a1 a2).cad.causes = s.cad.causes := by
  obtain h | ⟨l, h⟩ := cadEv_cases s code a0 a1 a2 <;> rw [h]
  · rw [(Sides.raise s code a0 a1 a2).cad]
  · rfl

theorem cadEv_count (s : State) (code a0 a1 a2 : Nat) : (s.cadEv code a0 a1 a2).count = s.count := by
  obtain h | ⟨l, h⟩ := cadEv_cases s code a0 a1 a2 <;> rw [h]
  · exact raise_count ..
  · rfl

theorem cadEv_rf {f : Fld} (hf : ∀ g ∈ eventFlds, f.key ≠ g.key) (s : State) (code a0 a1 a2 : Nat) :
    (s.cadEv code a0 a1 a2).rf f = s.rf f := by
  obtain h | ⟨l, h⟩ := cadEv_cases s code a0 a1 a2 <;> rw [h]
  · exact rf_raise hf s _ _ _ _
  · rfl

/-- The state in which band `n` is late for a section, before its event. -/
def State.markLate (s : State) (sec n : Nat) : State :=
  ((s.setCad { s.cad with late := s.cad.late ++ [(sec, n)], causes := s.cad.causes ||| 2 ^ sec }).setrf (Rf.CAD_LATE_LAST sec) n).bump
    (Rf.CAD_LATE_COUNT sec)

/-- A band is judged late or not. -/
theorem judge_cases (s : State) (sec n c : Nat) : s.judge sec n c = s ∨
    ∃ u, s.judge sec n c = (s.markLate sec n).cadEv 0xC001 sec n u := by
  unfold State.judge
  split
  · split
    · exact .inl rfl
    · exact .inr ⟨_, rfl⟩
  · exact .inl rfl

theorem judge_count (s : State) (sec n c : Nat) : (s.judge sec n c).count = s.count := by
  obtain h | ⟨u, h⟩ := judge_cases s sec n c <;> rw [h]
  exact cadEv_count ..

/-- A live band is late where a unit of the section had not issued its wtick (R122). -/
theorem judge_late {s : State} {sec n c : Nat} {b : BandRec} (hb : s.bandRec n = some b) (hheld : b.held = false)
    (hlost : b.lost = false) (hstop : s.cad.stop = false) (hnew : s.cad.late.contains (sec, n) = false)
    (hu : ∃ u ∈ s.secUnits sec, ∀ k, s.wtickCount u n = some k → c < k) :
    ∃ u, s.judge sec n c = (s.markLate sec n).cadEv 0xC001 sec n u := by
  have hfind : ((s.secUnits sec).find? (fun u => !s.wtickBy u n c)).isSome = true := by
    rw [List.find?_isSome]
    obtain ⟨u, hmem, hlate⟩ := hu
    refine ⟨u, hmem, ?_⟩
    unfold State.wtickBy
    split
    · next k hk => simpa using hlate k hk
    · rfl
  obtain ⟨u, hfound⟩ := Option.isSome_iff_exists.1 hfind
  refine ⟨u, ?_⟩
  unfold State.judge
  rw [hfound, hb]
  exact if_neg (by rw [hheld, hlost, hstop, hnew]; exact Bool.false_ne_true)

/-- What the registers show of Intake's late band, and its cause for the gear. -/
def ShowsLate (n : Nat) (s t : State) : Prop :=
  t.rf (Rf.CAD_LATE_LAST 0) = n % 2 ^ 32 ∧
  t.rf (Rf.CAD_LATE_COUNT 0) = min (s.rf (Rf.CAD_LATE_COUNT 0) + 1) (2 ^ 24 - 1) ∧ t.cad.causes.testBit 0 = true

theorem cadEv_showsLate {n : Nat} {s t : State} (h : ShowsLate n s t) (code a0 a1 a2 : Nat) :
    ShowsLate n s (t.cadEv code a0 a1 a2) := by
  obtain ⟨hlast, hcount, hcause⟩ := h
  refine ⟨?_, ?_, ?_⟩
  · rw [cadEv_rf (by decide), hlast]
  · rw [cadEv_rf (by decide), hcount]
  · rw [cadEv_causes, hcause]

theorem markLate_showsLate (s : State) (n : Nat) : ShowsLate n s (s.markLate 0 n) := by
  refine ⟨?_, ?_, ?_⟩
  · exact (rf_bump _ _ _ _ (by decide)).trans (State.rf_setrf_self _ _ _)
  · refine (rf_bump_self _ _ _).trans ?_
    rw [State.rf_setrf _ _ _ _ (by decide)]
    rfl
  · show (s.cad.causes ||| 2 ^ 0).testBit 0 = true
    simp

theorem Serves.showsLate {n : Nat} {r s t : State} (hst : Serves s t) (h : ShowsLate n r s) : ShowsLate n r t := by
  obtain ⟨hlast, hcount, hcause⟩ := h
  refine ⟨?_, ?_, ?_⟩
  · rw [hst.rf (by decide) (by decide), hlast]
  · rw [hst.rf (by decide) (by decide), hcount]
  · rw [hst.causes, hcause]

/-! ### The due time -/

section
variable {s t : State} (h : Sides s t)
include h

theorem Sides.bandRec (n : Nat) : t.bandRec n = s.bandRec n := by rw [State.bandRec, h.cad]; rfl

theorem Sides.secUnits (sec : Nat) : t.secUnits sec = s.secUnits sec := (DueKept.of_bystands (n := 0) h).secUnits sec

theorem Sides.wtickCount (u n : Nat) : t.wtickCount u n = s.wtickCount u n := by
  unfold State.wtickCount
  rw [h.flds _ (not_sideKey_engine u), Bystands.wu h, State.eng, h.engines]
  rfl

end

/-- The ports at the due time of a band. -/
def State.portsDue (s : State) (n : Nat) : State := s.portsOn.foldl (fun s p => s.intakeDuePort p n) s

theorem portsDue_sides (s : State) (n : Nat) : Sides s (s.portsDue n) :=
  Bystands.foldl_mem _ (fun _ hp s => intakeDuePort_sides (List.mem_range.1 (List.mem_of_mem_filter hp)) s n) s

/-- The due time of Intake's next band. -/
def State.intakeJudged (s : State) (c : Nat) : State := (s.portsDue s.cad.dI).judge 0 s.cad.dI c

theorem intakeDues_one {s : State} {c : Nat} (hdue : s.intakeDue s.cad.dI = some c) (hcount : c ≤ s.count) :
    State.intakeDues 1 s = (s.intakeJudged c).setCad { (s.intakeJudged c).cad with dI := s.cad.dI + 1 } := by
  unfold State.intakeDues
  dsimp only
  rw [hdue]
  dsimp only
  rw [if_neg (Nat.not_lt_of_le hcount)]
  rfl

theorem intakeJudged_count (s : State) (c : Nat) : (s.intakeJudged c).count = s.count :=
  (judge_count _ 0 s.cad.dI c).trans (portsDue_sides s s.cad.dI).count

theorem intakeJudged_showsLate {s : State} {c : Nat} {b : BandRec} (hb : s.bandRec s.cad.dI = some b) (hheld : b.held = false)
    (hlost : b.lost = false) (hstop : s.cad.stop = false) (hnew : s.cad.late.contains (0, s.cad.dI) = false)
    (hu : ∃ u ∈ s.secUnits 0, ∀ k, s.wtickCount u s.cad.dI = some k → c < k) : ShowsLate s.cad.dI s (s.intakeJudged c) := by
  have hports := portsDue_sides s s.cad.dI
  obtain ⟨u, hjudge⟩ : ∃ u, s.intakeJudged c = ((s.portsDue s.cad.dI).markLate 0 s.cad.dI).cadEv 0xC001 0 s.cad.dI u := by
    refine judge_late (b := b) (by rw [hports.bandRec, hb]) hheld hlost (by rw [hports.cad, hstop]) (by rw [hports.cad, hnew]) ?_
    simpa only [hports.secUnits, hports.wtickCount] using hu
  have hlate := cadEv_showsLate (markLate_showsLate (s.portsDue s.cad.dI) s.cad.dI) 0xC001 0 s.cad.dI u
  rw [← hjudge] at hlate
  obtain ⟨hlast, hcount, hcause⟩ := hlate
  refine ⟨hlast, ?_, hcause⟩
  rw [hcount, hports.flds _ (not_sideKey_of_low (by decide) (by decide))]

/-- What the due time of Intake's band `n` at count `c` leads to. -/
structure DuePassed (s : State) (c : Nat) (t : State) : Prop where
  dI    : t.cad.dI = s.cad.dI + 1
  count : t.count = max s.count c
  late  : ∀ b, s.bandRec s.cad.dI = some b → b.held = false → b.lost = false → s.cad.stop = false →
    s.cad.late.contains (0, s.cad.dI) = false → (∃ u ∈ s.secUnits 0, ∀ k, s.wtickCount u s.cad.dI = some k → c < k) →
    ShowsLate s.cad.dI s t

theorem intakeDues_passed {s : State} {c : Nat} (hdue : s.intakeDue s.cad.dI = some c) :
    DuePassed s c (State.intakeDues 1 (s.advanceTo c)) := by
  rw [intakeDues_one (s := s.advanceTo c) hdue (le_max_right _ _)]
  refine ⟨rfl, (intakeJudged_count _ c :), fun b hb hheld hlost hstop hnew hu => ?_⟩
  exact intakeJudged_showsLate (s := s.advanceTo c) hb hheld hlost hstop hnew hu

/-- The end of a delay changes nothing of it. -/
theorem DuePassed.endJitter {s t : State} {c : Nat} (h : DuePassed s c t) : DuePassed s c t.endJitter := by
  have hend := endJitter_serves t
  exact ⟨hend.dI.trans h.dI, hend.count.trans h.count,
    fun b hb hheld hlost hstop hnew hu => hend.showsLate (h.late b hb hheld hlost hstop hnew hu)⟩

theorem bandDue_gives {s : State} {c : Nat} (hon : s.cadOn = true) (hdue : s.intakeDue s.cad.dI = some c) :
    Gives (.bandDue 0) s (fun t => t.cad.dI = s.cad.dI + 1 ∧ t.count = max s.count c ∧
      ∀ b, s.bandRec s.cad.dI = some b → b.held = false → b.lost = false → s.cad.stop = false →
        s.cad.late.contains (0, s.cad.dI) = false → (∃ u ∈ s.secUnits 0, ∀ k, s.wtickCount u s.cad.dI = some k → c < k) →
        t.rf (Rf.CAD_LATE_LAST 0) = s.cad.dI % 2 ^ 32 ∧
        t.rf (Rf.CAD_LATE_COUNT 0) = min (s.rf (Rf.CAD_LATE_COUNT 0) + 1) (2 ^ 24 - 1) ∧ t.cad.causes.testBit 0 = true) := by
  have hexec : exec (.bandDue 0) s = .next
      (if s.cad.jit.isNone && decide ((State.intakeDues 1 (s.advanceTo c)).cad.jitEvs ≠ []) then
        (State.intakeDues 1 (s.advanceTo c)).endJitter else State.intakeDues 1 (s.advanceTo c)) := by
    show execBandDue 0 s = _
    unfold execBandDue when'
    rw [hdue]
    dsimp only
    rw [hon]
    exact congrArg Host.Outcome.next (if_pos (by decide))
  have hpassed := intakeDues_passed hdue
  refine ⟨_, hexec, ?_⟩
  split
  · exact ⟨hpassed.endJitter.dI, hpassed.endJitter.count, hpassed.endJitter.late⟩
  · exact ⟨hpassed.dI, hpassed.count, hpassed.late⟩

theorem bandDue_of_ne_zero {sec : Fin 4} (s : State) (h : sec ≠ 0) : exec (.bandDue sec) s = .next s := by
  have hsec : decide (sec.val = 0) = false := decide_eq_false (fun h0 => h (Fin.ext h0))
  show execBandDue sec s = _
  unfold execBandDue when'
  split
  · rw [hsec, Bool.and_false]
    rfl
  · rfl

/-! ### Hold, catch-up and the due times -/

theorem hold_of_on {s : State} (h : s.cadOn = true) : exec .hold s = .next (s.setCad { s.cad with holdReq := true }) :=
  congrArg Host.Outcome.next (if_pos h)

/-- Settles O27: each command's clause is a lemma of its own. What they share is that serving the sections adds tokens and events and
keeps what the clauses speak of (`Serves`), and that a unit's token keeps what decides whether those of the units after it in its
section are due (`DueKept`). -/
theorem holdCatchUpAndDueTimes : Obligations.HoldCatchUpAndDueTimes := by
  unfold Obligations.HoldCatchUpAndDueTimes
  intro sec s hroom
  have hfree : s.evq.length < 1024 := by omega
  refine ⟨hold_of_on, fun hoff => ?_, abandon_gives (by omega), fun n => replayBegun_iff n, fun hstate => ?_,
    catchUpStart_gives hfree, heldTokenIssue_gives sec hfree, fun c => bandDue_gives, bandDue_of_ne_zero s,
    fun c => tickJitterIssue_gives (by omega)⟩
  · exact ignored_gives hfree (congrArg Host.Outcome.next (if_neg (by rw [hoff]; exact Bool.false_ne_true)))
  · exact ignored_gives hfree (congrArg Host.Outcome.next (if_pos hstate))

end Sys2Proof.Machine
end

section
/-! SUPPORT. What a line that reaches Intake leaves alone (chapter 6): the link it came over, and every register field but the line
counts of its port and those that an access of the hub or an event moves. -/

namespace Sys2Proof.Machine

/-! ### Which register fields and which parts of a port Intake moves -/

/-- The keys of the fields of the hub and of everything above it. -/
def highKey (k : Nat) : Prop := 0x700000 * 64 ≤ k

/-- The keys of the line counts of a port (registers at offsets 0x148 to 0x158 of its block), and of the fields that an access of the hub
or an event moves. -/
def rowKey (k : Nat) : Prop :=
  (0x200000 * 64 ≤ k ∧ k < 0x230000 * 64 ∧ 0x148 * 64 ≤ k % 0x40000 ∧ k % 0x40000 < 0x160 * 64) ∨ highKey k

theorem rowKey_of_hubMoved {k : Nat} (h : hubMoved k) : rowKey k := .inr (le_of_hubMoved h)

theorem rowKey_of_offset {f : Fld} (p off lo : Nat) (hp : p < 48) (haddr : f.addr = 0x200000 + off + 0x1000 * p) (hbit : f.lo = lo)
    (hoff : 0x148 ≤ off) (htop : off < 0x160) (hlo : lo < 64) : rowKey f.key := by
  unfold rowKey Fld.key
  omega

/-- A port without what Intake keeps in it: its rows, triggers and bands, and the cutovers expected. -/
def PortUnit.link (x : PortUnit) : PortUnit :=
  { x with cur := none, trigs := [], rows := [], lastSs := none, bands := [], cuts := [], missed := [], grpSeen := (0, 0) }

/-- From `s` to `t` only what `Bystands` lets move, and ports: the lanes stay. -/
structure Links (K : Nat → Prop) (s t : State) : Prop where
  stands : Bystands K s t
  lanes  : t.lanes = s.lanes

/-- From `s` to `t` Intake has worked on rows of port `p`: the lanes and the port's link stay. -/
structure Intakes (K : Nat → Prop) (p : Nat) (s t : State) : Prop where
  links : Links K s t
  port  : (t.port p).link = (s.port p).link

section
variable {K : Nat → Prop} {p : Nat}

theorem Links.refl (K : Nat → Prop) (s : State) : Links K s s := ⟨.refl K s, rfl⟩

theorem Links.trans {s t u : State} (h1 : Links K s t) (h2 : Links K t u) : Links K s u :=
  ⟨h1.stands.trans h2.stands, h2.lanes.trans h1.lanes⟩

theorem Links.mono {L : Nat → Prop} {s t : State} (h : Links K s t) (hKL : ∀ k, K k → L k) : Links L s t :=
  ⟨h.stands.mono hKL, h.lanes⟩

theorem Links.foldl {α : Type} {f : State → α → State} (hf : ∀ s a, Links K s (f s a)) (l : List α) (s : State) :
    Links K s (l.foldl f s) :=
  foldl_relates (Links.refl K) Links.trans hf l s

theorem Links.setrf (s : State) {f : Fld} (hf : K f.key) (v : Nat) : Links K s (s.setrf f v) := ⟨.setrf s hf v, rfl⟩
theorem Links.bump (s : State) {f : Fld} (hf : K f.key) (n : Nat) : Links K s (s.bump f n) := ⟨.bump s hf n, rfl⟩
theorem Links.setPort (s : State) (p : Nat) (x : PortUnit) : Links K s (s.setPort p x) := ⟨.setPort s p x, rfl⟩

theorem Links.raise (hK : ∀ k, hubMoved k → K k) (s : State) (c a0 a1 a2 : Nat) : Links K s (s.raise c a0 a1 a2) :=
  ⟨.raise hK s c a0 a1 a2, (congrArg State.lanes (Fetched.raise s c a0 a1 a2).rest :)⟩

theorem Links.lane {s t : State} (h : Links K s t) (l : Nat) : t.lane l = s.lane l := by
  rw [State.lane, h.lanes]
  rfl

theorem Links.rf {s t : State} (h : Links K s t) {f : Fld} (hf : ¬ K f.key) : t.rf f = s.rf f := h.stands.flds f hf

theorem Intakes.refl (K : Nat → Prop) (p : Nat) (s : State) : Intakes K p s s := ⟨.refl K s, rfl⟩

theorem Intakes.trans {s t u : State} (h1 : Intakes K p s t) (h2 : Intakes K p t u) : Intakes K p s u :=
  ⟨h1.links.trans h2.links, h2.port.trans h1.port⟩

theorem Intakes.foldl {α : Type} {f : State → α → State} (hf : ∀ s a, Intakes K p s (f s a)) (l : List α) (s : State) :
    Intakes K p s (l.foldl f s) :=
  foldl_relates (Intakes.refl K p) Intakes.trans hf l s

theorem Intakes.bump (s : State) {f : Fld} (hf : K f.key) (n : Nat) : Intakes K p s (s.bump f n) := ⟨.bump s hf n, rfl⟩
theorem Intakes.setrf (s : State) {f : Fld} (hf : K f.key) (v : Nat) : Intakes K p s (s.setrf f v) := ⟨.setrf s hf v, rfl⟩

theorem Intakes.setPort (s : State) {x : PortUnit} (hx : x.link = (s.port p).link) : Intakes K p s (s.setPort p x) :=
  ⟨.setPort s p x, (congrArg PortUnit.link (look_put_self ..)).trans hx⟩

theorem Intakes.raise (hK : ∀ k, hubMoved k → K k) (s : State) (c a0 a1 a2 : Nat) : Intakes K p s (s.raise c a0 a1 a2) :=
  ⟨.raise hK s c a0 a1 a2, congrArg PortUnit.link (raise_port ..)⟩

theorem Intakes.hubWrite (hK : ∀ k, hubMoved k → K k) (s : State) (own : Bool) (src a n : Nat) (cells : List Host.Cell) :
    Intakes K p s (s.hubWrite own src a n cells) := by
  have hrest := (writeAs_accessed s own (hubClass own src) src a n cells).rest
  exact ⟨⟨.writeAs hK s own _ src a n cells, (congrArg State.lanes hrest :)⟩, (congrArg (fun u : State => (u.port p).link) hrest :)⟩

/-- What a port's link keeps: the open line among it. -/
theorem Intakes.line {s t : State} (h : Intakes K p s t) : (t.port p).line = (s.port p).line := (congrArg PortUnit.line h.port :)

end

/-! ### Rows -/

section
variable {K : Nat → Prop} {p : Nat} (hp : p < 48) (hK : ∀ k, rowKey k → K k)
include hK

theorem writeMember_intakes (s : State) (i m bits : Nat) : Intakes K p s (s.writeMember p i m bits) :=
  .hubWrite (fun _ h => hK _ (rowKey_of_hubMoved h)) s _ _ _ _ _

theorem writeFill_intakes (s : State) (i : Nat) : Intakes K p s (s.writeFill p i) :=
  .foldl (fun s _ => writeMember_intakes hK s _ _ _) _ s

omit hK in
theorem trigDone_intakes (s : State) (r : TrigRec) (line : Bool) : Intakes K p s (s.trigDone p r line) := .setPort s rfl

omit hK in
theorem setPband_intakes (s : State) (n : Nat) (b : PortBand) : Intakes K p s (s.setPband p n b) := .setPort s rfl

include hp

/-- A line count of the port is one of the fields that Intake moves. -/
theorem lineCount_key {f : Fld} (off lo : Nat) (haddr : f.addr = 0x200000 + off + 0x1000 * p) (hbit : f.lo = lo)
    (hoff : 0x148 ≤ off) (htop : off < 0x160) (hlo : lo < 64) : K f.key :=
  hK _ (rowKey_of_offset p off lo hp haddr hbit hoff htop hlo)

theorem resolveRow_intakes (s : State) (r : RowRec) : Intakes K p s (s.resolveRow p r) := by
  have hcount {f : Fld} (off lo : Nat) (haddr : f.addr = 0x200000 + off + 0x1000 * p) (hbit : f.lo = lo) (hoff : 0x148 ≤ off)
      (htop : off < 0x160) (hlo : lo < 64) (t : State) (n : Nat) : Intakes K p t (t.bump f n) :=
    .bump t (lineCount_key hp hK off lo haddr hbit hoff htop hlo) n
  unfold State.resolveRow
  extract_lets n x f tag b on b' rows s1 s2 s3 s4
  have h1 : Intakes K p s s1 := .setPort s (by unfold PortUnit.link; rfl)
  have h2 : Intakes K p s1 s2 := (hcount 0x148 0 rfl rfl (by decide) (by decide) (by decide) s1 _).trans
    (hcount 0x148 16 rfl rfl (by decide) (by decide) (by decide) _ _)
  have h3 : Intakes K p s2 s3 := (hcount 0x148 32 rfl rfl (by decide) (by decide) (by decide) s2 _).trans
    (hcount 0x150 0 rfl rfl (by decide) (by decide) (by decide) _ _)
  have h4 : Intakes K p s3 s4 := .hubWrite (fun _ h => hK _ (rowKey_of_hubMoved h)) s3 _ _ _ _ _
  exact (((h1.trans h2).trans h3).trans h4).trans
    (.setrf s4 (lineCount_key hp hK 0x158 0 rfl rfl (by decide) (by decide) (by decide)) _)

theorem synthRows_intakes (s : State) (want : TrigRec → Bool) : Intakes K p s (s.synthRows p want) :=
  .foldl (fun s t => ((writeFill_intakes hK s _).trans (resolveRow_intakes hp hK _ _)).trans (trigDone_intakes _ t false)) _ s

theorem closeRow_intakes (s : State) : Intakes K p s (s.closeRow p) := by
  unfold State.closeRow
  split
  · exact .refl K p s
  · next c _ =>
    extract_lets _ s1 t s2 s3 i whole flg s4 ss s5 new x s6 b
    have h1 : Intakes K p s s1 := .setPort s rfl
    have h2 : Intakes K p s1 s2 := synthRows_intakes hp hK s1 _
    have h3 : Intakes K p s2 s3 := trigDone_intakes s2 t true
    have h4 : Intakes K p s3 s4 := by
      dsimp only [s4]
      split
      · exact writeFill_intakes hK s3 i
      · exact .refl K p s3
    have h5 : Intakes K p s4 s5 := resolveRow_intakes hp hK s4 _
    have h6 : Intakes K p s5 s6 := .setPort s5 rfl
    have hclosed := ((((h1.trans h2).trans h3).trans h4).trans h5).trans h6
    split
    · split
      · exact (hclosed.trans (setPband_intakes s6 _ _)).trans (.raise (fun _ h => hK _ (rowKey_of_hubMoved h)) _ _ _ _ _)
      · exact hclosed
    · exact hclosed

/-! ### Lines -/

theorem surplus_intakes (s : State) (n : Nat) : Intakes K p s (s.surplus p n) :=
  (setPband_intakes s n _).trans (.bump _ (lineCount_key hp hK 0x148 48 rfl rfl (by decide) (by decide) (by decide)) 1)

/-- A line in its place: a good one that is no member of its row counts as bad. -/
theorem placeLine_intakes (s : State) (t : TrigRec) {l : LineIn} (hbad : l.good = true → K (Rf.SPK_PCNT_BADLINE p).key) :
    Intakes K p s (s.placeLine p t l) := by
  unfold State.placeLine
  extract_lets same s1 c good s2 n w s3 len c' _ s4
  have h1 : Intakes K p s s1 := by
    dsimp only [s1]
    split
    · exact .refl K p s
    · exact closeRow_intakes hp hK s
  have h2 : Intakes K p s1 s2 := by
    dsimp only [s2]
    split
    · next h => exact .bump s1 (hbad (Bool.and_eq_true_iff.1 h).1) 1
    · exact .refl K p s1
  have h3 : Intakes K p s2 s3 := by
    dsimp only [s3]
    split
    · exact writeMember_intakes hK s2 _ _ _
    · exact .refl K p s2
  have h4 : Intakes K p s3 s4 := .setPort s3 rfl
  have hplaced := ((h1.trans h2).trans h3).trans h4
  split
  · exact hplaced.trans (closeRow_intakes hp hK s4)
  · exact hplaced

theorem lineIn_intakes (s : State) {l : LineIn} (hbad : l.good = true → K (Rf.SPK_PCNT_BADLINE p).key) :
    Intakes K p s (s.lineIn p l) := by
  have hlate (n : Nat) (b : PortBand) : Intakes K p s ((s.setPband p n b).bump (Rf.SPK_LCNT2_LATE p)) :=
    (setPband_intakes s n b).trans (.bump _ (lineCount_key hp hK 0x150 16 rfl rfl (by decide) (by decide) (by decide)) 1)
  unfold State.lineIn
  split
  · exact .refl K p s
  · split
    · exact surplus_intakes hp hK s _
    · next t _ =>
      dsimp only
      generalize (t.done || _) = d
      split
      · exact surplus_intakes hp hK s _
      · split
        · exact hlate _ _
        · split
          · exact surplus_intakes hp hK s _
          · exact placeLine_intakes hp hK s t hbad

omit hp hK in
theorem groupArrives_intakes (s : State) (t : TrigRec) : Intakes K p s (s.groupArrives p t) := by
  unfold State.groupArrives
  split
  · extract_lets g x seen s1
    have h1 : Intakes K p s s1 := .setPort s rfl
    split
    · exact .refl K p s
    · split
      · exact h1
      · exact h1.trans (.setPort s1 (by rfl))
  · exact .refl K p s

omit hp hK in
/-- The group of a line that has its trigger has begun. -/
theorem groupBegins_intakes (s : State) (o : Option TrigRec) (c : TrigRec → Bool) : Intakes K p s (match o with
    | some t => if c t then s.groupArrives p t else s
    | none => s) := by
  split
  · split
    · exact groupArrives_intakes s _
    · exact .refl K p s
  · exact .refl K p s

theorem handLine_intakes (s : State) {l : LineIn} (hbad : l.good = true → K (Rf.SPK_PCNT_BADLINE p).key) :
    Intakes K p s (s.handLine p l) :=
  (groupBegins_intakes s (s.trigOf p l.lseq) (fun t => s.cadOn && decide (t.row < s.height) && !s.bandHeld t.band)).trans
    (lineIn_intakes hp hK _ hbad)

end

/-! ### The end of a line -/

theorem tstShow_links {K : Nat → Prop} (hK : ∀ k, highKey k → K k) (s before : State) : Links K s (s.tstShow before) := by
  have hactive : Links K s (s.setrf Rf.TST_STAT_ACTIVE s.tstActive) := .setrf s (hK _ (by unfold highKey; decide)) _
  unfold State.tstShow
  dsimp only
  generalize List.filter _ before.tstOn = l
  refine hactive.trans (.foldl (fun s q => ?_) l _)
  exact .raise (fun _ h => hK _ (le_of_hubMoved h)) s _ _ _ _

theorem tstShow_ports (s before : State) : (s.tstShow before).ports = s.ports := by
  unfold State.tstShow
  dsimp only
  generalize List.filter _ before.tstOn = l
  refine (foldl_keeps State.ports (fun s q => ?_) l _).trans rfl
  exact raise_ports s _ _ _ _

section
variable {K : Nat → Prop} {p : Nat} (hp : p < 48) (hK : ∀ k, rowKey k → K k)
include hK

/-- A line is counted for its distortion, or the distortion has ended. -/
theorem distorts_intakes (s : State) : Intakes K p s (s.distorts p).2 := by
  unfold State.distorts
  split
  · dsimp only
    split
    · have hports : ((s.setrf Rf.TST_LINE_EN 0).tstShow s).ports = s.ports := tstShow_ports _ s
      have hoff : Links K s (s.setrf Rf.TST_LINE_EN 0) := .setrf s (hK _ (.inr (by unfold highKey; decide))) 0
      refine ⟨hoff.trans (tstShow_links (fun _ h => hK _ (.inr h)) _ s), ?_⟩
      rw [State.port, hports]
      rfl
    · exact ⟨⟨⟨rfl, rfl, rfl, rfl, rfl, List.prefix_refl _, fun _ _ => rfl⟩, rfl⟩, rfl⟩
  · exact .refl K p s

include hp

theorem goodLine_intakes (s : State) {l : LineIn} (hbad : K (Rf.SPK_PCNT_BADLINE p).key) : Intakes K p s (s.goodLine p l) := by
  have hd := distorts_intakes (p := p) hK s
  unfold State.goodLine
  dsimp only
  split
  · split
    · exact hd.trans (handLine_intakes hp hK _ (fun _ => hbad))
    · exact hd
  · exact hd.trans (handLine_intakes hp hK _ (fun _ => hbad))

end

end Sys2Proof.Machine
end

section
/-! SUPPORT. What a block of the port stream leaves alone (5.3 to 5.8): the lanes, and every register field but those of the ports
behind their configuration and those from the hub's on. -/

namespace Sys2Proof.Machine

/-! ### What a port sends -/

/-- A port without its queue downstream and the slots it has used. -/
def PortUnit.unsent (x : PortUnit) : PortUnit := { x with dn := [], txNext := 0, sent := [] }

/-- From `s` to `t` port `p` has sent or queued control blocks downstream. -/
structure Sends (p : Nat) (s t : State) : Prop where
  rest : { t with ports := s.ports } = s
  port : (t.port p).unsent = (s.port p).unsent

theorem Sends.refl (p : Nat) (s : State) : Sends p s s := ⟨rfl, rfl⟩

theorem Sends.trans {p : Nat} {s t u : State} (h1 : Sends p s t) (h2 : Sends p t u) : Sends p s u := by
  refine ⟨?_, h2.port.trans h1.port⟩
  calc { u with ports := s.ports } = { ({ u with ports := t.ports } : State) with ports := s.ports } := rfl
    _ = s := by rw [h2.rest, h1.rest]

theorem Sends.setPort {p : Nat} (s : State) {x : PortUnit} (hx : x.unsent = (s.port p).unsent) : Sends p s (s.setPort p x) :=
  ⟨rfl, (congrArg PortUnit.unsent (look_put_self ..)).trans hx⟩

theorem sendIn_sends (s : State) (p k : Nat) (w : Word) : Sends p s (s.sendIn p k w) := .setPort s rfl

theorem sendDn_sends (p upto keep : Nat) : ∀ (n : Nat) (s : State), Sends p s (State.sendDn p upto keep n s)
  | 0, s => .refl p s
  | n + 1, s => by
    unfold State.sendDn
    dsimp only
    split
    · exact .refl p s
    · split
      · exact .refl p s
      · have hslot : Sends p s (s.setPort p { s.port p with txNext := (s.port p).txNext + 1 }) := .setPort s rfl
        have hsent (t : State) (ws : List Word) (k : Nat) (w : Word) :
            Sends p t ((t.setPort p { t.port p with dn := ws }).sendIn p k w) :=
          Sends.trans (t := t.setPort p { t.port p with dn := ws }) (.setPort t rfl) (sendIn_sends _ p k w)
        split
        · exact (hslot.trans (hsent _ _ _ _)).trans (sendDn_sends p upto keep n _)
        · exact hslot.trans (sendDn_sends p upto keep n _)

theorem settleDn_sends (s : State) (p : Nat) : Sends p s (s.settleDn p) := by
  unfold State.settleDn
  extract_lets k t
  exact (sendDn_sends p k 0 _ s).trans (.setPort t rfl)

theorem queueDn_sends (s : State) (p : Nat) (ws : List Word) : Sends p s (s.queueDn p ws) := by
  unfold State.queueDn
  extract_lets t
  exact (settleDn_sends s p).trans (.setPort t rfl)

theorem Sends.evq {p : Nat} {s t : State} (h : Sends p s t) : t.evq = s.evq := (congrArg State.evq h.rest :)
theorem Sends.rf {p : Nat} {s t : State} (h : Sends p s t) (f : Fld) : t.rf f = s.rf f := (congrArg (fun u : State => u.rf f) h.rest :)

theorem Sends.links {p : Nat} {s t : State} (h : Sends p s t) (K : Nat → Prop) : Links K s t where
  stands :=
    { cad := (congrArg State.cad h.rest :)
      units := (congrArg State.units h.rest :)
      engines := (congrArg State.engines h.rest :)
      modes := (congrArg State.modes h.rest :)
      count := (congrArg State.count h.rest :)
      queue := by rw [h.evq]
      flds := fun f _ => h.rf f }
  lanes := (congrArg State.lanes h.rest :)

/-! ### Which register fields a block of the port stream moves -/

/-- The keys of the fields of a port behind its configuration SPK_PCFG, and of those from the hub's on. -/
def linkKey (k : Nat) : Prop := (0x200000 * 64 ≤ k ∧ k < 0x230000 * 64 ∧ 0x8 * 64 ≤ k % 0x40000) ∨ highKey k

theorem linkKey_of_rowKey {k : Nat} (h : rowKey k) : linkKey k := by
  rcases h with ⟨hlo, hhi, hoff, -⟩ | h
  · exact .inl ⟨hlo, hhi, by omega⟩
  · exact .inr h

theorem linkKey_of_hubMoved {k : Nat} (h : hubMoved k) : linkKey k := .inr (le_of_hubMoved h)

/-- A field at bit `lo` of the register of a port at an offset behind its configuration. -/
theorem linkKey_of_offset {f : Fld} {p : Nat} (hp : p < 48) (off lo : Nat) (haddr : f.addr = 0x200000 + off + 0x1000 * p := by rfl)
    (hbit : f.lo = lo := by rfl) (hoff : 0x8 ≤ off := by decide) (htop : off < 0x1000 := by decide) (hlo : lo < 64 := by decide) :
    linkKey f.key := by
  unfold linkKey Fld.key
  omega

section
variable {K : Nat → Prop} {p : Nat} (hp : p < 48) (hK : ∀ k, linkKey k → K k)
include hK

include hp

theorem countLoad_links (s : State) : Links K s (s.countLoad p) := by
  unfold State.countLoad
  dsimp only
  split
  · exact .setPort s p _
  · exact (Links.setPort s p _).trans (.setrf _ (hK _ (linkKey_of_offset hp 0x10 32)) _)

theorem cameraSeen_links (s : State) : Links K s (s.cameraSeen p) := by
  have hheard : Links K s (s.cameraHeard p) := .setPort s p _
  unfold State.cameraSeen
  dsimp only
  split
  · exact (hheard.trans (.setrf _ (hK _ (linkKey_of_offset hp 0x10 0)) _)).trans
      (.raise (fun _ h => hK _ (linkKey_of_hubMoved h)) _ _ _ _ _)
  · exact hheard

/-! ### Lines -/

theorem closeBad_links (s : State) : Links K s (s.closeBad p) := by
  unfold State.closeBad
  split
  · next o _ =>
    have hrow : Intakes linkKey p _ ((s.setPort p { s.port p with line := none }).bump (Rf.SPK_PCNT_BADLINE p) |>.handLine p o.bad) :=
      handLine_intakes hp (fun _ => linkKey_of_rowKey) _ (fun h => absurd h Bool.false_ne_true)
    exact ((Links.setPort s p _).trans (.bump _ (hK _ (linkKey_of_offset hp 0x28 0)) 1)).trans (hrow.links.mono hK)
  · exact .refl K s

theorem takeData_links (s : State) (w : Word) : Links K s (s.takeData p w) := by
  unfold State.takeData
  split
  · exact .setPort s p _
  · exact .bump s (hK _ (linkKey_of_offset hp 0x28 48)) 1

theorem takeLs_links (s : State) (w : Nat) : Links K s (s.takeLs p w) := by
  unfold State.takeLs
  extract_lets s1 s2 o
  have h1 : Links K s s1 := cameraSeen_links hp hK s
  have h2 : Links K s1 s2 := by
    dsimp only [s2]
    split
    · exact (closeBad_links hp hK s1).trans (.bump _ (hK _ (linkKey_of_offset hp 0x28 16)) 1)
    · exact .refl K s1
  exact (h1.trans h2).trans (.setPort s2 p _)

theorem takeLe_links (s : State) (w : Nat) : Links K s (s.takeLe p w) := by
  have hheard : Links K s (s.cameraHeard p) := .setPort s p _
  unfold State.takeLe
  extract_lets s1
  split
  · exact hheard.trans (.bump s1 (hK _ (linkKey_of_offset hp 0x28 48)) 1)
  · dsimp only
    split
    · have hgood (t : State) (l : LineIn) : Links K t (t.goodLine p l) :=
        (goodLine_intakes hp (fun _ h => hK _ (linkKey_of_rowKey h)) t (hK _ (linkKey_of_offset hp 0x28 0))).links
      exact (hheard.trans (.setPort s1 p _)).trans (hgood _ _)
    · exact hheard.trans (closeBad_links hp hK s1)

/-! ### Status and acknowledgements -/

theorem fixCarrier_links (s : State) (again : List Word) : Links K s (s.fixCarrier p again) := by
  have hsettled : Links K s (s.settleDn p) := (settleDn_sends s p).links K
  unfold State.fixCarrier
  extract_lets s1 c x s2
  have h2 : Links K s1 s2 := by
    dsimp only [s2]
    split
    · exact .refl K s1
    · exact .setPort s1 p _
  split
  · exact hsettled
  · exact ((hsettled.trans h2).trans (.setrf s2 (hK _ (linkKey_of_offset hp 0x10 24)) c)).trans
      (.raise (fun _ h => hK _ (linkKey_of_hubMoved h)) _ _ _ _ _)

theorem setIdle_links (s : State) : Links K s (s.setIdle p) := .setrf s (hK _ (linkKey_of_offset hp 0x140 0)) _

theorem takeSack_links (s : State) (w : Nat) : Links K s (s.takeSack p w) := by
  unfold State.takeSack
  extract_lets s1 r x s2 _ s3
  have h1 : Links K s s1 := cameraSeen_links hp hK s
  have h2 : Links K s1 s2 := .setPort s1 p _
  split
  · split
    · exact (h1.trans h2).trans (.setrf s2 (hK _ (linkKey_of_offset hp 0x140 0)) 3)
    · exact ((h1.trans h2).trans (Links.setPort s2 p _)).trans (((Links.bump s3 (hK _ (linkKey_of_offset hp 0x30 48)) 1).trans
        (.raise (fun _ h => hK _ (linkKey_of_hubMoved h)) _ _ _ _ _)).trans (setIdle_links hp hK _))
  · exact h1.trans (.bump s1 (hK _ (linkKey_of_offset hp 0x30 0)) 1)

theorem takeSt_links (s : State) (w : Nat) : Links K s (s.takeSt p w) := by
  unfold State.takeSt
  extract_lets s1 old new s2 s3 s4 _ s5 s6 s7
  have h1 : Links K s s1 := cameraSeen_links hp hK s
  have h2 : Links K s1 s2 := (Links.setrf s1 (hK _ (linkKey_of_offset hp 0x18 0)) _).trans
    (.setrf _ (hK _ (linkKey_of_offset hp 0x18 8)) _)
  have h3 : Links K s2 s3 := (Links.setrf s2 (hK _ (linkKey_of_offset hp 0x18 16)) _).trans
    (.setrf _ (hK _ (linkKey_of_offset hp 0x18 24)) _)
  have h4 : Links K s3 s4 := .setrf s3 (hK _ (linkKey_of_offset hp 0x18 32)) _
  have h5 : Links K s4 s5 := .setPort s4 p _
  have h6 : Links K s5 s6 := (settleDn_sends s5 p).links K
  have h7 : Links K s6 s7 := fixCarrier_links hp hK s6 _
  have hshown := ((((((h1.trans h2).trans h3).trans h4).trans h5).trans h6).trans h7)
  split
  · exact hshown.trans (.raise (fun _ h => hK _ (linkKey_of_hubMoved h)) _ _ _ _ _)
  · exact hshown

/-! ### A block -/

theorem portBlock_links (s : State) (b : Blk) : Links K s (s.portBlock p b) := by
  have hload := countLoad_links hp hK s
  cases b with
  | void => exact .refl K s
  | gone => exact .refl K s
  | col _ => exact .refl K s
  | data w =>
    unfold State.portBlock
    dsimp only
    split
    · exact hload
    · exact hload.trans (takeData_links hp hK _ w)
  | ctl w =>
    unfold State.portBlock
    dsimp only
    split
    · exact .refl K s
    · exact hload.trans (takeLs_links hp hK _ _)
    · split
      · exact hload
      · split
        · exact hload.trans (takeLe_links hp hK _ _)
        · exact hload.trans (takeSt_links hp hK _ _)
        · exact hload.trans (takeSack_links hp hK _ _)
        · exact hload

end

/-! ### The port stream -/

/-- A lane without its elastic buffer. -/
def LaneSt.bare (x : LaneSt) : LaneSt := { x with fifo := [] }

/-- From `s` to `t` blocks have left the elastic buffers of a port: of the lanes only the buffers move. -/
structure Streams (K : Nat → Prop) (s t : State) : Prop where
  stands : Bystands K s t
  lanes  : ∀ l, (t.lane l).bare = (s.lane l).bare

theorem Links.streams {K : Nat → Prop} {s t : State} (h : Links K s t) : Streams K s t :=
  ⟨h.stands, fun l => congrArg LaneSt.bare (h.lane l)⟩

theorem Streams.refl (K : Nat → Prop) (s : State) : Streams K s s := (Links.refl K s).streams

theorem Streams.trans {K : Nat → Prop} {s t u : State} (h1 : Streams K s t) (h2 : Streams K t u) : Streams K s u :=
  ⟨h1.stands.trans h2.stands, fun l => (h2.lanes l).trans (h1.lanes l)⟩

theorem Streams.foldl {K : Nat → Prop} {α : Type} {f : State → α → State} (hf : ∀ s a, Streams K s (f s a)) (l : List α)
    (s : State) : Streams K s (l.foldl f s) :=
  foldl_relates (Streams.refl K) Streams.trans hf l s

theorem Streams.setFifo {K : Nat → Prop} (s : State) (l : Nat) (q : List Blk) :
    Streams K s (s.setLane l { s.lane l with fifo := q }) := by
  refine ⟨⟨rfl, rfl, rfl, rfl, rfl, List.prefix_refl _, fun _ _ => rfl⟩, fun k => ?_⟩
  rw [State.setLane_get_lane]
  split
  · next h => rw [h]; rfl
  · rfl

/-- The keys of the fields that the port stream moves: those of a block, and LOST of the lanes. -/
def streamKey (k : Nat) : Prop := linkKey k ∨ (0x300000 * 64 ≤ k ∧ k % 0x4000 = 7)

theorem streamKey_lost (l : Nat) : streamKey (Rf.SPK_LN_STAT_LOST l).key := by
  have hkey : (Rf.SPK_LN_STAT_LOST l).key = (0x300000 + 0x100 * l) * 64 + 7 := rfl
  unfold streamKey
  omega

section
variable {K : Nat → Prop} {p : Nat} (hp : p < 48) (hK : ∀ k, streamKey k → K k)
include hp hK

theorem switchStripe_streams (s : State) (m d : Nat) : Streams K s (s.switchStripe p m d) := by
  have hL : ∀ k, linkKey k → K k := fun k h => hK k (.inl h)
  have hlost (u : State) : Links K u ((u.lanesOf p).foldl (fun s l => s.setrf (Rf.SPK_LN_STAT_LOST l) 0) u) :=
    .foldl (fun s l => .setrf s (hK _ (streamKey_lost l)) 0) _ u
  unfold State.switchStripe
  extract_lets full x s1 s2 s3 s4 s5
  have h1 : Links K s s1 := .setPort s p _
  have h2 : Links K s1 s2 := ((Links.setrf s1 (hL _ (linkKey_of_offset hp 0x10 8)) _).trans
    (.setrf _ (hL _ (linkKey_of_offset hp 0x10 16)) _)).trans (.setrf _ (hL _ (linkKey_of_offset hp 0x40 32)) _)
  have h3 : Links K s2 s3 := by
    dsimp only [s3]
    split
    · exact hlost s2
    · exact .refl K s2
  have h4 : Links K s3 s4 := by
    dsimp only [s4]
    split
    · exact .refl K s3
    · exact .setrf s3 (hL _ (linkKey_of_offset hp 0x10 0)) _
  have h5 : Links K s4 s5 := fixCarrier_links hp hL s4 []
  have hswitched := ((((h1.trans h2).trans h3).trans h4).trans h5)
  split
  · exact (hswitched.trans (.raise (fun _ h => hL _ (linkKey_of_hubMoved h)) _ _ _ _ _)).streams
  · exact hswitched.streams

omit hp hK in
theorem popColumn_streams (s : State) (ls : List Nat) : Streams K s (s.popColumn ls) := .foldl (fun s l => .setFifo s l _) ls s

theorem passColumn_streams {s t : State} {q : Nat} {ls : List Nat} (h : s.passColumn p q ls = some t) : Streams K s t := by
  have hpass (ls : List Nat) : Streams K s ((s.popColumn ls).setPort p { s.port p with amSeq := q }) :=
    (popColumn_streams s ls).trans (Links.setPort _ p _).streams
  unfold State.passColumn at h
  dsimp only at h
  split at h
  · split at h
    · split at h
      · rw [← Option.some.inj h]
        exact (hpass _).trans (switchStripe_streams hp hK _ _ _)
      · exact absurd h (by simp)
    · split at h
      · rw [← Option.some.inj h]
        exact hpass _
      · exact absurd h (by simp)
  · split at h
    · rw [← Option.some.inj h]
      exact hpass _
    · exact absurd h (by simp)

theorem takeBlock_streams {s t : State} {b : Option Blk} (h : s.takeBlock p = some (b, t)) : Streams K s t := by
  have hstep (u : State) (x : PortUnit) (c : Prop) [Decidable c] :
      Streams K u (if c then (u.setPort p x).bump (Rf.SPK_PRM_DEL p) else u.setPort p x) := by
    have hport : Links K u (u.setPort p x) := .setPort u p x
    split
    · exact (hport.trans (.bump _ (hK _ (.inl (linkKey_of_offset hp 0x38 0))) 1)).streams
    · exact hport.streams
  unfold State.takeBlock at h
  dsimp only at h
  split at h
  · obtain ⟨u, hu, hut⟩ := Option.map_eq_some_iff.1 h
    rw [← (Prod.mk.inj hut).2]
    exact passColumn_streams hp hK hu
  · split at h
    · exact absurd h (by simp)
    · split at h
      · rw [← (Prod.mk.inj (Option.some.inj h)).2]
        exact hstep s _ _
      · exact absurd h (by simp)
    · split at h
      · exact absurd h (by simp)
      · rw [← (Prod.mk.inj (Option.some.inj h)).2]
        exact .setFifo s _ _
      · rw [← (Prod.mk.inj (Option.some.inj h)).2]
        exact (Streams.setFifo s _ _).trans (hstep _ _ _)

theorem drain_streams : ∀ (n : Nat) (s : State), Streams K s (State.drain n s p)
  | 0, s => .refl K s
  | n + 1, s => by
    unfold State.drain
    split
    · split
      · exact .refl K s
      · next h => exact (takeBlock_streams hp hK h).trans (drain_streams n _)
      · next h =>
        exact ((takeBlock_streams hp hK h).trans (portBlock_links hp (fun k hk => hK k (.inl hk)) _ _).streams).trans
          (drain_streams n _)
    · exact .refl K s

end

end Sys2Proof.Machine
end

section
/-! SUPPORT. A block as it reaches its lane (R140, R149, R150): what comes before it, what a lane that hunts makes of it, and what a
block at its place leaves alone. -/

namespace Sys2Proof.Machine

/-! ### The port of a lane -/

theorem mem_lanesOf_of_portOf {s : State} {l p : Nat} (h : s.portOf l = some p) : p < 48 ∧ l ∈ s.lanesOf p := by
  have hmem := List.mem_of_find?_eq_some h
  have hlane := List.find?_some h
  simp only [Bool.and_eq_true, decide_eq_true_eq] at hlane
  refine ⟨List.mem_range.1 hmem, List.mem_map.2 ⟨l - s.laneBase p, List.mem_range.2 ?_, ?_⟩⟩ <;> omega

/-! ### What comes before a block -/

theorem bit_of_zero {s : State} {f : Fld} (h : s.rf f = 0) : s.bit f = false := decide_eq_false (not_not.2 h)

theorem alter_of_off {s : State} {l i : Nat} (h : s.rf (Rf.TST_LANE_EN i) = 0) (bs : List Rx) : s.alter l i bs = (bs, s) := by
  suffices hall : ∀ (bs acc : List Rx), bs.foldl _ (acc, s) = (acc ++ bs, s) from hall bs []
  intro bs
  induction bs with
  | nil => exact fun acc => by rw [List.append_nil]; rfl
  | cons b bs ih =>
    intro acc
    rw [List.foldl_cons]
    dsimp only
    rw [if_neg (fun hc => by rw [bit_of_zero h] at hc; exact Bool.false_ne_true hc.1), ih, List.append_assoc]
    rfl

/-- The line of the lane's port that has met its timeout by a count is closed (R147). -/
def State.timed (s : State) (p date : Nat) : State := (s.advanceTo date).expireLine p

theorem timed_of_fresh {s : State} {p date : Nat} (h : LineFresh s p (max s.count date)) : s.timed p date = s.advanceTo date := by
  unfold State.timed State.expireLine
  split
  · next o ho => exact if_neg (Nat.not_le.2 (h o ho))
  · rfl

/-- With no alteration in force a block goes straight to its lane. -/
theorem block_eq {s : State} {l p : Nat} {date : Nat} (hport : s.portOf l = some p) (halt : NoAlteration (s.timed p date)) (b : Rx) :
    s.block l date b = ((s.timed p date).onWire l b).receive l b := by
  have hrange : List.range 4 = [0, 1, 2, 3] := by decide
  have hwire (i : Nat) (hi : i < 4) : ((s.timed p date).onWire l b).rf (Rf.TST_LANE_EN i) = 0 := by
    rw [← halt i hi]
    cases b <;> rfl
  have hport' : (s.advanceTo date).portOf l = some p := hport
  unfold State.block
  dsimp only
  rw [hport', hrange]
  simp only [List.foldl_cons, List.foldl_nil]
  rw [show (s.advanceTo date).expireLine p = s.timed p date from rfl]
  rw [alter_of_off (hwire 0 (by decide)), alter_of_off (hwire 1 (by decide)), alter_of_off (hwire 2 (by decide)),
    alter_of_off (hwire 3 (by decide))]
  rfl

/-! ### One lane changed -/

/-- From `s` to `t` lane `l` has come to be `y`, and the count has moved on; nothing else has changed. -/
structure Laned (l : Nat) (y : LaneSt) (s t : State) : Prop where
  rest   : { t with lanes := s.lanes, count := s.count } = s
  lane   : t.lane l = y
  others : ∀ k, k ≠ l → t.lane k = s.lane k

theorem Laned.trans {l : Nat} {y z : LaneSt} {s t u : State} (h1 : Laned l y s t) (h2 : Laned l z t u) : Laned l z s u := by
  refine ⟨?_, h2.lane, fun k hk => (h2.others k hk).trans (h1.others k hk)⟩
  calc { u with lanes := s.lanes, count := s.count }
      = { ({ u with lanes := t.lanes, count := t.count } : State) with lanes := s.lanes, count := s.count } := rfl
    _ = s := by rw [h2.rest, h1.rest]

theorem Laned.setLane (s : State) (l : Nat) (y : LaneSt) : Laned l y s (s.setLane l y) :=
  ⟨rfl, look_put_self .., fun k hk => by rw [State.setLane_get_lane, if_neg hk]⟩

theorem Laned.advanceTo (s : State) (l c : Nat) : Laned l (s.lane l) s (s.advanceTo c) := ⟨rfl, rfl, fun _ _ => rfl⟩

theorem Laned.rf {l : Nat} {y : LaneSt} {s t : State} (h : Laned l y s t) (f : Fld) : t.rf f = s.rf f :=
  (congrArg (fun u : State => u.rf f) h.rest :)
theorem Laned.regs {l : Nat} {y : LaneSt} {s t : State} (h : Laned l y s t) : t.regs = s.regs := (congrArg State.regs h.rest :)
theorem Laned.evq {l : Nat} {y : LaneSt} {s t : State} (h : Laned l y s t) : t.evq = s.evq := (congrArg State.evq h.rest :)
theorem Laned.hub {l : Nat} {y : LaneSt} {s t : State} (h : Laned l y s t) : t.hub = s.hub := (congrArg State.hub h.rest :)
theorem Laned.port {l : Nat} {y : LaneSt} {s t : State} (h : Laned l y s t) (p : Nat) : t.port p = s.port p :=
  (congrArg (fun u : State => u.port p) h.rest :)

theorem Laned.portOf {l : Nat} {y : LaneSt} {s t : State} (h : Laned l y s t) (k : Nat) : t.portOf k = s.portOf k :=
  (congrArg (fun u : State => u.portOf k) h.rest :)

/-- A block of the lanes is data or control. -/
def rxOf (ctl : Bool) (w : Word) : Rx := if ctl then .ctl w else .data w

/-- The lane's descrambler after a block (R140). -/
def LaneSt.wired (x : LaneSt) (ctl : Bool) (w : Word) : LaneSt := { x with scr := (wireBlock x.scr ctl w).1 }

theorem onWire_rxOf (s : State) (l : Nat) (ctl : Bool) (w : Word) :
    s.onWire l (rxOf ctl w) = s.setLane l ((s.lane l).wired ctl w) := by
  cases ctl <;> rfl

/-- A block of a lane whose port has no line that has met its timeout is judged by the lane, whose descrambler has moved on. -/
theorem block_of_fresh {s : State} {l p date : Nat} (hport : s.portOf l = some p) (halt : NoAlteration s)
    (hline : LineFresh s p (max s.count date)) (ctl : Bool) (w : Word) :
    ∃ u, Laned l ((s.lane l).wired ctl w) s u ∧ u.count = max s.count date ∧
      s.block l date (rxOf ctl w) = u.receive l (rxOf ctl w) := by
  have hfresh := timed_of_fresh hline
  refine ⟨(s.advanceTo date).setLane l ((s.lane l).wired ctl w), (Laned.advanceTo s l date).trans (.setLane _ l _), rfl, ?_⟩
  rw [block_eq hport (by rw [hfresh]; exact halt), hfresh, onWire_rxOf]
  rfl

/-! ### Valid headers (R149) -/

theorem goodHeader_hunting {s : State} {l : Nat} (p : Nat) (h : s.rf (Rf.SPK_LN_STAT_BLK l) = 1) :
    s.goodHeader p l = (false, if (s.lane l).good < 63 then s.setLane l { s.lane l with good := (s.lane l).good + 1 }
      else ((s.setLane l { bnd := (s.lane l).bnd, scr := (s.lane l).scr }).setrf (Rf.SPK_LN_STAT_BLK l) 2).raise 0x1001 (p + 256 * l)) := by
  simp only [State.goodHeader, h]
  by_cases hgood : (s.lane l).good < 63
  · rw [if_pos hgood, if_pos (by omega)]
  · rw [if_neg hgood, if_neg (by omega)]

theorem goodHeader_locked {s : State} {l : Nat} (p : Nat) (h : s.rf (Rf.SPK_LN_STAT_BLK l) = 2) :
    s.goodHeader p l = (true, s.setLane l { s.lane l with hist := (false :: (s.lane l).hist).take 64 }) := by
  simp only [State.goodHeader, h]

theorem receive_hunting {s : State} {l p : Nat} (hport : s.portOf l = some p) (h : s.rf (Rf.SPK_LN_STAT_BLK l) = 1) (ctl : Bool)
    (w : Word) : s.receive l (rxOf ctl w) = (s.goodHeader p l).2 := by
  have hno : (s.goodHeader p l).1 = false := by rw [goodHeader_hunting p h]
  unfold State.receive
  rw [hport]
  cases ctl
  · exact if_neg (by rw [hno]; decide)
  · exact if_pos (by rw [hno]; rfl)

/-- A lane in LOCK reads its block: a data block, a good marker, another good control block, or one that is discarded. -/
theorem receive_locked {s : State} {l p : Nat} (hport : s.portOf l = some p) (h : s.rf (Rf.SPK_LN_STAT_BLK l) = 2) :
    ∃ u, Laned l { s.lane l with hist := (false :: (s.lane l).hist).take 64 } s u ∧ u.count = s.count ∧
      (∀ w, s.receive l (.data w) = u.placed p l (.data w) none) ∧
      (∀ w : Word, ctlGood w.toNat = true → w.toNat % 256 = 0x2D → s.receive l (.ctl w) = u.placed p l .void (some w.toNat)) ∧
      (∀ w : Word, ctlGood w.toNat = true → w.toNat % 256 ≠ 0x2D → s.receive l (.ctl w) = u.placed p l (.ctl w) none) ∧
      (∀ w : Word, ctlGood w.toNat = false → s.receive l (.ctl w) = (u.bump (Rf.SPK_PCNT2_BADCTL p)).placed p l .void none) := by
  have hread : (s.goodHeader p l).1 = true := by rw [goodHeader_locked p h]
  have hnext : (s.goodHeader p l).2 = s.setLane l { s.lane l with hist := (false :: (s.lane l).hist).take 64 } := by
    rw [goodHeader_locked p h]
  refine ⟨_, .setLane s l _, rfl, fun w => ?_, fun w hgood ham => ?_, fun w hgood ham => ?_, fun w hbad => ?_⟩ <;>
    unfold State.receive <;> rw [hport] <;> dsimp only <;> rw [hread, hnext]
  · exact if_pos rfl
  · rw [if_neg (by decide), if_pos hgood, if_pos ham]
  · rw [if_neg (by decide), if_pos hgood, if_neg ham]
  · rw [if_neg (by decide), if_neg (by rw [hbad]; exact Bool.false_ne_true)]

/-! ### The marker machine and the port around it -/

/-- The keys of a lane's fields but BLK, BADHDR and LOCKLOSS. -/
def markKey (k : Nat) : Prop := 0x300000 * 64 ≤ k ∧ k % 0x4000 ≠ 0 ∧ k % 0x4000 ≠ 0x10 * 64 ∧ k % 0x4000 ≠ 0x10 * 64 + 16

/-- The keys of the fields that a block at its place moves. -/
def placeKey (k : Nat) : Prop := linkKey k ∨ markKey k

theorem placeKey_of_streamKey {k : Nat} (h : streamKey k) : placeKey k := by
  rcases h with h | ⟨hlo, hoff⟩
  · exact .inl h
  · refine .inr ⟨hlo, ?_, ?_, ?_⟩ <;> omega

/-- A field at bit `lo` of the register of a lane at an offset. -/
theorem markKey_of_offset {f : Fld} (l off lo : Nat) (haddr : f.addr = 0x300000 + off + 0x100 * l := by rfl)
    (hbit : f.lo = lo := by rfl) (hoff : off * 64 + lo < 0x4000 := by decide)
    (hne : off * 64 + lo ∉ [0, 0x10 * 64, 0x10 * 64 + 16] := by decide) : markKey f.key := by
  simp only [List.mem_cons, List.not_mem_nil, or_false, not_or] at hne
  unfold markKey Fld.key
  omega

/-- The fields of the ports and lanes lie below the hub's, where an event moves none. -/
theorem key_ne_event {f : Fld} (h : f.key < 0x700000 * 64) : ∀ g ∈ eventFlds, f.key ≠ g.key := by
  have hhigh : ∀ g ∈ eventFlds, 0x700000 * 64 ≤ g.key := by decide
  intro g hg
  have := hhigh g hg
  omega

/-- A field at bit `lo` of the register of a lane, whose key lies below the hub's. -/
theorem laneKey_low {f : Fld} (l : Fin 192) (off lo : Nat) (haddr : f.addr = 0x300000 + off + 0x100 * l := by rfl)
    (hbit : f.lo = lo := by rfl) (hoff : off < 0x100 := by decide) (hlo : lo < 64 := by decide) : f.key < 0x700000 * 64 := by
  have := l.isLt
  unfold Fld.key
  omega

/-- BLK, BADHDR and LOCKLOSS of a lane are none of the fields that a block at its place moves. -/
theorem not_placeKey {f : Fld} (l : Fin 192) (off lo : Nat) (haddr : f.addr = 0x300000 + off + 0x100 * l := by rfl)
    (hbit : f.lo = lo := by rfl) (h : off * 64 + lo ∈ [0, 0x10 * 64, 0x10 * 64 + 16] := by decide) : ¬ placeKey f.key := by
  have := l.isLt
  simp only [List.mem_cons, List.not_mem_nil, or_false] at h
  unfold placeKey linkKey highKey markKey Fld.key
  omega

/-- Of the lanes' fields the port stream moves LOST alone. -/
theorem not_streamKey {f : Fld} (l : Fin 192) (off lo : Nat) (haddr : f.addr = 0x300000 + off + 0x100 * l := by rfl)
    (hbit : f.lo = lo := by rfl) (hoff : off * 64 + lo < 0x4000 := by decide) (h : off * 64 + lo ≠ 7 := by decide) :
    ¬ streamKey f.key := by
  have := l.isLt
  unfold streamKey linkKey highKey Fld.key
  omega

/-- The fields of a port's configuration SPK_PCFG are none of them either. -/
theorem not_placeKey_pcfg {f : Fld} {p : Nat} (hp : p < 48) (lo : Nat) (haddr : f.addr = 0x200000 + 0x1000 * p := by rfl)
    (hbit : f.lo = lo := by rfl) (hlo : lo < 64 := by decide) : ¬ placeKey f.key := by
  unfold placeKey linkKey highKey markKey Fld.key
  omega

/-- Two fields of one lane at different places of its registers. -/
theorem laneFld_ne {f g : Fld} (l off lo off' lo' : Nat) (hf : f.addr = 0x300000 + off + 0x100 * l := by rfl)
    (hfb : f.lo = lo := by rfl) (hg : g.addr = 0x300000 + off' + 0x100 * l := by rfl) (hgb : g.lo = lo' := by rfl)
    (h : off * 64 + lo ≠ off' * 64 + lo' := by decide) : f.key ≠ g.key := by
  unfold Fld.key
  omega

/-- Two fields of one port at different places of its registers. -/
theorem portFld_ne {f g : Fld} (p off lo off' lo' : Nat) (hf : f.addr = 0x200000 + off + 0x1000 * p := by rfl)
    (hfb : f.lo = lo := by rfl) (hg : g.addr = 0x200000 + off' + 0x1000 * p := by rfl) (hgb : g.lo = lo' := by rfl)
    (h : off * 64 + lo ≠ off' * 64 + lo' := by decide) : f.key ≠ g.key := by
  unfold Fld.key
  omega

/-- The fields of the lanes are none of the ports'. -/
theorem laneFld_ne_port {f g : Fld} (l : Nat) {p : Nat} (hp : p < 48) (off lo off' lo' : Nat)
    (hf : f.addr = 0x300000 + off + 0x100 * l := by rfl) (hfb : f.lo = lo := by rfl)
    (hg : g.addr = 0x200000 + off' + 0x1000 * p := by rfl) (hgb : g.lo = lo' := by rfl)
    (h : off' * 64 + lo' < 0x40000 := by decide) : f.key ≠ g.key := by
  unfold Fld.key
  omega

theorem Bystands.setLane {K : Nat → Prop} (s : State) (l : Nat) (x : LaneSt) : Bystands K s (s.setLane l x) :=
  ⟨rfl, rfl, rfl, rfl, rfl, List.prefix_refl _, fun _ _ => rfl⟩

theorem queueLdn_links {K : Nat → Prop} {p : Nat} (hp : p < 48) (hK : ∀ k, linkKey k → K k) (s : State) (mask d seq : Nat) :
    Links K s (s.queueLdn p mask d seq) := by
  unfold State.queueLdn
  extract_lets s1 x start ldn dn
  have h1 : Links K s s1 := (settleDn_sends s p).links K
  exact ((h1.trans (.setPort s1 p _)).trans ((queueDn_sends _ p [ldn]).links K)).trans
    (.setrf _ (hK _ (linkKey_of_offset hp 0x10 16)) mask)

/-- The lane's block is at its place: what the marker machine, the elastic buffer and the port's bring-up leave. -/
def Places (s t : State) : Prop := Bystands placeKey s t

theorem Places.trans {s t u : State} (h1 : Places s t) (h2 : Places t u) : Places s u := Bystands.trans h1 h2
theorem Places.refl (s : State) : Places s s := Bystands.refl _ s
theorem Places.setLane (s : State) (l : Nat) (x : LaneSt) : Places s (s.setLane l x) := Bystands.setLane s l x
theorem Places.setPort (s : State) (p : Nat) (x : PortUnit) : Places s (s.setPort p x) := Bystands.setPort s p x
theorem Places.of_links {s t : State} (h : Links linkKey s t) : Places s t := h.stands.mono (fun _ => .inl)
theorem Places.setrf (s : State) {f : Fld} (h : placeKey f.key) (v : Nat) : Places s (s.setrf f v) := Bystands.setrf s h v
theorem Places.raise (s : State) (c a0 a1 a2 : Nat) : Places s (s.raise c a0 a1 a2) :=
  Bystands.raise (fun _ h => .inl (linkKey_of_hubMoved h)) s c a0 a1 a2

theorem Places.lanesOf {p : Nat} (hp : p < 48) {s t : State} (h : Places s t) : t.lanesOf p = s.lanesOf p := by
  unfold State.lanesOf State.laneCount State.laneBase
  rw [h.flds (Rf.SPK_PCFG_BASE p) (not_placeKey_pcfg hp 8), h.flds (Rf.SPK_PCFG_WIDTH p) (not_placeKey_pcfg hp 2)]

theorem loseLane_places {p : Nat} (hp : p < 48) (s : State) (l : Nat) : Places s (s.loseLane p l) := by
  unfold State.loseLane
  extract_lets n from' m s1 s2 _ s3 d
  have h1 : Places s s1 := .setrf s (.inr (markKey_of_offset l 0 7)) 1
  split
  · split
    · have h2 : Places s1 s2 := (Places.setrf s1 (.inl (linkKey_of_offset hp 0x10 0)) 5).trans
        (.setrf _ (.inl (linkKey_of_offset hp 0x10 16)) 0)
      exact ((h1.trans h2).trans (Places.setPort s2 p _)).trans (Places.raise s3 _ _ _ _)
    · exact (h1.trans (.of_links (queueLdn_links hp (fun _ h => h) s1 m d _))).trans (Places.raise _ _ _ _ _)
  · exact .refl s

theorem toAmHunt_places (s : State) (l : Nat) : Places s (s.toAmHunt l) := by
  have hend (t : State) : Places t (t.setrf (Rf.SPK_LN_STAT_AMST l) 0) := .setrf t (.inr (markKey_of_offset l 0 2)) 0
  unfold State.toAmHunt
  dsimp only
  split
  · next p hport =>
    split
    · exact (loseLane_places (mem_lanesOf_of_portOf hport).1 s l).trans (hend _)
    · exact hend s
  · exact hend s

theorem takeAm_places (s : State) (l w : Nat) : Places s (s.takeAm l w) :=
  (Places.setLane s l _).trans (.setrf _ (.inr (markKey_of_offset l 0 4)) _)

theorem missAm_places (s : State) (l : Nat) : Places s (s.missAm l) := by
  unfold State.missAm
  extract_lets x s1 s2
  have hmissed : Places s s2 := Places.trans (t := s1) (.setrf s (.inr (markKey_of_offset l 0x10 32)) _) (.setLane s1 l _)
  split
  · exact hmissed.trans (toAmHunt_places s2 l)
  · exact hmissed

theorem amStep_places (s : State) (l : Nat) (b : Blk) (am : Option Nat) : Places s (s.amStep l b am).2 := by
  have hamst (t : State) (v : Nat) : Places t (t.setrf (Rf.SPK_LN_STAT_AMST l) v) := .setrf t (.inr (markKey_of_offset l 0 2)) v
  have hnext : Places s (s.setLane l { s.lane l with idx := (s.lane l).idx + 1 }) := .setLane s l _
  unfold State.amStep
  dsimp only
  split
  · split
    · exact (takeAm_places s l _).trans (hamst _ _)
    · exact hnext
  · split
    · split
      · split
        · exact (takeAm_places s l _).trans (hamst _ _)
        · exact hamst s 0
      · exact hamst s 0
    · exact hnext
  · split
    · split
      · split
        · exact takeAm_places s l _
        · exact missAm_places s l
      · exact missAm_places s l
    · split
      · exact hnext.trans (.setrf _ (.inr (markKey_of_offset l 0x10 32)) _)
      · exact hnext

theorem overflow_places {p : Nat} (hp : p < 48) (s : State) (l : Nat) (b : Blk) : Places s (s.overflow p l b) := by
  unfold State.overflow
  extract_lets s1 f _ x s2
  have h1 : Places s s1 := .of_links ((closeBad_links hp (fun _ h => h) s).trans (.bump _ (linkKey_of_offset hp 0x30 16) 1))
  have h2 : Places s1 s2 := .setLane s1 l _
  exact ((h1.trans h2).trans (Places.setPort s2 p _)).trans (Places.raise _ _ _ _ _)

theorem enter_places {p : Nat} (hp : p < 48) (s : State) (l : Nat) (b : Option Blk) : Places s (s.enter p l b) := by
  have hset (x : LaneSt) : Places s (s.setLane l x) := .setLane s l x
  unfold State.enter
  extract_lets x stripes
  split
  · exact hset _
  · extract_lets isCol
    split
    · split
      · exact overflow_places hp s l _
      · exact hset _
    · split
      · exact hset _
      · split
        · exact hset _
        · exact .refl s

theorem comeUp_places {p : Nat} (hp : p < 48) (s : State) : Places s (s.comeUp p) := by
  unfold State.comeUp
  extract_lets ls early tb s1 x seq s2 s3 s4
  have h1 : Places s s1 := by
    refine Bystands.foldl (fun t l => ?_) ls s
    exact (Places.setrf t (.inr (markKey_of_offset l 0 8)) _).trans (.setrf _ (.inr (markKey_of_offset l 0 7)) 0)
  have h2 : Places s1 s2 := .setPort s1 p _
  have h3 : Places s2 s3 := (Places.setrf s2 (.inl (linkKey_of_offset hp 0x10 8)) _).trans
    (.setrf _ (.inl (linkKey_of_offset hp 0x10 16)) 0)
  have h4 : Places s3 s4 := .setrf s3 (.inl (linkKey_of_offset hp 0x10 24)) _
  exact (((h1.trans h2).trans h3).trans h4).trans
    ((Places.setrf s4 (.inl (linkKey_of_offset hp 0x10 0)) 2).trans (Places.raise _ _ _ _ _))

theorem tryUp_places {p : Nat} (hp : p < 48) (s : State) : Places s (s.tryUp p) := by
  unfold State.tryUp
  extract_lets ls _ s1
  have h1 : Places s s1 := .setPort s p _
  split
  · exact .refl s
  · split
    · split
      · exact h1.trans (comeUp_places hp s1)
      · exact h1.trans (Places.raise s1 _ _ _ _)
    · exact h1.trans (Places.raise s1 _ _ _ _)

/-- A block at its place leaves BLK, BADHDR and LOCKLOSS of every lane alone. -/
theorem placed_places {p : Nat} (hp : p < 48) (s : State) (l : Nat) (b : Blk) (am : Option Nat) : Places s (s.placed p l b am) :=
  (((amStep_places s l b am).trans (enter_places hp _ l _)).trans (tryUp_places hp _)).trans
    (drain_streams hp (fun _ => placeKey_of_streamKey) 2048 _).stands

end Sys2Proof.Machine
end

section
/-! SUPPORT. Block lock and the first marker of a lane (R149, R150). -/

namespace Sys2Proof.Machine

/-! ### The commands that bring a lane a block -/

/-- The commands of a data block and of the control blocks, with the block's header. -/
def blockInstrs (l : Fin 192) (w : BitVec 64) (date : Nat) : List (Instr × Bool) :=
  [(.dataBlock l w date, false), (.fill l w date, true), (.am l w date, true), (.ls l w date, true), (.le l w date, true),
    (.st l w date, true), (.sack l w date, true)]

theorem exec_blockInstr {l : Fin 192} {w : BitVec 64} {date p : Nat} {s : State} (hport : s.portOf l = some p) {i : Instr × Bool}
    (hi : i ∈ blockInstrs l w date) : exec i.1 s = .next (s.block l date (rxOf i.2 w)) := by
  have hon : s.laneOn l = true := by rw [State.laneOn, hport]; rfl
  have hrun (b : Rx) : when' (s.laneOn l) s (s.block l date b) = .next (s.block l date b) := congrArg Host.Outcome.next (if_pos hon)
  simp only [blockInstrs, List.mem_cons, List.not_mem_nil, or_false] at hi
  rcases hi with rfl | rfl | rfl | rfl | rfl | rfl | rfl
  · exact hrun (.data w)
  all_goals exact hrun (.ctl w)

theorem exec_ctl {l : Fin 192} (w : BitVec 64) (date : Nat) {p : Nat} {s : State} (hport : s.portOf l = some p) {i : Instr}
    (hi : (i, true) ∈ blockInstrs l w date) : exec i s = .next (s.block l date (.ctl w)) := exec_blockInstr hport hi

theorem exec_invalidSyncHeader {l : Fin 192} {date p : Nat} {s : State} (hport : s.portOf l = some p) :
    exec (.invalidSyncHeader l date) s = .next (s.block l date .bad) :=
  congrArg Host.Outcome.next (if_pos (by rw [State.laneOn, hport]; rfl))

section
variable {l : Fin 192} {p date : Nat} {s : State} (hport : s.portOf l = some p) (halt : NoAlteration s)
  (hline : LineFresh s p (max s.count date))
include hport halt hline

/-! ### A lane in HUNT -/

theorem header_counts {w : BitVec 64} {i : Instr × Bool} (hi : i ∈ blockInstrs l w date) (hblk : s.rf (Rf.SPK_LN_STAT_BLK l) = 1)
    (hgood : (s.lane l).good < 63) : Gives i.1 s (fun t =>
      t.lane l = { s.lane l with good := (s.lane l).good + 1, scr := (wireBlock (s.lane l).scr i.2 w).1 } ∧
      { t with lanes := s.lanes, count := s.count } = s) := by
  obtain ⟨u, hu, -, hblock⟩ := block_of_fresh hport halt hline i.2 w
  have hkept : (u.lane l).good < 63 := by rw [hu.lane]; exact hgood
  have hrun : u.receive l (rxOf i.2 w) = u.setLane l { u.lane l with good := (u.lane l).good + 1 } := by
    rw [receive_hunting (p := p) ((hu.portOf _).trans hport) ((hu.rf _).trans hblk),
      goodHeader_hunting p ((hu.rf _).trans hblk), if_pos hkept]
  have hlaned := hu.trans (.setLane u l { u.lane l with good := (u.lane l).good + 1 })
  refine ⟨_, exec_blockInstr hport hi, ?_⟩
  rw [hblock, hrun]
  refine ⟨hlaned.lane.trans ?_, hlaned.rest⟩
  rw [hu.lane]
  rfl

theorem header_locks {w : BitVec 64} {i : Instr × Bool} (hi : i ∈ blockInstrs l w date) (hblk : s.rf (Rf.SPK_LN_STAT_BLK l) = 1)
    (hroom : s.evq.length < 1024) (hgood : 63 ≤ (s.lane l).good) : Gives i.1 s (fun t => t.rf (Rf.SPK_LN_STAT_BLK l) = 2 ∧
      t.lane l = { bnd := (s.lane l).bnd, scr := (wireBlock (s.lane l).scr i.2 w).1 } ∧ Raised s t 0x1001 (p + 256 * l) 0 0) := by
  obtain ⟨u, hu, -, hblock⟩ := block_of_fresh hport halt hline i.2 w
  have hkept : ¬ (u.lane l).good < 63 := by rw [hu.lane]; exact Nat.not_lt.2 hgood
  have hrun : u.receive l (rxOf i.2 w) = ((u.setLane l { bnd := (u.lane l).bnd, scr := (u.lane l).scr }).setrf
      (Rf.SPK_LN_STAT_BLK l) 2).raise 0x1001 (p + 256 * l) := by
    rw [receive_hunting (p := p) ((hu.portOf _).trans hport) ((hu.rf _).trans hblk),
      goodHeader_hunting p ((hu.rf _).trans hblk), if_neg hkept]
  refine ⟨_, exec_blockInstr hport hi, ?_⟩
  rw [hblock, hrun]
  refine ⟨?_, ?_, raised_of_evq_eq (by exact hu.evq) hroom _ _ _ _⟩
  · rw [rf_raise (key_ne_event (laneKey_low l 0 0)), State.rf_setrf_self]
    rfl
  · rw [(Links.raise (K := fun _ => True) (fun _ _ => trivial) _ _ _ _ _).lane, State.setrf_get_lane, State.setLane_get_lane,
      if_pos rfl, hu.lane]
    rfl

/-! ### Invalid headers -/

/-- The state in which a block without a valid header is judged: what it leaves in the descrambler is a free value. -/
theorem block_bad : s.block l date .bad = ((s.advanceTo date).onWire l .bad).receive l .bad := by
  have hfresh := timed_of_fresh hline
  rw [block_eq hport (by rw [hfresh]; exact halt), hfresh]

omit hport halt hline in
theorem receive_bad {u : State} (hu : u.portOf l = some p) : u.receive l .bad =
    if u.rf (Rf.SPK_LN_STAT_BLK l) = 2 ∧ (u.badHeader p l).rf (Rf.SPK_LN_STAT_BLK l) = 2 then (u.badHeader p l).placed p l .void none
    else u.badHeader p l := by
  unfold State.receive
  rw [hu]

theorem badHeader_restarts (hblk : s.rf (Rf.SPK_LN_STAT_BLK l) = 1) : Gives (.invalidSyncHeader l date) s (fun t =>
    { t.lane l with scr := (s.lane l).scr } = { s.lane l with good := 0, bnd := ((s.lane l).bnd + 1) % 66 } ∧
    { t with lanes := s.lanes, count := s.count, free := s.free } = s) := by
  refine ⟨_, exec_invalidSyncHeader hport, ?_⟩
  rw [block_bad hport halt hline]
  generalize hu : (s.advanceTo date).onWire l .bad = u
  have hblk' : u.rf (Rf.SPK_LN_STAT_BLK l) = 1 := by rw [← hblk, ← hu]; rfl
  have hlane : { u.lane l with scr := (s.lane l).scr } = s.lane l := by
    rw [← hu]
    show ({ (State.setLane _ _ _).lane l with scr := _ } : LaneSt) = _
    rw [State.setLane_get_lane, if_pos rfl]
    rfl
  have hhead : u.badHeader p l = u.setLane l { u.lane l with good := 0, bnd := ((u.lane l).bnd + 1) % 66 } := by
    simp only [State.badHeader, hblk']
  have hrun : u.receive l .bad = u.badHeader p l := by
    rw [receive_bad (by rw [← hu]; exact hport), if_neg (by rw [hblk']; omega)]
  rw [hrun, hhead]
  refine ⟨?_, by rw [← hu]; rfl⟩
  rw [State.setLane_get_lane, if_pos rfl]
  calc _ = { ({ u.lane l with scr := (s.lane l).scr } : LaneSt) with good := 0, bnd := ((u.lane l).bnd + 1) % 66 } := rfl
    _ = _ := by
      have hbnd : (u.lane l).bnd = (s.lane l).bnd := (congrArg LaneSt.bnd hlane :)
      rw [hlane, hbnd]

/-- An invalid header among fewer than 16 of the last 64 is counted, and the block is at its place. -/
theorem badHeader_counted (hblk : s.rf (Rf.SPK_LN_STAT_BLK l) = 2)
    (hbad : (((true :: (s.lane l).hist).take 64).filter id).length < 16) : Gives (.invalidSyncHeader l date) s (fun t =>
      t.rf (Rf.SPK_LN_STAT_BLK l) = 2 ∧ Counted (Rf.SPK_LN_CNT_BADHDR l) s t) := by
  refine ⟨_, exec_invalidSyncHeader hport, ?_⟩
  rw [block_bad hport halt hline]
  generalize hu : (s.advanceTo date).onWire l .bad = u
  have hrf (f : Fld) : u.rf f = s.rf f := by rw [← hu]; rfl
  have hhist : (u.lane l).hist = (s.lane l).hist := by
    rw [← hu]
    exact (congrArg LaneSt.hist (look_put_self ..) :)
  have hhead : u.badHeader p l = (u.bump (Rf.SPK_LN_CNT_BADHDR l)).setLane l
      { u.lane l with hist := (true :: (u.lane l).hist).take 64 } := by
    simp only [State.badHeader, (hrf _).trans hblk, hhist]
    exact if_neg (Nat.not_le.2 hbad)
  have hlock : (u.badHeader p l).rf (Rf.SPK_LN_STAT_BLK l) = 2 := by
    rw [hhead, State.setLane_get_rf, rf_bump _ _ _ _ (laneFld_ne l 0 0 0x10 0), hrf, hblk]
  have hplaces := (placed_places (mem_lanesOf_of_portOf hport).1 (u.badHeader p l) l .void none).flds
  rw [receive_bad (by rw [← hu]; exact hport), if_pos ⟨(hrf _).trans hblk, hlock⟩]
  refine ⟨(hplaces _ (not_placeKey l 0 0)).trans hlock, (hplaces _ (not_placeKey l 0x10 0)).trans ?_⟩
  rw [hhead, State.setLane_get_rf, rf_bump_self, hrf]

omit hport halt hline in
theorem Adds.of_evq {n : Nat} {s t : State} (h : t.evq = s.evq) : Adds n s t := by
  unfold Adds
  rw [h]
  omega

omit hport halt hline in
theorem queueLdn_evq (s : State) (p mask d seq : Nat) : (s.queueLdn p mask d seq).evq = s.evq := by
  unfold State.queueLdn
  extract_lets s4 x start ldn dn
  rw [State.setrf_evq, (queueDn_sends _ p _).evq, State.setPort_evq]
  exact (settleDn_sends s p).evq

omit hport halt hline in
theorem loseLane_adds (s : State) (p l : Nat) : Adds 3 s (s.loseLane p l) := by
  unfold State.loseLane
  extract_lets n from' m s1 s2 _ s3 d
  split
  · split
    · have h3 : Adds 0 s s3 := .of_evq (by rfl)
      have h4 := raise_adds s3 0x1006 (p + 256 * l) 0 0
      exact h3.trans h4
    · have hqueued : Adds 0 s (s1.queueLdn p m d (s1.lane l).seq) := .of_evq (queueLdn_evq s1 _ _ _ _)
      exact hqueued.trans (raise_adds _ _ _ _ _)
  · exact (Adds.refl s).mono (by decide)

omit hport halt hline in
theorem toAmHunt_adds (s : State) (l : Nat) : Adds 3 s (s.toAmHunt l) := by
  unfold State.toAmHunt
  dsimp only
  split
  · split
    · exact loseLane_adds s _ l
    · exact .of_evq (by rfl)
  · exact .of_evq (by rfl)

/-- The sixteenth invalid header among the last 64 takes the lane out of LOCK. -/
theorem badHeader_unlocks (hblk : s.rf (Rf.SPK_LN_STAT_BLK l) = 2) (hroom : s.evq.length < 1000)
    (hbad : 16 ≤ (((true :: (s.lane l).hist).take 64).filter id).length) : Gives (.invalidSyncHeader l date) s (fun t =>
      t.rf (Rf.SPK_LN_STAT_BLK l) = 1 ∧ t.rf (Rf.SPK_LN_STAT_AMST l) = 0 ∧ Counted (Rf.SPK_LN_CNT_LOCKLOSS l) s t ∧
      Raised s t 0x1002 (p + 256 * l) 0 0) := by
  refine ⟨_, exec_invalidSyncHeader hport, ?_⟩
  rw [block_bad hport halt hline]
  generalize hu : (s.advanceTo date).onWire l .bad = u
  have hrf (f : Fld) : u.rf f = s.rf f := by rw [← hu]; rfl
  have hevq : u.evq = s.evq := by rw [← hu]; rfl
  have hhist : (u.lane l).hist = (s.lane l).hist := by
    rw [← hu]
    exact (congrArg LaneSt.hist (look_put_self ..) :)
  generalize hv : (u.bump (Rf.SPK_LN_CNT_BADHDR l)).toAmHunt l = v
  have hhead : u.badHeader p l = ((v.toHunt l).bump (Rf.SPK_LN_CNT_LOCKLOSS l)).raise 0x1002 (p + 256 * l) := by
    simp only [State.badHeader, (hrf _).trans hblk, hhist]
    rw [← hv]
    exact if_pos hbad
  have hlost : Places (u.bump (Rf.SPK_LN_CNT_BADHDR l)) v := hv ▸ toAmHunt_places _ l
  have hadds : Adds 3 (u.bump (Rf.SPK_LN_CNT_BADHDR l)) v := hv ▸ toAmHunt_adds _ l
  have hqueue : s.evq.length ≤ v.evq.length := hevq ▸ hlost.queue.length_le
  have hfree : v.evq.length < 1024 := by
    have hle : v.evq.length ≤ u.evq.length + 3 := hadds
    rw [hevq] at hle
    omega
  have hcnt : v.rf (Rf.SPK_LN_CNT_LOCKLOSS l) = s.rf (Rf.SPK_LN_CNT_LOCKLOSS l) := by
    rw [hlost.flds _ (not_placeKey l 0x10 16), rf_bump _ _ _ _ (laneFld_ne l 0x10 16 0x10 0), hrf]
  have hstat : (u.badHeader p l).rf (Rf.SPK_LN_STAT_BLK l) = 1 := by
    rw [hhead, rf_raise (key_ne_event (laneKey_low l 0 0)), rf_bump _ _ _ _ (laneFld_ne l 0 0 0x10 16), State.toHunt]
    rw [State.setLane_get_rf, State.rf_setrf _ _ _ _ (laneFld_ne l 0 0 0 2), State.rf_setrf_self]
    rfl
  rw [receive_bad (by rw [← hu]; exact hport), if_neg (by rw [hstat]; omega)]
  refine ⟨hstat, ?_, ?_, ?_⟩
  · rw [hhead, rf_raise (key_ne_event (laneKey_low l 0 2)), rf_bump _ _ _ _ (laneFld_ne l 0 2 0x10 16), State.toHunt]
    rw [State.setLane_get_rf, State.rf_setrf_self]
    rfl
  · unfold Counted
    rw [hhead, rf_raise (key_ne_event (laneKey_low l 0x10 16)), rf_bump_self, State.toHunt, State.setLane_get_rf,
      State.rf_setrf _ _ _ _ (laneFld_ne l 0x10 16 0 2), State.rf_setrf _ _ _ _ (laneFld_ne l 0x10 16 0 0), hcnt]
  · rw [hhead]
    exact (raise_raised _ _ _ _ _ (by exact hfree)).earlier (by exact hqueue)

/-! ### The first marker (R150) -/

omit hport halt hline in
/-- While one of its lanes is not in AM_LOCK no port comes up. -/
theorem tryUp_of_unlocked {u : State} {q : Nat} {k : Nat} (hk : k ∈ u.lanesOf q) (hlock : u.locked k = false) : u.tryUp q = u := by
  have hdue : u.columnDue q = false := by
    unfold State.columnDue
    dsimp only
    rw [List.all_eq_false.2 ⟨k, hk, by rw [hlock]; exact Bool.false_ne_true⟩]
    rfl
  unfold State.tryUp
  dsimp only
  rw [hdue, Bool.not_false, Bool.or_true]
  rfl

/-- The first good marker gives the lane its number and its place. -/
theorem firstMarker_taken {w : BitVec 64} (hblk : s.rf (Rf.SPK_LN_STAT_BLK l) = 2) (hamst : s.rf (Rf.SPK_LN_STAT_AMST l) = 0)
    (hgood : ctlGood w.toNat = true) (ham : w.toNat % 256 = 0x2D) : Gives (.am l w date) s (fun t =>
      t.rf (Rf.SPK_LN_STAT_AMST l) = 1 ∧ t.rf (Rf.SPK_LN_STAT_LANE_ID l) = w.toNat / 2 ^ 8 % 8 ∧
      (t.lane l).seq = w.toNat / 2 ^ 24 % 2 ^ 16 ∧ (t.lane l).idx = 0) := by
  obtain ⟨u, hu, -, hblock⟩ := block_of_fresh hport halt hline true w
  have hportu : u.portOf l = some p := (hu.portOf _).trans hport
  obtain ⟨v, hv, -, -, hmark, -⟩ := receive_locked hportu ((hu.rf _).trans hblk)
  have hstep : v.amStep l .void (some w.toNat) = (none, (v.takeAm l w.toNat).setrf (Rf.SPK_LN_STAT_AMST l) 1) := by
    simp only [State.amStep, (hv.rf _).trans ((hu.rf _).trans hamst)]
  generalize hy : (v.takeAm l w.toNat).setrf (Rf.SPK_LN_STAT_AMST l) 1 = y at hstep
  have hyam : y.rf (Rf.SPK_LN_STAT_AMST l) = 1 := by
    rw [← hy, State.rf_setrf_self]
    rfl
  have hyid : y.rf (Rf.SPK_LN_STAT_LANE_ID l) = w.toNat / 2 ^ 8 % 8 := by
    rw [← hy, State.rf_setrf _ _ _ _ (laneFld_ne l 0 4 0 2), State.takeAm, State.rf_setrf_self]
    exact Nat.mod_mod _ _
  have hylane : (y.lane l).seq = w.toNat / 2 ^ 24 % 2 ^ 16 ∧ (y.lane l).idx = 0 := by
    rw [← hy, State.setrf_get_lane, State.takeAm, State.setrf_get_lane, State.setLane_get_lane, if_pos rfl]
    exact ⟨rfl, rfl⟩
  have hp := (mem_lanesOf_of_portOf hport).1
  have hyport : y.lanesOf p = v.lanesOf p := by
    rw [← hy]
    have hplaces : Places v ((v.takeAm l w.toNat).setrf (Rf.SPK_LN_STAT_AMST l) 1) :=
      (takeAm_places v l _).trans (Places.setrf _ (.inr (markKey_of_offset l 0 2)) 1)
    exact hplaces.lanesOf hp
  generalize hx : y.setLane l { y.lane l with fifo := [] } = x
  have hlanes : l.val ∈ x.lanesOf p := by
    rw [← hx]
    exact hyport ▸ (mem_lanesOf_of_portOf ((hv.portOf _).trans hportu)).2
  have hopen : x.tryUp p = x := tryUp_of_unlocked hlanes (by
    rw [← hx, State.locked, State.setLane_get_rf, State.setLane_get_rf, hyam]
    exact Bool.and_false _)
  have hdrain := drain_streams hp (fun _ h => h) 2048 x
  have hbare : ((State.drain 2048 x p).lane l).bare = (y.lane l).bare := by
    rw [hdrain.lanes l, ← hx, State.setLane_get_lane, if_pos rfl]
    rfl
  have hrun : s.block l date (.ctl w) = State.drain 2048 x p := by
    rw [show s.block l date (.ctl w) = v.placed p l .void (some w.toNat) from hblock.trans (hmark w hgood ham)]
    unfold State.placed
    dsimp only
    rw [hstep]
    rw [show y.enter p l none = x from hx, hopen]
  refine ⟨_, exec_ctl w date hport (i := .am l w date) (by simp [blockInstrs]), ?_⟩
  rw [hrun]
  refine ⟨(hdrain.stands.flds _ (not_streamKey l 0 2)).trans ?_, (hdrain.stands.flds _ (not_streamKey l 0 4)).trans ?_, ?_, ?_⟩
  · rw [← hx]; exact hyam
  · rw [← hx]; exact hyid
  · exact (congrArg LaneSt.seq hbare :).trans hylane.1
  · exact (congrArg LaneSt.idx hbare :).trans hylane.2

omit hport halt hline in
/-- A block that is no marker enters the buffer of a lane of a port that is not up while there is room. -/
theorem enter_void_of_down {u : State} {k : Nat} (hdown : u.portUp p = false) :
    ∃ q, u.enter p k (some .void) = u.setLane k { u.lane k with fifo := q } ∨ u.enter p k (some .void) = u := by
  refine ⟨(u.lane k).fifo ++ [.void], ?_⟩
  simp only [State.enter, hdown, Bool.false_and, Bool.false_eq_true, if_false]
  split
  · exact .inl rfl
  · exact .inr rfl

omit hport halt hline in
theorem drain_of_down {u : State} (hdown : u.portUp p = false) (n : Nat) : State.drain n u p = u := by
  cases n with
  | zero => rfl
  | succ n => exact if_neg (by rw [hdown]; exact Bool.false_ne_true)

/-- A control block that is not good is discarded and counted. -/
theorem badControl_counted {w : BitVec 64} (hblk : s.rf (Rf.SPK_LN_STAT_BLK l) = 2) (hamst : s.rf (Rf.SPK_LN_STAT_AMST l) = 0)
    (hdown : s.portUp p = false) (hbad : ctlGood w.toNat = false) :
    Gives (.fill l w date) s (Counted (Rf.SPK_PCNT2_BADCTL p) s) := by
  have hp := (mem_lanesOf_of_portOf hport).1
  obtain ⟨u, hu, -, hblock⟩ := block_of_fresh hport halt hline true w
  have hportu : u.portOf l = some p := (hu.portOf _).trans hport
  obtain ⟨v, hv, -, -, -, -, hcount⟩ := receive_locked hportu ((hu.rf _).trans hblk)
  have hvrf (f : Fld) : v.rf f = s.rf f := (hv.rf f).trans (hu.rf f)
  generalize hx : (v.bump (Rf.SPK_PCNT2_BADCTL p)).setLane l { v.lane l with idx := (v.lane l).idx + 1 } = x
  have hxrf (f : Fld) : x.rf f = (v.bump (Rf.SPK_PCNT2_BADCTL p)).rf f := by rw [← hx]; rfl
  have hxkept {f : Fld} (hf : f.key ≠ (Rf.SPK_PCNT2_BADCTL p).key) : x.rf f = s.rf f := by
    rw [hxrf, rf_bump _ _ _ _ hf, hvrf]
  have hxam : x.rf (Rf.SPK_LN_STAT_AMST l) = 0 := (hxkept (laneFld_ne_port l hp 0 2 0x30 0)).trans hamst
  have hxdown : x.portUp p = false := by
    have hstate : x.portState p = s.portState p := hxkept (portFld_ne p 0x10 0 0x30 0)
    rw [← hdown, State.portUp, hstate]
    rfl
  have hxlanes : l.val ∈ x.lanesOf p := by
    rw [State.lanesOf, State.laneBase, State.laneCount, hxkept (f := Rf.SPK_PCFG_BASE p) (portFld_ne p 0 8 0x30 0),
      hxkept (f := Rf.SPK_PCFG_WIDTH p) (portFld_ne p 0 2 0x30 0)]
    exact (mem_lanesOf_of_portOf hport).2
  have hstep : (v.bump (Rf.SPK_PCNT2_BADCTL p)).amStep l .void none = (some .void, x) := by
    have ham : (v.bump (Rf.SPK_PCNT2_BADCTL p)).rf (Rf.SPK_LN_STAT_AMST l) = 0 := (hxrf _).symm.trans hxam
    simp only [State.amStep, ham]
    rw [← hx]
    rfl
  generalize hy : x.enter p l (some .void) = y
  have hyregs : y.regs = x.regs := by
    obtain ⟨q, h | h⟩ := enter_void_of_down (k := l) hxdown <;> rw [← hy, h]
    rfl
  have hyrf (f : Fld) : y.rf f = x.rf f := by rw [State.rf, hyregs]; rfl
  have hydown : y.portUp p = false := by
    rw [← hxdown, State.portUp, State.portState, hyrf]
    rfl
  have hopen : y.tryUp p = y := by
    refine tryUp_of_unlocked (k := l) ?_ ?_
    · rw [State.lanesOf, State.laneBase, State.laneCount, hyrf, hyrf]
      exact hxlanes
    · rw [State.locked, hyrf, hyrf, hxam]
      exact Bool.and_false _
  have hrun : s.block l date (.ctl w) = y := by
    rw [show s.block l date (.ctl w) = (v.bump (Rf.SPK_PCNT2_BADCTL p)).placed p l .void none from hblock.trans (hcount w hbad)]
    unfold State.placed
    dsimp only
    rw [hstep]
    rw [hy, hopen, drain_of_down hydown]
  refine ⟨_, exec_ctl w date hport (i := .fill l w date) (by simp [blockInstrs]), ?_⟩
  rw [hrun]
  unfold Counted
  rw [hyrf, hxrf, rf_bump_self, hvrf]

end

/-! ### Lane lock -/

/-- Settles O31. On the wire the descrambler undoes the scrambler (`readBlock_wireBlock`). With no alteration in force and no line
timed out a block reaches its lane as sent, so each clause is what the lane's block lock or marker machine makes of one header; what
the drain behind it does touches none of the fields the clauses read. -/
theorem laneLock : Obligations.LaneLock := by
  unfold Obligations.LaneLock
  refine ⟨readBlock_wireBlock, fun l p date w s hport halt hqueue hline => ?_⟩
  have hroom : s.evq.length < 1024 := by omega
  exact ⟨fun i hi hblk => ⟨header_counts hport halt hline hi hblk, header_locks hport halt hline hi hblk hroom⟩,
    badHeader_restarts hport halt hline,
    fun hblk => ⟨badHeader_counted hport halt hline hblk, badHeader_unlocks hport halt hline hblk hqueue⟩,
    firstMarker_taken hport halt hline, badControl_counted hport halt hline⟩

end Sys2Proof.Machine
end

section
/-! SUPPORT. A block of a lane that stripes (R145, R153): it joins the lane's elastic buffer, and the port stream takes it when that
lane's turn has come. -/

namespace Sys2Proof.Machine

/-! ### A block joins its lane's buffer -/

/-- What the elastic buffer holds of a block that is no marker. -/
def blkOf (ctl : Bool) (w : Word) : Blk := if ctl then .ctl w else .data w

/-- A control block that is read: a good one, and no marker. -/
def Plain (ctl : Bool) (w : Word) : Prop := ctl = true → ctlGood w.toNat = true ∧ w.toNat % 256 ≠ 0x2D

/-- Lane `l` carries blocks of port `p`, which is up. -/
structure Striping (s : State) (p l : Nat) : Prop where
  port    : s.portOf l = some p
  up      : s.portUp p = true
  locked  : s.locked l = true
  present : s.rf (Rf.SPK_LN_STAT_LOST l) = 0
  stripes : (s.stripe p).testBit (s.rf (Rf.SPK_LN_STAT_LANE_ID l)) = true

theorem Striping.blk {s : State} {p l : Nat} (h : Striping s p l) : s.rf (Rf.SPK_LN_STAT_BLK l) = 2 :=
  of_decide_eq_true (Bool.and_eq_true_iff.1 h.locked).1

theorem Striping.amst {s : State} {p l : Nat} (h : Striping s p l) : s.rf (Rf.SPK_LN_STAT_AMST l) = 2 :=
  of_decide_eq_true (Bool.and_eq_true_iff.1 h.locked).2

theorem Striping.of_laned {s t : State} {p l k : Nat} {y : LaneSt} (h : Striping s p l) (hst : Laned k y s t) : Striping t p l where
  port := (hst.portOf l).trans h.port
  up := (congrArg (fun u : State => u.portUp p) hst.rest :).trans h.up
  locked := (congrArg (fun u : State => u.locked l) hst.rest :).trans h.locked
  present := (hst.rf _).trans h.present
  stripes := (congrArg (fun u : State => (u.stripe p).testBit (u.rf (Rf.SPK_LN_STAT_LANE_ID l))) hst.rest :).trans h.stripes

theorem enter_striping {s : State} {p l : Nat} (h : Striping s p l) (hroom : (s.lane l).filled < 128) (b : Blk) :
    s.enter p l (some b) = s.setLane l { s.lane l with fifo := (s.lane l).fifo ++ [b] } := by
  have hstripes : (s.portUp p && s.locked l && !s.bit (Rf.SPK_LN_STAT_LOST l) &&
      (s.stripe p).testBit (s.rf (Rf.SPK_LN_STAT_LANE_ID l))) = true := by
    rw [h.up, h.locked, bit_of_zero h.present, h.stripes]
    rfl
  unfold State.enter
  dsimp only
  rw [if_pos hstripes, if_neg (Nat.not_le.2 hroom)]

theorem tryUp_of_up {s : State} {p : Nat} (h : s.portUp p = true) : s.tryUp p = s := if_pos (by rw [h]; rfl)

/-- A block between the markers of a lane in AM_LOCK is what it is. -/
theorem amStep_between {s : State} {l : Nat} (hlock : s.rf (Rf.SPK_LN_STAT_AMST l) = 2) (hidx : (s.lane l).idx + 1 ≠ 4096) (b : Blk) :
    s.amStep l b none = (some b, s.setLane l { s.lane l with idx := (s.lane l).idx + 1 }) := by
  simp only [State.amStep, hlock, decide_eq_false hidx]
  rfl

theorem receive_joins {s : State} {p l : Nat} (h : Striping s p l) (hidx : (s.lane l).idx + 1 ≠ 4096)
    (hroom : (s.lane l).filled < 128) {ctl : Bool} {w : Word} (hread : Plain ctl w) : ∃ u y, Laned l y s u ∧ u.count = s.count ∧
      y.fifo = (s.lane l).fifo ++ [blkOf ctl w] ∧ s.receive l (rxOf ctl w) = State.drain 2048 u p := by
  obtain ⟨v, hv, hcount, hdata, -, hctl, -⟩ := receive_locked h.port h.blk
  have hplaced : s.receive l (rxOf ctl w) = v.placed p l (blkOf ctl w) none := by
    cases ctl with
    | false => exact hdata w
    | true => exact hctl w (hread rfl).1 (hread rfl).2
  have hvs := h.of_laned hv
  have hstep := amStep_between (s := v) hvs.amst (by rw [hv.lane]; exact hidx) (blkOf ctl w)
  generalize hx : v.setLane l { v.lane l with idx := (v.lane l).idx + 1 } = x at hstep
  have hxv : Laned l { v.lane l with idx := (v.lane l).idx + 1 } v x := hx ▸ .setLane v l _
  have hfifo : (x.lane l).fifo = (s.lane l).fifo := by rw [hxv.lane, hv.lane]
  have henter := enter_striping (hvs.of_laned hxv) (by rw [LaneSt.filled, hfifo]; exact hroom) (blkOf ctl w)
  have hlaned := Laned.setLane x l { x.lane l with fifo := (x.lane l).fifo ++ [blkOf ctl w] }
  refine ⟨_, _, (hv.trans hxv).trans hlaned, ?_, ?_, ?_⟩
  · rw [← hcount, ← hx]; rfl
  · rw [← hfifo]
  · rw [hplaced]
    unfold State.placed
    dsimp only
    rw [hstep]
    rw [henter, tryUp_of_up ((hvs.of_laned hxv).of_laned hlaned).up]

/-- A block that comes at a count finds a line that has met its timeout closed, and joins its lane's buffer. -/
theorem block_joins {s : State} {p l date : Nat} (hport : s.portOf l = some p) (h : Striping (s.timed p date) p l)
    (halt : NoAlteration (s.timed p date)) (hidx : ((s.timed p date).lane l).idx + 1 ≠ 4096)
    (hroom : ((s.timed p date).lane l).filled < 128) {ctl : Bool} {w : Word} (hread : Plain ctl w) :
    ∃ u y, Laned l y (s.timed p date) u ∧ u.count = (s.timed p date).count ∧
      y.fifo = ((s.timed p date).lane l).fifo ++ [blkOf ctl w] ∧ s.block l date (rxOf ctl w) = State.drain 2048 u p := by
  have hwire := Laned.setLane (s.timed p date) l (((s.timed p date).lane l).wired ctl w)
  obtain ⟨u, y, hu, hcount, hy, hrun⟩ := receive_joins (h.of_laned hwire) (by rw [hwire.lane]; exact hidx)
    (by rw [hwire.lane]; exact hroom) hread
  refine ⟨u, y, hwire.trans hu, hcount, ?_, ?_⟩
  · rw [hy, hwire.lane]
    rfl
  · rw [block_eq hport halt, onWire_rxOf, hrun]

theorem block_joins_of_fresh {s : State} {p l date : Nat} (h : Striping s p l) (halt : NoAlteration s)
    (hline : LineFresh s p (max s.count date)) (hidx : (s.lane l).idx + 1 ≠ 4096) (hroom : (s.lane l).filled < 128) {ctl : Bool}
    {w : Word} (hread : Plain ctl w) : ∃ u y, Laned l y s u ∧ u.count = max s.count date ∧
      y.fifo = (s.lane l).fifo ++ [blkOf ctl w] ∧ s.block l date (rxOf ctl w) = State.drain 2048 u p := by
  have hlaned := Laned.advanceTo s l date
  have hjoin := block_joins (s := s) (p := p) (l := l) (date := date) (ctl := ctl) (w := w) h.port
  rw [timed_of_fresh hline] at hjoin
  obtain ⟨u, y, hu, hcount, hy, hrun⟩ := hjoin (h.of_laned hlaned) halt hidx hroom hread
  exact ⟨u, y, hlaned.trans hu, hcount, hy, hrun⟩

/-! ### The port stream takes a block -/

/-- The lanes of a port that stripe and are not lost. -/
def State.striping (s : State) (p : Nat) : List Nat := (bitsSet (s.stripe p)).filterMap (s.laneFor p ·)

theorem filterMap_laneFor (s : State) (p : Nat) :
    List.filterMap (fun x => s.laneFor p x) (bitsSet (s.stripe p)) = s.striping p := rfl

theorem mem_lanesOf_of_mem_striping {s : State} {p k : Nat} (h : k ∈ s.striping p) : k ∈ s.lanesOf p := by
  obtain ⟨n, -, hn⟩ := List.mem_filterMap.1 h
  exact List.mem_of_find?_eq_some hn

theorem mem_striping_of_nextLane {s : State} {p m : Nat} (h : s.nextLane p = some (some m)) : m ∈ s.striping p := by
  unfold State.nextLane at h
  split at h
  · next n hn => exact List.mem_filterMap.2 ⟨n, List.mem_of_getElem? hn, Option.some.inj h⟩
  · exact absurd h (by simp)

theorem columnHead_eq_none {s : State} {ls : List Nat} (h : ∀ k ∈ ls, ∀ q, (s.lane k).fifo.head? ≠ some (.col q)) :
    s.columnHead ls = none := by
  refine List.findSome?_eq_none_iff.2 fun k hk => ?_
  split
  · next q rest hfifo => exact absurd (by rw [hfifo]; rfl) (h k hk q)
  · rfl

/-- No column passes where some striping lane's buffer is empty and no switch is queued. -/
theorem passColumn_of_empty {s : State} {p m : Nat} {ls : List Nat} (hm : m ∈ ls) (hempty : (s.lane m).fifo = [])
    (hswitch : (s.port p).switch = none) (q : Nat) : s.passColumn p q ls = none := by
  have hno : s.columnAt q ls = false := List.all_eq_false.2 ⟨m, hm, by rw [hempty]; exact Bool.false_ne_true⟩
  unfold State.passColumn
  dsimp only
  rw [hswitch]
  exact if_neg (by rw [hno]; exact Bool.false_ne_true)

/-- The port stream waits for the lane whose turn it is. -/
theorem takeBlock_waits {s : State} {p m : Nat} (hnext : s.nextLane p = some (some m)) (hempty : (s.lane m).fifo = [])
    (hcol : s.columnHead (s.striping p) = none ∨ (s.port p).switch = none) : s.takeBlock p = none := by
  unfold State.takeBlock
  dsimp only
  rw [filterMap_laneFor]
  split
  · next q hq =>
    rcases hcol with hcol | hswitch
    · rw [hcol, ite_self] at hq
      exact absurd hq (by simp)
    · rw [passColumn_of_empty (mem_striping_of_nextLane hnext) hempty hswitch]
      rfl
  · rw [hnext]
    dsimp only
    rw [hempty]

/-- With every buffer of the port empty there is nothing to take. -/
theorem takeBlock_of_empty {s : State} {p : Nat} (h : ∀ k ∈ s.lanesOf p, (s.lane k).fifo = []) : s.takeBlock p = none := by
  have hempty : ∀ k ∈ s.striping p, (s.lane k).fifo = [] := fun k hk => h k (mem_lanesOf_of_mem_striping hk)
  have hcol : s.columnHead (s.striping p) = none := columnHead_eq_none fun k hk q => by rw [hempty k hk]; simp
  cases hnext : s.nextLane p with
  | none =>
    unfold State.takeBlock
    dsimp only
    rw [filterMap_laneFor, hcol, ite_self, hnext]
  | some o =>
    cases o with
    | some m => exact takeBlock_waits hnext (hempty m (mem_striping_of_nextLane hnext)) (.inl hcol)
    | none =>
      have hany : (s.striping p).any (fun l => !(s.lane l).fifo.isEmpty) = false :=
        List.any_eq_false.2 fun k hk => by rw [hempty k hk]; decide
      unfold State.takeBlock
      dsimp only
      rw [filterMap_laneFor, hcol, ite_self, hnext]
      exact if_neg (by rw [hany]; exact Bool.false_ne_true)

theorem drain_of_none {s : State} {p : Nat} (h : s.takeBlock p = none) (n : Nat) : State.drain n s p = s := by
  cases n with
  | zero => rfl
  | succ n =>
    unfold State.drain
    rw [h, ite_self]

/-- The state with the only block of lane `l`'s buffer taken: the turn has moved on. -/
def State.turned (s : State) (p l : Nat) (allFill : Bool) : State :=
  (s.setLane l { s.lane l with fifo := [] }).setPort p
    { s.port p with rr := ((s.port p).rr + 1) % (bitsSet (s.stripe p)).length, allFill := allFill }

/-- The block of the lane whose turn it is is the next of the port stream. No column of FILL is dropped (R153) where every buffer
holds fewer than 64 blocks, and none for a block that is not FILL. -/
theorem drain_takes {s : State} {p l : Nat} {ctl : Bool} {w : Word} (hup : s.portUp p = true)
    (hnext : s.nextLane p = some (some l)) (hfifo : (s.lane l).fifo = [blkOf ctl w]) (hcol : s.columnHead (s.striping p) = none)
    (hdel : ctl = false ∨ ∀ k ∈ s.striping p, (s.lane k).fifo.length < 64) (n : Nat) :
    ∃ a, State.drain (n + 1) s p = State.drain n ((s.turned p l a).portBlock p (blkOf ctl w)) p := by
  have hlong : ctl = true → (s.striping p).any
      (fun k => decide (64 ≤ ((s.setLane l { s.lane l with fifo := [] }).lane k).fifo.length)) = false := by
    intro hctl
    refine List.any_eq_false.2 fun k hk => ?_
    have hk64 := (hdel.resolve_left (by rw [hctl]; decide)) k hk
    rw [State.setLane_get_lane]
    split
    · exact Bool.false_ne_true
    · rw [decide_eq_true_eq]
      omega
  have htake : ∃ a, s.takeBlock p = some (some (blkOf ctl w), s.turned p l a) := by
    unfold State.takeBlock
    dsimp only
    rw [filterMap_laneFor, hcol, ite_self, hnext]
    dsimp only
    rw [hfifo]
    cases ctl with
    | false =>
      refine ⟨_, (congrArg (fun u => some (some (Blk.data w), u)) (if_neg ?_)).trans rfl⟩
      exact fun h => Bool.false_ne_true h.2.2.1
    | true =>
      refine ⟨_, (congrArg (fun u => some (some (Blk.ctl w), u)) (if_neg ?_)).trans rfl⟩
      exact fun h => Bool.false_ne_true ((hlong rfl).symm.trans h.2.2.2)
  obtain ⟨a, htake⟩ := htake
  refine ⟨a, ?_⟩
  conv_lhs => unfold State.drain
  rw [if_pos hup, htake]

/-- From `s` to `t` the only block of lane `l`'s buffer has been taken; the count may have moved on. -/
structure Turns (p l : Nat) (a : Bool) (s t : State) : Prop where
  rest   : { t with lanes := s.lanes, ports := s.ports, count := s.count } = s
  port   : t.port p = { s.port p with rr := ((s.port p).rr + 1) % (bitsSet (s.stripe p)).length, allFill := a }
  lane   : (t.lane l).fifo = []
  others : ∀ k, k ≠ l → t.lane k = s.lane k

theorem turned_turns {s u : State} {l : Nat} {y : LaneSt} (h : Laned l y s u) (p : Nat) (a : Bool) :
    Turns p l a s (u.turned p l a) where
  rest := (congrArg (fun x : State => { x with ports := s.ports }) h.rest :)
  port := by
    rw [State.turned, State.setPort_get_port, if_pos rfl, h.port, State.stripe, h.rf]
    rfl
  lane := by rw [State.turned, State.setPort_get_lane, State.setLane_get_lane, if_pos rfl]
  others k hk := by rw [State.turned, State.setPort_get_lane, State.setLane_get_lane, if_neg hk, h.others k hk]

section
variable {p l : Nat} {a : Bool} {s t : State} (h : Turns p l a s t)
include h

theorem Turns.rf (f : Fld) : t.rf f = s.rf f := (congrArg (fun u : State => u.rf f) h.rest :)
theorem Turns.regs : t.regs = s.regs := (congrArg State.regs h.rest :)
theorem Turns.hub : t.hub = s.hub := (congrArg State.hub h.rest :)
theorem Turns.evq : t.evq = s.evq := (congrArg State.evq h.rest :)
theorem Turns.lanesOf : t.lanesOf p = s.lanesOf p := (congrArg (fun u : State => u.lanesOf p) h.rest :)
theorem Turns.laneFor (n : Nat) : t.laneFor p n = s.laneFor p n := (congrArg (fun u : State => u.laneFor p n) h.rest :)

end

/-- A block of the lane whose turn it is and whose buffer is empty is the next of the port stream. -/
theorem block_taken {s : State} {p l date : Nat} (hport : s.portOf l = some p) (h : Striping (s.timed p date) p l)
    (halt : NoAlteration (s.timed p date)) (hidx : ((s.timed p date).lane l).idx + 1 ≠ 4096)
    (hnext : (s.timed p date).nextLane p = some (some l)) (hempty : ((s.timed p date).lane l).fifo = [])
    (hcol : ∀ k ∈ (s.timed p date).lanesOf p, ∀ q, ((s.timed p date).lane k).fifo.head? ≠ some (.col q)) {ctl : Bool} {w : Word}
    (hread : Plain ctl w) (hdel : ctl = false ∨ ∀ k ∈ (s.timed p date).lanesOf p, k ≠ l → ((s.timed p date).lane k).fifo.length < 64) :
    ∃ v a, Turns p l a (s.timed p date) v ∧ v.count = (s.timed p date).count ∧
      s.block l date (rxOf ctl w) = State.drain 2047 (v.portBlock p (blkOf ctl w)) p := by
  obtain ⟨u, y, hu, hcount, hy, hrun⟩ := block_joins hport h halt hidx (by rw [LaneSt.filled, hempty]; decide) hread
  have hfifo : (u.lane l).fifo = [blkOf ctl w] := by rw [hu.lane, hy, hempty]; rfl
  have hlanes : u.lanesOf p = (s.timed p date).lanesOf p := (congrArg (fun v : State => v.lanesOf p) hu.rest :)
  have hcolu : ∀ k ∈ u.striping p, ∀ q, (u.lane k).fifo.head? ≠ some (.col q) := by
    intro k hk q
    by_cases hkl : k = l
    · rw [hkl, hfifo]
      cases ctl <;> exact fun h => Blk.noConfusion (Option.some.inj h)
    · rw [hu.others k hkl]
      exact hcol k (hlanes ▸ mem_lanesOf_of_mem_striping hk) q
  have hshort : ctl = false ∨ ∀ k ∈ u.striping p, (u.lane k).fifo.length < 64 := by
    refine hdel.imp_right fun hshort k hk => ?_
    by_cases hkl : k = l
    · rw [hkl, hfifo]
      exact (by decide : 1 < 64)
    · rw [hu.others k hkl]
      exact hshort k (hlanes ▸ mem_lanesOf_of_mem_striping hk) hkl
  obtain ⟨a, htake⟩ := drain_takes (h.of_laned hu).up ((congrArg (fun v : State => v.nextLane p) hu.rest :).trans hnext) hfifo
    (columnHead_eq_none hcolu) hshort 2047
  exact ⟨_, a, turned_turns hu p a, hcount, hrun.trans htake⟩

theorem block_taken_of_fresh {s : State} {p l date : Nat} (h : Striping s p l) (halt : NoAlteration s)
    (hline : LineFresh s p (max s.count date)) (hidx : (s.lane l).idx + 1 ≠ 4096) (hnext : s.nextLane p = some (some l))
    (hempty : (s.lane l).fifo = []) (hcol : ∀ k ∈ s.lanesOf p, ∀ q, (s.lane k).fifo.head? ≠ some (.col q)) {ctl : Bool} {w : Word}
    (hread : Plain ctl w) (hdel : ctl = false ∨ ∀ k ∈ s.lanesOf p, k ≠ l → (s.lane k).fifo.length < 64) :
    ∃ v a, Turns p l a s v ∧ v.count = max s.count date ∧
      s.block l date (rxOf ctl w) = State.drain 2047 (v.portBlock p (blkOf ctl w)) p := by
  have htaken := block_taken (s := s) (p := p) (l := l) (date := date) (ctl := ctl) (w := w) h.port
  rw [timed_of_fresh hline] at htaken
  obtain ⟨v, a, hv, hcount, hrun⟩ := htaken (h.of_laned (.advanceTo s l date)) halt hidx hnext hempty hcol hread hdel
  exact ⟨v, a, ⟨(congrArg (fun x : State => { x with count := s.count }) hv.rest :), hv.port, hv.lane, hv.others⟩, hcount, hrun⟩

end Sys2Proof.Machine
end

section
/-! SUPPORT. A port of several lanes (R145, R153), and the count of its blocks. -/

namespace Sys2Proof.Machine

/-! ### The count of a port's blocks (SPK_PSTAT.LOAD) -/

/-- From `s` to `t` ports have changed, and of the register fields LOAD of port `p` alone. -/
structure Loads (p : Nat) (s t : State) : Prop where
  rest : { t with ports := s.ports, regs := s.regs } = s
  flds : ∀ f : Fld, f.key ≠ (Rf.SPK_PSTAT_LOAD p).key → t.rf f = s.rf f

/-- A port with its count of blocks. -/
def PortUnit.loaded (x : PortUnit) (ms cnt : Nat) : PortUnit := { x with loadMs := ms, loadCnt := cnt }

theorem countLoad_loads (s : State) (p : Nat) : Loads p s (s.countLoad p) := by
  unfold State.countLoad
  dsimp only
  split
  · exact ⟨rfl, fun _ _ => rfl⟩
  · exact ⟨rfl, fun f hf => State.rf_setrf _ _ _ _ hf⟩

theorem countLoad_port (s : State) (p : Nat) : ∃ a b, (s.countLoad p).port p = (s.port p).loaded a b := by
  unfold State.countLoad
  dsimp only
  split
  · exact ⟨_, _, look_put_self ..⟩
  · exact ⟨_, _, look_put_self ..⟩

section
variable {p : Nat} {s t : State} (h : Loads p s t)
include h

theorem Loads.hub : t.hub = s.hub := (congrArg State.hub h.rest :)
theorem Loads.evq : t.evq = s.evq := (congrArg State.evq h.rest :)
theorem Loads.count : t.count = s.count := (congrArg State.count h.rest :)
theorem Loads.lane (l : Nat) : t.lane l = s.lane l := (congrArg (fun u : State => u.lane l) h.rest :)

/-- A field of the port's registers but LOAD. -/
theorem Loads.rf {f : Fld} (off lo : Nat) (haddr : f.addr = 0x200000 + off + 0x1000 * p := by rfl) (hbit : f.lo = lo := by rfl)
    (hne : off * 64 + lo ≠ 0x10 * 64 + 32 := by decide) : t.rf f = s.rf f :=
  h.flds f (portFld_ne p off lo 0x10 32 haddr hbit (hg := by rfl) (hgb := by rfl) (h := hne))

theorem Loads.lanesOf : t.lanesOf p = s.lanesOf p := by
  rw [State.lanesOf, State.laneBase, State.laneCount, h.rf (f := Rf.SPK_PCFG_BASE p) 0 8, h.rf (f := Rf.SPK_PCFG_WIDTH p) 0 2]
  rfl

theorem Loads.laneFor (hp : p < 48) (n : Nat) : t.laneFor p n = s.laneFor p n := by
  unfold State.laneFor State.bit
  rw [h.lanesOf]
  refine List.find?_congr fun l _ => ?_
  rw [h.flds _ (laneFld_ne_port l hp 0 4 0x10 32), h.flds _ (laneFld_ne_port l hp 0 7 0x10 32)]

end

/-! ### Data blocks -/

theorem portBlock_data {s : State} {p : Nat} (h : (s.port p).discard = false) (w : Word) :
    s.portBlock p (.data w) = (s.countLoad p).takeData p w := by
  obtain ⟨a, b, hport⟩ := countLoad_port s p
  exact if_neg (by rw [hport]; show ¬ (s.port p).discard = true; rw [h]; exact Bool.false_ne_true)

theorem takeData_open {s : State} {p : Nat} {o : OpenLine} (h : (s.port p).line = some o)
    (hroom : o.words.length < (65536 * s.sampleBits p + 63) / 64) (w : Word) :
    s.takeData p w = s.setPort p { s.port p with line := some { o with words := w :: o.words } } := by
  have hfull : decide (ceilDiv (65536 * s.sampleBits p) 64 ≤ o.words.length) = false := decide_eq_false (Nat.not_le.2 hroom)
  unfold State.takeData
  rw [h]
  dsimp only
  rw [hfull]
  rfl

theorem takeData_orphan {s : State} {p : Nat} (h : (s.port p).line = none) (w : Word) :
    s.takeData p w = s.bump (Rf.SPK_PCNT_ORPHAN p) := by
  unfold State.takeData
  rw [h]

/-- A data block extends the open line. -/
theorem portBlock_extends {s : State} {p : Nat} {o : OpenLine} (hdiscard : (s.port p).discard = false)
    (h : (s.port p).line = some o) (hroom : o.words.length < (65536 * s.sampleBits p + 63) / 64) (w : Word) :
    ∃ ms cnt, (s.portBlock p (.data w)).port p = { (s.port p).loaded ms cnt with line := some { o with words := w :: o.words } } ∧
      Loads p s (s.portBlock p (.data w)) := by
  have hload := countLoad_loads s p
  obtain ⟨ms, cnt, hport⟩ := countLoad_port s p
  have hbits : (s.countLoad p).sampleBits p = s.sampleBits p := hload.rf 0x100 0
  rw [portBlock_data hdiscard, takeData_open (o := o) (by rw [hport]; exact h) (by rw [hbits]; exact hroom)]
  refine ⟨ms, cnt, ?_, hload.rest, hload.flds⟩
  rw [State.setPort_get_port, if_pos rfl, hport]

/-! ### Several lanes (R145, R153) -/

section
variable {l : Fin 192} {p date : Nat} {s : State} (hs : Striping s p l) (halt : NoAlteration s)
  (hline : LineFresh s p (max s.count date)) (hidx : (s.lane l).idx + 1 ≠ 4096) (w : BitVec 64)
include hs halt hline hidx

/-- A block of a lane whose turn has not come joins that lane's buffer. -/
theorem data_waits {m : Nat} (hnext : s.nextLane p = some (some m)) (hne : m ≠ l) (hempty : (s.lane m).fifo = [])
    (hroom : (s.lane l).filled < 128) (hswitch : (s.port p).switch = none) : Gives (.dataBlock l w date) s (fun t =>
      (t.lane l).fifo = (s.lane l).fifo ++ [.data w] ∧ t.port p = s.port p ∧ (∀ k, k ≠ l.val → t.lane k = s.lane k) ∧
      t.hub = s.hub ∧ t.regs = s.regs ∧ t.evq = s.evq) := by
  obtain ⟨u, y, hu, -, hy, hrun⟩ := block_joins_of_fresh hs halt hline hidx hroom (ctl := false) (w := w)
    (fun h => absurd h (by decide))
  have hidle : u.takeBlock p = none := takeBlock_waits (m := m)
    ((congrArg (fun v : State => v.nextLane p) hu.rest :).trans hnext)
    (by rw [hu.others m hne, hempty]) (.inr (by rw [hu.port, hswitch]))
  refine ⟨u, ?_, by rw [hu.lane, hy]; rfl, hu.port p, hu.others, hu.hub, hu.regs, hu.evq⟩
  rw [exec_blockInstr hs.port (i := (.dataBlock l w date, false)) (List.mem_cons_self ..)]
  exact congrArg Host.Outcome.next (hrun.trans (drain_of_none hidle 2048))

/-- A block of the lane whose turn it is extends the open line, and the turn moves on. -/
theorem data_taken {b m : Nat} {o : OpenLine} (hnext : s.nextLane p = some (some l.val)) (hempty : (s.lane l).fifo = [])
    (hcol : ∀ k ∈ s.lanesOf p, ∀ q, (s.lane k).fifo.head? ≠ some (.col q))
    (hb : (bitsSet (s.stripe p))[((s.port p).rr + 1) % (bitsSet (s.stripe p)).length]? = some b)
    (hm : s.laneFor p b = some m) (hne : m ≠ l) (hmempty : (s.lane m).fifo = []) (hdiscard : (s.port p).discard = false)
    (ho : (s.port p).line = some o) (hroom : o.words.length < (65536 * s.sampleBits p + 63) / 64) :
    Gives (.dataBlock l w date) s (fun t => (t.lane l).fifo = [] ∧
      (t.port p).rr = ((s.port p).rr + 1) % (bitsSet (s.stripe p)).length ∧
      (t.port p).line = some { o with words := w :: o.words } ∧ (∀ k, k ≠ l.val → t.lane k = s.lane k) ∧ t.hub = s.hub) := by
  have hp := (mem_lanesOf_of_portOf hs.port).1
  obtain ⟨v, a, hv, -, hrun⟩ := block_taken_of_fresh hs halt hline hidx hnext hempty hcol (ctl := false) (w := w)
    (fun h => absurd h (by decide)) (.inl rfl)
  obtain ⟨ms, cnt, hport, hload⟩ := portBlock_extends (s := v) (p := p) (o := o) (by rw [hv.port]; exact hdiscard)
    (by rw [hv.port]; exact ho) (by rw [State.sampleBits, hv.rf]; exact hroom) w
  generalize hz : v.portBlock p (.data w) = z at hport hload
  have hzlane (k : Nat) (hk : k ≠ l) : z.lane k = s.lane k := (hload.lane k).trans (hv.others k hk)
  have hzempty : (z.lane l).fifo = [] := by rw [hload.lane, hv.lane]
  have hzrr : (z.port p).rr = ((s.port p).rr + 1) % (bitsSet (s.stripe p)).length := by rw [hport, hv.port]; rfl
  have hznext : z.nextLane p = some (some m) := by
    have hfor : z.laneFor p b = some m := ((hload.laneFor hp b).trans (hv.laneFor b)).trans hm
    unfold State.nextLane
    rw [hzrr, State.stripe, hload.rf 0x10 8, hv.rf, ← State.stripe, hb]
    exact congrArg some hfor
  have hzcol : ∀ k ∈ z.striping p, ∀ q, (z.lane k).fifo.head? ≠ some (.col q) := by
    intro k hk q
    by_cases hkl : k = l
    · rw [hkl, hzempty]
      exact (Option.some_ne_none _).symm
    · rw [hzlane k hkl]
      exact hcol k ((hload.lanesOf.trans hv.lanesOf) ▸ mem_lanesOf_of_mem_striping hk) q
  have hidle : z.takeBlock p = none := takeBlock_waits hznext (by rw [hzlane m hne, hmempty]) (.inl (columnHead_eq_none hzcol))
  refine ⟨z, ?_, hzempty, hzrr, by rw [hport], hzlane, hload.hub.trans hv.hub⟩
  rw [exec_blockInstr hs.port (i := (.dataBlock l w date, false)) (List.mem_cons_self ..)]
  refine congrArg Host.Outcome.next (hrun.trans ?_)
  rw [show blkOf false w = .data w from rfl, hz, drain_of_none hidle]

end

end Sys2Proof.Machine
end

section
/-! SUPPORT. A port of one lane: each block but a marker is at once the next of the port stream (R142, R145). -/

namespace Sys2Proof.Machine

/-! ### One lane -/

section
variable {s : State} {p l : Nat} (h : SingleLane s p l)
include h

theorem lanesOf_of_single : s.lanesOf p = [l] := by
  obtain ⟨hport, -, hwidth, -⟩ := h
  have hcount : s.laneCount p = 1 := by rw [State.laneCount, hwidth]; rfl
  have hone : s.lanesOf p = [s.laneBase p] := by
    rw [State.lanesOf, hcount]
    rfl
  have hl := (mem_lanesOf_of_portOf hport).2
  rw [hone] at hl ⊢
  rw [List.mem_singleton.1 hl]

theorem striping_of_single : Striping s p l := by
  obtain ⟨hport, hup, -, hstripe, hlock, hid, hlost, -⟩ := h
  exact ⟨hport, hup, hlock, hlost, by rw [hstripe, hid]; decide⟩

theorem nextLane_of_single : s.nextLane p = some (some l) := by
  have hlanes := lanesOf_of_single h
  obtain ⟨-, -, -, hstripe, -, hid, hlost, -, hrr, -⟩ := h
  have hfor : s.laneFor p 0 = some l := by
    rw [State.laneFor, hlanes, List.find?_cons_of_pos]
    rw [hid, bit_of_zero hlost]
    rfl
  have hbits : (bitsSet (s.stripe p))[(s.port p).rr]? = some 0 := by
    rw [hstripe, hrr]
    decide
  unfold State.nextLane
  rw [hbits]
  exact congrArg some hfor

theorem fifo_of_single : ∀ k ∈ s.lanesOf p, (s.lane k).fifo = [] := by
  intro k hk
  rw [lanesOf_of_single h, List.mem_singleton] at hk
  obtain ⟨-, -, -, -, -, -, -, hfifo, -⟩ := h
  rw [hk, hfifo]

end

/-- A block of the only lane of a port goes through to the port stream, which then waits. -/
theorem single_block {s : State} {p l date : Nat} (hport : s.portOf l = some p) (h : SingleLane (s.timed p date) p l)
    (hidx : ((s.timed p date).lane l).idx + 1 ≠ 4096) {ctl : Bool} {w : Word} (hread : Plain ctl w) :
    ∃ v a, Turns p l a (s.timed p date) v ∧ v.count = (s.timed p date).count ∧
      s.block l date (rxOf ctl w) = v.portBlock p (blkOf ctl w) := by
  have hp := (mem_lanesOf_of_portOf hport).1
  have hempty := fifo_of_single h
  obtain ⟨-, -, -, -, -, -, -, hfifo, -, -, halt⟩ := id h
  obtain ⟨v, a, hv, hcount, hrun⟩ := block_taken hport (striping_of_single h) halt hidx (nextLane_of_single h) hfifo
    (fun k hk q => by rw [hempty k hk]; exact (Option.some_ne_none _).symm) hread
    (.inr fun k hk _ => by rw [hempty k hk]; decide)
  refine ⟨v, a, hv, hcount, hrun.trans (drain_of_none (takeBlock_of_empty fun k hk => ?_) 2047)⟩
  have hlinks : Links linkKey v (v.portBlock p (blkOf ctl w)) := portBlock_links hp (fun _ h => h) v _
  have hlanes : (v.portBlock p (blkOf ctl w)).lanesOf p = (s.timed p date).lanesOf p :=
    ((Places.of_links hlinks).lanesOf hp).trans hv.lanesOf
  rw [hlanes, lanesOf_of_single h, List.mem_singleton] at hk
  rw [hk, hlinks.lane, hv.lane]

/-! ### What the port makes of a block -/

/-- The port where a block of its stream is judged: the turn has moved on and the block has been counted. -/
def PortUnit.judged (x : PortUnit) (rr : Nat) (a : Bool) (ms cnt : Nat) : PortUnit :=
  ({ x with rr := rr, allFill := a } : PortUnit).loaded ms cnt

/-- From `s` to `t` a block has come to be judged by port `p` at count `c`. -/
structure Judges (p c : Nat) (s t : State) : Prop where
  port  : ∃ rr a ms cnt, t.port p = (s.port p).judged rr a ms cnt
  flds  : ∀ f : Fld, f.key ≠ (Rf.SPK_PSTAT_LOAD p).key → t.rf f = s.rf f
  hub   : t.hub = s.hub
  evq   : t.evq = s.evq
  cad   : t.cad = s.cad
  count : t.count = c

theorem Judges.of_turns {p l c : Nat} {a : Bool} {s v : State} (h : Turns p l a s v) (hc : v.count = c) :
    Judges p c s (v.countLoad p) := by
  have hload := countLoad_loads v p
  obtain ⟨ms, cnt, hport⟩ := countLoad_port v p
  refine ⟨⟨((s.port p).rr + 1) % (bitsSet (s.stripe p)).length, a, ms, cnt, ?_⟩, fun f hf => (hload.flds f hf).trans (h.rf f),
    hload.hub.trans h.hub, hload.evq.trans h.evq, ?_,
    hload.count.trans hc⟩
  · rw [hport, h.port]
    rfl
  · exact (congrArg State.cad hload.rest :).trans (congrArg State.cad h.rest :)

/-- The types of the control blocks of a line and of the camera: LS, LE, ST and SACK (Table 5.1). -/
def cameraTypes : List Nat := [0x33, 0x4B, 0x55, 0x66]

/-- What a port makes of one of them. -/
def State.takeCtl (s : State) (p w : Nat) : State :=
  match w % 256 with
  | 0x33 => s.takeLs p w
  | 0x4B => s.takeLe p w
  | 0x55 => s.takeSt p w
  | 0x66 => s.takeSack p w
  | _ => s

section
variable {w : Nat}

theorem takeCtl_ls (h : w % 256 = 0x33) (s : State) (p : Nat) : s.takeCtl p w = s.takeLs p w := by simp only [State.takeCtl, h]
theorem takeCtl_le (h : w % 256 = 0x4B) (s : State) (p : Nat) : s.takeCtl p w = s.takeLe p w := by simp only [State.takeCtl, h]
theorem takeCtl_st (h : w % 256 = 0x55) (s : State) (p : Nat) : s.takeCtl p w = s.takeSt p w := by simp only [State.takeCtl, h]
theorem takeCtl_sack (h : w % 256 = 0x66) (s : State) (p : Nat) : s.takeCtl p w = s.takeSack p w := by simp only [State.takeCtl, h]

end

theorem portBlock_fill {w : Word} (h : w.toNat % 256 = 0x1E) (s : State) (p : Nat) : s.portBlock p (.ctl w) = s := by
  simp only [State.portBlock, h]

theorem portBlock_ctl {s : State} {p : Nat} (hdiscard : (s.port p).discard = false) {w : Word}
    (h : w.toNat % 256 ∈ cameraTypes) : s.portBlock p (.ctl w) = (s.countLoad p).takeCtl p w.toNat := by
  obtain ⟨ms, cnt, hport⟩ := countLoad_port s p
  have hopen : ((s.countLoad p).port p).discard = false := by rw [hport]; exact hdiscard
  simp only [cameraTypes, List.mem_cons, List.not_mem_nil, or_false] at h
  rcases h with h | h | h | h <;> simp only [State.portBlock, State.takeCtl, h, hopen] <;> rfl

section
variable {l : Fin 192} {p date : Nat} {w : BitVec 64} {s : State} (hs : SingleLane s p l) (hline : LineFresh s p (max s.count date))
  (hidx : (s.lane l).idx + 1 ≠ 4096)
include hs hline hidx

theorem single_block_of_fresh {ctl : Bool} (hread : Plain ctl w) : ∃ v a, Turns p l a s v ∧ v.count = max s.count date ∧
    s.block l date (rxOf ctl w) = v.portBlock p (blkOf ctl w) := by
  have hblock := single_block (s := s) (p := p) (l := l) (date := date) (ctl := ctl) (w := w) (striping_of_single hs).port
  rw [timed_of_fresh hline] at hblock
  obtain ⟨v, a, hv, hcount, hrun⟩ := hblock hs hidx hread
  exact ⟨v, a, ⟨(congrArg (fun x : State => { x with count := s.count }) hv.rest :), hv.port, hv.lane, hv.others⟩, hcount, hrun⟩

theorem single_fill (hgood : ctlGood w.toNat = true) (hw : w.toNat % 256 = 0x1E) :
    ∃ v a, Turns p l a s v ∧ exec (.fill l w date) s = .next v := by
  obtain ⟨v, a, hv, -, hrun⟩ := single_block_of_fresh hs hline hidx (ctl := true) (w := w) (fun _ => ⟨hgood, by omega⟩)
  refine ⟨v, a, hv, ?_⟩
  rw [exec_ctl w date (striping_of_single hs).port (i := .fill l w date) (by simp [blockInstrs])]
  exact congrArg Host.Outcome.next (hrun.trans (portBlock_fill hw v p))

theorem single_ctl {i : Instr} (hi : (i, true) ∈ blockInstrs l w date) (hgood : ctlGood w.toNat = true)
    (htype : w.toNat % 256 ∈ cameraTypes) :
    ∃ c, Judges p (max s.count date) s c ∧ exec i s = .next (c.takeCtl p w.toNat) := by
  obtain ⟨v, a, hv, hcount, hrun⟩ := single_block_of_fresh hs hline hidx (ctl := true) (w := w)
    (fun _ => ⟨hgood, fun h => absurd htype (by rw [h]; decide)⟩)
  have hport := (striping_of_single hs).port
  obtain ⟨-, -, -, -, -, -, -, -, -, hdiscard, -⟩ := hs
  refine ⟨v.countLoad p, .of_turns hv hcount, ?_⟩
  rw [exec_ctl w date hport hi]
  exact congrArg Host.Outcome.next (hrun.trans (portBlock_ctl (by rw [hv.port]; exact hdiscard) htype))

theorem single_data : ∃ c, Judges p (max s.count date) s c ∧ exec (.dataBlock l w date) s = .next (c.takeData p w) := by
  obtain ⟨v, a, hv, hcount, hrun⟩ := single_block_of_fresh hs hline hidx (ctl := false) (w := w) (fun h => absurd h (by decide))
  have hport := (striping_of_single hs).port
  obtain ⟨-, -, -, -, -, -, -, -, -, hdiscard, -⟩ := hs
  refine ⟨v.countLoad p, .of_turns hv hcount, ?_⟩
  rw [exec_blockInstr hport (i := (.dataBlock l w date, false)) (List.mem_cons_self ..)]
  exact congrArg Host.Outcome.next (hrun.trans (portBlock_data (by rw [hv.port]; exact hdiscard) w))

end

end Sys2Proof.Machine
end

section
/-! SUPPORT. What the blocks of a line, of the camera's status and of an acknowledgement leave (R144, R147, R157, R160, R164, R186). -/

namespace Sys2Proof.Machine

/-! ### Which fields stay -/

/-- The fields of a port before its line counts are none that Intake moves. -/
theorem not_rowKey {f : Fld} {p : Nat} (hp : p < 48) (off lo : Nat) (haddr : f.addr = 0x200000 + off + 0x1000 * p := by rfl)
    (hbit : f.lo = lo := by rfl) (hoff : off < 0x148 := by decide) (hlo : lo < 64 := by decide) : ¬ rowKey f.key := by
  unfold rowKey highKey Fld.key
  omega

theorem portKey_low {f : Fld} {p : Nat} (hp : p < 48) (off lo : Nat) (haddr : f.addr = 0x200000 + off + 0x1000 * p := by rfl)
    (hbit : f.lo = lo := by rfl) (hoff : off < 0x1000 := by decide) (hlo : lo < 64 := by decide) : f.key < 0x700000 * 64 := by
  unfold Fld.key
  omega

/-- A field below the ports' is none of theirs. -/
theorem lowFld_ne_port {f g : Fld} (p off lo : Nat) (hf : f.key < 0x200000 * 64 := by decide)
    (hg : g.addr = 0x200000 + off + 0x1000 * p := by rfl) (hgb : g.lo = lo := by rfl) : f.key ≠ g.key := by
  have hkey : g.key = g.addr * 64 + g.lo := rfl
  omega

/-- A field of the port's registers but LOAD is judged as it is. -/
theorem Judges.rf {p c : Nat} {s t : State} (h : Judges p c s t) {f : Fld} (off lo : Nat)
    (haddr : f.addr = 0x200000 + off + 0x1000 * p := by rfl) (hbit : f.lo = lo := by rfl)
    (hne : off * 64 + lo ≠ 0x10 * 64 + 32 := by decide) : t.rf f = s.rf f :=
  h.flds f (portFld_ne p off lo 0x10 32 haddr hbit (hg := by rfl) (hgb := by rfl) (h := hne))

theorem Judges.cadOn {p c : Nat} {s t : State} (h : Judges p c s t) : t.cadOn = s.cadOn := by
  rw [State.cadOn, h.flds _ (lowFld_ne_port p 0x10 32)]
  rfl

/-- A counter of the port that has moved on by one from where it was judged. -/
theorem counted_of_eq {s t u : State} {f : Fld} (h : t.rf f = s.rf f) (hcount : Counted f t u) : Counted f s u := by
  unfold Counted at *
  rw [hcount, h]

theorem counted_bump (s : State) (f : Fld) : Counted f s (s.bump f) := rf_bump_self s f 1

/-! ### Lines -/

section
variable {p : Nat} (hp : p < 48)

theorem lineIn_of_stopped {s : State} (h : s.cadOn = false) (l : LineIn) : s.lineIn p l = s := if_pos (by rw [h]; rfl)

/-- While the cadence unit is stopped a line changes nothing. -/
theorem handLine_of_stopped {s : State} (h : s.cadOn = false) (l : LineIn) : s.handLine p l = s := by
  unfold State.handLine
  rw [h]
  dsimp only [Bool.false_and]
  split <;> exact lineIn_of_stopped h l

theorem closeBad_of_stopped {s : State} {o : OpenLine} (ho : (s.port p).line = some o) (h : s.cadOn = false) :
    s.closeBad p = (s.setPort p { s.port p with line := none }).bump (Rf.SPK_PCNT_BADLINE p) := by
  unfold State.closeBad
  rw [ho]
  exact handLine_of_stopped (by
    rw [← h, State.cadOn, rf_bump _ _ _ _ (lowFld_ne_port p 0x28 0)]
    rfl) o.bad

include hp

theorem closeBad_line {s : State} : ((s.closeBad p).port p).line = none := by
  unfold State.closeBad
  split
  · next o _ =>
    have hrow : Intakes rowKey p _ ((s.setPort p { s.port p with line := none }).bump (Rf.SPK_PCNT_BADLINE p) |>.handLine p o.bad) :=
      handLine_intakes hp (fun _ h => h) _ (fun h => absurd h Bool.false_ne_true)
    rw [hrow.line]
    exact (congrArg PortUnit.line (look_put_self ..) :)
  · assumption

/-- A line closed as bad moves BADLINE and what Intake moves. -/
theorem closeBad_rf {s : State} {f : Fld} (hrow : ¬ rowKey f.key) (hne : f.key ≠ (Rf.SPK_PCNT_BADLINE p).key) :
    (s.closeBad p).rf f = s.rf f := by
  unfold State.closeBad
  split
  · next o _ =>
    have hlinks : Intakes rowKey p _ ((s.setPort p { s.port p with line := none }).bump (Rf.SPK_PCNT_BADLINE p) |>.handLine p o.bad) :=
      handLine_intakes hp (fun _ h => h) _ (fun h => absurd h Bool.false_ne_true)
    rw [hlinks.links.rf hrow, rf_bump _ _ _ _ hne]
    rfl
  · rfl

omit hp in
theorem cameraSeen_port (s : State) : (s.cameraSeen p).port p = { s.port p with traffic := s.count } := by
  have hheard : (s.cameraHeard p).port p = { s.port p with traffic := s.count } := look_put_self ..
  unfold State.cameraSeen
  dsimp only
  split
  · rw [raise_port]
    exact hheard
  · exact hheard

omit hp in
theorem cameraSeen_rf (s : State) {f : Fld} (hlow : f.key < 0x700000 * 64) (hne : f.key ≠ (Rf.SPK_PSTAT_STATE p).key) :
    (s.cameraSeen p).rf f = s.rf f := by
  unfold State.cameraSeen
  dsimp only
  split
  · rw [rf_raise (key_ne_event hlow), State.rf_setrf _ _ _ _ hne]
    rfl
  · rfl

omit hp in
theorem cameraSeen_adds (s : State) : Adds 3 s (s.cameraSeen p) := by
  unfold State.cameraSeen
  dsimp only
  split
  · exact (Adds.of_evq (n := 0) (by rfl)).trans (raise_adds _ _ _ _ _)
  · exact .of_evq (by rfl)

/-- LS opens a line at the count. -/
theorem takeLs_line (s : State) (w : Nat) : ((s.takeLs p w).port p).line =
    some ⟨w / 2 ^ 8 % 2 ^ 32, w / 2 ^ 40 % 2 ^ 8, w / 2 ^ 48 % 4, w / 2 ^ 50 % 4, [], false, s.count⟩ := by
  unfold State.takeLs
  extract_lets s1 s2 o
  have h1 : Links linkKey s s1 := cameraSeen_links hp (fun _ h => h) s
  have h2 : Links linkKey s1 s2 := by
    dsimp only [s2]
    split
    · exact (closeBad_links hp (fun _ h => h) s1).trans (.bump _ (linkKey_of_offset hp 0x28 16) 1)
    · exact .refl _ s1
  have hcount : s2.count = s.count := (h1.trans h2).stands.count
  refine (congrArg PortUnit.line (look_put_self ..) :).trans ?_
  rw [show o = ⟨w / 2 ^ 8 % 2 ^ 32, w / 2 ^ 40 % 2 ^ 8, w / 2 ^ 48 % 4, w / 2 ^ 50 % 4, [], false, s2.count⟩ from rfl, hcount]

/-- LS finds a line open. -/
theorem takeLs_noend {s : State} {o : OpenLine} (ho : (s.port p).line = some o) (w : Nat) :
    Counted (Rf.SPK_PCNT_NOEND p) s (s.takeLs p w) := by
  have hopen : ((s.cameraSeen p).port p).line.isSome = true := by
    rw [cameraSeen_port]
    exact congrArg Option.isSome ho
  have hkept : ((s.cameraSeen p).closeBad p).rf (Rf.SPK_PCNT_NOEND p) = s.rf (Rf.SPK_PCNT_NOEND p) := by
    rw [closeBad_rf hp (not_rowKey hp 0x28 16) (portFld_ne p 0x28 16 0x28 0),
      cameraSeen_rf s (portKey_low hp 0x28 16) (portFld_ne p 0x28 16 0x10 0)]
  unfold State.takeLs
  dsimp only
  rw [if_pos hopen]
  exact counted_of_eq hkept (counted_bump _ _)

omit hp in
theorem takeLe_orphan {s : State} (h : (s.port p).line = none) (w : Nat) : Counted (Rf.SPK_PCNT_ORPHAN p) s (s.takeLe p w) := by
  have hheard : ((s.cameraHeard p).port p).line = none := (congrArg PortUnit.line (look_put_self ..) :).trans h
  unfold State.takeLe
  dsimp only
  rw [hheard]
  exact counted_bump (s.cameraHeard p) _

/-- The line an LE ends is good (R144). -/
def OpenLine.endsGood (o : OpenLine) (w bits : Nat) : Prop :=
  o.excess = false ∧ o.words.length = (bits + 63) / 64 ∧ lineCrc o.words.reverse ((bits + 7) / 8) = w / 2 ^ 24 % 2 ^ 32

/-- A good line as Intake receives it. -/
def OpenLine.goodIn (o : OpenLine) (w : Nat) : LineIn :=
  ⟨o.lseq, o.ssid, o.expo, o.plane, true, w / 2 ^ 8 % 2 ^ 16, w / 2 ^ 24 % 2 ^ 32, o.words.reverse⟩

omit hp in
theorem takeLe_bad {s : State} {o : OpenLine} (ho : (s.port p).line = some o) {w : Nat}
    (hbad : ¬ o.endsGood w ((w / 2 ^ 8 % 2 ^ 16 + 1) * s.sampleBits p)) : s.takeLe p w = (s.cameraHeard p).closeBad p := by
  have hheard : ((s.cameraHeard p).port p).line = some o := (congrArg PortUnit.line (look_put_self ..) :).trans ho
  unfold State.takeLe
  dsimp only
  rw [hheard]
  refine if_neg fun h => hbad ?_
  simp only [Bool.and_eq_true, Bool.not_eq_true', decide_eq_true_eq, List.length_reverse] at h
  obtain ⟨⟨hex, hlen⟩, hcrc⟩ := h
  exact ⟨hex, hlen, hcrc⟩

omit hp in
theorem takeLe_good {s : State} {o : OpenLine} (ho : (s.port p).line = some o) {w : Nat}
    (hgood : o.endsGood w ((w / 2 ^ 8 % 2 ^ 16 + 1) * s.sampleBits p)) :
    s.takeLe p w = ((s.cameraHeard p).setPort p { (s.cameraHeard p).port p with line := none }).goodLine p (o.goodIn w) := by
  have hheard : ((s.cameraHeard p).port p).line = some o := (congrArg PortUnit.line (look_put_self ..) :).trans ho
  obtain ⟨hex, hlen, hcrc⟩ := hgood
  unfold State.takeLe
  dsimp only
  rw [hheard]
  refine if_pos ?_
  simp only [Bool.and_eq_true, Bool.not_eq_true', decide_eq_true_eq, List.length_reverse]
  exact ⟨⟨hex, hlen⟩, hcrc⟩

/-- LE ends the line, good or bad. -/
theorem takeLe_line {s : State} {o : OpenLine} (ho : (s.port p).line = some o) (w : Nat) : ((s.takeLe p w).port p).line = none := by
  by_cases hgood : o.endsGood w ((w / 2 ^ 8 % 2 ^ 16 + 1) * s.sampleBits p)
  · rw [takeLe_good ho hgood, (goodLine_intakes (K := fun _ => True) hp (fun _ _ => trivial) _ trivial).line]
    exact (congrArg PortUnit.line (look_put_self ..) :)
  · rw [takeLe_bad ho hgood]
    exact closeBad_line hp

omit hp in
theorem takeLe_counted {s : State} {o : OpenLine} (ho : (s.port p).line = some o) {w : Nat}
    (hbad : ¬ o.endsGood w ((w / 2 ^ 8 % 2 ^ 16 + 1) * s.sampleBits p)) (hstop : s.cadOn = false) :
    Counted (Rf.SPK_PCNT_BADLINE p) s (s.takeLe p w) := by
  have hheard : ((s.cameraHeard p).port p).line = some o := (congrArg PortUnit.line (look_put_self ..) :).trans ho
  rw [takeLe_bad ho hbad, closeBad_of_stopped hheard hstop]
  exact counted_bump (State.setPort _ _ _) _

omit hp in
theorem tstShow_hub (s before : State) : (s.tstShow before).hub = s.hub := by
  unfold State.tstShow
  dsimp only
  generalize List.filter _ before.tstOn = l
  refine (foldl_keeps State.hub (fun s q => ?_) l _).trans rfl
  exact (congrArg State.hub (Fetched.raise s _ _ _ _).rest :)

omit hp in
/-- A line counted for a distortion leaves the ports and the hub alone. -/
theorem distorts_kept (s : State) : (s.distorts p).2.ports = s.ports ∧ (s.distorts p).2.hub = s.hub := by
  unfold State.distorts
  split
  · dsimp only
    split
    · exact ⟨tstShow_ports _ s, tstShow_hub _ s⟩
    · exact ⟨rfl, rfl⟩
  · exact ⟨rfl, rfl⟩

omit hp in
/-- A good line while the cadence unit is stopped. -/
theorem goodLine_of_stopped {s : State} (h : s.cadOn = false) (l : LineIn) : s.goodLine p l = (s.distorts p).2 := by
  have hstop : (s.distorts p).2.cadOn = false := by
    rw [← h, State.cadOn, (distorts_intakes (p := p) (fun _ h => h) s).links.rf (by unfold rowKey highKey; decide)]
    rfl
  unfold State.goodLine
  dsimp only
  split
  · split
    · exact handLine_of_stopped hstop _
    · rfl
  · exact handLine_of_stopped hstop l

end

end Sys2Proof.Machine
end

section
/-! SUPPORT. The camera's status and its acknowledgements (R157, R160, R164, R186). -/

namespace Sys2Proof.Machine

/-! ### Status (R157, R164) -/

/-- What the carrier's choice leaves of a port. -/
theorem fixCarrier_port (s : State) (p : Nat) (again : List Word) :
    ((s.fixCarrier p again).port p).unsent = (s.port p).unsent := by
  have hsettled : ((s.settleDn p).port p).unsent = (s.port p).unsent := (settleDn_sends s p).port
  unfold State.fixCarrier
  extract_lets s1 c x s2
  have h2 : (s2.port p).unsent = (s1.port p).unsent := by
    dsimp only [s2]
    split
    · rfl
    · exact (congrArg PortUnit.unsent (look_put_self ..)).trans (by unfold PortUnit.unsent; rfl)
  split
  · exact hsettled
  · rw [raise_port]
    exact h2.trans hsettled

theorem fixCarrier_rf (s : State) (p : Nat) (again : List Word) {f : Fld} (hlow : f.key < 0x700000 * 64)
    (hne : f.key ≠ (Rf.SPK_PSTAT_CARRIER p).key) : (s.fixCarrier p again).rf f = s.rf f := by
  have hsettled : (s.settleDn p).rf f = s.rf f := (settleDn_sends s p).rf f
  unfold State.fixCarrier
  extract_lets s1 c x s2
  have h2 : s2.rf f = s1.rf f := by
    dsimp only [s2]
    split <;> rfl
  split
  · exact hsettled
  · rw [rf_raise (key_ne_event hlow), State.rf_setrf _ _ _ _ hne, h2, hsettled]

theorem fixCarrier_adds (s : State) (p : Nat) (again : List Word) : Adds 3 s (s.fixCarrier p again) := by
  have hsettled : (s.settleDn p).evq = s.evq := (settleDn_sends s p).evq
  unfold State.fixCarrier
  extract_lets s1 c x s2
  have h2 : s2.evq = s1.evq := by
    dsimp only [s2]
    split <;> rfl
  split
  · exact .of_evq hsettled
  · exact (Adds.of_evq (n := 0) (by exact h2.trans hsettled)).trans (raise_adds _ _ _ _ _)

/-- What SPK_PCAM shows of an ST. -/
def State.showSt (s : State) (p w : Nat) : State :=
  ((((s.setrf (Rf.SPK_PCAM_STATE p) (bitsOf w 8 8)).setrf (Rf.SPK_PCAM_SSID p) (bitsOf w 16 8)).setrf
    (Rf.SPK_PCAM_DN_MASK p) (bitsOf w 24 8)).setrf (Rf.SPK_PCAM_TEMP p) (bitsOf w 32 8)).setrf (Rf.SPK_PCAM_CAMFLAGS p)
    (bitsOf w 40 16)

theorem showSt_rf (s : State) (p w : Nat) : let t := s.showSt p w
    t.rf (Rf.SPK_PCAM_STATE p) = w / 2 ^ 8 % 2 ^ 8 ∧ t.rf (Rf.SPK_PCAM_SSID p) = w / 2 ^ 16 % 2 ^ 8 ∧
      t.rf (Rf.SPK_PCAM_DN_MASK p) = w / 2 ^ 24 % 2 ^ 8 ∧ t.rf (Rf.SPK_PCAM_TEMP p) = w / 2 ^ 32 % 2 ^ 8 ∧
      t.rf (Rf.SPK_PCAM_CAMFLAGS p) = w / 2 ^ 40 % 2 ^ 16 := by
  refine ⟨?_, ?_, ?_, ?_, ?_⟩ <;> unfold State.showSt
  · rw [State.rf_setrf _ _ _ _ (portFld_ne p 0x18 0 0x18 32), State.rf_setrf _ _ _ _ (portFld_ne p 0x18 0 0x18 24),
      State.rf_setrf _ _ _ _ (portFld_ne p 0x18 0 0x18 16), State.rf_setrf _ _ _ _ (portFld_ne p 0x18 0 0x18 8),
      State.rf_setrf_self]
    exact Nat.mod_mod _ _
  · rw [State.rf_setrf _ _ _ _ (portFld_ne p 0x18 8 0x18 32), State.rf_setrf _ _ _ _ (portFld_ne p 0x18 8 0x18 24),
      State.rf_setrf _ _ _ _ (portFld_ne p 0x18 8 0x18 16), State.rf_setrf_self]
    exact Nat.mod_mod _ _
  · rw [State.rf_setrf _ _ _ _ (portFld_ne p 0x18 16 0x18 32), State.rf_setrf _ _ _ _ (portFld_ne p 0x18 16 0x18 24),
      State.rf_setrf_self]
    exact Nat.mod_mod _ _
  · rw [State.rf_setrf _ _ _ _ (portFld_ne p 0x18 24 0x18 32), State.rf_setrf_self]
    exact Nat.mod_mod _ _
  · rw [State.rf_setrf_self]
    exact Nat.mod_mod _ _

/-- An ST is shown, its instant kept and the carrier chosen; then the event may follow. -/
theorem takeSt_after {p : Nat} (hp : p < 48) (s : State) (w : Nat) : ∃ t : State,
    s.takeSt p w = (if bitsOf w 8 8 ≠ (s.cameraSeen p).rf (Rf.SPK_PCAM_STATE p) ∧ (bitsOf w 8 8 = 2 ∨ bitsOf w 8 8 = 3) then
      t.raise 0x1010 p (bitsOf w 8 8) else t) ∧
    (∀ f : Fld, f.key < 0x700000 * 64 → f.key ≠ (Rf.SPK_PSTAT_CARRIER p).key → t.rf f = ((s.cameraSeen p).showSt p w).rf f) ∧
    (t.port p).stAt = some s.count ∧ Adds 6 s t ∧ s.evq.length ≤ t.evq.length := by
  unfold State.takeSt
  extract_lets s1 old new s2 s3 s4 _ s5 s6 s7
  have h1 : Links linkKey s s1 := cameraSeen_links hp (fun _ h => h) s
  have h5 : Sends p s5 s6 := settleDn_sends s5 p
  have h7 : Links linkKey s6 s7 := fixCarrier_links hp (fun _ h => h) s6 _
  have hevq : s6.evq = s1.evq := h5.evq
  refine ⟨s7, rfl, fun f hlow hne => ?_, ?_, ?_, ?_⟩
  · have hshown : s7.rf f = s6.rf f := fixCarrier_rf s6 p _ hlow hne
    exact hshown.trans (h5.rf f)
  · have hkept : (s7.port p).stAt = (s5.port p).stAt :=
      (congrArg PortUnit.stAt (fixCarrier_port s6 p _) :).trans (congrArg PortUnit.stAt h5.port :)
    have hat : (s5.port p).stAt = some s4.count := (congrArg PortUnit.stAt (look_put_self ..) :)
    rw [hkept, hat, show s4.count = s1.count from rfl, h1.stands.count]
  · have hadds : Adds 3 s s1 := cameraSeen_adds s
    have hmid : Adds 0 s1 s6 := .of_evq hevq
    have hlast : Adds 3 s6 s7 := fixCarrier_adds s6 p _
    exact (hadds.trans hmid).trans hlast
  · have hgrown : s1.evq.length ≤ s7.evq.length := hevq ▸ h7.stands.queue.length_le
    exact h1.stands.queue.length_le.trans hgrown

/-- What SPK_PCAM and the event queue show of an ST. -/
theorem takeSt_shown {p : Nat} (hp : p < 48) {s : State} (hroom : s.evq.length < 1000) (w : Nat) : let t := s.takeSt p w
    (t.rf (Rf.SPK_PCAM_STATE p) = w / 2 ^ 8 % 2 ^ 8 ∧ t.rf (Rf.SPK_PCAM_SSID p) = w / 2 ^ 16 % 2 ^ 8 ∧
      t.rf (Rf.SPK_PCAM_DN_MASK p) = w / 2 ^ 24 % 2 ^ 8 ∧ t.rf (Rf.SPK_PCAM_TEMP p) = w / 2 ^ 32 % 2 ^ 8 ∧
      t.rf (Rf.SPK_PCAM_CAMFLAGS p) = w / 2 ^ 40 % 2 ^ 16) ∧ (t.port p).stAt = some s.count ∧
    (w / 2 ^ 8 % 2 ^ 8 ≠ s.rf (Rf.SPK_PCAM_STATE p) → w / 2 ^ 8 % 2 ^ 8 = 2 ∨ w / 2 ^ 8 % 2 ^ 8 = 3 →
      Raised s t 0x1010 p (w / 2 ^ 8 % 2 ^ 8) 0) := by
  obtain ⟨u, hu, hflds, hat, hadds, hgrown⟩ := takeSt_after hp s w
  have hold : (s.cameraSeen p).rf (Rf.SPK_PCAM_STATE p) = s.rf (Rf.SPK_PCAM_STATE p) :=
    cameraSeen_rf s (portKey_low hp 0x18 0) (portFld_ne p 0x18 0 0x10 0)
  have hfree : u.evq.length < 1024 := by
    have hle : u.evq.length ≤ s.evq.length + 6 := hadds
    omega
  have hrf (f : Fld) (hlow : f.key < 0x700000 * 64) : (s.takeSt p w).rf f = u.rf f := by
    rw [hu]
    split
    · exact rf_raise (key_ne_event hlow) ..
    · rfl
  have hport : (s.takeSt p w).port p = u.port p := by
    rw [hu]
    split
    · exact raise_port ..
    · rfl
  have hshown (lo : Nat) (hlo : lo < 64) {f : Fld} (haddr : f.addr = 0x200000 + 0x18 + 0x1000 * p) (hbit : f.lo = lo) :
      (s.takeSt p w).rf f = ((s.cameraSeen p).showSt p w).rf f := by
    have hlow := portKey_low hp 0x18 lo haddr hbit (hlo := hlo)
    rw [hrf f hlow, hflds f hlow (portFld_ne p 0x18 lo 0x10 24 haddr hbit (h := by omega))]
  obtain ⟨hstate, hssid, hmask, htemp, hflags⟩ := showSt_rf (s.cameraSeen p) p w
  refine ⟨⟨(hshown 0 (by decide) rfl rfl).trans hstate, (hshown 8 (by decide) rfl rfl).trans hssid,
    (hshown 16 (by decide) rfl rfl).trans hmask, (hshown 24 (by decide) rfl rfl).trans htemp,
    (hshown 32 (by decide) rfl rfl).trans hflags⟩, by rw [hport, hat], fun hnew htwo => ?_⟩
  rw [hu, if_pos ⟨by rw [hold]; exact hnew, htwo⟩]
  exact (raise_raised _ _ _ _ _ hfree).earlier hgrown

/-! ### Acknowledgements (R160, R186) -/

theorem setMsgs_msgs (x : PortUnit) (l : List SetMsg) : (x.setMsgs l).msgs = l := by
  cases l <;> rfl

theorem any_of_filter_ne {l : List SetMsg} {k : Nat} (h : l.filter (fun m => decide (m.msgid ≠ k)) ≠ l) :
    l.any (fun m => m.msgid == k) = true := by
  rw [List.any_eq_true]
  by_contra hno
  refine h (List.filter_eq_self.2 fun m hm => decide_eq_true fun hk => hno ⟨m, hm, ?_⟩)
  rw [hk, beq_self_eq_true]

/-- A SACK that names no message awaiting one is counted. -/
theorem takeSack_unmatched {p : Nat} (hp : p < 48) {s : State} {w : Nat} (h : ∀ m ∈ (s.port p).msgs, m.msgid ≠ w / 2 ^ 8 % 2 ^ 8) :
    Counted (Rf.SPK_PCNT2_BADCTL p) s (s.takeSack p w) := by
  have hno : ¬ (bitsOf w 24 8 < 4 ∧ ((s.cameraSeen p).port p).msgs.any (fun m => m.msgid == bitsOf w 8 8) = true) := by
    rintro ⟨-, hany⟩
    rw [cameraSeen_port, List.any_eq_true] at hany
    obtain ⟨m, hm, hk⟩ := hany
    exact h m hm (beq_iff_eq.1 hk)
  unfold State.takeSack
  dsimp only
  rw [if_neg hno]
  exact counted_of_eq (cameraSeen_rf s (portKey_low hp 0x30 0) (portFld_ne p 0x30 0 0x10 0)) (counted_bump _ _)

/-- A SACK ends the messages it names; one that refuses them ends their cutovers too. -/
theorem takeSack_matched {p : Nat} (hp : p < 48) {s : State} (hroom : s.evq.length < 1000) {w : Nat}
    (h : (s.port p).msgs.filter (fun m => decide (m.msgid ≠ w / 2 ^ 8 % 2 ^ 8)) ≠ (s.port p).msgs) :
    let left := (s.port p).msgs.filter (fun m => decide (m.msgid ≠ w / 2 ^ 8 % 2 ^ 8))
    let t := s.takeSack p w
    (w / 2 ^ 24 % 2 ^ 8 = 0 → (t.port p).msgs = left ∧ t.rf (Rf.SPK_SETSTAT_STATE p) = 3) ∧
    (w / 2 ^ 24 % 2 ^ 8 ∈ [1, 2, 3] → (t.port p).msgs = left ∧
      (t.port p).cuts = (s.port p).cuts.filter (fun k => decide (k.msgid ≠ w / 2 ^ 8 % 2 ^ 8)) ∧
      Counted (Rf.SPK_PCNT2_SACKREJ p) s t ∧ Raised s t 0x100C p (w / 2 ^ 24 % 2 ^ 8) 0) := by
  have hne (k : Nat) : (fun m : SetMsg => m.msgid != k) = fun m => decide (m.msgid ≠ k) := by
    funext m
    by_cases hk : m.msgid = k <;> simp [hk]
  have hcut (k : Nat) : (fun m : CutRec => m.msgid != k) = fun m => decide (m.msgid ≠ k) := by
    funext m
    by_cases hk : m.msgid = k <;> simp [hk]
  have hseen := cameraSeen_port (p := p) s
  generalize hc : s.cameraSeen p = c at hseen
  have hcmsgs : (c.port p).msgs = (s.port p).msgs := by rw [hseen]; rfl
  have hccuts : (c.port p).cuts = (s.port p).cuts := by rw [hseen]
  have hany : (c.port p).msgs.any (fun m => m.msgid == bitsOf w 8 8) = true := by
    rw [hcmsgs]
    exact any_of_filter_ne h
  have hgrown : s.evq.length ≤ c.evq.length := hc ▸ (cameraSeen_links hp (K := linkKey) (fun _ h => h) s).stands.queue.length_le
  have hfree : c.evq.length < 1024 := by
    have hle : c.evq.length ≤ s.evq.length + 3 := hc ▸ cameraSeen_adds s
    omega
  refine ⟨fun hr => ?_, fun hr => ?_⟩
  · have hpos : bitsOf w 24 8 < 4 := by rw [bitsOf, hr]; decide
    unfold State.takeSack
    dsimp only
    rw [hc, if_pos ⟨hpos, hany⟩, if_pos (show bitsOf w 24 8 = 0 from hr)]
    refine ⟨?_, by rw [State.rf_setrf_self]; rfl⟩
    rw [State.setrf_get_port, State.setPort_get_port, if_pos rfl, setMsgs_msgs, hcmsgs, hne]
    rfl
  · have hpos : bitsOf w 24 8 < 4 ∧ bitsOf w 24 8 ≠ 0 := by
      simp only [List.mem_cons, List.not_mem_nil, or_false] at hr
      rw [bitsOf]
      omega
    unfold State.takeSack
    dsimp only
    rw [hc, if_pos ⟨hpos.1, hany⟩, if_neg hpos.2]
    unfold State.setIdle
    refine ⟨?_, ?_, ?_, ?_⟩
    · rw [State.setrf_get_port, raise_port, State.bump, State.setrf_get_port, State.setPort_get_port, if_pos rfl]
      rw [State.setPort_get_port, if_pos rfl, ← hne, ← hcmsgs]
      exact setMsgs_msgs (c.port p) ((c.port p).msgs.filter (fun m => m.msgid != bitsOf w 8 8))
    · rw [State.setrf_get_port, raise_port, State.bump, State.setrf_get_port, State.setPort_get_port, if_pos rfl]
      rw [State.setPort_get_port, if_pos rfl, ← hcut, ← hccuts]
      rfl
    · unfold Counted
      rw [State.rf_setrf _ _ _ _ (portFld_ne p 0x30 48 0x140 0), rf_raise (key_ne_event (portKey_low hp 0x30 48)), rf_bump_self]
      rw [State.setPort_get_rf, State.setPort_get_rf, ← hc,
        cameraSeen_rf s (portKey_low hp 0x30 48) (portFld_ne p 0x30 48 0x10 0)]
    · exact (raised_of_evq_eq (s := c) (by rfl) hfree _ _ _ _).earlier hgrown

end Sys2Proof.Machine
end

section
/-! SUPPORT. A good line in its row (R168 to R170): its samples lie in the raw ring, and the row is resolved. -/

namespace Sys2Proof.Machine

/-! ### The bytes of a line -/

theorem ofNat8_eq {a b : Nat} (h : a % 256 = b % 256) : BitVec.ofNat 8 a = BitVec.ofNat 8 b := BitVec.eq_of_toNat_eq h

/-- A byte below bit `n` does not see what lies from bit `n` on. -/
theorem byte_of_mod (v n j : Nat) (h : 8 * j + 8 ≤ n) : BitVec.ofNat 8 (v % 2 ^ n / 256 ^ j) = BitVec.ofNat 8 (v / 256 ^ j) := by
  refine ofNat8_eq ?_
  have hpow : (256 : Nat) ^ j * 256 ∣ 2 ^ n := by
    rw [show (256 : Nat) = 2 ^ 8 from rfl, ← pow_mul, ← pow_add]
    exact pow_dvd_pow 2 h
  rw [← Nat.mod_mul_right_div_self, ← Nat.mod_mul_right_div_self, Nat.mod_mod_of_dvd _ hpow]

/-- The bytes of a line are those of its words. -/
theorem byte_of_lineBits (ws : List Word) (j : Nat) :
    BitVec.ofNat 8 (lineBits ws / 256 ^ j) = BitVec.ofNat 8 ((ws.getD (j / 8) 0).toNat / 256 ^ (j % 8)) := by
  induction ws generalizing j with
  | nil => rw [show lineBits [] = 0 from rfl, Nat.zero_div, List.getD_nil]; simp
  | cons w ws ih =>
    have hcons : lineBits (w :: ws) = w.toNat + 2 ^ 64 * lineBits ws := rfl
    by_cases hj : j < 8
    · have hword : w.toNat = lineBits (w :: ws) % 2 ^ 64 := by
        rw [hcons, Nat.add_mul_mod_self_left, Nat.mod_eq_of_lt w.isLt]
      rw [Nat.div_eq_of_lt hj, Nat.mod_eq_of_lt hj, List.getD_cons_zero, hword]
      exact (byte_of_mod _ 64 j (by omega)).symm
    · obtain ⟨i, rfl⟩ : ∃ i, j = 8 + i := ⟨j - 8, by omega⟩
      have hrest : lineBits (w :: ws) / 256 ^ (8 + i) = lineBits ws / 256 ^ i := by
        rw [hcons, Nat.pow_add, ← Nat.div_div_eq_div_mul, show (256 : Nat) ^ 8 = 2 ^ 64 from rfl,
          Nat.add_mul_div_left _ _ (by decide), Nat.div_eq_of_lt w.isLt, Nat.zero_add]
      rw [hrest, ih, show (8 + i) / 8 = i / 8 + 1 by omega, show (8 + i) % 8 = i % 8 by omega, List.getD_cons_succ]

/-- What a number's cells read inside their range. -/
theorem look_cellsOf {a v n j : Nat} (h : j < n) : look (fun _ => (0 : Byte)) (cellsOf a v n) (a + j) = BitVec.ofNat 8 (v / 256 ^ j) := by
  have happend := look_cellsOf_append a v n [] (a + j)
  rw [List.append_nil, Nat.add_sub_cancel_left] at happend
  rw [happend]
  split
  · rfl
  · next hzero =>
    have hbyte : v / 256 ^ j % 256 = 0 := by
      by_contra hne
      exact hzero ⟨by omega, by omega, hne⟩
    exact (ofNat8_eq (a := v / 256 ^ j) (b := 0) hbyte).symm

/-- A line of the port's width is neither cut nor padded. -/
theorem fitLine_width (s : State) (p bits : Nat) : s.fitLine p (s.width p) bits = bits % 2 ^ (s.sampleBits p * s.width p) := by
  unfold State.fitLine fillBits
  dsimp only
  rw [Nat.min_self, Nat.sub_self]
  rfl

/-- The samples of a line of the port's width lie in the raw ring. -/
theorem hubByte_writeMember {s : State} {p i : Nat} {ws : List Word} (hlo : userBase ≤ s.rawAt p i 0)
    (hhi : s.rawAt p i 0 + (s.width p * s.sampleBits p + 7) / 8 ≤ s.capacity) {j : Nat} (hj : j < s.width p * s.sampleBits p / 8) :
    hubByte (s.writeMember p i 0 (s.fitLine p (s.width p) (lineBits ws))) (s.rawAt p i 0 + j) =
      BitVec.ofNat 8 ((ws.getD (j / 8) 0).toNat / 256 ^ (j % 8)) := by
  have hn : ceilDiv (s.width p * s.sampleBits p) 8 = (s.width p * s.sampleBits p + 7) / 8 := rfl
  unfold State.writeMember State.hubWrite
  dsimp only
  rw [hn, hubByte_writeAs_user, if_pos ⟨by omega, by omega, by omega⟩, look_cellsOf (by omega), fitLine_width,
    byte_of_mod _ _ _ (by rw [Nat.mul_comm (s.sampleBits p)]; omega), byte_of_lineBits]

/-! ### The row is resolved -/

section
variable {p : Nat} (hp : p < 48)

theorem hubByte_raise (s : State) (c a0 a1 a2 b : Nat) : hubByte (s.raise c a0 a1 a2) b = hubByte s b := by
  rw [hubByte, raise_hub]
  rfl

/-- A resolved row leaves what the port is collecting and its triggers, writes its tag alone, and NEXT has passed it. -/
theorem resolveRow_resolves (hp : p < 48) (s : State) (r : RowRec) :
    ((s.resolveRow p r).port p).cur = (s.port p).cur ∧ ((s.resolveRow p r).port p).trigs = (s.port p).trigs ∧
    (s.resolveRow p r).rf (Rf.SPK_RAWPOS_NEXT p) =
      max (s.rf (Rf.SPK_RAWPOS_NEXT p)) (r.i + 1) % 2 ^ (Rf.SPK_RAWPOS_NEXT p).width ∧
    ∀ b, b < s.rawTagAt p r.i ∨ s.rawTagAt p r.i + 32 ≤ b → hubByte (s.resolveRow p r) b = hubByte s b := by
  unfold State.resolveRow
  extract_lets n x f tag b on b' rows s1 s2 s3 s4
  have hport : s4.port p = s3.port p := by
    have hrest := (writeAs_accessed s3 false (hubClass false p) p (s3.rawTagAt p r.i) 32 (cellsOf (s3.rawTagAt p r.i) tag 32)).rest
    clear_value s3
    exact (congrArg (fun u : State => u.port p) hrest :)
  have hport1 : (s1.port p).cur = x.cur ∧ (s1.port p).trigs = x.trigs :=
    ⟨(congrArg PortUnit.cur (look_put_self ..) :), (congrArg PortUnit.trigs (look_put_self ..) :)⟩
  have hkept {f : Fld} (off lo : Nat) (haddr : f.addr = 0x200000 + off + 0x1000 * p) (hbit : f.lo = lo)
      (hne : off * 64 + lo < 0x148 * 64 ∨ 0x158 * 64 ≤ off * 64 + lo) : s3.rf f = s.rf f := by
    dsimp only [s3, s2]
    rw [rf_bump _ _ _ _ (portFld_ne p off lo 0x150 0 haddr hbit (h := by omega)),
      rf_bump _ _ _ _ (portFld_ne p off lo 0x148 32 haddr hbit (h := by omega)),
      rf_bump _ _ _ _ (portFld_ne p off lo 0x148 16 haddr hbit (h := by omega)),
      rf_bump _ _ _ _ (portFld_ne p off lo 0x148 0 haddr hbit (h := by omega))]
    rfl
  have hnext4 : s4.rf (Rf.SPK_RAWPOS_NEXT p) = s3.rf (Rf.SPK_RAWPOS_NEXT p) := by
    refine (Intakes.hubWrite (p := p) (K := hubMoved) (fun _ h => h) s3 false p _ 32 _).links.rf fun h => ?_
    have := le_of_hubMoved h
    have := portKey_low (f := Rf.SPK_RAWPOS_NEXT p) hp 0x158 0
    omega
  refine ⟨(congrArg PortUnit.cur hport :).trans hport1.1, (congrArg PortUnit.trigs hport :).trans hport1.2, ?_, fun b hb => ?_⟩
  · rw [State.rf_setrf_self, hnext4, hkept 0x158 0 rfl rfl (by decide)]
  · have htag : s3.rawTagAt p r.i = s.rawTagAt p r.i := by
      rw [State.rawTagAt, State.rawLines, hkept (f := Rf.SPK_RAWTAG_BASE p) 0x120 0 rfl rfl (by decide),
        hkept (f := Rf.SPK_RAWN_LINES p) 0x118 0 rfl rfl (by decide)]
      rfl
    have hwrite : hubByte s4 b = hubByte s3 b := by
      dsimp only [s4]
      rw [State.hubWrite, hubByte_writeAs_user, if_neg (by omega)]
    exact hwrite

/-- Where no row that the test names is open nothing is synthesised. -/
theorem synthRows_of_none {s : State} {want : TrigRec → Bool}
    (h : ∀ k ∈ (s.port p).trigs, want k = true → k.done = true ∨ s.height ≤ k.row) : s.synthRows p want = s := by
  have hno : (s.port p).trigs.filter (fun t => !t.done && decide (t.row < s.height) && want t) = [] := by
    refine List.filter_eq_nil_iff.2 fun k hk hopen => ?_
    simp only [Bool.and_eq_true, Bool.not_eq_true', decide_eq_true_eq] at hopen
    obtain ⟨⟨hdone, hrow⟩, hwant⟩ := hopen
    rcases h k hk hwant with hd | hr
    · rw [hd] at hdone
      exact Bool.noConfusion hdone
    · omega
  rw [State.synthRows, hno]
  rfl

/-- The triggers of a port with those of one row resolved. -/
def markDone (u : TrigRec) (l : List TrigRec) : List TrigRec :=
  l.map (fun t => if t.same u then { t with done := true, placed := true } else t)

theorem done_of_mem_markDone {u k : TrigRec} {l : List TrigRec} (hk : k ∈ markDone u l) (hsame : k.same u = true) :
    k.placed = true ∧ k.done = true := by
  obtain ⟨t, -, rfl⟩ := List.mem_map.1 hk
  by_cases h : t.same u = true
  · rw [if_pos h]
    exact ⟨rfl, rfl⟩
  · rw [if_neg h] at hsame
    exact absurd hsame h

/-- What placing a whole row leaves: nothing collected, the row's triggers resolved, NEXT behind the row, and of the hub only its tag
written. -/
structure Placed (p i : Nat) (u : TrigRec) (s t : State) : Prop where
  cur   : (t.port p).cur = none
  trigs : (t.port p).trigs = markDone u (s.port p).trigs
  next  : t.rf (Rf.SPK_RAWPOS_NEXT p) = max (s.rf (Rf.SPK_RAWPOS_NEXT p)) (i + 1) % 2 ^ (Rf.SPK_RAWPOS_NEXT p).width
  bytes : ∀ b, b < s.rawTagAt p i ∨ s.rawTagAt p i + 32 ≤ b → hubByte t b = hubByte s b

/-- A change of the bands' counts, and an event, keep that. -/
theorem Placed.raise {i : Nat} {u : TrigRec} {s t : State} (hp : p < 48) (h : Placed p i u s t) (n : Nat) (b : PortBand)
    (c a0 a1 a2 : Nat) : Placed p i u s ((t.setPband p n b).raise c a0 a1 a2) where
  cur := by
    rw [raise_port]
    exact (congrArg PortUnit.cur (look_put_self ..) :).trans h.cur
  trigs := by
    rw [raise_port]
    exact (congrArg PortUnit.trigs (look_put_self ..) :).trans h.trigs
  next := (rf_raise (key_ne_event (portKey_low hp 0x158 0)) ..).trans h.next
  bytes k hk := (hubByte_raise ..).trans (h.bytes k hk)

theorem closeRow_whole (hp : p < 48) {s : State} {c : CurRow} (hcur : (s.port p).cur = some c) (hbad : c.bad = false)
    (hgot : c.got = s.members p)
    (hfirst : ∀ k ∈ (s.port p).trigs, k.before c.trig = true → k.done = true ∨ s.height ≤ k.row) :
    Placed p (c.trig.band * s.height + c.trig.row) c.trig s (s.closeRow p) := by
  unfold State.closeRow
  split
  · next h => exact absurd (hcur.symm.trans h) (by simp)
  next c' hc' =>
  obtain rfl : c' = c := Option.some.inj (hc'.symm.trans hcur)
  extract_lets _ s1 t s2 s3 i whole flg s4 ss s5 new x s6 b
  have h1 : (s1.port p).cur = none ∧ (s1.port p).trigs = (s.port p).trigs :=
    ⟨(congrArg PortUnit.cur (look_put_self ..) :), (congrArg PortUnit.trigs (look_put_self ..) :)⟩
  have hrest1 : { s1 with ports := s.ports } = s := rfl
  have h2 : s2 = s1 := synthRows_of_none fun k hk hwant => hfirst k (h1.2 ▸ hk) hwant
  have hdone : s3 = s1.trigDone p t true := congrArg (fun u : State => u.trigDone p t true) h2
  clear_value s1 s2 s3
  have h3 : (s3.port p).cur = none ∧ (s3.port p).trigs = markDone t (s.port p).trigs := by
    rw [hdone]
    refine ⟨(congrArg PortUnit.cur (look_put_self ..) :).trans h1.1, ?_⟩
    exact (congrArg PortUnit.trigs (look_put_self ..) :).trans (congrArg (markDone t) h1.2)
  have hrest3 : { s3 with ports := s.ports } = s := by
    rw [hdone]
    exact hrest1
  have hwhole : whole = true := decide_eq_true (hgot.trans (congrArg (fun u : State => u.members p) hrest3 :).symm)
  have h4 : s4 = s3 := if_neg (by rw [hbad, hwhole]; simp)
  clear_value s4
  have hi : i = t.band * s.height + t.row := (congrArg (fun u : State => t.band * u.height + t.row) hrest3 :)
  have h6 : Placed p (t.band * s.height + t.row) t s s6 := by
    rw [← h4] at h3 hrest3
    obtain ⟨hcur5, htrigs5, hnext5, hbytes5⟩ : (s5.port p).cur = (s4.port p).cur ∧ (s5.port p).trigs = (s4.port p).trigs ∧
        s5.rf (Rf.SPK_RAWPOS_NEXT p) = max (s4.rf (Rf.SPK_RAWPOS_NEXT p)) (i + 1) % 2 ^ (Rf.SPK_RAWPOS_NEXT p).width ∧
        ∀ b, b < s4.rawTagAt p i ∨ s4.rawTagAt p i + 32 ≤ b → hubByte s5 b = hubByte s4 b := resolveRow_resolves hp s4 _
    clear_value s5
    have h6port : s6.port p = { s5.port p with lastSs := some new, cuts := cutsAfter t.lseq new (s5.port p).cuts } := look_put_self ..
    refine ⟨?_, ?_, ?_, fun k hk => ?_⟩
    · rw [h6port]
      exact hcur5.trans h3.1
    · rw [h6port]
      exact htrigs5.trans h3.2
    · have hnext : s4.rf (Rf.SPK_RAWPOS_NEXT p) = s.rf (Rf.SPK_RAWPOS_NEXT p) := (congrArg (fun u : State => u.rf _) hrest3 :)
      rw [← hi, ← hnext]
      exact hnext5
    · have htag : s4.rawTagAt p i = s.rawTagAt p i := (congrArg (fun u : State => u.rawTagAt p i) hrest3 :)
      have hhub : hubByte s4 k = hubByte s k := (congrArg (fun u : State => hubByte u k) hrest3 :)
      rw [← hi, ← htag] at hk
      rw [← hhub]
      exact hbytes5 k hk
  split
  · split
    · exact h6.raise hp _ _ _ _ _ _
    · exact h6
  · exact h6

end

end Sys2Proof.Machine
end

section
/-! SUPPORT. A good line whose row is open is placed (R168, R169). -/

namespace Sys2Proof.Machine

/-! ### What decides where a line goes -/

/-- `t` shows of port `p` what `s` does where a line is placed: the registers but LOAD and what an access of the hub moves, the bands,
the triggers and the row that is being collected. -/
structure Alike (p : Nat) (s t : State) : Prop where
  flds  : ∀ f : Fld, f.key ≠ (Rf.SPK_PSTAT_LOAD p).key → ¬ hubMoved f.key → t.rf f = s.rf f
  cad   : t.cad = s.cad
  trigs : (t.port p).trigs = (s.port p).trigs
  cur   : (t.port p).cur = (s.port p).cur

theorem highFld_ne_port {f g : Fld} {p : Nat} (hp : p < 48) (off lo : Nat) (hf : 0x230000 * 64 ≤ f.key := by decide)
    (hg : g.addr = 0x200000 + off + 0x1000 * p := by rfl) (hgb : g.lo = lo := by rfl) (hoff : off < 0x1000 := by decide)
    (hlo : lo < 64 := by decide) : f.key ≠ g.key := by
  have hkey : g.key = g.addr * 64 + g.lo := rfl
  omega

theorem not_hubMoved_of_below {f : Fld} (h : f.key < 0x700000 * 64) : ¬ hubMoved f.key := fun hm => absurd (le_of_hubMoved hm) (by omega)

section
variable {p : Nat} (hp : p < 48) {s t : State} (h : Alike p s t)
include h

/-- A field below the ports'. -/
theorem Alike.low {f : Fld} (hf : f.key < 0x200000 * 64 := by decide) : t.rf f = s.rf f :=
  h.flds f (lowFld_ne_port p 0x10 32 hf) (not_hubMoved_of_below (by omega))

theorem Alike.cadOn : t.cadOn = s.cadOn := congrArg (fun v : Nat => decide (v ≠ 0)) (h.low (f := Rf.CAD_GEAR_STATE))
theorem Alike.height : t.height = s.height := h.low

theorem Alike.bandRec (n : Nat) : t.bandRec n = s.bandRec n := by
  rw [State.bandRec, h.cad]
  rfl

theorem Alike.intakeDue (n : Nat) : t.intakeDue n = s.intakeDue n := by
  rw [State.intakeDue, h.bandRec, h.low (f := Rf.CAD_GEOM_TAIL_US)]
  rfl

theorem Alike.trigOf (n : Nat) : t.trigOf p n = s.trigOf p n := by
  rw [State.trigOf, h.trigs]
  rfl

include hp

/-- A field of the port's registers but LOAD. -/
theorem Alike.rf {f : Fld} (off lo : Nat) (haddr : f.addr = 0x200000 + off + 0x1000 * p := by rfl) (hbit : f.lo = lo := by rfl)
    (hne : off * 64 + lo ≠ 0x10 * 64 + 32 := by decide) (hoff : off < 0x1000 := by decide) (hlo : lo < 64 := by decide) :
    t.rf f = s.rf f :=
  h.flds f (portFld_ne p off lo 0x10 32 haddr hbit (hg := by rfl) (hgb := by rfl) (h := hne))
    (not_hubMoved_of_below (portKey_low hp off lo haddr hbit hoff hlo))

theorem Alike.width : t.width p = s.width p := congrArg (· + 1) (h.rf hp (f := Rf.SPK_FMT_WIDTH p) 0x100 8)
theorem Alike.sampleBits : t.sampleBits p = s.sampleBits p := h.rf hp 0x100 0

theorem Alike.members : t.members p = s.members p := by
  rw [State.members, State.expos, State.planes, State.bit, State.bit, h.rf hp (f := Rf.SPK_FMT_EXPOS p) 0x100 5,
    h.rf hp (f := Rf.SPK_FMT_COLOUR p) 0x100 6]
  rfl

theorem Alike.rawAt (i m : Nat) : t.rawAt p i m = s.rawAt p i m := by
  rw [State.rawAt, State.rawLines, State.packedLine, h.members hp, h.width hp, h.rf hp (f := Rf.SPK_RAW_BASE p) 0x110 0,
    h.rf hp (f := Rf.SPK_RAWN_LINES p) 0x118 0, h.rf hp (f := Rf.SPK_FMT_BITS p) 0x100 0]
  rfl

theorem Alike.rawTagAt (i : Nat) : t.rawTagAt p i = s.rawTagAt p i := by
  rw [State.rawTagAt, State.rawLines, h.rf hp (f := Rf.SPK_RAWTAG_BASE p) 0x120 0, h.rf hp (f := Rf.SPK_RAWN_LINES p) 0x118 0]
  rfl

theorem Alike.capacity : t.capacity = s.capacity := by
  have hkept {f : Fld} (hhigh : 0x230000 * 64 ≤ f.key) (hm : ¬ hubMoved f.key) : t.rf f = s.rf f :=
    h.flds f (highFld_ne_port hp 0x10 32 hhigh) hm
  rw [State.capacity, State.capGib, State.relocating, State.bit, State.bit, State.bit,
    hkept (f := Rf.HUB_STAT_RETIRED) (by decide) (not_hubMoved_of_low (by decide) (by decide)),
    hkept (f := Rf.HUB_MIGSTAT_ACTIVE) (by decide) (not_hubMoved_of_low (by decide) (by decide)),
    hkept (f := Rf.HUB_MIGSTAT_RELOC) (by decide) (not_hubMoved_of_low (by decide) (by decide)),
    hkept (f := Rf.HUB_STAT_SPARES) (by decide) (not_hubMoved_of_low (by decide) (by decide)),
    hkept (f := Rf.HUB_CFG_RESV) (by decide) (not_hubMoved_of_low (by decide) (by decide))]
  rfl

end

/-- Line `l` is good, whole, and the only one of the row of trigger `u`, which is open, with every earlier row resolved; its band is
not past Intake at count `c`, and its bytes and the row's tag lie apart in the hub. -/
structure Placeable (p c : Nat) (u : TrigRec) (l : LineIn) (s : State) : Prop where
  on     : s.cadOn = true
  trig   : s.trigOf p l.lseq = some u
  band   : (s.bandRec u.band).isSome = true
  due    : ∀ d, s.intakeDue u.band = some d → c ≤ d
  row    : u.row < s.height
  fresh  : u.placed = false
  waits  : u.done = false
  cur    : (s.port p).cur = none
  single : s.members p = 1
  expo   : l.expo = 0
  plane  : l.plane = 0
  good   : l.good = true
  whole  : l.npix + 1 = s.width p
  earlier : ∀ k ∈ (s.port p).trigs, k.before u = true → k.done = true ∨ s.height ≤ k.row
  lo     : userBase ≤ s.rawAt p (u.band * s.height + u.row) 0
  hi     : s.rawAt p (u.band * s.height + u.row) 0 + (s.width p * s.sampleBits p + 7) / 8 ≤ s.capacity
  apart  : s.rawTagAt p (u.band * s.height + u.row) + 32 ≤ s.rawAt p (u.band * s.height + u.row) 0 ∨
    s.rawAt p (u.band * s.height + u.row) 0 + (s.width p * s.sampleBits p + 7) / 8 ≤ s.rawTagAt p (u.band * s.height + u.row)

theorem Placeable.alike {p c : Nat} (hp : p < 48) {u : TrigRec} {l : LineIn} {s t : State} (h : Placeable p c u l s)
    (ht : Alike p s t) : Placeable p c u l t where
  on := ht.cadOn.trans h.on
  trig := (ht.trigOf _).trans h.trig
  band := by rw [ht.bandRec]; exact h.band
  due := by rw [ht.intakeDue]; exact h.due
  row := by rw [ht.height]; exact h.row
  fresh := h.fresh
  waits := h.waits
  cur := ht.cur.trans h.cur
  single := (ht.members hp).trans h.single
  expo := h.expo
  plane := h.plane
  good := h.good
  whole := h.whole.trans (ht.width hp).symm
  earlier := by rw [ht.trigs, ht.height]; exact h.earlier
  lo := by rw [ht.height, ht.rawAt hp]; exact h.lo
  hi := by rw [ht.height, ht.rawAt hp, ht.width hp, ht.sampleBits hp, ht.capacity hp]; exact h.hi
  apart := by rw [ht.height, ht.rawAt hp, ht.rawTagAt hp, ht.width hp, ht.sampleBits hp]; exact h.apart

/-- What placing the line leaves: the row resolved, and its samples in the raw ring. -/
structure Lies (p : Nat) (u : TrigRec) (l : LineIn) (s t : State) : Prop where
  cur   : (t.port p).cur = none
  trigs : (t.port p).trigs = markDone u (s.port p).trigs
  bad   : t.rf (Rf.SPK_PCNT_BADLINE p) = s.rf (Rf.SPK_PCNT_BADLINE p)
  next  : t.rf (Rf.SPK_RAWPOS_NEXT p) =
    max (s.rf (Rf.SPK_RAWPOS_NEXT p)) (u.band * s.height + u.row + 1) % 2 ^ (Rf.SPK_RAWPOS_NEXT p).width
  bytes : ∀ j < s.width p * s.sampleBits p / 8, hubByte t (s.rawAt p (u.band * s.height + u.row) 0 + j) =
    BitVec.ofNat 8 ((l.words.getD (j / 8) 0).toNat / 256 ^ (j % 8))

theorem Lies.alike {p : Nat} (hp : p < 48) {u : TrigRec} {l : LineIn} {r s t : State} (h : Lies p u l s t) (hs : Alike p r s) :
    Lies p u l r t where
  cur := h.cur
  trigs := h.trigs.trans (congrArg (markDone u) hs.trigs)
  bad := h.bad.trans (hs.rf hp 0x28 0)
  next := by rw [← hs.height, ← hs.rf hp (f := Rf.SPK_RAWPOS_NEXT p) 0x158 0]; exact h.next
  bytes := by rw [← hs.height, ← hs.rawAt hp, ← hs.width hp, ← hs.sampleBits hp]; exact h.bytes

/-! ### A line in its place -/

theorem closeRow_of_none {s : State} {p : Nat} (h : (s.port p).cur = none) : s.closeRow p = s := by
  unfold State.closeRow
  rw [h]

/-- A port of one member has one exposure and no planes. -/
theorem memberOf_single {s : State} {p : Nat} {l : LineIn} (h : s.members p = 1) (hexpo : l.expo = 0) (hplane : l.plane = 0) :
    s.memberOf p l = some 0 := by
  have hexpos : s.bit (Rf.SPK_FMT_EXPOS p) = false := by
    by_contra hbit
    have htwo : s.expos p = 2 := if_pos (Bool.of_not_eq_false hbit)
    have hpair : 2 * s.planes p = 1 := htwo ▸ h
    omega
  have hcolour : s.bit (Rf.SPK_FMT_COLOUR p) = false := by
    by_contra hbit
    have hthree : s.planes p = 3 := if_pos (Bool.of_not_eq_false hbit)
    have htriple : s.expos p * 3 = 1 := hthree ▸ h
    omega
  unfold State.memberOf
  rw [hexpos, hcolour, hexpo, hplane]
  simp

theorem writeMember_alike (s : State) (p i m bits : Nat) : Alike p s (s.writeMember p i m bits) := by
  have h : Intakes hubMoved p s (s.writeMember p i m bits) := .hubWrite (fun _ h => h) s _ _ _ _ _
  have hport : (s.writeMember p i m bits).port p = s.port p :=
    (congrArg (fun u : State => u.port p) (writeAs_accessed s false (hubClass false p) p _ _ _).rest :)
  exact ⟨fun f _ hf => h.links.rf hf, h.links.stands.cad, by rw [hport], by rw [hport]⟩

theorem placeLine_lies {p c : Nat} (hp : p < 48) {u : TrigRec} {l : LineIn} {s : State} (h : Placeable p c u l s) :
    Lies p u l s (s.placeLine p u l) := by
  unfold State.placeLine
  extract_lets same s1 x good s2 n w s3 len y _ s4
  have hsame : same = false := by
    dsimp only [same]
    rw [h.cur]
  have h1 : s1 = s := by
    dsimp only [s1]
    rw [hsame]
    exact closeRow_of_none h.cur
  have hx : x = ⟨u, 0, false, [], 0, 0, 0, false⟩ := by
    dsimp only [x]
    rw [h1, h.cur]
  have hgood : good = true := by
    dsimp only [good]
    rw [h.good, h1, memberOf_single h.single h.expo h.plane, hx]
    rfl
  have h2 : s2 = s := by
    dsimp only [s2]
    rw [h.good, hgood]
    exact h1
  have hn : n = s.width p := h.whole
  have h3 : s3 = s.writeMember p (u.band * s.height + u.row) 0 (s.fitLine p (s.width p) (lineBits l.words)) := by
    dsimp only [s3]
    rw [hgood, h2, hx, hn]
    rfl
  have halike : Alike p s s3 := h3 ▸ writeMember_alike s p _ 0 _
  have hbytes (j : Nat) (hj : j < s.width p * s.sampleBits p / 8) : hubByte s3 (s.rawAt p (u.band * s.height + u.row) 0 + j) =
      BitVec.ofNat 8 ((l.words.getD (j / 8) 0).toNat / 256 ^ (j % 8)) := h3 ▸ hubByte_writeMember h.lo h.hi hj
  obtain ⟨htrig, hbad, hgot⟩ : y.trig = u ∧ y.bad = false ∧ y.got = 1 := by
    dsimp only [y]
    rw [hx, hgood]
    exact ⟨rfl, rfl, rfl⟩
  have hport4 : s4.port p = { s3.port p with cur := some y } := look_put_self ..
  have htrigs4 : (s4.port p).trigs = (s.port p).trigs := by rw [hport4]; exact halike.trigs
  have hheight4 : s4.height = s.height := halike.height
  have hmembers4 : s4.members p = 1 := (halike.members hp).trans h.single
  have hplaced : Placed p (u.band * s.height + u.row) u s4 (s4.closeRow p) := by
    have hwhole := closeRow_whole hp (s := s4) (c := y) (by rw [hport4]) hbad (hgot.trans hmembers4.symm)
      (by rw [htrigs4, htrig, hheight4]; exact h.earlier)
    rw [htrig, hheight4] at hwhole
    exact hwhole
  rw [if_pos (hgot.trans hmembers4.symm)]
  have hbad4 : s4.rf (Rf.SPK_PCNT_BADLINE p) = s.rf (Rf.SPK_PCNT_BADLINE p) := halike.rf hp 0x28 0
  have hclosed : Intakes rowKey p s4 (s4.closeRow p) := closeRow_intakes hp (fun _ h => h) s4
  refine ⟨hplaced.cur, by rw [hplaced.trigs, htrigs4], (hclosed.links.rf (not_rowKey hp 0x28 0)).trans hbad4, ?_, fun j hj => ?_⟩
  · have hnext4 : s4.rf (Rf.SPK_RAWPOS_NEXT p) = s.rf (Rf.SPK_RAWPOS_NEXT p) := halike.rf hp 0x158 0
    rw [hplaced.next, hnext4]
  · have htag4 : s4.rawTagAt p (u.band * s.height + u.row) = s.rawTagAt p (u.band * s.height + u.row) := halike.rawTagAt hp _
    rw [hplaced.bytes _ (by rw [htag4]; have := h.apart; omega)]
    exact hbytes j hj

/-! ### A line reaches Intake -/

theorem Alike.refl (p : Nat) (s : State) : Alike p s s := ⟨fun _ _ _ => rfl, rfl, rfl, rfl⟩

theorem Alike.setPort {p : Nat} (s : State) {x : PortUnit} (htrigs : x.trigs = (s.port p).trigs) (hcur : x.cur = (s.port p).cur) :
    Alike p s (s.setPort p x) :=
  ⟨fun _ _ _ => rfl, rfl, (congrArg PortUnit.trigs (look_put_self ..) :).trans htrigs,
    (congrArg PortUnit.cur (look_put_self ..) :).trans hcur⟩

theorem Alike.trans {p : Nat} {r s t : State} (h1 : Alike p r s) (h2 : Alike p s t) : Alike p r t :=
  ⟨fun f hf hm => (h2.flds f hf hm).trans (h1.flds f hf hm), h2.cad.trans h1.cad, h2.trigs.trans h1.trigs, h2.cur.trans h1.cur⟩

/-- The first line of a group leaves what decides its place. -/
theorem groupArrives_alike (s : State) (p : Nat) (t : TrigRec) :
    Alike p s (s.groupArrives p t) ∧ (s.groupArrives p t).count = s.count := by
  unfold State.groupArrives
  split
  · extract_lets g x seen s1
    have h1 : Alike p s s1 := .setPort s rfl rfl
    split
    · exact ⟨.refl p s, rfl⟩
    · split
      · exact ⟨h1, rfl⟩
      · exact ⟨h1.trans (.setPort s1 (by rfl) (by rfl)), rfl⟩
  · exact ⟨.refl p s, rfl⟩

theorem handLine_lies {p c : Nat} (hp : p < 48) {u : TrigRec} {l : LineIn} {s : State} (hc : s.count = c) (h : Placeable p c u l s) :
    Lies p u l s (s.handLine p l) := by
  have hgroup : ∃ t, Alike p s t ∧ t.count = c ∧ s.handLine p l = t.lineIn p l := by
    unfold State.handLine
    rw [h.trig]
    dsimp only
    split
    · obtain ⟨halike, hcount⟩ := groupArrives_alike s p u
      exact ⟨_, halike, hcount.trans hc, rfl⟩
    · exact ⟨s, .refl p s, hc, rfl⟩
  obtain ⟨t, halike, hcount, hrun⟩ := hgroup
  have ht := h.alike hp halike
  have hpast : t.intakePast u.band = false := by
    unfold State.intakePast
    split
    · next d hd => exact decide_eq_false (by have := ht.due d hd; omega)
    · rw [← Bool.not_eq_true, Option.isNone_iff_eq_none, ← Option.not_isSome_iff_eq_none, ht.band]
      exact fun h => h rfl
  have hline : t.lineIn p l = t.placeLine p u l := by
    unfold State.lineIn
    rw [ht.on, ht.trig]
    dsimp only
    rw [if_neg (by decide), if_neg (by rw [ht.fresh]; have := ht.row; simp only [Bool.false_eq_true, or_false]; omega), hpast,
      if_neg Bool.false_ne_true, ht.waits, ht.cur]
    rfl
  rw [hrun, hline]
  exact (placeLine_lies hp ht).alike hp halike

/-- With no line distortion in force a good line goes straight to Intake. -/
theorem goodLine_undistorted {s : State} (h : s.rf Rf.TST_LINE_EN = 0) (p : Nat) (l : LineIn) : s.goodLine p l = s.handLine p l := by
  have hoff : s.distorts p = (false, s) := if_neg (fun hc => by rw [bit_of_zero h] at hc; exact Bool.false_ne_true hc.1)
  unfold State.goodLine
  rw [hoff]
  rfl

end Sys2Proof.Machine
end

section
/-! SUPPORT. Markers of a port of one lane, and a line that meets its timeout (R147, R153, R161). -/

namespace Sys2Proof.Machine

/-! ### Markers (R153) -/

theorem laneFor_of_one {s : State} {p l : Nat} (hlanes : s.lanesOf p = [l]) (hid : s.rf (Rf.SPK_LN_STAT_LANE_ID l) = 0)
    (hpresent : s.rf (Rf.SPK_LN_STAT_LOST l) = 0) : s.laneFor p 0 = some l := by
  rw [State.laneFor, hlanes, List.find?_cons_of_pos]
  rw [hid, bit_of_zero hpresent]
  rfl

theorem striping_of_one {s : State} {p l : Nat} (hstripe : s.stripe p = 1) (hfor : s.laneFor p 0 = some l) : s.striping p = [l] := by
  rw [State.striping, hstripe, show bitsSet 1 = [0] by decide, List.filterMap_cons_some hfor]
  rfl

/-- A marker column of a port of one lane passes. -/
theorem drain_column {s : State} {p l q : Nat} (hup : s.portUp p = true) (hlanes : s.lanesOf p = [l]) (hstriping : s.striping p = [l])
    (hrr : (s.port p).rr = 0) (hswitch : (s.port p).switch = none) (hfifo : (s.lane l).fifo = [.col q]) (n : Nat) :
    State.drain (n + 1) s p = (s.setLane l { s.lane l with fifo := [] }).setPort p { s.port p with amSeq := q } := by
  have hhead : s.columnHead [l] = some q := by
    unfold State.columnHead
    rw [List.findSome?_cons, hfifo]
  have hat : s.columnAt q [l] = true := by
    simp only [State.columnAt, List.all_cons, List.all_nil, Bool.and_true, hfifo]
    exact beq_self_eq_true _
  have hpop : s.popColumn [l] = s.setLane l { s.lane l with fifo := [] } := by
    show s.setLane l { s.lane l with fifo := (s.lane l).fifo.drop 1 } = _
    rw [hfifo]
    rfl
  have hpass : s.passColumn p q [l] = some ((s.setLane l { s.lane l with fifo := [] }).setPort p { s.port p with amSeq := q }) := by
    unfold State.passColumn
    dsimp only
    rw [hswitch, hpop]
    exact if_pos hat
  have htake : s.takeBlock p = some (none, (s.setLane l { s.lane l with fifo := [] }).setPort p { s.port p with amSeq := q }) := by
    unfold State.takeBlock
    dsimp only
    rw [filterMap_laneFor, hstriping, if_pos hrr, hhead]
    dsimp only
    rw [hpass]
    rfl
  conv_lhs => unfold State.drain
  rw [if_pos hup, htake]
  refine drain_of_none (takeBlock_of_empty fun k hk => ?_) n
  rw [show ((s.setLane l _).setPort p _).lanesOf p = s.lanesOf p from rfl, hlanes, List.mem_singleton] at hk
  rw [State.setPort_get_lane, State.setLane_get_lane, if_pos hk]

theorem portOf_of_pcfg {s t : State} (h : ∀ q < 48, ∀ f : Fld, f.addr = 0x200000 + 0x1000 * q → f.lo < 64 → t.rf f = s.rf f)
    (l : Nat) : t.portOf l = s.portOf l := by
  unfold State.portOf State.portOn State.bit State.laneBase State.laneCount
  refine List.find?_congr fun q hq => ?_
  have hq48 := List.mem_range.1 hq
  rw [h q hq48 (Rf.SPK_PCFG_ENABLE q) rfl (show 0 < 64 by decide), h q hq48 (Rf.SPK_PCFG_BASE q) rfl (show 8 < 64 by decide),
    h q hq48 (Rf.SPK_PCFG_WIDTH q) rfl (show 2 < 64 by decide)]

/-- The marker that is due on a lane in AM_LOCK enters the buffer as its column. -/
theorem amStep_due {s : State} {l w : Nat} (hlock : s.rf (Rf.SPK_LN_STAT_AMST l) = 2) (hidx : (s.lane l).idx + 1 = 4096)
    (hseq : amSeqOf w = ((s.lane l).seq + 1) % 65536) (hlane : amLane w = s.rf (Rf.SPK_LN_STAT_LANE_ID l)) (b : Blk) :
    s.amStep l b (some w) = (some (.col (amSeqOf w)), s.takeAm l w) := by
  simp only [State.amStep, hlock, decide_eq_true hidx]
  exact (if_pos trivial).trans (if_pos ⟨hseq, hlane⟩)

theorem single_of_laned {s t : State} {p l : Nat} {y : LaneSt} (h : SingleLane s p l) (ht : Laned l y s t) (hy : y.fifo = []) :
    SingleLane t p l := by
  have hfifo : (t.lane l).fifo = [] := by rw [ht.lane, hy]
  have hup : t.portUp p = s.portUp p := (congrArg (fun u : State => u.portUp p) ht.rest :)
  have hstripe : t.stripe p = s.stripe p := (congrArg (fun u : State => u.stripe p) ht.rest :)
  have hlock : t.locked l = s.locked l := (congrArg (fun u : State => u.locked l) ht.rest :)
  unfold SingleLane NoAlteration at *
  rw [ht.portOf, hup, hstripe, hlock, ht.rf, ht.rf, ht.rf, ht.port, hfifo]
  simp only [ht.rf]
  obtain ⟨h1, h2, h3, h4, h5, h6, h7, -, h9⟩ := h
  exact ⟨h1, h2, h3, h4, h5, h6, h7, trivial, h9⟩

/-- A marker of port lane 0 leaves the only lane of a port what it was, and numbers its place. -/
structure Numbered (p l : Nat) (s t : State) : Prop where
  striping : Striping t p l
  lanes    : t.lanesOf p = [l]
  carrier  : t.laneFor p 0 = some l
  stripe   : t.stripe p = 1
  port     : t.port p = s.port p
  idx      : (t.lane l).idx = 0
  miss     : (t.lane l).miss = 0
  fifo     : (t.lane l).fifo = []
  amerr    : t.rf (Rf.SPK_LN_CNT_AMERR l) = s.rf (Rf.SPK_LN_CNT_AMERR l)

theorem takeAm_numbers {s : State} {p l w : Nat} (hs : SingleLane s p l) (hlane : amLane w = 0) : Numbered p l s (s.takeAm l w) := by
  have hstr := striping_of_single hs
  have hlanes := lanesOf_of_single hs
  obtain ⟨hport, -, -, hstripe, -, -, hpresent, hfifo, -⟩ := hs
  have hp := (mem_lanesOf_of_portOf hport).1
  generalize hz : s.takeAm l w = z
  have hrf {f : Fld} (hf : f.key ≠ (Rf.SPK_LN_STAT_LANE_ID l).key) : z.rf f = s.rf f := by
    rw [← hz, State.takeAm, State.rf_setrf _ _ _ _ hf, State.setLane_get_rf]
  have hpcfg : ∀ q < 48, ∀ f : Fld, f.addr = 0x200000 + 0x1000 * q → f.lo < 64 → z.rf f = s.rf f := fun q hq f haddr hlo =>
    hrf (laneFld_ne_port (f := Rf.SPK_LN_STAT_LANE_ID l) (g := f) l hq 0 4 0 f.lo (hg := haddr) (hgb := rfl) (h := by omega)).symm
  have hid : z.rf (Rf.SPK_LN_STAT_LANE_ID l) = 0 := by
    rw [← hz, State.takeAm, State.rf_setrf_self, hlane]
    rfl
  have hup : z.portUp p = true := by
    rw [← hstr.up, State.portUp, State.portState,
      hrf (laneFld_ne_port (f := Rf.SPK_LN_STAT_LANE_ID l) (g := Rf.SPK_PSTAT_STATE p) l hp 0 4 0x10 0).symm]
    rfl
  have hzstripe : z.stripe p = 1 := (hrf
    (laneFld_ne_port (f := Rf.SPK_LN_STAT_LANE_ID l) (g := Rf.SPK_PSTAT_STRIPE p) l hp 0 4 0x10 8).symm).trans hstripe
  have hzpresent : z.rf (Rf.SPK_LN_STAT_LOST l) = 0 := (hrf (laneFld_ne l 0 7 0 4)).trans hpresent
  have hzlanes : z.lanesOf p = [l] := by
    rw [← hlanes, State.lanesOf, State.laneBase, State.laneCount, hpcfg p hp (Rf.SPK_PCFG_BASE p) rfl (show 8 < 64 by decide),
      hpcfg p hp (Rf.SPK_PCFG_WIDTH p) rfl (show 2 < 64 by decide)]
    rfl
  have hlocked : z.locked l = true := by
    rw [State.locked, hrf (laneFld_ne l 0 0 0 4), hrf (laneFld_ne l 0 2 0 4), hstr.blk, hstr.amst]
    rfl
  have hzlane : z.lane l = { s.lane l with idx := 0, seq := amSeqOf w, mask := amMask w, miss := 0, amAt := s.count } := by
    rw [← hz, State.takeAm, State.setrf_get_lane, State.setLane_get_lane, if_pos rfl]
  exact
    { striping := ⟨(portOf_of_pcfg hpcfg l).trans hport, hup, hlocked, hzpresent, by rw [hzstripe, hid]; decide⟩
      lanes := hzlanes
      carrier := laneFor_of_one hzlanes hid hzpresent
      stripe := hzstripe
      port := by rw [← hz]; rfl
      idx := by rw [hzlane]
      miss := by rw [hzlane]
      fifo := by rw [hzlane]; exact hfifo
      amerr := hrf (laneFld_ne l 0x10 32 0 4) }

/-- The marker that is due on the only lane of a port passes as a column. -/
theorem placed_marker {s : State} {p l w : Nat} (hs : SingleLane s p l) (hidx : (s.lane l).idx + 1 = 4096) (hlane : amLane w = 0)
    (hseq : amSeqOf w = ((s.lane l).seq + 1) % 65536) (hswitch : (s.port p).switch = none) (b : Blk) :
    ((s.placed p l b (some w)).port p).amSeq = amSeqOf w ∧ ((s.placed p l b (some w)).lane l).idx = 0 ∧
      ((s.placed p l b (some w)).lane l).miss = 0 ∧
      (s.placed p l b (some w)).rf (Rf.SPK_LN_CNT_AMERR l) = s.rf (Rf.SPK_LN_CNT_AMERR l) := by
  have hnum := takeAm_numbers hs hlane
  have hstr := striping_of_single hs
  obtain ⟨-, -, -, -, -, hid, -, -, hrr, -⟩ := hs
  have hstep := amStep_due hstr.amst hidx hseq (hlane.trans hid.symm) b
  generalize s.takeAm l w = z at hnum hstep
  have henter := enter_striping hnum.striping (by rw [LaneSt.filled, hnum.fifo]; decide) (.col (amSeqOf w))
  have hyz : Laned l { z.lane l with fifo := (z.lane l).fifo ++ [.col (amSeqOf w)] } z _ := .setLane z l _
  generalize z.setLane l { z.lane l with fifo := (z.lane l).fifo ++ [.col (amSeqOf w)] } = y at henter hyz
  have hyport : y.port p = s.port p := (hyz.port p).trans hnum.port
  have hpass := drain_column (q := amSeqOf w) (hnum.striping.of_laned hyz).up
    ((congrArg (fun x : State => x.lanesOf p) hyz.rest :).trans hnum.lanes)
    (striping_of_one ((congrArg (fun x : State => x.stripe p) hyz.rest :).trans hnum.stripe)
      ((congrArg (fun x : State => x.laneFor p 0) hyz.rest :).trans hnum.carrier))
    (by rw [hyport, hrr]) (by rw [hyport, hswitch]) (by rw [hyz.lane, hnum.fifo]; rfl) 2047
  have hrun : s.placed p l b (some w) = (y.setLane l { y.lane l with fifo := [] }).setPort p { y.port p with amSeq := amSeqOf w } := by
    unfold State.placed
    dsimp only
    rw [hstep]
    rw [henter, tryUp_of_up (hnum.striping.of_laned hyz).up, hpass]
  rw [hrun, State.setPort_get_port, if_pos rfl, State.setPort_get_lane, State.setLane_get_lane, if_pos rfl, State.setPort_get_rf,
    State.setLane_get_rf, hyz.rf, hyz.lane]
  exact ⟨rfl, hnum.idx, hnum.miss, hnum.amerr⟩

/-- A marker in its place numbers its column. -/
theorem marker_numbers {l : Fin 192} {p date : Nat} {w : BitVec 64} {s : State} (hs : SingleLane s p l)
    (hline : LineFresh s p (max s.count date)) (hidx : (s.lane l).idx + 1 = 4096) (hgood : ctlGood w.toNat = true)
    (ham : w.toNat % 256 = 0x2D) (hlane : w.toNat / 2 ^ 8 % 8 = 0) (hswitch : (s.port p).switch = none)
    (hseq : w.toNat / 2 ^ 24 % 2 ^ 16 = ((s.lane l).seq + 1) % 2 ^ 16) : Gives (.am l w date) s (fun t =>
      (t.port p).amSeq = w.toNat / 2 ^ 24 % 2 ^ 16 ∧ (t.lane l).idx = 0 ∧ (t.lane l).miss = 0 ∧
      t.rf (Rf.SPK_LN_CNT_AMERR l) = s.rf (Rf.SPK_LN_CNT_AMERR l)) := by
  have hstr := striping_of_single hs
  obtain ⟨-, -, -, -, -, -, -, hfifo, -, -, halt⟩ := id hs
  obtain ⟨u, hu, -, hblock⟩ := block_of_fresh hstr.port halt hline true w
  obtain ⟨v, hv, -, -, hmark, -⟩ := receive_locked ((hu.portOf _).trans hstr.port) ((hu.rf _).trans hstr.blk)
  have hsv := single_of_laned (single_of_laned hs hu hfifo) hv (by rw [hu.lane]; exact hfifo)
  have hvidx : (v.lane l).idx + 1 = 4096 := by rw [hv.lane, hu.lane]; exact hidx
  have hvseq : (v.lane l).seq = (s.lane l).seq := by rw [hv.lane, hu.lane]; rfl
  obtain ⟨hamseq, hnew, hmiss, herr⟩ := placed_marker hsv hvidx (w := w.toNat) hlane (by rw [hvseq]; exact hseq)
    (by rw [hv.port, hu.port, hswitch]) .void
  refine ⟨_, ?_, hamseq, hnew, hmiss, herr.trans ((hv.rf _).trans (hu.rf _))⟩
  rw [exec_ctl w date hstr.port (i := .am l w date) (by simp [blockInstrs])]
  exact congrArg Host.Outcome.next (hblock.trans (hmark w hgood ham))

end Sys2Proof.Machine
end

section
/-! SUPPORT. The port stream (R142 to R169) on one lane and on several. -/

namespace Sys2Proof.Machine

/-! ### A line that has met its timeout (R147) -/

theorem timed_of_expired {s : State} {p date : Nat} {o : OpenLine} (ho : (s.port p).line = some o)
    (hdue : o.since + s.rf (Rf.SPK_PTMO_LINE_TMO_US p) * 1250 ≤ max s.count date) (hstop : s.cadOn = false) :
    s.timed p date = (((s.advanceTo date).setPort p { s.port p with line := none }).bump (Rf.SPK_PCNT_BADLINE p)).bump
      (Rf.SPK_PCNT_LTMO p) := by
  have ho' : ((s.advanceTo date).port p).line = some o := ho
  unfold State.timed State.expireLine
  rw [ho']
  refine (if_pos hdue).trans ?_
  rw [State.timeLine, closeBad_of_stopped ho' hstop]
  rfl

/-- Fields of the ports at other places than two counters are not moved by them. -/
theorem single_of_counted {s t : State} {p l : Nat} (h : SingleLane s p l) (hp : p < 48) (hlanes : t.lanes = s.lanes)
    (hport : (t.port p).rr = (s.port p).rr ∧ (t.port p).discard = (s.port p).discard)
    (hflds : ∀ f : Fld, f.key ≠ (Rf.SPK_PCNT_BADLINE p).key → f.key ≠ (Rf.SPK_PCNT_LTMO p).key → t.rf f = s.rf f) :
    SingleLane t p l := by
  have hlane {f : Fld} (off lo : Nat) (haddr : f.addr = 0x300000 + off + 0x100 * l) (hbit : f.lo = lo) : t.rf f = s.rf f :=
    hflds f (laneFld_ne_port l hp off lo 0x28 0 haddr hbit) (laneFld_ne_port l hp off lo 0x28 32 haddr hbit)
  have hpcfg : ∀ q < 48, ∀ f : Fld, f.addr = 0x200000 + 0x1000 * q → f.lo < 64 → t.rf f = s.rf f := by
    intro q hq f haddr hlo
    have hkey : f.key = f.addr * 64 + f.lo := rfl
    have hbad : (Rf.SPK_PCNT_BADLINE p).key = (0x200028 + 0x1000 * p) * 64 + 0 := rfl
    have htmo : (Rf.SPK_PCNT_LTMO p).key = (0x200028 + 0x1000 * p) * 64 + 32 := rfl
    exact hflds f (by omega) (by omega)
  have hstat {f : Fld} (lo : Nat) (haddr : f.addr = 0x200000 + 0x10 + 0x1000 * p) (hbit : f.lo = lo) (hlo : lo < 64) :
      t.rf f = s.rf f :=
    hflds f (portFld_ne p 0x10 lo 0x28 0 haddr hbit (h := by omega)) (portFld_ne p 0x10 lo 0x28 32 haddr hbit (h := by omega))
  have hfifo : t.lane l = s.lane l := by rw [State.lane, hlanes]; rfl
  have hstate : t.portState p = s.portState p := hstat (f := Rf.SPK_PSTAT_STATE p) 0 rfl rfl (by decide)
  have hstripe : t.stripe p = s.stripe p := hstat (f := Rf.SPK_PSTAT_STRIPE p) 8 rfl rfl (by decide)
  unfold SingleLane State.portUp State.locked at *
  rw [portOf_of_pcfg hpcfg, hstate, hpcfg p hp (Rf.SPK_PCFG_WIDTH p) rfl (show 2 < 64 by decide), hstripe,
    hlane (f := Rf.SPK_LN_STAT_BLK l) 0 0 rfl rfl, hlane (f := Rf.SPK_LN_STAT_AMST l) 0 2 rfl rfl,
    hlane (f := Rf.SPK_LN_STAT_LANE_ID l) 0 4 rfl rfl, hlane (f := Rf.SPK_LN_STAT_LOST l) 0 7 rfl rfl, hfifo, hport.1, hport.2]
  obtain ⟨h1, h2, h3, h4, h5, h6, h7, h8, h9, h10, halt⟩ := h
  refine ⟨h1, h2, h3, h4, h5, h6, h7, h8, h9, h10, fun i hi => ?_⟩
  have hhigh : 0x230000 * 64 ≤ (Rf.TST_LANE_EN i).key := by
    show 0x230000 * 64 ≤ (0xF00080 + 0x8 * i) * 64 + 16
    omega
  rw [hflds _ (highFld_ne_port hp 0x28 0 hhigh) (highFld_ne_port hp 0x28 32 hhigh)]
  exact halt i hi

section
variable {l : Fin 192} {p date : Nat} {w : BitVec 64} {s : State} (hs : SingleLane s p l)
include hs

/-- A block that comes once the open line has met its timeout finds it closed. -/
theorem data_expired {o : OpenLine} (ho : (s.port p).line = some o)
    (hdue : o.since + s.rf (Rf.SPK_PTMO_LINE_TMO_US p) * 1250 ≤ max s.count date) (hstop : s.cadOn = false)
    (hidx : (s.lane l).idx + 1 ≠ 4096) : Gives (.dataBlock l w date) s (fun t => (t.port p).line = none ∧
      Counted (Rf.SPK_PCNT_LTMO p) s t ∧ Counted (Rf.SPK_PCNT_BADLINE p) s t ∧ Counted (Rf.SPK_PCNT_ORPHAN p) s t) := by
  have hport := (striping_of_single hs).port
  have hp := (mem_lanesOf_of_portOf hport).1
  have htimed := timed_of_expired ho hdue hstop
  generalize hx : s.timed p date = x at htimed
  have hxport : x.port p = { s.port p with line := none } := htimed ▸ look_put_self ..
  have hxrf {f : Fld} (hbad : f.key ≠ (Rf.SPK_PCNT_BADLINE p).key) (htmo : f.key ≠ (Rf.SPK_PCNT_LTMO p).key) : x.rf f = s.rf f := by
    rw [htimed, rf_bump _ _ _ _ htmo, rf_bump _ _ _ _ hbad]
    rfl
  have hxbad : Counted (Rf.SPK_PCNT_BADLINE p) s x := by
    unfold Counted
    rw [htimed, rf_bump _ _ _ _ (portFld_ne p 0x28 0 0x28 32), rf_bump_self]
    rfl
  have hxtmo : Counted (Rf.SPK_PCNT_LTMO p) s x := by
    unfold Counted
    rw [htimed, rf_bump_self, rf_bump _ _ _ _ (portFld_ne p 0x28 32 0x28 0)]
    rfl
  have hxs : SingleLane x p l := single_of_counted hs hp (by rw [htimed]; rfl) (by rw [hxport]; exact ⟨rfl, rfl⟩)
    (fun f => hxrf)
  have hxidx : (x.lane l).idx + 1 ≠ 4096 := by rw [htimed]; exact hidx
  obtain ⟨v, a, hv, hcount, hrun⟩ := single_block (ctl := false) (w := w) (date := date) hport (hx ▸ hxs) (hx ▸ hxidx)
    (fun h => absurd h (by decide))
  rw [hx] at hv hcount
  obtain ⟨-, -, -, -, -, -, -, -, -, hdiscard, -⟩ := hxs
  have hjudge := Judges.of_turns hv hcount
  obtain ⟨rr, al, ms, cnt, hjport⟩ := hjudge.port
  have hblock : v.portBlock p (.data w) = (v.countLoad p).bump (Rf.SPK_PCNT_ORPHAN p) := by
    rw [portBlock_data (by rw [hv.port]; exact hdiscard), takeData_orphan (by rw [hjport, hxport]; rfl)]
  refine ⟨v.portBlock p (.data w), ?_, ?_, ?_, ?_, ?_⟩
  · rw [exec_blockInstr hport (i := (.dataBlock l w date, false)) (List.mem_cons_self ..)]
    exact congrArg Host.Outcome.next hrun
  · rw [hblock, State.bump, State.setrf_get_port, hjport, hxport]
    rfl
  · unfold Counted
    rw [hblock, rf_bump _ _ _ _ (portFld_ne p 0x28 32 0x28 48), hjudge.rf 0x28 32]
    exact hxtmo
  · unfold Counted
    rw [hblock, rf_bump _ _ _ _ (portFld_ne p 0x28 0 0x28 48), hjudge.rf 0x28 0]
    exact hxbad
  · unfold Counted
    rw [hblock, rf_bump_self, hjudge.rf 0x28 48, hxrf (portFld_ne p 0x28 48 0x28 0) (portFld_ne p 0x28 48 0x28 32)]

section
variable (hline : LineFresh s p (max s.count date)) (hidx : (s.lane l).idx + 1 ≠ 4096)
include hline hidx

/-! ### Data blocks, FILL and LS -/

theorem data_orphaned (h : (s.port p).line = none) : Gives (.dataBlock l w date) s (Counted (Rf.SPK_PCNT_ORPHAN p) s) := by
  obtain ⟨c, hc, hrun⟩ := single_data (w := w) hs hline hidx
  obtain ⟨rr, a, ms, cnt, hport⟩ := hc.port
  refine ⟨_, hrun, ?_⟩
  rw [takeData_orphan (by rw [hport]; exact h)]
  exact counted_of_eq (hc.rf 0x28 48) (counted_bump _ _)

theorem data_extends {o : OpenLine} (h : (s.port p).line = some o) (hroom : o.words.length < (65536 * s.sampleBits p + 63) / 64) :
    Gives (.dataBlock l w date) s (fun t => (t.port p).line = some { o with words := w :: o.words } ∧ t.hub = s.hub) := by
  obtain ⟨c, hc, hrun⟩ := single_data (w := w) hs hline hidx
  obtain ⟨rr, a, ms, cnt, hport⟩ := hc.port
  refine ⟨_, hrun, ?_⟩
  rw [takeData_open (o := o) (by rw [hport]; exact h) (by rw [State.sampleBits, hc.rf 0x100 0]; exact hroom)]
  exact ⟨(congrArg PortUnit.line (look_put_self ..) :), hc.hub⟩

variable (hgood : ctlGood w.toNat = true)
include hgood

theorem fill_carries_nothing (hw : w.toNat % 256 = 0x1E) : Gives (.fill l w date) s (fun t => t.regs = s.regs ∧
    (t.port p).line = (s.port p).line ∧ t.hub = s.hub ∧ t.evq = s.evq) := by
  obtain ⟨v, a, hv, hrun⟩ := single_fill hs hline hidx hgood hw
  exact ⟨v, hrun, hv.regs, by rw [hv.port], hv.hub, hv.evq⟩

/-- A control block of the camera on the only lane of a port. -/
theorem single_taken {i : Instr} {k : Nat} (hi : (i, true) ∈ blockInstrs l w date) (hw : w.toNat % 256 = k) (hk : k ∈ cameraTypes)
    {P : State → Prop} (hP : ∀ c, Judges p (max s.count date) s c → P (c.takeCtl p w.toNat)) : Gives i s P := by
  obtain ⟨c, hc, hrun⟩ := single_ctl hs hline hidx hi hgood (hw ▸ hk)
  exact ⟨_, hrun, hP c hc⟩

theorem ls_opens (hw : w.toNat % 256 = 0x33) : Gives (.ls l w date) s (fun t =>
    (t.port p).line = some ⟨w.toNat / 2 ^ 8 % 2 ^ 32, w.toNat / 2 ^ 40 % 2 ^ 8, w.toNat / 2 ^ 48 % 4, w.toNat / 2 ^ 50 % 4, [], false,
      max s.count date⟩ ∧ ((s.port p).line.isSome = true → Counted (Rf.SPK_PCNT_NOEND p) s t)) := by
  have hp := (mem_lanesOf_of_portOf (striping_of_single hs).port).1
  refine single_taken hs hline hidx hgood (by simp [blockInstrs]) hw (by decide) fun c hc => ?_
  obtain ⟨rr, a, ms, cnt, hport⟩ := hc.port
  rw [takeCtl_ls hw c p]
  refine ⟨by rw [takeLs_line hp, hc.count], fun hsome => ?_⟩
  obtain ⟨o, ho⟩ := Option.isSome_iff_exists.1 hsome
  exact counted_of_eq (hc.rf 0x28 16) (takeLs_noend hp (by rw [hport]; exact ho) _)

/-! ### LE -/

theorem le_orphaned (hw : w.toNat % 256 = 0x4B) (h : (s.port p).line = none) :
    Gives (.le l w date) s (Counted (Rf.SPK_PCNT_ORPHAN p) s) := by
  refine single_taken hs hline hidx hgood (by simp [blockInstrs]) hw (by decide) fun c hc => ?_
  obtain ⟨rr, a, ms, cnt, hport⟩ := hc.port
  rw [takeCtl_le hw c p]
  exact counted_of_eq (hc.rf 0x28 48) (takeLe_orphan (by rw [hport]; exact h) _)

section
variable {o : OpenLine} (ho : (s.port p).line = some o)
include ho

theorem le_ends (hw : w.toNat % 256 = 0x4B) : Gives (.le l w date) s (fun t => (t.port p).line = none ∧
    (o.excess = true ∨ o.words.length ≠ ((w.toNat / 2 ^ 8 % 2 ^ 16 + 1) * s.sampleBits p + 63) / 64 → s.cadOn = false →
      Counted (Rf.SPK_PCNT_BADLINE p) s t)) := by
  have hp := (mem_lanesOf_of_portOf (striping_of_single hs).port).1
  refine single_taken hs hline hidx hgood (by simp [blockInstrs]) hw (by decide) fun c hc => ?_
  obtain ⟨rr, a, ms, cnt, hport⟩ := hc.port
  have hco : (c.port p).line = some o := by rw [hport]; exact ho
  rw [takeCtl_le hw c p]
  refine ⟨takeLe_line hp hco _, fun hbad hstop => ?_⟩
  refine counted_of_eq (hc.rf 0x28 0) (takeLe_counted hco ?_ (hc.cadOn.trans hstop))
  rw [State.sampleBits, hc.rf 0x100 0]
  rintro ⟨hexcess, hlen, -⟩
  rcases hbad with hb | hb
  · rw [hexcess] at hb
    exact Bool.noConfusion hb
  · exact hb hlen

/-- The state in which a good line is handed on. -/
theorem le_good (hw : w.toNat % 256 = 0x4B) (hends : o.endsGood w.toNat ((w.toNat / 2 ^ 8 % 2 ^ 16 + 1) * s.sampleBits p))
    {P : State → Prop} (hP : ∀ g : State, Alike p s g → g.count = max s.count date → g.hub = s.hub →
      (∀ f : Fld, f.key ≠ (Rf.SPK_PSTAT_LOAD p).key → g.rf f = s.rf f) → (g.port p).line = none →
      (g.port p).rows = (s.port p).rows →
      P (g.goodLine p (o.goodIn w.toNat))) : Gives (.le l w date) s P := by
  refine single_taken hs hline hidx hgood (by simp [blockInstrs]) hw (by decide) fun c hc => ?_
  obtain ⟨rr, a, ms, cnt, hport⟩ := hc.port
  have hco : (c.port p).line = some o := by rw [hport]; exact ho
  rw [takeCtl_le hw c p, takeLe_good hco (by rw [State.sampleBits, hc.rf 0x100 0]; exact hends)]
  have hheard : (c.cameraHeard p).port p = { c.port p with traffic := c.count } := look_put_self ..
  have hgport : ((c.cameraHeard p).setPort p { (c.cameraHeard p).port p with line := none }).port p =
      { c.port p with traffic := c.count, line := none } := by
    rw [State.setPort_get_port, if_pos rfl, hheard]
  refine hP _ ⟨fun f hf _ => hc.flds f hf, hc.cad, ?_, ?_⟩ hc.count hc.hub (fun f hf => hc.flds f hf) ?_ ?_ <;> rw [hgport]
  · exact (congrArg PortUnit.trigs hport :)
  · exact (congrArg PortUnit.cur hport :)
  · exact (congrArg PortUnit.rows hport :)

/-- While the cadence unit is stopped a good line changes nothing. -/
theorem le_good_stopped (hw : w.toNat % 256 = 0x4B)
    (hends : o.endsGood w.toNat ((w.toNat / 2 ^ 8 % 2 ^ 16 + 1) * s.sampleBits p)) (hstop : s.cadOn = false) :
    Gives (.le l w date) s (fun t => ((t.port p).line = none ∧ t.rf (Rf.SPK_PCNT_BADLINE p) = s.rf (Rf.SPK_PCNT_BADLINE p)) ∧
      t.hub = s.hub ∧ (t.port p).rows = (s.port p).rows ∧ (t.port p).trigs = (s.port p).trigs) := by
  have hp := (mem_lanesOf_of_portOf (striping_of_single hs).port).1
  refine le_good hs hline hidx hgood ho hw hends fun g halike _ hhub hflds hnone hrows => ?_
  obtain ⟨hports, hdhub⟩ := distorts_kept (p := p) g
  have hport : (g.distorts p).2.port p = g.port p := by rw [State.port, hports]; rfl
  have hbad : (g.distorts p).2.rf (Rf.SPK_PCNT_BADLINE p) = g.rf (Rf.SPK_PCNT_BADLINE p) :=
    (distorts_intakes (p := p) (fun _ h => h) g).links.rf (not_rowKey hp 0x28 0)
  rw [goodLine_of_stopped (halike.cadOn.trans hstop), hport, hbad, hdhub]
  exact ⟨⟨hnone, hflds _ (portFld_ne p 0x28 0 0x10 32)⟩, hhub, hrows, halike.trigs⟩

/-- A good line whose row is open is placed: its samples lie in the raw ring in the row of its trigger. -/
theorem le_good_placed (hw : w.toNat % 256 = 0x4B)
    (hends : o.endsGood w.toNat ((w.toNat / 2 ^ 8 % 2 ^ 16 + 1) * s.sampleBits p)) (htest : s.rf Rf.TST_LINE_EN = 0) {u : TrigRec}
    (hplace : Placeable p (max s.count date) u (o.goodIn w.toNat) s) : Gives (.le l w date) s (fun t =>
      ((t.port p).line = none ∧ t.rf (Rf.SPK_PCNT_BADLINE p) = s.rf (Rf.SPK_PCNT_BADLINE p)) ∧ Lies p u (o.goodIn w.toNat) s t) := by
  have hp := (mem_lanesOf_of_portOf (striping_of_single hs).port).1
  refine le_good hs hline hidx hgood ho hw hends fun g halike hcount _ hflds hnone _ => ?_
  have hlies := (handLine_lies hp hcount (hplace.alike hp halike)).alike hp halike
  have hkept : Intakes (fun _ => True) p g (g.goodLine p (o.goodIn w.toNat)) :=
    goodLine_intakes hp (fun _ _ => trivial) g trivial
  rw [← goodLine_undistorted ((hflds _ (highFld_ne_port hp 0x10 32)).trans htest)] at hlies
  exact ⟨⟨hkept.line.trans hnone, hlies.bad⟩, hlies⟩

end

/-! ### ST and SACK -/

variable (hqueue : s.evq.length < 1000)
include hqueue

theorem st_shown (hw : w.toNat % 256 = 0x55) : Gives (.st l w date) s (fun t =>
    t.rf (Rf.SPK_PCAM_STATE p) = w.toNat / 2 ^ 8 % 2 ^ 8 ∧ t.rf (Rf.SPK_PCAM_SSID p) = w.toNat / 2 ^ 16 % 2 ^ 8 ∧
    t.rf (Rf.SPK_PCAM_DN_MASK p) = w.toNat / 2 ^ 24 % 2 ^ 8 ∧ t.rf (Rf.SPK_PCAM_TEMP p) = w.toNat / 2 ^ 32 % 2 ^ 8 ∧
    t.rf (Rf.SPK_PCAM_CAMFLAGS p) = w.toNat / 2 ^ 40 % 2 ^ 16 ∧ (t.port p).stAt = some (max s.count date) ∧
    (w.toNat / 2 ^ 8 % 2 ^ 8 ≠ s.rf (Rf.SPK_PCAM_STATE p) → w.toNat / 2 ^ 8 % 2 ^ 8 = 2 ∨ w.toNat / 2 ^ 8 % 2 ^ 8 = 3 →
      Raised s t 0x1010 p (w.toNat / 2 ^ 8 % 2 ^ 8) 0)) := by
  have hp := (mem_lanesOf_of_portOf (striping_of_single hs).port).1
  refine single_taken hs hline hidx hgood (by simp [blockInstrs]) hw (by decide) fun c hc => ?_
  obtain ⟨⟨hstate, hssid, hmask, htemp, hflags⟩, hat, hraised⟩ := takeSt_shown hp (s := c) (by rw [hc.evq]; exact hqueue) w.toNat
  rw [takeCtl_st hw c p]
  refine ⟨hstate, hssid, hmask, htemp, hflags, by rw [hat, hc.count], fun hnew htwo => ?_⟩
  exact (hraised (by rw [hc.rf 0x18 0]; exact hnew) htwo).earlier (by rw [hc.evq])

theorem sack_ends (hw : w.toNat % 256 = 0x66) :
    (let left := (s.port p).msgs.filter (fun m => m.msgid ≠ w.toNat / 2 ^ 8 % 2 ^ 8)
     left ≠ (s.port p).msgs →
      (w.toNat / 2 ^ 24 % 2 ^ 8 = 0 → Gives (.sack l w date) s (fun t =>
        (t.port p).msgs = left ∧ t.rf (Rf.SPK_SETSTAT_STATE p) = 3)) ∧
      (w.toNat / 2 ^ 24 % 2 ^ 8 ∈ [1, 2, 3] → Gives (.sack l w date) s (fun t => (t.port p).msgs = left ∧
        (t.port p).cuts = (s.port p).cuts.filter (fun k => k.msgid ≠ w.toNat / 2 ^ 8 % 2 ^ 8) ∧
        Counted (Rf.SPK_PCNT2_SACKREJ p) s t ∧ Raised s t 0x100C p (w.toNat / 2 ^ 24 % 2 ^ 8) 0))) ∧
    ((∀ m ∈ (s.port p).msgs, m.msgid ≠ w.toNat / 2 ^ 8 % 2 ^ 8) →
      Gives (.sack l w date) s (Counted (Rf.SPK_PCNT2_BADCTL p) s)) := by
  have hp := (mem_lanesOf_of_portOf (striping_of_single hs).port).1
  have htaken {P : State → Prop} (hP : ∀ c, Judges p (max s.count date) s c → (c.port p).msgs = (s.port p).msgs →
      (c.port p).cuts = (s.port p).cuts → P (c.takeSack p w.toNat)) : Gives (.sack l w date) s P := by
    refine single_taken hs hline hidx hgood (by simp [blockInstrs]) hw (by decide) fun c hc => ?_
    obtain ⟨rr, a, ms, cnt, hport⟩ := hc.port
    rw [takeCtl_sack hw c p]
    exact hP c hc (by rw [hport]; rfl) (by rw [hport]; rfl)
  refine ⟨fun hleft => ⟨fun hr => htaken fun c hc hmsgs _ => ?_, fun hr => htaken fun c hc hmsgs hcuts => ?_⟩,
    fun hno => htaken fun c hc hmsgs _ => ?_⟩
  · have hsack := (takeSack_matched hp (s := c) (by rw [hc.evq]; exact hqueue) (w := w.toNat) (by rw [hmsgs]; exact hleft)).1 hr
    rw [hmsgs] at hsack
    exact hsack
  · have hsack := (takeSack_matched hp (s := c) (by rw [hc.evq]; exact hqueue) (w := w.toNat) (by rw [hmsgs]; exact hleft)).2 hr
    rw [hmsgs, hcuts] at hsack
    obtain ⟨hended, hcut, hcount, hraised⟩ := hsack
    exact ⟨hended, hcut, counted_of_eq (hc.rf 0x30 48) hcount, hraised.earlier (by rw [hc.evq])⟩
  · exact counted_of_eq (hc.rf 0x30 0) (takeSack_unmatched hp (by rw [hmsgs]; exact hno))

end

end

/-! ### The port stream -/

/-- Settles O32. On a port of several lanes a data block joins its lane's buffer, and the port stream takes it when the lane's turn has
come. On a port of one lane every block but a marker goes at once to the machine of the port, so each clause is what that machine makes of
one block; a line that ends good is followed into its row of the raw ring (`placeLine_lies`). -/
theorem portStream : Obligations.PortStream := by
  unfold Obligations.PortStream
  refine ⟨fun l p date w s hport hup hlock hpresent hstripes halt hline hidx => ?_, fun l p date w s hs hqueue => ?_⟩
  · have hstr : Striping s p l := ⟨hport, hup, hlock, hpresent, hstripes⟩
    exact ⟨fun m hnext hne hempty hroom hswitch => data_waits hstr halt hline hidx w hnext hne hempty hroom hswitch,
      fun b m o hnext hempty hcol hb hm hne hmempty hdiscard ho hroom =>
        data_taken hstr halt hline hidx w hnext hempty hcol hb hm hne hmempty hdiscard ho hroom⟩
  · refine ⟨fun o ho hdue hstop hidx => data_expired hs ho hdue hstop hidx, fun hline => ⟨fun hidx hgood => ?_,
      fun hidx => ⟨data_orphaned hs hline hidx, fun o ho hroom => data_extends hs hline hidx ho hroom⟩, marker_numbers hs hline⟩⟩
    refine ⟨fill_carries_nothing hs hline hidx hgood, ls_opens hs hline hidx hgood,
      fun hw => ⟨le_orphaned hs hline hidx hgood hw, fun o ho => ⟨le_ends hs hline hidx hgood ho hw, fun hexcess hlen hcrc => ?_⟩⟩,
      st_shown hs hline hidx hgood hqueue, sack_ends hs hline hidx hgood hqueue⟩
    · have hends : o.endsGood w.toNat ((w.toNat / 2 ^ 8 % 2 ^ 16 + 1) * s.sampleBits p) := ⟨hexcess, hlen, hcrc⟩
      refine ⟨le_good_stopped hs hline hidx hgood ho hw hends, ?_⟩
      intro u b hon htest htrig hband hdue hrow hfresh hwaits hcur hsingle hexpo hplane hpx hfirst i a tag n hlo hhi hapart
      have hplace : Placeable p (max s.count date) u (o.goodIn w.toNat) s :=
        { on := hon, trig := htrig, band := by rw [hband]; rfl, due := hdue, row := hrow, fresh := hfresh, waits := hwaits, cur := hcur
          single := hsingle, expo := hexpo, plane := hplane, good := rfl, whole := hpx, earlier := hfirst, lo := hlo
          hi := hpx ▸ hhi, apart := hpx ▸ hapart }
      obtain ⟨t, hrun, hsame, hlies⟩ := le_good_placed hs hline hidx hgood ho hw hends htest hplace
      exact ⟨t, hrun, hsame, hlies.cur, fun k hk hksame => done_of_mem_markDone (hlies.trigs ▸ hk) hksame, hlies.next,
        fun j hj => hlies.bytes j (hpx ▸ hj)⟩

end Sys2Proof.Machine
end

section
/-! SUPPORT. The commands of a camera port: bring-up and its end, RESTORE, FILL columns and the timeouts (R138, R139, R147 to R149,
R153, R160, R163, R164). -/

namespace Sys2Proof.Machine

/-! ### One step for every lane of a port -/

/-- A fold whose step sets a field of its own lane, and spoils that of no other, leaves the field set for every lane of the list. -/
theorem rf_foldl_of_mem {step : State → Nat → State} {f : Nat → Fld} {v : Nat} (hset : ∀ s l, (step s l).rf (f l) = v)
    (hkeep : ∀ s k l, s.rf (f l) = v → (step s k).rf (f l) = v) (ls : List Nat) (s : State) :
    ∀ l ∈ ls, (ls.foldl step s).rf (f l) = v := by
  have hrest : ∀ (ls : List Nat) (s : State) (l : Nat), s.rf (f l) = v → (ls.foldl step s).rf (f l) = v := by
    intro ls
    induction ls with
    | nil => exact fun s l h => h
    | cons k ls ih => exact fun s l h => ih _ l (hkeep s k l h)
  induction ls generalizing s with
  | nil => exact fun l h => absurd h List.not_mem_nil
  | cons k ls ih =>
    intro l hl
    rcases List.mem_cons.1 hl with rfl | hl
    · exact hrest ls _ l (hset s l)
    · exact ih _ l hl

/-- The fields BLK, AMST and LOST of the lanes. -/
def statFld (lo : Nat) (f : Nat → Fld) : Prop := ∀ l, (f l).addr = 0x300000 + 0x100 * l ∧ (f l).lo = lo

theorem statFld_ne {lo lo' : Nat} {f g : Nat → Fld} (hf : statFld lo f) (hg : statFld lo' g) (hlo : lo < 64) (hlo' : lo' < 64)
    (hne : lo ≠ lo') (k l : Nat) : (f k).key ≠ (g l).key := by
  obtain ⟨haddr, hbit⟩ := hf k
  obtain ⟨haddr', hbit'⟩ := hg l
  unfold Fld.key
  omega

/-- A write of a field of one lane keeps what the same field of another holds, where they are to hold the same. -/
theorem rf_setrf_same {f : Nat → Fld} {lo v : Nat} (hf : statFld lo f) {s : State} {k l : Nat}
    (hv : v % 2 ^ (f k).width = v) (h : s.rf (f l) = v) : (s.setrf (f k) v).rf (f l) = v := by
  by_cases hkl : l = k
  · rw [hkl, State.rf_setrf_self, hv]
  · rw [State.rf_setrf _ _ _ _ ?_, h]
    obtain ⟨haddr, hbit⟩ := hf k
    obtain ⟨haddr', hbit'⟩ := hf l
    unfold Fld.key
    omega

theorem statFld_blk : statFld 0 Rf.SPK_LN_STAT_BLK := fun _ => ⟨rfl, rfl⟩
theorem statFld_amst : statFld 2 Rf.SPK_LN_STAT_AMST := fun _ => ⟨rfl, rfl⟩
theorem statFld_lost : statFld 7 Rf.SPK_LN_STAT_LOST := fun _ => ⟨rfl, rfl⟩

theorem blk_ne_amst (k l : Nat) : (Rf.SPK_LN_STAT_BLK k).key ≠ (Rf.SPK_LN_STAT_AMST l).key :=
  statFld_ne statFld_blk statFld_amst (by decide) (by decide) (by decide) k l
theorem blk_ne_lost (k l : Nat) : (Rf.SPK_LN_STAT_BLK k).key ≠ (Rf.SPK_LN_STAT_LOST l).key :=
  statFld_ne statFld_blk statFld_lost (by decide) (by decide) (by decide) k l
theorem amst_ne_lost (k l : Nat) : (Rf.SPK_LN_STAT_AMST k).key ≠ (Rf.SPK_LN_STAT_LOST l).key :=
  statFld_ne statFld_amst statFld_lost (by decide) (by decide) (by decide) k l

/-! ### Bring-up (R148, R149) -/

/-- One lane begins again. -/
def State.lanesUp (s : State) (l : Nat) : State := (s.toHunt l).setrf (Rf.SPK_LN_STAT_LOST l) 0

/-- A field of the ports is none of the lanes'. -/
theorem portFld_ne_stat {f : Fld} {g : Nat → Fld} {lo : Nat} (hg : statFld lo g) (hf : f.key < 0x300000 * 64) (l : Nat) :
    f.key ≠ (g l).key := by
  obtain ⟨haddr, hbit⟩ := hg l
  have hkey : (g l).key = (g l).addr * 64 + (g l).lo := rfl
  omega

theorem portKey_below {f : Fld} {p : Nat} (hp : p < 48) (off lo : Nat) (haddr : f.addr = 0x200000 + off + 0x1000 * p := by rfl)
    (hbit : f.lo = lo := by rfl) (hoff : off < 0x1000 := by decide) (hlo : lo < 64 := by decide) : f.key < 0x300000 * 64 := by
  unfold Fld.key
  omega

theorem lanesUp_rf (s : State) (l : Nat) {f : Fld} (hf : f.key < 0x300000 * 64) : (s.lanesUp l).rf f = s.rf f := by
  rw [State.lanesUp, State.rf_setrf _ _ _ _ (portFld_ne_stat statFld_lost hf l), State.toHunt, State.setLane_get_rf,
    State.rf_setrf _ _ _ _ (portFld_ne_stat statFld_amst hf l), State.rf_setrf _ _ _ _ (portFld_ne_stat statFld_blk hf l)]

theorem lanesUp_blk (s : State) (l : Nat) : (s.lanesUp l).rf (Rf.SPK_LN_STAT_BLK l) = 1 := by
  rw [State.lanesUp, State.rf_setrf _ _ _ _ (blk_ne_lost l l), State.toHunt, State.setLane_get_rf,
    State.rf_setrf _ _ _ _ (blk_ne_amst l l), State.rf_setrf_self]
  rfl

theorem lanesUp_amst (s : State) (l : Nat) : (s.lanesUp l).rf (Rf.SPK_LN_STAT_AMST l) = 0 := by
  rw [State.lanesUp, State.rf_setrf _ _ _ _ (amst_ne_lost l l), State.toHunt, State.setLane_get_rf, State.rf_setrf_self]
  rfl

theorem lanesUp_lost (s : State) (l : Nat) : (s.lanesUp l).rf (Rf.SPK_LN_STAT_LOST l) = 0 := State.rf_setrf_self ..

/-- After every lane of a list has begun again. -/
theorem lanesUp_foldl (ls : List Nat) (s : State) : ∀ l ∈ ls, (ls.foldl State.lanesUp s).rf (Rf.SPK_LN_STAT_BLK l) = 1 ∧
    (ls.foldl State.lanesUp s).rf (Rf.SPK_LN_STAT_AMST l) = 0 ∧ (ls.foldl State.lanesUp s).rf (Rf.SPK_LN_STAT_LOST l) = 0 := by
  intro l hl
  refine ⟨rf_foldl_of_mem lanesUp_blk (fun s k l h => ?_) ls s l hl, rf_foldl_of_mem lanesUp_amst (fun s k l h => ?_) ls s l hl,
    rf_foldl_of_mem lanesUp_lost (fun s k l h => ?_) ls s l hl⟩
  · rw [State.lanesUp, State.rf_setrf _ _ _ _ (blk_ne_lost l k), State.toHunt, State.setLane_get_rf,
      State.rf_setrf _ _ _ _ (blk_ne_amst l k)]
    exact rf_setrf_same statFld_blk (by rfl) h
  · rw [State.lanesUp, State.rf_setrf _ _ _ _ (amst_ne_lost l k), State.toHunt, State.setLane_get_rf]
    refine rf_setrf_same statFld_amst (by rfl) ?_
    rw [State.rf_setrf _ _ _ _ (blk_ne_amst k l).symm, h]
  · refine rf_setrf_same statFld_lost (by rfl) ?_
    rw [State.toHunt, State.setLane_get_rf, State.rf_setrf _ _ _ _ (amst_ne_lost k l).symm,
      State.rf_setrf _ _ _ _ (blk_ne_lost k l).symm, h]

/-- Bring-up has begun on port `p`. -/
structure Begins (p : Nat) (s t : State) : Prop where
  state  : t.portState p = 1
  stripe : t.stripe p = 0
  expect : (t.port p).expect = s.fullMask p
  switch : (t.port p).switch = none
  lanes  : ∀ l ∈ s.lanesOf p, t.rf (Rf.SPK_LN_STAT_BLK l) = 1 ∧ t.rf (Rf.SPK_LN_STAT_AMST l) = 0 ∧ t.rf (Rf.SPK_LN_STAT_LOST l) = 0

theorem bringUp_begins {p : Nat} (hp : p < 48) (s : State) : Begins p s (s.bringUp p) ∧ (s.bringUp p).portOn p = s.portOn p := by
  have hfold : (s.lanesOf p).foldl (fun s l => (s.toHunt l).setrf (Rf.SPK_LN_STAT_LOST l) 0) s = (s.lanesOf p).foldl State.lanesUp s := rfl
  have hlanes := lanesUp_foldl (s.lanesOf p) s
  have hkept {f : Fld} (hf : f.key < 0x300000 * 64) : ((s.lanesOf p).foldl State.lanesUp s).rf f = s.rf f :=
    foldl_keeps (fun u : State => u.rf f) (fun u l => lanesUp_rf u l hf) _ s
  unfold State.bringUp
  rw [hfold]
  generalize (s.lanesOf p).foldl State.lanesUp s = u at hlanes hkept
  dsimp only
  have hmask : u.fullMask p = s.fullMask p := by
    rw [State.fullMask, State.laneCount, hkept (f := Rf.SPK_PCFG_WIDTH p) (portKey_below hp 0 2)]
    rfl
  have hlane (v : State) {g : Nat → Fld} {lo : Nat} (hg : statFld lo g) (l : Nat) :
      ((((v.setrf (Rf.SPK_PSTAT_STATE p) 1).setrf (Rf.SPK_PSTAT_STRIPE p) 0).setrf (Rf.SPK_PSTAT_PENDING p) 0).rf (g l)) =
        v.rf (g l) := by
    rw [State.rf_setrf _ _ _ _ (portFld_ne_stat hg (portKey_below hp 0x10 16) l).symm,
      State.rf_setrf _ _ _ _ (portFld_ne_stat hg (portKey_below hp 0x10 8) l).symm,
      State.rf_setrf _ _ _ _ (portFld_ne_stat hg (portKey_below hp 0x10 0) l).symm]
  refine ⟨⟨?_, ?_, ?_, ?_, fun l hl => ?_⟩, ?_⟩
  · rw [State.portState, State.rf_setrf _ _ _ _ (portFld_ne p 0x10 0 0x10 16), State.rf_setrf _ _ _ _ (portFld_ne p 0x10 0 0x10 8),
      State.rf_setrf_self]
    rfl
  · rw [State.stripe, State.rf_setrf _ _ _ _ (portFld_ne p 0x10 8 0x10 16), State.rf_setrf_self]
    rfl
  · exact (congrArg PortUnit.expect (look_put_self ..) :).trans hmask
  · exact (congrArg PortUnit.switch (look_put_self ..) :)
  · rw [hlane _ statFld_blk, hlane _ statFld_amst, hlane _ statFld_lost]
    exact hlanes l hl
  · rw [State.portOn, State.bit, State.rf_setrf _ _ _ _ (portFld_ne p 0 0 0x10 16), State.rf_setrf _ _ _ _ (portFld_ne p 0 0 0x10 8),
      State.rf_setrf _ _ _ _ (portFld_ne p 0 0 0x10 0), State.setPort_get_rf, hkept (portKey_below hp 0 0)]
    rfl

end Sys2Proof.Machine
end

section
/-! SUPPORT. What each command and timeout of a port leaves (R138, R139, R147, R149, R153, R160, R163, R164). -/

namespace Sys2Proof.Machine

/-! ### Commands that run, and events -/

theorem gives_when {i : Instr} {c : Bool} {s t : State} {P : State → Prop} (hrun : exec i s = when' c s t) (hc : c = true) (h : P t) :
    Gives i s P := ⟨t, by rw [hrun, when', if_pos hc], h⟩

theorem raise_lane (s : State) (c a0 a1 a2 l : Nat) : (s.raise c a0 a1 a2).lane l = s.lane l :=
  (Links.raise (K := fun _ => True) (fun _ _ => trivial) s c a0 a1 a2).lane l

/-! ### A lane in HUNT (R149) -/

theorem huntTimeout_tells (l : Fin 192) (s : State) (hroom : s.evq.length < 1024) (hblk : s.rf (Rf.SPK_LN_STAT_BLK l) = 1)
    (htold : (s.lane l).told = false) : Gives (.huntTimeout l) s (fun t => (t.lane l).told = true ∧
      t.count = max s.count ((s.lane l).huntAt + 1250000) ∧ Raised s t 0x1003 ((s.portOf l).getD 0 + 256 * l) 0 0) := by
  refine gives_when rfl (by rw [hblk, htold]; rfl) ⟨?_, ?_, raised_of_evq_eq (by rfl) hroom _ _ _ _⟩
  · rw [raise_lane, State.setLane_get_lane, if_pos rfl]
  · rw [raise_count]
    rfl

section
variable {p : Fin 48} {s : State}

/-! ### Enabling and disabling (R138, R139) -/

theorem portEnable_begins (hoff : s.portOn p = false) (hok : s.groupOk p = true) :
    Gives (.portEnable p) s (fun t => t.portOn p = true ∧ Begins p s t) := by
  have hp := p.isLt
  generalize hu : s.setrf (Rf.SPK_PCFG_ENABLE p) 1 = u
  have hu_on : u.portOn p = true := by
    rw [← hu, State.portOn, State.bit, State.rf_setrf_self]
    rfl
  have hwidth : u.laneCount p = s.laneCount p := by
    rw [← hu, State.laneCount, State.rf_setrf _ _ _ _ (portFld_ne p 0 2 0 0)]
    rfl
  have hlanes : u.lanesOf p = s.lanesOf p := by
    rw [State.lanesOf, hwidth, State.laneBase, ← hu, State.rf_setrf _ _ _ _ (portFld_ne p 0 8 0 0)]
    rfl
  obtain ⟨hup, hon⟩ := bringUp_begins hp u
  have hexec : exec (.portEnable p) s = when' (!s.portOn p) s ((u.bringUp p).beginTx p) := by
    rw [← hu]
    exact congrArg (when' (!s.portOn p) s) (if_pos hok)
  generalize u.bringUp p = v at hup hon hexec
  have hport : (v.beginTx p).port p = { v.port p with
      txAt := v.count, txFree := v.free, txNext := 0, sent := [], dn := [], trg := none, trgAt := 0 } := look_put_self ..
  refine gives_when hexec (by rw [hoff]; rfl) ⟨hon.trans hu_on, hup.state, hup.stripe, ?_, ?_, fun l hl => hup.lanes l (hlanes ▸ hl)⟩
  · rw [hport, State.fullMask, ← hwidth]
    exact hup.expect
  · rw [hport]
    exact hup.switch

theorem portEnable_refused (hroom : s.evq.length < 1024) (hoff : s.portOn p = false) (hok : s.groupOk p = false) :
    Gives (.portEnable p) s (fun t => Raised s t 0x100E p 0 0 ∧ FieldsAndEvents [] s t) := by
  have hexec : exec (.portEnable p) s = when' (!s.portOn p) s (s.raise 0x100E p) :=
    congrArg (when' (!s.portOn p) s) (if_neg (by rw [hok]; exact Bool.false_ne_true))
  exact gives_when hexec (by rw [hoff]; rfl) ⟨raise_raised _ _ _ _ _ hroom, raise_frame _ _ _ _ _ _⟩

theorem relock_begins (hon : s.portOn p = true) : Gives (.relock p) s (Begins p s) :=
  gives_when rfl hon (bringUp_begins p.isLt s).1

/-- One lane of a port that is disabled. -/
def State.laneOff (s : State) (l : Nat) : State :=
  ((s.setLane l {}).setrf (Rf.SPK_LN_STAT_BLK l) 0).setrf (Rf.SPK_LN_STAT_AMST l) 0

theorem laneOff_foldl (ls : List Nat) (s : State) : ∀ l ∈ ls, (ls.foldl State.laneOff s).rf (Rf.SPK_LN_STAT_BLK l) = 0 ∧
    (ls.foldl State.laneOff s).rf (Rf.SPK_LN_STAT_AMST l) = 0 := by
  intro l hl
  refine ⟨rf_foldl_of_mem (fun s l => ?_) (fun s k l h => ?_) ls s l hl,
    rf_foldl_of_mem (fun s l => by rw [State.laneOff, State.rf_setrf_self]; rfl) (fun s k l h => ?_) ls s l hl⟩
  · rw [State.laneOff, State.rf_setrf _ _ _ _ (blk_ne_amst l l), State.rf_setrf_self]
    rfl
  · rw [State.laneOff, State.rf_setrf _ _ _ _ (blk_ne_amst l k)]
    exact rf_setrf_same statFld_blk (by rfl) h
  · refine rf_setrf_same statFld_amst (by rfl) ?_
    rw [State.rf_setrf _ _ _ _ (blk_ne_amst k l).symm]
    exact h

theorem portDisable_ends (hon : s.portOn p = true) : Gives (.portDisable p) s (fun t => t.portOn p = false ∧ t.portState p = 0 ∧
    t.stripe p = 0 ∧ (t.port p).line = none ∧ (t.port p).dn = [] ∧
    ∀ l ∈ s.lanesOf p, t.rf (Rf.SPK_LN_STAT_BLK l) = 0 ∧ t.rf (Rf.SPK_LN_STAT_AMST l) = 0) := by
  have hp := p.isLt
  generalize hu : (if (s.port p).line.isSome then (s.closeBad p).bump (Rf.SPK_PCNT_LTMO p) else s) = u
  have hlinks : Links linkKey s u := by
    rw [← hu]
    split
    · exact (closeBad_links hp (fun _ h => h) s).trans (.bump _ (linkKey_of_offset hp 0x28 32) 1)
    · exact .refl _ s
  have hline : (u.port p).line = none := by
    rw [← hu]
    split
    · exact closeBad_line hp (s := s)
    · next h => exact Option.not_isSome_iff_eq_none.1 h
  have hlanesOf : u.lanesOf p = s.lanesOf p := (Places.of_links hlinks).lanesOf hp
  have hlanes := laneOff_foldl (s.lanesOf p) u
  have hvport : ((s.lanesOf p).foldl State.laneOff u).port p = u.port p :=
    foldl_keeps (f := State.laneOff) (fun v : State => v.port p) (fun _ _ => rfl) _ u
  let v := (s.lanesOf p).foldl State.laneOff u
  let x := (((v.setrf (Rf.SPK_PCFG_ENABLE p) 0).setrf (Rf.SPK_PSTAT_STATE p) 0).setrf (Rf.SPK_PSTAT_STRIPE p) 0).setrf
    (Rf.SPK_PSTAT_PENDING p) 0
  have hexec : exec (.portDisable p) s = when' (s.portOn p) s
      (x.setPort p { x.port p with switch := none, dn := [], trg := none, trgAt := 0, sent := [], discard := false }) := by
    show execPortDisable p s = _
    unfold execPortDisable
    dsimp only
    rw [hu, hlanesOf]
    rfl
  have hlane {g : Nat → Fld} {lo : Nat} (hg : statFld lo g) (l : Nat) : x.rf (g l) = v.rf (g l) := by
    dsimp only [x]
    rw [State.rf_setrf _ _ _ _ (portFld_ne_stat hg (portKey_below hp 0x10 16) l).symm,
      State.rf_setrf _ _ _ _ (portFld_ne_stat hg (portKey_below hp 0x10 8) l).symm,
      State.rf_setrf _ _ _ _ (portFld_ne_stat hg (portKey_below hp 0x10 0) l).symm,
      State.rf_setrf _ _ _ _ (portFld_ne_stat hg (portKey_below hp 0 0) l).symm]
  refine gives_when hexec hon ⟨?_, ?_, ?_, ?_, ?_, fun l hl => ?_⟩
  · rw [State.portOn, State.setPort_get_bit, State.bit]
    dsimp only [x]
    rw [State.rf_setrf _ _ _ _ (portFld_ne p 0 0 0x10 16), State.rf_setrf _ _ _ _ (portFld_ne p 0 0 0x10 8),
      State.rf_setrf _ _ _ _ (portFld_ne p 0 0 0x10 0), State.rf_setrf_self]
    rfl
  · rw [State.portState, State.setPort_get_rf]
    dsimp only [x]
    rw [State.rf_setrf _ _ _ _ (portFld_ne p 0x10 0 0x10 16), State.rf_setrf _ _ _ _ (portFld_ne p 0x10 0 0x10 8),
      State.rf_setrf_self]
    rfl
  · rw [State.stripe, State.setPort_get_rf]
    dsimp only [x]
    rw [State.rf_setrf _ _ _ _ (portFld_ne p 0x10 8 0x10 16), State.rf_setrf_self]
    rfl
  · rw [State.setPort_get_port, if_pos rfl]
    exact (congrArg PortUnit.line hvport :).trans hline
  · rw [State.setPort_get_port, if_pos rfl]
  · rw [State.setPort_get_rf, State.setPort_get_rf, hlane statFld_blk, hlane statFld_amst]
    exact hlanes l hl

/-! ### RESTORE and FILL columns (R153, R163) -/

theorem restore_switches (hup : s.portUp p = true) (hlock : ∀ l ∈ s.lanesOf p, s.locked l = true) : Gives (.restore p) s (fun t =>
    (t.port p).switch = some (s.fullMask p, 1, (s.newestSeq p + 2) % 65536) ∧
    t.rf (Rf.SPK_PSTAT_PENDING p) = s.fullMask p % 2 ^ 8 ∧ t.stripe p = s.stripe p) := by
  have hall : (s.portUp p && (s.lanesOf p).all (s.locked ·)) = true := by
    rw [hup, List.all_eq_true.2 hlock]
    rfl
  have hexec : exec (.restore p) s = when' true s (s.queueLdn p (s.fullMask p) 1 (s.newestSeq p)) :=
    congrArg (when' true s) (if_pos hall)
  refine gives_when hexec rfl ?_
  generalize s.fullMask p = mask
  generalize s.newestSeq p = seq
  unfold State.queueLdn
  extract_lets s1 x start ldn dn
  have h1 : Sends p s s1 := settleDn_sends s p
  generalize hu : s1.setPort p { x with switch := some (mask, 1, start), dn := dn } = u
  have h2 : Sends p u (u.queueDn p [ldn]) := queueDn_sends u p _
  have hswitch : (u.port p).switch = some (mask, 1, start) := by
    rw [← hu]
    exact (congrArg PortUnit.switch (look_put_self ..) :)
  refine ⟨?_, State.rf_setrf_self .., ?_⟩
  · rw [State.setrf_get_port]
    exact (congrArg PortUnit.switch h2.port :).trans hswitch
  · rw [State.stripe, State.rf_setrf _ _ _ _ (portFld_ne p 0x10 8 0x10 16), h2.rf, ← hu, State.setPort_get_rf, h1.rf]
    rfl

theorem restore_refused (hroom : s.evq.length < 1024) (h : s.portUp p = false ∨ ∃ l ∈ s.lanesOf p, s.locked l = false) :
    Gives (.restore p) s (fun t => Raised s t 0x100E p 0 0 ∧ FieldsAndEvents [] s t) := by
  have hno : ¬ (s.portUp p && (s.lanesOf p).all (s.locked ·)) = true := by
    rw [Bool.and_eq_true, List.all_eq_true]
    rintro ⟨hup, hall⟩
    rcases h with h | ⟨l, hl, h⟩
    · exact Bool.false_ne_true (h.symm.trans hup)
    · exact Bool.false_ne_true (h.symm.trans (hall l hl))
  have hexec : exec (.restore p) s = when' true s (s.raise 0x100E p) := congrArg (when' true s) (if_neg hno)
  exact gives_when hexec rfl ⟨raise_raised _ _ _ _ _ hroom, raise_frame _ _ _ _ _ _⟩

theorem fillColumn_inserted (hup : s.portUp p = true) (hrr : (s.port p).rr = 0) : Gives (.fillColumnInsert p) s (fun t =>
    Counted (Rf.SPK_PRM_INS p) s t ∧ FieldsOnly [Rf.SPK_PRM_INS p] s t) :=
  gives_when rfl (by rw [hup, hrr]; rfl) ⟨counted_bump _ _, rfl, fun f hf => rf_bump _ _ _ _ (hf _ (List.mem_cons_self ..))⟩

/-! ### Timeouts (R147, R160, R164) -/

theorem lineTimeout_closes {o : OpenLine} (ho : (s.port p).line = some o) : Gives (.lineTimeout p) s (fun t => (t.port p).line = none ∧
    Counted (Rf.SPK_PCNT_LTMO p) s t ∧ t.count = max s.count (o.since + s.rf (Rf.SPK_PTMO_LINE_TMO_US p) * 1250)) := by
  have hp := p.isLt
  generalize hu : s.advanceTo (o.since + s.rf (Rf.SPK_PTMO_LINE_TMO_US p) * 1250) = u
  have hexec : exec (.lineTimeout p) s = when' true s (u.timeLine p) := by
    rw [← hu]
    show execLineTimeout p s = _
    unfold execLineTimeout
    rw [ho]
    rfl
  have hcount : (u.closeBad p).count = u.count := (closeBad_links (K := linkKey) hp (fun _ h => h) u).stands.count
  have htmo : (u.closeBad p).rf (Rf.SPK_PCNT_LTMO p) = s.rf (Rf.SPK_PCNT_LTMO p) := by
    rw [closeBad_rf hp (not_rowKey hp 0x28 32) (portFld_ne p 0x28 32 0x28 0), ← hu]
    rfl
  refine gives_when hexec rfl ⟨closeBad_line hp, counted_of_eq htmo (counted_bump _ _), hcount.trans (by rw [← hu]; rfl)⟩

theorem sackTimeout_ends {m : SetMsg} {c : Nat} (hroom : s.evq.length < 1024) (hm : (s.port p).msg = some m) (hleft : m.left = some c) :
    Gives (.sackTimeout p) s (fun t => (t.port p).msgs = (s.port p).later ∧ (t.port p).cuts = (s.port p).cuts ∧
      Counted (Rf.SPK_PCNT2_SACKMISS p) s t ∧ Raised s t 0x100B p 0 0) := by
  have hp := p.isLt
  generalize hu : (s.advanceTo (c + countsOfUs (s.rf (Rf.SPK_PTMO_SACK_TMO_US p)))).setPort p ((s.port p).setMsgs (s.port p).later) = u
  have hexec : exec (.sackTimeout p) s = .next (((u.bump (Rf.SPK_PCNT2_SACKMISS p)).raise 0x100B p).setIdle p) := by
    rw [← hu]
    show execSackTimeout p s = _
    unfold execSackTimeout
    rw [hm]
    dsimp only
    rw [hleft]
    rfl
  have hport : u.port p = (s.port p).setMsgs (s.port p).later := hu ▸ look_put_self ..
  have hlast : ((((u.bump (Rf.SPK_PCNT2_SACKMISS p)).raise 0x100B p).setIdle p).port p) = (s.port p).setMsgs (s.port p).later := by
    rw [State.setIdle, State.setrf_get_port, raise_port]
    exact hport
  refine ⟨_, hexec, ?_, ?_, ?_, ?_⟩
  · rw [hlast, setMsgs_msgs]
  · rw [hlast]
    rfl
  · unfold Counted
    rw [State.setIdle, State.rf_setrf _ _ _ _ (portFld_ne p 0x30 32 0x140 0), rf_raise (key_ne_event (portKey_low hp 0x30 32)),
      rf_bump_self, ← hu]
    rfl
  · exact raised_of_evq_eq (by rw [← hu]; rfl) hroom _ _ _ _

theorem silentTimeout_closes (hroom : s.evq.length < 1024) (hup : s.portState p = 2 ∨ s.portState p = 3) :
    Gives (.silentTimeout p) s (fun t => t.portState p = 4 ∧ (t.port p).line = none ∧ Raised s t 0x1008 p 0 0) := by
  have hp := p.isLt
  generalize hu : (s.advanceTo ((s.port p).traffic + countsOfUs (s.rf (Rf.SPK_PTMO_SILENT_TMO_US p)))).setrf (Rf.SPK_PSTAT_STATE p) 4 = u
  have hexec : exec (.silentTimeout p) s = when' (decide (s.portState p = 2) || decide (s.portState p = 3)) s
      ((u.raise 0x1008 p).closeBad p) := by
    rw [← hu]
    rfl
  have hqueue := (closeBad_links (K := linkKey) hp (fun _ h => h) (u.raise 0x1008 p)).stands.queue
  have hraised : Raised s (u.raise 0x1008 p) 0x1008 p 0 0 := raised_of_evq_eq (by rw [← hu]; rfl) hroom _ _ _ _
  refine gives_when hexec (by rw [Bool.or_eq_true, decide_eq_true_eq, decide_eq_true_eq]; exact hup)
    ⟨?_, closeBad_line hp, hraised.later hqueue⟩
  rw [State.portState, closeBad_rf hp (not_rowKey hp 0x10 0) (portFld_ne p 0x10 0 0x28 0), rf_raise (key_ne_event (portKey_low hp 0x10 0)),
    ← hu, State.rf_setrf_self]
  rfl

end

end Sys2Proof.Machine
end

section
/-! SUPPORT. Settings messages of a port, and what its downstream slots carry (R143, R148, R155, R182, R184). -/

namespace Sys2Proof.Machine

/-! ### SETBAND (R182) -/

theorem mem_insert1_self {α : Type} (l : List (Nat × α)) (k : Nat) (v : α) : (k, v) ∈ insert1 l k v := by
  induction l with
  | nil => exact List.mem_singleton_self _
  | cons e l ih =>
    obtain ⟨i, w⟩ := e
    unfold insert1
    split
    · exact List.mem_cons_self ..
    · split
      · exact List.mem_cons_self ..
      · exact List.mem_cons_of_mem _ ih

section
variable {p : Fin 48} {s : State}

/-- What a refused SETBAND leaves: event 0x2008 with its reason, and its count. -/
theorem setband_refusal (hroom : s.evq.length < 1024) (k r : Nat) : let t := (s.raise 0x2008 p k r).bump (Rf.SPK_LCNT2_SETREF p)
    Raised s t 0x2008 p k r ∧ Counted (Rf.SPK_LCNT2_SETREF p) s t ∧ t.ports = s.ports := by
  refine ⟨raise_raised _ _ _ _ _ hroom, ?_, raise_ports _ _ _ _ _⟩
  exact counted_of_eq (rf_raise (key_ne_event (portKey_low p.isLt 0x150 48)) ..) (counted_bump _ _)

variable {k : BitVec 64} (hon : s.cadOn = true)
include hon

theorem setband_past (hroom : s.evq.length < 1024) (hk : k.toNat < s.openBand) : Gives (.setband p k) s (fun t =>
    Raised s t 0x2008 p k.toNat 1 ∧ Counted (Rf.SPK_LCNT2_SETREF p) s t ∧ t.ports = s.ports) :=
  gives_when (congrArg (when' true s) (if_pos ⟨hon, hk⟩)) rfl (setband_refusal hroom _ _)

variable (hk : s.openBand ≤ k.toNat)
include hk

theorem setband_unsplit (hroom : s.evq.length < 1024) (hsplit : ¬ s.rf (Rf.SPK_FMT_SPLIT p) ≠ 0) : Gives (.setband p k) s (fun t =>
    Raised s t 0x2008 p k.toNat 2 ∧ Counted (Rf.SPK_LCNT2_SETREF p) s t ∧ t.ports = s.ports) := by
  have hbit : (!s.bit (Rf.SPK_FMT_SPLIT p)) = true := by
    rw [State.bit, decide_eq_false hsplit]
    rfl
  refine gives_when (congrArg (when' true s) ?_) rfl (setband_refusal hroom _ _)
  exact (if_neg (fun h => absurd h.2 (Nat.not_lt.2 hk))).trans (if_pos ⟨hon, hbit⟩)

variable (hsplit : s.rf (Rf.SPK_FMT_SPLIT p) ≠ 0)
include hsplit

omit hon in
theorem setband_down (hroom : s.evq.length < 1024) (hdown : s.portUp p = false) : Gives (.setband p k) s (fun t =>
    Raised s t 0x2008 p k.toNat 4 ∧ Counted (Rf.SPK_LCNT2_SETREF p) s t ∧ t.ports = s.ports) := by
  have hbit : ¬ (!s.bit (Rf.SPK_FMT_SPLIT p)) = true := by
    rw [State.bit, decide_eq_true hsplit]
    exact Bool.false_ne_true
  refine gives_when (congrArg (when' true s) ?_) rfl (setband_refusal hroom _ _)
  exact (if_neg (fun h => absurd h.2 (Nat.not_lt.2 hk))).trans ((if_neg (fun h => hbit h.2)).trans (if_pos (by rw [hdown]; rfl)))

/-- The message a SETBAND arms. -/
theorem setband_arms (hup : s.portUp p = true) : Gives (.setband p k) s (fun t => t.rf (Rf.SPK_SETSTAT_STATE p) = 1 ∧
    ∃ m, (k.toNat, m) ∈ (t.port p).armed ∧ m.band = some k.toNat ∧ m.addr = s.rf (Rf.SPK_SETMSG_ADDR p) ∧
      m.len = s.rf (Rf.SPK_SETMSG_LEN p) ∧ m.ssid = s.rf (Rf.SPK_SETMSG_SSID p)) := by
  have hbit : ¬ (!s.bit (Rf.SPK_FMT_SPLIT p)) = true := by
    rw [State.bit, decide_eq_true hsplit]
    exact Bool.false_ne_true
  let m : SetMsg := { band := some k.toNat, addr := s.rf (Rf.SPK_SETMSG_ADDR p), len := s.rf (Rf.SPK_SETMSG_LEN p),
                      ssid := s.rf (Rf.SPK_SETMSG_SSID p) }
  generalize hu : (s.setPort p { s.port p with armed := insert1 (s.port p).armed k.toNat m }).setrf (Rf.SPK_SETSTAT_STATE p) 1 = u
  have hstate : u.rf (Rf.SPK_SETSTAT_STATE p) = 1 := by
    rw [← hu, State.rf_setrf_self]
    rfl
  have harmed : (u.port p).armed = insert1 (s.port p).armed k.toNat m := by
    rw [← hu]
    exact (congrArg PortUnit.armed (look_put_self ..) :)
  have hexec : exec (.setband p k) s = when' true s
      (if (s.port p).armed.any (fun e => e.1 == k.toNat) then u.raise 0x2009 p k.toNat else u) := by
    rw [← hu]
    refine congrArg (when' true s) ?_
    exact (if_neg (fun h => absurd h.2 (Nat.not_lt.2 hk))).trans ((if_neg (fun h => hbit h.2)).trans
      ((if_neg (by rw [hup]; exact Bool.false_ne_true)).trans (if_pos hon)))
  refine gives_when hexec rfl ?_
  split
  · refine ⟨(rf_raise (key_ne_event (portKey_low p.isLt 0x140 0)) ..).trans hstate, m, ?_, rfl, rfl, rfl, rfl⟩
    rw [raise_port, harmed]
    exact mem_insert1_self _ _ _
  · refine ⟨hstate, m, ?_, rfl, rfl, rfl, rfl⟩
    rw [harmed]
    exact mem_insert1_self _ _ _

end

/-! ### The last fragment of a settings message (R184) -/

/-- The cutover of a message whose last fragment has left is expected. -/
theorem mem_cuts_moveCut (s : State) (p : Nat) (m : SetMsg) (cut : Nat) :
    (⟨cut % 2 ^ 32, m.ssid, m.msgid⟩ : CutRec) ∈ ((s.moveCut p m cut).port p).cuts := by
  have hcuts : ((s.moveCut p m cut).port p).cuts =
      (s.port p).cuts.filter (fun k => k.msgid != m.msgid) ++ [⟨cut % 2 ^ 32, m.ssid, m.msgid⟩] :=
    (congrArg PortUnit.cuts (look_put_self ..) :)
  rw [hcuts]
  exact List.mem_append_right _ (List.mem_singleton_self _)

theorem moveCut_msgs (s : State) (p : Nat) (m : SetMsg) (cut : Nat) : ((s.moveCut p m cut).port p).msgs = (s.port p).msgs :=
  (congrArg PortUnit.msgs (look_put_self ..) :)

/-- The messages of one number have all left at a count. -/
def leftAt (id a : Nat) (l : List SetMsg) : List SetMsg := l.map (fun k => if k.msgid = id then { k with left := some a } else k)

theorem left_of_mem_leftAt {id a : Nat} {l : List SetMsg} {k : SetMsg} (hk : k ∈ leftAt id a l) (hid : k.msgid = id) :
    k.left = some a := by
  obtain ⟨m, -, rfl⟩ := List.mem_map.1 hk
  by_cases hm : m.msgid = id
  · rw [if_pos hm]
  · rw [if_neg hm] at hid
    exact absurd hid hm

/-- The port sends until the last fragment has left, and the count comes to the end of its slot. -/
theorem exec_lastFragment {p : Fin 48} {s : State} {m : SetMsg} {b : Nat} (hm : (s.port p).msgs.find? (fun m => m.left.isNone) = some m)
    (hb : m.band = some b) : ∃ (v : State) (u : State) (a : Nat), Sends p s u ∧ v = u.advanceTo a ∧
      let cut := (s.rf (Rf.SPK_PTRG_LSEQ p) + s.rf (Rf.SPK_FMT_SET_LAT p) + 2 ^ 32 - 1) % 2 ^ 32
      exec (.settingsLastFragment p) s = .next ((((v.setPort p ((v.port p).setMsgs (leftAt m.msgid a
        (v.port p).msgs))).moveCut p m cut).setrf (Rf.SPK_SETSTAT_CUT_LSEQ p) cut).raise 0x200A p b cut) := by
  let later := ((((s.port p).msgs.filter (·.left.isNone)).drop 1).map (fun k => ceilDiv k.len 5)).sum
  let t := s.settleDn p
  let u := State.sendDn p ((t.port p).txNext + 8192) ((t.port p).dn.length - untilLast (t.port p).dn later) 8192 t
  have hsends : Sends p s u := (settleDn_sends s p).trans (sendDn_sends p _ _ _ _)
  refine ⟨_, u, ?_, hsends, rfl, ?_⟩
  rotate_left
  · show execSettingsLastFragment p s = _
    unfold execSettingsLastFragment
    rw [hm]
    dsimp only
    rw [hb]
    rfl

theorem lastFragment_leaves {p : Fin 48} {s : State} {m : SetMsg} {b : Nat} (hroom : s.evq.length < 1024)
    (hm : (s.port p).msgs.find? (fun m => m.left.isNone) = some m) (hb : m.band = some b) :
    Gives (.settingsLastFragment p) s (fun t =>
      let cut := (s.rf (Rf.SPK_PTRG_LSEQ p) + s.rf (Rf.SPK_FMT_SET_LAT p) + 2 ^ 32 - 1) % 2 ^ 32
      (⟨cut, m.ssid, m.msgid⟩ : CutRec) ∈ (t.port p).cuts ∧ t.rf (Rf.SPK_SETSTAT_CUT_LSEQ p) = cut ∧ Raised s t 0x200A p b cut ∧
      ∃ a, t.count = max s.count a ∧ ∀ k ∈ (t.port p).msgs, k.msgid = m.msgid → k.left = some a) := by
  obtain ⟨v, u, a, hsends, hv, hexec⟩ := exec_lastFragment hm hb
  have hwidth : (s.rf (Rf.SPK_PTRG_LSEQ p) + s.rf (Rf.SPK_FMT_SET_LAT p) + 2 ^ 32 - 1) % 2 ^ 32 < 2 ^ 32 := Nat.mod_lt _ (by decide)
  dsimp only at hexec ⊢
  generalize (s.rf (Rf.SPK_PTRG_LSEQ p) + s.rf (Rf.SPK_FMT_SET_LAT p) + 2 ^ 32 - 1) % 2 ^ 32 = cut at hexec hwidth ⊢
  generalize hy : v.setPort p ((v.port p).setMsgs (leftAt m.msgid a (v.port p).msgs)) = y at hexec
  have hmsgs : (y.port p).msgs = leftAt m.msgid a (v.port p).msgs := by
    rw [← hy, State.setPort_get_port, if_pos rfl, setMsgs_msgs]
  have hevq : y.evq = s.evq := by
    rw [← hy, hv]
    exact hsends.evq
  have hcount : y.count = max s.count a := by
    rw [← hy, hv]
    exact congrArg (max · a) (congrArg State.count hsends.rest :)
  refine ⟨_, hexec, ?_, ?_, raised_of_evq_eq (by exact hevq) hroom _ _ _ _, a, ?_, fun k hk hid => ?_⟩
  · rw [raise_port, State.setrf_get_port]
    have hmem := mem_cuts_moveCut y p m cut
    rw [Nat.mod_eq_of_lt hwidth] at hmem
    exact hmem
  · rw [rf_raise (key_ne_event (portKey_low p.isLt 0x140 32)), State.rf_setrf_self]
    exact Nat.mod_eq_of_lt hwidth
  · rw [raise_count]
    exact hcount
  · rw [raise_port, State.setrf_get_port, moveCut_msgs, hmsgs] at hk
    exact left_of_mem_leftAt hk hid

/-! ### What a downstream slot carries (R143, R148, R155) -/

theorem toNat_ctlMake (w : Nat) : (ctlMake w).toNat % 2 ^ 56 = w % 2 ^ 56 := by
  rw [ctlMake, BitVec.toNat_ofNat, Nat.mod_mod_of_dvd _ (Nat.pow_dvd_pow 2 (by decide)), Nat.add_mul_mod_self_right, Nat.mod_mod]

theorem dnBlock_marker {s : State} {p n j : Nat} (h : s.sentAt p n j = none) (hj : j % 4096 = 0) :
    (s.dnBlock p n j).toNat % 2 ^ 56 = (0x2D + n * 2 ^ 8 + s.stripe p * 2 ^ 16 + (s.amFirst p + j / 4096) % 2 ^ 16 * 2 ^ 24) % 2 ^ 56 := by
  have htrg : s.trgIn p n j = false := by
    unfold State.trgIn
    rw [h]
  have hslot : s.amSlot p n j = true := by
    rw [State.amSlot, htrg, decide_eq_true hj]
    rfl
  have hword : s.dnBlock p n j = s.amWord p n j := by
    unfold State.dnBlock
    rw [h]
    exact if_pos hslot
  rw [hword, State.amWord, toNat_ctlMake]
  rfl

theorem dnBlock_fill {s : State} {p n j : Nat} (h : s.sentAt p n j = none) (hj : j % 4096 ≠ 0) (htrg : s.trgIn p n (j - 1) = false) :
    s.dnBlock p n j = 0x1E := by
  have hslot : s.amSlot p n j = false := by
    rw [State.amSlot, htrg, decide_eq_false hj, Bool.false_and, Bool.and_false]
    rfl
  unfold State.dnBlock
  rw [h]
  exact if_neg (by rw [hslot]; exact Bool.false_ne_true)

/-! ### Port commands -/

/-- Settles O33. Each clause is what one command or timeout does, from the lemma about it: bring-up and its end step lane by lane
(`lanesUp_foldl`, `laneOff_foldl`), a line closed as bad leaves what the clauses read (`closeBad_rf`), and what is sent downstream
meanwhile moves the queue of its port alone (`Sends`). -/
theorem portCommands : Obligations.PortCommands := by
  unfold Obligations.PortCommands
  refine ⟨huntTimeout_tells, fun p k s hqueue => ?_⟩
  have hroom : s.evq.length < 1024 := by omega
  have hstarts {t : State} (h : Begins p s t) : t.portState p = 1 ∧ t.stripe p = 0 ∧ (t.port p).expect = s.fullMask p ∧
      (t.port p).switch = none ∧ ∀ l ∈ s.lanesOf p, t.rf (Rf.SPK_LN_STAT_BLK l) = 1 ∧ t.rf (Rf.SPK_LN_STAT_AMST l) = 0 ∧
        t.rf (Rf.SPK_LN_STAT_LOST l) = 0 := ⟨h.state, h.stripe, h.expect, h.switch, h.lanes⟩
  refine ⟨fun hoff hok => ?_, portEnable_refused hroom, fun hon => ?_, portDisable_ends, restore_switches, restore_refused hroom,
    fillColumn_inserted, fun o ho => lineTimeout_closes ho, fun m c hm hleft => sackTimeout_ends hroom hm hleft,
    silentTimeout_closes hroom, ⟨fun hon => setband_past hon hroom, fun hon hk => setband_unsplit hon hk hroom,
      fun _ hk hsplit => setband_down hk hsplit hroom, setband_arms⟩, fun m b hm hb => lastFragment_leaves hroom hm hb,
    fun n j h => ⟨dnBlock_marker h, dnBlock_fill h⟩⟩
  · obtain ⟨t, hrun, hon, hbegins⟩ := portEnable_begins hoff hok
    exact ⟨t, hrun, hon, hstarts hbegins⟩
  · obtain ⟨t, hrun, hbegins⟩ := relock_begins hon
    exact ⟨t, hrun, hstarts hbegins⟩

end Sys2Proof.Machine
end
